-- ==== Sys2Proof/Word.lean ====
section
/-!
DEFINITION. The word type of the register map and the index types of the module's units.

A register is 32 bits wide (20_register_map.md R428). The value of one field is held as a `Nat` below `2 ^ width`;
the word of a register is put together from its fields.
-/

namespace Sys2Proof

/-- One 32-bit register or message word (R428, R404). -/
abbrev Word := BitVec 32

/-- One 64-bit word of a lane frame, a fault message or a Scrim header (R258, R327, R387). -/
abbrev Word64 := BitVec 64

/-- One byte of flash or of a record (R6). -/
abbrev Byte := BitVec 8

/-- Band path n, 0 to 127 (R11, Table 5). -/
abbrev BpIx := Fin 128
/-- RF port p, 0 to 3. -/
abbrev PortIx := Fin 4
/-- Lane l, 0 to 15. -/
abbrev LaneIx := Fin 16
/-- Optical cage c, 0 to 3. -/
abbrev CageIx := Fin 4
/-- PWM channel k, 0 to 7. -/
abbrev ChanIx := Fin 8
/-- Monitor converter: 0 is A, 1 is B. -/
abbrev ConvIx := Fin 2
/-- Capture ring r, 0 to 7. -/
abbrev RingIx := Fin 8
/-- Field die e: 0 is M, 1 + p is Fp (R346). -/
abbrev DieIx := Fin 5
/-- Policy core q, 0 to 3. -/
abbrev CoreIx := Fin 4

end Sys2Proof
end

