-- ==== Sys2Proof/Syntax.lean ====
section
/-!
DEFINITION. The commands of the block: one constructor per row of the opcode table, with the operands that come from
outside (who writes, which unit, a written word, a received frame, a measurement). Operands of a physical kind are the
outcome of the measurement the spec names (log entry 4).
-/

namespace Sys2Proof

/-- Who makes a register access (R421, R422, R432, R436). A debugger acts through one core's address map. -/
inductive Requester where
  | core (q : CoreIx)
  | debugger (q : CoreIx)
  | host
  | loader
  deriving DecidableEq, Repr

/-- One frame between SOF and EOF (R259, Table 120); `words` are its data blocks. -/
structure Frame where
  cls : Fin 4
  dest : Nat
  src : Nat
  bp : Nat := 0
  member : Nat := 0
  unres : Bool := false
  isLocal : Bool := false
  ttl : Nat := 0
  rid : Bool := false
  words : List Word64
  deriving DecidableEq, Repr

/-- A grain (R46, Tables 19 to 22): ORIGIN_TS as its 80-bit value, the three fields of STREAM, VALID, FLAGS, and the 64
sample words. -/
structure Grain where
  ts : Nat
  node : Nat
  bp : Nat
  seq : Nat
  valid : BitVec 64
  flags : Word64
  samples : List Word
  deriving DecidableEq, Repr

/-- A complex sample as exact integers before any saturation (R37, R38). -/
structure IQ where
  i : Int
  q : Int
  deriving DecidableEq, Repr

/-- What a receive window's converter brings for one grain period of a band path: the converter samples since the last
one, oldest first, each within ±32,767, and how many of them saturated in the converter (R103, R107; log entry 7). -/
structure GrainInput where
  samples : List IQ
  saturated : Nat := 0
  deriving DecidableEq, Repr

/-- What the outside decides while the start sequence runs (R415): one value per physical outcome (log entry 15). -/
structure StartEnv where
  discovery : Bool := true
  readA : Bool := true
  readB : Bool := true
  selfTest : Bool := true
  holdUp : Bool := true
  memTrained : Nat := 15
  calFactors : List (Option (Int × Int)) := [some (0, 4194304), some (0, 4194304)]
  portLock : Nat := 15
  portFit : List (Option (Nat × Nat × Nat)) := [some (0, 0, 0), some (0, 0, 0), some (0, 0, 0), some (0, 0, 0)]
  deriving DecidableEq, Repr

/-- What the correlator of a band path gives for one code (R156, R158): for each of the eight sub-bands the magnitudes of
the taps of the impulse response, and σ of one tap, both in units of 2^-40 (log entry 9). -/
structure Correlation where
  taps : List (List Nat)
  sigma : List Nat
  deriving DecidableEq, Repr

/-- One estimate of a Saddle update: for the own code, and for each of the 15 entries of the watch list (R156, R161). -/
structure Estimate where
  own : Correlation
  watched : List Correlation := []
  deriving DecidableEq, Repr

/-- What the pins of a PWM channel showed in the period that ends (R299, R304): the crossing of SWNk in cycles after GH
turned off, and the highest codes of the current and the voltage sense, on the scale of monitor channels 1 + k and
5 + k. -/
structure PwmSense where
  swn : Option (BitVec 8) := none
  current : BitVec 16 := 0
  voltage : BitVec 16 := 0
  deriving DecidableEq, Repr

/-- A comparator of a line-power channel as it trips (R304, R306): that of the voltage sense or of the current sense, and the
code at or above which it has stood. -/
structure Comparison where
  volt : Bool
  code : BitVec 16
  deriving DecidableEq, Repr

/-- One spectrum of a port (R205): the power of each bin, in ascending order of bins, and how many of its samples saturated
in the observation converter. -/
structure PowerSpectrum where
  bins : List (Nat × Nat)
  saturated : Nat := 0
  deriving DecidableEq, Repr

/-- A capture descriptor as the engine reads it from host memory (Table 171). -/
structure Descriptor where
  addr : Nat
  len : Nat
  deriving DecidableEq, Repr

/-- What a read of a tile returned: its payload and the 8 bytes of its seal (R189, Table 86), an uncorrectable error, or a
corrected one; `onDie` when the read was of a Gorge tile's worth still held on die (R178). -/
structure TileRead where
  payload : List Byte := []
  sealed : List Byte := []
  ue : Bool := false
  ce : Bool := false
  onDie : Bool := false
  deriving DecidableEq, Repr

/-- What a pluggable answers when it is identified (Table 118); `power` is the declared power class in tenths of a
watt. -/
structure CageIdent where
  optical4 : Bool
  power : Nat
  deriving DecidableEq, Repr

/-- One monitoring read of a pluggable (R257, Table 118): lane masks, and receive power and bias by lane of the cage. -/
structure CageRead where
  answers : Bool
  temp : BitVec 16 := 0
  vcc : BitVec 16 := 0
  power : List Nat := []
  bias : List Nat := []
  los : BitVec 4 := 0
  txFault : BitVec 4 := 0
  rxWarn : BitVec 4 := 0
  tempAlarm : Bool := false
  deriving DecidableEq, Repr

/-- Why a lane is declared failed (R264, Table 145 DETAIL). -/
inductive LaneCause where
  | sync | link | signal | proto | crcBurst | removal
  deriving DecidableEq, Repr

/-- What the hardware records of a tagged instruction of a policy core (R383, Table 163). -/
structure Sample where
  pc : Word
  daddr : Word
  lat : BitVec 16
  flags : BitVec 7
  memLat : BitVec 16
  deriving DecidableEq, Repr

/-- The G2 mute whose HOLD time has passed (R219). -/
inductive G2Mute where
  | fine (n : BpIx)
  | ceiling (n : BpIx)
  | pilot (p : PortIx)
  | out (p : PortIx)
  deriving DecidableEq, Repr

/-- The commands of the block (spec/opcode_table.json), one constructor for each row; each docstring names the row and
the rule that the table gives it. -/
inductive Instr where
  -- start, restart and registers
  /-- POWER_GOOD (R415) -/
  | powerGood (e : StartEnv)
  /-- POWER_FAIL (R93) -/
  | powerFail
  /-- KCT_RESTART (R423) -/
  | kctRestart (who : Requester) (e : StartEnv)
  /-- DIE_B_RESET (R395) -/
  | dieBReset
  /-- DECL_RETRY (R416) -/
  | declRetry
  /-- REGISTER_WRITE (R432) -/
  | registerWrite (who : Requester) (off : BitVec 20) (w : Word)
  /-- REGISTER_READ_CLEAR (R432) -/
  | registerReadClear (who : Requester) (off : BitVec 20)
  /-- WIDE_LO_READ (R437) -/
  | wideLoRead (who : Requester) (off : BitVec 20)
  -- band paths
  /-- BP_APPLY (R58) -/
  | bpApply (n : BpIx)
  /-- BP_ENABLE (R64) -/
  | bpEnable (n : BpIx)
  /-- BP_DISABLE (R63) -/
  | bpDisable (n : BpIx)
  /-- BP_CHECK_DONE (R59) -/
  | bpCheckDone (n : BpIx)
  /-- BP_DECLARATION_APPLY (R59) -/
  | bpDeclarationApply (n : BpIx)
  /-- BP_STOP (R63) -/
  | bpStop (n : BpIx)
  /-- GRAIN_PERIOD (R50) -/
  | grainPeriod (n : BpIx) (g : GrainInput)
  /-- BAND_FRAME_RECEIVE (R182) -/
  | bandFrameReceive (l : LaneIx) (f : Frame)
  /-- GRAIN_MISSING (R54) -/
  | grainMissing (n : BpIx)
  /-- NO_GRAINS (R57) -/
  | noGrains (n : BpIx)
  -- front ends
  /-- FE_RX_ENABLE (R87) -/
  | feRxEnable (p : PortIx)
  /-- FE_RX_DISABLE (R87) -/
  | feRxDisable (p : PortIx)
  /-- FE_TX_ENABLE (R88) -/
  | feTxEnable (p : PortIx)
  /-- FE_TX_DISABLE (R88) -/
  | feTxDisable (p : PortIx)
  /-- FE_RETUNE (R79) -/
  | feRetune (p : PortIx)
  /-- FE_CAL_REQ (R83) -/
  | feCalReq (p : PortIx)
  /-- FE_LOCK_DONE (R87) -/
  | feLockDone (p : PortIx)
  /-- LOCK_TIMEOUT (R80) -/
  | lockTimeout (p : PortIx)
  /-- UNLOCK (R81) -/
  | unlock (p : PortIx)
  /-- FE_CAL_DONE (R87) -/
  | feCalDone (p : PortIx) (fit : Option (Nat × Nat × Nat))
  /-- TX_TIMEOUT (R88) -/
  | txTimeout (p : PortIx)
  /-- FE_BG_CAL_UPDATE (R84) -/
  | feBgCalUpdate (p : PortIx) (able : Bool × Bool × Bool)
  /-- CAL_STALE (R86) -/
  | calStale (p : PortIx)
  /-- FE_ATT_APPLY (R82) -/
  | feAttApply (p : PortIx)
  /-- RELAY_MOVE_START (R92) -/
  | relayMoveStart (p : PortIx)
  /-- RELAY_MOVE_END (R92) -/
  | relayMoveEnd (p : PortIx) (sensed : Fin 4)
  /-- FE_PILOT_MODE (R97) -/
  | fePilotMode (p : PortIx) (mode : Fin 4)
  /-- PILOT_LOCKED (R99) -/
  | pilotLocked (p : PortIx)
  /-- PILOT_LOW_LEVEL (R99) -/
  | pilotLowLevel (p : PortIx)
  /-- PILOT_MEASURE_DONE (R99) -/
  | pilotMeasureDone (p : PortIx) (lag1 lag2 lag3 : BitVec 40)
  -- channelizer
  /-- CHZ_SYNC (R115) -/
  | chzSync (q : CoreIx)
  /-- SYNC_RESET (R115) -/
  | syncReset (n : BpIx)
  /-- CHZ_SWAP (R123) -/
  | chzSwap (q : CoreIx) (bank : Fin 4) (fade : Fin 16)
  /-- FADE_START (R123) -/
  | fadeStart (n : BpIx)
  /-- FADE_END (R121) -/
  | fadeEnd (n : BpIx)
  /-- CHZ_CHECK (R119) -/
  | chzCheck (q : CoreIx) (bank3 : Bool)
  /-- CHZ_CHECK_DONE (R119) -/
  | chzCheckDone (n : BpIx)
  /-- CHZ_COEF_WRITE (R120) -/
  | chzCoefWrite (q : CoreIx) (w : Word)
  /-- CHZ_COEF_READ (R120) -/
  | chzCoefRead (q : CoreIx)
  -- gain control and the loop engine
  /-- TICK_BOUNDARY (R126) -/
  | tickBoundary
  /-- OVERRUN (R148) -/
  | overrun (n : BpIx) (late : Option (Fin 5))
  /-- ENGINE_ECC (R149) -/
  | engineEcc (n : BpIx)
  /-- CS_LATE (R147) -/
  | csLate (n : BpIx)
  /-- FW_CEIL_WRITE (R138) -/
  | fwCeilWrite (q : CoreIx) (slew : Bool) (v : BitVec 16)
  /-- SETA_INVALID (R143) -/
  | setaInvalid
  /-- SETP_PERIOD (R144) -/
  | setpPeriod (period high : Nat)
  /-- SETP_STUCK (R144) -/
  | setpStuck
  -- Saddle
  /-- SADDLE_UPDATE (R165) -/
  | saddleUpdate (n : BpIx) (e : Estimate)
  /-- SDL_WATCH_WRITE (R170) -/
  | sdlWatchWrite (q : CoreIx) (idx : Fin 15) (w : Word)
  /-- SDL_TARGET_WRITE (R164) -/
  | sdlTargetWrite (q : CoreIx) (v : BitVec 16)
  /-- SADDLE_DIGEST_SEND (R162) -/
  | saddleDigestSend
  /-- SDIGEST (R163) -/
  | sdigest (l : LaneIx) (f : Frame)
  /-- DIGEST_MISS (R163) -/
  | digestMiss (n : BpIx) (w : Fin 15)
  /-- G1_OVERLOAD (R168) -/
  | g1Overload (n : BpIx) (sat : Fin 65)
  /-- G1_RELEASE (R169) -/
  | g1Release (n : BpIx)
  -- delay and tiles
  /-- FLO_TARGET_COMMIT (R186) -/
  | floTargetCommit (q : CoreIx) (hi : Word)
  /-- DELAY_STEP (R188) -/
  | delayStep (n : BpIx)
  /-- FW_DLY_SLEW_WRITE (R187) -/
  | fwDlySlewWrite (v : BitVec 16)
  /-- DELAY_ESTABLISHED (R185) -/
  | delayEstablished (n : BpIx)
  /-- DELAY_LOST (R193) -/
  | delayLost (n : BpIx)
  /-- LOST_MEASURE_DONE (R194) -/
  | lostMeasureDone (n : BpIx)
  /-- DELAY_RESTORE (R195) -/
  | delayRestore (n : BpIx)
  /-- TILE_READ_DONE (R190) -/
  | tileReadDone (t : BitVec 23) (r : TileRead)
  /-- TILE_QUARANTINE_DONE (R191) -/
  | tileQuarantineDone (t : BitVec 23) (pass : Bool)
  -- emission guard
  /-- SPECTRUM_DONE (R207) -/
  | spectrumDone (p : PortIx) (power : PowerSpectrum)
  /-- G2_DECISION (R207) -/
  | g2Decision (p : PortIx)
  /-- G2_CEILING (R214) -/
  | g2Ceiling (n : BpIx) (power : Nat)
  /-- G2_RELEASE (R219) -/
  | g2Release (m : G2Mute)
  /-- FOREIGN_REGION_END (R220) -/
  | foreignRegionEnd (p : PortIx) (r : Fin 16)
  /-- PLN_T_FIRST_WRITE (R204) -/
  | plnTFirstWrite (w : Word)
  /-- PLAIN_REBUILD_DONE (R223) -/
  | plainRebuildDone (t : Fin 8192) (read : Bool)
  /-- EMIT_BACKOFF_WRITE (R216) -/
  | emitBackoffWrite (q : CoreIx) (v : BitVec 16)
  /-- PLN_RD_ADDR_WRITE (R226) -/
  | plnRdAddrWrite (w : Word)
  -- Plumb
  /-- PLUMB_UPDATE (R239) -/
  | plumbUpdate (ref : Option Int)
  /-- TIME_EX_SEND (R231) -/
  | timeExSend (phase : List Int)
  /-- TIME_EX (R233) -/
  | timeEx (l : LaneIx) (f : Frame) (rx : Int)
  /-- ANNOUNCE_SEND (R238) -/
  | announceSend
  /-- ANNOUNCE (R236) -/
  | announce (l : LaneIx) (f : Frame)
  /-- TIME_CHECK (R244) -/
  | timeCheck (l : LaneIx)
  /-- HOLD_LIMIT_EXPIRE (R237) -/
  | holdLimitExpire
  /-- PPS_IN_EDGE (R245) -/
  | ppsInEdge (edge : Int) (ref : Option Int)
  /-- PPS_IN_TIMEOUT (R245) -/
  | ppsInTimeout
  /-- REF_BAD (R246) -/
  | refBad
  /-- REF_IN_RESTORE (R246) -/
  | refInRestore
  /-- TOD_ARM (R247) -/
  | todArm (w : Word)
  /-- TOD_APPLY (R247) -/
  | todApply
  /-- PLB_TIME0_READ (R230) -/
  | plbTime0Read (who : Requester)
  /-- FW_PHASE_SLEW_WRITE (R254) -/
  | fwPhaseSlewWrite (v : BitVec 16)
  /-- PPS_OUT_PULSE (R248) -/
  | ppsOutPulse
  -- cages, lanes and the fabric
  /-- CAGE_INSERT (R257) -/
  | cageInsert (c : CageIx)
  /-- CAGE_IDENTIFIED (R257) -/
  | cageIdentified (c : CageIx) (x : CageIdent)
  /-- CAGE_REMOVE (R257) -/
  | cageRemove (c : CageIx)
  /-- CAGE_MONITOR (R257) -/
  | cageMonitor (c : CageIx) (m : CageRead)
  /-- LANE_BLOCK_LOCK (R263) -/
  | laneBlockLock (l : LaneIx)
  /-- HELLO_SEND (R263) -/
  | helloSend (l : LaneIx)
  /-- HELLO (R263) -/
  | hello (l : LaneIx) (f : Frame)
  /-- CREDIT_BLOCK (R261) -/
  | creditBlock (l : LaneIx) (content : BitVec 56)
  /-- LANE_FAIL (R264) -/
  | laneFail (l : LaneIx) (cause : LaneCause)
  /-- LANE_ENABLE (R265) -/
  | laneEnable (l : LaneIx)
  /-- LANE_DISABLE (R265) -/
  | laneDisable (l : LaneIx)
  /-- RETRAIN (R265) -/
  | retrain (l : LaneIx)
  /-- ADDR_CLAIM (R266) -/
  | addrClaim
  /-- ADDR_RECLAIM (R267) -/
  | addrReclaim
  /-- LSA_FLOOD (R269) -/
  | lsaFlood
  /-- LSA (R269) -/
  | lsa (l : LaneIx) (f : Frame)
  /-- LSA_EXPIRE (R269) -/
  | lsaExpire (uid : Nat)
  /-- ROUTE_COMPUTE_DONE (R270) -/
  | routeComputeDone
  /-- FRAME_FORWARD (R260) -/
  | frameForward (l : LaneIx) (f : Frame)
  /-- SUB_REQ (R273) -/
  | subReq (l : LaneIx) (f : Frame)
  /-- SUB_NAK (R273) -/
  | subNak (l : LaneIx) (f : Frame)
  /-- RESV (R273) -/
  | resv (l : LaneIx) (f : Frame)
  /-- RESV_NAK (R273) -/
  | resvNak (l : LaneIx) (f : Frame)
  /-- SUB_ACK (R273) -/
  | subAck (l : LaneIx) (f : Frame)
  /-- SUB_TIMEOUT (R273) -/
  | subTimeout (n : BpIx)
  /-- GRAIN_ACK_SEND (R275) -/
  | grainAckSend
  /-- GRAIN_ACK (R275) -/
  | grainAck (l : LaneIx) (f : Frame)
  /-- RELEASE (R274) -/
  | release (l : LaneIx) (f : Frame)
  /-- UNSUB (R274) -/
  | unsub (l : LaneIx) (f : Frame)
  /-- REPAIR (R277) -/
  | repair (l : LaneIx) (f : Frame)
  /-- REPAIR_REPORT (R277) -/
  | repairReport (l : LaneIx) (f : Frame)
  /-- STREAM_REESTABLISH (R274) -/
  | streamReestablish (n : BpIx)
  /-- UNRES_TIMEOUT (R276) -/
  | unresTimeout (l : LaneIx)
  -- line power
  /-- PWM_PERIOD_END (R298) -/
  | pwmPeriodEnd (k : ChanIx) (x : PwmSense)
  /-- PWM_FALL_WRITE (R298) -/
  | pwmFallWrite (k : ChanIx) (w : Word)
  /-- PWM_MODE_WRITE (R297) -/
  | pwmModeWrite (k : ChanIx) (mode : Fin 4)
  /-- PWM_ARM (R310) -/
  | pwmArm (k : ChanIx) (arm : Bool)
  /-- PWM_FW_LIMIT_WRITE (R303) -/
  | pwmFwLimitWrite (k : ChanIx) (which : Fin 3) (v : BitVec 16)
  /-- G3_TRIP (R306) -/
  | g3Trip (k : ChanIx) (x : Comparison)
  /-- FLT_ACTIVATE (R308) -/
  | fltActivate (x : Fin 4)
  /-- FLT_LATCH_CLEAR (R309) -/
  | fltLatchClear (x : Fin 4)
  /-- PWM_FINE_CAL (R301) -/
  | pwmFineCal (ok : Bool)
  /-- CLK_STOP (R310) -/
  | clkStop
  /-- DEBUG_HALT (R422) -/
  | debugHalt (q : CoreIx)
  -- monitor converters
  /-- MON_REF_EN (R319) -/
  | monRefEn (x : ConvIx) (on : Bool)
  /-- MON_REF_READY (R319) -/
  | monRefReady (x : ConvIx)
  /-- MON_CAL (R320) -/
  | monCal (x : ConvIx)
  /-- MON_CAL_DONE (R320) -/
  | monCalDone (x : ConvIx) (factors : Option (Int × Int))
  /-- MON_CONVERSION_DONE (R321) -/
  | monConversionDone (x : ConvIx) (code : BitVec 16)
  /-- PL_STALE (R322) -/
  | plStale
  /-- MON_URGENT (R323) -/
  | monUrgent (x : ConvIx) (w : Word)
  /-- MON_QUEUE_READ (R325) -/
  | monQueueRead (q : CoreIx) (x : ConvIx)
  -- faults
  /-- FAULT_MESSAGE (R330) -/
  | faultMessage
  /-- FAULT_CLEAR (R327) -/
  | faultClear
  /-- FCL_ACK (R336) -/
  | fclAck (who : Requester) (tag : BitVec 8)
  /-- FCL_ACK_INJ (R336) -/
  | fclAckInj (q : CoreIx) (tag : BitVec 8)
  /-- FCL_ACK_CLASS (R336) -/
  | fclAckClass (q : CoreIx) (w : Word)
  /-- FCL_RELEASE (R339) -/
  | fclRelease (q : CoreIx) (w : Word)
  /-- FCL_INJECT (R341) -/
  | fclInject (q : CoreIx) (w : Word)
  /-- FENCE_RECOVERY (R337) -/
  | fenceRecovery (u : BitVec 8)
  /-- ALIVE_TOGGLE (R340) -/
  | aliveToggle
  -- temperature
  /-- THERMAL_SAMPLE (R347) -/
  | thermalSample (e : DieIx) (reading : Option (BitVec 16))
  /-- G4_TEMP (R353) -/
  | g4Temp (e : DieIx)
  /-- THERMAL_HOLD (R355) -/
  | thermalHold (running : Bool)
  /-- THERMAL_RESTART (R356) -/
  | thermalRestart (e : StartEnv)
  /-- FW_WARN_WRITE (R359) -/
  | fwWarnWrite (e : DieIx) (v : BitVec 16)
  -- Fresco
  /-- FRESCO_RECORD_WRITE (R361) -/
  | frescoRecordWrite (ue : Bool)
  /-- BB_FLUSH (R363) -/
  | bbFlush (ok : Bool)
  /-- FRESCO_MARK (R364) -/
  | frescoMark
  /-- FLOOD_END (R366) -/
  | floodEnd
  /-- FRS_CLEAR (R369) -/
  | frsClear (who : Requester) (w : Word)
  /-- FRS_ERASE_DONE (R369) -/
  | frsEraseDone
  /-- CLR_LOCK_END (R369) -/
  | clrLockEnd
  /-- FRS_RD_SEL_WRITE (R365) -/
  | frsRdSelWrite (w : Word)
  /-- FRS_COPY_DONE (R365) -/
  | frsCopyDone
  /-- FIRMWARE (R360) -/
  | firmware (q : CoreIx)
  -- counters
  /-- GATHER_BOUNDARY (R375) -/
  | gatherBoundary
  /-- GATHER_PUBLISH (R376) -/
  | gatherPublish (late : Bool)
  /-- CNT_LO_READ (R377) -/
  | cntLoRead (who : Requester) (c : Fin 224)
  /-- CNT_SEL_WRITE (R381) -/
  | cntSelWrite (who : Requester) (c : Fin 224) (w : Word)
  /-- HOLD_TO (R378) -/
  | holdTo
  /-- PRECISE_SAMPLE (R383) -/
  | preciseSample (q : CoreIx) (x : Sample)
  /-- CNT_PS_DATA_READ (R383) -/
  | cntPsDataRead (who : Requester)
  -- Scrim and the host
  /-- SCRIM_REQ (R388) -/
  | scrimReq
  /-- SCRIM_RSP (R389) -/
  | scrimRsp
  /-- HOST_FIELD_ACCESS (R389) -/
  | hostFieldAccess (off : BitVec 20) (wide : Bool) (write : Option Word64) (masked : Bool)
  /-- SCR_HSYNC_READ (R388) -/
  | scrHsyncRead
  /-- FIELD_DOWN (R390) -/
  | fieldDown
  /-- HOST_ABSENT (R391) -/
  | hostAbsent
  /-- SCRIM_LANE_DROP (R386) -/
  | scrimLaneDrop (toHost : Bool)
  /-- SCRIM_SYNC (R288) -/
  | scrimSync (toHost toField : Fin 9)
  /-- SCRIM_CREDIT_RETURN (R288) -/
  | scrimCreditReturn
  /-- EVT_MESSAGE (R397) -/
  | evtMessage
  /-- MSIX_UNMASK (R397) -/
  | msixUnmask (v : BitVec 5)
  /-- SCR_FW_IRQ_WRITE (R397) -/
  | scrFwIrqWrite (q : CoreIx) (w : Word)
  /-- PCIE_ERROR (R394) -/
  | pcieError (k : Fin 8) (r : RingIx)
  /-- PCIE_RETRAIN (R393) -/
  | pcieRetrain (gen : Fin 8) (width : Fin 32)
  /-- DMA_ENABLE (R403) -/
  | dmaEnable (r : RingIx) (w : Word)
  /-- DMA_HEAD_WRITE (R400) -/
  | dmaHeadWrite (r : RingIx) (w : Word)
  /-- CAPTURE_GRAIN (R398) -/
  | captureGrain (r : RingIx) (d : Descriptor)
  /-- DMA_BUFFER_CLOSE (R401) -/
  | dmaBufferClose (r : RingIx)
  /-- DMA_FLUSH_TIMEOUT (R401) -/
  | dmaFlushTimeout (r : RingIx)
  /-- DMA_HOLDOFF_EXPIRE (R401) -/
  | dmaHoldoffExpire (r : RingIx)
  /-- DMA_ERR (R394) -/
  | dmaErr (r : RingIx)
  /-- DIE_B_TEMP_SAMPLE (R405) -/
  | dieBTempSample (t : BitVec 16)
  /-- MBX_SEND (R404) -/
  | mbxSend
  /-- MBX_POP (R404) -/
  | mbxPop
  /-- SCR_MB_SEND (R404) -/
  | scrMbSend (q : CoreIx)
  /-- SCR_MB_POP (R404) -/
  | scrMbPop (q : CoreIx)
  /-- VERSION (R404) -/
  | version (q : CoreIx)
  /-- BP_STAGE (R404) -/
  | bpStage (q : CoreIx)
  /-- MBX_BP_ENABLE (R404) -/
  | mbxBpEnable (q : CoreIx)
  /-- DELAY (R404) -/
  | delay (q : CoreIx)
  /-- CEILING (R404) -/
  | ceiling (q : CoreIx)
  -- Key coat updates and the policy cores
  /-- KCT_UPD_START (R423) -/
  | kctUpdStart (who : Requester)
  /-- KCT_UPD_DATA_WRITE (R423) -/
  | kctUpdDataWrite (who : Requester) (w : Word)
  /-- KCT_UPD_COMMIT (R423) -/
  | kctUpdCommit (who : Requester)
  /-- KCT_UPD_ABORT (R427) -/
  | kctUpdAbort (who : Requester)
  /-- KCT_VERIFY_DONE (R423) -/
  | kctVerifyDone (readback : Bool)
  /-- PCR_KICK (R421) -/
  | pcrKick (q : CoreIx) (w : Word)
  /-- CORE_WDG (R421) -/
  | coreWdg (q : CoreIx) (ecc : Bool)
  /-- CORE_ACCESS_FAULT (R421) -/
  | coreAccessFault (q : CoreIx) (addr : Word)
  /-- BME_OFF (R395) -/
  | bmeOff
  /-- FLT_INACTIVE (R309) -/
  | fltInactive (x : Fin 4)
  /-- LINK_BLOCK (R263) -/
  | linkBlock (l : LaneIx) (content : BitVec 56)
  /-- FRAME_ERR (R259) -/
  | frameErr (l : LaneIx) (cls : Fin 4) (len : Fin 65)
  /-- BULK_FRAME (R278) -/
  | bulkFrame (l : LaneIx) (f : Frame)
  /-- MSG_DISCARD (R278) -/
  | msgDiscard (l : LaneIx) (f : Frame)
  /-- KCT_UPD_ERASE_DONE (R423) -/
  | kctUpdEraseDone
  /-- UPDATE_WINDOW_TIMEOUT (R424) -/
  | updateWindowTimeout
  deriving DecidableEq, Repr

end Sys2Proof
end

