-- ==== Sys2Proof/WellFormed.lean ====
section
/-!
DEFINITION. Which operands of a command the outside can give (R46, R259, R8, Table 118, Table 171): sizes and ranges that
the types of the syntax leave open. The meanings are total; they run on any operand.
-/

namespace Sys2Proof

/-- The data blocks of a frame by class (R259), and the ranges of the SOF fields (Table 120). -/
def Frame.wf (f : Frame) : Bool :=
  decide (f.dest < 4096 ∧ f.src < 4096 ∧ f.bp < 128 ∧ f.member < 4 ∧ f.ttl < 64) &&
    match f.cls with
    | 0 => f.words.length == 4
    | 1 => f.words.length == 36
    | _ => decide (1 ≤ f.words.length ∧ f.words.length ≤ 64)

/-- Converter samples lie within full scale (R37). -/
def GrainInput.wf (g : GrainInput) : Bool := g.samples.all fun x => decide (x.i.natAbs ≤ 32767 ∧ x.q.natAbs ≤ 32767)

/-- Eight sub-bands (R156). -/
def Correlation.wf (c : Correlation) : Bool := c.taps.length == 8 && c.sigma.length == 8

/-- The own code and at most 15 watched ones (R161). -/
def Estimate.wf (e : Estimate) : Bool := e.own.wf && e.watched.all Correlation.wf && decide (e.watched.length ≤ 15)

/-- A payload of 4,096 bytes and a seal of 8 (Table 86); a read that fails brings neither. -/
def TileRead.wf (r : TileRead) : Bool :=
  r.ue || (r.payload.length == 4096 && r.sealed.length == 8)

/-- ADDR of 64 bits and LEN of 32 (Table 171). -/
def Descriptor.wf (d : Descriptor) : Bool := decide (d.addr < 2 ^ 64 ∧ d.len < 2 ^ 32)

/-- Receive power and bias of four lanes (Table 118). -/
def CageRead.wf (m : CageRead) : Bool := !m.answers || (m.power.length == 4 && m.bias.length == 4)

/-- One outcome for each channel, port and converter (R415). -/
def StartEnv.wf (e : StartEnv) : Bool :=
  decide (e.memTrained < 16 ∧ e.portLock < 16) && e.calFactors.length == 2 && e.portFit.length == 4

/-- The loader stores to 32-bit registers (R428). A core, a debugger and the host may name any byte: what an access that is
not aligned does, R394 and R435 say. -/
def offsetOk (who : Requester) (off : BitVec 20) : Bool :=
  match who with
  | .loader => off.toNat % 4 == 0
  | _ => true

/-- The commands whose operands the outside can give. -/
def Instr.wf (i : Instr) : Bool :=
  match i with
  | .powerGood e => e.wf
  | .kctRestart _ e => e.wf
  | .thermalRestart e => e.wf
  | .registerWrite who off _ => offsetOk who off
  | .registerReadClear who off => offsetOk who off
  | .wideLoRead who off => offsetOk who off
  | .hostFieldAccess off _ _ _ => decide (off.toNat < 0x80000)
  | .grainPeriod _ g => g.wf
  | .saddleUpdate _ e => e.wf
  | .tileReadDone _ r => r.wf
  | .captureGrain _ d => d.wf
  | .cageMonitor _ m => m.wf
  | .bandFrameReceive _ f => f.wf && f.cls == 1
  | .timeEx _ f _ => f.wf && f.cls == 0
  | .sdigest _ f => f.wf && f.cls == 2
  | .announce _ f => f.wf && f.cls == 0
  | .hello _ f => f.wf && f.cls == 2
  | .lsa _ f => f.wf && f.cls == 2
  | .subReq _ f => f.wf && f.cls == 2
  | .subNak _ f => f.wf && f.cls == 2
  | .resv _ f => f.wf && f.cls == 2
  | .resvNak _ f => f.wf && f.cls == 2
  | .subAck _ f => f.wf && f.cls == 2
  | .grainAck _ f => f.wf && f.cls == 2
  | .release _ f => f.wf && f.cls == 2
  | .unsub _ f => f.wf && f.cls == 2
  | .repair _ f => f.wf && f.cls == 2
  | .repairReport _ f => f.wf && f.cls == 2
  | .bulkFrame _ f => f.wf && f.cls == 3
  | .msgDiscard _ f => f.wf && f.cls == 2
  | .frameForward _ f => f.wf
  | .setpPeriod period high => decide (0 < period ∧ high ≤ period)
  | .spectrumDone _ power => decide (power.bins.Pairwise fun a b => a.1 < b.1)
  | .lsaExpire uid => decide (uid < 2 ^ 64)
  | _ => true

end Sys2Proof
end

