-- ==== Sys2Proof/Decode.lean ====
section
/-!
DEFINITION. The words of the command table. The spec gives no row of spec/opcode_table.json any bits: commands come from
outside as register accesses, messages and events. So no word spells a command.
-/

namespace Sys2Proof

/-- The command that a word of `nbits` bits spells: none, as no row of the table has bits. -/
def decodeTableWord (_nbits _w : Nat) : Option Instr := none

end Sys2Proof
end

