-- ==== Sys2Proof/Config.lean ====
section
/-!
DEFINITION. What an implementation fixes and the spec does not state: free values without a body, so that no proof can
see a number the manual does not give.
-/

namespace Sys2Proof.Config

/-- The k-th word that the spec leaves undefined where the block goes on (log entry 16). -/
opaque freeWord (k : Nat) : Word

/-- The k-th random 64-bit nonce of Fresco (R369). -/
opaque nonce (k : Nat) : Word64

/-- The factory receive and transmit latencies of port p and LO segment, in delay quanta (R75: 140 to 160 ns and 90 to
110 ns); the factory data are not in the spec (log entry 20). -/
opaque rxLatency (port seg : Nat) : Nat
opaque txLatency (port seg : Nat) : Nat

/-- Factory coefficients of banks 0 and 1, by tap (Table 54): 18-bit numbers the spec does not list. Bank 0 is linear
phase, so its first 96 taps give it whole (log entry 10). -/
opaque factoryCoef (bank tap : Nat) : BitVec 18

/-- The free taps of the halfbands, by odd distance 2i + 1 from the centre, and the first half of the prototypes of the
resamplers RSD and RSI, in 1,024ths of a sample (Table 50, R112; log entry 10). -/
opaque hbTap (i : Nat) : BitVec 18
opaque rsdHalf (i : Nat) : BitVec 18
opaque rsiHalf (i : Nat) : BitVec 18

/-- The factory group-delay table of a port, chain and LO segment: 65 values in delay quanta (R110; log entry 20). -/
opaque gdTable (port chain seg i : Nat) : Int

/-- The factory phase table beside it: 65 phase deviations in 2^-32 turn (R110; log entry 20). -/
opaque phTable (port chain seg i : Nat) : Int

/-- By how much the entry of the fixed level table for y departs from the exact logarithm, in units of 2^-8 × 0.002 dB,
before the bound of ±0.001 dB (R130; log entry 8). -/
opaque levelError (y : Nat) : Int

/-- The k-th elastic-buffer phase that Plumb measures at an entry to UP, in delay quanta (R32, R263). -/
opaque elasticPhase (k : Nat) : Int

/-- Free shares of the issue states of policy core q from cycle k on (R382), and the cycles from cycle k on in which the
request queue of memory channel m is full (Table 162): log entry 32. -/
opaque issueShare (k q i : Nat) : Nat
opaque queueFull (k m : Nat) : Nat

/-- The fixed digital turnaround of port p as pilot responder, in delay quanta (R101; log entry 20). -/
opaque pilotTurnaround (port : Nat) : Nat

end Sys2Proof.Config
end

