-- ==== Sys2Proof/Machine/Store.lean ====
section
/-!
DEFINITION. Sparse stores: lists of (key, value) pairs in one canonical form, keys strictly rising and no entry equal
to what an unlisted key reads as. Registers, flash bytes, counters and the per-unit records are held in them, so that
equal contents are equal data.
-/

namespace Sys2Proof.Machine

/-- A sparse store of values by key. What an unlisted key reads as is a function of the key, given to every access. -/
abbrev Store (α : Type) := List (Nat × α)

/-- The value at key `k`; an unlisted key reads as `d k`. -/
def Store.get {α : Type} (d : Nat → α) : Store α → Nat → α
  | [], k => d k
  | (j, v) :: rest, k => if k < j then d k else if k = j then v else Store.get d rest k

/-- Put `v` at key `k` in front of `rest`, or nothing where an unlisted key already reads as `v`. -/
def Store.cons {α : Type} [DecidableEq α] (d : Nat → α) (k : Nat) (v : α) (rest : Store α) : Store α :=
  if v = d k then rest else (k, v) :: rest

/-- The store with `v` at key `k`, in canonical form. -/
def Store.set {α : Type} [DecidableEq α] (d : Nat → α) : Store α → Nat → α → Store α
  | [], k, v => Store.cons d k v []
  | (j, u) :: rest, k, v =>
    if k < j then Store.cons d k v ((j, u) :: rest)
    else if k = j then Store.cons d k v rest
    else (j, u) :: Store.set d rest k v

/-- The canonical form: every key is at least `lo`, keys rise strictly, no entry holds its default. -/
def Store.wfFrom {α : Type} [DecidableEq α] (d : Nat → α) : Nat → Store α → Bool
  | _, [] => true
  | lo, (k, v) :: rest => decide (lo ≤ k) && decide (v ≠ d k) && Store.wfFrom d (k + 1) rest

/-- The canonical form of a whole store. -/
def Store.wf {α : Type} [DecidableEq α] (d : Nat → α) (m : Store α) : Bool := Store.wfFrom d 0 m

end Sys2Proof.Machine
end

