-- ==== Sys2Proof/Machine/Registers.lean ====
section
/-!
DEFINITION. The register map (20_register_map.md R428, R429, Table 191): every field of every register table of the
spec, under the register's and the field's own names, with its place, its access code (R12, R432) and its reset value
(R13). RSVD fields read 0 and take no write (R14), so they have no entry.
-/

namespace Sys2Proof.Machine

/-- Access codes of Table 6 (R12); Table 192 states them in full (R432). -/
inductive Access where
  | ro | rw | w1c | rc | kl | fw
  deriving DecidableEq, Repr

/-- How the instances of a register are reached (R429, R436). -/
inductive Reach where
  /-- at base + stride * i -/
  | plain
  /-- behind the block's select window, `sub` registers in a row for each band path; host view at + 0x100 -/
  | window (sub : Nat)
  /-- one copy for each requester: policy cores 0 to 3 and the loader (R436) -/
  | perRequester
  deriving DecidableEq, Repr

/-- One row of a register table. `rst` is the Reset column; KC, X and factory stand as 0 (log entry 1). -/
structure FieldRow where
  off : Nat
  stride : Nat
  count : Nat
  reach : Reach
  lo : Nat
  width : Nat
  access : Access
  rst : Nat
  deriving DecidableEq, Repr

/-- Every field of the register map, named register_field as the spec names register.field. -/
inductive Field where
  | KCT_STATUS_STATE
  | KCT_STATUS_SLOT
  | KCT_STATUS_FALLBACK
  | KCT_STATUS_LOCKED
  | KCT_STATUS_SLOT_A_OK
  | KCT_STATUS_SLOT_B_OK
  | KCT_STATUS_FAIL_A
  | KCT_STATUS_FAIL_B
  | KCT_SEQ_SEQ
  | KCT_TIMES_T_BAND
  | KCT_TIMES_T_PLUMB
  | KCT_ID_M_STEP
  | KCT_ID_FE_STEP
  | KCT_ID_KC_FORMAT
  | KCT_ID_FW_MAJOR
  | KCT_CFG_HOST_UPD_EN
  | KCT_CFG_DEBUG_EN
  | KCT_UPD_CTRL_START
  | KCT_UPD_CTRL_COMMIT
  | KCT_UPD_CTRL_ABORT
  | KCT_UPD_STATUS_USTATE
  | KCT_UPD_STATUS_WAITING
  | KCT_UPD_STATUS_UREJECT
  | KCT_UPD_STATUS_UFAIL
  | KCT_UPD_STATUS_OWNER
  | KCT_UPD_ADDR_ADDR
  | KCT_UPD_DATA_DATA
  | KCT_RESTART_KEY
  | KCT_COUNT_KL_WRITES
  | KCT_COUNT_UPDATES
  | PCR_CTRL_RUN
  | PCR_CTRL_HALTED
  | PCR_CTRL_WDG_MS
  | PCR_KICK_KICK
  | PCR_FAULT_ADDR
  | PCR_COUNT_RESTARTS
  | PCR_COUNT_FAULTS
  | FCL_CTRL_ACK
  | FCL_CTRL_ACK_INJ
  | FCL_CTRL_ACK_TAG
  | FCL_STATUS_MAX_FENCE
  | FCL_STATUS_ALIVE_RUN
  | FCL_STATUS_FACTORY
  | FCL_STATUS_LATCHED
  | FCL_STATUS_INJ_LATCHED
  | FCL_STATUS_REL_REFUSED
  | FCL_STATUS_ACK_REFUSED
  | FCL_STATUS_INJ_REFUSED
  | FCL_STATUS_BYPASS
  | FCL_ACK_CLASS_SOURCE
  | FCL_ACK_CLASS_CAUSE
  | FCL_ACK_CLASS_ALL
  | FCL_ACK_CLASS_GO
  | FCL_ACK_CLASS_INJ
  | FCL_RELEASE_UNIT
  | FCL_RELEASE_GO
  | FCL_LIMIT_QUIET
  | FCL_LIMIT_RECOV_MAX
  | FCL_FW_QUIET_FW_QUIET
  | FCL_COUNT_NOTICES
  | FCL_COUNT_MERGED
  | FCL_FIRST_MSG
  | FCL_FIRST_INFO_TAG
  | FCL_FIRST_INFO_EFF_LEVEL
  | FCL_FIRST_INFO_ESCALATED
  | FCL_FIRST_INFO_GONE
  | FCL_FIRST_INFO_OVF
  | FCL_FIRST_INFO_OVF_COUNT
  | FCL_INJ_MSG
  | FCL_INJ_INFO_TAG
  | FCL_INJ_INFO_EFF_LEVEL
  | FCL_INJ_INFO_ESCALATED
  | FCL_INJ_INFO_GONE
  | FCL_INJ_INFO_OVF
  | FCL_INJ_INFO_OVF_COUNT
  | FCL_INJECT_LO_W0
  | FCL_INJECT_HI_DETAIL
  | FCL_CLASS_SEL_SOURCE
  | FCL_CLASS_SEL_CAUSE
  | FCL_CLASS_SEL_INJ
  | FCL_CLASS_OPEN
  | FCL_CLASS_LEVEL
  | FCL_UNIT_FENCE
  | FCL_UNIT_OWN
  | FCL_UNIT_COND
  | FCL_UNIT_LIMITED
  | FCL_UNIT_LAST_CAUSE
  | FCL_UNIT_RECOV_HOUR
  | FCL_UNIT_RECOVERIES
  | FRS_STATUS_MEDIUM_FAIL
  | FRS_STATUS_FLOOD
  | FRS_STATUS_BB_FAIL
  | FRS_STATUS_CLEARING
  | FRS_STATUS_CLR_REFUSED
  | FRS_STATUS_CLR_LOCK
  | FRS_STATUS_FLUSH_WAIT
  | FRS_NEXT_LO_SEQ
  | FRS_NEXT_HI_SEQ
  | FRS_FLUSHED_LO_SEQ
  | FRS_FLUSHED_HI_SEQ
  | FRS_OLDEST_LO_SEQ
  | FRS_OLDEST_HI_SEQ
  | FRS_BB_NEWEST
  | FRS_QUEUE_LEVEL
  | FRS_COUNT_SUMMARIES
  | FRS_COUNT_COALESCED
  | FRS_COUNT1_FLASH_ERR
  | FRS_NONCE_LO_NONCE
  | FRS_NONCE_HI_NONCE
  | FRS_CLR_ID_INDEX
  | FRS_CLR_CODE_LO_CODE
  | FRS_CLR_CODE_HI_CODE
  | FRS_RD_SEL_SLOT
  | FRS_RD_SEL_SRC
  | FRS_RD_SEL_READY
  | FRS_AUTH_ID_ID
  | FRS_FW_BODY_DATA
  | FRS_FW_CTRL_COMMIT
  | FRS_FW_CTRL_SOURCE
  | FRS_WIN_BYTES
  | CNT_CTRL_FW_HOLD
  | CNT_CTRL_HOST_HOLD
  | CNT_CTRL_HOST_RD
  | CNT_CTRL_HOST_PROG
  | CNT_STATUS_HELD
  | CNT_STATUS_HOLD_TO
  | CNT_STATUS_HOST_REFUSED
  | CNT_STATUS_GATHER_LATE
  | CNT_GATHER_GATHER
  | CNT_GTIME_TIME
  | CNT_PS_CTRL_EN
  | CNT_PS_CTRL_CORES
  | CNT_PS_CTRL_WRAP
  | CNT_PS_CTRL_JITTER
  | CNT_PS_CTRL_PERIOD
  | CNT_PS_STATUS_LEVEL
  | CNT_PS_STATUS_DROPPED
  | CNT_PS_DATA_WORD
  | CNT_PS_WIN_WORD
  | CNT_LO_COUNT_LO
  | CNT_HI_COUNT_HI
  | CNT_HI_OVF
  | CNT_HI_PEND
  | CNT_SEL_EVENT
  | CNT_SEL_GROUP
  | CNT_SEL_UNIT
  | CNT_SEL_QUAL
  | CNT_SEL_ZERO
  | THM_TEMP_TEMP
  | THM_TEMP_FAST
  | THM_TEMP_SUSPECT
  | THM_TEMP_WARN
  | THM_TEMP_TRIPPED
  | THM_LIM_WARN
  | THM_LIM_TRIP
  | THM_LIM1_RESTART
  | THM_LIM1_FW_WARN
  | THM_RATE_RISE
  | THM_RATE_MAX_T
  | THM_COUNT_WARN_EVENTS
  | THM_COUNT_SUSPECT_EVENTS
  | THM_CFG_XCHK_TOL
  | THM_CFG_RISE_LIM
  | THM_FLASH_T_FLASH
  | THM_FLASH_WIN_OPEN
  | THM_FLASH_WAITED
  | THM_SHUT_RESTARTS
  | THM_SHUT_LAST_SHUT
  | THM_SHUT_ABORTED
  | THM_SHUT_SHUT_TOTAL
  | THM_FLASH_OFS_FLASH_DELTA
  | MON_CTRL_SCAN_EN
  | MON_CTRL_REF_EN
  | MON_CTRL_CAL
  | MON_STATUS_REF_READY
  | MON_STATUS_CALIBRATING
  | MON_STATUS_CAL_OK
  | MON_STATUS_CAL_FAIL
  | MON_STATUS_CAL_REFUSED
  | MON_STATUS_URG_REFUSED
  | MON_STATUS_Q_OVF
  | MON_STATUS_URG_BUSY
  | MON_STATUS_URG_PEND
  | MON_SCAN_MASK
  | MON_URGENT_CH
  | MON_URGENT_TAG
  | MON_QUEUE_ENTRY
  | MON_QLEVEL_LEVEL
  | MON_QLEVEL_Q_DROP
  | MON_COUNT_URG_LOST
  | MON_COUNT_ABORTS
  | MON_CAL_OFS_OFS
  | MON_CAL_GAIN_GAIN
  | MON_CONV_CONVERSIONS
  | MON_MODE_SVC
  | MON_PLAUS_DIFF
  | MON_PLAUS_PL_OK
  | MON_PLAUS_PL_FAIL
  | MON_PLAUS_PL_STALE
  | MON_PL_LIM_PL_TOL
  | MON_LAST_CODE
  | MON_LAST_CONV
  | MON_LAST_VALID
  | MON_LAST_FLAGGED
  | PWM_CTRL_ARM
  | PWM_CTRL_MODE
  | PWM_CTRL_STRETCH
  | PWM_CTRL_ADAPT
  | PWM_STATUS_STATE
  | PWM_STATUS_LATE
  | PWM_STATUS_FULL
  | PWM_STATUS_DUTY_CLAMP
  | PWM_STATUS_H_G3
  | PWM_STATUS_H_FENCE
  | PWM_STATUS_H_RELAY
  | PWM_STATUS_G3_OC
  | PWM_STATUS_G3_OV
  | PWM_STATUS_MODE_REFUSED
  | PWM_PER_COUNT
  | PWM_PER_FINE
  | PWM_RISE_COUNT
  | PWM_RISE_FINE
  | PWM_FALL_COUNT
  | PWM_FALL_FINE
  | PWM_DT_DT_RISE
  | PWM_DT_DT_FALL
  | PWM_DT_DT_MARGIN
  | PWM_DT_DT_LAST
  | PWM_LIM_DT_MIN
  | PWM_LIM_MIN_PULSE
  | PWM_LIM_SAFE
  | PWM_LIM_BLANK_SRC
  | PWM_LIM_BLANK_EN
  | PWM_DUTY_MAX_DUTY
  | PWM_DUTY_FW_MAX_DUTY
  | PWM_SLEW_DUTY_SLEW
  | PWM_SENSE_BLANK
  | PWM_SENSE_FILT
  | PWM_ILIM_I_LIM
  | PWM_ILIM_FW_I_LIM
  | PWM_VLIM_V_LIM
  | PWM_VLIM_FW_V_LIM
  | PWM_COUNT_SHORT_PULSES
  | PWM_COUNT_LATE_COMMITS
  | PWM_COUNT1_SWN_MISS
  | PWM_COUNT1_G3_TRIPS
  | PWM_FLT_MAP_MAP0
  | PWM_FLT_MAP_MAP1
  | PWM_FLT_MAP_MAP2
  | PWM_FLT_MAP_MAP3
  | PWM_FLT_POL
  | PWM_FLT_ACT
  | PWM_FLT_LATCH
  | PWM_FLT_FLT_EVENTS
  | PWM_GLOBAL_CAL_OK
  | PWM_GLOBAL_CAL_FAIL
  | PWM_GLOBAL_CLK_STOP
  | PWM_GLOBAL_DBG_SAFE
  | SCR_FSTATUS_HOST_UP
  | SCR_FSTATUS_LANES_RX
  | SCR_FCREDIT_RSP
  | SCR_FCREDIT_EVT
  | SCR_FCREDIT_MBX_TX
  | SCR_FCREDIT_CAP8
  | SCR_FW_IRQ_RAISE
  | SCR_MB_CTRL_SEND
  | SCR_MB_CTRL_POP
  | SCR_MB_CTRL_TX_FULL
  | SCR_MB_CTRL_RX_LEVEL
  | SCR_MB_TX_WORD
  | SCR_MB_RX_WORD
  | MEM_CH_TRAINED
  | MEM_CH_UE
  | MEM_CH_CE
  | MEM_UE_TILE_TILE
  | BP_CTRL_ENABLE
  | BP_CTRL_APPLY
  | BP_CTRL_MUTE
  | BP_CTRL_SPAN
  | BP_STATUS_STATE
  | BP_STATUS_PENDING
  | BP_STATUS_REJECT
  | BP_STATUS_BUSY
  | BP_STATUS_STEP
  | BP_STATUS_GAP
  | BP_STATUS_LATE
  | BP_STATUS_SUBST_GRAINS
  | BP_ROUTE_SRC_KIND
  | BP_ROUTE_SRC_PORT
  | BP_ROUTE_SRC_NODE
  | BP_ROUTE_SRC_BP
  | BP_ROUTE_DST_KIND
  | BP_ROUTE_DST_PORT
  | BP_ROUTE_STRIPE
  | BP_ROUTE_GROUP
  | BP_FREQ_FREQ
  | BP_DST_FREQ_FREQ
  | BP_GAIN_GAIN_NOW
  | BP_GAIN_LEVEL_SP
  | CHZ_SEL_N
  | CHZ_CTRL_SYNC
  | CHZ_CTRL_SWAP
  | CHZ_CTRL_REQ_BANK
  | CHZ_CTRL_FADE
  | CHZ_CTRL_CHECK
  | CHZ_CTRL_CHK_BANK
  | CHZ_BANK_STATUS_ACTIVE
  | CHZ_BANK_STATUS_PEND_BANK
  | CHZ_BANK_STATUS_PENDING
  | CHZ_BANK_STATUS_FADING
  | CHZ_BANK_STATUS_WR_REFUSED
  | CHZ_BANK_STATUS_SWAP_REFUSED
  | CHZ_BANK_STATUS_OK2
  | CHZ_BANK_STATUS_OK3
  | CHZ_BANK_STATUS_CHECKING
  | CHZ_BANK_STATUS_LOST_SWAP
  | CHZ_CHAIN_D
  | CHZ_CHAIN_BYPASS
  | CHZ_SETTLE_COUNT
  | CHZ_SRC_GD_LO_GD_LO
  | CHZ_SRC_GD_HI_GD_HI
  | CHZ_DST_GD_LO_GD_LO
  | CHZ_DST_GD_HI_GD_HI
  | CHZ_GDC_GDC
  | CHZ_DST_GDC_GDC
  | CHZ_BANK_GD_GD2
  | CHZ_BANK_GD_GD3
  | CHZ_COEF_ADDR_TAP
  | CHZ_COEF_ADDR_BANK
  | CHZ_COEF_ADDR_AUTO_INC
  | CHZ_COEF_DATA_COEF
  | CHZ_HOST_SEL_N
  | GCE_SEL_N
  | GCE_MODE_SP_SRC
  | GCE_MODE_LVL_MODE
  | GCE_MODE_DET_SHIFT
  | GCE_STAT_WINNER
  | GCE_STAT_CS
  | GCE_STAT_SP_CLAMP
  | GCE_STAT_CEIL_CLAMP
  | GCE_STAT_SRC_INV
  | GCE_STAT_DET_ARMED
  | GCE_STAT_CS_LATE
  | GCE_LEVEL_LEVEL
  | GCE_LEVEL_SP_RAMP
  | GCE_CAND0_C_LEV
  | GCE_CAND0_C_STAB
  | GCE_CAND1_C_EMIT
  | GCE_CAND1_C_THM
  | GCE_FIX_FIX_SP
  | GCE_MAP_MAP_LO
  | GCE_MAP_MAP_HI
  | GCE_SP_LIM_SP_MIN
  | GCE_SP_LIM_SP_MAX
  | GCE_CEIL_HARD_CEIL
  | GCE_CEIL_FW_CEIL
  | GCE_SLEW_SP_SLEW
  | GCE_SLEW_FW_SP_SLEW
  | GCE_GSLEW_GAIN_SLEW
  | GCE_GSLEW_COLD_RAMP
  | GCE_KLEV_KP
  | GCE_KLEV_KI
  | GCE_KSE_KS
  | GCE_KSE_KE
  | GCE_KTH_KTH
  | GCE_KTH_SLOPE
  | GCE_THERM_THERM_SP
  | GCE_TRACK_KT_LEV
  | GCE_TRACK_KT_STAB
  | GCE_TRACK_KT_EMIT
  | GCE_TRACK_KT_THM
  | GCE_OVR_OVR_CONSEC
  | GCE_OVR_OVR_COUNT
  | GCE_TICK_OVERRUN_TICKS
  | GCE_TICK_LATE_SDL
  | GCE_TICK_LATE_EMG
  | GCE_TICK_LATE_THM
  | GCE_TICK_LATE_MON
  | GCE_TICK_ECC_RETRY
  | GCE_SETA_CODE
  | GCE_SETA_VALID
  | GCE_SETP_DUTY
  | GCE_SETP_VALID
  | GCE_SETP_STUCK
  | GCE_SETP_FAST
  | GCE_SETP_SLOW
  | GCE_SETP_PER_PERIOD
  | GCE_SETP_CNT_INVALID_EVENTS
  | GCE_HOST_SEL_N
  | SDL_SEL_N
  | SDL_CTRL_K_LOG2
  | SDL_CTRL_PROBE_REL
  | SDL_STATUS_MEAS_DONE
  | SDL_STATUS_NEW_LOOP
  | SDL_STATUS_FLOOR_HIGH
  | SDL_STATUS_G1_MUTED
  | SDL_STATUS_G1_MARGIN
  | SDL_STATUS_G1_OVERLOAD
  | SDL_STATUS_PROBE_CLAMP
  | SDL_STATUS_TARGET_CLAMP
  | SDL_STATUS_MEMBERS
  | SDL_STATUS_WORST_SB
  | SDL_STATUS_UPDATES
  | SDL_TARGET_TARGET
  | SDL_BOUND_U_MAX
  | SDL_BOUND_FLOOR_MAX
  | SDL_HEAD_H_S
  | SDL_HEAD_PROBE
  | SDL_SUB_U_LO
  | SDL_SUB_U_HI
  | SDL_WATCH_BP
  | SDL_WATCH_NODE
  | SDL_WATCH_EN
  | SDL_DETECT_DET
  | SDL_DETECT_MUTUAL
  | SDL_COUNT_NEW_LOOPS
  | SDL_COUNT_G1_TRIPS
  | SDL_LIMIT_HARD_FLOOR
  | SDL_LIMIT_PROBE_MAX
  | SDL_G1_OVL_N
  | SDL_G1_HOLD
  | SDL_RISE_RISE_MAX
  | SDL_DIGEST_DIGESTS_RX
  | SDL_DIGEST_DIGEST_MISS
  | SDL_HOST_SEL_N
  | GRG_FREE_FREE
  | GRG_OWNED_OWNED
  | GRG_QUAR_QUARANTINED
  | GRG_QUAR_RETIRED
  | GRG_SEAL_FAIL_FAILS
  | GRG_LAST_BAD_TILE
  | GRG_LAST_BAD_CAUSE
  | GRG_LAST_OWNER_OWNER
  | GRG_LAST_OWNER_GEN
  | GRG_KEEP_RESENT
  | GRG_KEEP_KEEP_DROP
  | FLO_SEL_N
  | FLO_CTRL_STEP_OK
  | FLO_CTRL_STRICT
  | FLO_CTRL_RESTORE
  | FLO_CTRL_ESTAB_MARGIN
  | FLO_CTRL_SLACK_WARN
  | FLO_STATUS_DSTATE
  | FLO_STATUS_SLEWING
  | FLO_STATUS_REJECT
  | FLO_STATUS_TS_JUMP
  | FLO_STATUS_TS_BAD
  | FLO_STATUS_POISON
  | FLO_STATUS_SLEW_CLAMP
  | FLO_STATUS_SLACK_LOW
  | FLO_TARGET_LO_TARGET
  | FLO_TARGET_HI_TARGET
  | FLO_APPLIED_LO_APPLIED
  | FLO_APPLIED_HI_APPLIED
  | FLO_MIN_LO_DMIN
  | FLO_MIN_HI_DMIN
  | FLO_AGE_LO_AGE
  | FLO_AGE_HI_AGE
  | FLO_LDST_LO_LDST
  | FLO_LDST_HI_LDST
  | FLO_MU_MU
  | FLO_TILES_RESERVED
  | FLO_FILL_GRAINS
  | FLO_COUNT_STEPS
  | FLO_COUNT_LOST_EVENTS
  | FLO_COUNT1_POISON_GRAINS
  | FLO_COUNT1_DUP_GRAINS
  | FLO_TOL_TS_TOL
  | FLO_SLEW_DLY_SLEW
  | FLO_SLEW_FW_DLY_SLEW
  | FLO_HOST_SEL_N
  | EMG_CTRL_INT
  | EMG_CTRL_HOLD
  | EMG_STATUS_PORT_MUTED
  | EMG_STATUS_OUT
  | EMG_STATUS_PILOT
  | EMG_STATUS_TILE
  | EMG_STATUS_FOREIGN_N
  | EMG_STATUS_G2_PORT_TRIPS
  | EMG_FLOOR_N
  | EMG_FLOOR_V
  | EMG_WORST_BIN_BIN
  | EMG_WORST_EXCESS
  | EMG_LIMIT_TRIP_DB
  | EMG_LIMIT_OBS_ATT_MAX
  | EMG_LIMIT_CEIL_LOG2
  | EMG_LIMIT_FOREIGN_EN
  | EMG_LIMIT1_BACKOFF_MIN
  | EMG_SEL_N
  | EMG_BP_CTRL_EMIT_BACKOFF
  | EMG_BP_STATUS_H_E
  | EMG_BP_STATUS_G2_MUTED
  | EMG_BP_STATUS_FINE
  | EMG_BP_STATUS_CEILING
  | EMG_BP_STATUS_FORBID
  | EMG_BP_STATUS_BACKOFF_CLAMP
  | EMG_BP_STATUS_PORT
  | EMG_BP_STATUS_SHARE
  | EMG_BP_CEIL_CEIL
  | EMG_BP_CEIL_G2_TRIPS
  | EMG_HOST_SEL_N
  | PLN_STATUS_LOADED
  | PLN_STATUS_REBUILD
  | PLN_STATUS_BAD_TILES
  | PLN_PORT_OFS_OFS0
  | PLN_PORT_OFS_OFS1
  | PLN_PORT_OFS_OFS2
  | PLN_PORT_OFS_OFS3
  | PLN_T_SEL_R_SEL
  | PLN_T_FIRST_FIRST
  | PLN_T_FIRST_EN
  | PLN_T_LAST_LAST
  | PLN_T_LIM_LIMIT
  | PLN_T_LIM_PORTS
  | PLN_RD_ADDR_BIN
  | PLN_RD_ADDR_PORT
  | PLN_RD_DATA_ENTRY
  | PLN_RD_DATA_EFF
  | PLB_CTRL_PPS_OUT_EN
  | PLB_CTRL_PPS_OUT_MODE
  | PLB_CTRL_REF_OUT_EN
  | PLB_CTRL_PPS_WIDTH
  | PLB_CTRL_CHECK_LIM
  | PLB_STATUS_TSTATE
  | PLB_STATUS_ROLE
  | PLB_STATUS_PARENT
  | PLB_STATUS_TIME_OK
  | PLB_STATUS_PPS_IN_OK
  | PLB_STATUS_REF_IN_OK
  | PLB_STATUS_TIME_AHEAD
  | PLB_STATUS_ASYM_MISMATCH
  | PLB_STATUS_CHECK_FAIL
  | PLB_STATUS_FI_LIMIT
  | PLB_STATUS_SLEW_CLAMP
  | PLB_STATUS_TOD_REFUSED
  | PLB_TIME0_FRAC
  | PLB_TIME0_NS_LO
  | PLB_TIME1_NS_HI
  | PLB_TIME1_SEC_LO
  | PLB_TIME2_SEC_HI
  | PLB_ROOT_UID_LO_UID
  | PLB_ROOT_UID_HI_UID
  | PLB_ROOT_CLASS
  | PLB_ROOT_PRIORITY
  | PLB_ROOT_STEPS
  | PLB_RANK_PRIORITY
  | PLB_RANK_GM_EN
  | PLB_RANK_ROOT_EN
  | PLB_RANK_HOLD_LIMIT
  | PLB_LOOP_TP
  | PLB_LOOP_TI
  | PLB_LOOP_STEP_MIN
  | PLB_SLEW_PHASE_SLEW
  | PLB_SLEW_FW_PHASE_SLEW
  | PLB_FI_FI
  | PLB_OFFSET_OFS
  | PLB_PPS_IN_DLY_DLY
  | PLB_REF_IN_DLY_DLY
  | PLB_PPS_OUT_DLY_DLY
  | PLB_REF_OUT_DLY_DLY
  | PLB_REF_STAT_PPS_REJECT
  | PLB_REF_STAT_PPS_REF_SKEW
  | PLB_REF_STAT_REF_BAD
  | PLB_TOD_LO_SEC_LO
  | PLB_TOD_HI_SEC_HI
  | PLB_TOD_HI_ARM
  | PLB_HOLD_HOLD_S
  | PLB_HOLD_HOLD_ERR
  | PLB_COUNT_STEPS
  | PLB_COUNT_EPOCH
  | PLB_COUNT_ROOT_CHANGES
  | PLB_UNC_PATH_UNC
  | PLB_GM_TP_PPS
  | PLB_GM_TI_PPS
  | PLB_LSTAT_LROLE
  | PLB_LSTAT_PEER_OK
  | PLB_LSTAT_MISMATCH
  | PLB_LSTAT_CHECK_FAIL
  | PLB_LSTAT_PEER_STEPS
  | PLB_ASYM_FIX_FIX
  | PLB_ASYM_RATIO_RATIO
  | PLB_LCFG_ASYM_UNC
  | PLB_LCFG_COST
  | PLB_LOFS_THETA
  | PLB_LDLY_LO_D_LO
  | PLB_LDLY_HI_D_HI
  | PLB_LCOUNT_EXCH
  | PLB_LCOUNT_EXCH_BAD
  | COL_ID_LO_ID_LO
  | COL_ID_HI_ID_HI
  | COL_NODE_ADDR
  | COL_NODE_VALID
  | COL_NODE_AUTO
  | COL_NODE_REQ_ADDR
  | COL_CTRL_FWD_EN
  | COL_CTRL_HOPMAX
  | COL_STATUS_ADDR_CONFLICT
  | COL_STATUS_LSDB_FULL
  | COL_STATUS_ROUTE_BUSY
  | COL_STATUS_NODES
  | COL_COUNT0_REPAIRS
  | COL_COUNT0_REPAIR_FAIL
  | COL_COUNT1_HOP_DROP
  | COL_COUNT1_NO_ROUTE
  | COL_COUNT2_MSG_DISCARD
  | COL_COUNT2_ADDR_CHANGES
  | COL_SEL_N
  | COL_BP_STATUS_ROLE
  | COL_BP_STATUS_ROUTED
  | COL_BP_STATUS_UNRES
  | COL_BP_STATUS_REPAIRING
  | COL_BP_STATUS_HOPS
  | COL_BP_STATUS_K1
  | COL_BP_STATUS_LAST_NAK
  | COL_BP_STATUS_PEER
  | COL_BP_RATE_RATE
  | COL_CAGE_STATUS_PRESENT
  | COL_CAGE_STATUS_IDENT_OK
  | COL_CAGE_STATUS_LOW_POWER
  | COL_CAGE_STATUS_POWER_REFUSED
  | COL_CAGE_STATUS_IDENT_REFUSED
  | COL_CAGE_STATUS_MGMT_FAIL
  | COL_CAGE_STATUS_TEMP_ALARM
  | COL_CAGE_STATUS_INSERTIONS
  | COL_CAGE_MON_TEMP
  | COL_CAGE_MON_VCC
  | COL_HOST_SEL_N
  | LANE_CTRL_EN
  | LANE_CTRL_RETRAIN
  | LANE_STATUS_STATE
  | LANE_STATUS_BLOCK_LOCK
  | LANE_STATUS_LOS
  | LANE_STATUS_MISWIRED
  | LANE_STATUS_PROTO
  | LANE_STATUS_CRC_BURST
  | LANE_STATUS_RX_LOW
  | LANE_STATUS_UNRES
  | LANE_STATUS_UNRES_DROP
  | LANE_PEER_NODE
  | LANE_PEER_NODE_VALID
  | LANE_PEER_CAGE
  | LANE_PEER_LANE
  | LANE_PEER_UID_LO_UID_LO
  | LANE_PEER_UID_HI_UID_HI
  | LANE_RESV_RESERVED
  | LANE_RESV_CEIL
  | LANE_CREDIT_BAND
  | LANE_CREDIT_TIME
  | LANE_CREDIT1_MGMT
  | LANE_CREDIT1_BULK
  | LANE_ERR_FRAME_ERR
  | LANE_ERR_BLOCK_ERR
  | LANE_COUNT_KEPT
  | LANE_COUNT_MEMBERS
  | LANE_COUNT_FAILS
  | LANE_OPT_RX_PWR
  | LANE_OPT_TX_BIAS
  | FE_CTRL_RX_EN
  | FE_CTRL_TX_EN
  | FE_CTRL_RETUNE
  | FE_CTRL_CAL_REQ
  | FE_CTRL_INLINE
  | FE_STATUS_STATE
  | FE_STATUS_RX_LOCK
  | FE_STATUS_TX_LOCK
  | FE_STATUS_TX_HELD
  | FE_STATUS_TX_TIMEOUT
  | FE_STATUS_RETUNE_PEND
  | FE_STATUS_REJECT
  | FE_STATUS_RELAY_MISMATCH
  | FE_STATUS_UNLOCK_COUNT
  | FE_RX_FREQ_FREQ
  | FE_TX_FREQ_FREQ
  | FE_ATT_RX_ATT
  | FE_ATT_TX_ATT
  | FE_ATT_OBS_ATT
  | FE_RELAY_POS
  | FE_RELAY_BYPASS_MODE
  | FE_RELAY_MOVE_COUNT
  | FE_CAL_CTRL_BG_RX
  | FE_CAL_CTRL_BG_TX
  | FE_CAL_CTRL_BG_OBS
  | FE_CAL_CTRL_STALE_K
  | FE_CAL_CTRL_STALE_S
  | FE_CAL_STATUS_RX_IRR
  | FE_CAL_STATUS_TX_IRR
  | FE_CAL_STATUS_OBS_IRR
  | FE_CAL_STATUS_STALE
  | FE_CAL_STATUS_FG_FAIL
  | FE_CAL_STATUS_SEGMENT
  | FE_RX_LAT_LAT
  | FE_TX_LAT_LAT
  | FE_PILOT_CTRL_MODE
  | FE_PILOT_CTRL_SHIFT_NEG
  | FE_PILOT_CTRL_LEVEL
  | FE_PILOT_CTRL_PERIOD
  | FE_PILOT_FREQ_FREQ
  | FE_PILOT_SHIFT_FREQ
  | FE_PILOT_TURN_TURN
  | FE_PILOT_SPLIT_SPLIT
  | FE_PILOT_PRIOR_PRIOR
  | FE_PILOT_DLY_LO_DLY_LO
  | FE_PILOT_DLY_HI_DLY_HI
  | FE_PILOT_STATUS_PSTATE
  | FE_PILOT_STATUS_AMBIG
  | FE_PILOT_STATUS_LOW_LEVEL
  | FE_PILOT_STATUS_FRESH
  | FE_PILOT_STATUS_COUNT
  | SCR_HSTATUS_FIELD_UP
  | SCR_HSTATUS_LANES_RX
  | SCR_HSTATUS_LINK_EPOCH
  | SCR_HCOUNT_ABSENT
  | SCR_HCOUNT_UNSURE_WR
  | SCR_HCOUNT_PARTIAL_WR
  | SCR_HSYNC_ZERO
  | SCR_HIRQ_CAUSE
  | SCR_HCREDIT_REQ
  | SCR_HCREDIT_MBX_TX
  | PCIE_STATUS_GEN
  | PCIE_STATUS_WIDTH
  | PCIE_STATUS_NARROW
  | PCIE_TEMP_TEMP
  | PCIE_TEMP_MAX_T
  | PCIE_CAP_CAP_LIMIT
  | DMA_CTRL_EN
  | DMA_CTRL_BP
  | DMA_CTRL_TAP
  | DMA_CTRL_IRQ_N
  | DMA_CTRL_HOLDOFF
  | DMA_STATUS_RUN
  | DMA_STATUS_FIELD_LOST
  | DMA_STATUS_DMA_ERR
  | DMA_STATUS_BME_OFF
  | DMA_STATUS_LIMIT_STOP
  | DMA_STATUS_TEMP_STOP
  | DMA_STATUS_ENA_REFUSED
  | DMA_STATUS_BAD_DESC
  | DMA_STATUS_HEAD_REFUSED
  | DMA_BASE_LO_ADDR
  | DMA_BASE_HI_ADDR
  | DMA_SIZE_SIZE
  | DMA_HEAD_HEAD
  | DMA_TAIL_TAIL
  | DMA_FLUSH_FLUSH_US
  | DMA_COUNT_LOST
  | MBX_CTRL_SEND
  | MBX_CTRL_POP
  | MBX_CTRL_TX_FULL
  | MBX_CTRL_RX_LEVEL
  | MBX_TX_WORD
  | MBX_RX_WORD
  deriving DecidableEq, Repr

/-- The row of each field: offset of instance 0, stride, instances, reach, lowest bit, width, access, reset. -/
def Field.row : Field → FieldRow
  | .KCT_STATUS_STATE => ⟨0x0, 0, 1, .plain, 0, 3, .ro, 0x0⟩
  | .KCT_STATUS_SLOT => ⟨0x0, 0, 1, .plain, 3, 1, .ro, 0x0⟩
  | .KCT_STATUS_FALLBACK => ⟨0x0, 0, 1, .plain, 4, 1, .ro, 0x0⟩
  | .KCT_STATUS_LOCKED => ⟨0x0, 0, 1, .plain, 5, 1, .ro, 0x0⟩
  | .KCT_STATUS_SLOT_A_OK => ⟨0x0, 0, 1, .plain, 7, 1, .ro, 0x0⟩
  | .KCT_STATUS_SLOT_B_OK => ⟨0x0, 0, 1, .plain, 8, 1, .ro, 0x0⟩
  | .KCT_STATUS_FAIL_A => ⟨0x0, 0, 1, .plain, 12, 4, .ro, 0x0⟩
  | .KCT_STATUS_FAIL_B => ⟨0x0, 0, 1, .plain, 16, 4, .ro, 0x0⟩
  | .KCT_SEQ_SEQ => ⟨0x4, 0, 1, .plain, 0, 32, .ro, 0x0⟩
  | .KCT_TIMES_T_BAND => ⟨0x8, 0, 1, .plain, 0, 16, .ro, 0x0⟩
  | .KCT_TIMES_T_PLUMB => ⟨0x8, 0, 1, .plain, 16, 16, .ro, 0x0⟩
  | .KCT_ID_M_STEP => ⟨0xC, 0, 1, .plain, 0, 8, .ro, 0xA2⟩
  | .KCT_ID_FE_STEP => ⟨0xC, 0, 1, .plain, 8, 8, .ro, 0xA1⟩
  | .KCT_ID_KC_FORMAT => ⟨0xC, 0, 1, .plain, 16, 8, .ro, 0x0⟩
  | .KCT_ID_FW_MAJOR => ⟨0xC, 0, 1, .plain, 24, 8, .ro, 0x0⟩
  | .KCT_CFG_HOST_UPD_EN => ⟨0x10, 0, 1, .plain, 0, 1, .kl, 0x0⟩
  | .KCT_CFG_DEBUG_EN => ⟨0x10, 0, 1, .plain, 1, 1, .kl, 0x0⟩
  | .KCT_UPD_CTRL_START => ⟨0x14, 0, 1, .plain, 0, 1, .rw, 0x0⟩
  | .KCT_UPD_CTRL_COMMIT => ⟨0x14, 0, 1, .plain, 1, 1, .rw, 0x0⟩
  | .KCT_UPD_CTRL_ABORT => ⟨0x14, 0, 1, .plain, 2, 1, .rw, 0x0⟩
  | .KCT_UPD_STATUS_USTATE => ⟨0x18, 0, 1, .plain, 0, 3, .ro, 0x0⟩
  | .KCT_UPD_STATUS_WAITING => ⟨0x18, 0, 1, .plain, 3, 1, .ro, 0x0⟩
  | .KCT_UPD_STATUS_UREJECT => ⟨0x18, 0, 1, .plain, 4, 4, .ro, 0x0⟩
  | .KCT_UPD_STATUS_UFAIL => ⟨0x18, 0, 1, .plain, 8, 4, .ro, 0x0⟩
  | .KCT_UPD_STATUS_OWNER => ⟨0x18, 0, 1, .plain, 12, 1, .ro, 0x0⟩
  | .KCT_UPD_ADDR_ADDR => ⟨0x1C, 0, 1, .plain, 0, 25, .rw, 0x0⟩
  | .KCT_UPD_DATA_DATA => ⟨0x20, 0, 1, .plain, 0, 32, .rw, 0x0⟩
  | .KCT_RESTART_KEY => ⟨0x24, 0, 1, .plain, 0, 32, .rw, 0x0⟩
  | .KCT_COUNT_KL_WRITES => ⟨0x28, 0, 1, .plain, 0, 16, .rc, 0x0⟩
  | .KCT_COUNT_UPDATES => ⟨0x28, 0, 1, .plain, 16, 16, .ro, 0x0⟩
  | .PCR_CTRL_RUN => ⟨0x1000, 0, 1, .plain, 0, 4, .ro, 0x0⟩
  | .PCR_CTRL_HALTED => ⟨0x1000, 0, 1, .plain, 4, 4, .ro, 0x0⟩
  | .PCR_CTRL_WDG_MS => ⟨0x1000, 0, 1, .plain, 16, 16, .kl, 0x0⟩
  | .PCR_KICK_KICK => ⟨0x1010, 4, 4, .plain, 0, 32, .fw, 0x0⟩
  | .PCR_FAULT_ADDR => ⟨0x1020, 4, 4, .plain, 0, 32, .ro, 0x0⟩
  | .PCR_COUNT_RESTARTS => ⟨0x1030, 4, 4, .plain, 0, 16, .rc, 0x0⟩
  | .PCR_COUNT_FAULTS => ⟨0x1030, 4, 4, .plain, 16, 16, .rc, 0x0⟩
  | .FCL_CTRL_ACK => ⟨0x2000, 0, 1, .plain, 0, 1, .rw, 0x0⟩
  | .FCL_CTRL_ACK_INJ => ⟨0x2000, 0, 1, .plain, 1, 1, .fw, 0x0⟩
  | .FCL_CTRL_ACK_TAG => ⟨0x2000, 0, 1, .plain, 8, 8, .rw, 0x0⟩
  | .FCL_STATUS_MAX_FENCE => ⟨0x2004, 0, 1, .plain, 0, 2, .ro, 0x0⟩
  | .FCL_STATUS_ALIVE_RUN => ⟨0x2004, 0, 1, .plain, 2, 1, .ro, 0x0⟩
  | .FCL_STATUS_FACTORY => ⟨0x2004, 0, 1, .plain, 3, 1, .ro, 0x0⟩
  | .FCL_STATUS_LATCHED => ⟨0x2004, 0, 1, .plain, 4, 1, .ro, 0x0⟩
  | .FCL_STATUS_INJ_LATCHED => ⟨0x2004, 0, 1, .plain, 5, 1, .ro, 0x0⟩
  | .FCL_STATUS_REL_REFUSED => ⟨0x2004, 0, 1, .plain, 6, 1, .w1c, 0x0⟩
  | .FCL_STATUS_ACK_REFUSED => ⟨0x2004, 0, 1, .plain, 7, 1, .w1c, 0x0⟩
  | .FCL_STATUS_INJ_REFUSED => ⟨0x2004, 0, 1, .plain, 8, 1, .w1c, 0x0⟩
  | .FCL_STATUS_BYPASS => ⟨0x2004, 0, 1, .plain, 9, 1, .ro, 0x0⟩
  | .FCL_ACK_CLASS_SOURCE => ⟨0x2008, 0, 1, .plain, 0, 8, .fw, 0x0⟩
  | .FCL_ACK_CLASS_CAUSE => ⟨0x2008, 0, 1, .plain, 8, 8, .fw, 0x0⟩
  | .FCL_ACK_CLASS_ALL => ⟨0x2008, 0, 1, .plain, 16, 1, .fw, 0x0⟩
  | .FCL_ACK_CLASS_GO => ⟨0x2008, 0, 1, .plain, 17, 1, .fw, 0x0⟩
  | .FCL_ACK_CLASS_INJ => ⟨0x2008, 0, 1, .plain, 18, 1, .fw, 0x0⟩
  | .FCL_RELEASE_UNIT => ⟨0x200C, 0, 1, .plain, 0, 8, .fw, 0x0⟩
  | .FCL_RELEASE_GO => ⟨0x200C, 0, 1, .plain, 8, 1, .fw, 0x0⟩
  | .FCL_LIMIT_QUIET => ⟨0x2010, 0, 1, .plain, 0, 16, .kl, 0x0⟩
  | .FCL_LIMIT_RECOV_MAX => ⟨0x2010, 0, 1, .plain, 16, 3, .kl, 0x0⟩
  | .FCL_FW_QUIET_FW_QUIET => ⟨0x2014, 0, 1, .plain, 0, 16, .fw, 0x0⟩
  | .FCL_COUNT_NOTICES => ⟨0x2018, 0, 1, .plain, 0, 16, .rc, 0x0⟩
  | .FCL_COUNT_MERGED => ⟨0x2018, 0, 1, .plain, 16, 16, .rc, 0x0⟩
  | .FCL_FIRST_MSG => ⟨0x2020, 4, 4, .plain, 0, 32, .ro, 0x0⟩
  | .FCL_FIRST_INFO_TAG => ⟨0x2030, 0, 1, .plain, 0, 8, .ro, 0x0⟩
  | .FCL_FIRST_INFO_EFF_LEVEL => ⟨0x2030, 0, 1, .plain, 8, 2, .ro, 0x0⟩
  | .FCL_FIRST_INFO_ESCALATED => ⟨0x2030, 0, 1, .plain, 10, 1, .ro, 0x0⟩
  | .FCL_FIRST_INFO_GONE => ⟨0x2030, 0, 1, .plain, 11, 1, .ro, 0x0⟩
  | .FCL_FIRST_INFO_OVF => ⟨0x2030, 0, 1, .plain, 12, 1, .ro, 0x0⟩
  | .FCL_FIRST_INFO_OVF_COUNT => ⟨0x2030, 0, 1, .plain, 16, 16, .ro, 0x0⟩
  | .FCL_INJ_MSG => ⟨0x2040, 4, 4, .plain, 0, 32, .ro, 0x0⟩
  | .FCL_INJ_INFO_TAG => ⟨0x2050, 0, 1, .plain, 0, 8, .ro, 0x0⟩
  | .FCL_INJ_INFO_EFF_LEVEL => ⟨0x2050, 0, 1, .plain, 8, 2, .ro, 0x0⟩
  | .FCL_INJ_INFO_ESCALATED => ⟨0x2050, 0, 1, .plain, 10, 1, .ro, 0x0⟩
  | .FCL_INJ_INFO_GONE => ⟨0x2050, 0, 1, .plain, 11, 1, .ro, 0x0⟩
  | .FCL_INJ_INFO_OVF => ⟨0x2050, 0, 1, .plain, 12, 1, .ro, 0x0⟩
  | .FCL_INJ_INFO_OVF_COUNT => ⟨0x2050, 0, 1, .plain, 16, 16, .ro, 0x0⟩
  | .FCL_INJECT_LO_W0 => ⟨0x2060, 0, 1, .plain, 0, 32, .fw, 0x0⟩
  | .FCL_INJECT_HI_DETAIL => ⟨0x2064, 0, 1, .plain, 0, 32, .fw, 0x0⟩
  | .FCL_CLASS_SEL_SOURCE => ⟨0x2070, 0, 1, .plain, 0, 8, .rw, 0x0⟩
  | .FCL_CLASS_SEL_CAUSE => ⟨0x2070, 0, 1, .plain, 8, 8, .rw, 0x0⟩
  | .FCL_CLASS_SEL_INJ => ⟨0x2070, 0, 1, .plain, 16, 1, .rw, 0x0⟩
  | .FCL_CLASS_OPEN => ⟨0x2074, 0, 1, .plain, 0, 1, .ro, 0x0⟩
  | .FCL_CLASS_LEVEL => ⟨0x2074, 0, 1, .plain, 1, 2, .ro, 0x0⟩
  | .FCL_UNIT_FENCE => ⟨0x2100, 4, 168, .plain, 0, 2, .ro, 0x0⟩
  | .FCL_UNIT_OWN => ⟨0x2100, 4, 168, .plain, 2, 1, .ro, 0x0⟩
  | .FCL_UNIT_COND => ⟨0x2100, 4, 168, .plain, 3, 1, .ro, 0x0⟩
  | .FCL_UNIT_LIMITED => ⟨0x2100, 4, 168, .plain, 4, 1, .ro, 0x0⟩
  | .FCL_UNIT_LAST_CAUSE => ⟨0x2100, 4, 168, .plain, 8, 8, .ro, 0x0⟩
  | .FCL_UNIT_RECOV_HOUR => ⟨0x2100, 4, 168, .plain, 16, 3, .ro, 0x0⟩
  | .FCL_UNIT_RECOVERIES => ⟨0x2100, 4, 168, .plain, 20, 12, .rc, 0x0⟩
  | .FRS_STATUS_MEDIUM_FAIL => ⟨0x3000, 0, 1, .plain, 0, 1, .ro, 0x0⟩
  | .FRS_STATUS_FLOOD => ⟨0x3000, 0, 1, .plain, 1, 1, .ro, 0x0⟩
  | .FRS_STATUS_BB_FAIL => ⟨0x3000, 0, 1, .plain, 2, 1, .ro, 0x0⟩
  | .FRS_STATUS_CLEARING => ⟨0x3000, 0, 1, .plain, 3, 1, .ro, 0x0⟩
  | .FRS_STATUS_CLR_REFUSED => ⟨0x3000, 0, 1, .plain, 4, 1, .w1c, 0x0⟩
  | .FRS_STATUS_CLR_LOCK => ⟨0x3000, 0, 1, .plain, 5, 1, .ro, 0x0⟩
  | .FRS_STATUS_FLUSH_WAIT => ⟨0x3000, 0, 1, .plain, 6, 1, .ro, 0x0⟩
  | .FRS_NEXT_LO_SEQ => ⟨0x3004, 0, 1, .plain, 0, 32, .ro, 0x0⟩
  | .FRS_NEXT_HI_SEQ => ⟨0x3008, 0, 1, .plain, 0, 16, .ro, 0x0⟩
  | .FRS_FLUSHED_LO_SEQ => ⟨0x300C, 0, 1, .plain, 0, 32, .ro, 0x0⟩
  | .FRS_FLUSHED_HI_SEQ => ⟨0x3010, 0, 1, .plain, 0, 16, .ro, 0x0⟩
  | .FRS_OLDEST_LO_SEQ => ⟨0x3014, 0, 1, .plain, 0, 32, .ro, 0x0⟩
  | .FRS_OLDEST_HI_SEQ => ⟨0x3018, 0, 1, .plain, 0, 16, .ro, 0x0⟩
  | .FRS_BB_NEWEST => ⟨0x301C, 0, 1, .plain, 0, 14, .ro, 0x0⟩
  | .FRS_QUEUE_LEVEL => ⟨0x3020, 0, 1, .plain, 0, 7, .ro, 0x0⟩
  | .FRS_COUNT_SUMMARIES => ⟨0x3024, 0, 1, .plain, 0, 16, .rc, 0x0⟩
  | .FRS_COUNT_COALESCED => ⟨0x3024, 0, 1, .plain, 16, 16, .rc, 0x0⟩
  | .FRS_COUNT1_FLASH_ERR => ⟨0x3028, 0, 1, .plain, 0, 16, .rc, 0x0⟩
  | .FRS_NONCE_LO_NONCE => ⟨0x302C, 0, 1, .plain, 0, 32, .ro, 0x0⟩
  | .FRS_NONCE_HI_NONCE => ⟨0x3030, 0, 1, .plain, 0, 32, .ro, 0x0⟩
  | .FRS_CLR_ID_INDEX => ⟨0x3034, 0, 1, .plain, 0, 2, .rw, 0x0⟩
  | .FRS_CLR_CODE_LO_CODE => ⟨0x3038, 0, 1, .plain, 0, 32, .rw, 0x0⟩
  | .FRS_CLR_CODE_HI_CODE => ⟨0x303C, 0, 1, .plain, 0, 32, .rw, 0x0⟩
  | .FRS_RD_SEL_SLOT => ⟨0x3040, 0, 1, .plain, 0, 20, .rw, 0x0⟩
  | .FRS_RD_SEL_SRC => ⟨0x3040, 0, 1, .plain, 20, 2, .rw, 0x0⟩
  | .FRS_RD_SEL_READY => ⟨0x3040, 0, 1, .plain, 22, 1, .ro, 0x0⟩
  | .FRS_AUTH_ID_ID => ⟨0x3048, 4, 4, .plain, 0, 32, .kl, 0x0⟩
  | .FRS_FW_BODY_DATA => ⟨0x3080, 4, 8, .plain, 0, 32, .fw, 0x0⟩
  | .FRS_FW_CTRL_COMMIT => ⟨0x30A0, 0, 1, .plain, 0, 1, .fw, 0x0⟩
  | .FRS_FW_CTRL_SOURCE => ⟨0x30A0, 0, 1, .plain, 8, 8, .fw, 0x0⟩
  | .FRS_WIN_BYTES => ⟨0x3100, 4, 16, .plain, 0, 32, .ro, 0x0⟩
  | .CNT_CTRL_FW_HOLD => ⟨0x4000, 0, 1, .plain, 0, 1, .fw, 0x0⟩
  | .CNT_CTRL_HOST_HOLD => ⟨0x4000, 0, 1, .plain, 1, 1, .rw, 0x0⟩
  | .CNT_CTRL_HOST_RD => ⟨0x4000, 0, 1, .plain, 2, 1, .fw, 0x0⟩
  | .CNT_CTRL_HOST_PROG => ⟨0x4000, 0, 1, .plain, 3, 1, .fw, 0x0⟩
  | .CNT_STATUS_HELD => ⟨0x4004, 0, 1, .plain, 0, 1, .ro, 0x0⟩
  | .CNT_STATUS_HOLD_TO => ⟨0x4004, 0, 1, .plain, 1, 1, .w1c, 0x0⟩
  | .CNT_STATUS_HOST_REFUSED => ⟨0x4004, 0, 1, .plain, 2, 1, .w1c, 0x0⟩
  | .CNT_STATUS_GATHER_LATE => ⟨0x4004, 0, 1, .plain, 3, 1, .w1c, 0x0⟩
  | .CNT_GATHER_GATHER => ⟨0x4008, 0, 1, .plain, 0, 32, .ro, 0x0⟩
  | .CNT_GTIME_TIME => ⟨0x400C, 4, 3, .plain, 0, 32, .ro, 0x0⟩
  | .CNT_PS_CTRL_EN => ⟨0x4018, 0, 1, .plain, 0, 1, .fw, 0x0⟩
  | .CNT_PS_CTRL_CORES => ⟨0x4018, 0, 1, .plain, 1, 4, .fw, 0x0⟩
  | .CNT_PS_CTRL_WRAP => ⟨0x4018, 0, 1, .plain, 5, 1, .fw, 0x0⟩
  | .CNT_PS_CTRL_JITTER => ⟨0x4018, 0, 1, .plain, 8, 4, .fw, 0x0⟩
  | .CNT_PS_CTRL_PERIOD => ⟨0x4018, 0, 1, .plain, 12, 20, .fw, 0x0⟩
  | .CNT_PS_STATUS_LEVEL => ⟨0x401C, 0, 1, .plain, 0, 11, .ro, 0x0⟩
  | .CNT_PS_STATUS_DROPPED => ⟨0x401C, 0, 1, .plain, 16, 16, .rc, 0x0⟩
  | .CNT_PS_DATA_WORD => ⟨0x4020, 0, 1, .plain, 0, 32, .fw, 0x0⟩
  | .CNT_PS_WIN_WORD => ⟨0x4030, 4, 4, .plain, 0, 32, .ro, 0x0⟩
  | .CNT_LO_COUNT_LO => ⟨0x4400, 8, 224, .plain, 0, 32, .ro, 0x0⟩
  | .CNT_HI_COUNT_HI => ⟨0x4404, 8, 224, .plain, 0, 16, .ro, 0x0⟩
  | .CNT_HI_OVF => ⟨0x4404, 8, 224, .plain, 16, 1, .w1c, 0x0⟩
  | .CNT_HI_PEND => ⟨0x4404, 8, 224, .plain, 17, 1, .ro, 0x0⟩
  | .CNT_SEL_EVENT => ⟨0x4C00, 4, 224, .plain, 0, 8, .fw, 0x0⟩
  | .CNT_SEL_GROUP => ⟨0x4C00, 4, 224, .plain, 8, 3, .ro, 0x0⟩
  | .CNT_SEL_UNIT => ⟨0x4C00, 4, 224, .plain, 11, 8, .fw, 0x0⟩
  | .CNT_SEL_QUAL => ⟨0x4C00, 4, 224, .plain, 19, 4, .fw, 0x0⟩
  | .CNT_SEL_ZERO => ⟨0x4C00, 4, 224, .plain, 23, 1, .fw, 0x0⟩
  | .THM_TEMP_TEMP => ⟨0x5000, 32, 5, .plain, 0, 16, .ro, 0x0⟩
  | .THM_TEMP_FAST => ⟨0x5000, 32, 5, .plain, 16, 1, .ro, 0x0⟩
  | .THM_TEMP_SUSPECT => ⟨0x5000, 32, 5, .plain, 17, 1, .ro, 0x0⟩
  | .THM_TEMP_WARN => ⟨0x5000, 32, 5, .plain, 18, 1, .ro, 0x0⟩
  | .THM_TEMP_TRIPPED => ⟨0x5000, 32, 5, .plain, 19, 1, .ro, 0x0⟩
  | .THM_LIM_WARN => ⟨0x5004, 32, 5, .plain, 0, 16, .kl, 0x0⟩
  | .THM_LIM_TRIP => ⟨0x5004, 32, 5, .plain, 16, 16, .kl, 0x0⟩
  | .THM_LIM1_RESTART => ⟨0x5008, 32, 5, .plain, 0, 16, .kl, 0x0⟩
  | .THM_LIM1_FW_WARN => ⟨0x5008, 32, 5, .plain, 16, 16, .fw, 0x0⟩
  | .THM_RATE_RISE => ⟨0x500C, 32, 5, .plain, 0, 16, .ro, 0x0⟩
  | .THM_RATE_MAX_T => ⟨0x500C, 32, 5, .plain, 16, 16, .ro, 0x0⟩
  | .THM_COUNT_WARN_EVENTS => ⟨0x5010, 32, 5, .plain, 0, 16, .rc, 0x0⟩
  | .THM_COUNT_SUSPECT_EVENTS => ⟨0x5010, 32, 5, .plain, 16, 16, .rc, 0x0⟩
  | .THM_CFG_XCHK_TOL => ⟨0x50A0, 0, 1, .plain, 0, 8, .kl, 0x0⟩
  | .THM_CFG_RISE_LIM => ⟨0x50A0, 0, 1, .plain, 8, 8, .kl, 0x0⟩
  | .THM_FLASH_T_FLASH => ⟨0x50A4, 0, 1, .plain, 0, 16, .ro, 0x0⟩
  | .THM_FLASH_WIN_OPEN => ⟨0x50A4, 0, 1, .plain, 16, 1, .ro, 0x0⟩
  | .THM_FLASH_WAITED => ⟨0x50A4, 0, 1, .plain, 17, 1, .w1c, 0x0⟩
  | .THM_SHUT_RESTARTS => ⟨0x50A8, 0, 1, .plain, 0, 2, .ro, 0x0⟩
  | .THM_SHUT_LAST_SHUT => ⟨0x50A8, 0, 1, .plain, 2, 1, .w1c, 0x0⟩
  | .THM_SHUT_ABORTED => ⟨0x50A8, 0, 1, .plain, 3, 1, .w1c, 0x0⟩
  | .THM_SHUT_SHUT_TOTAL => ⟨0x50A8, 0, 1, .plain, 16, 16, .ro, 0x0⟩
  | .THM_FLASH_OFS_FLASH_DELTA => ⟨0x50AC, 0, 1, .plain, 0, 16, .ro, 0x0⟩
  | .MON_CTRL_SCAN_EN => ⟨0x6000, 64, 2, .plain, 0, 1, .fw, 0x0⟩
  | .MON_CTRL_REF_EN => ⟨0x6000, 64, 2, .plain, 1, 1, .fw, 0x0⟩
  | .MON_CTRL_CAL => ⟨0x6000, 64, 2, .plain, 2, 1, .fw, 0x0⟩
  | .MON_STATUS_REF_READY => ⟨0x6004, 64, 2, .plain, 0, 1, .ro, 0x0⟩
  | .MON_STATUS_CALIBRATING => ⟨0x6004, 64, 2, .plain, 1, 1, .ro, 0x0⟩
  | .MON_STATUS_CAL_OK => ⟨0x6004, 64, 2, .plain, 2, 1, .ro, 0x0⟩
  | .MON_STATUS_CAL_FAIL => ⟨0x6004, 64, 2, .plain, 3, 1, .w1c, 0x0⟩
  | .MON_STATUS_CAL_REFUSED => ⟨0x6004, 64, 2, .plain, 4, 1, .w1c, 0x0⟩
  | .MON_STATUS_URG_REFUSED => ⟨0x6004, 64, 2, .plain, 5, 1, .w1c, 0x0⟩
  | .MON_STATUS_Q_OVF => ⟨0x6004, 64, 2, .plain, 6, 1, .w1c, 0x0⟩
  | .MON_STATUS_URG_BUSY => ⟨0x6004, 64, 2, .plain, 7, 1, .ro, 0x0⟩
  | .MON_STATUS_URG_PEND => ⟨0x6004, 64, 2, .plain, 8, 2, .ro, 0x0⟩
  | .MON_SCAN_MASK => ⟨0x6008, 64, 2, .plain, 0, 32, .fw, 0x0⟩
  | .MON_URGENT_CH => ⟨0x600C, 64, 2, .plain, 0, 5, .fw, 0x0⟩
  | .MON_URGENT_TAG => ⟨0x600C, 64, 2, .plain, 5, 4, .fw, 0x0⟩
  | .MON_QUEUE_ENTRY => ⟨0x6010, 64, 2, .plain, 0, 32, .fw, 0x0⟩
  | .MON_QLEVEL_LEVEL => ⟨0x6014, 64, 2, .plain, 0, 8, .ro, 0x0⟩
  | .MON_QLEVEL_Q_DROP => ⟨0x6014, 64, 2, .plain, 16, 16, .rc, 0x0⟩
  | .MON_COUNT_URG_LOST => ⟨0x6018, 64, 2, .plain, 0, 16, .rc, 0x0⟩
  | .MON_COUNT_ABORTS => ⟨0x6018, 64, 2, .plain, 16, 16, .rc, 0x0⟩
  | .MON_CAL_OFS_OFS => ⟨0x601C, 64, 2, .plain, 0, 16, .ro, 0x0⟩
  | .MON_CAL_GAIN_GAIN => ⟨0x6020, 64, 2, .plain, 0, 24, .ro, 0x400000⟩
  | .MON_CONV_CONVERSIONS => ⟨0x6024, 64, 2, .plain, 0, 32, .ro, 0x0⟩
  | .MON_MODE_SVC => ⟨0x6080, 0, 1, .plain, 0, 2, .fw, 0x0⟩
  | .MON_PLAUS_DIFF => ⟨0x6084, 0, 1, .plain, 0, 16, .ro, 0x0⟩
  | .MON_PLAUS_PL_OK => ⟨0x6084, 0, 1, .plain, 16, 1, .ro, 0x0⟩
  | .MON_PLAUS_PL_FAIL => ⟨0x6084, 0, 1, .plain, 17, 1, .w1c, 0x0⟩
  | .MON_PLAUS_PL_STALE => ⟨0x6084, 0, 1, .plain, 18, 1, .ro, 0x0⟩
  | .MON_PL_LIM_PL_TOL => ⟨0x6088, 0, 1, .plain, 0, 16, .kl, 0x0⟩
  | .MON_LAST_CODE => ⟨0x6100, 4, 32, .plain, 0, 16, .ro, 0x0⟩
  | .MON_LAST_CONV => ⟨0x6100, 4, 32, .plain, 16, 1, .ro, 0x0⟩
  | .MON_LAST_VALID => ⟨0x6100, 4, 32, .plain, 17, 1, .ro, 0x0⟩
  | .MON_LAST_FLAGGED => ⟨0x6100, 4, 32, .plain, 18, 1, .ro, 0x0⟩
  | .PWM_CTRL_ARM => ⟨0x7000, 64, 8, .plain, 0, 1, .fw, 0x0⟩
  | .PWM_CTRL_MODE => ⟨0x7000, 64, 8, .plain, 1, 2, .fw, 0x0⟩
  | .PWM_CTRL_STRETCH => ⟨0x7000, 64, 8, .plain, 3, 1, .fw, 0x0⟩
  | .PWM_CTRL_ADAPT => ⟨0x7000, 64, 8, .plain, 4, 1, .fw, 0x0⟩
  | .PWM_STATUS_STATE => ⟨0x7004, 64, 8, .plain, 0, 2, .ro, 0x0⟩
  | .PWM_STATUS_LATE => ⟨0x7004, 64, 8, .plain, 2, 1, .w1c, 0x0⟩
  | .PWM_STATUS_FULL => ⟨0x7004, 64, 8, .plain, 3, 1, .ro, 0x0⟩
  | .PWM_STATUS_DUTY_CLAMP => ⟨0x7004, 64, 8, .plain, 4, 1, .w1c, 0x0⟩
  | .PWM_STATUS_H_G3 => ⟨0x7004, 64, 8, .plain, 5, 1, .ro, 0x0⟩
  | .PWM_STATUS_H_FENCE => ⟨0x7004, 64, 8, .plain, 6, 1, .ro, 0x0⟩
  | .PWM_STATUS_H_RELAY => ⟨0x7004, 64, 8, .plain, 7, 1, .ro, 0x0⟩
  | .PWM_STATUS_G3_OC => ⟨0x7004, 64, 8, .plain, 8, 1, .w1c, 0x0⟩
  | .PWM_STATUS_G3_OV => ⟨0x7004, 64, 8, .plain, 9, 1, .w1c, 0x0⟩
  | .PWM_STATUS_MODE_REFUSED => ⟨0x7004, 64, 8, .plain, 10, 1, .w1c, 0x0⟩
  | .PWM_PER_COUNT => ⟨0x7008, 64, 8, .plain, 0, 24, .fw, 0x0⟩
  | .PWM_PER_FINE => ⟨0x7008, 64, 8, .plain, 24, 5, .fw, 0x0⟩
  | .PWM_RISE_COUNT => ⟨0x700C, 64, 8, .plain, 0, 24, .fw, 0x0⟩
  | .PWM_RISE_FINE => ⟨0x700C, 64, 8, .plain, 24, 5, .fw, 0x0⟩
  | .PWM_FALL_COUNT => ⟨0x7010, 64, 8, .plain, 0, 24, .fw, 0x0⟩
  | .PWM_FALL_FINE => ⟨0x7010, 64, 8, .plain, 24, 5, .fw, 0x0⟩
  | .PWM_DT_DT_RISE => ⟨0x7014, 64, 8, .plain, 0, 8, .fw, 0x0⟩
  | .PWM_DT_DT_FALL => ⟨0x7014, 64, 8, .plain, 8, 8, .fw, 0x0⟩
  | .PWM_DT_DT_MARGIN => ⟨0x7014, 64, 8, .plain, 16, 8, .fw, 0x0⟩
  | .PWM_DT_DT_LAST => ⟨0x7014, 64, 8, .plain, 24, 8, .ro, 0x0⟩
  | .PWM_LIM_DT_MIN => ⟨0x7018, 64, 8, .plain, 0, 8, .kl, 0x0⟩
  | .PWM_LIM_MIN_PULSE => ⟨0x7018, 64, 8, .plain, 8, 8, .kl, 0x0⟩
  | .PWM_LIM_SAFE => ⟨0x7018, 64, 8, .plain, 16, 2, .kl, 0x0⟩
  | .PWM_LIM_BLANK_SRC => ⟨0x7018, 64, 8, .plain, 20, 3, .kl, 0x0⟩
  | .PWM_LIM_BLANK_EN => ⟨0x7018, 64, 8, .plain, 23, 1, .kl, 0x0⟩
  | .PWM_DUTY_MAX_DUTY => ⟨0x701C, 64, 8, .plain, 0, 16, .kl, 0x0⟩
  | .PWM_DUTY_FW_MAX_DUTY => ⟨0x701C, 64, 8, .plain, 16, 16, .fw, 0x0⟩
  | .PWM_SLEW_DUTY_SLEW => ⟨0x7020, 64, 8, .plain, 0, 16, .kl, 0x0⟩
  | .PWM_SENSE_BLANK => ⟨0x7024, 64, 8, .plain, 0, 10, .kl, 0x0⟩
  | .PWM_SENSE_FILT => ⟨0x7024, 64, 8, .plain, 16, 9, .kl, 0x0⟩
  | .PWM_ILIM_I_LIM => ⟨0x7028, 64, 8, .plain, 0, 16, .kl, 0x0⟩
  | .PWM_ILIM_FW_I_LIM => ⟨0x7028, 64, 8, .plain, 16, 16, .fw, 0x0⟩
  | .PWM_VLIM_V_LIM => ⟨0x702C, 64, 8, .plain, 0, 16, .kl, 0x0⟩
  | .PWM_VLIM_FW_V_LIM => ⟨0x702C, 64, 8, .plain, 16, 16, .fw, 0x0⟩
  | .PWM_COUNT_SHORT_PULSES => ⟨0x7030, 64, 8, .plain, 0, 16, .rc, 0x0⟩
  | .PWM_COUNT_LATE_COMMITS => ⟨0x7030, 64, 8, .plain, 16, 16, .rc, 0x0⟩
  | .PWM_COUNT1_SWN_MISS => ⟨0x7034, 64, 8, .plain, 0, 16, .rc, 0x0⟩
  | .PWM_COUNT1_G3_TRIPS => ⟨0x7034, 64, 8, .plain, 16, 16, .rc, 0x0⟩
  | .PWM_FLT_MAP_MAP0 => ⟨0x7200, 0, 1, .plain, 0, 8, .kl, 0x0⟩
  | .PWM_FLT_MAP_MAP1 => ⟨0x7200, 0, 1, .plain, 8, 8, .kl, 0x0⟩
  | .PWM_FLT_MAP_MAP2 => ⟨0x7200, 0, 1, .plain, 16, 8, .kl, 0x0⟩
  | .PWM_FLT_MAP_MAP3 => ⟨0x7200, 0, 1, .plain, 24, 8, .kl, 0x0⟩
  | .PWM_FLT_POL => ⟨0x7204, 0, 1, .plain, 0, 4, .kl, 0x0⟩
  | .PWM_FLT_ACT => ⟨0x7204, 0, 1, .plain, 4, 4, .ro, 0x0⟩
  | .PWM_FLT_LATCH => ⟨0x7204, 0, 1, .plain, 8, 4, .w1c, 0x0⟩
  | .PWM_FLT_FLT_EVENTS => ⟨0x7204, 0, 1, .plain, 16, 16, .rc, 0x0⟩
  | .PWM_GLOBAL_CAL_OK => ⟨0x7208, 0, 1, .plain, 0, 1, .ro, 0x0⟩
  | .PWM_GLOBAL_CAL_FAIL => ⟨0x7208, 0, 1, .plain, 1, 1, .w1c, 0x0⟩
  | .PWM_GLOBAL_CLK_STOP => ⟨0x7208, 0, 1, .plain, 2, 1, .w1c, 0x0⟩
  | .PWM_GLOBAL_DBG_SAFE => ⟨0x7208, 0, 1, .plain, 3, 1, .w1c, 0x0⟩
  | .SCR_FSTATUS_HOST_UP => ⟨0x8000, 0, 1, .plain, 0, 1, .ro, 0x0⟩
  | .SCR_FSTATUS_LANES_RX => ⟨0x8000, 0, 1, .plain, 1, 4, .ro, 0x0⟩
  | .SCR_FCREDIT_RSP => ⟨0x8004, 0, 1, .plain, 0, 6, .ro, 0x20⟩
  | .SCR_FCREDIT_EVT => ⟨0x8004, 0, 1, .plain, 8, 6, .ro, 0x10⟩
  | .SCR_FCREDIT_MBX_TX => ⟨0x8004, 0, 1, .plain, 16, 5, .ro, 0x10⟩
  | .SCR_FCREDIT_CAP8 => ⟨0x8004, 0, 1, .plain, 24, 8, .ro, 0x20⟩
  | .SCR_FW_IRQ_RAISE => ⟨0x8008, 0, 1, .plain, 0, 16, .fw, 0x0⟩
  | .SCR_MB_CTRL_SEND => ⟨0x800C, 0, 1, .plain, 0, 1, .fw, 0x0⟩
  | .SCR_MB_CTRL_POP => ⟨0x800C, 0, 1, .plain, 1, 1, .fw, 0x0⟩
  | .SCR_MB_CTRL_TX_FULL => ⟨0x800C, 0, 1, .plain, 2, 1, .w1c, 0x0⟩
  | .SCR_MB_CTRL_RX_LEVEL => ⟨0x800C, 0, 1, .plain, 8, 5, .ro, 0x0⟩
  | .SCR_MB_TX_WORD => ⟨0x8040, 4, 16, .plain, 0, 32, .fw, 0x0⟩
  | .SCR_MB_RX_WORD => ⟨0x8080, 4, 16, .plain, 0, 32, .ro, 0x0⟩
  | .MEM_CH_TRAINED => ⟨0x9000, 16, 4, .plain, 0, 1, .ro, 0x0⟩
  | .MEM_CH_UE => ⟨0x9000, 16, 4, .plain, 1, 1, .w1c, 0x0⟩
  | .MEM_CH_CE => ⟨0x9000, 16, 4, .plain, 16, 16, .rc, 0x0⟩
  | .MEM_UE_TILE_TILE => ⟨0x9004, 16, 4, .plain, 0, 23, .ro, 0x0⟩
  | .BP_CTRL_ENABLE => ⟨0x10000, 32, 128, .plain, 0, 1, .fw, 0x0⟩
  | .BP_CTRL_APPLY => ⟨0x10000, 32, 128, .plain, 1, 1, .fw, 0x0⟩
  | .BP_CTRL_MUTE => ⟨0x10000, 32, 128, .plain, 2, 1, .rw, 0x0⟩
  | .BP_CTRL_SPAN => ⟨0x10000, 32, 128, .plain, 16, 16, .fw, 0x0⟩
  | .BP_STATUS_STATE => ⟨0x10004, 32, 128, .plain, 0, 3, .ro, 0x0⟩
  | .BP_STATUS_PENDING => ⟨0x10004, 32, 128, .plain, 3, 1, .ro, 0x0⟩
  | .BP_STATUS_REJECT => ⟨0x10004, 32, 128, .plain, 4, 4, .ro, 0x0⟩
  | .BP_STATUS_BUSY => ⟨0x10004, 32, 128, .plain, 8, 1, .w1c, 0x0⟩
  | .BP_STATUS_STEP => ⟨0x10004, 32, 128, .plain, 9, 1, .w1c, 0x0⟩
  | .BP_STATUS_GAP => ⟨0x10004, 32, 128, .plain, 10, 1, .w1c, 0x0⟩
  | .BP_STATUS_LATE => ⟨0x10004, 32, 128, .plain, 11, 1, .w1c, 0x0⟩
  | .BP_STATUS_SUBST_GRAINS => ⟨0x10004, 32, 128, .plain, 16, 16, .rc, 0x0⟩
  | .BP_ROUTE_SRC_KIND => ⟨0x10008, 32, 128, .plain, 0, 2, .fw, 0x0⟩
  | .BP_ROUTE_SRC_PORT => ⟨0x10008, 32, 128, .plain, 2, 2, .fw, 0x0⟩
  | .BP_ROUTE_SRC_NODE => ⟨0x10008, 32, 128, .plain, 4, 12, .fw, 0x0⟩
  | .BP_ROUTE_SRC_BP => ⟨0x10008, 32, 128, .plain, 16, 7, .fw, 0x0⟩
  | .BP_ROUTE_DST_KIND => ⟨0x10008, 32, 128, .plain, 23, 2, .fw, 0x0⟩
  | .BP_ROUTE_DST_PORT => ⟨0x10008, 32, 128, .plain, 25, 2, .fw, 0x0⟩
  | .BP_ROUTE_STRIPE => ⟨0x10008, 32, 128, .plain, 27, 2, .fw, 0x0⟩
  | .BP_ROUTE_GROUP => ⟨0x10008, 32, 128, .plain, 29, 2, .fw, 0x0⟩
  | .BP_FREQ_FREQ => ⟨0x1000C, 32, 128, .plain, 0, 32, .fw, 0x0⟩
  | .BP_DST_FREQ_FREQ => ⟨0x10010, 32, 128, .plain, 0, 32, .fw, 0x0⟩
  | .BP_GAIN_GAIN_NOW => ⟨0x10014, 32, 128, .plain, 0, 16, .ro, 0x8AD0⟩
  | .BP_GAIN_LEVEL_SP => ⟨0x10014, 32, 128, .plain, 16, 16, .rw, 0x0⟩
  | .CHZ_SEL_N => ⟨0x11000, 0, 5, .perRequester, 0, 7, .fw, 0x0⟩
  | .CHZ_CTRL_SYNC => ⟨0x11004, 0, 128, .window 1, 0, 1, .fw, 0x0⟩
  | .CHZ_CTRL_SWAP => ⟨0x11004, 0, 128, .window 1, 1, 1, .fw, 0x0⟩
  | .CHZ_CTRL_REQ_BANK => ⟨0x11004, 0, 128, .window 1, 2, 2, .fw, 0x0⟩
  | .CHZ_CTRL_FADE => ⟨0x11004, 0, 128, .window 1, 4, 4, .fw, 0x0⟩
  | .CHZ_CTRL_CHECK => ⟨0x11004, 0, 128, .window 1, 8, 1, .fw, 0x0⟩
  | .CHZ_CTRL_CHK_BANK => ⟨0x11004, 0, 128, .window 1, 9, 1, .fw, 0x0⟩
  | .CHZ_BANK_STATUS_ACTIVE => ⟨0x11008, 0, 128, .window 1, 0, 2, .ro, 0x0⟩
  | .CHZ_BANK_STATUS_PEND_BANK => ⟨0x11008, 0, 128, .window 1, 2, 2, .ro, 0x0⟩
  | .CHZ_BANK_STATUS_PENDING => ⟨0x11008, 0, 128, .window 1, 4, 1, .ro, 0x0⟩
  | .CHZ_BANK_STATUS_FADING => ⟨0x11008, 0, 128, .window 1, 5, 1, .ro, 0x0⟩
  | .CHZ_BANK_STATUS_WR_REFUSED => ⟨0x11008, 0, 128, .window 1, 6, 1, .w1c, 0x0⟩
  | .CHZ_BANK_STATUS_SWAP_REFUSED => ⟨0x11008, 0, 128, .window 1, 7, 1, .w1c, 0x0⟩
  | .CHZ_BANK_STATUS_OK2 => ⟨0x11008, 0, 128, .window 1, 8, 1, .ro, 0x0⟩
  | .CHZ_BANK_STATUS_OK3 => ⟨0x11008, 0, 128, .window 1, 9, 1, .ro, 0x0⟩
  | .CHZ_BANK_STATUS_CHECKING => ⟨0x11008, 0, 128, .window 1, 10, 1, .ro, 0x0⟩
  | .CHZ_BANK_STATUS_LOST_SWAP => ⟨0x11008, 0, 128, .window 1, 16, 16, .rc, 0x0⟩
  | .CHZ_CHAIN_D => ⟨0x1100C, 0, 128, .window 1, 0, 5, .ro, 0x0⟩
  | .CHZ_CHAIN_BYPASS => ⟨0x1100C, 0, 128, .window 1, 5, 1, .ro, 0x0⟩
  | .CHZ_SETTLE_COUNT => ⟨0x11010, 0, 128, .window 1, 0, 16, .ro, 0x0⟩
  | .CHZ_SRC_GD_LO_GD_LO => ⟨0x11014, 0, 128, .window 1, 0, 32, .ro, 0x0⟩
  | .CHZ_SRC_GD_HI_GD_HI => ⟨0x11018, 0, 128, .window 1, 0, 16, .ro, 0x0⟩
  | .CHZ_DST_GD_LO_GD_LO => ⟨0x1101C, 0, 128, .window 1, 0, 32, .ro, 0x0⟩
  | .CHZ_DST_GD_HI_GD_HI => ⟨0x11020, 0, 128, .window 1, 0, 16, .ro, 0x0⟩
  | .CHZ_GDC_GDC => ⟨0x11024, 0, 128, .window 1, 0, 32, .ro, 0x0⟩
  | .CHZ_DST_GDC_GDC => ⟨0x11028, 0, 128, .window 1, 0, 32, .ro, 0x0⟩
  | .CHZ_BANK_GD_GD2 => ⟨0x1102C, 0, 128, .window 1, 0, 16, .ro, 0x0⟩
  | .CHZ_BANK_GD_GD3 => ⟨0x1102C, 0, 128, .window 1, 16, 16, .ro, 0x0⟩
  | .CHZ_COEF_ADDR_TAP => ⟨0x11030, 0, 5, .perRequester, 0, 8, .fw, 0x0⟩
  | .CHZ_COEF_ADDR_BANK => ⟨0x11030, 0, 5, .perRequester, 8, 2, .fw, 0x0⟩
  | .CHZ_COEF_ADDR_AUTO_INC => ⟨0x11030, 0, 5, .perRequester, 10, 1, .fw, 0x0⟩
  | .CHZ_COEF_DATA_COEF => ⟨0x11034, 0, 5, .perRequester, 0, 18, .fw, 0x0⟩
  | .CHZ_HOST_SEL_N => ⟨0x11100, 0, 1, .plain, 0, 7, .rw, 0x0⟩
  | .GCE_SEL_N => ⟨0x12000, 0, 5, .perRequester, 0, 7, .fw, 0x0⟩
  | .GCE_MODE_SP_SRC => ⟨0x12004, 0, 128, .window 1, 0, 2, .fw, 0x0⟩
  | .GCE_MODE_LVL_MODE => ⟨0x12004, 0, 128, .window 1, 2, 1, .kl, 0x0⟩
  | .GCE_MODE_DET_SHIFT => ⟨0x12004, 0, 128, .window 1, 4, 4, .fw, 0x0⟩
  | .GCE_STAT_WINNER => ⟨0x12008, 0, 128, .window 1, 0, 3, .ro, 0x0⟩
  | .GCE_STAT_CS => ⟨0x12008, 0, 128, .window 1, 3, 2, .ro, 0x0⟩
  | .GCE_STAT_SP_CLAMP => ⟨0x12008, 0, 128, .window 1, 5, 1, .w1c, 0x0⟩
  | .GCE_STAT_CEIL_CLAMP => ⟨0x12008, 0, 128, .window 1, 6, 1, .w1c, 0x0⟩
  | .GCE_STAT_SRC_INV => ⟨0x12008, 0, 128, .window 1, 7, 1, .w1c, 0x0⟩
  | .GCE_STAT_DET_ARMED => ⟨0x12008, 0, 128, .window 1, 8, 1, .ro, 0x0⟩
  | .GCE_STAT_CS_LATE => ⟨0x12008, 0, 128, .window 1, 9, 1, .w1c, 0x0⟩
  | .GCE_LEVEL_LEVEL => ⟨0x1200C, 0, 128, .window 1, 0, 16, .ro, 0x8000⟩
  | .GCE_LEVEL_SP_RAMP => ⟨0x1200C, 0, 128, .window 1, 16, 16, .ro, 0x0⟩
  | .GCE_CAND0_C_LEV => ⟨0x12010, 0, 128, .window 1, 0, 16, .ro, 0x8AD0⟩
  | .GCE_CAND0_C_STAB => ⟨0x12010, 0, 128, .window 1, 16, 16, .ro, 0x8AD0⟩
  | .GCE_CAND1_C_EMIT => ⟨0x12014, 0, 128, .window 1, 0, 16, .ro, 0x8AD0⟩
  | .GCE_CAND1_C_THM => ⟨0x12014, 0, 128, .window 1, 16, 16, .ro, 0x8AD0⟩
  | .GCE_FIX_FIX_SP => ⟨0x12018, 0, 128, .window 1, 0, 16, .fw, 0x0⟩
  | .GCE_MAP_MAP_LO => ⟨0x1201C, 0, 128, .window 1, 0, 16, .fw, 0x0⟩
  | .GCE_MAP_MAP_HI => ⟨0x1201C, 0, 128, .window 1, 16, 16, .fw, 0x0⟩
  | .GCE_SP_LIM_SP_MIN => ⟨0x12020, 0, 128, .window 1, 0, 16, .kl, 0x0⟩
  | .GCE_SP_LIM_SP_MAX => ⟨0x12020, 0, 128, .window 1, 16, 16, .kl, 0x0⟩
  | .GCE_CEIL_HARD_CEIL => ⟨0x12024, 0, 128, .window 1, 0, 16, .kl, 0x0⟩
  | .GCE_CEIL_FW_CEIL => ⟨0x12024, 0, 128, .window 1, 16, 16, .fw, 0x0⟩
  | .GCE_SLEW_SP_SLEW => ⟨0x12028, 0, 128, .window 1, 0, 16, .kl, 0x0⟩
  | .GCE_SLEW_FW_SP_SLEW => ⟨0x12028, 0, 128, .window 1, 16, 16, .fw, 0x0⟩
  | .GCE_GSLEW_GAIN_SLEW => ⟨0x1202C, 0, 128, .window 1, 0, 16, .kl, 0x0⟩
  | .GCE_GSLEW_COLD_RAMP => ⟨0x1202C, 0, 128, .window 1, 16, 16, .kl, 0x0⟩
  | .GCE_KLEV_KP => ⟨0x12030, 0, 128, .window 1, 0, 16, .fw, 0x0⟩
  | .GCE_KLEV_KI => ⟨0x12030, 0, 128, .window 1, 16, 16, .fw, 0x0⟩
  | .GCE_KSE_KS => ⟨0x12034, 0, 128, .window 1, 0, 16, .fw, 0x0⟩
  | .GCE_KSE_KE => ⟨0x12034, 0, 128, .window 1, 16, 16, .fw, 0x0⟩
  | .GCE_KTH_KTH => ⟨0x12038, 0, 128, .window 1, 0, 16, .fw, 0x0⟩
  | .GCE_KTH_SLOPE => ⟨0x12038, 0, 128, .window 1, 16, 16, .fw, 0x0⟩
  | .GCE_THERM_THERM_SP => ⟨0x1203C, 0, 128, .window 1, 0, 16, .fw, 0x0⟩
  | .GCE_TRACK_KT_LEV => ⟨0x12040, 0, 128, .window 1, 0, 8, .fw, 0x0⟩
  | .GCE_TRACK_KT_STAB => ⟨0x12040, 0, 128, .window 1, 8, 8, .fw, 0x0⟩
  | .GCE_TRACK_KT_EMIT => ⟨0x12040, 0, 128, .window 1, 16, 8, .fw, 0x0⟩
  | .GCE_TRACK_KT_THM => ⟨0x12040, 0, 128, .window 1, 24, 8, .fw, 0x0⟩
  | .GCE_OVR_OVR_CONSEC => ⟨0x12044, 0, 128, .window 1, 0, 2, .ro, 0x0⟩
  | .GCE_OVR_OVR_COUNT => ⟨0x12044, 0, 128, .window 1, 16, 16, .rc, 0x0⟩
  | .GCE_TICK_OVERRUN_TICKS => ⟨0x12080, 0, 1, .plain, 0, 16, .rc, 0x0⟩
  | .GCE_TICK_LATE_SDL => ⟨0x12080, 0, 1, .plain, 16, 1, .w1c, 0x0⟩
  | .GCE_TICK_LATE_EMG => ⟨0x12080, 0, 1, .plain, 17, 1, .w1c, 0x0⟩
  | .GCE_TICK_LATE_THM => ⟨0x12080, 0, 1, .plain, 18, 1, .w1c, 0x0⟩
  | .GCE_TICK_LATE_MON => ⟨0x12080, 0, 1, .plain, 19, 1, .w1c, 0x0⟩
  | .GCE_TICK_ECC_RETRY => ⟨0x12080, 0, 1, .plain, 20, 1, .w1c, 0x0⟩
  | .GCE_SETA_CODE => ⟨0x12084, 0, 1, .plain, 0, 16, .ro, 0x0⟩
  | .GCE_SETA_VALID => ⟨0x12084, 0, 1, .plain, 16, 1, .ro, 0x0⟩
  | .GCE_SETP_DUTY => ⟨0x12088, 0, 1, .plain, 0, 16, .ro, 0x0⟩
  | .GCE_SETP_VALID => ⟨0x12088, 0, 1, .plain, 16, 1, .ro, 0x0⟩
  | .GCE_SETP_STUCK => ⟨0x12088, 0, 1, .plain, 17, 1, .w1c, 0x0⟩
  | .GCE_SETP_FAST => ⟨0x12088, 0, 1, .plain, 18, 1, .w1c, 0x0⟩
  | .GCE_SETP_SLOW => ⟨0x12088, 0, 1, .plain, 19, 1, .w1c, 0x0⟩
  | .GCE_SETP_PER_PERIOD => ⟨0x1208C, 0, 1, .plain, 0, 24, .ro, 0x0⟩
  | .GCE_SETP_CNT_INVALID_EVENTS => ⟨0x12090, 0, 1, .plain, 0, 16, .rc, 0x0⟩
  | .GCE_HOST_SEL_N => ⟨0x12100, 0, 1, .plain, 0, 7, .rw, 0x0⟩
  | .SDL_SEL_N => ⟨0x13000, 0, 5, .perRequester, 0, 7, .fw, 0x0⟩
  | .SDL_CTRL_K_LOG2 => ⟨0x13004, 0, 128, .window 1, 0, 5, .fw, 0x0⟩
  | .SDL_CTRL_PROBE_REL => ⟨0x13004, 0, 128, .window 1, 8, 6, .fw, 0x0⟩
  | .SDL_STATUS_MEAS_DONE => ⟨0x13008, 0, 128, .window 1, 0, 1, .ro, 0x0⟩
  | .SDL_STATUS_NEW_LOOP => ⟨0x13008, 0, 128, .window 1, 1, 1, .w1c, 0x0⟩
  | .SDL_STATUS_FLOOR_HIGH => ⟨0x13008, 0, 128, .window 1, 2, 1, .ro, 0x0⟩
  | .SDL_STATUS_G1_MUTED => ⟨0x13008, 0, 128, .window 1, 3, 1, .ro, 0x0⟩
  | .SDL_STATUS_G1_MARGIN => ⟨0x13008, 0, 128, .window 1, 4, 1, .w1c, 0x0⟩
  | .SDL_STATUS_G1_OVERLOAD => ⟨0x13008, 0, 128, .window 1, 5, 1, .w1c, 0x0⟩
  | .SDL_STATUS_PROBE_CLAMP => ⟨0x13008, 0, 128, .window 1, 6, 1, .w1c, 0x0⟩
  | .SDL_STATUS_TARGET_CLAMP => ⟨0x13008, 0, 128, .window 1, 7, 1, .w1c, 0x0⟩
  | .SDL_STATUS_MEMBERS => ⟨0x13008, 0, 128, .window 1, 8, 4, .ro, 0x1⟩
  | .SDL_STATUS_WORST_SB => ⟨0x13008, 0, 128, .window 1, 12, 3, .ro, 0x0⟩
  | .SDL_STATUS_UPDATES => ⟨0x13008, 0, 128, .window 1, 16, 16, .ro, 0x0⟩
  | .SDL_TARGET_TARGET => ⟨0x1300C, 0, 128, .window 1, 0, 16, .fw, 0x0⟩
  | .SDL_BOUND_U_MAX => ⟨0x13010, 0, 128, .window 1, 0, 16, .ro, 0x8000⟩
  | .SDL_BOUND_FLOOR_MAX => ⟨0x13010, 0, 128, .window 1, 16, 16, .ro, 0x8000⟩
  | .SDL_HEAD_H_S => ⟨0x13014, 0, 128, .window 1, 0, 16, .ro, 0x0⟩
  | .SDL_HEAD_PROBE => ⟨0x13014, 0, 128, .window 1, 16, 16, .ro, 0x8000⟩
  | .SDL_SUB_U_LO => ⟨0x13018, 4, 512, .window 4, 0, 16, .ro, 0x8000⟩
  | .SDL_SUB_U_HI => ⟨0x13018, 4, 512, .window 4, 16, 16, .ro, 0x8000⟩
  | .SDL_WATCH_BP => ⟨0x13038, 4, 1920, .window 15, 0, 7, .fw, 0x0⟩
  | .SDL_WATCH_NODE => ⟨0x13038, 4, 1920, .window 15, 7, 12, .fw, 0x0⟩
  | .SDL_WATCH_EN => ⟨0x13038, 4, 1920, .window 15, 31, 1, .fw, 0x0⟩
  | .SDL_DETECT_DET => ⟨0x13074, 0, 128, .window 1, 0, 15, .ro, 0x0⟩
  | .SDL_DETECT_MUTUAL => ⟨0x13074, 0, 128, .window 1, 15, 15, .ro, 0x0⟩
  | .SDL_COUNT_NEW_LOOPS => ⟨0x13078, 0, 128, .window 1, 0, 16, .rc, 0x0⟩
  | .SDL_COUNT_G1_TRIPS => ⟨0x13078, 0, 128, .window 1, 16, 16, .rc, 0x0⟩
  | .SDL_LIMIT_HARD_FLOOR => ⟨0x13080, 0, 1, .plain, 0, 16, .kl, 0x0⟩
  | .SDL_LIMIT_PROBE_MAX => ⟨0x13080, 0, 1, .plain, 16, 16, .kl, 0x0⟩
  | .SDL_G1_OVL_N => ⟨0x13084, 0, 1, .plain, 0, 7, .kl, 0x0⟩
  | .SDL_G1_HOLD => ⟨0x13084, 0, 1, .plain, 16, 16, .fw, 0x0⟩
  | .SDL_RISE_RISE_MAX => ⟨0x13088, 0, 1, .plain, 0, 16, .kl, 0x0⟩
  | .SDL_DIGEST_DIGESTS_RX => ⟨0x1308C, 0, 1, .plain, 0, 16, .rc, 0x0⟩
  | .SDL_DIGEST_DIGEST_MISS => ⟨0x1308C, 0, 1, .plain, 16, 16, .rc, 0x0⟩
  | .SDL_HOST_SEL_N => ⟨0x13100, 0, 1, .plain, 0, 7, .rw, 0x0⟩
  | .GRG_FREE_FREE => ⟨0x14000, 0, 1, .plain, 0, 24, .ro, 0x0⟩
  | .GRG_OWNED_OWNED => ⟨0x14004, 0, 1, .plain, 0, 24, .ro, 0x0⟩
  | .GRG_QUAR_QUARANTINED => ⟨0x14008, 0, 1, .plain, 0, 16, .ro, 0x0⟩
  | .GRG_QUAR_RETIRED => ⟨0x14008, 0, 1, .plain, 16, 16, .ro, 0x0⟩
  | .GRG_SEAL_FAIL_FAILS => ⟨0x1400C, 0, 1, .plain, 0, 16, .rc, 0x0⟩
  | .GRG_LAST_BAD_TILE => ⟨0x14010, 0, 1, .plain, 0, 23, .ro, 0x0⟩
  | .GRG_LAST_BAD_CAUSE => ⟨0x14010, 0, 1, .plain, 24, 3, .ro, 0x0⟩
  | .GRG_LAST_OWNER_OWNER => ⟨0x14014, 0, 1, .plain, 0, 16, .ro, 0x0⟩
  | .GRG_LAST_OWNER_GEN => ⟨0x14014, 0, 1, .plain, 16, 16, .ro, 0x0⟩
  | .GRG_KEEP_RESENT => ⟨0x14018, 0, 1, .plain, 0, 16, .rc, 0x0⟩
  | .GRG_KEEP_KEEP_DROP => ⟨0x14018, 0, 1, .plain, 16, 16, .rc, 0x0⟩
  | .FLO_SEL_N => ⟨0x15000, 0, 5, .perRequester, 0, 7, .fw, 0x0⟩
  | .FLO_CTRL_STEP_OK => ⟨0x15004, 0, 128, .window 1, 0, 1, .fw, 0x0⟩
  | .FLO_CTRL_STRICT => ⟨0x15004, 0, 128, .window 1, 1, 1, .fw, 0x0⟩
  | .FLO_CTRL_RESTORE => ⟨0x15004, 0, 128, .window 1, 2, 1, .fw, 0x0⟩
  | .FLO_CTRL_ESTAB_MARGIN => ⟨0x15004, 0, 128, .window 1, 8, 8, .fw, 0x0⟩
  | .FLO_CTRL_SLACK_WARN => ⟨0x15004, 0, 128, .window 1, 16, 16, .fw, 0x0⟩
  | .FLO_STATUS_DSTATE => ⟨0x15008, 0, 128, .window 1, 0, 3, .ro, 0x0⟩
  | .FLO_STATUS_SLEWING => ⟨0x15008, 0, 128, .window 1, 3, 1, .ro, 0x0⟩
  | .FLO_STATUS_REJECT => ⟨0x15008, 0, 128, .window 1, 4, 4, .ro, 0x0⟩
  | .FLO_STATUS_TS_JUMP => ⟨0x15008, 0, 128, .window 1, 8, 1, .w1c, 0x0⟩
  | .FLO_STATUS_TS_BAD => ⟨0x15008, 0, 128, .window 1, 9, 1, .w1c, 0x0⟩
  | .FLO_STATUS_POISON => ⟨0x15008, 0, 128, .window 1, 10, 1, .w1c, 0x0⟩
  | .FLO_STATUS_SLEW_CLAMP => ⟨0x15008, 0, 128, .window 1, 11, 1, .w1c, 0x0⟩
  | .FLO_STATUS_SLACK_LOW => ⟨0x15008, 0, 128, .window 1, 12, 1, .ro, 0x0⟩
  | .FLO_TARGET_LO_TARGET => ⟨0x1500C, 0, 128, .window 1, 0, 32, .fw, 0x0⟩
  | .FLO_TARGET_HI_TARGET => ⟨0x15010, 0, 128, .window 1, 0, 16, .fw, 0x0⟩
  | .FLO_APPLIED_LO_APPLIED => ⟨0x15014, 0, 128, .window 1, 0, 32, .ro, 0x0⟩
  | .FLO_APPLIED_HI_APPLIED => ⟨0x15018, 0, 128, .window 1, 0, 16, .ro, 0x0⟩
  | .FLO_MIN_LO_DMIN => ⟨0x1501C, 0, 128, .window 1, 0, 32, .ro, 0x0⟩
  | .FLO_MIN_HI_DMIN => ⟨0x15020, 0, 128, .window 1, 0, 16, .ro, 0x0⟩
  | .FLO_AGE_LO_AGE => ⟨0x15024, 0, 128, .window 1, 0, 32, .ro, 0x0⟩
  | .FLO_AGE_HI_AGE => ⟨0x15028, 0, 128, .window 1, 0, 16, .ro, 0x0⟩
  | .FLO_LDST_LO_LDST => ⟨0x1502C, 0, 128, .window 1, 0, 32, .ro, 0x0⟩
  | .FLO_LDST_HI_LDST => ⟨0x15030, 0, 128, .window 1, 0, 16, .ro, 0x0⟩
  | .FLO_MU_MU => ⟨0x15034, 0, 128, .window 1, 0, 32, .ro, 0x0⟩
  | .FLO_TILES_RESERVED => ⟨0x15038, 0, 128, .window 1, 0, 24, .ro, 0x0⟩
  | .FLO_FILL_GRAINS => ⟨0x1503C, 0, 128, .window 1, 0, 32, .ro, 0x0⟩
  | .FLO_COUNT_STEPS => ⟨0x15040, 0, 128, .window 1, 0, 16, .rc, 0x0⟩
  | .FLO_COUNT_LOST_EVENTS => ⟨0x15040, 0, 128, .window 1, 16, 16, .rc, 0x0⟩
  | .FLO_COUNT1_POISON_GRAINS => ⟨0x15044, 0, 128, .window 1, 0, 16, .rc, 0x0⟩
  | .FLO_COUNT1_DUP_GRAINS => ⟨0x15044, 0, 128, .window 1, 16, 16, .rc, 0x0⟩
  | .FLO_TOL_TS_TOL => ⟨0x15048, 0, 128, .window 1, 0, 16, .fw, 0x0⟩
  | .FLO_SLEW_DLY_SLEW => ⟨0x15080, 0, 1, .plain, 0, 16, .kl, 0x0⟩
  | .FLO_SLEW_FW_DLY_SLEW => ⟨0x15080, 0, 1, .plain, 16, 16, .fw, 0x0⟩
  | .FLO_HOST_SEL_N => ⟨0x15100, 0, 1, .plain, 0, 7, .rw, 0x0⟩
  | .EMG_CTRL_INT => ⟨0x16000, 32, 4, .plain, 0, 3, .fw, 0x0⟩
  | .EMG_CTRL_HOLD => ⟨0x16000, 32, 4, .plain, 16, 16, .fw, 0x0⟩
  | .EMG_STATUS_PORT_MUTED => ⟨0x16004, 32, 4, .plain, 0, 1, .ro, 0x0⟩
  | .EMG_STATUS_OUT => ⟨0x16004, 32, 4, .plain, 1, 1, .w1c, 0x0⟩
  | .EMG_STATUS_PILOT => ⟨0x16004, 32, 4, .plain, 2, 1, .w1c, 0x0⟩
  | .EMG_STATUS_TILE => ⟨0x16004, 32, 4, .plain, 3, 1, .ro, 0x0⟩
  | .EMG_STATUS_FOREIGN_N => ⟨0x16004, 32, 4, .plain, 8, 5, .ro, 0x0⟩
  | .EMG_STATUS_G2_PORT_TRIPS => ⟨0x16004, 32, 4, .plain, 16, 16, .rc, 0x0⟩
  | .EMG_FLOOR_N => ⟨0x16008, 32, 4, .plain, 0, 16, .ro, 0x0⟩
  | .EMG_FLOOR_V => ⟨0x16008, 32, 4, .plain, 16, 16, .ro, 0x0⟩
  | .EMG_WORST_BIN_BIN => ⟨0x1600C, 32, 4, .plain, 0, 24, .ro, 0x0⟩
  | .EMG_WORST_EXCESS => ⟨0x16010, 32, 4, .plain, 0, 16, .ro, 0x8000⟩
  | .EMG_LIMIT_TRIP_DB => ⟨0x16080, 0, 1, .plain, 0, 16, .kl, 0x0⟩
  | .EMG_LIMIT_OBS_ATT_MAX => ⟨0x16080, 0, 1, .plain, 16, 4, .kl, 0x0⟩
  | .EMG_LIMIT_CEIL_LOG2 => ⟨0x16080, 0, 1, .plain, 20, 4, .kl, 0x0⟩
  | .EMG_LIMIT_FOREIGN_EN => ⟨0x16080, 0, 1, .plain, 24, 1, .kl, 0x0⟩
  | .EMG_LIMIT1_BACKOFF_MIN => ⟨0x16084, 0, 1, .plain, 0, 16, .kl, 0x0⟩
  | .EMG_SEL_N => ⟨0x160C0, 0, 5, .perRequester, 0, 7, .fw, 0x0⟩
  | .EMG_BP_CTRL_EMIT_BACKOFF => ⟨0x160C4, 0, 128, .window 1, 0, 16, .fw, 0x0⟩
  | .EMG_BP_STATUS_H_E => ⟨0x160C8, 0, 128, .window 1, 0, 16, .ro, 0x0⟩
  | .EMG_BP_STATUS_G2_MUTED => ⟨0x160C8, 0, 128, .window 1, 16, 1, .ro, 0x0⟩
  | .EMG_BP_STATUS_FINE => ⟨0x160C8, 0, 128, .window 1, 17, 1, .w1c, 0x0⟩
  | .EMG_BP_STATUS_CEILING => ⟨0x160C8, 0, 128, .window 1, 18, 1, .w1c, 0x0⟩
  | .EMG_BP_STATUS_FORBID => ⟨0x160C8, 0, 128, .window 1, 19, 1, .ro, 0x0⟩
  | .EMG_BP_STATUS_BACKOFF_CLAMP => ⟨0x160C8, 0, 128, .window 1, 20, 1, .w1c, 0x0⟩
  | .EMG_BP_STATUS_PORT => ⟨0x160C8, 0, 128, .window 1, 21, 1, .w1c, 0x0⟩
  | .EMG_BP_STATUS_SHARE => ⟨0x160C8, 0, 128, .window 1, 22, 6, .ro, 0x1⟩
  | .EMG_BP_CEIL_CEIL => ⟨0x160CC, 0, 128, .window 1, 0, 16, .ro, 0x8000⟩
  | .EMG_BP_CEIL_G2_TRIPS => ⟨0x160CC, 0, 128, .window 1, 16, 16, .rc, 0x0⟩
  | .EMG_HOST_SEL_N => ⟨0x161C0, 0, 1, .plain, 0, 7, .rw, 0x0⟩
  | .PLN_STATUS_LOADED => ⟨0x17000, 0, 1, .plain, 0, 1, .ro, 0x0⟩
  | .PLN_STATUS_REBUILD => ⟨0x17000, 0, 1, .plain, 1, 1, .ro, 0x0⟩
  | .PLN_STATUS_BAD_TILES => ⟨0x17000, 0, 1, .plain, 16, 16, .rc, 0x0⟩
  | .PLN_PORT_OFS_OFS0 => ⟨0x17004, 0, 1, .plain, 0, 8, .kl, 0x0⟩
  | .PLN_PORT_OFS_OFS1 => ⟨0x17004, 0, 1, .plain, 8, 8, .kl, 0x0⟩
  | .PLN_PORT_OFS_OFS2 => ⟨0x17004, 0, 1, .plain, 16, 8, .kl, 0x0⟩
  | .PLN_PORT_OFS_OFS3 => ⟨0x17004, 0, 1, .plain, 24, 8, .kl, 0x0⟩
  | .PLN_T_SEL_R_SEL => ⟨0x17008, 0, 1, .plain, 0, 5, .fw, 0x0⟩
  | .PLN_T_FIRST_FIRST => ⟨0x1700C, 0, 1, .plain, 0, 24, .fw, 0x0⟩
  | .PLN_T_FIRST_EN => ⟨0x1700C, 0, 1, .plain, 31, 1, .fw, 0x0⟩
  | .PLN_T_LAST_LAST => ⟨0x17010, 0, 1, .plain, 0, 24, .fw, 0x0⟩
  | .PLN_T_LIM_LIMIT => ⟨0x17014, 0, 1, .plain, 0, 16, .fw, 0x0⟩
  | .PLN_T_LIM_PORTS => ⟨0x17014, 0, 1, .plain, 16, 4, .fw, 0x0⟩
  | .PLN_RD_ADDR_BIN => ⟨0x17018, 0, 1, .plain, 0, 24, .rw, 0x0⟩
  | .PLN_RD_ADDR_PORT => ⟨0x17018, 0, 1, .plain, 24, 2, .rw, 0x0⟩
  | .PLN_RD_DATA_ENTRY => ⟨0x1701C, 0, 1, .plain, 0, 16, .ro, 0x0⟩
  | .PLN_RD_DATA_EFF => ⟨0x1701C, 0, 1, .plain, 16, 16, .ro, 0x0⟩
  | .PLB_CTRL_PPS_OUT_EN => ⟨0x18000, 0, 1, .plain, 0, 1, .fw, 0x0⟩
  | .PLB_CTRL_PPS_OUT_MODE => ⟨0x18000, 0, 1, .plain, 1, 1, .fw, 0x0⟩
  | .PLB_CTRL_REF_OUT_EN => ⟨0x18000, 0, 1, .plain, 2, 1, .fw, 0x0⟩
  | .PLB_CTRL_PPS_WIDTH => ⟨0x18000, 0, 1, .plain, 4, 10, .fw, 0x0⟩
  | .PLB_CTRL_CHECK_LIM => ⟨0x18000, 0, 1, .plain, 16, 16, .fw, 0x0⟩
  | .PLB_STATUS_TSTATE => ⟨0x18004, 0, 1, .plain, 0, 3, .ro, 0x0⟩
  | .PLB_STATUS_ROLE => ⟨0x18004, 0, 1, .plain, 3, 2, .ro, 0x0⟩
  | .PLB_STATUS_PARENT => ⟨0x18004, 0, 1, .plain, 5, 4, .ro, 0x0⟩
  | .PLB_STATUS_TIME_OK => ⟨0x18004, 0, 1, .plain, 9, 1, .ro, 0x0⟩
  | .PLB_STATUS_PPS_IN_OK => ⟨0x18004, 0, 1, .plain, 10, 1, .ro, 0x0⟩
  | .PLB_STATUS_REF_IN_OK => ⟨0x18004, 0, 1, .plain, 11, 1, .ro, 0x0⟩
  | .PLB_STATUS_TIME_AHEAD => ⟨0x18004, 0, 1, .plain, 12, 1, .ro, 0x0⟩
  | .PLB_STATUS_ASYM_MISMATCH => ⟨0x18004, 0, 1, .plain, 13, 1, .w1c, 0x0⟩
  | .PLB_STATUS_CHECK_FAIL => ⟨0x18004, 0, 1, .plain, 14, 1, .w1c, 0x0⟩
  | .PLB_STATUS_FI_LIMIT => ⟨0x18004, 0, 1, .plain, 15, 1, .w1c, 0x0⟩
  | .PLB_STATUS_SLEW_CLAMP => ⟨0x18004, 0, 1, .plain, 16, 1, .w1c, 0x0⟩
  | .PLB_STATUS_TOD_REFUSED => ⟨0x18004, 0, 1, .plain, 17, 1, .w1c, 0x0⟩
  | .PLB_TIME0_FRAC => ⟨0x18008, 0, 1, .plain, 0, 16, .ro, 0x0⟩
  | .PLB_TIME0_NS_LO => ⟨0x18008, 0, 1, .plain, 16, 16, .ro, 0x0⟩
  | .PLB_TIME1_NS_HI => ⟨0x1800C, 0, 1, .plain, 0, 14, .ro, 0x0⟩
  | .PLB_TIME1_SEC_LO => ⟨0x1800C, 0, 1, .plain, 14, 18, .ro, 0x0⟩
  | .PLB_TIME2_SEC_HI => ⟨0x18010, 0, 1, .plain, 0, 30, .ro, 0x0⟩
  | .PLB_ROOT_UID_LO_UID => ⟨0x18014, 0, 1, .plain, 0, 32, .ro, 0x0⟩
  | .PLB_ROOT_UID_HI_UID => ⟨0x18018, 0, 1, .plain, 0, 32, .ro, 0x0⟩
  | .PLB_ROOT_CLASS => ⟨0x1801C, 0, 1, .plain, 0, 8, .ro, 0xFF⟩
  | .PLB_ROOT_PRIORITY => ⟨0x1801C, 0, 1, .plain, 8, 8, .ro, 0xFF⟩
  | .PLB_ROOT_STEPS => ⟨0x1801C, 0, 1, .plain, 16, 8, .ro, 0x0⟩
  | .PLB_RANK_PRIORITY => ⟨0x18020, 0, 1, .plain, 0, 8, .kl, 0x0⟩
  | .PLB_RANK_GM_EN => ⟨0x18020, 0, 1, .plain, 8, 1, .kl, 0x0⟩
  | .PLB_RANK_ROOT_EN => ⟨0x18020, 0, 1, .plain, 9, 1, .kl, 0x0⟩
  | .PLB_RANK_HOLD_LIMIT => ⟨0x18020, 0, 1, .plain, 16, 16, .kl, 0x0⟩
  | .PLB_LOOP_TP => ⟨0x18024, 0, 1, .plain, 0, 5, .fw, 0x0⟩
  | .PLB_LOOP_TI => ⟨0x18024, 0, 1, .plain, 8, 5, .fw, 0x0⟩
  | .PLB_LOOP_STEP_MIN => ⟨0x18024, 0, 1, .plain, 16, 16, .fw, 0x0⟩
  | .PLB_SLEW_PHASE_SLEW => ⟨0x18028, 0, 1, .plain, 0, 16, .kl, 0x0⟩
  | .PLB_SLEW_FW_PHASE_SLEW => ⟨0x18028, 0, 1, .plain, 16, 16, .fw, 0x0⟩
  | .PLB_FI_FI => ⟨0x1802C, 0, 1, .plain, 0, 32, .ro, 0x0⟩
  | .PLB_OFFSET_OFS => ⟨0x18030, 0, 1, .plain, 0, 32, .ro, 0x0⟩
  | .PLB_PPS_IN_DLY_DLY => ⟨0x18034, 0, 1, .plain, 0, 32, .kl, 0x0⟩
  | .PLB_REF_IN_DLY_DLY => ⟨0x18038, 0, 1, .plain, 0, 32, .kl, 0x0⟩
  | .PLB_PPS_OUT_DLY_DLY => ⟨0x1803C, 0, 1, .plain, 0, 32, .kl, 0x0⟩
  | .PLB_REF_OUT_DLY_DLY => ⟨0x18040, 0, 1, .plain, 0, 32, .kl, 0x0⟩
  | .PLB_REF_STAT_PPS_REJECT => ⟨0x18044, 0, 1, .plain, 0, 16, .rc, 0x0⟩
  | .PLB_REF_STAT_PPS_REF_SKEW => ⟨0x18044, 0, 1, .plain, 16, 1, .w1c, 0x0⟩
  | .PLB_REF_STAT_REF_BAD => ⟨0x18044, 0, 1, .plain, 17, 1, .w1c, 0x0⟩
  | .PLB_TOD_LO_SEC_LO => ⟨0x18048, 0, 1, .plain, 0, 32, .fw, 0x0⟩
  | .PLB_TOD_HI_SEC_HI => ⟨0x1804C, 0, 1, .plain, 0, 16, .fw, 0x0⟩
  | .PLB_TOD_HI_ARM => ⟨0x1804C, 0, 1, .plain, 31, 1, .fw, 0x0⟩
  | .PLB_HOLD_HOLD_S => ⟨0x18050, 0, 1, .plain, 0, 16, .ro, 0x0⟩
  | .PLB_HOLD_HOLD_ERR => ⟨0x18050, 0, 1, .plain, 16, 16, .ro, 0x0⟩
  | .PLB_COUNT_STEPS => ⟨0x18054, 0, 1, .plain, 0, 16, .rc, 0x0⟩
  | .PLB_COUNT_EPOCH => ⟨0x18054, 0, 1, .plain, 16, 8, .ro, 0x0⟩
  | .PLB_COUNT_ROOT_CHANGES => ⟨0x18054, 0, 1, .plain, 24, 8, .rc, 0x0⟩
  | .PLB_UNC_PATH_UNC => ⟨0x18058, 0, 1, .plain, 0, 16, .ro, 0x0⟩
  | .PLB_GM_TP_PPS => ⟨0x1805C, 0, 1, .plain, 0, 5, .fw, 0x0⟩
  | .PLB_GM_TI_PPS => ⟨0x1805C, 0, 1, .plain, 8, 5, .fw, 0x0⟩
  | .PLB_LSTAT_LROLE => ⟨0x18100, 32, 16, .plain, 0, 2, .ro, 0x0⟩
  | .PLB_LSTAT_PEER_OK => ⟨0x18100, 32, 16, .plain, 2, 1, .ro, 0x0⟩
  | .PLB_LSTAT_MISMATCH => ⟨0x18100, 32, 16, .plain, 3, 1, .w1c, 0x0⟩
  | .PLB_LSTAT_CHECK_FAIL => ⟨0x18100, 32, 16, .plain, 4, 1, .w1c, 0x0⟩
  | .PLB_LSTAT_PEER_STEPS => ⟨0x18100, 32, 16, .plain, 16, 8, .ro, 0xFF⟩
  | .PLB_ASYM_FIX_FIX => ⟨0x18104, 32, 16, .plain, 0, 32, .kl, 0x0⟩
  | .PLB_ASYM_RATIO_RATIO => ⟨0x18108, 32, 16, .plain, 0, 32, .kl, 0x0⟩
  | .PLB_LCFG_ASYM_UNC => ⟨0x1810C, 32, 16, .plain, 0, 16, .kl, 0x0⟩
  | .PLB_LCFG_COST => ⟨0x1810C, 32, 16, .plain, 16, 8, .kl, 0x0⟩
  | .PLB_LOFS_THETA => ⟨0x18110, 32, 16, .plain, 0, 32, .ro, 0x0⟩
  | .PLB_LDLY_LO_D_LO => ⟨0x18114, 32, 16, .plain, 0, 32, .ro, 0x0⟩
  | .PLB_LDLY_HI_D_HI => ⟨0x18118, 32, 16, .plain, 0, 16, .ro, 0x0⟩
  | .PLB_LCOUNT_EXCH => ⟨0x1811C, 32, 16, .plain, 0, 16, .ro, 0x0⟩
  | .PLB_LCOUNT_EXCH_BAD => ⟨0x1811C, 32, 16, .plain, 16, 16, .rc, 0x0⟩
  | .COL_ID_LO_ID_LO => ⟨0x19000, 0, 1, .plain, 0, 32, .ro, 0x0⟩
  | .COL_ID_HI_ID_HI => ⟨0x19004, 0, 1, .plain, 0, 32, .ro, 0x0⟩
  | .COL_NODE_ADDR => ⟨0x19008, 0, 1, .plain, 0, 12, .ro, 0x0⟩
  | .COL_NODE_VALID => ⟨0x19008, 0, 1, .plain, 12, 1, .ro, 0x0⟩
  | .COL_NODE_AUTO => ⟨0x19008, 0, 1, .plain, 14, 1, .kl, 0x0⟩
  | .COL_NODE_REQ_ADDR => ⟨0x19008, 0, 1, .plain, 16, 12, .kl, 0x0⟩
  | .COL_CTRL_FWD_EN => ⟨0x1900C, 0, 1, .plain, 0, 1, .kl, 0x0⟩
  | .COL_CTRL_HOPMAX => ⟨0x1900C, 0, 1, .plain, 8, 5, .kl, 0x0⟩
  | .COL_STATUS_ADDR_CONFLICT => ⟨0x19010, 0, 1, .plain, 0, 1, .w1c, 0x0⟩
  | .COL_STATUS_LSDB_FULL => ⟨0x19010, 0, 1, .plain, 1, 1, .w1c, 0x0⟩
  | .COL_STATUS_ROUTE_BUSY => ⟨0x19010, 0, 1, .plain, 2, 1, .ro, 0x0⟩
  | .COL_STATUS_NODES => ⟨0x19010, 0, 1, .plain, 4, 13, .ro, 0x0⟩
  | .COL_COUNT0_REPAIRS => ⟨0x19014, 0, 1, .plain, 0, 16, .rc, 0x0⟩
  | .COL_COUNT0_REPAIR_FAIL => ⟨0x19014, 0, 1, .plain, 16, 16, .rc, 0x0⟩
  | .COL_COUNT1_HOP_DROP => ⟨0x19018, 0, 1, .plain, 0, 16, .rc, 0x0⟩
  | .COL_COUNT1_NO_ROUTE => ⟨0x19018, 0, 1, .plain, 16, 16, .rc, 0x0⟩
  | .COL_COUNT2_MSG_DISCARD => ⟨0x1901C, 0, 1, .plain, 0, 16, .rc, 0x0⟩
  | .COL_COUNT2_ADDR_CHANGES => ⟨0x1901C, 0, 1, .plain, 16, 16, .rc, 0x0⟩
  | .COL_SEL_N => ⟨0x19020, 0, 5, .perRequester, 0, 7, .fw, 0x0⟩
  | .COL_BP_STATUS_ROLE => ⟨0x19024, 0, 128, .window 1, 0, 2, .ro, 0x0⟩
  | .COL_BP_STATUS_ROUTED => ⟨0x19024, 0, 128, .window 1, 2, 1, .ro, 0x0⟩
  | .COL_BP_STATUS_UNRES => ⟨0x19024, 0, 128, .window 1, 3, 1, .ro, 0x0⟩
  | .COL_BP_STATUS_REPAIRING => ⟨0x19024, 0, 128, .window 1, 4, 1, .ro, 0x0⟩
  | .COL_BP_STATUS_HOPS => ⟨0x19024, 0, 128, .window 1, 5, 5, .ro, 0x0⟩
  | .COL_BP_STATUS_K1 => ⟨0x19024, 0, 128, .window 1, 10, 2, .ro, 0x0⟩
  | .COL_BP_STATUS_LAST_NAK => ⟨0x19024, 0, 128, .window 1, 12, 4, .ro, 0x0⟩
  | .COL_BP_STATUS_PEER => ⟨0x19024, 0, 128, .window 1, 16, 12, .ro, 0x0⟩
  | .COL_BP_RATE_RATE => ⟨0x19028, 0, 128, .window 1, 0, 24, .ro, 0x0⟩
  | .COL_CAGE_STATUS_PRESENT => ⟨0x19040, 8, 4, .plain, 0, 1, .ro, 0x0⟩
  | .COL_CAGE_STATUS_IDENT_OK => ⟨0x19040, 8, 4, .plain, 1, 1, .ro, 0x0⟩
  | .COL_CAGE_STATUS_LOW_POWER => ⟨0x19040, 8, 4, .plain, 2, 1, .ro, 0x1⟩
  | .COL_CAGE_STATUS_POWER_REFUSED => ⟨0x19040, 8, 4, .plain, 3, 1, .w1c, 0x0⟩
  | .COL_CAGE_STATUS_IDENT_REFUSED => ⟨0x19040, 8, 4, .plain, 4, 1, .w1c, 0x0⟩
  | .COL_CAGE_STATUS_MGMT_FAIL => ⟨0x19040, 8, 4, .plain, 5, 1, .w1c, 0x0⟩
  | .COL_CAGE_STATUS_TEMP_ALARM => ⟨0x19040, 8, 4, .plain, 6, 1, .w1c, 0x0⟩
  | .COL_CAGE_STATUS_INSERTIONS => ⟨0x19040, 8, 4, .plain, 16, 16, .rc, 0x0⟩
  | .COL_CAGE_MON_TEMP => ⟨0x19044, 8, 4, .plain, 0, 16, .ro, 0x0⟩
  | .COL_CAGE_MON_VCC => ⟨0x19044, 8, 4, .plain, 16, 16, .ro, 0x0⟩
  | .COL_HOST_SEL_N => ⟨0x19100, 0, 1, .plain, 0, 7, .rw, 0x0⟩
  | .LANE_CTRL_EN => ⟨0x1A000, 64, 16, .plain, 0, 1, .fw, 0x0⟩
  | .LANE_CTRL_RETRAIN => ⟨0x1A000, 64, 16, .plain, 1, 1, .fw, 0x0⟩
  | .LANE_STATUS_STATE => ⟨0x1A004, 64, 16, .plain, 0, 3, .ro, 0x0⟩
  | .LANE_STATUS_BLOCK_LOCK => ⟨0x1A004, 64, 16, .plain, 3, 1, .ro, 0x0⟩
  | .LANE_STATUS_LOS => ⟨0x1A004, 64, 16, .plain, 4, 1, .ro, 0x0⟩
  | .LANE_STATUS_MISWIRED => ⟨0x1A004, 64, 16, .plain, 5, 1, .w1c, 0x0⟩
  | .LANE_STATUS_PROTO => ⟨0x1A004, 64, 16, .plain, 6, 1, .w1c, 0x0⟩
  | .LANE_STATUS_CRC_BURST => ⟨0x1A004, 64, 16, .plain, 7, 1, .w1c, 0x0⟩
  | .LANE_STATUS_RX_LOW => ⟨0x1A004, 64, 16, .plain, 8, 1, .w1c, 0x0⟩
  | .LANE_STATUS_UNRES => ⟨0x1A004, 64, 16, .plain, 9, 1, .ro, 0x0⟩
  | .LANE_STATUS_UNRES_DROP => ⟨0x1A004, 64, 16, .plain, 16, 16, .rc, 0x0⟩
  | .LANE_PEER_NODE => ⟨0x1A008, 64, 16, .plain, 0, 12, .ro, 0x0⟩
  | .LANE_PEER_NODE_VALID => ⟨0x1A008, 64, 16, .plain, 12, 1, .ro, 0x0⟩
  | .LANE_PEER_CAGE => ⟨0x1A008, 64, 16, .plain, 13, 2, .ro, 0x0⟩
  | .LANE_PEER_LANE => ⟨0x1A008, 64, 16, .plain, 15, 2, .ro, 0x0⟩
  | .LANE_PEER_UID_LO_UID_LO => ⟨0x1A00C, 64, 16, .plain, 0, 32, .ro, 0x0⟩
  | .LANE_PEER_UID_HI_UID_HI => ⟨0x1A010, 64, 16, .plain, 0, 32, .ro, 0x0⟩
  | .LANE_RESV_RESERVED => ⟨0x1A014, 64, 16, .plain, 0, 14, .ro, 0x0⟩
  | .LANE_RESV_CEIL => ⟨0x1A014, 64, 16, .plain, 16, 14, .ro, 0x0⟩
  | .LANE_CREDIT_BAND => ⟨0x1A018, 64, 16, .plain, 0, 16, .ro, 0x0⟩
  | .LANE_CREDIT_TIME => ⟨0x1A018, 64, 16, .plain, 16, 8, .ro, 0x0⟩
  | .LANE_CREDIT1_MGMT => ⟨0x1A01C, 64, 16, .plain, 0, 12, .ro, 0x0⟩
  | .LANE_CREDIT1_BULK => ⟨0x1A01C, 64, 16, .plain, 16, 12, .ro, 0x0⟩
  | .LANE_ERR_FRAME_ERR => ⟨0x1A020, 64, 16, .plain, 0, 16, .rc, 0x0⟩
  | .LANE_ERR_BLOCK_ERR => ⟨0x1A020, 64, 16, .plain, 16, 16, .rc, 0x0⟩
  | .LANE_COUNT_KEPT => ⟨0x1A024, 64, 16, .plain, 0, 13, .ro, 0x0⟩
  | .LANE_COUNT_MEMBERS => ⟨0x1A024, 64, 16, .plain, 13, 6, .ro, 0x0⟩
  | .LANE_COUNT_FAILS => ⟨0x1A024, 64, 16, .plain, 20, 12, .rc, 0x0⟩
  | .LANE_OPT_RX_PWR => ⟨0x1A028, 64, 16, .plain, 0, 16, .ro, 0x0⟩
  | .LANE_OPT_TX_BIAS => ⟨0x1A028, 64, 16, .plain, 16, 16, .ro, 0x0⟩
  | .FE_CTRL_RX_EN => ⟨0x1B000, 128, 4, .plain, 0, 1, .fw, 0x0⟩
  | .FE_CTRL_TX_EN => ⟨0x1B000, 128, 4, .plain, 1, 1, .fw, 0x0⟩
  | .FE_CTRL_RETUNE => ⟨0x1B000, 128, 4, .plain, 2, 1, .fw, 0x0⟩
  | .FE_CTRL_CAL_REQ => ⟨0x1B000, 128, 4, .plain, 3, 1, .fw, 0x0⟩
  | .FE_CTRL_INLINE => ⟨0x1B000, 128, 4, .plain, 4, 1, .fw, 0x0⟩
  | .FE_STATUS_STATE => ⟨0x1B004, 128, 4, .plain, 0, 3, .ro, 0x0⟩
  | .FE_STATUS_RX_LOCK => ⟨0x1B004, 128, 4, .plain, 3, 1, .ro, 0x0⟩
  | .FE_STATUS_TX_LOCK => ⟨0x1B004, 128, 4, .plain, 4, 1, .ro, 0x0⟩
  | .FE_STATUS_TX_HELD => ⟨0x1B004, 128, 4, .plain, 5, 1, .ro, 0x0⟩
  | .FE_STATUS_TX_TIMEOUT => ⟨0x1B004, 128, 4, .plain, 6, 1, .w1c, 0x0⟩
  | .FE_STATUS_RETUNE_PEND => ⟨0x1B004, 128, 4, .plain, 7, 1, .ro, 0x0⟩
  | .FE_STATUS_REJECT => ⟨0x1B004, 128, 4, .plain, 8, 4, .ro, 0x0⟩
  | .FE_STATUS_RELAY_MISMATCH => ⟨0x1B004, 128, 4, .plain, 12, 1, .w1c, 0x0⟩
  | .FE_STATUS_UNLOCK_COUNT => ⟨0x1B004, 128, 4, .plain, 16, 16, .rc, 0x0⟩
  | .FE_RX_FREQ_FREQ => ⟨0x1B008, 128, 4, .plain, 0, 32, .fw, 0x0⟩
  | .FE_TX_FREQ_FREQ => ⟨0x1B00C, 128, 4, .plain, 0, 32, .fw, 0x0⟩
  | .FE_ATT_RX_ATT => ⟨0x1B010, 128, 4, .plain, 0, 6, .fw, 0x0⟩
  | .FE_ATT_TX_ATT => ⟨0x1B010, 128, 4, .plain, 8, 6, .fw, 0x0⟩
  | .FE_ATT_OBS_ATT => ⟨0x1B010, 128, 4, .plain, 16, 4, .fw, 0x0⟩
  | .FE_RELAY_POS => ⟨0x1B014, 128, 4, .plain, 0, 2, .ro, 0x0⟩
  | .FE_RELAY_BYPASS_MODE => ⟨0x1B014, 128, 4, .plain, 2, 2, .kl, 0x0⟩
  | .FE_RELAY_MOVE_COUNT => ⟨0x1B014, 128, 4, .plain, 16, 16, .ro, 0x0⟩
  | .FE_CAL_CTRL_BG_RX => ⟨0x1B018, 128, 4, .plain, 0, 1, .fw, 0x0⟩
  | .FE_CAL_CTRL_BG_TX => ⟨0x1B018, 128, 4, .plain, 1, 1, .fw, 0x0⟩
  | .FE_CAL_CTRL_BG_OBS => ⟨0x1B018, 128, 4, .plain, 2, 1, .fw, 0x0⟩
  | .FE_CAL_CTRL_STALE_K => ⟨0x1B018, 128, 4, .plain, 8, 8, .fw, 0x0⟩
  | .FE_CAL_CTRL_STALE_S => ⟨0x1B018, 128, 4, .plain, 16, 16, .fw, 0x0⟩
  | .FE_CAL_STATUS_RX_IRR => ⟨0x1B01C, 128, 4, .plain, 0, 8, .ro, 0x0⟩
  | .FE_CAL_STATUS_TX_IRR => ⟨0x1B01C, 128, 4, .plain, 8, 8, .ro, 0x0⟩
  | .FE_CAL_STATUS_OBS_IRR => ⟨0x1B01C, 128, 4, .plain, 16, 8, .ro, 0x0⟩
  | .FE_CAL_STATUS_STALE => ⟨0x1B01C, 128, 4, .plain, 24, 1, .w1c, 0x0⟩
  | .FE_CAL_STATUS_FG_FAIL => ⟨0x1B01C, 128, 4, .plain, 25, 1, .w1c, 0x0⟩
  | .FE_CAL_STATUS_SEGMENT => ⟨0x1B01C, 128, 4, .plain, 26, 6, .ro, 0x0⟩
  | .FE_RX_LAT_LAT => ⟨0x1B020, 128, 4, .plain, 0, 32, .ro, 0x0⟩
  | .FE_TX_LAT_LAT => ⟨0x1B024, 128, 4, .plain, 0, 32, .ro, 0x0⟩
  | .FE_PILOT_CTRL_MODE => ⟨0x1B028, 128, 4, .plain, 0, 2, .fw, 0x0⟩
  | .FE_PILOT_CTRL_SHIFT_NEG => ⟨0x1B028, 128, 4, .plain, 2, 1, .fw, 0x0⟩
  | .FE_PILOT_CTRL_LEVEL => ⟨0x1B028, 128, 4, .plain, 4, 8, .fw, 0x0⟩
  | .FE_PILOT_CTRL_PERIOD => ⟨0x1B028, 128, 4, .plain, 16, 16, .fw, 0x0⟩
  | .FE_PILOT_FREQ_FREQ => ⟨0x1B02C, 128, 4, .plain, 0, 32, .fw, 0x0⟩
  | .FE_PILOT_SHIFT_FREQ => ⟨0x1B030, 128, 4, .plain, 0, 32, .fw, 0x0⟩
  | .FE_PILOT_TURN_TURN => ⟨0x1B034, 128, 4, .plain, 0, 32, .kl, 0x0⟩
  | .FE_PILOT_SPLIT_SPLIT => ⟨0x1B038, 128, 4, .plain, 0, 32, .kl, 0x0⟩
  | .FE_PILOT_PRIOR_PRIOR => ⟨0x1B03C, 128, 4, .plain, 0, 32, .kl, 0x0⟩
  | .FE_PILOT_DLY_LO_DLY_LO => ⟨0x1B040, 128, 4, .plain, 0, 32, .ro, 0x0⟩
  | .FE_PILOT_DLY_HI_DLY_HI => ⟨0x1B044, 128, 4, .plain, 0, 16, .ro, 0x0⟩
  | .FE_PILOT_STATUS_PSTATE => ⟨0x1B048, 128, 4, .plain, 0, 3, .ro, 0x0⟩
  | .FE_PILOT_STATUS_AMBIG => ⟨0x1B048, 128, 4, .plain, 3, 1, .w1c, 0x0⟩
  | .FE_PILOT_STATUS_LOW_LEVEL => ⟨0x1B048, 128, 4, .plain, 4, 1, .w1c, 0x0⟩
  | .FE_PILOT_STATUS_FRESH => ⟨0x1B048, 128, 4, .plain, 5, 1, .rc, 0x0⟩
  | .FE_PILOT_STATUS_COUNT => ⟨0x1B048, 128, 4, .plain, 16, 16, .ro, 0x0⟩
  | .SCR_HSTATUS_FIELD_UP => ⟨0x80000, 0, 1, .plain, 0, 1, .ro, 0x0⟩
  | .SCR_HSTATUS_LANES_RX => ⟨0x80000, 0, 1, .plain, 1, 4, .ro, 0x0⟩
  | .SCR_HSTATUS_LINK_EPOCH => ⟨0x80000, 0, 1, .plain, 16, 16, .ro, 0x0⟩
  | .SCR_HCOUNT_ABSENT => ⟨0x80004, 0, 1, .plain, 0, 16, .rc, 0x0⟩
  | .SCR_HCOUNT_UNSURE_WR => ⟨0x80004, 0, 1, .plain, 16, 8, .rc, 0x0⟩
  | .SCR_HCOUNT_PARTIAL_WR => ⟨0x80004, 0, 1, .plain, 24, 8, .rc, 0x0⟩
  | .SCR_HSYNC_ZERO => ⟨0x80008, 0, 1, .plain, 0, 32, .ro, 0x0⟩
  | .SCR_HIRQ_CAUSE => ⟨0x8000C, 0, 1, .plain, 0, 5, .w1c, 0x0⟩
  | .SCR_HCREDIT_REQ => ⟨0x80010, 0, 1, .plain, 0, 6, .ro, 0x20⟩
  | .SCR_HCREDIT_MBX_TX => ⟨0x80010, 0, 1, .plain, 8, 6, .ro, 0x10⟩
  | .PCIE_STATUS_GEN => ⟨0x81000, 0, 1, .plain, 0, 3, .ro, 0x0⟩
  | .PCIE_STATUS_WIDTH => ⟨0x81000, 0, 1, .plain, 3, 5, .ro, 0x0⟩
  | .PCIE_STATUS_NARROW => ⟨0x81000, 0, 1, .plain, 8, 1, .ro, 0x0⟩
  | .PCIE_TEMP_TEMP => ⟨0x81004, 0, 1, .plain, 0, 16, .ro, 0x0⟩
  | .PCIE_TEMP_MAX_T => ⟨0x81004, 0, 1, .plain, 16, 16, .ro, 0x0⟩
  | .PCIE_CAP_CAP_LIMIT => ⟨0x81008, 0, 1, .plain, 0, 18, .ro, 0x0⟩
  | .DMA_CTRL_EN => ⟨0x82000, 64, 8, .plain, 0, 1, .rw, 0x0⟩
  | .DMA_CTRL_BP => ⟨0x82000, 64, 8, .plain, 1, 7, .rw, 0x0⟩
  | .DMA_CTRL_TAP => ⟨0x82000, 64, 8, .plain, 8, 1, .rw, 0x0⟩
  | .DMA_CTRL_IRQ_N => ⟨0x82000, 64, 8, .plain, 9, 7, .rw, 0x0⟩
  | .DMA_CTRL_HOLDOFF => ⟨0x82000, 64, 8, .plain, 16, 16, .rw, 0x0⟩
  | .DMA_STATUS_RUN => ⟨0x82004, 64, 8, .plain, 0, 1, .ro, 0x0⟩
  | .DMA_STATUS_FIELD_LOST => ⟨0x82004, 64, 8, .plain, 1, 1, .w1c, 0x0⟩
  | .DMA_STATUS_DMA_ERR => ⟨0x82004, 64, 8, .plain, 2, 1, .w1c, 0x0⟩
  | .DMA_STATUS_BME_OFF => ⟨0x82004, 64, 8, .plain, 3, 1, .w1c, 0x0⟩
  | .DMA_STATUS_LIMIT_STOP => ⟨0x82004, 64, 8, .plain, 4, 1, .w1c, 0x0⟩
  | .DMA_STATUS_TEMP_STOP => ⟨0x82004, 64, 8, .plain, 5, 1, .w1c, 0x0⟩
  | .DMA_STATUS_ENA_REFUSED => ⟨0x82004, 64, 8, .plain, 6, 1, .w1c, 0x0⟩
  | .DMA_STATUS_BAD_DESC => ⟨0x82004, 64, 8, .plain, 7, 1, .w1c, 0x0⟩
  | .DMA_STATUS_HEAD_REFUSED => ⟨0x82004, 64, 8, .plain, 8, 1, .w1c, 0x0⟩
  | .DMA_BASE_LO_ADDR => ⟨0x82008, 64, 8, .plain, 0, 32, .rw, 0x0⟩
  | .DMA_BASE_HI_ADDR => ⟨0x8200C, 64, 8, .plain, 0, 32, .rw, 0x0⟩
  | .DMA_SIZE_SIZE => ⟨0x82010, 64, 8, .plain, 0, 5, .rw, 0x0⟩
  | .DMA_HEAD_HEAD => ⟨0x82014, 64, 8, .plain, 0, 17, .rw, 0x0⟩
  | .DMA_TAIL_TAIL => ⟨0x82018, 64, 8, .plain, 0, 17, .ro, 0x0⟩
  | .DMA_FLUSH_FLUSH_US => ⟨0x8201C, 64, 8, .plain, 0, 24, .rw, 0x0⟩
  | .DMA_COUNT_LOST => ⟨0x82020, 64, 8, .plain, 0, 32, .rc, 0x0⟩
  | .MBX_CTRL_SEND => ⟨0x83000, 0, 1, .plain, 0, 1, .rw, 0x0⟩
  | .MBX_CTRL_POP => ⟨0x83000, 0, 1, .plain, 1, 1, .rw, 0x0⟩
  | .MBX_CTRL_TX_FULL => ⟨0x83000, 0, 1, .plain, 2, 1, .w1c, 0x0⟩
  | .MBX_CTRL_RX_LEVEL => ⟨0x83000, 0, 1, .plain, 8, 5, .ro, 0x0⟩
  | .MBX_TX_WORD => ⟨0x83040, 4, 16, .plain, 0, 32, .rw, 0x0⟩
  | .MBX_RX_WORD => ⟨0x83080, 4, 16, .plain, 0, 32, .ro, 0x0⟩

/-- The fields of the 4 KiB block at base `4096 * b` (Table 191). -/
def Field.ofBlock : Nat → List Field
  | 0x0 => [.KCT_STATUS_STATE, .KCT_STATUS_SLOT, .KCT_STATUS_FALLBACK, .KCT_STATUS_LOCKED, .KCT_STATUS_SLOT_A_OK,
      .KCT_STATUS_SLOT_B_OK, .KCT_STATUS_FAIL_A, .KCT_STATUS_FAIL_B, .KCT_SEQ_SEQ, .KCT_TIMES_T_BAND,
      .KCT_TIMES_T_PLUMB, .KCT_ID_M_STEP, .KCT_ID_FE_STEP, .KCT_ID_KC_FORMAT, .KCT_ID_FW_MAJOR,
      .KCT_CFG_HOST_UPD_EN, .KCT_CFG_DEBUG_EN, .KCT_UPD_CTRL_START, .KCT_UPD_CTRL_COMMIT, .KCT_UPD_CTRL_ABORT,
      .KCT_UPD_STATUS_USTATE, .KCT_UPD_STATUS_WAITING, .KCT_UPD_STATUS_UREJECT, .KCT_UPD_STATUS_UFAIL,
      .KCT_UPD_STATUS_OWNER, .KCT_UPD_ADDR_ADDR, .KCT_UPD_DATA_DATA, .KCT_RESTART_KEY, .KCT_COUNT_KL_WRITES,
      .KCT_COUNT_UPDATES]
  | 0x1 => [.PCR_CTRL_RUN, .PCR_CTRL_HALTED, .PCR_CTRL_WDG_MS, .PCR_KICK_KICK, .PCR_FAULT_ADDR, .PCR_COUNT_RESTARTS,
      .PCR_COUNT_FAULTS]
  | 0x2 => [.FCL_CTRL_ACK, .FCL_CTRL_ACK_INJ, .FCL_CTRL_ACK_TAG, .FCL_STATUS_MAX_FENCE, .FCL_STATUS_ALIVE_RUN,
      .FCL_STATUS_FACTORY, .FCL_STATUS_LATCHED, .FCL_STATUS_INJ_LATCHED, .FCL_STATUS_REL_REFUSED,
      .FCL_STATUS_ACK_REFUSED, .FCL_STATUS_INJ_REFUSED, .FCL_STATUS_BYPASS, .FCL_ACK_CLASS_SOURCE,
      .FCL_ACK_CLASS_CAUSE, .FCL_ACK_CLASS_ALL, .FCL_ACK_CLASS_GO, .FCL_ACK_CLASS_INJ, .FCL_RELEASE_UNIT,
      .FCL_RELEASE_GO, .FCL_LIMIT_QUIET, .FCL_LIMIT_RECOV_MAX, .FCL_FW_QUIET_FW_QUIET, .FCL_COUNT_NOTICES,
      .FCL_COUNT_MERGED, .FCL_FIRST_MSG, .FCL_FIRST_INFO_TAG, .FCL_FIRST_INFO_EFF_LEVEL, .FCL_FIRST_INFO_ESCALATED,
      .FCL_FIRST_INFO_GONE, .FCL_FIRST_INFO_OVF, .FCL_FIRST_INFO_OVF_COUNT, .FCL_INJ_MSG, .FCL_INJ_INFO_TAG,
      .FCL_INJ_INFO_EFF_LEVEL, .FCL_INJ_INFO_ESCALATED, .FCL_INJ_INFO_GONE, .FCL_INJ_INFO_OVF,
      .FCL_INJ_INFO_OVF_COUNT, .FCL_INJECT_LO_W0, .FCL_INJECT_HI_DETAIL, .FCL_CLASS_SEL_SOURCE,
      .FCL_CLASS_SEL_CAUSE, .FCL_CLASS_SEL_INJ, .FCL_CLASS_OPEN, .FCL_CLASS_LEVEL, .FCL_UNIT_FENCE, .FCL_UNIT_OWN,
      .FCL_UNIT_COND, .FCL_UNIT_LIMITED, .FCL_UNIT_LAST_CAUSE, .FCL_UNIT_RECOV_HOUR, .FCL_UNIT_RECOVERIES]
  | 0x3 => [.FRS_STATUS_MEDIUM_FAIL, .FRS_STATUS_FLOOD, .FRS_STATUS_BB_FAIL, .FRS_STATUS_CLEARING,
      .FRS_STATUS_CLR_REFUSED, .FRS_STATUS_CLR_LOCK, .FRS_STATUS_FLUSH_WAIT, .FRS_NEXT_LO_SEQ, .FRS_NEXT_HI_SEQ,
      .FRS_FLUSHED_LO_SEQ, .FRS_FLUSHED_HI_SEQ, .FRS_OLDEST_LO_SEQ, .FRS_OLDEST_HI_SEQ, .FRS_BB_NEWEST,
      .FRS_QUEUE_LEVEL, .FRS_COUNT_SUMMARIES, .FRS_COUNT_COALESCED, .FRS_COUNT1_FLASH_ERR, .FRS_NONCE_LO_NONCE,
      .FRS_NONCE_HI_NONCE, .FRS_CLR_ID_INDEX, .FRS_CLR_CODE_LO_CODE, .FRS_CLR_CODE_HI_CODE, .FRS_RD_SEL_SLOT,
      .FRS_RD_SEL_SRC, .FRS_RD_SEL_READY, .FRS_AUTH_ID_ID, .FRS_FW_BODY_DATA, .FRS_FW_CTRL_COMMIT,
      .FRS_FW_CTRL_SOURCE, .FRS_WIN_BYTES]
  | 0x4 => [.CNT_CTRL_FW_HOLD, .CNT_CTRL_HOST_HOLD, .CNT_CTRL_HOST_RD, .CNT_CTRL_HOST_PROG, .CNT_STATUS_HELD,
      .CNT_STATUS_HOLD_TO, .CNT_STATUS_HOST_REFUSED, .CNT_STATUS_GATHER_LATE, .CNT_GATHER_GATHER, .CNT_GTIME_TIME,
      .CNT_PS_CTRL_EN, .CNT_PS_CTRL_CORES, .CNT_PS_CTRL_WRAP, .CNT_PS_CTRL_JITTER, .CNT_PS_CTRL_PERIOD,
      .CNT_PS_STATUS_LEVEL, .CNT_PS_STATUS_DROPPED, .CNT_PS_DATA_WORD, .CNT_PS_WIN_WORD, .CNT_LO_COUNT_LO,
      .CNT_HI_COUNT_HI, .CNT_HI_OVF, .CNT_HI_PEND, .CNT_SEL_EVENT, .CNT_SEL_GROUP, .CNT_SEL_UNIT, .CNT_SEL_QUAL,
      .CNT_SEL_ZERO]
  | 0x5 => [.THM_TEMP_TEMP, .THM_TEMP_FAST, .THM_TEMP_SUSPECT, .THM_TEMP_WARN, .THM_TEMP_TRIPPED, .THM_LIM_WARN,
      .THM_LIM_TRIP, .THM_LIM1_RESTART, .THM_LIM1_FW_WARN, .THM_RATE_RISE, .THM_RATE_MAX_T, .THM_COUNT_WARN_EVENTS,
      .THM_COUNT_SUSPECT_EVENTS, .THM_CFG_XCHK_TOL, .THM_CFG_RISE_LIM, .THM_FLASH_T_FLASH, .THM_FLASH_WIN_OPEN,
      .THM_FLASH_WAITED, .THM_SHUT_RESTARTS, .THM_SHUT_LAST_SHUT, .THM_SHUT_ABORTED, .THM_SHUT_SHUT_TOTAL,
      .THM_FLASH_OFS_FLASH_DELTA]
  | 0x6 => [.MON_CTRL_SCAN_EN, .MON_CTRL_REF_EN, .MON_CTRL_CAL, .MON_STATUS_REF_READY, .MON_STATUS_CALIBRATING,
      .MON_STATUS_CAL_OK, .MON_STATUS_CAL_FAIL, .MON_STATUS_CAL_REFUSED, .MON_STATUS_URG_REFUSED, .MON_STATUS_Q_OVF,
      .MON_STATUS_URG_BUSY, .MON_STATUS_URG_PEND, .MON_SCAN_MASK, .MON_URGENT_CH, .MON_URGENT_TAG, .MON_QUEUE_ENTRY,
      .MON_QLEVEL_LEVEL, .MON_QLEVEL_Q_DROP, .MON_COUNT_URG_LOST, .MON_COUNT_ABORTS, .MON_CAL_OFS_OFS,
      .MON_CAL_GAIN_GAIN, .MON_CONV_CONVERSIONS, .MON_MODE_SVC, .MON_PLAUS_DIFF, .MON_PLAUS_PL_OK,
      .MON_PLAUS_PL_FAIL, .MON_PLAUS_PL_STALE, .MON_PL_LIM_PL_TOL, .MON_LAST_CODE, .MON_LAST_CONV, .MON_LAST_VALID,
      .MON_LAST_FLAGGED]
  | 0x7 => [.PWM_CTRL_ARM, .PWM_CTRL_MODE, .PWM_CTRL_STRETCH, .PWM_CTRL_ADAPT, .PWM_STATUS_STATE, .PWM_STATUS_LATE,
      .PWM_STATUS_FULL, .PWM_STATUS_DUTY_CLAMP, .PWM_STATUS_H_G3, .PWM_STATUS_H_FENCE, .PWM_STATUS_H_RELAY,
      .PWM_STATUS_G3_OC, .PWM_STATUS_G3_OV, .PWM_STATUS_MODE_REFUSED, .PWM_PER_COUNT, .PWM_PER_FINE,
      .PWM_RISE_COUNT, .PWM_RISE_FINE, .PWM_FALL_COUNT, .PWM_FALL_FINE, .PWM_DT_DT_RISE, .PWM_DT_DT_FALL,
      .PWM_DT_DT_MARGIN, .PWM_DT_DT_LAST, .PWM_LIM_DT_MIN, .PWM_LIM_MIN_PULSE, .PWM_LIM_SAFE, .PWM_LIM_BLANK_SRC,
      .PWM_LIM_BLANK_EN, .PWM_DUTY_MAX_DUTY, .PWM_DUTY_FW_MAX_DUTY, .PWM_SLEW_DUTY_SLEW, .PWM_SENSE_BLANK,
      .PWM_SENSE_FILT, .PWM_ILIM_I_LIM, .PWM_ILIM_FW_I_LIM, .PWM_VLIM_V_LIM, .PWM_VLIM_FW_V_LIM,
      .PWM_COUNT_SHORT_PULSES, .PWM_COUNT_LATE_COMMITS, .PWM_COUNT1_SWN_MISS, .PWM_COUNT1_G3_TRIPS,
      .PWM_FLT_MAP_MAP0, .PWM_FLT_MAP_MAP1, .PWM_FLT_MAP_MAP2, .PWM_FLT_MAP_MAP3, .PWM_FLT_POL, .PWM_FLT_ACT,
      .PWM_FLT_LATCH, .PWM_FLT_FLT_EVENTS, .PWM_GLOBAL_CAL_OK, .PWM_GLOBAL_CAL_FAIL, .PWM_GLOBAL_CLK_STOP,
      .PWM_GLOBAL_DBG_SAFE]
  | 0x8 => [.SCR_FSTATUS_HOST_UP, .SCR_FSTATUS_LANES_RX, .SCR_FCREDIT_RSP, .SCR_FCREDIT_EVT, .SCR_FCREDIT_MBX_TX,
      .SCR_FCREDIT_CAP8, .SCR_FW_IRQ_RAISE, .SCR_MB_CTRL_SEND, .SCR_MB_CTRL_POP, .SCR_MB_CTRL_TX_FULL,
      .SCR_MB_CTRL_RX_LEVEL, .SCR_MB_TX_WORD, .SCR_MB_RX_WORD]
  | 0x9 => [.MEM_CH_TRAINED, .MEM_CH_UE, .MEM_CH_CE, .MEM_UE_TILE_TILE]
  | 0x10 => [.BP_CTRL_ENABLE, .BP_CTRL_APPLY, .BP_CTRL_MUTE, .BP_CTRL_SPAN, .BP_STATUS_STATE, .BP_STATUS_PENDING,
      .BP_STATUS_REJECT, .BP_STATUS_BUSY, .BP_STATUS_STEP, .BP_STATUS_GAP, .BP_STATUS_LATE, .BP_STATUS_SUBST_GRAINS,
      .BP_ROUTE_SRC_KIND, .BP_ROUTE_SRC_PORT, .BP_ROUTE_SRC_NODE, .BP_ROUTE_SRC_BP, .BP_ROUTE_DST_KIND,
      .BP_ROUTE_DST_PORT, .BP_ROUTE_STRIPE, .BP_ROUTE_GROUP, .BP_FREQ_FREQ, .BP_DST_FREQ_FREQ, .BP_GAIN_GAIN_NOW,
      .BP_GAIN_LEVEL_SP]
  | 0x11 => [.CHZ_SEL_N, .CHZ_CTRL_SYNC, .CHZ_CTRL_SWAP, .CHZ_CTRL_REQ_BANK, .CHZ_CTRL_FADE, .CHZ_CTRL_CHECK,
      .CHZ_CTRL_CHK_BANK, .CHZ_BANK_STATUS_ACTIVE, .CHZ_BANK_STATUS_PEND_BANK, .CHZ_BANK_STATUS_PENDING,
      .CHZ_BANK_STATUS_FADING, .CHZ_BANK_STATUS_WR_REFUSED, .CHZ_BANK_STATUS_SWAP_REFUSED, .CHZ_BANK_STATUS_OK2,
      .CHZ_BANK_STATUS_OK3, .CHZ_BANK_STATUS_CHECKING, .CHZ_BANK_STATUS_LOST_SWAP, .CHZ_CHAIN_D, .CHZ_CHAIN_BYPASS,
      .CHZ_SETTLE_COUNT, .CHZ_SRC_GD_LO_GD_LO, .CHZ_SRC_GD_HI_GD_HI, .CHZ_DST_GD_LO_GD_LO, .CHZ_DST_GD_HI_GD_HI,
      .CHZ_GDC_GDC, .CHZ_DST_GDC_GDC, .CHZ_BANK_GD_GD2, .CHZ_BANK_GD_GD3, .CHZ_COEF_ADDR_TAP, .CHZ_COEF_ADDR_BANK,
      .CHZ_COEF_ADDR_AUTO_INC, .CHZ_COEF_DATA_COEF, .CHZ_HOST_SEL_N]
  | 0x12 => [.GCE_SEL_N, .GCE_MODE_SP_SRC, .GCE_MODE_LVL_MODE, .GCE_MODE_DET_SHIFT, .GCE_STAT_WINNER, .GCE_STAT_CS,
      .GCE_STAT_SP_CLAMP, .GCE_STAT_CEIL_CLAMP, .GCE_STAT_SRC_INV, .GCE_STAT_DET_ARMED, .GCE_STAT_CS_LATE,
      .GCE_LEVEL_LEVEL, .GCE_LEVEL_SP_RAMP, .GCE_CAND0_C_LEV, .GCE_CAND0_C_STAB, .GCE_CAND1_C_EMIT,
      .GCE_CAND1_C_THM, .GCE_FIX_FIX_SP, .GCE_MAP_MAP_LO, .GCE_MAP_MAP_HI, .GCE_SP_LIM_SP_MIN, .GCE_SP_LIM_SP_MAX,
      .GCE_CEIL_HARD_CEIL, .GCE_CEIL_FW_CEIL, .GCE_SLEW_SP_SLEW, .GCE_SLEW_FW_SP_SLEW, .GCE_GSLEW_GAIN_SLEW,
      .GCE_GSLEW_COLD_RAMP, .GCE_KLEV_KP, .GCE_KLEV_KI, .GCE_KSE_KS, .GCE_KSE_KE, .GCE_KTH_KTH, .GCE_KTH_SLOPE,
      .GCE_THERM_THERM_SP, .GCE_TRACK_KT_LEV, .GCE_TRACK_KT_STAB, .GCE_TRACK_KT_EMIT, .GCE_TRACK_KT_THM,
      .GCE_OVR_OVR_CONSEC, .GCE_OVR_OVR_COUNT, .GCE_TICK_OVERRUN_TICKS, .GCE_TICK_LATE_SDL, .GCE_TICK_LATE_EMG,
      .GCE_TICK_LATE_THM, .GCE_TICK_LATE_MON, .GCE_TICK_ECC_RETRY, .GCE_SETA_CODE, .GCE_SETA_VALID, .GCE_SETP_DUTY,
      .GCE_SETP_VALID, .GCE_SETP_STUCK, .GCE_SETP_FAST, .GCE_SETP_SLOW, .GCE_SETP_PER_PERIOD,
      .GCE_SETP_CNT_INVALID_EVENTS, .GCE_HOST_SEL_N]
  | 0x13 => [.SDL_SEL_N, .SDL_CTRL_K_LOG2, .SDL_CTRL_PROBE_REL, .SDL_STATUS_MEAS_DONE, .SDL_STATUS_NEW_LOOP,
      .SDL_STATUS_FLOOR_HIGH, .SDL_STATUS_G1_MUTED, .SDL_STATUS_G1_MARGIN, .SDL_STATUS_G1_OVERLOAD,
      .SDL_STATUS_PROBE_CLAMP, .SDL_STATUS_TARGET_CLAMP, .SDL_STATUS_MEMBERS, .SDL_STATUS_WORST_SB,
      .SDL_STATUS_UPDATES, .SDL_TARGET_TARGET, .SDL_BOUND_U_MAX, .SDL_BOUND_FLOOR_MAX, .SDL_HEAD_H_S,
      .SDL_HEAD_PROBE, .SDL_SUB_U_LO, .SDL_SUB_U_HI, .SDL_WATCH_BP, .SDL_WATCH_NODE, .SDL_WATCH_EN, .SDL_DETECT_DET,
      .SDL_DETECT_MUTUAL, .SDL_COUNT_NEW_LOOPS, .SDL_COUNT_G1_TRIPS, .SDL_LIMIT_HARD_FLOOR, .SDL_LIMIT_PROBE_MAX,
      .SDL_G1_OVL_N, .SDL_G1_HOLD, .SDL_RISE_RISE_MAX, .SDL_DIGEST_DIGESTS_RX, .SDL_DIGEST_DIGEST_MISS,
      .SDL_HOST_SEL_N]
  | 0x14 => [.GRG_FREE_FREE, .GRG_OWNED_OWNED, .GRG_QUAR_QUARANTINED, .GRG_QUAR_RETIRED, .GRG_SEAL_FAIL_FAILS,
      .GRG_LAST_BAD_TILE, .GRG_LAST_BAD_CAUSE, .GRG_LAST_OWNER_OWNER, .GRG_LAST_OWNER_GEN, .GRG_KEEP_RESENT,
      .GRG_KEEP_KEEP_DROP]
  | 0x15 => [.FLO_SEL_N, .FLO_CTRL_STEP_OK, .FLO_CTRL_STRICT, .FLO_CTRL_RESTORE, .FLO_CTRL_ESTAB_MARGIN,
      .FLO_CTRL_SLACK_WARN, .FLO_STATUS_DSTATE, .FLO_STATUS_SLEWING, .FLO_STATUS_REJECT, .FLO_STATUS_TS_JUMP,
      .FLO_STATUS_TS_BAD, .FLO_STATUS_POISON, .FLO_STATUS_SLEW_CLAMP, .FLO_STATUS_SLACK_LOW, .FLO_TARGET_LO_TARGET,
      .FLO_TARGET_HI_TARGET, .FLO_APPLIED_LO_APPLIED, .FLO_APPLIED_HI_APPLIED, .FLO_MIN_LO_DMIN, .FLO_MIN_HI_DMIN,
      .FLO_AGE_LO_AGE, .FLO_AGE_HI_AGE, .FLO_LDST_LO_LDST, .FLO_LDST_HI_LDST, .FLO_MU_MU, .FLO_TILES_RESERVED,
      .FLO_FILL_GRAINS, .FLO_COUNT_STEPS, .FLO_COUNT_LOST_EVENTS, .FLO_COUNT1_POISON_GRAINS, .FLO_COUNT1_DUP_GRAINS,
      .FLO_TOL_TS_TOL, .FLO_SLEW_DLY_SLEW, .FLO_SLEW_FW_DLY_SLEW, .FLO_HOST_SEL_N]
  | 0x16 => [.EMG_CTRL_INT, .EMG_CTRL_HOLD, .EMG_STATUS_PORT_MUTED, .EMG_STATUS_OUT, .EMG_STATUS_PILOT,
      .EMG_STATUS_TILE, .EMG_STATUS_FOREIGN_N, .EMG_STATUS_G2_PORT_TRIPS, .EMG_FLOOR_N, .EMG_FLOOR_V,
      .EMG_WORST_BIN_BIN, .EMG_WORST_EXCESS, .EMG_LIMIT_TRIP_DB, .EMG_LIMIT_OBS_ATT_MAX, .EMG_LIMIT_CEIL_LOG2,
      .EMG_LIMIT_FOREIGN_EN, .EMG_LIMIT1_BACKOFF_MIN, .EMG_SEL_N, .EMG_BP_CTRL_EMIT_BACKOFF, .EMG_BP_STATUS_H_E,
      .EMG_BP_STATUS_G2_MUTED, .EMG_BP_STATUS_FINE, .EMG_BP_STATUS_CEILING, .EMG_BP_STATUS_FORBID,
      .EMG_BP_STATUS_BACKOFF_CLAMP, .EMG_BP_STATUS_PORT, .EMG_BP_STATUS_SHARE, .EMG_BP_CEIL_CEIL,
      .EMG_BP_CEIL_G2_TRIPS, .EMG_HOST_SEL_N]
  | 0x17 => [.PLN_STATUS_LOADED, .PLN_STATUS_REBUILD, .PLN_STATUS_BAD_TILES, .PLN_PORT_OFS_OFS0, .PLN_PORT_OFS_OFS1,
      .PLN_PORT_OFS_OFS2, .PLN_PORT_OFS_OFS3, .PLN_T_SEL_R_SEL, .PLN_T_FIRST_FIRST, .PLN_T_FIRST_EN,
      .PLN_T_LAST_LAST, .PLN_T_LIM_LIMIT, .PLN_T_LIM_PORTS, .PLN_RD_ADDR_BIN, .PLN_RD_ADDR_PORT, .PLN_RD_DATA_ENTRY,
      .PLN_RD_DATA_EFF]
  | 0x18 => [.PLB_CTRL_PPS_OUT_EN, .PLB_CTRL_PPS_OUT_MODE, .PLB_CTRL_REF_OUT_EN, .PLB_CTRL_PPS_WIDTH,
      .PLB_CTRL_CHECK_LIM, .PLB_STATUS_TSTATE, .PLB_STATUS_ROLE, .PLB_STATUS_PARENT, .PLB_STATUS_TIME_OK,
      .PLB_STATUS_PPS_IN_OK, .PLB_STATUS_REF_IN_OK, .PLB_STATUS_TIME_AHEAD, .PLB_STATUS_ASYM_MISMATCH,
      .PLB_STATUS_CHECK_FAIL, .PLB_STATUS_FI_LIMIT, .PLB_STATUS_SLEW_CLAMP, .PLB_STATUS_TOD_REFUSED,
      .PLB_TIME0_FRAC, .PLB_TIME0_NS_LO, .PLB_TIME1_NS_HI, .PLB_TIME1_SEC_LO, .PLB_TIME2_SEC_HI,
      .PLB_ROOT_UID_LO_UID, .PLB_ROOT_UID_HI_UID, .PLB_ROOT_CLASS, .PLB_ROOT_PRIORITY, .PLB_ROOT_STEPS,
      .PLB_RANK_PRIORITY, .PLB_RANK_GM_EN, .PLB_RANK_ROOT_EN, .PLB_RANK_HOLD_LIMIT, .PLB_LOOP_TP, .PLB_LOOP_TI,
      .PLB_LOOP_STEP_MIN, .PLB_SLEW_PHASE_SLEW, .PLB_SLEW_FW_PHASE_SLEW, .PLB_FI_FI, .PLB_OFFSET_OFS,
      .PLB_PPS_IN_DLY_DLY, .PLB_REF_IN_DLY_DLY, .PLB_PPS_OUT_DLY_DLY, .PLB_REF_OUT_DLY_DLY,
      .PLB_REF_STAT_PPS_REJECT, .PLB_REF_STAT_PPS_REF_SKEW, .PLB_REF_STAT_REF_BAD, .PLB_TOD_LO_SEC_LO,
      .PLB_TOD_HI_SEC_HI, .PLB_TOD_HI_ARM, .PLB_HOLD_HOLD_S, .PLB_HOLD_HOLD_ERR, .PLB_COUNT_STEPS, .PLB_COUNT_EPOCH,
      .PLB_COUNT_ROOT_CHANGES, .PLB_UNC_PATH_UNC, .PLB_GM_TP_PPS, .PLB_GM_TI_PPS, .PLB_LSTAT_LROLE,
      .PLB_LSTAT_PEER_OK, .PLB_LSTAT_MISMATCH, .PLB_LSTAT_CHECK_FAIL, .PLB_LSTAT_PEER_STEPS, .PLB_ASYM_FIX_FIX,
      .PLB_ASYM_RATIO_RATIO, .PLB_LCFG_ASYM_UNC, .PLB_LCFG_COST, .PLB_LOFS_THETA, .PLB_LDLY_LO_D_LO,
      .PLB_LDLY_HI_D_HI, .PLB_LCOUNT_EXCH, .PLB_LCOUNT_EXCH_BAD]
  | 0x19 => [.COL_ID_LO_ID_LO, .COL_ID_HI_ID_HI, .COL_NODE_ADDR, .COL_NODE_VALID, .COL_NODE_AUTO,
      .COL_NODE_REQ_ADDR, .COL_CTRL_FWD_EN, .COL_CTRL_HOPMAX, .COL_STATUS_ADDR_CONFLICT, .COL_STATUS_LSDB_FULL,
      .COL_STATUS_ROUTE_BUSY, .COL_STATUS_NODES, .COL_COUNT0_REPAIRS, .COL_COUNT0_REPAIR_FAIL, .COL_COUNT1_HOP_DROP,
      .COL_COUNT1_NO_ROUTE, .COL_COUNT2_MSG_DISCARD, .COL_COUNT2_ADDR_CHANGES, .COL_SEL_N, .COL_BP_STATUS_ROLE,
      .COL_BP_STATUS_ROUTED, .COL_BP_STATUS_UNRES, .COL_BP_STATUS_REPAIRING, .COL_BP_STATUS_HOPS, .COL_BP_STATUS_K1,
      .COL_BP_STATUS_LAST_NAK, .COL_BP_STATUS_PEER, .COL_BP_RATE_RATE, .COL_CAGE_STATUS_PRESENT,
      .COL_CAGE_STATUS_IDENT_OK, .COL_CAGE_STATUS_LOW_POWER, .COL_CAGE_STATUS_POWER_REFUSED,
      .COL_CAGE_STATUS_IDENT_REFUSED, .COL_CAGE_STATUS_MGMT_FAIL, .COL_CAGE_STATUS_TEMP_ALARM,
      .COL_CAGE_STATUS_INSERTIONS, .COL_CAGE_MON_TEMP, .COL_CAGE_MON_VCC, .COL_HOST_SEL_N]
  | 0x1A => [.LANE_CTRL_EN, .LANE_CTRL_RETRAIN, .LANE_STATUS_STATE, .LANE_STATUS_BLOCK_LOCK, .LANE_STATUS_LOS,
      .LANE_STATUS_MISWIRED, .LANE_STATUS_PROTO, .LANE_STATUS_CRC_BURST, .LANE_STATUS_RX_LOW, .LANE_STATUS_UNRES,
      .LANE_STATUS_UNRES_DROP, .LANE_PEER_NODE, .LANE_PEER_NODE_VALID, .LANE_PEER_CAGE, .LANE_PEER_LANE,
      .LANE_PEER_UID_LO_UID_LO, .LANE_PEER_UID_HI_UID_HI, .LANE_RESV_RESERVED, .LANE_RESV_CEIL, .LANE_CREDIT_BAND,
      .LANE_CREDIT_TIME, .LANE_CREDIT1_MGMT, .LANE_CREDIT1_BULK, .LANE_ERR_FRAME_ERR, .LANE_ERR_BLOCK_ERR,
      .LANE_COUNT_KEPT, .LANE_COUNT_MEMBERS, .LANE_COUNT_FAILS, .LANE_OPT_RX_PWR, .LANE_OPT_TX_BIAS]
  | 0x1B => [.FE_CTRL_RX_EN, .FE_CTRL_TX_EN, .FE_CTRL_RETUNE, .FE_CTRL_CAL_REQ, .FE_CTRL_INLINE, .FE_STATUS_STATE,
      .FE_STATUS_RX_LOCK, .FE_STATUS_TX_LOCK, .FE_STATUS_TX_HELD, .FE_STATUS_TX_TIMEOUT, .FE_STATUS_RETUNE_PEND,
      .FE_STATUS_REJECT, .FE_STATUS_RELAY_MISMATCH, .FE_STATUS_UNLOCK_COUNT, .FE_RX_FREQ_FREQ, .FE_TX_FREQ_FREQ,
      .FE_ATT_RX_ATT, .FE_ATT_TX_ATT, .FE_ATT_OBS_ATT, .FE_RELAY_POS, .FE_RELAY_BYPASS_MODE, .FE_RELAY_MOVE_COUNT,
      .FE_CAL_CTRL_BG_RX, .FE_CAL_CTRL_BG_TX, .FE_CAL_CTRL_BG_OBS, .FE_CAL_CTRL_STALE_K, .FE_CAL_CTRL_STALE_S,
      .FE_CAL_STATUS_RX_IRR, .FE_CAL_STATUS_TX_IRR, .FE_CAL_STATUS_OBS_IRR, .FE_CAL_STATUS_STALE,
      .FE_CAL_STATUS_FG_FAIL, .FE_CAL_STATUS_SEGMENT, .FE_RX_LAT_LAT, .FE_TX_LAT_LAT, .FE_PILOT_CTRL_MODE,
      .FE_PILOT_CTRL_SHIFT_NEG, .FE_PILOT_CTRL_LEVEL, .FE_PILOT_CTRL_PERIOD, .FE_PILOT_FREQ_FREQ,
      .FE_PILOT_SHIFT_FREQ, .FE_PILOT_TURN_TURN, .FE_PILOT_SPLIT_SPLIT, .FE_PILOT_PRIOR_PRIOR,
      .FE_PILOT_DLY_LO_DLY_LO, .FE_PILOT_DLY_HI_DLY_HI, .FE_PILOT_STATUS_PSTATE, .FE_PILOT_STATUS_AMBIG,
      .FE_PILOT_STATUS_LOW_LEVEL, .FE_PILOT_STATUS_FRESH, .FE_PILOT_STATUS_COUNT]
  | 0x80 => [.SCR_HSTATUS_FIELD_UP, .SCR_HSTATUS_LANES_RX, .SCR_HSTATUS_LINK_EPOCH, .SCR_HCOUNT_ABSENT,
      .SCR_HCOUNT_UNSURE_WR, .SCR_HCOUNT_PARTIAL_WR, .SCR_HSYNC_ZERO, .SCR_HIRQ_CAUSE, .SCR_HCREDIT_REQ,
      .SCR_HCREDIT_MBX_TX]
  | 0x81 => [.PCIE_STATUS_GEN, .PCIE_STATUS_WIDTH, .PCIE_STATUS_NARROW, .PCIE_TEMP_TEMP, .PCIE_TEMP_MAX_T,
      .PCIE_CAP_CAP_LIMIT]
  | 0x82 => [.DMA_CTRL_EN, .DMA_CTRL_BP, .DMA_CTRL_TAP, .DMA_CTRL_IRQ_N, .DMA_CTRL_HOLDOFF, .DMA_STATUS_RUN,
      .DMA_STATUS_FIELD_LOST, .DMA_STATUS_DMA_ERR, .DMA_STATUS_BME_OFF, .DMA_STATUS_LIMIT_STOP,
      .DMA_STATUS_TEMP_STOP, .DMA_STATUS_ENA_REFUSED, .DMA_STATUS_BAD_DESC, .DMA_STATUS_HEAD_REFUSED,
      .DMA_BASE_LO_ADDR, .DMA_BASE_HI_ADDR, .DMA_SIZE_SIZE, .DMA_HEAD_HEAD, .DMA_TAIL_TAIL, .DMA_FLUSH_FLUSH_US,
      .DMA_COUNT_LOST]
  | 0x83 => [.MBX_CTRL_SEND, .MBX_CTRL_POP, .MBX_CTRL_TX_FULL, .MBX_CTRL_RX_LEVEL, .MBX_TX_WORD, .MBX_RX_WORD]
  | _ => []

end Sys2Proof.Machine
end

