-- ==== Sys2Proof/Machine/State.lean ====
section
/-!
DEFINITION. The state of the block as plain data: the register map in two sparse stores (`hard` holds the KL fields,
`regs` every other field), and, unit by unit, the state that the spec gives the machine and no register shows.
`State.reset` is the block with field power off and no image in flash (R13, R438; log entries 1 and 2).
-/

namespace Sys2Proof.Machine

/-! ### Faults (14_faults_safety.md) -/

/-- A fault message (R327, Table 143). -/
structure FaultMsg where
  source : Nat
  cause : Nat
  level : Nat := 0
  inj : Bool := false
  clear : Bool := false
  detail : Nat := 0
  time : Nat := 0
  deriving DecidableEq, Repr

/-- An open class (R332): a pair (SOURCE, CAUSE), apart for injected messages (R341), with its recorded level. -/
structure FaultClass where
  source : Nat
  cause : Nat
  inj : Bool
  level : Nat
  deriving DecidableEq, Repr

/-- An accepted assert message whose condition has not ended (R337, R339). -/
structure Cond where
  source : Nat
  cause : Nat
  inj : Bool
  deriving DecidableEq, Repr

/-- A fence in force (R331, Table 146): the SOURCE whose messages caused it, 0xB8 for field bypass, its level, and the
units it covers, taken once when it was applied (R30). -/
structure Fence where
  source : Nat
  level : Nat
  units : List Nat
  /-- the accepted messages that caused it -/
  causes : List Cond
  deriving DecidableEq, Repr

/-- The fault network (R327, R330). -/
structure FaultNet where
  /-- messages on their way to the collector, oldest first -/
  msgs : List FaultMsg := []
  /-- conditions that a source has asserted and not yet cleared -/
  raised : List (Nat × Nat) := []
  deriving DecidableEq, Repr

/-- The collector (R328 to R341). -/
structure Collector where
  classes : List FaultClass := []
  conds : List Cond := []
  fences : List Fence := []
  /-- tick of each recovery or release of the last 3,600 s, by SOURCE (R338) -/
  recoveries : List (Nat × Nat) := []
  /-- sources whose recovery R338 refused -/
  limited : List Nat := []
  /-- by SOURCE, the tick at which the last of its conditions ended or of its messages was accepted (R337) -/
  quietFrom : Store Nat := []
  /-- level of the ALIVE pin (R340) -/
  alive : Bool := false
  /-- the hold-up test failed, so every relay stays in bypass (R94) -/
  holdUpFailed : Bool := false
  deriving DecidableEq, Repr

/-! ### Fresco (16_fresco.md) -/

/-- An event on its way to a record. `kind` is the CAUSE for fault messages and 0x80 + TYPE otherwise (R366). -/
structure FrEvent where
  type : Nat
  source : Nat := 0xFF
  time : Nat := 0
  body : List Byte := []
  inj : Bool := false
  kind : Nat := 0
  deriving DecidableEq, Repr

/-- A written record (R360, Table 157). -/
structure FrRecord where
  seq : Nat
  type : Nat
  inj : Bool
  onDie : Bool
  time : Nat
  epoch : Nat
  source : Nat
  body : List Byte
  deriving DecidableEq, Repr

/-- One black-box slot (R363). A failed page program leaves bytes the spec does not give: `failed k` reads as free
value k. -/
inductive BbSlot where
  | erased
  | record (r : FrRecord)
  | failed (k : Nat)
  deriving DecidableEq, Repr

/-- One (SOURCE, KIND) count of a flood (R366), with the time of its first event. -/
structure FloodCount where
  source : Nat
  kind : Nat
  count : Nat
  time : Nat
  deriving DecidableEq, Repr

structure Fresco where
  /-- ingress queue, oldest first, at most 64 (R366) -/
  queue : List FrEvent := []
  pairs : List FloodCount := []
  next : Nat := 1
  flushed : Nat := 0
  /-- the next number to flush (R363, R367) -/
  flushNext : Nat := 1
  /-- first number held by the ring in use -/
  oldest : Nat := 1
  ring : Store (Option FrRecord) := []
  dieRing : Store (Option FrRecord) := []
  blackBox : Store BbSlot := []
  bbNext : Nat := 0
  /-- page programs that failed in a row (R363) -/
  flashErrs : Nat := 0
  /-- journalled reservation mark (R364) -/
  mark : Nat := 0
  /-- a journalled clear whose erase is not complete (R369) -/
  clearJournalled : Bool := false
  refusals : Nat := 0
  /-- the four secrets of AUTH, which no register shows (R368) -/
  secrets : List (List Byte) := []
  /-- the black-box slot copied into the window (R365) -/
  window : List Byte := []
  copying : Bool := false
  deriving DecidableEq, Repr

/-! ### Performance counters (17_counters.md) -/

structure Counters where
  /-- events of the running gather interval, by (group, event, unit, mask of classes) -/
  events : Store Nat := []
  /-- the 48-bit counters, by c -/
  live : Store Nat := []
  /-- the copies taken at the last gather boundary, not yet published (R375) -/
  copies : Store Nat := []
  copied : Bool := false
  copyIndex : Nat := 0
  copyTime : Nat := 0
  /-- counters whose stop in the running interval brought a wrap (R380) -/
  wrapped : List Nat := []
  /-- the tick whose boundary was gathered last, plus 1 -/
  gathered : Nat := 0
  /-- time of the published gather (CNT_GTIME) -/
  time : Nat := 0
  /-- precise-sample buffer, oldest record first, four words each (R383) -/
  samples : List (List Word) := []
  sampleWord : Nat := 0
  /-- by core, the instructions dispatched since the last tag, the count at which the next is tagged, and the tagged
  instructions not yet recorded (R383) -/
  dispatched : Store Nat := []
  tagAt : Store (Option Nat) := []
  tagged : Store Nat := []
  deriving DecidableEq, Repr

/-! ### Scrim and the host side (18_scrim_host.md) -/

/-- A REQ message on its way to the field end (R387): `write` is the word of a write. -/
structure HostReq where
  off : Nat
  write : Option Word
  deriving DecidableEq, Repr

/-- A host access the endpoint has not yet accepted at the link (R389). -/
structure HostAccess where
  off : Nat
  wide : Bool
  writes : Option (List Word)
  deriving DecidableEq, Repr

/-- The physical function that die B presents (R392, Table 168), by which the stepping of die B is read (R430). The Device
Serial Number is COL_ID. -/
structure Function where
  vendor : BitVec 16 := 0x1E6B
  device : BitVec 16 := 0x7640
  /-- 0x11 stands for stepping A1 -/
  revision : BitVec 8 := 0x11
  classCode : BitVec 24 := 0x118000
  barBytes : Nat := 0x100000
  vectors : Nat := 32
  deriving DecidableEq, Repr

structure Scrim where
  config : Function := {}
  /-- AER status: bit k for the k-th kind of error that PCIE_ERROR names (R394, Table 169) -/
  aer : BitVec 8 := 0
  /-- good lanes toward the host and toward the field, of 8 -/
  toHost : Nat := 8
  toField : Nat := 8
  reqs : List HostReq := []
  stalled : List HostAccess := []
  /-- read results on their way to the host -/
  rsps : List Word := []
  /-- words of the oldest host read that have arrived -/
  partRead : List Word := []
  /-- field reads the host still waits for: number of words of each access -/
  reads : List Nat := []
  evts : List Nat := []
  /-- mailbox messages sent while the link is down: they are discarded at re-establishment (R288) -/
  mbxToField : List (List Word) := []
  mbxToHost : List (List Word) := []
  /-- messages in the queue of the receiver, oldest first -/
  mbxField : List (List Word) := []
  mbxHost : List (List Word) := []
  /-- band path of the BP_STAGE message in front, while its check runs (R404) -/
  staging : Option Nat := none
  /-- credits freed by a receiver and not yet returned: REQ, RSP, EVT, MBX to field, MBX to host, CAP -/
  owed : List Nat := [0, 0, 0, 0, 0, 0]
  /-- CAP credits held by the field end, in messages -/
  capCredit : Nat := 256
  /-- the words that completed the host's last read -/
  hostRead : List Word := []
  /-- MSI-X table words that differ from reset, by word index (R396, R397) -/
  msix : Store Word := []
  /-- pending-bit array -/
  pba : Nat := 0
  /-- interrupts delivered, by vector -/
  irqs : Store Nat := []
  busMaster : Bool := true
  /-- die B's warning region and its run of samples (R405, R348) -/
  tempWarn : Bool := false
  warnRun : Nat := 0
  /-- die B above its trip point and not yet cool for 10 s, and ms at or below 95 degrees -/
  tempHot : Bool := false
  coolMs : Nat := 0
  tempSeen : Bool := false
  deriving DecidableEq, Repr

/-- A staged capture grain: its bytes belong to the grain; `poison` after a failed staging tile (R398). -/
structure Staged where
  grain : Grain
  time : Nat
  /-- its position among the 57,344 of the ring's staging tiles -/
  place : Nat
  lostBefore : Nat := 0
  poisonBefore : Bool := false
  deriving DecidableEq, Repr

/-- An open buffer of a capture ring (R401). -/
structure CapBuffer where
  desc : Descriptor
  grains : List Grain
  lostBefore : Nat
  poison : Bool
  time : Nat
  deriving DecidableEq, Repr

/-- What the engine wrote when a buffer closed (Table 171, R401). -/
structure CapDone where
  count : Nat
  status : Nat
  /-- the bytes of the buffer: the header of 64 bytes, then the grains as 288 bytes each -/
  data : List Byte
  deriving DecidableEq, Repr

/-- A capture ring (R398 to R403). -/
structure Ring where
  staged : List Staged := []
  /-- the staging position that the next grain takes -/
  wrote : Nat := 0
  /-- grains of the staging tile that is being filled -/
  filling : List Grain := []
  buffer : Option CapBuffer := none
  lost : Nat := 0
  lostPoison : Bool := false
  closed : Nat := 0
  /-- the writes to host memory of the last buffer that closed -/
  done : Option CapDone := none
  deriving DecidableEq, Repr

/-! ### Start-up and the Key coat (19_startup_keycoat.md) -/

/-- One directory entry of an accepted image, kept on die with its digest (R411). -/
structure SectionRef where
  type : Nat
  offset : Nat
  length : Nat
  digest : List Byte
  deriving DecidableEq, Repr

/-- Fuses and factory data (R266, R411, R438). -/
structure Factory where
  colId : Nat
  keys : List (List Byte)
  revoked : List Bool
  /-- offset and gain factors of converters A and B (R320, Table 141) -/
  mon : List (Int × Nat) := [(0, 4194304), (0, 4194304)]
  /-- N_p of R206, and FLASH_DELTA of R357 -/
  floor : List Int := [0, 0, 0, 0]
  flashDelta : Int := 0
  /-- the dies Fp fitted for service, by port (R91) -/
  fitted : Nat := 15
  deriving DecidableEq, Repr

structure Loader where
  /-- field power is good, and no thermal hold keeps the field side in reset (R20, R415, R355) -/
  powered : Bool := false
  /-- slots A and B of the flash, by byte address (R408) -/
  flash : Store Byte := []
  /-- the journalled active slot: false is A (R413) -/
  slotB : Bool := false
  /-- the journalled Plumb time (R229) -/
  journalTime : Option Nat := none
  /-- the journalled count of thermal shutdowns (R438) -/
  shutTotal : Nat := 0
  /-- FW_VERSION of the image in use (Table 179) -/
  fwVersion : Nat := 0
  sections : List SectionRef := []
  localMem : Store Byte := []
  /-- tick of each policy core's last kick or release (R421) -/
  kickAt : Store Nat := []
  /-- bytes 0 to 4,095 of the image being received, held on die (R423) -/
  updHead : Store Byte := []
  updNext : Nat := 0
  updCommit : Bool := false
  /-- band paths whose start declaration is to be applied again (R416) -/
  retry : List Nat := []
  /-- ticks since power-good -/
  sincePower : Nat := 0
  selfTestFailed : Bool := false
  deriving DecidableEq, Repr

/-! ### Lanes, cages and the fabric (10_col_fabric.md) -/

/-- A count for each traffic class: TIME, BAND, MGMT, BULK. -/
structure PerClass where
  time : Nat := 0
  band : Nat := 0
  mgmt : Nat := 0
  bulk : Nat := 0
  deriving DecidableEq, Repr

/-- A frame that waits for its lane, with the lane whose receive buffer still holds it (R283). -/
structure QFrame where
  frame : Frame
  fromLane : Option Nat := none
  deriving DecidableEq, Repr

/-- A stream member reserved on a lane (R271), `rate` in kbit/s; `unres` when the lane carries it unreserved (R276). -/
structure Member where
  node : Nat
  bp : Nat
  rid : Bool
  index : Nat
  rate : Nat
  unres : Bool := false
  deriving DecidableEq, Repr

/-- An event from a lane of the time exchange (R233): message SEQ and instant. -/
structure Stamp where
  seq : Nat
  time : Nat
  deriving DecidableEq, Repr

/-- A peer's latest announcement on a lane (R236, Table 107). -/
structure Offer where
  cls : Nat
  prio : Nat
  uid : Nat
  steps : Nat
  tstate : Nat
  timeOk : Bool
  pathUnc : Nat
  rootSeq : Nat
  /-- tick at which ROOT_SEQ last advanced (R238) -/
  seen : Nat
  /-- the lane has left UP since: the root stays live until its ROOT_SEQ is stale, but the lane is no parent (Table 110) -/
  lapsed : Bool := false
  deriving DecidableEq, Repr

/-- A copy in a lane's keep store, with its position among the 4,480 of the store's tiles (R192). -/
structure Kept where
  place : Nat
  frame : Frame
  deriving DecidableEq, Repr

structure Lane where
  queue : List QFrame := []
  /-- frames sent in the current tick, oldest first (log entry 18) -/
  fibre : List Frame := []
  /-- copies of sent BAND frames until they are confirmed (R192, R275) -/
  kept : List Kept := []
  /-- the keep-store position that the next copy takes -/
  keptNext : Nat := 0
  /-- frames of the keep-store tile that is being filled -/
  filling : List Frame := []
  members : List Member := []
  /-- peer's advertised buffer sizes (R263) -/
  peerBuf : PerClass := {}
  /-- blocks of received frames still held, and blocks freed since HELLO (R261) -/
  held : PerClass := {}
  freed : PerClass := {}
  /-- last cumulative counts of the peer's CREDIT blocks -/
  peerCum : PerClass := {}
  peerLstate : Nat := 0
  helloSeen : Bool := false
  /-- frame errors of the current 1 ms, and its index (R264) -/
  errs : Nat := 0
  errMs : Nat := 0
  /-- time exchange (R231 to R233) -/
  txSeq : Nat := 0
  sent : List Stamp := []
  /-- the stamp of the latest message sent, which the next one carries as TX_PREV -/
  txLast : Nat := 0
  /-- the SEQ that the peer's next message has, unless one is lost (Table 113) -/
  rxNext : Option Nat := none
  /-- phase of the receive elastic buffer in delay quanta, measured at each entry to UP (R32, R263) -/
  phase : Int := 0
  recv : List Stamp := []
  /-- θ of the last complete exchange, not yet used by an update -/
  fresh : Option Int := none
  offer : Option Offer := none
  /-- θ of the running second, newest first (R244) -/
  thetas : List Int := []
  /-- (t1, t2) of the peer's last messages, newest first (R233) -/
  pairs : List (Int × Int) := []
  checkSent : Bool := false
  asymSent : Bool := false
  deriving DecidableEq, Repr

/-- The peer that the first UP lane of a cage set (R255). -/
structure Cage where
  peer : Option (Nat × Nat) := none
  /-- 0 empty, 1 identifying, 2 accepted, 3 refused (R257) -/
  phase : Nat := 0
  deriving DecidableEq, Repr

/-- One cage's part of a link-state record (Table 123). -/
structure LsaLink where
  peerNode : Nat
  peerValid : Bool
  peerCage : Nat
  lit : Nat
  /-- in steps of 2^-8 ns -/
  delay : Nat
  /-- free Mbit/s of the four lanes -/
  free : List Nat
  deriving DecidableEq, Repr

/-- A link-state record (R269). -/
structure LsaRec where
  uid : Nat
  node : Nat
  valid : Bool
  auto : Bool
  fwd : Bool
  lseq : Nat
  links : List LsaLink
  deriving DecidableEq, Repr

/-- A stream's entry at this module for one RID (R273, R276). -/
structure Entry where
  node : Nat
  bp : Nat
  rid : Bool
  gen : Nat := 0
  rate : Nat := 0
  k : Nat := 1
  dest : Nat := 0
  /-- lane the stream arrives on; none at the publisher -/
  inLane : Option Nat := none
  /-- outgoing lane of each member -/
  out : List Nat := []
  /-- the nodes of the route after this hop -/
  route : List Nat := []
  deriving DecidableEq, Repr

structure Col where
  db : List LsaRec := []
  /-- LSEQ of the module's own last record -/
  lseq : Nat := 0
  entries : List Entry := []
  /-- cage toward each destination node: PRIMARY and ALT (R270); 4 stands for none -/
  primary : Store Nat := []
  alt : Store Nat := []
  /-- the module has claimed an address since start-up (R268) -/
  claimed : Bool := false
  /-- a lane has been UP since start-up (R266) -/
  seen : Bool := false
  /-- a loser with AUTO = 1 that waits for its new claim (R267) -/
  reclaim : Bool := false
  /-- BULK words delivered to the policy cores (R278) -/
  bulk : List (List Word64) := []
  deriving DecidableEq, Repr

/-! ### Plumb (09_plumb_timing.md) -/

structure Plumb where
  /-- Plumb time in delay quanta (R227, R228) -/
  time : Nat := 0
  /-- the sum of the steps that Plumb time has taken; time − off is the raw time, which does not step -/
  off : Int := 0
  /-- steps that wait for the next tick boundary (R229), in signed quanta; `stepping` says that there is one and
  `pendEpoch` that it is an epoch change -/
  pendStep : Int := 0
  stepping : Bool := false
  pendEpoch : Bool := false
  fi : Int := 0
  ph : Int := 0
  fcorr : Int := 0
  acc : Int := 0
  cnt : Nat := 0
  /-- consecutive x within 1,311 quanta, and consecutive x outside 65,536 (R240) -/
  near : Nat := 0
  far : Nat := 0
  /-- milliseconds without a fresh x (R239) -/
  stale : Nat := 0
  /-- x of the last 1,000 updates, newest first -/
  xs : List Int := []
  /-- ms in HOLDOVER, counted in full (R250) -/
  holdMs : Nat := 0
  /-- LOCKED, or in HOLDOVER after it, under a root or reference of class 0x10 or 0x20 (R237) -/
  kin : Bool := false
  /-- that root or reference was lost and HOLD_LIMIT has not passed: class 0x30 (R237) -/
  heir : Bool := false
  /-- the module's own offer was of class 0x10 or 0x20 at its last announcement -/
  wasRef : Bool := false
  rootSeq : Nat := 0
  /-- candidate edges of PPS_IN in a row while the window is open, and the last edge (R245) -/
  ppsRun : Nat := 0
  ppsLast : Option Int := none
  /-- x of an accepted PPS_IN edge that no update has used -/
  ppsX : Option Int := none
  /-- Plumb time of the last REF_IN edge and the time it marks on the 100 ns grid (R246) -/
  refAnchor : Option (Int × Int) := none
  /-- the REF_IN edge lay more than 40 ns from the PPS_IN edge, so PPS_IN alone is used -/
  skewed : Bool := false
  /-- armed TAI second, the instant of the write, and an accepted edge at which it acts (R247) -/
  tod : Option Nat := none
  todFrom : Nat := 0
  todEdge : Option Int := none
  /-- a pulse of PPS_OUT runs, the instants at which it rises and falls, and the second of the last pulse (R248) -/
  ppsOut : Bool := false
  ppsRise : Int := 0
  ppsTill : Int := 0
  lastPulse : Option Int := none
  /-- the last rising edge of REF_OUT before the latest step, on the present time line (R249) -/
  refHeld : Option Int := none
  deriving DecidableEq, Repr

/-! ### Gorge, Float and tiles (07_delay_flattening.md) -/

/-- An input grain that waits for its turn in SEQ order, or a grain held in Gorge: `pos` counts grain periods (R179,
R182), `grid` is its grid time in units of 1 / (N × 10^7) quantum (R182, exact). -/
structure Held where
  pos : Nat
  grid : Int
  grain : Grain
  deriving DecidableEq, Repr

/-- The delay machinery of a band path (R172 to R197). -/
structure Delay where
  /-- D_a in units of 10^-5 quantum, so that a slew of 1/64 ps per ms is a whole number per tick (R187) -/
  applied : Int := 0
  /-- position, grid time, SEQ, GEN and SETTLE of the last accepted grain; none before the first (R182) -/
  last : Option (Nat × Int × Nat × Nat × Bool) := none
  /-- FLAGS.GEN of the stream's last grain, kept through ESTABLISHING -/
  gen : Nat := 0
  /-- SEQ values accepted under the current GEN, newest first, at most 8,192 (R182: first copy) -/
  seen : List Nat := []
  /-- arrival ages of accepted grains, newest first, with the raw instant of arrival (R175) -/
  ages : List (Int × Int) := []
  /-- consecutive late grains (R193) -/
  lates : Nat := 0
  /-- the next position to form an output grain from, which is the count of R179 -/
  count : Nat := 0
  /-- position, relative to the count, and ORIGIN_TS of the last accepted input grain, kept through fences (R460) -/
  accepted : Option (Int × Int) := none
  gorge : List Held := []
  /-- the newest 56 grains that entered Gorge: three tiles' worth on die and the tile being written (R178, R179) -/
  recent : List Held := []
  /-- input grains not yet formed into output grains, by position -/
  input : List Held := []
  /-- an accepted STEP_OK target that acts at the next grain boundary (R186) -/
  stepTo : Bool := false
  /-- a step of this kind waits for the first emitted grain (R188): cause and old D_a in quanta -/
  announce : Option (Nat × Int) := none
  /-- state held before LOST or NO_TILES (R181, R194) -/
  before : Nat := 1
  /-- FLO_TARGET_LO as written and not yet committed (R198) -/
  stagedLo : Option Nat := none
  /-- SLACK_LOW has been sent since HELD or OFFSET was entered (R196) -/
  slackSent : Bool := false
  /-- what grid corrections have taken of the slew, in 10^-5 quantum (R187) -/
  spent : Int := 0
  /-- reserved tiles as (first, count) runs (R180) -/
  tiles : List (Nat × Nat) := []
  /-- no grain has been accepted since establishment (R182) -/
  fresh : Bool := true
  /-- raw instant of the last establishment: slots before it were substituted -/
  since : Int := 0
  /-- connector instant, in grid units, up to which slots have been emitted (R183, R188) -/
  emitted : Option Int := none
  deriving DecidableEq, Repr

/-- A transfer between the pool and an owner (R180, R287): subtracted from the giver when it starts, added to the
receiver at the next tick boundary. `owner` is a band path, or none for quarantine. -/
structure Transfer where
  runs : List (Nat × Nat)
  toOwner : Bool
  owner : Option Nat
  started : Bool := false
  deriving DecidableEq, Repr

/-- The tiles of external memory (R189 to R191, R199). -/
structure Tiles where
  /-- free pool as (first, count) runs -/
  free : List (Nat × Nat) := [(62464, 8326144)]
  moves : List Transfer := []
  /-- expected generation, by tile (R190) -/
  gens : Store Nat := []
  /-- the seal region: the 8 bytes that the last write of each tile left (R189) -/
  seals : Store (List Byte) := []
  /-- tiles given to an owner other than Gorge in exchange for one it lost: (new tile, tile it stands for) -/
  swapped : List (Nat × Nat) := []
  quarantine : List Nat := []
  retired : List Nat := []
  /-- failed tiles of owners other than Gorge that wait for a tile of the pool (R286) -/
  waiting : List Nat := []
  /-- tick of the last poisoning, by tile -/
  poisonedAt : List (Nat × Nat) := []
  deriving DecidableEq, Repr

/-! ### Emission guard and Plain (08_emission_guard.md) -/

/-- A committed tightening range (R204). -/
structure Tighten where
  first : Nat
  last : Nat
  limit : Nat
  ports : Nat
  en : Bool
  deriving DecidableEq, Repr

/-- The Plain table as the runs of the mask section (R202), the damaged tiles, and the tightening ranges by number. -/
structure Plain where
  records : List (Nat × Nat) := []
  damaged : List Nat := []
  /-- tiles whose rebuild failed (R223) -/
  lost : List Nat := []
  ranges : Store (Option Tighten) := []
  /-- the ranges that G2, the emission loop and the fast ceiling use: those of the last tick boundary (R204) -/
  acting : Store (Option Tighten) := []
  deriving DecidableEq, Repr

/-- One spectrum (R205, R207): power by bin in units of 10^-30 mW, bins not listed carrying none; `valid` when taken
wholly from valid observation samples; `guarded` holds what was guarded during it: unit n, or 128 for the pilot, and its
bins (R217). -/
structure Spectrum where
  valid : Bool
  muted : Bool
  power : List (Nat × Nat)
  guarded : List (Nat × Nat × Nat)
  deriving DecidableEq, Repr

/-- A FOREIGN region (R220): its bins, their reference sums of power and the number of spectra of each sum. -/
structure Foreign where
  first : Nat
  last : Nat
  refs : List (Nat × Nat)
  spectra : Nat
  deriving DecidableEq, Repr


/-! ### Front ends (03_front_end.md) -/

/-- A span of time in which a receive window's converter samples are invalid (Table 53), in raw instants; open until
`till`. -/
structure Interval where
  start : Int
  till : Option Int
  deriving DecidableEq, Repr

/-- A pilot as it runs (R95 to R101): the settings taken when MODE last passed through 0. -/
structure Pilot where
  /-- 0 off, 1 initiator, 2 responder -/
  mode : Nat := 0
  f0 : Nat := 0
  shift : Nat := 0
  /-- emission guard mutes on the pilot tones (R217) -/
  mutes : List Nat := []
  /-- a new result since the last read (FRESH) is in the register -/
  blocked : Bool := false
  deriving DecidableEq, Repr

structure Port where
  /-- applied window centres; none when none was applied since the last field reset (R79) -/
  centres : Option (Nat × Nat) := none
  /-- foreground calibration of all segments has been made since power-up (R83) -/
  calibrated : Bool := false
  calDue : Bool := false
  /-- a checked retune that waits for the calibration to end (Table 37) -/
  retune : Option (Nat × Nat) := none
  /-- a fine retune that acts at the next tick boundary (Table 33) -/
  fine : Option (Nat × Nat) := none
  /-- READY reached since RX_EN was last set (R92) -/
  wasReady : Bool := false
  /-- relay position: 0 IN-LINE, 1 BRIDGED, 2 TERMINATED, 3 undefined; and the target of a running move (R90, R92) -/
  relay : Nat := 2
  move : Option Nat := none
  /-- the transmit chain emits; it starts at the next tick boundary (R88) -/
  emits : Bool := false
  starts : Bool := false
  /-- attenuators in force, and a write that acts at the next tick boundary (R82) -/
  att : Nat × Nat × Nat := (0, 0, 0)
  attPend : Bool := false
  /-- last update of each coefficient set: (tick, die temperature), by 64 * chain + segment (R86) -/
  calAt : Store (Option (Nat × Int)) := []
  stale : List Nat := []
  /-- the receive samples are invalid in these intervals; no sample is valid before the port is first READY (Table 35) -/
  bad : List Interval := [⟨0, none⟩]
  pilot : Pilot := {}
  /-- spectra of the sliding mean, newest first (R207) -/
  spectra : List Spectrum := []
  /-- an invalid observation sample has come since the running spectrum began -/
  obsBroken : Bool := true
  /-- the running spectrum began with the port under an OUT mute -/
  outSince : Bool := false
  /-- what has been guarded on the port since the running spectrum began (R217) -/
  guards : List (Nat × Nat × Nat) := []
  foreign : List Foreign := []
  /-- what the transmit window's converter has put out, by sample index of the raw time, in 2^-8 of a sample step; the
  latest 10 ms (R112) -/
  dac : Store IQ := []
  /-- an OUT mute holds; HOLD has passed (R219) -/
  outMute : Bool := false
  holdOver : Bool := false
  deriving DecidableEq, Repr

/-! ### Band paths (02_band_paths.md) -/

/-- An applied or staged declaration: BP_CTRL.SPAN, BP_ROUTE, BP_FREQ and BP_DST_FREQ (R58, R68, R69). -/
structure Decl where
  span : Nat := 0
  srcKind : Nat := 0
  srcPort : Nat := 0
  srcNode : Nat := 0
  srcBp : Nat := 0
  dstKind : Nat := 0
  dstPort : Nat := 0
  stripe : Nat := 0
  group : Nat := 0
  freq : Nat := 0
  dstFreq : Nat := 0
  deriving DecidableEq, Repr

/-- The channelizer of a band path (04_channelizer.md): the grid of R115, the running fade and the pending swap of R121
to R123, and user banks 2 and 3. -/
structure Fade where
  src : Nat
  dst : Nat
  start : Nat
  grains : Nat
  deriving DecidableEq, Repr

structure Swap where
  bank : Nat
  grains : Nat
  /-- earliest raw instant of its boundary; none when it waits for a running fade (R122) -/
  earliest : Option Int
  deriving DecidableEq, Repr

/-- What the NCO of a receive chain uses from converter sample time `since` on (R105, R110): f_b − f_c in frequency steps,
the time from a converter sample's raw instant to the Plumb time at which it stood at the connector, and the phase
correction in 2^-32 turn. -/
structure Nco where
  since : Int
  freq : Int
  lag : Int
  phase : Int
  deriving DecidableEq, Repr

/-- The delay lines of a receive chain (Table 50), newest sample first: halfbands, resampler, channel filter. -/
structure Chain where
  hb : List (List IQ) := []
  rsd : List IQ := []
  cf : List IQ := []
  deriving DecidableEq, Repr

structure Chz where
  /-- the chain runs, from T_sync = grid × P on -/
  on : Bool := false
  grid : Nat := 0
  /-- T_sync of an accepted synchronising reset, in sample periods (R115) -/
  syncAt : Option Nat := none
  /-- what Plumb had been stepped by when the running grid, and the one accepted, were chosen -/
  off : Int := 0
  syncOff : Int := 0
  /-- index of the next output grain, counted from T_sync (R459) -/
  g : Nat := 0
  /-- index of the next converter sample that the chain takes -/
  next : Nat := 0
  chain : Chain := {}
  /-- the NCO settings in force and before, newest first -/
  nco : List Nco := []
  fade : Option Fade := none
  swap : Option Swap := none
  bank2 : Store Nat := []
  bank3 : Store Nat := []
  /-- this band path's own invalid intervals (R117), in raw instants -/
  bad : List Interval := []
  /-- whether the bank being checked is bank 3 -/
  checks3 : Bool := false
  deriving DecidableEq, Repr

/-- The transmit chain of a band path (R112): the resampler's input line and the interpolating halfbands' lines, newest
first, and the index at 3.2 GS/s / 2^d of the next sample that the resampler gives; none before the first grain. -/
structure TxChain where
  line : List IQ := []
  hb : List (List IQ) := []
  next : Option Int := none
  deriving DecidableEq, Repr

/-- The loops of a band path in units of 2^-8 × 0.002 dB (R132); `r` and `g` in steps of 0.002 dB. -/
structure Loops where
  iLev : Int := -7680000
  iStab : Int := -7680000
  iEmit : Int := -7680000
  iThm : Int := -7680000
  ramp : Int := -7680000
  r : Int := 0
  g : Int := -30000
  /-- 0 none, 1 WAIT, 2 RAMP (R145, R146) -/
  cs : Nat := 0
  cLev : Int := -7680000
  cStab : Int := -7680000
  cEmit : Int := -7680000
  cThm : Int := -7680000
  winner : Nat := 0
  /-- the detector's armed state in the snapshot, which DET_ARMED shows (R148) -/
  armed : Bool := false
  deriving DecidableEq, Repr

structure Engine where
  now : Loops := {}
  /-- what the running tick computes, applied at the next boundary (R126); none when it overran (R148), which `overran`
  says -/
  next : Option Loops := none
  overran : Bool := false
  /-- the gains that have applied, each from a raw instant on, newest first (R126) -/
  gains : List (Int × Int) := []
  /-- the level detector: y, the valid samples since the last cold start, and whether it has armed since (R130) -/
  y : Nat := 0
  taken : Nat := 0
  armed : Bool := false
  /-- fresh headrooms of Saddle and of the emission guard, in loop units -/
  stab : Option Int := none
  emit : Option Int := none
  deriving DecidableEq, Repr

/-- The set-point pins (R143, R144): sums of the running tick, ticks without a SETA conversion, SETP periods in a row. -/
structure Pins where
  setaSum : Nat := 0
  setaCnt : Nat := 0
  setaIdle : Nat := 0
  setpSum : Nat := 0
  setpCnt : Nat := 0
  setpRun : Nat := 0
  /-- the tick that OVERRUN_TICKS counted last, plus 1 (R148) -/
  overrunTick : Nat := 0
  deriving DecidableEq, Repr

/-! ### Saddle (06_saddle_stability.md) -/

/-- What the correlator of a band path last delivered (R156 to R158), in steps of 0.002 dB for the eight sub-bands:
20 log10(Ĥ + 4σ) and 20 log10(4σ). -/
structure LoopBounds where
  bound : List Int
  floor : List Int
  deriving DecidableEq, Repr

/-- A watched code's gain reports (R163): the latest, and the rising sequence of minima inside the window, each with the
count of window samples at which it came. -/
structure MemberGain where
  code : Nat
  latest : Int
  minima : List (Int × Nat)
  silent : Bool := false
  deriving DecidableEq, Repr

structure Saddle where
  /-- chip count (R154) -/
  chip : Nat := 0
  /-- the input detector, and whether it has armed since the last cold start (R155) -/
  yIn : Nat := 0
  takenIn : Nat := 0
  armedIn : Bool := false
  /-- in fixed-gain mode, the window has started, at a tick boundary after the input detector armed (R155) -/
  windowOn : Bool := false
  /-- input samples the window has taken since it began, and that count at the last event that restarts MEAS_DONE -/
  seen : Nat := 0
  mark : Nat := 0
  /-- that count at the latest update (R156) -/
  updated : Nat := 0
  /-- that count from which the taps of the own code have stayed below 2σ, by sub-band, and from which those of a watch entry
  have stayed so in every sub-band, by entry (R161, R166) -/
  quietOwn : Store (Option Nat) := []
  quietWatch : Store (Option Nat) := []
  /-- chip count at the latest G1 trip, which tells its grain (Table 77) -/
  trip : Nat := 0
  est : Option LoopBounds := none
  gains : List MemberGain := []
  deriving DecidableEq, Repr
/-! ### Publishing and subscribing (R271 to R277) -/

/-- A route of a published stream: the nodes after the publisher, in order, and the publisher's own lanes by member. -/
structure Route where
  rid : Bool
  nodes : List Nat
  lanes : List Nat
  deriving DecidableEq, Repr

structure Publisher where
  /-- registered with Col, with the span and source centre of the registration (R272) -/
  registered : Bool := false
  subscriber : Option (Nat × Nat) := none
  /-- route in use, and the one being reserved or awaiting SUB_ACK -/
  route : Option Route := none
  pend : Option Route := none
  /-- RESV_NAKs of the running reservation, and the lane it avoids -/
  tries : Nat := 0
  avoid : List (Nat × Nat) := []
  /-- RID that the next route takes (R273) -/
  nextRid : Bool := false
  /-- every route is lost; re-established at 1 s intervals (R274) -/
  lost : Bool := false
  /-- tick of the last attempt -/
  tried : Nat := 0
  /-- a repair report came in that asks for a new route (R277) -/
  report : Bool := false
  deriving DecidableEq, Repr

structure Subscriber where
  /-- a SUB_REQ is out and neither RESV nor SUB_NAK has come (Table 122) -/
  waiting : Bool := false
  /-- subscribed, with the publisher's source centre (R44, R69) -/
  on : Bool := false
  freq : Nat := 0
  rid : Bool := false
  /-- highest contiguous SEQ of the current GEN, and the one last acknowledged (R275) -/
  ack : Option Nat := none
  acked : Option Nat := none
  deriving DecidableEq, Repr

/-! ### A band path -/

/-- A declaration under check (R58 to R64). -/
structure Check where
  decl : Decl
  /-- ENABLE is 1, so Col's exchange is part of the check -/
  live : Bool
  deriving DecidableEq, Repr

structure Bp where
  decl : Decl := {}
  check : Option Check := none
  /-- the declaration has passed and waits for its grain boundary, or, with ENABLE at 0, for the stop (R59, R64) -/
  passed : Option Decl := none
  stop : Bool := false
  atStop : Option Decl := none
  /-- STATE held before INVALID (R57) -/
  before : Nat := 3
  /-- the band path has started since the last field reset (Table 22, GEN) -/
  started : Bool := false
  /-- from its start to its stop (R63, R64), whatever STATE shows -/
  live : Bool := false
  /-- the stop is due and the grain with FLAGS.END has been sent (R63) -/
  ended : Bool := false
  /-- it has published a grain since its start (R63) -/
  published : Bool := false
  seq : Nat := 0
  gen : Nat := 0
  /-- FLAGS.STEP stands in the next published grain (R188) -/
  markStep : Bool := false
  /-- tick at which a grain of the stream last arrived -/
  lastGrain : Nat := 0
  /-- the last output grain, emitted or published -/
  out : Option Grain := none
  /-- I² + Q² of the gain-stage samples with the probe, newest first, at most 65,536 (R214) -/
  powers : List Nat := []
  mutes : List Nat := []
  chz : Chz := {}
  tx : TxChain := {}
  eng : Engine := {}
  sad : Saddle := {}
  dly : Delay := {}
  pub : Publisher := {}
  sub : Subscriber := {}
  deriving DecidableEq, Repr

/-! ### Line power (12_pwm_line_power.md) -/

/-- One set of PWM_PER, PWM_RISE and PWM_FALL (R298), in 1/32 cycles. -/
structure PwmSet where
  per : Nat := 0
  rise : Nat := 0
  fall : Nat := 0
  deriving DecidableEq, Repr

/-- The gate pulses of the running period (R295 to R300), in 1/32 cycles from its start: the gate command is on from
`rise` to `fall`. -/
structure PwmRun where
  rise : Nat
  fall : Nat
  /-- a GH pulse is given in this period -/
  given : Bool
  /-- the GL pulse before it was skipped, so GH stays high through it -/
  joined : Bool
  /-- the gate command was on up to the start of the period -/
  cont : Bool
  /-- steps since the last fall of the gate command, at the start of the period, and the dead time of that fall -/
  lead : Option Nat
  dead : Nat
  deriving DecidableEq, Repr

structure Pwm where
  /-- the relay of the port is not IN-LINE (Table 133) -/
  relayHold : Bool := true
  /-- a G3 trip of a comparator holds the channel (R307) -/
  g3 : Bool := false
  /-- 800 MHz cycle from which the current and the voltage comparator have been low; none while high -/
  ocLow : Option Nat := some 0
  ovLow : Option Nat := some 0
  active : PwmSet := {}
  shadow : PwmSet := {}
  /-- a commit that came too late for the next period (R298) -/
  late : Option PwmSet := none
  /-- start of the running period, in 1/32 cycles of the base clock -/
  start : Nat := 0
  /-- duty of the running period as a fraction (R302) -/
  duty : Nat × Nat := (0, 1)
  run : Option PwmRun := none
  /-- the last two blanking windows of the channel's comparators, newest first, as first and last instant in 1/32 cycles of
  the base clock (R305) -/
  blank : List (Nat × Nat) := []
  deriving DecidableEq, Repr

/-! ### Monitor converters (13_monitor_converters.md) -/

/-- The conversion that a converter runs (R321, R323). -/
inductive Job where
  | idle
  | scan (ch : Nat) (redo : Bool)
  | urgent (ch tag : Nat)
  deriving DecidableEq, Repr

structure Conv where
  job : Job := .idle
  /-- mask of the running sweep -/
  mask : Nat := 0
  /-- channel last taken in it -/
  at' : Nat := 0
  /-- an aborted scan conversion that waits to be done again (R324) -/
  redo : Option Nat := none
  /-- urgent requests behind the one that runs: (channel, tag), oldest first -/
  pend : List (Nat × Nat) := []
  queue : List Word := []
  /-- latest result of channel 31 and its 800 MHz cycle (R322) -/
  ref : Option (Nat × Nat) := none
  /-- the last self-calibration failed -/
  failed : Bool := false
  deriving DecidableEq, Repr

/-! ### Temperature (15_thermal.md) -/

/-- The sensor of a field die. Counts are of consecutive samples. -/
structure Die where
  /-- the reading that the thresholds use: the die's own or its substitute (R349) -/
  eff : Int := 0
  /-- the last conversion gave a reading in range -/
  good : Bool := false
  warnRun : Nat := 0
  tripRun : Nat := 0
  coolRun : Nat := 0
  differs : Nat := 0
  agrees : Nat := 0
  /-- (tick, reading) of the last 100 ms, newest first -/
  hist : List (Nat × Int) := []
  riseRun : Nat := 0
  riseWarn : Bool := false
  /-- tick from which the rate has stayed at or below RISE_LIM -/
  riseLow : Option Nat := none
  /-- treated as tripped for want of a neighbour (R350) -/
  forced : Bool := false
  /-- a reading has been taken since reset -/
  seen : Bool := false
  /-- the reaction of Table 152 has been taken -/
  reacted : Bool := false
  deriving DecidableEq, Repr

structure Thermal where
  /-- runs of estimates above 90 degrees, below 0 degrees, and from 2 to 88 degrees (R357) -/
  hotRun : Nat := 0
  coldRun : Nat := 0
  openRun : Nat := 0
  /-- die M has tripped and the field bypass actions are taken (R353) -/
  tripped : Bool := false
  /-- thermal hold (R355), the tick of each restart of the last 24 h (R356), and RESTART as it stood -/
  hold : Bool := false
  restarts : List Nat := []
  restartAt : Int := 0
  /-- in thermal hold, the tick from which die M has read at or below RESTART (R356) -/
  coolFrom : Option Nat := none
  /-- a page program was aborted (R355) -/
  aborted : Bool := false
  deriving DecidableEq, Repr

/-! ### The whole state -/

/-- The clocks (R31, R125): tick index, and 800 MHz cycles since the last tick boundary. -/
structure Clock where
  tick : Nat := 0
  cycle : Nat := 0
  deriving DecidableEq, Repr

/-- Latches and the last value read, by requester (R377, R437): a latch holds the register offset it answers for. -/
structure Latch where
  off : Nat
  word : Word
  deriving DecidableEq, Repr

structure Reader where
  wide : Option Latch := none
  count : Option Latch := none
  time1 : Option Word := none
  time2 : Option Word := none
  /-- the word that the last read returned -/
  data : Word := 0
  deriving DecidableEq, Repr

structure State where
  regs : Store Nat := []
  hard : Store Nat := []
  readers : Store Reader := []
  clk : Clock := {}
  bps : Store Bp := []
  ports : Store Port := []
  pwms : Store Pwm := []
  convs : Store Conv := []
  dies : Store Die := []
  /-- consecutive passing cross-checks of channel 31 (R322) -/
  plRun : Nat := 0
  thm : Thermal := {}
  pins : Pins := {}
  /-- detections that other modules report (R161, R163): (CODE, OTHER) -/
  remoteDet : List (Nat × Nat) := []
  tiles : Tiles := {}
  plain : Plain := {}
  lanes : Store Lane := []
  cages : Store Cage := []
  rings : Store Ring := []
  plumb : Plumb := {}
  col : Col := {}
  net : FaultNet := {}
  fcl : Collector := {}
  frs : Fresco := {}
  cnt : Counters := {}
  scr : Scrim := {}
  kct : Loader := {}
  factory : Factory := { colId := 1, keys := [], revoked := [] }
  /-- how many free values have been used (log entry 2) -/
  free : Nat := 0
  /-- the commands that wait, first in first out -/
  pending : List Instr := []
  deriving DecidableEq, Repr

/-! ### The outcomes that are no next state -/

/-- Why a command could stop the block. No command does: the spec gives every one of them an effect or no effect, so
this type has no constructor (safe). -/
inductive Fault where
  deriving DecidableEq, Repr

/-- Why the model could refuse a command. -/
inductive Refusal where
  /-- raised by an arm of `exec` whose command has no meaning yet (safe); no arm does -/
  | notModelled (mnemonic : String)
  deriving DecidableEq, Repr

/-- The block with field power off (R13, R415, R438): every register at its Reset column, nothing in flash, no command
waiting. The values of state that no register shows are the defaults above (log entry 2). -/
def State.reset : State := {}

end Sys2Proof.Machine
end

