-- ==== Sys2Proof/Machine/Ops.lean ====
section
/-!
DEFINITION. The named operations over the state that every family of commands uses: the fields of the register map and
its KL fields, the per-unit records, Plumb's clock, the fault network's sources, Fresco's ingress queue, the event
tallies, the interrupt causes toward the host, and free values.
-/

namespace Sys2Proof.Machine

/-! ### Bit fields and signed numbers (R3 to R8) -/

/-- Bits `lo` to `lo + w - 1` of `x` (R4). -/
def bits (lo w x : Nat) : Nat := x / 2 ^ lo % 2 ^ w

/-- Bit `k` of `x`. -/
def bit (k x : Nat) : Bool := x / 2 ^ k % 2 == 1

/-- `v` cut to `w` bits and placed at bit `lo`. -/
def place (lo w v : Nat) : Nat := v % 2 ^ w * 2 ^ lo

/-- 1 or 0. -/
def flag (b : Bool) : Nat := if b then 1 else 0

/-- The two's-complement value of the `w`-bit number `v` (R8). -/
def signed (w v : Nat) : Int := if v % 2 ^ w < 2 ^ (w - 1) then (v % 2 ^ w : Int) else (v % 2 ^ w : Int) - (2 ^ w : Int)

/-- `x` as a `w`-bit two's-complement number, wrapping. -/
def wrapBits (w : Nat) (x : Int) : Nat := (x % (2 ^ w : Int)).toNat

/-- `x` clamped to lo … hi. -/
def clampI (lo hi x : Int) : Int := max lo (min hi x)

/-- `x` saturated to the range of a `w`-bit two's-complement number. -/
def satBits (w : Nat) (x : Int) : Nat := wrapBits w (clampI (-(2 ^ (w - 1) : Int)) ((2 ^ (w - 1) : Int) - 1) x)

/-- `n / d` rounded to nearest, ties away from zero. -/
def roundDiv (n : Int) (d : Nat) : Int :=
  if n < 0 then -((2 * n.natAbs + d) / (2 * d) : Nat) else ((2 * n.natAbs + d) / (2 * d) : Nat)

/-- `⌈n / d⌉` on naturals. -/
def ceilDiv (n d : Nat) : Nat := (n + d - 1) / d

/-- A fraction with positive denominator. -/
abbrev Frac := Int × Nat

def Frac.add (x y : Frac) : Frac := (x.1 * y.2 + y.1 * x.2, x.2 * y.2)
def Frac.sub (x y : Frac) : Frac := (x.1 * y.2 - y.1 * x.2, x.2 * y.2)
def Frac.le (x y : Frac) : Bool := decide (x.1 * y.2 ≤ y.1 * x.2)
def Frac.ceil (x : Frac) : Int := -((-x.1) / (x.2 : Int))
def Frac.round (x : Frac) : Int := roundDiv x.1 x.2

/-- Little-endian bytes of `v` (R6). -/
def leBytes : Nat → Nat → List Byte
  | 0, _ => []
  | k + 1, v => BitVec.ofNat 8 v :: leBytes k (v / 256)

/-- The number that little-endian bytes spell (R6). -/
def ofLe : List Byte → Nat
  | [] => 0
  | b :: bs => b.toNat + 256 * ofLe bs

/-! ### Register fields (R428 to R433) -/

/-- The key of instance `i` of field `f` in a register store. -/
def fieldKey (f : Field) (i : Nat) : Nat := i * 1024 + f.ctorIdx

/-- What an unlisted field reads as: its Reset column (R13, R438; KC, X and factory stand as 0, log entry 1). The GROUP
of counters 0 to 207 is fixed (R372, Table 161). -/
def fieldReset (k : Nat) : Nat :=
  let f := Field.ofNat (k % 1024)
  if f = .CNT_SEL_GROUP then
    let c := k / 1024
    if c < 64 then 0 else if c < 96 then 1 else if c < 112 then 2 else if c < 128 then 3 else if c < 144 then 4
    else if c < 160 then 5 else if c < 192 then 6 else if c < 208 then 7 else 0
  else f.row.rst

/-- KL fields have one write port, which belongs to the loader (R420). -/
def Field.locked (f : Field) : Bool := decide (f.row.access = .kl)

/-- The value of instance `i` of field `f`. -/
def State.rd (s : State) (f : Field) (i : Nat := 0) : Nat :=
  if f.locked then Store.get fieldReset s.hard (fieldKey f i) else Store.get fieldReset s.regs (fieldKey f i)

/-- Every other action of the block stores into a field that is not KL; a KL field keeps its value (R420). -/
def State.wr (s : State) (f : Field) (i v : Nat) : State :=
  if f.locked then s else { s with regs := Store.set fieldReset s.regs (fieldKey f i) (v % 2 ^ f.row.width) }

/-- The loader's write port (R420, R433). -/
def State.load (s : State) (f : Field) (i v : Nat) : State :=
  if f.locked then { s with hard := Store.set fieldReset s.hard (fieldKey f i) (v % 2 ^ f.row.width) } else s.wr f i v

/-- A field as a signed number (R8). -/
def State.rdS (s : State) (f : Field) (i : Nat := 0) : Int := signed f.row.width (s.rd f i)

/-- A one-bit field, or whether a field is not 0. -/
def State.is (s : State) (f : Field) (i : Nat := 0) : Bool := s.rd f i != 0

/-- Set a status bit. -/
def State.set1 (s : State) (f : Field) (i : Nat := 0) : State := s.wr f i 1

/-- Clear a field. -/
def State.clr (s : State) (f : Field) (i : Nat := 0) : State := s.wr f i 0

/-- Store a Boolean. -/
def State.wrB (s : State) (f : Field) (i : Nat) (b : Bool) : State := s.wr f i (flag b)

/-- Add `k` to a saturating counter field. -/
def State.bump (s : State) (f : Field) (i : Nat := 0) (k : Nat := 1) : State :=
  s.wr f i (min (s.rd f i + k) (2 ^ f.row.width - 1))

/-- Add 1 to a field that counts modulo its width. -/
def State.roll (s : State) (f : Field) (i : Nat := 0) : State := s.wr f i (s.rd f i + 1)

/-- A quantity wider than 32 bits in two fields (R5). -/
def State.rd2 (s : State) (lo hi : Field) (i : Nat := 0) : Nat := s.rd lo i + s.rd hi i * 2 ^ 32

/-- Store a wide quantity (R5). -/
def State.wr2 (s : State) (lo hi : Field) (i v : Nat) : State := (s.wr lo i v).wr hi i (v / 2 ^ 32)

/-- A 48-bit signed quantity in two fields (R8, delays). -/
def State.rdDelay (s : State) (lo hi : Field) (i : Nat := 0) : Int := signed 48 (s.rd2 lo hi i)

/-! ### Per-unit records -/

def State.lane (s : State) (l : Nat) : Lane := Store.get (fun _ => {}) s.lanes l
def State.setLane (s : State) (l : Nat) (x : Lane) : State := { s with lanes := Store.set (fun _ => {}) s.lanes l x }
def State.updLane (s : State) (l : Nat) (f : Lane → Lane) : State := s.setLane l (f (s.lane l))

def State.cage (s : State) (c : Nat) : Cage := Store.get (fun _ => {}) s.cages c
def State.setCage (s : State) (c : Nat) (x : Cage) : State := { s with cages := Store.set (fun _ => {}) s.cages c x }

def State.ring (s : State) (r : Nat) : Ring := Store.get (fun _ => {}) s.rings r
def State.setRing (s : State) (r : Nat) (x : Ring) : State := { s with rings := Store.set (fun _ => {}) s.rings r x }

def State.bp (s : State) (n : Nat) : Bp := Store.get (fun _ => {}) s.bps n
def State.setBp (s : State) (n : Nat) (x : Bp) : State := { s with bps := Store.set (fun _ => {}) s.bps n x }
def State.updBp (s : State) (n : Nat) (f : Bp → Bp) : State := s.setBp n (f (s.bp n))

def State.port (s : State) (p : Nat) : Port := Store.get (fun _ => {}) s.ports p
def State.setPort (s : State) (p : Nat) (x : Port) : State := { s with ports := Store.set (fun _ => {}) s.ports p x }
def State.updPort (s : State) (p : Nat) (f : Port → Port) : State := s.setPort p (f (s.port p))

def State.pwm (s : State) (k : Nat) : Pwm := Store.get (fun _ => {}) s.pwms k
def State.setPwm (s : State) (k : Nat) (x : Pwm) : State := { s with pwms := Store.set (fun _ => {}) s.pwms k x }
def State.updPwm (s : State) (k : Nat) (f : Pwm → Pwm) : State := s.setPwm k (f (s.pwm k))

def State.conv (s : State) (x : Nat) : Conv := Store.get (fun _ => {}) s.convs x
def State.setConv (s : State) (x : Nat) (c : Conv) : State := { s with convs := Store.set (fun _ => {}) s.convs x c }

def State.die (s : State) (e : Nat) : Die := Store.get (fun _ => {}) s.dies e
def State.setDie (s : State) (e : Nat) (x : Die) : State := { s with dies := Store.set (fun _ => {}) s.dies e x }

def State.reader (s : State) (q : Nat) : Reader := Store.get (fun _ => {}) s.readers q
def State.setReader (s : State) (q : Nat) (x : Reader) : State :=
  { s with readers := Store.set (fun _ => {}) s.readers q x }

/-- `f` over every index below `k`, in ascending order. -/
def State.forUpTo (f : Nat → State → State) : Nat → State → State
  | 0, s => s
  | k + 1, s => f k (State.forUpTo f k s)

/-- `f` over the listed indices, in order. -/
def State.forEach {α : Type} (f : α → State → State) (xs : List α) (s : State) : State :=
  xs.foldl (fun t x => f x t) s

/-- Index of a requester (R377, R437): a debugger acts through its core's address map. -/
def requesterIx (who : Requester) : Nat :=
  match who with
  | .core q => q.val
  | .debugger q => q.val
  | .loader => 4
  | .host => 5

/-! ### Free values -/

/-- A word the spec leaves undefined where the block goes on, and the next state of the free-value counter. -/
def State.freeWord (s : State) : Word := Config.freeWord s.free

def State.nextFree (s : State) : State := { s with free := s.free + 1 }

/-! ### Time (R227, R228) -/

/-- Quanta in one second, in one 800 MHz cycle, and cycles in one tick (R125, R228). -/
def quantaPerSec : Nat := 1000000000 * 65536
def quantaPerCycle : Nat := 81920
def cyclesPerTick : Nat := 8000

/-- Plumb time now, in quanta. -/
def State.now (s : State) : Nat := s.plumb.time

/-- The raw time now: Plumb time without the steps it has taken, in which the converters sample at whole multiples of
0.3125 ns (DESIGN CHOICE, log entry 25). -/
def State.raw (s : State) : Int := s.plumb.time - s.plumb.off

/-- Quanta in one converter sample (R103: 3.2 GS/s). -/
def converterQuanta : Nat := 20480

/-- Plumb time as its 96-bit value: FRAC, NS, SEC (R227). -/
def timeBits (t : Nat) : Nat :=
  t % 65536 + (t / 65536 % 1000000000) * 2 ^ 16 + (t / quantaPerSec % 2 ^ 48) * 2 ^ 46

/-- The instant that a 96-bit time value names. -/
def ofTimeBits (b : Nat) : Nat := bits 0 16 b + bits 16 30 b * 65536 + bits 46 48 b * quantaPerSec

/-- The short timestamp: bits [63:0] (R227). -/
def shortTime (t : Nat) : Nat := timeBits t % 2 ^ 64

/-! ### Fault messages (R327 to R330, Table 145) -/

/-- The base level of a cause for a source; none for a RSVD cause (R329, Table 145). -/
def baseLevel (source cause : Nat) : Option Nat :=
  if cause = 0x0C then some (if source = 0xB1 then 3 else 2)
  else if cause ∈ [0x01, 0x02, 0x03, 0x04, 0x05, 0x06, 0x07, 0x08, 0x11, 0x15, 0x17, 0x22, 0x23, 0x24, 0x25, 0x26, 0x27,
      0x28, 0x29, 0x2A, 0x31, 0x32, 0x34, 0x40, 0x41, 0x43, 0x50, 0x51, 0x52, 0x53, 0x60, 0x61, 0x62, 0x63, 0x64, 0x70]
  then some 0
  else if cause ∈ [0x09, 0x0A, 0x0B, 0x10, 0x12, 0x16, 0x20, 0x21, 0x30, 0x42, 0x66] then some 1
  else if cause ∈ [0x13, 0x14, 0x18, 0x33] then some 2
  else if cause = 0x65 then some 3
  else none

/-- Whether a cause escalates (Table 145). -/
def escalates (cause : Nat) : Bool :=
  cause ∈ [0x01, 0x02, 0x03, 0x04, 0x05, 0x06, 0x09, 0x0A, 0x0B, 0x0C, 0x10, 0x11, 0x12, 0x13, 0x16, 0x20, 0x21, 0x25,
    0x26, 0x30, 0x33, 0x42, 0x50, 0x60, 0x66]

/-- Whether the condition of a cause has ended when the message is sent; a RSVD cause ends at once (R329). -/
def atOnce (cause : Nat) : Bool :=
  cause ∈ [0x10, 0x12, 0x16, 0x20, 0x21, 0x25, 0x26, 0x29, 0x30, 0x40, 0x41, 0x43, 0x60, 0x62, 0x64]
    || (baseLevel 0 cause).isNone

/-- A source sends an assert message; a further one of the same cause, while the first waits, merges (R330). -/
def State.sendFault (s : State) (source cause : Nat) (detail : Nat := 0) : State :=
  let c := s.net
  let raised := if atOnce cause || c.raised.contains (source, cause) then c.raised else (source, cause) :: c.raised
  if c.msgs.any (fun m => m.source == source && m.cause == cause && !m.clear && !m.inj) then
    ({ s with net := { c with raised := raised } }).bump .FCL_COUNT_MERGED
  else
    { s with net := { c with
        raised := raised
        msgs := c.msgs ++ [{ source := source, cause := cause, level := (baseLevel source cause).getD 0, detail := detail,
                             time := shortTime s.now }] } }

/-- A source that has asserted a condition sends its clear message when the condition ends (R327). -/
def State.sendClear (s : State) (source cause : Nat) : State :=
  let c := s.net
  if c.raised.contains (source, cause) then
    { s with net := { c with
        raised := c.raised.filter (fun r => r != (source, cause))
        msgs := c.msgs ++ [{ source := source, cause := cause, level := (baseLevel source cause).getD 0, clear := true,
                             time := shortTime s.now }] } }
  else s

/-- The source has an asserted condition of the cause that has not ended. -/
def State.hasCond (s : State) (source cause : Nat) : Bool := s.net.raised.contains (source, cause)

/-- Some fence in force covers unit `u` (R334). -/
def State.fenced (s : State) (u : Nat) : Bool := s.fcl.fences.any (fun f => f.units.contains u)

/-- The highest fence level in force on unit `u` (R334). -/
def State.fenceLevel (s : State) (u : Nat) : Nat :=
  s.fcl.fences.foldl (fun m f => if f.units.contains u then max m f.level else m) 0

/-! ### Fresco's ingress queue (R366) -/

/-- Count an event of a flood under its (SOURCE, KIND) pair, or under (0xFF, 0xFF) when the table of 64 is full. -/
def floodCount (pairs : List FloodCount) (e : FrEvent) : List FloodCount :=
  let hit (src kind : Nat) : List FloodCount → List FloodCount := List.map (fun c =>
    if c.source = src ∧ c.kind = kind then { c with count := min (c.count + 1) 16777215 } else c)
  if pairs.any (fun c => c.source == e.source && c.kind == e.kind) then hit e.source e.kind pairs
  else if (pairs.filter (fun c => !(c.source == 0xFF && c.kind == 0xFF))).length < 64 then
    pairs ++ [⟨e.source, e.kind, 1, e.time⟩]
  else if pairs.any (fun c => c.source == 0xFF && c.kind == 0xFF) then hit 0xFF 0xFF pairs
  else pairs ++ [⟨0xFF, 0xFF, 1, e.time⟩]

/-- An event enters the ingress queue of 64, or is counted while Fresco coalesces (R366). -/
def State.recordEvent (s : State) (e : FrEvent) : State :=
  if s.is .FRS_STATUS_FLOOD || decide (64 ≤ s.frs.queue.length) then
    (({ s with frs := { s.frs with pairs := floodCount s.frs.pairs e } }).set1 .FRS_STATUS_FLOOD).bump
      .FRS_COUNT_COALESCED
  else { s with frs := { s.frs with queue := s.frs.queue ++ [e] } }.wr .FRS_QUEUE_LEVEL 0 (s.frs.queue.length + 1)

/-- A block writes a record of `type` with body bytes given as (width, value) pairs (R360, Table 158). -/
def State.record (s : State) (type source : Nat) (body : List (Nat × Nat)) : State :=
  s.recordEvent { type := type, source := source, time := s.now, kind := 0x80 + type,
                  body := body.flatMap (fun p => leBytes p.1 p.2) }

/-! ### Event tallies (R372, R373) and interrupt causes (R397) -/

/-- The unit that a count of the group names, by its identifier (R29, Table 161): lanes, ports and PWM channels by theirs,
band paths, memory channels and cores by their number. -/
def eventUnit (group event u : Nat) : Nat :=
  if group = 1 ∨ (group = 2 ∧ event = 0x01) then 0x90 + u
  else if group = 5 ∨ (group = 3 ∧ 0x04 ≤ event) then 0x80 + u
  else if group = 7 ∧ event = 0x08 then 0xA0 + u
  else u

/-- The key of a count: group, event, unit and the mask of the traffic classes that it concerns. -/
def eventKey (group event unit mask : Nat) : Nat := ((group * 256 + event) * 256 + unit) * 16 + mask

/-- `k` events of a group that concern the classes of `mask` occur in the running gather interval (R375). -/
def State.tallyMask (s : State) (group event unit k mask : Nat) : State :=
  let key := eventKey group event (eventUnit group event unit) mask
  { s with cnt := { s.cnt with
      events := Store.set (fun _ => 0) s.cnt.events key (Store.get (fun _ => 0) s.cnt.events key + k) } }

/-- `k` events of a group occur in the running gather interval, of one traffic class in group 1. -/
def State.tally (s : State) (group event unit : Nat) (k : Nat := 1) (cls : Nat := 0) : State :=
  s.tallyMask group event unit k (2 ^ cls)

/-! ### Accesses by policy cores and the host (R19, R382, R390) -/

/-- Core q executes: it is neither held in reset nor halted. -/
def State.coreRuns (s : State) (q : Nat) : Bool := bit q (s.rd .PCR_CTRL_RUN) && !bit q (s.rd .PCR_CTRL_HALTED)

/-- Core q makes an access outside its local memory; while it is halted nothing counts (R382). -/
def State.remote (s : State) (q : Nat) : State := if s.coreRuns q then s.tally 6 0x0C q else s

/-- What a read of an absent field side returns (R390). -/
def allOnes : Word := 0xFFFFFFFF#32

/-- An access of the host while the field side is down: a read of `words` words completes with all ones, a write is
discarded, and ABSENT counts it (R390). -/
def State.absentAccess (s : State) (words : Option Nat) : State :=
  let s1 := s.bump .SCR_HCOUNT_ABSENT
  match words with
  | some k => { s1 with scr := { s1.scr with hostRead := List.replicate k allOnes } }
  | none => s1

/-- An access of a requester to a field register, a read or a write: the host's comes through Scrim alone and finds nothing
while that is down (R19, R390); a core's counts as a remote access. -/
def State.through (s : State) (who : Requester) (read : Bool) (act : State → State) : State :=
  match who with
  | .host => if s.is .SCR_HSTATUS_FIELD_UP then act s else s.absentAccess (if read then some 1 else none)
  | .core q => act (s.remote q)
  | .debugger _ => act s
  | .loader => act s

/-- A write, and a read, of a field register. -/
def State.via (s : State) (who : Requester) (act : State → State) : State := s.through who false act
def State.viaRead (s : State) (who : Requester) (act : State → State) : State := s.through who true act

/-- The field side raises MSI-X vector `v` with an EVT message; a cause that already waits is not queued twice. -/
def State.raise (s : State) (v : Nat) : State :=
  if s.scr.evts.contains v then s else { s with scr := { s.scr with evts := s.scr.evts ++ [v] } }

/-- The host end delivers vector `v`, or sets its pending bit while it is masked (R397, R395). -/
def State.interrupt (s : State) (v : Nat) : State :=
  let ctl := Store.get (fun w => if w % 4 = 3 then (1 : Word) else 0) s.scr.msix (4 * v + 3)
  if !s.scr.busMaster then s
  else if ctl.getLsbD 0 then { s with scr := { s.scr with pba := if bit v s.scr.pba then s.scr.pba else s.scr.pba + 2 ^ v } }
  else { s with scr := { s.scr with irqs := Store.set (fun _ => 0) s.scr.irqs v (Store.get (fun _ => 0) s.scr.irqs v + 1) } }

end Sys2Proof.Machine
end

