-- ==== Sys2Proof/Machine/Dsp.lean ====
section
/-!
DEFINITION. Fixed-point arithmetic of the sample chains (04_channelizer.md R105 to R107, R112): sine and cosine of a
fraction of a turn, logarithms, tapped delay lines, and saturation. Samples are integers; a stage's 24-bit data carry 8
bits after the point of the 16-bit sample (DESIGN CHOICE, log entry 7).
-/

namespace Sys2Proof.Machine

/-! ### Sine, cosine and logarithm -/

/-- 2π × 2^80, rounded down. -/
def twoPi80 : Int := 7595904947272677161575987

/-- The Taylor terms of the cosine from term 2k on, in units of 2^-80: `sq` is the squared angle. -/
def cosTerms (sq : Int) : Nat → Nat → Int → Int → Int
  | 0, _, _, acc => acc
  | m + 1, k, t, acc =>
    let u := -(t * sq / 2 ^ 80) / ((2 * k + 1) * (2 * k + 2) : Nat)
    cosTerms sq m (k + 1) u (acc + u)

/-- cos(2π a / b) in units of 2^-80. -/
def cosTurn (a b : Nat) : Int :=
  let x : Int := twoPi80 * (a % b : Nat) / (b : Nat)
  cosTerms (x * x / 2 ^ 80) 30 0 (2 ^ 80) (2 ^ 80)

/-- sin(2π a / b) in units of 2^-80. -/
def sinTurn (a b : Nat) : Int := cosTurn (4 * a + 3 * b) (4 * b)

/-- An 18-bit coefficient, 2^17 = 1.0, from a value in units of 2^-80. -/
def coef18 (x : Int) : Int := clampI (-131071) 131071 (roundDiv x (2 ^ 63))

/-- `n` more bits of the binary logarithm of a mantissa m / 2^62 in 1 … 2. -/
def logBits : Nat → Nat → Nat → Nat
  | 0, _, acc => acc
  | n + 1, m, acc =>
    let q := m * m / 2 ^ 62
    if 2 ^ 63 ≤ q then logBits n (q / 2) (2 * acc + 1) else logBits n q (2 * acc)

/-- log2 of a positive number, in units of 2^-40. -/
def log2Fix (y : Nat) : Int := (Nat.log2 y * 2 ^ 40 + logBits 40 (y * 2 ^ 62 / 2 ^ Nat.log2 y) 0 : Nat)

/-- 10 log10(y / z) in units of 2^-8 × 0.002 dB. -/
def tenLog (y z : Nat) : Int := roundDiv ((log2Fix y - log2Fix z) * 385318394449896) (10 ^ 9 * 2 ^ 40)

/-! ### Samples and stages (R37, R38, R107) -/

/-- Saturation to ±32,767 (R38). -/
def sat16 (x : Int) : Int := clampI (-32767) 32767 x

/-- A sample word of I and Q (R37). -/
def sampleWord (x : IQ) : Word := BitVec.ofNat 32 (wrapBits 16 x.i + wrapBits 16 x.q * 65536)

/-- The sample of a word; a received −32,768 is taken as −32,767 (R38). -/
def ofSampleWord (w : Word) : IQ :=
  ⟨max (-32767) (signed 16 (w.toNat % 65536)), max (-32767) (signed 16 (w.toNat / 65536))⟩

def IQ.zero : IQ := ⟨0, 0⟩
def IQ.add (x y : IQ) : IQ := ⟨x.i + y.i, x.q + y.q⟩
def IQ.map (f : Int → Int) (x : IQ) : IQ := ⟨f x.i, f x.q⟩

/-- Full scale of 24-bit data. -/
def full24 : Int := 32767 * 256

/-- The result of a stage: rounded to nearest with ties away from zero, saturated to `lim`; and whether it saturated
(R107). -/
def stageOut (lim : Int) (den : Nat) (x : IQ) : IQ × Bool :=
  let y := IQ.map (fun v => roundDiv v den) x
  (IQ.map (clampI (-lim) lim) y, decide (lim < y.i.natAbs ∨ lim < y.q.natAbs))

/-- The exact sum of products of coefficients with a delay line, newest sample first. -/
def tapSum (cs : List Int) (xs : List IQ) : IQ := (cs.zipWith (fun c (x : IQ) => (⟨c * x.i, c * x.q⟩ : IQ)) xs).foldl IQ.add IQ.zero

/-- A stage of 18-bit coefficients over 24-bit data. -/
def fir24 (cs : List Int) (xs : List IQ) : IQ × Bool := stageOut full24 (2 ^ 17) (tapSum cs xs)

/-- A sample turned by a phase of 2^-32 turn (R105, R112), by cosine and sine as 18-bit coefficients. -/
def rotate (phase : Nat) (x : IQ) : IQ × Bool :=
  let c := coef18 (cosTurn phase (2 ^ 32))
  let d := coef18 (sinTurn phase (2 ^ 32))
  stageOut full24 (2 ^ 17) ⟨x.i * c - x.q * d, x.i * d + x.q * c⟩

/-- A number of 2^-32 turn, modulo one turn. -/
def turn32 (x : Int) : Nat := (x % (2 ^ 32 : Int)).toNat

/-! ### Filters of the chain (Table 50, R112) -/

/-- The 43 taps of a halfband: linear phase, centre 1/2, zero at every other tap (R103; log entry 10). -/
def hbCoef (k : Nat) : Int :=
  let d := if k ≤ 21 then 21 - k else k - 21
  if d = 0 then 65536 else if d % 2 = 0 then 0 else (Config.hbTap (d / 2)).toInt

def hbCoefs : List Int := (List.range 43).map hbCoef

/-- A resampler's prototype of 24 taps × 1,024 sub-phases: symmetric, and 23 sample periods long, so that its delay is
11.5 samples (R109, R116; log entry 10). -/
def protoAt (half : Nat → BitVec 18) (i : Nat) : Int := if i ≤ 11776 then (half i).toInt else (half (23552 - i)).toInt

def proto (half : Nat → BitVec 18) (i : Nat) : Int := if 23552 < i then 0 else protoAt half i

/-- The coefficients at the fractional position `num / den`: 1,024 sub-phases, linearly interpolated between adjacent
ones and rounded to 18 bits (R103, R112). -/
def subPhase (half : Nat → BitVec 18) (num den : Nat) : List Int :=
  let i := num * 1024 / den
  let f := num * 1024 % den
  (List.range 24).map fun t =>
    let a := proto half (1024 * t + i)
    let b := proto half (1024 * t + i + 1)
    a + roundDiv ((b - a) * f) den

/-- Push a sample into the delay lines of the decimating halfbands; `k` is its index at the first one's input. The lines,
the sample that leaves the last stage, and whether a stage saturated. -/
def pushDown : List (List IQ) → Nat → IQ → List (List IQ) × Option IQ × Bool
  | [], _, x => ([], some x, false)
  | l :: ls, k, x =>
    let l' := (x :: l).take 43
    if k % 2 = 0 then
      let y := fir24 hbCoefs l'
      let r := pushDown ls (k / 2) y.1
      (l' :: r.1, r.2.1, y.2 || r.2.2)
    else (l' :: ls, none, false)

/-- The two output samples of an interpolating halfband for one input: even taps, then odd taps, at twice their value
(R112). -/
def halfUp (l : List IQ) : List IQ :=
  let cs := fun r => (List.range 22).map fun j => 2 * hbCoef (2 * j + r)
  [(fir24 (cs 0) l).1, (fir24 ((cs 1).take 21) l).1]

/-- Push samples through the interpolating halfbands, slowest first. -/
def pushUp : List (List IQ) → List IQ → List (List IQ) × List IQ
  | [], xs => ([], xs)
  | l :: ls, xs =>
    let r := xs.foldl (fun (a : List IQ × List IQ) x =>
      let l' := (x :: a.1).take 22
      (l', a.2 ++ halfUp l')) (l, [])
    let u := pushUp ls r.2
    (r.1 :: u.1, u.2)

end Sys2Proof.Machine
end

