-- ==== Sys2Proof/Machine/Plain.lean ====
section
/-!
DEFINITION. The Plain mask (08_emission_guard.md R200 to R204, R209, R210, R223): entries, tightening ranges, effective
limits, forbidden bins and guarded bins. Limits are whole numbers of 1/128 dB (Table 93).
-/

namespace Sys2Proof.Machine

/-- The mark of a forbidden bin (Table 93). -/
def forbiddenMark : Nat := 0x8000

/-- The entry that the mask section gives bin k: the record with the greatest FIRST_BIN at or below k (R202). -/
def maskEntry (records : List (Nat × Nat)) (k : Nat) : Nat :=
  records.foldl (fun m r => if r.1 ≤ k then r.2 else m) forbiddenMark

/-- The payload of Plain tile t: the entry of bin 2,048 t + i at bytes 2 i and 2 i + 1, little-endian (R202). -/
def plainPayload (records : List (Nat × Nat)) (t : Nat) : List Byte :=
  (List.range 2048).flatMap fun i => leBytes 2 (maskEntry records (2048 * t + i))

/-- Bin k lies in a damaged tile (R223). -/
def Plain.broken (x : Plain) (k : Nat) : Bool := x.damaged.contains (k / 2048) || x.lost.contains (k / 2048)

/-- The Plain entry of bin k as PLN_RD_DATA shows it. -/
def State.plainEntry (s : State) (k : Nat) : Nat :=
  if s.plain.broken k then forbiddenMark else maskEntry s.plain.records k

/-- The committed tightening ranges. -/
def State.tightenings (s : State) : List Tighten :=
  (List.range 32).filterMap fun r => Store.get (fun _ => none) s.plain.ranges r

/-- An enabled range covers bin k and names port p (R201, R204). -/
def Tighten.covers (t : Tighten) (p k : Nat) : Bool := t.en && bit p t.ports && decide (t.first ≤ k ∧ k ≤ t.last)

/-- The port offset in 1/128 dB (R201). -/
def State.portOffset (s : State) (p : Nat) : Int :=
  64 * (s.rd (if p = 0 then .PLN_PORT_OFS_OFS0 else if p = 1 then .PLN_PORT_OFS_OFS1 else if p = 2 then
    .PLN_PORT_OFS_OFS2 else .PLN_PORT_OFS_OFS3) : Nat)

/-- The effective limit of bin k for port p, which the mark 0x8000 does not stand for (R201). -/
def State.limitOf (s : State) (p k : Nat) : Int :=
  max (-32767) (((s.tightenings.filter (·.covers p k)).map fun t => signed 16 t.limit).foldl min
    (signed 16 (s.plainEntry k) - s.portOffset p))

/-- The Plain entry or a covering range holds 0x8000 (R201). -/
def State.marked (s : State) (p k : Nat) : Bool :=
  s.plainEntry k == forbiddenMark || s.tightenings.any fun t => t.covers p k && t.limit == forbiddenMark

/-- V_p: N_p + 2 × OBS_ATT_MAX + 10 dB (R209). -/
def State.verifiable (s : State) (p : Nat) : Int :=
  s.rdS .EMG_FLOOR_N p + 256 * (s.rd .EMG_LIMIT_OBS_ATT_MAX : Nat) + 1280

/-- Bin k is forbidden for port p (R209). -/
def State.forbidden (s : State) (p k : Nat) : Bool := s.marked p k || decide (s.limitOf p k < s.verifiable p)

/-- The bins of lo … hi at which an entry or a range may change, lo among them. -/
def State.breaks (s : State) (lo hi : Nat) : List Nat :=
  let marks : List Nat := s.plain.records.map (fun r => r.1) ++
    s.tightenings.flatMap (fun t => [t.first, t.last + 1]) ++
    (s.plain.damaged ++ s.plain.lost).flatMap (fun t => [2048 * t, 2048 * t + 2048])
  lo :: marks.filter fun k => decide (lo < k ∧ k ≤ hi)

/-- Some bin of lo … hi is forbidden for port p. -/
def State.anyForbidden (s : State) (p lo hi : Nat) : Bool := (s.breaks lo hi).any (s.forbidden p)

/-- The lowest effective limit over the bins of lo … hi that are not forbidden; none when all are (R213). -/
def State.lowestLimit (s : State) (p lo hi : Nat) : Option Int :=
  match ((s.breaks lo hi).filter fun k => !s.forbidden p k).map (s.limitOf p) with
  | [] => none
  | x :: rest => some (rest.foldl min x)

/-- Guarded bins of a band of span N about destination centre F, and of a tone (R210). -/
def guardedBand (span f : Nat) : Nat × Nat := (f / 256 - 16 * span - 4, (f + 255) / 256 + 16 * span + 3)
def guardedTone (f : Int) : Nat × Nat := ((f / 256 - 4).toNat, (f / 256 + 4).toNat)

/-- Two ranges of bins share one. -/
def binsMeet (a b : Nat × Nat) : Bool := decide (a.1 ≤ b.2 ∧ b.1 ≤ a.2)

end Sys2Proof.Machine
end

