-- ==== Sys2Proof/Machine/Gates.lean ====
section
/-!
DEFINITION. The gate outputs of the PWM generator (12_pwm_line_power.md): the holds of Table 133, the shape of a period
(R295 to R302), dead times and short pulses (R299, R300), and the levels of the gate pins.
-/

namespace Sys2Proof.Machine

/-- Cycles of the 800 MHz base clock since power-up (R294). -/
def State.cycles (s : State) : Nat := s.clk.tick * 8000 + s.clk.cycle

/-- A COUNT and FINE pair in 1/32 cycles (R294). -/
def State.fineOf (s : State) (count fine : Field) (k : Nat) : Nat := s.rd count k * 32 + s.rd fine k

/-- PWM_PER, PWM_RISE and PWM_FALL as last written; a COUNT below 16 acts as 16 (R295). -/
def State.pwmSet (s : State) (k : Nat) : PwmSet :=
  { per := max 16 (s.rd .PWM_PER_COUNT k) * 32 + s.rd .PWM_PER_FINE k
    rise := s.fineOf .PWM_RISE_COUNT .PWM_RISE_FINE k
    fall := s.fineOf .PWM_FALL_COUNT .PWM_FALL_FINE k }

/-! ### Holds (Table 133) -/

/-- FLT input i maps to channel k (R308). -/
def State.fltMaps (s : State) (i k : Nat) : Bool :=
  bit k (match i with
    | 0 => s.rd .PWM_FLT_MAP_MAP0
    | 1 => s.rd .PWM_FLT_MAP_MAP1
    | 2 => s.rd .PWM_FLT_MAP_MAP2
    | _ => s.rd .PWM_FLT_MAP_MAP3)

/-- An FLT hold lasts from the activation to the accepted clear of its LATCH bit (R308, R309). -/
def State.fltHold (s : State) (k : Nat) : Bool := (List.range 4).any fun i => bit i (s.rd .PWM_FLT_LATCH) && s.fltMaps i k

/-- A fence of the channel, or of its port at level 2 or 3 (Table 133). -/
def State.fenceHold (s : State) (k : Nat) : Bool :=
  s.fenced (0xA0 + k) || (decide (k < 4) && decide (2 ≤ s.fenceLevel (0x80 + k)))

/-- A hold other than ARM = 0 applies to channel k. -/
def State.gateHeld (s : State) (k : Nat) : Bool :=
  (decide (k < 4) && ((s.pwm k).g3 || (s.pwm k).relayHold)) || s.fltHold k || s.fenceHold k

/-! ### The shape of a period (R295, R296, R302) -/

/-- A duty field as a fraction: 0xFFFF stands for 1 (R302). -/
def dutyFrac (v : Nat) : Nat × Nat := if v = 65535 then (1, 1) else (v, 65536)

/-- A fraction in lowest terms. -/
def lowest (f : Nat × Nat) : Nat × Nat := (f.1 / max 1 (Nat.gcd f.1 f.2), f.2 / max 1 (Nat.gcd f.1 f.2))

def fracLe (a b : Nat × Nat) : Bool := decide (a.1 * b.2 ≤ b.1 * a.2)
def fracMin (a b : Nat × Nat) : Nat × Nat := if fracLe a b then a else b

/-- A duty's product with the period at fine resolution, rounded down (R302). -/
def fracOf (per : Nat) (f : Nat × Nat) : Nat := per * f.1 / f.2

/-- The gate command of a period: whether it is on for the whole period, its rise and its commanded on-time (Table 131,
R296). -/
def command (mode : Nat) (x : PwmSet) : Bool × Nat × Nat :=
  if mode = 1 then if x.per ≤ x.fall then (true, 0, x.per) else (false, 0, x.fall)
  else if mode = 2 then if x.fall = 0 then (true, 0, x.per) else (false, 0, x.per - x.fall)
  else if x.per ≤ x.rise ∨ x.per ≤ x.fall then (true, 0, x.per) else (false, x.rise, x.fall - x.rise)

/-- The ceilings of R302 and the slew limit from the duty of the previous period. -/
def State.dutyCeil (s : State) (k : Nat) : Nat × Nat :=
  fracMin (dutyFrac (s.rd .PWM_DUTY_MAX_DUTY k)) (dutyFrac (s.rd .PWM_DUTY_FW_MAX_DUTY k))

def State.dutySlew (s : State) (k : Nat) : Nat × Nat :=
  let d := (s.pwm k).duty
  let f := dutyFrac (max 1 (s.rd .PWM_SLEW_DUTY_SLEW k))
  lowest (d.1 * f.2 + f.1 * d.2, d.2 * f.2)

/-! ### Dead time and short pulses (R299, R300) -/

def State.dtMin (s : State) (k : Nat) : Nat := s.rd .PWM_LIM_DT_MIN k
def State.dtRise (s : State) (k : Nat) : Nat := 32 * max (s.dtMin k) (s.rd .PWM_DT_DT_RISE k)
def State.dtFall (s : State) (k : Nat) : Nat := 32 * max (s.dtMin k) (s.rd .PWM_DT_DT_FALL k)
def State.minPulse (s : State) (k : Nat) : Nat := 32 * s.rd .PWM_LIM_MIN_PULSE k

/-- The adaptive dead time applies to channels 0 to 3 with ADAPT = 1 (R299). -/
def State.adapts (s : State) (k : Nat) : Bool := decide (k < 4) && s.is .PWM_CTRL_ADAPT k

/-- Short: below MIN_PULSE, zero or negative (R300). -/
def isShort (len : Int) (least : Nat) : Bool := decide (len < least ∨ len ≤ 0)

/-- With a failed fine calibration, rises move to the next whole cycle and falls to the previous one (R301). -/
def State.fineRise (s : State) (x : Nat) : Nat := if s.is .PWM_GLOBAL_CAL_OK then x else ceilDiv x 32 * 32
def State.fineFall (s : State) (x : Nat) : Nat := if s.is .PWM_GLOBAL_CAL_OK then x else x / 32 * 32

/-- What the gate pulses of a period become (R300): the period's shape, the on-time if a stretch changed it, and how many
pulses were skipped or stretched. `limit` is the largest on-time that R302 allows. Log entry 23. -/
def State.pulses (s : State) (k per rise on limit : Nat) (cont : Bool) (lead : Option Nat) (dead : Nat) :
    PwmRun × Option Nat × Nat :=
  let least := s.minPulse k
  let stretch := s.is .PWM_CTRL_STRETCH k
  let none' : PwmRun := { rise := rise, fall := rise, given := false, joined := false, cont := cont, lead := lead, dead := dead }
  let r := s.fineRise rise
  let f := if rise + on = per then per else s.fineFall (rise + on)
  if f ≤ r then (none', none, 0)
  else if cont && decide (r = 0) then ({ none' with rise := 0, fall := f, given := true }, none, 0)
  else
    let short := decide (f < per) && isShort ((f : Int) - r - s.dtRise k) least
    let f2 := r + s.dtRise k + least
    let fits := decide (0 < least ∧ f2 - r ≤ limit ∧ f2 < per)
    if short && !(stretch && fits) then (none', none, 1)
    else
      let fall := if short then f2 else f
      let n := flag short
      let on' := if short then some (f2 - r) else none
      let lead' := if cont then some 0 else lead
      match lead' with
      | none => ({ none' with rise := r, fall := fall, given := true }, on', n)
      | some l =>
        if !isShort ((l : Int) + r - dead) least then
          ({ none' with rise := r, fall := fall, given := true }, on', n)
        else
          let r2 := dead + least - l
          if stretch && decide (0 < least ∧ r2 < fall) && !isShort ((fall : Int) - r2 - s.dtRise k) least then
            ({ none' with rise := r2, fall := fall, given := true }, on', n + 1)
          else ({ none' with rise := r, fall := fall, given := true, joined := true }, on', n + 1)

/-- Steps since the gate command last fell, and whether it is on, at the end of a period of `per` steps. -/
def PwmRun.lastFall (x : PwmRun) (per : Nat) : Option Nat :=
  if x.given then (if x.fall < per then some (per - x.fall) else none)
  else if x.cont then some per else x.lead.map (· + per)

def PwmRun.onAtEnd (x : PwmRun) (per : Nat) : Bool := x.given && decide (per ≤ x.fall)

/-! ### Periods and restarts -/

/-- The shadow set becomes active; a late commit moves up behind it (R298). -/
def Pwm.reload (x : Pwm) : Pwm := { x with active := x.shadow, shadow := x.late.getD x.shadow, late := none }

/-- A new period starts on an unheld, armed channel, after a period that ended as given (R295 to R302). -/
def State.shapePeriod (s : State) (k : Nat) (cont : Bool) (lead : Option Nat) (dead : Nat) : State :=
  let x := s.pwm k
  let per := x.active.per
  let (full, rise, want) := command (s.rd .PWM_CTRL_MODE k) x.active
  let cut := fracMin (s.dutyCeil k) (s.dutySlew k)
  let ceil := fracOf per (s.dutyCeil k)
  let slew := fracOf per (s.dutySlew k)
  let limit := min per (min ceil slew)
  let on := min want limit
  let duty := if fracLe (want, per) cut then lowest (want, per) else cut
  let (run, stretched, n) := s.pulses k per rise on limit cont lead dead
  (((s.setPwm k { x with run := some run, duty := match stretched with | some v => lowest (v, per) | none => duty })
    |>.bump .PWM_COUNT_SHORT_PULSES k n)
    |>.wrB .PWM_STATUS_FULL k full)
    |>.wr .PWM_STATUS_STATE k (if slew < want ∧ slew ≤ ceil then 2 else 3)
    |> fun t => if ceil < want ∧ ceil ≤ slew then t.set1 .PWM_STATUS_DUTY_CLAMP k else t

/-! ### Comparators and blanking (R304, R305) -/

/-- The effective thresholds of the comparators: the lower of the hard and the firmware value, bits [3:0] cleared (R304). -/
def State.senseLimit (s : State) (k : Nat) (volt : Bool) : Nat :=
  (if volt then min (s.rd .PWM_VLIM_V_LIM k) (s.rd .PWM_VLIM_FW_V_LIM k)
    else min (s.rd .PWM_ILIM_I_LIM k) (s.rd .PWM_ILIM_FW_I_LIM k)) / 16 * 16

/-- BLANK and FILT as they act, in cycles (R305). -/
def State.blankLen (s : State) (k : Nat) : Nat := min 800 (s.rd .PWM_SENSE_BLANK k)
def State.filtLen (s : State) (k : Nat) : Nat := max 1 (min 400 (s.rd .PWM_SENSE_FILT k))

/-- The instants of the running period at which GH or GL of channel k turns on (R299, R300), from its start. -/
def State.turnOns (s : State) (k : Nat) : List Nat :=
  match (s.pwm k).run with
  | none => []
  | some x =>
    let low := match x.lead with
      | some l => if l < x.dead then [x.dead - l] else []
      | none => if x.cont then [s.dtFall k] else []
    if !x.given then low else
      (if x.joined then [] else low.filter fun t => decide (t < x.rise)) ++
        (if x.joined || (x.cont && decide (x.rise = 0)) then [] else [x.rise + s.dtRise k].filter fun t => decide (t < x.fall)) ++
        [x.fall + s.dtFall k].filter fun t => decide (t < (s.pwm k).active.per)

/-- A turn-on edge at instant `t` starts a window of `len` steps, unless it lies within 1 µs of the end of the last
window (R305). -/
def blankEdge (len : Nat) (ws : List (Nat × Nat)) (t : Nat) : List (Nat × Nat) :=
  if len = 0 then ws
  else match ws with
    | [] => [(t, t + len)]
    | w :: _ => if w.2 + 25600 ≤ t then [(t, t + len), w] else ws

/-- The windows of channel k's comparators, with the edges that BLANK_SRC has given up to instant `till`. -/
def State.blankWindows (s : State) (k till : Nat) : List (Nat × Nat) :=
  let src := s.rd .PWM_LIM_BLANK_SRC k
  if s.is .PWM_LIM_BLANK_EN k then
    (((s.turnOns src).map (· + (s.pwm src).start)).filter fun t => decide (t ≤ till)).foldl
      (blankEdge (32 * s.blankLen k)) (s.pwm k).blank
  else (s.pwm k).blank

/-- The running period of channel `src` ends at instant `till`, or stops there: the windows of its edges are kept. -/
def State.keepBlank (s : State) (src till : Nat) : State :=
  s.forEach (fun k t => if s.rd .PWM_LIM_BLANK_SRC k = src then t.updPwm k fun x => { x with blank := s.blankWindows k till } else t)
    (List.range 4)

/-- A comparator of channel k was blanked at some time of the last FILT cycles, so that its count is not complete (R304,
R305). -/
def State.g3Blanked (s : State) (k : Nat) : Bool :=
  let now := s.cycles * 32
  (s.blankWindows k now).any fun w => decide (now < w.2 + 32 * s.filtLen k)

/-- The gates of a channel that does not run are at their safe levels; its duty counts as 0 (R302, R310). -/
def State.gateStop (s : State) (k st : Nat) : State :=
  (((s.keepBlank k (s.cycles * 32)).updPwm k fun x => { x with run := none, duty := (0, 1) }).clr .PWM_STATUS_FULL k).wr .PWM_STATUS_STATE k st

/-- The holds of channel k after a change: safe at once while one applies, a restart from duty 0 when the last has ended
(R310, R302). -/
def State.gateReview (s : State) (k : Nat) : State :=
  let s1 := ((s.wrB .PWM_STATUS_H_G3 k ((decide (k < 4) && (s.pwm k).g3) || s.fltHold k)).wrB .PWM_STATUS_H_FENCE k
    (s.fenceHold k)).wrB .PWM_STATUS_H_RELAY k (decide (k < 4) && (s.pwm k).relayHold)
  if !s1.is .PWM_CTRL_ARM k then s1.gateStop k 0
  else if s1.gateHeld k || !s1.is .KCT_STATUS_LOCKED then s1.gateStop k 1
  else if s1.rd .PWM_STATUS_STATE k < 2 then
    (s1.updPwm k fun x => { x.reload with start := s.cycles * 32, duty := (0, 1) }).shapePeriod k false none 0
  else s1

/-! ### The gate pins (R310, R311, Table 130) -/

/-- The safe levels of GH and GL. -/
def State.safeLevels (s : State) (k : Nat) : Bool × Bool :=
  let v := if k < 4 ∨ k = 7 then 0 else s.rd .PWM_LIM_SAFE k
  (v == 2, v == 1)

/-- Levels of GHk and GLk now. With adaptive dead time GL is shown on at its latest instant. -/
def State.gateLevels (s : State) (k : Nat) : Bool × Bool :=
  if !s.is .KCT_STATUS_LOCKED then (false, false)
  else match (s.pwm k).run with
    | none => s.safeLevels k
    | some x =>
      let t := s.cycles * 32 - (s.pwm k).start
      let from' := if x.joined || x.cont && decide (x.rise = 0) then 0 else x.rise + s.dtRise k
      let before := match x.lead with
        | some l => decide (x.dead ≤ l + t)
        | none => x.cont && decide (s.dtFall k ≤ t)
      if x.given then
        (decide (from' ≤ t ∧ t < x.fall),
          (decide (t < x.rise) && before && !x.joined) || decide (x.fall + s.dtFall k ≤ t))
      else (false, before)

/-! ### Writes of limits (R303) and of the control register (R297, R310) -/

/-- A write of a firmware field above its hard value stores the hard value and sets DUTY_CLAMP (R303). -/
def State.writeLimit (s : State) (k which v : Nat) : State :=
  let put (s : State) (fw hard : Field) : State :=
    if s.rd hard k < v then (s.wr fw k (s.rd hard k)).set1 .PWM_STATUS_DUTY_CLAMP k else s.wr fw k v
  match which with
  | 0 => put s .PWM_DUTY_FW_MAX_DUTY .PWM_DUTY_MAX_DUTY
  | 1 => if k < 4 then put s .PWM_ILIM_FW_I_LIM .PWM_ILIM_I_LIM else s
  | _ => if k < 4 then put s .PWM_VLIM_FW_V_LIM .PWM_VLIM_V_LIM else s

/-- MODE changes only while ARM is 0 (R297); a write of the value it has changes nothing (log entry 23). -/
def State.writeMode (s : State) (k v : Nat) : State :=
  if s.rd .PWM_CTRL_MODE k = v then s
  else if s.is .PWM_CTRL_ARM k then s.set1 .PWM_STATUS_MODE_REFUSED k
  else s.wr .PWM_CTRL_MODE k v

/-- A write of PWM_FALL commits the three registers; one that completes 4 or fewer cycles before the reload is late
(R298). -/
def State.commitPwm (s : State) (k w : Nat) : State :=
  let s1 := (s.wr .PWM_FALL_COUNT k (bits 0 24 w)).wr .PWM_FALL_FINE k (bits 24 5 w)
  let x := s1.pwm k
  let ends := x.start + x.active.per
  let now := s.cycles * 32
  if now ≤ ends ∧ ends ≤ now + 128 ∧ 0 < x.active.per then
    ((s1.setPwm k { x with late := some (s1.pwmSet k) }).set1 .PWM_STATUS_LATE k).bump .PWM_COUNT_LATE_COMMITS k
  else s1.setPwm k { x with shadow := s1.pwmSet k, late := none }

end Sys2Proof.Machine
end

