-- ==== Sys2Proof/Machine/Windows.lean ====
section
/-!
DEFINITION. The windows of the ports (03_front_end.md R76, R77, R79): frequencies, applied and staged centres, the band
paths that run; and what follows a band's offset from its window centre: the corrections of R110 and the NCO of R105.
-/

namespace Sys2Proof.Machine

/-! ### Frequencies (Table 4, R41, R76, R77) -/

/-- Frequency steps in one megahertz: 2^32 / 8,192. -/
def mhz : Nat := 524288

/-- f_LO of a window centre, in MHz: the centre minus 250 MHz, to the nearest MHz, halves down (R77). -/
def loMHz (centre : Nat) : Nat := (2 * (centre - 250 * mhz) + mhz - 1) / (2 * mhz)

/-- The LO segment that holds f_LO (R77). -/
def loSegment (centre : Nat) : Nat := (loMHz centre - 250) / 200

/-- The VCO band of f_LO (R77). -/
def vcoBand (centre : Nat) : Nat := loSegment centre / 3

/-- A window centre may lie between 500 MHz and 7,600 MHz (R76). -/
def centreOk (c : Nat) : Bool := decide (500 * mhz ≤ c ∧ c ≤ 7600 * mhz)

/-- Half a span of N steps of 15.625 kHz, in frequency steps: 15.625 kHz is 8,192 steps (R39). -/
def halfSpan (n : Nat) : Nat := n * 4096

/-- R41: a band of span N about `f` lies inside the window about `c`, and between 100 MHz and 8.0 GHz. -/
def inWindow (span f c : Nat) : Bool :=
  decide ((f - c) + (c - f) + halfSpan span ≤ 1200 * mhz ∧ 100 * mhz + halfSpan span ≤ f ∧
    f + halfSpan span ≤ 8000 * mhz)

/-! ### States of a port -/

def State.feState (s : State) (p : Nat) : Nat := s.rd .FE_STATUS_STATE p

/-- LOCKING, CALIBRATING or READY: a window is in service (R41). -/
def State.inService (s : State) (p : Nat) : Bool := decide (1 ≤ s.feState p ∧ s.feState p ≤ 3)

/-- The staged centres of a port (Table 44). -/
def State.staged (s : State) (p : Nat) : Nat × Nat := (s.rd .FE_RX_FREQ_FREQ p, s.rd .FE_TX_FREQ_FREQ p)

/-- The centres that the checks of R58 and R79 use: applied while a window is in service, else staged (R41). -/
def State.checkCentres (s : State) (p : Nat) : Nat × Nat :=
  if s.inService p then (s.port p).centres.getD (s.staged p) else s.staged p

/-- The enabled band paths: from the start to the stop (R63, R64). -/
def State.running (s : State) (n : Nat) : Bool := (s.bp n).live

def allBps : List Nat := List.range 128
def allPorts : List Nat := List.range 4
def allLanes : List Nat := List.range 16

/-- Band paths that run with a window of port p as source or destination. -/
def State.windowBps (s : State) (p : Nat) : List Nat :=
  allBps.filter fun n => s.running n &&
    (((s.bp n).decl.srcKind == 1 && (s.bp n).decl.srcPort == p) ||
      ((s.bp n).decl.dstKind == 1 && (s.bp n).decl.dstPort == p))

/-! ### Corrections and the NCO (R105, R110, R111) -/

/-- 37.5 MHz in frequency steps (R110). -/
def gdcStep : Nat := 19660800

/-- A factory table of 65 values, interpolated at the band's offset from the window centre; the result is rounded to
nearest, ties away from zero (DESIGN CHOICE, log entry 26). -/
def interpolate (table : Nat → Int) (offset : Int) : Int :=
  let x := (offset + 1200 * mhz).toNat
  let i := x / gdcStep
  table i + roundDiv ((table (i + 1) - table i) * (x % gdcStep : Nat)) gdcStep

/-- The factory group-delay correction of port p, chain k (0 receive, 1 transmit) and LO segment (R110). -/
def gdCorrection (p k seg : Nat) (offset : Int) : Int := interpolate (Config.gdTable p k seg) offset

/-- The phase correction beside it, which the NCO adds (R110). -/
def phCorrection (p k seg : Nat) (offset : Int) : Int := interpolate (Config.phTable p k seg) offset

/-- The centres that port p's windows have, or will have when it locks. -/
def State.centresOf (s : State) (p : Nat) : Nat × Nat := (s.port p).centres.getD (s.staged p)

/-- f_b − f_c of a receive band path, in frequency steps (R105). -/
def State.rxOffset (s : State) (n : Nat) : Int :=
  let d := (s.bp n).decl
  (d.freq : Int) - (s.centresOf d.srcPort).1

/-- f_d − f_t of a transmit band path (R112). -/
def State.txOffset (s : State) (n : Nat) : Int :=
  let d := (s.bp n).decl
  (d.dstFreq : Int) - (s.centresOf d.dstPort).2

/-- The NCO's frequency: BP_FREQ − FE_RX_FREQ modulo 2^32, in the format of Table 4 (R105). -/
def State.ncoFreq (s : State) (n : Nat) : Nat := wrapBits 32 (s.rxOffset n)

/-- The NCO settings of band path n that hold from now on (R105, R110, R111). -/
def State.ncoNow (s : State) (n : Nat) : Nco :=
  let p := (s.bp n).decl.srcPort
  { since := s.raw, freq := s.rxOffset n, lag := s.plumb.off - s.rd .FE_RX_LAT_LAT p - s.rdS .CHZ_GDC_GDC n
    phase := phCorrection p 0 (loSegment (s.centresOf p).1) (s.rxOffset n) }

/-- The NCO of a receive chain takes the present settings at this converter sample; 64 earlier ones are kept for the samples
that no command has brought yet. -/
def State.refreshNco (s : State) (n : Nat) : State :=
  if (s.bp n).decl.srcKind = 1 then
    s.updBp n fun x => { x with chz := { x.chz with nco := s.ncoNow n :: x.chz.nco.take 64 } }
  else s

/-- Recompute CHZ_GDC and CHZ_DST_GDC of band path n from the applied centres, and with them the NCO's phase (R110). -/
def State.refreshGdc (s : State) (n : Nat) : State :=
  let d := (s.bp n).decl
  let src := if d.srcKind = 1 then
    gdCorrection d.srcPort 0 (loSegment (s.centresOf d.srcPort).1) (s.rxOffset n) else 0
  let dst := if d.dstKind = 1 then
    gdCorrection d.dstPort 1 (loSegment (s.centresOf d.dstPort).2) (s.txOffset n) else 0
  ((s.wr .CHZ_GDC_GDC n (wrapBits 32 src)).wr .CHZ_DST_GDC_GDC n (wrapBits 32 dst)).refreshNco n

/-- Every band path of port p follows a change of its centres (R110). -/
def State.refreshPortGdc (s : State) (p : Nat) : State :=
  s.forEach (fun n t =>
    let d := (t.bp n).decl
    if (d.srcKind == 1 && d.srcPort == p) || (d.dstKind == 1 && d.dstPort == p) then t.refreshGdc n else t) allBps

/-- The band path emits on a transmit window, so it holds a delay (R172, R173). -/
def State.emits (s : State) (n : Nat) : Bool := (s.bp n).decl.dstKind == 1

/-! ### Logarithms without rounding error -/

/-- 10^e ≤ (num / den)^r, or strictly below. -/
def tenAtMost (strict : Bool) (e : Int) (num den r : Nat) : Bool :=
  let a := if 0 ≤ e then 10 ^ e.toNat * den ^ r else den ^ r
  let b := if 0 ≤ e then num ^ r else num ^ r * 10 ^ (-e).toNat
  if strict then decide (a < b) else decide (a ≤ b)

/-- (a / b + c × log10(num / den)) / k to the nearest integer, ties away from zero, within ±2^17. -/
def logRound (c num den : Nat) (a : Int) (b k : Nat) : Int :=
  (List.range 18).foldl (fun (m : Int) i =>
    let t := m + (2 ^ (17 - i) : Nat)
    if tenAtMost (decide (t ≤ 0)) ((2 * t - 1) * (k * b : Nat) - 2 * a) num den (2 * b * c) then t else m)
    (-(2 ^ 17 : Nat))

/-! ### Guarded bins, sharing and the fast ceiling (R210, R213) -/

/-- Enabled band paths that the transmit window of port p sums. -/
def State.windowOut (s : State) (p : Nat) : List Nat :=
  allBps.filter fun n => s.running n && s.emits n && (s.bp n).decl.dstPort == p

/-- Guarded bins of band path n (R210). -/
def State.guarded (s : State) (n : Nat) : Nat × Nat := guardedBand (s.bp n).decl.span (s.bp n).decl.dstFreq

/-- k of R213: the largest number of band paths of the window that guard one guarded bin of n. -/
def State.share (s : State) (n : Nat) : Nat :=
  let own := s.guarded n
  let all := (s.windowOut (s.bp n).decl.dstPort).map s.guarded
  let points := own.1 :: (all.map (·.1)).filter fun k => decide (own.1 < k ∧ k ≤ own.2)
  max 1 ((points.map fun k => (all.filter fun g => decide (g.1 ≤ k ∧ k ≤ g.2)).length).foldl max 0)

/-- C_n in steps of 0.002 dB (R213). -/
def State.ceiling (s : State) (n : Nat) : Int :=
  let p := (s.bp n).decl.dstPort
  let g := s.guarded n
  match s.lowestLimit p g.1 g.2 with
  | none => -32768
  | some lmin => clampI (-32768) 32767 (logRound 5000 (32 * (s.bp n).decl.span) (s.share n)
      (125 * lmin + 32 * (250 * ((s.port p).att.2.1 : Int) - 5000)) 32 1)

/-- The state as G2, the emission loop and the fast ceiling see it: the tightening ranges of the last tick boundary (R204). -/
def State.guardView (s : State) : State := { s with plain := { s.plain with ranges := s.plain.acting } }

/-- C_n and k of every band path that emits on port p, made at APPLY, RETUNE, a committed range and a change of TX_ATT
(R213). -/
def State.refreshCeilings (s : State) (p : Nat) : State :=
  s.forEach (fun n t => (t.wr .EMG_BP_CEIL_CEIL n (wrapBits 16 (t.guardView.ceiling n))).wr .EMG_BP_STATUS_SHARE n (t.share n))
    (s.windowOut p)

end Sys2Proof.Machine
end

