-- ==== Sys2Proof/Machine/FrontEnd.lean ====
section
/-!
DEFINITION. RF front ends (03_front_end.md): pilot tones, retunes, attenuators, calibration, the states of Tables 35
and 36, transmit holds, the port relays and the pilot.
-/

namespace Sys2Proof.Machine

/-! ### Pilot tones (R95 to R98) -/

/-- The four tones: T0 and its offsets 15.625 kHz, 1 MHz and 64 MHz (Table 39). -/
def pilotTones (f0 : Nat) : List Nat := [f0, f0 + 8192, f0 + mhz, f0 + 64 * mhz]

/-- A frequency translated by s × F_T (R96). -/
def translate (neg : Bool) (shift f : Nat) : Int := if neg then (f : Int) - shift else (f : Int) + shift

/-- The tones a pilot emits: the initiator's own, or, at a responder, their translated returns (R95, R101). -/
def State.pilotEmits (s : State) (p mode f0 shift : Nat) : List Int :=
  if mode = 1 then (pilotTones f0).map (fun f => (f : Int))
  else (pilotTones f0).map (translate (s.is .FE_PILOT_CTRL_SHIFT_NEG p) shift)

/-- The frequencies a pilot receives, with the sign that SHIFT_NEG has now: a write of it acts at once, since R97 holds back
only FE_PILOT_FREQ and FE_PILOT_SHIFT (DESIGN CHOICE, log entry 29): returns at an initiator, the tones themselves at a responder. -/
def State.pilotReceives (s : State) (p mode f0 shift : Nat) : List Int :=
  if mode = 1 then (pilotTones f0).map (translate (s.is .FE_PILOT_CTRL_SHIFT_NEG p) shift)
  else (pilotTones f0).map (fun f => (f : Int))

/-- `f` lies in the window about `c` (R97). -/
def toneIn (c : Nat) (f : Int) : Bool :=
  decide ((c : Int) - 1200 * mhz ≤ f ∧ f ≤ (c : Int) + 1200 * mhz ∧ 0 ≤ f ∧ f < 2 ^ 32)

/-- The whole frequency steps in 50 kHz, which is 26,214.4 steps (R97). -/
def khz50 : Nat := 26214

/-- Some tone lies within 50 kHz of the span of band path n at centre f (R97). -/
def nearSpan (span f : Nat) (tones : List Int) : Bool :=
  tones.any fun t => decide ((f : Int) - halfSpan span - khz50 ≤ t ∧ t ≤ (f : Int) + halfSpan span + khz50)

/-- The pilot of port p conflicts with an enabled band path in the window that carries the tone (R97, R98). -/
def State.pilotBlocked (s : State) (p mode f0 shift : Nat) : Bool :=
  allBps.any fun n => s.running n &&
    let d := (s.bp n).decl
    ((d.dstKind == 1 && d.dstPort == p && nearSpan d.span d.dstFreq (s.pilotEmits p mode f0 shift)) ||
      (d.srcKind == 1 && d.srcPort == p && nearSpan d.span d.freq (s.pilotReceives p mode f0 shift)))

/-- Stop or resume the pilots of a port after its band paths changed (R98); a pilot that a guard mutes stays BLOCKED
(R217). -/
def State.pilotReview (s : State) (p : Nat) : State :=
  let q := (s.port p).pilot
  if q.mode = 0 then s
  else if s.pilotBlocked p q.mode q.f0 q.shift then
    (s.wr .FE_PILOT_STATUS_PSTATE p 3).updPort p fun x => { x with pilot := { x.pilot with blocked := true } }
  else if q.blocked then
    (s.wr .FE_PILOT_STATUS_PSTATE p (if q.mutes ≠ [] then 3 else if q.mode = 1 then 1 else 4)).updPort p fun x =>
      { x with pilot := { x.pilot with blocked := false } }
  else s

/-- A guarded bin of the tone is forbidden for the port (R210, R211). -/
def State.toneForbidden (s : State) (p : Nat) (f : Int) : Bool :=
  s.anyForbidden p (guardedTone f).1 (guardedTone f).2

/-! ### The check of a retune (R79, Table 40) -/

/-- The reject code of window centres for port p: 0 when the check passes. The codes are tested in ascending order
(log entry 17). -/
def State.retuneCode (s : State) (p : Nat) (c : Nat × Nat) : Nat :=
  let q := (s.port p).pilot
  if !(centreOk c.1 && centreOk c.2) then 1
  else if allBps.any fun n => s.running n &&
      let d := (s.bp n).decl
      ((d.srcKind == 1 && d.srcPort == p && !inWindow d.span d.freq c.1) ||
        (d.dstKind == 1 && d.dstPort == p && !inWindow d.span d.dstFreq c.2)) then 2
  else if q.mode ≠ 0 ∧ q.blocked = false ∧
      ((s.pilotEmits p q.mode q.f0 q.shift).any (fun f => !toneIn c.2 f || s.toneForbidden p f) ||
        (s.pilotReceives p q.mode q.f0 q.shift).any (fun f => !toneIn c.1 f)) then 3
  else 0

/-! ### Invalid receive intervals (R117, Table 53) -/

/-- Intervals are kept for 20 ms after they end, longer than any contribution span (R116). -/
def Interval.recent (now : Int) (i : Interval) : Bool :=
  match i.till with
  | none => true
  | some e => decide (now < e + 20 * 1000000 * 65536)

/-- A receive interval of port p begins now, unless one is open; observation samples are invalid with it (R207). -/
def State.badFrom (s : State) (p : Nat) : State :=
  s.updPort p fun x =>
    let kept := x.bad.filter (Interval.recent s.raw)
    { x with
      bad := if kept.any (fun i => i.till.isNone) then kept else kept ++ [⟨s.raw, none⟩]
      obsBroken := true }

/-- The open interval ends now in a READY port whose relay does not move (Tables 35 and 53). -/
def State.badTill (s : State) (p : Nat) : State :=
  if s.feState p ≠ 3 ∨ (s.port p).move.isSome then s
  else s.updPort p fun x =>
    { x with bad := x.bad.map fun i => if i.till.isNone then { i with till := some s.raw } else i }

/-- An interval of fixed length `q` quanta from now. -/
def State.badFor (s : State) (p q : Nat) : State :=
  s.updPort p fun x => { x with bad := x.bad.filter (Interval.recent s.raw) ++ [⟨s.raw, some (s.raw + q)⟩] }

/-! ### Relays (R90 to R93) -/

/-- The bypass position of port p: BRIDGED only when both ports of the pair name it and both dies are fitted for service
(R91); 0 and 3 act as 2 (Table 46). -/
def State.bypassPos (s : State) (p : Nat) : Nat :=
  let partner := if p % 2 = 0 then p + 1 else p - 1
  if s.rd .FE_RELAY_BYPASS_MODE p = 1 ∧ s.rd .FE_RELAY_BYPASS_MODE partner = 1 ∧ bit p s.factory.fitted ∧
    bit partner s.factory.fitted then 1 else 2

/-- The conditions of R92 for the IN-LINE position. -/
def State.wantsInline (s : State) (p : Nat) : Bool :=
  s.kct.powered && s.is .KCT_STATUS_LOCKED && s.is .FE_CTRL_RX_EN p && s.is .FE_CTRL_INLINE p && (s.port p).wasReady
    && decide (s.fenceLevel (0x80 + p) < 3) && !s.fcl.holdUpFailed

/-- The position the relay should take now (R92, R94). -/
def State.relayWanted (s : State) (p : Nat) : Nat := if s.wantsInline p then 0 else s.bypassPos p

/-- Channel p is held off whenever the relay is not IN-LINE (R92, Table 133). -/
def State.lineHold (s : State) (p : Nat) (held : Bool) : State :=
  (s.updPwm p fun x => { x with relayHold := held }).gateReview p

/-- Instant 0 of a relay move (Table 38): transmit muted, receive invalid, the PWM channel safe. -/
def State.relayMove (s : State) (p target : Nat) : State :=
  (((s.badFrom p).updPort p fun x => { x with move := some target, emits := false }).wr .FE_RELAY_POS p 3).lineHold p true
    |>.bump .FE_RELAY_MOVE_COUNT p
    |>.tally 5 0x06 p

/-- A condition of R92 changed: the module commands a move when none runs and the position is another one. -/
def State.relayReview (s : State) (p : Nat) : State :=
  if (s.port p).move.isSome ∨ s.relayWanted p = (s.port p).relay then s else s.relayMove p (s.relayWanted p)

/-- R93: power-fail and field reset pulse every relay that is not in its bypass position to it at once, whatever move is
running. -/
def State.relayForce (s : State) (p : Nat) : State :=
  ((s.updPort p fun x => { x with relay := s.bypassPos p, move := none }).wr .FE_RELAY_POS p (s.bypassPos p)).lineHold p true

/-! ### Attenuators (R82) -/

def State.attOf (s : State) (p : Nat) : Nat × Nat × Nat :=
  (s.rd .FE_ATT_RX_ATT p, s.rd .FE_ATT_TX_ATT p, s.rd .FE_ATT_OBS_ATT p)

/-- 40 ns in quanta (Table 53). -/
def ns40 : Nat := 40 * 65536

/-- The written attenuation takes effect: a change of RX_ATT makes 40 ns of the receive window invalid, a change of
OBS_ATT restarts the emission guard's integration, and a change of TX_ATT moves the fast ceilings (R213). -/
def State.applyAtt (s : State) (p : Nat) : State :=
  let old := (s.port p).att
  let new := s.attOf p
  let s1 := s.updPort p fun x => { x with att := new, attPend := false }
  let s2 := if old.1 = new.1 then s1 else s1.badFor p ns40
  let s3 := if old.2.1 = new.2.1 then s2 else s2.refreshCeilings p
  if old.2.2 = new.2.2 then s3 else s3.updPort p fun x => { x with obsBroken := true }

/-- A foreground calibration ends, whatever its outcome: the values written meanwhile apply (Table 37). -/
def State.attAfterCal (s : State) (p : Nat) : State := if (s.port p).attPend then s.applyAtt p else s

/-! ### Staleness of the calibration (R86) -/

/-- Chains: 0 receive, 1 transmit, 2 observation; the segment whose coefficient set the chain has in use. -/
def State.chainSeg (s : State) (p k : Nat) : Nat :=
  let c := (s.port p).centres.getD (0, 0)
  if k = 0 then loSegment c.1 else loSegment c.2

/-- Key of the last foreground (kind 0) or background (kind 1) update of a coefficient set. -/
def calKey (kind chain seg : Nat) : Nat := (kind * 4 + chain) * 64 + seg

/-- Background calibration of a chain is enabled (Table 47). -/
def State.bgOn (s : State) (p k : Nat) : Bool :=
  s.is (if k = 0 then .FE_CAL_CTRL_BG_RX else if k = 1 then .FE_CAL_CTRL_BG_TX else .FE_CAL_CTRL_BG_OBS) p

/-- The last update that counts for a chain: foreground, and background while that is enabled (R86). -/
def State.lastCal (s : State) (p k : Nat) : Option (Nat × Int) :=
  let at' (kind : Nat) := Store.get (fun _ => none) (s.port p).calAt (calKey kind k (s.chainSeg p k))
  match at' 0, (if s.bgOn p k then at' 1 else none) with
  | some a, some b => if a.1 ≤ b.1 then some b else some a
  | some a, none => some a
  | none, b => b

/-- R86: no update for STALE_S seconds, and the die more than STALE_K kelvin away since. -/
def State.chainStale (s : State) (p k : Nat) : Bool :=
  match s.lastCal p k with
  | none => false
  | some (t, temp) =>
    decide (t + s.rd .FE_CAL_CTRL_STALE_S p * 100000 ≤ s.clk.tick ∧
      s.rd .FE_CAL_CTRL_STALE_K p * 64 < (s.rdS .THM_TEMP_TEMP (1 + p) - temp).natAbs)

/-- When other centres bring another segment's sets into use, a chain whose set is not stale is stale no more. -/
def State.staleChains (s : State) (p : Nat) : State :=
  s.updPort p fun x => { x with stale := x.stale.filter fun k => s.chainStale p k }

/-! ### Transitions (Table 36) and transmit holds (R88) -/

/-- A hold begins while TX_EN is 1 in LOCKING or CALIBRATING (R88). -/
def State.txReview (s : State) (p : Nat) : State :=
  let st := s.feState p
  if st = 1 ∨ st = 2 then
    (s.wrB .FE_STATUS_TX_HELD p (s.is .FE_CTRL_TX_EN p)).updPort p fun x => { x with emits := false, starts := false }
  else if st = 3 then
    (s.clr .FE_STATUS_TX_HELD p).updPort p fun x =>
      { x with starts := s.is .FE_CTRL_TX_EN p && !x.emits, emits := x.emits && s.is .FE_CTRL_TX_EN p }
  else (s.clr .FE_STATUS_TX_HELD p).updPort p fun x => { x with emits := false, starts := false }

/-- Enter LOCKING on the centres `c` (R79, R80). -/
def State.enterLocking (s : State) (p : Nat) (c : Nat × Nat) : State :=
  (((s.wr .FE_STATUS_STATE p 1).clr .FE_STATUS_RX_LOCK p).clr .FE_STATUS_TX_LOCK p)
    |>.updPort p (fun x => { x with centres := some c, retune := none, fine := none })
    |>.clr .FE_STATUS_RETUNE_PEND p
    |>.wr .FE_CAL_STATUS_SEGMENT p (loSegment c.2)
    |>.staleChains p
    |>.refreshPortGdc p
    |>.badFrom p
    |>.txReview p

/-- The centres checked when a port is to start (R79): enter LOCKING on the staged ones, on the ones applied last, or
stay OFF when there are none. -/
def State.startLocking (s : State) (p : Nat) : State :=
  let code := s.retuneCode p (s.staged p)
  let s1 := s.wr .FE_STATUS_REJECT p code
  if code = 0 then s1.enterLocking p (s.staged p)
  else match (s.port p).centres with
    | some c => s1.enterLocking p c
    | none => (s1.wr .FE_STATUS_STATE p 0).txReview p

/-- Enter FENCED (Table 36): the work is aborted, staged centres kept, a pending CAL_REQ dropped (Table 37). RX_LOCK and
TX_LOCK keep their values, since the spec does not say that they clear (DESIGN CHOICE, log entry 29). -/
def State.enterFenced (s : State) (p : Nat) : State :=
  ((s.wr .FE_STATUS_STATE p 4).updPort p fun x => { x with retune := none, fine := none, calDue := false })
    |>.clr .FE_STATUS_RETUNE_PEND p
    |>.attAfterCal p
    |>.badFrom p
    |>.txReview p

/-- Enter OFF (Table 36): the relay goes to bypass. -/
def State.enterOff (s : State) (p : Nat) : State :=
  ((s.wr .FE_STATUS_STATE p 0).updPort p fun x =>
      { x with retune := none, fine := none, calDue := false, wasReady := false })
    |>.clr .FE_STATUS_RETUNE_PEND p
    |>.clr .FE_STATUS_RX_LOCK p
    |>.clr .FE_STATUS_TX_LOCK p
    |>.attAfterCal p
    |>.badFrom p
    |>.txReview p
    |>.relayReview p

/-- Enter READY (Tables 35 and 36): samples are valid, a held command emits from the next tick, the relay may go
IN-LINE. -/
def State.enterReady (s : State) (p : Nat) : State :=
  ((s.wr .FE_STATUS_STATE p 3).updPort p fun x => { x with wasReady := true })
    |>.badTill p
    |>.txReview p
    |>.relayReview p

/-- The factory latencies of port p and segment s (R75). -/
def State.loadLatency (s : State) (p : Nat) : State :=
  let c := (s.port p).centres.getD (0, 0)
  (s.wr .FE_RX_LAT_LAT p (140 * 65536 + Config.rxLatency p (loSegment c.1) % (20 * 65536 + 1)))
    |>.wr .FE_TX_LAT_LAT p (90 * 65536 + Config.txLatency p (loSegment c.2) % (20 * 65536 + 1))

/-- The sets `keys` are updated now, and the chains in `chains` are not stale (R86). -/
def State.calUpdated (s : State) (p : Nat) (keys chains : List Nat) : State :=
  s.updPort p fun x => { x with
    calAt := keys.foldl (fun m k => Store.set (fun _ => none) m k (some (s.clk.tick, s.rdS .THM_TEMP_TEMP (1 + p))))
      x.calAt
    stale := x.stale.filter fun k => !chains.contains k }

/-- CAL_STALE ends at the next update once no chain is stale (Table 145). -/
def State.staleReview (s : State) (p : Nat) : State :=
  if (s.port p).stale = [] then s.sendClear (0x80 + p) 0x15 else s

/-! ### Writes of FE_CTRL (R79, R83, R87, R88) -/

/-- RX_EN written (Table 36). -/
def State.writeRxEn (s : State) (p : Nat) (on : Bool) : State :=
  let s1 := s.wrB .FE_CTRL_RX_EN p on
  if on then
    if s.feState p ≠ 0 then s1
    else if s.fenced (0x80 + p) then ((s1.wr .FE_STATUS_STATE p 4).badFrom p).txReview p
    else s1.startLocking p
  else if s.feState p = 0 then s1 else s1.enterOff p

/-- TX_EN written (R88). -/
def State.writeTxEn (s : State) (p : Nat) (on : Bool) : State := (s.wrB .FE_CTRL_TX_EN p on).txReview p

/-- INLINE written (R92). -/
def State.writeInline (s : State) (p : Nat) (on : Bool) : State := (s.wrB .FE_CTRL_INLINE p on).relayReview p

/-- RETUNE written (R79, Tables 33 and 37); the fast ceilings are made anew (R213). -/
def State.retune (s : State) (p : Nat) : State :=
  let c := s.staged p
  let code := s.retuneCode p c
  let s1 := s.wr .FE_STATUS_REJECT p code
  if code ≠ 0 then s1
  else
    let s2 := match s.feState p with
      | 0 => if s.is .FE_CTRL_RX_EN p && !s.fenced (0x80 + p) then s1.startLocking p else s1
      | 1 => s1.enterLocking p c
      | 2 => (s1.set1 .FE_STATUS_RETUNE_PEND p).updPort p fun x => { x with retune := some c }
      | 3 =>
        let old := (s.port p).centres.getD c
        if loMHz old.1 = loMHz c.1 ∧ loMHz old.2 = loMHz c.2 then s1.updPort p fun x => { x with fine := some c }
        else s1.enterLocking p c
      | _ => s1
    s2.refreshCeilings p

/-- Enter CALIBRATING (Table 36). -/
def State.enterCalibrating (s : State) (p : Nat) : State :=
  (((s.wr .FE_STATUS_STATE p 2).updPort p fun x => { x with calDue := false }).badFrom p).txReview p

/-- CAL_REQ written (R83, Table 37). In OFF and FENCED, for which the spec gives no outcome, it is ignored (DESIGN CHOICE,
log entry 29). -/
def State.calReq (s : State) (p : Nat) : State :=
  match s.feState p with
  | 1 => s.updPort p fun x => { x with calDue := true }
  | 3 => s.enterCalibrating p
  | _ => s

/-- One write of FE_CTRL[p]: centres are checked after RX_EN and INLINE are stored, TX_EN last. -/
def State.writeFeCtrl (s : State) (p w : Nat) : State :=
  let s1 := if bit 0 w = s.is .FE_CTRL_RX_EN p && s.feState p ≠ 0 then s else s.writeRxEn p (bit 0 w)
  let s2 := s1.writeInline p (bit 4 w)
  let s3 := if bit 2 w then s2.retune p else s2
  let s4 := if bit 3 w then s3.calReq p else s3
  s4.writeTxEn p (bit 1 w)

/-! ### Fences of a port (Tables 35, 36) and the tick -/

def State.portFence (s : State) (p : Nat) : State :=
  if s.feState p = 0 ∨ s.feState p = 4 then s.relayReview p else (s.enterFenced p).relayReview p

def State.portRelease (s : State) (p : Nat) : State :=
  if s.feState p = 4 then (s.startLocking p).relayReview p else s.relayReview p

/-- At a tick boundary a fine retune acts and a transmission that was to start starts (Table 33, R88). -/
def State.portTick (s : State) (p : Nat) : State :=
  let x := s.port p
  let s1 := if x.starts ∧ x.move.isNone then s.updPort p fun y => { y with emits := true, starts := false } else s
  match x.fine with
  | none => s1
  | some c => (s1.updPort p fun y => { y with centres := some c, fine := none }).refreshPortGdc p

/-! ### The commands -/

/-- FE_RX_ENABLE (R79, R87). -/
def execFeRxEnable (p : PortIx) (s : State) : Host.Outcome State Fault Refusal := .next (s.writeRxEn p true)

/-- FE_RX_DISABLE (R87, Table 36). -/
def execFeRxDisable (p : PortIx) (s : State) : Host.Outcome State Fault Refusal := .next (s.writeRxEn p false)

/-- FE_TX_ENABLE (R88). -/
def execFeTxEnable (p : PortIx) (s : State) : Host.Outcome State Fault Refusal := .next (s.writeTxEn p true)

/-- FE_TX_DISABLE (R88). -/
def execFeTxDisable (p : PortIx) (s : State) : Host.Outcome State Fault Refusal := .next (s.writeTxEn p false)

/-- FE_RETUNE (R79). -/
def execFeRetune (p : PortIx) (s : State) : Host.Outcome State Fault Refusal := .next (s.retune p)

/-- FE_CAL_REQ (R83). -/
def execFeCalReq (p : PortIx) (s : State) : Host.Outcome State Fault Refusal := .next (s.calReq p)

/-- Both synthesisers lock (R83, R87): calibration follows the first lock after power-up and a pending CAL_REQ. -/
def State.lockDone (s : State) (p : Nat) : State :=
  if s.feState p ≠ 1 then s else
    let s1 := ((((s.set1 .FE_STATUS_RX_LOCK p).set1 .FE_STATUS_TX_LOCK p).loadLatency p).refreshPortGdc p).sendClear (0x80 + p) 0x11
    if !(s.port p).calibrated || (s.port p).calDue then s1.enterCalibrating p else s1.enterReady p

/-- FE_LOCK_DONE (R87). -/
def execFeLockDone (p : PortIx) (s : State) : Host.Outcome State Fault Refusal := .next (s.lockDone p)

/-- A port that does not lock in time (R80). -/
def State.lockTimeout (s : State) (p : Nat) : State :=
  if s.feState p ≠ 1 then s else (s.sendFault (0x80 + p) 0x10).enterFenced p

/-- LOCK_TIMEOUT (R80). -/
def execLockTimeout (p : PortIx) (s : State) : Host.Outcome State Fault Refusal := .next (s.lockTimeout p)

/-- UNLOCK (R81): the lock that follows uses centres staged by a retune of the same tick (Table 37). -/
def execUnlock (p : PortIx) (s : State) : Host.Outcome State Fault Refusal :=
  .next (if s.feState p ≠ 3 then s else
    let c := match (s.port p).fine with | some c => c | none => (s.port p).centres.getD (s.staged p)
    (((s.bump .FE_STATUS_UNLOCK_COUNT p).tally 5 0x03 p).sendFault (0x80 + p) 0x11).enterLocking p c)

/-- A foreground calibration ends (R83, R86, R87): the image rejections of the three chains, or a failed fit. -/
def State.calDone (s : State) (p : Nat) (fit : Option (Nat × Nat × Nat)) : State :=
  if s.feState p ≠ 2 then s else
    match fit with
    | none => ((s.set1 .FE_CAL_STATUS_FG_FAIL p).sendFault (0x80 + p) 0x16).enterFenced p
    | some (rx, tx, obs) =>
      let x := s.port p
      let segs := if x.calibrated then [] else List.range 36
      let keys := [0, 1, 2].flatMap fun k => if x.calibrated then [calKey 0 k (s.chainSeg p k)] else segs.map (calKey 0 k)
      let s1 := (((s.wr .FE_CAL_STATUS_RX_IRR p rx).wr .FE_CAL_STATUS_TX_IRR p tx).wr .FE_CAL_STATUS_OBS_IRR p obs)
        |>.calUpdated p keys [0, 1, 2]
        |>.updPort p (fun y => { y with calibrated := true })
        |>.staleReview p
      match x.retune with
      | some c => (s1.attAfterCal p).enterLocking p c
      | none => (s1.attAfterCal p).enterReady p

/-- FE_CAL_DONE (R87). -/
def execFeCalDone (p : PortIx) (fit : Option (Nat × Nat × Nat)) (s : State) : Host.Outcome State Fault Refusal :=
  .next (s.calDone p fit)

/-- TX_TIMEOUT (R88). -/
def execTxTimeout (p : PortIx) (s : State) : Host.Outcome State Fault Refusal :=
  .next (if !s.is .FE_STATUS_TX_HELD p then s else
    ((s.set1 .FE_STATUS_TX_TIMEOUT p).sendFault (0x80 + p) 0x12).enterFenced p)

/-- FE_BG_CAL_UPDATE (R84): `able` names the chains whose window power and converters allowed an estimate. -/
def execFeBgCalUpdate (p : PortIx) (able : Bool × Bool × Bool) (s : State) : Host.Outcome State Fault Refusal :=
  .next (if s.feState p ≠ 3 then s else
    let on (k : Nat) : Bool := s.bgOn p k && (if k = 0 then able.1 else if k = 1 then able.2.1 else able.2.2)
    let chains := [0, 1, 2].filter on
    if chains = [] then s
    else (((s.calUpdated p (chains.map fun k => calKey 1 k (s.chainSeg p k)) chains).tally 5 0x04 p)).staleReview p)

/-- CAL_STALE (R86). -/
def execCalStale (p : PortIx) (s : State) : Host.Outcome State Fault Refusal :=
  .next (let new := [0, 1, 2].filter fun k => s.chainStale p k && !(s.port p).stale.contains k
    if new = [] then s
    else ((s.set1 .FE_CAL_STATUS_STALE p).sendFault (0x80 + p) 0x15).updPort p fun x =>
      { x with stale := x.stale ++ new })

/-- FE_ATT_APPLY (R82): a running foreground calibration applies the written values when it ends (Table 37). -/
def execFeAttApply (p : PortIx) (s : State) : Host.Outcome State Fault Refusal :=
  .next (if s.attOf p = (s.port p).att then s
    else if s.feState p = 2 then s.updPort p fun x => { x with attPend := true }
    else s.applyAtt p)

/-- RELAY_MOVE_START (R92, Table 38). -/
def execRelayMoveStart (p : PortIx) (s : State) : Host.Outcome State Fault Refusal := .next (s.relayReview p)

/-- The end of a relay move (R92, Table 38): `sensed` is the position of the sense contacts. After a mismatch the relay is
driven to bypass by a move of its own, whose end clears the condition (Table 145), and goes IN-LINE again only after the
port has reached READY anew (log entry 19). -/
def State.relayEnd (s : State) (p sensed : Nat) : State :=
  match (s.port p).move with
  | none => s
  | some target =>
    let s1 := (s.updPort p fun x => { x with move := none, relay := sensed }).wr .FE_RELAY_POS p sensed
    if sensed = target then
      ((((s1.lineHold p (decide (target ≠ 0))).sendClear (0x80 + p) 0x13).badTill p).txReview p).relayReview p
    else
      let s2 := ((s1.set1 .FE_STATUS_RELAY_MISMATCH p).sendFault (0x80 + p) 0x13).updPort p fun x =>
        { x with wasReady := false }
      s2.relayMove p (s.bypassPos p)

end Sys2Proof.Machine
end

