-- ==== Sys2Proof/Machine/Channelizer.lean ====
section
/-!
DEFINITION. Channelizer (04_channelizer.md): the chain's disclosed figures, the synchronising reset and its grid, the
samples that a change makes invalid, the coefficient banks, their check, and fades between them.
-/

namespace Sys2Proof.Machine

/-! ### Figures of the chain (R104, R109, R116), in delay quanta times N where a sample period enters -/

/-- Quanta in one sample period, times N: P = 51,200 / N ns (R40). -/
def periodK : Nat := 51200 * 65536

/-- d is the largest integer with 2^d ≤ 163,840 / N (R104). -/
def chainD (span : Nat) : Nat := Nat.log2 (163840 / span)

/-- The part of the source group delay that the halfbands and the RSD contribute, in quanta (R109). -/
def frontDelay (d : Nat) : Nat := 430080 * (2 ^ d - 1) + 235520 * 2 ^ d

/-- The contribution span L, in quanta times N (R116). -/
def contribN (span : Nat) : Nat :=
  let d := chainD span
  (860160 * (2 ^ d - 1) + 471040 * 2 ^ d) * span + 190 * periodK

/-- The settle count C = ⌈L × Fs⌉ + 1 (R116): L times N over quanta per P times N. -/
def settleCount (span : Nat) : Nat := ceilDiv (contribN span) periodK + 1

/-! ### Coefficient banks (R118 to R120) -/

/-- Coefficient of tap `t` of user bank `b` of band path n, an 18-bit number (Table 61). -/
def State.coef (s : State) (n b t : Nat) : Nat :=
  let c := (s.bp n).chz
  if b = 2 then Store.get (fun _ => 0) c.bank2 t
  else if b = 3 then Store.get (fun _ => 0) c.bank3 t
  else (Config.factoryCoef b (if b = 0 ∧ 95 < t then 190 - t else t)).toNat

def taps : List Nat := List.range 191

/-- The sum of a user bank's coefficients, and the sum weighted by tap: its group delay at zero frequency is their
quotient, in samples. -/
def State.bankSum (s : State) (n b : Nat) : Int := (taps.map fun t => signed 18 (s.coef n b t)).sum
def State.bankMoment (s : State) (n b : Nat) : Int := (taps.map fun (t : Nat) => (t : Int) * signed 18 (s.coef n b t)).sum

/-- Group delay of a bank at zero frequency in samples, as numerator and denominator (Table 54). -/
def State.bankDelay (s : State) (n b : Nat) : Int × Nat :=
  if b = 0 then (95, 1) else if b = 1 then (24, 1)
  else if 0 < s.bankSum n b then (s.bankMoment n b, (s.bankSum n b).toNat) else (0, 1)

/-- The power gain of a list of coefficients at frequency a / b of Fs, in units of 2^-160 of the square of a coefficient step. -/
def powerGain (cs : List Int) (a b : Nat) : Int :=
  let sum := fun (f : Nat → Nat → Int) => (cs.zipIdx.map fun c => c.1 * f (a * c.2) b).sum
  sum cosTurn * sum cosTurn + sum sinTurn * sum sinTurn

/-- The stop band of R119: at 256 evenly spaced frequencies from 0.4 Fs to 0.5 Fs, both ends among them (DESIGN CHOICE, log
entry 10), the gain is 90 dB below the gain at zero frequency. Real coefficients answer alike at −f. -/
def stopbandOk (cs : List Int) : Bool :=
  (List.range 256).all fun k => decide (powerGain cs (1020 + k) 2550 * 10 ^ 9 ≤ cs.sum * cs.sum * 2 ^ 160)

/-- R119: the response at zero frequency is positive and within ±0.01 dB of 0 dB, the stop band is 90 dB down, and the
group delay lies between 0 and 190 samples. -/
def State.bankPasses (s : State) (n b : Nat) : Bool :=
  let sum := s.bankSum n b
  let mom := s.bankMoment n b
  decide (130922 ≤ sum ∧ sum ≤ 131222 ∧ 0 ≤ mom ∧ mom ≤ 190 * sum) &&
    stopbandOk (taps.map fun t => signed 18 (s.coef n b t))

/-- The bank may be written and checked: a user bank that is neither active, nor faded from, nor pending (R120). -/
def State.bankFree (s : State) (n b : Nat) : Bool :=
  let c := (s.bp n).chz
  decide (2 ≤ b) && s.rd .CHZ_BANK_STATUS_ACTIVE n != b && (c.fade.map (·.src)) != some b
    && (c.swap.map (·.bank)) != some b

/-- Write the outcome of a check (R119): a failing bank reads 0 in both. The group delay is rounded to the nearest 2^-8
sample, ties away from zero (DESIGN CHOICE, log entry 26). -/
def State.bankChecked (s : State) (n b : Nat) : State :=
  let ok := s.bankPasses n b
  let gd := if ok then (roundDiv (256 * s.bankMoment n b) (s.bankSum n b).toNat).toNat else 0
  if b = 3 then (s.wrB .CHZ_BANK_STATUS_OK3 n ok).wr .CHZ_BANK_GD_GD3 n gd
  else (s.wrB .CHZ_BANK_STATUS_OK2 n ok).wr .CHZ_BANK_GD_GD2 n gd

/-- A coefficient write to (bank, tap) of band path n (R119, R120). -/
def State.writeCoef (s : State) (n b t v : Nat) : State :=
  if t ≤ 190 ∧ s.bankFree n b then
    let s1 := s.updBp n fun x => { x with chz :=
      if b = 2 then { x.chz with bank2 := Store.set (fun _ => 0) x.chz.bank2 t (v % 2 ^ 18) }
      else { x.chz with bank3 := Store.set (fun _ => 0) x.chz.bank3 t (v % 2 ^ 18) } }
    s1.clr (if b = 2 then .CHZ_BANK_STATUS_OK2 else .CHZ_BANK_STATUS_OK3) n
  else s.set1 .CHZ_BANK_STATUS_WR_REFUSED n

/-! ### Disclosed delays (R109 to R111) -/

/-- The exact source group delay of a bank, in quanta (R109). -/
def State.srcDelay (s : State) (n b : Nat) : Frac :=
  let d := (s.bp n).decl
  let g := s.bankDelay n b
  if d.srcKind = 1 then Frac.add ((frontDelay (chainD d.span) : Nat), 1) (g.1 * periodK, g.2 * d.span) else (0, 1)

/-- CHZ_SRC_GD follows the active bank, to the nearest quantum (R109, R121). -/
def State.refreshSrcGd (s : State) (n : Nat) : State :=
  s.wr2 .CHZ_SRC_GD_LO_GD_LO .CHZ_SRC_GD_HI_GD_HI n (s.srcDelay n (s.rd .CHZ_BANK_STATUS_ACTIVE n)).round.toNat

/-- The exact destination group delay 11.5 × P + 6.5625 × (2^d − 1) ns, in quanta (R109). -/
def dstDelay (span : Nat) : Frac := Frac.add ((430080 * (2 ^ chainD span - 1) : Nat), 1) (23 * periodK, 2 * span)

/-- Every disclosed figure of the applied configuration (R109, Tables 59 and 60). -/
def State.refreshChain (s : State) (n : Nat) : State :=
  let d := (s.bp n).decl
  ((((s.wr .CHZ_CHAIN_D n (if d.srcKind = 1 then chainD d.span else 0)).wrB .CHZ_CHAIN_BYPASS n (d.srcKind == 2))
    |>.wr .CHZ_SETTLE_COUNT n (if d.srcKind = 1 then settleCount d.span else 0))
    |>.wr2 .CHZ_DST_GD_LO_GD_LO .CHZ_DST_GD_HI_GD_HI n (if d.dstKind = 1 then (dstDelay d.span).round.toNat else 0))
    |>.refreshSrcGd n
    |>.refreshGdc n

/-- The active bank becomes `b`. -/
def State.setBank (s : State) (n b : Nat) : State := (s.wr .CHZ_BANK_STATUS_ACTIVE n b).refreshSrcGd n

/-! ### The grid (R115) and the synchronising reset -/

/-- 10 µs in quanta. -/
def tickQuanta : Nat := 10000 * 65536

/-- T_sync, in sample periods: the first whole multiple of P at least 10 µs from now (R115). -/
def State.chooseSync (s : State) (span : Nat) : Nat := ceilDiv ((s.now + tickQuanta) * span) periodK

/-- Accept a synchronising reset of band path n (R115). -/
def State.requestSync (s : State) (n : Nat) : State :=
  s.updBp n fun x => { x with chz := { x.chz with syncAt := some (s.chooseSync x.decl.span), syncOff := s.plumb.off } }

/-- The first converter sample at or after raw instant `t`, given in quanta times `span`. -/
def firstSample (t : Int) (span : Nat) : Nat := (-((-t) / (span * converterQuanta : Nat))).toNat

/-- At T_sync the chain restarts with cleared state, and takes converter samples from then on; fade and pending swap are
settled (R115, R116). -/
def State.syncReset (s : State) (n : Nat) : State :=
  let c := (s.bp n).chz
  let span := (s.bp n).decl.span
  match c.syncAt with
  | none => s
  | some m =>
    let bank := match c.swap, c.fade with
      | some w, _ => w.bank
      | none, some f => f.dst
      | none, none => s.rd .CHZ_BANK_STATUS_ACTIVE n
    (((s.updBp n fun x => { x with chz := { x.chz with
        on := true, grid := m, syncAt := none, off := c.syncOff, g := 0, fade := none, swap := none, bad := []
        next := firstSample ((m * periodK : Nat) - c.syncOff * span) span
        chain := { hb := List.replicate (chainD span) [] } } })
      |>.clr .CHZ_BANK_STATUS_FADING n).clr .CHZ_BANK_STATUS_PENDING n).setBank n bank

/-! ### Which samples are invalid (R117) -/

/-- E_j as a raw instant, in quanta times N (R115). -/
def Chz.instantN (c : Chz) (span j : Nat) : Int := ((c.grid + j) * periodK : Nat) - c.off * span

/-- The contribution span of the sample that ends at `e` (times N) meets the interval. -/
def Interval.meets (i : Interval) (span : Nat) (e : Int) : Bool :=
  decide (i.start * span ≤ e) && (match i.till with | none => true | some t => decide (e ≤ t * span + contribN span))

/-- The two banks' group delays agree within one quantum at the band path's Fs (R121): the exact delays are compared. -/
def State.equalDelay (s : State) (n a b : Nat) : Bool :=
  let d := Frac.sub (s.srcDelay n a) (s.srcDelay n b)
  decide (d.1.natAbs ≤ d.2)

/-- Sample j of band path n is valid after every change class of Table 53. -/
def State.sampleValid (s : State) (n j : Nat) : Bool :=
  let x := s.bp n
  let c := x.chz
  let e := c.instantN x.decl.span j
  decide (s.rd .CHZ_SETTLE_COUNT n ≤ j)
    && !(c.bad ++ (s.port x.decl.srcPort).bad).any (fun i => i.meets x.decl.span e)
    && (match c.fade with | none => true | some f => s.equalDelay n f.src f.dst)

/-- VALID of output grain g of band path n. -/
def State.grainValid (s : State) (n g : Nat) : BitVec 64 :=
  BitVec.ofNat 64 ((List.range 64).foldl (fun m i => m + flag (s.sampleValid n (64 * g + i)) * 2 ^ i) 0)

/-- ORIGIN_TS of output grain g: E in Plumb time, minus group delay, latency and correction, to the nearest quantum (R111).
The grains of a fade keep the old group delay (R121): the active bank changes when the fade ends. -/
def State.originTs (s : State) (n g : Nat) : Nat :=
  let x := s.bp n
  let e : Frac := (x.chz.instantN x.decl.span (64 * g), x.decl.span)
  ((Frac.sub e (s.srcDelay n (s.rd .CHZ_BANK_STATUS_ACTIVE n))).round + s.plumb.off
    - s.rd .FE_RX_LAT_LAT x.decl.srcPort - s.rdS .CHZ_GDC_GDC n).toNat

/-! ### Swaps (R121 to R123) -/

/-- A request of SWAP for band path n (R123). -/
def State.requestSwap (s : State) (n bank fadeField : Nat) : State :=
  let c := (s.bp n).chz
  let okBank := bank < 2 || (if bank = 2 then s.is .CHZ_BANK_STATUS_OK2 n else s.is .CHZ_BANK_STATUS_OK3 n)
  if s.is .CHZ_CHAIN_BYPASS n ∨ okBank = false ∨ (2 ≤ bank ∧ (c.fade.map (·.src)) = some bank) then
    s.set1 .CHZ_BANK_STATUS_SWAP_REFUSED n
  else if s.rd .BP_STATUS_STATE n = 0 then
    ((s.updBp n fun x => { x with chz := { x.chz with swap := none } }).clr .CHZ_BANK_STATUS_PENDING n).setBank n bank
  else
    let s1 := if c.swap.isSome then s.bump .CHZ_BANK_STATUS_LOST_SWAP n else s
    let earliest := if c.fade.isSome then none else some (s.raw + tickQuanta)
    let w : Swap := { bank := bank, grains := fadeField + 1, earliest := earliest }
    ((s1.updBp n fun x => { x with chz := { x.chz with swap := some w } })
      |>.set1 .CHZ_BANK_STATUS_PENDING n).wr .CHZ_BANK_STATUS_PEND_BANK n bank

/-- A running fade ends at the boundary of grain `g` where its length is complete (R121). -/
def State.fadeEnd (s : State) (n : Nat) : State :=
  let c := (s.bp n).chz
  match c.fade with
  | some f =>
    if c.on ∧ c.g = f.start + f.grains then
      ((s.updBp n fun x => { x with chz := { x.chz with fade := none } }).clr .CHZ_BANK_STATUS_FADING n).setBank n f.dst
    else s
  | none => s

/-- A pending swap begins at a grain boundary at or after its earliest instant (R121 to R123). -/
def State.fadeStart (s : State) (n : Nat) : State :=
  let c := (s.bp n).chz
  match c.fade, c.swap with
  | none, some w =>
    let due := match w.earliest with
      | none => true
      | some t => decide (t * (s.bp n).decl.span ≤ c.instantN (s.bp n).decl.span (64 * c.g))
    if !due || !c.on then s
    else
      let s1 := (s.updBp n fun x => { x with chz := { x.chz with swap := none } }).clr .CHZ_BANK_STATUS_PENDING n
      if w.bank = s.rd .CHZ_BANK_STATUS_ACTIVE n then s1
      else
        let f : Fade := { src := s.rd .CHZ_BANK_STATUS_ACTIVE n, dst := w.bank, start := c.g, grains := w.grains }
        (s1.updBp n fun x => { x with chz := { x.chz with fade := some f } })
        |>.set1 .CHZ_BANK_STATUS_FADING n
  | _, _ => s

/-- Entering OFF ends a running fade at once with its target bank active; a pending swap stays pending (R123). -/
def State.chzOff (s : State) (n : Nat) : State :=
  let c := (s.bp n).chz
  let s1 := match c.fade with
    | some f => (s.clr .CHZ_BANK_STATUS_FADING n).setBank n f.dst
    | none => s
  s1.updBp n fun x => { x with chz := { x.chz with on := false, syncAt := none, fade := none, g := 0 } }

/-- A channelizer whose band path is fenced, or takes a new SPAN, stops until T_sync; fade and pending swap wait for it
(R123, R116). -/
def State.chzStop (s : State) (n : Nat) : State :=
  s.updBp n fun x => { x with chz := { x.chz with on := false, syncAt := none } }

/-! ### The commands. Field firmware acts on the band path that its CHZ_SEL names (R124, R436). -/

def State.chzSel (s : State) (q : Nat) : Nat := s.rd .CHZ_SEL_N q

/-- SYNC written 1 (R115): ignored for a lane source (R108); in OFF, CHECKING and FENCED, where no chain runs or waits for
T_sync, it has nothing to reset (DESIGN CHOICE, log entry 26). While a T_sync waits, the later one replaces it. -/
def State.writeSync (s : State) (n : Nat) : State :=
  if s.is .CHZ_CHAIN_BYPASS n || !((s.bp n).chz.on || (s.bp n).chz.syncAt.isSome) then s else s.requestSync n

/-- CHZ_SYNC (R115). -/
def execChzSync (q : CoreIx) (s : State) : Host.Outcome State Fault Refusal :=
  .next (s.via (.core q) fun t => t.writeSync (t.chzSel q))

/-- SYNC_RESET (R115, R116). -/
def execSyncReset (n : BpIx) (s : State) : Host.Outcome State Fault Refusal := .next (s.syncReset n)

/-- CHZ_SWAP (R121 to R123). -/
def execChzSwap (q : CoreIx) (bank : Fin 4) (fade : Fin 16) (s : State) : Host.Outcome State Fault Refusal :=
  .next (s.via (.core q) fun t =>
    let n := t.chzSel q
    ((t.wr .CHZ_CTRL_REQ_BANK n bank).wr .CHZ_CTRL_FADE n fade).requestSwap n bank fade)

/-- FADE_START (R121 to R123). -/
def execFadeStart (n : BpIx) (s : State) : Host.Outcome State Fault Refusal := .next (s.fadeStart n)

/-- FADE_END (R121). -/
def execFadeEnd (n : BpIx) (s : State) : Host.Outcome State Fault Refusal := .next (s.fadeEnd n)

/-- CHECK written 1 (R119): ignored for a bank that may not be written. While another check of the band path runs, the new
one replaces it, and only the new bank gets a result (DESIGN CHOICE, log entry 26). -/
def State.writeCheck (s : State) (n : Nat) (bank3 : Bool) : State :=
  let s1 := s.wrB .CHZ_CTRL_CHK_BANK n bank3
  if s.bankFree n (if bank3 then 3 else 2) then
    (s1.set1 .CHZ_BANK_STATUS_CHECKING n).updBp n fun x => { x with chz := { x.chz with checks3 := bank3 } }
  else s1

/-- CHZ_CHECK (R119). -/
def execChzCheck (q : CoreIx) (bank3 : Bool) (s : State) : Host.Outcome State Fault Refusal :=
  .next (s.via (.core q) fun t => t.writeCheck (t.chzSel q) bank3)

/-- CHZ_CHECK_DONE (R119). -/
def execChzCheckDone (n : BpIx) (s : State) : Host.Outcome State Fault Refusal :=
  .next (if !s.is .CHZ_BANK_STATUS_CHECKING n then s
    else (s.clr .CHZ_BANK_STATUS_CHECKING n).bankChecked n (if (s.bp n).chz.checks3 then 3 else 2))

/-- TAP advances after each access while AUTO_INC is set (Table 61). -/
def State.advanceTap (s : State) (q : Nat) : State :=
  if s.is .CHZ_COEF_ADDR_AUTO_INC q then s.roll .CHZ_COEF_ADDR_TAP q else s

/-- A write of CHZ_COEF_DATA by requester q (R120). -/
def State.writeCoefData (s : State) (q w : Nat) : State :=
  (s.writeCoef (s.chzSel q) (s.rd .CHZ_COEF_ADDR_BANK q) (s.rd .CHZ_COEF_ADDR_TAP q) w).advanceTap q

/-- CHZ_COEF_WRITE (R120). -/
def execChzCoefWrite (q : CoreIx) (w : Word) (s : State) : Host.Outcome State Fault Refusal :=
  .next (s.via (.core q) fun t => t.writeCoefData q w.toNat)

/-- A read of CHZ_COEF_DATA: a tap above 190 reads 0 (Table 61). -/
def State.coefWord (s : State) (q : Nat) : Nat :=
  if s.rd .CHZ_COEF_ADDR_TAP q ≤ 190 then
    s.coef (s.chzSel q) (s.rd .CHZ_COEF_ADDR_BANK q) (s.rd .CHZ_COEF_ADDR_TAP q) % 2 ^ 18
  else 0

/-- CHZ_COEF_READ (R120). -/
def execChzCoefRead (q : CoreIx) (s : State) : Host.Outcome State Fault Refusal :=
  .next (s.via (.core q) fun t => (t.setReader q { t.reader q with data := BitVec.ofNat 32 (t.coefWord q) }).advanceTap q)

end Sys2Proof.Machine
end

