-- ==== Sys2Proof/Machine/Engine.lean ====
section
/-!
DEFINITION. Gain control and the loop engine (05_gain_loops.md): the gain stage and its detector, the four loops and the
min-select, set-points, cold start, overrun, and the pins SETA and SETP.
-/

namespace Sys2Proof.Machine

/-! ### The gain stage (R136) -/

/-- ⌊log2 of 10^(g / 10,000)⌋ for g in steps of 0.002 dB. -/
def gainExp (g : Int) : Int :=
  if 0 ≤ g then (Nat.log2 (10 ^ g.toNat) / 10000 : Nat) else -((Nat.log2 (10 ^ (-g).toNat) / 10000 + 1 : Nat) : Int)

/-- Bits of the factor after the binary point: 24 significant bits (R136). -/
def gainShift (g : Int) : Nat := (23 - gainExp g).toNat

/-- The mantissa m is at most the rounded factor: (2m − 1)^10000 ≤ 2^10000 × 10^g × 2^(10000 × shift). -/
def gainAtMost (g : Int) (m : Nat) : Bool :=
  let lhs := (2 * m - 1) ^ 10000
  let rhs := 2 ^ (10000 * (gainShift g + 1))
  if 0 ≤ g then decide (lhs ≤ rhs * 10 ^ g.toNat) else decide (lhs * 10 ^ (-g).toNat ≤ rhs)

/-- The entry of the table of 65,536 factors for GAIN value g: 10^(g × 0.002 / 20) to 24 significant bits, as mantissa;
the factor is mantissa / 2^shift. -/
def gainMantissa (g : Int) : Nat :=
  (List.range 25).foldl (fun m k => if gainAtMost g (m + 2 ^ (24 - k)) then m + 2 ^ (24 - k) else m) 0

/-- One sample through the gain stage: the product rounded to nearest with ties away from zero, saturated; and whether
it saturated (R136). -/
def gainSample (m sh : Nat) (x : IQ) : IQ × Bool :=
  let i := roundDiv (x.i * m) (2 ^ sh)
  let q := roundDiv (x.q * m) (2 ^ sh)
  (⟨sat16 i, sat16 q⟩, decide (sat16 i ≠ i ∨ sat16 q ≠ q))

/-- The level detector over the valid samples of a grain (R130): y and the number of valid samples. -/
def detect (shift : Nat) (valid : Nat) : List IQ → Nat → Nat × Nat → Nat × Nat
  | [], _, a => a
  | x :: xs, k, a =>
    detect shift valid xs (k + 1) (if bit k valid then
      (((a.1 : Int) + roundDiv ((x.i * x.i + x.q * x.q) - a.1) (2 ^ shift)).toNat, a.2 + 1) else a)

/-! ### Loop arithmetic (R132) -/

/-- Loop units in one step of 0.002 dB, and the saturation range of errors, candidates and integrators. -/
def unit : Int := 256
def satLoop (x : Int) : Int := clampI (-32768 * 256) (32767 * 256) x

/-- A product with a coefficient in units of 2^-16, rounded to nearest with ties away from zero. -/
def coefMul (k : Nat) (e : Int) : Int := roundDiv (k * e) 65536

/-- A product with a tracking coefficient (v + 1) / 256. -/
def trackMul (v : Nat) (e : Int) : Int := roundDiv ((v + 1) * e) 256

/-- L in loop units: −120 dBFS when y is 0, else an entry of the fixed table, within ±0.001 dB of 10 log10(y / 32,767²)
(R130; log entry 8). -/
def levelOf (y : Nat) : Int := if y = 0 then -15360000 else tenLog y (32767 ^ 2) + clampI (-127) 127 (Config.levelError y)

/-- Steps of 0.002 dB of a loop value, ties away from zero. -/
def toSteps (u : Int) : Int := roundDiv u 256

/-! ### Set-points (R131, R140 to R142) -/

/-- The pin that SP_SRC selects is valid; a register always is (R140, R142). -/
def State.targetValid (s : State) (n : Nat) : Bool :=
  match s.rd .GCE_MODE_SP_SRC n with
  | 1 => s.is .GCE_SETA_VALID
  | 2 => s.is .GCE_SETP_VALID
  | _ => true

/-- The target s before the clamp, in steps of 0.002 dB (R140). An invalid pin gives its last valid value (R142 to R144). -/
def State.target (s : State) (n : Nat) : Int :=
  let lo := signed 16 (s.rd .GCE_MAP_MAP_LO n)
  let hi := signed 16 (s.rd .GCE_MAP_MAP_HI n)
  match s.rd .GCE_MODE_SP_SRC n with
  | 1 => lo + roundDiv (s.rd .GCE_SETA_CODE * (hi - lo)) 65536
  | 2 => lo + roundDiv (s.rd .GCE_SETP_DUTY * (hi - lo)) 65536
  | _ => if s.is .GCE_MODE_LVL_MODE n then s.rdS .GCE_FIX_FIX_SP n else s.rdS .BP_GAIN_LEVEL_SP n

/-- A guarded-function mute or a fence holds band path n (R142). -/
def State.heldMute (s : State) (n : Nat) : Bool := (s.bp n).mutes != [] || s.fenced n

/-- The effective set-point slew; 0 acts as 1 (R138). -/
def State.spSlew (s : State) (n : Nat) : Int :=
  max 1 (min (s.rd .GCE_SLEW_SP_SLEW n) (s.rd .GCE_SLEW_FW_SP_SLEW n) : Nat)

/-- GAIN_SLEW and COLD_RAMP in loop units; 0 acts as 1 (Table 69). -/
def State.gainSlew (s : State) (n : Nat) : Int := unit * (max 1 (s.rd .GCE_GSLEW_GAIN_SLEW n) : Nat)
def State.coldRamp (s : State) (n : Nat) : Int := unit * (max 1 (s.rd .GCE_GSLEW_COLD_RAMP n) : Nat)

/-- The ceilings in loop units. -/
def State.hardCeil (s : State) (n : Nat) : Int := unit * s.rdS .GCE_CEIL_HARD_CEIL n
def State.fwCeil (s : State) (n : Nat) : Int := unit * s.rdS .GCE_CEIL_FW_CEIL n

/-- The die that dissipates the band path's output (Table 63). -/
def State.outDie (s : State) (n : Nat) : Nat :=
  let d := (s.bp n).decl
  if d.dstKind = 1 then 1 + d.dstPort else 0

/-! ### One tick of one band path (R133, R135, R146) -/

/-- −60 dB in loop units and in steps. -/
def minus60 : Int := -7680000

/-- The temperature that the thermal loop of band path n uses: the die's own reading, or its substitute while the sensor is
suspect (R129, R349). -/
def State.outTemp (s : State) (n : Nat) : Int :=
  let e := s.outDie n
  if s.is .THM_TEMP_SUSPECT e then (s.die e).eff else s.rdS .THM_TEMP_TEMP e

/-- The cold-start state that the snapshot gives: WAIT becomes RAMP once Saddle has measured every loop, and the ramp
rises while the measurement is complete (R146). The ramp rises already in the tick that leaves WAIT, and a paused tick does
not test for the end of the cold start (DESIGN CHOICE, log entry 28). -/
def State.coldStep (s : State) (n : Nat) (e : Loops) : Loops :=
  let done := s.is .SDL_STATUS_MEAS_DONE n
  let top := min (s.hardCeil n) (s.fwCeil n)
  if e.cs = 0 ∨ !done then e
  else
    let ramp := satLoop (e.ramp + s.coldRamp n)
    if top ≤ ramp then { e with cs := 0, ramp := ramp } else { e with cs := 2, ramp := ramp }

/-- The ramped set-point after one tick (R133). -/
def rampTo (r t slew : Int) : Int := r + clampI (-slew) slew (t - r)

/-- The winner of the min-select (R135): the first source of the list that gives u. -/
def winnerOf (u : Int) : List (Int × Nat) → Nat
  | [] => 0
  | (c, w) :: rest => if c = u then w else winnerOf u rest

/-- The loops, the min-select and the tracking of R133 from the snapshot at this boundary. While a fence or a
guarded-function mute holds the band path, fresh headrooms are ignored (Tables 77 and 100). -/
def State.computeLoops (s : State) (n : Nat) : Loops :=
  let x := (s.bp n).eng
  let e := s.coldStep n x.now
  let spMin := signed 16 (s.rd .GCE_SP_LIM_SP_MIN n)
  let spMax := signed 16 (s.rd .GCE_SP_LIM_SP_MAX n)
  let held := s.heldMute n
  let r := if held || !s.targetValid n then e.r else rampTo e.r (min spMax (max spMin (s.target n))) (s.spSlew n)
  let fixed := s.is .GCE_MODE_LVL_MODE n
  let eLev := if x.armed then satLoop (unit * r - levelOf x.y) else 0
  let eStab := if held then 0 else satLoop (x.stab.getD 0)
  let eEmit := if held then 0 else satLoop (x.emit.getD 0)
  let eThm := satLoop (roundDiv (s.rd .GCE_KTH_SLOPE n * (s.rdS .GCE_THERM_THERM_SP n -
    s.outTemp n) * 125) 16)
  let kp := s.rd .GCE_KLEV_KP n
  let ki := s.rd .GCE_KLEV_KI n
  let ks := s.rd .GCE_KSE_KS n
  let ke := s.rd .GCE_KSE_KE n
  let kth := s.rd .GCE_KTH_KTH n
  let cLev := if fixed then unit * r else satLoop (e.iLev + coefMul (kp + ki) eLev)
  let cStab := satLoop (e.iStab + coefMul ks eStab)
  let cEmit := satLoop (e.iEmit + coefMul ke eEmit)
  let cThm := satLoop (e.iThm + coefMul kth eThm)
  let ramp := if e.cs = 1 then minus60 else e.ramp
  let u0 := min (min (min cLev cStab) (min cEmit cThm)) (min (s.hardCeil n) (s.fwCeil n))
  let u1 := if e.cs = 1 then min minus60 (min (s.hardCeil n) (s.fwCeil n)) else if e.cs = 2 then min u0 ramp else u0
  let u := max (-32768 * 256) (min u1 (unit * e.g + s.gainSlew n))
  let w := winnerOf u ([(unit * e.g + s.gainSlew n, 7), (s.hardCeil n, 4), (s.fwCeil n, 5)] ++
    (if e.cs = 0 then [] else [(ramp, 6)]) ++ [(cStab, 1), (cEmit, 2), (cThm, 3), (cLev, 0)])
  { e with
    armed := x.armed, r := r, cLev := cLev, cStab := cStab, cEmit := cEmit, cThm := cThm, winner := w, g := toSteps u
    iLev := if fixed then e.iLev
      else satLoop (e.iLev + coefMul ki eLev + trackMul (s.rd .GCE_TRACK_KT_LEV n) (u - cLev))
    iStab := satLoop (e.iStab + coefMul ks eStab + trackMul (s.rd .GCE_TRACK_KT_STAB n) (u - cStab))
    iEmit := satLoop (e.iEmit + coefMul ke eEmit + trackMul (s.rd .GCE_TRACK_KT_EMIT n) (u - cEmit))
    iThm := satLoop (e.iThm + coefMul kth eThm + trackMul (s.rd .GCE_TRACK_KT_THM n) (u - cThm)) }

/-- The snapshot of band path n at a boundary: the status bits it sets, the result of the tick, the freshness used up
(R126, R141 to R144). -/
def State.engineSnapshot (s : State) (n : Nat) : State :=
  let res := s.computeLoops n
  let spMin := signed 16 (s.rd .GCE_SP_LIM_SP_MIN n)
  let spMax := signed 16 (s.rd .GCE_SP_LIM_SP_MAX n)
  let s1 := if s.targetValid n then s else s.set1 .GCE_STAT_SRC_INV n
  let s2 := if s.target n < spMin ∨ spMax < s.target n then s1.set1 .GCE_STAT_SP_CLAMP n else s1
  (s2.wr .GCE_LEVEL_LEVEL n (satBits 16 (toSteps (levelOf (s.bp n).eng.y)))).updBp n
    fun x => { x with eng := { x.eng with next := some res, stab := none, emit := none } }

/-- A gain holds from now on: from the first sample at or after this instant (R126, R136). -/
def Engine.gainFrom (e : Engine) (t g : Int) : Engine := { e with gains := (t, g) :: e.gains.take 1023 }

/-- The gain in force at a raw instant. -/
def Engine.gainAt (e : Engine) (t : Int) : Int :=
  match e.gains.find? (fun x => decide (x.1 ≤ t)) with
  | some x => x.2
  | none => -30000

/-- The gains computed in the tick that ends apply, and the registers show them (R126); a completed tick clears
OVR_CONSEC (R148). Leaving WAIT ends the CS_LATE condition (R147). -/
def State.engineApply (s : State) (n : Nat) : State :=
  match (s.bp n).eng.next with
  | none => s.updBp n fun x => { x with eng := { x.eng with overran := false } }
  | some e =>
    let s1 := (((((((((s.wr .BP_GAIN_GAIN_NOW n (wrapBits 16 e.g)).wr .GCE_LEVEL_SP_RAMP n (wrapBits 16 e.r))
      |>.wr .GCE_CAND0_C_LEV n (satBits 16 (toSteps e.cLev))).wr .GCE_CAND0_C_STAB n (satBits 16 (toSteps e.cStab)))
      |>.wr .GCE_CAND1_C_EMIT n (satBits 16 (toSteps e.cEmit))).wr .GCE_CAND1_C_THM n (satBits 16 (toSteps e.cThm)))
      |>.wr .GCE_STAT_WINNER n e.winner).wr .GCE_STAT_CS n e.cs).clr .GCE_OVR_OVR_CONSEC n)
      |>.wrB .GCE_STAT_DET_ARMED n e.armed
    let s2 := s1.updBp n fun x => { x with eng := { (x.eng.gainFrom s.raw e.g) with now := e, next := none, overran := false } }
    let s3 := s2.tally 0 (0x10 + e.winner) n
    if (s.bp n).eng.now.cs = 1 ∧ e.cs ≠ 1 then s3.sendClear n 0x22 else s3

/-! ### Cold start (R145) -/

/-- A cold start forces −60 dB, resets the integrators and the ramp, disarms the detector and enters WAIT; r keeps its
value. Fresh headrooms that no snapshot has taken, and the result of the running tick, are discarded (DESIGN CHOICE, log
entry 28). -/
def State.coldStart (s : State) (n : Nat) : State :=
  ((s.updBp n fun x => { x with eng := { (x.eng.gainFrom s.raw (-30000)) with
      now := { x.eng.now with armed := false, iLev := minus60, iStab := minus60, iEmit := minus60, iThm := minus60,
                              ramp := minus60, g := -30000, cs := 1 }
      next := none, taken := 0, armed := false, stab := none, emit := none } })
    |>.wr .BP_GAIN_GAIN_NOW n 0x8AD0).wr .GCE_STAT_CS n 1 |>.clr .GCE_STAT_DET_ARMED n

/-- A band path that is not enabled holds GAIN_NOW and its candidates at −60 dB (R152). -/
def State.engineOff (s : State) (n : Nat) : State :=
  (((((s.wr .BP_GAIN_GAIN_NOW n 0x8AD0).wr .GCE_CAND0_C_LEV n 0x8AD0).wr .GCE_CAND0_C_STAB n 0x8AD0)
    |>.wr .GCE_CAND1_C_EMIT n 0x8AD0).wr .GCE_CAND1_C_THM n 0x8AD0).clr .GCE_STAT_CS n
    |>.updBp n fun x => { x with eng := { (x.eng.gainFrom s.raw (-30000)) with
        next := none, overran := false, now := { x.eng.now with cs := 0, g := -30000 } } }

/-! ### SETA and SETP (R143, R144) -/

/-- At a boundary the engine takes the means of the tick that ends. -/
def State.pinsTick (s : State) : State :=
  let p := s.pins
  let s1 := if p.setaCnt = 0 then s else s.wr .GCE_SETA_CODE 0 (roundDiv p.setaSum p.setaCnt).toNat
  let s2 := if p.setpCnt = 0 ∨ !s.is .GCE_SETP_VALID then s1
    else s1.wr .GCE_SETP_DUTY 0 (min 65535 (roundDiv p.setpSum p.setpCnt).toNat)
  { s2 with pins := { p with setaSum := 0, setaCnt := 0, setpSum := 0, setpCnt := 0,
                             setaIdle := if p.setaCnt = 0 then p.setaIdle + 1 else 0 } }

/-- Every band path whose SP_SRC selects the pin sets SRC_INV. -/
def State.srcInvalid (s : State) (src : Nat) : State :=
  s.forEach (fun n t => if t.rd .GCE_MODE_SP_SRC n = src then t.set1 .GCE_STAT_SRC_INV n else t) allBps

/-- SETP enters invalidity, unless it is invalid already (R144). -/
def State.setpInvalid (s : State) (cause : Field) : State :=
  let s1 := (s.set1 cause)
  let s2 := { s1 with pins := { s1.pins with setpRun := 0 } }
  if s.is .GCE_SETP_VALID then ((s2.clr .GCE_SETP_VALID).bump .GCE_SETP_CNT_INVALID_EVENTS).srcInvalid 2 else s2

/-! ### The commands -/

/-- The GCE_TICK bit of a late source (Table 70). -/
def lateField (late : Fin 5) : Field :=
  match late with
  | 0 => .GCE_TICK_LATE_SDL | 1 => .GCE_TICK_LATE_EMG | 2 => .GCE_TICK_LATE_THM | 3 => .GCE_TICK_LATE_MON
  | 4 => .GCE_TICK_ECC_RETRY

/-- OVERRUN (R148, R149): the band path keeps its values in this tick; `late` names the late source, if one was late. -/
def execOverrun (n : BpIx) (late : Option (Fin 5)) (s : State) : Host.Outcome State Fault Refusal :=
  .next (if !s.running n || (s.bp n).eng.overran then s else
    let s1 := ((s.updBp n fun x => { x with eng := { x.eng with next := none, overran := true } }).bump .GCE_OVR_OVR_COUNT n)
      |>.bump .GCE_OVR_OVR_CONSEC n |>.tally 0 0x18 n
    let s2 := match late with | some k => s1.set1 (lateField k) | none => s1
    let s3 := if s.pins.overrunTick = s.clk.tick + 1 then s2
      else { (s2.bump .GCE_TICK_OVERRUN_TICKS) with pins := { s2.pins with overrunTick := s.clk.tick + 1 } }
    if s.rd .GCE_OVR_OVR_CONSEC n = 2 then s3.sendFault n 0x20 else s3)

/-- ENGINE_ECC (R149). -/
def execEngineEcc (n : BpIx) (s : State) : Host.Outcome State Fault Refusal := .next (s.sendFault n 0x21)

/-- CS_LATE (R147). -/
def execCsLate (n : BpIx) (s : State) : Host.Outcome State Fault Refusal :=
  .next (if (s.bp n).eng.now.cs ≠ 1 then s
    else
      let s1 := s.set1 .GCE_STAT_CS_LATE n
      if s.hasCond n 0x22 then s1 else s1.sendFault n 0x22)

/-- A firmware write of GCE_CEIL and of GCE_SLEW: the FW field stores at most its hard value (R138). -/
def State.writeFwCeil (s : State) (n v : Nat) : State :=
  if signed 16 (s.rd .GCE_CEIL_HARD_CEIL n) < signed 16 v then
    (s.wr .GCE_CEIL_FW_CEIL n (s.rd .GCE_CEIL_HARD_CEIL n)).set1 .GCE_STAT_CEIL_CLAMP n
  else s.wr .GCE_CEIL_FW_CEIL n v

def State.writeFwSlew (s : State) (n v : Nat) : State :=
  if s.rd .GCE_SLEW_SP_SLEW n < v % 65536 then
    (s.wr .GCE_SLEW_FW_SP_SLEW n (s.rd .GCE_SLEW_SP_SLEW n)).set1 .GCE_STAT_CEIL_CLAMP n
  else s.wr .GCE_SLEW_FW_SP_SLEW n v

/-- FW_CEIL_WRITE (R138): core q writes FW_CEIL, or FW_SP_SLEW, of the band path its GCE_SEL names. -/
def execFwCeilWrite (q : CoreIx) (slew : Bool) (v : BitVec 16) (s : State) : Host.Outcome State Fault Refusal :=
  .next (s.via (.core q) fun t => if slew then t.writeFwSlew (t.rd .GCE_SEL_N q) v.toNat else t.writeFwCeil (t.rd .GCE_SEL_N q) v.toNat)

/-- SETA becomes invalid (R143). -/
def State.setaFail (s : State) : State :=
  if s.is .GCE_SETA_VALID then (s.clr .GCE_SETA_VALID).srcInvalid 1 else s

/-- SETA_INVALID (R143): 100 ticks without a conversion; a failed plausibility check acts in its own command. -/
def execSetaInvalid (s : State) : Host.Outcome State Fault Refusal := .next s.setaFail

/-- A completed conversion of SETA (R143): valid again once the plausibility check holds. -/
def State.setaConversion (s : State) (code : Nat) : State :=
  let s1 := { s with pins := { s.pins with setaSum := s.pins.setaSum + code, setaCnt := s.pins.setaCnt + 1 } }
  if s.is .MON_PLAUS_PL_OK then s1.set1 .GCE_SETA_VALID else s1

/-- SETP_PERIOD (R144): a period and its high time, in units of 2.5 ns. -/
def execSetpPeriod (period high : Nat) (s : State) : Host.Outcome State Fault Refusal :=
  .next (if period < 400 then s.setpInvalid .GCE_SETP_FAST
    else if 4000000 < period then s.setpInvalid .GCE_SETP_SLOW
    else
      let s1 := (s.wr .GCE_SETP_PER_PERIOD 0 period)
      let run := min 16 (s.pins.setpRun + 1)
      let duty := (roundDiv (high * 65536) period).toNat
      let s2 := { s1 with pins := { s1.pins with setpRun := run, setpSum := s1.pins.setpSum + duty,
                                                  setpCnt := s1.pins.setpCnt + 1 } }
      if run = 16 then s2.set1 .GCE_SETP_VALID else s2)

/-- SETP_STUCK (R144). -/
def execSetpStuck (s : State) : Host.Outcome State Fault Refusal := .next (s.setpInvalid .GCE_SETP_STUCK)

end Sys2Proof.Machine
end

