-- ==== Sys2Proof/Machine/Chain.lean ====
section
/-!
DEFINITION. The sample chains (04_channelizer.md): the receive chain of Table 50 from converter samples to output samples,
the crossfade of R121, the transmit chain of R112, and the filtered probe of R154.
-/

namespace Sys2Proof.Machine

/-! ### The receive chain (R103 to R107, R121) -/

/-- The place of output sample j among the samples at Fi, as index and remainder over `rsdDen` (R104, R115). -/
def rsdDen (span : Nat) : Nat := span * converterQuanta * 2 ^ chainD span
def Chz.rsdIndex (c : Chz) (span j : Nat) : Nat := (c.instantN span j / (rsdDen span : Int)).toNat
def Chz.rsdRest (c : Chz) (span j : Nat) : Nat := (c.instantN span j % (rsdDen span : Int)).toNat

/-- The NCO settings in force at a raw instant. -/
def Chz.ncoAt (c : Chz) (t : Int) : Option Nco :=
  match c.nco.find? (fun e => decide (e.since ≤ t)) with
  | some e => some e
  | none => c.nco.getLast?

/-- The NCO's phase at converter sample k: −(f_b − f_c) × t, exact, rounded to 2^-32 turn, plus the correction (R105). -/
def Nco.phaseAt (e : Nco) (k : Nat) : Nat := turn32 (roundDiv (-e.freq * ((k * converterQuanta : Nat) + e.lag)) 8000 + e.phase)

/-- The converter sample after the NCO, as 24-bit data. -/
def Chz.mix (c : Chz) (k : Nat) (x : IQ) : IQ × Bool :=
  match c.ncoAt ((k * converterQuanta : Nat) : Int) with
  | some e => rotate (e.phaseAt k) (IQ.map (· * 256) x)
  | none => (IQ.map (· * 256) x, false)

/-- w_i = (i + 1) / L rounded to 2^-16 (R121). -/
def fadeWeight (i len : Nat) : Int := roundDiv ((i + 1) * 65536) len

/-- The channel filter's output sample j: the active bank, or old + w (new − old) during a fade, rounded once to 16 bits and
saturated (R107, R121). -/
def State.channelFilter (s : State) (n j : Nat) (line : List IQ) : IQ × Bool :=
  let bank := fun b => tapSum (taps.map fun t => signed 18 (s.coef n b t)) line
  match (s.bp n).chz.fade with
  | none => stageOut 32767 (2 ^ 25) (bank (s.rd .CHZ_BANK_STATUS_ACTIVE n))
  | some f =>
    let a := bank f.src
    let b := bank f.dst
    let w := fadeWeight (j - 64 * f.start) (64 * f.grains)
    stageOut 32767 (2 ^ 41) ⟨a.i * 65536 + w * (b.i - a.i), a.q * 65536 + w * (b.q - a.q)⟩

/-- A receive chain as it works through converter samples: its lines, the index of the next output sample, the output
samples, newest first, and whether a stage saturated. -/
structure ChainRun where
  chain : Chain
  j : Nat
  out : List IQ := []
  sat : Bool := false

/-- One converter sample through the chain of band path n. -/
def State.chainStep (s : State) (n : Nat) (r : ChainRun) (k : Nat) (x : IQ) : ChainRun :=
  let c := (s.bp n).chz
  let span := (s.bp n).decl.span
  let m := c.mix k x
  let h := pushDown r.chain.hb k m.1
  let sat := r.sat || m.2 || h.2.2
  match h.2.1 with
  | none => { r with chain := { r.chain with hb := h.1 }, sat := sat }
  | some y =>
    let rsd := (y :: r.chain.rsd).take 24
    if c.rsdIndex span r.j = k / 2 ^ chainD span then
      let z := fir24 (subPhase Config.rsdHalf (c.rsdRest span r.j) (rsdDen span)) rsd
      let cf := (z.1 :: r.chain.cf).take 191
      let o := s.channelFilter n r.j cf
      { chain := { hb := h.1, rsd := rsd, cf := cf }, j := r.j + 1, out := o.1 :: r.out, sat := sat || z.2 || o.2 }
    else { r with chain := { r.chain with hb := h.1, rsd := rsd }, sat := sat }

/-- Index of the converter sample that completes output grain g. -/
def State.lastSample (s : State) (n g : Nat) : Nat :=
  let span := (s.bp n).decl.span
  (s.bp n).chz.rsdIndex span (64 * g + 63) * 2 ^ chainD span

/-- The converter samples of one grain period, from sample `next` to the last one needed; samples that the command does
not bring are 0 (log entry 7). -/
def State.chainRun (s : State) (n : Nat) (xs : List IQ) : ChainRun :=
  let c := (s.bp n).chz
  let need := s.lastSample n c.g + 1 - c.next
  ((xs ++ List.replicate (need - xs.length) IQ.zero).take need).zipIdx.foldl (fun r x => s.chainStep n r (c.next + x.2) x.1)
    { chain := c.chain, j := 64 * c.g }

/-! ### The transmit chain (R112) -/

/-- 3.2 GS/s / 2^d in quanta per sample. -/
def rsiQuanta (span : Nat) : Nat := converterQuanta * 2 ^ chainD span

/-- What lies between the raw instant of a resampler sample and the Plumb time at which it stands at the connector, without
the halfbands: latency, correction, and the steps of Plumb time. -/
def State.txLag (s : State) (n : Nat) : Int :=
  s.rd .FE_TX_LAT_LAT (s.bp n).decl.dstPort + s.rdS .CHZ_DST_GDC_GDC n + s.plumb.off

/-- The origin instant of resampler sample m past grid time `grid`, in units of 1 / (N × 10^7) quantum: connector instant
less D_a (R172, R182). D_a is in 10^-5 quantum. -/
def State.rsiOrigin (s : State) (n : Nat) (grid m : Int) : Int :=
  let x := s.bp n
  let span := x.decl.span
  let t : Int := m * rsiQuanta span + (430080 * (2 ^ chainD span - 1) : Nat) + s.txLag n
  t * (span * 10000000 : Nat) - x.dly.applied * (span * 100 : Nat) - grid

/-- Its place within the input stream: sample periods past `grid`, to 2^-40, later by the resampler's delay of 11.5 samples
(R112). -/
def State.rsiPlace (s : State) (n : Nat) (grid m : Int) : Int :=
  roundDiv (s.rsiOrigin n grid m * 2 ^ 40) (periodK * 10000000) + 23 * 2 ^ 39

/-- The transmit NCO's phase for connector time t: (f_d − f_t) t − f_b D_a, exact, rounded to 2^-32 turn, plus the
correction (R112, R110). -/
def State.txPhase (s : State) (n : Nat) (t : Int) : Nat :=
  let d := (s.bp n).decl
  turn32 (roundDiv (s.txOffset n * t * 100000 - d.freq * (s.bp n).dly.applied) 800000000 +
    phCorrection d.dstPort 1 (loSegment (s.centresOf d.dstPort).2) (s.txOffset n))

/-- A sample at 3.2 GS/s is summed into the transmit window of band path n's port at converter sample k. -/
def State.sumSample (s : State) (n : Nat) (k : Nat) (x : IQ) : State :=
  let y := (rotate (s.txPhase n ((k * converterQuanta : Nat) + s.txLag n)) x).1
  s.updPort (s.bp n).decl.dstPort fun w => { w with
    dac := Store.set (fun _ => IQ.zero) w.dac k (IQ.add (Store.get (fun _ => IQ.zero) w.dac k) y) }

/-- Resampler sample m passes through the halfbands and into the window (R112). -/
def State.rsiOut (s : State) (n : Nat) (m : Int) (x : IQ) : State :=
  let d := chainD (s.bp n).decl.span
  let u := pushUp (s.bp n).tx.hb [x]
  let s1 := s.updBp n fun b => { b with tx := { b.tx with hb := u.1, next := some (m + 1) } }
  u.2.zipIdx.foldl (fun t y => if m < 0 then t else t.sumSample n (m.toNat * 2 ^ d + y.2) y.1) s1

/-- The resampler gives every sample whose place lies before the sample after `i`: a zero where its place lies before
sample i, so that no sample covers it (R183, R188). After 64 zeros the lines hold nothing else. -/
def State.rsiRun (s : State) (n : Nat) (grid : Int) (i : Nat) : Nat → State
  | 0 => s
  | k + 1 =>
    match (s.bp n).tx.next with
    | none => s
    | some m =>
      let u := s.rsiPlace n grid m
      if u < i * 2 ^ 40 then (s.rsiOut n m IQ.zero).rsiRun n grid i k
      else if u < (i + 1) * 2 ^ 40 then
        let y := (fir24 (subPhase Config.rsiHalf (u - i * 2 ^ 40).toNat (2 ^ 40)) (s.bp n).tx.line).1
        (s.rsiOut n m y).rsiRun n grid i k
      else s

/-- The first resampler sample whose place lies at or after sample i, with which a chain starts. -/
def State.rsiFirst (s : State) (n : Nat) (grid : Int) (i : Nat) : Int :=
  let span := (s.bp n).decl.span
  let num : Int := (2 * i * periodK * 10000000 : Nat) - (23 * periodK * 10000000 : Nat) - 2 * s.rsiOrigin n grid 0
  let step : Int := 2 * (rsiQuanta span * span * 10000000 : Nat)
  0 - (0 - num) / step

/-- Sample i of an emitted grain enters the resampler (R112). -/
def State.txSample (s : State) (n : Nat) (grid : Int) (i : Nat) (x : IQ) : State :=
  let first := s.rsiFirst n grid i
  let next := match (s.bp n).tx.next with
    | none => first
    | some m => if m + 64 < first then first - 64 else m
  let hb := if (s.bp n).tx.hb = [] then List.replicate (chainD (s.bp n).decl.span) [] else (s.bp n).tx.hb
  (s.updBp n fun b => { b with tx := { b.tx with
    line := (IQ.map (· * 256) x :: b.tx.line).take 24, hb := hb, next := some next } }).rsiRun n grid i 256

/-- The samples of an emitted grain, in order; `grid` is the grid time of its sample 0. -/
def State.txGrain (s : State) (n : Nat) (grid : Int) (xs : List IQ) : State :=
  xs.zipIdx.foldl (fun t x => t.txSample n grid x.2 x.1) s

/-- What the transmit window of port p puts out at converter sample k: the sum of its band paths, rounded and saturated to
full scale (R112, R38). -/
def State.dacSample (s : State) (p k : Nat) : IQ :=
  (stageOut 32767 256 (Store.get (fun _ => IQ.zero) (s.port p).dac k)).1

/-- A transmit window keeps the samples of the latest 10 ms (log entry 27). -/
def State.dacTick (s : State) (p : Nat) : State :=
  let old := ((s.raw - 10000000 * 65536) / (converterQuanta : Int)).toNat
  s.updPort p fun w => { w with dac := w.dac.filter fun e => decide (old ≤ e.1) }

/-! ### The probe (R154) -/

/-- Chip i of a code as a signed coefficient: 0 maps to +1, 1 to −1 (R154); `chip` gives the code's chips. -/
def probeValue (chip : Nat → Bool) (i : Nat) : Int := if chip i then -1 else 1

/-- Bank 0's coefficients, which every band path shares (Table 54). -/
def bank0 : List Int := taps.map fun t => (Config.factoryCoef 0 (if 95 < t then 190 - t else t)).toInt

/-- The probe at output sample j: the chips since sample 0, filtered by factory bank 0 and scaled so that the power of I and Q
together is `p`, in steps of 0.002 dB of full scale; alike on I and Q (R154; log entry 9). -/
def probeSample (chip : Nat → Bool) (period j : Nat) (p : Int) : Int :=
  let f := (bank0.zipIdx.map fun c => if c.2 ≤ j then c.1 * probeValue chip ((j - c.2) % period) else 0).sum
  let norm := Nat.sqrt ((bank0.map fun c => c * c).sum.toNat * 2 ^ 41)
  roundDiv (f * 32767 * gainMantissa p * 2 ^ 20) (2 ^ gainShift p * norm)

end Sys2Proof.Machine
end

