-- ==== Sys2Proof/Machine/Saddle.lean ====
section
/-!
DEFINITION. Saddle (06_saddle_stability.md): probe codes, the loop-gain bound at every tick, headroom and MEAS_DONE at
every update, shared loops, and the guarded function G1. The cold start of R145 is completed here with Saddle's share.
-/

namespace Sys2Proof.Machine

/-! ### Probe codes (R153, R154) -/

/-- The m-sequence u as a shift register of 19 bits: u[i + 19] = u[i + 18] ⊕ u[i + 17] ⊕ u[i + 14] ⊕ u[i]. Bit k of the
register after i steps is u[i + k]. -/
def goldStep (r : Nat) : Nat := r / 2 + (flag ((bit 18 r != bit 17 r) != (bit 14 r != bit 0 r))) * 2 ^ 18

/-- u[i]. -/
def goldU (i : Nat) : Bool := bit 0 (Nat.repeat goldStep i (2 ^ 19 - 1))

/-- The code period. -/
def codePeriod : Nat := 524287

/-- Chip i of code c (R153). -/
def probeChip (c i : Nat) : Bool :=
  if c = codePeriod then goldU (i % codePeriod)
  else goldU (i % codePeriod) != goldU (3 * ((i + c) % codePeriod) % codePeriod)

/-- The code index of band path n: a is taken as 0 while the module holds no address. -/
def State.codeIndex (s : State) (n : Nat) : Nat :=
  128 * (if s.is .COL_NODE_VALID then s.rd .COL_NODE_ADDR else 0) + n

/-- PROBE_REL and K with their bounds (Table 79). -/
def State.probeRel (s : State) (n : Nat) : Int := (max 6 (min 40 (s.rd .SDL_CTRL_PROBE_REL n)) : Nat)
def State.windowK (s : State) (n : Nat) : Nat := 2 ^ max 20 (min 26 (s.rd .SDL_CTRL_K_LOG2 n))

/-- P_ref − PROBE_REL before PROBE_MAX, in steps of 0.002 dB (R155). -/
def State.probePower (s : State) (n : Nat) : Int :=
  let ceil := min (s.rdS .GCE_CEIL_HARD_CEIL n) (s.rdS .GCE_CEIL_FW_CEIL n)
  let ref := if s.is .GCE_MODE_LVL_MODE n then
      toSteps (levelOf (s.bp n).sad.yIn) + min (s.rdS .GCE_FIX_FIX_SP n) ceil
    else (s.bp n).eng.now.r
  max ref (toSteps (levelOf (s.bp n).eng.y)) - 500 * s.probeRel n

/-- The probe is emitted: not while muted or fenced, nor, in fixed-gain mode, before the input detector arms. -/
def State.probeOn (s : State) (n : Nat) : Bool :=
  !s.heldMute n && !s.is .BP_CTRL_MUTE n && (!s.is .GCE_MODE_LVL_MODE n || (s.bp n).sad.armedIn)

/-! ### Cold start (R145, Table 77) and mutes -/

/-- A member's reports at the start of a window: only the latest counts, and a silent member stays silent (R163). -/
def MemberGain.anew (m : MemberGain) : MemberGain := { m with minima := [(m.latest, 0)] }

/-- All estimates of the band path are discarded; chip count and window restart; MEAS_DONE clears. -/
def State.saddleRestart (s : State) (n : Nat) : State :=
  (((s.updBp n fun x => { x with sad := { x.sad with
        chip := 0, seen := 0, mark := 0, updated := 0, quietOwn := [], quietWatch := [], est := none, windowOn := false
        gains := x.sad.gains.map MemberGain.anew } })
    |>.clr .SDL_STATUS_MEAS_DONE n).wr .SDL_BOUND_U_MAX n 0x8000).wr .SDL_BOUND_FLOOR_MAX n 0x8000
    |>.forEach (fun i t => (t.wr .SDL_SUB_U_LO (4 * n + i) 0x8000).wr .SDL_SUB_U_HI (4 * n + i) 0x8000) (List.range 4)

/-- A cold start of band path n (R145): engine and Saddle; the input detector re-arms (R155). -/
def State.startCold (s : State) (n : Nat) : State :=
  ((s.coldStart n).saddleRestart n).updBp n fun x => { x with sad := { x.sad with takenIn := 0, armedIn := false } }

/-- The causes that mute a band path (R28, Table 11): G1, G2 FINE, CEILING, OUT and FORBID, G3 of a port's line-power
channel, and G4 of a port's die. -/
def muteG1 : Nat := 1
def muteFine : Nat := 2
def muteCeiling : Nat := 3
def muteOut (p : Nat) : Nat := 32 + p
def muteForbid : Nat := 5
def muteG3 (k : Nat) : Nat := 16 + k
def muteG4 (p : Nat) : Nat := 24 + p

/-- A guarded function mutes band path n. -/
def State.mute (s : State) (n cause : Nat) : State :=
  if (s.bp n).mutes.contains cause then s else s.updBp n fun x => { x with mutes := x.mutes ++ [cause] }

/-- A guarded function releases its mute; the last release brings a cold start, unless a fence governs (R145, Table 77). -/
def State.unmute (s : State) (n cause : Nat) : State :=
  if !(s.bp n).mutes.contains cause then s else
    let s1 := s.updBp n fun x => { x with mutes := x.mutes.filter (· != cause) }
    if (s1.bp n).mutes = [] ∧ s.running n ∧ !s.fenced n then s1.startCold n else s1

/-! ### Bounds at a tick boundary (R157, R158, R163) -/

/-- Code of watch entry w of band path n, if watched (Table 82). -/
def State.watchCode (s : State) (n w : Nat) : Option Nat :=
  if s.is .SDL_WATCH_EN (15 * n + w) then
    some (128 * s.rd .SDL_WATCH_NODE (15 * n + w) + s.rd .SDL_WATCH_BP (15 * n + w)) else none

/-- Entry w is detected at n's input, and mutual (R161): its own module reports n's code, or, on this module, the other
band path detects n's. -/
def State.isMutual (s : State) (n w : Nat) : Bool :=
  bit w (s.rd .SDL_DETECT_DET n) && (match s.watchCode n w with
    | none => false
    | some c => s.remoteDet.contains (c, s.codeIndex n) ||
        allBps.any fun j => s.codeIndex j == c && (List.range 15).any fun v =>
          s.watchCode j v == some (s.codeIndex n) && bit v (s.rd .SDL_DETECT_DET j))

/-- A gain report of code c reaches band path n (R163). -/
def State.gainReport (s : State) (n c : Nat) (g : Int) : State :=
  s.updBp n fun x =>
    let old := (x.sad.gains.find? (·.code == c)).getD ⟨c, g, [], false⟩
    let kept := (old.minima.filter fun m => decide (m.1 < g ∧ x.sad.seen ≤ m.2 + s.windowK n)) ++ [(g, x.sad.seen)]
    let m : MemberGain := { code := c, latest := g, minima := kept, silent := false }
    { x with sad := { x.sad with gains := x.sad.gains.filter (fun y => y.code != c) ++ [m] } }

/-- A member's rise: its latest report minus the lowest of the window, at least 0; RISE_MAX while it is silent. -/
def State.memberRise (s : State) (n c : Nat) : Int :=
  match (s.bp n).sad.gains.find? (·.code == c) with
  | none => 0
  | some m => if m.silent then s.rd .SDL_RISE_RISE_MAX
    else
      let inside := m.minima.filter fun x => decide ((s.bp n).sad.seen ≤ x.2 + s.windowK n)
      max 0 (m.latest - (inside.map (·.1)).foldl min m.latest)

/-- The watched codes that are mutual with n's, each once (R161). -/
def State.mutualCodes (s : State) (n : Nat) : List Nat :=
  ((List.range 15).filterMap fun w => if s.isMutual n w then s.watchCode n w else none).dedup

/-- R_mem: the sum of the rises of the mutual members. -/
def State.memberSum (s : State) (n : Nat) : Int :=
  ((s.mutualCodes n).map (s.memberRise n)).sum

/-- The member count m (R161). -/
def State.memberCount (s : State) (n : Nat) : Nat := min 8 (1 + (s.mutualCodes n).length)

/-- U_s and F_s of each sub-band at gain g (R157, R158). -/
def State.subBounds (s : State) (n : Nat) (g : Int) : List Int :=
  match (s.bp n).sad.est with
  | none => List.replicate 8 (-32768)
  | some e => e.bound.map fun h => clampI (-32768) 32767 (g + h + s.memberSum n)

def State.subFloors (s : State) (n : Nat) (g : Int) : List Int :=
  match (s.bp n).sad.est with
  | none => List.replicate 8 (-32768)
  | some e => e.floor.map fun f => clampI (-32768) 32767 (g + f)

/-- The largest of a list, with its index; −65.536 dB for none. -/
def largest (xs : List Int) : Int × Nat :=
  xs.zipIdx.foldl (fun m x => if m.1 < x.1 then x else m) (-32768, 0)

/-- Re-evaluate the bounds of band path n at this boundary and show them. -/
def State.boundsUpdate (s : State) (n : Nat) : State :=
  let us := s.subBounds n (s.bp n).eng.now.g
  let mx := largest us
  let ceil := min (s.rdS .GCE_CEIL_HARD_CEIL n) (s.rdS .GCE_CEIL_FW_CEIL n)
  let s1 := ((((s.wr .SDL_BOUND_U_MAX n (wrapBits 16 mx.1)).wr .SDL_STATUS_WORST_SB n mx.2)
    |>.wr .SDL_BOUND_FLOOR_MAX n (wrapBits 16 (largest (s.subFloors n (s.bp n).eng.now.g)).1))
    |>.wrB .SDL_STATUS_FLOOR_HIGH n ((s.subFloors n ceil).any fun f => decide (s.rdS .SDL_TARGET_TARGET n < f)))
    |>.wr .SDL_STATUS_MEMBERS n (s.memberCount n)
    |>.wr .SDL_DETECT_MUTUAL n ((List.range 15).foldl (fun m w => m + flag (s.isMutual n w) * 2 ^ w) 0)
  s1.forEach (fun i t => (t.wr .SDL_SUB_U_LO (4 * n + i) (wrapBits 16 (us.getD (2 * i) (-32768)))).wr .SDL_SUB_U_HI
    (4 * n + i) (wrapBits 16 (us.getD (2 * i + 1) (-32768)))) (List.range 4)

/-! ### Guarded function G1 (R168, R169) -/

/-- OVL_N: 0 acts as 1, values above 64 as 64 (Table 83). -/
def State.ovlN (s : State) : Nat := max 1 (min 64 (s.rd .SDL_G1_OVL_N))

/-- G1 trips: one mute, and one count, while it holds (Table 77). -/
def State.g1Trip (s : State) (n : Nat) (margin : Bool) : State :=
  let s1 := s.set1 (if margin then .SDL_STATUS_G1_MARGIN else .SDL_STATUS_G1_OVERLOAD) n
  if s.is .SDL_STATUS_G1_MUTED n then s1
  else ((((((s1.set1 .SDL_STATUS_G1_MUTED n).bump .SDL_COUNT_G1_TRIPS n).mute n muteG1).tally 3 0x03 n)
    |>.updBp n fun x => { x with sad := { x.sad with trip := x.sad.chip } })
    |>.sendFault n (if margin then 0x01 else 0x02))

/-- Samples of one grain that saturate at the gain-stage output trip G1 from OVL_N on (R168). -/
def State.overload (s : State) (n sat : Nat) : State := if s.ovlN ≤ sat then s.g1Trip n false else s

/-- The worst bound exceeds the hard floor, read directly from the KL field (R137, R168). -/
def State.g1MarginDue (s : State) (n : Nat) : Bool :=
  decide (s.rdS .SDL_LIMIT_HARD_FLOOR < s.rdS .SDL_BOUND_U_MAX n)

/-- Saddle's work for one enabled band path at a tick boundary: probe power, the window of fixed-gain mode, members of the
same module, bounds, G1 margin. While G1 mutes, a margin trip is told only of the grain in which G1 tripped (Table 77). -/
def State.saddleTick (s : State) (n : Nat) : State :=
  let p := s.probePower n
  let top := s.rdS .SDL_LIMIT_PROBE_MAX
  let s1 := (s.wr .SDL_HEAD_PROBE n (satBits 16 (min p top)))
  let s2 := if top < p then s1.set1 .SDL_STATUS_PROBE_CLAMP n else s1
  let s3 := s2.forEach (fun w t => match t.watchCode n w with
    | some c => match allBps.find? (fun j => t.codeIndex j == c && t.running j) with
      | some j => t.gainReport n c (t.bp j).eng.now.g
      | none => t
    | none => t) (List.range 15)
  let s4 := s3.boundsUpdate n
  let s5 := s4.updBp n fun x => { x with sad := { x.sad with windowOn := x.sad.armedIn } }
  let now := !s5.is .SDL_STATUS_G1_MUTED n || (s5.bp n).sad.chip == (s5.bp n).sad.trip
  if s5.g1MarginDue n && now then s5.g1Trip n true else s5

/-! ### The commands -/

/-- MEAS_DONE (R166): a full window since the last event that restarts it. -/
def State.measReview (s : State) (n : Nat) : State :=
  let x := (s.bp n).sad
  s.wrB .SDL_STATUS_MEAS_DONE n (x.est.isSome && decide (x.mark + s.windowK n ≤ x.seen))

/-- Ĥ_s: the sum of the magnitudes of the taps that exceed 4σ_s (R156). -/
def tapsAbove (taps : List Nat) (sigma : Nat) : Nat := (taps.filter fun t => decide (4 * sigma < t)).sum

/-- 20 log10 of an amplitude in units of 2^-40, in steps of 0.002 dB, ties away from zero (R157); 0 gives a value below
every gain. -/
def ampSteps (x : Nat) : Int :=
  if x = 0 then -200000 else roundDiv ((log2Fix x - 40 * 2 ^ 40) * 770636788899792) (10 ^ 9 * 2 ^ 48)

/-- The bounds that an estimate gives for each sub-band: 20 log10(Ĥ + 4σ) and 20 log10(4σ) (R157, R158). -/
def loopBounds (c : Correlation) : LoopBounds :=
  let sub := (List.range 8).map fun k => (c.taps.getD k [], c.sigma.getD k 0)
  { bound := sub.map fun x => ampSteps (tapsAbove x.1 x.2 + 4 * x.2), floor := sub.map fun x => ampSteps (4 * x.2) }

/-- From which count of window samples on something has stayed quiet. -/
def quietFrom (old : Option Nat) (quiet : Bool) (seen : Nat) : Option Nat := if quiet then some (old.getD seen) else none

/-- A full window of `k` samples has been quiet up to now. -/
def quietFull (q : Option Nat) (seen k : Nat) : Bool := match q with | some a => decide (a + k ≤ seen) | none => false

/-- A tap of sub-band k of the own code crosses 4σ after a full window below 2σ: a new loop (R166). -/
def State.newLoopIn (s : State) (n : Nat) (c : Correlation) (k : Nat) : Bool :=
  let x := (s.bp n).sad
  (c.taps.getD k []).any (fun t => decide (4 * c.sigma.getD k 0 < t)) &&
    quietFull (Store.get (fun _ => none) x.quietOwn k) x.seen (s.windowK n)

/-- The quiet spans of the own code's sub-bands after an estimate. -/
def State.quietSubs (s : State) (n : Nat) (c : Correlation) : Store (Option Nat) :=
  let x := (s.bp n).sad
  (List.range 8).foldl (fun m k => Store.set (fun _ => none) m k (quietFrom (Store.get (fun _ => none) m k)
    ((c.taps.getD k []).all fun t => decide (t < 2 * c.sigma.getD k 0)) x.seen)) x.quietOwn

/-- Ĥ_s of a watched code lies below 2σ_s in every sub-band, and above 4σ_s in some (R161). -/
def codeBelow (c : Correlation) : Bool :=
  (List.range 8).all fun k => decide (tapsAbove (c.taps.getD k []) (c.sigma.getD k 0) < 2 * c.sigma.getD k 0)
def codeAbove (c : Correlation) : Bool :=
  (List.range 8).any fun k => decide (4 * c.sigma.getD k 0 < tapsAbove (c.taps.getD k []) (c.sigma.getD k 0))

/-- One watch entry after an estimate: detected above 4σ in some sub-band, lost after a full window below 2σ in every one
(R161). An entry that is not in use detects nothing. -/
def State.watchUpdate (s : State) (n w : Nat) (c : Correlation) : State :=
  let x := (s.bp n).sad
  let q := quietFrom (Store.get (fun _ => none) x.quietWatch w) (codeBelow c) x.seen
  let was := bit w (s.rd .SDL_DETECT_DET n)
  let det := (s.watchCode n w).isSome && (codeAbove c || (was && !quietFull q x.seen (s.windowK n)))
  (s.updBp n fun b => { b with sad := { b.sad with quietWatch := Store.set (fun _ => none) b.sad.quietWatch w q } }).wr
    .SDL_DETECT_DET n (s.rd .SDL_DETECT_DET n - flag was * 2 ^ w + flag det * 2 ^ w)

/-- An estimate is due: K/64 window samples since the one before (R156). -/
def State.updateDue (s : State) (n : Nat) : Bool :=
  let x := (s.bp n).sad
  s.running n && decide (x.updated + s.windowK n / 64 ≤ x.seen)

/-- What one estimate does (R156, R157, R161, R165, R166). -/
def State.saddleUpdate (s : State) (n : Nat) (e : Estimate) : State :=
  let found := (List.range 8).any (s.newLoopIn n e.own)
  let s1 := (s.updBp n fun x => { x with sad := { x.sad with
      est := some (loopBounds e.own), updated := x.sad.seen, quietOwn := s.quietSubs n e.own
      mark := if found then x.sad.seen else x.sad.mark } })
    |>.roll .SDL_STATUS_UPDATES n |>.tally 3 0x01 n
  let s2 := s1.forEach (fun (c : Correlation × Nat) t => t.watchUpdate n c.2 c.1) (e.watched.take 15).zipIdx
  let s3 := if found then ((s2.set1 .SDL_STATUS_NEW_LOOP n).bump .SDL_COUNT_NEW_LOOPS n).tally 3 0x02 n else s2
  let s4 := (s3.measReview n).boundsUpdate n
  let h := roundDiv (s4.rdS .SDL_TARGET_TARGET n - s4.rdS .SDL_BOUND_U_MAX n) (s4.memberCount n)
  (s4.wr .SDL_HEAD_H_S n (satBits 16 h)).updBp n fun x => { x with eng := { x.eng with stab := some (unit * h) } }

/-- SADDLE_UPDATE (R156, R157, R161, R165, R166): what the correlator delivers. -/
def execSaddleUpdate (n : BpIx) (e : Estimate) (s : State) : Host.Outcome State Fault Refusal :=
  .next (if s.updateDue n then s.saddleUpdate n e else s)

/-- A watch-list entry is written: it starts a new window, and MEAS_DONE clears (R166, Table 77). -/
def State.watchWrite (s : State) (n idx w : Nat) : State :=
  let i := 15 * n + idx
  (((s.wr .SDL_WATCH_BP i (bits 0 7 w)).wr .SDL_WATCH_NODE i (bits 7 12 w)).wr .SDL_WATCH_EN i (bits 31 1 w))
    |>.wr .SDL_DETECT_DET n (s.rd .SDL_DETECT_DET n - flag (bit idx (s.rd .SDL_DETECT_DET n)) * 2 ^ idx)
    |>.clr .SDL_STATUS_MEAS_DONE n
    |>.updBp n fun x => { x with sad := { x.sad with
        mark := x.sad.seen, quietWatch := Store.set (fun _ => none) x.sad.quietWatch idx none
        gains := x.sad.gains.filter fun g => some g.code != s.watchCode n idx } }

/-- SDL_WATCH_WRITE (R161, R170). -/
def execSdlWatchWrite (q : CoreIx) (idx : Fin 15) (w : Word) (s : State) : Host.Outcome State Fault Refusal :=
  .next (s.via (.core q) fun t => t.watchWrite (t.rd .SDL_SEL_N q) idx w.toNat)

/-- A write of TARGET stores at most HARD_FLOOR (R164). -/
def State.writeTarget (s : State) (n v : Nat) : State :=
  if s.rdS .SDL_LIMIT_HARD_FLOOR < signed 16 v then
    (s.wr .SDL_TARGET_TARGET n (s.rd .SDL_LIMIT_HARD_FLOOR)).set1 .SDL_STATUS_TARGET_CLAMP n
  else s.wr .SDL_TARGET_TARGET n v

/-- SDL_TARGET_WRITE (R164). -/
def execSdlTargetWrite (q : CoreIx) (v : BitVec 16) (s : State) : Host.Outcome State Fault Refusal :=
  .next (s.via (.core q) fun t => t.writeTarget (t.rd .SDL_SEL_N q) v.toNat)

/-- G1_OVERLOAD (R168): `sat` samples of one grain saturated at the gain-stage output. -/
def execG1Overload (n : BpIx) (sat : Fin 65) (s : State) : Host.Outcome State Fault Refusal :=
  .next (if s.running n then s.overload n sat else s)

/-- G1_RELEASE (R169): the conditions of the trip's causes end with the mute. -/
def execG1Release (n : BpIx) (s : State) : Host.Outcome State Fault Refusal :=
  .next (if !s.is .SDL_STATUS_G1_MUTED n then s
    else (((s.clr .SDL_STATUS_G1_MUTED n).sendClear n 0x01).sendClear n 0x02).unmute n muteG1)

/-- DIGEST_MISS (R163): no gain report of a mutual member for 10 ms. -/
def execDigestMiss (n : BpIx) (w : Fin 15) (s : State) : Host.Outcome State Fault Refusal :=
  .next (match s.watchCode n w with
    | none => s
    | some c =>
      if !s.isMutual n w then s
      else
        let old := ((s.bp n).sad.gains.find? (·.code == c)).getD ⟨c, -30000, [], false⟩
        (s.updBp n fun x => { x with sad := { x.sad with
          gains := x.sad.gains.filter (fun y => y.code != c) ++ [{ old with silent := true }] } }).bump .SDL_DIGEST_DIGEST_MISS)

end Sys2Proof.Machine
end

