-- ==== Sys2Proof/Machine/Tiles.lean ====
section
/-!
DEFINITION. The tiles of external memory (07_delay_flattening.md R180, R189 to R191, R199; 11_conservation.md R286,
R287): seals, the free pool, transfers that take one tick, quarantine and the audit.
-/

namespace Sys2Proof.Machine

/-! ### CRC-32C (R189) -/

/-- One bit of the reflected CRC with polynomial 0x1EDC_6F41. -/
def crcBit (c : Nat) : Nat := if c % 2 = 1 then Nat.xor (c / 2) 0x82F63B78 else c / 2

/-- One byte. -/
def crcByte (c : Nat) (b : Byte) : Nat :=
  crcBit (crcBit (crcBit (crcBit (crcBit (crcBit (crcBit (crcBit (Nat.xor c b.toNat))))))))

/-- CRC-32C of a string of bytes. -/
def crc32c (bs : List Byte) : Nat := Nat.xor (bs.foldl crcByte 0xFFFFFFFF) 0xFFFFFFFF

/-! ### Payloads and seals (R46, R179, R189, Table 86) -/

/-- STREAM of a grain (Table 21). -/
def streamField (g : Grain) : Nat := place 0 12 g.node + place 12 7 g.bp + place 20 28 g.seq

/-- The 288 bytes of a grain (R46, Table 19). -/
def grainBytes (g : Grain) : List Byte :=
  leBytes 10 g.ts ++ leBytes 6 (streamField g) ++ leBytes 8 g.valid.toNat ++ leBytes 8 g.flags.toNat ++
    g.samples.flatMap fun w => leBytes 4 w.toNat

/-- A payload of 4,096 bytes: the parts in order, then zeros. 14 grains fill bytes 0 to 4,031 (R179). -/
def tilePayload (parts : List (List Byte)) : List Byte := (parts.flatten ++ List.replicate 4096 0).take 4096

/-- The CRC of a seal runs over the payload, the tile's number and GEN (R189). -/
def tileCrc (payload : List Byte) (t gen : Nat) : Nat := crc32c (payload ++ leBytes 4 t ++ leBytes 2 gen)

/-- The 8 bytes of a seal (Table 86). -/
def sealBytes (crc gen owner : Nat) : List Byte := leBytes 4 crc ++ leBytes 2 gen ++ leBytes 2 owner

/-- The fields of a seal as read back. -/
def sealCrc (b : List Byte) : Nat := ofLe (b.take 4)
def sealGen (b : List Byte) : Nat := ofLe ((b.drop 4).take 2)
def sealOwner (b : List Byte) : Nat := ofLe ((b.drop 6).take 2)

/-! ### Runs of tiles -/

def runsCount (r : List (Nat × Nat)) : Nat := (r.map (·.2)).sum

/-- The first `k` tiles of the runs, and the rest. -/
def takeRuns : Nat → List (Nat × Nat) → List (Nat × Nat) × List (Nat × Nat)
  | _, [] => ([], [])
  | k, (a, c) :: rest =>
    if k = 0 then ([], (a, c) :: rest)
    else if c ≤ k then
      let t := takeRuns (k - c) rest
      ((a, c) :: t.1, t.2)
    else ([(a, k)], (a + k, c - k) :: rest)

def inRuns (r : List (Nat × Nat)) (t : Nat) : Bool := r.any fun x => decide (x.1 ≤ t ∧ t < x.1 + x.2)

/-- The runs without tile `t`. -/
def dropTile (r : List (Nat × Nat)) (t : Nat) : List (Nat × Nat) :=
  r.flatMap fun x =>
    if x.1 ≤ t ∧ t < x.1 + x.2 then [(x.1, t - x.1), (t + 1, x.1 + x.2 - t - 1)].filter fun y => y.2 != 0 else [x]

/-- Tile number `i` of the runs. -/
def runsAt : List (Nat × Nat) → Nat → Nat
  | [], _ => 0
  | (a, c) :: rest, i => if i < c then a + i else runsAt rest (i - c)

/-! ### Owners (Table 86, R199) -/

/-- The owner tag of the tiles that the loader assigns; 0 in Gorge's ring pool. -/
def fixedOwner (t : Nat) : Nat :=
  if t < 8192 then 0x2000 else if t < 24576 then 0x3000 else if t < 57344 then 0x4000
  else if t < 62464 then 0x5000 + (t - 57344) / 320 else 0

/-- The owner tag of tile t. -/
def State.tileOwner (s : State) (t : Nat) : Nat :=
  if s.tiles.quarantine.contains t ∨ s.tiles.retired.contains t then 0xF000
  else match s.tiles.swapped.find? (fun x => x.1 == t) with
    | some x => fixedOwner x.2
    | none =>
      if fixedOwner t ≠ 0 then fixedOwner t
      else match allBps.find? (fun n => inRuns (s.bp n).dly.tiles t) with
        | some n => 0x1000 + n
        | none => 0

/-- The place in the owner's holding that tile t fills. -/
def State.tilePlace (s : State) (t : Nat) : Nat :=
  match s.tiles.swapped.find? (fun x => x.1 == t) with
  | some x => x.2
  | none => t

/-- The tile that now fills a place of a holding. -/
def State.holderOf (s : State) (place : Nat) : Nat :=
  match s.tiles.swapped.find? (fun x => x.2 == place) with
  | some x => x.1
  | none => place

/-- The place of the Fresco ring that holds record `n` (R362), of the staging grain at position `k` of ring r (R398), and
of copy `k` of the keep store of lane l (R192). -/
def recordTile (n : Nat) : Nat := 8192 + n % 1048576 / 64
def stagingTile (r k : Nat) : Nat := 24576 + 4096 * r + k / 14
def keepTile (l k : Nat) : Nat := 57344 + 320 * l + k / 14

/-- The tile of band path n that holds its grain periods 14 k to 14 k + 13: its tiles serve in turn (log entry 11). -/
def State.gorgeTile (s : State) (n k : Nat) : Nat :=
  let runs := (s.bp n).dly.tiles
  runsAt runs (k % runsCount runs)

/-- The generation expected of tile t (R190). -/
def State.tileGen (s : State) (t : Nat) : Nat := Store.get (fun _ => 0) s.tiles.gens t

/-- Bursts of 64 bytes that a tile's payload takes (log entry 32). -/
def tileBursts : Nat := 64

/-- A new write of tile t's payload: the generation rises, and then the seal is written (R189, R190). -/
def State.tileWritten (s : State) (t : Nat) (payload : List Byte) : State :=
  let gen := (s.tileGen t + 1) % 65536
  { s with tiles := { s.tiles with
      gens := Store.set (fun _ => 0) s.tiles.gens t gen
      seals := Store.set (fun _ => []) s.tiles.seals t (sealBytes (tileCrc payload t gen) gen (s.tileOwner t)) } }.tally 4 0x02
    (t % 4) |>.tally 4 0x05 (t % 4) tileBursts

/-- The seal region at tile t (R189): what the last write left; a Plain tile holds its mask entries from the start. -/
def State.sealAt (s : State) (t : Nat) : List Byte :=
  let b := Store.get (fun _ => []) s.tiles.seals t
  if b = [] ∧ s.tileOwner t / 4096 = 2 then
    sealBytes (tileCrc (plainPayload s.plain.records (s.tilePlace t)) t (s.tileGen t)) (s.tileGen t) (s.tileOwner t)
  else b

/-- The payload of the tile that holds the 14 grain periods from 14 k on: grain i at bytes 288 i to 288 i + 287 (R179). -/
def State.gorgePayload (s : State) (n k : Nat) : List Byte :=
  tilePayload ((List.range 14).map fun i => match (s.bp n).dly.recent.find? (fun h => h.pos == 14 * k + i) with
    | some h => grainBytes h.grain
    | none => List.replicate 288 0)

/-- An uncorrectable error in tile t (R431). -/
def State.memError (s : State) (t : Nat) : State :=
  ((s.set1 .MEM_CH_UE (t % 4)).wr .MEM_UE_TILE_TILE (t % 4) t).sendFault 0xB3 0x60 t

/-- What R190 finds at a read of tile t: 0 sound, else the cause of Table 92. -/
def State.sealCause (s : State) (t : Nat) (r : TileRead) : Nat :=
  if r.ue then 4
  else if r.payload.length ≠ 4096 ∨ tileCrc r.payload t (sealGen r.sealed) ≠ sealCrc r.sealed then 1
  else if sealGen r.sealed ≠ s.tileGen t then 2
  else if sealOwner r.sealed ≠ s.tileOwner t then 3
  else 0

/-- A seal failure is counted and recorded, whichever owner the tile has (R190). -/
def State.sealFail (s : State) (t cause : Nat) : State :=
  (((((s.bump .GRG_SEAL_FAIL_FAILS).wr .GRG_LAST_BAD_TILE 0 t).wr .GRG_LAST_BAD_CAUSE 0 cause).wr .GRG_LAST_OWNER_OWNER 0
    (s.tileOwner t)).wr .GRG_LAST_OWNER_GEN 0 (s.tileGen t)).tally 4 0x03 (t % 4)

/-! ### Transfers between the pool and an owner (R180, R287) -/

/-- A transfer out of the pool for `owner`, never leaving fewer than 64 tiles free (R286); none when the pool cannot
cover it. -/
def State.takeTiles (s : State) (owner : Option Nat) (k : Nat) : Option (State × List (Nat × Nat)) :=
  if runsCount s.tiles.free < k + 64 then none
  else
    let t := takeRuns k s.tiles.free
    some ({ s with tiles := { s.tiles with
      free := t.2, moves := s.tiles.moves ++ [{ runs := t.1, toOwner := true, owner := owner }] } }, t.1)

/-- A transfer of tiles back to the pool. -/
def State.giveTiles (s : State) (owner : Option Nat) (runs : List (Nat × Nat)) : State :=
  if runs = [] then s
  else { s with tiles := { s.tiles with
    moves := s.tiles.moves ++ [{ runs := runs, toOwner := false, owner := owner }] } }

/-- Band path n holds `want` tiles from now on: it takes what is missing or returns what is too much (R180, R181). -/
def State.holdTiles (s : State) (n want : Nat) : Option State :=
  let have' := (s.bp n).dly.tiles
  if runsCount have' < want then
    match s.takeTiles (some n) (want - runsCount have') with
    | none => none
    | some (s1, runs) => some (s1.updBp n fun x => { x with dly := { x.dly with tiles := x.dly.tiles ++ runs } })
  else
    let t := takeRuns want have'
    some ((s.giveTiles (some n) t.2).updBp n fun x => { x with dly := { x.dly with tiles := t.1 } })

/-- Add to or take from a tile counter, modulo its width: two transfers of one tick may pass each other. -/
def State.plusTiles (s : State) (f : Field) (i k : Nat) : State := s.wr f i (s.rd f i + k)
def State.minusTiles (s : State) (f : Field) (i k : Nat) : State := s.wr f i (s.rd f i + 2 ^ f.row.width - k)

/-- A transfer ends: the receiving counter takes the tiles. -/
def State.endTransfer (m : Transfer) (s : State) : State :=
  let k := runsCount m.runs
  if m.toOwner then
    match m.owner with
    | some n => (s.plusTiles .GRG_OWNED_OWNED 0 k).plusTiles .FLO_TILES_RESERVED n k
    | none => s.plusTiles .GRG_OWNED_OWNED 0 k
  else { s with tiles := { s.tiles with free := s.tiles.free ++ m.runs } }.plusTiles .GRG_FREE_FREE 0 k

/-- A transfer starts: the giving counter loses the tiles. -/
def State.startTransfer (m : Transfer) (s : State) : State :=
  let k := runsCount m.runs
  if m.toOwner then s.minusTiles .GRG_FREE_FREE 0 k
  else match m.owner with
    | some n => (s.minusTiles .GRG_OWNED_OWNED 0 k).minusTiles .FLO_TILES_RESERVED n k
    | none => (s.minusTiles .GRG_OWNED_OWNED 0 k).minusTiles .GRG_QUAR_QUARANTINED 0 k

/-- The two invariants of R199 and R286 hold. -/
def State.tilesBalanced (s : State) : Bool :=
  decide (s.rd .GRG_FREE_FREE + s.rd .GRG_OWNED_OWNED = 8388608 ∧
    s.rd .GRG_OWNED_OWNED = 62464 + (allBps.map (s.rd .FLO_TILES_RESERVED)).sum + s.rd .GRG_QUAR_QUARANTINED +
      s.rd .GRG_QUAR_RETIRED)

/-- Gorge's work at a tick boundary: running transfers end, waiting ones start, and where none runs the invariants are
compared (R287). -/
def State.tilesTick (s : State) : State :=
  let old := s.tiles.moves
  let ended := State.forEach State.endTransfer (old.filter (·.started))
    { s with tiles := { s.tiles with moves := (old.filter fun m => !m.started).map fun m => { m with started := true } } }
  let s1 := State.forEach State.startTransfer (old.filter fun m => !m.started) ended
  if s1.tiles.moves ≠ [] ∨ !s1.is .PLN_STATUS_LOADED then s1
  else if s1.tilesBalanced then s1.sendClear 0xA9 0x50
  else if s1.hasCond 0xA9 0x50 then s1
  else (s1.sendFault 0xA9 0x50).record 0x31 0xA9 [(3, s1.rd .GRG_FREE_FREE), (1, 0), (3, s1.rd .GRG_OWNED_OWNED)]

/-! ### Quarantine (R191, R286) -/

/-- One hour in ticks. -/
def hourTicks : Nat := 360000000

/-- Tile t leaves its owner: to quarantine, or, poisoned a second time within one hour, retired until reset (R191). -/
def State.quarantineTile (s : State) (t : Nat) : State :=
  let again := s.tiles.poisonedAt.any fun x => x.1 == t && decide (s.clk.tick < x.2 + hourTicks)
  let s1 := { s with tiles := { s.tiles with
    poisonedAt := (t, s.clk.tick) :: s.tiles.poisonedAt.filter fun x => x.1 != t
    swapped := s.tiles.swapped.filter fun x => x.1 != t
    quarantine := if again then s.tiles.quarantine else t :: s.tiles.quarantine
    retired := if again then t :: s.tiles.retired else s.tiles.retired } }
  s1.plusTiles (if again then .GRG_QUAR_RETIRED else .GRG_QUAR_QUARANTINED) 0 1

/-- An owner other than Gorge loses tile t and takes its replacement from the pool in the same transfer; with an empty
pool the tile stays with it, poisoned and unused, until a tile is freed (R286). -/
def State.replaceTile (s : State) (t : Nat) : State :=
  let place := s.tilePlace t
  let rest := s.tiles.waiting.filter (· != t)
  if runsCount s.tiles.free = 0 then { s with tiles := { s.tiles with waiting := rest ++ [t] } }
  else
    let x := takeRuns 1 s.tiles.free
    let s1 : State := { s with tiles := { s.tiles with
      free := x.2, waiting := rest, moves := s.tiles.moves ++ [{ runs := x.1, toOwner := true, owner := none }] } }
    let s2 := s1.quarantineTile t
    { s2 with tiles := { s2.tiles with swapped := (runsAt x.1 0, place) :: s2.tiles.swapped } }

/-- A Gorge tile of band path n goes to quarantine; the reservation takes another in its place when the pool covers it. -/
def State.dropGorgeTile (s : State) (n t : Nat) : State :=
  let keep := runsCount (s.bp n).dly.tiles
  let s1 := ((s.updBp n fun x => { x with dly := { x.dly with tiles := dropTile x.dly.tiles t } }).minusTiles
    .FLO_TILES_RESERVED n 1).quarantineTile t
  (s1.holdTiles n keep).getD s1

/-- TILE_QUARANTINE_DONE (R191): the tile returns to the pool or is retired until reset. -/
def execTileQuarantineDone (t : BitVec 23) (pass : Bool) (s : State) : Host.Outcome State Fault Refusal :=
  .next (if !s.tiles.quarantine.contains t.toNat then s
    else
      let s1 := { s with tiles := { s.tiles with quarantine := s.tiles.quarantine.filter (· != t.toNat) } }
      if pass then s1.giveTiles none [(t.toNat, 1)]
      else
        let s2 := { s1 with tiles := { s1.tiles with retired := t.toNat :: s1.tiles.retired } }
        (s2.minusTiles .GRG_QUAR_QUARANTINED 0 1).plusTiles .GRG_QUAR_RETIRED 0 1)

end Sys2Proof.Machine
end

