-- ==== Sys2Proof/Machine/Delay.lean ====
section
/-!
DEFINITION. Constant-delay repeat (07_delay_flattening.md): the held delay and its states, the minimum total delay, the
grid that follows the origin timestamps, Gorge, steps, and the FLO commands.
-/

namespace Sys2Proof.Machine

/-! ### Units -/

/-- Units of D_a in one quantum (10^-5 quantum: 1/64 ps per ms is 1,024 of them per tick). -/
def fine : Nat := 100000

/-- Grid units of one quantum for span N: N × 10^7, in which a sample period and a slewed grain period are whole. -/
def gridUnit (span : Nat) : Nat := span * 10000000

/-- One sample period in grid units: 51,200 / N ns (R40). -/
def gridPeriod : Nat := 51200 * 65536 * 10000000

/-- Nanoseconds and microseconds in quanta. -/
def nsQ (k : Nat) : Nat := k * 65536
def usQ (k : Nat) : Nat := k * 65536000

def delayState (s : State) (n : Nat) : Nat := s.rd .FLO_STATUS_DSTATE n

def State.targetOf (s : State) (n : Nat) : Int := s.rdDelay .FLO_TARGET_LO_TARGET .FLO_TARGET_HI_TARGET n

/-- The effective slew in 1/64 ps per ms; 0 acts as 1 (R187). -/
def State.delaySlew (s : State) : Nat := max 1 (min (s.rd .FLO_SLEW_DLY_SLEW) (s.rd .FLO_SLEW_FW_DLY_SLEW))

/-- ESTAB_MARGIN in µs; 0 acts as 1 (Table 90). -/
def State.estabMargin (s : State) (n : Nat) : Nat := max 1 (s.rd .FLO_CTRL_ESTAB_MARGIN n)

/-! ### Minimum total delay (R175, R176) -/

/-- L_dst in quanta, with the exact group delay (R176, R109). -/
def State.dstLatency (s : State) (n : Nat) : Frac :=
  Frac.add (dstDelay (s.bp n).decl.span)
    (s.rdS .CHZ_DST_GDC_GDC n + nsQ 40 + s.rd .FE_TX_LAT_LAT (s.bp n).decl.dstPort, 1)

/-- The arrival age of a band path fed by a receive window of this module, known at once and exactly (R175, R109). -/
def State.sourceAge (s : State) (n : Nat) : Frac :=
  let d := (s.bp n).decl
  Frac.add (Frac.add (s.srcDelay n (s.rd .CHZ_BANK_STATUS_ACTIVE n)) (63 * periodK, d.span))
    ((s.rd .FE_RX_LAT_LAT d.srcPort : Int) + s.rdS .CHZ_GDC_GDC n + nsQ 50, 1)

/-- The window of FLO_AGE: 1 ms or 16 grain periods, whichever is longer (R175). -/
def ageWindow (span : Nat) : Nat := max (usQ 1000) (ceilDiv (1024 * periodK) span)

/-- FLO_AGE: the largest arrival age in the window; none before a grain was measured. -/
def State.arrivalAge (s : State) (n : Nat) : Option Frac :=
  if (s.bp n).decl.srcKind = 1 then some (s.sourceAge n)
  else match (s.bp n).dly.ages with
    | [] => none
    | a :: rest => some (rest.foldl (fun m x => max m x.2) a.2, 1)

/-- T_g + 200 ns + L_dst, exact (R176). -/
def State.afterAge (s : State) (n : Nat) : Frac :=
  Frac.add (Frac.add (64 * periodK, (s.bp n).decl.span) (nsQ 200, 1)) (s.dstLatency n)

/-- D_min for an arrival age, exact (R176). -/
def State.minDelay (s : State) (n : Nat) (age : Frac) : Frac := Frac.add age (s.afterAge n)

/-- D_a in quanta, exact. -/
def State.appliedOf (s : State) (n : Nat) : Frac := ((s.bp n).dly.applied, fine)

/-- The D_min that FLO_MIN shows, rounded up to a quantum. -/
def State.dMin (s : State) (n : Nat) : Int := s.rdDelay .FLO_MIN_LO_DMIN .FLO_MIN_HI_DMIN n

/-- D_min + ESTAB_MARGIN, rounded up to a whole microsecond (R185). -/
def State.marginDelay (s : State) (n : Nat) : Int :=
  let x := s.dMin n + usQ (s.estabMargin n)
  (usQ 1 : Int) * (-((-x) / (usQ 1 : Int)))

/-- Store a signed 48-bit delay in a pair of fields. -/
def State.wrDelay (s : State) (lo hi : Field) (n : Nat) (v : Int) : State := s.wr2 lo hi n (wrapBits 48 v)

/-- A grain of arrival age `age` arrives in time for D_a (R177). -/
def State.inTime (s : State) (n : Nat) (age : Frac) : Bool := Frac.le (s.minDelay n age) (s.appliedOf n)

/-- Drop ages that have left the window, and show FLO_AGE (R175). -/
def State.refreshAge (s : State) (n : Nat) : State :=
  let s1 := s.updBp n fun x => { x with dly := { x.dly with
      ages := x.dly.ages.filter fun a => decide (s.raw ≤ a.1 + ageWindow (s.bp n).decl.span) } }
  match s1.arrivalAge n with
  | none => s1
  | some a => s1.wrDelay .FLO_AGE_LO_AGE .FLO_AGE_HI_AGE n a.round

/-- Recompute FLO_AGE, and for a transmit window FLO_LDST and FLO_MIN (R175, R176): the registers show the exact values to
the nearest quantum, D_min rounded up. -/
def State.refreshMin (s : State) (n : Nat) : State :=
  let s1 := s.refreshAge n
  if !s.emits n then s1
  else
    let s2 := s1.wrDelay .FLO_LDST_LO_LDST .FLO_LDST_HI_LDST n (s.dstLatency n).round
    match s1.arrivalAge n with
    | none => s2
    | some a => s2.wrDelay .FLO_MIN_LO_DMIN .FLO_MIN_HI_DMIN n (s1.minDelay n a).ceil

/-- D_min of the latest measurement lies within D_a (R194). -/
def State.minWithin (s : State) (n : Nat) : Bool :=
  match s.arrivalAge n with | none => false | some a => s.inTime n a

/-! ### Reservations (R180, R181) -/

/-- Tiles for a total delay of `d` fine units: ceil(G / 14) + 2 with G = ceil(D × Fs / 64). -/
def tilesFor (span : Nat) (d : Int) : Nat := ceilDiv (ceilDiv (d.toNat * span) (64 * periodK * fine)) 14 + 2

/-- The reservation of band path n. -/
def State.tilesWanted (s : State) (n : Nat) : Nat :=
  tilesFor (s.bp n).decl.span (max (s.targetOf n * fine) (s.bp n).dly.applied)

/-! ### Entering the delay states -/

/-- STATE goes to INVALID and keeps what it held (R57, R174); vector 5 (Table 170). -/
def State.enterInvalid (s : State) (n : Nat) : State :=
  let st := s.rd .BP_STATUS_STATE n
  if st = 2 ∨ st = 3 then ((s.updBp n fun x => { x with before := st }).wr .BP_STATUS_STATE n 4).raise 5 else s

/-- STATE returns from INVALID. -/
def State.leaveInvalid (s : State) (n : Nat) : State :=
  if s.rd .BP_STATUS_STATE n = 4 then s.wr .BP_STATUS_STATE n (s.bp n).before else s

/-- A DELAY record (Table 158). -/
def State.delayRecord (s : State) (n event : Nat) : State :=
  s.record 0x21 n [(1, n), (1, event), (6, wrapBits 48 (roundDiv (s.bp n).dly.applied fine)), (6, wrapBits 48 (s.dMin n))]

/-- D_a takes a value in quanta, and FLO_APPLIED shows it. -/
def State.setApplied (s : State) (n : Nat) (fineUnits : Int) : State :=
  (s.updBp n fun x => { x with dly := { x.dly with applied := fineUnits } }).wrDelay .FLO_APPLIED_LO_APPLIED
    .FLO_APPLIED_HI_APPLIED n (roundDiv fineUnits fine)

/-- HELD is entered: the OFFSET condition ends, SLACK_LOW may be sent anew (R196). -/
def State.enterHeld (s : State) (n : Nat) : State :=
  ((s.wr .FLO_STATUS_DSTATE n 2).sendClear n 0x27).updBp n fun x => { x with dly := { x.dly with slackSent := false } }

/-- OFFSET is entered, with its fault message and record (R185, R194). -/
def State.enterOffset (s : State) (n : Nat) : State :=
  let s1 := (s.wr .FLO_STATUS_DSTATE n 3).clr .FLO_STATUS_SLEWING n
  ((if s1.hasCond n 0x27 then s1 else s1.sendFault n 0x27).delayRecord n 3).updBp n fun x =>
    { x with dly := { x.dly with slackSent := false } }

/-- LOST is entered (R193, R57): a running slew is abandoned (Table 87). -/
def State.enterLost (s : State) (n : Nat) : State :=
  let s1 := (((s.updBp n fun x => { x with dly := { x.dly with before := delayState s n, stepTo := false, lates := 0, ages := [] } })
    |>.wr .FLO_STATUS_DSTATE n 4).clr .FLO_STATUS_SLEWING n).bump .FLO_COUNT_LOST_EVENTS n
  ((if s1.hasCond n 0x28 then s1 else s1.sendFault n 0x28).delayRecord n 2).enterInvalid n

/-- NO_TILES is entered (R181). -/
def State.enterNoTiles (s : State) (n : Nat) : State :=
  let s1 := s.wr .FLO_STATUS_DSTATE n 5
  (if s1.hasCond n 0x24 then s1 else s1.sendFault n 0x24).enterInvalid n

/-- Reserve for the present target and D_a, or enter NO_TILES. -/
def State.reserveOr (s : State) (n : Nat) : State := (s.holdTiles n (s.tilesWanted n)).getD (s.enterNoTiles n)

/-- Positions are counted anew from 0: the last accepted input grain keeps its place relative to the count (R179, R460). -/
def Delay.recount (d : Delay) : Delay := { d with count := 0, accepted := d.accepted.map fun a => (a.1 - d.count, a.2) }

/-- ESTABLISHING is entered: Gorge is emptied, the measurement starts, LOST and NO_TILES end (R174, R185); a lane-stream
destination holds no delay and has no fractional one (R173, R27). -/
def State.enterEstablishing (s : State) (n : Nat) : State :=
  let s1 := (((s.updBp n fun x => { x with
      tx := {}
      dly := { x.dly.recount with
        last := none, seen := [], ages := [], lates := 0, gorge := [], recent := [], input := [],
        stepTo := false, announce := none, before := 1, spent := 0, fresh := true, emitted := none } }).sendClear n 0x24).sendClear n
    0x28).leaveInvalid n
  if s1.emits n then
    ((s1.wr .FLO_STATUS_DSTATE n 1).clr .FLO_STATUS_SLEWING n).refreshMin n |>.reserveOr n
  else ((s1.wr .FLO_STATUS_DSTATE n 0).clr .FLO_STATUS_SLEWING n).clr .FLO_MU_MU n

/-- A reroute of the stream restarts the measurement of ESTABLISHING (Table 87). -/
def State.measureAnew (s : State) (n : Nat) : State :=
  if delayState s n = 1 then s.updBp n fun x => { x with dly := { x.dly with ages := [] } } else s

/-- The band path is disabled or fenced: no delay state, the tiles return to the pool (R174, R180), and the conditions
that R461 ties to its states end. -/
def State.leaveDelay (s : State) (n : Nat) (disabled : Bool) : State :=
  let s1 := s.updBp n fun x => { x with dly := { x.dly with
    stepTo := false, announce := none, gorge := [], recent := [], input := [], last := none, lates := 0, ages := [] }, tx := {} }
  let s2 := (((s1.wr .FLO_STATUS_DSTATE n 0).clr .FLO_STATUS_SLEWING n).clr .FLO_STATUS_SLACK_LOW n).clr .FLO_MU_MU n
  let s3 := [0x22, 0x23, 0x24, 0x27, 0x28, 0x2A].foldl (fun t c => t.sendClear n c) s2
  if disabled then (s3.holdTiles n 0).getD s3 else s3

/-! ### Steps (R188) -/

/-- A step from the present D_a waits for its announcement at the next emitted grain. -/
def State.stepFrom (s : State) (n cause : Nat) : State :=
  s.updBp n fun x => { x with dly := { x.dly with announce := some (cause, roundDiv x.dly.applied fine) } }

/-- The four ways in which a step is announced, and vector 5 (Table 170). -/
def State.announceStep (s : State) (n : Nat) : State :=
  match (s.bp n).dly.announce with
  | none => s
  | some (cause, old) =>
    (((((s.updBp n fun x => { x with dly := { x.dly with announce := none } }).set1 .BP_STATUS_STEP n).bump .FLO_COUNT_STEPS n)
      |>.record 0x20 n [(1, n), (1, cause), (6, wrapBits 48 old), (6, wrapBits 48 (roundDiv (s.bp n).dly.applied fine))])
      |>.sendFault n 0x29).raise 5

/-- A grain boundary with an accepted STEP_OK target: D_a takes the target (R186); then a waiting step is announced. -/
def State.delayStep (s : State) (n : Nat) : State :=
  let s1 := if (s.bp n).dly.stepTo then
      ((((s.stepFrom n 1).updBp n fun x => { x with dly := { x.dly with stepTo := false } }).setApplied n
        (s.targetOf n * fine)).clr .FLO_STATUS_SLEWING n).enterHeld n |>.reserveOr n
    else s
  s1.announceStep n

/-- Every band path that emits announces a step of the module's own Plumb time (R188, Table 87). -/
def State.plumbStepped (s : State) : State :=
  s.forEach (fun n t =>
    if !t.running n then t
    else if t.emits n then t.stepFrom n 4
    else t.updBp n fun x => { x with markStep := true }) allBps

/-! ### Targets (R186, Table 85) -/

/-- The reject code of a target, in every delay state (R173, R181, R186): against the D_min that FLO_MIN shows for a band
path that runs toward a transmit window, and against the pool, which D_a enters only where a delay is held. -/
def State.targetCode (s : State) (n : Nat) (v : Int) : Nat :=
  let st := delayState s n
  let held := if st = 0 then 0 else (s.bp n).dly.applied
  if v < 0 then 3
  else if st ≠ 0 ∧ v < s.dMin n then 1
  else if (s.holdTiles n (tilesFor (s.bp n).decl.span (max (v * fine) held))).isNone then 2
  else 0

/-- A committed target (R186, Table 87). -/
def State.commitTarget (s : State) (n : Nat) (v : Int) : State :=
  let code := s.targetCode n v
  let s0 := s.updBp n fun x => { x with dly := { x.dly with stagedLo := none } }
  if code ≠ 0 then s0.wr .FLO_STATUS_REJECT n code
  else
    let s1 := (s0.clr .FLO_STATUS_REJECT n).wrDelay .FLO_TARGET_LO_TARGET .FLO_TARGET_HI_TARGET n v
    match delayState s n with
    | 2 | 3 =>
      let s2 := s1.reserveOr n
      if s.is .FLO_CTRL_STEP_OK n ∧ v * fine ≠ (s.bp n).dly.applied then
        (s2.updBp n fun x => { x with dly := { x.dly with stepTo := true } }).clr .FLO_CTRL_STEP_OK n
      else
        ((s2.updBp n fun x => { x with dly := { x.dly with stepTo := false } }).wrB .FLO_STATUS_SLEWING n
          (decide (v * fine ≠ (s.bp n).dly.applied))).enterHeld n
    | 1 | 4 => s1.reserveOr n
    | _ => s1

/-- A write of FLO_TARGET_HI commits the pair (R198); LO is the value written before it, or the accepted one. -/
def State.writeTargetHi (s : State) (n hi : Nat) : State :=
  s.commitTarget n (signed 48 (((s.bp n).dly.stagedLo.getD (s.rd .FLO_TARGET_LO_TARGET n)) % 2 ^ 32 + hi % 2 ^ 16 * 2 ^ 32))

/-- FW_DLY_SLEW written: at most DLY_SLEW, and a clamp shows in all 128 band paths (R187). -/
def State.writeDlySlew (s : State) (v : Nat) : State :=
  if s.rd .FLO_SLEW_DLY_SLEW < v % 65536 then
    (s.wr .FLO_SLEW_FW_DLY_SLEW 0 (s.rd .FLO_SLEW_DLY_SLEW)).forEach (fun n t => t.set1 .FLO_STATUS_SLEW_CLAMP n) allBps
  else s.wr .FLO_SLEW_FW_DLY_SLEW 0 v

/-! ### The grid (R182, R184) -/

/-- ORIGIN_TS as an instant: SEC_LO extended with the upper bits of the module's own seconds, to the nearest candidate
(R49); just after second 0 that candidate may lie before it. -/
def State.originOf (s : State) (ts : Nat) : Int :=
  let sec : Int := (s.now / quantaPerSec : Nat)
  let mid : Int := (s.now / quantaPerSec / 2 ^ 34 * 2 ^ 34 + bits 46 34 ts : Nat)
  let near := [mid - 2 ^ 34, mid + 2 ^ 34].foldl
    (fun (m c : Int) => if (c - sec).natAbs < (m - sec).natAbs then c else m) mid
  near * (quantaPerSec : Int) + (bits 16 30 ts * 65536 + bits 0 16 ts : Nat)

/-- The ORIGIN_TS of an instant (Table 20). -/
def tsOf (t : Int) : Nat := timeBits (t % (2 ^ 48 * quantaPerSec : Nat)).toNat % 2 ^ 80

/-- TS_TOL in quanta: 2^-8 ns per step (Table 91). -/
def State.tsTol (s : State) (n : Nat) : Nat := s.rd .FLO_TOL_TS_TOL n * 256

/-- The grid time of an accepted grain and whether it is a discontinuity (R182); a grain with FLAGS.STEP always is one
(Table 87). `k` is the number of grain periods since the last accepted grain. -/
def State.gridOf (s : State) (n : Nat) (g : Grain) (gen k : Nat) : Int × Bool :=
  let span := (s.bp n).decl.span
  let ts : Int := s.originOf g.ts * gridUnit span
  match (if (s.bp n).dly.fresh then none else (s.bp n).dly.last) with
  | none => (ts, false)
  | some (_, grid, _, _, settle) =>
    let pred := grid + (k * 64 * gridPeriod : Nat)
    let e := ts - pred
    if (s.tsTol n * gridUnit span : Int) < e.natAbs ∨ settle ∨ gen ≠ (s.bp n).dly.gen ∨ g.flags.getLsbD 2 then (ts, true)
    else
      let lim : Int := s.delaySlew * k * 33554432
      (pred + clampI (-lim) lim e, false)

/-- FLAGS of a grain (Table 22). -/
def flFenced : Nat := 0
def flMuted : Nat := 1
def flStep : Nat := 2
def flOverload : Nat := 3
def flSettle : Nat := 4
def flPoison : Nat := 5
def flLoss : Nat := 6
def flEnd : Nat := 7

def gFlag (g : Grain) (k : Nat) : Bool := g.flags.getLsbD k
def gGen (g : Grain) : Nat := bits 24 8 g.flags.toNat
def gSet (g : Grain) (k : Nat) (b : Bool) : Grain :=
  if b then { g with flags := g.flags ||| BitVec.ofNat 64 (2 ^ k) } else g

/-- Insert in order of position. -/
def insertHeld (h : Held) : List Held → List Held
  | [] => [h]
  | x :: rest => if h.pos < x.pos then h :: x :: rest else x :: insertHeld h rest

/-- A grain is accepted at position `pos`, `k` periods after the last accepted one (R182): the grid follows, FLAGS.STEP is
announced, and what the correction took is counted against the slew (R187). -/
def State.acceptGrain (s : State) (n : Nat) (g : Grain) (gen pos k : Nat) : State × Int :=
  let r := s.gridOf n g gen k
  let span := (s.bp n).decl.span
  let moved : Int := match (s.bp n).dly.last with
    | some (_, grid, _, _, _) => if r.2 || (s.bp n).dly.fresh then 0 else
        -((-((r.1 - grid - (k * 64 * gridPeriod : Nat)).natAbs * fine : Int)) / (gridUnit span : Int))
    | none => 0
  let s1 := s.updBp n fun x => { x with dly := { x.dly with
    last := some (pos, r.1, g.seq, gen, gFlag g flSettle), gen := gen, lates := 0, spent := x.dly.spent + moved
    fresh := delayState s n == 1, accepted := some ((pos : Int), s.originOf g.ts)
    seen := g.seq :: (if gen = x.dly.gen then x.dly.seen else []).take 8191 } }
  let s2 := if r.2 then s1.set1 .FLO_STATUS_TS_JUMP n else s1
  let s3 := if r.2 && gFlag g flStep && s.emits n then s2.stepFrom n 3 else s2
  (s3.tally 0 0x06 n, r.1)

/-! ### Work at every tick boundary -/

/-- Fine units that a slew of u moves D_a in one tick. -/
def tickSlew (u : Nat) : Int := u * 1024

/-- D_a moves toward the target with what grid corrections left of the slew (R186, R187). -/
def State.slewTick (s : State) (n : Nat) : State :=
  let d := (s.bp n).dly
  let lim := tickSlew s.delaySlew
  let room := max 0 (lim - d.spent)
  let s1 := s.updBp n fun x => { x with dly := { x.dly with spent := max 0 (d.spent - lim) } }
  let target := s.targetOf n * fine
  if delayState s n ≠ 2 ∨ d.stepTo ∨ d.applied = target then s1
  else
    let next := rampTo d.applied target room
    let s2 := (s1.setApplied n next).wrB .FLO_STATUS_SLEWING n (decide (next ≠ target))
    if next = target then s2.reserveOr n else s2

/-- FLO_MU (Table 91): where the origin instant of the first output sample of the tick that ends lies between two samples of
the origin grid, which the grain in emission gives. -/
def State.floMu (s : State) (n : Nat) : Nat :=
  let span := (s.bp n).decl.span
  match (match (s.bp n).dly.gorge with
    | h :: _ => some h.grid
    | [] => (s.bp n).dly.last.map fun x => x.2.1) with
  | none => 0
  | some grid =>
    let step : Int := (rsiQuanta span * span * 10000000 : Nat)
    let start : Int := (s.now - tickQuanta : Nat) * (gridUnit span : Int) - (s.bp n).dly.applied * (span * 100 : Nat) - grid
    let base := s.rsiOrigin n grid 0
    let x := base - (base - start) / step * step
    ((x % (gridPeriod : Int)) * 2 ^ 32 / (gridPeriod : Int)).toNat

/-- D_a − D_min lies below SLACK_WARN, once a delay has been established (R196). -/
def State.slackLow (s : State) (n : Nat) : Bool :=
  decide (2 ≤ delayState s n) && (match s.arrivalAge n with
    | none => decide ((s.bp n).dly.applied < (s.dMin n + usQ (s.rd .FLO_CTRL_SLACK_WARN n)) * fine)
    | some a => !Frac.le (Frac.add (s.minDelay n a) (usQ (s.rd .FLO_CTRL_SLACK_WARN n), 1)) (s.appliedOf n))

/-- SLACK_LOW (R196). -/
def State.slackTick (s : State) (n : Nat) : State :=
  let low := s.slackLow n
  let s1 := s.wrB .FLO_STATUS_SLACK_LOW n low
  if low then
    if (s.bp n).dly.slackSent then s1
    else (s1.sendFault n 0x2A).updBp n fun x => { x with dly := { x.dly with slackSent := true } }
  else s1.sendClear n 0x2A

/-- FLO_FILL: the grains that wait in Gorge. -/
def State.showFill (s : State) (n : Nat) : State :=
  s.wr .FLO_FILL_GRAINS n ((s.bp n).dly.gorge.length + (s.bp n).dly.input.length)

/-- One band path's delay machinery at a tick boundary. -/
def State.delayTick (s : State) (n : Nat) : State :=
  if !s.running n then s
  else if !s.emits n || delayState s n == 0 then (s.refreshAge n).showFill n
  else
    let s1 := s.refreshMin n
    let s2 := if delayState s1 n ≠ 5 then s1
      else match s1.holdTiles n (s1.tilesWanted n) with
        | none => s1
        | some t => ((t.sendClear n 0x24).leaveInvalid n).enterEstablishing n
    let s3 := (s2.slewTick n).slackTick n
    (s3.wr .FLO_MU_MU n (s3.floMu n)).showFill n

/-! ### The commands -/

/-- FLO_TARGET_COMMIT (R186, R198). -/
def execFloTargetCommit (q : CoreIx) (hi : Word) (s : State) : Host.Outcome State Fault Refusal :=
  .next (s.via (.core q) fun t => t.writeTargetHi (t.rd .FLO_SEL_N q) hi.toNat)

/-- DELAY_STEP (R186, R188). -/
def execDelayStep (n : BpIx) (s : State) : Host.Outcome State Fault Refusal :=
  .next (if s.running n then s.delayStep n else s)

/-- FW_DLY_SLEW_WRITE (R187). -/
def execFwDlySlewWrite (v : BitVec 16) (s : State) : Host.Outcome State Fault Refusal := .next (s.writeDlySlew v.toNat)

/-- DELAY_ESTABLISHED (R185): due once an arrival age has been measured. -/
def execDelayEstablished (n : BpIx) (s : State) : Host.Outcome State Fault Refusal :=
  .next (if delayState s n ≠ 1 ∨ (s.arrivalAge n).isNone then s
    else
      let s1 := (s.refreshMin n).updBp n fun x => { x with dly := { x.dly with since := s.raw } }
      if s1.dMin n ≤ s1.targetOf n then
        (((s1.setApplied n (s1.targetOf n * fine)).enterHeld n).delayRecord n 1).reserveOr n
      else if !s1.is .FLO_CTRL_STRICT n then
        (((s1.setApplied n (s1.marginDelay n * fine)).delayRecord n 1).enterOffset n).reserveOr n
      else s1.enterLost n)

/-- DELAY_LOST (R193, R57). -/
def execDelayLost (n : BpIx) (s : State) : Host.Outcome State Fault Refusal :=
  .next (if (delayState s n = 2 ∨ delayState s n = 3) ∧ 4 ≤ (s.bp n).dly.lates then s.enterLost n else s)

/-- LOST ends: its condition, and NO_GRAINS with it, and STATE returns (R57, R194). -/
def State.leaveLost (s : State) (n : Nat) : State := ((s.sendClear n 0x28).sendClear n 0x23).leaveInvalid n

/-- LOST_MEASURE_DONE (R194): due once grains have come in. -/
def execLostMeasureDone (n : BpIx) (s : State) : Host.Outcome State Fault Refusal :=
  .next (if delayState s n ≠ 4 ∨ (s.arrivalAge n).isNone then s
    else
      let s1 := s.refreshMin n
      let before := (s1.bp n).dly.before
      if before ≠ 1 ∧ s1.minWithin n then
        let s2 := s1.leaveLost n
        if before = 3 ∧ (s1.bp n).dly.applied ≠ s1.targetOf n * fine then
          (s2.wr .FLO_STATUS_DSTATE n 3).updBp n fun x => { x with dly := { x.dly with slackSent := false } }
        else s2.enterHeld n
      else if !s1.is .FLO_CTRL_STRICT n then
        ((((s1.stepFrom n 2).setApplied n (s1.marginDelay n * fine)).leaveLost n).enterOffset n).reserveOr n
      else if s1.dMin n ≤ s1.targetOf n then
        ((((s1.stepFrom n 2).setApplied n (s1.targetOf n * fine)).leaveLost n).enterHeld n).reserveOr n
      else s1)

/-- DELAY_RESTORE (R195). -/
def execDelayRestore (n : BpIx) (s : State) : Host.Outcome State Fault Refusal :=
  .next (if delayState s n = 3 ∧ s.is .FLO_CTRL_RESTORE n ∧ s.dMin n + usQ (s.estabMargin n) ≤ s.targetOf n then
      ((((s.stepFrom n 5).setApplied n (s.targetOf n * fine)).enterHeld n).delayRecord n 4).reserveOr n
    else s)

end Sys2Proof.Machine
end

