-- ==== Sys2Proof/Machine/Guard.lean ====
section
/-!
DEFINITION. The emission guard (08_emission_guard.md R205 to R226): guarded bins and ceilings, spectra and decisions,
the emission headroom, guarded function G2 with its causes and releases, FOREIGN regions, and the EMG and PLN commands.
-/

namespace Sys2Proof.Machine

/-- Guarded bins of the tones that the pilot of port p emits, while it is on. -/
def State.guardedTones (s : State) (p : Nat) : List (Nat × Nat) :=
  let q := (s.port p).pilot
  if q.mode = 0 then [] else (s.pilotEmits p q.mode q.f0 q.shift).map guardedTone

/-! ### Mutes of G2 (R212, R217 to R219, R223) -/

def muteTile : Nat := 8

/-- G2_MUTED and FORBID show the causes held. -/
def State.g2Show (s : State) (n : Nat) : State :=
  let m := (s.bp n).mutes
  (s.wrB .EMG_BP_STATUS_G2_MUTED n (m.any fun c => [muteFine, muteCeiling, muteForbid, muteTile].contains c || decide (32 ≤ c))).wrB
    .EMG_BP_STATUS_FORBID n (m.contains muteForbid)

def State.g2Mute (s : State) (n cause : Nat) : State := (s.mute n cause).g2Show n
def State.g2Unmute (s : State) (n cause : Nat) : State := (s.unmute n cause).g2Show n

/-- A FINE or CEILING trip of band path n: one count while either holds (Table 100). -/
def State.g2Trip (s : State) (n cause : Nat) (bitF : Field) (code : Nat) : State :=
  let m := (s.bp n).mutes
  if m.contains cause then s
  else
    let s1 := if m.contains muteFine ∨ m.contains muteCeiling then s else s.bump .EMG_BP_CEIL_G2_TRIPS n
    ((((s1.set1 bitF n).g2Mute n cause).tally 3 0x06 (s.bp n).decl.dstPort)).sendFault n code

/-- The pilot of port p is muted by a cause; PSTATE of a pilot that is on shows BLOCKED. -/
def State.pilotMute (s : State) (p cause : Nat) : State :=
  if (s.port p).pilot.mutes.contains cause then s
  else
    let s1 := s.updPort p fun x => { x with pilot := { x.pilot with mutes := x.pilot.mutes ++ [cause] } }
    if (s.port p).pilot.mode = 0 then s1 else s1.wr .FE_PILOT_STATUS_PSTATE p 3

/-- A cause ends; the pilot resumes once no cause and no overlap is left (R98, R219). -/
def State.pilotUnmute (s : State) (p cause : Nat) : State :=
  if !(s.port p).pilot.mutes.contains cause then s
  else
    let s1 := s.updPort p fun x => { x with pilot := { x.pilot with mutes := x.pilot.mutes.filter (· != cause) } }
    let q := (s1.port p).pilot
    if q.mutes = [] ∧ q.blocked = false ∧ q.mode ≠ 0 then
      s1.wr .FE_PILOT_STATUS_PSTATE p (if q.mode = 1 then 1 else 4)
    else s1

def pilotGuard : Nat := 1
def pilotOut : Nat := 2
def pilotForbid : Nat := 3
def pilotTile : Nat := 4

/-- A trip of cause PILOT. -/
def State.pilotTrip (s : State) (p : Nat) : State :=
  if (s.port p).pilot.mutes.contains pilotGuard then s
  else ((((s.set1 .EMG_STATUS_PILOT p).bump .EMG_STATUS_G2_PORT_TRIPS p).pilotMute p pilotGuard).tally 3 0x06 p)
    |>.sendFault (0x80 + p) 0x06

/-- A trip of cause OUT: every band path of the window and the pilot. -/
def State.outTrip (s : State) (p : Nat) : State :=
  if (s.port p).outMute then s
  else
    let s1 := (((s.set1 .EMG_STATUS_OUT p).set1 .EMG_STATUS_PORT_MUTED p).bump .EMG_STATUS_G2_PORT_TRIPS p)
      |>.updPort p (fun x => { x with outMute := true, holdOver := false, outSince := false })
      |>.forEach (fun n t => (t.g2Mute n (muteOut p)).set1 .EMG_BP_STATUS_PORT n) (s.windowOut p)
    ((s1.pilotMute p pilotOut).tally 3 0x06 p).sendFault (0x80 + p) 0x05

/-- The OUT mute of port p is released, for the band paths it muted. -/
def State.outRelease (s : State) (p : Nat) : State :=
  (((s.clr .EMG_STATUS_PORT_MUTED p).updPort p fun x => { x with outMute := false, holdOver := false })
    |>.forEach (fun n t => t.g2Unmute n (muteOut p)) (allBps.filter fun n => (s.bp n).mutes.contains (muteOut p)) |>.pilotUnmute p pilotOut).sendClear (0x80 + p) 0x05

/-- A bin of the range lies in a damaged tile (R223). -/
def State.tileBroken (s : State) (g : Nat × Nat) : Bool :=
  (s.plain.damaged ++ s.plain.lost).any fun t => binsMeet g (2048 * t, 2048 * t + 2047)

/-- A bin of the range is forbidden for port p whatever the damaged tiles, which count as TILE and not as FORBID (R212,
R223). -/
def State.rangeForbidden (s : State) (p : Nat) (g : Nat × Nat) : Bool :=
  ({ s with plain := { s.plain with damaged := [], lost := [] } } : State).anyForbidden p g.1 g.2

/-- FORBID and TILE of one band path at a tick boundary. -/
def State.forbidTick (s : State) (n : Nat) : State :=
  let p := (s.bp n).decl.dstPort
  let g := s.guarded n
  let held := (s.bp n).mutes
  let s1 := if s.rangeForbidden p g then
      if held.contains muteForbid then s else (s.g2Mute n muteForbid).sendFault n 0x07
    else if held.contains muteForbid then (s.g2Unmute n muteForbid).sendClear n 0x07 else s
  if s1.tileBroken g then
    if held.contains muteTile then s1
    else
      let s2 := s1.g2Mute n muteTile
      if s2.hasCond (0x80 + p) 0x08 then s2 else s2.sendFault (0x80 + p) 0x08
  else if held.contains muteTile then s1.g2Unmute n muteTile else s1

/-- FORBID and TILE of a port's pilot, and the port's TILE bit: the window reaches 1.2 GHz to either side (R41). -/
def State.portGuardTick (s : State) (p : Nat) : State :=
  let tones := s.guardedTones p
  let held := (s.port p).pilot.mutes
  let s1 := if tones.any (s.rangeForbidden p) then
      if held.contains pilotForbid then s else (s.pilotMute p pilotForbid).sendFault (0x80 + p) 0x07
    else if held.contains pilotForbid then (s.pilotUnmute p pilotForbid).sendClear (0x80 + p) 0x07 else s
  let s2 := if tones.any s1.tileBroken then
      if held.contains pilotTile then s1
      else
        let t := s1.pilotMute p pilotTile
        if t.hasCond (0x80 + p) 0x08 then t else t.sendFault (0x80 + p) 0x08
    else s1.pilotUnmute p pilotTile
  let c := match (s2.port p).centres with | some c => c.2 | none => (s2.staged p).2
  let tile := s2.tileBroken ((c - 1200 * mhz) / 256, (c + 1200 * mhz) / 256)
  let s3 := s2.wrB .EMG_STATUS_TILE p tile
  if tile then s3 else s3.sendClear (0x80 + p) 0x08

/-- A band path that emits on no port holds neither FORBID nor TILE: it has no guarded bin (R211, R212). -/
def State.guardFree (s : State) (n : Nat) : State :=
  let s1 := if (s.bp n).mutes.contains muteForbid then (s.g2Unmute n muteForbid).sendClear n 0x07 else s
  if (s.bp n).mutes.contains muteTile then s1.g2Unmute n muteTile else s1

/-- Ranges committed since the last tick boundary begin to act, and the fast ceilings follow (R204, R213). -/
def State.rangesAct (s : State) : State :=
  if s.plain.acting = s.plain.ranges then s
  else ({ s with plain := { s.plain with acting := s.plain.ranges } }).forEach (fun p t => t.refreshCeilings p) allPorts

/-- The guard's work at a tick boundary: committed ranges and damaged tiles act on band paths and pilots (R204, R212,
R223). -/
def State.guardTick (s : State) : State :=
  let s1 := s.rangesAct
  (s1.forEach (fun n t => if t.emits n then t.forbidTick n else t.guardFree n) (allBps.filter s1.running)).forEach
    (fun p t => t.portGuardTick p) allPorts

/-! ### Spectra and means (R205, R207) -/

/-- M = 2^INT spectra; INT below 2 acts as 2, above 4 as 4. -/
def State.spectraM (s : State) (p : Nat) : Nat := 2 ^ max 2 (min 4 (s.rd .EMG_CTRL_INT p))

/-- The last M spectra, when all of them are valid. -/
def State.meanOf (s : State) (p : Nat) : Option (List Spectrum) :=
  let xs := (s.port p).spectra.take (s.spectraM p)
  if xs.length = s.spectraM p ∧ xs.all (·.valid) then some xs else none

/-- Sums of power by bin over the spectra; an unlisted bin carried none. -/
def powerSums (xs : List Spectrum) : Store Nat :=
  xs.foldl (fun m x => x.power.foldl (fun m b => Store.set (fun _ => 0) m b.1 (Store.get (fun _ => 0) m b.1 + b.2)) m) []

/-- Unit of power: 10^-30 mW. -/
def powerUnit : Nat := 10 ^ 30

/-- The mean `sum / m` is at least `lim` (1/128 dB). -/
def meanAtLeast (sum m : Nat) (lim : Int) : Bool := tenAtMost false lim sum (m * powerUnit) 1280

/-- TRIP_DB in 1/128 dB; the loader bounds it. -/
def State.tripDb (s : State) : Int := (s.rd .EMG_LIMIT_TRIP_DB : Nat)

/-- The observation attenuator that the front end applies (R208). -/
def State.obsAtt (s : State) (p : Nat) : Nat := min (s.port p).att.2.2 (s.rd .EMG_LIMIT_OBS_ATT_MAX)

/-- The bins that the band paths and the pilot of port p guard now: unit n, or 128 for the pilot. -/
def State.guardsNow (s : State) (p : Nat) : List (Nat × Nat × Nat) :=
  (s.windowOut p).map (fun n => (n, s.guarded n)) ++ (s.guardedTones p).map (fun g => (128, g))

/-- What is guarded now counts for the spectrum that runs (R217). -/
def State.noteGuards (s : State) (p : Nat) : State :=
  s.updPort p fun x => { x with guards := (x.guards ++ s.guardsNow p).dedup }

/-- What was guarded at any time of the spectra, old bins and new (R217), by band paths that run and by a pilot that is on. -/
def State.guardList (s : State) (p : Nat) (xs : List Spectrum) : List (Nat × Nat × Nat) :=
  (xs.flatMap (·.guarded)).dedup.filter fun g => if g.1 = 128 then (s.port p).pilot.mode != 0 else s.running g.1

/-- Units that guard bin k. -/
def guardsOf (gs : List (Nat × Nat × Nat)) (k : Nat) : List Nat :=
  ((gs.filter fun g => decide (g.2.1 ≤ k ∧ k ≤ g.2.2)).map (·.1)).dedup

/-- The FOREIGN regions of port p that hold bin k (R220). -/
def State.foreignAt (s : State) (p k : Nat) : List Foreign :=
  (s.port p).foreign.filter fun f => decide (f.first ≤ k ∧ k ≤ f.last)

/-- Bin k with summed power `sum` over m spectra breaks its limit by TRIP_DB (R217). -/
def State.excess (s : State) (p k sum m : Nat) : Bool :=
  !s.guardView.forbidden p k && meanAtLeast sum m (s.guardView.limitOf p k + s.tripDb)

/-- The same for cause OUT: in a FOREIGN bin the reference counts as well (R220). -/
def State.outExcess (s : State) (p k sum m : Nat) : Bool :=
  s.excess p k sum m && (s.foreignAt p k).all fun f =>
    let r := ((f.refs.find? (·.1 == k)).getD (k, 0)).2
    tenAtMost false s.tripDb (sum * f.spectra) (max 1 r * m) 1280

/-- The bins of a mean that break their limit and that nothing guards. -/
def State.outBins (s : State) (p : Nat) (xs : List Spectrum) : List (Nat × Nat) :=
  let gs := s.guardList p xs
  (powerSums xs).filter fun b => (guardsOf gs b.1).isEmpty && s.outExcess p b.1 b.2 xs.length

/-! ### The emission headroom (R215) -/

/-- h_E of band path n in steps of 0.002 dB, from the summed power of M spectra. -/
def State.headroom (s : State) (n m : Nat) (sums : Store Nat) : Int :=
  let p := (s.bp n).decl.dstPort
  let g := s.guarded n
  let all := (s.windowOut p).map s.guarded
  let floor := s.rdS .EMG_FLOOR_N p + 256 * (s.obsAtt p : Int) + 384
  let used := sums.filter fun b => decide (g.1 ≤ b.1 ∧ b.1 ≤ g.2) && !s.guardView.forbidden p b.1 &&
    !tenAtMost false (0 - floor) (m * powerUnit) b.2 1280
  let hs := used.map fun b =>
    logRound 5000 (m * powerUnit) b.2 (125 * (s.guardView.limitOf p b.1 - s.rdS .EMG_BP_CTRL_EMIT_BACKOFF n)) 32
      (max 1 (all.filter fun r => decide (r.1 ≤ b.1 ∧ b.1 ≤ r.2)).length)
  match hs with
  | [] => 3000
  | h :: rest => clampI (-32768) 32767 (rest.foldl min h)

/-- EMG_WORST: the listed bin of largest O_k minus effective limit (Table 102). -/
def State.worst (s : State) (p m : Nat) (sums : Store Nat) : Option (Nat × Int) :=
  ((sums.filter fun b => !s.guardView.forbidden p b.1 && b.2 != 0).map fun b =>
    (b.1, logRound 1280 b.2 (m * powerUnit) (-(s.guardView.limitOf p b.1)) 1 1)).foldl
      (fun w b => match w with | none => some b | some v => if v.2 < b.2 then some b else some v) none

/-! ### Releases of OUT (R219, R220) -/

/-- The runs of consecutive bins of an ascending list, each widened by 4 on each side (R220). -/
def widen : List Nat → List (Nat × Nat) → List (Nat × Nat)
  | [], acc => acc.reverse
  | k :: ks, [] => widen ks [(k - 4, k + 4)]
  | k :: ks, (a, b) :: acc => if k + 3 = b then widen ks ((a, k + 4) :: acc) else widen ks ((k - 4, k + 4) :: (a, b) :: acc)

/-- HOLD has passed: the latest valid mean taken wholly under the mute decides. -/
def State.outReview (s : State) (p : Nat) : State :=
  match s.meanOf p with
  | none => s
  | some xs =>
    if !xs.all (·.muted) then s
    else
      let bins := s.outBins p xs
      if bins = [] then s.outRelease p
      else
        let runs := widen (bins.map (·.1)) []
        let held := (s.port p).foreign
        if !s.is .EMG_LIMIT_FOREIGN_EN ∨ 16 < held.length + runs.length then s
        else
          let sums := powerSums xs
          let new := runs.map fun r =>
            (⟨r.1, r.2, sums.filter fun b => decide (r.1 ≤ b.1 ∧ b.1 ≤ r.2), xs.length⟩ : Foreign)
          let s1 := (s.updPort p fun x => { x with foreign := x.foreign ++ new }).wr .EMG_STATUS_FOREIGN_N p
            (held.length + new.length)
          (s1.sendFault (0x80 + p) 0x17).outRelease p

/-! ### The commands -/

/-- The bins that a spectrum of port p keeps: those about the applied centre, up to bin 16,777,215 (R205). -/
def State.keepsBin (s : State) (p k : Nat) : Bool :=
  let c := (s.centresOf p).2 / 256
  decide (c ≤ k + 2457600 ∧ k ≤ c + 2457599 ∧ k ≤ 16777215)

/-- SPECTRUM_DONE (R205, R207): the powers of one spectrum, bin by bin, and how many samples of it saturated in the
observation converter. -/
def execSpectrumDone (p : PortIx) (power : PowerSpectrum) (s : State) : Host.Outcome State Fault Refusal :=
  .next (
    let x := s.port p
    let clear := decide (s.feState p = 3) && x.move.isNone
    let now := s.guardsNow p
    let sp : Spectrum := ⟨clear && !x.obsBroken, x.outMute && x.outSince, power.bins.filter (fun b => s.keepsBin p b.1),
      (x.guards ++ now).dedup⟩
    (s.setPort p { x with
      spectra := (sp :: x.spectra).take 16, obsBroken := !clear, outSince := x.outMute, guards := now }).tally 3 0x04 p |>.tally 5 0x02 p power.saturated)

/-- The trips of one decision (R217): FINE, PILOT and OUT. -/
def State.decide' (s : State) (p : Nat) (xs : List Spectrum) : State :=
  let sums := powerSums xs
  let gs := s.guardList p xs
  let hot := sums.filter fun b => s.excess p b.1 b.2 xs.length
  let units := (hot.flatMap fun b => guardsOf gs b.1).dedup
  let s1 := s.forEach (fun u t =>
    if u = 128 then t.pilotTrip p else t.g2Trip u muteFine .EMG_BP_STATUS_FINE 0x03) units
  if s.outBins p xs ≠ [] then s1.outTrip p else s1

/-- G2_DECISION (R207, R215, R217): headroom for every band path of the port, the worst bin, and the trips. A muted port
whose HOLD has passed is looked at again. -/
def execG2Decision (p : PortIx) (s : State) : Host.Outcome State Fault Refusal :=
  .next (match s.meanOf p with
    | none => s
    | some xs =>
      let sums := powerSums xs
      let m := xs.length
      let s1 := s.forEach (fun n t =>
        let h := s.headroom n m sums
        (t.wr .EMG_BP_STATUS_H_E n (wrapBits 16 h)).updBp n fun x => { x with eng := { x.eng with emit := some (unit * h) } })
        (s.windowOut p)
      let s2 := match s.worst p m sums with
        | none => s1
        | some w => (s1.wr .EMG_WORST_BIN_BIN p w.1).wr .EMG_WORST_EXCESS p (satBits 16 w.2)
      let s3 := (s2.tally 3 0x05 p).decide' p xs
      if (s3.port p).outMute && (s3.port p).holdOver then s3.outReview p else s3)

/-- S of R214: CEIL_LOG2 below 6 acts as 6, above 12 as 12. -/
def State.ceilS (s : State) : Nat := 2 ^ max 6 (min 12 (s.rd .EMG_LIMIT_CEIL_LOG2))

/-- The largest sum of `ps` over S neighbours as the window slides by up to `k` samples: `cur` is the sum at the present place,
`far` what lies S further on. -/
def slideMax : Nat → Nat → Nat → List Nat → List Nat → Nat
  | cur, best, k + 1, a :: near, far =>
    let nx := cur - a + far.headD 0
    slideMax nx (max best nx) k near far.tail
  | _, best, _, _, _ => best

/-- The fast ceiling of a band path that emits on a port, at each of the newest 64 output samples of the gain stage (R214). -/
def State.ceilingReview (s : State) (n : Nat) : State :=
  if !(s.running n && s.emits n) then s
  else
    let ps := (s.bp n).powers
    let first := (ps.take s.ceilS).sum
    if tenAtMost true (s.rdS .EMG_BP_CEIL_CEIL n) (slideMax first first 63 ps (ps.drop s.ceilS)) (s.ceilS * 32767 ^ 2) 5000 then
      s.g2Trip n muteCeiling .EMG_BP_STATUS_CEILING 0x04
    else s

/-- G2_CEILING (R214): `power` is the sum of I² + Q² over the last S output samples of the gain stage. -/
def execG2Ceiling (n : BpIx) (power : Nat) (s : State) : Host.Outcome State Fault Refusal :=
  .next (if s.running n && s.emits n &&
      tenAtMost true (s.rdS .EMG_BP_CEIL_CEIL n) power (s.ceilS * 32767 ^ 2) 5000 then
    s.g2Trip n muteCeiling .EMG_BP_STATUS_CEILING 0x04 else s)

/-- G2_RELEASE (R219): HOLD ms after the detection. -/
def execG2Release (m : G2Mute) (s : State) : Host.Outcome State Fault Refusal :=
  .next (match m with
    | .fine n => if (s.bp n).mutes.contains muteFine then (s.g2Unmute n muteFine).sendClear n 0x03 else s
    | .ceiling n => if (s.bp n).mutes.contains muteCeiling then (s.g2Unmute n muteCeiling).sendClear n 0x04 else s
    | .pilot p => if (s.port p).pilot.mutes.contains pilotGuard then (s.pilotUnmute p pilotGuard).sendClear (0x80 + p) 0x06
        else s
    | .out p => if (s.port p).outMute then
        (s.updPort p fun x => { x with holdOver := true }).outReview p else s)

/-- FOREIGN_REGION_END (R220). -/
def execForeignRegionEnd (p : PortIx) (r : Fin 16) (s : State) : Host.Outcome State Fault Refusal :=
  .next (
    let f := (s.port p).foreign
    if f.length ≤ r then s
    else
      let s1 := (s.updPort p fun x => { x with foreign := x.foreign.eraseIdx r }).wr .EMG_STATUS_FOREIGN_N p (f.length - 1)
      if f.length = 1 then s1.sendClear (0x80 + p) 0x17 else s1)

/-- PLN_RD_DATA shows the bin and port of PLN_RD_ADDR (R226). -/
def State.showPlain (s : State) : State :=
  let k := s.rd .PLN_RD_ADDR_BIN
  let p := s.rd .PLN_RD_ADDR_PORT
  (s.wr .PLN_RD_DATA_ENTRY 0 (s.plainEntry k)).wr .PLN_RD_DATA_EFF 0
    (if s.forbidden p k then forbiddenMark else wrapBits 16 (s.limitOf p k))

/-- PLN_T_FIRST written: range R_SEL is committed with the values held (R204). The configuration check uses it at once, the
rest of the guard from the next tick boundary. -/
def State.commitRange (s : State) (w : Nat) : State :=
  let s1 := (s.wr .PLN_T_FIRST_FIRST 0 (bits 0 24 w)).wr .PLN_T_FIRST_EN 0 (bits 31 1 w)
  let t : Tighten := { first := bits 0 24 w, last := s.rd .PLN_T_LAST_LAST, limit := s.rd .PLN_T_LIM_LIMIT,
                       ports := s.rd .PLN_T_LIM_PORTS, en := bit 31 w }
  ({ s1 with plain := { s1.plain with
      ranges := Store.set (fun _ => none) s1.plain.ranges (s.rd .PLN_T_SEL_R_SEL) (some t) } }).showPlain

/-- PLN_T_FIRST_WRITE (R204). -/
def execPlnTFirstWrite (w : Word) (s : State) : Host.Outcome State Fault Refusal := .next (s.commitRange w.toNat)

/-- EMIT_BACKOFF is stored, at least BACKOFF_MIN (R216). -/
def State.writeBackoff (s : State) (n v : Nat) : State :=
  if signed 16 v < s.rdS .EMG_LIMIT1_BACKOFF_MIN then
    (s.wr .EMG_BP_CTRL_EMIT_BACKOFF n (s.rd .EMG_LIMIT1_BACKOFF_MIN)).set1 .EMG_BP_STATUS_BACKOFF_CLAMP n
  else s.wr .EMG_BP_CTRL_EMIT_BACKOFF n v

/-- EMIT_BACKOFF_WRITE (R216). -/
def execEmitBackoffWrite (q : CoreIx) (v : BitVec 16) (s : State) : Host.Outcome State Fault Refusal :=
  .next (s.via (.core q) fun t => t.writeBackoff (t.rd .EMG_SEL_N q) v.toNat)

/-- PLN_RD_ADDR written: the entry and the effective limit are fetched (R226). -/
def State.readPlain (s : State) (w : Nat) : State :=
  ((s.wr .PLN_RD_ADDR_BIN 0 (bits 0 24 w)).wr .PLN_RD_ADDR_PORT 0 (bits 24 2 w)).showPlain

/-- PLN_RD_ADDR_WRITE (R226). -/
def execPlnRdAddrWrite (w : Word) (s : State) : Host.Outcome State Fault Refusal := .next (s.readPlain w.toNat)

/-! ### Damaged Plain tiles (R223) -/

/-- A Plain tile is damaged: counted, to be rebuilt in a tile from the pool. -/
def State.plainDamaged (s : State) (place : Nat) : State :=
  if s.plain.damaged.contains place then s
  else ((({ s with plain := { s.plain with damaged := s.plain.damaged ++ [place] } }).bump .PLN_STATUS_BAD_TILES).set1
    .PLN_STATUS_REBUILD).showPlain

/-- The rebuild of the tile ends well or badly; then every port whose transmit window covers it reports PLAIN_LOST. -/
def State.plainRebuilt (s : State) (place : Nat) (ok : Bool) : State :=
  if !s.plain.damaged.contains place then s
  else
    let left := s.plain.damaged.filter (· != place)
    let s1 := { s with plain := { s.plain with damaged := left, lost := if ok then s.plain.lost else place :: s.plain.lost } }
    let s2 := (s1.wrB .PLN_STATUS_REBUILD 0 (left != [])).showPlain
    if ok then s2
    else s2.forEach (fun p t =>
      let c := match (t.port p).centres with | some c => c.2 | none => (t.staged p).2
      if binsMeet ((c - 1200 * mhz) / 256, (c + 1200 * mhz) / 256) (2048 * place, 2048 * place + 2047) then
        t.sendFault (0x80 + p) 0x18 else t) allPorts

end Sys2Proof.Machine
end

