-- ==== Sys2Proof/Machine/Pilot.lean ====
section
/-!
DEFINITION. The pilot of a port (03_front_end.md R95 to R101): the MODE check, acquisition and the forward delay.
-/

namespace Sys2Proof.Machine

/-- Power of an initiator's tone at the connector in 1/128 dBm: 0 dBFS stands at +10 dBm − 0.5 × TX_ATT, as R213 uses
it; a LEVEL below 20 acts as 20 (Table 49). -/
def State.toneLevel (s : State) (p : Nat) : Int :=
  1280 - 128 * (max 20 (s.rd .FE_PILOT_CTRL_LEVEL p) : Nat) - 64 * ((s.port p).att.2.1 : Int)

/-- The MODE check of R97: 0 when the pilot passes, else the code of Table 40. What a responder returns has the level it
receives, so the mask is tested for an initiator only. -/
def State.modeCode (s : State) (p mode f0 shift : Nat) : Nat :=
  let c := s.checkCentres p
  let emits := s.pilotEmits p mode f0 shift
  if emits.any (fun f => !toneIn c.2 f || s.toneForbidden p f ||
        (mode == 1 && decide (s.limitOf p (f / 256).toNat < s.toneLevel p))) ||
      (s.pilotReceives p mode f0 shift).any (fun f => !toneIn c.1 f) then 3
  else if s.pilotBlocked p mode f0 shift then 4
  else 0

/-- MODE written; 3 acts as 0. The frequencies are taken when MODE passes through 0 (R97). A write from 1 to 2 or from 2 to 1
is checked with the frozen frequencies, and keeps the old MODE when it fails (DESIGN CHOICE, log entry 29). -/
def State.writePilotMode (s : State) (p mode : Nat) : State :=
  let q := (s.port p).pilot
  let m := if mode = 3 then 0 else mode
  if m = 0 then
    ((s.wr .FE_PILOT_CTRL_MODE p mode).wr .FE_PILOT_STATUS_PSTATE p 0).updPort p fun x =>
      { x with pilot := { x.pilot with mode := 0, blocked := false } }
  else if q.mode = m then s.wr .FE_PILOT_CTRL_MODE p mode
  else
    let f0 := if q.mode = 0 then s.rd .FE_PILOT_FREQ_FREQ p else q.f0
    let shift := if q.mode = 0 then s.rd .FE_PILOT_SHIFT_FREQ p else q.shift
    let code := s.modeCode p m f0 shift
    let s1 := s.wr .FE_STATUS_REJECT p code
    if code ≠ 0 then s1
    else
      let s2 := (s1.wr .FE_PILOT_CTRL_MODE p mode).updPort p fun x =>
        { x with pilot := { x.pilot with mode := m, f0 := f0, shift := shift, blocked := false } }
      let s3 := s2.wr .FE_PILOT_STATUS_PSTATE p (if q.mutes ≠ [] then 3 else if m = 1 then 1 else 4)
      if m = 2 then s3.wr2 .FE_PILOT_DLY_LO_DLY_LO .FE_PILOT_DLY_HI_DLY_HI p (Config.pilotTurnaround p) else s3

/-- FE_PILOT_MODE (R97, R101). -/
def execFePilotMode (p : PortIx) (mode : Fin 4) (s : State) : Host.Outcome State Fault Refusal :=
  .next (s.writePilotMode p mode)

/-- PILOT_LOCKED (R99). -/
def execPilotLocked (p : PortIx) (s : State) : Host.Outcome State Fault Refusal :=
  .next (if s.rd .FE_PILOT_STATUS_PSTATE p = 1 then s.wr .FE_PILOT_STATUS_PSTATE p 2 else s)

/-- PILOT_LOW_LEVEL (R99). -/
def execPilotLowLevel (p : PortIx) (s : State) : Host.Outcome State Fault Refusal :=
  .next (if s.rd .FE_PILOT_STATUS_PSTATE p = 1 then s.set1 .FE_PILOT_STATUS_LOW_LEVEL p else s)

/-- One turn in the units of a measured lag. -/
def turn : Int := 2 ^ 40

/-- The round trip in units of 2^-40 × 15.625 ns from the three lags and the prior estimate; none when a test of R99
finds it ambiguous. Times run in units of 2^-40 ns. -/
def roundTrip (lag1 lag2 lag3 prior : Nat) : Option Int :=
  let t1 : Int := 64000 * lag1
  let t1 := if prior = 0 then t1 else t1 + 64000 * turn * roundDiv (prior * turn - t1) (64000 * turn).toNat
  let k2 := roundDiv (t1 - 1000 * lag2) (1000 * turn).toNat
  if 250 * turn < (t1 - 1000 * (k2 * turn + lag2)).natAbs then none
  else
    let t2 := k2 * turn + lag2
    let k3 := roundDiv (64 * t2 - lag3) turn.toNat
    if turn < 4 * (64 * t2 - (k3 * turn + lag3)).natAbs then none else some (k3 * turn + lag3)

/-- PILOT_MEASURE_DONE (R99): the lags of tones 1 to 3 behind tone 0, in units of 2^-40 turn. -/
def execPilotMeasureDone (p : PortIx) (lag1 lag2 lag3 : BitVec 40) (s : State) : Host.Outcome State Fault Refusal :=
  .next (if s.rd .FE_PILOT_STATUS_PSTATE p ≠ 2 then s
    else match roundTrip lag1.toNat lag2.toNat lag3.toNat (s.rd .FE_PILOT_PRIOR_PRIOR p) with
      | none => s.set1 .FE_PILOT_STATUS_AMBIG p
      | some x =>
        let lat : Int := (s.rd .FE_TX_LAT_LAT p + s.rd .FE_RX_LAT_LAT p + s.rd .FE_PILOT_TURN_TURN p : Nat)
        let fwd := roundDiv (1024000 * x - lat * turn) (2 * turn).toNat + s.rdS .FE_PILOT_SPLIT_SPLIT p
        (((s.wr2 .FE_PILOT_DLY_LO_DLY_LO .FE_PILOT_DLY_HI_DLY_HI p (wrapBits 48 fwd)).set1 .FE_PILOT_STATUS_FRESH p).roll
          .FE_PILOT_STATUS_COUNT p).tally 5 0x05 p)

end Sys2Proof.Machine
end

