-- ==== Sys2Proof/Machine/Lanes.lean ====
section
/-!
DEFINITION. Frames, credits and lanes (10_col_fabric.md R258 to R265, R283 to R285; 02_band_paths.md R46): what a frame
spells, the send queue with its order and credits, the keep store, and the receive buffers.
-/

namespace Sys2Proof.Machine

/-! ### Grains as frame words (R46, R258) -/

def word64 (v : Nat) : Word64 := BitVec.ofNat 64 v

/-- The 36 words of a grain, two samples a word. -/
def pairWords : List Word → List Word64
  | a :: b :: rest => word64 (a.toNat + b.toNat * 2 ^ 32) :: pairWords rest
  | [a] => [word64 a.toNat]
  | [] => []

def grainWords (g : Grain) : List Word64 :=
  word64 g.ts :: word64 (g.ts / 2 ^ 64 % 2 ^ 16 + streamField g * 2 ^ 16) :: g.valid :: g.flags :: pairWords g.samples

/-- The grain that 36 words spell. -/
def wordsGrain (ws : List Word64) : Grain :=
  let w := fun i => (ws.getD i 0).toNat
  let st := w 1 / 2 ^ 16
  { ts := w 0 + w 1 % 2 ^ 16 * 2 ^ 64, node := bits 0 12 st, bp := bits 12 7 st, seq := bits 20 28 st
    valid := ws.getD 2 0, flags := ws.getD 3 0
    samples := (ws.drop 4).flatMap fun x => [BitVec.ofNat 32 x.toNat, BitVec.ofNat 32 (x.toNat / 2 ^ 32)] }

/-! ### Traffic classes and credits (R261) -/

def PerClass.get (x : PerClass) (c : Nat) : Nat :=
  if c = 0 then x.time else if c = 1 then x.band else if c = 2 then x.mgmt else x.bulk

def PerClass.add (x : PerClass) (c k : Nat) : PerClass :=
  if c = 0 then { x with time := x.time + k } else if c = 1 then { x with band := x.band + k }
  else if c = 2 then { x with mgmt := x.mgmt + k } else { x with bulk := x.bulk + k }

def PerClass.sub (x : PerClass) (c k : Nat) : PerClass :=
  if c = 0 then { x with time := x.time - k } else if c = 1 then { x with band := x.band - k }
  else if c = 2 then { x with mgmt := x.mgmt - k } else { x with bulk := x.bulk - k }

/-- The module's own buffers, in blocks (R263). -/
def ownBuf : PerClass := { time := 64, band := 32768, mgmt := 2048, bulk := 1024 }

/-- The credit field of a class. -/
def creditField (c : Nat) : Field :=
  if c = 0 then .LANE_CREDIT_TIME else if c = 1 then .LANE_CREDIT_BAND else if c = 2 then .LANE_CREDIT1_MGMT
  else .LANE_CREDIT1_BULK

/-- Blocks of a frame: LEN + 2 (R261). -/
def frameBlocks (f : Frame) : Nat := f.words.length + 2

def State.laneState (s : State) (l : Nat) : Nat := s.rd .LANE_STATUS_STATE l
def State.laneUp (s : State) (l : Nat) : Bool := s.laneState l == 3

/-- The lanes of cage c, and those of them that are UP. -/
def cageLanes (c : Nat) : List Nat := [4 * c, 4 * c + 1, 4 * c + 2, 4 * c + 3]
def State.upLanes (s : State) (c : Nat) : List Nat := (cageLanes c).filter s.laneUp

/-- Blocks of a class leave the receive buffer of lane l and count as freed (R283); of a lane that is not UP they free
nothing (R284). -/
def State.freeBlocks (s : State) (l c k : Nat) : State :=
  if s.laneUp l then s.updLane l fun x => { x with held := x.held.sub c k, freed := x.freed.add c k } else s

/-! ### Sending (R260) -/

/-- Rank of a frame at a frame boundary: TIME, BAND with a reservation, MGMT, BAND marked UNRES, BULK. -/
def frameRank (f : Frame) : Nat :=
  if f.cls = 0 then 0 else if f.cls = 1 then (if f.unres then 3 else 1) else if f.cls = 2 then 2 else 4

/-- The first frame of the best rank that has credits, and the queue without it. -/
def pickFrame (credit : Nat → Nat) (rank : Nat) : List QFrame → Option (QFrame × List QFrame)
  | [] => none
  | q :: rest =>
    if frameRank q.frame = rank then (if frameBlocks q.frame ≤ credit q.frame.cls then some (q, rest) else none)
    else (pickFrame credit rank rest).map fun r => (r.1, q :: r.2)

/-- The frame that the lane sends next. -/
def State.nextFrame (s : State) (l : Nat) : Option (QFrame × List QFrame) :=
  [0, 1, 2, 3, 4].findSome? fun r => pickFrame (fun c => s.rd (creditField c) l) r (s.lane l).queue

/-- A BAND frame sent on lane l is kept until it is confirmed; a full store of 4,480 drops its oldest copy (R192). -/
def State.keepFrame (s : State) (l : Nat) (f : Frame) : State :=
  if f.cls ≠ 1 then s
  else
    let full := decide (4480 ≤ (s.lane l).kept.length)
    let k := (s.lane l).keptNext
    let s1 := s.updLane l fun x => { x with
      kept := (if full then x.kept.drop 1 else x.kept) ++ [⟨k, f⟩], keptNext := (k + 1) % 4480
      filling := (if k % 14 = 0 then [] else x.filling) ++ [f] }
    let bytes := tilePayload ((s1.lane l).filling.map fun g => g.words.flatMap fun w => leBytes 8 w.toNat)
    let s2 := (if k % 14 = 13 then s1.tileWritten (s.holderOf (keepTile l k)) bytes else s1).wr .LANE_COUNT_KEPT l
      (s1.lane l).kept.length
    if full then s2.bump .GRG_KEEP_KEEP_DROP else s2

/-- One frame goes onto the fibre: its credits are used, its copy kept, the buffer it waited in freed. -/
def State.sendNow (s : State) (l : Nat) (q : QFrame) (rest : List QFrame) : State :=
  let f := q.frame
  let cf := creditField f.cls
  let s1 := ((s.updLane l fun x => { x with queue := rest, fibre := x.fibre ++ [f] }).wr cf l (s.rd cf l - frameBlocks f))
    |>.keepFrame l f |>.tally 1 0x01 l 1 f.cls |>.tally 1 0x03 l (frameBlocks f) f.cls
  let s2 := if f.cls = 1 ∧ f.unres then s1.tally 1 0x08 l 1 1 else s1
  match q.fromLane with
  | some r => (if f.cls = 1 then s2.tally 1 0x06 l 1 1 else s2).freeBlocks r f.cls (frameBlocks f)
  | none => s2

/-- Send while a frame is ready and has credits; at most as many as wait. -/
def State.pump (s : State) (l : Nat) : Nat → State
  | 0 => s
  | k + 1 => match s.nextFrame l with
    | none => s
    | some (q, rest) => (s.sendNow l q rest).pump l k

/-- A frame is queued on lane l. On a lane that is not UP it can be sent nowhere (R276). -/
def State.queueFrame (s : State) (l : Nat) (q : QFrame) : State :=
  if s.laneUp l then
    let s1 := s.updLane l fun x => { x with queue := x.queue ++ [q] }
    s1.pump l (s1.lane l).queue.length
  else
    let s1 := (s.bump .COL_COUNT1_NO_ROUTE).tally 1 0x05 l 1 q.frame.cls
    match q.fromLane with
    | some r => s1.freeBlocks r q.frame.cls (frameBlocks q.frame)
    | none => s1

def State.sendFrame (s : State) (l : Nat) (f : Frame) : State := s.queueFrame l { frame := f }

/-! ### Messages (R278, Table 123) -/

/-- The module's node address for SRC_NODE: 0 while it holds none (R267). -/
def State.nodeAddr (s : State) : Nat := if s.is .COL_NODE_VALID then s.rd .COL_NODE_ADDR else 0

/-- The module's identity. -/
def State.uid (s : State) : Nat := s.rd2 .COL_ID_LO_ID_LO .COL_ID_HI_ID_HI

/-- HOPMAX: 2 to 30 (Table 125). -/
def State.hopMax (s : State) : Nat := max 2 (min 30 (s.rd .COL_CTRL_HOPMAX))

/-- Word 0 of a MGMT message; `arg` starts at bit 40. -/
def msgWord (mtype node bp : Nat) (rid : Bool) (gen arg : Nat) : Word64 :=
  word64 (place 0 8 mtype + place 8 4 1 + place 12 12 node + place 24 7 bp + place 31 1 (flag rid) + place 32 8 gen +
    place 40 24 arg)

/-- Fields of word 0. -/
def msgW (f : Frame) (i : Nat) : Nat := (f.words.getD i 0).toNat
def msgType (f : Frame) : Nat := bits 0 8 (msgW f 0)
def msgVer (f : Frame) : Nat := bits 8 4 (msgW f 0)
def msgNode (f : Frame) : Nat := bits 12 12 (msgW f 0)
def msgBp (f : Frame) : Nat := bits 24 7 (msgW f 0)
def msgRid (f : Frame) : Bool := bit 31 (msgW f 0)
def msgGen (f : Frame) : Nat := bits 32 8 (msgW f 0)

/-- A local MGMT frame and a routed one (Table 120). -/
def State.localMsg (s : State) (ws : List Word64) : Frame :=
  { cls := 2, dest := 0, src := s.nodeAddr, isLocal := true, words := ws }
def State.routedMsg (s : State) (dest : Nat) (ws : List Word64) : Frame :=
  { cls := 2, dest := dest, src := s.nodeAddr, ttl := s.hopMax, words := ws }

/-- The cage toward a destination by PRIMARY or ALT; 4 stands for none (R270). -/
def State.primaryOf (s : State) (d : Nat) : Nat := Store.get (fun _ => 4) s.col.primary d
def State.altOf (s : State) (d : Nat) : Nat := Store.get (fun _ => 4) s.col.alt d

/-- A frame is sent toward its destination by PRIMARY, on the lowest UP lane of that cage; without one it is discarded
and counted in NO_ROUTE (R276, R278). -/
def State.routeQ (s : State) (q : QFrame) : State :=
  match s.upLanes (s.primaryOf q.frame.dest) with
  | l :: _ => s.queueFrame l q
  | [] =>
    let s1 := s.bump .COL_COUNT1_NO_ROUTE
    match q.fromLane with
    | some r => (s1.freeBlocks r q.frame.cls (frameBlocks q.frame)).tally 1 0x05 r 1 q.frame.cls
    | none => s1

def State.sendRouted (s : State) (dest : Nat) (ws : List Word64) : State := s.routeQ { frame := s.routedMsg dest ws }

/-- The cage whose UP lanes reach node `d`, if any. -/
def State.cageTo (s : State) (d : Nat) : Option Nat :=
  (List.range 4).find? fun c => (s.upLanes c).any fun l => s.is .LANE_PEER_NODE_VALID l && s.rd .LANE_PEER_NODE l == d

/-- A hop-by-hop message to node `d`, on the lowest UP lane that reaches it. -/
def State.sendHop (s : State) (d : Nat) (ws : List Word64) : State :=
  match s.cageTo d with
  | none => s.bump .COL_COUNT1_NO_ROUTE
  | some c => match s.upLanes c with
    | l :: _ => s.sendFrame l (s.localMsg ws)
    | [] => s.bump .COL_COUNT1_NO_ROUTE

/-- A hop-by-hop message back over the lane that a stream arrives on. -/
def State.sendBack (s : State) (l : Nat) (ws : List Word64) : State :=
  if s.laneUp l then s.sendFrame l (s.localMsg ws)
  else match s.upLanes (l / 4) with
    | k :: _ => s.sendFrame k (s.localMsg ws)
    | [] => s.bump .COL_COUNT1_NO_ROUTE

/-! ### CRC-8 of control blocks (R258) -/

/-- One bit: polynomial x^8 + x^2 + x + 1, most significant bit first. -/
def crc8Bit (c : Nat) : Nat := if 128 ≤ c then Nat.xor (2 * c % 256) 7 else 2 * c % 256
def crc8Byte (c b : Nat) : Nat := crc8Bit (crc8Bit (crc8Bit (crc8Bit (crc8Bit (crc8Bit (crc8Bit (crc8Bit (Nat.xor c b))))))))

/-- CRC-8 over content bits [55:8], as six bytes in little-endian order; `v` is the content from bit 8 up. -/
def crc8 (v : Nat) : Nat := (List.range 6).foldl (fun c i => crc8Byte c (bits (8 * i) 8 v)) 0

/-- The CRC-8 of a LINK or CREDIT block agrees. -/
def crc8Ok (content : BitVec 56) : Bool := bits 48 8 content.toNat == crc8 content.toNat

end Sys2Proof.Machine
end

