-- ==== Sys2Proof/Machine/Blocks.lean ====
section
/-!
DEFINITION. Blocks on the fibre (10_col_fabric.md R258, R259, Tables 119 and 120): the content of each control block, the
66-bit blocks of a frame with its CRC-32C, and the scrambler. `Lane.fibre` holds what a lane sends as frames; the functions
here say what bits those frames are.
-/

namespace Sys2Proof.Machine

/-- A 66-bit block before scrambling: the sync header, 0b01 for data and 0b10 for control, and the payload (R258). -/
structure Block where
  control : Bool
  payload : Word64
  deriving DecidableEq, Repr

/-- A control block: TYPE in bits [7:0], the content above it. -/
def controlBlock (type content : Nat) : Block := ⟨true, word64 (place 0 8 type + place 8 56 content)⟩

/-! ### Frames (R259, Table 120) -/

/-- SOF content from bit 8 up. -/
def sofContent (f : Frame) : Nat :=
  place 0 2 f.cls + place 2 8 f.words.length + place 10 12 (if f.isLocal then 0 else f.dest) + place 22 12 f.src +
    place 34 7 (if f.cls = 1 then f.bp else 0) + place 41 2 (if f.cls = 1 then f.member else 0) +
    place 43 1 (flag (decide (f.cls = 1) && f.unres)) + place 44 1 (flag f.isLocal) +
    place 45 6 (if f.isLocal then 0 else f.ttl) + place 51 1 (flag (decide (f.cls = 1) && f.rid))

/-- The frame that an SOF and data words spell; none where LEN and the words disagree. -/
def frameSpelt (sof : Nat) (words : List Word64) : Option Frame :=
  if bits 2 8 sof ≠ words.length then none
  else some { cls := ⟨bits 0 2 sof, Nat.mod_lt _ (by decide)⟩, dest := bits 10 12 sof, src := bits 22 12 sof, bp := bits 34 7 sof
              member := bits 41 2 sof, unres := bit 43 sof, isLocal := bit 44 sof, ttl := bits 45 6 sof, rid := bit 51 sof
              words := words }

/-- The frame CRC runs over the SOF content as 7 bytes, then over the data words in order. -/
def frameCrc (f : Frame) : Nat := crc32c (leBytes 7 (sofContent f) ++ f.words.flatMap fun w => leBytes 8 w.toNat)

/-- One SOF block, LEN data blocks, one EOF block. -/
def blocksOf (f : Frame) : List Block :=
  controlBlock 0x4B (sofContent f) :: f.words.map (⟨false, ·⟩) ++ [controlBlock 0x55 (frameCrc f)]

/-! ### IDLE, LINK and CREDIT (R261, R262, Table 119) -/

def idleBlock : Block := controlBlock 0x1E 0

/-- Content bits [55:8] with their CRC-8 above them. -/
def sealed8 (v : Nat) : Nat := v + place 48 8 (crc8 v)

/-- The LINK block of lane l. -/
def State.linkBlock (s : State) (l : Nat) : Block :=
  controlBlock 0x2D (sealed8 (place 0 3 (s.laneState l) + place 3 2 (l / 4) + place 5 2 (l % 4) +
    place 7 12 s.nodeAddr + place 19 1 (s.rd .COL_NODE_VALID)))

/-- The CREDIT block of lane l: the blocks freed of each class since HELLO, modulo 4,096. -/
def State.creditBlock (s : State) (l : Nat) : Block :=
  let n := (s.lane l).freed
  controlBlock 0x33 (sealed8 (place 0 12 n.time + place 12 12 n.band + place 24 12 n.mgmt + place 36 12 n.bulk))

/-! ### The bits on the fibre (R258) -/

/-- One payload bit through the scrambler x^58 + x^39 + 1; `r` holds the last 58 scrambled bits, the newest in bit 0. -/
def scrambleBit (r : Nat) (b : Bool) : Nat × Bool :=
  let o := xor b (xor (bit 38 r) (bit 57 r))
  (r * 2 % 2 ^ 58 + flag o, o)

def scramble (r : Nat) : List Bool → Nat × List Bool
  | [] => (r, [])
  | b :: rest =>
    let (r1, o) := scrambleBit r b
    let (r2, os) := scramble r1 rest
    (r2, o :: os)

/-- What a receiver makes of scrambled bits: it feeds its own register with the bits received. -/
def descramble (r : Nat) : List Bool → List Bool
  | [] => []
  | o :: rest => xor o (xor (bit 38 r) (bit 57 r)) :: descramble (r * 2 % 2 ^ 58 + flag o) rest

/-- The 66 bits of a block in the order sent: the header, which is not scrambled, then the payload, least significant bit
first. -/
def Block.send (b : Block) (r : Nat) : Nat × List Bool :=
  let (r1, os) := scramble r ((List.range 64).map b.payload.getLsbD)
  (r1, (!b.control) :: b.control :: os)

/-- The bits of a sequence of blocks. -/
def sendBlocks : Nat → List Block → List Bool
  | _, [] => []
  | r, b :: rest => let (r1, os) := b.send r; os ++ sendBlocks r1 rest

/-- What lane l has put onto the fibre in the current tick, as blocks; IDLE, LINK and CREDIT blocks stand between frames. -/
def State.fibreBlocks (s : State) (l : Nat) : List Block := (s.lane l).fibre.flatMap blocksOf

end Sys2Proof.Machine
end

