-- ==== Sys2Proof/Machine/Streams.lean ====
section
/-!
DEFINITION. Routes, reservations and repair (10_col_fabric.md R266 to R277): the link-state database, PRIMARY and ALT,
the publisher's path, admission on lanes, a stream's entries, repair around a failed lane, and the lane states.
-/

namespace Sys2Proof.Machine

/-! ### Reservations on a lane (R271) -/

/-- The one-way delay that PLB_LDLY holds, in quanta. -/
def State.laneDelay (s : State) (l : Nat) : Nat := s.rd2 .PLB_LDLY_LO_D_LO .PLB_LDLY_HI_D_HI l

/-- CEIL in Mbit/s: the lower of 10,240 and floor(60.6316 × B / (2d + 1)), d in µs. -/
def State.laneCeil (s : State) (l : Nat) : Nat :=
  min 10240 (606316 * (s.lane l).peerBuf.band * 65536000 / (10000 * (2 * s.laneDelay l + 65536000)))

/-- Reserved kbit/s of lane l. -/
def State.reservedRate (s : State) (l : Nat) : Nat :=
  (((s.lane l).members.filter fun m => !m.unres).map (·.rate)).sum

/-- Lane l admits a member of `rate` kbit/s. -/
def State.admits (s : State) (l rate : Nat) : Bool :=
  s.laneUp l && decide (s.reservedRate l + rate ≤ 1000 * s.laneCeil l ∧ (s.lane l).members.length < 32)

/-- Free Mbit/s of lane l, for the link-state record. -/
def State.laneFree (s : State) (l : Nat) : Nat :=
  if s.laneUp l then s.laneCeil l - ceilDiv (s.reservedRate l) 1000 else 0

/-- LANE_RESV, LANE_COUNT.MEMBERS and LANE_STATUS.UNRES follow the members (Table 126). -/
def State.refreshLane (s : State) (l : Nat) : State :=
  (((s.wr .LANE_RESV_RESERVED l (ceilDiv (s.reservedRate l) 1000)).wr .LANE_RESV_CEIL l
    (if s.laneUp l then s.laneCeil l else 0)).wr .LANE_COUNT_MEMBERS l
      ((s.lane l).members.filter fun m => !m.unres).length).wrB .LANE_STATUS_UNRES l ((s.lane l).members.any (·.unres))

/-- Kbit/s of one member of a stream of span N over k lanes, rounded up (R271). -/
def streamRate (span k : Nat) : Nat := ceilDiv (span * 5625) (8 * max 1 k)

/-! ### Entries of a stream -/

/-- The same stream under the same route identity. -/
def Entry.is (e : Entry) (node bp : Nat) (rid : Bool) : Bool := e.node == node && e.bp == bp && e.rid == rid

def State.entry (s : State) (node bp : Nat) (rid : Bool) : Option Entry := s.col.entries.find? (·.is node bp rid)

def State.setEntry (s : State) (e : Entry) : State :=
  { s with col := { s.col with entries := s.col.entries.filter (fun x => !x.is e.node e.bp e.rid) ++ [e] } }

def Member.ofEntry (m : Member) (e : Entry) : Bool := m.node == e.node && m.bp == e.bp && m.rid == e.rid

/-- A kept or waiting frame that belongs to the entry's stream. -/
def frameOf (f : Frame) (e : Entry) : Bool := f.cls == 1 && f.src == e.node && f.bp == e.bp && f.rid == e.rid

/-- Put member `i` of an entry on lane l. -/
def State.putMember (s : State) (e : Entry) (i l : Nat) (unres : Bool) : State :=
  let m : Member := { node := e.node, bp := e.bp, rid := e.rid, index := i, rate := e.rate, unres := unres }
  (s.updLane l fun x => { x with members := x.members ++ [m] }).refreshLane l

/-- Take the entry's members off every lane. -/
def State.takeMembers (s : State) (e : Entry) : State :=
  s.forEach (fun l t =>
    if (t.lane l).members.any (·.ofEntry e) then
      (t.updLane l fun x => { x with members := x.members.filter fun m => !m.ofEntry e }).refreshLane l
    else t) allLanes

/-- Drop kept copies of the entry's stream that `gone` names. -/
def State.dropKept (s : State) (e : Entry) (gone : Frame → Bool) : State :=
  s.forEach (fun l t =>
    if (t.lane l).kept.any (fun k => frameOf k.frame e && gone k.frame) then
      let t1 := t.updLane l fun x => { x with kept := x.kept.filter fun k => !(frameOf k.frame e && gone k.frame) }
      t1.wr .LANE_COUNT_KEPT l (t1.lane l).kept.length
    else t) allLanes

/-- Free the admissions, the entry and its kept copies (R274). -/
def State.dropEntry (s : State) (e : Entry) : State :=
  let s1 := (s.takeMembers e).dropKept e fun _ => true
  { s1 with col := { s1.col with entries := s1.col.entries.filter fun x => !x.is e.node e.bp e.rid } }

/-- The lowest lanes of cage c that can admit k members of a rate; none when fewer can (R271). -/
def State.admitOn (s : State) (c k rate : Nat) (avoid : List Nat) : Option (List Nat) :=
  let ls := ((cageLanes c).filter fun l => s.admits l rate && !avoid.contains l).take k
  if ls.length = k then some ls else none

/-- Install an entry with its members on the lanes of `e.out`. -/
def State.installEntry (s : State) (e : Entry) : State :=
  (s.setEntry e).forEach (fun x t => t.putMember e x.2 x.1 false) e.out.zipIdx

/-! ### The link-state database and routes (R269, R270) -/

/-- The module's own record of cage c; DELAY is rounded up to 2^-8 ns (DESIGN CHOICE, log entry 31). -/
def State.ownLink (s : State) (c : Nat) : LsaLink :=
  let up := s.upLanes c
  let l := up.headD (4 * c)
  { peerNode := if up = [] then 0 else s.rd .LANE_PEER_NODE l
    peerValid := up != [] && s.is .LANE_PEER_NODE_VALID l
    peerCage := s.rd .LANE_PEER_CAGE l
    lit := up.foldl (fun m k => m + 2 ^ (k % 4)) 0
    delay := ((up.map s.laneDelay).foldl max 0 + 255) / 256
    free := (cageLanes c).map s.laneFree }

/-- The module's own link-state record. -/
def State.ownRec (s : State) : LsaRec :=
  { uid := s.uid, node := s.nodeAddr, valid := s.is .COL_NODE_VALID, auto := s.is .COL_NODE_AUTO
    fwd := s.is .COL_CTRL_FWD_EN, lseq := s.col.lseq, links := (List.range 4).map s.ownLink }

/-- Every record of the fabric that claims an address, the module's own as it stands now. -/
def State.records (s : State) : List LsaRec :=
  (s.ownRec :: s.col.db.filter fun r => r.uid != s.uid).filter (·.valid)

def nodeRec (rs : List LsaRec) (d : Nat) : Option LsaRec := rs.find? (·.node == d)

/-- Cage c of r reaches a node that lists it back (R270). -/
def linkOk (rs : List LsaRec) (r : LsaRec) (c : Nat) (k : LsaLink) : Bool :=
  k.peerValid && k.lit != 0 && (match nodeRec rs k.peerNode with
    | none => false
    | some q => match q.links[k.peerCage]? with
      | none => false
      | some b => b.peerValid && b.lit != 0 && b.peerNode == r.node && b.peerCage == c)

/-- Weight of a hop in steps of 2^-8 ns: DELAY plus 500 ns. -/
def hopWeight (k : LsaLink) : Nat := k.delay + 128000

/-- The hops out of r: cage and link. -/
def hopsOf (rs : List LsaRec) (r : LsaRec) : List (LsaLink × Nat) :=
  r.links.zipIdx.filter fun k => linkOk rs r k.2 k.1

def noDist : Nat → Option Nat := fun _ => none

/-- One round of relaxation: every reached node but a closed transit offers its hops. -/
def relax (rs : List LsaRec) (src : Nat) (d : Store (Option Nat)) : Store (Option Nat) :=
  rs.foldl (fun d r => match Store.get noDist d r.node with
    | none => d
    | some w =>
      if r.node ≠ src ∧ r.fwd = false then d
      else (hopsOf rs r).foldl (fun d k =>
        let n := w + hopWeight k.1
        match Store.get noDist d k.1.peerNode with
        | some o => if n < o then Store.set noDist d k.1.peerNode (some n) else d
        | none => Store.set noDist d k.1.peerNode (some n)) d) d

/-- Least total weight from `src` to every node it reaches. -/
def distances (rs : List LsaRec) (src : Nat) : Store (Option Nat) :=
  Nat.repeat (relax rs src) rs.length (Store.set noDist [] src (some 0))

/-- The first of the lowest candidates, by weight and then in order. -/
def lowestBy (xs : List (Nat × Nat)) : Option Nat :=
  (xs.foldl (fun (b : Option (Nat × Nat)) x => match b with
    | none => some x
    | some y => if x.2 < y.2 then some x else some y) none).map (·.1)

/-- PRIMARY and ALT of destination d (R270): 4 stands for none. -/
def routesTo (rs : List LsaRec) (own : LsaRec) (dist : Nat → Store (Option Nat)) (d : Nat) : Nat × Nat :=
  let at' := fun a b => Store.get noDist (dist a) b
  let hops := hopsOf rs own
  let total := hops.filterMap fun k =>
    let n := k.1.peerNode
    let open' := n == d || (match nodeRec rs n with | some r => r.fwd | none => false)
    match at' n d with | some w => if open' then some (k.2, hopWeight k.1 + w, n) else none | none => none
  match lowestBy (total.map fun t => (t.1, t.2.1)) with
  | none => (4, 4)
  | some p =>
    let best := (total.find? (·.1 == p)).getD (p, 0, 0)
    let e := best.2.2
    let free := total.filter fun t => t.1 != p && (match at' t.2.2 d, at' t.2.2 own.node with
      | some a, some b => decide (a < b + best.2.1)
      | some _, none => true
      | _, _ => false)
    let safe := free.filter fun t => match at' t.2.2 d, at' t.2.2 e, at' e d with
      | some a, some b, some c => decide (a < b + c)
      | some _, none, _ => true
      | _, _, _ => false
    let pick := lowestBy ((if safe = [] then free else safe).map fun t => (t.1, t.2.1))
    (p, pick.getD 4)

/-- The route computation (R270). -/
def State.computeRoutes (s : State) : State :=
  let rs := s.records
  let own := s.ownRec
  let near := own.node :: (hopsOf rs own).map (·.1.peerNode)
  let table := near.map fun n => (n, distances rs n)
  let dist := fun n => ((table.find? (·.1 == n)).getD (n, distances rs n)).2
  let routes := (rs.filter fun r => r.node != own.node).map fun r => (r.node, routesTo rs own dist r.node)
  { s with col := { s.col with
      primary := routes.foldl (fun m x => Store.set (fun _ => 4) m x.1 x.2.1) []
      alt := routes.foldl (fun m x => Store.set (fun _ => 4) m x.1 x.2.2) [] } }

/-! ### The publisher's path (Table 122, step 3) -/

/-- Lanes of a hop with room for a member, leaving out the ones to avoid. -/
def roomLanes (node cage rate : Nat) (avoid : List (Nat × Nat)) (k : LsaLink) : Nat :=
  ((List.range 4).filter fun i => bit i k.lit && decide (rate ≤ 1000 * k.free.getD i 0) &&
    !avoid.contains (node, 4 * cage + i)).length

def noPath : Nat → Option (Nat × List Nat) := fun _ => none

/-- One more hop of the search: from the paths `old` to better ones. -/
def widenPaths (rs : List LsaRec) (src rate k : Nat) (avoid : List (Nat × Nat)) (old : Store (Option (Nat × List Nat))) :
    Store (Option (Nat × List Nat)) :=
  rs.foldl (fun d r => match Store.get noPath old r.node with
    | none => d
    | some (w, path) =>
      if r.node ≠ src ∧ r.fwd = false then d
      else ((hopsOf rs r).filter fun h => decide (k ≤ roomLanes r.node h.2 rate avoid h.1)).foldl (fun d h =>
        let n := w + hopWeight h.1
        let better := match Store.get noPath d h.1.peerNode with | some o => decide (n < o.1) | none => true
        if better then Store.set noPath d h.1.peerNode (some (n, path ++ [h.1.peerNode])) else d) d) old

/-- The nodes after the module on the path of least weight to `dest` that has room, at most HOPMAX hops. -/
def State.findPath (s : State) (dest rate k : Nat) (avoid : List (Nat × Nat)) : Option (List Nat) :=
  let rs := s.records
  let own := s.nodeAddr
  let all := Nat.repeat (widenPaths rs own rate k avoid) s.hopMax (Store.set noPath [] own (some (0, [])))
  if dest = own then none else (Store.get noPath all dest).map (·.2)

/-! ### Reserving a route (Table 122) -/

/-- Node addresses five to a word. -/
def packNodes : List Nat → Nat → List Word64
  | _, 0 => []
  | xs, k + 1 =>
    word64 ((xs.take 5).zipIdx.foldl (fun a x => a + place (12 * x.2) 12 x.1) 0) :: packNodes (xs.drop 5) k

def unpackNodes (f : Frame) (n : Nat) : List Nat :=
  (List.range n).map fun i => bits (12 * (i % 5)) 12 (msgW f (3 + i / 5))

/-- Field firmware's view of a band path's stream: ROLE, HOPS, members and the other end (Table 125). -/
def State.colStatus (s : State) (n role hops k peer : Nat) (routed : Bool) : State :=
  ((((s.wr .COL_BP_STATUS_ROLE n role).wr .COL_BP_STATUS_HOPS n hops).wr .COL_BP_STATUS_K1 n (k - 1)).wr
    .COL_BP_STATUS_PEER n peer).wrB .COL_BP_STATUS_ROUTED n routed

/-- Members of a published stream: STRIPE + 1. -/
def State.stripe (s : State) (n : Nat) : Nat := (s.bp n).decl.stripe + 1

/-- The publisher computes a path, admits on its own lanes and sends RESV under the next RID; false when it cannot. -/
def State.startRoute (s : State) (n : Nat) : State × Bool :=
  let p := (s.bp n).pub
  match p.subscriber with
  | none => (s, false)
  | some (node, bp) =>
    let k := s.stripe n
    let span := (s.bp n).decl.span
    let rate := streamRate span k
    match s.findPath node rate k p.avoid with
    | none => (s, false)
    | some path =>
      let first := path.headD node
      match s.cageTo first with
      | none => (s, false)
      | some c => match s.admitOn c k rate ((p.avoid.filter fun a => a.1 == s.nodeAddr).map (·.2)) with
        | none => (s, false)
        | some lanes =>
          let e : Entry := { node := s.nodeAddr, bp := n, rid := p.nextRid, gen := (s.bp n).gen, rate := rate, k := k,
                             dest := node, inLane := none, out := lanes, route := path }
          let s1 := (s.installEntry e).updBp n fun x => { x with pub := { x.pub with
            pend := some { rid := p.nextRid, nodes := path, lanes := lanes } } }
          let ws := msgWord 5 s.nodeAddr n p.nextRid (s.bp n).gen (place 0 2 (k - 1) + place 2 5 path.length) ::
            word64 (place 0 24 rate + place 24 15 span) ::
            word64 ((s.bp n).decl.freq + place 32 12 node + place 44 7 bp) :: packNodes path 6
          ((s1.wr .COL_BP_RATE_RATE n rate).sendHop first ws, true)

/-- The entry of a published stream under a RID is released along its route, with a reason (R274, Table 123). -/
def State.releaseRoute (s : State) (n : Nat) (rid : Bool) (reason : Nat) : State :=
  match s.entry s.nodeAddr n rid with
  | none => s
  | some e =>
    let s1 := match e.out with
      | l :: _ => s.sendBack l [msgWord 9 s.nodeAddr n rid e.gen (place 0 4 reason)]
      | [] => s
    s1.dropEntry e

/-- Both routes of a stream are released. -/
def State.releaseAll (s : State) (n reason : Nat) : State :=
  ((((s.releaseRoute n false reason).releaseRoute n true reason).updBp n fun x =>
    { x with pub := { x.pub with route := none, pend := none } }).clr .COL_BP_STATUS_ROUTED n).clr .COL_BP_STATUS_UNRES n

/-- A stream has no route left: RELEASE with reason 2, and re-establishment at 1 s intervals (R274, R277). -/
def State.routeLost (s : State) (n : Nat) : State :=
  ((s.releaseAll n 2).updBp n fun x => { x with pub := { x.pub with lost := true, report := false } })
    |>.clr .COL_BP_STATUS_ROUTED n |>.clr .COL_BP_STATUS_REPAIRING n

/-- A new route for a running stream under the other RID (R277). -/
def State.newRoute (s : State) (n : Nat) : State :=
  let s1 := (s.updBp n fun x => { x with pub := { x.pub with report := false, tries := 0, avoid := [] } }).set1
    .COL_BP_STATUS_REPAIRING n
  let r := s1.startRoute n
  if r.2 then r.1 else s1.routeLost n

/-- A repair report reaches the publisher: with SHORT or NOALT it waits until its tables reflect the failure (R277). -/
def State.pubReport (s : State) (n : Nat) (short noalt : Bool) : State :=
  if (short || noalt) && (s.bp n).pub.route.isSome then
    (s.updBp n fun x => { x with pub := { x.pub with report := true } }).wrB .COL_BP_STATUS_UNRES n short
  else s

/-! ### Repair (R276) -/

/-- REPAIR_REPORT to the publisher, or acted on at once when the module is the publisher. -/
def State.reportRepair (s : State) (e : Entry) (short noalt : Bool) : State :=
  if e.node = s.nodeAddr then s.pubReport e.bp short noalt
  else s.sendRouted e.node [msgWord 11 e.node e.bp e.rid e.gen (flag short + 2 * flag noalt)]

/-- The SEQ of a BAND frame's grain. -/
def frameSeq (f : Frame) : Nat := (wordsGrain f.words).seq

/-- A copy takes its place in SEQ order, modulo 2^28. -/
def insertSeq (f : Frame) : List Frame → List Frame
  | [] => [f]
  | x :: rest => if (frameSeq x + 2 ^ 28 - frameSeq f) % 2 ^ 28 < 2 ^ 27 then f :: x :: rest else x :: insertSeq f rest

/-- Kept copies of a stream, or of one member of it, on the lanes `ls` are resent in SEQ order on the lanes its members have
now (R192, R276). -/
def State.resendKept (s : State) (ls : List Nat) (e : Entry) (idx : Option Nat) : State :=
  let mine := fun f => frameOf f e && (match idx with | none => true | some i => f.member == i)
  let old := (ls.flatMap fun l => ((s.lane l).kept.map fun k => k.frame).filter mine).foldr insertSeq []
  let s1 := s.forEach (fun l t =>
    let t1 := t.updLane l fun x => { x with kept := x.kept.filter fun k => !mine k.frame }
    t1.wr .LANE_COUNT_KEPT l (t1.lane l).kept.length) ls
  s1.forEach (fun f t =>
    let k := e.out.getD f.member (ls.headD 0)
    let un := (t.lane k).members.any fun m => m.ofEntry e && m.index == f.member && m.unres
    (((t.bump .GRG_KEEP_RESENT).tally 1 0x07 k 1 1).sendFrame k { f with unres := un })) old

/-- Frames of a stream, or of one member of it, that still waited for lane l follow on its new lanes. -/
def State.requeue (s : State) (l : Nat) (e : Entry) (idx : Option Nat) : State :=
  let takes := fun (q : QFrame) => frameOf q.frame e && (match idx with | none => true | some i => q.frame.member == i)
  let mine := (s.lane l).queue.filter takes
  (s.updLane l fun x => { x with queue := x.queue.filter fun q => !takes q }).forEach (fun q t =>
    let k := e.out.getD q.frame.member l
    let un := (t.lane k).members.any fun m => m.ofEntry e && m.index == q.frame.member && m.unres
    t.queueFrame k { q with frame := { q.frame with unres := un } }) mine

/-- Step 1 of R276: the members of a failed lane that another lane of the cage admits move there. The streams that are
left are marked. -/
def State.moveInCage (s : State) (l : Nat) : List Member → State × List Member
  | [] => (s, [])
  | m :: rest =>
    match (s.upLanes (l / 4)).find? (fun k => s.admits k m.rate), s.entry m.node m.bp m.rid with
    | some k, some e =>
      let e' := { e with out := e.out.set m.index k }
      let s1 := ((s.updLane l fun x => { x with members := x.members.filter (· != m) }).setEntry e').putMember e' m.index k
        false
      (((s1.resendKept [l] e' (some m.index))).requeue l e' (some m.index)).moveInCage l rest
    | _, _ => let r := s.moveInCage l rest; (r.1, m :: r.2)

/-- Steps 2 and 3 of R276 (admission or UNRES is decided member by member, DEDUCED, log entry 31) for one marked stream whose member travelled on lane l. -/
def State.repairStream (s : State) (l : Nat) (e : Entry) : State :=
  let cands := [s.primaryOf e.dest, s.altOf e.dest].filter fun a => a != l / 4 && decide (a < 4) && (s.upLanes a) != []
  match cands with
  | [] =>
    let s1 := (s.takeMembers e).dropKept e (fun _ => true)
    let s2 := s1.updLane l fun x => { x with queue := x.queue.filter fun q => !frameOf q.frame e }
    ((s2.setEntry { e with out := [] }).reportRepair e false true).bump .COL_COUNT0_REPAIR_FAIL
  | a :: _ =>
    let up := s.upLanes a
    let out := (List.range e.k).map fun i => up.getD (i % up.length) 0
    let e' := { e with out := out }
    let olds := e.out.dedup
    let s1 := out.zipIdx.foldl (fun t x => t.putMember e' x.2 x.1 (!t.admits x.1 e.rate)) ((s.takeMembers e).setEntry e')
    let short := allLanes.any fun k => (s1.lane k).members.any fun m => m.ofEntry e' && m.unres
    let s2 := s1.resendKept olds e' none
    let s3 := s2.requeue l e' none
    ((s3.sendBack (out.headD 0) [msgWord 10 e.node e.bp e.rid e.gen (flag short + place 1 5 1),
      word64 (place 0 24 e.rate + place 24 2 (e.k - 1))]).bump .COL_COUNT0_REPAIRS)

/-- Members in the order of R276: by stream, then by member. -/
def memberKey (m : Member) : Nat := ((m.node * 128 + m.bp) * 2 + flag m.rid) * 4 + m.index

def insertMember (m : Member) : List Member → List Member
  | [] => [m]
  | x :: rest => if memberKey m ≤ memberKey x then m :: x :: rest else x :: insertMember m rest

/-- The streams of lane l are repaired (R265, R276). The lane has left UP before. -/
def State.repairLane (s : State) (l : Nat) : State :=
  let ms := (s.lane l).members.foldr insertMember []
  let r := s.moveInCage l ms
  let marked := (r.2.filterMap fun m => r.1.entry m.node m.bp m.rid).dedup
  let s1 := r.1.forEach (fun e t => t.repairStream l ((t.entry e.node e.bp e.rid).getD e)) marked
  let left := (s1.lane l).queue
  ((s1.updLane l fun x => { x with queue := [], members := [] }).forEach (fun q t => match q.fromLane with
    | some k => t.freeBlocks k q.frame.cls (frameBlocks q.frame)
    | none => t) left).refreshLane l

/-! ### Lane states (R263 to R265, R284) -/

/-- The lane leaves UP or any other state for `st`: its credits read 0, its receive buffer is empty, and its group shows a
dark lane (Table 117). What its last announcement named stays known (R238). -/
def State.laneDown (s : State) (l st : Nat) : State :=
  let s1 := [0, 1, 2, 3].foldl (fun t c => t.clr (creditField c) l) ((s.wr .LANE_STATUS_STATE l st).clr .LANE_STATUS_BLOCK_LOCK l)
  let s2 := s1.updLane l fun x => { x with
    held := {}, freed := {}, peerCum := {}, peerBuf := {}, peerLstate := 0, helloSeen := false, sent := [], recv := [], pairs := [],
    rxNext := none, fresh := none, thetas := [], offer := x.offer.map fun o => { o with lapsed := true } }
  let s3 := ((s2.clr .PLB_LSTAT_LROLE l).clr .PLB_LSTAT_PEER_OK l).wr .PLB_LSTAT_PEER_STEPS l 0xFF
  if s3.upLanes (l / 4) = [] then s3.setCage (l / 4) { s3.cage (l / 4) with peer := none } else s3

/-- The lane leaves service for `st`, its streams repaired where it was UP. -/
def State.laneOut (s : State) (l st : Nat) : State :=
  let up := s.laneUp l
  let s1 := s.laneDown l st
  if up then s1.repairLane l else s1

/-- The lane may run: EN is 1, its pluggable is accepted, no fence covers it. -/
def State.laneMay (s : State) (l : Nat) : Bool :=
  s.is .LANE_CTRL_EN l && (s.cage (l / 4)).phase == 2 && !s.fenced (0x90 + l)

/-- DETAIL of LANE_FAIL (Table 145). -/
def laneDetail (c : LaneCause) : Nat :=
  match c with
  | .sync => 1 | .link => 2 | .signal => 3 | .proto => 4 | .crcBurst => 5 | .removal => 6

/-- An UP lane is declared failed (R264); the 16 invalid sync headers of that cause count as block errors (Table 126). -/
def State.failLane (s : State) (l : Nat) (c : LaneCause) : State :=
  if !s.laneUp l then s
  else
    let s1 := (s.bump .LANE_COUNT_FAILS l).sendFault (0x90 + l) 0x30 (laneDetail c)
    let s2 := if c = .proto then s1.set1 .LANE_STATUS_PROTO l
      else if c = .crcBurst then s1.set1 .LANE_STATUS_CRC_BURST l
      else if c = .signal then s1.set1 .LANE_STATUS_LOS l
      else if c = .sync then s1.bump .LANE_ERR_BLOCK_ERR l 16 else s1
    s2.laneOut l 4

/-- A fence takes the lane dark; a FAILED lane stays so (Tables 12, 121). -/
def State.laneFence (s : State) (l : Nat) : State := if s.laneState l = 4 then s else s.laneOut l 0

/-- The release of its last fence lets the lane train (R264, R334). -/
def State.laneRelease (s : State) (l : Nat) : State :=
  if s.laneMay l then s.wr .LANE_STATUS_STATE l 1 else s.wr .LANE_STATUS_STATE l 0

/-! ### Receiving (R259, R261, R283, R284) -/

/-- A discarded frame counts (event 0x05 of Col). -/
def State.discard (s : State) (l : Nat) (f : Frame) : State := s.tally 1 0x05 l 1 f.cls

/-- A received frame of class `c` and `len` data blocks fails its check: it is counted, and its blocks are freed at once
(R259, R264, R283); of the TIME class Plumb counts it too (Table 113). -/
def State.frameError (s : State) (l c len : Nat) : State :=
  let ms := s.now / (1000 * 65536000)
  let n := if (s.lane l).errMs = ms then (s.lane l).errs + 1 else 1
  let s1 := ((s.bump .LANE_ERR_FRAME_ERR l).updLane l fun x => { x with errs := n, errMs := ms }).tally 1 0x05 l 1 c
  let s2 := if c = 0 then (s1.bump .PLB_LCOUNT_EXCH_BAD l).updLane l fun x => { x with rxNext := x.rxNext.map fun q => (q + 1) % 65536 }
    else s1
  if !s.laneUp l then s2
  else
    let s3 := s2.updLane l fun x => { x with freed := x.freed.add c (len + 2) }
    if 16 < n then s3.failLane l .crcBurst else s3

/-- LEN is 4 for TIME, 36 for BAND and 1 to 64 for MGMT and BULK (R259). -/
def lenOk (f : Frame) : Bool :=
  let k := f.words.length
  if f.cls = 0 then k == 4 else if f.cls = 1 then k == 36 else decide (1 ≤ k ∧ k ≤ 64)

/-- A frame arrives with a good CRC on lane l: it takes room in the receive buffer, or the lane fails with PROTO. What the
module does with it is `act`; its blocks are freed afterwards unless `act` keeps them. -/
def State.receive (s : State) (l : Nat) (f : Frame) (keep : Bool) (act : State → State) : State :=
  if !s.laneUp l then s
  else if lenOk f = false then s.frameError l f.cls f.words.length
  else if ownBuf.get f.cls < (s.lane l).held.get f.cls + frameBlocks f then s.failLane l .proto
  else
    let s1 := (s.updLane l fun x => { x with held := x.held.add f.cls (frameBlocks f) }).tally 1 0x02 l 1 f.cls
    if keep then act s1 else (act s1).freeBlocks l f.cls (frameBlocks f)

end Sys2Proof.Machine
end

