-- ==== Sys2Proof/Machine/Plumb.lean ====
section
/-!
DEFINITION. Plumb (09_plumb_timing.md): the two-way exchange, the election of the time root, the discipline of the
module's time, the grandmaster inputs and the time outputs. Instants in a command's operands are offsets from the present
Plumb time, in delay quanta (log entry 4).
-/

namespace Sys2Proof.Machine

/-! ### Steps (R229) -/

/-- A step by `d` quanta, or an epoch change, waits for the first Plumb cycle after the next tick boundary. -/
def State.planStep (s : State) (d : Int) (epoch : Bool) : State :=
  { s with plumb := { s.plumb with
      pendStep := s.plumb.pendStep + d, stepping := true, pendEpoch := s.plumb.pendEpoch || epoch } }

/-- Instants that Plumb keeps move with the time line, and so does an x that no update has used. -/
def Plumb.shift (p : Plumb) (d : Int) : Plumb :=
  { p with
    off := p.off + d
    ppsLast := p.ppsLast.map (· + d)
    ppsX := p.ppsX.map (· + d)
    refAnchor := p.refAnchor.map fun a => (a.1 + d, a.2)
    todEdge := p.todEdge.map (· + d)
    ppsRise := p.ppsRise + d
    ppsTill := p.ppsTill + d }

/-! ### REF_OUT (R249) -/

/-- 100 ns in quanta: one cycle of 10 MHz. -/
def refCycle : Int := 6553600

/-- The latest whole multiple of 100 ns, advanced by REF_OUT_DLY, at or before Plumb time t. -/
def State.refGrid (s : State) (t : Int) : Int :=
  (t + s.rdS .PLB_REF_OUT_DLY_DLY) / refCycle * refCycle - s.rdS .PLB_REF_OUT_DLY_DLY

/-- The latest rising edge of REF_OUT: the grid's, unless less than a cycle lies between it and the last edge before a step;
that cycle is stretched to the next one. -/
def State.refEdge (s : State) : Int :=
  match s.plumb.refHeld with
  | none => s.refGrid s.now
  | some e => if s.refGrid s.now < e + refCycle then e else s.refGrid s.now

/-- The level of REF_OUT: high for the first 50 ns of a cycle (DESIGN CHOICE, log entry 21). -/
def State.refOut (s : State) : Bool := s.is .PLB_CTRL_REF_OUT_EN && decide (2 * ((s.now : Int) - s.refEdge) < refCycle)

/-- The level of PPS_OUT (R248). -/
def State.ppsOutLevel (s : State) : Bool := decide (s.plumb.ppsRise ≤ s.now ∧ (s.now : Int) < s.plumb.ppsTill)

/-- A lane after a step by `d`: stamps of the old time line complete no exchange, and no offset of it is used (DESIGN CHOICE,
log entry 21); what has been averaged moves with the line. -/
def Lane.stepped (x : Lane) (d : Int) : Lane :=
  { x with sent := [], recv := [], pairs := [], fresh := none, thetas := x.thetas.map (· + d) }

/-- What a band path keeps on the time line of emission moves with a step by `d`: slots that were out stay out, the NCO of a
receive chain takes the new line (R105, R188). -/
def State.bandStepped (s : State) (n : Nat) (d : Int) : State :=
  if !s.running n then s
  else (s.updBp n fun x => { x with dly := { x.dly with emitted := x.dly.emitted.map (· + d * gridUnit x.decl.span) } }).refreshNco n

/-- The waiting step takes effect: STEPS, EPOCH, a Fresco record, the band paths and vector 4 (R229). -/
def State.applyStep (s : State) : State :=
  if !s.plumb.stepping then s
  else
    let old := s.plumb.time
    let new := (old + s.plumb.pendStep).toNat
    let d : Int := (new : Int) - old
    let p := { s.plumb.shift d with
      time := new, pendStep := 0, stepping := false, pendEpoch := false, refHeld := some (s.refEdge + d)
      lastPulse := some ((new + s.rdS .PLB_PPS_OUT_DLY_DLY) / quantaPerSec) }
    let s1 := ({ s with plumb := p }).bump .PLB_COUNT_STEPS
    let s2 := if s.plumb.pendEpoch then s1.roll .PLB_COUNT_EPOCH else s1
    let s3 := (s2.forEach (fun l t => if (t.lane l).stepped d = t.lane l then t else t.updLane l fun x => x.stepped d)
      allLanes).forEach (fun n t => t.bandStepped n d) allBps
    ((((s3.record 0x22 0xA8 [(12, timeBits old), (12, timeBits new)]).plumbStepped).raise 4).tally 2 0x05 0)

/-! ### The exchange (R231 to R235) -/

/-- A short timestamp and its extension as a 96-bit time, in quanta (R227). -/
def ofShort (lo ext : Nat) : Nat := ofTimeBits (lo % 2 ^ 64 + ext % 2 ^ 30 * 2 ^ 64)

/-- Low word and extension of an instant. -/
def shortLo (t : Nat) : Nat := timeBits t % 2 ^ 64
def shortExt (t : Nat) : Nat := timeBits t / 2 ^ 64 % 2 ^ 30

/-- The instant `d` quanta from now. -/
def State.instant (s : State) (d : Int) : Nat := ((s.now : Int) + d).toNat

def stampOf (xs : List Stamp) (seq : Nat) : Option Nat := (xs.find? (·.seq == seq)).map (·.time)

/-- A TIME_EX message of lane l (Table 106), and the record of its transmission at `tx`. -/
def State.sendTimeEx (s : State) (l : Nat) (tx : Nat) : State :=
  let x := s.lane l
  let seq := (x.txSeq + 1) % 65536
  let last := x.recv.head?
  let rx := last.map (·.time) |>.getD 0
  let w0 := place 0 4 1 + place 4 4 1 + place 8 12 s.nodeAddr + place 20 16 seq +
    place 36 16 ((last.map (·.seq)).getD 0) + place 52 1 (flag last.isSome)
  let ws := [word64 w0, word64 (shortLo x.txLast), word64 (shortLo rx), word64 (shortExt x.txLast + place 30 30 (shortExt rx))]
  (s.updLane l fun y => { y with txSeq := seq, txLast := tx, sent := (⟨seq, tx⟩ :: y.sent).take 8 }).sendFrame l
    { cls := 0, dest := 0, src := s.nodeAddr, isLocal := true, words := ws }

/-- TIME_EX_SEND (R231): `phase` gives each lane's transmit instant. -/
def execTimeExSend (phase : List Int) (s : State) : Host.Outcome State Fault Refusal :=
  .next (s.forEach (fun l t => if t.laneUp l then t.sendTimeEx l (t.instant (phase.getD l 0)) else t) allLanes)

/-- Half of an integer, ties away from zero. -/
def halfOf (x : Int) : Int := roundDiv x 2

/-- d, the lane's asymmetry and θ from four instants (R233). -/
def State.exchange (s : State) (l : Nat) (t1 t2 t3 t4 : Int) : Int × Int :=
  let d := halfOf ((t2 - t1) + (t4 - t3))
  let a := s.rdS .PLB_ASYM_FIX_FIX l + roundDiv (s.rdS .PLB_ASYM_RATIO_RATIO l * d) (2 ^ 32)
  (d, halfOf ((t2 - t1) - (t4 - t3)) + a)

/-- An exchange is complete: θ, d and EXCH; θ waits for the next update. -/
def State.completeExchange (s : State) (l : Nat) (t1 t2 t3 t4 : Int) : State :=
  let r := s.exchange l t1 t2 t3 t4
  if 4000 * 65536000 < (s.now : Int) - t2 ∨ 4000 * 65536000 < (s.now : Int) - (t4 + r.2) then s
  else
    ((((s.wr .PLB_LOFS_THETA l (satBits 32 r.2)).wr2 .PLB_LDLY_LO_D_LO .PLB_LDLY_HI_D_HI l (wrapBits 48 r.1)).roll
      .PLB_LCOUNT_EXCH l).updLane l fun x => { x with fresh := some r.2, thetas := (r.2 :: x.thetas).take 1000 })
      |>.tally 2 0x01 l |>.refreshLane l

/-- Messages that are missing before SEQ `seq`: they were lost (Table 113). -/
def Lane.lostBefore (x : Lane) (seq : Nat) : Nat :=
  match x.rxNext with
  | none => 0
  | some q => let k := (seq + 65536 - q) % 65536; if k < 32768 then k else 0

/-- What a TIME_EX message on lane l does (R233). -/
def State.takeTimeEx (s : State) (l : Nat) (f : Frame) (rx : Nat) : State :=
  let w := msgW f
  let seq := bits 20 16 (w 0)
  let prev := (seq + 65535) % 65536
  let x := s.lane l
  let pairs := match stampOf x.recv prev with
    | some t2 => ((ofShort (w 1) (bits 0 30 (w 3)) : Int), (t2 : Int)) :: x.pairs
    | none => x.pairs
  let s0 := if x.lostBefore seq = 0 then s else s.bump .PLB_LCOUNT_EXCH_BAD l (x.lostBefore seq)
  let s1 := s0.updLane l fun y => { y with
    recv := (⟨seq, rx⟩ :: y.recv).take 8, pairs := pairs.take 8, rxNext := some ((seq + 1) % 65536) }
  if !bit 52 (w 0) then s1
  else match stampOf x.sent (bits 36 16 (w 0)) with
    | none => s1
    | some t3 => match pairs.find? (fun p => p.2 < (t3 : Int)) with
      | none => s1
      | some (t1, t2) => s1.completeExchange l t1 t2 t3 (ofShort (w 2) (bits 30 30 (w 3)))

/-- TIME_EX (R231 to R233): it leaves the lane's elastic buffer, whose measured phase is added, at `rx`. A message of another
TYPE or VER is discarded and counted. -/
def execTimeEx (l : LaneIx) (f : Frame) (rx : Int) (s : State) : Host.Outcome State Fault Refusal :=
  .next (s.receive l f false fun t =>
    if f.cls = 0 ∧ bits 0 4 (msgW f 0) = 1 ∧ bits 4 4 (msgW f 0) = 1 ∧ f.words.length = 4 then
      t.takeTimeEx l f (t.instant (rx + (t.lane l).phase))
    else t.bump .PLB_LCOUNT_EXCH_BAD l)

/-! ### The reference and TIME_OK (R237, R241, R243, R246) -/

/-- x comes from REF_IN edges on the grid of the last marked second (R246). -/
def State.refMode (s : State) : Bool :=
  s.is .PLB_RANK_GM_EN && s.is .PLB_STATUS_REF_IN_OK && s.plumb.refAnchor.isSome && !s.plumb.skewed

/-- The module is a grandmaster with a valid reference. -/
def State.hasRef (s : State) : Bool := s.refMode || (s.is .PLB_RANK_GM_EN && s.is .PLB_STATUS_PPS_IN_OK)

def State.tstate (s : State) : Nat := s.rd .PLB_STATUS_TSTATE
def State.role (s : State) : Nat := s.rd .PLB_STATUS_ROLE

/-- The module follows its reference and not a parent: a grandmaster unless it is child of a root of class 0x10 or 0x20
(DEDUCED, log entry 22). -/
def State.usesRef (s : State) : Bool := s.hasRef && !(s.role == 1 && decide (s.rd .PLB_ROOT_CLASS ≤ 0x20))

/-- |fi| exceeds 2 ppm (R243). -/
def State.fiOver (s : State) : Bool := decide (33554432 < s.plumb.fi.natAbs)

/-- The class that the module offers (Table 108). -/
def State.ownClass (s : State) : Nat :=
  let locked := s.tstate == 2 && s.usesRef
  if s.fiOver || !s.is .PLB_RANK_ROOT_EN then 0x80
  else if locked && s.is .PLB_STATUS_PPS_IN_OK && s.refMode then 0x10
  else if locked && s.is .PLB_STATUS_PPS_IN_OK then 0x20
  else if s.plumb.heir then 0x30
  else if s.tstate ≠ 0 then 0x40 else 0x50

/-- TIME_OK (R241, R243); vector 4 when it changes (Table 170). -/
def State.refreshTimeOk (s : State) : State :=
  let ok := (s.role == 2 || s.role == 3 || s.tstate == 2 ||
    (s.tstate == 4 && decide (s.rd .PLB_HOLD_HOLD_S < s.rd .PLB_RANK_HOLD_LIMIT))) && !s.fiOver
  if ok = s.is .PLB_STATUS_TIME_OK then s else (s.wrB .PLB_STATUS_TIME_OK 0 ok).raise 4

/-! ### The election (R236 to R238) -/

/-- A root as (CLASS, PRIORITY, UID). -/
abbrev Root := Nat × Nat × Nat

def rootLess (a b : Root) : Bool :=
  decide (a.1 < b.1) || (a.1 == b.1 && (decide (a.2.1 < b.2.1) || (a.2.1 == b.2.1 && decide (a.2.2 < b.2.2))))

def Offer.root (o : Offer) : Root := (o.cls, o.prio, o.uid)

/-- The offers whose root is live: its ROOT_SEQ advanced on some lane within 30 ms, be the lane dark by now (R238, Table 110).
An offer that names the module itself is none (DEDUCED, log entry 22). -/
def State.liveOffers (s : State) : List (Nat × Offer) :=
  let all := allLanes.filterMap fun l => (s.lane l).offer.map fun o => (l, o)
  all.filter fun x => x.2.uid != s.uid && all.any fun y => y.2.uid == x.2.uid && decide (s.clk.tick ≤ y.2.seen + 3000)

/-- The parent lane for the best root: the present one while no lane offers lower STEPS, else lowest STEPS, COST, l. -/
def State.pickParent (s : State) (best : Root) (offers : List (Nat × Offer)) : Option (Nat × Offer) :=
  let naming := offers.filter fun x => x.2.root == best && !x.2.lapsed && s.laneUp x.1
  let key := fun (x : Nat × Offer) => (x.2.steps * 256 + s.rd .PLB_LCFG_COST x.1) * 16 + x.1
  let low := naming.foldl (fun (b : Option (Nat × Offer)) x => match b with
    | none => some x
    | some y => if key x < key y then some x else some y) none
  match naming.find? fun x => s.role == 1 && x.1 == s.rd .PLB_STATUS_PARENT, low with
  | some cur, some y => if y.2.steps < cur.2.steps then some y else some cur
  | _, y => y

/-- ⌈√n⌉. -/
def sqrtUp (n : Nat) : Nat := if Nat.sqrt n * Nat.sqrt n = n then Nat.sqrt n else Nat.sqrt n + 1

/-- LROLE, PEER_OK and PEER_STEPS of every lane (Table 117). A peer that names the same root from further away counts as
child (DEDUCED, log entry 22). -/
def State.showLanes (s : State) : State :=
  s.forEach (fun l t => match (if t.laneUp l then some ((t.lane l).offer.filter fun o => !o.lapsed) else none) with
    | none => ((t.clr .PLB_LSTAT_LROLE l).clr .PLB_LSTAT_PEER_OK l).wr .PLB_LSTAT_PEER_STEPS l 0xFF
    | some none => ((t.wr .PLB_LSTAT_LROLE l 3).clr .PLB_LSTAT_PEER_OK l).wr .PLB_LSTAT_PEER_STEPS l 0xFF
    | some (some o) =>
      let best : Root := (t.rd .PLB_ROOT_CLASS, t.rd .PLB_ROOT_PRIORITY, t.rd2 .PLB_ROOT_UID_LO_UID .PLB_ROOT_UID_HI_UID)
      let r := if t.role = 1 ∧ t.rd .PLB_STATUS_PARENT = l then 1
        else if o.root = best ∧ t.rd .PLB_ROOT_STEPS < o.steps then 2 else 3
      ((t.wr .PLB_LSTAT_LROLE l r).wrB .PLB_LSTAT_PEER_OK l o.timeOk).wr .PLB_LSTAT_PEER_STEPS l o.steps) allLanes

/-- A reference of class 0x10 or 0x20 that the module held is lost, or a root of that class: class 0x30 for HOLD_LIMIT
(R237). -/
def State.inherit (s : State) (best : Root) : State :=
  let own := s.ownClass
  let p := s.plumb
  let lostRef := p.wasRef && !s.is .PLB_STATUS_PPS_IN_OK
  let lostRoot := p.kin && decide (0x20 < best.1)
  { s with plumb := { p with heir := p.heir || lostRef || lostRoot, wasRef := decide (own ≤ 0x20) } }

def lowestRoot (xs : List Root) (r : Root) : Root := xs.foldl (fun b x => if rootLess x b then x else b) r

/-- The module is root, or child on a lane, from now on: PLB_ROOT, ROLE, PARENT, STEPS and PATH_UNC (R235, R238). While a
live root is best that no lit lane names, the module is neither: ROLE is 0, and its steps stay (Table 110; DEDUCED, log entry
22). -/
def State.takeRoot (s : State) (best : Root) (parent : Option (Nat × Offer)) : State :=
  let s1 := ((s.wr2 .PLB_ROOT_UID_LO_UID .PLB_ROOT_UID_HI_UID 0 best.2.2).wr .PLB_ROOT_CLASS 0 best.1).wr
    .PLB_ROOT_PRIORITY 0 best.2.1
  match parent with
  | none => if best.2.2 ≠ s.uid then (s1.wr .PLB_STATUS_ROLE 0 0).clr .PLB_STATUS_PARENT else
    (((s1.wr .PLB_STATUS_ROLE 0 (if s.hasRef then 2 else 3)).clr .PLB_STATUS_PARENT).clr .PLB_ROOT_STEPS).clr
      .PLB_UNC_PATH_UNC
  | some (l, o) =>
    let unc := s.rd .PLB_LCFG_ASYM_UNC l
    (((s1.wr .PLB_STATUS_ROLE 0 1).wr .PLB_STATUS_PARENT 0 l).wr .PLB_ROOT_STEPS 0 (min 255 (o.steps + 1))).wr
      .PLB_UNC_PATH_UNC 0 (min 65535 (sqrtUp (o.pathUnc ^ 2 + unc ^ 2)))

/-- The rules that a module applies at its announcement instants (R238). -/
def State.elect (s : State) : State :=
  let offers := s.liveOffers
  let roots := offers.map fun x => x.2.root
  let mine := fun (t : State) => ((t.ownClass, t.rd .PLB_RANK_PRIORITY, t.uid) : Root)
  let s1 := s.inherit (lowestRoot roots (mine s))
  let best := lowestRoot roots (mine s1)
  let old := s.rd2 .PLB_ROOT_UID_LO_UID .PLB_ROOT_UID_HI_UID
  let new := best.2.2 != old || s.rd .PLB_ROOT_CLASS == 0xFF
  let s2 := s1.takeRoot best (if best.2.2 = s.uid then none else s1.pickParent best offers)
  let s3 := if new then
      ((s2.bump .PLB_COUNT_ROOT_CHANGES).record 0x23 0xA8
        [(8, best.2.2), (1, best.1), (1, best.2.1), (1, s2.rd .PLB_ROOT_STEPS)]).sendFault 0xA8 0x43
    else s2
  s3.refreshTimeOk.showLanes

/-- ROOT_SEQ of the next announcement (R236). -/
def State.nextRootSeq (s : State) : Nat :=
  if s.role = 1 then ((s.lane (s.rd .PLB_STATUS_PARENT)).offer.map (·.rootSeq)).getD s.plumb.rootSeq
  else if s.role = 0 then s.plumb.rootSeq
  else (s.plumb.rootSeq + 1) % 65536

/-- The ANNOUNCE message on lane l (Table 107). -/
def State.announceFrame (s : State) (l : Nat) : Frame :=
  let w0 := place 0 4 2 + place 4 4 1 + place 8 12 s.nodeAddr + place 20 8 (s.rd .PLB_ROOT_STEPS) +
    place 28 3 s.tstate + place 31 1 (s.rd .PLB_STATUS_TIME_OK) + place 32 8 (s.rd .PLB_ROOT_CLASS) +
    place 40 8 (s.rd .PLB_ROOT_PRIORITY) + place 48 16 (s.rd .PLB_UNC_PATH_UNC)
  { cls := 0, dest := 0, src := s.nodeAddr, isLocal := true
    words := [word64 w0, word64 (s.rd2 .PLB_ROOT_UID_LO_UID .PLB_ROOT_UID_HI_UID),
      word64 (s.rd .PLB_ASYM_FIX_FIX l + s.rd .PLB_ASYM_RATIO_RATIO l * 2 ^ 32), word64 s.plumb.rootSeq] }

/-- ANNOUNCE_SEND (R236, R238). -/
def execAnnounceSend (s : State) : Host.Outcome State Fault Refusal :=
  let s1 := s.elect
  let s2 := { s1 with plumb := { s1.plumb with rootSeq := s1.nextRootSeq } }
  .next (s2.forEach (fun l t => if t.laneUp l then t.sendFrame l (t.announceFrame l) else t) allLanes)

/-- A peer's asymmetry values against the module's own (R234). -/
def State.checkAsym (s : State) (l w : Nat) : State :=
  let fix := s.rdS .PLB_ASYM_FIX_FIX l + signed 32 (bits 0 32 w)
  let ratio := s.rdS .PLB_ASYM_RATIO_RATIO l + signed 32 (bits 32 32 w)
  if fix.natAbs ≤ 1 ∧ ratio.natAbs ≤ 1 then s
  else
    let s1 := (s.set1 .PLB_LSTAT_MISMATCH l).set1 .PLB_STATUS_ASYM_MISMATCH
    if (s.lane l).asymSent then s1
    else (s1.updLane l fun x => { x with asymSent := true }).sendFault 0xA8 0x40 l

/-- What the lanes' latest announcements say of the root with identity `uid`. -/
def State.offersOf (s : State) (uid : Nat) : List Offer :=
  (allLanes.filterMap fun l => (s.lane l).offer).filter fun o => o.uid == uid

/-- The offer that an ANNOUNCE message makes; ROOT_SEQ has advanced when it is ahead of what every lane has shown of the
root, modulo 65,536 (R238). -/
def State.takeOffer (s : State) (l : Nat) (f : Frame) : State :=
  let w := msgW f
  let seq := bits 0 16 (w 3)
  let steps := bits 20 8 (w 0)
  let s1 := s.checkAsym l (w 2)
  if steps = 255 then s1
  else
    let same := s.offersOf (w 1)
    let advanced := same.all fun o => decide (0 < (seq + 65536 - o.rootSeq) % 65536 ∧ (seq + 65536 - o.rootSeq) % 65536 < 32768)
    let seen := if advanced then s.clk.tick else (same.map (·.seen)).foldl max 0
    let o : Offer := { cls := bits 32 8 (w 0), prio := bits 40 8 (w 0), uid := w 1, steps := steps, tstate := bits 28 3 (w 0),
                       timeOk := bit 31 (w 0), pathUnc := bits 48 16 (w 0), rootSeq := seq, seen := seen }
    (s1.updLane l fun x => { x with offer := some o }).showLanes

/-- ANNOUNCE (R236, R231). -/
def execAnnounce (l : LaneIx) (f : Frame) (s : State) : Host.Outcome State Fault Refusal :=
  .next (s.receive l f false fun t =>
    if f.cls = 0 ∧ bits 0 4 (msgW f 0) = 2 ∧ bits 4 4 (msgW f 0) = 1 ∧ f.words.length = 4 then t.takeOffer l f
    else t.bump .PLB_LCOUNT_EXCH_BAD l)

/-- HOLD_LIMIT_EXPIRE (R237, Table 113): class 0x30 becomes 0x40, and the module elects anew. -/
def execHoldLimitExpire (s : State) : Host.Outcome State Fault Refusal :=
  .next (if s.plumb.heir then ({ s with plumb := { s.plumb with heir := false, kin := false } }).elect else s)

/-- TIME_CHECK (R244): the mean of θ over 1 s on a lane that is not the parent's. -/
def execTimeCheck (l : LaneIx) (s : State) : Host.Outcome State Fault Refusal :=
  let x := s.lane l
  let s1 := if x.thetas = [] then s else s.updLane l fun y => { y with thetas := [] }
  let lim := max 1 (s.rd .PLB_CTRL_CHECK_LIM) * 65536 * x.thetas.length
  let parent := s.role = 1 ∧ s.rd .PLB_STATUS_PARENT = l.val
  .next (if !s.laneUp l || !(x.offer.map (·.timeOk)).getD false || decide parent || decide (x.thetas.sum.natAbs ≤ lim) then s1
    else
      let s2 := (s1.set1 .PLB_LSTAT_CHECK_FAIL l).set1 .PLB_STATUS_CHECK_FAIL
      if x.checkSent then s2 else (s2.updLane l fun y => { y with checkSent := true }).sendFault 0xA8 0x41 l)

/-! ### The discipline law (R239, R240, R250) -/

/-- v / 2^k, to nearest, ties away from zero. -/
def srBits (v : Int) (k : Nat) : Int := roundDiv v (2 ^ k)

/-- The bound of Table 111 after `t` milliseconds, in ns rounded up. -/
def holdError (t : Nat) : Nat :=
  min 65535 (
    if t ≤ 10000 then ceilDiv t 10000
    else if t ≤ 1000000 then ceilDiv (990000 + 19 * (t - 10000)) 990000
    else if t ≤ 3600000 then ceilDiv (20 * 2600000 + 80 * (t - 1000000)) 2600000
    else ceilDiv (100 * 82800000 + 4900 * (t - 3600000)) 82800000)

/-- PLB_HOLD follows the time in HOLDOVER (R250). -/
def State.showHold (s : State) : State :=
  let ms := if s.tstate = 4 then s.plumb.holdMs else 0
  (s.wr .PLB_HOLD_HOLD_S 0 (min 65535 (ms / 1000))).wr .PLB_HOLD_HOLD_ERR 0 (holdError ms)

/-- What the update leaves visible: PLB_FI, PLB_OFFSET, PLB_HOLD, FI_LIMIT with its fault, and TIME_OK. -/
def State.showLoop (s : State) : State :=
  let s1 := (s.wr .PLB_FI_FI 0 (satBits 32 s.plumb.fi)).showHold
  let s2 := if s.plumb.xs = [] then s1
    else s1.wr .PLB_OFFSET_OFS 0 (satBits 32 (roundDiv s.plumb.xs.sum s.plumb.xs.length))
  let s3 := if s2.fiOver then
      let t := s2.set1 .PLB_STATUS_FI_LIMIT
      if t.hasCond 0xA8 0x42 then t else t.sendFault 0xA8 0x42
    else s2.sendClear 0xA8 0x42
  let p := s3.plumb
  let kin := if s3.tstate = 2 then decide (s3.role = 1 ∧ s3.rd .PLB_ROOT_CLASS ≤ 0x20) || (p.kin && s3.role == 0)
    else s3.tstate == 4 && p.kin
  ({ s3 with plumb := { p with kin := kin } }).refreshTimeOk

/-- HOLDOVER: counted from the last x. -/
def State.enterHoldover (s : State) : State :=
  if s.tstate = 4 then s
  else ({ s with plumb := { s.plumb with holdMs := s.plumb.stale } }).wr .PLB_STATUS_TSTATE 0 4

/-- An update without a fresh x. -/
def State.updateWithout (s : State) : State :=
  let p := s.plumb
  let s1 := { s with plumb := { p with ph := 0, fcorr := p.fi, stale := p.stale + 1, holdMs := p.holdMs + 1 } }
  if s1.tstate ≠ 0 ∧ (s1.role = 3 ∨ (10 ≤ p.stale + 1 ∧ s1.role ≠ 2)) then s1.enterHoldover else s1

/-- Runs of x (Table 109). -/
def Plumb.runs (p : Plumb) (x : Int) : Plumb :=
  { p with near := if x.natAbs ≤ 1311 then p.near + 1 else 0, far := if 65536 < x.natAbs then p.far + 1 else 0
           stale := 0, xs := (x :: p.xs).take 1000 }

/-- The state rules of Table 109 at an update with a fresh x outside FREE. -/
def State.timeStates (s : State) : State :=
  let p := s.plumb
  match s.tstate with
  | 4 => ({ s with plumb := { p with near := min 1 p.near, far := min 1 p.far } }).wr .PLB_STATUS_TSTATE 0 3
  | 1 | 3 => if 2000 ≤ p.near then s.wr .PLB_STATUS_TSTATE 0 2 else s
  | 2 => if 16 ≤ p.far then s.wr .PLB_STATUS_TSTATE 0 3 else s
  | _ => s

/-- The steering part of the law, for loop shifts tp and ti and an integration over n updates. -/
def State.steer (s : State) (x : Int) (tp ti n : Nat) : State :=
  let p := s.plumb
  if s.tstate = 1 then
    let fi := clampI (-2147483647) 2147483647 (p.fi + srBits (-256 * x) ti)
    let ph := srBits (-256 * x) tp
    { s with plumb := { p with fi := fi, ph := ph, fcorr := fi + ph } }
  else
    let slew : Int := min (s.rd .PLB_SLEW_PHASE_SLEW) (max 1 (s.rd .PLB_SLEW_FW_PHASE_SLEW))
    let ph := clampI (-slew) slew (srBits (-256 * x) tp)
    let acc := p.acc + ph
    let q := if p.cnt + 1 = n then { p with fi := p.fi + srBits acc 10, acc := 0, cnt := 0 }
      else { p with acc := acc, cnt := p.cnt + 1 }
    let s1 := { s with plumb := { q with ph := ph, fcorr := q.fi + ph } }
    if ph = srBits (-256 * x) tp then s1 else s1.tally 2 0x02 0

/-- STEP_MIN in ns: at least 10 (Table 116). -/
def State.stepMin (s : State) : Nat := max 10 (s.rd .PLB_LOOP_STEP_MIN)

/-- An update with a fresh x (R239). `open'`: it comes from a reference or from a parent that is not FREE; `pps`: from
PPS_IN alone. -/
def State.updateWith (s : State) (x : Int) (open' pps : Bool) : State :=
  let s1 := ({ s with plumb := s.plumb.runs x }).wrB .PLB_STATUS_TIME_AHEAD 0 (decide (65536 < x))
  if s1.tstate = 0 then
    let s2 := s1.planStep (-x) true
    if open' then
      ({ s2 with plumb := { s2.plumb with near := 0, far := 0, acc := 0, cnt := 0 } }).wr .PLB_STATUS_TSTATE 0 1
    else s2
  else if x < -(s1.stepMin * 65536 : Nat) then (s1.planStep (-x) false).timeStates
  else
    (if pps then s1.steer x (s1.rd .PLB_GM_TP_PPS) (s1.rd .PLB_GM_TI_PPS) 16
      else s1.steer x (s1.rd .PLB_LOOP_TP) (s1.rd .PLB_LOOP_TI) 1024).timeStates

/-- x from a REF_IN edge against the 100 ns grid of the marked second, and the edge as the new mark (R246). -/
def State.refX (s : State) (edge : Int) : Option (Int × (Int × Int)) :=
  match s.plumb.refAnchor with
  | none => none
  | some (at', mark) =>
    let e := (s.now : Int) + edge + s.rdS .PLB_REF_IN_DLY_DLY
    let grid : Int := 6553600
    let m := mark + grid * roundDiv (e - at') 6553600
    some (e - m, (e, m))

/-- What an update uses: x with the steps that wait already taken, whether a reference or a parent that is not FREE gives it,
and whether it is PPS_IN alone; none without a fresh x. -/
def State.freshX (s : State) (ref : Option Int) : Option (Int × Bool × Bool) :=
  if s.usesRef then
    if s.refMode then (ref.bind s.refX).map fun r => (r.1 + s.plumb.pendStep, true, false)
    else s.plumb.ppsX.map fun x => (x + s.plumb.pendStep, true, true)
  else if s.role = 1 then
    let y := s.lane (s.rd .PLB_STATUS_PARENT)
    y.fresh.map fun x => (x + s.plumb.pendStep, (y.offer.map (·.tstate)).getD 0 != 0, false)
  else none

/-- What an update has seen is fresh no more: the offsets of all lanes, an edge of PPS_IN, and a new mark of REF_IN. -/
def State.useX (s : State) (ref : Option Int) : State :=
  let s1 := if s.usesRef then
      { s with plumb := { s.plumb with
          ppsX := none, refAnchor := if s.refMode then (match ref.bind s.refX with | some r => some r.2 | none => s.plumb.refAnchor)
            else s.plumb.refAnchor } }
    else s
  s1.forEach (fun l t => if (t.lane l).fresh = none then t else t.updLane l fun y => { y with fresh := none }) allLanes

/-- PLUMB_UPDATE (R239): a dark parent lane is replaced first (R238); `ref` is a REF_IN edge near the update. With PPS_IN alone
the update comes with an edge only. -/
def execPlumbUpdate (ref : Option Int) (s : State) : Host.Outcome State Fault Refusal :=
  let s0 := if s.role = 1 ∧ !s.laneUp (s.rd .PLB_STATUS_PARENT) then s.elect else s
  .next (match s0.freshX ref with
    | some (x, open', pps) => ((s0.useX ref).updateWith x open' pps).showLoop
    | none => if s0.usesRef && !s0.refMode then s0.useX ref else (s0.useX ref).updateWithout.showLoop)

/-! ### Grandmaster inputs (R245 to R247) -/

/-- The whole second nearest to an instant, in quanta. -/
def nearestSecond (t : Int) : Int := roundDiv t quantaPerSec * (quantaPerSec : Int)

/-- The armed second would be applied at an edge at `t` (R247): in FREE, or forward at a root. -/
def State.todFits (s : State) (t : Int) : Option Int :=
  match s.plumb.tod with
  | none => none
  | some c =>
    let v : Int := c * quantaPerSec
    if s.tstate = 0 ∨ ((s.role = 2 ∨ s.role = 3) ∧ t ≤ v) then some v else none

/-- An edge at `t` is accepted: it marks a second, sets the REF_IN grid, and gives x (R245, R246). -/
def State.acceptPps (s : State) (t : Int) (ref : Option Int) : State :=
  let mark := (s.todFits t).getD (nearestSecond t)
  let r := ref.map fun e => (s.now : Int) + e + s.rdS .PLB_REF_IN_DLY_DLY
  let p := { s.plumb with ppsLast := some t, ppsX := some (t - mark), todEdge := if s.plumb.tod.isSome then s.plumb.todEdge.orElse (fun _ => some t) else none }
  match (if s.is .PLB_STATUS_REF_IN_OK then r else none) with
  | none => { s with plumb := p }
  | some e =>
    if nsQ 40 < (e - t).natAbs then
      ({ s with plumb := { p with skewed := true, refAnchor := none } }).set1 .PLB_REF_STAT_PPS_REF_SKEW
    else { s with plumb := { p with skewed := false, refAnchor := some (e, mark) } }

/-- PPS_IN_EDGE (R245): a rising edge, and the REF_IN edge nearest to it. -/
def execPpsInEdge (edge : Int) (ref : Option Int) (s : State) : Host.Outcome State Fault Refusal :=
  let t := (s.now : Int) + edge + s.rdS .PLB_PPS_IN_DLY_DLY
  .next (
    if s.is .PLB_STATUS_PPS_IN_OK then
      if (t - nearestSecond t).natAbs ≤ usQ 1 then (s.acceptPps t ref).tally 2 0x03 0
      else (s.bump .PLB_REF_STAT_PPS_REJECT).tally 2 0x04 0
    else
      let inRow := match s.plumb.ppsLast with
        | some u => decide ((t - u - quantaPerSec).natAbs ≤ usQ 1)
        | none => false
      let run := if inRow then s.plumb.ppsRun + 1 else 0
      let s1 := { s with plumb := { s.plumb with ppsRun := run, ppsLast := some t } }
      if 3 ≤ run then ((s1.set1 .PLB_STATUS_PPS_IN_OK).acceptPps t ref).tally 2 0x03 0 else s1)

/-- PPS_IN_TIMEOUT (R245). -/
def execPpsInTimeout (s : State) : Host.Outcome State Fault Refusal :=
  .next (({ s with plumb := { s.plumb with ppsRun := 0, ppsLast := none, ppsX := none, todEdge := none, skewed := false } }).clr
    .PLB_STATUS_PPS_IN_OK)

/-- REF_BAD (R246). -/
def execRefBad (s : State) : Host.Outcome State Fault Refusal :=
  .next ((({ s with plumb := { s.plumb with refAnchor := none } }).clr .PLB_STATUS_REF_IN_OK).set1 .PLB_REF_STAT_REF_BAD)

/-- REF_IN_RESTORE (R246). -/
def execRefInRestore (s : State) : Host.Outcome State Fault Refusal := .next (s.set1 .PLB_STATUS_REF_IN_OK)

/-- A write of PLB_TOD_HI: ARM = 1 commits the second (R247). -/
def State.writeTod (s : State) (w : Nat) : State :=
  let s1 := s.wr .PLB_TOD_HI_SEC_HI 0 w
  if bit 31 w then
    let t := s1.set1 .PLB_TOD_HI_ARM
    { t with plumb := { t.plumb with tod := some (t.rd .PLB_TOD_LO_SEC_LO + bits 0 16 w * 2 ^ 32), todFrom := s.now, todEdge := none } }
  else s1

/-- TOD_ARM (R247). -/
def execTodArm (w : Word) (s : State) : Host.Outcome State Fault Refusal := .next (s.writeTod w.toNat)

/-- The edge or whole second at which an armed second acts; none while it has not come. -/
def State.todInstant (s : State) : Option Int :=
  if s.is .PLB_STATUS_PPS_IN_OK then s.plumb.todEdge
  else
    let t := s.now / quantaPerSec * quantaPerSec
    if s.plumb.todFrom < t then some (t : Int) else none

/-- TOD_APPLY (R247, Table 113): a step of x that waits in the same update comes first. -/
def execTodApply (s : State) : Host.Outcome State Fault Refusal :=
  .next (match s.plumb.tod, s.todInstant with
    | some c, some t =>
      let s1 := ({ s with plumb := { s.plumb with tod := none, todEdge := none } }).clr .PLB_TOD_HI_ARM
      let d : Int := c * quantaPerSec - (t + s.plumb.pendStep)
      if s.tstate = 0 then (if d = 0 then s1 else s1.planStep d true)
      else if (s.role = 2 ∨ s.role = 3) ∧ 0 ≤ d then (if d = 0 then s1 else s1.planStep d false)
      else s1.set1 .PLB_STATUS_TOD_REFUSED
    | _, _ => s)

/-! ### Reads, writes and outputs -/

/-- A read of PLB_TIME0 by requester r: the word, with PLB_TIME1 and PLB_TIME2 latched in the same cycle (R230). -/
def State.readTime0 (s : State) (r : Nat) : State :=
  let b := timeBits s.now
  s.setReader r { s.reader r with data := BitVec.ofNat 32 b, time1 := some (BitVec.ofNat 32 (b / 2 ^ 32))
                                  time2 := some (BitVec.ofNat 32 (b / 2 ^ 64)) }

/-- PLB_TIME0_READ (R230). -/
def execPlbTime0Read (who : Requester) (s : State) : Host.Outcome State Fault Refusal :=
  .next (s.viaRead who fun t => t.readTime0 (requesterIx who))

/-- FW_PHASE_SLEW written: at most PHASE_SLEW (R254). -/
def State.writePhaseSlew (s : State) (v : Nat) : State :=
  if s.rd .PLB_SLEW_PHASE_SLEW < v % 65536 then
    (s.wr .PLB_SLEW_FW_PHASE_SLEW 0 (s.rd .PLB_SLEW_PHASE_SLEW)).set1 .PLB_STATUS_SLEW_CLAMP
  else s.wr .PLB_SLEW_FW_PHASE_SLEW 0 v

/-- FW_PHASE_SLEW_WRITE (R254). -/
def execFwPhaseSlewWrite (v : BitVec 16) (s : State) : Host.Outcome State Fault Refusal :=
  .next (s.writePhaseSlew v.toNat)

/-- PPS_WIDTH in ms: 1 to 900 (Table 115). -/
def State.ppsWidth (s : State) : Nat := max 1 (min 900 (s.rd .PLB_CTRL_PPS_WIDTH))

/-- PPS_OUT_PULSE (R248): due in the tick that holds the whole second, once for each second. The pulse rises at the second
less PPS_OUT_DLY and stays high for its width. -/
def execPpsOutPulse (s : State) : Host.Outcome State Fault Refusal :=
  let t := (s.now : Int) + s.rdS .PLB_PPS_OUT_DLY_DLY
  let m := roundDiv t quantaPerSec
  let rise := m * quantaPerSec - s.rdS .PLB_PPS_OUT_DLY_DLY
  let runs := if s.is .PLB_CTRL_PPS_OUT_MODE then s.is .PLB_STATUS_TIME_OK else s.tstate != 0
  .next (if s.is .PLB_CTRL_PPS_OUT_EN && runs && decide ((t - m * quantaPerSec).natAbs < usQ 10) && s.plumb.lastPulse != some m then
      { s with plumb := { s.plumb with
          ppsOut := true, ppsRise := rise, ppsTill := rise + (usQ (1000 * s.ppsWidth) : Nat), lastPulse := some m } }
    else s)

/-- Plumb at a tick boundary: a waiting step takes effect, and a pulse that has had its width ends. -/
def State.plumbTick (s : State) : State :=
  let s1 := s.applyStep
  if s1.plumb.ppsOut && decide (s1.plumb.ppsTill ≤ s1.now) then { s1 with plumb := { s1.plumb with ppsOut := false } } else s1

end Sys2Proof.Machine
end

