-- ==== Sys2Proof/Machine/BandPath.lean ====
section
/-!
DEFINITION. Band paths (02_band_paths.md): the staged declaration and its check, start, retune and stop, the grains that a
band path forms, publishes and emits, and the fence of a band path.
-/

namespace Sys2Proof.Machine

/-! ### Declarations (R58, R68, R69) -/

/-- The staged declaration of band path n. -/
def State.stagedDecl (s : State) (n : Nat) : Decl :=
  { span := s.rd .BP_CTRL_SPAN n, srcKind := s.rd .BP_ROUTE_SRC_KIND n, srcPort := s.rd .BP_ROUTE_SRC_PORT n
    srcNode := s.rd .BP_ROUTE_SRC_NODE n, srcBp := s.rd .BP_ROUTE_SRC_BP n, dstKind := s.rd .BP_ROUTE_DST_KIND n
    dstPort := s.rd .BP_ROUTE_DST_PORT n, stripe := s.rd .BP_ROUTE_STRIPE n, group := s.rd .BP_ROUTE_GROUP n
    freq := s.rd .BP_FREQ_FREQ n, dstFreq := s.rd .BP_DST_FREQ_FREQ n }

/-- Two declarations have the same BP_ROUTE. -/
def Decl.sameRoute (a b : Decl) : Bool :=
  decide (({ a with span := 0, freq := 0, dstFreq := 0 } : Decl) = { b with span := 0, freq := 0, dstFreq := 0 })

/-- The declarations that count beside n's (R45): running band paths, with the one that waits for its boundary. -/
def State.otherDecls (s : State) (n : Nat) : List Decl :=
  (allBps.filter fun m => m != n && s.running m).map fun m => (s.bp m).passed.getD (s.bp m).decl

/-- Code 2: the band against its windows (R41). -/
def State.windowBad (s : State) (d : Decl) : Bool :=
  (d.srcKind == 1 && !inWindow d.span d.freq (s.checkCentres d.srcPort).1) ||
    (d.dstKind == 1 && !inWindow d.span d.dstFreq (s.checkCentres d.dstPort).2)

/-- Code 3: a guarded bin of the band is forbidden for the port (R210, R211). -/
def State.bandForbidden (s : State) (d : Decl) : Bool :=
  d.dstKind == 1 && s.anyForbidden d.dstPort (guardedBand d.span d.dstFreq).1 (guardedBand d.span d.dstFreq).2

/-- Code 4: the channelizer group: 64 band paths and 2,000 MS/s, which is 102,400 steps of span (Table 18). -/
def State.groupFull (s : State) (n : Nat) (d : Decl) : Bool :=
  let same := (s.otherDecls n).filter fun o => o.group == d.group
  (d.srcKind == 1 && d.group != d.srcPort) || decide (64 ≤ same.length) ||
    decide (102400 < (same.map (·.span)).sum + d.span)

/-- Code 5: the transmit window: 32 band paths and 2,400 MS/s, which is 122,880 steps (R25, Table 18). -/
def State.windowFull (s : State) (n : Nat) (d : Decl) : Bool :=
  let same := (s.otherDecls n).filter fun o => o.dstKind == 1 && o.dstPort == d.dstPort
  d.dstKind == 1 && (decide (32 ≤ same.length) || decide (122880 < (same.map (·.span)).sum + d.span))

/-- The module holds an address, and some lane is UP (R273). -/
def State.onFabric (s : State) : Bool := s.is .COL_NODE_VALID && allLanes.any s.laneUp

/-- The reject code of declaration d for band path n; `live`: ENABLE is 1. Codes in ascending order, but for the kinds
and the route, without which no other test has a meaning (R58, R60, R64; log entry 17). -/
def State.declCode (s : State) (n : Nat) (d : Decl) (live : Bool) : Nat :=
  let x := s.bp n
  if !((d.srcKind == 1 || d.srcKind == 2) && (d.dstKind == 1 || d.dstKind == 2)) then 9
  else if s.running n && live && !d.sameRoute x.decl then 10
  else if d.span = 0 ∨ 25600 < d.span then 1
  else if s.windowBad d then 2
  else if s.bandForbidden d then 3
  else if s.groupFull n d then 4
  else if s.windowFull n d then 5
  else if !live then 0
  else if s.running n then
    if d.span ≠ x.decl.span ∧ (d.srcKind = 2 ∨ (d.dstKind = 2 ∧ x.pub.subscriber.isSome)) then 7 else 0
  else if d.srcKind = 2 ∧ s.onFabric = false then 6
  else if d.dstKind = 2 ∧ s.is .COL_NODE_VALID = false then 6
  else 0

/-! ### Subscribing (Table 122) -/

/-- UNSUB to the publisher that a declaration names (R274). -/
def State.sendUnsub (s : State) (d : Decl) : State := s.sendRouted d.srcNode [msgWord 13 d.srcNode d.srcBp false 0 0]

/-- Step 1: SUB_REQ. -/
def State.sendSubReq (s : State) (n : Nat) (d : Decl) : State :=
  (s.updBp n fun x => { x with sub := { x.sub with waiting := true, on := false } }).sendRouted d.srcNode
    [msgWord 3 d.srcNode d.srcBp false 0 (place 0 12 s.nodeAddr + place 12 7 n), word64 d.span]

/-- The subscription of band path n ends: UNSUB, its entries and its view. -/
def State.endSub (s : State) (n : Nat) (d : Decl) : State :=
  if !((s.bp n).sub.on || (s.bp n).sub.waiting) then s
  else
    let s1 := (s.sendUnsub d).updBp n fun x => { x with sub := {} }
    [false, true].foldl (fun t rid => match t.entry d.srcNode d.srcBp rid with
      | some e => t.dropEntry e
      | none => t) (s1.colStatus n 0 0 1 0 false)

/-! ### The end of a check (R58, R59, R64) -/

/-- The check fails: REJECT, and the band path as it was. -/
def State.bpReject (s : State) (n code : Nat) : State :=
  let s1 := ((s.wr .BP_STATUS_REJECT n code).clr .BP_STATUS_PENDING n).updBp n fun x =>
    { x with check := none, sub := { x.sub with waiting := false } }
  if s.rd .BP_STATUS_STATE n = 1 then s1.wr .BP_STATUS_STATE n 0 else s1

/-- Every figure that depends on which band paths run with which declaration (R98, R213). -/
def State.refreshPorts (s : State) (d : Decl) : State :=
  let s1 := if d.dstKind = 1 then ((s.refreshCeilings d.dstPort).pilotReview d.dstPort).noteGuards d.dstPort else s
  if d.srcKind = 1 then s1.pilotReview d.srcPort else s1

/-- A published stream is registered with Col (R272); its emission headroom is 0 and never fresh (R215). -/
def State.register (s : State) (n : Nat) (d : Decl) : State :=
  if d.dstKind ≠ 2 then s
  else
    (((s.updBp n fun x => { x with pub := { x.pub with registered := true }, eng := { x.eng with emit := none } }).wr
      .EMG_BP_STATUS_H_E n 0).colStatus n 1 0 (d.stripe + 1) 0 false).wr .COL_BP_RATE_RATE n (streamRate d.span (d.stripe + 1))

/-- A started band path on a port under an OUT mute is muted with it (R217). -/
def State.joinOut (s : State) (n : Nat) (d : Decl) : State :=
  if d.dstKind = 1 ∧ (s.port d.dstPort).outMute then (s.g2Mute n (muteOut d.dstPort)).set1 .EMG_BP_STATUS_PORT n else s

/-- A band path restarts its chain: synchronising reset for a receive window, whose chain gives no sample before T_sync
(R115, R117), and establishment. -/
def State.restartChain (s : State) (n : Nat) : State :=
  let s1 := s.chzStop n
  (if (s.bp n).decl.srcKind = 1 then s1.requestSync n else s1).enterEstablishing n

/-- The restart with its cold start (R145); a fenced band path waits for its release with the chain and the delay (R62,
R174). -/
def State.restart (s : State) (n : Nat) : State :=
  if s.rd .BP_STATUS_STATE n = 5 then s.startCold n else (s.startCold n).restartChain n

/-- The band path starts from OFF on declaration d (R59, R64, Table 22). -/
def State.bpStart (s : State) (n : Nat) (d : Decl) : State :=
  let fencedNow := s.rd .BP_STATUS_STATE n = 5
  let s1 := s.updBp n fun x => { x with
    decl := d, live := true, stop := false, ended := false, started := true, published := false, seq := 0, markStep := false
    out := none, powers := []
    gen := if x.started then (x.gen + 1) % 256 else 0, lastGrain := s.clk.tick, pub := {} }
  let s2 := ((s1.wr .BP_STATUS_STATE n (if fencedNow then 5 else 2)).refreshChain n).register n d
  ((s2.updBp n fun x => { x with dly := { x.dly with accepted := none } }).restart n |>.joinOut n d).refreshPorts d

/-- The check passes (R59, R64). -/
def State.bpPass (s : State) (n : Nat) (d : Decl) (live : Bool) : State :=
  let s1 := (s.clr .BP_STATUS_REJECT n).updBp n fun x => { x with check := none }
  if live then
    if s.running n then s1.updBp n fun x => { x with passed := some d }
    else (s1.clr .BP_STATUS_PENDING n).bpStart n d
  else if s.running n then s1.updBp n fun x => { x with atStop := some d }
  else ((s1.updBp n fun x => { x with decl := d }).refreshChain n).clr .BP_STATUS_PENDING n

/-- A check ends (R58): not due while a subscription waits for RESV or SUB_NAK (Table 122). -/
def State.checkDone (s : State) (n : Nat) : State :=
  match (s.bp n).check with
  | none => s
  | some c =>
    if (s.bp n).sub.waiting then s
    else
      let code := s.declCode n c.decl c.live
      if code ≠ 0 then s.bpReject n code
      else if c.live ∧ s.running n = false ∧ c.decl.srcKind = 2 then s.bpReject n 6
      else s.bpPass n c.decl c.live

/-- BP_CHECK_DONE (R58). -/
def execBpCheckDone (n : BpIx) (s : State) : Host.Outcome State Fault Refusal := .next (s.checkDone n)

/-! ### ENABLE and APPLY (R58, R61, R63, R64) -/

/-- An APPLY is taken: the check begins, with Col's exchange for a start that subscribes. -/
def State.bpApply (s : State) (n : Nat) : State :=
  if s.is .BP_STATUS_PENDING n then s.set1 .BP_STATUS_BUSY n
  else
    let live := s.is .BP_CTRL_ENABLE n
    let d := s.stagedDecl n
    let s1 := (s.set1 .BP_STATUS_PENDING n).updBp n fun x => { x with check := some ⟨d, live⟩ }
    let start := live && !s.running n
    let s2 := if start && decide (s.rd .BP_STATUS_STATE n = 0) then s1.wr .BP_STATUS_STATE n 1 else s1
    if start && d.srcKind == 2 then
      let code := s.declCode n d true
      if code = 6 then s2.bpReject n 6 else if code = 0 then s2.sendSubReq n d else s2
    else s2

/-- A pending APPLY is cancelled (R61). -/
def State.bpCancel (s : State) (n : Nat) : State :=
  let s1 := match (s.bp n).check with
    | some c => if s.running n then s else s.endSub n c.decl
    | none => s
  let s2 := (s1.clr .BP_STATUS_PENDING n).updBp n fun x => { x with check := none, passed := none, atStop := none }
  if s.rd .BP_STATUS_STATE n = 1 then s2.wr .BP_STATUS_STATE n 0 else s2

/-- ENABLE = 0 (R61, R63): a pending APPLY is cancelled, whichever ENABLE it was made with; a running band path stops. -/
def State.bpDisable (s : State) (n : Nat) : State :=
  let s1 := (if s.is .BP_STATUS_PENDING n then s.bpCancel n else s).clr .BP_CTRL_ENABLE n
  if s.running n && s.is .BP_CTRL_ENABLE n then s1.updBp n fun x => { x with stop := true, ended := false } else s1

/-- ENABLE = 1: acts from OFF only (R64). While a check made with ENABLE at 0 is pending, the check begins again on the same
staged declaration as one made with ENABLE at 1 (DESIGN CHOICE, log entry 30). -/
def State.bpEnable (s : State) (n : Nat) : State :=
  if s.is .BP_CTRL_ENABLE n || s.rd .BP_STATUS_STATE n != 0 then s
  else ((if s.is .BP_STATUS_PENDING n then s.bpCancel n else s).set1 .BP_CTRL_ENABLE n).bpApply n

/-- One write of ENABLE and APPLY: both set act once (R64). -/
def State.bpWriteCtrl (s : State) (n : Nat) (enable apply : Bool) : State :=
  if enable then
    if s.is .BP_CTRL_ENABLE n || s.rd .BP_STATUS_STATE n != 0 then (if apply then s.bpApply n else s) else s.bpEnable n
  else
    let s1 := s.bpDisable n
    if !apply then s1 else if s.is .BP_STATUS_PENDING n then s1.set1 .BP_STATUS_BUSY n else s1.bpApply n

/-- BP_APPLY (R58). -/
def execBpApply (n : BpIx) (s : State) : Host.Outcome State Fault Refusal := .next (s.bpApply n)

/-- BP_ENABLE (R64). -/
def execBpEnable (n : BpIx) (s : State) : Host.Outcome State Fault Refusal := .next (s.bpEnable n)

/-- BP_DISABLE (R63). -/
def execBpDisable (n : BpIx) (s : State) : Host.Outcome State Fault Refusal := .next (s.bpDisable n)

/-! ### Retune and stop -/

/-- The declaration that has passed applies at a grain boundary (R59, R60, R115, R117, R145, R185). -/
def State.bpRetune (s : State) (n : Nat) (d : Decl) : State :=
  let old := (s.bp n).decl
  let s1 := (((s.updBp n fun x => { x with decl := d, passed := none }).clr .BP_STATUS_PENDING n).refreshChain n).refreshPorts d
  let changed := d.span ≠ old.span ∨ d.freq ≠ old.freq ∨ d.dstFreq ≠ old.dstFreq
  if d.span ≠ old.span then (s1.register n d).restart n
  else if changed then
    let s2 := if d.freq ≠ old.freq ∧ d.srcKind = 1 then
        s1.updBp n fun x => { x with chz := { x.chz with
          bad := x.chz.bad.filter (Interval.recent s.raw) ++ [⟨s.raw, some s.raw⟩] } }
      else s1
    s2.startCold n
  else s1

/-- BP_DECLARATION_APPLY (R59). -/
def execBpDeclarationApply (n : BpIx) (s : State) : Host.Outcome State Fault Refusal :=
  .next (match (s.bp n).passed with
    | some d => if s.running n then s.bpRetune n d else s
    | none => s)

/-- The band path stops: summing and publishing end, Col releases its routes, the declaration that waited applies. -/
def State.bpStop (s : State) (n : Nat) : State :=
  let d := (s.bp n).decl
  let next := (s.bp n).atStop.getD d
  let s1 := ((s.releaseAll n 0).endSub n d).updBp n fun x => { x with
    live := false, stop := false, ended := false, passed := none, atStop := none, decl := next, pub := {}, out := none }
  let s2 := ((s1.chzOff n).engineOff n).leaveDelay n true
  let s3 := if d.dstKind = 2 then s2.colStatus n 0 0 1 0 false else s2
  let s4 := if s.rd .BP_STATUS_STATE n = 5 then s3 else s3.wr .BP_STATUS_STATE n 0
  let s5 := if (s.bp n).atStop.isSome then (s4.clr .BP_STATUS_PENDING n).refreshChain n else s4
  s5.refreshPorts d

/-- A publisher that has begun to publish sends a grain with FLAGS.END before it stops (R63). -/
def State.endDue (s : State) (n : Nat) : Bool :=
  let x := s.bp n
  x.decl.dstKind == 2 && x.published && !x.ended

/-- BP_STOP (R63). -/
def execBpStop (n : BpIx) (s : State) : Host.Outcome State Fault Refusal :=
  .next (if s.running n && (s.bp n).stop && !s.endDue n then s.bpStop n else s)

/-! ### Fences (R57, R62, R64, Table 12) -/

/-- The fault collector fences band path n. -/
def State.bpFence (s : State) (n : Nat) : State :=
  if s.rd .BP_STATUS_STATE n = 5 then s
  else (((s.wr .BP_STATUS_STATE n 5).leaveDelay n false).chzStop n).updBp n (fun x => { x with
    dly := x.dly.recount }) |>.raise 5

/-- The last fence on band path n is released: the chain and the delay start anew (R64), with a cold start unless a mute
still holds, whose release brings it (Tables 77 and 100). A band path with ENABLE at 1 whose start had failed is not running;
it returns to OFF, or to CHECKING while an APPLY is under check, since R64 lets it start only at a later APPLY (DESIGN
CHOICE, log entry 30). -/
def State.bpRelease (s : State) (n : Nat) : State :=
  if s.rd .BP_STATUS_STATE n ≠ 5 then s
  else if !s.running n then
    s.wr .BP_STATUS_STATE n (match (s.bp n).check with | some c => if c.live then 1 else 0 | none => 0)
  else if s.is .BP_CTRL_ENABLE n then
    let s1 := s.wr .BP_STATUS_STATE n 2
    if (s.bp n).mutes = [] then s1.restart n else s1.restartChain n
  else (s.bpStop n).wr .BP_STATUS_STATE n 0

/-! ### Capture staging (R398, R402) -/

/-- Grains of one staging ring: 4,096 tiles of 14. -/
def stagingSize : Nat := 57344

/-- Every enabled ring that takes band path n at this tap stages a copy, or counts it as lost. -/
def State.capture (s : State) (n tap : Nat) (g : Grain) : State :=
  s.forEach (fun r t =>
    if t.is .SCR_FSTATUS_HOST_UP && t.is .DMA_STATUS_RUN r && t.rd .DMA_CTRL_BP r == n && t.rd .DMA_CTRL_TAP r == tap then
      let x := t.ring r
      if stagingSize ≤ x.staged.length then (t.bump .DMA_COUNT_LOST r).setRing r { x with lost := x.lost + 1 }
      else
        let k := x.wrote
        let tile := (if k % 14 = 0 then [] else x.filling) ++ [g]
        let t1 := if k % 14 = 13 then t.tileWritten (t.holderOf (stagingTile r k)) (tilePayload (tile.map grainBytes)) else t
        t1.setRing r { x with
          staged := x.staged ++ [{ grain := g, time := t.now, place := k, lostBefore := x.lost, poisonBefore := x.lostPoison }]
          wrote := (k + 1) % stagingSize, filling := tile, lost := 0, lostPoison := false }
    else t) (List.range 8)

/-! ### Forming an output grain (R46, R130, R136, R154, R459, R460) -/

/-- Bits of a validity map. -/
def popCount (v : BitVec 64) : Nat := (List.range 64).foldl (fun m i => m + flag (v.getLsbD i)) 0

/-- The probe's share of sample j of band path n (R154). -/
def State.probeAt (s : State) (n j : Nat) : IQ :=
  let v := probeSample (probeChip (s.codeIndex n)) codePeriod j (s.rdS .SDL_HEAD_PROBE n)
  ⟨v, v⟩

/-- What the gain stage makes of samples, each with its own gain: the sample after the gain, and whether it saturated
(R136). -/
def gainSamples (xs : List (IQ × Int)) : List (IQ × Bool) := xs.map fun x => gainSample (gainMantissa x.2) (gainShift x.2) x.1

/-- The gain of each of the 64 samples of a grain: a receive-window sample takes the gain in force at E_j, an arriving one
the gain in force now (R126, R136, R459). -/
def State.gainsFor (s : State) (n g : Nat) : List Int :=
  let x := s.bp n
  (List.range 64).map fun i =>
    if x.decl.srcKind = 1 then x.eng.gainAt (x.chz.instantN x.decl.span (64 * g + i) / (x.decl.span : Int))
    else x.eng.now.g

/-- The gain stage's samples with the probe added to the valid ones (R154); the tap of R214. -/
def State.withProbe (s : State) (n : Nat) (ys : List IQ) (valid : BitVec 64) : List IQ :=
  let x := s.bp n
  let probe := s.probeOn n
  ys.zipIdx.map fun y =>
    if probe && valid.getLsbD y.2 then IQ.map sat16 (IQ.add y.1 (s.probeAt n (x.sad.chip + y.2))) else y.1

/-- The output is muted: by MUTE, a guarded function or a fence (R28). -/
def State.muted (s : State) (n : Nat) : Bool := s.heldMute n || s.is .BP_CTRL_MUTE n

/-- The output samples: with the probe, and zero under a mute. -/
def State.outSamples (s : State) (n : Nat) (ys : List IQ) (valid : BitVec 64) : List Word :=
  if s.muted n then List.replicate 64 0 else (s.withProbe n ys valid).map sampleWord

/-- The powers that the fast ceiling averages: I² + Q² after the probe and before any mute, an invalid sample as zero
(R214). -/
def State.takePowers (s : State) (n : Nat) (ys : List IQ) (valid : BitVec 64) : State :=
  let zs := (s.withProbe n ys valid).zipIdx.map fun y =>
    if valid.getLsbD y.2 then (y.1.i * y.1.i + y.1.q * y.1.q).toNat else 0
  s.updBp n fun x => { x with powers := (zs.reverse ++ x.powers).take 4160 }

/-- The detectors take a grain's valid samples, before and after the gain, and arm once they have enough; the chip count and
the window run on (R130, R154 to R156). A fenced band path takes none. -/
def State.takeSamples (s : State) (n : Nat) (xs ys : List IQ) (valid : BitVec 64) : State :=
  let sh := s.rd .GCE_MODE_DET_SHIFT n
  let v := if s.fenced n then 0 else valid.toNat
  let counts := s.probeOn n && (!s.is .GCE_MODE_LVL_MODE n || (s.bp n).sad.windowOn)
  s.updBp n fun x =>
    let i := detect sh v xs 0 (x.sad.yIn, x.sad.takenIn)
    let o := detect sh v ys 0 (x.eng.y, x.eng.taken)
    { x with
      eng := { x.eng with y := o.1, taken := o.2, armed := x.eng.armed || decide (2 ^ sh ≤ o.2) }
      sad := { x.sad with yIn := i.1, takenIn := i.2, armedIn := x.sad.armedIn || decide (2 ^ sh ≤ i.2), chip := x.sad.chip + 64,
                          seen := if counts then x.sad.seen + popCount valid else x.sad.seen } }

/-- The grain that leaves band path n: `carried` holds the flags of its input (R51). -/
def State.outGrain (s : State) (n ts : Nat) (ys : List IQ) (valid : BitVec 64) (carried : Nat) (sat : Bool) : Grain :=
  let x := s.bp n
  let fl := carried % 128 ||| (flag (s.fenced n) + 2 * flag (s.is .BP_CTRL_MUTE n || x.mutes != []) +
    4 * flag x.markStep + 8 * flag sat) ||| (128 * flag x.stop) ||| (x.gen % 256 * 2 ^ 24)
  { ts := ts, node := s.nodeAddr, bp := n, seq := x.seq, valid := if s.fenced n then 0 else valid
    flags := BitVec.ofNat 64 fl, samples := s.outSamples n ys valid }

/-! ### Publishing (R50, R52, R55) -/

/-- The slots of one grain that is published, or emitted, by kind (Table 162): a muted slot counts as MUTED whatever its
validity, so SLOTS is VALID, SUBST and MUTED together (R374). -/
def State.tallySlots (s : State) (n slots valid : Nat) (muted : Bool) : State :=
  let s1 := s.tally 0 0x01 n slots
  if muted then s1.tally 0 0x04 n slots
  else (s1.tally 0 0x02 n (min valid slots)).tally 0 0x03 n (slots - valid)

/-- A grain goes onto its stream's lane, if the stream has a subscriber and a route (R272). -/
def State.sendGrain (s : State) (n : Nat) (g : Grain) : State :=
  let x := s.bp n
  match x.pub.route, x.pub.subscriber with
  | some r, some (dest, _) => match s.entry s.nodeAddr n r.rid with
    | none => s
    | some e =>
      let m := g.seq % e.k
      let l := e.out.getD m 0
      if e.out = [] then s.bump .COL_COUNT1_NO_ROUTE
      else
        let un := (s.lane l).members.any fun y => y.ofEntry e && y.index == m && y.unres
        s.sendFrame l { cls := 1, dest := dest, src := s.nodeAddr, bp := n, member := m, unres := un, ttl := s.hopMax
                        rid := r.rid, words := grainWords g }
  | _, _ => s

/-- The band path publishes a grain: SEQ rises, END is sent. -/
def State.publish (s : State) (n : Nat) (g : Grain) : State :=
  let s1 := (s.updBp n fun x => { x with
    seq := (x.seq + 1) % 2 ^ 28, markStep := false, published := true, ended := x.stop, out := some g }).tally 0 0x05 n
  (s1.tallySlots n 64 (popCount g.valid) (gFlag g flMuted || gFlag g flFenced)).sendGrain n g

/-! ### Emitting (R54, R56, R172, R183) -/

/-- The emission of a grain of Gorge has ended by now: grid + D_a + T_g. -/
def State.emitDue (s : State) (n : Nat) (h : Held) : Bool :=
  let x := s.bp n
  decide (h.grid + x.dly.applied * (x.decl.span * 100 : Nat) + (64 * gridPeriod : Nat) ≤ (s.now * gridUnit x.decl.span : Nat))

/-- The connector instant of a held grain's sample 0, in grid units (R172). -/
def State.standsAt (s : State) (n : Nat) (h : Held) : Int := h.grid + (s.bp n).dly.applied * ((s.bp n).decl.span * 100 : Nat)

/-- The samples of a grain as they leave: zero where VALID is 0, and all of them under a mute or where nothing may be
emitted (R54, R169, R218). -/
def emittedSamples (g : Grain) (none' : Bool) : List IQ :=
  g.samples.zipIdx.map fun w => if none' || !g.valid.getLsbD w.2 then IQ.zero else ofSampleWord w.1

/-- One grain of Gorge is emitted. Slots that a discontinuity or a step left uncovered are substituted, samples whose slots
have passed are discarded, and every invalid sample is a zero (R54, R183, R188); a mute that holds now makes every sample a
zero and marks the grain (R169, R218). What is left goes through the transmit chain (R112). -/
def State.emitOne (s : State) (n : Nat) (h : Held) : State :=
  let x := s.bp n
  let at' := s.standsAt n h
  let none' := decide (delayState s n = 4 ∨ delayState s n = 5 ∨
    at' < (x.dly.since + s.plumb.off) * (gridUnit x.decl.span : Int))
  let gap := match x.dly.emitted with | some e => roundDiv (at' - e) gridPeriod | none => 0
  let gone := min 64 (-gap).toNat
  let valid := if none' then 0 else popCount (h.grain.valid >>> gone)
  let muted := s.muted n || gFlag h.grain flMuted || gFlag h.grain flFenced
  let zs := emittedSamples h.grain (none' || muted)
  let upto := at' + (64 * gridPeriod : Nat)
  let s1 := s.updBp n fun y => { y with
    out := some (gSet { h.grain with samples := zs.map sampleWord } flMuted (s.muted n))
    dly := { y.dly with gorge := y.dly.gorge.drop 1
                        emitted := some (match x.dly.emitted with | some e => max e upto | none => upto) } }
  let fill := min 88 gap.toNat
  let s2 := if 0 < gap then
      ((s1.tallySlots n gap.toNat 0 (s.muted n)).bump .BP_STATUS_SUBST_GRAINS n (ceilDiv gap.toNat 64)).txGrain n
        (h.grid - (fill * gridPeriod : Nat)) (List.replicate fill IQ.zero)
    else s1
  let s3 := (s2.tallySlots n (64 - gone) valid muted).txGrain n (h.grid + (gone * gridPeriod : Nat)) (zs.drop gone)
  if valid < 64 - gone then s3.bump .BP_STATUS_SUBST_GRAINS n else s3

/-- Every grain whose emission has ended leaves Gorge; while the delay is being established nothing does. -/
def State.emitAll (s : State) (n : Nat) : Nat → State
  | 0 => s
  | k + 1 => match (s.bp n).dly.gorge with
    | [] => s
    | h :: _ => if delayState s n = 1 ∨ s.emitDue n h = false then s else (s.emitOne n h).emitAll n k

def State.emitReady (s : State) (n : Nat) : State := s.emitAll n (s.bp n).dly.gorge.length

/-- A fenced or never established transmit destination emits muted, substituted slots (Table 12, R290). -/
def State.emitNothing (s : State) (n : Nat) (g : Grain) : State :=
  ((s.updBp n fun x => { x with out := some g }).tallySlots n 64 0 true).bump .BP_STATUS_SUBST_GRAINS n

/-- A formed grain enters Gorge at its position; the newest three tiles' worth stay on die (R178), and the tile before them
is then written. -/
def State.holdGrain (s : State) (n pos : Nat) (grid : Int) (g : Grain) : State :=
  let s1 := if pos % 14 = 0 ∧ 42 ≤ pos then
      s.tileWritten (s.gorgeTile n (pos / 14 - 3)) (s.gorgePayload n (pos / 14 - 3)) else s
  (s1.updBp n fun x => { x with seq := (x.seq + 1) % 2 ^ 28, markStep := false
                                dly := { x.dly with gorge := insertHeld ⟨pos, grid, g⟩ x.dly.gorge
                                                    recent := (⟨pos, grid, g⟩ :: x.dly.recent).take 56 } }).emitReady n

/-- The grain time of a position that no accepted grain gives (R183, R460). -/
def State.gridAt (s : State) (n pos : Nat) : Int :=
  match (s.bp n).dly.last with
  | none => (s.now * gridUnit (s.bp n).decl.span : Nat)
  | some (p, grid, _, _, _) => grid + ((pos : Int) - p) * (64 * gridPeriod : Nat)

/-! ### Acknowledgement (R275) -/

/-- SEQ distance from `a` to `b`, signed, modulo 2^28. -/
def seqDist (a b : Nat) : Int := signed 28 ((b + 2 ^ 28 - a) % 2 ^ 28)

/-- The highest SEQ of the current GEN up to which every grain has arrived or its slot has passed (R275). -/
def State.advanceAck (s : State) (n : Nat) : State :=
  let d := (s.bp n).dly
  match (s.bp n).sub.ack, d.last with
  | none, some (_, _, seq, _, _) => s.updBp n fun x => { x with sub := { x.sub with ack := some seq } }
  | some a, some (p, _, seq, _, _) =>
    let run := (List.range 64).foldl (fun (b : Nat × Bool) _ =>
      let nx := (b.1 + 1) % 2 ^ 28
      if b.2 && (d.seen.contains nx || decide ((p : Int) + seqDist seq nx < d.count)) then (nx, true) else (b.1, false))
      (a, true)
    s.updBp n fun x => { x with sub := { x.sub with ack := some run.1 } }
  | _, _ => s

/-! ### GRAIN_PERIOD, GRAIN_MISSING, NO_GRAINS -/

/-- What leaves a band path for one grain period: published, emitted at its time, or muted by a fence; then STATE. -/
def State.deliver (s : State) (n pos : Nat) (grid : Option Int) (g : Grain) : State :=
  let s1 := (s.capture n 0 g).updBp n fun x => { x with dly := { x.dly with count := pos + 1 } }
  let s2 := if (s.bp n).decl.dstKind = 2 then s1.publish n g
    else match grid with
      | some t => if delayState s n = 0 then s1.emitNothing n g else s1.holdGrain n pos t g
      | none => s1.emitNothing n g
  if s.rd .BP_STATUS_STATE n = 2 ∧ g.valid = BitVec.allOnes 64 then s2.wr .BP_STATUS_STATE n 3 else s2

/-- A grain whose samples are all substituted by its producer: invalid, with flag `fl`. -/
def lossOf (g : Grain) (fl : Nat) : Grain := gSet { g with valid := 0, samples := List.replicate 64 0 } fl true

/-- The lowest-numbered running band path of a receive window reports the window's saturated converter samples, so that each
is counted once (DESIGN CHOICE, log entry 7). -/
def State.tallyConverter (s : State) (n count : Nat) : State :=
  let p := (s.bp n).decl.srcPort
  if (allBps.find? fun m => s.running m && (s.bp m).decl.srcKind == 1 && (s.bp m).decl.srcPort == p) = some n then
    s.tally 5 0x01 p count
  else s

/-- What the gain stage does with a grain of 64 samples (R130, R136, R154, R168, R214): the detectors and the fast ceiling's
mean take it, an overload trips G1. The state, the samples after the gain, and how many of them saturated. -/
def State.gainGrain (s : State) (n g : Nat) (xs : List IQ) (valid : BitVec 64) : State × List IQ × Nat :=
  let r := gainSamples (xs.zip (s.gainsFor n g))
  let ys := r.map (·.1)
  let sat := (r.filter (·.2)).length
  (((((s.takeSamples n xs ys valid).takePowers n ys valid).overload n sat).ceilingReview n).tally 0 0x0A n sat, ys, sat)

/-- One grain period of a receive-window source: channelizer, gain stage, probe, output (R23, R48, R103, R117). -/
def State.windowGrain (s : State) (n : Nat) (i : GrainInput) : State :=
  let x := s.bp n
  let g := x.chz.g
  let run := s.chainRun n i.samples
  let xs := run.out.reverse
  let valid := s.grainValid n g
  let bad := 64 - popCount valid
  let ts := timeBits (s.originTs n g) % 2 ^ 80
  let r := s.gainGrain n g xs valid
  let srcSat := run.sat || i.saturated != 0
  let settle := 16 * flag (bad != 0)
  let s0 := r.1
  let tap := { (s0.outGrain n ts xs valid (settle + 8 * flag srcSat) srcSat) with samples := xs.map sampleWord, valid := valid }
  let out := s0.outGrain n ts r.2.1 valid settle (srcSat || r.2.2 != 0)
  let s1 := ((s0.capture n 1 tap).updBp n fun y => { y with chz := { y.chz with
      g := g + 1, next := s.lastSample n g + 1, chain := run.chain } }).tallyConverter n i.saturated
  let s2 := if bad = 0 then s1 else s1.tally 0 0x09 n bad
  let pos := x.dly.count
  if !s.emits n ∨ delayState s n = 0 ∨ s.fenced n then s2.deliver n pos none out
  else
    let late := (delayState s n = 2 ∨ delayState s n = 3) ∧ s.inTime n (s.sourceAge n) = false
    if late then
      ((s2.set1 .BP_STATUS_LATE n).tally 0 0x07 n |>.updBp n fun y => { y with dly := { y.dly with lates := y.dly.lates + 1 } })
        |>.deliver n pos (some (s2.gridAt n pos)) (lossOf out flLoss)
    else
      let k := match x.dly.last with | some (p, _, _, _, _) => pos - p | none => 1
      let a := s2.acceptGrain n out x.dly.gen pos k
      a.1.deliver n pos (some a.2) out

/-- One grain period of a lane source: the input grain at the next position becomes an output grain (R108, R460). -/
def State.laneGrain (s : State) (n : Nat) (h : Held) : State :=
  let x := s.bp n
  let xs := h.grain.samples.map ofSampleWord
  let valid := h.grain.valid
  let r := s.gainGrain n 0 xs valid
  let out := r.1.outGrain n h.grain.ts r.2.1 valid (h.grain.flags.toNat % 128) (r.2.2 != 0)
  let tap : Sys2Proof.Grain := { h.grain with samples := xs.map sampleWord }
  let s1 := (r.1.capture n 1 tap).updBp n fun y => { y with
    dly := { y.dly with input := y.dly.input.filter (·.pos != h.pos) } }
  s1.deliver n h.pos (if x.decl.dstKind = 1 ∧ s.fenced n = false then some h.grid else none) out

/-- A lane source's input grain at the next position. -/
def State.nextInput (s : State) (n : Nat) : Option Held := (s.bp n).dly.input.find? (·.pos == (s.bp n).dly.count)

/-- GRAIN_PERIOD (R50, R459): a receive-window source once its chain runs; a lane source when its next grain is there. -/
def execGrainPeriod (n : BpIx) (g : GrainInput) (s : State) : Host.Outcome State Fault Refusal :=
  .next (if !s.running n then s
    else if (s.bp n).decl.srcKind = 1 then (if (s.bp n).chz.on then s.windowGrain n g else s)
    else match s.nextInput n with
      | some h => s.laneGrain n h
      | none => s)

/-- The instant of ORIGIN_TS that the missing grain at the next position would have carried: the last accepted input grain's
plus one grain period for each position between (R460). -/
def State.missingTs (s : State) (n : Nat) : Option Int :=
  match (s.bp n).dly.accepted with
  | none => none
  | some (pos, ts) => some (ts + roundDiv (((s.bp n).dly.count - pos) * (64 * periodK : Nat)) (s.bp n).decl.span)

/-- GRAIN_MISSING (R54 to R56, R460): the next input grain has not come by its slot. Before the first input grain there is no
output (R59). -/
def execGrainMissing (n : BpIx) (s : State) : Host.Outcome State Fault Refusal :=
  let x := s.bp n
  .next (match s.missingTs n with
    | none => s
    | some t =>
      if !s.running n || x.decl.srcKind == 1 || (s.nextInput n).isSome then s
      else
        let out := lossOf (s.outGrain n (tsOf t) [] 0 64 false) flLoss
        let s1 := (((s.set1 .BP_STATUS_GAP n).tally 0 0x08 n).updBp n fun y => { y with
          sad := { y.sad with chip := y.sad.chip + 64 }, powers := (List.replicate 64 0 ++ y.powers).take 4160 })
        (s1.deliver n x.dly.count (if x.decl.dstKind = 1 ∧ s.fenced n = false then some (s.gridAt n x.dly.count) else none)
          out).advanceAck n)

/-- NO_GRAINS (R57): for a transmit destination LOST is entered with it (R193). -/
def execNoGrains (n : BpIx) (s : State) : Host.Outcome State Fault Refusal :=
  .next (if !s.running n || (s.bp n).decl.srcKind != 2 || s.rd .BP_STATUS_STATE n == 5 then s
    else
      let s1 := if s.hasCond n 0x23 then s else s.sendFault n 0x23
      if s.emits n then (if delayState s n = 1 ∨ delayState s n = 2 ∨ delayState s n = 3 then s1.enterLost n else s1)
      else s1.enterInvalid n)

/-! ### Grains that arrive for a subscriber (R182, R184, R192) -/

/-- Position of an arriving grain (R53): by SEQ from the last accepted one; under a new GEN, whose SEQ numbers bear no
relation to the old ones, by ORIGIN_TS in grain periods from the last accepted grain, at least one. -/
def State.arrivalPos (s : State) (n : Nat) (g : Grain) : Int :=
  let d := (s.bp n).dly
  match d.last with
  | none => d.count
  | some (p, grid, seq, gen, _) =>
    if gen = gGen g then (p : Int) + seqDist seq g.seq
    else (p : Int) + max 1 (roundDiv (s.originOf g.ts * gridUnit (s.bp n).decl.span - grid) (64 * gridPeriod))

/-- Grid time of a grain that arrives after a later one of its GEN: its ORIGIN_TS, followed under slew from the grid of the
last accepted grain (R53, R182). -/
def State.gridBack (s : State) (n : Nat) (g : Grain) (pos : Int) : Int :=
  let span := (s.bp n).decl.span
  let ts : Int := s.originOf g.ts * gridUnit span
  match (s.bp n).dly.last with
  | none => ts
  | some (p, grid, _, _, _) =>
    let pred := grid + (pos - p) * (64 * gridPeriod : Nat)
    let lim : Int := s.delaySlew * (pos - p).natAbs * 33554432
    if (s.tsTol n * gridUnit span : Int) < (ts - pred).natAbs then ts else pred + clampI (-lim) lim (ts - pred)

/-- A late grain is discarded and counted (R54, R56, R193). -/
def State.lateGrain (s : State) (n : Nat) : State :=
  ((s.set1 .BP_STATUS_LATE n).tally 0 0x07 n).updBp n fun x => { x with dly := { x.dly with lates := x.dly.lates + 1 } }

/-- A grain of the subscribed stream arrives complete at band path n. -/
def State.arriveGrain (s : State) (n : Nat) (g : Grain) : State :=
  let x := s.bp n
  let t := s.originOf g.ts
  if (s.now + usQ 1 : Nat) < t then (s.set1 .FLO_STATUS_TS_BAD n).sendFault n 0x25
  else
    let anew := match x.dly.last with | some (_, _, _, gen, _) => gen != gGen g | none => true
    let s1 := (s.updBp n fun y => { y with
      lastGrain := s.clk.tick, sub := if anew then { y.sub with ack := none } else y.sub }).sendClear n 0x23
    let s2 := if s1.emits n then s1 else s1.leaveInvalid n
    if (match x.dly.last with | some (_, _, _, gen, _) => gen == gGen g | none => false) && x.dly.seen.contains g.seq then
      s2.bump .FLO_COUNT1_DUP_GRAINS n
    else
      let age : Int := (s.now : Int) - t
      let pos := s.arrivalPos n g
      let st := delayState s n
      let s3 := if st = 1 ∨ st = 4 then s2.updBp n fun y => { y with dly := { y.dly with ages := (s.raw, age) :: y.dly.ages } } else s2
      if st = 5 then s3
      else if pos < x.dly.count ∨ (s.emits n ∧ (st = 2 ∨ st = 3 ∨ st = 4) ∧ s.inTime n (age, 1) = false) then
        (s3.lateGrain n)
      else
        let s4 := if st = 0 ∨ st = 2 ∨ st = 3 then
            s3.updBp n fun y => { y with dly := { y.dly with ages := (s.raw, age) :: y.dly.ages } }
          else s3
        let old := match x.dly.last with | some (p, _, _, _, _) => decide (pos < p) | none => false
        let r := if old then
            (s4.updBp n fun y => { y with dly := { y.dly with seen := (g.seq :: y.dly.seen).take 8192, lates := 0 } }, s4.gridBack n g pos)
          else
            let k := match x.dly.last with | some (p, _, _, _, _) => max 1 (pos.toNat - p) | none => 1
            s4.acceptGrain n g (gGen g) pos.toNat k
        (r.1.updBp n fun y => { y with dly := { y.dly with input := insertHeld ⟨pos.toNat, r.2, g⟩ y.dly.input } }).advanceAck n

/-- The module's own bps that subscribe to a stream. -/
def State.subscribers (s : State) (node bp : Nat) : List Nat :=
  allBps.filter fun n => s.running n && (s.bp n).decl.srcKind == 2 && (s.bp n).decl.srcNode == node && (s.bp n).decl.srcBp == bp

/-- Gorge at a tick boundary: the grains whose emission has ended leave it. -/
def State.gorgeTick (s : State) (n : Nat) : State := if s.running n && s.emits n then s.emitReady n else s

end Sys2Proof.Machine
end

