-- ==== Sys2Proof/Machine/Cages.lean ====
section
/-!
DEFINITION. Cages and the life of a lane (10_col_fabric.md R255 to R265): pluggables, LINK and CREDIT blocks, HELLO, entry
to UP, failure, retraining.
-/

namespace Sys2Proof.Machine

/-! ### Cages (R257, Table 118) -/

/-- A lane that may run leaves DARK for TRAINING (Tables 118, 121). -/
def State.laneTrain (s : State) (l : Nat) : State :=
  if s.laneMay l ∧ s.laneState l = 0 then s.wr .LANE_STATUS_STATE l 1 else s

/-- CAGE_INSERT: held in low-power mode until it is identified. -/
def execCageInsert (c : CageIx) (s : State) : Host.Outcome State Fault Refusal :=
  .next ((((s.set1 .COL_CAGE_STATUS_PRESENT c).clr .COL_CAGE_STATUS_IDENT_OK c).set1 .COL_CAGE_STATUS_LOW_POWER c).bump
    .COL_CAGE_STATUS_INSERTIONS c |>.setCage c { s.cage c with phase := 1 })

/-- CAGE_IDENTIFIED: accepted, or refused for its identity, its declared power, or both. -/
def execCageIdentified (c : CageIx) (i : CageIdent) (s : State) : Host.Outcome State Fault Refusal :=
  .next (if (s.cage c).phase ≠ 1 then s
    else if i.optical4 ∧ i.power ≤ 25 then
      (((s.setCage c { s.cage c with phase := 2 }).set1 .COL_CAGE_STATUS_IDENT_OK c).clr .COL_CAGE_STATUS_LOW_POWER c).forEach
        (fun l t => t.laneTrain l) (cageLanes c)
    else
      let s1 := s.setCage c { s.cage c with phase := 3 }
      let s2 := if i.optical4 then s1 else s1.set1 .COL_CAGE_STATUS_IDENT_REFUSED c
      let s3 := if 25 < i.power then s2.set1 .COL_CAGE_STATUS_POWER_REFUSED c else s2
      s3.sendFault (0x84 + c) 0x31)

/-- CAGE_REMOVE: every UP lane has failed at once; the other lanes go dark; the cage's conditions end. -/
def execCageRemove (c : CageIx) (s : State) : Host.Outcome State Fault Refusal :=
  let s1 := ((s.clr .COL_CAGE_STATUS_PRESENT c).clr .COL_CAGE_STATUS_IDENT_OK c).set1 .COL_CAGE_STATUS_LOW_POWER c
  let s2 := s1.forEach (fun l t => if t.laneUp l then t.failLane l .removal else if t.laneState l = 4 then t
    else t.laneOut l 0) (cageLanes c)
  .next ([0x31, 0x32, 0x33].foldl (fun t k => t.sendClear (0x84 + c) k) (s2.setCage c { peer := none, phase := 0 }))

/-- One lane's part of a monitoring read; `i` is the lane within the cage. -/
def State.monitorLane (s : State) (l i : Nat) (m : CageRead) : State :=
  let s1 := ((s.wr .LANE_OPT_RX_PWR l (m.power.getD i 0)).wr .LANE_OPT_TX_BIAS l (m.bias.getD i 0)).wrB .LANE_STATUS_LOS l
    (m.los.getLsbD i)
  let s2 := if m.rxWarn.getLsbD i then s1.set1 .LANE_STATUS_RX_LOW l else s1
  if m.los.getLsbD i || m.txFault.getLsbD i then
    (s2.failLane l .signal).wrB .LANE_STATUS_LOS l (m.los.getLsbD i)
  else s2

/-- CAGE_MONITOR: the fields, and what an alarm does; without an answer the fields keep their values. -/
def execCageMonitor (c : CageIx) (m : CageRead) (s : State) : Host.Outcome State Fault Refusal :=
  .next (if (s.cage c).phase = 0 then s
    else if !m.answers then
      let s1 := s.set1 .COL_CAGE_STATUS_MGMT_FAIL c
      if s.hasCond (0x84 + c) 0x32 then s1 else s1.sendFault (0x84 + c) 0x32
    else if (s.cage c).phase ≠ 2 then s.sendClear (0x84 + c) 0x32
    else
      let s1 := (((s.sendClear (0x84 + c) 0x32).wr .COL_CAGE_MON_TEMP c m.temp.toNat).wr .COL_CAGE_MON_VCC c m.vcc.toNat)
        |>.forEach (fun i t => t.monitorLane (4 * c + i) i m) (List.range 4)
      if m.tempAlarm then
        let s2 := (s1.set1 .COL_CAGE_STATUS_TEMP_ALARM c).set1 .COL_CAGE_STATUS_LOW_POWER c
        if s2.hasCond (0x84 + c) 0x33 then s2 else s2.sendFault (0x84 + c) 0x33
      else s1.sendClear (0x84 + c) 0x33)

/-! ### Bringing a lane up (R255, R263) -/

/-- Entry to UP: credits from the peer's HELLO, the cage's peer when it has none, and the elastic buffer's phase (R32). -/
def State.laneEnterUp (s : State) (l : Nat) : State :=
  let x := s.lane l
  let uid := s.rd2 .LANE_PEER_UID_LO_UID_LO .LANE_PEER_UID_HI_UID_HI l
  let s1 := [0, 1, 2, 3].foldl (fun t c => t.wr (creditField c) l (x.peerBuf.get c)) (s.wr .LANE_STATUS_STATE l 3)
  let s2 := ({ s1.nextFree with col := { s1.col with seen := true } }.updLane l fun y => { y with
    held := {}, freed := {}, peerCum := {}, phase := Config.elasticPhase s1.free }).wr .PLB_LSTAT_LROLE l 3
  let s3 := if (s.cage (l / 4)).peer.isNone then
      s2.setCage (l / 4) { s2.cage (l / 4) with peer := some (uid, s.rd .LANE_PEER_CAGE l) }
    else s2
  s3.refreshLane l

/-- The peer that the lane's latest HELLO named is the module itself, or another one than the cage's (R255). -/
def State.miswired (s : State) (l : Nat) : Bool :=
  let uid := s.rd2 .LANE_PEER_UID_LO_UID_LO .LANE_PEER_UID_HI_UID_HI l
  decide (uid = s.uid) || (match (s.cage (l / 4)).peer with
    | some p => p != (uid, s.rd .LANE_PEER_CAGE l)
    | none => false)

/-- TRAINING passes to HELLO, and HELLO to UP, when their conditions hold (R263); the peer is held against the cage's at the
entry to UP as well (R255). -/
def State.laneAdvance (s : State) (l : Nat) : State :=
  let s1 := if s.laneState l = 1 ∧ s.is .LANE_STATUS_BLOCK_LOCK l ∧ 1 ≤ (s.lane l).peerLstate then
      s.wr .LANE_STATUS_STATE l 2 else s
  if s1.laneState l = 2 ∧ (s1.lane l).helloSeen ∧ 2 ≤ (s1.lane l).peerLstate then
    if s1.miswired l then (s1.updLane l fun x => { x with helloSeen := false }).set1 .LANE_STATUS_MISWIRED l
    else s1.laneEnterUp l
  else s1

/-- LANE_BLOCK_LOCK (R263). -/
def execLaneBlockLock (l : LaneIx) (s : State) : Host.Outcome State Fault Refusal :=
  .next (if s.laneState l = 1 then (s.set1 .LANE_STATUS_BLOCK_LOCK l).laneAdvance l else s)

/-- LANE_PEER from a message of the peer. -/
def State.showPeer (s : State) (l node : Nat) (valid : Bool) (cage lane : Nat) : State :=
  (((s.wr .LANE_PEER_NODE l node).wrB .LANE_PEER_NODE_VALID l valid).wr .LANE_PEER_CAGE l cage).wr .LANE_PEER_LANE l lane

/-- LINK_BLOCK (R258, R263, Table 119): on a lane whose transmitter is off it changes nothing. -/
def execLinkBlock (l : LaneIx) (content : BitVec 56) (s : State) : Host.Outcome State Fault Refusal :=
  let v := content.toNat
  .next (if !crc8Ok content then s.bump .LANE_ERR_BLOCK_ERR l
    else if s.laneState l = 0 ∨ s.laneState l = 4 then s
    else ((s.updLane l fun x => { x with peerLstate := bits 0 3 v }).showPeer l (bits 7 12 v) (bit 19 v) (bits 3 2 v)
      (bits 5 2 v)).laneAdvance l)

/-- The HELLO message of lane l (Table 123). -/
def State.helloFrame (s : State) (l : Nat) : Frame :=
  s.localMsg [msgWord 1 0 0 false 0 (place 0 12 s.nodeAddr + place 12 1 (s.rd .COL_NODE_VALID) + place 13 2 (l / 4) +
      place 15 2 (l % 4) + place 17 1 (s.rd .COL_NODE_AUTO)), word64 s.uid,
    word64 (place 0 16 ownBuf.band + place 16 8 ownBuf.time + place 24 12 ownBuf.mgmt + place 36 12 ownBuf.bulk)]

/-- HELLO_SEND (R263): no credits are counted before UP. -/
def execHelloSend (l : LaneIx) (s : State) : Host.Outcome State Fault Refusal :=
  .next (if s.laneState l = 2 then
      (s.updLane l fun x => { x with fibre := x.fibre ++ [s.helloFrame l] }).tally 1 0x01 l 1 2 else s)

/-- HELLO (R255, R263): a miswired lane, or one whose peer offers too little room, stays in HELLO. -/
def execHello (l : LaneIx) (f : Frame) (s : State) : Host.Outcome State Fault Refusal :=
  let w := msgW f
  .next (if s.laneState l ≠ 2 ∨ f.cls ≠ 2 then s
    else if msgVer f ≠ 1 ∨ msgType f = 0 ∨ 13 < msgType f then (s.bump .COL_COUNT2_MSG_DISCARD).discard l f
    else if msgType f ≠ 1 ∨ f.words.length ≠ 3 then s
    else
      let uid := w 1
      let cage := bits 53 2 (w 0)
      let s1 := (((s.showPeer l (bits 40 12 (w 0)) (bit 52 (w 0)) cage (bits 55 2 (w 0))).wr2 .LANE_PEER_UID_LO_UID_LO
        .LANE_PEER_UID_HI_UID_HI l uid).tally 1 0x02 l 1 2).updLane l fun x => { x with helloSeen := false }
      let b : PerClass := { time := bits 16 8 (w 2), band := bits 0 16 (w 2), mgmt := bits 24 12 (w 2), bulk := bits 36 12 (w 2) }
      if s1.miswired l then s1.set1 .LANE_STATUS_MISWIRED l
      else if b.time < 6 ∨ b.band < 38 ∨ b.mgmt < 66 ∨ b.bulk < 66 then s1.set1 .LANE_STATUS_PROTO l
      else (s1.updLane l fun x => { x with helloSeen := true, peerBuf := b }).laneAdvance l)

/-- CREDIT_BLOCK (R261): increments modulo 4,096; one that lifts the credits above the peer's size fails the lane. -/
def execCreditBlock (l : LaneIx) (content : BitVec 56) (s : State) : Host.Outcome State Fault Refusal :=
  let v := content.toNat
  .next (if !crc8Ok content then s.bump .LANE_ERR_BLOCK_ERR l
    else if !s.laneUp l then s
    else
      let x := s.lane l
      let inc := fun c => (bits (12 * c) 12 v + 4096 - x.peerCum.get c % 4096) % 4096
      let new := fun c => s.rd (creditField c) l + inc c
      if [0, 1, 2, 3].any fun c => decide (x.peerBuf.get c < new c) then s.failLane l .proto
      else
        let s1 := [0, 1, 2, 3].foldl (fun t c => t.wr (creditField c) l (new c)) s
        let s2 := s1.updLane l fun y => { y with peerCum :=
          { time := bits 0 12 v, band := bits 12 12 v, mgmt := bits 24 12 v, bulk := bits 36 12 v } }
        s2.pump l (s2.lane l).queue.length)

/-! ### Losing a lane (R264, R265) -/

/-- LANE_FAIL (R264). -/
def execLaneFail (l : LaneIx) (cause : LaneCause) (s : State) : Host.Outcome State Fault Refusal :=
  .next (s.failLane l cause)

/-- EN written (R265, Table 121). -/
def State.writeLaneEn (s : State) (l : Nat) (on : Bool) : State :=
  if on then (s.set1 .LANE_CTRL_EN l).laneTrain l else (s.clr .LANE_CTRL_EN l).laneOut l 0

/-- RETRAIN written (R265): a lane whose transmitter is off stays as it is. -/
def State.retrainLane (s : State) (l : Nat) : State :=
  if s.laneState l = 0 ∨ s.laneState l = 4 then s else s.laneOut l 1

/-- LANE_ENABLE (R265). -/
def execLaneEnable (l : LaneIx) (s : State) : Host.Outcome State Fault Refusal := .next (s.writeLaneEn l true)

/-- LANE_DISABLE (R265). -/
def execLaneDisable (l : LaneIx) (s : State) : Host.Outcome State Fault Refusal := .next (s.writeLaneEn l false)

/-- RETRAIN (R265). -/
def execRetrain (l : LaneIx) (s : State) : Host.Outcome State Fault Refusal := .next (s.retrainLane l)

/-- FRAME_ERR (R259, R264, R283). -/
def execFrameErr (l : LaneIx) (cls : Fin 4) (len : Fin 65) (s : State) : Host.Outcome State Fault Refusal :=
  .next (s.frameError l cls len)

/-- UNRES_TIMEOUT (R276): the oldest UNRES frame of the lane's queue has waited 20 µs. -/
def execUnresTimeout (l : LaneIx) (s : State) : Host.Outcome State Fault Refusal :=
  let x := s.lane l
  let old := fun (q : QFrame) => q.frame.cls == 1 && q.frame.unres
  .next (match x.queue.find? old with
    | none => s
    | some q =>
      let s1 := ((s.updLane l fun y => { y with queue := y.queue.eraseP old }).bump .LANE_STATUS_UNRES_DROP l).tally 1 0x05 l 1 1
      match q.fromLane with
      | some r => s1.freeBlocks r 1 (frameBlocks q.frame)
      | none => s1)

end Sys2Proof.Machine
end

