-- ==== Sys2Proof/Machine/Col.lean ====
section
/-!
DEFINITION. Col's messages (10_col_fabric.md R260, R266 to R278): node addresses and their conflicts, the flooding of
link state, forwarding, subscriptions, acknowledgements, release and repair; and Saddle's digests, which travel in them
(06_saddle_stability.md R162, R163).
-/

namespace Sys2Proof.Machine

/-! ### Forwarding (R260, R276, R278, R283) -/

/-- A frame is passed on with one hop less. -/
def hopOf (f : Frame) : Frame :=
  let ws := if f.cls = 1 then f.words.modify 3 fun w =>
      let h := bits 16 8 w.toNat
      if h < 255 then w + 65536 else w
    else f.words
  { f with ttl := f.ttl - 1, words := ws }

/-- An entry has lanes for `n` members: the ones it lacks go onto the UP lanes toward its destination by PRIMARY, without a
reservation. -/
def State.extendEntry (s : State) (e : Entry) (n : Nat) : State × Entry :=
  match s.upLanes (s.primaryOf e.dest) with
  | [] => (s, e)
  | k :: rest =>
    if n ≤ e.out.length then (s, e)
    else
      let new := ((List.range n).drop e.out.length).map fun i => (i, (k :: rest).getD (i % (rest.length + 1)) k)
      let e' := { e with k := n, out := e.out ++ new.map (·.2) }
      (new.foldl (fun t x => t.putMember e' x.1 x.2 true) (s.setEntry e'), e')

/-- The entry of a BAND frame, installed toward DEST_NODE by PRIMARY where there is none (R276). -/
def State.entryFor (s : State) (l : Nat) (f : Frame) : State × Option Entry :=
  match s.entry f.src f.bp f.rid with
  | some e =>
    let e' := { e with inLane := some l }
    let s1 := if e.inLane = some l then s else s.setEntry e'
    let r := s1.extendEntry e' (f.member + 1)
    (r.1, some r.2)
  | none => match s.upLanes (s.primaryOf f.dest) with
    | [] => (s, none)
    | _ :: _ =>
      let r := s.extendEntry { node := f.src, bp := f.bp, rid := f.rid, k := 0, dest := f.dest, inLane := some l } (f.member + 1)
      (r.1, some r.2)

/-- A received frame for another module goes on, or is discarded: at TTL 0, or with nowhere to go. -/
def State.forwardFrame (s : State) (l : Nat) (f : Frame) : State :=
  let drop := fun (t : State) => (t.discard l f).freeBlocks l f.cls (frameBlocks f)
  if f.ttl ≤ 1 then drop (s.bump .COL_COUNT1_HOP_DROP)
  else if !s.is .COL_NODE_VALID then drop (s.bump .COL_COUNT1_NO_ROUTE)
  else if f.cls ≠ 1 then s.routeQ { frame := hopOf f, fromLane := some l }
  else if !s.is .COL_CTRL_FWD_EN then drop (s.bump .COL_COUNT1_NO_ROUTE)
  else
    let r := s.entryFor l f
    match r.2 with
    | none => drop (r.1.bump .COL_COUNT1_NO_ROUTE)
    | some e => match e.out[f.member]? with
      | none => drop (r.1.bump .COL_COUNT1_NO_ROUTE)
      | some k =>
        let un := (r.1.lane k).members.any fun m => m.ofEntry e && m.index == f.member && m.unres
        r.1.queueFrame k { frame := { hopOf f with unres := un }, fromLane := some l }

/-- The frame is for this module. -/
def State.isMine (s : State) (f : Frame) : Bool := f.isLocal || (s.is .COL_NODE_VALID && f.dest == s.nodeAddr)

/-- FRAME_FORWARD (R260). -/
def execFrameForward (l : LaneIx) (f : Frame) (s : State) : Host.Outcome State Fault Refusal :=
  .next (if s.isMine f then s else s.receive l f true fun t => t.forwardFrame l f)

/-- A frame of class `c` that `act` handles when it is for this module; otherwise it is forwarded. -/
def State.deliverFrame (s : State) (l : Nat) (f : Frame) (act : State → State) : State :=
  if s.isMine f then s.receive l f false act else s.receive l f true fun t => t.forwardFrame l f

/-- A MGMT message of type `m`; an unknown type or version is discarded and counted (R278). -/
def State.onMsg (s : State) (l : Nat) (f : Frame) (m : Nat) (act : State → State) : State :=
  s.deliverFrame l f fun t =>
    if f.cls ≠ 2 then t
    else if msgVer f ≠ 1 ∨ msgType f = 0 ∨ 13 < msgType f then (t.bump .COL_COUNT2_MSG_DISCARD).discard l f
    else if msgType f = m then act t else t

/-- MSG_DISCARD (R278). -/
def execMsgDiscard (l : LaneIx) (f : Frame) (s : State) : Host.Outcome State Fault Refusal :=
  .next (s.deliverFrame l f fun t => (t.bump .COL_COUNT2_MSG_DISCARD).discard l f)

/-- BULK_FRAME (R278): delivered unaltered to the policy cores. -/
def execBulkFrame (l : LaneIx) (f : Frame) (s : State) : Host.Outcome State Fault Refusal :=
  .next (s.deliverFrame l f fun t => { t with col := { t.col with bulk := t.col.bulk ++ [f.words] } })

/-- BAND_FRAME_RECEIVE (R46, R182): a grain of a subscribed stream, or one to forward. -/
def execBandFrameReceive (l : LaneIx) (f : Frame) (s : State) : Host.Outcome State Fault Refusal :=
  .next (if f.cls ≠ 1 then s
    else s.deliverFrame l f fun t =>
      match t.subscribers f.src f.bp with
      | [] => t.discard l f
      | ns =>
        let t1 := match t.entry f.src f.bp f.rid with
          | some e => if e.inLane = some l.val then t else t.setEntry { e with inLane := some l.val }
          | none => t.setEntry { node := f.src, bp := f.bp, rid := f.rid, dest := f.dest, inLane := some l.val }
        t1.forEach (fun n u => u.arriveGrain n (wordsGrain f.words)) ns)

/-! ### Node addresses (R266 to R268) -/

/-- Saddle's codes restart without a gain change (Table 77). -/
def State.codesRestart (s : State) : State :=
  s.forEach (fun n t => if t.running n then t.saddleRestart n else t) allBps

/-- ADDR as an ADDR_CHANGE record shows it. -/
def State.addrWord (s : State) : Nat := s.rd .COL_NODE_ADDR + 4096 * s.rd .COL_NODE_VALID

/-- The address changes or is lost: routes and subscriptions end under the old address, then the new one holds. -/
def State.changeAddr (s : State) (new : Option Nat) : State :=
  let old := s.addrWord
  let s1 := s.forEach (fun n t =>
    let x := t.bp n
    let t1 := if x.pub.subscriber.isSome then
        (t.releaseAll n 3).updBp n fun y => { y with pub := { y.pub with subscriber := none, lost := false, report := false } }
      else t
    if x.sub.waiting then
      let d := (x.check.map (·.decl)).getD x.decl
      (t1.endSub n d).bpReject n 6
    else t1.endSub n x.decl) allBps
  let s2 := (s1.wr .COL_NODE_ADDR 0 (new.getD 0)).wrB .COL_NODE_VALID 0 new.isSome
  ((s2.bump .COL_COUNT2_ADDR_CHANGES).record 0x24 0xAE [(2, old), (2, s2.addrWord)]).codesRestart

/-- A claim takes an address: the first after a start is no change (R268). -/
def State.takeAddr (s : State) (a : Nat) : State :=
  let s1 := ({ s with col := { s.col with reclaim := false } }).sendClear 0xAE 0x34
  if s.col.claimed then s1.changeAddr (some a)
  else
    let s2 := { s1 with col := { s1.col with claimed := true } }
    ((s2.wr .COL_NODE_ADDR 0 a).set1 .COL_NODE_VALID).codesRestart

/-- The module's claim beats another one to the same address: AUTO = 0 first, then the lower identity (R267). -/
def State.claimWins (s : State) (r : LsaRec) : Bool :=
  let auto := s.is .COL_NODE_AUTO
  if auto = r.auto then decide (s.uid < r.uid) else !auto

/-- A record that claims the module's address: the loser gives it up (R267). -/
def State.checkConflict (s : State) (r : LsaRec) : State :=
  if !(s.is .COL_NODE_VALID && r.valid && r.node == s.nodeAddr) || s.claimWins r then s
  else
    let s1 := s.changeAddr none
    if s.is .COL_NODE_AUTO then { s1 with col := { s1.col with reclaim := true } }
    else
      let s2 := s1.set1 .COL_STATUS_ADDR_CONFLICT
      if s2.hasCond 0xAE 0x34 then s2 else s2.sendFault 0xAE 0x34

/-- The lowest address that no record of the database claims (R266). -/
def State.lowestAddr (s : State) : Option Nat :=
  let used := (s.col.db.filter fun r => r.uid != s.uid && r.valid).map (·.node)
  (List.range (used.length + 1)).find? fun a => !used.contains a && decide (a < 4096)

/-- The claim of R266; a claim of REQ_ADDR meets the claims that the database holds (R267). -/
def State.claimAddr (s : State) : State :=
  if s.is .COL_NODE_VALID then s
  else if !s.is .COL_NODE_AUTO then
    s.col.db.foldl (fun t r => if r.uid = s.uid then t else t.checkConflict r) (s.takeAddr (s.rd .COL_NODE_REQ_ADDR))
  else match s.lowestAddr with
    | some a => s.takeAddr a
    | none => s

/-- ADDR_CLAIM (R266). -/
def execAddrClaim (s : State) : Host.Outcome State Fault Refusal :=
  .next (if !s.is .KCT_STATUS_LOCKED || s.is .COL_STATUS_ADDR_CONFLICT || s.col.reclaim then s
    else if s.is .COL_NODE_AUTO && !s.col.seen then s
    else s.claimAddr)

/-- ADDR_RECLAIM (R267). -/
def execAddrReclaim (s : State) : Host.Outcome State Fault Refusal :=
  .next (if s.col.reclaim && s.is .COL_NODE_AUTO then s.claimAddr else s)

/-! ### Link state (R269, R270) -/

/-- A record as the words of an LSA message, and back (Table 123). -/
def lsaWords (r : LsaRec) : List Word64 :=
  let link := fun i => r.links.getD i ⟨0, false, 0, 0, 0, []⟩
  [msgWord 2 0 0 false 0 (place 0 12 r.node + place 12 1 (flag r.valid) + place 13 1 (flag r.auto) + place 14 1 (flag r.fwd)),
    word64 r.uid, word64 (r.lseq % 2 ^ 32)] ++
  (List.range 4).map (fun i => word64 (place 0 12 (link i).peerNode + place 12 1 (flag (link i).peerValid) +
    place 13 2 (link i).peerCage + place 15 4 (link i).lit + place 19 32 (link i).delay)) ++
  (List.range 4).map fun i => word64 ((link i).free.zipIdx.foldl (fun a x => a + place (14 * x.2) 14 x.1) 0)

def wordsLsa (f : Frame) : LsaRec :=
  let w := msgW f
  { uid := w 1, node := bits 40 12 (w 0), valid := bit 52 (w 0), auto := bit 53 (w 0), fwd := bit 54 (w 0)
    lseq := bits 0 32 (w 2)
    links := (List.range 4).map fun i =>
      { peerNode := bits 0 12 (w (3 + i)), peerValid := bit 12 (w (3 + i)), peerCage := bits 13 2 (w (3 + i))
        lit := bits 15 4 (w (3 + i)), delay := bits 19 32 (w (3 + i))
        free := (List.range 4).map fun j => bits (14 * j) 14 (w (7 + i)) } }

/-- `a` is newer than `b` as a 32-bit serial number. -/
def serialNewer (a b : Nat) : Bool := decide (0 < (a + 2 ^ 32 - b) % 2 ^ 32 ∧ (a + 2 ^ 32 - b) % 2 ^ 32 < 2 ^ 31)

/-- A record is put into the database. -/
def State.storeRec (s : State) (r : LsaRec) : State :=
  let db := s.col.db.filter (fun x => x.uid != r.uid) ++ [r]
  (({ s with col := { s.col with db := db } }).wr .COL_STATUS_NODES 0 db.length).set1 .COL_STATUS_ROUTE_BUSY

/-- A message goes out on every UP lane but one. -/
def State.flood (s : State) (ws : List Word64) (but : Option Nat) : State :=
  s.forEach (fun l t => if t.laneUp l && but != some l then t.sendFrame l (t.localMsg ws) else t) allLanes

/-- LSA_FLOOD (R269): a module that holds an address, or has just lost one, floods its record. -/
def execLsaFlood (s : State) : Host.Outcome State Fault Refusal :=
  .next (if !s.is .COL_NODE_VALID && !s.col.claimed then s
    else
      let s1 := { s with col := { s.col with lseq := (s.col.lseq + 1) % 2 ^ 32 } }
      let full := (s.col.db.all fun x => x.uid != s.uid) && decide (4096 ≤ s.col.db.length)
      (if full then s1.set1 .COL_STATUS_LSDB_FULL else s1.storeRec s1.ownRec).flood (lsaWords s1.ownRec) none)

/-- A record arrives: stored and passed on when it is newer, ignored when the database is full. -/
def State.takeLsa (s : State) (l : Nat) (f : Frame) : State :=
  let r := wordsLsa f
  if r.uid = s.uid then s
  else
    let newer := match s.col.db.find? (·.uid == r.uid) with
      | some o => serialNewer r.lseq o.lseq
      | none => true
    if !newer then s
    else if (s.col.db.all fun x => x.uid != r.uid) ∧ 4096 ≤ s.col.db.length then s.set1 .COL_STATUS_LSDB_FULL
    else ((s.storeRec r).checkConflict r).flood f.words (some l)

/-- LSA (R269). -/
def execLsa (l : LaneIx) (f : Frame) (s : State) : Host.Outcome State Fault Refusal :=
  .next (s.onMsg l f 2 fun t => t.takeLsa l f)

/-- LSA_EXPIRE (R269). -/
def execLsaExpire (uid : Nat) (s : State) : Host.Outcome State Fault Refusal :=
  .next (if s.col.db.any (·.uid == uid) then
      let db := s.col.db.filter (·.uid != uid)
      (({ s with col := { s.col with db := db } }).wr .COL_STATUS_NODES 0 db.length).set1 .COL_STATUS_ROUTE_BUSY
    else s)

/-- ROUTE_COMPUTE_DONE (R270, R277): publishers that wait for the tables to reflect a failure go on. -/
def execRouteComputeDone (s : State) : Host.Outcome State Fault Refusal :=
  .next ((s.computeRoutes.clr .COL_STATUS_ROUTE_BUSY).forEach
    (fun n t => if (t.bp n).pub.report then t.newRoute n else t) allBps)

/-! ### Subscription (R273, Table 122) -/

/-- The publisher refuses its subscriber with a code of Table 23. -/
def State.nakSub (s : State) (n node code : Nat) : State :=
  ((s.updBp n fun x => { x with pub := { x.pub with subscriber := none, pend := none, tries := 0, avoid := [] } }).wr
    .COL_BP_STATUS_LAST_NAK n code).sendRouted node [msgWord 4 s.nodeAddr n false 0 (place 0 4 code)]

/-- Steps 2 and 3 at the publisher. -/
def State.takeSubReq (s : State) (f : Frame) : State :=
  let n := msgBp f
  let node := bits 40 12 (msgW f 0)
  let bp := bits 52 7 (msgW f 0)
  let x := s.bp n
  let nak := fun code => s.sendRouted node [msgWord 4 s.nodeAddr n false 0 (place 0 4 code)]
  if msgNode f ≠ s.nodeAddr ∨ s.running n = false ∨ x.decl.dstKind ≠ 2 then nak 7
  else if x.pub.subscriber.isSome then nak 8
  else
    let s1 := s.updBp n fun y => { y with pub := { y.pub with subscriber := some (node, bp), tries := 0, avoid := [], lost := false } }
    let r := s1.startRoute n
    if r.2 then r.1.wr .COL_BP_STATUS_PEER n node else s1.nakSub n node 6

/-- SUB_REQ (R273). -/
def execSubReq (l : LaneIx) (f : Frame) (s : State) : Host.Outcome State Fault Refusal :=
  .next (s.onMsg l f 3 fun t => t.takeSubReq f)

/-- Band paths whose subscription to a stream waits. -/
def State.waitingFor (s : State) (node bp : Nat) : List Nat :=
  allBps.filter fun n => let x := s.bp n
    x.sub.waiting && (match x.check with | some c => c.decl.srcNode == node && c.decl.srcBp == bp | none => false)

/-- SUB_NAK (R273): the waiting check is rejected with the publisher's code. -/
def execSubNak (l : LaneIx) (f : Frame) (s : State) : Host.Outcome State Fault Refusal :=
  .next (s.onMsg l f 4 fun t =>
    let code := bits 40 4 (msgW f 0)
    t.forEach (fun n u => (u.bpReject n code).wr .COL_BP_STATUS_LAST_NAK n code) (t.waitingFor (msgNode f) (msgBp f)))

/-- Step 6 at the subscriber: band path n is named in the RESV, which arrived on lane l over `hops` hops. A new route restarts a
measurement that runs (R197). -/
def State.takeRoute (s : State) (n l hops : Nat) (f : Frame) : State :=
  let node := msgNode f
  let x := s.bp n
  let k := bits 40 2 (msgW f 0) + 1
  let d := if x.sub.waiting then (x.check.map (·.decl)).getD x.decl else x.decl
  let mine := d.srcKind == 2 && d.srcNode == node && d.srcBp == msgBp f && (x.sub.waiting || (x.sub.on && s.running n))
  if !mine then s.sendRouted node [msgWord 13 node (msgBp f) false 0 0]
  else if bits 24 15 (msgW f 1) ≠ d.span then
    let s1 := s.sendUnsub d
    if x.sub.waiting then (s1.bpReject n 7).wr .COL_BP_STATUS_LAST_NAK n 7 else s1
  else
    let e : Entry := { node := node, bp := msgBp f, rid := msgRid f, gen := msgGen f, rate := bits 0 24 (msgW f 1), k := k
                       dest := s.nodeAddr, inLane := some l }
    let s1 := ((s.setEntry e).updBp n fun y => { y with
      sub := { y.sub with waiting := false, on := true, freq := bits 0 32 (msgW f 2), rid := msgRid f } })
    let s2 := ((((s1.colStatus n 2 hops k node true).clr .COL_BP_STATUS_UNRES n).wr .COL_BP_RATE_RATE n e.rate).measureAnew n).sendRouted node
      [msgWord 7 node (msgBp f) (msgRid f) (msgGen f) 0]
    if x.sub.waiting then s2.bpPass n d true else s2

/-- RESV_NAK back over the lane the RESV came on. -/
def State.refuseResv (s : State) (l lane : Nat) (f : Frame) : State :=
  s.sendBack l [msgWord 6 (msgNode f) (msgBp f) (msgRid f) (msgGen f) (place 0 12 s.nodeAddr + place 12 4 lane)]

/-- Step 4 at a hop: HOP_IDX names the receiving node's place in the list. -/
def State.takeResv (s : State) (l : Nat) (f : Frame) : State :=
  let hops := bits 42 5 (msgW f 0)
  let idx := bits 47 5 (msgW f 0)
  let nodes := unpackNodes f hops
  let k := bits 40 2 (msgW f 0) + 1
  let rate := bits 0 24 (msgW f 1)
  if hops ≤ idx + 1 then s.takeRoute (bits 44 7 (msgW f 2)) l hops f
  else
    let next := nodes.getD (idx + 1) 0
    match s.cageTo next with
    | none => s.refuseResv l 0 f
    | some c =>
      let e : Entry := { node := msgNode f, bp := msgBp f, rid := msgRid f, gen := msgGen f, rate := rate, k := k
                         dest := bits 32 12 (msgW f 2), inLane := some l, route := nodes.drop (idx + 1) }
      let s0 := match s.entry e.node e.bp e.rid with | some o => s.dropEntry o | none => s
      if !s.is .COL_CTRL_FWD_EN || !s.is .COL_NODE_VALID then s.refuseResv l (4 * c) f
      else match s0.admitOn c k rate [] with
        | none =>
          let bad := ((cageLanes c).find? fun i => s0.laneUp i && !s0.admits i rate).getD (4 * c)
          s0.refuseResv l bad f
        | some lanes =>
          let ws := f.words.set 0 (word64 (msgW f 0 + 2 ^ 47))
          (s0.installEntry { e with out := lanes }).sendHop next ws

/-- RESV (R273). -/
def execResv (l : LaneIx) (f : Frame) (s : State) : Host.Outcome State Fault Refusal :=
  .next (s.onMsg l f 5 fun t => t.takeResv l f)

/-- Step 5, and the way back: an earlier hop frees its admission; the publisher retries once (Table 122, R277). -/
def State.takeResvNak (s : State) (f : Frame) : State :=
  let node := msgNode f
  let n := msgBp f
  let rid := msgRid f
  match s.entry node n rid with
  | none => s
  | some e =>
    let s1 := s.dropEntry e
    if node ≠ s.nodeAddr then
      match e.inLane with
      | some u => s1.sendBack u f.words
      | none => s1
    else
      let p := (s.bp n).pub
      let bad := (bits 40 12 (msgW f 0), bits 52 4 (msgW f 0))
      let s2 := s1.updBp n fun x => { x with pub := { x.pub with pend := none, tries := p.tries + 1, avoid := bad :: p.avoid } }
      let r := if p.tries = 0 then s2.startRoute n else (s2, false)
      if r.2 then r.1
      else match p.subscriber, p.route.isSome || p.lost with
        | some _, true => s2.routeLost n
        | some (dest, _), false => s2.nakSub n dest 6
        | none, _ => s2

/-- RESV_NAK (R273). -/
def execResvNak (l : LaneIx) (f : Frame) (s : State) : Host.Outcome State Fault Refusal :=
  .next (s.onMsg l f 6 fun t => t.takeResvNak f)

/-- Step 7 at the publisher: the reserved route carries the stream, the old one is released (R277); after a loss the next
GEN begins (R274). -/
def State.takeSubAck (s : State) (f : Frame) : State :=
  let n := msgBp f
  match (s.bp n).pub.pend with
  | none => s
  | some r =>
    if r.rid ≠ msgRid f ∨ msgNode f ≠ s.nodeAddr then s
    else
      let old := (s.bp n).pub
      let s1 := s.updBp n fun x => { x with
        gen := if old.lost then (x.gen + 1) % 256 else x.gen
        pub := { x.pub with route := some r, pend := none, nextRid := !r.rid, lost := false, tries := 0, avoid := [] } }
      let s2 := match old.route with
        | some o => if o.rid = r.rid then s1 else s1.releaseRoute n o.rid 0
        | none => s1
      let peer := (old.subscriber.map (·.1)).getD 0
      ((s2.colStatus n 1 r.nodes.length (s2.stripe n) peer true).clr .COL_BP_STATUS_REPAIRING n).clr .COL_BP_STATUS_UNRES n

/-- SUB_ACK (R273). -/
def execSubAck (l : LaneIx) (f : Frame) (s : State) : Host.Outcome State Fault Refusal :=
  .next (s.onMsg l f 7 fun t => t.takeSubAck f)

/-- SUB_TIMEOUT (Table 122). -/
def execSubTimeout (n : BpIx) (s : State) : Host.Outcome State Fault Refusal :=
  .next (match (s.bp n).check with
    | some c => if (s.bp n).sub.waiting then ((s.endSub n c.decl).bpReject n 6).wr .COL_BP_STATUS_LAST_NAK n 6 else s
    | none => s)

/-- STREAM_REESTABLISH (R274): 1 s after the last attempt. -/
def execStreamReestablish (n : BpIx) (s : State) : Host.Outcome State Fault Refusal :=
  let p := (s.bp n).pub
  .next (if !p.lost || p.subscriber.isNone || p.pend.isSome then s
    else
      let s1 := s.updBp n fun x => { x with pub := { x.pub with tries := 0, avoid := [], tried := s.clk.tick } }
      let r := s1.startRoute n
      if r.2 then r.1 else s1)

/-! ### Acknowledgement (R275) -/

/-- GRAIN_ACK_SEND (R275): where ACK_SEQ has advanced. -/
def execGrainAckSend (s : State) : Host.Outcome State Fault Refusal :=
  .next (s.forEach (fun n t =>
    let x := t.bp n
    let d := x.decl
    if !t.running n || d.srcKind != 2 || x.sub.ack == x.sub.acked then t
    else match x.sub.ack, (match t.entry d.srcNode d.srcBp x.sub.rid with | some e => e.inLane | none => none) with
      | some a, some l =>
        (t.updBp n fun y => { y with sub := { y.sub with acked := some a } }).sendBack l
          [msgWord 8 d.srcNode d.srcBp x.sub.rid x.dly.gen 0, word64 a]
      | _, _ => t) allBps)

/-- Kept copies that an acknowledgement frees; it goes on upstream. -/
def State.takeAck (s : State) (f : Frame) : State :=
  match s.entry (msgNode f) (msgBp f) (msgRid f) with
  | none => s
  | some e =>
    let ack := bits 0 28 (msgW f 1)
    let s1 := s.dropKept e fun k => gGen (wordsGrain k.words) == msgGen f && decide (0 ≤ seqDist (wordsGrain k.words).seq ack)
    match e.inLane with
    | some u => s1.sendBack u f.words
    | none => s1

/-- GRAIN_ACK (R275). -/
def execGrainAck (l : LaneIx) (f : Frame) (s : State) : Host.Outcome State Fault Refusal :=
  .next (s.onMsg l f 8 fun t => t.takeAck f)

/-! ### Release and repair (R274, R276, R277) -/

/-- RELEASE reaches a hop: it passes on along the route, then everything of the entry is freed. -/
def State.takeRelease (s : State) (f : Frame) : State :=
  match s.entry (msgNode f) (msgBp f) (msgRid f) with
  | none => s
  | some e =>
    let reason := bits 40 4 (msgW f 0)
    let s1 := match e.out with
      | k :: _ => s.sendBack k f.words
      | [] => s
    (s1.dropEntry e).forEach (fun n t =>
      if (t.bp n).sub.on && (t.bp n).sub.rid == e.rid then
        let t1 := t.clr .COL_BP_STATUS_ROUTED n
        if reason = 2 then t1 else (t1.updBp n fun x => { x with sub := {} }).clr .COL_BP_STATUS_ROLE n
      else t) (s.subscribers e.node e.bp)

/-- RELEASE (R274). -/
def execRelease (l : LaneIx) (f : Frame) (s : State) : Host.Outcome State Fault Refusal :=
  .next (s.onMsg l f 9 fun t => t.takeRelease f)

/-- UNSUB reaches the publisher from its subscriber (R274). -/
def State.takeUnsub (s : State) (f : Frame) : State :=
  let n := msgBp f
  match (s.bp n).pub.subscriber with
  | none => s
  | some (node, _) =>
    if node ≠ f.src ∨ msgNode f ≠ s.nodeAddr then s
    else ((s.releaseAll n 1).updBp n fun x => { x with pub := { x.pub with
        subscriber := none, lost := false, report := false, tries := 0, avoid := [] } }).clr .COL_BP_STATUS_ROUTED n
      |>.clr .COL_BP_STATUS_PEER n |>.clr .COL_BP_STATUS_REPAIRING n

/-- UNSUB (R274). -/
def execUnsub (l : LaneIx) (f : Frame) (s : State) : Host.Outcome State Fault Refusal :=
  .next (s.onMsg l f 13 fun t => t.takeUnsub f)

/-- A hop admits the members that a repair brought it, or leaves them UNRES; true when one is left. -/
def State.admitRepair (s : State) (e : Entry) : State × Bool :=
  e.out.zipIdx.foldl (fun (r : State × Bool) x =>
    let mine := fun (m : Member) => m.ofEntry e && m.index == x.2
    if (r.1.lane x.1).members.any fun m => mine m && !m.unres then r
    else
      let t := r.1.updLane x.1 fun y => { y with members := y.members.filter fun m => !mine m }
      if t.admits x.1 e.rate then (t.putMember e x.2 x.1 false, r.2) else (t.putMember e x.2 x.1 true, true)) (s, false)

/-- REPAIR at a hop, or at the subscriber, where it restarts a measurement that runs (R277, R197). -/
def State.takeRepair (s : State) (l : Nat) (f : Frame) : State :=
  match s.entry (msgNode f) (msgBp f) (msgRid f) with
  | none => s.bump .COL_COUNT1_NO_ROUTE
  | some e0 =>
    let short := bit 40 (msgW f 0)
    let hops := bits 41 5 (msgW f 0)
    let e1 := { e0 with inLane := some l, rate := bits 0 24 (msgW f 1) }
    if e1.dest = s.nodeAddr then
      ((s.setEntry e1).forEach (fun n t => (t.wrB .COL_BP_STATUS_UNRES n short).measureAnew n) (s.subscribers e1.node e1.bp)).sendRouted
        e1.node [msgWord 11 e1.node e1.bp e1.rid e1.gen (flag short)]
    else
      let g := (s.setEntry e1).extendEntry e1 (bits 24 2 (msgW f 1) + 1)
      let e := g.2
      let r := g.1.admitRepair e
      let w0 := msgWord 10 e.node e.bp e.rid (msgGen f) (flag (short || r.2) + place 1 5 (min 31 (hops + 1)))
      match e.out with
      | k :: _ => r.1.sendBack k (f.words.set 0 w0)
      | [] => r.1

/-- REPAIR (R277). -/
def execRepair (l : LaneIx) (f : Frame) (s : State) : Host.Outcome State Fault Refusal :=
  .next (s.onMsg l f 10 fun t => t.takeRepair l f)

/-- REPAIR_REPORT (R277). -/
def execRepairReport (l : LaneIx) (f : Frame) (s : State) : Host.Outcome State Fault Refusal :=
  .next (s.onMsg l f 11 fun t =>
    if msgNode f = t.nodeAddr then t.pubReport (msgBp f) (bit 40 (msgW f 0)) (bit 41 (msgW f 0)) else t)

/-! ### Saddle's digests (R162, R163) -/

/-- The records of the module's digest: a gain report of each enabled band path, and its detections (Table 75). -/
def State.digest (s : State) : List Word64 :=
  (allBps.filter s.running).flatMap fun n =>
    let c := s.codeIndex n
    word64 (1 + place 2 19 c + place 40 16 (s.rd .BP_GAIN_GAIN_NOW n)) ::
      (List.range 15).filterMap fun w => match s.watchCode n w with
        | some o => if bit w (s.rd .SDL_DETECT_DET n) then some (word64 (2 + place 2 19 c + place 21 19 o)) else none
        | none => none

/-- The modules that publish to this one or subscribe from it. -/
def State.partners (s : State) : List Nat :=
  ((allBps.filter s.running).flatMap fun n =>
    let x := s.bp n
    (match x.pub.subscriber with | some (d, _) => [d] | none => []) ++ (if x.sub.on then [x.decl.srcNode] else [])).dedup.filter
      (· != s.nodeAddr)

/-- A digest in frames of at most 63 records. -/
def digestFrames : List Word64 → Nat → List (List Word64)
  | _, 0 => []
  | ws, k + 1 => if ws = [] then [] else ws.take 63 :: digestFrames (ws.drop 63) k

/-- SADDLE_DIGEST_SEND (R162). -/
def execSaddleDigestSend (s : State) : Host.Outcome State Fault Refusal :=
  let fs := digestFrames s.digest s.digest.length
  .next (if !s.is .COL_NODE_VALID then s
    else s.forEach (fun d t => t.forEach (fun ws u =>
      u.sendRouted d (msgWord 12 0 0 false 0 (place 0 6 ws.length) :: ws)) fs) s.partners)

/-- A record of a digest: a gain report for every band path that watches the code, or a detection. A gain report begins a
code's detections anew. -/
def State.takeDigest (s : State) (r : Nat) : State :=
  let c := bits 2 19 r
  if bits 0 2 r = 1 then
    let s1 := if s.remoteDet.any (·.1 == c) then { s with remoteDet := s.remoteDet.filter (·.1 != c) } else s
    s1.forEach (fun n t => if t.running n && (List.range 15).any (fun w => t.watchCode n w == some c) then
      t.gainReport n c (signed 16 (bits 40 16 r)) else t) allBps
  else if bits 0 2 r = 2 then
    if s.remoteDet.contains (c, bits 21 19 r) then s else { s with remoteDet := s.remoteDet ++ [(c, bits 21 19 r)] }
  else s

/-- SDIGEST (R163); each message counts as a digest received (DEDUCED, log entry 31). -/
def execSdigest (l : LaneIx) (f : Frame) (s : State) : Host.Outcome State Fault Refusal :=
  .next (s.onMsg l f 12 fun t =>
    (t.bump .SDL_DIGEST_DIGESTS_RX).forEach (fun w u => u.takeDigest w.toNat) ((f.words.drop 1).take (bits 40 6 (msgW f 0))))

end Sys2Proof.Machine
end

