-- ==== Sys2Proof/Machine/Monitor.lean ====
section
/-!
DEFINITION. Monitor converters (13_monitor_converters.md): the scan, urgent requests, result queues and last values, the
reference buffer and self-calibration, and the cross-check of channel 31.
-/

namespace Sys2Proof.Machine

def otherConv (x : Nat) : Nat := 1 - x

/-- URG_BUSY and URG_PEND of a converter (Table 141). -/
def State.showUrgent (s : State) (x : Nat) : State :=
  let c := s.conv x
  (s.wrB .MON_STATUS_URG_BUSY x (match c.job with | .urgent _ _ => true | _ => false)).wr .MON_STATUS_URG_PEND x c.pend.length

/-- The converter scans (R321). -/
def State.scans (s : State) (x : Nat) : Bool :=
  s.is .MON_CTRL_SCAN_EN x && s.is .MON_CTRL_REF_EN x && !s.is .MON_STATUS_CALIBRATING x

/-- The lowest channel of a mask at or above m (R321). -/
def nextChannel (mask m : Nat) : Option Nat := (List.range 32).find? fun c => decide (m ≤ c) && bit c mask

/-- The conversion that starts next: pending urgent requests in order, then a redo, then the scan (R321, R324). -/
def State.nextJob (s : State) (x : Nat) : State :=
  let c := s.conv x
  let c' : Conv := match c.pend with
    | (ch, tag) :: rest => { c with job := .urgent ch tag, pend := rest }
    | [] =>
      if !s.scans x then { c with job := .idle, redo := none }
      else match c.redo with
        | some ch => { c with job := .scan ch true, redo := none }
        | none =>
          match nextChannel c.mask (c.at' + 1) with
          | some ch => { c with job := .scan ch false, at' := ch }
          | none =>
            let m := s.rd .MON_SCAN_MASK x
            match nextChannel m 0 with
            | some ch => { c with job := .scan ch false, mask := m, at' := ch }
            | none => { c with job := .idle, mask := 0 }
  (s.setConv x c').showUrgent x

/-- A change that can start the scan (R321): an idle converter begins a new sweep. -/
def State.monWake (s : State) (x : Nat) : State :=
  match (s.conv x).job with
  | .idle => (s.setConv x { s.conv x with mask := 0, at' := 0, redo := none }).nextJob x
  | _ => s

/-- The scan stops; urgent work goes on (R319, R320, R323). -/
def State.monStop (s : State) (x : Nat) : State :=
  let c := s.conv x
  let s1 := s.setConv x { c with mask := 0, at' := 0, redo := none }
  match c.job with
  | .scan _ _ => s1.nextJob x
  | _ => s1

/-- An urgent request for channel ch (R323, R324, Table 139). -/
def State.urgent (s : State) (x ch tag : Nat) : State :=
  let c := s.conv x
  if !s.is .MON_CTRL_REF_EN x || s.is .MON_STATUS_CALIBRATING x then s.set1 .MON_STATUS_URG_REFUSED x
  else
    let queue (s : State) : State :=
      if c.pend.length < 2 then (s.setConv x { c with pend := c.pend ++ [(ch, tag)] }).showUrgent x
      else s.bump .MON_COUNT_URG_LOST x
    match c.job with
    | .idle => (s.setConv x { c with job := .urgent ch tag }).showUrgent x
    | .urgent _ _ => queue s
    | .scan m _ =>
      if s.rd .MON_MODE_SVC = 1 then
        ((s.setConv x { c with job := .urgent ch tag, redo := some m }).bump .MON_COUNT_ABORTS x).showUrgent x
      else queue s

/-! ### Results (R325, R321) -/

/-- A queue entry (Table 140). -/
def monEntry (code ch : Nat) (urgent redo plBad noCal : Bool) (tag : Nat) : Word :=
  BitVec.ofNat 32 (code % 65536 + place 16 5 ch + place 21 1 (flag urgent) + place 22 1 (flag redo) + place 23 1 (flag plBad)
    + place 24 1 (flag noCal) + place 25 4 tag + 2 ^ 31)

/-- Replace the newest scan entry: the last entry whose URGENT bit is 0. -/
def replaceScan (e : Word) : List Word → Option (List Word)
  | [] => none
  | a :: rest =>
    match replaceScan e rest with
    | some r => some (a :: r)
    | none => if a.getLsbD 21 then none else some (e :: rest)

/-- An entry comes to the queue of 128 (R325). -/
def State.monPush (s : State) (x : Nat) (urgent : Bool) (e : Word) : State :=
  let c := s.conv x
  if c.queue.length < 128 then
    (s.setConv x { c with queue := c.queue ++ [e] }).wr .MON_QLEVEL_LEVEL x (c.queue.length + 1)
  else
    let q := if urgent then (replaceScan e c.queue).getD c.queue else c.queue
    ((s.setConv x { c with queue := q }).bump .MON_QLEVEL_Q_DROP x).set1 .MON_STATUS_Q_OVF x

/-! ### The cross-check (R322) -/

/-- PL_OK is 0 from now on; the set-point of SETA is invalid (R143). -/
def State.plLost (s : State) : State := ({ s.clr .MON_PLAUS_PL_OK with plRun := 0 }).setaFail

/-- Converter x completes channel 31 with a code. -/
def State.crossCheck (s : State) (x code : Nat) : State :=
  let s1 := s.setConv x { s.conv x with ref := some (code, s.cycles) }
  match (s.conv (otherConv x)).ref with
  | none => s1
  | some (other, at') =>
    if at' + 800000 < s.cycles then s1
    else
      let d := (code - other) + (other - code)
      let near (c : Nat) : Bool := decide (52428 - 1049 ≤ c ∧ c ≤ 52428 + 1049)
      let s2 := (s1.wr .MON_PLAUS_DIFF 0 d).clr .MON_PLAUS_PL_STALE
      if decide (d ≤ max 1 (s.rd .MON_PL_LIM_PL_TOL)) && near code && near other then
        let s3 := { s2 with plRun := min 16 (s2.plRun + 1) }
        if s3.plRun = 16 then (s3.set1 .MON_PLAUS_PL_OK).sendClear 0xB0 0x53 else s3
      else
        let s3 := (s2.set1 .MON_PLAUS_PL_FAIL).plLost
        if s3.hasCond 0xB0 0x53 then s3 else s3.sendFault 0xB0 0x53

/-! ### Writes -/

/-- REF_EN (R319). -/
def State.writeRefEn (s : State) (x : Nat) (on : Bool) : State :=
  if on then (s.set1 .MON_CTRL_REF_EN x).monWake x
  else ((s.clr .MON_CTRL_REF_EN x).clr .MON_STATUS_REF_READY x).monStop x

/-- SCAN_EN (R321). -/
def State.writeScanEn (s : State) (x : Nat) (on : Bool) : State :=
  if on then (s.set1 .MON_CTRL_SCAN_EN x).monWake x else (s.clr .MON_CTRL_SCAN_EN x).monStop x

/-- CAL (R320). -/
def State.monCal (s : State) (x : Nat) : State :=
  if !s.is .MON_STATUS_REF_READY x || s.is .MON_STATUS_CALIBRATING x then s.set1 .MON_STATUS_CAL_REFUSED x
  else (s.set1 .MON_STATUS_CALIBRATING x).monStop x

/-- A write of MON_CTRL (Table 141). -/
def State.writeMonCtrl (s : State) (x w : Nat) : State :=
  let s1 := s.writeRefEn x (bit 1 w)
  let s2 := s1.writeScanEn x (bit 0 w)
  if bit 2 w then s2.monCal x else s2

/-- A write of MON_SCAN takes effect at the next sweep; an idle converter starts one at once (R321). -/
def State.writeMonScan (s : State) (x w : Nat) : State := (s.wr .MON_SCAN_MASK x w).monWake x

/-- A write of MON_URGENT (R323). -/
def State.writeUrgent (s : State) (x w : Nat) : State :=
  ((s.wr .MON_URGENT_CH x (bits 0 5 w)).wr .MON_URGENT_TAG x (bits 5 4 w)).urgent x (bits 0 5 w) (bits 5 4 w)

/-- The oldest entry of a queue, or 0 (R325). -/
def State.monOldest (s : State) (x : Nat) : Word := (s.conv x).queue.headD 0

/-- A read of MON_QUEUE by field firmware removes the oldest entry (R325). -/
def State.monPop (s : State) (x : Nat) : State :=
  let q := (s.conv x).queue.tail
  (s.setConv x { s.conv x with queue := q }).wr .MON_QLEVEL_LEVEL x q.length

/-! ### The commands -/

/-- MON_REF_EN (R319). -/
def execMonRefEn (x : ConvIx) (on : Bool) (s : State) : Host.Outcome State Fault Refusal := .next (s.writeRefEn x on)

/-- MON_REF_READY (R319). -/
def execMonRefReady (x : ConvIx) (s : State) : Host.Outcome State Fault Refusal :=
  .next (if s.is .MON_CTRL_REF_EN x then s.set1 .MON_STATUS_REF_READY x else s)

/-- MON_CAL (R320). -/
def execMonCal (x : ConvIx) (s : State) : Host.Outcome State Fault Refusal := .next (s.monCal x)

/-- The new factors lie within 64 codes and 0.5 % of the factory values (R320); an offset step is 1/16 code. -/
def factorsOk (new : Int × Int) (old : Int × Nat) : Bool :=
  decide ((new.1 - old.1).natAbs ≤ 1024 ∧ 200 * (new.2 - (old.2 : Int)).natAbs ≤ old.2)

/-- The end of a self-calibration (R320): `factors` are the measured offset and gain, none when nothing could be
measured. -/
def State.monCalDone (s : State) (x : Nat) (factors : Option (Int × Int)) : State :=
  let s0 := s.clr .MON_STATUS_CALIBRATING x
  let old := s.factory.mon.getD x (0, 4194304)
  match factors.filter (factorsOk · old) with
  | some f =>
    let s1 := ((s0.setConv x { s0.conv x with failed := false }).wr .MON_CAL_OFS_OFS x (wrapBits 16 f.1)).wr
      .MON_CAL_GAIN_GAIN x f.2.toNat
    let s2 := s1.set1 .MON_STATUS_CAL_OK x
    (if (s2.conv (otherConv x)).failed then s2 else s2.sendClear 0xB0 0x52).monWake x
  | none =>
    let s1 := ((s0.setConv x { s0.conv x with failed := true }).set1 .MON_STATUS_CAL_FAIL x).clr .MON_STATUS_CAL_OK x
    (s1.sendFault 0xB0 0x52 x).monWake x

/-- MON_CAL_DONE (R320). -/
def execMonCalDone (x : ConvIx) (factors : Option (Int × Int)) (s : State) : Host.Outcome State Fault Refusal :=
  .next (if s.is .MON_STATUS_CALIBRATING x then s.monCalDone x factors else s)

/-- A conversion completes (R321): its corrected code is queued, stored, and sent to SETA or to the cross-check. -/
def State.converted (s : State) (x ch code : Nat) (urgent redo : Bool) (tag : Nat) : State :=
  let plBad := !s.is .MON_PLAUS_PL_OK
  let noCal := !s.is .MON_STATUS_REF_READY x || !s.is .MON_STATUS_CAL_OK x
  let s1 := ((s.monPush x urgent (monEntry code ch urgent redo plBad noCal tag)).roll .MON_CONV_CONVERSIONS x).tally 7
    (0x05 + x) 0
  let s2 := (((s1.wr .MON_LAST_CODE ch code).wr .MON_LAST_CONV ch x).set1 .MON_LAST_VALID ch).wrB .MON_LAST_FLAGGED ch
    (plBad || noCal)
  let s3 := if ch = 31 then s2.crossCheck x code else s2
  (if ch = 0 ∧ x = 0 then s3.setaConversion code else s3).nextJob x

/-- MON_CONVERSION_DONE (R321). -/
def execMonConversionDone (x : ConvIx) (code : BitVec 16) (s : State) : Host.Outcome State Fault Refusal :=
  .next (match (s.conv x).job with
    | .idle => s
    | .scan ch redo => s.converted x ch code.toNat false redo 0
    | .urgent ch tag => s.converted x ch code.toNat true false tag)

/-- PL_STALE (R322): no check for 20 ms. -/
def execPlStale (s : State) : Host.Outcome State Fault Refusal := .next (s.set1 .MON_PLAUS_PL_STALE).plLost

/-- MON_URGENT (R323). -/
def execMonUrgent (x : ConvIx) (w : Word) (s : State) : Host.Outcome State Fault Refusal := .next (s.writeUrgent x w.toNat)

/-- MON_QUEUE_READ (R325): the word goes to the reading core. -/
def execMonQueueRead (q : CoreIx) (x : ConvIx) (s : State) : Host.Outcome State Fault Refusal :=
  .next (s.via (.core q) fun t => (t.setReader q { t.reader q with data := t.monOldest x }).monPop x)

end Sys2Proof.Machine
end

