-- ==== Sys2Proof/Machine/Pwm.lean ====
section
/-!
DEFINITION. Line power (12_pwm_line_power.md): the commands of the PWM generator, the guarded function G3 and the fault
inputs.
-/

namespace Sys2Proof.Machine

/-- Channel k runs: the mute of a G3 trip ends at the restart (R307). -/
def State.g3Restart (s : State) (k : Nat) : State :=
  if k < 4 ∧ 2 ≤ s.rd .PWM_STATUS_STATE k then s.forEach (fun n t => t.unmute n (muteG3 k)) allBps else s

/-- The holds of channel k after a change (R310, R307). -/
def State.pwmReview (s : State) (k : Nat) : State := (s.gateReview k).g3Restart k

def State.pwmReviewAll (s : State) : State := s.forEach (fun k t => t.pwmReview k) (List.range 8)

/-- The fault collector has released the channel's own fence: its G3 hold ends, unless a later trip waits (R307). -/
def State.pwmRelease (s : State) (k : Nat) : State :=
  let waits := s.net.msgs.any fun m => m.source == 0xA0 + k && !m.clear
  (if waits then s else s.updPwm k fun x => { x with g3 := false }).pwmReview k

/-- A G3 trip of line-power channel k (R306, R308, R323): the G3 hold, one count while no trip holds the channel, the gates safe, the band
paths of the port muted, both senses converted, and a fault message. -/
def State.g3Trip (s : State) (k cause : Nat) (held : Bool) : State :=
  let s0 := s.updPwm k fun x => { x with g3 := true }
  let s1 := if held then s0 else s0.bump .PWM_COUNT1_G3_TRIPS k
  let s2 := (s1.gateReview k).forEach (fun n t => t.mute n (muteG3 k)) (s1.windowOut k)
  ((s2.urgent 0 (1 + k) 15).urgent 1 (5 + k) 15).sendFault (0xA0 + k) cause

/-- G3_TRIP (R304, R306): the sense of a comparator has stood at the code or above for FILT cycles; with the code below the
threshold, or a blanking window in that time, the event is not due (log entry 5). -/
def execG3Trip (k : ChanIx) (x : Comparison) (s : State) : Host.Outcome State Fault Refusal :=
  .next (if 4 ≤ k.val ∨ x.code.toNat < s.senseLimit k x.volt ∨ s.g3Blanked k then s else
    let held := (s.pwm k).g3 || s.fltHold k
    let s1 := s.updPwm k fun c =>
      if x.volt then { c with ovLow := none } else { c with ocLow := none }
    (s1.set1 (if x.volt then .PWM_STATUS_G3_OV else .PWM_STATUS_G3_OC) k).g3Trip k (if x.volt then 0x0A else 0x09) held)

/-- FLT input i becomes active after its filter (R308). -/
def State.fltActivate (s : State) (i : Nat) : State :=
  let act := s.rd .PWM_FLT_ACT
  if bit i act then s else
    let held (k : Nat) : Bool := (s.pwm k).g3 || s.fltHold k
    let latch := s.rd .PWM_FLT_LATCH
    let s1 := ((s.wr .PWM_FLT_ACT 0 (act + 2 ^ i)).wr .PWM_FLT_LATCH 0 (if bit i latch then latch else latch + 2 ^ i)).bump
      .PWM_FLT_FLT_EVENTS
    s1.forEach (fun k t => if k < 4 then t.g3Trip k 0x0B (held k) else (t.gateReview k).sendFault (0xA0 + k) 0x0B)
      ((List.range 8).filter (s.fltMaps i))

/-- FLT_ACTIVATE (R308). -/
def execFltActivate (i : Fin 4) (s : State) : Host.Outcome State Fault Refusal := .next (s.fltActivate i)

/-- FLT_INACTIVE (R309). -/
def execFltInactive (i : Fin 4) (s : State) : Host.Outcome State Fault Refusal :=
  .next (if bit i (s.rd .PWM_FLT_ACT) then s.wr .PWM_FLT_ACT 0 (s.rd .PWM_FLT_ACT - 2 ^ i.val) else s)

/-- A write of 1 to LATCH bit i while ACT bit i reads 0 ends the hold; while it reads 1 it is ignored (R309). -/
def State.fltClear (s : State) (i : Nat) : State :=
  let latch := s.rd .PWM_FLT_LATCH
  if bit i (s.rd .PWM_FLT_ACT) || !bit i latch then s else
    (s.wr .PWM_FLT_LATCH 0 (latch - 2 ^ i)).forEach
      (fun k t => (if t.fltHold k then t else t.sendClear (0xA0 + k) 0x0B).pwmReview k)
      ((List.range 8).filter (s.fltMaps i))

/-- FLT_LATCH_CLEAR (R309). -/
def execFltLatchClear (i : Fin 4) (s : State) : Host.Outcome State Fault Refusal := .next (s.fltClear i)

/-- The condition of an over-current or over-voltage trip ends once its comparator has been low for 1 ms (Table 145). -/
def State.senseLow (s : State) (k cause : Nat) (since : Option Nat) : State :=
  match since with
  | some c => if c + 800000 ≤ s.cycles then s.sendClear (0xA0 + k) cause else s
  | none => s

/-- PWM_PERIOD_END (R298): `x` is what the pins showed in the period that ends. -/
def execPwmPeriodEnd (k : ChanIx) (x : PwmSense) (s : State) : Host.Outcome State Fault Refusal :=
  let c := s.pwm k
  let low (old : Option Nat) (b : Bool) : Option Nat := if b then some (old.getD (c.start / 32)) else none
  let oc := low c.ocLow (decide (x.current.toNat < s.senseLimit k false))
  let ov := low c.ovLow (decide (x.voltage.toNat < s.senseLimit k true))
  let per := c.active.per
  let fell := match c.run with | some r => r.given && decide (r.fall < per) | none => false
  let s0 := s.tally 7 0x08 k
  let cross : Option Nat := (x.swn.map BitVec.toNat).filter (fun v => decide (v ≤ s.rd .PWM_DT_DT_FALL k))
  let adapt := fell && s.adapts k
  let s1 := if !adapt then s0 else match cross with
    | some v => s0.wr .PWM_DT_DT_LAST k v
    | none => (s0.wr .PWM_DT_DT_LAST k 255).bump .PWM_COUNT1_SWN_MISS k
  let deadNow := if !adapt then s.dtFall k else match cross with
    | some v => 32 * max (s.dtMin k) (min (s.rd .PWM_DT_DT_FALL k) (v + s.rd .PWM_DT_DT_MARGIN k))
    | none => s.dtFall k
  let next := { c.reload with start := s.cycles * 32, ocLow := oc, ovLow := ov }
  let s2 := (s1.keepBlank k (s.cycles * 32)).updPwm k fun y => { next with blank := y.blank }
  let s3 := match c.run with
    | none => s2
    | some r => s2.shapePeriod k (r.onAtEnd per) (r.lastFall per) (if fell || r.cont then deadNow else r.dead)
  .next (if k.val < 4 then (s3.senseLow k 0x09 oc).senseLow k 0x0A ov else s3)

/-- PWM_FALL_WRITE (R298). -/
def execPwmFallWrite (k : ChanIx) (w : Word) (s : State) : Host.Outcome State Fault Refusal := .next (s.commitPwm k w.toNat)

/-- PWM_MODE_WRITE (R297). -/
def execPwmModeWrite (k : ChanIx) (mode : Fin 4) (s : State) : Host.Outcome State Fault Refusal := .next (s.writeMode k mode)

/-- ARM (R310). -/
def State.writeArm (s : State) (k : Nat) (arm : Bool) : State := (s.wrB .PWM_CTRL_ARM k arm).pwmReview k

/-- PWM_ARM (R310). -/
def execPwmArm (k : ChanIx) (arm : Bool) (s : State) : Host.Outcome State Fault Refusal := .next (s.writeArm k arm)

/-- A write of PWM_CTRL (Table 135); ADAPT has no effect and reads 0 on channels 4 to 7 (R314). -/
def State.writePwmCtrl (s : State) (k w : Nat) : State :=
  (((s.writeMode k (bits 1 2 w)).wr .PWM_CTRL_STRETCH k (bits 3 1 w)).wr .PWM_CTRL_ADAPT k
    (if k < 4 then bits 4 1 w else 0)).writeArm k (bit 0 w)

/-- PWM_FW_LIMIT_WRITE (R303): 0 FW_MAX_DUTY, 1 FW_I_LIM, 2 FW_V_LIM. -/
def execPwmFwLimitWrite (k : ChanIx) (which : Fin 3) (v : BitVec 16) (s : State) : Host.Outcome State Fault Refusal :=
  .next (s.writeLimit k which v.toNat)

/-- PWM_FINE_CAL (R301). -/
def execPwmFineCal (ok : Bool) (s : State) : Host.Outcome State Fault Refusal :=
  .next (if ok then (s.set1 .PWM_GLOBAL_CAL_OK).sendClear 0xAF 0x51
    else
      let s1 := (s.set1 .PWM_GLOBAL_CAL_FAIL).clr .PWM_GLOBAL_CAL_OK
      if s1.hasCond 0xAF 0x51 then s1 else s1.sendFault 0xAF 0x51)

/-- Every channel goes safe with ARM cleared (Table 133). -/
def State.disarmAll (s : State) : State := s.forEach (fun k t => t.writeArm k false) (List.range 8)

/-- CLK_STOP (R310). -/
def execClkStop (s : State) : Host.Outcome State Fault Refusal := .next (s.disarmAll.set1 .PWM_GLOBAL_CLK_STOP)

/-- DEBUG_HALT (R422, Table 133): debug access exists only while DEBUG_EN is 1. -/
def execDebugHalt (q : CoreIx) (s : State) : Host.Outcome State Fault Refusal :=
  .next (if s.is .KCT_CFG_DEBUG_EN && bit q (s.rd .PCR_CTRL_RUN) && !bit q (s.rd .PCR_CTRL_HALTED) then
      (s.disarmAll.set1 .PWM_GLOBAL_DBG_SAFE).wr .PCR_CTRL_HALTED 0 (s.rd .PCR_CTRL_HALTED + 2 ^ q.val)
    else s)

/-- RELAY_MOVE_END (R92, Table 38): an IN-LINE position with correct sense ends the relay hold of the line-power channel. -/
def execRelayMoveEnd (p : PortIx) (sensed : Fin 4) (s : State) : Host.Outcome State Fault Refusal :=
  .next ((s.relayEnd p sensed).g3Restart p)

end Sys2Proof.Machine
end

