-- ==== Sys2Proof/Machine/Faults.lean ====
section
/-!
DEFINITION. The fault collector (14_faults_safety.md): acceptance and escalation of messages, the fences of Table 146 and
field bypass, the latches, acknowledgement, recovery and release, ALIVE, and fault injection.
-/

namespace Sys2Proof.Machine

/-! ### Sources and groups (Tables 12, 144, R30, R331) -/

def isUnit (u : Nat) : Bool := decide (u < 0x84 ∨ (0x90 ≤ u ∧ u < 0xA8))
def isCage (u : Nat) : Bool := decide (0x84 ≤ u ∧ u < 0x88)

/-- The unit that stands for field bypass in FCL_RELEASE (R339). -/
def bypassUnit : Nat := 0xB8

/-- Every unit of the module (Table 12). -/
def allUnits : List Nat := (List.range 0x84) ++ (List.range 0x18).map (0x90 + ·)

/-- Port group p: the port and every band path with one of its windows (R30). -/
def State.portGroup (s : State) (p : Nat) : List Nat :=
  (0x80 + p) :: allBps.filter fun n =>
    let d := (s.bp n).decl
    (d.srcKind == 1 && d.srcPort == p) || (d.dstKind == 1 && d.dstPort == p)

/-- The lanes on which a stream of band path n travels now: arriving members of its source, leaving members of its
destination (R30). -/
def State.srcLanes (s : State) (n : Nat) : List Nat :=
  let b := s.bp n
  if b.decl.srcKind = 2 ∧ b.sub.on then
    match s.entry b.decl.srcNode b.decl.srcBp b.sub.rid with
    | some e => e.inLane.toList
    | none => []
  else []

def State.dstLanes (s : State) (n : Nat) : List Nat :=
  let b := s.bp n
  if b.decl.dstKind = 2 then
    match b.pub.route with
    | some r => match s.entry s.nodeAddr n r.rid with
      | some e => e.out
      | none => []
    | none => []
  else []

/-- Lane group c (R30). -/
def State.inLaneGroup (s : State) (c n : Nat) : Bool :=
  let all (ls : List Nat) : Bool := ls != [] && ls.all fun l => l / 4 == c
  all (s.srcLanes n) || all (s.dstLanes n)

def State.laneGroup (s : State) (c : Nat) : List Nat :=
  (cageLanes c).map (0x90 + ·) ++ allBps.filter (s.inLaneGroup c)

/-- The units that a fence of a source covers (Table 146). -/
def State.cover (s : State) (source level : Nat) : List Nat :=
  if 3 ≤ level then allUnits
  else if source < 0x80 then
    if level = 1 then [source]
    else
      let d := (s.bp source).decl
      let ports := (if d.srcKind = 1 then [d.srcPort] else []) ++ (if d.dstKind = 1 then [d.dstPort] else [])
      if ports ≠ [] then (ports.flatMap s.portGroup).dedup
      else
        let us := ((List.range 4).filter (fun c => s.inLaneGroup c source)).flatMap s.laneGroup
        if us = [] then [source] else us.dedup
  else if source < 0x84 then if level = 1 then [source] else s.portGroup (source - 0x80)
  else if isCage source then if level = 1 then [] else s.laneGroup (source - 0x84)
  else if source < 0x90 then []
  else if source < 0xA0 then if level = 1 then [source] else s.laneGroup ((source - 0x90) / 4)
  else if source < 0xA4 then if level = 1 then [source] else s.portGroup (source - 0xA0)
  else if source < 0xA8 then if level = 1 then [source] else [0xA4, 0xA5, 0xA6, 0xA7]
  else []

/-! ### Units (Table 12, R333, R334) -/

/-- What a fence does to a unit. -/
def State.fenceUnit (s : State) (u : Nat) : State :=
  if u < 0x80 then s.bpFence u else if u < 0x84 then s.portFence (u - 0x80)
  else if u < 0x90 then s else if u < 0xA0 then s.laneFence (u - 0x90) else s.pwmReview (u - 0xA0)

/-- What the release of a unit's last fence does; a tripped front-end die keeps its port (Table 152). -/
def State.releaseUnit (s : State) (u : Nat) : State :=
  if u < 0x80 then s.bpRelease u
  else if u < 0x84 then if s.is .THM_TEMP_TRIPPED (u - 0x7F) then s else s.portRelease (u - 0x80)
  else if u < 0x90 then s else if u < 0xA0 then s.laneRelease (u - 0x90) else s.pwmRelease (u - 0xA0)

/-- FCL_UNIT of a unit, as far as it shows fences (Table 150). -/
def State.showUnit (s : State) (u : Nat) : State :=
  (s.wr .FCL_UNIT_FENCE u (s.fenceLevel u)).wrB .FCL_UNIT_OWN u (s.fcl.fences.any fun f => f.source == u)

def State.showCond (s : State) (u : Nat) : State :=
  if isUnit u then s.wrB .FCL_UNIT_COND u (s.fcl.conds.any fun c => c.source == u) else s

/-- The highest fence level in force (FCL_STATUS.MAX_FENCE). -/
def State.maxFence (s : State) : Nat := s.fcl.fences.foldl (fun m f => max m f.level) 0

/-- After a change of the fences: MAX_FENCE, BYPASS, ALIVE (R340), and the line-power channels of the ports. -/
def State.fencesChanged (s : State) : State :=
  let s1 := (s.wr .FCL_STATUS_MAX_FENCE 0 s.maxFence).wrB .FCL_STATUS_BYPASS 0 (s.fcl.fences.any fun f => f.source == bypassUnit)
  let s2 := if 2 ≤ s.maxFence then { s1.clr .FCL_STATUS_ALIVE_RUN with fcl := { s1.fcl with alive := false } } else s1
  s2.pwmReviewAll

/-- The fence of a source enters force or grows (R331, R333): level 3 is field bypass. -/
def State.applyFence (s : State) (source level : Nat) (cause : Cond) : State :=
  let key := if level = 3 then bypassUnit else source
  let units := s.cover source level
  if units = [] then s
  else
    let old := s.fcl.fences.find? fun f => f.source == key
    let before := match old with | some o => o.level | none => 0
    let f : Fence := match old with
      | some o => { source := key, level := max o.level level, units := (o.units ++ units).dedup,
                    causes := (o.causes ++ [cause]).dedup }
      | none => { source := key, level := level, units := units, causes := [cause] }
    let rest := s.fcl.fences.filter fun (g : Fence) => g.source != key
    let s1 := { s with fcl := { s.fcl with fences := rest ++ [f] } }
    let raised := if 2 ≤ level ∧ before < level then s1.raise 3 else s1
    (raised.forEach (fun u t => (t.fenceUnit u).showUnit u) f.units).fencesChanged

/-- A fence leaves force (R334): its units that no other fence covers go on, and a cage's pluggable leaves low-power mode
(Table 118). -/
def State.dropFence (s : State) (f : Fence) : State :=
  let s1 := { s with fcl := { s.fcl with fences := s.fcl.fences.filter fun g => g.source != f.source } }
  let s2 := if isCage f.source ∧ (s.cage (f.source - 0x84)).phase = 2 then s1.clr .COL_CAGE_STATUS_LOW_POWER (f.source - 0x84)
    else s1
  (s2.forEach (fun u t =>
      (if t.fenced u then (if 0x80 ≤ u ∧ u < 0x84 then t.relayReview (u - 0x80) else t) else t.releaseUnit u).showUnit u)
    f.units).fencesChanged

/-! ### Classes and latches (R332, R335, R336) -/

def FaultClass.names (c : FaultClass) (source cause : Nat) (inj : Bool) : Bool :=
  c.source == source && c.cause == cause && c.inj == inj

/-- The quiet period of a source runs from now on (R337). -/
def State.quietNow (s : State) (u : Nat) : State :=
  { s with fcl := { s.fcl with quietFrom := Store.set (fun _ => 0) s.fcl.quietFrom u s.clk.tick } }

/-- The quiet period in ticks: the larger of QUIET and FW_QUIET seconds, a QUIET of 0 as 1 (R337, Table 150). -/
def State.quietTicks (s : State) : Nat := 100000 * max (max 1 (s.rd .FCL_LIMIT_QUIET)) (s.rd .FCL_FW_QUIET_FW_QUIET)

/-- The quiet period of source u has run. -/
def State.quiet (s : State) (u : Nat) : Bool := decide (Store.get (fun _ => 0) s.fcl.quietFrom u + s.quietTicks ≤ s.clk.tick)

/-- FCL_CLASS shows the class that FCL_CLASS_SEL names. -/
def State.showClass (s : State) : State :=
  let c := s.fcl.classes.find? fun c =>
    c.names (s.rd .FCL_CLASS_SEL_SOURCE) (s.rd .FCL_CLASS_SEL_CAUSE) (s.is .FCL_CLASS_SEL_INJ)
  (s.wrB .FCL_CLASS_OPEN 0 c.isSome).wr .FCL_CLASS_LEVEL 0 (match c with | some x => x.level | none => 0)

def State.closeClasses (s : State) (p : FaultClass → Bool) : State :=
  { s with fcl := { s.fcl with classes := s.fcl.classes.filter fun c => !p c } }.showClass

/-- The registers of the first-source latch and of the injection latch. -/
structure LatchRegs where
  full : Field
  msg : Field
  tag : Field
  eff : Field
  esc : Field
  gone : Field
  ovf : Field
  count : Field

def latchRegs (inj : Bool) : LatchRegs :=
  if inj then ⟨.FCL_STATUS_INJ_LATCHED, .FCL_INJ_MSG, .FCL_INJ_INFO_TAG, .FCL_INJ_INFO_EFF_LEVEL, .FCL_INJ_INFO_ESCALATED,
    .FCL_INJ_INFO_GONE, .FCL_INJ_INFO_OVF, .FCL_INJ_INFO_OVF_COUNT⟩
  else ⟨.FCL_STATUS_LATCHED, .FCL_FIRST_MSG, .FCL_FIRST_INFO_TAG, .FCL_FIRST_INFO_EFF_LEVEL, .FCL_FIRST_INFO_ESCALATED,
    .FCL_FIRST_INFO_GONE, .FCL_FIRST_INFO_OVF, .FCL_FIRST_INFO_OVF_COUNT⟩

/-- Word 0 of a fault message (Table 143). -/
def FaultMsg.word0 (m : FaultMsg) : Nat :=
  m.source + place 8 8 m.cause + place 16 2 m.level + place 18 1 (flag m.inj) + place 19 1 (flag m.clear) + place 32 32 m.detail

/-- The latch holds a message of this SOURCE and CAUSE. -/
def State.latched (s : State) (inj : Bool) (source cause : Nat) : Bool :=
  let r := latchRegs inj
  s.is r.full && bits 0 8 (s.rd r.msg 0) == source && bits 8 8 (s.rd r.msg 0) == cause

/-- An assert message of effective level 1 or higher comes to its latch (R335, R341). -/
def State.capture' (s : State) (m : FaultMsg) (eff : Nat) (esc : Bool) : State :=
  let r := latchRegs m.inj
  if s.is r.full then (s.set1 r.ovf).bump r.count
  else
    let words := [m.word0, m.word0 / 2 ^ 32, m.time, m.time / 2 ^ 32]
    let s1 := (List.range 4).foldl (fun t i => t.wr r.msg i (words.getD i 0)) s
    let s2 := ((((s1.set1 r.full).roll r.tag).wr r.eff 0 eff).wrB r.esc 0 esc).wrB r.gone 0 (atOnce m.cause)
    let s3 := (s2.clr r.ovf).clr r.count
    if m.inj then s3 else s3.raise 3

/-- An acknowledgement of a latch (R336). -/
def State.ack (s : State) (inj : Bool) (tag : Nat) : State :=
  let r := latchRegs inj
  if !s.is r.full || s.rd r.tag != tag then s.set1 .FCL_STATUS_ACK_REFUSED
  else
    let source := bits 0 8 (s.rd r.msg 0)
    let cause := bits 8 8 (s.rd r.msg 0)
    ((((s.clr r.full).clr r.ovf).clr r.count).clr r.gone).closeClasses fun c => c.names source cause inj

/-! ### Acceptance (R329 to R335) -/

/-- The full time of a short timestamp: its 18 seconds bits extended to the second nearest to now (R49). -/
def State.extendShort (s : State) (t : Nat) : Nat :=
  let sec := s.now / quantaPerSec
  let base := sec / 2 ^ 18 * 2 ^ 18 + bits 46 18 t
  let near := ((if base < 2 ^ 18 then [] else [base - 2 ^ 18]) ++ [base + 2 ^ 18]).foldl
    (fun (m c : Nat) => if ((c : Int) - sec).natAbs < ((m : Int) - sec).natAbs then c else m) base
  near * quantaPerSec + bits 16 30 t * 65536 + bits 0 16 t

/-- The Fresco record of an accepted message (Table 158, type 0x01). -/
def State.recordFault (s : State) (m : FaultMsg) (eff : Nat) (esc latched ovf : Bool) : State :=
  s.recordEvent { type := 0x01, source := m.source, time := s.extendShort m.time, inj := m.inj, kind := m.cause,
                  body := leBytes 8 m.word0 ++ leBytes 1 (eff + place 2 1 (flag esc) + place 3 1 (flag latched) +
                    place 4 1 (flag ovf)) }

/-- The level on which an accepted assert message acts, and whether escalation raised it (R331, R332). -/
def State.effective (s : State) (m : FaultMsg) : Nat × Bool :=
  let base := (baseLevel m.source m.cause).getD m.level
  let open' := (s.fcl.classes.find? fun c => c.names m.source m.cause m.inj).filter fun _ => escalates m.cause
  let lvl := match open' with | some c => min 3 (c.level + 1) | none => base
  (if lvl = 2 ∧ !isUnit m.source ∧ !isCage m.source then 3 else lvl, decide (base < lvl))

/-- The collector accepts an assert message. -/
def State.acceptAssert (s : State) (m : FaultMsg) : State :=
  let (eff, esc) := s.effective m
  let key : Cond := ⟨m.source, m.cause, m.inj⟩
  let c := s.fcl
  let classes := if escalates m.cause then
      c.classes.filter (fun x => !x.names m.source m.cause m.inj) ++ [⟨m.source, m.cause, m.inj, eff⟩] else c.classes
  let conds := if atOnce m.cause ∨ c.conds.contains key then c.conds else c.conds ++ [key]
  let s1 := (({ s with fcl := { c with classes := classes, conds := conds } }.showClass).showCond m.source).quietNow m.source
  let s2 := if isUnit m.source then s1.wr .FCL_UNIT_LAST_CAUSE m.source m.cause else s1
  let full := s2.is (latchRegs m.inj).full
  let s3 := if eff = 0 then s2.bump .FCL_COUNT_NOTICES else s2.capture' m eff esc
  let s4 := (s3.recordFault m eff esc (decide (eff ≠ 0) && !full) (decide (eff ≠ 0) && full)).tally 7 0x03 0
  if eff = 0 then s4 else s4.applyFence m.source eff key

/-- The collector accepts a clear message (R327, R335). -/
def State.acceptClear (s : State) (m : FaultMsg) : State :=
  let key : Cond := ⟨m.source, m.cause, m.inj⟩
  let s1 := ({ s with fcl := { s.fcl with conds := s.fcl.conds.filter (· != key) } }.showCond m.source).quietNow m.source
  let s2 := if s1.latched m.inj m.source m.cause then s1.set1 (latchRegs m.inj).gone else s1
  (s2.recordFault m 0 false false false).tally 7 0x03 0

/-- FAULT_MESSAGE (R330): the oldest waiting message is an assert. -/
def execFaultMessage (s : State) : Host.Outcome State Fault Refusal :=
  .next (match s.net.msgs with
    | m :: rest => if m.clear then s else { s with net := { s.net with msgs := rest } }.acceptAssert m
    | [] => s)

/-- FAULT_CLEAR (R327): the oldest waiting message is a clear. -/
def execFaultClear (s : State) : Host.Outcome State Fault Refusal :=
  .next (match s.net.msgs with
    | m :: rest => if m.clear then { s with net := { s.net with msgs := rest } }.acceptClear m else s
    | [] => s)

/-! ### Acknowledgement (R336) -/

/-- FCL_ACK: the TAG stands in the register with the write. -/
def execFclAck (who : Requester) (tag : BitVec 8) (s : State) : Host.Outcome State Fault Refusal :=
  .next (s.via who fun t => (t.wr .FCL_CTRL_ACK_TAG 0 tag.toNat).ack false tag.toNat)

/-- FCL_ACK_INJ. -/
def execFclAckInj (q : CoreIx) (tag : BitVec 8) (s : State) : Host.Outcome State Fault Refusal :=
  .next (s.via (.core q) fun t => (t.wr .FCL_CTRL_ACK_TAG 0 tag.toNat).ack true tag.toNat)

/-- A write of FCL_CTRL (Table 150). -/
def State.writeFclCtrl (s : State) (w : Nat) (fw : Bool) : State :=
  let tag := bits 8 8 w
  let s1 := s.wr .FCL_CTRL_ACK_TAG 0 tag
  let s2 := if bit 0 w then s1.ack false tag else s1
  if fw && bit 1 w then s2.ack true tag else s2

/-- A write of FCL_ACK_CLASS (R336). -/
def State.writeAckClass (s : State) (w : Nat) : State :=
  let s1 := (((s.wr .FCL_ACK_CLASS_SOURCE 0 (bits 0 8 w)).wr .FCL_ACK_CLASS_CAUSE 0 (bits 8 8 w)).wr .FCL_ACK_CLASS_ALL 0
    (bits 16 1 w)).wr .FCL_ACK_CLASS_INJ 0 (bits 18 1 w)
  if bit 17 w then
    s1.closeClasses fun c => c.inj == bit 18 w && (bit 16 w || (c.source == bits 0 8 w && c.cause == bits 8 8 w))
  else s1

/-- FCL_ACK_CLASS (R336). -/
def execFclAckClass (q : CoreIx) (w : Word) (s : State) : Host.Outcome State Fault Refusal :=
  .next (s.via (.core q) fun t => t.writeAckClass w.toNat)

/-! ### Recovery and release (R337 to R339) -/

/-- Recoveries and releases of the last 3,600 s of a source (R338). -/
def State.recentRecoveries (s : State) (u : Nat) : Nat :=
  (s.fcl.recoveries.filter fun r => r.1 == u && decide (s.clk.tick < r.2 + hourTicks)).length

def State.showHour (s : State) (u : Nat) : State :=
  if isUnit u then s.wr .FCL_UNIT_RECOV_HOUR u (min 7 (s.recentRecoveries u)) else s

/-- The RECOVERY record (Table 158): 1 automatic, 2 limited, 3 release. -/
def State.recordRecovery (s : State) (u kind : Nat) : State :=
  s.record 0x02 u [(1, u), (1, kind), (2, if isUnit u then s.rd .FCL_UNIT_RECOVERIES u else 0)]

/-- A recovery or release of what a source's messages fenced. -/
def State.recover (s : State) (f : Fence) (kind : Nat) : State :=
  let u := f.source
  let past := s.fcl.recoveries.filter fun (r : Nat × Nat) => decide (s.clk.tick < r.2 + hourTicks)
  let s1 := { s with fcl := { s.fcl with
    recoveries := past ++ [(u, s.clk.tick)]
    limited := s.fcl.limited.filter (· != u) } }
  let s2 := if isUnit u then (s1.bump .FCL_UNIT_RECOVERIES u).clr .FCL_UNIT_LIMITED u else s1
  ((s2.showHour u).recordRecovery u kind).dropFence f

/-- FENCE_RECOVERY (R337, R338): the quiet period of source `u` has run, with every condition ended. -/
def execFenceRecovery (u : BitVec 8) (s : State) : Host.Outcome State Fault Refusal :=
  .next (match s.fcl.fences.find? fun f => f.source == u.toNat with
    | none => s
    | some f =>
      if u.toNat = bypassUnit ∨ !s.quiet u.toNat ∨ s.fcl.conds.any (fun c => c.source == u.toNat) ∨ s.fcl.limited.contains u.toNat then s
      else if s.rd .FCL_LIMIT_RECOV_MAX ≤ s.recentRecoveries u.toNat then
        let s1 := { s with fcl := { s.fcl with limited := s.fcl.limited ++ [u.toNat] } }
        (if isUnit u.toNat then s1.set1 .FCL_UNIT_LIMITED u.toNat else s1).recordRecovery u.toNat 2
      else s.recover f 1)

/-- A release of the fences that messages naming a unit caused (R339). -/
def State.releaseFence (s : State) (u : Nat) : State :=
  match s.fcl.fences.find? fun f => f.source == u with
  | none => s
  | some f => if f.causes.any fun c => s.fcl.conds.contains c then s.set1 .FCL_STATUS_REL_REFUSED else s.recover f 3

/-- A write of FCL_RELEASE (R339). -/
def State.writeRelease (s : State) (w : Nat) : State :=
  let s1 := s.wr .FCL_RELEASE_UNIT 0 (bits 0 8 w)
  if bit 8 w then s1.releaseFence (bits 0 8 w) else s1

/-- FCL_RELEASE (R339). -/
def execFclRelease (q : CoreIx) (w : Word) (s : State) : Host.Outcome State Fault Refusal :=
  .next (s.via (.core q) fun t => t.writeRelease w.toNat)

/-! ### ALIVE (R340) -/

/-- ALIVE_TOGGLE: at a 500 µs boundary of the collector's own oscillator. -/
def execAliveToggle (s : State) : Host.Outcome State Fault Refusal :=
  .next (if s.kct.powered && s.is .KCT_STATUS_LOCKED && decide (s.maxFence < 2) then
      { s.set1 .FCL_STATUS_ALIVE_RUN with fcl := { s.fcl with alive := !s.fcl.alive } }
    else { s.clr .FCL_STATUS_ALIVE_RUN with fcl := { s.fcl with alive := false } })

/-! ### Injection (R341) -/

/-- A write of FCL_INJECT_HI commits the message held, with INJ forced to 1. -/
def State.inject (s : State) (detail : Nat) : State :=
  if !s.is .FCL_STATUS_FACTORY then s.set1 .FCL_STATUS_INJ_REFUSED
  else
    let s1 := s.wr .FCL_INJECT_HI_DETAIL 0 detail
    let w := s.rd .FCL_INJECT_LO_W0
    let m : FaultMsg := { source := bits 0 8 w, cause := bits 8 8 w, level := bits 16 2 w, inj := true, clear := bit 19 w,
                          detail := detail, time := shortTime s.now }
    if !m.clear && s.net.msgs.any (fun x => x.source == m.source && x.cause == m.cause && !x.clear && x.inj) then
      s1.bump .FCL_COUNT_MERGED
    else { s1 with net := { s1.net with msgs := s1.net.msgs ++ [m] } }

/-- FCL_INJECT (R341). -/
def execFclInject (q : CoreIx) (w : Word) (s : State) : Host.Outcome State Fault Refusal :=
  .next (s.via (.core q) fun t => t.inject w.toNat)

/-- At a tick boundary recoveries older than 3,600 s leave RECOV_HOUR (R338). -/
def State.fclTick (s : State) : State :=
  let old := s.fcl.recoveries.filter fun (r : Nat × Nat) => decide (r.2 + hourTicks ≤ s.clk.tick)
  let new := s.fcl.recoveries.filter fun (r : Nat × Nat) => decide (s.clk.tick < r.2 + hourTicks)
  if old = [] then s else
    ({ s with fcl := { s.fcl with recoveries := new } } : State).forEach (fun u t => t.showHour u) (old.map Prod.fst).dedup

end Sys2Proof.Machine
end

