-- ==== Sys2Proof/Machine/Thermal.lean ====
section
/-!
DEFINITION. Temperature and thermal protection (15_thermal.md): samples, cross-checking, rate of rise, the regions of the
warning and trip thresholds, the flash write window, and the trips of guarded function G4.
-/

namespace Sys2Proof.Machine

/-! ### Limits (R352, R359) -/

/-- Until the Key coat loads every die trips at 115.000 °C, and there is no warning threshold. -/
def State.tripAt (s : State) (e : Nat) : Int := if s.is .KCT_STATUS_LOCKED then s.rdS .THM_LIM_TRIP e else 0x1CC0

/-- The RESTART threshold; before the Key coat loads, its loader bound below that trip. -/
def State.restartAt (s : State) (e : Nat) : Int :=
  if s.is .KCT_STATUS_LOCKED then s.rdS .THM_LIM1_RESTART e else 0x1CC0 - 1280

/-- The effective warning threshold (R352). -/
def State.warnAt (s : State) (e : Nat) : Option Int :=
  if s.is .KCT_STATUS_LOCKED then some (min (s.rdS .THM_LIM_WARN e) (s.rdS .THM_LIM1_FW_WARN e)) else none

def State.xchkTol (s : State) : Int := 64 * (max 1 (s.rd .THM_CFG_XCHK_TOL) : Nat)
def State.riseLim (s : State) : Int := 64 * (max 1 (s.rd .THM_CFG_RISE_LIM) : Nat)

/-- FW_WARN stores at most WARN (R359). -/
def State.writeFwWarn (s : State) (e v : Nat) : State :=
  let warn := s.rdS .THM_LIM_WARN e
  s.wr .THM_LIM1_FW_WARN e (wrapBits 16 (min (signed 16 v) warn))

/-! ### Cross-checking (R349, R350, Table 151) -/

def neighbours (e : Nat) : List Nat :=
  match e with
  | 0 => [1, 2, 3, 4]
  | 1 => [0, 2]
  | 2 => [0, 1, 3]
  | 3 => [0, 2, 4]
  | _ => [0, 3]

/-- Readings of the neighbours that are not suspect and have been sampled. -/
def State.trusted (s : State) (e : Nat) : List Int :=
  ((neighbours e).filter fun j => (s.die j).seen && !s.is .THM_TEMP_SUSPECT j).map fun j => s.rdS .THM_TEMP_TEMP j

def within (tol a b : Int) : Bool := decide ((a - b).natAbs ≤ tol)

/-- Entry into suspicion, or exit from it, with its record (R349, Table 158). -/
def State.setSuspect (s : State) (e : Nat) (on : Bool) : State :=
  let s1 := (s.setDie e { s.die e with differs := 0, agrees := 0 }).wrB .THM_TEMP_SUSPECT e on
  (if on then s1.bump .THM_COUNT_SUSPECT_EVENTS e else s1).record 0x30 0xB1
    [(1, e), (1, if on then 1 else 2), (2, s.rd .THM_TEMP_TEMP e)]

/-- The cross-check at a sample of die e; `good` when the conversion gave a reading from −55 °C to 150 °C. -/
def State.xcheck (s : State) (e : Nat) (good : Bool) : State :=
  let d := s.die e
  let r := s.rdS .THM_TEMP_TEMP e
  let suspect := s.is .THM_TEMP_SUSPECT e
  if !good then if suspect then s.setDie e { d with agrees := 0 } else s.setSuspect e true
  else if suspect then
    let agree := (neighbours e).any fun j => (s.die j).good && within s.xchkTol r (s.rdS .THM_TEMP_TEMP j)
    if agree && decide (99 ≤ d.agrees) then s.setSuspect e false
    else s.setDie e { d with agrees := if agree then d.agrees + 1 else 0 }
  else
    let others := s.trusted e
    let differs := s.is .KCT_STATUS_LOCKED && others != [] && others.all fun o => !within s.xchkTol r o
    if differs && decide (2 ≤ d.differs) then s.setSuspect e true
    else s.setDie e { d with differs := if differs then d.differs + 1 else 0 }

/-- The reading that the thresholds use, and whether the die is treated as over its trip threshold for want of a
neighbour (R349, R350). -/
def State.effReading (s : State) (e : Nat) : Int × Bool :=
  if !s.is .THM_TEMP_SUSPECT e then (s.rdS .THM_TEMP_TEMP e, false)
  else match s.trusted e with
    | [] => (s.tripAt e, true)
    | x :: xs => (xs.foldl max x + s.xchkTol, false)

/-! ### Regions, warnings and the rate of rise (R348, R351, R352) -/

/-- Three consecutive samples change a region: the run of samples beyond the edge, and whether the region changes. -/
def runOf (run : Nat) (beyond : Bool) : Nat × Bool :=
  if beyond then (if 2 ≤ run then (0, true) else (run + 1, false)) else (0, false)

/-- THERM_WARN ends when no die is in its warning region and no rate warning stands. -/
def State.warnOver (s : State) : State :=
  if (List.range 5).any fun e => s.is .THM_TEMP_WARN e || (s.die e).riseWarn then s else s.sendClear 0xB1 0x70

def State.warnRegion (s : State) (e : Nat) : State :=
  match s.warnAt e with
  | none => s
  | some w =>
    let d := s.die e
    let inside := s.is .THM_TEMP_WARN e
    let r := runOf d.warnRun (if inside then decide (d.eff < w - 128) else decide (w ≤ d.eff))
    let s1 := s.setDie e { d with warnRun := r.1 }
    if !r.2 then s1
    else if inside then (s1.clr .THM_TEMP_WARN e).warnOver
    else ((s1.set1 .THM_TEMP_WARN e).bump .THM_COUNT_WARN_EVENTS e).sendFault 0xB1 0x70 (1 + 256 * e)

/-- Ticks in 100 ms. -/
def riseSpan : Nat := 10000

/-- The reading 100 ms earlier, and what is kept of the past readings. -/
def riseHist (now : Nat) : List (Nat × Int) → List (Nat × Int) × Option Int
  | [] => ([], none)
  | (t, v) :: rest =>
    if t + riseSpan ≤ now then ([(t, v)], some v) else ((t, v) :: (riseHist now rest).1, (riseHist now rest).2)

/-- The rate of rise at a sample (R351). -/
def State.riseReview (s : State) (e : Nat) : State :=
  let d := s.die e
  let h := riseHist s.clk.tick ((s.clk.tick, d.eff) :: d.hist)
  match h.2 with
  | none => s.setDie e { d with hist := h.1 }
  | some old =>
    let rate := (d.eff - old) * 10
    let s1 := s.wr .THM_RATE_RISE e (satBits 16 rate)
    let high := s.is .KCT_STATUS_LOCKED && decide (s.riseLim < rate)
    let run := if high then min 3 (d.riseRun + 1) else 0
    let low : Option Nat := if high then none else some (d.riseLow.getD s.clk.tick)
    let calm := match low with | some t => decide (t + riseSpan ≤ s.clk.tick) | none => false
    let cool := match s.warnAt e with | some w => decide (d.eff < w) | none => true
    let d1 := { d with hist := h.1, riseRun := run, riseLow := low }
    if run = 3 ∧ !d.riseWarn then (s1.setDie e { d1 with riseWarn := true }).sendFault 0xB1 0x70 2
    else if d.riseWarn && calm && cool then (s1.setDie e { d1 with riseWarn := false }).warnOver
    else s1.setDie e d1

/-! ### Trips (R348, R350, R353, Table 152) -/

/-- The end of a front-end die's trip: its condition and the mutes of the port's band paths end. -/
def State.tripOver (s : State) (e : Nat) : State :=
  let p := e - 1
  ((s.setDie e { s.die e with coolRun := 0, tripRun := 0, forced := false, reacted := false }).clr .THM_TEMP_TRIPPED e)
    |>.forEach (fun n t => t.unmute n (muteG4 p)) allBps
    |>.sendClear (0x80 + p) 0x0C

/-- The trip region of die e at a sample: entered after three samples; left, by a front-end die, after three samples at or
below RESTART, and not while a trip for want of a neighbour is still suspect. -/
def State.tripRegion (s : State) (e : Nat) (forced : Bool) : State :=
  let d := s.die e
  if !s.is .THM_TEMP_TRIPPED e then
    let r := runOf d.tripRun (decide (s.tripAt e ≤ d.eff))
    let s1 := s.setDie e { d with tripRun := r.1, forced := r.2 && forced, coolRun := 0 }
    if r.2 then s1.set1 .THM_TEMP_TRIPPED e else s1
  else if e = 0 then s
  else
    let d1 := { d with forced := d.forced || forced }
    let r := runOf d.coolRun (decide (d.eff ≤ s.restartAt e) && !(d1.forced && s.is .THM_TEMP_SUSPECT e))
    let s1 := s.setDie e { d1 with coolRun := r.1 }
    if r.2 then s1.tripOver e else s1

/-! ### The flash write window (R357, R424) -/

/-- The window opens or closes: a running update pauses or resumes, a flush that waits goes on. -/
def State.setWindow (s : State) (isOpen : Bool) : State :=
  let s1 := s.wrB .THM_FLASH_WIN_OPEN 0 isOpen
  let u := s.rd .KCT_UPD_STATUS_USTATE
  let s2 := if 1 ≤ u ∧ u ≤ 3 then s1.wrB .KCT_UPD_STATUS_WAITING 0 (!isOpen) else s1.clr .KCT_UPD_STATUS_WAITING
  if isOpen then s2.clr .FRS_STATUS_FLUSH_WAIT else s2

/-- A flash program or erase may begin; one that may not waits, and sets WAITED (R357). -/
def State.flashOpen (s : State) : Bool := s.is .THM_FLASH_WIN_OPEN
def State.flashWaits (s : State) : State := s.set1 .THM_FLASH_WAITED

/-- The estimate of the flash temperature at a sample of die M. -/
def State.flashReview (s : State) : State :=
  let est := (s.die 0).eff - s.rdS .THM_FLASH_OFS_FLASH_DELTA
  let t := s.thm
  let hot := runOf t.hotRun (decide (90 * 64 ≤ est))
  let cold := runOf t.coldRun (decide (est < 0))
  let fit := runOf t.openRun (decide (2 * 64 ≤ est ∧ est ≤ 88 * 64))
  let s1 := { s.wr .THM_FLASH_T_FLASH 0 (satBits 16 est) with
    thm := { t with hotRun := hot.1, coldRun := cold.1, openRun := fit.1 } }
  if s.flashOpen then (if hot.2 || cold.2 then s1.setWindow false else s1)
  else if fit.2 then s1.setWindow true else s1

/-! ### The commands -/

/-- FAST (R347). -/
def State.fastReview (s : State) (e : Nat) : State :=
  let d := s.die e
  let near := match s.warnAt e with | some w => decide (w - 320 ≤ d.eff) | none => false
  s.wrB .THM_TEMP_FAST e (near || decide (s.tripAt e - 320 ≤ d.eff) || decide (0 < d.riseRun))

/-- A sample of die e: none when its conversion failed. -/
def State.thermalSample (s : State) (e : Nat) (reading : Option Int) : State :=
  let d := s.die e
  let good := match reading with | some r => decide (-55 * 64 ≤ r ∧ r ≤ 150 * 64) | none => false
  let s1 := match reading with
    | some r =>
      let hi := if d.seen then max (s.rdS .THM_RATE_MAX_T e) r else r
      (s.wr .THM_TEMP_TEMP e (wrapBits 16 r)).wr .THM_RATE_MAX_T e (wrapBits 16 hi)
    | none => s
  let s2 := ((s1.tally 7 0x07 0).setDie e { d with seen := d.seen || reading.isSome, good := good }).xcheck e good
  let (eff, forced) := s2.effReading e
  let s3 := (((s2.setDie e { s2.die e with eff := eff }).riseReview e).warnRegion e).tripRegion e forced
  (if e = 0 then s3.flashReview else s3).fastReview e

/-- A reading of the always-on monitor in thermal hold (R356): since when die M has stood at or below RESTART. -/
def State.holdSample (s : State) (reading : Option Int) : State :=
  let cool := match reading with | some r => decide (r ≤ s.thm.restartAt) | none => false
  { s with thm := { s.thm with coolFrom := if cool then some (s.thm.coolFrom.getD s.clk.tick) else none } }

/-- THERMAL_SAMPLE (R346 to R353, R356, R357): of a field die by the thermal block, or in thermal hold, of die M by the
always-on monitor; without field power no die is sampled. -/
def execThermalSample (e : DieIx) (reading : Option (BitVec 16)) (s : State) : Host.Outcome State Fault Refusal :=
  .next (if s.kct.powered then s.thermalSample e (reading.map BitVec.toInt)
    else if s.thm.hold && e.val == 0 then s.holdSample (reading.map BitVec.toInt) else s)

/-- G4_TEMP (R353, Table 152): the reaction to an entry into the trip region, taken on the die itself. A front-end die
idles its port and mutes the band paths that emit there; die M takes the actions of field bypass. -/
def execG4Temp (e : DieIx) (s : State) : Host.Outcome State Fault Refusal :=
  .next (if !s.is .THM_TEMP_TRIPPED e || (s.die e).reacted then s
    else
      let s1 := s.setDie e { s.die e with reacted := true }
      if e.val = 0 then
        (({ s1 with thm := { s1.thm with tripped := true } }.sendFault 0xB1 0x0C)).applyFence 0xB1 3 ⟨0xB1, 0x0C, false⟩
      else
        let p := e.val - 1
        ((s1.forEach (fun n t => t.mute n (muteG4 p)) (s1.windowOut p)).portFence p).sendFault (0x80 + p) 0x0C)

/-- FW_WARN_WRITE (R359). -/
def execFwWarnWrite (e : DieIx) (v : BitVec 16) (s : State) : Host.Outcome State Fault Refusal := .next (s.writeFwWarn e v.toNat)

end Sys2Proof.Machine
end

