-- ==== Sys2Proof/Machine/Crypto.lean ====
section
/-!
DEFINITION. The cryptographic functions that the spec names by their standards: SHA-256 (FIPS 180-4) for section digests
(R408), HMAC-SHA-256 (FIPS 198-1) for the clear code (R368), and Ed25519 verification (RFC 8032 section 5.1.7, which uses
SHA-512) for the signature of a Key coat image (R411). The standards are not in the spec: log entry 13 (PRESUMED).
-/

namespace Sys2Proof.Machine

/-! ### SHA-256 and SHA-512 (FIPS 180-4), on words of `w` bits -/

/-- Rotate right. -/
def rotr (w n x : Nat) : Nat := (x / 2 ^ n + x * 2 ^ (w - n)) % 2 ^ w

def xor3 (a b c : Nat) : Nat := Nat.xor (Nat.xor a b) c

/-- Word size, rotation amounts of Σ0, Σ1, σ0 and σ1, and round constants of one of the two functions. -/
structure ShaKind where
  w : Nat
  big0 : Nat × Nat × Nat
  big1 : Nat × Nat × Nat
  small0 : Nat × Nat × Nat
  small1 : Nat × Nat × Nat
  k : List Nat
  init : List Nat

def bigSigma (w : Nat) (r : Nat × Nat × Nat) (x : Nat) : Nat := xor3 (rotr w r.1 x) (rotr w r.2.1 x) (rotr w r.2.2 x)

/-- The third amount is a shift. -/
def smallSigma (w : Nat) (r : Nat × Nat × Nat) (x : Nat) : Nat := xor3 (rotr w r.1 x) (rotr w r.2.1 x) (x / 2 ^ r.2.2)

def choose (w e f g : Nat) : Nat := Nat.xor (Nat.land e f) (Nat.land (2 ^ w - 1 - e) g)
def majority (a b c : Nat) : Nat := xor3 (Nat.land a b) (Nat.land a c) (Nat.land b c)

/-- The message schedule, newest word first. -/
def schedule (s : ShaKind) : Nat → List Nat → List Nat
  | 0, ws => ws
  | n + 1, ws =>
    let v := (smallSigma s.w s.small1 (ws.getD 1 0) + ws.getD 6 0 + smallSigma s.w s.small0 (ws.getD 14 0) + ws.getD 15 0)
      % 2 ^ s.w
    schedule s n (v :: ws)

/-- One round on the working variables a … h. -/
def shaRound (s : ShaKind) (v : List Nat) (kw : Nat × Nat) : List Nat :=
  match v with
  | [a, b, c, d, e, f, g, h] =>
    let t1 := h + bigSigma s.w s.big1 e + choose s.w e f g + kw.1 + kw.2
    let t2 := bigSigma s.w s.big0 a + majority a b c
    [(t1 + t2) % 2 ^ s.w, a, b, c, (d + t1) % 2 ^ s.w, e, f, g]
  | _ => v

/-- The number that big-endian bytes spell. -/
def ofBe (bs : List Byte) : Nat := bs.foldl (fun n b => n * 256 + b.toNat) 0

/-- Big-endian bytes of a number. -/
def beBytes (k v : Nat) : List Byte := (leBytes k v).reverse

/-- The list in pieces of `k`; `n` bounds their number. -/
def chunks {α : Type} (k : Nat) : Nat → List α → List (List α)
  | 0, _ => []
  | n + 1, xs => if xs.isEmpty then [] else xs.take k :: chunks k n (xs.drop k)

def shaBlock (s : ShaKind) (h : List Nat) (block : List Byte) : List Nat :=
  let ws := (chunks (s.w / 8) 16 block).map ofBe
  let sched := (schedule s (s.k.length - 16) ws.reverse).reverse
  (List.zipWith (fun a b => (a + b) % 2 ^ s.w) h ((List.zip s.k sched).foldl (shaRound s) h))

/-- The padded message: a 1 bit, zeros, and the bit length in two words. -/
def shaPad (s : ShaKind) (m : List Byte) : List Byte :=
  let block := 2 * s.w
  let tail := s.w / 4
  let used := (m.length + 1 + tail) % block
  m ++ [0x80] ++ List.replicate ((block - used) % block) 0 ++ beBytes tail (8 * m.length)

def sha (s : ShaKind) (m : List Byte) : List Byte :=
  let p := shaPad s m
  ((chunks (2 * s.w) p.length p).foldl (shaBlock s) s.init).flatMap (beBytes (s.w / 8))

/-- Round constants of SHA-256: fractional parts of the cube roots of the first 64 primes. -/
def sha256K : List Nat :=
  [0x428A2F98, 0x71374491, 0xB5C0FBCF, 0xE9B5DBA5, 0x3956C25B, 0x59F111F1, 0x923F82A4, 0xAB1C5ED5,
   0xD807AA98, 0x12835B01, 0x243185BE, 0x550C7DC3, 0x72BE5D74, 0x80DEB1FE, 0x9BDC06A7, 0xC19BF174,
   0xE49B69C1, 0xEFBE4786, 0x0FC19DC6, 0x240CA1CC, 0x2DE92C6F, 0x4A7484AA, 0x5CB0A9DC, 0x76F988DA,
   0x983E5152, 0xA831C66D, 0xB00327C8, 0xBF597FC7, 0xC6E00BF3, 0xD5A79147, 0x06CA6351, 0x14292967,
   0x27B70A85, 0x2E1B2138, 0x4D2C6DFC, 0x53380D13, 0x650A7354, 0x766A0ABB, 0x81C2C92E, 0x92722C85,
   0xA2BFE8A1, 0xA81A664B, 0xC24B8B70, 0xC76C51A3, 0xD192E819, 0xD6990624, 0xF40E3585, 0x106AA070,
   0x19A4C116, 0x1E376C08, 0x2748774C, 0x34B0BCB5, 0x391C0CB3, 0x4ED8AA4A, 0x5B9CCA4F, 0x682E6FF3,
   0x748F82EE, 0x78A5636F, 0x84C87814, 0x8CC70208, 0x90BEFFFA, 0xA4506CEB, 0xBEF9A3F7, 0xC67178F2]

/-- Round constants of SHA-512: fractional parts of the cube roots of the first 80 primes. -/
def sha512Ka : List Nat :=
  [0x428A2F98D728AE22, 0x7137449123EF65CD, 0xB5C0FBCFEC4D3B2F, 0xE9B5DBA58189DBBC, 0x3956C25BF348B538,
   0x59F111F1B605D019, 0x923F82A4AF194F9B, 0xAB1C5ED5DA6D8118, 0xD807AA98A3030242, 0x12835B0145706FBE,
   0x243185BE4EE4B28C, 0x550C7DC3D5FFB4E2, 0x72BE5D74F27B896F, 0x80DEB1FE3B1696B1, 0x9BDC06A725C71235,
   0xC19BF174CF692694, 0xE49B69C19EF14AD2, 0xEFBE4786384F25E3, 0x0FC19DC68B8CD5B5, 0x240CA1CC77AC9C65,
   0x2DE92C6F592B0275, 0x4A7484AA6EA6E483, 0x5CB0A9DCBD41FBD4, 0x76F988DA831153B5, 0x983E5152EE66DFAB,
   0xA831C66D2DB43210, 0xB00327C898FB213F, 0xBF597FC7BEEF0EE4, 0xC6E00BF33DA88FC2, 0xD5A79147930AA725,
   0x06CA6351E003826F, 0x142929670A0E6E70, 0x27B70A8546D22FFC, 0x2E1B21385C26C926, 0x4D2C6DFC5AC42AED,
   0x53380D139D95B3DF, 0x650A73548BAF63DE, 0x766A0ABB3C77B2A8, 0x81C2C92E47EDAEE6, 0x92722C851482353B]

/-- The second half of them. -/
def sha512Kb : List Nat :=
  [0xA2BFE8A14CF10364, 0xA81A664BBC423001, 0xC24B8B70D0F89791, 0xC76C51A30654BE30, 0xD192E819D6EF5218,
   0xD69906245565A910, 0xF40E35855771202A, 0x106AA07032BBD1B8, 0x19A4C116B8D2D0C8, 0x1E376C085141AB53,
   0x2748774CDF8EEB99, 0x34B0BCB5E19B48A8, 0x391C0CB3C5C95A63, 0x4ED8AA4AE3418ACB, 0x5B9CCA4F7763E373,
   0x682E6FF3D6B2B8A3, 0x748F82EE5DEFB2FC, 0x78A5636F43172F60, 0x84C87814A1F0AB72, 0x8CC702081A6439EC,
   0x90BEFFFA23631E28, 0xA4506CEBDE82BDE9, 0xBEF9A3F7B2C67915, 0xC67178F2E372532B, 0xCA273ECEEA26619C,
   0xD186B8C721C0C207, 0xEADA7DD6CDE0EB1E, 0xF57D4F7FEE6ED178, 0x06F067AA72176FBA, 0x0A637DC5A2C898A6,
   0x113F9804BEF90DAE, 0x1B710B35131C471B, 0x28DB77F523047D84, 0x32CAAB7B40C72493, 0x3C9EBE0A15C9BEBC,
   0x431D67C49C100D4C, 0x4CC5D4BECB3E42B6, 0x597F299CFC657E2A, 0x5FCB6FAB3AD6FAEC, 0x6C44198C4A475817]

/-- The two functions; the initial hash is the fractional parts of the square roots of the first eight primes. -/
def sha256Kind : ShaKind :=
  { w := 32, big0 := (2, 13, 22), big1 := (6, 11, 25), small0 := (7, 18, 3), small1 := (17, 19, 10), k := sha256K,
    init := [0x6A09E667, 0xBB67AE85, 0x3C6EF372, 0xA54FF53A, 0x510E527F, 0x9B05688C, 0x1F83D9AB, 0x5BE0CD19] }

def sha512Kind : ShaKind :=
  { w := 64, big0 := (28, 34, 39), big1 := (14, 18, 41), small0 := (1, 8, 7), small1 := (19, 61, 6),
    k := sha512Ka ++ sha512Kb,
    init := [0x6A09E667F3BCC908, 0xBB67AE8584CAA73B, 0x3C6EF372FE94F82B, 0xA54FF53A5F1D36F1,
      0x510E527FADE682D1, 0x9B05688C2B3E6C1F, 0x1F83D9ABFB41BD6B, 0x5BE0CD19137E2179] }

def sha256 (m : List Byte) : List Byte := sha sha256Kind m
def sha512 (m : List Byte) : List Byte := sha sha512Kind m

/-! ### HMAC-SHA-256 (FIPS 198-1) -/

/-- For a key of at most 64 bytes, as a secret of R368 is. -/
def hmacSha256 (key m : List Byte) : List Byte :=
  let k := key ++ List.replicate (64 - key.length) 0
  let pad (v : Byte) : List Byte := k.map (· ^^^ v)
  sha256 (pad 0x5C ++ sha256 (pad 0x36 ++ m))

/-! ### Ed25519 (RFC 8032, section 5.1) -/

/-- The field prime, the order of the base point, and the curve constant. -/
def edP : Nat := 2 ^ 255 - 19
def edL : Nat := 2 ^ 252 + 27742317777372353535851937790883648493
def edD : Nat := 37095705934669439343138083508754565189542113879843219016388785533085940283555

/-- Bits of `x`, least significant first. -/
def bitsLe : Nat → Nat → List Bool
  | 0, _ => []
  | n + 1, x => (x % 2 == 1) :: bitsLe n (x / 2)

/-- `b ^ e` modulo the field prime, for an exponent of at most 256 bits. -/
def edPow (b e : Nat) : Nat :=
  (bitsLe 256 e).foldr (fun bit acc => if bit then acc * acc % edP * b % edP else acc * acc % edP) 1

/-- A point in extended coordinates (X, Y, Z, T). -/
structure EdPoint where
  x : Nat
  y : Nat
  z : Nat
  t : Nat
  deriving DecidableEq, Repr

def edZero : EdPoint := ⟨0, 1, 1, 0⟩

/-- Difference modulo the field prime. -/
def edSub (a b : Nat) : Nat := (a + edP - b % edP) % edP

/-- The addition law of RFC 8032 section 5.1.4. -/
def edAdd (p q : EdPoint) : EdPoint :=
  let a := edSub p.y p.x * edSub q.y q.x % edP
  let b := (p.y + p.x) * (q.y + q.x) % edP
  let c := p.t * 2 * edD % edP * q.t % edP
  let d := p.z * 2 * q.z % edP
  let e := edSub b a
  let f := edSub d c
  let g := (d + c) % edP
  let h := (b + a) % edP
  ⟨e * f % edP, g * h % edP, f * g % edP, e * h % edP⟩

/-- `n` times a point, for n of at most 512 bits. -/
def edMul (n : Nat) (p : EdPoint) : EdPoint :=
  (bitsLe 512 n).foldr (fun bit acc => let d := edAdd acc acc; if bit then edAdd d p else d) edZero

def edEq (p q : EdPoint) : Bool :=
  decide (p.x * q.z % edP = q.x * p.z % edP ∧ p.y * q.z % edP = q.y * p.z % edP)

/-- Decoding of a point (RFC 8032 section 5.1.3); none when the bytes encode no point. -/
def edDecode (bs : List Byte) : Option EdPoint :=
  let v := ofLe bs
  let y := v % 2 ^ 255
  let sign := v / 2 ^ 255 % 2
  if bs.length ≠ 32 ∨ edP ≤ y then none
  else
    let u := edSub (y * y) 1
    let w := (edD * (y * y % edP) + 1) % edP
    let w3 := w * w % edP * w % edP
    let x0 := u * w3 % edP * edPow (u * (w3 * w3 % edP * w % edP) % edP) ((edP - 5) / 8) % edP
    let vx := w * (x0 * x0 % edP) % edP
    let x1 : Option Nat := if vx = u then some x0
      else if vx = edSub 0 u then some (x0 * edPow 2 ((edP - 1) / 4) % edP) else none
    match x1 with
    | none => none
    | some x =>
      if x = 0 ∧ sign = 1 then none
      else
        let x' := if x % 2 = sign then x else edSub 0 x
        some ⟨x', y, 1, x' * y % edP⟩

/-- The base point: y is 4/5, and x is even. -/
def edBase : EdPoint :=
  let x := 15112221349535400772501151409588531511454012693041857206046113283949847762202
  let y := 46316835694926478169428394003475163141307993866256225615783033603165251855960
  ⟨x, y, 1, x * y % edP⟩

/-- Verification of a 64-byte signature: S below L, and the equation with the cofactor (RFC 8032 section 5.1.7, R411). -/
def edVerify (key sig m : List Byte) : Bool :=
  let rb := sig.take 32
  let sv := ofLe (sig.drop 32)
  match edDecode key, edDecode rb with
  | some a, some r =>
    let k := ofLe (sha512 (rb ++ key ++ m)) % edL
    decide (sig.length = 64 ∧ sv < edL) && edEq (edMul (8 * sv) edBase) (edAdd (edMul 8 r) (edMul (8 * k) a))
  | _, _ => false

end Sys2Proof.Machine
end

