-- ==== Sys2Proof/Machine/Fresco.lean ====
section
/-!
DEFINITION. Fresco (16_fresco.md): numbered records in the external and the on-die ring, floods, the black box, the
reservation mark, failure of the log's own memory, clearing, and the read window.
-/

namespace Sys2Proof.Machine

def ringSlots : Nat := 1048576
def dieSlots : Nat := 256
def bbSlots : Nat := 16384

/-! ### Records (R360, Table 157) -/

/-- HEAD and TAIL of a record. -/
def FrRecord.head (r : FrRecord) : Nat := r.seq + place 48 8 r.type + place 56 1 (flag r.inj) + place 57 1 (flag r.onDie)

/-- The 64 bytes of a record. -/
def FrRecord.bytes (r : FrRecord) : List Byte :=
  leBytes 8 r.head ++ leBytes 12 (timeBits r.time) ++ leBytes 4 (r.epoch + place 8 8 r.source) ++
    (r.body ++ List.replicate 32 0).take 32 ++ leBytes 8 r.head

def FrRecord.number (r : Option FrRecord) : Nat := match r with | some x => x.seq | none => 0

/-- The slot of the ring in use that record n sits in, and what it holds. -/
def State.ringAt (s : State) (n : Nat) : Option FrRecord :=
  if s.is .FRS_STATUS_MEDIUM_FAIL then Store.get (fun _ => none) s.frs.dieRing (n % dieSlots)
  else Store.get (fun _ => none) s.frs.ring (n % ringSlots)

def State.showFresco (s : State) : State :=
  (((s.wr2 .FRS_NEXT_LO_SEQ .FRS_NEXT_HI_SEQ 0 s.frs.next).wr2 .FRS_FLUSHED_LO_SEQ .FRS_FLUSHED_HI_SEQ 0 s.frs.flushed).wr2
    .FRS_OLDEST_LO_SEQ .FRS_OLDEST_HI_SEQ 0 s.frs.oldest).wr .FRS_QUEUE_LEVEL 0 (min 64 s.frs.queue.length)

/-- Write the event as the record with the next number (R361, R362). -/
def State.writeRecord (s : State) (e : FrEvent) : State :=
  let f := s.frs
  let die := s.is .FRS_STATUS_MEDIUM_FAIL
  let r : FrRecord := { seq := f.next, type := e.type, inj := e.inj, onDie := die, time := e.time,
                        epoch := s.rd .PLB_COUNT_EPOCH, source := e.source, body := e.body }
  let size := if die then dieSlots else ringSlots
  let ring := if die then f.ring else Store.set (fun _ => none) f.ring (f.next % size) (some r)
  let dieRing := if die then Store.set (fun _ => none) f.dieRing (f.next % size) (some r) else f.dieRing
  let oldest := max f.oldest (f.next + 1 - size)
  let slots := (List.range 64).map fun i => match Store.get (fun _ => none) ring (f.next % size / 64 * 64 + i) with
    | some x => x.bytes
    | none => List.replicate 64 0
  let s1 := if die then s else s.tileWritten (s.holderOf (recordTile f.next)) (tilePayload slots)
  ({ s1 with frs := { f with ring := ring, dieRing := dieRing, next := f.next + 1, oldest := oldest,
                             flushNext := max f.flushNext oldest } }.showFresco).tally 7 0x04 0

/-! ### Failure of the log's own memory (R367) -/

/-- An event goes in front of the ingress queue: it takes the next number. -/
def State.recordFirst (s : State) (e : FrEvent) : State :=
  ({ s with frs := { s.frs with queue := e :: s.frs.queue } }).showFresco

/-- The external ring goes out of use until reset: MEDIUM is the first record of the on-die ring; at the mark it waits in front
of the queue (R364). -/
def State.mediumFail (s : State) (tile cause : Nat) : State :=
  if s.is .FRS_STATUS_MEDIUM_FAIL then s
  else
    let f := s.frs
    let none' := decide (f.next ≤ f.flushed + 1)
    let ev : FrEvent := { type := 0x13, source := 0xB2, time := s.now, kind := 0x93
                          body := leBytes 6 (if none' then 0 else f.flushed + 1) ++
                            leBytes 6 (if none' then 0 else f.next - 1) ++ leBytes 3 tile ++ leBytes 1 cause }
    let s1 := { s with frs := { f with oldest := f.next, flushNext := f.next } }.set1 .FRS_STATUS_MEDIUM_FAIL
    (if f.mark < f.next then s1.recordFirst ev else s1.writeRecord ev).sendFault 0xB2 0x61

/-! ### Records and floods (R361, R364, R366) -/

/-- FRESCO_RECORD_WRITE (R361): the oldest event of the ingress queue becomes a record; no number goes above the mark.
`ue` is an uncorrectable memory error when writing the ring's tile (R367). -/
def execFrescoRecordWrite (ue : Bool) (s : State) : Host.Outcome State Fault Refusal :=
  .next (match s.frs.queue with
    | [] => s
    | e :: rest =>
      if s.frs.mark < s.frs.next then s
      else if ue && !s.is .FRS_STATUS_MEDIUM_FAIL then 
        let t := s.holderOf (recordTile s.frs.next)
        (s.memError t).mediumFail t 4
      else { s with frs := { s.frs with queue := rest } }.writeRecord e)

/-- SUMMARY records of the counted pairs, six to a record, in order of first occurrence (Table 158). -/
def summaries (pairs : List FloodCount) : List FrEvent :=
  (chunks 6 pairs.length pairs).map fun ps =>
    { type := 0x14, source := 0xFF, kind := 0x94, time := (ps.head?.map (·.time)).getD 0
      body := leBytes 2 ps.length ++ ps.flatMap fun c => leBytes 1 c.source ++ leBytes 1 c.kind ++ leBytes 3 c.count }

/-- FLOOD_END (R366): the queue has drained to 16 entries. -/
def execFloodEnd (s : State) : Host.Outcome State Fault Refusal :=
  .next (if s.is .FRS_STATUS_FLOOD ∧ s.frs.queue.length ≤ 16 then
      let es := summaries s.frs.pairs
      (({ s with frs := { s.frs with queue := s.frs.queue ++ es, pairs := [] } }.clr .FRS_STATUS_FLOOD).bump
        .FRS_COUNT_SUMMARIES 0 es.length).showFresco
    else s)

/-- FRESCO_MARK (R364): a mark 65,536 higher is journalled once the next number comes within 4,096 of the mark. -/
def execFrescoMark (s : State) : Host.Outcome State Fault Refusal :=
  .next (if s.frs.next + 4096 < s.frs.mark then s
    else if !s.flashOpen then s.flashWaits
    else { s with frs := { s.frs with mark := s.frs.mark + 65536 } })

/-! ### The black box (R363) -/

/-- A page program into the next slot; a sector that is begun has the one after it erased. -/
def State.bbProgram (s : State) (x : BbSlot) : State :=
  let f := s.frs
  let sector := (f.bbNext / 128 + 1) % 128
  let box := if f.bbNext % 128 = 0 then f.blackBox.filter fun (p : Nat × BbSlot) => p.1 / 128 != sector else f.blackBox
  { s with frs := { f with blackBox := Store.set (fun _ => .erased) box f.bbNext x, bbNext := (f.bbNext + 1) % bbSlots } }

/-- BB_FLUSH (R363): the program of the next record to flush completes, or fails and is retried in the next slot. -/
def execBbFlush (ok : Bool) (s : State) : Host.Outcome State Fault Refusal :=
  let f := s.frs
  .next (if f.next ≤ f.flushNext ∨ s.is .FRS_STATUS_BB_FAIL ∨ f.copying ∨ s.is .FRS_STATUS_CLEARING then s
    else if !s.flashOpen then s.flashWaits.set1 .FRS_STATUS_FLUSH_WAIT
    else match s.ringAt f.flushNext with
      | none => s
      | some r =>
        if ok then
          let s1 := (s.bbProgram (.record r)).wr .FRS_BB_NEWEST 0 f.bbNext
          { s1 with frs := { s1.frs with flushed := f.flushNext, flushNext := f.flushNext + 1, flashErrs := 0 } }.showFresco
        else
          let s1 := (s.bbProgram (.failed s.free)).bump .FRS_COUNT1_FLASH_ERR
          let s2 := { s1 with free := s.free + 16, frs := { s1.frs with flashErrs := f.flashErrs + 1 } }
          if f.flashErrs + 1 < 3 then s2 else (s2.set1 .FRS_STATUS_BB_FAIL).sendFault 0xB4 0x62)

/-! ### Clearing (R368, R369) -/

/-- FRS_NONCE takes a new random value. -/
def State.newNonce (s : State) : State :=
  (s.wr2 .FRS_NONCE_LO_NONCE .FRS_NONCE_HI_NONCE 0 (Config.nonce s.free).toNat).nextFree

/-- The clear code of authoriser i for a nonce (R368). -/
def State.clearCode (s : State) (i nonce : Nat) : Nat :=
  ofLe ((hmacSha256 (s.frs.secrets.getD i []) (leBytes 8 nonce ++ leBytes 4 (s.rd .FRS_AUTH_ID_ID i) ++
    leBytes 8 (s.rd2 .COL_ID_LO_ID_LO .COL_ID_HI_ID_HI))).take 8)

/-- The oldest number that any ring or the black box still holds; 0 when none does. -/
def State.oldestHeld (s : State) : Nat :=
  let box := s.frs.blackBox.filterMap fun (p : Nat × BbSlot) => match p.2 with | .record r => some r.seq | _ => none
  let ring := if s.frs.oldest < s.frs.next then [s.frs.oldest] else []
  match ring ++ box with
  | [] => 0
  | x :: xs => xs.foldl min x

/-- A commit of a clear code (R369). -/
def State.frsClear (s : State) (code : Nat) : State :=
  let i := s.rd .FRS_CLR_ID_INDEX
  let id := s.rd .FRS_AUTH_ID_ID i
  let nonce := s.rd2 .FRS_NONCE_LO_NONCE .FRS_NONCE_HI_NONCE
  let refuse (reason : Nat) : State :=
    let s1 := (s.set1 .FRS_STATUS_CLR_REFUSED).record 0x12 0xB2 [(1, i), (1, reason)]
    let n := if reason = 3 then s.frs.refusals else s.frs.refusals + 1
    let s2 := { s1 with frs := { s1.frs with refusals := n } }
    if 8 ≤ n then s2.set1 .FRS_STATUS_CLR_LOCK else s2
  (if s.is .FRS_STATUS_CLR_LOCK then refuse 3
    else if id = 0 then refuse 2
    else if code ≠ s.clearCode i nonce then refuse 1
    else
      let first := s.oldestHeld
      let last := if first = 0 then 0 else s.frs.next - 1
      let ev : FrEvent := { type := 0x11, source := 0xB2, time := s.now, kind := 0x91
                            body := leBytes 6 first ++ leBytes 6 last ++ leBytes 4 id ++ leBytes 8 nonce }
      let s1 := { s with frs := { s.frs with ring := [], dieRing := [], oldest := s.frs.next, flushNext := s.frs.next,
                                             clearJournalled := true, refusals := 0 } }
      (s1.set1 .FRS_STATUS_CLEARING).recordFirst ev).newNonce

/-- A write of FRS_CLR_CODE_HI commits INDEX and the code (R368). -/
def State.writeClearHi (s : State) (w : Nat) : State :=
  (s.wr .FRS_CLR_CODE_HI_CODE 0 w).frsClear (s.rd .FRS_CLR_CODE_LO_CODE + w * 2 ^ 32)

/-- FRS_CLEAR (R369). -/
def execFrsClear (who : Requester) (w : Word) (s : State) : Host.Outcome State Fault Refusal :=
  .next (s.via who fun t => t.writeClearHi w.toNat)

/-- FRS_ERASE_DONE (R369): the black box is erased, and CLEAR goes into its first slot. -/
def execFrsEraseDone (s : State) : Host.Outcome State Fault Refusal :=
  .next (if !s.is .FRS_STATUS_CLEARING then s
    else if !s.flashOpen then s.flashWaits
    else { s with frs := { s.frs with blackBox := [], bbNext := 0, clearJournalled := false } }.clr .FRS_STATUS_CLEARING)

/-- CLR_LOCK_END (R369). -/
def execClrLockEnd (s : State) : Host.Outcome State Fault Refusal :=
  .next (if s.is .FRS_STATUS_CLR_LOCK then
      { s with frs := { s.frs with refusals := 0 } }.clr .FRS_STATUS_CLR_LOCK
    else s)

/-! ### Reading (R365) -/

/-- The bytes of a black-box slot as the window shows them: its first 64. -/
def BbSlot.bytes : BbSlot → List Byte
  | .erased => List.replicate 64 0xFF
  | .record r => r.bytes
  | .failed k => (List.range 16).flatMap fun i => leBytes 4 (Config.freeWord (k + i)).toNat

/-- A write of FRS_RD_SEL: the rings are read live; a black-box slot is copied first. -/
def State.writeRdSel (s : State) (w : Nat) : State :=
  let src := bits 20 2 w
  let s1 := (s.wr .FRS_RD_SEL_SLOT 0 (bits 0 20 w)).wr .FRS_RD_SEL_SRC 0 src
  { s1.wrB .FRS_RD_SEL_READY 0 (decide (src < 2)) with frs := { s1.frs with copying := src == 2 } }

/-- FRS_RD_SEL_WRITE (R365). -/
def execFrsRdSelWrite (w : Word) (s : State) : Host.Outcome State Fault Refusal := .next (s.writeRdSel w.toNat)

/-- FRS_COPY_DONE (R365). -/
def execFrsCopyDone (s : State) : Host.Outcome State Fault Refusal :=
  .next (if s.frs.copying then
      let x := Store.get (fun _ => .erased) s.frs.blackBox (s.rd .FRS_RD_SEL_SLOT % bbSlots)
      { s with frs := { s.frs with window := x.bytes, copying := false } }.set1 .FRS_RD_SEL_READY
    else s)

/-- Word i of the window (R365). -/
def State.frsWin (s : State) (i : Nat) : Nat :=
  let slot := s.rd .FRS_RD_SEL_SLOT
  let live (r : Option FrRecord) : List Byte := match r with | some x => x.bytes | none => List.replicate 64 0
  let bs := match s.rd .FRS_RD_SEL_SRC with
    | 0 => live (Store.get (fun _ => none) s.frs.ring slot)
    | 1 => live (Store.get (fun _ => none) s.frs.dieRing (slot % dieSlots))
    | _ => s.frs.window
  ofLe ((bs.drop (4 * i)).take 4)

/-- A commit of FRS_FW_CTRL queues a FIRMWARE record (Table 158). -/
def State.firmwareRecord (s : State) : State :=
  s.recordEvent { type := 0x40, source := s.rd .FRS_FW_CTRL_SOURCE, time := s.now, kind := 0xC0
                  body := (List.range 8).flatMap fun i => leBytes 4 (s.rd .FRS_FW_BODY_DATA i) }

/-- FIRMWARE (R360). -/
def execFirmware (q : CoreIx) (s : State) : Host.Outcome State Fault Refusal :=
  .next (s.via (.core q) fun t => t.firmwareRecord)

end Sys2Proof.Machine
end

