-- ==== Sys2Proof/Machine/Counters.lean ====
section
/-!
DEFINITION. Performance counters (17_counters.md): event selection, gathering and publication, latched reads, overflow and
reprogramming, and the precise-sample buffer.
-/

namespace Sys2Proof.Machine

/-! ### Selection (R372, R373, Tables 161, 162) -/

/-- UNIT is ignored in group 2 but for event 0x01, and in group 7 but for event 0x08; otherwise it names one unit by its
identifier, or with 0xFF every one (Table 161, R29). -/
def unitCounts (group event unit u : Nat) : Bool :=
  (group == 2 && event != 0x01) || (group == 7 && event != 0x08) || unit == 0xFF || u == unit

/-- QUAL selects traffic classes in group 1; 0 selects every class (R373). -/
def qualCounts (group qual mask : Nat) : Bool := group != 1 || qual == 0 || Nat.land mask qual != 0

/-- Events of the running interval that counter c counts. -/
def State.counted (s : State) (c : Nat) : Nat :=
  let group := s.rd .CNT_SEL_GROUP c
  let event := s.rd .CNT_SEL_EVENT c
  if event = 0 then 0
  else s.cnt.events.foldl (fun n (p : Nat × Nat) =>
    let u := p.1 / 16 % 256
    if p.1 / 4096 = group * 256 + event ∧ unitCounts group event (s.rd .CNT_SEL_UNIT c) u ∧
        qualCounts group (s.rd .CNT_SEL_QUAL c) (p.1 % 16) then n + p.2 else n) 0

def Counters.value (x : Counters) (c : Nat) : Nat := Store.get (fun _ => 0) x.live c

/-- Counter c takes k events; a wrap of its 48 bits sets OVF (R380). -/
def State.countUp (s : State) (c k : Nat) : State :=
  let v := s.cnt.value c + k
  let s1 := { s with cnt := { s.cnt with live := Store.set (fun _ => 0) s.cnt.live c (v % 2 ^ 48) } }
  if 2 ^ 48 ≤ v then s1.set1 .CNT_HI_OVF c else s1

/-! ### Gathering (R375, R376, R381) -/

/-- Counter c at a gather boundary: it takes its events, is copied, and a pending selection takes effect. -/
def State.gatherCounter (s : State) (c : Nat) : State :=
  let pend := s.is .CNT_HI_PEND c
  let s1 := if pend then s else s.countUp c (s.counted c)
  let copies := Store.set (fun _ => 0) s1.cnt.copies c (s1.cnt.value c)
  let s2 := { s1 with cnt := { s1.cnt with copies := copies } }
  if !pend then s2
  else
    let s3 := s2.clr .CNT_HI_PEND c
    if s.is .CNT_SEL_ZERO c then
      { s3 with cnt := { s3.cnt with live := Store.set (fun _ => 0) s3.cnt.live c 0 } }.clr .CNT_HI_OVF c
    else s3

/-- GATHER_BOUNDARY (R375): due once in a tick whose index is a multiple of 100; the copies stand for its boundary. -/
def execGatherBoundary (s : State) : Host.Outcome State Fault Refusal :=
  .next (if s.clk.tick % 100 ≠ 0 ∨ s.cnt.gathered = s.clk.tick + 1 then s
    else
      let s1 := s.forEach (fun c t => t.gatherCounter c) (List.range 224)
      { s1 with cnt := { s1.cnt with events := [], copied := true, copyIndex := s1.cnt.copyIndex + 1, wrapped := [],
                                           copyTime := s.now - s.clk.cycle * quantaPerCycle, gathered := s.clk.tick + 1 } })

def State.held (s : State) : Bool := s.is .CNT_CTRL_FW_HOLD || s.is .CNT_CTRL_HOST_HOLD
def State.showHeld (s : State) : State := s.wrB .CNT_STATUS_HELD 0 s.held

/-- The snapshot is published whole (R376). -/
def State.publishGather (s : State) : State :=
  let x := s.cnt
  let s1 := (List.range 224).foldl (fun t c =>
    let v := Store.get (fun _ => 0) x.copies c
    (t.wr .CNT_LO_COUNT_LO c v).wr .CNT_HI_COUNT_HI c (v / 2 ^ 32)) s
  let s2 := s1.wr .CNT_GATHER_GATHER 0 x.copyIndex
  let b := timeBits x.copyTime
  let s3 := ((s2.wr .CNT_GTIME_TIME 0 b).wr .CNT_GTIME_TIME 1 (b / 2 ^ 32)).wr .CNT_GTIME_TIME 2 (b / 2 ^ 64)
  { s3 with cnt := { s3.cnt with copied := false, time := x.copyTime } }

/-- GATHER_PUBLISH (R376, R378): `late` when the collection has missed its 200 µs; a hold keeps the snapshot. -/
def execGatherPublish (late : Bool) (s : State) : Host.Outcome State Fault Refusal :=
  .next (if !s.cnt.copied then s
    else if late then s.set1 .CNT_STATUS_GATHER_LATE
    else if s.held then s
    else s.publishGather)

/-- HOLD_TO (R378). -/
def execHoldTo (s : State) : Host.Outcome State Fault Refusal :=
  .next (if s.held then
      (((s.clr .CNT_CTRL_FW_HOLD).clr .CNT_CTRL_HOST_HOLD).set1 .CNT_STATUS_HOLD_TO).showHeld
    else s)

/-! ### Reading (R377, R379) -/

def isHost : Requester → Bool
  | .host => true
  | _ => false

/-- The word of CNT_HI[c]. -/
def State.cntHi (s : State) (c : Nat) : Nat :=
  s.rd .CNT_HI_COUNT_HI c + place 16 1 (s.rd .CNT_HI_OVF c) + place 17 1 (s.rd .CNT_HI_PEND c)

/-- A requester receives a word. -/
def State.answer (s : State) (who : Requester) (w : Nat) : State :=
  let q := requesterIx who
  s.setReader q { s.reader q with data := BitVec.ofNat 32 w }

/-- A read of CNT_LO[c] latches the upper bits with OVF and PEND (R377); a host without HOST_RD reads 0 (R379). -/
def State.readCntLo (s : State) (who : Requester) (c : Nat) : State :=
  if isHost who && !s.is .CNT_CTRL_HOST_RD then (s.set1 .CNT_STATUS_HOST_REFUSED).answer who 0
  else
    let q := requesterIx who
    (s.setReader q { s.reader q with count := some { off := c, word := BitVec.ofNat 32 (s.cntHi c) } }).answer who
      (s.rd .CNT_LO_COUNT_LO c)

/-- What a read of CNT_HI[c] returns: the latch of the same counter, or the current snapshot (R377). -/
def State.readCntHi (s : State) (who : Requester) (c : Nat) : State :=
  if isHost who && !s.is .CNT_CTRL_HOST_RD then (s.set1 .CNT_STATUS_HOST_REFUSED).answer who 0
  else match (s.reader (requesterIx who)).count with
    | some l => s.answer who (if l.off = c then l.word.toNat else s.cntHi c)
    | none => s.answer who (s.cntHi c)

/-- CNT_LO_READ (R377). -/
def execCntLoRead (who : Requester) (c : Fin 224) (s : State) : Host.Outcome State Fault Refusal :=
  .next (s.viaRead who fun t => t.readCntLo who c)

/-- Counter c stops with what it has counted (R381). -/
def State.stopCounter (s : State) (c : Nat) : State :=
  let k := s.counted c
  let s1 := s.countUp c k
  if 2 ^ 48 ≤ s.cnt.value c + k then { s1 with cnt := { s1.cnt with wrapped := c :: s1.cnt.wrapped } } else s1

/-- A write of CNT_HI[c]: OVF clears on a 1, unless the counter has wrapped in the running interval (R380). -/
def State.writeCntHi (s : State) (c w : Nat) : State :=
  if bit 16 w && !s.cnt.wrapped.contains c then s.clr .CNT_HI_OVF c else s

/-- A write of CNT_SEL[c] (R379, R381): the counter keeps what it has counted and stops until the next boundary. -/
def State.writeCntSel (s : State) (who : Requester) (c w : Nat) : State :=
  if isHost who && !(decide (208 ≤ c) && s.is .CNT_CTRL_HOST_PROG) then s.set1 .CNT_STATUS_HOST_REFUSED
  else
    let s1 := if s.is .CNT_HI_PEND c then s else (s.stopCounter c).set1 .CNT_HI_PEND c
    let s2 := if 208 ≤ c then s1.wr .CNT_SEL_GROUP c (bits 8 3 w) else s1
    (((s2.wr .CNT_SEL_EVENT c (bits 0 8 w)).wr .CNT_SEL_UNIT c (bits 11 8 w)).wr .CNT_SEL_QUAL c (bits 19 4 w)).wr
      .CNT_SEL_ZERO c (bits 23 1 w)

/-- CNT_SEL_WRITE (R381). -/
def execCntSelWrite (who : Requester) (c : Fin 224) (w : Word) (s : State) : Host.Outcome State Fault Refusal :=
  .next (s.via who fun t => t.writeCntSel who c w.toNat)

/-- A write of CNT_CTRL (Table 165): the host reaches HOST_HOLD alone, and only while HOST_RD is 1. -/
def State.writeCntCtrl (s : State) (who : Requester) (w : Nat) : State :=
  let s1 := if isHost who then s else
    ((s.wr .CNT_CTRL_FW_HOLD 0 (bits 0 1 w)).wr .CNT_CTRL_HOST_RD 0 (bits 2 1 w)).wr .CNT_CTRL_HOST_PROG 0 (bits 3 1 w)
  (if s1.is .CNT_CTRL_HOST_RD then s1.wr .CNT_CTRL_HOST_HOLD 0 (bits 1 1 w) else s1).showHeld

/-! ### Precise sampling (R383) -/

def sampleRecords : Nat := 1024

def State.showSamples (s : State) : State := s.wr .CNT_PS_STATUS_LEVEL 0 s.cnt.samples.length

/-- The four words of a record (Table 163); GATHER is the number of the gather that ends the running interval. -/
def State.sampleWords (s : State) (q : Nat) (x : Sample) : List Word :=
  [x.pc, x.daddr, BitVec.ofNat 32 (x.lat.toNat + place 16 2 q + place 18 7 x.flags.toNat),
    BitVec.ofNat 32 (x.memLat.toNat + place 16 16 (s.cnt.copyIndex + 1))]

/-- The count at which core q tags an instruction: PERIOD, at least 1,000, plus a random value below 2^JITTER, taken when
the count starts (R383; free value, log entry 16). -/
def State.tagTarget (s : State) : Nat :=
  max 1000 (s.rd .CNT_PS_CTRL_PERIOD) + s.freeWord.toNat % 2 ^ s.rd .CNT_PS_CTRL_JITTER

/-- Core q dispatches `n` instructions: while sampling is enabled for it each counts, and the one that reaches the target is
tagged. -/
def State.dispatch (s : State) (q n : Nat) : State :=
  if !s.is .CNT_PS_CTRL_EN || !bit q (s.rd .CNT_PS_CTRL_CORES) then s
  else
    let x := s.cnt
    let put (s : State) (c : Nat) (t : Option Nat) : State := { s with cnt := { s.cnt with
      dispatched := Store.set (fun _ => 0) s.cnt.dispatched q c, tagAt := Store.set (fun _ => none) s.cnt.tagAt q t } }
    let target := (Store.get (fun _ => none) x.tagAt q).getD s.tagTarget
    let c := Store.get (fun _ => 0) x.dispatched q + n
    if c < target then (put s c (some target)).nextFree
    else
      let s1 := (put s (c - target) none).nextFree
      { s1 with cnt := { s1.cnt with tagged := Store.set (fun _ => 0) s1.cnt.tagged q (Store.get (fun _ => 0) x.tagged q + 1) } }

/-- PRECISE_SAMPLE (R383): a tagged instruction of core q retires or is discarded; `x.flags` are LOAD to PAIRED, bits 18 to
24 of word 2. -/
def execPreciseSample (q : CoreIx) (x : Sample) (s : State) : Host.Outcome State Fault Refusal :=
  let ws := s.sampleWords q x
  let old := s.cnt.samples
  let left := Store.get (fun _ => 0) s.cnt.tagged q.val
  let s0 : State := { s with cnt := { s.cnt with tagged := Store.set (fun _ => 0) s.cnt.tagged q.val (left - 1) } }
  let s1 := s0.tally 6 0x0D q
  .next (if left = 0 then s else if old.length < sampleRecords then
      { s1 with cnt := { s1.cnt with samples := old ++ [ws] } }.showSamples
    else
      let s2 := s1.bump .CNT_PS_STATUS_DROPPED
      if s.is .CNT_PS_CTRL_WRAP then { s2 with cnt := { s2.cnt with samples := old.tail ++ [ws], sampleWord := 0 } } else s2)

/-- Word i of the oldest record, or 0. -/
def State.sampleWin (s : State) (i : Nat) : Nat := ((s.cnt.samples.headD []).getD i 0).toNat

/-- A read of CNT_PS_DATA (R383): by field firmware the fourth read removes the record. -/
def State.readPsData (s : State) (who : Requester) : State :=
  let s1 := s.answer who (s.sampleWin s.cnt.sampleWord)
  if isHost who ∨ s.cnt.samples = [] then s1
  else if s.cnt.sampleWord < 3 then { s1 with cnt := { s1.cnt with sampleWord := s.cnt.sampleWord + 1 } }
  else { s1 with cnt := { s1.cnt with samples := s.cnt.samples.tail, sampleWord := 0 } }.showSamples

/-- CNT_PS_DATA_READ (R383). -/
def execCntPsDataRead (who : Requester) (s : State) : Host.Outcome State Fault Refusal :=
  .next (s.viaRead who fun t => t.readPsData who)

/-! ### Cycles of the policy cores (R382) and of the lanes (Table 162) -/

/-- `n` cycles shared out among one more than `k` states, by free shares (log entry 32). -/
def shareOut (a : Nat → Nat) : Nat → Nat → List Nat
  | 0, n => [n]
  | k + 1, n => min n (a k) :: shareOut a k (n - min n (a k))

/-- Core q passes `n` unhalted cycles: which of the seven issue states each took, and what of the issued instructions was
squashed, is the program's and the pipeline's affair; the sums are those of R382 (free values, log entry 32). -/
def State.issueCycles (s : State) (q n : Nat) : State :=
  if n = 0 ∨ !s.coreRuns q then s
  else
    let a := Config.issueShare s.cycles q
    let xs := shareOut a 6 n
    let issued := 2 * xs.getD 0 0 + xs.getD 1 0 + xs.getD 2 0
    let squashed := min issued (a 6)
    let s1 := xs.zipIdx.foldl (fun t x => t.tally 6 (0x02 + x.2) q x.1) (s.tally 6 0x01 q n)
    (((s1.tally 6 0x09 q (issued - squashed)).tally 6 0x0A q squashed).tally 6 0x0B q (min issued (a 7))).dispatch q issued

/-- `k` cycles of 800 MHz pass at the memory channels: in how many of them a request queue was full is left open (Table 162;
free values, log entry 32). -/
def State.memoryCycles (s : State) (k : Nat) : State :=
  s.forEach (fun m t => if t.is .MEM_CH_TRAINED m then t.tally 4 0x06 m (min k (Config.queueFull s.cycles m)) else t)
    (List.range 4)

/-- The classes of the frames that wait on lane l: what is ready has been sent, so each waits for credits alone. -/
def State.waitingClasses (s : State) (l : Nat) : Nat :=
  ((List.range 4).map fun c => if (s.lane l).queue.any fun q => q.frame.cls.val == c then 2 ^ c else 0).sum

/-- `n` cycles of 400 MHz pass at the policy cores and the lanes. -/
def State.fieldCycles (s : State) (n : Nat) : State :=
  let s1 := s.forEach (fun q t => t.issueCycles q n) (List.range 4)
  s1.forEach (fun l t => if n = 0 || !t.laneUp l || (t.lane l).queue.isEmpty then t
    else t.tallyMask 1 0x04 l n (t.waitingClasses l)) allLanes

end Sys2Proof.Machine
end

