-- ==== Sys2Proof/Machine/Dma.lean ====
section
/-!
DEFINITION. Capture into host memory (18_scrim_host.md R398 to R403) and what stops it: rings, descriptors, buffers, the
capture limit, PCI Express errors and retraining, and the temperature of die B.
-/

namespace Sys2Proof.Machine

def allRings : List Nat := List.range 8

/-! ### Interrupts of the capture rings (R401) -/

/-- Vector 8 + r is raised for the buffers closed since the last interrupt. -/
def State.ringInterrupt (s : State) (r : Nat) : State := (s.setRing r { s.ring r with closed := 0 }).interrupt (8 + r)

/-- A buffer has closed: the interrupt comes at once, after IRQ_N buffers, or at the end of HOLDOFF. -/
def State.countClosed (s : State) (r : Nat) : State :=
  let n := (s.ring r).closed + 1
  let s1 := s.setRing r { s.ring r with closed := n }
  if s.rd .DMA_CTRL_HOLDOFF r = 0 ∨ max 1 (s.rd .DMA_CTRL_IRQ_N r) ≤ n then s1.ringInterrupt r else s1

/-! ### Buffers (Table 171, R401) -/

/-- Grains that a buffer of LEN bytes holds behind its 64-byte header; a grain is 288 bytes (Table 19). -/
def bufferRoom (len : Nat) : Nat := (len - 64) / 288

/-- A descriptor whose ADDR or LEN breaks the rules of R400. -/
def badDescriptor (d : Descriptor) : Bool :=
  decide (d.addr % 4096 ≠ 0 ∨ d.len % 4096 ≠ 0 ∨ d.len < 4096 ∨ 4194304 < d.len)

/-- Descriptors posted and not completed (R400). -/
def State.posted (s : State) (r : Nat) : Nat := (s.rd .DMA_HEAD_HEAD r + 2 ^ 17 - s.rd .DMA_TAIL_TAIL r) % 2 ^ 17

/-- 2^SIZE descriptors, SIZE from 4 to 16 (R400). -/
def State.ringSize (s : State) (r : Nat) : Nat := 2 ^ max 4 (min 16 (s.rd .DMA_SIZE_SIZE r))

/-- The 64-byte header of a buffer (R401). -/
def State.bufferHeader (s : State) (r : Nat) (b : CapBuffer) : List Byte :=
  let first := b.grains.head?
  (leBytes 2 (s.rd .DMA_CTRL_BP r) ++ leBytes 1 (s.rd .DMA_CTRL_TAP r) ++
    leBytes 1 (match first with | some g => gGen g | none => 0) ++ leBytes 4 (match first with | some g => g.seq | none => 0) ++
    leBytes 8 b.lostBefore ++ leBytes 12 (timeBits b.time) ++ List.replicate 64 0).take 64

/-- STATUS of a completed descriptor (Table 171). -/
def bufferStatus (grains : Nat) (loss ends poison err : Bool) : Nat :=
  grains % 2 ^ 16 + 2 ^ 16 + place 17 1 (flag loss) + place 18 1 (flag ends) + place 19 1 (flag poison) + place 20 1 (flag err)

/-- The open buffer closes: data, STATUS, TAIL, and then the interrupt (R401). -/
def State.closeBuffer (s : State) (r : Nat) (ends : Bool) : State :=
  let x := s.ring r
  match x.buffer with
  | none => s
  | some b =>
    let d : CapDone := { count := s.rd .DMA_TAIL_TAIL r, data := s.bufferHeader r b ++ b.grains.flatMap grainBytes,
                         status := bufferStatus b.grains.length (decide (0 < b.lostBefore)) ends b.poison false }
    ((s.setRing r { x with buffer := none, done := some d }).roll .DMA_TAIL_TAIL r).countClosed r

/-- A ring stops: its buffer closes with END, and its staging tiles are free again (R401). Log entry 24. -/
def State.stopRing (s : State) (cause : Field) (r : Nat) : State :=
  if !s.is .DMA_STATUS_RUN r then s
  else
    let s1 := (((s.closeBuffer r true).clr .DMA_STATUS_RUN r).clr .DMA_CTRL_EN r).set1 cause r
    s1.setRing r { s1.ring r with staged := [], lost := 0, lostPoison := false }

def State.stopRings (s : State) (cause : Field) : State := s.forEach (fun r t => t.stopRing cause r) allRings

/-! ### The capture limit (R403, R393, Table 172) -/

/-- Payload of one lane in steps of 1/130 Mbit/s: Gen1 and Gen2 use 8b/10b, Gen3 and Gen4 128b/130b. -/
def lanePayload : Nat → Nat
  | 1 => 2000 * 130
  | 2 => 4000 * 130
  | 3 => 8000 * 128
  | 4 => 16000 * 128
  | _ => 0

/-- CAP_LIMIT of a link, in Mbit/s. -/
def capLimit (gen width lanes : Nat) : Nat :=
  if width < 4 then 0 else min (20000 * lanes) (82 * width * lanePayload gen / (130 * 100 * 1000) * 1000)

/-- Fs × 36 bit/s of a span, in bit/s: Fs is N / 51,200 GHz (R40). -/
def captureRate (span : Nat) : Nat := span * 703125

/-- The sum over the rings that run, with one more where `extra` starts. -/
def State.captureSum (s : State) (extra : Option Nat) : Nat :=
  ((allRings.filter fun r => s.is .DMA_STATUS_RUN r || extra == some r).map fun r =>
    captureRate (s.bp (s.rd .DMA_CTRL_BP r)).decl.span).sum

def State.fitsLimit (s : State) (extra : Option Nat) : Bool :=
  decide (s.captureSum extra ≤ s.rd .PCIE_CAP_CAP_LIMIT * 1000000)

/-- CAP_LIMIT after a change of the link; rings stop from the highest until the sum fits (R403). -/
def State.refreshLimit (s : State) : State :=
  let w := s.rd .PCIE_STATUS_WIDTH
  let s1 := (s.wr .PCIE_CAP_CAP_LIMIT 0 (capLimit (s.rd .PCIE_STATUS_GEN) w s.scr.toHost)).wrB .PCIE_STATUS_NARROW 0
    (decide (0 < w ∧ w < 4))
  allRings.reverse.foldl (fun t r => if t.fitsLimit none then t else t.stopRing .DMA_STATUS_LIMIT_STOP r) s1

/-! ### Writes of a ring's registers -/

/-- A write of DMA_CTRL (Table 177): EN starts or stops the ring, or is refused (R403, R405, R390, R395). -/
def State.writeDmaCtrl (s : State) (r w : Nat) : State :=
  let s1 := (((s.wr .DMA_CTRL_BP r (bits 1 7 w)).wr .DMA_CTRL_TAP r (bits 8 1 w)).wr .DMA_CTRL_IRQ_N r (bits 9 7 w)).wr
    .DMA_CTRL_HOLDOFF r (bits 16 16 w)
  if !bit 0 w then
    let s2 := ((s1.closeBuffer r true).clr .DMA_STATUS_RUN r).clr .DMA_CTRL_EN r
    s2.setRing r { s2.ring r with staged := [], lost := 0, lostPoison := false }
  else if s1.is .DMA_STATUS_RUN r then s1
  else if s1.scr.tempHot || decide (s1.rd .PCIE_CAP_CAP_LIMIT = 0) || !s1.fitsLimit (some r) then
    s1.set1 .DMA_STATUS_ENA_REFUSED r
  else
    let s2 := (s1.set1 .DMA_CTRL_EN r).set1 .DMA_STATUS_RUN r
    if !s.is .SCR_HSTATUS_FIELD_UP then s2.stopRing .DMA_STATUS_FIELD_LOST r
    else if !s.scr.busMaster then s2.stopRing .DMA_STATUS_BME_OFF r
    else s2

/-- A write of DMA_HEAD posts descriptors, or is ignored (R400). -/
def State.writeDmaHead (s : State) (r w : Nat) : State :=
  let new := (w % 2 ^ 17 + 2 ^ 17 - s.rd .DMA_TAIL_TAIL r) % 2 ^ 17
  if s.ringSize r < new ∨ new < s.posted r then s.set1 .DMA_STATUS_HEAD_REFUSED r else s.wr .DMA_HEAD_HEAD r w

/-- DMA_ENABLE (R403). -/
def execDmaEnable (r : RingIx) (w : Word) (s : State) : Host.Outcome State Fault Refusal := .next (s.writeDmaCtrl r w.toNat)

/-- DMA_HEAD_WRITE (R400). -/
def execDmaHeadWrite (r : RingIx) (w : Word) (s : State) : Host.Outcome State Fault Refusal := .next (s.writeDmaHead r w.toNat)

/-! ### Moving grains (R398 to R402) -/

/-- The next staged grain belongs to the open buffer: room, consecutive SEQ, one GEN, nothing lost before it (R401). -/
def goesOn (b : CapBuffer) (g : Staged) : Bool :=
  match b.grains.getLast? with
  | none => true
  | some l => decide (b.grains.length < bufferRoom b.desc.len) && decide (g.lostBefore = 0) &&
      g.grain.seq == (l.seq + 1) % 2 ^ 28 && gGen g.grain == gGen l

/-- The open buffer must close before anything else: it is full, or the next grain does not belong to it. -/
def mustClose (x : Ring) : Bool :=
  match x.buffer with
  | none => false
  | some b => decide (bufferRoom b.desc.len ≤ b.grains.length) ||
      match x.staged with
      | g :: _ => !goesOn b g
      | [] => false

/-- A grain leaves staging in a CAP message. -/
def State.takeStaged (s : State) (r : Nat) (b : CapBuffer) (rest : List Staged) : State :=
  let s1 := s.setRing r { s.ring r with buffer := some b, staged := rest }
  let cap := s.scr.capCredit - 1
  (({ s1 with scr := { s1.scr with capCredit := cap, owed := s1.scr.owed.set 5 (s1.scr.owed.getD 5 0 + 1) } }).wr
    .SCR_FCREDIT_CAP8 0 (cap / 8)).tally 7 0x01 0

/-- CAPTURE_GRAIN (R398, R400, R401): the oldest staged grain of ring r goes to host memory; `d` is the descriptor that
TAIL names, read when a new buffer is needed. -/
def State.captureGrain (s : State) (r : Nat) (d : Descriptor) : State :=
  let x := s.ring r
  match x.staged with
  | [] => s
  | g :: rest =>
    if !s.is .DMA_STATUS_RUN r || !s.is .SCR_HSTATUS_FIELD_UP || decide (s.scr.capCredit = 0) || mustClose x then s
    else match x.buffer with
      | some b => s.takeStaged r { b with grains := b.grains ++ [g.grain] } rest
      | none =>
        if s.posted r = 0 then s
        else if badDescriptor d then
          let bad : CapDone := { count := s.rd .DMA_TAIL_TAIL r, status := bufferStatus 0 false false false true, data := [] }
          (((s.setRing r { x with done := some bad }).set1 .DMA_STATUS_BAD_DESC r).roll .DMA_TAIL_TAIL r).countClosed r
        else s.takeStaged r { desc := d, grains := [g.grain], lostBefore := g.lostBefore, poison := g.poisonBefore,
                              time := g.time } rest

/-- CAPTURE_GRAIN (R398). -/
def execCaptureGrain (r : RingIx) (d : Descriptor) (s : State) : Host.Outcome State Fault Refusal := .next (s.captureGrain r d)

/-- DMA_BUFFER_CLOSE (R401): due once the next grain cannot go into the open buffer. -/
def execDmaBufferClose (r : RingIx) (s : State) : Host.Outcome State Fault Refusal :=
  .next (if mustClose (s.ring r) then s.closeBuffer r false else s)

/-- DMA_FLUSH_TIMEOUT (R401). -/
def execDmaFlushTimeout (r : RingIx) (s : State) : Host.Outcome State Fault Refusal :=
  .next (if s.rd .DMA_FLUSH_FLUSH_US r = 0 then s else s.closeBuffer r false)

/-- DMA_HOLDOFF_EXPIRE (R401). -/
def execDmaHoldoffExpire (r : RingIx) (s : State) : Host.Outcome State Fault Refusal :=
  .next (if (s.ring r).closed = 0 then s else s.ringInterrupt r)

/-! ### What stops capture (R393 to R395, R405) -/

/-- The endpoint reports an error of kind k through AER (R394). -/
def State.report (s : State) (k : Nat) : State := { s with scr := { s.scr with aer := s.scr.aer ||| BitVec.ofNat 8 (2 ^ k) } }

/-- DMA_ERR (R394): a completion timeout or abort on the module's own read or write. -/
def execDmaErr (r : RingIx) (s : State) : Host.Outcome State Fault Refusal :=
  .next ((s.report 6).stopRing .DMA_STATUS_DMA_ERR r)

/-- PCIE_ERROR (R394, Table 169): 0 receiver error, 1 bad TLP, 2 bad DLLP, 3 replay, 4 poisoned TLP, 5 unsupported
request, 6 completion timeout or completer abort of ring r, 7 malformed TLP or data link protocol error. -/
def execPcieError (k : Fin 8) (r : RingIx) (s : State) : Host.Outcome State Fault Refusal :=
  .next (if k.val = 6 then (s.report 6).stopRing .DMA_STATUS_DMA_ERR r else s.report k)

/-- PCIE_RETRAIN (R393). -/
def execPcieRetrain (gen : Fin 8) (width : Fin 32) (s : State) : Host.Outcome State Fault Refusal :=
  .next (if 1 ≤ gen.val ∧ gen.val ≤ 4 ∧ width.val ∈ [1, 2, 4, 8, 16] then
      ((s.wr .PCIE_STATUS_GEN 0 gen).wr .PCIE_STATUS_WIDTH 0 width).refreshLimit
    else s)

/-- BME_OFF (R395): Bus Master Enable is 0, or the function is in D3hot. -/
def execBmeOff (s : State) : Host.Outcome State Fault Refusal :=
  let s1 := s.stopRings .DMA_STATUS_BME_OFF
  .next { s1 with scr := { s1.scr with busMaster := false } }

/-- A cause of vector 0 (Table 170): bit 0 FIELD_DOWN, 1 FIELD_UP, 2 LANE_DROP, 3 TEMP_WARN, 4 TEMP_TRIP. -/
def State.hostCause (s : State) (b : Nat) : State :=
  let c := s.rd .SCR_HIRQ_CAUSE
  (if bit b c then s else s.wr .SCR_HIRQ_CAUSE 0 (c + 2 ^ b)).interrupt 0

/-- DIE_B_TEMP_SAMPLE (R405): 100 °C with the three-sample and 2 K rule, 110 °C at once, and EN refused until 10 s at or
below 95 °C. -/
def execDieBTempSample (t : BitVec 16) (s : State) : Host.Outcome State Fault Refusal :=
  let v := t.toInt
  let x := s.scr
  let hi := if x.tempSeen then max (s.rdS .PCIE_TEMP_MAX_T) v else v
  let run := runOf x.warnRun (if x.tempWarn then decide (v < 6400 - 128) else decide (6400 ≤ v))
  let warn := if run.2 then !x.tempWarn else x.tempWarn
  let cool := if v ≤ 6080 then x.coolMs + 1 else 0
  let hot := decide (7040 ≤ v) || (x.tempHot && decide (cool < 10000))
  let s1 := { (s.wr .PCIE_TEMP_TEMP 0 t.toNat).wr .PCIE_TEMP_MAX_T 0 (wrapBits 16 hi) with
    scr := { x with tempSeen := true, tempWarn := warn, warnRun := run.1, coolMs := if hot then cool else 0, tempHot := hot } }
  let s2 := if warn && !x.tempWarn then s1.hostCause 3 else s1
  .next (if hot && !x.tempHot then (s2.stopRings .DMA_STATUS_TEMP_STOP).hostCause 4 else s2)

end Sys2Proof.Machine
end

