-- ==== Sys2Proof/Machine/Map.lean ====
section
/-!
DEFINITION. Addressing the register map (20_register_map.md R428, R429, R436): which fields an offset names for a
requester, the word they show, and the registers that the Key coat must hold.
-/

namespace Sys2Proof.Machine

/-- Instance of the register of field f that an offset names; `sel` is the band path that a select register names. -/
def Field.instAt (f : Field) (off sel : Nat) : Option Nat :=
  let r := f.row
  match r.reach with
  | .window k => if r.off ≤ off ∧ off < r.off + 4 * k then some (sel * k + (off - r.off) / 4) else none
  | _ =>
    if r.stride = 0 then (if off = r.off then some 0 else none)
    else if r.off ≤ off ∧ (off - r.off) % r.stride = 0 ∧ (off - r.off) / r.stride < r.count then
      some ((off - r.off) / r.stride)
    else none

/-- The select register of a block and that of its host views (R436). -/
def selectField (block : Nat) : Option (Field × Field) :=
  match block with
  | 0x11 => some (.CHZ_SEL_N, .CHZ_HOST_SEL_N)
  | 0x12 => some (.GCE_SEL_N, .GCE_HOST_SEL_N)
  | 0x13 => some (.SDL_SEL_N, .SDL_HOST_SEL_N)
  | 0x15 => some (.FLO_SEL_N, .FLO_HOST_SEL_N)
  | 0x16 => some (.EMG_SEL_N, .EMG_HOST_SEL_N)
  | 0x19 => some (.COL_SEL_N, .COL_HOST_SEL_N)
  | _ => none

def Field.windowed (f : Field) : Bool :=
  match f.row.reach with
  | .window _ => true
  | _ => false

def Field.copied (f : Field) : Bool := decide (f.row.reach = .perRequester)

/-- The fields of the register at `off` outside select windows, with copy `q` of what each requester has for itself. -/
def plainFields (off q : Nat) : List (Field × Nat) :=
  (Field.ofBlock (off / 4096)).filterMap fun f =>
    if f.windowed then none
    else if f.copied then (if off = f.row.off then some (f, q) else none)
    else (f.instAt off 0).map fun i => (f, i)

/-- The fields of the register at `off` inside its block's select window, for band path `n`. -/
def windowFields (off n : Nat) : List (Field × Nat) :=
  (Field.ofBlock (off / 4096)).filterMap fun f => if f.windowed then (f.instAt off n).map fun i => (f, i) else none

/-- The register that an offset names for a requester: its fields, and whether they are a read-only host view. -/
structure Target where
  fields : List (Field × Nat)
  view : Bool
  deriving DecidableEq, Repr

/-- A channel from 4 to 7 has none of these fields: they read 0 and have no effect (R314). -/
def Field.fourOnly (f : Field) : Bool :=
  f ∈ [.PWM_CTRL_ADAPT, .PWM_DT_DT_MARGIN, .PWM_DT_DT_LAST, .PWM_LIM_BLANK_SRC, .PWM_LIM_BLANK_EN, .PWM_SENSE_BLANK,
    .PWM_SENSE_FILT, .PWM_ILIM_I_LIM, .PWM_ILIM_FW_I_LIM, .PWM_VLIM_V_LIM, .PWM_VLIM_FW_V_LIM, .PWM_STATUS_G3_OC,
    .PWM_STATUS_G3_OV, .PWM_COUNT1_G3_TRIPS, .PWM_COUNT1_SWN_MISS]

def absent (x : Field × Nat) : Bool := x.1.fourOnly && decide (4 ≤ x.2)

/-- What `off` names for `who` (R428, R436): the host has no firmware select registers and no firmware windows. -/
def State.regAt (s : State) (who : Requester) (off : Nat) : Target :=
  let host := isHost who
  let q := requesterIx who
  let plain := (plainFields off q).filter fun x => !(host && x.1.copied)
  let direct := match selectField (off / 4096) with
    | some (sel, _) => if host then plain else plain ++ windowFields off (s.rd sel q)
    | none => plain
  if direct ≠ [] then { fields := direct.filter fun x => !absent x, view := false }
  else match selectField (off / 4096) with
    | some (_, sel) =>
      if 0x100 ≤ off % 4096 then { fields := windowFields (off - 0x100) (s.rd sel), view := true } else { fields := [], view := true }
    | none => { fields := [], view := true }

/-- The word that a list of fields shows. -/
def State.wordOf (s : State) (fs : List (Field × Nat)) : Nat :=
  (fs.map fun x => place x.1.row.lo x.1.row.width (s.rd x.1 x.2)).sum

/-- The bits that a list of fields covers: the others are RSVD (R14). -/
def coveredBits (fs : List (Field × Nat)) : Nat := (fs.map fun x => place x.1.row.lo x.1.row.width (2 ^ x.1.row.width - 1)).sum

/-- The bits of a word that belong to a field. -/
def Field.slice (f : Field) (w : Nat) : Nat := bits f.row.lo f.row.width w

/-! ### Registers of the Key coat (R410) -/

/-- One field of every register that has a field with reset KL or KC, up to block GCE. -/
def coatFieldsA : List Field :=
  [.KCT_CFG_HOST_UPD_EN, .PCR_CTRL_RUN, .FCL_LIMIT_QUIET, .FCL_FW_QUIET_FW_QUIET, .FRS_AUTH_ID_ID,
   .CNT_CTRL_FW_HOLD, .CNT_SEL_EVENT, .THM_LIM_WARN, .THM_LIM1_RESTART, .THM_CFG_XCHK_TOL, .MON_SCAN_MASK,
   .MON_PL_LIM_PL_TOL, .PWM_CTRL_ARM, .PWM_PER_COUNT, .PWM_RISE_COUNT, .PWM_FALL_COUNT, .PWM_DT_DT_RISE,
   .PWM_LIM_DT_MIN, .PWM_DUTY_MAX_DUTY, .PWM_SLEW_DUTY_SLEW, .PWM_SENSE_BLANK, .PWM_ILIM_I_LIM,
   .PWM_VLIM_V_LIM, .PWM_FLT_MAP_MAP0, .PWM_FLT_POL, .BP_CTRL_ENABLE, .BP_ROUTE_SRC_KIND, .BP_FREQ_FREQ,
   .BP_DST_FREQ_FREQ, .BP_GAIN_GAIN_NOW, .CHZ_BANK_STATUS_ACTIVE, .CHZ_BANK_GD_GD2, .GCE_MODE_SP_SRC,
   .GCE_LEVEL_LEVEL, .GCE_FIX_FIX_SP, .GCE_MAP_MAP_LO, .GCE_SP_LIM_SP_MIN, .GCE_CEIL_HARD_CEIL,
   .GCE_SLEW_SP_SLEW, .GCE_GSLEW_GAIN_SLEW, .GCE_KLEV_KP, .GCE_KSE_KS, .GCE_KTH_KTH, .GCE_THERM_THERM_SP]

/-- The rest of them. -/
def coatFieldsB : List Field :=
  [.GCE_TRACK_KT_LEV, .SDL_CTRL_K_LOG2, .SDL_TARGET_TARGET, .SDL_LIMIT_HARD_FLOOR, .SDL_G1_OVL_N,
   .SDL_RISE_RISE_MAX, .FLO_CTRL_STEP_OK, .FLO_TARGET_LO_TARGET, .FLO_TARGET_HI_TARGET, .FLO_TOL_TS_TOL,
   .FLO_SLEW_DLY_SLEW, .EMG_CTRL_INT, .EMG_FLOOR_N, .EMG_LIMIT_TRIP_DB, .EMG_LIMIT1_BACKOFF_MIN,
   .EMG_BP_CTRL_EMIT_BACKOFF, .PLN_PORT_OFS_OFS0, .PLB_CTRL_PPS_OUT_EN, .PLB_RANK_PRIORITY, .PLB_LOOP_TP,
   .PLB_SLEW_PHASE_SLEW, .PLB_PPS_IN_DLY_DLY, .PLB_REF_IN_DLY_DLY, .PLB_PPS_OUT_DLY_DLY, .PLB_REF_OUT_DLY_DLY,
   .PLB_GM_TP_PPS, .PLB_ASYM_FIX_FIX, .PLB_ASYM_RATIO_RATIO, .PLB_LCFG_ASYM_UNC, .COL_NODE_ADDR,
   .COL_CTRL_FWD_EN, .LANE_CTRL_EN, .FE_CTRL_RX_EN, .FE_RX_FREQ_FREQ, .FE_TX_FREQ_FREQ, .FE_ATT_RX_ATT,
   .FE_RELAY_POS, .FE_CAL_CTRL_BG_RX, .FE_PILOT_CTRL_MODE, .FE_PILOT_FREQ_FREQ, .FE_PILOT_SHIFT_FREQ,
   .FE_PILOT_TURN_TURN, .FE_PILOT_SPLIT_SPLIT, .FE_PILOT_PRIOR_PRIOR]

/-- One field of every register that has a field with reset KL or KC. -/
def coatFields : List Field := coatFieldsA ++ coatFieldsB

/-- The register at `off` holds a Key coat value. -/
def inCoat (off : Nat) : Bool := coatFields.any fun f => (f.instAt off 0).isSome

/-- The (offset, SEL) pairs that a REGISTERS section must name (R410). -/
def coatRecords : List (Nat × Option Nat) :=
  coatFields.flatMap fun f =>
    let r := f.row
    if f.windowed then (List.range 128).map fun n => (r.off, some n)
    else (List.range r.count).map fun i => (r.off + r.stride * i, none)

end Sys2Proof.Machine
end

