-- ==== Sys2Proof/Machine/Image.lean ====
section
/-!
DEFINITION. The Key coat image (19_startup_keycoat.md R408 to R411): flash contents, the header and the directory, the
content rules of each section, and the check of a slot with its failure reason.
-/

namespace Sys2Proof.Machine

/-! ### Flash (R408; log entry 12: an erased byte reads 0xFF) -/

def erased (_ : Nat) : Byte := 0xFF

def slotSize : Nat := 25165824

/-- First flash byte of slot A (false) or B. -/
def slotBase (b : Bool) : Nat := if b then slotSize else 0

/-- `k` bytes from address `a` on, of a store whose keys all reach `a`. -/
def bytesFrom : Nat → Store Byte → Nat → List Byte
  | 0, _, _ => []
  | k + 1, [], a => erased a :: bytesFrom k [] (a + 1)
  | k + 1, (j, v) :: rest, a =>
    if j = a then v :: bytesFrom k rest (a + 1) else erased a :: bytesFrom k ((j, v) :: rest) (a + 1)

/-- `k` bytes of a store from address `a` on. -/
def readBytes (m : Store Byte) (a k : Nat) : List Byte := bytesFrom k (m.dropWhile fun (x : Nat × Byte) => decide (x.1 < a)) a

/-- Erase the bytes from `a` to `a + k - 1`. -/
def eraseBytes (m : Store Byte) (a k : Nat) : Store Byte := m.filter fun (x : Nat × Byte) => decide (x.1 < a ∨ a + k ≤ x.1)

/-- Program bytes from `a` on: programming clears bits (log entry 12). -/
def programBytes (m : Store Byte) : Nat → List Byte → Store Byte
  | _, [] => m
  | a, v :: vs => programBytes (Store.set erased m a (Store.get erased m a &&& v)) (a + 1) vs

/-- Replace the bytes from `a` on. -/
def putBytes (m : Store Byte) (a : Nat) (bs : List Byte) : Store Byte :=
  m.filter (fun (x : Nat × Byte) => decide (x.1 < a)) ++
    (bs.zipIdx.filterMap fun x => if x.1 = erased 0 then none else some (a + x.2, x.1)) ++
    m.filter fun (x : Nat × Byte) => decide (a + bs.length ≤ x.1)

/-! ### Header and directory (Tables 179 and 180) -/

structure Header where
  magic : Nat
  format : Nat
  hdrLen : Nat
  imgLen : Nat
  seq : Nat
  fwVersion : Nat
  keyIdx : Nat
  factoryTest : Bool
  sections : Nat
  target : Nat
  deriving DecidableEq, Repr

/-- The number in bytes `o` to `o + k - 1`. -/
def leAt (bs : List Byte) (o k : Nat) : Nat := ofLe ((bs.drop o).take k)

def parseHeader (bs : List Byte) : Header :=
  { magic := leAt bs 0 4, format := leAt bs 4 2, hdrLen := leAt bs 6 2, imgLen := leAt bs 8 4, seq := leAt bs 12 4,
    fwVersion := leAt bs 16 4, keyIdx := leAt bs 20 1, factoryTest := bit 0 (leAt bs 21 1), sections := leAt bs 22 2,
    target := leAt bs 24 8 }

structure Entry48 where
  type : Nat
  critical : Bool
  offset : Nat
  length : Nat
  digest : List Byte
  deriving DecidableEq, Repr

def parseEntry (bs : List Byte) : Entry48 :=
  { type := leAt bs 0 2, critical := bit 0 (leAt bs 2 2), offset := leAt bs 4 4, length := leAt bs 8 4,
    digest := (bs.drop 16).take 32 }

/-- Bytes before the signature. -/
def signedLen (h : Header) : Nat := 64 + 48 * h.sections

/-- MAGIC, FORMAT, HDR_LEN, IMG_LEN and SECTIONS. -/
def Header.ok (h : Header) : Bool :=
  decide (h.magic = 0x32434B51 ∧ h.format = 2 ∧ h.hdrLen = 64 ∧ h.imgLen ≤ slotSize ∧ 1 ≤ h.sections ∧ h.sections ≤ 64 ∧
    signedLen h + 64 ≤ h.imgLen)

/-- The placement rules of R408. -/
def placed (h : Header) (es : List Entry48) : Bool :=
  es.all (fun e => decide (e.offset % 4096 = 0 ∧ signedLen h + 64 ≤ e.offset ∧ e.offset + e.length ≤ h.imgLen)) &&
    decide (es.Pairwise fun a b => a.offset + a.length ≤ b.offset ∨ b.offset + b.length ≤ a.offset)

/-! ### Content rules (R202, R409, R410) -/

/-- The mask section as (first bin, entry) runs. -/
def maskRecords (bs : List Byte) : List (Nat × Nat) :=
  (chunks 8 (bs.length / 8) bs).map fun r => (leAt r 0 3, leAt r 3 2)

def risingFirst : List (Nat × Nat) → Bool
  | a :: b :: rest => decide (a.1 < b.1) && risingFirst (b :: rest)
  | _ => true

def maskOk (bs : List Byte) : Bool :=
  let rs := maskRecords bs
  decide (bs.length % 8 = 0 ∧ 1 ≤ rs.length ∧ rs.length ≤ 1048576) && (rs.head?.map Prod.fst) == some 0 && risingFirst rs &&
    (chunks 8 (bs.length / 8) bs).all fun r => leAt r 5 3 == 0

/-- A record of the REGISTERS section (Table 181). -/
structure RegRecord where
  off : Nat
  sel : Nat
  selValid : Bool
  rsvd : Nat
  value : Nat
  deriving DecidableEq, Repr

def regRecords (bs : List Byte) : List RegRecord :=
  (chunks 8 (bs.length / 8) bs).map fun r =>
    let w := leAt r 0 8
    { off := bits 0 20 w, sel := bits 20 7 w, selValid := bit 27 w, rsvd := bits 28 4 w, value := bits 32 32 w }

def recordKey (r : RegRecord) : Nat := r.off * 128 + r.sel

def risingKeys : List Nat → Bool
  | a :: b :: rest => decide (a < b) && risingKeys (b :: rest)
  | _ => true

/-- The fields that a record writes. -/
def RegRecord.fields (r : RegRecord) : List (Field × Nat) := plainFields r.off 4 ++ windowFields r.off r.sel

/-- The RSVD bits of a value are 0. -/
def RegRecord.clean (r : RegRecord) : Bool :=
  decide (r.rsvd = 0 ∧ r.off % 4 = 0 ∧ r.off < 0x80000) && Nat.land r.value (2 ^ 32 - 1 - coveredBits r.fields) == 0

/-- The keys of `need` all stand in `have'`; both lists rise. -/
def coversKeys : Nat → List Nat → List Nat → Bool
  | 0, need, _ => need.isEmpty
  | k + 1, need, have' =>
    match need, have' with
    | [], _ => true
    | _ :: _, [] => false
    | n :: ns, h :: hs => if n = h then coversKeys k ns hs else if h < n then coversKeys k (n :: ns) hs else false

/-- The keys of the records that the section must hold, ascending. -/
def coatKeys : List Nat :=
  (coatRecords.map fun x => match x.2 with | some n => x.1 * 128 + n | none => x.1 * 128).mergeSort (fun a b => decide (a ≤ b))

def registersOk (bs : List Byte) : Bool :=
  let rs := regRecords bs
  let windowed (r : RegRecord) : Bool := (windowFields r.off 0) != []
  decide (bs.length % 8 = 0) && rs.all RegRecord.clean && risingKeys (rs.map recordKey) &&
    coversKeys (coatKeys.length + rs.length + 1) coatKeys
      ((rs.filter fun r => !windowed r || r.selValid).map recordKey)

/-- The content rules of one section. -/
def sectionOk (type : Nat) (bs : List Byte) : Bool :=
  if 1 ≤ type ∧ type ≤ 4 then decide (bs.length ≤ 262144)
  else match type with
    | 0x10 => registersOk bs
    | 0x11 => maskOk bs
    | 0x12 => decide (bs.length % 8 = 0)
    | 0x13 => decide (bs.length % 36 = 0 ∧ bs.length ≤ 144)
    | _ => true

def knownTypes : List Nat := [1, 2, 3, 4, 0x10, 0x11, 0x12, 0x13]
def requiredTypes : List Nat := [1, 2, 3, 4, 0x10, 0x11]

/-- Each required type once, no unknown type that is CRITICAL (R409). -/
def typesOk (es : List Entry48) : Bool :=
  requiredTypes.all (fun t => (es.filter fun e => e.type == t).length == 1) &&
    es.all fun e => knownTypes.contains e.type || !e.critical

/-! ### The check (R411, Table 182) -/

/-- What the check of a slot finds: the failure reason, or 0 with the header and the sections. -/
structure Checked where
  code : Nat
  header : Header
  entries : List Entry48
  deriving DecidableEq, Repr

def slotBytes (s : State) (b : Bool) (o k : Nat) : List Byte := readBytes s.kct.flash (slotBase b + o) k

/-- The entries of the directory of slot b. -/
def State.directory (s : State) (b : Bool) (h : Header) : List Entry48 :=
  (chunks 48 h.sections (slotBytes s b 64 (48 * h.sections))).map parseEntry

/-- The conditions of R411 after the header's, in order: the failure reason, or 0. -/
def State.entriesCode (s : State) (b : Bool) (h : Header) (es : List Entry48) : Nat :=
  if !placed h es then 2
  else if 4 ≤ h.keyIdx ∨ s.factory.keys.length ≤ h.keyIdx ∨ s.factory.revoked.getD h.keyIdx false then 3
  else if !edVerify (s.factory.keys.getD h.keyIdx []) (slotBytes s b (signedLen h) 64) (slotBytes s b 0 (signedLen h)) then 4
  else if !es.all (fun e => sha256 (slotBytes s b e.offset e.length) == e.digest) then 5
  else if !(typesOk es && es.all fun e => sectionOk e.type (slotBytes s b e.offset e.length)) then 6
  else if h.target ≠ 0 ∧ h.target ≠ s.factory.colId then 7
  else if h.factoryTest ∧ (h.keyIdx ≠ 3 ∨ h.target ≠ s.factory.colId) then 8
  else 0

/-- Check slot b; `read` tells whether the flash could be read. -/
def State.checkSlot (s : State) (b read : Bool) : Checked :=
  let h := parseHeader (slotBytes s b 0 64)
  if !read then { code := 1, header := h, entries := [] }
  else if !h.ok then { code := 2, header := h, entries := [] }
  else { code := s.entriesCode b h (s.directory b h), header := h, entries := s.directory b h }

/-- The bytes of the section of a type in the slot in use, when they still have their digest (R411). -/
def State.verifiedSection (s : State) (type : Nat) : Option (List Byte) :=
  match s.kct.sections.find? fun r => r.type == type with
  | none => none
  | some r =>
    let bs := slotBytes s (s.is .KCT_STATUS_SLOT) r.offset r.length
    if sha256 bs = r.digest then some bs else none

end Sys2Proof.Machine
end

