-- ==== Sys2Proof/Machine/Update.lean ====
section
/-!
DEFINITION. Updating the Key coat, the watchdogs and access faults of the policy cores (19_startup_keycoat.md R421, R423,
R424, R427).
-/

namespace Sys2Proof.Machine

/-! ### Receiving an image (R423) -/

/-- An update is running: ERASING, RECEIVING or VERIFYING. -/
def State.updating (s : State) : Bool := decide (1 ≤ s.rd .KCT_UPD_STATUS_USTATE ∧ s.rd .KCT_UPD_STATUS_USTATE ≤ 3)

/-- The host may update: HOST_UPD_EN, or NO_IMAGE (R414). -/
def State.hostMay (s : State) : Bool := s.is .KCT_CFG_HOST_UPD_EN || s.rd .KCT_STATUS_STATE == 5

/-- The update ends with a reject code, or 0. -/
def State.updEnd (s : State) (code : Nat) : State :=
  let s1 := (((s.wr .KCT_UPD_STATUS_USTATE 0 0).clr .KCT_UPD_STATUS_WAITING).wr .KCT_UPD_STATUS_UREJECT 0 code)
  { s1 with kct := { s1.kct with updHead := [], updNext := 0, updCommit := false } }

/-- The slot that the journal does not name as active. -/
def State.inactive (s : State) : Bool := !s.kct.slotB

/-- Erase `k` bytes of the inactive slot from byte `o` on. -/
def State.eraseInactive (s : State) (o k : Nat) : State :=
  { s with kct := { s.kct with flash := eraseBytes s.kct.flash (slotBase s.inactive + o) k } }

/-- START (R423, R424, Table 187): the header goes first, which makes the slot invalid. -/
def State.updStart (s : State) (who : Requester) : State :=
  if !s.kct.powered then s
  else if s.updating then s.wr .KCT_UPD_STATUS_UREJECT 0 6
  else if isHost who && !s.hostMay then s.wr .KCT_UPD_STATUS_UREJECT 0 5
  else if !s.flashOpen then s.wr .KCT_UPD_STATUS_UREJECT 0 1
  else
    let s1 := (((((s.eraseInactive 0 4096).wr .KCT_UPD_STATUS_USTATE 0 1).wr .KCT_UPD_STATUS_UREJECT 0 0).wr
      .KCT_UPD_STATUS_UFAIL 0 0).wrB .KCT_UPD_STATUS_OWNER 0 (isHost who)).clr .KCT_UPD_STATUS_WAITING
    { s1 with kct := { s1.kct with updHead := [], updNext := 0, updCommit := false } }

/-- KCT_UPD_START (R423). -/
def execKctUpdStart (who : Requester) (s : State) : Host.Outcome State Fault Refusal :=
  .next (s.via who fun t => t.updStart who)

/-- KCT_UPD_ERASE_DONE (R423). -/
def execKctUpdEraseDone (s : State) : Host.Outcome State Fault Refusal :=
  .next (if s.rd .KCT_UPD_STATUS_USTATE = 1 ∧ s.flashOpen then (s.eraseInactive 0 slotSize).wr .KCT_UPD_STATUS_USTATE 0 2 else s)

/-- IMG_LEN of the header received so far; none before its bytes have come. -/
def State.updImgLen (s : State) : Option Nat :=
  if 12 ≤ s.kct.updNext then some (ofLe (readBytes s.kct.updHead 8 4)) else none

/-- A write of KCT_UPD_DATA: 4 bytes at ADDR, which advances (R423, Table 189); data beyond the slot or past IMG_LEN end
the update (Table 187, code 4). -/
def State.updData (s : State) (w : Nat) : State :=
  let s0 := s.wr .KCT_UPD_DATA_DATA 0 w
  if s.rd .KCT_UPD_STATUS_USTATE ≠ 2 then s0
  else
    let a := s.rd .KCT_UPD_ADDR_ADDR / 4 * 4
    let past : Bool := match s.updImgLen with | some n => decide (n ≤ a) | none => false
    if slotSize ≤ a ∨ past then s0.updEnd 4
    else
      let bs := leBytes 4 w
      let k := s0.kct
      let s1 : State := if a < 4096 then
          { s0 with kct := { k with updHead := (List.range 4).foldl (fun m i => Store.set erased m (a + i) (bs.getD i 0)) k.updHead } }
        else
          let t := if s.flashOpen then s0 else s0.flashWaits
          { t with kct := { k with flash := programBytes k.flash (slotBase s.inactive + a) bs } }
      let s2 : State := { s1 with kct := { s1.kct with updNext := max k.updNext (a + 4) } }
      s2.wr .KCT_UPD_ADDR_ADDR 0 (a + 4)

/-- KCT_UPD_DATA_WRITE (R423). -/
def execKctUpdDataWrite (who : Requester) (w : Word) (s : State) : Host.Outcome State Fault Refusal :=
  .next (s.via who fun t => t.updData w.toNat)

/-- Program the bytes held on die. -/
def State.programHead (s : State) : State :=
  { s with kct := { s.kct with flash := programBytes s.kct.flash (slotBase s.inactive) (readBytes s.kct.updHead 0 4096),
                               updCommit := false } }

/-- COMMIT (R423): the header page is programmed once the window is open, and the check runs. -/
def State.updCommit (s : State) : State :=
  if s.rd .KCT_UPD_STATUS_USTATE ≠ 2 then s
  else
    let s1 := s.wr .KCT_UPD_STATUS_USTATE 0 3
    if s.flashOpen then s1.programHead
    else ({ s1 with kct := { s1.kct with updCommit := true } } : State).flashWaits

/-- KCT_UPD_COMMIT (R423). -/
def execKctUpdCommit (who : Requester) (s : State) : Host.Outcome State Fault Refusal :=
  .next (s.via who fun t => t.updCommit)

/-- ABORT (Table 189): the update ends and the slot stays invalid. -/
def State.updAbort (s : State) : State := if s.updating then (s.eraseInactive 0 4096).updEnd 0 else s

/-- KCT_UPD_ABORT (R427). -/
def execKctUpdAbort (who : Requester) (s : State) : Host.Outcome State Fault Refusal := .next (s.via who fun t => t.updAbort)

/-- UPDATE_WINDOW_TIMEOUT (R424, Table 187). -/
def execUpdateWindowTimeout (s : State) : Host.Outcome State Fault Refusal :=
  .next (if s.is .KCT_UPD_STATUS_WAITING && s.updating then (s.eraseInactive 0 4096).updEnd 1 else s)

/-- SLOT_A_OK, SLOT_B_OK, FAIL_A and FAIL_B of a slot that has been checked. -/
def State.showSlot (s : State) (b : Bool) (code : Nat) : State :=
  if b then (s.wrB .KCT_STATUS_SLOT_B_OK 0 (code == 0)).wr .KCT_STATUS_FAIL_B 0 code
  else (s.wrB .KCT_STATUS_SLOT_A_OK 0 (code == 0)).wr .KCT_STATUS_FAIL_A 0 code

/-- The check of the new image completes (R423): journalled as active, or its header is erased again. -/
def State.verifyDone (s : State) (readback : Bool) : State :=
  if s.rd .KCT_UPD_STATUS_USTATE ≠ 3 ∨ (s.kct.updCommit ∧ !s.flashOpen) then s
  else
    let s1 := if s.kct.updCommit then s.programHead else s
    let slot := s1.inactive
    let c := s1.checkSlot slot readback
    let s2 := s1.showSlot slot c.code
    let inUse := s.rd .KCT_STATUS_STATE ≠ 5
    if c.code ≠ 0 then ((s2.eraseInactive 0 4096).updEnd 2).wr .KCT_UPD_STATUS_UFAIL 0 c.code
    else if inUse ∧ c.header.seq ≤ s.rd .KCT_SEQ_SEQ then (s2.eraseInactive 0 4096).updEnd 3
    else
      let s3 := ((s2.updEnd 0).wr .KCT_UPD_STATUS_USTATE 0 4).roll .KCT_COUNT_UPDATES
      { s3 with kct := { s3.kct with slotB := slot } }

/-- KCT_VERIFY_DONE (R423); `readback` tells whether the slot could be read back. -/
def execKctVerifyDone (readback : Bool) (s : State) : Host.Outcome State Fault Refusal := .next (s.verifyDone readback)

/-! ### Policy cores (R421) -/

/-- Any write of PCR_KICK restarts the watchdog of core q. -/
def State.kick (s : State) (q w : Nat) : State :=
  let s1 := s.wr .PCR_KICK_KICK q w
  { s1 with kct := { s1.kct with kickAt := Store.set (fun _ => 0) s1.kct.kickAt q s.clk.tick } }

/-- PCR_KICK (R421). -/
def execPcrKick (q : CoreIx) (w : Word) (s : State) : Host.Outcome State Fault Refusal :=
  .next (s.via (.core q) fun t => t.kick q w.toNat)

/-- WDG_MS: below 10 acts as 10 (Table 190). -/
def State.wdgTicks (s : State) : Nat := 100 * max 10 (s.rd .PCR_CTRL_WDG_MS)

/-- What a core restart returns to reset (Table 194): the core's select copies and latches, and its local memory, which
takes its section of the image again. -/
def State.coreReset (s : State) (q : Nat) : State :=
  let s1 := [Field.CHZ_SEL_N, .GCE_SEL_N, .SDL_SEL_N, .FLO_SEL_N, .EMG_SEL_N, .COL_SEL_N, .CHZ_COEF_ADDR_TAP, .CHZ_COEF_ADDR_BANK,
    .CHZ_COEF_ADDR_AUTO_INC].foldl (fun t f => t.clr f q) (s.setReader q {})
  let m := eraseBytes s1.kct.localMem (262144 * q) 262144
  let code := (s1.verifiedSection (q + 1)).getD []
  { s1 with kct := { s1.kct with
      localMem := putBytes m (262144 * q) code
      kickAt := Store.set (fun _ => 0) s1.kct.kickAt q s.clk.tick } }

/-- CORE_WDG (R421): the watchdog has run out, or with `ecc` an uncorrectable error of the local memory; the core is
restarted, and its condition ends with the restart. -/
def execCoreWdg (q : CoreIx) (ecc : Bool) (s : State) : Host.Outcome State Fault Refusal :=
  .next (if !s.coreRuns q then s
    else if !ecc && decide (s.clk.tick < Store.get (fun _ => 0) s.kct.kickAt q + s.wdgTicks) then s
    else (((s.coreReset q).bump .PCR_COUNT_RESTARTS q).sendFault 0xB7 0x66 q).sendClear 0xB7 0x66)

/-- An access of core q that its map does not have (R421). -/
def State.accessFault (s : State) (q addr : Nat) : State := (s.wr .PCR_FAULT_ADDR q addr).bump .PCR_COUNT_FAULTS q

/-- Whether the address map of core q has a target at an address (Table 186). -/
def inCoreMap (a : Nat) : Bool :=
  decide (a < 0x40000 ∨ (0x10000000 ≤ a ∧ a < 0x10100000) ∨ (0x40000000 ≤ a ∧ a < 0x40080000))

/-- CORE_ACCESS_FAULT (R421, R435): an access outside the map, or a store to a field register narrower than 32 bits. -/
def execCoreAccessFault (q : CoreIx) (addr : Word) (s : State) : Host.Outcome State Fault Refusal :=
  .next (if inCoreMap addr.toNat && decide (addr.toNat < 0x40000000) then s
    else (if addr.toNat < 0x40000 then s else s.remote q).accessFault q addr.toNat)

end Sys2Proof.Machine
end

