-- ==== Sys2Proof/Machine/Mailbox.lean ====
section
/-!
DEFINITION. The mailbox between the host and field firmware (18_scrim_host.md R404, Table 173).
-/

namespace Sys2Proof.Machine

/-- A receiver owes one more credit: 0 REQ, 1 RSP, 2 EVT, 3 MBX to field, 4 MBX to host, 5 CAP (R288). -/
def State.owe (s : State) (k : Nat) : State :=
  { s with scr := { s.scr with owed := s.scr.owed.set k (s.scr.owed.getD k 0 + 1) } }

/-- Messages that the field end of Scrim sends and receives (Table 162). -/
def State.scrimSent (s : State) : State := s.tally 7 0x01 0
def State.scrimReceived (s : State) (k : Nat) : State := s.tally 7 0x02 0 k

/-- The 16 words of a message register array. -/
def State.messageOf (s : State) (f : Field) : List Word := (List.range 16).map fun i => BitVec.ofNat 32 (s.rd f i)

/-- Word i of a message. -/
def mword (m : List Word) (i : Nat) : Nat := (m.getD i 0).toNat

/-! ### The two directions (R387, R391, R404) -/

/-- Both ends hold the link to be up, so that a message crosses. -/
def State.scrimUp (s : State) : Bool := s.is .SCR_HSTATUS_FIELD_UP && s.is .SCR_FSTATUS_HOST_UP

/-- A SEND of the host: a full queue sets TX_FULL; while the field side is down the message waits, to be discarded. -/
def State.mbxSend (s : State) : State :=
  let c := s.rd .SCR_HCREDIT_MBX_TX
  if c = 0 then s.set1 .MBX_CTRL_TX_FULL
  else
    let s1 := s.wr .SCR_HCREDIT_MBX_TX 0 (c - 1)
    let m := s.messageOf .MBX_TX_WORD
    if s.scrimUp then
      ({ s1 with scr := { s1.scr with mbxField := s1.scr.mbxField ++ [m] } }).wr .SCR_MB_CTRL_RX_LEVEL 0
        (s1.scr.mbxField.length + 1) |>.scrimReceived 1
    else { s1 with scr := { s1.scr with mbxToField := s1.scr.mbxToField ++ [m] } }

/-- A POP of the host. -/
def State.mbxPop (s : State) : State :=
  match s.scr.mbxHost with
  | [] => s
  | _ :: rest => (({ s with scr := { s.scr with mbxHost := rest } }).wr .MBX_CTRL_RX_LEVEL 0 rest.length).owe 4

/-- A message leaves the field end: vector 1 when it arrives at the host. -/
def State.sendToHost (s : State) (m : List Word) : State :=
  let s1 := (s.wr .SCR_FCREDIT_MBX_TX 0 (s.rd .SCR_FCREDIT_MBX_TX - 1)).scrimSent
  if s.scrimUp then
    (({ s1 with scr := { s1.scr with mbxHost := s1.scr.mbxHost ++ [m] } }).wr .MBX_CTRL_RX_LEVEL 0
      (s1.scr.mbxHost.length + 1)).interrupt 1
  else { s1 with scr := { s1.scr with mbxToHost := s1.scr.mbxToHost ++ [m] } }

/-- A SEND of field firmware. -/
def State.scrMbSend (s : State) : State :=
  if s.rd .SCR_FCREDIT_MBX_TX = 0 then s.set1 .SCR_MB_CTRL_TX_FULL else s.sendToHost (s.messageOf .SCR_MB_TX_WORD)

/-- A POP of field firmware. -/
def State.scrMbPop (s : State) : State :=
  match s.scr.mbxField with
  | [] => s
  | _ :: rest =>
    (({ s with scr := { s.scr with mbxField := rest, staging := none } }).wr .SCR_MB_CTRL_RX_LEVEL 0 rest.length).owe 3

/-- MBX_SEND (R404). -/
def execMbxSend (s : State) : Host.Outcome State Fault Refusal := .next s.mbxSend

/-- MBX_POP (R404). -/
def execMbxPop (s : State) : Host.Outcome State Fault Refusal := .next s.mbxPop

/-- SCR_MB_SEND (R404). -/
def execScrMbSend (q : CoreIx) (s : State) : Host.Outcome State Fault Refusal := .next (s.via (.core q) fun t => t.scrMbSend)

/-- SCR_MB_POP (R404). -/
def execScrMbPop (q : CoreIx) (s : State) : Host.Outcome State Fault Refusal := .next (s.via (.core q) fun t => t.scrMbPop)

/-! ### The commands of Table 173, as field firmware of major version 3 serves them -/

def mailboxCommands : List Nat := [0x0001, 0x0010, 0x0011, 0x0020, 0x0030]

/-- Field firmware on core q has message `m` in front, and room for its reply. -/
def State.mailDue (s : State) (q : Nat) : Option (List Word) :=
  if s.coreRuns q && s.rd .KCT_ID_FW_MAJOR == 3 && decide (0 < s.rd .SCR_FCREDIT_MBX_TX) then s.scr.mbxField.head? else none

/-- The reply to message `m`: CMD + 0x8000, the number of words used, the same TAG, then `ws`; firmware writes SCR_MB_TX,
and takes the message from its queue. -/
def State.reply (s : State) (m : List Word) (ws : List Nat) : State :=
  let w0 := mword m 0
  let out := (bits 0 16 w0 + 0x8000) % 65536 + place 16 8 (ws.length + 1) + place 24 8 (bits 24 8 w0)
  let s1 := (List.range 16).foldl (fun t i => t.wr .SCR_MB_TX_WORD i ((out :: ws).getD i 0)) s
  s1.scrMbPop.scrMbSend

/-- Serve message `m` as command `cmd`: an unknown CMD answers 17, another known CMD is left to its own row. -/
def State.serve (s : State) (q cmd : Nat) (act : List Word → State) : State :=
  match s.mailDue q with
  | none => s
  | some m =>
    let c := bits 0 16 (mword m 0)
    if c = cmd then act m else if mailboxCommands.contains c then s else s.reply m [17]

/-- VERSION (R404). -/
def execVersion (q : CoreIx) (s : State) : Host.Outcome State Fault Refusal :=
  .next (s.serve q 0x0001 fun m => s.reply m [0, s.kct.fwVersion, s.rd .KCT_ID_KC_FORMAT])

/-- Field firmware writes BP_CTRL: the start declaration of that band path is no longer retried (R416). -/
def State.fwBpCtrl (s : State) (n : Nat) (enable apply : Bool) : State :=
  ({ s with kct := { s.kct with retry := s.kct.retry.filter (· != n) } }).bpWriteCtrl n enable apply

/-- The staged declaration of a BP_STAGE message (Table 173). -/
def State.stageWords (s : State) (n : Nat) (m : List Word) : State :=
  let put (f : Field) (i : Nat) (t : State) : State := t.wr f n (f.slice (mword m i))
  let route : List Field := [.BP_ROUTE_SRC_KIND, .BP_ROUTE_SRC_PORT, .BP_ROUTE_SRC_NODE, .BP_ROUTE_SRC_BP, .BP_ROUTE_DST_KIND,
    .BP_ROUTE_DST_PORT, .BP_ROUTE_STRIPE, .BP_ROUTE_GROUP]
  route.foldl (fun t f => put f 3 t) (((s.wr .BP_CTRL_SPAN n (mword m 2)).wr .BP_FREQ_FREQ n (mword m 4)).wr
    .BP_DST_FREQ_FREQ n (mword m 5))

/-- BP_STAGE: staged and applied at once; the reply waits for the check of R58, and carries its reject code. -/
def State.bpStageMail (s : State) (m : List Word) : State :=
  let n := mword m 1
  if 128 ≤ n then s.reply m [16]
  else match s.scr.staging with
    | some k => if (s.bp k).check.isSome then s else s.reply m [s.rd .BP_STATUS_REJECT k]
    | none =>
      if s.is .BP_STATUS_PENDING n then s.reply m [18]
      else
        let s1 := (s.stageWords n m).fwBpCtrl n (s.is .BP_CTRL_ENABLE n) true
        { s1 with scr := { s1.scr with staging := some n } }

/-- BP_STAGE (R404). -/
def execBpStage (q : CoreIx) (s : State) : Host.Outcome State Fault Refusal :=
  .next (s.serve q 0x0010 fun m => s.bpStageMail m)

/-- BP_ENABLE of the mailbox (R404). -/
def execMbxBpEnable (q : CoreIx) (s : State) : Host.Outcome State Fault Refusal :=
  .next (s.serve q 0x0011 fun m =>
    let n := mword m 1
    if 128 ≤ n then s.reply m [16] else (s.fwBpCtrl n (bit 0 (mword m 2)) false).reply m [0])

/-- DELAY of the mailbox: STEP_OK, then the target, with Table 85's code as the status (R404). -/
def execDelay (q : CoreIx) (s : State) : Host.Outcome State Fault Refusal :=
  .next (s.serve q 0x0020 fun m =>
    let n := mword m 1
    if 128 ≤ n then s.reply m [16]
    else
      let s1 := (s.wrB .FLO_CTRL_STEP_OK n (bit 0 (mword m 4))).updBp n fun x =>
        { x with dly := { x.dly with stagedLo := some (mword m 2) } }
      let s2 := s1.writeTargetHi n (mword m 3)
      s2.reply m [s2.rd .FLO_STATUS_REJECT n])

/-- CEILING of the mailbox (R404). -/
def execCeiling (q : CoreIx) (s : State) : Host.Outcome State Fault Refusal :=
  .next (s.serve q 0x0030 fun m =>
    let n := mword m 1
    if 128 ≤ n then s.reply m [16] else (s.writeFwCeil n (mword m 2 % 65536)).reply m [0])

end Sys2Proof.Machine
end

