-- ==== Sys2Proof/Machine/Access.lean ====
section
/-!
DEFINITION. Reads and writes of registers (20_register_map.md R428, R432 to R437, R439): what each access code does for
each requester, the registers whose write or read does more, and the latches of wide values.
-/

namespace Sys2Proof.Machine

/-! ### MSI-X (R396, R397) -/

/-- A word of the MSI-X table at reset: vector control with its mask bit set. -/
def msixReset (w : Nat) : Word := if w % 4 = 3 then 1 else 0

/-- A pending interrupt is delivered at unmask. -/
def State.msixDeliver (s : State) (v : Nat) : State :=
  if bit v s.scr.pba && !(Store.get msixReset s.scr.msix (4 * v + 3)).getLsbD 0 then
    ({ s with scr := { s.scr with pba := s.scr.pba - 2 ^ v } }).interrupt v
  else s

/-- A write of word `i` of the MSI-X table. -/
def State.msixWrite (s : State) (i w : Nat) : State :=
  ({ s with scr := { s.scr with msix := Store.set msixReset s.scr.msix i (BitVec.ofNat 32 w) } }).msixDeliver (i / 4)

/-- MSIX_UNMASK (R397). -/
def execMsixUnmask (v : BitVec 5) (s : State) : Host.Outcome State Fault Refusal :=
  let i := 4 * v.toNat + 3
  .next (s.msixWrite i (Store.get msixReset s.scr.msix i &&& 0xFFFFFFFE#32).toNat)

/-- A write of SCR_FW_IRQ (R397): no effect while the host is absent (R391). -/
def State.fwIrq (s : State) (w : Nat) : State :=
  if s.is .SCR_FSTATUS_HOST_UP then ((List.range 16).filter fun b => bit b w).foldl (fun t b => t.raise (16 + b)) s else s

/-- SCR_FW_IRQ_WRITE (R397). -/
def execScrFwIrqWrite (q : CoreIx) (w : Word) (s : State) : Host.Outcome State Fault Refusal :=
  .next (s.via (.core q) fun t => t.fwIrq w.toNat)

/-! ### Writes (R432, R433) -/

/-- A write to one field by its access code (Table 192). -/
def State.storeField (s : State) (who : Requester) (w : Nat) (x : Field × Nat) : State :=
  match x.1.row.access with
  | .rw => s.wr x.1 x.2 (x.1.slice w)
  | .fw => if isHost who then s else s.wr x.1 x.2 (x.1.slice w)
  | .w1c => s.wr x.1 x.2 (s.rd x.1 x.2 - Nat.land (s.rd x.1 x.2) (x.1.slice w))
  | _ => s

/-- A write to every field of a register. -/
def State.storeFields (s : State) (who : Requester) (w : Nat) (fs : List (Field × Nat)) : State :=
  fs.foldl (fun t x => t.storeField who w x) s

/-- A write of BP_CTRL (Table 26, R61): MUTE from anyone, the rest from field firmware; while a check is pending SPAN and
APPLY are ignored, with BUSY, ENABLE = 0 cancels, and ENABLE acts as in `bpEnable`. A pending write that leaves SPAN as it
stands and does not set APPLY ignores nothing and sets no BUSY (DESIGN CHOICE, log entry 30). -/
def State.writeBpCtrl (s : State) (host : Bool) (n w : Nat) : State :=
  let s1 := s.wr .BP_CTRL_MUTE n (bits 2 1 w)
  if host then s1
  else
    let s2 : State := { s1 with kct := { s1.kct with retry := s1.kct.retry.filter (· != n) } }
    if s.is .BP_STATUS_PENDING n then
      let s3 := if bit 1 w || decide (bits 16 16 w ≠ s.rd .BP_CTRL_SPAN n) then s2.set1 .BP_STATUS_BUSY n else s2
      if bit 0 w then s3.bpEnable n else s3.bpDisable n
    else (s2.wr .BP_CTRL_SPAN n (bits 16 16 w)).bpWriteCtrl n (bit 0 w) (bit 1 w)

/-- A write of CHZ_CTRL (Table 57). -/
def State.writeChzCtrl (s : State) (n w : Nat) : State :=
  let s1 := (s.wr .CHZ_CTRL_REQ_BANK n (bits 2 2 w)).wr .CHZ_CTRL_FADE n (bits 4 4 w)
  let s2 := if bit 0 w then s1.writeSync n else s1
  let s3 := if bit 1 w then s2.requestSwap n (bits 2 2 w) (bits 4 4 w) else s2
  if bit 8 w then s3.writeCheck n (bit 9 w) else s3.wr .CHZ_CTRL_CHK_BANK n (bits 9 1 w)

/-- A write of KCT_UPD_CTRL (Table 189). -/
def State.writeUpdCtrl (s : State) (who : Requester) (w : Nat) : State :=
  let s1 := if bit 0 w then s.updStart who else s
  let s2 := if bit 1 w then s1.updCommit else s1
  if bit 2 w then s2.updAbort else s2

/-- A write of KCT_RESTART: the key requests a field reset; host writes need HOST_UPD_EN (Table 189). -/
def State.writeRestart (s : State) (who : Requester) (w : Nat) : State :=
  if isHost who && !s.hostMay then s else s.wr .KCT_RESTART_KEY 0 w

/-- A write of a mailbox control register: TX_FULL, SEND, POP. -/
def State.writeMbCtrl (s : State) (w : Nat) (full : Field) (send pop : State → State) : State :=
  let s1 := if bit 2 w then s.clr full else s
  let s2 := if bit 0 w then send s1 else s1
  if bit 1 w then pop s2 else s2

/-- A write of FRS_FW_CTRL (Table 160). -/
def State.writeFrsFwCtrl (s : State) (w : Nat) : State :=
  let s1 := s.wr .FRS_FW_CTRL_SOURCE 0 (bits 8 8 w)
  if bit 0 w then s1.firmwareRecord else s1

/-- A write of LANE_CTRL (R265). -/
def State.writeLaneCtrl (s : State) (l w : Nat) : State :=
  let s1 := s.writeLaneEn l (bit 0 w)
  if bit 1 w then s1.retrainLane l else s1

/-- A write of FE_PILOT_CTRL (Table 49). -/
def State.writePilotCtrl (s : State) (p w : Nat) : State :=
  (((s.wr .FE_PILOT_CTRL_SHIFT_NEG p (bits 2 1 w)).wr .FE_PILOT_CTRL_LEVEL p (bits 4 8 w)).wr .FE_PILOT_CTRL_PERIOD p
    (bits 16 16 w)).writePilotMode p (bits 0 2 w)

/-- A write of FLO_TARGET_LO waits for the write of HI (R198). -/
def State.writeTargetLo (s : State) (n w : Nat) : State :=
  s.updBp n fun x => { x with dly := { x.dly with stagedLo := some w } }

/-- The registers that any requester may write and whose write does more than store; `f` is the first field of the
register and `i` its instance. None: the access codes say it all. -/
def State.writeShared (s : State) (who : Requester) (f : Field) (i w : Nat) (fs : List (Field × Nat)) : Option State :=
  match f with
  | .KCT_UPD_CTRL_START => some (s.writeUpdCtrl who w)
  | .KCT_UPD_DATA_DATA => some (s.updData w)
  | .KCT_RESTART_KEY => some (s.writeRestart who w)
  | .FCL_CTRL_ACK => some (s.writeFclCtrl w (!isHost who))
  | .FCL_CLASS_SEL_SOURCE => some (s.storeFields who w fs).showClass
  | .FRS_CLR_CODE_HI_CODE => some (s.writeClearHi w)
  | .FRS_RD_SEL_SLOT => some (s.writeRdSel w)
  | .CNT_CTRL_FW_HOLD => some (s.writeCntCtrl who w)
  | .CNT_SEL_EVENT => some (s.writeCntSel who i w)
  | .CNT_HI_COUNT_HI => some (s.writeCntHi i w)
  | .PWM_FLT_POL => some (((List.range 4).filter fun b => bit (8 + b) w).foldl (fun t b => t.fltClear b) s)
  | .BP_CTRL_ENABLE => some (s.writeBpCtrl (isHost who) i w)
  | .PLN_RD_ADDR_BIN => some (s.readPlain w)
  | .DMA_CTRL_EN => some (s.writeDmaCtrl i w)
  | .DMA_BASE_LO_ADDR => some (if s.is .DMA_CTRL_EN i then s else s.wr .DMA_BASE_LO_ADDR i (w / 4096 * 4096))
  | .DMA_BASE_HI_ADDR => some (if s.is .DMA_CTRL_EN i then s else s.wr .DMA_BASE_HI_ADDR i w)
  | .DMA_SIZE_SIZE => some (if s.is .DMA_CTRL_EN i then s else s.wr .DMA_SIZE_SIZE i w)
  | .DMA_HEAD_HEAD => some (s.writeDmaHead i w)
  | .MBX_CTRL_SEND => some (s.writeMbCtrl w .MBX_CTRL_TX_FULL State.mbxSend State.mbxPop)
  | _ => none

/-- The same for the registers that field firmware alone may write; `q` is the requester's index. -/
def State.writeFirmware (s : State) (q : Nat) (f : Field) (i w : Nat) (fs : List (Field × Nat)) : Option State :=
  let who : Requester := .loader
  let staged : State := if s.is .BP_STATUS_PENDING i then s.set1 .BP_STATUS_BUSY i else s.storeFields who w fs
  match f with
  | .PCR_KICK_KICK => some (s.kick i w)
  | .FCL_ACK_CLASS_SOURCE => some (s.writeAckClass w)
  | .FCL_RELEASE_UNIT => some (s.writeRelease w)
  | .FCL_INJECT_HI_DETAIL => some (s.inject w)
  | .FRS_FW_CTRL_COMMIT => some (s.writeFrsFwCtrl w)
  | .CNT_PS_DATA_WORD => some s
  | .THM_LIM1_RESTART => some (s.writeFwWarn i (bits 16 16 w))
  | .MON_CTRL_SCAN_EN => some (s.writeMonCtrl i w)
  | .MON_SCAN_MASK => some (s.writeMonScan i w)
  | .MON_URGENT_CH => some (s.writeUrgent i w)
  | .MON_QUEUE_ENTRY => some s
  | .PWM_CTRL_ARM => some (s.writePwmCtrl i w)
  | .PWM_FALL_COUNT => some (s.commitPwm i w)
  | .PWM_DUTY_MAX_DUTY => some (s.writeLimit i 0 (bits 16 16 w))
  | .PWM_ILIM_I_LIM => some (s.writeLimit i 1 (bits 16 16 w))
  | .PWM_VLIM_V_LIM => some (s.writeLimit i 2 (bits 16 16 w))
  | .SCR_FW_IRQ_RAISE => some (s.fwIrq w)
  | .SCR_MB_CTRL_SEND => some (s.writeMbCtrl w .SCR_MB_CTRL_TX_FULL State.scrMbSend State.scrMbPop)
  | .BP_ROUTE_SRC_KIND => some staged
  | .BP_FREQ_FREQ => some staged
  | .BP_DST_FREQ_FREQ => some staged
  | .CHZ_CTRL_SYNC => some (s.writeChzCtrl i w)
  | .CHZ_COEF_DATA_COEF => some (s.writeCoefData q w)
  | .GCE_CEIL_HARD_CEIL => some (s.writeFwCeil i (bits 16 16 w))
  | .GCE_SLEW_SP_SLEW => some (s.writeFwSlew i (bits 16 16 w))
  | .SDL_TARGET_TARGET => some (s.writeTarget i (bits 0 16 w))
  | .SDL_WATCH_BP => some (s.watchWrite (i / 15) (i % 15) w)
  | .FLO_TARGET_LO_TARGET => some (s.writeTargetLo i w)
  | .FLO_TARGET_HI_TARGET => some (s.writeTargetHi i w)
  | .FLO_SLEW_DLY_SLEW => some (s.writeDlySlew (bits 16 16 w))
  | .EMG_BP_CTRL_EMIT_BACKOFF => some (s.writeBackoff i (bits 0 16 w))
  | .PLN_T_FIRST_FIRST => some (s.commitRange w)
  | .PLB_SLEW_PHASE_SLEW => some (s.writePhaseSlew (bits 16 16 w))
  | .PLB_TOD_HI_SEC_HI => some (s.writeTod w)
  | .LANE_CTRL_EN => some (s.writeLaneCtrl i w)
  | .FE_CTRL_RX_EN => some (s.writeFeCtrl i w)
  | .FE_PILOT_CTRL_MODE => some (s.writePilotCtrl i w)
  | _ => none

/-- A write to the register with fields `fs`. -/
def State.writeFields (s : State) (who : Requester) (w : Nat) (fs : List (Field × Nat)) : State :=
  match fs with
  | [] => s
  | (f, i) :: _ =>
    match s.writeShared who f i w fs with
    | some t => t
    | none =>
      if isHost who then s.storeFields who w fs
      else (s.writeFirmware (requesterIx who) f i w fs).getD (s.storeFields who w fs)

/-- The word supplies other bits for some KL field than it holds (R433). -/
def State.breaksLock (s : State) (w : Nat) (fs : List (Field × Nat)) : Bool :=
  s.is .KCT_STATUS_LOCKED && fs.any fun x => x.1.locked && x.1.slice w != s.rd x.1 x.2

/-- The field side takes no host write outside the KCT block while it loads (R434), nor in NO_IMAGE (R425). -/
def State.hostShut (s : State) (who : Requester) (off : Nat) : Bool :=
  isHost who && decide (0x1000 ≤ off ∧ off < 0x80000 ∧ (s.rd .KCT_STATUS_STATE ≤ 3 ∨ s.rd .KCT_STATUS_STATE = 5))

/-- A 32-bit write of `w` at `off` by `who`, at the register. -/
def State.writeReg (s : State) (who : Requester) (off w : Nat) : State :=
  if 0x81800 ≤ off ∧ off < 0x81A00 then s.msixWrite ((off - 0x81800) / 4) w
  else if s.hostShut who off then s
  else
    let t := s.regAt who off
    if t.view then s
    else (if s.breaksLock w t.fields then s.bump .KCT_COUNT_KL_WRITES else s).writeFields who w t.fields

/-! ### Reads (R432, R437) -/

/-- The registers whose name ends in _LO with every field RO, and their _HI registers (R437). -/
def widePairs : List (Field × Field) :=
  [(.FRS_NEXT_LO_SEQ, .FRS_NEXT_HI_SEQ), (.FRS_FLUSHED_LO_SEQ, .FRS_FLUSHED_HI_SEQ), (.FRS_OLDEST_LO_SEQ, .FRS_OLDEST_HI_SEQ),
   (.FRS_NONCE_LO_NONCE, .FRS_NONCE_HI_NONCE), (.CHZ_SRC_GD_LO_GD_LO, .CHZ_SRC_GD_HI_GD_HI),
   (.CHZ_DST_GD_LO_GD_LO, .CHZ_DST_GD_HI_GD_HI), (.FLO_APPLIED_LO_APPLIED, .FLO_APPLIED_HI_APPLIED),
   (.FLO_MIN_LO_DMIN, .FLO_MIN_HI_DMIN), (.FLO_AGE_LO_AGE, .FLO_AGE_HI_AGE), (.FLO_LDST_LO_LDST, .FLO_LDST_HI_LDST),
   (.PLB_ROOT_UID_LO_UID, .PLB_ROOT_UID_HI_UID), (.COL_ID_LO_ID_LO, .COL_ID_HI_ID_HI),
   (.LANE_PEER_UID_LO_UID_LO, .LANE_PEER_UID_HI_UID_HI), (.PLB_LDLY_LO_D_LO, .PLB_LDLY_HI_D_HI),
   (.FE_PILOT_DLY_LO_DLY_LO, .FE_PILOT_DLY_HI_DLY_HI)]

/-- In a host view every field is RO, that of FLO_TARGET_LO too (R198, R437). -/
def widePairsAt (view : Bool) : List (Field × Field) :=
  if view then (.FLO_TARGET_LO_TARGET, .FLO_TARGET_HI_TARGET) :: widePairs else widePairs

/-- A read of a wide _LO register latches its _HI value for the requester. -/
def State.latchWide (s : State) (who : Requester) (view : Bool) (f : Field) (i : Nat) : State :=
  match (widePairsAt view).find? fun p => p.1 == f with
  | some (_, hi) =>
    let q := requesterIx who
    s.setReader q { s.reader q with wide := some { off := fieldKey hi i, word := BitVec.ofNat 32 (s.rd hi i) } }
  | none => s

/-- The current value of a field, for the fields whose value no register stores. -/
def State.fieldWord (s : State) (x : Field × Nat) : Nat :=
  match x.1 with
  | .FRS_WIN_BYTES => s.frsWin x.2
  | .SCR_MB_RX_WORD => mword (s.scr.mbxField.headD []) x.2
  | .MBX_RX_WORD => mword (s.scr.mbxHost.headD []) x.2
  | .PLB_TIME1_NS_HI => bits 32 14 (timeBits s.now)
  | .PLB_TIME1_SEC_LO => bits 46 18 (timeBits s.now)
  | .PLB_TIME2_SEC_HI => bits 64 32 (timeBits s.now)
  | f => s.rd f x.2

/-- What a read of the fields returns: the latched word where the requester's latch is for this register. -/
def State.readWord (s : State) (who : Requester) (fs : List (Field × Nat)) : Nat :=
  let now := (fs.map fun x => place x.1.row.lo x.1.row.width (s.fieldWord x)).sum
  let r := s.reader (requesterIx who)
  match fs with
  | (f, i) :: _ =>
    match f, r.wide, r.time1, r.time2 with
    | .PLB_TIME1_NS_HI, _, some w, _ => w.toNat
    | .PLB_TIME2_SEC_HI, _, _, some w => w.toNat
    | _, some l, _, _ => if l.off = fieldKey f i then l.word.toNat else now
    | _, none, _, _ => now
  | [] => 0

/-- RC fields clear in the cycle of the read (R432). -/
def State.clearRead (s : State) (fs : List (Field × Nat)) : State :=
  fs.foldl (fun t x => if x.1.row.access = .rc then t.clr x.1 x.2 else t) s

/-- In NO_IMAGE the host reads every field outside the KCT block as its reset value (Table 185). -/
def resetWord (fs : List (Field × Nat)) : Nat :=
  (fs.map fun x => place x.1.row.lo x.1.row.width (fieldReset (fieldKey x.1 x.2))).sum

/-- A 32-bit read at `off` by `who`, at the register: the word goes to the requester's `data`. -/
def State.readReg (s : State) (who : Requester) (off : Nat) : State :=
  let t := s.regAt who off
  if 0x81800 ≤ off ∧ off < 0x81A00 then s.answer who (Store.get msixReset s.scr.msix ((off - 0x81800) / 4)).toNat
  else if off = 0x81A00 then s.answer who s.scr.pba
  else if isHost who ∧ 0x1000 ≤ off ∧ off < 0x80000 ∧ s.rd .KCT_STATUS_STATE = 5 then s.answer who (resetWord t.fields)
  else match t.fields with
    | [] => s.answer who 0
    | (f, i) :: _ =>
      let plain : State := ((s.answer who (s.readWord who t.fields)).latchWide who t.view f i)
      if t.view then plain
      else match f with
        | .CNT_LO_COUNT_LO => s.readCntLo who i
        | .CNT_HI_COUNT_HI => s.readCntHi who i
        | .CNT_PS_DATA_WORD => s.readPsData who
        | .CNT_PS_WIN_WORD =>
          if isHost who && !s.is .CNT_CTRL_HOST_RD then (s.set1 .CNT_STATUS_HOST_REFUSED).answer who 0
          else s.answer who (s.sampleWin i)
        | .PLB_TIME0_FRAC => s.readTime0 (requesterIx who)
        | .MON_QUEUE_ENTRY =>
          let s1 := s.answer who (s.monOldest i).toNat
          if isHost who then s1 else s1.monPop i
        | .CHZ_COEF_DATA_COEF => (s.answer who (s.coefWord i)).advanceTap i
        | _ => plain.clearRead t.fields

/-! ### The commands -/

/-- What an access of a requester meets before any register: a debugger without DEBUG_EN does not exist (R422); a policy
core has no host half and no narrow or unaligned store (R421, R435), and each access counts as remote (R382); for the host the
field half is absent while it is down (R390), and an access that is not aligned is an unsupported request (R394). -/
def State.access (s : State) (who : Requester) (off : Nat) (store : Bool) (act : State → State) : State :=
  match who with
  | .host =>
    if off % 4 ≠ 0 then s.report 5
    else if off < 0x80000 ∧ !s.is .SCR_HSTATUS_FIELD_UP then s.absentAccess (if store then none else some 1)
    else act s
  | .loader => if 0x80000 ≤ off ∨ off % 4 ≠ 0 then s else act s
  | .core q =>
    let t := s.remote q
    if 0x80000 ≤ off ∨ (store ∧ off % 4 ≠ 0) then t.accessFault q (0x40000000 + off) else act t
  | .debugger q =>
    if !s.is .KCT_CFG_DEBUG_EN then s
    else if 0x80000 ≤ off ∨ (store ∧ off % 4 ≠ 0) then s.accessFault q (0x40000000 + off) else act s

/-- REGISTER_WRITE (R432). -/
def execRegisterWrite (who : Requester) (off : BitVec 20) (w : Word) (s : State) : Host.Outcome State Fault Refusal :=
  .next (s.access who off.toNat true fun t => t.writeReg who off.toNat w.toNat)

/-- REGISTER_READ_CLEAR (R432). -/
def execRegisterReadClear (who : Requester) (off : BitVec 20) (s : State) : Host.Outcome State Fault Refusal :=
  .next (s.access who off.toNat false fun t => t.readReg who (off.toNat / 4 * 4))

/-- WIDE_LO_READ (R437). -/
def execWideLoRead (who : Requester) (off : BitVec 20) (s : State) : Host.Outcome State Fault Refusal :=
  .next (s.access who off.toNat false fun t => t.readReg who (off.toNat / 4 * 4))

end Sys2Proof.Machine
end

