-- ==== Sys2Proof/Machine/Scrim.lean ====
section
/-!
DEFINITION. Scrim (18_scrim_host.md R386 to R391, R395, R397; 11_conservation.md R288): host accesses of the field half as
REQ and RSP messages, EVT messages, credits, the loss of the link and its re-establishment, and a reset of die B.
-/

namespace Sys2Proof.Machine

/-! ### Host accesses of the field half (R387 to R389) -/

/-- Words of a host access: one, or two for a 64-bit access. -/
def accessWords (wide : Bool) : Nat := if wide then 2 else 1

/-- The REQ messages of an access, the lower address first. -/
def reqsOf (a : HostAccess) : List HostReq :=
  (List.range (accessWords a.wide)).map fun i =>
    { off := a.off + 4 * i, write := a.writes.map fun ws => ws.getD i 0 }

/-- An access becomes REQ messages, each with a credit. -/
def State.sendReqs (s : State) (a : HostAccess) : State :=
  let s1 := (s.wr .SCR_HCREDIT_REQ 0 (s.rd .SCR_HCREDIT_REQ - accessWords a.wide)).scrimReceived (accessWords a.wide)
  { s1 with scr := { s1.scr with
      reqs := s1.scr.reqs ++ reqsOf a
      reads := if a.writes.isNone then s1.scr.reads ++ [accessWords a.wide] else s1.scr.reads } }

/-- The endpoint takes stalled accesses, oldest first, while credits last (R389). -/
def State.takeStalled : List HostAccess → State → State
  | [], s => { s with scr := { s.scr with stalled := [] } }
  | a :: rest, s =>
    if accessWords a.wide ≤ s.rd .SCR_HCREDIT_REQ then State.takeStalled rest (s.sendReqs a)
    else { s with scr := { s.scr with stalled := a :: rest } }

/-- A naturally aligned access of the field half. -/
def State.hostAccess (s : State) (a : HostAccess) (masked : Bool) : State :=
  let dropped := masked && a.writes.isSome
  let s1 := if dropped then s.bump .SCR_HCOUNT_PARTIAL_WR else s
  if !s.is .SCR_HSTATUS_FIELD_UP then s1.absentAccess (if a.writes.isNone then some (accessWords a.wide) else none)
  else if dropped then s1
  else State.takeStalled (s.scr.stalled ++ [a]) s

/-- HOST_FIELD_ACCESS (R389, R394): `masked` is a write with partial byte enables. An access that is not naturally aligned
is an unsupported request; one of the host half is not one of these. -/
def execHostFieldAccess (off : BitVec 20) (wide : Bool) (write : Option Word64) (masked : Bool) (s : State) :
    Host.Outcome State Fault Refusal :=
  let a : HostAccess := { off := off.toNat, wide := wide,
                          writes := write.map fun (w : Word64) => [w.setWidth 32, (w >>> 32).setWidth 32] }
  .next (if 0x80000 ≤ off.toNat then s
    else if off.toNat % (4 * accessWords wide) ≠ 0 then s.report 5 else s.hostAccess a masked)

/-- SCRIM_REQ (R388): the field end serves the oldest REQ message; a read waits for an RSP credit. -/
def State.serveReq (s : State) : State :=
  match s.scr.reqs with
  | [] => s
  | m :: rest =>
    let s1 : State := State.owe { s with scr := { s.scr with reqs := rest } } 0
    match m.write with
    | some w => s1.writeReg .host m.off w.toNat
    | none =>
      if s.rd .SCR_FCREDIT_RSP = 0 then s
      else
        let s2 := (s1.readReg .host m.off)
        let s3 := (s2.wr .SCR_FCREDIT_RSP 0 (s2.rd .SCR_FCREDIT_RSP - 1)).scrimSent
        { s3 with scr := { s3.scr with rsps := s3.scr.rsps ++ [(s3.reader 5).data] } }

/-- SCRIM_REQ (R388). -/
def execScrimReq (s : State) : Host.Outcome State Fault Refusal :=
  .next (if s.kct.powered && s.is .SCR_FSTATUS_HOST_UP then s.serveReq else s)

/-- SCRIM_RSP (R389): the result goes to the oldest read, which completes with all its words. -/
def execScrimRsp (s : State) : Host.Outcome State Fault Refusal :=
  .next (match s.scr.rsps, s.scr.reads with
    | w :: rest, k :: reads =>
      if !s.is .SCR_HSTATUS_FIELD_UP then s
      else
        let got := s.scr.partRead ++ [w]
        let s1 : State := { s with scr := { s.scr with rsps := rest } }
        let s2 := s1.owe 1
        if got.length < k then { s2 with scr := { s2.scr with partRead := got } }
        else { s2 with scr := { s2.scr with partRead := [], reads := reads, hostRead := got } }
    | _, _ => s)

/-- SCR_HSYNC_READ (R388): it returns 0 once no field access of the host is outstanding. -/
def execScrHsyncRead (s : State) : Host.Outcome State Fault Refusal :=
  .next (if s.scr.reqs = [] ∧ s.scr.reads = [] ∧ s.scr.stalled = [] then { s with scr := { s.scr with hostRead := [0] } } else s)

/-- EVT_MESSAGE (R397): the oldest waiting cause goes to the host. -/
def execEvtMessage (s : State) : Host.Outcome State Fault Refusal :=
  .next (match s.scr.evts with
    | [] => s
    | v :: rest =>
      if s.is .SCR_HSTATUS_FIELD_UP && s.is .SCR_FSTATUS_HOST_UP && decide (0 < s.rd .SCR_FCREDIT_EVT) then
        let s1 : State := State.scrimSent { s with scr := { s.scr with evts := rest } }
        ((s1.wr .SCR_FCREDIT_EVT 0 (s1.rd .SCR_FCREDIT_EVT - 1)).owe 2).interrupt v
      else s)

/-! ### Losing the link (R386, R390, R391) -/

/-- The host end declares the field side down (R390). Writes that the field end has not served stay in flight: they are
applied or discarded whole, and UNSURE_WR counts them. -/
def State.fieldLost (s : State) : State :=
  if !s.is .SCR_HSTATUS_FIELD_UP then s
  else
    let s1 := (s.clr .SCR_HSTATUS_FIELD_UP).bump .SCR_HCOUNT_UNSURE_WR 0 (s.scr.reqs.filter fun m => m.write.isSome).length
    let s2 := s.scr.reads.foldl (fun t k => t.absentAccess (some k)) s1
    let s3 := s.scr.stalled.foldl
      (fun t a => t.absentAccess (if a.writes.isNone then some (accessWords a.wide) else none)) s2
    let s4 : State := { s3 with scr := { s3.scr with reads := [], partRead := [], stalled := [] } }
    (s4.stopRings .DMA_STATUS_FIELD_LOST).hostCause 0

/-- FIELD_DOWN (R390). -/
def execFieldDown (s : State) : Host.Outcome State Fault Refusal := .next s.fieldLost

/-- HOST_ABSENT (R391). -/
def execHostAbsent (s : State) : Host.Outcome State Fault Refusal := .next (s.clr .SCR_FSTATUS_HOST_UP)

/-- The lane counts that each end shows. -/
def State.showScrim (s : State) : State := (s.wr .SCR_HSTATUS_LANES_RX 0 s.scr.toHost).wr .SCR_FSTATUS_LANES_RX 0 s.scr.toField

/-- SCRIM_LANE_DROP (R386): below 4 good lanes the link is lost. -/
def State.laneDrop (s : State) (toHost : Bool) : State :=
  let x : Scrim := if toHost then { s.scr with toHost := s.scr.toHost - 1 } else { s.scr with toField := s.scr.toField - 1 }
  let s1 := (({ s with scr := x } : State).showScrim.hostCause 2).refreshLimit
  if 4 ≤ s1.scr.toHost ∧ 4 ≤ s1.scr.toField then s1 else s1.fieldLost.sendFault 0xB5 0x63

/-- SCRIM_LANE_DROP (R386). -/
def execScrimLaneDrop (toHost : Bool) (s : State) : Host.Outcome State Fault Refusal := .next (s.laneDrop toHost)

/-! ### Re-establishment (R288, R390) -/

/-- Both ends discard every queued and in-flight message and hold full credits. -/
def State.discardMessages (s : State) : State :=
  let s1 : State := { s with scr := { s.scr with
    reqs := [], stalled := [], rsps := [], partRead := [], reads := [], evts := [], mbxToField := [], mbxToHost := [],
    mbxField := [], mbxHost := [], staging := none, owed := [0, 0, 0, 0, 0, 0], capCredit := 256 } }
  let full : List (Field × Nat) := [(.SCR_HCREDIT_REQ, 32), (.SCR_HCREDIT_MBX_TX, 16), (.SCR_FCREDIT_RSP, 32), (.SCR_FCREDIT_EVT, 16),
    (.SCR_FCREDIT_MBX_TX, 16), (.SCR_FCREDIT_CAP8, 32), (.SCR_MB_CTRL_RX_LEVEL, 0), (.MBX_CTRL_RX_LEVEL, 0)]
  (full.foldl (fun t x => t.wr x.1 0 x.2) s1).setReader 5 {}

/-- Scrim runs again with these good lanes. -/
def State.scrimSync (s : State) (toHost toField : Nat) : State :=
  let s1 := s.fieldLost.discardMessages
  let s2 := ({ s1 with scr := { s1.scr with toHost := toHost, toField := toField } } : State).showScrim.refreshLimit
  (((s2.set1 .SCR_HSTATUS_FIELD_UP).set1 .SCR_FSTATUS_HOST_UP).roll .SCR_HSTATUS_LINK_EPOCH).hostCause 1 |>.sendClear 0xB5 0x63

/-- SCRIM_SYNC (R288, R386): the field side is powered, and each direction has at least 4 of its 8 lanes. -/
def execScrimSync (toHost toField : Fin 9) (s : State) : Host.Outcome State Fault Refusal :=
  .next (if s.kct.powered && decide (4 ≤ toHost.val) && decide (4 ≤ toField.val) then s.scrimSync toHost toField else s)

/-- Give back `k` credits of a field. -/
def State.giveBack (s : State) (f : Field) (k : Nat) : State := s.wr f 0 (s.rd f + k)

/-- The credits that a receiver owes, of the listed classes. -/
def State.owes (s : State) (ks : List Nat) : Bool := ks.any fun k => decide (0 < s.scr.owed.getD k 0)

/-- The LINK messages toward the host return REQ and mailbox credits; vector 2 when the mailbox was full (Table 170). -/
def State.creditsToHost (s : State) : State :=
  let k := s.scr.owed.getD 3 0
  let full := s.rd .SCR_HCREDIT_MBX_TX == 0
  let s0 := if s.owes [0, 3] then s.scrimSent else s
  let s1 := (s0.giveBack .SCR_HCREDIT_REQ (s.scr.owed.getD 0 0)).giveBack .SCR_HCREDIT_MBX_TX k
  let s2 : State := { s1 with scr := { s1.scr with owed := (s1.scr.owed.set 0 0).set 3 0 } }
  let s3 := if full && decide (0 < k) then s2.interrupt 2 else s2
  State.takeStalled s3.scr.stalled s3

/-- The LINK messages toward the field return RSP, EVT, mailbox and CAP credits. -/
def State.creditsToField (s : State) : State :=
  let o := s.scr.owed
  let cap := s.scr.capCredit + o.getD 5 0
  let s0 := if s.owes [1, 2, 4, 5] then s.scrimReceived 1 else s
  let s1 := (((s0.giveBack .SCR_FCREDIT_RSP (o.getD 1 0)).giveBack .SCR_FCREDIT_EVT (o.getD 2 0)).giveBack .SCR_FCREDIT_MBX_TX
    (o.getD 4 0)).wr .SCR_FCREDIT_CAP8 0 (cap / 8)
  { s1 with scr := { s1.scr with capCredit := cap, owed := (((o.set 1 0).set 2 0).set 4 0).set 5 0 } }

/-- SCRIM_CREDIT_RETURN (R288). -/
def execScrimCreditReturn (s : State) : Host.Outcome State Fault Refusal :=
  let s1 := if s.is .SCR_HSTATUS_FIELD_UP then s.creditsToHost else s
  .next (if s1.is .SCR_FSTATUS_HOST_UP then s1.creditsToField else s1)

/-! ### A reset of die B (R395) -/

/-- The register behind a store key lies in the host half. -/
def hostHalf (k : Nat) : Bool := decide (0x80000 ≤ (Field.ofNat (k % 1024)).row.off)

/-- Host registers, MSI-X table, capture rings and mailbox queues return to reset; the field side and the die's temperature
protection (R405) are unaffected. -/
def State.dieBReset (s : State) : State :=
  { s with
    regs := s.regs.filter fun (x : Nat × Nat) => !hostHalf x.1
    rings := []
    scr := { config := s.scr.config, aer := s.scr.aer, toHost := s.scr.toHost, toField := s.scr.toField, reqs := s.scr.reqs, rsps := s.scr.rsps, evts := s.scr.evts,
             mbxToHost := s.scr.mbxToHost, mbxField := s.scr.mbxField, staging := s.scr.staging, owed := s.scr.owed,
             capCredit := s.scr.capCredit, tempWarn := s.scr.tempWarn, warnRun := s.scr.warnRun
             tempHot := s.scr.tempHot, coolMs := s.scr.coolMs } }

/-- DIE_B_RESET (R395). -/
def execDieBReset (s : State) : Host.Outcome State Fault Refusal := .next s.dieBReset

end Sys2Proof.Machine
end

