-- ==== Sys2Proof/Machine/TileReads.lean ====
section
/-!
DEFINITION. A tile read and what each owner does with a poisoned tile (07_delay_flattening.md R190, R191; R223, R367, R398,
R192; 11_conservation.md R286), and the rebuild of a Plain tile.
-/

namespace Sys2Proof.Machine

/-! ### Gorge (R191) -/

/-- A grain of a poisoned tile: every sample invalid. -/
def poisoned (g : Grain) : Grain := gSet { g with valid := 0, samples := List.replicate 64 0 } flPoison true

/-- The latest run of 14 grain periods that tile t of band path n holds, among those that have left the die (R178). -/
def State.gorgeRun (s : State) (n t : Nat) : Option Nat :=
  let outside := ((s.bp n).dly.count - 1) / 14 - 2
  (List.range (runsCount (s.bp n).dly.tiles)).findSome? fun i =>
    if i < outside ∧ s.gorgeTile n (outside - 1 - i) = t then some (outside - 1 - i) else none

/-- The run of 14 grain periods of band path n that is still on die and for which tile t is meant (R178). -/
def State.dieRun (s : State) (n t : Nat) : Option Nat :=
  let outside := ((s.bp n).dly.count - 1) / 14 - 2
  (List.range 3).findSome? fun i => if s.gorgeTile n (outside + i) = t then some (outside + i) else none

/-- A grain of run k is spoilt. -/
def spoilHeld (k : Nat) (h : Held) : Held :=
  if 14 * k ≤ h.pos ∧ h.pos < 14 * k + 14 then { h with grain := poisoned h.grain } else h

/-- The 14 grains of run k of band path n are poisoned: the counts and the message (R191). -/
def State.poisonRun (s : State) (n k : Nat) : State :=
  (((s.updBp n fun x => { x with dly := { x.dly with
      gorge := x.dly.gorge.map (spoilHeld k), input := x.dly.input.map (spoilHeld k), recent := x.dly.recent.map (spoilHeld k) } })
    |>.bump .FLO_COUNT1_POISON_GRAINS n 14).set1 .FLO_STATUS_POISON n).sendFault n 0x26

/-- A Gorge tile of band path n is poisoned: its 14 grains, and the tile (R191). -/
def State.poisonGorge (s : State) (n t : Nat) : State :=
  match s.gorgeRun n t with
  | none => s
  | some k => (s.poisonRun n k).dropGorgeTile n t

/-! ### Capture staging (R398) and keep stores (R192) -/

/-- The staged grains without those of a poisoned tile: the grain after them reports them as lost. -/
def dropStaged (bad : Staged → Bool) : Nat → Bool → List Staged → List Staged × Nat × Bool
  | lost, poison, [] => ([], lost, poison)
  | lost, poison, g :: rest =>
    if bad g then dropStaged bad (lost + 1 + g.lostBefore) true rest
    else
      let r := dropStaged bad 0 false rest
      ({ g with lostBefore := g.lostBefore + lost, poisonBefore := g.poisonBefore || poison } :: r.1, r.2)

/-- The staging tile at `place` is poisoned: its grains count as lost. -/
def State.poisonStaging (s : State) (place : Nat) : State :=
  let r := (place - 24576) / 4096
  let x := s.ring r
  let bad := fun (g : Staged) => decide (stagingTile r g.place = place)
  let left := dropStaged bad 0 false x.staged
  (s.setRing r { x with staged := left.1, lost := x.lost + left.2.1, lostPoison := x.lostPoison || left.2.2 }).bump
    .DMA_COUNT_LOST r (x.staged.filter bad).length

/-- The keep-store tile at `place` is poisoned: its copies cannot be resent. -/
def State.poisonKeep (s : State) (place : Nat) : State :=
  let l := (place - 57344) / 320
  let s1 := s.updLane l fun x => { x with kept := x.kept.filter fun k => keepTile l k.place != place }
  s1.wr .LANE_COUNT_KEPT l (s1.lane l).kept.length

/-! ### The commands -/

/-- What the owner of tile t does with it once it is poisoned, by KIND (Table 86). -/
def State.poisonTile (s : State) (t cause : Nat) : State :=
  let owner := s.tileOwner t
  let place := s.tilePlace t
  match owner / 4096 with
  | 1 => s.poisonGorge (owner % 4096) t
  | 2 => if s.plain.damaged.contains place then s else (s.plainDamaged place).replaceTile t
  | 3 => s.mediumFail t cause
  | 4 => (s.poisonStaging place).replaceTile t
  | 5 => (s.poisonKeep place).replaceTile t
  | _ => s

/-- A reader reads tile t: an owner holds it, and it is not in quarantine. -/
def State.tileInUse (s : State) (t : Nat) : Bool :=
  let k := s.tileOwner t / 4096
  decide (1 ≤ k ∧ k ≤ 5) && !(s.tiles.waiting.contains t) &&
    (decide (k ≠ 1) || (s.gorgeRun (s.tileOwner t % 4096) t).isSome)

/-- A read of the tile's worth that Gorge still holds on die (R178): an uncorrectable error poisons its grains with cause 5
and involves no quarantine (R191). -/
def State.dieRead (s : State) (t : Nat) (ue : Bool) : State :=
  match s.tileOwner t / 4096, s.dieRun (s.tileOwner t % 4096) t with
  | 1, some k => if ue then (s.sealFail t 5).poisonRun (s.tileOwner t % 4096) k else s
  | _, _ => s

/-- TILE_READ_DONE (R190): the seal is verified before any byte is released. -/
def State.tileRead (s : State) (t : Nat) (r : TileRead) : State :=
  if r.onDie then s.dieRead t r.ue
  else if !s.tileInUse t then s
  else
    let s1 := (s.tally 4 0x01 (t % 4)).tally 4 0x05 (t % 4) tileBursts
    let s2 := if r.ce then (s1.bump .MEM_CH_CE (t % 4)).tally 4 0x04 (t % 4) else s1
    let cause := s2.sealCause t r
    let s3 := if r.ue then s2.memError t else s2
    if cause = 0 then s3 else (s3.sealFail t cause).poisonTile t cause

/-- TILE_READ_DONE (R190). -/
def execTileReadDone (t : BitVec 23) (r : TileRead) (s : State) : Host.Outcome State Fault Refusal := .next (s.tileRead t.toNat r)

/-- PLAIN_REBUILD_DONE (R223) of the Plain tile at place t: `read` tells whether the flash could be read; the mask section
must still have its digest. The rebuilt tile is a new write of its payload. -/
def execPlainRebuildDone (t : Fin 8192) (read : Bool) (s : State) : Host.Outcome State Fault Refusal :=
  let ok := read && (s.verifiedSection 0x11).isSome
  .next (if s.plain.damaged.contains t.val then
      let s1 := s.plainRebuilt t ok
      if ok then s1.tileWritten (s1.holderOf t) (plainPayload s1.plain.records t) else s1
    else s)

/-- Owners that wait for a tile take one when the pool has it (R286). -/
def State.serveWaiting (s : State) : State := s.forEach (fun t u => u.replaceTile t) s.tiles.waiting

end Sys2Proof.Machine
end

