-- ==== Sys2Proof/Machine/Start.lean ====
section
/-!
DEFINITION. Power, field reset and the start sequence (19_startup_keycoat.md R413 to R416, R419, R425; R20, R93, R94, R355,
R356, R364, R438). A start runs its steps whole; what the outside decides in it comes with the command (log entry 15).
-/

namespace Sys2Proof.Machine

/-! ### Field reset (R93, R438, Table 194, Table 185) -/

/-- A cage with a pluggable holds it in reset, to be identified again. -/
def cageReset (c : Cage) : Cage := if c.phase = 0 then {} else { phase := 1 }

/-- A capture ring without the grains that were staged on the field side. -/
def ringReset (r : Ring) : Ring := { r with staged := [], wrote := 0, lost := 0, lostPoison := false }

/-- What Fresco's flash and journal keep. -/
def frescoReset (f : Fresco) : Fresco :=
  { flushed := f.flushed, blackBox := f.blackBox, bbNext := f.bbNext, mark := f.mark, clearJournalled := f.clearJournalled }

/-- The field end of Scrim loses its queues; what is under way in the barrier goes at re-establishment (R288). -/
def scrimReset (x : Scrim) : Scrim := { x with evts := [], mbxField := [], mbxToHost := [], rsps := [], staging := none }

def Loader.afterReset (k : Loader) : Loader :=
  { powered := k.powered, flash := k.flash, slotB := k.slotB, journalTime := k.journalTime, shutTotal := k.shutTotal }

/-- Everything of the field side but the contents of flash, the fuses and the always-on monitor of die M returns to reset;
the host half, the capture rings of die B and the clock are not of it. Relays rest in bypass (R93). -/
def State.clearField (s : State) : State :=
  let s0 := s.forEach (fun p t => t.relayForce p) allPorts
  let s1 : State :=
    { regs := s0.regs.filter fun (x : Nat × Nat) => hostHalf x.1
      clk := s0.clk
      thm := { hold := s0.thm.hold, restarts := s0.thm.restarts, restartAt := s0.thm.restartAt, aborted := s0.thm.aborted }
      frs := frescoReset s0.frs
      scr := scrimReset s0.scr
      kct := s0.kct.afterReset
      factory := s0.factory
      free := s0.free
      pending := s0.pending }
  let s2 := s1.forEach (fun p t => (t.setPort p { relay := (s0.port p).relay }).wr .FE_RELAY_POS p (s0.port p).relay) allPorts
  let s3 := s2.forEach (fun c t =>
    let x := cageReset (s0.cage c)
    if x.phase = 0 then t else ((t.setCage c x).set1 .COL_CAGE_STATUS_PRESENT c).set1 .COL_CAGE_STATUS_LOW_POWER c) (List.range 4)
  s3.forEach (fun r t => t.setRing r (ringReset (s0.ring r))) (List.range 8)

/-! ### Step 1: factory values (R438) -/

/-- Plumb time starts at `t`, and with it the place in the tick (R125). -/
def State.setTime (s : State) (t : Nat) : State :=
  { s with clk := { s.clk with cycle := t / quantaPerCycle % cyclesPerTick }, plumb := { s.plumb with time := t } }

/-- Plumb time at a start: one second after the journalled time (R229), taken up to a whole clock cycle. -/
def State.startTime (s : State) : Nat :=
  match s.kct.journalTime with
  | some t => ceilDiv (t + quantaPerSec) quantaPerCycle * quantaPerCycle
  | none => 0

/-- THM_SHUT.ABORTED has told what the always-on monitor kept of an aborted page program. -/
def State.abortTold (s : State) : State := { s with thm := { s.thm with aborted := false } }

/-- The factory fields of the register map, the nonce of R369, Plumb time (R229), and what the always-on monitor kept. The
first tick boundary is aligned to a whole multiple of 10 µs of Plumb time (R125); the journalled time is taken up to a whole
clock cycle (DESIGN CHOICE, log entry 25). -/
def State.loadFactory (s : State) (last : Bool) : State :=
  let f := s.factory
  let s1 := ((s.wr2 .COL_ID_LO_ID_LO .COL_ID_HI_ID_HI 0 f.colId).wr .THM_SHUT_SHUT_TOTAL 0 s.kct.shutTotal).wr
    .THM_FLASH_OFS_FLASH_DELTA 0 (wrapBits 16 f.flashDelta)
  let s2 := s1.forEach (fun p t => t.wr .EMG_FLOOR_N p (wrapBits 16 (f.floor.getD p 0))) allPorts
  let s3 := s2.forEach (fun x t =>
    let m := f.mon.getD x (0, 4194304)
    (t.wr .MON_CAL_OFS_OFS x (wrapBits 16 m.1)).wr .MON_CAL_GAIN_GAIN x m.2) [0, 1]
  let s4 := ((s3.wrB .THM_SHUT_LAST_SHUT 0 last).wrB .THM_SHUT_ABORTED 0 s.thm.aborted).wr .THM_SHUT_RESTARTS 0
    s.thm.restarts.length
  (s4.setTime s.startTime).abortTold.newNonce

/-! ### Step 2: the image is written into the module (R410, R419) -/

/-- A Key coat value bounded as its chapter says (Table 184). -/
def bounded (f : Field) (v : Nat) : Nat :=
  match f with
  | .SDL_LIMIT_HARD_FLOOR => wrapBits 16 (min (signed 16 v) (-5000))
  | .FLO_SLEW_DLY_SLEW => min v 64
  | .EMG_LIMIT_TRIP_DB => min v 640
  | .EMG_LIMIT1_BACKOFF_MIN => if v < 0x8000 then v else 0
  | .PLB_SLEW_PHASE_SLEW => min v 16777
  | .COL_CTRL_HOPMAX => max 2 (min v 30)
  | .FCL_LIMIT_RECOV_MAX => min v 6
  | .PCR_CTRL_WDG_MS => max v 10
  | _ => v

/-- Bits that command an action and hold no value. -/
def isAction (f : Field) : Bool :=
  f ∈ [.BP_CTRL_APPLY, .LANE_CTRL_RETRAIN, .FE_CTRL_RETUNE, .FE_CTRL_CAL_REQ]

/-- The loader stores one field of a Key coat register; nothing acts, BP_CTRL.ENABLE included (R64). -/
def State.coatField (s : State) (w : Nat) (x : Field × Nat) : State :=
  let f := x.1
  let v := bounded f (f.slice w)
  if isAction f || absent x then s
  else match f.row.access with
    | .rw | .fw | .kl => s.load f x.2 v
    | _ => if f ∈ [.CHZ_BANK_STATUS_ACTIVE, .GCE_LEVEL_SP_RAMP] ∨ (f = .CNT_SEL_GROUP ∧ 208 ≤ x.2) then s.wr f x.2 v else s

/-- One record of the REGISTERS section: SEL first, then the register (R410). -/
def State.storeRecord (s : State) (r : RegRecord) : State :=
  let s1 := match selectField (r.off / 4096) with
    | some (sel, _) => if r.selValid then s.wr sel 4 r.sel else s
    | none => s
  if inCoat r.off then
    let n := match selectField (r.off / 4096) with | some (sel, _) => s1.rd sel 4 | none => 0
    (plainFields r.off 4 ++ windowFields r.off n).foldl (fun t x => t.coatField r.value x) s1
  else s1.writeReg .loader r.off r.value

/-- The caps of R359, and then each firmware counterpart at most at its hard value (R420). -/
def State.capLimits (s : State) : State :=
  let s1 := s.forEach (fun e t =>
    let trip := min (t.rdS .THM_LIM_TRIP e) 0x1CC0
    let u := ((t.load .THM_LIM_TRIP e (wrapBits 16 trip)).load .THM_LIM_WARN e
      (wrapBits 16 (min (t.rdS .THM_LIM_WARN e) (trip - 320)))).load .THM_LIM1_RESTART e
      (wrapBits 16 (min (t.rdS .THM_LIM1_RESTART e) (trip - 1280)))
    u.writeFwWarn e (u.rd .THM_LIM1_FW_WARN e)) (List.range 5)
  let s2 := s1.forEach (fun n t =>
    ((((t.writeFwCeil n (t.rd .GCE_CEIL_FW_CEIL n)).writeFwSlew n (t.rd .GCE_SLEW_FW_SP_SLEW n)).writeTarget n
      (t.rd .SDL_TARGET_TARGET n)).writeBackoff n (t.rd .EMG_BP_CTRL_EMIT_BACKOFF n))) allBps
  let s3 := (s2.writeDlySlew (s2.rd .FLO_SLEW_FW_DLY_SLEW)).writePhaseSlew (s2.rd .PLB_SLEW_FW_PHASE_SLEW)
  s3.forEach (fun k t =>
    let u := t.writeLimit k 0 (t.rd .PWM_DUTY_FW_MAX_DUTY k)
    if k < 4 then (u.writeLimit k 1 (u.rd .PWM_ILIM_FW_I_LIM k)).writeLimit k 2 (u.rd .PWM_VLIM_FW_V_LIM k) else u) (List.range 8)

/-- The units take what the loaded registers say: the ramped set-points, attenuators, edge sets and verifiable floors. -/
def State.takeCoat (s : State) : State :=
  let s1 := s.forEach (fun n t => t.updBp n fun x =>
    { x with eng := { x.eng with now := { x.eng.now with r := t.rdS .GCE_LEVEL_SP_RAMP n } } }) allBps
  let s2 := s1.forEach (fun p t =>
    (t.updPort p fun x => { x with att := t.attOf p }).wr .EMG_FLOOR_V p (wrapBits 16 (t.verifiable p))) allPorts
  let s3 := s2.forEach (fun k t => (t.updPwm k fun x => { x with shadow := t.pwmSet k, active := t.pwmSet k }).pwmReview k)
    (List.range 8)
  s3.showHeld

/-- One record of the COEF section. -/
def putCoef (w : Nat) (c : Chz) : Chz :=
  if (bit 7 w) then { c with bank3 := Store.set (fun _ => 0) c.bank3 (bits 8 8 w) (bits 16 18 w) }
  else { c with bank2 := Store.set (fun _ => 0) c.bank2 (bits 8 8 w) (bits 16 18 w) }

/-- The COEF section: coefficients of the user banks, which are then checked (Table 181, R119). -/
def State.storeCoef (s : State) (bs : List Byte) : State :=
  let rs := (chunks 8 (bs.length / 8) bs).map fun r => leAt r 0 8
  let s1 := rs.foldl (fun t w => t.updBp (bits 0 7 w) fun x => { x with chz := putCoef w x.chz }) s
  let ns := rs.map (bits 0 7)
  s1.forEach (fun n t => if ns.contains n then (t.bankChecked n 2).bankChecked n 3 else t) allBps

/-- The AUTH section: IDs, 0 beyond its entries, and secrets (R368). -/
def State.storeAuth (s : State) (bs : List Byte) : State :=
  let es := chunks 36 (bs.length / 36) bs
  let s1 := (List.range 4).foldl (fun t i => t.load .FRS_AUTH_ID_ID i (leAt (es.getD i []) 0 4)) s
  { s1 with frs := { s1.frs with secrets := es.map fun e => (e.drop 4).take 32 } }

/-- The bytes of the section of a type in slot b; none when there is no such section. -/
def State.sectionBytes (s : State) (b : Bool) (c : Checked) (type : Nat) : List Byte :=
  match c.entries.find? fun e => e.type == type with
  | some e => slotBytes s b e.offset e.length
  | none => []

/-- Step 2 on an accepted image: REGISTERS, COEF and AUTH written, firmware copied, hard limits locked. -/
def State.loadImage (s : State) (b : Bool) (c : Checked) : State :=
  let s1 := (regRecords (s.sectionBytes b c 0x10)).foldl (fun t r => t.storeRecord r) s
  let s2 := ((s1.storeCoef (s.sectionBytes b c 0x12)).storeAuth (s.sectionBytes b c 0x13)).capLimits.takeCoat
  let mem := (List.range 4).foldl (fun m q => putBytes m (262144 * q) (s.sectionBytes b c (q + 1))) ([] : Store Byte)
  let s3 : State := { s2 with kct := { s2.kct with
    localMem := mem, fwVersion := c.header.fwVersion
    sections := c.entries.map fun e => { type := e.type, offset := e.offset, length := e.length, digest := e.digest } } }
  let s4 := (((s3.wr .KCT_ID_KC_FORMAT 0 c.header.format).wr .KCT_ID_FW_MAJOR 0 (c.header.fwVersion / 2 ^ 24)).wr .KCT_SEQ_SEQ 0
    c.header.seq).wrB .FCL_STATUS_FACTORY 0 c.header.factoryTest
  let s5 := (s4.wrB .KCT_STATUS_SLOT 0 b).set1 .KCT_STATUS_LOCKED
  s5.forEach (fun l t => if t.is .LANE_CTRL_EN l then t.laneTrain l else t) allLanes

/-- The slot to start from (R413): the active one, else the other one; every slot checked is shown. -/
def State.chooseSlot (s : State) (e : StartEnv) : State × Option (Bool × Checked) :=
  let readable (b : Bool) : Bool := e.discovery && (if b then e.readB else e.readA)
  let first := s.kct.slotB
  let c := s.checkSlot first (readable first)
  let s1 := s.showSlot first c.code
  if c.code = 0 then (s1, some (first, c))
  else
    let d := s1.checkSlot (!first) (readable (!first))
    let s2 := s1.showSlot (!first) d.code
    if d.code = 0 then ((s2.set1 .KCT_STATUS_FALLBACK).sendFault 0xB6 0x64 c.code, some (!first, d)) else (s2, none)

/-! ### Step 3: self-tests, memory, Plain and Fresco -/

/-- Tiles are sealed with generation 0 and assigned (R199), and Plain is filled from the mask section (R202); LOADED follows once the memory is
known to hold it. -/
def State.fillMemory (s : State) (mask : List Byte) : State :=
  ({ s with tiles := {}, plain := { s.plain with records := maskRecords mask } }.wr .GRG_FREE_FREE 0 8326144).wr
    .GRG_OWNED_OWNED 0 62464

/-- Fresco's rings are zeroed and the START record goes in front of every waiting event, above the mark (R364). -/
def State.startRecord (s : State) (cause slot : Nat) : State :=
  let f := s.frs
  let lost := decide (f.flushed < f.mark)
  let s1 : State := { s with frs := { f with
    ring := [], dieRing := [], next := f.mark + 1, oldest := f.mark + 1, flushNext := f.mark + 1 } }
  let s2 := s1.recordFirst { type := 0x10, source := 0xB6, time := s.now, kind := 0x90
                             body := leBytes 6 (if lost then f.flushed + 1 else 0) ++ leBytes 6 (if lost then f.mark else 0) ++
                               leBytes 1 cause ++ leBytes 1 slot }
  if f.clearJournalled then s2.set1 .FRS_STATUS_CLEARING else s2

/-- The hold-up store cannot deliver its pulses: every relay stays in bypass (R94). -/
def State.holdUpTest (s : State) (ok : Bool) : State :=
  if ok then s
  else State.forEach (fun p t => t.sendFault (0x80 + p) 0x14) allPorts { s with fcl := { s.fcl with holdUpFailed := true } }

/-- The policy cores are released. -/
def State.releaseCores (s : State) : State :=
  let s1 := s.wr .PCR_CTRL_RUN 0 15
  { s1 with kct := { s1.kct with
      kickAt := (List.range 4).foldl (fun m q => Store.set (fun _ => 0) m q s.clk.tick) s1.kct.kickAt } }

def State.memoryTrained (s : State) (mask : Nat) : State :=
  s.forEach (fun i t => t.wrB .MEM_CH_TRAINED i (bit i mask)) (List.range 4)

/-- The reference buffers of both monitor converters are on. -/
def State.refsReady (s : State) : State := s.forEach (fun x t => (t.writeRefEn x true).set1 .MON_STATUS_REF_READY x) [0, 1]

/-! ### Steps 4 to 6 -/

def State.calibrateMonitors (s : State) (e : StartEnv) : State :=
  s.forEach (fun x t => (t.monCalDone x (e.calFactors.getD x none)).writeScanEn x true) [0, 1]

/-- A port with RX_EN = 1 locks and calibrates, or does not, and takes its pilot MODE (R83, R87, R97). -/
def State.startPort (s : State) (e : StartEnv) (p : Nat) : State :=
  let mode := s.rd .FE_PILOT_CTRL_MODE p
  let s1 := s.clr .FE_PILOT_CTRL_MODE p
  let s2 := if !s1.is .FE_CTRL_RX_EN p then s1
    else
      let t := s1.startLocking p
      if bit p e.portLock then (t.lockDone p).calDone p (e.portFit.getD p none) else t.lockTimeout p
  s2.writePilotMode p mode

/-- The band paths that the Key coat declares to start, in the three passes of R416. -/
def State.startPasses (s : State) (declared : List Nat) : List Nat :=
  let kind (n : Nat) : Nat :=
    let d := s.stagedDecl n
    if d.srcKind = 1 ∧ d.dstKind = 1 then 0 else if d.dstKind = 2 then 1 else 2
  [0, 1, 2].flatMap fun k => (allBps.filter fun n => declared.contains n).filter fun n => kind n == k

/-- The band paths whose BP_CTRL record has ENABLE = 1. -/
def declaredBps (rs : List RegRecord) : List Nat :=
  allBps.filter fun n => rs.any fun r => r.off == Field.BP_CTRL_ENABLE.row.off + Field.BP_CTRL_ENABLE.row.stride * n && bit 0 r.value

/-- Step 6 (R416): ENABLE and APPLY together, MON_MODE.SVC, cores released. -/
def State.applyDeclarations (s : State) (declared : List Nat) : State :=
  let s1 := (s.startPasses declared).foldl (fun t n => (t.bpWriteCtrl n true true).checkDone n) s
  ({ s1 with kct := { s1.kct with retry := declared } }.set1 .MON_MODE_SVC).releaseCores

/-! ### The whole start (R415) -/

/-- Steps 3 to 6 on an accepted image. -/
def State.runSteps (s : State) (e : StartEnv) (cause : Nat) (b : Bool) (c : Checked) : State :=
  let s1 := (((s.refsReady.memoryTrained e.memTrained).holdUpTest e.holdUp).fillMemory (s.sectionBytes b c 0x11)).startRecord cause
    (flag b)
  if !e.selfTest || e.memTrained % 16 != 15 then
    (({ s1 with kct := { s1.kct with selfTestFailed := true } }.wr .KCT_STATUS_STATE 0 6).sendFault 0xB6 0x65).releaseCores
  else
    let s2 := (s1.set1 .PLN_STATUS_LOADED).calibrateMonitors e
    let s3 := s2.forEach (fun p t => t.startPort e p) allPorts
    (s3.applyDeclarations (declaredBps (regRecords (s.sectionBytes b c 0x10)))).wr .KCT_STATUS_STATE 0 4

/-- The start sequence after the field reset; `cause` is that of the START record. -/
def State.startUp (s : State) (e : StartEnv) (cause : Nat) : State :=
  let s0 : State := { s with kct := { s.kct with powered := true } }
  let s1 := s0.loadFactory (cause == 3)
  let x := s1.chooseSlot e
  match x.2 with
  | none => (x.1.wr .KCT_STATUS_STATE 0 5).startRecord cause 0
  | some (b, c) => (x.1.loadImage b c).runSteps e cause b c

/-! ### The commands -/

/-- POWER_GOOD (R415): of a field side without power. Power loss has cleared the monitor's restart count (R356). -/
def execPowerGood (e : StartEnv) (s : State) : Host.Outcome State Fault Refusal :=
  .next (if s.kct.powered || s.thm.hold then s else s.clearField.startUp e 1)

/-- POWER_FAIL (R93): every relay goes to bypass, and the field side loses its power; it ends a thermal hold. -/
def execPowerFail (s : State) : Host.Outcome State Fault Refusal :=
  .next (if s.kct.powered || s.thm.hold then
      let t := s.clearField
      { t with kct := { t.kct with powered := false }, thm := {} }
    else s)

/-- KCT_RESTART (R423, Table 189): a write of the key by field firmware, by a debugger, or by a host that may update; or
the key stands in the register already. -/
def execKctRestart (who : Requester) (e : StartEnv) (s : State) : Host.Outcome State Fault Refusal :=
  let may := !isHost who || s.hostMay || s.rd .KCT_RESTART_KEY == 0x52535421
  .next (s.via who fun t => if t.kct.powered && may then t.clearField.startUp e 2 else t)

/-- DECL_RETRY (R416): start declarations rejected with code 6 or 7 are applied again. -/
def execDeclRetry (s : State) : Host.Outcome State Fault Refusal :=
  let left := s.kct.retry.filter fun n => !s.running n
  let due := left.filter fun n => s.rd .BP_STATUS_STATE n == 0 && !s.is .BP_STATUS_PENDING n &&
    (s.rd .BP_STATUS_REJECT n == 6 || s.rd .BP_STATUS_REJECT n == 7)
  .next (due.foldl (fun t n => t.bpApply n) { s with kct := { s.kct with retry := left } })

/-- The field side enters thermal hold: a field reset that is held (R355). -/
def State.enterHold (s : State) (aborted : Bool) : State :=
  let restart := s.restartAt 0
  let t := s.clearField
  { t with
    kct := { t.kct with powered := false, shutTotal := (t.kct.shutTotal + 1) % 65536 }
    thm := { t.thm with hold := true, restartAt := restart, aborted := aborted, coolFrom := none } }

/-- THERMAL_HOLD (R355): die M has tripped and field bypass has acted. A running page program is awaited unless die M is
hotter than TRIP + 6 K, which aborts it. -/
def execThermalHold (running : Bool) (s : State) : Host.Outcome State Fault Refusal :=
  let hotter := decide (s.tripAt 0 + 384 < (s.die 0).eff)
  .next (if !s.thm.tripped || (running && !hotter) then s else s.enterHold running)

/-- 24 h in ticks. -/
def dayTicks : Nat := 8640000000

/-- The restarts of the last 24 h. -/
def State.recentRestarts (s : State) : List Nat := s.thm.restarts.filter fun t => decide (s.clk.tick < t + dayTicks)

/-- Die M has stayed at or below RESTART for 10 s of thermal hold (R356). -/
def State.cooled (s : State) : Bool := match s.thm.coolFrom with | some t => decide (t + 1000000 ≤ s.clk.tick) | none => false

/-- THERMAL_RESTART (R356): die M has stayed at or below RESTART for 10 s; refused after 3 restarts in 24 h. -/
def execThermalRestart (e : StartEnv) (s : State) : Host.Outcome State Fault Refusal :=
  .next (if !s.thm.hold || !s.cooled || decide (3 ≤ s.recentRestarts.length) then s
    else
      let t := s.clearField
      State.startUp { t with thm := { t.thm with hold := false, restarts := s.clk.tick :: s.recentRestarts } } e 3)

end Sys2Proof.Machine
end

