-- ==== Sys2Proof/Machine/Tick.lean ====
section
/-!
DEFINITION. The tick boundary (05_gain_loops.md R125, R126): what every unit does there, and the passage of time between
commands.
-/

namespace Sys2Proof.Machine

/-- Band paths from their start to their stop. -/
def State.runningBps (s : State) : List Nat := allBps.filter fun n => s.running n

/-- The keep-alive messages of Scrim's two ends, one a microsecond (Table 167). -/
def State.keepAlive (s : State) (k : Nat) : State :=
  if k = 0 then s
  else
    let s1 := if 4 ≤ s.scr.toHost then s.tally 7 0x01 0 k else s
    if s.is .SCR_FSTATUS_HOST_UP then s1.scrimReceived k else s1

/-- `k` cycles of the 800 MHz clock pass (R125, R227). -/
def State.passCycles (s : State) (k : Nat) : State :=
  let c := s.clk.cycle
  (({ s with plumb := { s.plumb with time := s.plumb.time + k * quantaPerCycle } }.memoryCycles k).fieldCycles
    ((c + k) / 2 - c / 2)).keepAlive ((c + k) / 800 - c / 800)

/-- The control engine: the gains of the tick that ends apply, and the next snapshot is taken (R126). -/
def State.engineTick (s : State) : State :=
  let s1 := s.runningBps.foldl (fun t n => t.engineApply n) s.pinsTick
  s1.runningBps.foldl (fun t n => t.engineSnapshot n) s1

/-- Saddle, the delay machinery and Gorge of every running band path. -/
def State.bandTick (s : State) : State :=
  s.runningBps.foldl (fun t n => ((t.saddleTick n).delayTick n).gorgeTick n) s

/-- What lanes sent in the tick that ends is no longer on the fibre (log entry 18). -/
def State.fibreTick (s : State) : State := s.forEach (fun l t => if (t.lane l).fibre = [] then t else
  t.updLane l fun x => { x with fibre := [] }) allLanes

/-- The first band path in service and the first LOCKED, in ms from power-good (R417, R418). -/
def State.timesTick (s : State) : State :=
  let ms := min 65535 (s.kct.sincePower / 100)
  let s1 := if s.rd .KCT_TIMES_T_BAND = 0 && s.runningBps.any fun n => s.rd .BP_STATUS_STATE n == 3 && s.rd .GCE_STAT_CS n == 0 then
      s.wr .KCT_TIMES_T_BAND 0 ms else s
  if s1.rd .KCT_TIMES_T_PLUMB = 0 && s1.tstate == 2 then s1.wr .KCT_TIMES_T_PLUMB 0 ms else s1

/-- The restarts that the always-on monitor counts are those of the last 24 h (R356). -/
def State.restartsTick (s : State) : State :=
  let left := s.recentRestarts
  if left = s.thm.restarts then s
  else
    let s1 : State := { s with thm := { s.thm with restarts := left } }
    if s.kct.powered then s1.wr .THM_SHUT_RESTARTS 0 left.length else s1

/-- Everything that a boundary brings to a powered field side. -/
def State.fieldTick (s : State) : State :=
  let s1 : State := { s with kct := { s.kct with sincePower := s.kct.sincePower + 1 } }
  let s2 := s1.plumbTick.engineTick.fibreTick.tilesTick.serveWaiting
  let s3 := (s2.forEach (fun p t => t.portTick p) allPorts).bandTick
  let s4 := (s3.forEach (fun p t => t.dacTick p) allPorts).guardTick
  s4.fclTick.timesTick

/-- A tick boundary. -/
def State.tickBoundary (s : State) : State :=
  let s0 := if s.kct.powered then s.passCycles (cyclesPerTick - s.clk.cycle) else s
  let s1 : State := { s0 with clk := { tick := s.clk.tick + 1, cycle := 0 } }
  (if s.kct.powered then s1.fieldTick else s1).restartsTick

/-- TICK_BOUNDARY (R126). -/
def execTickBoundary (s : State) : Host.Outcome State Fault Refusal := .next s.tickBoundary

/-- One cycle of the 800 MHz clock passes while no command waits; the last cycle of a tick waits for TICK_BOUNDARY (log
entry 3). -/
def State.idle (s : State) : State :=
  if cyclesPerTick ≤ s.clk.cycle + 1 then s
  else
    let s1 := if s.kct.powered then s.passCycles 1 else s
    { s1 with clk := { s.clk with cycle := s.clk.cycle + 1 } }

end Sys2Proof.Machine
end

