-- ==== Sys2Proof/Machine/Dispatch.lean ====
section
/-!
DEFINITION. One arm for each command of the command table: a direct call of its meaning.
-/

namespace Sys2Proof.Machine

def exec (i : Instr) (s : State) : Host.Outcome State Fault Refusal :=
  match i with
  | .powerGood e => Sys2Proof.Machine.execPowerGood e s
  | .powerFail => Sys2Proof.Machine.execPowerFail s
  | .kctRestart who e => Sys2Proof.Machine.execKctRestart who e s
  | .dieBReset => Sys2Proof.Machine.execDieBReset s
  | .declRetry => Sys2Proof.Machine.execDeclRetry s
  | .registerWrite who off w => Sys2Proof.Machine.execRegisterWrite who off w s
  | .registerReadClear who off => Sys2Proof.Machine.execRegisterReadClear who off s
  | .wideLoRead who off => Sys2Proof.Machine.execWideLoRead who off s
  | .bpApply n => Sys2Proof.Machine.execBpApply n s
  | .bpEnable n => Sys2Proof.Machine.execBpEnable n s
  | .bpDisable n => Sys2Proof.Machine.execBpDisable n s
  | .bpCheckDone n => Sys2Proof.Machine.execBpCheckDone n s
  | .bpDeclarationApply n => Sys2Proof.Machine.execBpDeclarationApply n s
  | .bpStop n => Sys2Proof.Machine.execBpStop n s
  | .grainPeriod n g => Sys2Proof.Machine.execGrainPeriod n g s
  | .bandFrameReceive l f => Sys2Proof.Machine.execBandFrameReceive l f s
  | .grainMissing n => Sys2Proof.Machine.execGrainMissing n s
  | .noGrains n => Sys2Proof.Machine.execNoGrains n s
  | .feRxEnable p => Sys2Proof.Machine.execFeRxEnable p s
  | .feRxDisable p => Sys2Proof.Machine.execFeRxDisable p s
  | .feTxEnable p => Sys2Proof.Machine.execFeTxEnable p s
  | .feTxDisable p => Sys2Proof.Machine.execFeTxDisable p s
  | .feRetune p => Sys2Proof.Machine.execFeRetune p s
  | .feCalReq p => Sys2Proof.Machine.execFeCalReq p s
  | .feLockDone p => Sys2Proof.Machine.execFeLockDone p s
  | .lockTimeout p => Sys2Proof.Machine.execLockTimeout p s
  | .unlock p => Sys2Proof.Machine.execUnlock p s
  | .feCalDone p fit => Sys2Proof.Machine.execFeCalDone p fit s
  | .txTimeout p => Sys2Proof.Machine.execTxTimeout p s
  | .feBgCalUpdate p able => Sys2Proof.Machine.execFeBgCalUpdate p able s
  | .calStale p => Sys2Proof.Machine.execCalStale p s
  | .feAttApply p => Sys2Proof.Machine.execFeAttApply p s
  | .relayMoveStart p => Sys2Proof.Machine.execRelayMoveStart p s
  | .relayMoveEnd p sensed => Sys2Proof.Machine.execRelayMoveEnd p sensed s
  | .fePilotMode p mode => Sys2Proof.Machine.execFePilotMode p mode s
  | .pilotLocked p => Sys2Proof.Machine.execPilotLocked p s
  | .pilotLowLevel p => Sys2Proof.Machine.execPilotLowLevel p s
  | .pilotMeasureDone p lag1 lag2 lag3 => Sys2Proof.Machine.execPilotMeasureDone p lag1 lag2 lag3 s
  | .chzSync q => Sys2Proof.Machine.execChzSync q s
  | .syncReset n => Sys2Proof.Machine.execSyncReset n s
  | .chzSwap q bank fade => Sys2Proof.Machine.execChzSwap q bank fade s
  | .fadeStart n => Sys2Proof.Machine.execFadeStart n s
  | .fadeEnd n => Sys2Proof.Machine.execFadeEnd n s
  | .chzCheck q bank3 => Sys2Proof.Machine.execChzCheck q bank3 s
  | .chzCheckDone n => Sys2Proof.Machine.execChzCheckDone n s
  | .chzCoefWrite q w => Sys2Proof.Machine.execChzCoefWrite q w s
  | .chzCoefRead q => Sys2Proof.Machine.execChzCoefRead q s
  | .tickBoundary => Sys2Proof.Machine.execTickBoundary s
  | .overrun n late => Sys2Proof.Machine.execOverrun n late s
  | .engineEcc n => Sys2Proof.Machine.execEngineEcc n s
  | .csLate n => Sys2Proof.Machine.execCsLate n s
  | .fwCeilWrite q slew v => Sys2Proof.Machine.execFwCeilWrite q slew v s
  | .setaInvalid => Sys2Proof.Machine.execSetaInvalid s
  | .setpPeriod period high => Sys2Proof.Machine.execSetpPeriod period high s
  | .setpStuck => Sys2Proof.Machine.execSetpStuck s
  | .saddleUpdate n e => Sys2Proof.Machine.execSaddleUpdate n e s
  | .sdlWatchWrite q idx w => Sys2Proof.Machine.execSdlWatchWrite q idx w s
  | .sdlTargetWrite q v => Sys2Proof.Machine.execSdlTargetWrite q v s
  | .saddleDigestSend => Sys2Proof.Machine.execSaddleDigestSend s
  | .sdigest l f => Sys2Proof.Machine.execSdigest l f s
  | .digestMiss n w => Sys2Proof.Machine.execDigestMiss n w s
  | .g1Overload n sat => Sys2Proof.Machine.execG1Overload n sat s
  | .g1Release n => Sys2Proof.Machine.execG1Release n s
  | .floTargetCommit q hi => Sys2Proof.Machine.execFloTargetCommit q hi s
  | .delayStep n => Sys2Proof.Machine.execDelayStep n s
  | .fwDlySlewWrite v => Sys2Proof.Machine.execFwDlySlewWrite v s
  | .delayEstablished n => Sys2Proof.Machine.execDelayEstablished n s
  | .delayLost n => Sys2Proof.Machine.execDelayLost n s
  | .lostMeasureDone n => Sys2Proof.Machine.execLostMeasureDone n s
  | .delayRestore n => Sys2Proof.Machine.execDelayRestore n s
  | .tileReadDone t r => Sys2Proof.Machine.execTileReadDone t r s
  | .tileQuarantineDone t pass => Sys2Proof.Machine.execTileQuarantineDone t pass s
  | .spectrumDone p power => Sys2Proof.Machine.execSpectrumDone p power s
  | .g2Decision p => Sys2Proof.Machine.execG2Decision p s
  | .g2Ceiling n power => Sys2Proof.Machine.execG2Ceiling n power s
  | .g2Release m => Sys2Proof.Machine.execG2Release m s
  | .foreignRegionEnd p r => Sys2Proof.Machine.execForeignRegionEnd p r s
  | .plnTFirstWrite w => Sys2Proof.Machine.execPlnTFirstWrite w s
  | .plainRebuildDone t read => Sys2Proof.Machine.execPlainRebuildDone t read s
  | .emitBackoffWrite q v => Sys2Proof.Machine.execEmitBackoffWrite q v s
  | .plnRdAddrWrite w => Sys2Proof.Machine.execPlnRdAddrWrite w s
  | .plumbUpdate ref => Sys2Proof.Machine.execPlumbUpdate ref s
  | .timeExSend phase => Sys2Proof.Machine.execTimeExSend phase s
  | .timeEx l f rx => Sys2Proof.Machine.execTimeEx l f rx s
  | .announceSend => Sys2Proof.Machine.execAnnounceSend s
  | .announce l f => Sys2Proof.Machine.execAnnounce l f s
  | .timeCheck l => Sys2Proof.Machine.execTimeCheck l s
  | .holdLimitExpire => Sys2Proof.Machine.execHoldLimitExpire s
  | .ppsInEdge edge ref => Sys2Proof.Machine.execPpsInEdge edge ref s
  | .ppsInTimeout => Sys2Proof.Machine.execPpsInTimeout s
  | .refBad => Sys2Proof.Machine.execRefBad s
  | .refInRestore => Sys2Proof.Machine.execRefInRestore s
  | .todArm w => Sys2Proof.Machine.execTodArm w s
  | .todApply => Sys2Proof.Machine.execTodApply s
  | .plbTime0Read who => Sys2Proof.Machine.execPlbTime0Read who s
  | .fwPhaseSlewWrite v => Sys2Proof.Machine.execFwPhaseSlewWrite v s
  | .ppsOutPulse => Sys2Proof.Machine.execPpsOutPulse s
  | .cageInsert c => Sys2Proof.Machine.execCageInsert c s
  | .cageIdentified c x => Sys2Proof.Machine.execCageIdentified c x s
  | .cageRemove c => Sys2Proof.Machine.execCageRemove c s
  | .cageMonitor c m => Sys2Proof.Machine.execCageMonitor c m s
  | .laneBlockLock l => Sys2Proof.Machine.execLaneBlockLock l s
  | .helloSend l => Sys2Proof.Machine.execHelloSend l s
  | .hello l f => Sys2Proof.Machine.execHello l f s
  | .creditBlock l content => Sys2Proof.Machine.execCreditBlock l content s
  | .laneFail l cause => Sys2Proof.Machine.execLaneFail l cause s
  | .laneEnable l => Sys2Proof.Machine.execLaneEnable l s
  | .laneDisable l => Sys2Proof.Machine.execLaneDisable l s
  | .retrain l => Sys2Proof.Machine.execRetrain l s
  | .addrClaim => Sys2Proof.Machine.execAddrClaim s
  | .addrReclaim => Sys2Proof.Machine.execAddrReclaim s
  | .lsaFlood => Sys2Proof.Machine.execLsaFlood s
  | .lsa l f => Sys2Proof.Machine.execLsa l f s
  | .lsaExpire uid => Sys2Proof.Machine.execLsaExpire uid s
  | .routeComputeDone => Sys2Proof.Machine.execRouteComputeDone s
  | .frameForward l f => Sys2Proof.Machine.execFrameForward l f s
  | .subReq l f => Sys2Proof.Machine.execSubReq l f s
  | .subNak l f => Sys2Proof.Machine.execSubNak l f s
  | .resv l f => Sys2Proof.Machine.execResv l f s
  | .resvNak l f => Sys2Proof.Machine.execResvNak l f s
  | .subAck l f => Sys2Proof.Machine.execSubAck l f s
  | .subTimeout n => Sys2Proof.Machine.execSubTimeout n s
  | .grainAckSend => Sys2Proof.Machine.execGrainAckSend s
  | .grainAck l f => Sys2Proof.Machine.execGrainAck l f s
  | .release l f => Sys2Proof.Machine.execRelease l f s
  | .unsub l f => Sys2Proof.Machine.execUnsub l f s
  | .repair l f => Sys2Proof.Machine.execRepair l f s
  | .repairReport l f => Sys2Proof.Machine.execRepairReport l f s
  | .streamReestablish n => Sys2Proof.Machine.execStreamReestablish n s
  | .unresTimeout l => Sys2Proof.Machine.execUnresTimeout l s
  | .pwmPeriodEnd k x => Sys2Proof.Machine.execPwmPeriodEnd k x s
  | .pwmFallWrite k w => Sys2Proof.Machine.execPwmFallWrite k w s
  | .pwmModeWrite k mode => Sys2Proof.Machine.execPwmModeWrite k mode s
  | .pwmArm k arm => Sys2Proof.Machine.execPwmArm k arm s
  | .pwmFwLimitWrite k which v => Sys2Proof.Machine.execPwmFwLimitWrite k which v s
  | .g3Trip k x => Sys2Proof.Machine.execG3Trip k x s
  | .fltActivate x => Sys2Proof.Machine.execFltActivate x s
  | .fltLatchClear x => Sys2Proof.Machine.execFltLatchClear x s
  | .pwmFineCal ok => Sys2Proof.Machine.execPwmFineCal ok s
  | .clkStop => Sys2Proof.Machine.execClkStop s
  | .debugHalt q => Sys2Proof.Machine.execDebugHalt q s
  | .monRefEn x on => Sys2Proof.Machine.execMonRefEn x on s
  | .monRefReady x => Sys2Proof.Machine.execMonRefReady x s
  | .monCal x => Sys2Proof.Machine.execMonCal x s
  | .monCalDone x factors => Sys2Proof.Machine.execMonCalDone x factors s
  | .monConversionDone x code => Sys2Proof.Machine.execMonConversionDone x code s
  | .plStale => Sys2Proof.Machine.execPlStale s
  | .monUrgent x w => Sys2Proof.Machine.execMonUrgent x w s
  | .monQueueRead q x => Sys2Proof.Machine.execMonQueueRead q x s
  | .faultMessage => Sys2Proof.Machine.execFaultMessage s
  | .faultClear => Sys2Proof.Machine.execFaultClear s
  | .fclAck who tag => Sys2Proof.Machine.execFclAck who tag s
  | .fclAckInj q tag => Sys2Proof.Machine.execFclAckInj q tag s
  | .fclAckClass q w => Sys2Proof.Machine.execFclAckClass q w s
  | .fclRelease q w => Sys2Proof.Machine.execFclRelease q w s
  | .fclInject q w => Sys2Proof.Machine.execFclInject q w s
  | .fenceRecovery u => Sys2Proof.Machine.execFenceRecovery u s
  | .aliveToggle => Sys2Proof.Machine.execAliveToggle s
  | .thermalSample e reading => Sys2Proof.Machine.execThermalSample e reading s
  | .g4Temp e => Sys2Proof.Machine.execG4Temp e s
  | .thermalHold running => Sys2Proof.Machine.execThermalHold running s
  | .thermalRestart e => Sys2Proof.Machine.execThermalRestart e s
  | .fwWarnWrite e v => Sys2Proof.Machine.execFwWarnWrite e v s
  | .frescoRecordWrite ue => Sys2Proof.Machine.execFrescoRecordWrite ue s
  | .bbFlush ok => Sys2Proof.Machine.execBbFlush ok s
  | .frescoMark => Sys2Proof.Machine.execFrescoMark s
  | .floodEnd => Sys2Proof.Machine.execFloodEnd s
  | .frsClear who w => Sys2Proof.Machine.execFrsClear who w s
  | .frsEraseDone => Sys2Proof.Machine.execFrsEraseDone s
  | .clrLockEnd => Sys2Proof.Machine.execClrLockEnd s
  | .frsRdSelWrite w => Sys2Proof.Machine.execFrsRdSelWrite w s
  | .frsCopyDone => Sys2Proof.Machine.execFrsCopyDone s
  | .firmware q => Sys2Proof.Machine.execFirmware q s
  | .gatherBoundary => Sys2Proof.Machine.execGatherBoundary s
  | .gatherPublish late => Sys2Proof.Machine.execGatherPublish late s
  | .cntLoRead who c => Sys2Proof.Machine.execCntLoRead who c s
  | .cntSelWrite who c w => Sys2Proof.Machine.execCntSelWrite who c w s
  | .holdTo => Sys2Proof.Machine.execHoldTo s
  | .preciseSample q x => Sys2Proof.Machine.execPreciseSample q x s
  | .cntPsDataRead who => Sys2Proof.Machine.execCntPsDataRead who s
  | .scrimReq => Sys2Proof.Machine.execScrimReq s
  | .scrimRsp => Sys2Proof.Machine.execScrimRsp s
  | .hostFieldAccess off wide write masked => Sys2Proof.Machine.execHostFieldAccess off wide write masked s
  | .scrHsyncRead => Sys2Proof.Machine.execScrHsyncRead s
  | .fieldDown => Sys2Proof.Machine.execFieldDown s
  | .hostAbsent => Sys2Proof.Machine.execHostAbsent s
  | .scrimLaneDrop toHost => Sys2Proof.Machine.execScrimLaneDrop toHost s
  | .scrimSync toHost toField => Sys2Proof.Machine.execScrimSync toHost toField s
  | .scrimCreditReturn => Sys2Proof.Machine.execScrimCreditReturn s
  | .evtMessage => Sys2Proof.Machine.execEvtMessage s
  | .msixUnmask v => Sys2Proof.Machine.execMsixUnmask v s
  | .scrFwIrqWrite q w => Sys2Proof.Machine.execScrFwIrqWrite q w s
  | .pcieError k r => Sys2Proof.Machine.execPcieError k r s
  | .pcieRetrain gen width => Sys2Proof.Machine.execPcieRetrain gen width s
  | .dmaEnable r w => Sys2Proof.Machine.execDmaEnable r w s
  | .dmaHeadWrite r w => Sys2Proof.Machine.execDmaHeadWrite r w s
  | .captureGrain r d => Sys2Proof.Machine.execCaptureGrain r d s
  | .dmaBufferClose r => Sys2Proof.Machine.execDmaBufferClose r s
  | .dmaFlushTimeout r => Sys2Proof.Machine.execDmaFlushTimeout r s
  | .dmaHoldoffExpire r => Sys2Proof.Machine.execDmaHoldoffExpire r s
  | .dmaErr r => Sys2Proof.Machine.execDmaErr r s
  | .dieBTempSample t => Sys2Proof.Machine.execDieBTempSample t s
  | .mbxSend => Sys2Proof.Machine.execMbxSend s
  | .mbxPop => Sys2Proof.Machine.execMbxPop s
  | .scrMbSend q => Sys2Proof.Machine.execScrMbSend q s
  | .scrMbPop q => Sys2Proof.Machine.execScrMbPop q s
  | .version q => Sys2Proof.Machine.execVersion q s
  | .bpStage q => Sys2Proof.Machine.execBpStage q s
  | .mbxBpEnable q => Sys2Proof.Machine.execMbxBpEnable q s
  | .delay q => Sys2Proof.Machine.execDelay q s
  | .ceiling q => Sys2Proof.Machine.execCeiling q s
  | .kctUpdStart who => Sys2Proof.Machine.execKctUpdStart who s
  | .kctUpdDataWrite who w => Sys2Proof.Machine.execKctUpdDataWrite who w s
  | .kctUpdCommit who => Sys2Proof.Machine.execKctUpdCommit who s
  | .kctUpdAbort who => Sys2Proof.Machine.execKctUpdAbort who s
  | .kctVerifyDone readback => Sys2Proof.Machine.execKctVerifyDone readback s
  | .pcrKick q w => Sys2Proof.Machine.execPcrKick q w s
  | .coreWdg q ecc => Sys2Proof.Machine.execCoreWdg q ecc s
  | .coreAccessFault q addr => Sys2Proof.Machine.execCoreAccessFault q addr s
  | .bmeOff => Sys2Proof.Machine.execBmeOff s
  | .fltInactive x => Sys2Proof.Machine.execFltInactive x s
  | .linkBlock l content => Sys2Proof.Machine.execLinkBlock l content s
  | .frameErr l cls len => Sys2Proof.Machine.execFrameErr l cls len s
  | .bulkFrame l f => Sys2Proof.Machine.execBulkFrame l f s
  | .msgDiscard l f => Sys2Proof.Machine.execMsgDiscard l f s
  | .kctUpdEraseDone => Sys2Proof.Machine.execKctUpdEraseDone s
  | .updateWindowTimeout => Sys2Proof.Machine.execUpdateWindowTimeout s

end Sys2Proof.Machine
end

