-- ==== Sys2Proof/Machine/Response.lean ====
section
/-!
DEFINITION. The response figures of the sample chains (04_channelizer.md R106, R113, R114) as conditions on the free factory
coefficients of Config: what a statement about the sound of a chain may assume of them, since the spec gives the figures
and not the coefficients (log entry 10). Nothing in the machine reads them. The noise figure of Table 52 is left out: it is
one of signal statistics.
-/

namespace Sys2Proof.Machine

/-- 10 log10(x / y) is at most `num / den` dB, exactly. -/
def atMostDb (num den : Nat) (x y : Int) : Prop := x ^ (10 * den) ≤ 10 ^ num * y ^ (10 * den)

/-- x and y are powers that differ by at most `num / den` dB. -/
def withinDb (num den : Nat) (x y : Int) : Prop := atMostDb num den x y ∧ atMostDb num den y x

/-- x lies at least 90 dB below y. -/
def down90 (x y : Int) : Prop := x * 10 ^ 9 ≤ y

/-- Power gain of the chain of Table 50 at a / b of 3.2 GS/s from the band centre, with a channel filter of coefficients `cf`
and the resampler at the fractional position num / den: the halfbands at their input rates, the resampler at Fi, and the
filter at Fs, where the component appears at its alias. -/
def chainPower (span : Nat) (cf : List Int) (num den a b : Nat) : Int :=
  ((List.range (chainD span)).map fun i => powerGain hbCoefs (a * 2 ^ i) b).foldl (· * ·) 1 *
    powerGain (subPhase Config.rsdHalf num den) (a * 2 ^ chainD span) b * powerGain cf (a * 163840) (b * span)

/-- The gain of stages that pass zero frequency at 1.0, in the units of `chainPower`. -/
def unitPower (stages : Nat) : Int := (2 ^ 194 : Int) ^ stages

/-- Table 52 at one resampler position and one frequency of a / b of 3.2 GS/s: the flat passband to 0.375 Fs, the stop band
from 0.4 Fs, and what lies beyond 0.5 Fs and aliases. -/
def chainAt (span : Nat) (cf : List Int) (num den a b : Nat) : Prop :=
  (a * 163840 * 8 ≤ 3 * b * span → withinDb 1 100 (chainPower span cf num den a b) (chainPower span cf num den 0 1)) ∧
  (2 * b * span ≤ 5 * a * 163840 → 2 * a ≤ b → down90 (chainPower span cf num den a b) (chainPower span cf num den 0 1))

/-- R106 for a factory bank: Table 52 at every position and frequency, and 0 dB ± 0.002 dB at zero frequency. -/
def chainFigures (span : Nat) (cf : List Int) : Prop :=
  ∀ num den, num < den →
    withinDb 1 500 (chainPower span cf num den 0 1) (unitPower (chainD span + 2)) ∧
    ∀ a b, 0 < b → chainAt span cf num den a b

/-- Group delay of coefficients at a / b of the sample rate, in samples, as numerator over the power gain. -/
def delayNum (cs : List Int) (a b : Nat) : Int :=
  let sum := fun (w : Nat → Int) (f : Nat → Nat → Int) => (cs.zipIdx.map fun c => w c.2 * c.1 * f (a * c.2) b).sum
  sum (fun t => t) cosTurn * sum (fun _ => 1) cosTurn + sum (fun t => t) sinTurn * sum (fun _ => 1) sinTurn

/-- The whole prototype of a resampler, at 1,024 times its input rate. -/
def prototype (half : Nat → BitVec 18) : List Int := (List.range 24576).map (proto half)

/-- R113 at the fractional position num / den: within 0.375 Fs the gain lies within 0.002 dB of `ref` and the delay within
10^-5 sample of 11.5 samples less the position; the response at zero frequency is real, since the coefficients are, and
positive. -/
def rsiAt (ref : Nat → Nat → Int) (num den : Nat) : Prop :=
  let cs := subPhase Config.rsiHalf num den
  0 < cs.sum ∧ ∀ a b, 0 < b → 8 * a ≤ 3 * b →
    withinDb 1 500 (powerGain cs a b) (ref a b) ∧
    (2 * (den : Int) * delayNum cs a b - (23 * den - 2 * num : Int) * powerGain cs a b).natAbs * 100000 ≤
      2 * den * (powerGain cs a b).natAbs

/-- R113: at every position; and the images of the band, at multiples of Fs from it, lie 90 dB below. -/
def rsiFigures : Prop :=
  (∃ ref : Nat → Nat → Int, ∀ num den, num < den → rsiAt ref num den) ∧
  ∀ a b k, 0 < b → 8 * a ≤ 3 * b → 1 ≤ k → k ≤ 512 →
    down90 (powerGain (prototype Config.rsiHalf) (k * b + a) (1024 * b)) (powerGain (prototype Config.rsiHalf) 0 1) ∧
    down90 (powerGain (prototype Config.rsiHalf) (k * b - a) (1024 * b)) (powerGain (prototype Config.rsiHalf) 0 1)

/-- Every zero of the polynomial Σ c_t w^t lies outside the unit circle, by the recursion of Schur and Cohn on its
coefficients; of the response in z = 1 / w every zero then lies inside, which is minimum phase. -/
def minimumPhase : Nat → List Int → Prop
  | 0, cs => cs.headD 0 ≠ 0
  | k + 1, cs =>
    let first := cs.headD 0
    let last := cs.getLastD 0
    last.natAbs < first.natAbs ∧
      minimumPhase k ((cs.zip cs.reverse).map fun c => first * c.1 - last * c.2).dropLast

/-- Bank 1 (R114), as 191 coefficients. -/
def bank1 : List Int := taps.map fun t => (Config.factoryCoef 1 t).toInt

/-- R114: bank 1 has bank 0's magnitude, to the ripple of Table 52 where the band is flat; minimum phase; a group delay of 24
samples at zero frequency, within 2 samples of it to 0.25 Fs, and of at most 60 at 0.375 Fs. -/
def bank1Figures : Prop :=
  minimumPhase 190 bank1 ∧ delayNum bank1 0 1 = 24 * powerGain bank1 0 1 ∧ delayNum bank1 3 8 ≤ 60 * powerGain bank1 3 8 ∧
  ∀ a b, 0 < b →
    (8 * a ≤ 3 * b → withinDb 1 100 (powerGain bank1 a b) (powerGain bank0 a b)) ∧
    (4 * a ≤ b → (delayNum bank1 a b - 24 * powerGain bank1 a b).natAbs ≤ 2 * (powerGain bank1 a b).natAbs)

/-- The figures that the spec gives for the factory coefficients. -/
def factoryFigures : Prop :=
  (∀ span, 1 ≤ span → span ≤ 25600 → chainFigures span bank0 ∧ chainFigures span bank1) ∧ rsiFigures ∧ bank1Figures

end Sys2Proof.Machine
end

