-- ==== Sys2Proof/Safety.lean ====
section
/-!
DEFINITION. What the claims about a run speak of: the canonical form of the register stores, the hard limits (R419, R420),
and the commands that begin or end a start of the field side.
-/

namespace Sys2Proof.Machine

/-- A store of register fields: its canonical form, and every value within the width of its field. -/
def goodRegs (m : Store Nat) : Bool :=
  Store.wf fieldReset m && m.all fun x => decide (x.2 < 2 ^ (Field.ofNat (x.1 % 1024)).row.width)

/-- The canonical form of the state: in every store of registers, of unit records and of the flash and local memories the
keys rise strictly and no entry equals what an unlisted key reads as, so equal contents are equal data; and every register
field holds a value of its width. -/
structure State.canonical (s : State) : Prop where
  regs : goodRegs s.regs = true
  hard : goodRegs s.hard = true
  readers : Store.wf (fun _ => {}) s.readers = true
  bps : Store.wf (fun _ => {}) s.bps = true
  ports : Store.wf (fun _ => {}) s.ports = true
  pwms : Store.wf (fun _ => {}) s.pwms = true
  convs : Store.wf (fun _ => {}) s.convs = true
  dies : Store.wf (fun _ => {}) s.dies = true
  lanes : Store.wf (fun _ => {}) s.lanes = true
  cages : Store.wf (fun _ => {}) s.cages = true
  rings : Store.wf (fun _ => {}) s.rings = true
  flash : Store.wf erased s.kct.flash = true
  localMem : Store.wf erased s.kct.localMem = true
  updHead : Store.wf erased s.kct.updHead = true

/-- The state holds the hard limits that `s` held: `hard` has every KL field of Table 184, EMG_FLOOR and Plain apart. -/
def sameLimits (s t : State) : Prop := t.hard = s.hard

/-- The commands that reset the field side (R438, Table 194): only they may change a hard limit. -/
def resetsField (c : Sys2Proof.Instr) : Bool :=
  match c with
  | .powerGood _ => true
  | .powerFail => true
  | .kctRestart _ _ => true
  | .thermalHold _ => true
  | .thermalRestart _ => true
  | _ => false

/-- An assert message of (source, cause) is on its way to the collector (R327, R330). -/
def State.faultWaits (s : State) (source cause : Nat) : Bool :=
  s.net.msgs.any fun m => m.source == source && m.cause == cause && !m.clear

/-- A clear message of (source, cause) is on its way to the collector (R327). -/
def State.clearWaits (s : State) (source cause : Nat) : Bool :=
  s.net.msgs.any fun m => m.source == source && m.cause == cause && m.clear

/-- The requester's accesses reach the field registers: a host's only while Scrim's field end answers (R19, R390). -/
def State.reaches (s : State) (who : Sys2Proof.Requester) : Bool := who != .host || s.is .SCR_HSTATUS_FIELD_UP

/-- Lane l takes a received frame (R259, R264, R283): it is UP, the length fits the class, and the receive buffer has
room. -/
def State.takes (s : State) (l : Nat) (f : Sys2Proof.Frame) : Bool :=
  s.laneUp l && lenOk f && decide ((s.lane l).held.get f.cls + frameBlocks f ≤ ownBuf.get f.cls)

/-- The frame is a MGMT message of type `m` for this module, of the version of this spec (R278, Table 123). -/
def State.hears (s : State) (l : Nat) (f : Sys2Proof.Frame) (m : Nat) : Bool :=
  s.takes l f && s.isMine f && f.cls == 2 && msgVer f == 1 && msgType f == m

/-- The state while a received frame of lane l stands in the receive buffer (R283). -/
def State.holding (s : State) (l : Nat) (f : Sys2Proof.Frame) : State :=
  (s.updLane l fun x => { x with held := x.held.add f.cls (frameBlocks f) }).tally 1 0x02 l 1 f.cls

/-- The parts of the state beside the register fields. -/
inductive Part where
  | hard | readers | clk | bps | ports | pwms | convs | dies | plRun | thm | pins | remoteDet | tiles | plain
  | lanes | cages | rings | plumb | col | net | fcl | frs | cnt | scr | kct | factory | free | pending
  deriving DecidableEq, Repr

/-- A part of `t` is as it is in `s`. -/
def Part.same (p : Part) (s t : State) : Prop :=
  match p with
  | .hard => t.hard = s.hard
  | .readers => t.readers = s.readers
  | .clk => t.clk = s.clk
  | .bps => t.bps = s.bps
  | .ports => t.ports = s.ports
  | .pwms => t.pwms = s.pwms
  | .convs => t.convs = s.convs
  | .dies => t.dies = s.dies
  | .plRun => t.plRun = s.plRun
  | .thm => t.thm = s.thm
  | .pins => t.pins = s.pins
  | .remoteDet => t.remoteDet = s.remoteDet
  | .tiles => t.tiles = s.tiles
  | .plain => t.plain = s.plain
  | .lanes => t.lanes = s.lanes
  | .cages => t.cages = s.cages
  | .rings => t.rings = s.rings
  | .plumb => t.plumb = s.plumb
  | .col => t.col = s.col
  | .net => t.net = s.net
  | .fcl => t.fcl = s.fcl
  | .frs => t.frs = s.frs
  | .cnt => t.cnt = s.cnt
  | .scr => t.scr = s.scr
  | .kct => t.kct = s.kct
  | .factory => t.factory = s.factory
  | .free => t.free = s.free
  | .pending => t.pending = s.pending

/-- The frame: every register field outside `fs` reads, in every instance, as before, and every part outside `ps` is
as before. -/
def frame (fs : List Field) (ps : List Part) (s t : State) : Prop :=
  (∀ f i, f ∉ fs → t.rd f i = s.rd f i) ∧ ∀ p, p ∉ ps → p.same s t

/-- The slots of band path n that the running gather interval has counted under an event of group 0 (Table 162). -/
def State.slotEvents (s : State) (e : Nat) (n : Sys2Proof.BpIx) : Nat :=
  Store.get (fun _ => 0) s.cnt.events (eventKey 0 e n 1)

/-- The audit of sample slots of band path n: SLOTS equals VALID, SUBST and MUTED together (R374). -/
def State.slotsAudit (s : State) (n : Sys2Proof.BpIx) : Prop :=
  s.slotEvents 1 n = s.slotEvents 2 n + s.slotEvents 3 n + s.slotEvents 4 n

/-- I and Q of a sample word lie within ±32,767 (R38). -/
def saturated (w : Sys2Proof.Word) : Prop :=
  -32767 ≤ signed 16 (w.toNat % 65536) ∧ -32767 ≤ signed 16 (w.toNat / 65536)

/-- Every step of a run answers a next state: the block never stops. -/
def neverStops (s : State) : Prop := ∀ k, ∃ t, Host.Core.run Sys2Proof.core k s = Host.Outcome.next t

end Sys2Proof.Machine
end

