-- ==== Sys2Proof/Certificates/Slice0/Obligations.lean ====
section
/-!
DEFINITION. The statements about the block, for the provers.
-/

open Sys2Proof Sys2Proof.Machine

/-- For every command c and state s, the step of s with c at the front of its queue is exec of c on s with the rest of the queue. With an empty queue a step lets at most one cycle of the clock pass and changes no register (the model's choice, log entry 3). (R125, R294) -/
def Obligations.StepRunsFront : Prop :=
  (∀ (c : Sys2Proof.Instr) (rest : List Sys2Proof.Instr) (s : State),
    step { s with pending := c :: rest } = exec c { s with pending := rest }) ∧
  (∀ s : State, s.pending = [] → ∃ t, step s = Host.Outcome.next t ∧ t.regs = s.regs ∧ t.hard = s.hard ∧ t.pending = [] ∧
    (t = s ∨ t.clk.cycle = s.clk.cycle + 1))

/-- After reset every register field reads its Reset column, in every instance; these are the fields whose value is not 0. KC, X and factory stand as 0 there (the model's choice, log entry 1), and GROUP of counters 0 to 207 has the fixed groups of Table 161. No command waits and the field side has no power. (R13, R372, R438) -/
def Obligations.ResetValues : Prop :=
  (∀ (f : Field) (i : Nat), f ≠ .CNT_SEL_GROUP → State.reset.rd f i = f.row.rst) ∧
  (∀ x ∈ ([
      (.KCT_ID_M_STEP, 0xA2),
      (.KCT_ID_FE_STEP, 0xA1),
      (.MON_CAL_GAIN_GAIN, 0x400000),
      (.SCR_FCREDIT_RSP, 0x20),
      (.SCR_FCREDIT_EVT, 0x10),
      (.SCR_FCREDIT_MBX_TX, 0x10),
      (.SCR_FCREDIT_CAP8, 0x20),
      (.BP_GAIN_GAIN_NOW, 0x8AD0),
      (.GCE_LEVEL_LEVEL, 0x8000),
      (.GCE_CAND0_C_LEV, 0x8AD0),
      (.GCE_CAND0_C_STAB, 0x8AD0),
      (.GCE_CAND1_C_EMIT, 0x8AD0),
      (.GCE_CAND1_C_THM, 0x8AD0),
      (.SDL_STATUS_MEMBERS, 0x1),
      (.SDL_BOUND_U_MAX, 0x8000),
      (.SDL_BOUND_FLOOR_MAX, 0x8000),
      (.SDL_HEAD_PROBE, 0x8000),
      (.SDL_SUB_U_LO, 0x8000),
      (.SDL_SUB_U_HI, 0x8000),
      (.EMG_WORST_EXCESS, 0x8000),
      (.EMG_BP_STATUS_SHARE, 0x1),
      (.EMG_BP_CEIL_CEIL, 0x8000),
      (.PLB_ROOT_CLASS, 0xFF),
      (.PLB_ROOT_PRIORITY, 0xFF),
      (.PLB_LSTAT_PEER_STEPS, 0xFF),
      (.COL_CAGE_STATUS_LOW_POWER, 0x1),
      (.SCR_HCREDIT_REQ, 0x20),
      (.SCR_HCREDIT_MBX_TX, 0x10)] : List (Field × Nat)), State.reset.rd x.1 0 = x.2) ∧
  (∀ c : Fin 64, State.reset.rd .CNT_SEL_GROUP c = 0) ∧ State.reset.rd .CNT_SEL_GROUP 64 = 1 ∧
  State.reset.rd .CNT_SEL_GROUP 207 = 7 ∧ State.reset.pending = [] ∧ State.reset.kct.powered = false

/-- The state after reset is in canonical form: its stores are sorted without repeats or default entries and every field fits its width; and the audit of sample slots holds of every band path. (R13, R374) -/
def Obligations.ResetCanonical : Prop :=
  State.reset.canonical ∧ ∀ n : BpIx, State.reset.slotsAudit n

/-- From every canonical state, whatever command is in front of the queue or none, the next state is canonical: in every store of registers, unit records and memory bytes the keys rise strictly and no entry holds its default, and every register field holds a value of its width. (R4, R13, R432) -/
def Obligations.StepKeepsCanonical : Prop :=
  ∀ s t : State, s.canonical → step s = Host.Outcome.next t → t.canonical

/-- No command but those that reset the field side changes a KL field, in any instance and from any state; and a register write of field firmware adds 1 to KCT_COUNT.KL_WRITES, up to its greatest value, exactly when it supplies other bits for some KL field than that field holds, so that a register rewritten with its KL bits unchanged is not counted. (R433) -/
def Obligations.LimitsKept : Prop :=
  (∀ (c : Sys2Proof.Instr) (s t : State), resetsField c = false → exec c s = Host.Outcome.next t →
    t.hard = s.hard ∧ ∀ (f : Field) (i : Nat), f.locked = true → t.rd f i = s.rd f i) ∧
  (∀ (q : CoreIx) (off : BitVec 20) (w : Sys2Proof.Word) (s : State), s.canonical → off.toNat < 0x80000 → off.toNat % 4 = 0 →
    (s.regAt (.core q) off.toNat).view = false →
    ∃ t, Sys2Proof.Machine.exec (.registerWrite (.core q) off w) s = Host.Outcome.next t ∧
      t.rd .KCT_COUNT_KL_WRITES =
        if s.breaksLock w.toNat (s.regAt (.core q) off.toNat).fields then min (s.rd .KCT_COUNT_KL_WRITES + 1) 0xFFFF
        else s.rd .KCT_COUNT_KL_WRITES)

/-- Every run of steps from every state, with any commands waiting, answers a next state: the block has no fault and no refusal. No command changes the queue of those that wait. (R426, R439) -/
def Obligations.NeverStops : Prop :=
  (∀ s : State, neverStops s) ∧ (∀ (c : Sys2Proof.Instr) (s : State), ∃ t, Sys2Proof.Machine.exec c s = Host.Outcome.next t ∧ t.pending = s.pending)

/-- A grain period, a missing grain and a gather boundary keep the audit of the sample slots of every band path: in the running gather interval SLOTS is VALID + SUBST + MUTED, and a boundary begins an interval with none. (R374, R290) -/
def Obligations.SlotsAudit : Prop :=
  ∀ s : State, s.canonical → Store.wf (fun _ => 0) s.cnt.events = true → (∀ m : BpIx, s.slotsAudit m) →
    (∀ (n : BpIx) (g : Sys2Proof.GrainInput), ∃ t, Sys2Proof.Machine.exec (.grainPeriod n g) s = Host.Outcome.next t ∧ ∀ m : BpIx, t.slotsAudit m) ∧
    (∀ n : BpIx, ∃ t, Sys2Proof.Machine.exec (.grainMissing n) s = Host.Outcome.next t ∧ ∀ m : BpIx, t.slotsAudit m) ∧
    ∃ t, Sys2Proof.Machine.exec .gatherBoundary s = Host.Outcome.next t ∧ ∀ m : BpIx, t.slotsAudit m

/-- Every stage saturates to ±32,767: the gain stage's result and a received sample lie within it, a received −32,768 is taken as −32,767, and every sample of a grain that a publishing band path forms, from a window or from a lane, lies within it. (R38) -/
def Obligations.SamplesSaturate : Prop :=
  (∀ (m sh : Nat) (x : Sys2Proof.IQ), -32767 ≤ (gainSample m sh x).1.i ∧ (gainSample m sh x).1.i ≤ 32767 ∧
    -32767 ≤ (gainSample m sh x).1.q ∧ (gainSample m sh x).1.q ≤ 32767) ∧
  (∀ w : Sys2Proof.Word, (ofSampleWord w).i = (if w.toNat % 65536 = 0x8000 then -32767 else signed 16 (w.toNat % 65536)) ∧
    (ofSampleWord w).q = (if w.toNat / 65536 = 0x8000 then -32767 else signed 16 (w.toNat / 65536))) ∧
  (∀ (s : State) (n : BpIx) (g : Sys2Proof.GrainInput), s.canonical → s.running n = true → (s.bp n).decl.srcKind = 1 →
    (s.bp n).decl.dstKind = 2 → (s.bp n).chz.on = true →
    ∃ t, Sys2Proof.Machine.exec (.grainPeriod n g) s = Host.Outcome.next t ∧ ∃ y, (t.bp n).out = some y ∧ ∀ w ∈ y.samples, saturated w) ∧
  (∀ (s : State) (n : BpIx) (g : Sys2Proof.GrainInput) (h : Held), s.canonical → s.running n = true →
    (s.bp n).decl.srcKind = 2 → (s.bp n).decl.dstKind = 2 → s.nextInput n = some h →
    ∃ t, Sys2Proof.Machine.exec (.grainPeriod n g) s = Host.Outcome.next t ∧ ∃ y, (t.bp n).out = some y ∧ ∀ w ∈ y.samples, saturated w)

/-- For every span N from 1 to 25,600 the number of halfband stages d is the largest integer with 2^d ≤ 163,840 / N; it runs from 2, exactly for N above 20,480, to 17, exactly for N below 2; and N × 2^d / 163,840 lies above 0.5 and at or below 1. (R104) -/
def Obligations.HalfbandStages : Prop :=
  ∀ N : Nat, 1 ≤ N → N ≤ 25600 →
    2 ^ chainD N * N ≤ 163840 ∧ (∀ d : Nat, 2 ^ d * N ≤ 163840 → d ≤ chainD N) ∧ 2 ≤ chainD N ∧ chainD N ≤ 17 ∧
    (chainD N = 2 ↔ 20480 < N) ∧ (chainD N = 17 ↔ N < 2) ∧ 163840 < 2 * (N * 2 ^ chainD N)

/-- A write of FW_MAX_DUTY, FW_I_LIM or FW_V_LIM at or below its hard value stores the value, whatever stood there; a write above it stores the hard value and sets DUTY_CLAMP. Of each of these commands it says that exec answers a next state, under the conditions named: PWM_FW_LIMIT_WRITE. (R303) -/
def Obligations.FirmwareLimits : Prop :=
  (∀ (s : State) (k : ChanIx) (v : BitVec 16), s.canonical →
    v.toNat ≤ s.rd .PWM_DUTY_MAX_DUTY k →
    ∃ t, Sys2Proof.Machine.exec (.pwmFwLimitWrite k 0 v) s = Host.Outcome.next t ∧
      t.rd .PWM_DUTY_FW_MAX_DUTY k = v.toNat ∧
      t.rd .PWM_STATUS_DUTY_CLAMP k = s.rd .PWM_STATUS_DUTY_CLAMP k ∧
      t.rd .PWM_DUTY_MAX_DUTY k = s.rd .PWM_DUTY_MAX_DUTY k) ∧
  (∀ (s : State) (k : ChanIx) (v : BitVec 16), s.canonical →
    s.rd .PWM_DUTY_MAX_DUTY k < v.toNat →
    ∃ t, Sys2Proof.Machine.exec (.pwmFwLimitWrite k 0 v) s = Host.Outcome.next t ∧
      t.rd .PWM_DUTY_FW_MAX_DUTY k = s.rd .PWM_DUTY_MAX_DUTY k ∧
      t.rd .PWM_STATUS_DUTY_CLAMP k = 1 ∧
      t.rd .PWM_DUTY_MAX_DUTY k = s.rd .PWM_DUTY_MAX_DUTY k) ∧
  (∀ (s : State) (k : ChanIx) (v : BitVec 16), s.canonical →
    k.val < 4 →
    v.toNat ≤ s.rd .PWM_ILIM_I_LIM k →
    ∃ t, Sys2Proof.Machine.exec (.pwmFwLimitWrite k 1 v) s = Host.Outcome.next t ∧
      t.rd .PWM_ILIM_FW_I_LIM k = v.toNat ∧
      t.rd .PWM_STATUS_DUTY_CLAMP k = s.rd .PWM_STATUS_DUTY_CLAMP k ∧
      t.rd .PWM_ILIM_I_LIM k = s.rd .PWM_ILIM_I_LIM k) ∧
  (∀ (s : State) (k : ChanIx) (v : BitVec 16), s.canonical →
    k.val < 4 →
    s.rd .PWM_ILIM_I_LIM k < v.toNat →
    ∃ t, Sys2Proof.Machine.exec (.pwmFwLimitWrite k 1 v) s = Host.Outcome.next t ∧
      t.rd .PWM_ILIM_FW_I_LIM k = s.rd .PWM_ILIM_I_LIM k ∧
      t.rd .PWM_STATUS_DUTY_CLAMP k = 1 ∧
      t.rd .PWM_ILIM_I_LIM k = s.rd .PWM_ILIM_I_LIM k) ∧
  (∀ (s : State) (k : ChanIx) (v : BitVec 16), s.canonical →
    k.val < 4 →
    v.toNat ≤ s.rd .PWM_VLIM_V_LIM k →
    ∃ t, Sys2Proof.Machine.exec (.pwmFwLimitWrite k 2 v) s = Host.Outcome.next t ∧
      t.rd .PWM_VLIM_FW_V_LIM k = v.toNat ∧
      t.rd .PWM_STATUS_DUTY_CLAMP k = s.rd .PWM_STATUS_DUTY_CLAMP k ∧
      t.rd .PWM_VLIM_V_LIM k = s.rd .PWM_VLIM_V_LIM k) ∧
  (∀ (s : State) (k : ChanIx) (v : BitVec 16), s.canonical →
    k.val < 4 →
    s.rd .PWM_VLIM_V_LIM k < v.toNat →
    ∃ t, Sys2Proof.Machine.exec (.pwmFwLimitWrite k 2 v) s = Host.Outcome.next t ∧
      t.rd .PWM_VLIM_FW_V_LIM k = s.rd .PWM_VLIM_V_LIM k ∧
      t.rd .PWM_STATUS_DUTY_CLAMP k = 1 ∧
      t.rd .PWM_VLIM_V_LIM k = s.rd .PWM_VLIM_V_LIM k)

/-- While PENDING is 1, a write to a staging field leaves every staged field as it was and sets BUSY, and so does an APPLY, in the write of BP_CTRL or alone; ENABLE = 0 cancels the pending APPLY and, of a running band path with ENABLE at 1, asks for the stop at its next grain boundary. Of each of these commands it says that exec answers a next state, under the conditions named: REGISTER_WRITE, BP_APPLY, BP_DISABLE. (R61) -/
def Obligations.StagingWhilePending : Prop :=
  (∀ (s : State) (q : CoreIx) (n : BpIx) (w : Word), s.canonical →
    s.rd .BP_STATUS_PENDING n = 1 →
    ∃ t, Sys2Proof.Machine.exec (.registerWrite (.core q) (BitVec.ofNat 20 (Field.BP_ROUTE_SRC_KIND.row.off + Field.BP_ROUTE_SRC_KIND.row.stride * n)) w) s = Host.Outcome.next t ∧
      t.stagedDecl n = s.stagedDecl n ∧
      t.rd .BP_STATUS_BUSY n = 1 ∧
      t.rd .BP_STATUS_PENDING n = 1 ∧
      (t.bp n).check = (s.bp n).check ∧
      (t.bp n).passed = (s.bp n).passed) ∧
  (∀ (s : State) (q : CoreIx) (n : BpIx) (w : Word), s.canonical →
    s.rd .BP_STATUS_PENDING n = 1 →
    ∃ t, Sys2Proof.Machine.exec (.registerWrite (.core q) (BitVec.ofNat 20 (Field.BP_FREQ_FREQ.row.off + Field.BP_FREQ_FREQ.row.stride * n)) w) s = Host.Outcome.next t ∧
      t.stagedDecl n = s.stagedDecl n ∧
      t.rd .BP_STATUS_BUSY n = 1 ∧
      t.rd .BP_STATUS_PENDING n = 1 ∧
      (t.bp n).check = (s.bp n).check ∧
      (t.bp n).passed = (s.bp n).passed) ∧
  (∀ (s : State) (q : CoreIx) (n : BpIx) (w : Word), s.canonical →
    s.rd .BP_STATUS_PENDING n = 1 →
    ∃ t, Sys2Proof.Machine.exec (.registerWrite (.core q) (BitVec.ofNat 20 (Field.BP_DST_FREQ_FREQ.row.off + Field.BP_DST_FREQ_FREQ.row.stride * n)) w) s = Host.Outcome.next t ∧
      t.stagedDecl n = s.stagedDecl n ∧
      t.rd .BP_STATUS_BUSY n = 1 ∧
      t.rd .BP_STATUS_PENDING n = 1 ∧
      (t.bp n).check = (s.bp n).check ∧
      (t.bp n).passed = (s.bp n).passed) ∧
  (∀ (s : State) (q : CoreIx) (n : BpIx) (w : Word), s.canonical →
    s.rd .BP_STATUS_PENDING n = 1 →
    s.rd .BP_CTRL_ENABLE n = 1 →
    bit 0 w.toNat = true →
    bit 1 w.toNat = true ∨ bits 16 16 w.toNat ≠ s.rd .BP_CTRL_SPAN n →
    ∃ t, Sys2Proof.Machine.exec (.registerWrite (.core q) (BitVec.ofNat 20 (Field.BP_CTRL_SPAN.row.off + Field.BP_CTRL_SPAN.row.stride * n)) w) s = Host.Outcome.next t ∧
      t.stagedDecl n = s.stagedDecl n ∧
      t.rd .BP_STATUS_BUSY n = 1 ∧
      t.rd .BP_STATUS_PENDING n = 1 ∧
      (t.bp n).check = (s.bp n).check ∧
      (t.bp n).passed = (s.bp n).passed) ∧
  (∀ (s : State) (n : BpIx), s.canonical →
    s.rd .BP_STATUS_PENDING n = 1 →
    ∃ t, Sys2Proof.Machine.exec (.bpApply n) s = Host.Outcome.next t ∧
      t.stagedDecl n = s.stagedDecl n ∧
      t.rd .BP_STATUS_BUSY n = 1 ∧
      t.rd .BP_STATUS_PENDING n = 1 ∧
      (t.bp n).check = (s.bp n).check ∧
      (t.bp n).passed = (s.bp n).passed) ∧
  (∀ (s : State) (n : BpIx), s.canonical →
    s.rd .BP_STATUS_PENDING n = 1 →
    ∃ t, Sys2Proof.Machine.exec (.bpDisable n) s = Host.Outcome.next t ∧
      t.rd .BP_STATUS_PENDING n = 0 ∧
      (t.bp n).check = none ∧
      (t.bp n).passed = none ∧
      (t.bp n).atStop = none ∧
      s.running n = false ∨ s.rd .BP_CTRL_ENABLE n = 0 ∨ (t.bp n).stop = true)

/-- Each of these commands leaves every register field outside its list, in every instance, and every part of the state outside its list as it was: band paths, front ends, the channelizer, gain control, Saddle, delay and tiles, the emission guard and Plumb. (R59, R87, R115, R133, R161, R186, R217, R240) -/
def Obligations.FrameOfTheBand : Prop :=
  ∀ (c : Sys2Proof.Instr) (s : State), s.canonical → ∃ t, Sys2Proof.Machine.exec c s = Host.Outcome.next t ∧
    match c with
    | .dieBReset =>
      frame [.SCR_HSTATUS_FIELD_UP, .SCR_HSTATUS_LANES_RX, .SCR_HSTATUS_LINK_EPOCH, .SCR_HCOUNT_ABSENT,
         .SCR_HCOUNT_UNSURE_WR, .SCR_HCOUNT_PARTIAL_WR, .SCR_HSYNC_ZERO, .SCR_HIRQ_CAUSE, .SCR_HCREDIT_REQ,
         .SCR_HCREDIT_MBX_TX, .PCIE_STATUS_GEN, .PCIE_STATUS_WIDTH, .PCIE_STATUS_NARROW, .PCIE_TEMP_TEMP,
         .PCIE_TEMP_MAX_T, .PCIE_CAP_CAP_LIMIT, .DMA_CTRL_EN, .DMA_CTRL_BP, .DMA_CTRL_TAP, .DMA_CTRL_IRQ_N,
         .DMA_CTRL_HOLDOFF, .DMA_STATUS_RUN, .DMA_STATUS_FIELD_LOST, .DMA_STATUS_DMA_ERR, .DMA_STATUS_BME_OFF,
         .DMA_STATUS_LIMIT_STOP, .DMA_STATUS_TEMP_STOP, .DMA_STATUS_ENA_REFUSED, .DMA_STATUS_BAD_DESC,
         .DMA_STATUS_HEAD_REFUSED, .DMA_BASE_LO_ADDR, .DMA_BASE_HI_ADDR, .DMA_SIZE_SIZE, .DMA_HEAD_HEAD,
         .DMA_TAIL_TAIL, .DMA_FLUSH_FLUSH_US, .DMA_COUNT_LOST, .MBX_CTRL_SEND, .MBX_CTRL_POP, .MBX_CTRL_TX_FULL,
         .MBX_CTRL_RX_LEVEL, .MBX_TX_WORD, .MBX_RX_WORD]
        [.rings, .scr] s t
    | .declRetry =>
      frame [.BP_STATUS_STATE, .BP_STATUS_PENDING, .BP_STATUS_REJECT, .BP_STATUS_BUSY, .GRG_KEEP_KEEP_DROP,
         .COL_COUNT1_NO_ROUTE, .LANE_CREDIT_BAND, .LANE_CREDIT_TIME, .LANE_CREDIT1_MGMT, .LANE_CREDIT1_BULK,
         .LANE_COUNT_KEPT]
        [.bps, .tiles, .lanes, .cnt, .kct] s t
    | .registerReadClear _ _ | .wideLoRead _ _ =>
      frame [.KCT_COUNT_KL_WRITES, .PCR_FAULT_ADDR, .PCR_COUNT_RESTARTS, .PCR_COUNT_FAULTS, .FCL_COUNT_NOTICES,
         .FCL_COUNT_MERGED, .FCL_UNIT_RECOVERIES, .FRS_COUNT_SUMMARIES, .FRS_COUNT_COALESCED, .FRS_COUNT1_FLASH_ERR,
         .CNT_STATUS_HOST_REFUSED, .CNT_PS_STATUS_LEVEL, .CNT_PS_STATUS_DROPPED, .THM_COUNT_WARN_EVENTS,
         .THM_COUNT_SUSPECT_EVENTS, .MON_QLEVEL_LEVEL, .MON_QLEVEL_Q_DROP, .MON_COUNT_URG_LOST, .MON_COUNT_ABORTS,
         .PWM_COUNT_SHORT_PULSES, .PWM_COUNT_LATE_COMMITS, .PWM_COUNT1_SWN_MISS, .PWM_COUNT1_G3_TRIPS,
         .PWM_FLT_FLT_EVENTS, .MEM_CH_CE, .BP_STATUS_SUBST_GRAINS, .CHZ_BANK_STATUS_LOST_SWAP, .CHZ_COEF_ADDR_TAP,
         .GCE_OVR_OVR_COUNT, .GCE_TICK_OVERRUN_TICKS, .GCE_SETP_CNT_INVALID_EVENTS, .SDL_COUNT_NEW_LOOPS,
         .SDL_COUNT_G1_TRIPS, .SDL_DIGEST_DIGESTS_RX, .SDL_DIGEST_DIGEST_MISS, .GRG_SEAL_FAIL_FAILS,
         .GRG_KEEP_RESENT, .GRG_KEEP_KEEP_DROP, .FLO_COUNT_STEPS, .FLO_COUNT_LOST_EVENTS, .FLO_COUNT1_POISON_GRAINS,
         .FLO_COUNT1_DUP_GRAINS, .EMG_STATUS_G2_PORT_TRIPS, .EMG_BP_CEIL_G2_TRIPS, .PLN_STATUS_BAD_TILES,
         .PLB_REF_STAT_PPS_REJECT, .PLB_COUNT_STEPS, .PLB_COUNT_ROOT_CHANGES, .PLB_LCOUNT_EXCH_BAD,
         .COL_COUNT0_REPAIRS, .COL_COUNT0_REPAIR_FAIL, .COL_COUNT1_HOP_DROP, .COL_COUNT1_NO_ROUTE,
         .COL_COUNT2_MSG_DISCARD, .COL_COUNT2_ADDR_CHANGES, .COL_CAGE_STATUS_INSERTIONS, .LANE_STATUS_UNRES_DROP,
         .LANE_ERR_FRAME_ERR, .LANE_ERR_BLOCK_ERR, .LANE_COUNT_FAILS, .FE_STATUS_UNLOCK_COUNT,
         .FE_PILOT_STATUS_FRESH, .SCR_HCOUNT_ABSENT, .SCR_HCOUNT_UNSURE_WR, .SCR_HCOUNT_PARTIAL_WR, .DMA_COUNT_LOST]
        [.readers, .convs, .cnt, .scr] s t
    | .bpApply _ =>
      frame [.BP_STATUS_STATE, .BP_STATUS_PENDING, .BP_STATUS_REJECT, .BP_STATUS_BUSY, .GRG_KEEP_KEEP_DROP,
         .COL_COUNT1_NO_ROUTE, .LANE_CREDIT_BAND, .LANE_CREDIT_TIME, .LANE_CREDIT1_MGMT, .LANE_CREDIT1_BULK,
         .LANE_COUNT_KEPT]
        [.bps, .tiles, .lanes, .cnt] s t
    | .bpEnable _ =>
      frame [.BP_CTRL_ENABLE, .BP_STATUS_STATE, .BP_STATUS_PENDING, .BP_STATUS_REJECT, .BP_STATUS_BUSY,
         .GRG_KEEP_KEEP_DROP, .COL_COUNT1_NO_ROUTE, .COL_BP_STATUS_ROLE, .COL_BP_STATUS_ROUTED, .COL_BP_STATUS_HOPS,
         .COL_BP_STATUS_K1, .COL_BP_STATUS_PEER, .LANE_STATUS_UNRES, .LANE_RESV_RESERVED, .LANE_RESV_CEIL,
         .LANE_CREDIT_BAND, .LANE_CREDIT_TIME, .LANE_CREDIT1_MGMT, .LANE_CREDIT1_BULK, .LANE_COUNT_KEPT,
         .LANE_COUNT_MEMBERS]
        [.bps, .tiles, .lanes, .col, .cnt] s t
    | .bpDisable _ =>
      frame [.BP_CTRL_ENABLE, .BP_STATUS_STATE, .BP_STATUS_PENDING, .GRG_KEEP_KEEP_DROP, .COL_COUNT1_NO_ROUTE,
         .COL_BP_STATUS_ROLE, .COL_BP_STATUS_ROUTED, .COL_BP_STATUS_HOPS, .COL_BP_STATUS_K1, .COL_BP_STATUS_PEER,
         .LANE_STATUS_UNRES, .LANE_RESV_RESERVED, .LANE_RESV_CEIL, .LANE_CREDIT_BAND, .LANE_CREDIT_TIME,
         .LANE_CREDIT1_MGMT, .LANE_CREDIT1_BULK, .LANE_COUNT_KEPT, .LANE_COUNT_MEMBERS]
        [.bps, .tiles, .lanes, .col, .cnt] s t
    | .bpCheckDone _ =>
      frame [.FCL_COUNT_MERGED, .BP_STATUS_STATE, .BP_STATUS_PENDING, .BP_STATUS_REJECT, .BP_GAIN_GAIN_NOW, .CHZ_CHAIN_D,
         .CHZ_CHAIN_BYPASS, .CHZ_SETTLE_COUNT, .CHZ_SRC_GD_LO_GD_LO, .CHZ_SRC_GD_HI_GD_HI, .CHZ_DST_GD_LO_GD_LO,
         .CHZ_DST_GD_HI_GD_HI, .CHZ_GDC_GDC, .CHZ_DST_GDC_GDC, .GCE_STAT_CS, .GCE_STAT_DET_ARMED,
         .SDL_STATUS_MEAS_DONE, .SDL_BOUND_U_MAX, .SDL_BOUND_FLOOR_MAX, .SDL_SUB_U_LO, .SDL_SUB_U_HI,
         .FLO_STATUS_DSTATE, .FLO_STATUS_SLEWING, .FLO_MIN_LO_DMIN, .FLO_MIN_HI_DMIN, .FLO_AGE_LO_AGE,
         .FLO_AGE_HI_AGE, .FLO_LDST_LO_LDST, .FLO_LDST_HI_LDST, .FLO_MU_MU, .EMG_BP_STATUS_H_E,
         .EMG_BP_STATUS_G2_MUTED, .EMG_BP_STATUS_FORBID, .EMG_BP_STATUS_PORT, .EMG_BP_STATUS_SHARE,
         .EMG_BP_CEIL_CEIL, .COL_BP_STATUS_ROLE, .COL_BP_STATUS_ROUTED, .COL_BP_STATUS_HOPS, .COL_BP_STATUS_K1,
         .COL_BP_STATUS_PEER, .COL_BP_RATE_RATE, .FE_PILOT_STATUS_PSTATE]
        [.bps, .ports, .tiles, .plain, .net, .scr] s t
    | .bpDeclarationApply _ =>
      frame [.FCL_COUNT_MERGED, .BP_STATUS_STATE, .BP_STATUS_PENDING, .BP_GAIN_GAIN_NOW, .CHZ_CHAIN_D, .CHZ_CHAIN_BYPASS,
         .CHZ_SETTLE_COUNT, .CHZ_SRC_GD_LO_GD_LO, .CHZ_SRC_GD_HI_GD_HI, .CHZ_DST_GD_LO_GD_LO, .CHZ_DST_GD_HI_GD_HI,
         .CHZ_GDC_GDC, .CHZ_DST_GDC_GDC, .GCE_STAT_CS, .GCE_STAT_DET_ARMED, .SDL_STATUS_MEAS_DONE, .SDL_BOUND_U_MAX,
         .SDL_BOUND_FLOOR_MAX, .SDL_SUB_U_LO, .SDL_SUB_U_HI, .FLO_STATUS_DSTATE, .FLO_STATUS_SLEWING,
         .FLO_MIN_LO_DMIN, .FLO_MIN_HI_DMIN, .FLO_AGE_LO_AGE, .FLO_AGE_HI_AGE, .FLO_LDST_LO_LDST, .FLO_LDST_HI_LDST,
         .FLO_MU_MU, .EMG_BP_STATUS_H_E, .EMG_BP_STATUS_SHARE, .EMG_BP_CEIL_CEIL, .COL_BP_STATUS_ROLE,
         .COL_BP_STATUS_ROUTED, .COL_BP_STATUS_HOPS, .COL_BP_STATUS_K1, .COL_BP_STATUS_PEER, .COL_BP_RATE_RATE,
         .FE_PILOT_STATUS_PSTATE]
        [.bps, .ports, .tiles, .plain, .net, .scr] s t
    | .bpStop _ =>
      frame [.BP_STATUS_STATE, .BP_STATUS_PENDING, .BP_GAIN_GAIN_NOW, .CHZ_BANK_STATUS_ACTIVE, .CHZ_BANK_STATUS_FADING,
         .CHZ_CHAIN_D, .CHZ_CHAIN_BYPASS, .CHZ_SETTLE_COUNT, .CHZ_SRC_GD_LO_GD_LO, .CHZ_SRC_GD_HI_GD_HI,
         .CHZ_DST_GD_LO_GD_LO, .CHZ_DST_GD_HI_GD_HI, .CHZ_GDC_GDC, .CHZ_DST_GDC_GDC, .GCE_STAT_CS, .GCE_CAND0_C_LEV,
         .GCE_CAND0_C_STAB, .GCE_CAND1_C_EMIT, .GCE_CAND1_C_THM, .GRG_KEEP_KEEP_DROP, .FLO_STATUS_DSTATE,
         .FLO_STATUS_SLEWING, .FLO_STATUS_SLACK_LOW, .FLO_MU_MU, .EMG_BP_STATUS_SHARE, .EMG_BP_CEIL_CEIL,
         .COL_COUNT1_NO_ROUTE, .COL_BP_STATUS_ROLE, .COL_BP_STATUS_ROUTED, .COL_BP_STATUS_UNRES, .COL_BP_STATUS_HOPS,
         .COL_BP_STATUS_K1, .COL_BP_STATUS_PEER, .LANE_STATUS_UNRES, .LANE_RESV_RESERVED, .LANE_RESV_CEIL,
         .LANE_CREDIT_BAND, .LANE_CREDIT_TIME, .LANE_CREDIT1_MGMT, .LANE_CREDIT1_BULK, .LANE_COUNT_KEPT,
         .LANE_COUNT_MEMBERS, .FE_PILOT_STATUS_PSTATE]
        [.bps, .ports, .tiles, .plain, .lanes, .col, .net, .cnt] s t
    | .grainPeriod _ _ =>
      frame [.FCL_COUNT_MERGED, .BP_STATUS_STATE, .BP_STATUS_LATE, .BP_STATUS_SUBST_GRAINS, .SDL_STATUS_G1_MUTED,
         .SDL_STATUS_G1_MARGIN, .SDL_STATUS_G1_OVERLOAD, .SDL_COUNT_G1_TRIPS, .GRG_KEEP_KEEP_DROP,
         .FLO_STATUS_TS_JUMP, .EMG_BP_STATUS_G2_MUTED, .EMG_BP_STATUS_CEILING, .EMG_BP_STATUS_FORBID,
         .EMG_BP_CEIL_G2_TRIPS, .COL_COUNT1_NO_ROUTE, .LANE_CREDIT_BAND, .LANE_CREDIT_TIME, .LANE_CREDIT1_MGMT,
         .LANE_CREDIT1_BULK, .LANE_COUNT_KEPT, .DMA_COUNT_LOST]
        [.bps, .ports, .tiles, .lanes, .rings, .net, .cnt] s t
    | .bandFrameReceive _ _ =>
      frame [.FCL_COUNT_MERGED, .BP_STATUS_STATE, .BP_STATUS_LATE, .GRG_KEEP_RESENT, .GRG_KEEP_KEEP_DROP,
         .FLO_STATUS_TS_JUMP, .FLO_STATUS_TS_BAD, .FLO_COUNT1_DUP_GRAINS, .PLB_LSTAT_LROLE, .PLB_LSTAT_PEER_OK,
         .PLB_LSTAT_PEER_STEPS, .PLB_LCOUNT_EXCH_BAD, .COL_COUNT0_REPAIRS, .COL_COUNT0_REPAIR_FAIL,
         .COL_COUNT1_HOP_DROP, .COL_COUNT1_NO_ROUTE, .COL_BP_STATUS_UNRES, .LANE_STATUS_STATE,
         .LANE_STATUS_BLOCK_LOCK, .LANE_STATUS_LOS, .LANE_STATUS_PROTO, .LANE_STATUS_CRC_BURST, .LANE_STATUS_UNRES,
         .LANE_RESV_RESERVED, .LANE_RESV_CEIL, .LANE_CREDIT_BAND, .LANE_CREDIT_TIME, .LANE_CREDIT1_MGMT,
         .LANE_CREDIT1_BULK, .LANE_ERR_FRAME_ERR, .LANE_ERR_BLOCK_ERR, .LANE_COUNT_KEPT, .LANE_COUNT_MEMBERS,
         .LANE_COUNT_FAILS]
        [.bps, .tiles, .lanes, .cages, .col, .net, .cnt] s t
    | .grainMissing _ =>
      frame [.BP_STATUS_STATE, .BP_STATUS_GAP, .BP_STATUS_SUBST_GRAINS, .GRG_KEEP_KEEP_DROP, .COL_COUNT1_NO_ROUTE,
         .LANE_CREDIT_BAND, .LANE_CREDIT_TIME, .LANE_CREDIT1_MGMT, .LANE_CREDIT1_BULK, .LANE_COUNT_KEPT,
         .DMA_COUNT_LOST]
        [.bps, .ports, .tiles, .lanes, .rings, .cnt] s t
    | .noGrains _ | .delayLost _ =>
      frame [.FCL_COUNT_MERGED, .FRS_STATUS_FLOOD, .FRS_QUEUE_LEVEL, .FRS_COUNT_COALESCED, .BP_STATUS_STATE,
         .FLO_STATUS_DSTATE, .FLO_STATUS_SLEWING, .FLO_COUNT_LOST_EVENTS]
        [.bps, .net, .frs, .scr] s t
    | .feRxEnable _ | .feRxDisable _ =>
      frame [.PWM_STATUS_STATE, .PWM_STATUS_FULL, .PWM_STATUS_DUTY_CLAMP, .PWM_STATUS_H_G3, .PWM_STATUS_H_FENCE,
         .PWM_STATUS_H_RELAY, .PWM_COUNT_SHORT_PULSES, .CHZ_GDC_GDC, .CHZ_DST_GDC_GDC, .EMG_BP_STATUS_SHARE,
         .EMG_BP_CEIL_CEIL, .FE_CTRL_RX_EN, .FE_STATUS_STATE, .FE_STATUS_RX_LOCK, .FE_STATUS_TX_LOCK,
         .FE_STATUS_TX_HELD, .FE_STATUS_RETUNE_PEND, .FE_STATUS_REJECT, .FE_RELAY_POS, .FE_RELAY_MOVE_COUNT,
         .FE_CAL_STATUS_SEGMENT]
        [.bps, .ports, .pwms, .plain, .cnt] s t
    | .feTxEnable _ | .feTxDisable _ =>
      frame [.FE_CTRL_TX_EN, .FE_STATUS_TX_HELD]
        [.ports] s t
    | .feRetune _ =>
      frame [.CHZ_GDC_GDC, .CHZ_DST_GDC_GDC, .EMG_BP_STATUS_SHARE, .EMG_BP_CEIL_CEIL, .FE_STATUS_STATE,
         .FE_STATUS_RX_LOCK, .FE_STATUS_TX_LOCK, .FE_STATUS_TX_HELD, .FE_STATUS_RETUNE_PEND, .FE_STATUS_REJECT,
         .FE_CAL_STATUS_SEGMENT]
        [.bps, .ports, .plain] s t
    | .feCalReq _ =>
      frame [.FE_STATUS_STATE, .FE_STATUS_TX_HELD]
        [.ports] s t
    | .feLockDone _ =>
      frame [.PWM_STATUS_STATE, .PWM_STATUS_FULL, .PWM_STATUS_DUTY_CLAMP, .PWM_STATUS_H_G3, .PWM_STATUS_H_FENCE,
         .PWM_STATUS_H_RELAY, .PWM_COUNT_SHORT_PULSES, .CHZ_GDC_GDC, .CHZ_DST_GDC_GDC, .FE_STATUS_STATE,
         .FE_STATUS_RX_LOCK, .FE_STATUS_TX_LOCK, .FE_STATUS_TX_HELD, .FE_RELAY_POS, .FE_RELAY_MOVE_COUNT,
         .FE_RX_LAT_LAT, .FE_TX_LAT_LAT]
        [.bps, .ports, .pwms, .net, .cnt] s t
    | .lockTimeout _ =>
      frame [.FCL_COUNT_MERGED, .EMG_BP_STATUS_SHARE, .EMG_BP_CEIL_CEIL, .FE_STATUS_STATE, .FE_STATUS_TX_HELD,
         .FE_STATUS_RETUNE_PEND]
        [.ports, .plain, .net] s t
    | .unlock _ =>
      frame [.FCL_COUNT_MERGED, .CHZ_GDC_GDC, .CHZ_DST_GDC_GDC, .FE_STATUS_STATE, .FE_STATUS_RX_LOCK, .FE_STATUS_TX_LOCK,
         .FE_STATUS_TX_HELD, .FE_STATUS_RETUNE_PEND, .FE_STATUS_UNLOCK_COUNT, .FE_CAL_STATUS_SEGMENT]
        [.bps, .ports, .net, .cnt] s t
    | .feCalDone _ _ =>
      frame [.FCL_COUNT_MERGED, .PWM_STATUS_STATE, .PWM_STATUS_FULL, .PWM_STATUS_DUTY_CLAMP, .PWM_STATUS_H_G3,
         .PWM_STATUS_H_FENCE, .PWM_STATUS_H_RELAY, .PWM_COUNT_SHORT_PULSES, .CHZ_GDC_GDC, .CHZ_DST_GDC_GDC,
         .EMG_BP_STATUS_SHARE, .EMG_BP_CEIL_CEIL, .FE_STATUS_STATE, .FE_STATUS_RX_LOCK, .FE_STATUS_TX_LOCK,
         .FE_STATUS_TX_HELD, .FE_STATUS_RETUNE_PEND, .FE_RELAY_POS, .FE_RELAY_MOVE_COUNT, .FE_CAL_STATUS_RX_IRR,
         .FE_CAL_STATUS_TX_IRR, .FE_CAL_STATUS_OBS_IRR, .FE_CAL_STATUS_FG_FAIL, .FE_CAL_STATUS_SEGMENT]
        [.bps, .ports, .pwms, .plain, .net, .cnt] s t
    | .txTimeout _ =>
      frame [.FCL_COUNT_MERGED, .EMG_BP_STATUS_SHARE, .EMG_BP_CEIL_CEIL, .FE_STATUS_STATE, .FE_STATUS_TX_HELD,
         .FE_STATUS_TX_TIMEOUT, .FE_STATUS_RETUNE_PEND]
        [.ports, .plain, .net] s t
    | .feBgCalUpdate _ _ =>
      frame []
        [.ports, .net, .cnt] s t
    | .calStale _ =>
      frame [.FCL_COUNT_MERGED, .FE_CAL_STATUS_STALE]
        [.ports, .net] s t
    | .feAttApply _ =>
      frame [.EMG_BP_STATUS_SHARE, .EMG_BP_CEIL_CEIL]
        [.ports, .plain] s t
    | .relayMoveStart _ =>
      frame [.PWM_STATUS_STATE, .PWM_STATUS_FULL, .PWM_STATUS_DUTY_CLAMP, .PWM_STATUS_H_G3, .PWM_STATUS_H_FENCE,
         .PWM_STATUS_H_RELAY, .PWM_COUNT_SHORT_PULSES, .FE_RELAY_POS, .FE_RELAY_MOVE_COUNT]
        [.ports, .pwms, .cnt] s t
    | .relayMoveEnd _ _ =>
      frame [.FCL_COUNT_MERGED, .PWM_STATUS_STATE, .PWM_STATUS_FULL, .PWM_STATUS_DUTY_CLAMP, .PWM_STATUS_H_G3,
         .PWM_STATUS_H_FENCE, .PWM_STATUS_H_RELAY, .PWM_COUNT_SHORT_PULSES, .BP_GAIN_GAIN_NOW, .GCE_STAT_CS,
         .GCE_STAT_DET_ARMED, .SDL_STATUS_MEAS_DONE, .SDL_BOUND_U_MAX, .SDL_BOUND_FLOOR_MAX, .SDL_SUB_U_LO,
         .SDL_SUB_U_HI, .FE_STATUS_TX_HELD, .FE_STATUS_RELAY_MISMATCH, .FE_RELAY_POS, .FE_RELAY_MOVE_COUNT]
        [.bps, .ports, .pwms, .net, .cnt] s t
    | .fePilotMode _ _ =>
      frame [.FE_STATUS_REJECT, .FE_PILOT_CTRL_MODE, .FE_PILOT_DLY_LO_DLY_LO, .FE_PILOT_DLY_HI_DLY_HI,
         .FE_PILOT_STATUS_PSTATE]
        [.ports] s t
    | .pilotLocked _ =>
      frame [.FE_PILOT_STATUS_PSTATE]
        [] s t
    | .pilotLowLevel _ =>
      frame [.FE_PILOT_STATUS_LOW_LEVEL]
        [] s t
    | .pilotMeasureDone _ _ _ _ =>
      frame [.FE_PILOT_DLY_LO_DLY_LO, .FE_PILOT_DLY_HI_DLY_HI, .FE_PILOT_STATUS_AMBIG, .FE_PILOT_STATUS_FRESH,
         .FE_PILOT_STATUS_COUNT]
        [.cnt] s t
    | .chzSync _ =>
      frame [.SCR_HCOUNT_ABSENT]
        [.bps, .cnt, .scr] s t
    | .syncReset _ =>
      frame [.CHZ_BANK_STATUS_ACTIVE, .CHZ_BANK_STATUS_PENDING, .CHZ_BANK_STATUS_FADING, .CHZ_SRC_GD_LO_GD_LO,
         .CHZ_SRC_GD_HI_GD_HI]
        [.bps] s t
    | .chzSwap _ _ _ =>
      frame [.CHZ_CTRL_REQ_BANK, .CHZ_CTRL_FADE, .CHZ_BANK_STATUS_ACTIVE, .CHZ_BANK_STATUS_PEND_BANK,
         .CHZ_BANK_STATUS_PENDING, .CHZ_BANK_STATUS_SWAP_REFUSED, .CHZ_BANK_STATUS_LOST_SWAP, .CHZ_SRC_GD_LO_GD_LO,
         .CHZ_SRC_GD_HI_GD_HI, .SCR_HCOUNT_ABSENT]
        [.bps, .cnt, .scr] s t
    | .fadeStart _ =>
      frame [.CHZ_BANK_STATUS_PENDING, .CHZ_BANK_STATUS_FADING]
        [.bps] s t
    | .fadeEnd _ =>
      frame [.CHZ_BANK_STATUS_ACTIVE, .CHZ_BANK_STATUS_FADING, .CHZ_SRC_GD_LO_GD_LO, .CHZ_SRC_GD_HI_GD_HI]
        [.bps] s t
    | .chzCheck _ _ =>
      frame [.CHZ_CTRL_CHK_BANK, .CHZ_BANK_STATUS_CHECKING, .SCR_HCOUNT_ABSENT]
        [.bps, .cnt, .scr] s t
    | .chzCheckDone _ =>
      frame [.CHZ_BANK_STATUS_OK2, .CHZ_BANK_STATUS_OK3, .CHZ_BANK_STATUS_CHECKING, .CHZ_BANK_GD_GD2, .CHZ_BANK_GD_GD3]
        [] s t
    | .chzCoefWrite _ _ =>
      frame [.CHZ_BANK_STATUS_WR_REFUSED, .CHZ_BANK_STATUS_OK2, .CHZ_BANK_STATUS_OK3, .CHZ_COEF_ADDR_TAP,
         .SCR_HCOUNT_ABSENT]
        [.bps, .cnt, .scr] s t
    | .chzCoefRead _ =>
      frame [.CHZ_COEF_ADDR_TAP, .SCR_HCOUNT_ABSENT]
        [.readers, .cnt, .scr] s t
    | .tickBoundary =>
      frame [.KCT_TIMES_T_BAND, .KCT_TIMES_T_PLUMB, .FCL_COUNT_MERGED, .FCL_UNIT_RECOV_HOUR, .FRS_STATUS_FLOOD,
         .FRS_QUEUE_LEVEL, .FRS_COUNT_COALESCED, .THM_SHUT_RESTARTS, .BP_STATUS_STATE, .BP_STATUS_SUBST_GRAINS,
         .BP_GAIN_GAIN_NOW, .CHZ_GDC_GDC, .CHZ_DST_GDC_GDC, .GCE_STAT_WINNER, .GCE_STAT_CS, .GCE_STAT_SP_CLAMP,
         .GCE_STAT_SRC_INV, .GCE_STAT_DET_ARMED, .GCE_LEVEL_LEVEL, .GCE_LEVEL_SP_RAMP, .GCE_CAND0_C_LEV,
         .GCE_CAND0_C_STAB, .GCE_CAND1_C_EMIT, .GCE_CAND1_C_THM, .GCE_OVR_OVR_CONSEC, .GCE_SETA_CODE, .GCE_SETP_DUTY,
         .SDL_STATUS_MEAS_DONE, .SDL_STATUS_FLOOR_HIGH, .SDL_STATUS_G1_MUTED, .SDL_STATUS_G1_MARGIN,
         .SDL_STATUS_G1_OVERLOAD, .SDL_STATUS_PROBE_CLAMP, .SDL_STATUS_MEMBERS, .SDL_STATUS_WORST_SB,
         .SDL_BOUND_U_MAX, .SDL_BOUND_FLOOR_MAX, .SDL_HEAD_PROBE, .SDL_SUB_U_LO, .SDL_SUB_U_HI, .SDL_DETECT_MUTUAL,
         .SDL_COUNT_G1_TRIPS, .GRG_FREE_FREE, .GRG_OWNED_OWNED, .GRG_QUAR_QUARANTINED, .GRG_QUAR_RETIRED,
         .FLO_STATUS_DSTATE, .FLO_STATUS_SLEWING, .FLO_STATUS_SLACK_LOW, .FLO_APPLIED_LO_APPLIED,
         .FLO_APPLIED_HI_APPLIED, .FLO_MIN_LO_DMIN, .FLO_MIN_HI_DMIN, .FLO_AGE_LO_AGE, .FLO_AGE_HI_AGE,
         .FLO_LDST_LO_LDST, .FLO_LDST_HI_LDST, .FLO_MU_MU, .FLO_TILES_RESERVED, .FLO_FILL_GRAINS, .EMG_STATUS_TILE,
         .EMG_BP_STATUS_G2_MUTED, .EMG_BP_STATUS_FORBID, .EMG_BP_STATUS_SHARE, .EMG_BP_CEIL_CEIL, .PLB_COUNT_STEPS,
         .PLB_COUNT_EPOCH, .FE_PILOT_STATUS_PSTATE]
        [.clk, .bps, .ports, .thm, .pins, .tiles, .plain, .lanes, .plumb, .net, .fcl, .frs, .cnt, .scr, .kct, .free] s t
    | .overrun _ _ =>
      frame [.FCL_COUNT_MERGED, .GCE_OVR_OVR_CONSEC, .GCE_OVR_OVR_COUNT, .GCE_TICK_OVERRUN_TICKS, .GCE_TICK_LATE_SDL,
         .GCE_TICK_LATE_EMG, .GCE_TICK_LATE_THM, .GCE_TICK_LATE_MON, .GCE_TICK_ECC_RETRY]
        [.bps, .pins, .net, .cnt] s t
    | .engineEcc _ =>
      frame [.FCL_COUNT_MERGED]
        [.net] s t
    | .csLate _ =>
      frame [.FCL_COUNT_MERGED, .GCE_STAT_CS_LATE]
        [.net] s t
    | .fwCeilWrite _ _ _ =>
      frame [.GCE_STAT_CEIL_CLAMP, .GCE_CEIL_FW_CEIL, .GCE_SLEW_FW_SP_SLEW, .SCR_HCOUNT_ABSENT]
        [.cnt, .scr] s t
    | .setaInvalid =>
      frame [.GCE_STAT_SRC_INV, .GCE_SETA_VALID]
        [] s t
    | .setpPeriod _ _ =>
      frame [.GCE_STAT_SRC_INV, .GCE_SETP_VALID, .GCE_SETP_FAST, .GCE_SETP_SLOW, .GCE_SETP_PER_PERIOD,
         .GCE_SETP_CNT_INVALID_EVENTS]
        [.pins] s t
    | .setpStuck =>
      frame [.GCE_STAT_SRC_INV, .GCE_SETP_VALID, .GCE_SETP_STUCK, .GCE_SETP_CNT_INVALID_EVENTS]
        [.pins] s t
    | .saddleUpdate _ _ =>
      frame [.SDL_STATUS_MEAS_DONE, .SDL_STATUS_NEW_LOOP, .SDL_STATUS_FLOOR_HIGH, .SDL_STATUS_MEMBERS,
         .SDL_STATUS_WORST_SB, .SDL_STATUS_UPDATES, .SDL_BOUND_U_MAX, .SDL_BOUND_FLOOR_MAX, .SDL_HEAD_H_S,
         .SDL_SUB_U_LO, .SDL_SUB_U_HI, .SDL_DETECT_DET, .SDL_DETECT_MUTUAL, .SDL_COUNT_NEW_LOOPS]
        [.bps, .cnt] s t
    | .sdlWatchWrite _ _ _ =>
      frame [.SDL_STATUS_MEAS_DONE, .SDL_WATCH_BP, .SDL_WATCH_NODE, .SDL_WATCH_EN, .SDL_DETECT_DET, .SCR_HCOUNT_ABSENT]
        [.bps, .cnt, .scr] s t
    | .sdlTargetWrite _ _ =>
      frame [.SDL_STATUS_TARGET_CLAMP, .SDL_TARGET_TARGET, .SCR_HCOUNT_ABSENT]
        [.cnt, .scr] s t
    | .saddleDigestSend | .timeExSend _ =>
      frame [.GRG_KEEP_KEEP_DROP, .COL_COUNT1_NO_ROUTE, .LANE_CREDIT_BAND, .LANE_CREDIT_TIME, .LANE_CREDIT1_MGMT,
         .LANE_CREDIT1_BULK, .LANE_COUNT_KEPT]
        [.tiles, .lanes, .cnt] s t
    | .sdigest _ _ =>
      frame [.FCL_COUNT_MERGED, .SDL_DIGEST_DIGESTS_RX, .GRG_KEEP_RESENT, .GRG_KEEP_KEEP_DROP, .PLB_LSTAT_LROLE,
         .PLB_LSTAT_PEER_OK, .PLB_LSTAT_PEER_STEPS, .PLB_LCOUNT_EXCH_BAD, .COL_COUNT0_REPAIRS,
         .COL_COUNT0_REPAIR_FAIL, .COL_COUNT1_HOP_DROP, .COL_COUNT1_NO_ROUTE, .COL_COUNT2_MSG_DISCARD,
         .COL_BP_STATUS_UNRES, .LANE_STATUS_STATE, .LANE_STATUS_BLOCK_LOCK, .LANE_STATUS_LOS, .LANE_STATUS_PROTO,
         .LANE_STATUS_CRC_BURST, .LANE_STATUS_UNRES, .LANE_RESV_RESERVED, .LANE_RESV_CEIL, .LANE_CREDIT_BAND,
         .LANE_CREDIT_TIME, .LANE_CREDIT1_MGMT, .LANE_CREDIT1_BULK, .LANE_ERR_FRAME_ERR, .LANE_ERR_BLOCK_ERR,
         .LANE_COUNT_KEPT, .LANE_COUNT_MEMBERS, .LANE_COUNT_FAILS]
        [.bps, .remoteDet, .tiles, .lanes, .cages, .col, .net, .cnt] s t
    | .digestMiss _ _ =>
      frame [.SDL_DIGEST_DIGEST_MISS]
        [.bps] s t
    | .g1Overload _ _ =>
      frame [.FCL_COUNT_MERGED, .SDL_STATUS_G1_MUTED, .SDL_STATUS_G1_MARGIN, .SDL_STATUS_G1_OVERLOAD,
         .SDL_COUNT_G1_TRIPS]
        [.bps, .net, .cnt] s t
    | .g1Release _ =>
      frame [.BP_GAIN_GAIN_NOW, .GCE_STAT_CS, .GCE_STAT_DET_ARMED, .SDL_STATUS_MEAS_DONE, .SDL_STATUS_G1_MUTED,
         .SDL_BOUND_U_MAX, .SDL_BOUND_FLOOR_MAX, .SDL_SUB_U_LO, .SDL_SUB_U_HI]
        [.bps, .net] s t
    | .floTargetCommit _ _ =>
      frame [.FCL_COUNT_MERGED, .BP_STATUS_STATE, .FLO_CTRL_STEP_OK, .FLO_STATUS_DSTATE, .FLO_STATUS_SLEWING,
         .FLO_STATUS_REJECT, .FLO_TARGET_LO_TARGET, .FLO_TARGET_HI_TARGET, .SCR_HCOUNT_ABSENT]
        [.bps, .tiles, .net, .cnt, .scr] s t
    | .delayStep _ =>
      frame [.FCL_COUNT_MERGED, .FRS_STATUS_FLOOD, .FRS_QUEUE_LEVEL, .FRS_COUNT_COALESCED, .BP_STATUS_STATE,
         .BP_STATUS_STEP, .FLO_STATUS_DSTATE, .FLO_STATUS_SLEWING, .FLO_APPLIED_LO_APPLIED, .FLO_APPLIED_HI_APPLIED,
         .FLO_COUNT_STEPS]
        [.bps, .tiles, .net, .frs, .scr] s t
    | .fwDlySlewWrite _ =>
      frame [.FLO_STATUS_SLEW_CLAMP, .FLO_SLEW_FW_DLY_SLEW]
        [] s t
    | .delayEstablished _ =>
      frame [.FCL_COUNT_MERGED, .FRS_STATUS_FLOOD, .FRS_QUEUE_LEVEL, .FRS_COUNT_COALESCED, .BP_STATUS_STATE,
         .FLO_STATUS_DSTATE, .FLO_STATUS_SLEWING, .FLO_APPLIED_LO_APPLIED, .FLO_APPLIED_HI_APPLIED, .FLO_MIN_LO_DMIN,
         .FLO_MIN_HI_DMIN, .FLO_AGE_LO_AGE, .FLO_AGE_HI_AGE, .FLO_LDST_LO_LDST, .FLO_LDST_HI_LDST,
         .FLO_COUNT_LOST_EVENTS]
        [.bps, .tiles, .net, .frs, .scr] s t
    | .lostMeasureDone _ =>
      frame [.FCL_COUNT_MERGED, .FRS_STATUS_FLOOD, .FRS_QUEUE_LEVEL, .FRS_COUNT_COALESCED, .BP_STATUS_STATE,
         .FLO_STATUS_DSTATE, .FLO_STATUS_SLEWING, .FLO_APPLIED_LO_APPLIED, .FLO_APPLIED_HI_APPLIED, .FLO_MIN_LO_DMIN,
         .FLO_MIN_HI_DMIN, .FLO_AGE_LO_AGE, .FLO_AGE_HI_AGE, .FLO_LDST_LO_LDST, .FLO_LDST_HI_LDST]
        [.bps, .tiles, .net, .frs, .scr] s t
    | .delayRestore _ =>
      frame [.FCL_COUNT_MERGED, .FRS_STATUS_FLOOD, .FRS_QUEUE_LEVEL, .FRS_COUNT_COALESCED, .BP_STATUS_STATE,
         .FLO_STATUS_DSTATE, .FLO_APPLIED_LO_APPLIED, .FLO_APPLIED_HI_APPLIED]
        [.bps, .tiles, .net, .frs, .scr] s t
    | .tileReadDone _ _ =>
      frame [.FCL_COUNT_MERGED, .FRS_STATUS_MEDIUM_FAIL, .FRS_NEXT_LO_SEQ, .FRS_NEXT_HI_SEQ, .FRS_FLUSHED_LO_SEQ,
         .FRS_FLUSHED_HI_SEQ, .FRS_OLDEST_LO_SEQ, .FRS_OLDEST_HI_SEQ, .FRS_QUEUE_LEVEL, .MEM_CH_UE, .MEM_CH_CE,
         .MEM_UE_TILE_TILE, .GRG_QUAR_QUARANTINED, .GRG_QUAR_RETIRED, .GRG_SEAL_FAIL_FAILS, .GRG_LAST_BAD_TILE,
         .GRG_LAST_BAD_CAUSE, .GRG_LAST_OWNER_OWNER, .GRG_LAST_OWNER_GEN, .FLO_STATUS_POISON, .FLO_TILES_RESERVED,
         .FLO_COUNT1_POISON_GRAINS, .PLN_STATUS_REBUILD, .PLN_STATUS_BAD_TILES, .PLN_RD_DATA_ENTRY, .PLN_RD_DATA_EFF,
         .LANE_COUNT_KEPT, .DMA_COUNT_LOST]
        [.bps, .tiles, .plain, .lanes, .rings, .net, .frs, .cnt] s t
    | .tileQuarantineDone _ _ =>
      frame [.GRG_QUAR_QUARANTINED, .GRG_QUAR_RETIRED]
        [.tiles] s t
    | .spectrumDone _ _ =>
      frame []
        [.ports, .cnt] s t
    | .g2Decision _ =>
      frame [.FCL_COUNT_MERGED, .BP_GAIN_GAIN_NOW, .GCE_STAT_CS, .GCE_STAT_DET_ARMED, .SDL_STATUS_MEAS_DONE,
         .SDL_BOUND_U_MAX, .SDL_BOUND_FLOOR_MAX, .SDL_SUB_U_LO, .SDL_SUB_U_HI, .EMG_STATUS_PORT_MUTED,
         .EMG_STATUS_OUT, .EMG_STATUS_PILOT, .EMG_STATUS_FOREIGN_N, .EMG_STATUS_G2_PORT_TRIPS, .EMG_WORST_BIN_BIN,
         .EMG_WORST_EXCESS, .EMG_BP_STATUS_H_E, .EMG_BP_STATUS_G2_MUTED, .EMG_BP_STATUS_FINE, .EMG_BP_STATUS_FORBID,
         .EMG_BP_STATUS_PORT, .EMG_BP_CEIL_G2_TRIPS, .FE_PILOT_STATUS_PSTATE]
        [.bps, .ports, .net, .cnt] s t
    | .g2Ceiling _ _ =>
      frame [.FCL_COUNT_MERGED, .EMG_BP_STATUS_G2_MUTED, .EMG_BP_STATUS_CEILING, .EMG_BP_STATUS_FORBID,
         .EMG_BP_CEIL_G2_TRIPS]
        [.bps, .net, .cnt] s t
    | .g2Release _ =>
      frame [.FCL_COUNT_MERGED, .BP_GAIN_GAIN_NOW, .GCE_STAT_CS, .GCE_STAT_DET_ARMED, .SDL_STATUS_MEAS_DONE,
         .SDL_BOUND_U_MAX, .SDL_BOUND_FLOOR_MAX, .SDL_SUB_U_LO, .SDL_SUB_U_HI, .EMG_STATUS_PORT_MUTED,
         .EMG_STATUS_FOREIGN_N, .EMG_BP_STATUS_G2_MUTED, .EMG_BP_STATUS_FORBID, .FE_PILOT_STATUS_PSTATE]
        [.bps, .ports, .net] s t
    | .foreignRegionEnd _ _ =>
      frame [.EMG_STATUS_FOREIGN_N]
        [.ports, .net] s t
    | .plnTFirstWrite _ =>
      frame [.PLN_T_FIRST_FIRST, .PLN_T_FIRST_EN, .PLN_RD_DATA_ENTRY, .PLN_RD_DATA_EFF]
        [.plain] s t
    | .plainRebuildDone _ _ =>
      frame [.FCL_COUNT_MERGED, .PLN_STATUS_REBUILD, .PLN_RD_DATA_ENTRY, .PLN_RD_DATA_EFF]
        [.tiles, .plain, .net, .cnt] s t
    | .emitBackoffWrite _ _ =>
      frame [.EMG_BP_CTRL_EMIT_BACKOFF, .EMG_BP_STATUS_BACKOFF_CLAMP, .SCR_HCOUNT_ABSENT]
        [.cnt, .scr] s t
    | .plnRdAddrWrite _ =>
      frame [.PLN_RD_ADDR_BIN, .PLN_RD_ADDR_PORT, .PLN_RD_DATA_ENTRY, .PLN_RD_DATA_EFF]
        [] s t
    | .plumbUpdate _ =>
      frame [.FCL_COUNT_MERGED, .FRS_STATUS_FLOOD, .FRS_QUEUE_LEVEL, .FRS_COUNT_COALESCED, .PLB_STATUS_TSTATE,
         .PLB_STATUS_ROLE, .PLB_STATUS_PARENT, .PLB_STATUS_TIME_OK, .PLB_STATUS_TIME_AHEAD, .PLB_STATUS_FI_LIMIT,
         .PLB_ROOT_UID_LO_UID, .PLB_ROOT_UID_HI_UID, .PLB_ROOT_CLASS, .PLB_ROOT_PRIORITY, .PLB_ROOT_STEPS,
         .PLB_FI_FI, .PLB_OFFSET_OFS, .PLB_HOLD_HOLD_S, .PLB_HOLD_HOLD_ERR, .PLB_COUNT_ROOT_CHANGES,
         .PLB_UNC_PATH_UNC, .PLB_LSTAT_LROLE, .PLB_LSTAT_PEER_OK, .PLB_LSTAT_PEER_STEPS]
        [.lanes, .plumb, .net, .frs, .cnt, .scr] s t
    | .timeEx _ _ _ =>
      frame [.FCL_COUNT_MERGED, .GRG_KEEP_RESENT, .GRG_KEEP_KEEP_DROP, .PLB_LSTAT_LROLE, .PLB_LSTAT_PEER_OK,
         .PLB_LSTAT_PEER_STEPS, .PLB_LOFS_THETA, .PLB_LDLY_LO_D_LO, .PLB_LDLY_HI_D_HI, .PLB_LCOUNT_EXCH,
         .PLB_LCOUNT_EXCH_BAD, .COL_COUNT0_REPAIRS, .COL_COUNT0_REPAIR_FAIL, .COL_COUNT1_NO_ROUTE,
         .COL_BP_STATUS_UNRES, .LANE_STATUS_STATE, .LANE_STATUS_BLOCK_LOCK, .LANE_STATUS_LOS, .LANE_STATUS_PROTO,
         .LANE_STATUS_CRC_BURST, .LANE_STATUS_UNRES, .LANE_RESV_RESERVED, .LANE_RESV_CEIL, .LANE_CREDIT_BAND,
         .LANE_CREDIT_TIME, .LANE_CREDIT1_MGMT, .LANE_CREDIT1_BULK, .LANE_ERR_FRAME_ERR, .LANE_ERR_BLOCK_ERR,
         .LANE_COUNT_KEPT, .LANE_COUNT_MEMBERS, .LANE_COUNT_FAILS]
        [.bps, .tiles, .lanes, .cages, .col, .net, .cnt] s t
    | .announceSend =>
      frame [.FCL_COUNT_MERGED, .FRS_STATUS_FLOOD, .FRS_QUEUE_LEVEL, .FRS_COUNT_COALESCED, .GRG_KEEP_KEEP_DROP,
         .PLB_STATUS_ROLE, .PLB_STATUS_PARENT, .PLB_STATUS_TIME_OK, .PLB_ROOT_UID_LO_UID, .PLB_ROOT_UID_HI_UID,
         .PLB_ROOT_CLASS, .PLB_ROOT_PRIORITY, .PLB_ROOT_STEPS, .PLB_COUNT_ROOT_CHANGES, .PLB_UNC_PATH_UNC,
         .PLB_LSTAT_LROLE, .PLB_LSTAT_PEER_OK, .PLB_LSTAT_PEER_STEPS, .COL_COUNT1_NO_ROUTE, .LANE_CREDIT_BAND,
         .LANE_CREDIT_TIME, .LANE_CREDIT1_MGMT, .LANE_CREDIT1_BULK, .LANE_COUNT_KEPT]
        [.tiles, .lanes, .plumb, .net, .frs, .cnt, .scr] s t
    | .announce _ _ =>
      frame [.FCL_COUNT_MERGED, .GRG_KEEP_RESENT, .GRG_KEEP_KEEP_DROP, .PLB_STATUS_ASYM_MISMATCH, .PLB_LSTAT_LROLE,
         .PLB_LSTAT_PEER_OK, .PLB_LSTAT_MISMATCH, .PLB_LSTAT_PEER_STEPS, .PLB_LCOUNT_EXCH_BAD, .COL_COUNT0_REPAIRS,
         .COL_COUNT0_REPAIR_FAIL, .COL_COUNT1_NO_ROUTE, .COL_BP_STATUS_UNRES, .LANE_STATUS_STATE,
         .LANE_STATUS_BLOCK_LOCK, .LANE_STATUS_LOS, .LANE_STATUS_PROTO, .LANE_STATUS_CRC_BURST, .LANE_STATUS_UNRES,
         .LANE_RESV_RESERVED, .LANE_RESV_CEIL, .LANE_CREDIT_BAND, .LANE_CREDIT_TIME, .LANE_CREDIT1_MGMT,
         .LANE_CREDIT1_BULK, .LANE_ERR_FRAME_ERR, .LANE_ERR_BLOCK_ERR, .LANE_COUNT_KEPT, .LANE_COUNT_MEMBERS,
         .LANE_COUNT_FAILS]
        [.bps, .tiles, .lanes, .cages, .col, .net, .cnt] s t
    | .timeCheck _ =>
      frame [.FCL_COUNT_MERGED, .PLB_STATUS_CHECK_FAIL, .PLB_LSTAT_CHECK_FAIL]
        [.lanes, .net] s t
    | .holdLimitExpire =>
      frame [.FCL_COUNT_MERGED, .FRS_STATUS_FLOOD, .FRS_QUEUE_LEVEL, .FRS_COUNT_COALESCED, .PLB_STATUS_ROLE,
         .PLB_STATUS_PARENT, .PLB_STATUS_TIME_OK, .PLB_ROOT_UID_LO_UID, .PLB_ROOT_UID_HI_UID, .PLB_ROOT_CLASS,
         .PLB_ROOT_PRIORITY, .PLB_ROOT_STEPS, .PLB_COUNT_ROOT_CHANGES, .PLB_UNC_PATH_UNC, .PLB_LSTAT_LROLE,
         .PLB_LSTAT_PEER_OK, .PLB_LSTAT_PEER_STEPS]
        [.plumb, .net, .frs, .scr] s t
    | .ppsInEdge _ _ =>
      frame [.PLB_STATUS_PPS_IN_OK, .PLB_REF_STAT_PPS_REJECT, .PLB_REF_STAT_PPS_REF_SKEW]
        [.plumb, .cnt] s t
    | .ppsInTimeout =>
      frame [.PLB_STATUS_PPS_IN_OK]
        [.plumb] s t
    | .refBad =>
      frame [.PLB_STATUS_REF_IN_OK, .PLB_REF_STAT_REF_BAD]
        [.plumb] s t
    | .refInRestore =>
      frame [.PLB_STATUS_REF_IN_OK]
        [] s t
    | .todArm _ =>
      frame [.PLB_TOD_HI_SEC_HI, .PLB_TOD_HI_ARM]
        [.plumb] s t
    | .todApply =>
      frame [.PLB_STATUS_TOD_REFUSED, .PLB_TOD_HI_ARM]
        [.plumb] s t
    | .plbTime0Read _ =>
      frame [.SCR_HCOUNT_ABSENT]
        [.readers, .cnt, .scr] s t
    | .fwPhaseSlewWrite _ =>
      frame [.PLB_STATUS_SLEW_CLAMP, .PLB_SLEW_FW_PHASE_SLEW]
        [] s t
    | .ppsOutPulse =>
      frame []
        [.plumb] s t
    | _ => True

/-- Each of these commands leaves every register field outside its list, in every instance, and every part of the state outside its list as it was: cages, lanes and Col, line power, the monitor converters, the fault collector and the temperatures. (R264, R273, R278, R310, R322, R335, R352) -/
def Obligations.FrameOfTheFabric : Prop :=
  ∀ (c : Sys2Proof.Instr) (s : State), s.canonical → ∃ t, Sys2Proof.Machine.exec c s = Host.Outcome.next t ∧
    match c with
    | .cageInsert _ =>
      frame [.COL_CAGE_STATUS_PRESENT, .COL_CAGE_STATUS_IDENT_OK, .COL_CAGE_STATUS_LOW_POWER,
         .COL_CAGE_STATUS_INSERTIONS]
        [.cages] s t
    | .cageIdentified _ _ =>
      frame [.FCL_COUNT_MERGED, .COL_CAGE_STATUS_IDENT_OK, .COL_CAGE_STATUS_LOW_POWER, .COL_CAGE_STATUS_POWER_REFUSED,
         .COL_CAGE_STATUS_IDENT_REFUSED, .LANE_STATUS_STATE]
        [.cages, .net] s t
    | .cageRemove _ =>
      frame [.FCL_COUNT_MERGED, .GRG_KEEP_RESENT, .GRG_KEEP_KEEP_DROP, .PLB_LSTAT_LROLE, .PLB_LSTAT_PEER_OK,
         .PLB_LSTAT_PEER_STEPS, .COL_COUNT0_REPAIRS, .COL_COUNT0_REPAIR_FAIL, .COL_COUNT1_NO_ROUTE,
         .COL_BP_STATUS_UNRES, .COL_CAGE_STATUS_PRESENT, .COL_CAGE_STATUS_IDENT_OK, .COL_CAGE_STATUS_LOW_POWER,
         .LANE_STATUS_STATE, .LANE_STATUS_BLOCK_LOCK, .LANE_STATUS_LOS, .LANE_STATUS_PROTO, .LANE_STATUS_CRC_BURST,
         .LANE_STATUS_UNRES, .LANE_RESV_RESERVED, .LANE_RESV_CEIL, .LANE_CREDIT_BAND, .LANE_CREDIT_TIME,
         .LANE_CREDIT1_MGMT, .LANE_CREDIT1_BULK, .LANE_ERR_BLOCK_ERR, .LANE_COUNT_KEPT, .LANE_COUNT_MEMBERS,
         .LANE_COUNT_FAILS]
        [.bps, .tiles, .lanes, .cages, .col, .net, .cnt] s t
    | .cageMonitor _ _ =>
      frame [.FCL_COUNT_MERGED, .GRG_KEEP_RESENT, .GRG_KEEP_KEEP_DROP, .PLB_LSTAT_LROLE, .PLB_LSTAT_PEER_OK,
         .PLB_LSTAT_PEER_STEPS, .COL_COUNT0_REPAIRS, .COL_COUNT0_REPAIR_FAIL, .COL_COUNT1_NO_ROUTE,
         .COL_BP_STATUS_UNRES, .COL_CAGE_STATUS_LOW_POWER, .COL_CAGE_STATUS_MGMT_FAIL, .COL_CAGE_STATUS_TEMP_ALARM,
         .COL_CAGE_MON_TEMP, .COL_CAGE_MON_VCC, .LANE_STATUS_STATE, .LANE_STATUS_BLOCK_LOCK, .LANE_STATUS_LOS,
         .LANE_STATUS_PROTO, .LANE_STATUS_CRC_BURST, .LANE_STATUS_RX_LOW, .LANE_STATUS_UNRES, .LANE_RESV_RESERVED,
         .LANE_RESV_CEIL, .LANE_CREDIT_BAND, .LANE_CREDIT_TIME, .LANE_CREDIT1_MGMT, .LANE_CREDIT1_BULK,
         .LANE_ERR_BLOCK_ERR, .LANE_COUNT_KEPT, .LANE_COUNT_MEMBERS, .LANE_COUNT_FAILS, .LANE_OPT_RX_PWR,
         .LANE_OPT_TX_BIAS]
        [.bps, .tiles, .lanes, .cages, .col, .net, .cnt] s t
    | .laneBlockLock _ =>
      frame [.PLB_LSTAT_LROLE, .LANE_STATUS_STATE, .LANE_STATUS_BLOCK_LOCK, .LANE_STATUS_MISWIRED, .LANE_STATUS_UNRES,
         .LANE_RESV_RESERVED, .LANE_RESV_CEIL, .LANE_CREDIT_BAND, .LANE_CREDIT_TIME, .LANE_CREDIT1_MGMT,
         .LANE_CREDIT1_BULK, .LANE_COUNT_MEMBERS]
        [.lanes, .cages, .col, .free] s t
    | .helloSend _ =>
      frame []
        [.lanes, .cnt] s t
    | .hello _ _ =>
      frame [.PLB_LSTAT_LROLE, .COL_COUNT2_MSG_DISCARD, .LANE_STATUS_STATE, .LANE_STATUS_MISWIRED, .LANE_STATUS_PROTO,
         .LANE_STATUS_UNRES, .LANE_PEER_NODE, .LANE_PEER_NODE_VALID, .LANE_PEER_CAGE, .LANE_PEER_LANE,
         .LANE_PEER_UID_LO_UID_LO, .LANE_PEER_UID_HI_UID_HI, .LANE_RESV_RESERVED, .LANE_RESV_CEIL, .LANE_CREDIT_BAND,
         .LANE_CREDIT_TIME, .LANE_CREDIT1_MGMT, .LANE_CREDIT1_BULK, .LANE_COUNT_MEMBERS]
        [.lanes, .cages, .col, .cnt, .free] s t
    | .creditBlock _ _ | .laneFail _ _ =>
      frame [.FCL_COUNT_MERGED, .GRG_KEEP_RESENT, .GRG_KEEP_KEEP_DROP, .PLB_LSTAT_LROLE, .PLB_LSTAT_PEER_OK,
         .PLB_LSTAT_PEER_STEPS, .COL_COUNT0_REPAIRS, .COL_COUNT0_REPAIR_FAIL, .COL_COUNT1_NO_ROUTE,
         .COL_BP_STATUS_UNRES, .LANE_STATUS_STATE, .LANE_STATUS_BLOCK_LOCK, .LANE_STATUS_LOS, .LANE_STATUS_PROTO,
         .LANE_STATUS_CRC_BURST, .LANE_STATUS_UNRES, .LANE_RESV_RESERVED, .LANE_RESV_CEIL, .LANE_CREDIT_BAND,
         .LANE_CREDIT_TIME, .LANE_CREDIT1_MGMT, .LANE_CREDIT1_BULK, .LANE_ERR_BLOCK_ERR, .LANE_COUNT_KEPT,
         .LANE_COUNT_MEMBERS, .LANE_COUNT_FAILS]
        [.bps, .tiles, .lanes, .cages, .col, .net, .cnt] s t
    | .laneEnable _ | .laneDisable _ =>
      frame [.GRG_KEEP_RESENT, .GRG_KEEP_KEEP_DROP, .PLB_LSTAT_LROLE, .PLB_LSTAT_PEER_OK, .PLB_LSTAT_PEER_STEPS,
         .COL_COUNT0_REPAIRS, .COL_COUNT0_REPAIR_FAIL, .COL_COUNT1_NO_ROUTE, .COL_BP_STATUS_UNRES, .LANE_CTRL_EN,
         .LANE_STATUS_STATE, .LANE_STATUS_BLOCK_LOCK, .LANE_STATUS_UNRES, .LANE_RESV_RESERVED, .LANE_RESV_CEIL,
         .LANE_CREDIT_BAND, .LANE_CREDIT_TIME, .LANE_CREDIT1_MGMT, .LANE_CREDIT1_BULK, .LANE_COUNT_KEPT,
         .LANE_COUNT_MEMBERS]
        [.bps, .tiles, .lanes, .cages, .col, .cnt] s t
    | .retrain _ =>
      frame [.GRG_KEEP_RESENT, .GRG_KEEP_KEEP_DROP, .PLB_LSTAT_LROLE, .PLB_LSTAT_PEER_OK, .PLB_LSTAT_PEER_STEPS,
         .COL_COUNT0_REPAIRS, .COL_COUNT0_REPAIR_FAIL, .COL_COUNT1_NO_ROUTE, .COL_BP_STATUS_UNRES,
         .LANE_STATUS_STATE, .LANE_STATUS_BLOCK_LOCK, .LANE_STATUS_UNRES, .LANE_RESV_RESERVED, .LANE_RESV_CEIL,
         .LANE_CREDIT_BAND, .LANE_CREDIT_TIME, .LANE_CREDIT1_MGMT, .LANE_CREDIT1_BULK, .LANE_COUNT_KEPT,
         .LANE_COUNT_MEMBERS]
        [.bps, .tiles, .lanes, .cages, .col, .cnt] s t
    | .addrClaim | .addrReclaim =>
      frame [.FCL_COUNT_MERGED, .FRS_STATUS_FLOOD, .FRS_QUEUE_LEVEL, .FRS_COUNT_COALESCED, .BP_STATUS_STATE,
         .BP_STATUS_PENDING, .BP_STATUS_REJECT, .SDL_STATUS_MEAS_DONE, .SDL_BOUND_U_MAX, .SDL_BOUND_FLOOR_MAX,
         .SDL_SUB_U_LO, .SDL_SUB_U_HI, .GRG_KEEP_KEEP_DROP, .COL_NODE_ADDR, .COL_NODE_VALID,
         .COL_STATUS_ADDR_CONFLICT, .COL_COUNT1_NO_ROUTE, .COL_COUNT2_ADDR_CHANGES, .COL_BP_STATUS_ROLE,
         .COL_BP_STATUS_ROUTED, .COL_BP_STATUS_UNRES, .COL_BP_STATUS_HOPS, .COL_BP_STATUS_K1, .COL_BP_STATUS_PEER,
         .LANE_STATUS_UNRES, .LANE_RESV_RESERVED, .LANE_RESV_CEIL, .LANE_CREDIT_BAND, .LANE_CREDIT_TIME,
         .LANE_CREDIT1_MGMT, .LANE_CREDIT1_BULK, .LANE_COUNT_KEPT, .LANE_COUNT_MEMBERS]
        [.bps, .tiles, .lanes, .col, .net, .frs, .cnt] s t
    | .lsaFlood =>
      frame [.GRG_KEEP_KEEP_DROP, .COL_STATUS_LSDB_FULL, .COL_STATUS_ROUTE_BUSY, .COL_STATUS_NODES, .COL_COUNT1_NO_ROUTE,
         .LANE_CREDIT_BAND, .LANE_CREDIT_TIME, .LANE_CREDIT1_MGMT, .LANE_CREDIT1_BULK, .LANE_COUNT_KEPT]
        [.tiles, .lanes, .col, .cnt] s t
    | .lsa _ _ =>
      frame [.FCL_COUNT_MERGED, .FRS_STATUS_FLOOD, .FRS_QUEUE_LEVEL, .FRS_COUNT_COALESCED, .BP_STATUS_STATE,
         .BP_STATUS_PENDING, .BP_STATUS_REJECT, .SDL_STATUS_MEAS_DONE, .SDL_BOUND_U_MAX, .SDL_BOUND_FLOOR_MAX,
         .SDL_SUB_U_LO, .SDL_SUB_U_HI, .GRG_KEEP_RESENT, .GRG_KEEP_KEEP_DROP, .PLB_LSTAT_LROLE, .PLB_LSTAT_PEER_OK,
         .PLB_LSTAT_PEER_STEPS, .PLB_LCOUNT_EXCH_BAD, .COL_NODE_ADDR, .COL_NODE_VALID, .COL_STATUS_ADDR_CONFLICT,
         .COL_STATUS_LSDB_FULL, .COL_STATUS_ROUTE_BUSY, .COL_STATUS_NODES, .COL_COUNT0_REPAIRS,
         .COL_COUNT0_REPAIR_FAIL, .COL_COUNT1_HOP_DROP, .COL_COUNT1_NO_ROUTE, .COL_COUNT2_MSG_DISCARD,
         .COL_COUNT2_ADDR_CHANGES, .COL_BP_STATUS_ROLE, .COL_BP_STATUS_ROUTED, .COL_BP_STATUS_UNRES,
         .COL_BP_STATUS_HOPS, .COL_BP_STATUS_K1, .COL_BP_STATUS_PEER, .LANE_STATUS_STATE, .LANE_STATUS_BLOCK_LOCK,
         .LANE_STATUS_LOS, .LANE_STATUS_PROTO, .LANE_STATUS_CRC_BURST, .LANE_STATUS_UNRES, .LANE_RESV_RESERVED,
         .LANE_RESV_CEIL, .LANE_CREDIT_BAND, .LANE_CREDIT_TIME, .LANE_CREDIT1_MGMT, .LANE_CREDIT1_BULK,
         .LANE_ERR_FRAME_ERR, .LANE_ERR_BLOCK_ERR, .LANE_COUNT_KEPT, .LANE_COUNT_MEMBERS, .LANE_COUNT_FAILS]
        [.bps, .tiles, .lanes, .cages, .col, .net, .frs, .cnt] s t
    | .lsaExpire _ =>
      frame [.COL_STATUS_ROUTE_BUSY, .COL_STATUS_NODES]
        [.col] s t
    | .routeComputeDone =>
      frame [.GRG_KEEP_KEEP_DROP, .COL_STATUS_ROUTE_BUSY, .COL_COUNT1_NO_ROUTE, .COL_BP_STATUS_ROUTED,
         .COL_BP_STATUS_UNRES, .COL_BP_STATUS_REPAIRING, .COL_BP_RATE_RATE, .LANE_STATUS_UNRES, .LANE_RESV_RESERVED,
         .LANE_RESV_CEIL, .LANE_CREDIT_BAND, .LANE_CREDIT_TIME, .LANE_CREDIT1_MGMT, .LANE_CREDIT1_BULK,
         .LANE_COUNT_KEPT, .LANE_COUNT_MEMBERS]
        [.bps, .tiles, .lanes, .col, .cnt] s t
    | .frameForward _ _ =>
      frame [.FCL_COUNT_MERGED, .GRG_KEEP_RESENT, .GRG_KEEP_KEEP_DROP, .PLB_LSTAT_LROLE, .PLB_LSTAT_PEER_OK,
         .PLB_LSTAT_PEER_STEPS, .PLB_LCOUNT_EXCH_BAD, .COL_COUNT0_REPAIRS, .COL_COUNT0_REPAIR_FAIL,
         .COL_COUNT1_HOP_DROP, .COL_COUNT1_NO_ROUTE, .COL_BP_STATUS_UNRES, .LANE_STATUS_STATE,
         .LANE_STATUS_BLOCK_LOCK, .LANE_STATUS_LOS, .LANE_STATUS_PROTO, .LANE_STATUS_CRC_BURST, .LANE_STATUS_UNRES,
         .LANE_RESV_RESERVED, .LANE_RESV_CEIL, .LANE_CREDIT_BAND, .LANE_CREDIT_TIME, .LANE_CREDIT1_MGMT,
         .LANE_CREDIT1_BULK, .LANE_ERR_FRAME_ERR, .LANE_ERR_BLOCK_ERR, .LANE_COUNT_KEPT, .LANE_COUNT_MEMBERS,
         .LANE_COUNT_FAILS]
        [.bps, .tiles, .lanes, .cages, .col, .net, .cnt] s t
    | .subReq _ _ =>
      frame [.FCL_COUNT_MERGED, .GRG_KEEP_RESENT, .GRG_KEEP_KEEP_DROP, .PLB_LSTAT_LROLE, .PLB_LSTAT_PEER_OK,
         .PLB_LSTAT_PEER_STEPS, .PLB_LCOUNT_EXCH_BAD, .COL_COUNT0_REPAIRS, .COL_COUNT0_REPAIR_FAIL,
         .COL_COUNT1_HOP_DROP, .COL_COUNT1_NO_ROUTE, .COL_COUNT2_MSG_DISCARD, .COL_BP_STATUS_UNRES,
         .COL_BP_STATUS_LAST_NAK, .COL_BP_STATUS_PEER, .COL_BP_RATE_RATE, .LANE_STATUS_STATE,
         .LANE_STATUS_BLOCK_LOCK, .LANE_STATUS_LOS, .LANE_STATUS_PROTO, .LANE_STATUS_CRC_BURST, .LANE_STATUS_UNRES,
         .LANE_RESV_RESERVED, .LANE_RESV_CEIL, .LANE_CREDIT_BAND, .LANE_CREDIT_TIME, .LANE_CREDIT1_MGMT,
         .LANE_CREDIT1_BULK, .LANE_ERR_FRAME_ERR, .LANE_ERR_BLOCK_ERR, .LANE_COUNT_KEPT, .LANE_COUNT_MEMBERS,
         .LANE_COUNT_FAILS]
        [.bps, .tiles, .lanes, .cages, .col, .net, .cnt] s t
    | .subNak _ _ =>
      frame [.FCL_COUNT_MERGED, .BP_STATUS_STATE, .BP_STATUS_PENDING, .BP_STATUS_REJECT, .GRG_KEEP_RESENT,
         .GRG_KEEP_KEEP_DROP, .PLB_LSTAT_LROLE, .PLB_LSTAT_PEER_OK, .PLB_LSTAT_PEER_STEPS, .PLB_LCOUNT_EXCH_BAD,
         .COL_COUNT0_REPAIRS, .COL_COUNT0_REPAIR_FAIL, .COL_COUNT1_HOP_DROP, .COL_COUNT1_NO_ROUTE,
         .COL_COUNT2_MSG_DISCARD, .COL_BP_STATUS_UNRES, .COL_BP_STATUS_LAST_NAK, .LANE_STATUS_STATE,
         .LANE_STATUS_BLOCK_LOCK, .LANE_STATUS_LOS, .LANE_STATUS_PROTO, .LANE_STATUS_CRC_BURST, .LANE_STATUS_UNRES,
         .LANE_RESV_RESERVED, .LANE_RESV_CEIL, .LANE_CREDIT_BAND, .LANE_CREDIT_TIME, .LANE_CREDIT1_MGMT,
         .LANE_CREDIT1_BULK, .LANE_ERR_FRAME_ERR, .LANE_ERR_BLOCK_ERR, .LANE_COUNT_KEPT, .LANE_COUNT_MEMBERS,
         .LANE_COUNT_FAILS]
        [.bps, .tiles, .lanes, .cages, .col, .net, .cnt] s t
    | .resv _ _ =>
      frame [.FCL_COUNT_MERGED, .BP_STATUS_STATE, .BP_STATUS_PENDING, .BP_STATUS_REJECT, .BP_GAIN_GAIN_NOW, .CHZ_CHAIN_D,
         .CHZ_CHAIN_BYPASS, .CHZ_SETTLE_COUNT, .CHZ_SRC_GD_LO_GD_LO, .CHZ_SRC_GD_HI_GD_HI, .CHZ_DST_GD_LO_GD_LO,
         .CHZ_DST_GD_HI_GD_HI, .CHZ_GDC_GDC, .CHZ_DST_GDC_GDC, .GCE_STAT_CS, .GCE_STAT_DET_ARMED,
         .SDL_STATUS_MEAS_DONE, .SDL_BOUND_U_MAX, .SDL_BOUND_FLOOR_MAX, .SDL_SUB_U_LO, .SDL_SUB_U_HI,
         .GRG_KEEP_RESENT, .GRG_KEEP_KEEP_DROP, .FLO_STATUS_DSTATE, .FLO_STATUS_SLEWING, .FLO_MIN_LO_DMIN,
         .FLO_MIN_HI_DMIN, .FLO_AGE_LO_AGE, .FLO_AGE_HI_AGE, .FLO_LDST_LO_LDST, .FLO_LDST_HI_LDST, .FLO_MU_MU,
         .EMG_BP_STATUS_H_E, .EMG_BP_STATUS_G2_MUTED, .EMG_BP_STATUS_FORBID, .EMG_BP_STATUS_PORT,
         .EMG_BP_STATUS_SHARE, .EMG_BP_CEIL_CEIL, .PLB_LSTAT_LROLE, .PLB_LSTAT_PEER_OK, .PLB_LSTAT_PEER_STEPS,
         .PLB_LCOUNT_EXCH_BAD, .COL_COUNT0_REPAIRS, .COL_COUNT0_REPAIR_FAIL, .COL_COUNT1_HOP_DROP,
         .COL_COUNT1_NO_ROUTE, .COL_COUNT2_MSG_DISCARD, .COL_BP_STATUS_ROLE, .COL_BP_STATUS_ROUTED,
         .COL_BP_STATUS_UNRES, .COL_BP_STATUS_HOPS, .COL_BP_STATUS_K1, .COL_BP_STATUS_LAST_NAK, .COL_BP_STATUS_PEER,
         .COL_BP_RATE_RATE, .LANE_STATUS_STATE, .LANE_STATUS_BLOCK_LOCK, .LANE_STATUS_LOS, .LANE_STATUS_PROTO,
         .LANE_STATUS_CRC_BURST, .LANE_STATUS_UNRES, .LANE_RESV_RESERVED, .LANE_RESV_CEIL, .LANE_CREDIT_BAND,
         .LANE_CREDIT_TIME, .LANE_CREDIT1_MGMT, .LANE_CREDIT1_BULK, .LANE_ERR_FRAME_ERR, .LANE_ERR_BLOCK_ERR,
         .LANE_COUNT_KEPT, .LANE_COUNT_MEMBERS, .LANE_COUNT_FAILS, .FE_PILOT_STATUS_PSTATE]
        [.bps, .ports, .tiles, .plain, .lanes, .cages, .col, .net, .cnt, .scr] s t
    | .resvNak _ _ =>
      frame [.FCL_COUNT_MERGED, .GRG_KEEP_RESENT, .GRG_KEEP_KEEP_DROP, .PLB_LSTAT_LROLE, .PLB_LSTAT_PEER_OK,
         .PLB_LSTAT_PEER_STEPS, .PLB_LCOUNT_EXCH_BAD, .COL_COUNT0_REPAIRS, .COL_COUNT0_REPAIR_FAIL,
         .COL_COUNT1_HOP_DROP, .COL_COUNT1_NO_ROUTE, .COL_COUNT2_MSG_DISCARD, .COL_BP_STATUS_ROUTED,
         .COL_BP_STATUS_UNRES, .COL_BP_STATUS_REPAIRING, .COL_BP_STATUS_LAST_NAK, .COL_BP_RATE_RATE,
         .LANE_STATUS_STATE, .LANE_STATUS_BLOCK_LOCK, .LANE_STATUS_LOS, .LANE_STATUS_PROTO, .LANE_STATUS_CRC_BURST,
         .LANE_STATUS_UNRES, .LANE_RESV_RESERVED, .LANE_RESV_CEIL, .LANE_CREDIT_BAND, .LANE_CREDIT_TIME,
         .LANE_CREDIT1_MGMT, .LANE_CREDIT1_BULK, .LANE_ERR_FRAME_ERR, .LANE_ERR_BLOCK_ERR, .LANE_COUNT_KEPT,
         .LANE_COUNT_MEMBERS, .LANE_COUNT_FAILS]
        [.bps, .tiles, .lanes, .cages, .col, .net, .cnt] s t
    | .subAck _ _ =>
      frame [.FCL_COUNT_MERGED, .GRG_KEEP_RESENT, .GRG_KEEP_KEEP_DROP, .PLB_LSTAT_LROLE, .PLB_LSTAT_PEER_OK,
         .PLB_LSTAT_PEER_STEPS, .PLB_LCOUNT_EXCH_BAD, .COL_COUNT0_REPAIRS, .COL_COUNT0_REPAIR_FAIL,
         .COL_COUNT1_HOP_DROP, .COL_COUNT1_NO_ROUTE, .COL_COUNT2_MSG_DISCARD, .COL_BP_STATUS_ROLE,
         .COL_BP_STATUS_ROUTED, .COL_BP_STATUS_UNRES, .COL_BP_STATUS_REPAIRING, .COL_BP_STATUS_HOPS,
         .COL_BP_STATUS_K1, .COL_BP_STATUS_PEER, .LANE_STATUS_STATE, .LANE_STATUS_BLOCK_LOCK, .LANE_STATUS_LOS,
         .LANE_STATUS_PROTO, .LANE_STATUS_CRC_BURST, .LANE_STATUS_UNRES, .LANE_RESV_RESERVED, .LANE_RESV_CEIL,
         .LANE_CREDIT_BAND, .LANE_CREDIT_TIME, .LANE_CREDIT1_MGMT, .LANE_CREDIT1_BULK, .LANE_ERR_FRAME_ERR,
         .LANE_ERR_BLOCK_ERR, .LANE_COUNT_KEPT, .LANE_COUNT_MEMBERS, .LANE_COUNT_FAILS]
        [.bps, .tiles, .lanes, .cages, .col, .net, .cnt] s t
    | .subTimeout _ =>
      frame [.BP_STATUS_STATE, .BP_STATUS_PENDING, .BP_STATUS_REJECT, .GRG_KEEP_KEEP_DROP, .COL_COUNT1_NO_ROUTE,
         .COL_BP_STATUS_ROLE, .COL_BP_STATUS_ROUTED, .COL_BP_STATUS_HOPS, .COL_BP_STATUS_K1, .COL_BP_STATUS_LAST_NAK,
         .COL_BP_STATUS_PEER, .LANE_STATUS_UNRES, .LANE_RESV_RESERVED, .LANE_RESV_CEIL, .LANE_CREDIT_BAND,
         .LANE_CREDIT_TIME, .LANE_CREDIT1_MGMT, .LANE_CREDIT1_BULK, .LANE_COUNT_KEPT, .LANE_COUNT_MEMBERS]
        [.bps, .tiles, .lanes, .col, .cnt] s t
    | .grainAckSend =>
      frame [.GRG_KEEP_KEEP_DROP, .COL_COUNT1_NO_ROUTE, .LANE_CREDIT_BAND, .LANE_CREDIT_TIME, .LANE_CREDIT1_MGMT,
         .LANE_CREDIT1_BULK, .LANE_COUNT_KEPT]
        [.bps, .tiles, .lanes, .cnt] s t
    | .grainAck _ _ | .repair _ _ | .repairReport _ _ =>
      frame [.FCL_COUNT_MERGED, .GRG_KEEP_RESENT, .GRG_KEEP_KEEP_DROP, .PLB_LSTAT_LROLE, .PLB_LSTAT_PEER_OK,
         .PLB_LSTAT_PEER_STEPS, .PLB_LCOUNT_EXCH_BAD, .COL_COUNT0_REPAIRS, .COL_COUNT0_REPAIR_FAIL,
         .COL_COUNT1_HOP_DROP, .COL_COUNT1_NO_ROUTE, .COL_COUNT2_MSG_DISCARD, .COL_BP_STATUS_UNRES,
         .LANE_STATUS_STATE, .LANE_STATUS_BLOCK_LOCK, .LANE_STATUS_LOS, .LANE_STATUS_PROTO, .LANE_STATUS_CRC_BURST,
         .LANE_STATUS_UNRES, .LANE_RESV_RESERVED, .LANE_RESV_CEIL, .LANE_CREDIT_BAND, .LANE_CREDIT_TIME,
         .LANE_CREDIT1_MGMT, .LANE_CREDIT1_BULK, .LANE_ERR_FRAME_ERR, .LANE_ERR_BLOCK_ERR, .LANE_COUNT_KEPT,
         .LANE_COUNT_MEMBERS, .LANE_COUNT_FAILS]
        [.bps, .tiles, .lanes, .cages, .col, .net, .cnt] s t
    | .release _ _ =>
      frame [.FCL_COUNT_MERGED, .GRG_KEEP_RESENT, .GRG_KEEP_KEEP_DROP, .PLB_LSTAT_LROLE, .PLB_LSTAT_PEER_OK,
         .PLB_LSTAT_PEER_STEPS, .PLB_LCOUNT_EXCH_BAD, .COL_COUNT0_REPAIRS, .COL_COUNT0_REPAIR_FAIL,
         .COL_COUNT1_HOP_DROP, .COL_COUNT1_NO_ROUTE, .COL_COUNT2_MSG_DISCARD, .COL_BP_STATUS_ROLE,
         .COL_BP_STATUS_ROUTED, .COL_BP_STATUS_UNRES, .LANE_STATUS_STATE, .LANE_STATUS_BLOCK_LOCK, .LANE_STATUS_LOS,
         .LANE_STATUS_PROTO, .LANE_STATUS_CRC_BURST, .LANE_STATUS_UNRES, .LANE_RESV_RESERVED, .LANE_RESV_CEIL,
         .LANE_CREDIT_BAND, .LANE_CREDIT_TIME, .LANE_CREDIT1_MGMT, .LANE_CREDIT1_BULK, .LANE_ERR_FRAME_ERR,
         .LANE_ERR_BLOCK_ERR, .LANE_COUNT_KEPT, .LANE_COUNT_MEMBERS, .LANE_COUNT_FAILS]
        [.bps, .tiles, .lanes, .cages, .col, .net, .cnt] s t
    | .unsub _ _ =>
      frame [.FCL_COUNT_MERGED, .GRG_KEEP_RESENT, .GRG_KEEP_KEEP_DROP, .PLB_LSTAT_LROLE, .PLB_LSTAT_PEER_OK,
         .PLB_LSTAT_PEER_STEPS, .PLB_LCOUNT_EXCH_BAD, .COL_COUNT0_REPAIRS, .COL_COUNT0_REPAIR_FAIL,
         .COL_COUNT1_HOP_DROP, .COL_COUNT1_NO_ROUTE, .COL_COUNT2_MSG_DISCARD, .COL_BP_STATUS_ROUTED,
         .COL_BP_STATUS_UNRES, .COL_BP_STATUS_REPAIRING, .COL_BP_STATUS_PEER, .LANE_STATUS_STATE,
         .LANE_STATUS_BLOCK_LOCK, .LANE_STATUS_LOS, .LANE_STATUS_PROTO, .LANE_STATUS_CRC_BURST, .LANE_STATUS_UNRES,
         .LANE_RESV_RESERVED, .LANE_RESV_CEIL, .LANE_CREDIT_BAND, .LANE_CREDIT_TIME, .LANE_CREDIT1_MGMT,
         .LANE_CREDIT1_BULK, .LANE_ERR_FRAME_ERR, .LANE_ERR_BLOCK_ERR, .LANE_COUNT_KEPT, .LANE_COUNT_MEMBERS,
         .LANE_COUNT_FAILS]
        [.bps, .tiles, .lanes, .cages, .col, .net, .cnt] s t
    | .streamReestablish _ =>
      frame [.GRG_KEEP_KEEP_DROP, .COL_COUNT1_NO_ROUTE, .COL_BP_RATE_RATE, .LANE_STATUS_UNRES, .LANE_RESV_RESERVED,
         .LANE_RESV_CEIL, .LANE_CREDIT_BAND, .LANE_CREDIT_TIME, .LANE_CREDIT1_MGMT, .LANE_CREDIT1_BULK,
         .LANE_COUNT_KEPT, .LANE_COUNT_MEMBERS]
        [.bps, .tiles, .lanes, .col, .cnt] s t
    | .unresTimeout _ =>
      frame [.LANE_STATUS_UNRES_DROP]
        [.lanes, .cnt] s t
    | .pwmPeriodEnd _ _ =>
      frame [.PWM_STATUS_STATE, .PWM_STATUS_FULL, .PWM_STATUS_DUTY_CLAMP, .PWM_DT_DT_LAST, .PWM_COUNT_SHORT_PULSES,
         .PWM_COUNT1_SWN_MISS]
        [.pwms, .net, .cnt] s t
    | .pwmFallWrite _ _ =>
      frame [.PWM_STATUS_LATE, .PWM_FALL_COUNT, .PWM_FALL_FINE, .PWM_COUNT_LATE_COMMITS]
        [.pwms] s t
    | .pwmModeWrite _ _ =>
      frame [.PWM_CTRL_MODE, .PWM_STATUS_MODE_REFUSED]
        [] s t
    | .pwmArm _ _ =>
      frame [.PWM_CTRL_ARM, .PWM_STATUS_STATE, .PWM_STATUS_FULL, .PWM_STATUS_DUTY_CLAMP, .PWM_STATUS_H_G3,
         .PWM_STATUS_H_FENCE, .PWM_STATUS_H_RELAY, .PWM_COUNT_SHORT_PULSES, .BP_GAIN_GAIN_NOW, .GCE_STAT_CS,
         .GCE_STAT_DET_ARMED, .SDL_STATUS_MEAS_DONE, .SDL_BOUND_U_MAX, .SDL_BOUND_FLOOR_MAX, .SDL_SUB_U_LO,
         .SDL_SUB_U_HI]
        [.bps, .pwms] s t
    | .pwmFwLimitWrite _ _ _ =>
      frame [.PWM_STATUS_DUTY_CLAMP, .PWM_DUTY_MAX_DUTY, .PWM_DUTY_FW_MAX_DUTY, .PWM_ILIM_I_LIM, .PWM_ILIM_FW_I_LIM,
         .PWM_VLIM_V_LIM, .PWM_VLIM_FW_V_LIM]
        [] s t
    | .g3Trip _ _ =>
      frame [.FCL_COUNT_MERGED, .MON_STATUS_URG_REFUSED, .MON_STATUS_URG_BUSY, .MON_STATUS_URG_PEND, .MON_COUNT_URG_LOST,
         .MON_COUNT_ABORTS, .PWM_STATUS_STATE, .PWM_STATUS_FULL, .PWM_STATUS_DUTY_CLAMP, .PWM_STATUS_H_G3,
         .PWM_STATUS_H_FENCE, .PWM_STATUS_H_RELAY, .PWM_STATUS_G3_OC, .PWM_STATUS_G3_OV, .PWM_COUNT_SHORT_PULSES,
         .PWM_COUNT1_G3_TRIPS]
        [.bps, .pwms, .convs, .net] s t
    | .fltActivate _ =>
      frame [.FCL_COUNT_MERGED, .MON_STATUS_URG_REFUSED, .MON_STATUS_URG_BUSY, .MON_STATUS_URG_PEND, .MON_COUNT_URG_LOST,
         .MON_COUNT_ABORTS, .PWM_STATUS_STATE, .PWM_STATUS_FULL, .PWM_STATUS_DUTY_CLAMP, .PWM_STATUS_H_G3,
         .PWM_STATUS_H_FENCE, .PWM_STATUS_H_RELAY, .PWM_COUNT_SHORT_PULSES, .PWM_COUNT1_G3_TRIPS, .PWM_FLT_ACT,
         .PWM_FLT_LATCH, .PWM_FLT_FLT_EVENTS]
        [.bps, .pwms, .convs, .net] s t
    | .fltLatchClear _ =>
      frame [.PWM_STATUS_STATE, .PWM_STATUS_FULL, .PWM_STATUS_DUTY_CLAMP, .PWM_STATUS_H_G3, .PWM_STATUS_H_FENCE,
         .PWM_STATUS_H_RELAY, .PWM_COUNT_SHORT_PULSES, .PWM_FLT_LATCH, .BP_GAIN_GAIN_NOW, .GCE_STAT_CS,
         .GCE_STAT_DET_ARMED, .SDL_STATUS_MEAS_DONE, .SDL_BOUND_U_MAX, .SDL_BOUND_FLOOR_MAX, .SDL_SUB_U_LO,
         .SDL_SUB_U_HI]
        [.bps, .pwms, .net] s t
    | .pwmFineCal _ =>
      frame [.FCL_COUNT_MERGED, .PWM_GLOBAL_CAL_OK, .PWM_GLOBAL_CAL_FAIL]
        [.net] s t
    | .clkStop =>
      frame [.PWM_CTRL_ARM, .PWM_STATUS_STATE, .PWM_STATUS_FULL, .PWM_STATUS_DUTY_CLAMP, .PWM_STATUS_H_G3,
         .PWM_STATUS_H_FENCE, .PWM_STATUS_H_RELAY, .PWM_COUNT_SHORT_PULSES, .PWM_GLOBAL_CLK_STOP, .BP_GAIN_GAIN_NOW,
         .GCE_STAT_CS, .GCE_STAT_DET_ARMED, .SDL_STATUS_MEAS_DONE, .SDL_BOUND_U_MAX, .SDL_BOUND_FLOOR_MAX,
         .SDL_SUB_U_LO, .SDL_SUB_U_HI]
        [.bps, .pwms] s t
    | .debugHalt _ =>
      frame [.PCR_CTRL_HALTED, .PWM_CTRL_ARM, .PWM_STATUS_STATE, .PWM_STATUS_FULL, .PWM_STATUS_DUTY_CLAMP,
         .PWM_STATUS_H_G3, .PWM_STATUS_H_FENCE, .PWM_STATUS_H_RELAY, .PWM_COUNT_SHORT_PULSES, .PWM_GLOBAL_DBG_SAFE,
         .BP_GAIN_GAIN_NOW, .GCE_STAT_CS, .GCE_STAT_DET_ARMED, .SDL_STATUS_MEAS_DONE, .SDL_BOUND_U_MAX,
         .SDL_BOUND_FLOOR_MAX, .SDL_SUB_U_LO, .SDL_SUB_U_HI]
        [.bps, .pwms] s t
    | .monRefEn _ _ =>
      frame [.MON_CTRL_REF_EN, .MON_STATUS_REF_READY, .MON_STATUS_URG_BUSY, .MON_STATUS_URG_PEND]
        [.convs] s t
    | .monRefReady _ =>
      frame [.MON_STATUS_REF_READY]
        [] s t
    | .monCal _ =>
      frame [.MON_STATUS_CALIBRATING, .MON_STATUS_CAL_REFUSED, .MON_STATUS_URG_BUSY, .MON_STATUS_URG_PEND]
        [.convs] s t
    | .monCalDone _ _ =>
      frame [.FCL_COUNT_MERGED, .MON_STATUS_CALIBRATING, .MON_STATUS_CAL_OK, .MON_STATUS_CAL_FAIL, .MON_STATUS_URG_BUSY,
         .MON_STATUS_URG_PEND, .MON_CAL_OFS_OFS, .MON_CAL_GAIN_GAIN]
        [.convs, .net] s t
    | .monConversionDone _ _ =>
      frame [.FCL_COUNT_MERGED, .MON_STATUS_Q_OVF, .MON_STATUS_URG_BUSY, .MON_STATUS_URG_PEND, .MON_QLEVEL_LEVEL,
         .MON_QLEVEL_Q_DROP, .MON_CONV_CONVERSIONS, .MON_PLAUS_DIFF, .MON_PLAUS_PL_OK, .MON_PLAUS_PL_FAIL,
         .MON_PLAUS_PL_STALE, .MON_LAST_CODE, .MON_LAST_CONV, .MON_LAST_VALID, .MON_LAST_FLAGGED, .GCE_STAT_SRC_INV,
         .GCE_SETA_VALID]
        [.convs, .plRun, .pins, .net, .cnt] s t
    | .plStale =>
      frame [.MON_PLAUS_PL_OK, .MON_PLAUS_PL_STALE, .GCE_STAT_SRC_INV, .GCE_SETA_VALID]
        [.plRun] s t
    | .monUrgent _ _ =>
      frame [.MON_STATUS_URG_REFUSED, .MON_STATUS_URG_BUSY, .MON_STATUS_URG_PEND, .MON_URGENT_CH, .MON_URGENT_TAG,
         .MON_COUNT_URG_LOST, .MON_COUNT_ABORTS]
        [.convs] s t
    | .monQueueRead _ _ =>
      frame [.MON_QLEVEL_LEVEL, .SCR_HCOUNT_ABSENT]
        [.readers, .convs, .cnt, .scr] s t
    | .faultMessage =>
      frame [.FCL_STATUS_MAX_FENCE, .FCL_STATUS_ALIVE_RUN, .FCL_STATUS_LATCHED, .FCL_STATUS_INJ_LATCHED,
         .FCL_STATUS_BYPASS, .FCL_COUNT_NOTICES, .FCL_FIRST_MSG, .FCL_FIRST_INFO_TAG, .FCL_FIRST_INFO_EFF_LEVEL,
         .FCL_FIRST_INFO_ESCALATED, .FCL_FIRST_INFO_GONE, .FCL_FIRST_INFO_OVF, .FCL_FIRST_INFO_OVF_COUNT,
         .FCL_INJ_MSG, .FCL_INJ_INFO_TAG, .FCL_INJ_INFO_EFF_LEVEL, .FCL_INJ_INFO_ESCALATED, .FCL_INJ_INFO_GONE,
         .FCL_INJ_INFO_OVF, .FCL_INJ_INFO_OVF_COUNT, .FCL_CLASS_OPEN, .FCL_CLASS_LEVEL, .FCL_UNIT_FENCE,
         .FCL_UNIT_OWN, .FCL_UNIT_COND, .FCL_UNIT_LAST_CAUSE, .FRS_STATUS_FLOOD, .FRS_QUEUE_LEVEL,
         .FRS_COUNT_COALESCED, .PWM_STATUS_STATE, .PWM_STATUS_FULL, .PWM_STATUS_DUTY_CLAMP, .PWM_STATUS_H_G3,
         .PWM_STATUS_H_FENCE, .PWM_STATUS_H_RELAY, .PWM_COUNT_SHORT_PULSES, .BP_STATUS_STATE, .BP_GAIN_GAIN_NOW,
         .GCE_STAT_CS, .GCE_STAT_DET_ARMED, .SDL_STATUS_MEAS_DONE, .SDL_BOUND_U_MAX, .SDL_BOUND_FLOOR_MAX,
         .SDL_SUB_U_LO, .SDL_SUB_U_HI, .GRG_KEEP_RESENT, .GRG_KEEP_KEEP_DROP, .FLO_STATUS_DSTATE,
         .FLO_STATUS_SLEWING, .FLO_STATUS_SLACK_LOW, .FLO_MU_MU, .EMG_BP_STATUS_SHARE, .EMG_BP_CEIL_CEIL,
         .PLB_LSTAT_LROLE, .PLB_LSTAT_PEER_OK, .PLB_LSTAT_PEER_STEPS, .COL_COUNT0_REPAIRS, .COL_COUNT0_REPAIR_FAIL,
         .COL_COUNT1_NO_ROUTE, .COL_BP_STATUS_UNRES, .LANE_STATUS_STATE, .LANE_STATUS_BLOCK_LOCK, .LANE_STATUS_UNRES,
         .LANE_RESV_RESERVED, .LANE_RESV_CEIL, .LANE_CREDIT_BAND, .LANE_CREDIT_TIME, .LANE_CREDIT1_MGMT,
         .LANE_CREDIT1_BULK, .LANE_COUNT_KEPT, .LANE_COUNT_MEMBERS, .FE_STATUS_STATE, .FE_STATUS_TX_HELD,
         .FE_STATUS_RETUNE_PEND, .FE_RELAY_POS, .FE_RELAY_MOVE_COUNT]
        [.bps, .ports, .pwms, .tiles, .plain, .lanes, .cages, .col, .net, .fcl, .frs, .cnt, .scr] s t
    | .faultClear =>
      frame [.FCL_STATUS_LATCHED, .FCL_STATUS_INJ_LATCHED, .FCL_FIRST_MSG, .FCL_FIRST_INFO_TAG,
         .FCL_FIRST_INFO_EFF_LEVEL, .FCL_FIRST_INFO_ESCALATED, .FCL_FIRST_INFO_GONE, .FCL_FIRST_INFO_OVF,
         .FCL_FIRST_INFO_OVF_COUNT, .FCL_INJ_MSG, .FCL_INJ_INFO_TAG, .FCL_INJ_INFO_EFF_LEVEL,
         .FCL_INJ_INFO_ESCALATED, .FCL_INJ_INFO_GONE, .FCL_INJ_INFO_OVF, .FCL_INJ_INFO_OVF_COUNT, .FCL_UNIT_COND,
         .FRS_STATUS_FLOOD, .FRS_QUEUE_LEVEL, .FRS_COUNT_COALESCED]
        [.net, .fcl, .frs, .cnt] s t
    | .fclAck _ _ | .fclAckInj _ _ =>
      frame [.FCL_CTRL_ACK_TAG, .FCL_STATUS_LATCHED, .FCL_STATUS_INJ_LATCHED, .FCL_STATUS_ACK_REFUSED, .FCL_FIRST_MSG,
         .FCL_FIRST_INFO_TAG, .FCL_FIRST_INFO_EFF_LEVEL, .FCL_FIRST_INFO_ESCALATED, .FCL_FIRST_INFO_GONE,
         .FCL_FIRST_INFO_OVF, .FCL_FIRST_INFO_OVF_COUNT, .FCL_INJ_MSG, .FCL_INJ_INFO_TAG, .FCL_INJ_INFO_EFF_LEVEL,
         .FCL_INJ_INFO_ESCALATED, .FCL_INJ_INFO_GONE, .FCL_INJ_INFO_OVF, .FCL_INJ_INFO_OVF_COUNT, .FCL_CLASS_OPEN,
         .FCL_CLASS_LEVEL, .SCR_HCOUNT_ABSENT]
        [.fcl, .cnt, .scr] s t
    | .fclAckClass _ _ =>
      frame [.FCL_ACK_CLASS_SOURCE, .FCL_ACK_CLASS_CAUSE, .FCL_ACK_CLASS_ALL, .FCL_ACK_CLASS_INJ, .FCL_CLASS_OPEN,
         .FCL_CLASS_LEVEL, .SCR_HCOUNT_ABSENT]
        [.fcl, .cnt, .scr] s t
    | .fclRelease _ _ =>
      frame [.FCL_STATUS_MAX_FENCE, .FCL_STATUS_ALIVE_RUN, .FCL_STATUS_REL_REFUSED, .FCL_STATUS_BYPASS,
         .FCL_RELEASE_UNIT, .FCL_COUNT_MERGED, .FCL_UNIT_FENCE, .FCL_UNIT_OWN, .FCL_UNIT_LIMITED,
         .FCL_UNIT_RECOV_HOUR, .FCL_UNIT_RECOVERIES, .FRS_STATUS_FLOOD, .FRS_QUEUE_LEVEL, .FRS_COUNT_COALESCED,
         .PWM_STATUS_STATE, .PWM_STATUS_FULL, .PWM_STATUS_DUTY_CLAMP, .PWM_STATUS_H_G3, .PWM_STATUS_H_FENCE,
         .PWM_STATUS_H_RELAY, .PWM_COUNT_SHORT_PULSES, .BP_STATUS_STATE, .BP_STATUS_PENDING, .BP_GAIN_GAIN_NOW,
         .CHZ_BANK_STATUS_ACTIVE, .CHZ_BANK_STATUS_FADING, .CHZ_CHAIN_D, .CHZ_CHAIN_BYPASS, .CHZ_SETTLE_COUNT,
         .CHZ_SRC_GD_LO_GD_LO, .CHZ_SRC_GD_HI_GD_HI, .CHZ_DST_GD_LO_GD_LO, .CHZ_DST_GD_HI_GD_HI, .CHZ_GDC_GDC,
         .CHZ_DST_GDC_GDC, .GCE_STAT_CS, .GCE_STAT_DET_ARMED, .GCE_CAND0_C_LEV, .GCE_CAND0_C_STAB, .GCE_CAND1_C_EMIT,
         .GCE_CAND1_C_THM, .SDL_STATUS_MEAS_DONE, .SDL_BOUND_U_MAX, .SDL_BOUND_FLOOR_MAX, .SDL_SUB_U_LO,
         .SDL_SUB_U_HI, .GRG_KEEP_KEEP_DROP, .FLO_STATUS_DSTATE, .FLO_STATUS_SLEWING, .FLO_STATUS_SLACK_LOW,
         .FLO_MIN_LO_DMIN, .FLO_MIN_HI_DMIN, .FLO_AGE_LO_AGE, .FLO_AGE_HI_AGE, .FLO_LDST_LO_LDST, .FLO_LDST_HI_LDST,
         .FLO_MU_MU, .EMG_BP_STATUS_SHARE, .EMG_BP_CEIL_CEIL, .COL_COUNT1_NO_ROUTE, .COL_BP_STATUS_ROLE,
         .COL_BP_STATUS_ROUTED, .COL_BP_STATUS_UNRES, .COL_BP_STATUS_HOPS, .COL_BP_STATUS_K1, .COL_BP_STATUS_PEER,
         .COL_CAGE_STATUS_LOW_POWER, .LANE_STATUS_STATE, .LANE_STATUS_UNRES, .LANE_RESV_RESERVED, .LANE_RESV_CEIL,
         .LANE_CREDIT_BAND, .LANE_CREDIT_TIME, .LANE_CREDIT1_MGMT, .LANE_CREDIT1_BULK, .LANE_COUNT_KEPT,
         .LANE_COUNT_MEMBERS, .FE_STATUS_STATE, .FE_STATUS_RX_LOCK, .FE_STATUS_TX_LOCK, .FE_STATUS_TX_HELD,
         .FE_STATUS_RETUNE_PEND, .FE_STATUS_REJECT, .FE_RELAY_POS, .FE_RELAY_MOVE_COUNT, .FE_CAL_STATUS_SEGMENT,
         .FE_PILOT_STATUS_PSTATE, .SCR_HCOUNT_ABSENT]
        [.bps, .ports, .pwms, .tiles, .plain, .lanes, .col, .net, .fcl, .frs, .cnt, .scr] s t
    | .fclInject _ _ =>
      frame [.FCL_STATUS_INJ_REFUSED, .FCL_COUNT_MERGED, .FCL_INJECT_HI_DETAIL, .SCR_HCOUNT_ABSENT]
        [.net, .cnt, .scr] s t
    | .fenceRecovery _ =>
      frame [.FCL_STATUS_MAX_FENCE, .FCL_STATUS_ALIVE_RUN, .FCL_STATUS_BYPASS, .FCL_COUNT_MERGED, .FCL_UNIT_FENCE,
         .FCL_UNIT_OWN, .FCL_UNIT_LIMITED, .FCL_UNIT_RECOV_HOUR, .FCL_UNIT_RECOVERIES, .FRS_STATUS_FLOOD,
         .FRS_QUEUE_LEVEL, .FRS_COUNT_COALESCED, .PWM_STATUS_STATE, .PWM_STATUS_FULL, .PWM_STATUS_DUTY_CLAMP,
         .PWM_STATUS_H_G3, .PWM_STATUS_H_FENCE, .PWM_STATUS_H_RELAY, .PWM_COUNT_SHORT_PULSES, .BP_STATUS_STATE,
         .BP_STATUS_PENDING, .BP_GAIN_GAIN_NOW, .CHZ_BANK_STATUS_ACTIVE, .CHZ_BANK_STATUS_FADING, .CHZ_CHAIN_D,
         .CHZ_CHAIN_BYPASS, .CHZ_SETTLE_COUNT, .CHZ_SRC_GD_LO_GD_LO, .CHZ_SRC_GD_HI_GD_HI, .CHZ_DST_GD_LO_GD_LO,
         .CHZ_DST_GD_HI_GD_HI, .CHZ_GDC_GDC, .CHZ_DST_GDC_GDC, .GCE_STAT_CS, .GCE_STAT_DET_ARMED, .GCE_CAND0_C_LEV,
         .GCE_CAND0_C_STAB, .GCE_CAND1_C_EMIT, .GCE_CAND1_C_THM, .SDL_STATUS_MEAS_DONE, .SDL_BOUND_U_MAX,
         .SDL_BOUND_FLOOR_MAX, .SDL_SUB_U_LO, .SDL_SUB_U_HI, .GRG_KEEP_KEEP_DROP, .FLO_STATUS_DSTATE,
         .FLO_STATUS_SLEWING, .FLO_STATUS_SLACK_LOW, .FLO_MIN_LO_DMIN, .FLO_MIN_HI_DMIN, .FLO_AGE_LO_AGE,
         .FLO_AGE_HI_AGE, .FLO_LDST_LO_LDST, .FLO_LDST_HI_LDST, .FLO_MU_MU, .EMG_BP_STATUS_SHARE, .EMG_BP_CEIL_CEIL,
         .COL_COUNT1_NO_ROUTE, .COL_BP_STATUS_ROLE, .COL_BP_STATUS_ROUTED, .COL_BP_STATUS_UNRES, .COL_BP_STATUS_HOPS,
         .COL_BP_STATUS_K1, .COL_BP_STATUS_PEER, .COL_CAGE_STATUS_LOW_POWER, .LANE_STATUS_STATE, .LANE_STATUS_UNRES,
         .LANE_RESV_RESERVED, .LANE_RESV_CEIL, .LANE_CREDIT_BAND, .LANE_CREDIT_TIME, .LANE_CREDIT1_MGMT,
         .LANE_CREDIT1_BULK, .LANE_COUNT_KEPT, .LANE_COUNT_MEMBERS, .FE_STATUS_STATE, .FE_STATUS_RX_LOCK,
         .FE_STATUS_TX_LOCK, .FE_STATUS_TX_HELD, .FE_STATUS_RETUNE_PEND, .FE_STATUS_REJECT, .FE_RELAY_POS,
         .FE_RELAY_MOVE_COUNT, .FE_CAL_STATUS_SEGMENT, .FE_PILOT_STATUS_PSTATE]
        [.bps, .ports, .pwms, .tiles, .plain, .lanes, .col, .net, .fcl, .frs, .cnt, .scr] s t
    | .aliveToggle =>
      frame [.FCL_STATUS_ALIVE_RUN]
        [.fcl] s t
    | .thermalSample _ _ =>
      frame [.KCT_UPD_STATUS_WAITING, .FCL_COUNT_MERGED, .FRS_STATUS_FLOOD, .FRS_STATUS_FLUSH_WAIT, .FRS_QUEUE_LEVEL,
         .FRS_COUNT_COALESCED, .THM_TEMP_TEMP, .THM_TEMP_FAST, .THM_TEMP_SUSPECT, .THM_TEMP_WARN, .THM_TEMP_TRIPPED,
         .THM_RATE_RISE, .THM_RATE_MAX_T, .THM_COUNT_WARN_EVENTS, .THM_COUNT_SUSPECT_EVENTS, .THM_FLASH_T_FLASH,
         .THM_FLASH_WIN_OPEN, .BP_GAIN_GAIN_NOW, .GCE_STAT_CS, .GCE_STAT_DET_ARMED, .SDL_STATUS_MEAS_DONE,
         .SDL_BOUND_U_MAX, .SDL_BOUND_FLOOR_MAX, .SDL_SUB_U_LO, .SDL_SUB_U_HI]
        [.bps, .dies, .thm, .net, .frs, .cnt] s t
    | .g4Temp _ =>
      frame [.FCL_STATUS_MAX_FENCE, .FCL_STATUS_ALIVE_RUN, .FCL_STATUS_BYPASS, .FCL_COUNT_MERGED, .FCL_UNIT_FENCE,
         .FCL_UNIT_OWN, .PWM_STATUS_STATE, .PWM_STATUS_FULL, .PWM_STATUS_DUTY_CLAMP, .PWM_STATUS_H_G3,
         .PWM_STATUS_H_FENCE, .PWM_STATUS_H_RELAY, .PWM_COUNT_SHORT_PULSES, .BP_STATUS_STATE, .BP_GAIN_GAIN_NOW,
         .GCE_STAT_CS, .GCE_STAT_DET_ARMED, .SDL_STATUS_MEAS_DONE, .SDL_BOUND_U_MAX, .SDL_BOUND_FLOOR_MAX,
         .SDL_SUB_U_LO, .SDL_SUB_U_HI, .GRG_KEEP_RESENT, .GRG_KEEP_KEEP_DROP, .FLO_STATUS_DSTATE,
         .FLO_STATUS_SLEWING, .FLO_STATUS_SLACK_LOW, .FLO_MU_MU, .EMG_BP_STATUS_SHARE, .EMG_BP_CEIL_CEIL,
         .PLB_LSTAT_LROLE, .PLB_LSTAT_PEER_OK, .PLB_LSTAT_PEER_STEPS, .COL_COUNT0_REPAIRS, .COL_COUNT0_REPAIR_FAIL,
         .COL_COUNT1_NO_ROUTE, .COL_BP_STATUS_UNRES, .LANE_STATUS_STATE, .LANE_STATUS_BLOCK_LOCK, .LANE_STATUS_UNRES,
         .LANE_RESV_RESERVED, .LANE_RESV_CEIL, .LANE_CREDIT_BAND, .LANE_CREDIT_TIME, .LANE_CREDIT1_MGMT,
         .LANE_CREDIT1_BULK, .LANE_COUNT_KEPT, .LANE_COUNT_MEMBERS, .FE_STATUS_STATE, .FE_STATUS_TX_HELD,
         .FE_STATUS_RETUNE_PEND, .FE_RELAY_POS, .FE_RELAY_MOVE_COUNT]
        [.bps, .ports, .pwms, .dies, .thm, .tiles, .plain, .lanes, .cages, .col, .net, .fcl, .cnt, .scr] s t
    | .fwWarnWrite _ _ =>
      frame [.THM_LIM1_FW_WARN]
        [] s t
    | _ => True

/-- Each of these commands leaves every register field outside its list, in every instance, and every part of the state outside its list as it was: Fresco, the counters, Scrim and the host interface, updates and the policy cores. (R361, R375, R388, R401, R404, R421, R423) -/
def Obligations.FrameOfTheRecords : Prop :=
  ∀ (c : Sys2Proof.Instr) (s : State), s.canonical → ∃ t, Sys2Proof.Machine.exec c s = Host.Outcome.next t ∧
    match c with
    | .frescoRecordWrite _ =>
      frame [.FCL_COUNT_MERGED, .FRS_STATUS_MEDIUM_FAIL, .FRS_NEXT_LO_SEQ, .FRS_NEXT_HI_SEQ, .FRS_FLUSHED_LO_SEQ,
         .FRS_FLUSHED_HI_SEQ, .FRS_OLDEST_LO_SEQ, .FRS_OLDEST_HI_SEQ, .FRS_QUEUE_LEVEL, .MEM_CH_UE,
         .MEM_UE_TILE_TILE]
        [.tiles, .net, .frs, .cnt] s t
    | .bbFlush _ =>
      frame [.FCL_COUNT_MERGED, .FRS_STATUS_BB_FAIL, .FRS_STATUS_FLUSH_WAIT, .FRS_NEXT_LO_SEQ, .FRS_NEXT_HI_SEQ,
         .FRS_FLUSHED_LO_SEQ, .FRS_FLUSHED_HI_SEQ, .FRS_OLDEST_LO_SEQ, .FRS_OLDEST_HI_SEQ, .FRS_BB_NEWEST,
         .FRS_QUEUE_LEVEL, .FRS_COUNT1_FLASH_ERR, .THM_FLASH_WAITED]
        [.net, .frs, .free] s t
    | .frescoMark =>
      frame [.THM_FLASH_WAITED]
        [.frs] s t
    | .floodEnd =>
      frame [.FRS_STATUS_FLOOD, .FRS_NEXT_LO_SEQ, .FRS_NEXT_HI_SEQ, .FRS_FLUSHED_LO_SEQ, .FRS_FLUSHED_HI_SEQ,
         .FRS_OLDEST_LO_SEQ, .FRS_OLDEST_HI_SEQ, .FRS_QUEUE_LEVEL, .FRS_COUNT_SUMMARIES]
        [.frs] s t
    | .frsClear _ _ =>
      frame [.FRS_STATUS_FLOOD, .FRS_STATUS_CLEARING, .FRS_STATUS_CLR_REFUSED, .FRS_STATUS_CLR_LOCK, .FRS_NEXT_LO_SEQ,
         .FRS_NEXT_HI_SEQ, .FRS_FLUSHED_LO_SEQ, .FRS_FLUSHED_HI_SEQ, .FRS_OLDEST_LO_SEQ, .FRS_OLDEST_HI_SEQ,
         .FRS_QUEUE_LEVEL, .FRS_COUNT_COALESCED, .FRS_NONCE_LO_NONCE, .FRS_NONCE_HI_NONCE, .FRS_CLR_CODE_HI_CODE,
         .SCR_HCOUNT_ABSENT]
        [.frs, .cnt, .scr, .free] s t
    | .frsEraseDone =>
      frame [.FRS_STATUS_CLEARING, .THM_FLASH_WAITED]
        [.frs] s t
    | .clrLockEnd =>
      frame [.FRS_STATUS_CLR_LOCK]
        [.frs] s t
    | .frsRdSelWrite _ =>
      frame [.FRS_RD_SEL_SLOT, .FRS_RD_SEL_SRC, .FRS_RD_SEL_READY]
        [.frs] s t
    | .frsCopyDone =>
      frame [.FRS_RD_SEL_READY]
        [.frs] s t
    | .firmware _ =>
      frame [.FRS_STATUS_FLOOD, .FRS_QUEUE_LEVEL, .FRS_COUNT_COALESCED, .SCR_HCOUNT_ABSENT]
        [.frs, .cnt, .scr] s t
    | .gatherBoundary =>
      frame [.CNT_HI_OVF, .CNT_HI_PEND]
        [.cnt] s t
    | .gatherPublish _ =>
      frame [.CNT_STATUS_GATHER_LATE, .CNT_GATHER_GATHER, .CNT_GTIME_TIME, .CNT_LO_COUNT_LO, .CNT_HI_COUNT_HI]
        [.cnt] s t
    | .cntLoRead _ _ =>
      frame [.CNT_STATUS_HOST_REFUSED, .SCR_HCOUNT_ABSENT]
        [.readers, .cnt, .scr] s t
    | .cntSelWrite _ _ _ =>
      frame [.CNT_STATUS_HOST_REFUSED, .CNT_HI_OVF, .CNT_HI_PEND, .CNT_SEL_EVENT, .CNT_SEL_GROUP, .CNT_SEL_UNIT,
         .CNT_SEL_QUAL, .CNT_SEL_ZERO, .SCR_HCOUNT_ABSENT]
        [.cnt, .scr] s t
    | .holdTo =>
      frame [.CNT_CTRL_FW_HOLD, .CNT_CTRL_HOST_HOLD, .CNT_STATUS_HELD, .CNT_STATUS_HOLD_TO]
        [] s t
    | .preciseSample _ _ =>
      frame [.CNT_PS_STATUS_LEVEL, .CNT_PS_STATUS_DROPPED]
        [.cnt] s t
    | .cntPsDataRead _ =>
      frame [.CNT_PS_STATUS_LEVEL, .SCR_HCOUNT_ABSENT]
        [.readers, .cnt, .scr] s t
    | .scrimRsp | .scrHsyncRead | .msixUnmask _ =>
      frame []
        [.scr] s t
    | .hostFieldAccess _ _ _ _ =>
      frame [.SCR_HCOUNT_ABSENT, .SCR_HCOUNT_PARTIAL_WR, .SCR_HCREDIT_REQ]
        [.cnt, .scr] s t
    | .fieldDown =>
      frame [.SCR_HSTATUS_FIELD_UP, .SCR_HCOUNT_ABSENT, .SCR_HCOUNT_UNSURE_WR, .SCR_HIRQ_CAUSE, .DMA_CTRL_EN,
         .DMA_STATUS_RUN, .DMA_STATUS_FIELD_LOST, .DMA_TAIL_TAIL]
        [.rings, .scr] s t
    | .hostAbsent =>
      frame [.SCR_FSTATUS_HOST_UP]
        [] s t
    | .scrimLaneDrop _ =>
      frame [.FCL_COUNT_MERGED, .SCR_FSTATUS_LANES_RX, .SCR_HSTATUS_FIELD_UP, .SCR_HSTATUS_LANES_RX, .SCR_HCOUNT_ABSENT,
         .SCR_HCOUNT_UNSURE_WR, .SCR_HIRQ_CAUSE, .PCIE_STATUS_NARROW, .PCIE_CAP_CAP_LIMIT, .DMA_CTRL_EN,
         .DMA_STATUS_RUN, .DMA_STATUS_FIELD_LOST, .DMA_STATUS_LIMIT_STOP, .DMA_TAIL_TAIL]
        [.rings, .net, .scr] s t
    | .scrimSync _ _ =>
      frame [.SCR_FSTATUS_HOST_UP, .SCR_FSTATUS_LANES_RX, .SCR_FCREDIT_RSP, .SCR_FCREDIT_EVT, .SCR_FCREDIT_MBX_TX,
         .SCR_FCREDIT_CAP8, .SCR_MB_CTRL_RX_LEVEL, .SCR_HSTATUS_FIELD_UP, .SCR_HSTATUS_LANES_RX,
         .SCR_HSTATUS_LINK_EPOCH, .SCR_HCOUNT_ABSENT, .SCR_HCOUNT_UNSURE_WR, .SCR_HIRQ_CAUSE, .SCR_HCREDIT_REQ,
         .SCR_HCREDIT_MBX_TX, .PCIE_STATUS_NARROW, .PCIE_CAP_CAP_LIMIT, .DMA_CTRL_EN, .DMA_STATUS_RUN,
         .DMA_STATUS_FIELD_LOST, .DMA_STATUS_LIMIT_STOP, .DMA_TAIL_TAIL, .MBX_CTRL_RX_LEVEL]
        [.readers, .rings, .net, .scr] s t
    | .scrimCreditReturn =>
      frame [.SCR_FCREDIT_RSP, .SCR_FCREDIT_EVT, .SCR_FCREDIT_MBX_TX, .SCR_FCREDIT_CAP8, .SCR_HCREDIT_REQ,
         .SCR_HCREDIT_MBX_TX]
        [.cnt, .scr] s t
    | .evtMessage =>
      frame [.SCR_FCREDIT_EVT]
        [.cnt, .scr] s t
    | .scrFwIrqWrite _ _ =>
      frame [.SCR_HCOUNT_ABSENT]
        [.cnt, .scr] s t
    | .pcieError _ _ | .dmaErr _ =>
      frame [.DMA_CTRL_EN, .DMA_STATUS_RUN, .DMA_STATUS_DMA_ERR, .DMA_TAIL_TAIL]
        [.rings, .scr] s t
    | .pcieRetrain _ _ =>
      frame [.PCIE_STATUS_GEN, .PCIE_STATUS_WIDTH, .PCIE_STATUS_NARROW, .PCIE_CAP_CAP_LIMIT, .DMA_CTRL_EN,
         .DMA_STATUS_RUN, .DMA_STATUS_LIMIT_STOP, .DMA_TAIL_TAIL]
        [.rings, .scr] s t
    | .dmaEnable _ _ =>
      frame [.DMA_CTRL_EN, .DMA_CTRL_BP, .DMA_CTRL_TAP, .DMA_CTRL_IRQ_N, .DMA_CTRL_HOLDOFF, .DMA_STATUS_RUN,
         .DMA_STATUS_FIELD_LOST, .DMA_STATUS_BME_OFF, .DMA_STATUS_ENA_REFUSED, .DMA_TAIL_TAIL]
        [.rings, .scr] s t
    | .dmaHeadWrite _ _ =>
      frame [.DMA_STATUS_HEAD_REFUSED, .DMA_HEAD_HEAD]
        [] s t
    | .captureGrain _ _ =>
      frame [.SCR_FCREDIT_CAP8, .DMA_STATUS_BAD_DESC, .DMA_TAIL_TAIL]
        [.rings, .cnt, .scr] s t
    | .dmaBufferClose _ | .dmaFlushTimeout _ =>
      frame [.DMA_TAIL_TAIL]
        [.rings, .scr] s t
    | .dmaHoldoffExpire _ =>
      frame []
        [.rings, .scr] s t
    | .dieBTempSample _ =>
      frame [.SCR_HIRQ_CAUSE, .PCIE_TEMP_TEMP, .PCIE_TEMP_MAX_T, .DMA_CTRL_EN, .DMA_STATUS_RUN, .DMA_STATUS_TEMP_STOP,
         .DMA_TAIL_TAIL]
        [.rings, .scr] s t
    | .mbxSend =>
      frame [.SCR_MB_CTRL_RX_LEVEL, .SCR_HCREDIT_MBX_TX, .MBX_CTRL_TX_FULL]
        [.cnt, .scr] s t
    | .mbxPop =>
      frame [.MBX_CTRL_RX_LEVEL]
        [.scr] s t
    | .scrMbSend _ =>
      frame [.SCR_FCREDIT_MBX_TX, .SCR_MB_CTRL_TX_FULL, .SCR_HCOUNT_ABSENT, .MBX_CTRL_RX_LEVEL]
        [.cnt, .scr] s t
    | .scrMbPop _ =>
      frame [.SCR_MB_CTRL_RX_LEVEL, .SCR_HCOUNT_ABSENT]
        [.cnt, .scr] s t
    | .version _ =>
      frame [.SCR_FCREDIT_MBX_TX, .SCR_MB_CTRL_TX_FULL, .SCR_MB_CTRL_RX_LEVEL, .SCR_MB_TX_WORD, .MBX_CTRL_RX_LEVEL]
        [.cnt, .scr] s t
    | .bpStage _ =>
      frame [.SCR_FCREDIT_MBX_TX, .SCR_MB_CTRL_TX_FULL, .SCR_MB_CTRL_RX_LEVEL, .SCR_MB_TX_WORD, .BP_CTRL_ENABLE,
         .BP_CTRL_SPAN, .BP_STATUS_STATE, .BP_STATUS_PENDING, .BP_STATUS_REJECT, .BP_STATUS_BUSY, .BP_ROUTE_SRC_KIND,
         .BP_ROUTE_SRC_PORT, .BP_ROUTE_SRC_NODE, .BP_ROUTE_SRC_BP, .BP_ROUTE_DST_KIND, .BP_ROUTE_DST_PORT,
         .BP_ROUTE_STRIPE, .BP_ROUTE_GROUP, .BP_FREQ_FREQ, .BP_DST_FREQ_FREQ, .GRG_KEEP_KEEP_DROP,
         .COL_COUNT1_NO_ROUTE, .COL_BP_STATUS_ROLE, .COL_BP_STATUS_ROUTED, .COL_BP_STATUS_HOPS, .COL_BP_STATUS_K1,
         .COL_BP_STATUS_PEER, .LANE_STATUS_UNRES, .LANE_RESV_RESERVED, .LANE_RESV_CEIL, .LANE_CREDIT_BAND,
         .LANE_CREDIT_TIME, .LANE_CREDIT1_MGMT, .LANE_CREDIT1_BULK, .LANE_COUNT_KEPT, .LANE_COUNT_MEMBERS,
         .MBX_CTRL_RX_LEVEL]
        [.bps, .tiles, .lanes, .col, .cnt, .scr, .kct] s t
    | .mbxBpEnable _ =>
      frame [.SCR_FCREDIT_MBX_TX, .SCR_MB_CTRL_TX_FULL, .SCR_MB_CTRL_RX_LEVEL, .SCR_MB_TX_WORD, .BP_CTRL_ENABLE,
         .BP_STATUS_STATE, .BP_STATUS_PENDING, .BP_STATUS_REJECT, .BP_STATUS_BUSY, .GRG_KEEP_KEEP_DROP,
         .COL_COUNT1_NO_ROUTE, .COL_BP_STATUS_ROLE, .COL_BP_STATUS_ROUTED, .COL_BP_STATUS_HOPS, .COL_BP_STATUS_K1,
         .COL_BP_STATUS_PEER, .LANE_STATUS_UNRES, .LANE_RESV_RESERVED, .LANE_RESV_CEIL, .LANE_CREDIT_BAND,
         .LANE_CREDIT_TIME, .LANE_CREDIT1_MGMT, .LANE_CREDIT1_BULK, .LANE_COUNT_KEPT, .LANE_COUNT_MEMBERS,
         .MBX_CTRL_RX_LEVEL]
        [.bps, .tiles, .lanes, .col, .cnt, .scr, .kct] s t
    | .delay _ =>
      frame [.FCL_COUNT_MERGED, .SCR_FCREDIT_MBX_TX, .SCR_MB_CTRL_TX_FULL, .SCR_MB_CTRL_RX_LEVEL, .SCR_MB_TX_WORD,
         .BP_STATUS_STATE, .FLO_CTRL_STEP_OK, .FLO_STATUS_DSTATE, .FLO_STATUS_SLEWING, .FLO_STATUS_REJECT,
         .FLO_TARGET_LO_TARGET, .FLO_TARGET_HI_TARGET, .MBX_CTRL_RX_LEVEL]
        [.bps, .tiles, .net, .cnt, .scr] s t
    | .ceiling _ =>
      frame [.SCR_FCREDIT_MBX_TX, .SCR_MB_CTRL_TX_FULL, .SCR_MB_CTRL_RX_LEVEL, .SCR_MB_TX_WORD, .GCE_STAT_CEIL_CLAMP,
         .GCE_CEIL_FW_CEIL, .MBX_CTRL_RX_LEVEL]
        [.cnt, .scr] s t
    | .kctUpdStart _ =>
      frame [.KCT_UPD_STATUS_USTATE, .KCT_UPD_STATUS_WAITING, .KCT_UPD_STATUS_UREJECT, .KCT_UPD_STATUS_UFAIL,
         .KCT_UPD_STATUS_OWNER, .SCR_HCOUNT_ABSENT]
        [.cnt, .scr, .kct] s t
    | .kctUpdDataWrite _ _ =>
      frame [.KCT_UPD_STATUS_USTATE, .KCT_UPD_STATUS_WAITING, .KCT_UPD_STATUS_UREJECT, .KCT_UPD_ADDR_ADDR,
         .KCT_UPD_DATA_DATA, .THM_FLASH_WAITED, .SCR_HCOUNT_ABSENT]
        [.cnt, .scr, .kct] s t
    | .kctUpdCommit _ =>
      frame [.KCT_UPD_STATUS_USTATE, .THM_FLASH_WAITED, .SCR_HCOUNT_ABSENT]
        [.cnt, .scr, .kct] s t
    | .kctUpdAbort _ =>
      frame [.KCT_UPD_STATUS_USTATE, .KCT_UPD_STATUS_WAITING, .KCT_UPD_STATUS_UREJECT, .SCR_HCOUNT_ABSENT]
        [.cnt, .scr, .kct] s t
    | .kctVerifyDone _ =>
      frame [.KCT_STATUS_SLOT_A_OK, .KCT_STATUS_SLOT_B_OK, .KCT_STATUS_FAIL_A, .KCT_STATUS_FAIL_B,
         .KCT_UPD_STATUS_USTATE, .KCT_UPD_STATUS_WAITING, .KCT_UPD_STATUS_UREJECT, .KCT_UPD_STATUS_UFAIL,
         .KCT_COUNT_UPDATES]
        [.kct] s t
    | .pcrKick _ _ =>
      frame [.PCR_KICK_KICK, .SCR_HCOUNT_ABSENT]
        [.cnt, .scr, .kct] s t
    | .coreWdg _ _ =>
      frame [.PCR_COUNT_RESTARTS, .FCL_COUNT_MERGED, .CHZ_SEL_N, .CHZ_COEF_ADDR_TAP, .CHZ_COEF_ADDR_BANK,
         .CHZ_COEF_ADDR_AUTO_INC, .GCE_SEL_N, .SDL_SEL_N, .FLO_SEL_N, .EMG_SEL_N, .COL_SEL_N]
        [.readers, .net, .kct] s t
    | .coreAccessFault _ _ =>
      frame [.PCR_FAULT_ADDR, .PCR_COUNT_FAULTS]
        [.cnt] s t
    | .bmeOff =>
      frame [.DMA_CTRL_EN, .DMA_STATUS_RUN, .DMA_STATUS_BME_OFF, .DMA_TAIL_TAIL]
        [.rings, .scr] s t
    | .fltInactive _ =>
      frame [.PWM_FLT_ACT]
        [] s t
    | .linkBlock _ _ =>
      frame [.PLB_LSTAT_LROLE, .LANE_STATUS_STATE, .LANE_STATUS_MISWIRED, .LANE_STATUS_UNRES, .LANE_PEER_NODE,
         .LANE_PEER_NODE_VALID, .LANE_PEER_CAGE, .LANE_PEER_LANE, .LANE_RESV_RESERVED, .LANE_RESV_CEIL,
         .LANE_CREDIT_BAND, .LANE_CREDIT_TIME, .LANE_CREDIT1_MGMT, .LANE_CREDIT1_BULK, .LANE_ERR_BLOCK_ERR,
         .LANE_COUNT_MEMBERS]
        [.lanes, .cages, .col, .free] s t
    | .frameErr _ _ _ =>
      frame [.FCL_COUNT_MERGED, .GRG_KEEP_RESENT, .GRG_KEEP_KEEP_DROP, .PLB_LSTAT_LROLE, .PLB_LSTAT_PEER_OK,
         .PLB_LSTAT_PEER_STEPS, .PLB_LCOUNT_EXCH_BAD, .COL_COUNT0_REPAIRS, .COL_COUNT0_REPAIR_FAIL,
         .COL_COUNT1_NO_ROUTE, .COL_BP_STATUS_UNRES, .LANE_STATUS_STATE, .LANE_STATUS_BLOCK_LOCK, .LANE_STATUS_LOS,
         .LANE_STATUS_PROTO, .LANE_STATUS_CRC_BURST, .LANE_STATUS_UNRES, .LANE_RESV_RESERVED, .LANE_RESV_CEIL,
         .LANE_CREDIT_BAND, .LANE_CREDIT_TIME, .LANE_CREDIT1_MGMT, .LANE_CREDIT1_BULK, .LANE_ERR_FRAME_ERR,
         .LANE_ERR_BLOCK_ERR, .LANE_COUNT_KEPT, .LANE_COUNT_MEMBERS, .LANE_COUNT_FAILS]
        [.bps, .tiles, .lanes, .cages, .col, .net, .cnt] s t
    | .bulkFrame _ _ =>
      frame [.FCL_COUNT_MERGED, .GRG_KEEP_RESENT, .GRG_KEEP_KEEP_DROP, .PLB_LSTAT_LROLE, .PLB_LSTAT_PEER_OK,
         .PLB_LSTAT_PEER_STEPS, .PLB_LCOUNT_EXCH_BAD, .COL_COUNT0_REPAIRS, .COL_COUNT0_REPAIR_FAIL,
         .COL_COUNT1_HOP_DROP, .COL_COUNT1_NO_ROUTE, .COL_BP_STATUS_UNRES, .LANE_STATUS_STATE,
         .LANE_STATUS_BLOCK_LOCK, .LANE_STATUS_LOS, .LANE_STATUS_PROTO, .LANE_STATUS_CRC_BURST, .LANE_STATUS_UNRES,
         .LANE_RESV_RESERVED, .LANE_RESV_CEIL, .LANE_CREDIT_BAND, .LANE_CREDIT_TIME, .LANE_CREDIT1_MGMT,
         .LANE_CREDIT1_BULK, .LANE_ERR_FRAME_ERR, .LANE_ERR_BLOCK_ERR, .LANE_COUNT_KEPT, .LANE_COUNT_MEMBERS,
         .LANE_COUNT_FAILS]
        [.bps, .tiles, .lanes, .cages, .col, .net, .cnt] s t
    | .msgDiscard _ _ =>
      frame [.FCL_COUNT_MERGED, .GRG_KEEP_RESENT, .GRG_KEEP_KEEP_DROP, .PLB_LSTAT_LROLE, .PLB_LSTAT_PEER_OK,
         .PLB_LSTAT_PEER_STEPS, .PLB_LCOUNT_EXCH_BAD, .COL_COUNT0_REPAIRS, .COL_COUNT0_REPAIR_FAIL,
         .COL_COUNT1_HOP_DROP, .COL_COUNT1_NO_ROUTE, .COL_COUNT2_MSG_DISCARD, .COL_BP_STATUS_UNRES,
         .LANE_STATUS_STATE, .LANE_STATUS_BLOCK_LOCK, .LANE_STATUS_LOS, .LANE_STATUS_PROTO, .LANE_STATUS_CRC_BURST,
         .LANE_STATUS_UNRES, .LANE_RESV_RESERVED, .LANE_RESV_CEIL, .LANE_CREDIT_BAND, .LANE_CREDIT_TIME,
         .LANE_CREDIT1_MGMT, .LANE_CREDIT1_BULK, .LANE_ERR_FRAME_ERR, .LANE_ERR_BLOCK_ERR, .LANE_COUNT_KEPT,
         .LANE_COUNT_MEMBERS, .LANE_COUNT_FAILS]
        [.bps, .tiles, .lanes, .cages, .col, .net, .cnt] s t
    | .kctUpdEraseDone =>
      frame [.KCT_UPD_STATUS_USTATE]
        [.kct] s t
    | .updateWindowTimeout =>
      frame [.KCT_UPD_STATUS_USTATE, .KCT_UPD_STATUS_WAITING, .KCT_UPD_STATUS_UREJECT]
        [.kct] s t
    | _ => True

/-- A reset of die B, PCI Express errors, retraining and the loss of Bus Master Enable, the loss of the field link, capture and its stops, and the host's own mailbox and interrupt accesses leave every register field of the field half and every part of the field side as it was. (R21, R395) -/
def Obligations.HostSideLeavesField : Prop :=
  ∀ (c : Sys2Proof.Instr) (s : State), s.canonical →
    (match c with
    | .dieBReset | .pcieError _ _ | .pcieRetrain _ _ | .bmeOff | .dmaErr _ | .dmaEnable _ _ | .dmaHeadWrite _ _ | .dmaFlushTimeout _ | .dmaHoldoffExpire _ | .dmaBufferClose _ | .dieBTempSample _ | .msixUnmask _ | .mbxPop | .scrHsyncRead | .scrimRsp | .fieldDown => True
    | _ => False) →
    ∃ t, Sys2Proof.Machine.exec c s = Host.Outcome.next t ∧ (∀ (f : Field) (i : Nat), f.row.off < 0x80000 → t.rd f i = s.rd f i) ∧
      ∀ p : Part, p ∉ [Part.rings, Part.scr] → p.same s t

/-- An APPLY takes the staged declaration into a check, and only sets BUSY while one is pending; ENABLE acts from OFF only and begins a check; a check that fails leaves its code and the declaration as it was; a check that passes starts the band path on its declaration, applied whole, with SEQ 0, or waits for the boundary of a running one; ENABLE = 0 cancels a pending check and stops at the boundary. Of each of these commands it says that exec answers a next state, under the conditions named: BP_APPLY, BP_ENABLE, BP_DISABLE, BP_CHECK_DONE, BP_DECLARATION_APPLY, BP_STOP. (R58, R59, R61, R63, R64) -/
def Obligations.Declarations : Prop :=
  (∀ (s : State) (n : BpIx), s.canonical →
    s.rd .BP_STATUS_PENDING n = 1 →
    ∃ t, Sys2Proof.Machine.exec (.bpApply n) s = Host.Outcome.next t ∧
      t.rd .BP_STATUS_BUSY n = 1 ∧
      t.rd .BP_STATUS_PENDING n = 1 ∧
      t.bps = s.bps) ∧
  (∀ (s : State) (n : BpIx), s.canonical →
    s.rd .BP_STATUS_PENDING n = 0 →
    s.rd .BP_CTRL_ENABLE n = 0 ∨ s.running n = true →
    ∃ t, Sys2Proof.Machine.exec (.bpApply n) s = Host.Outcome.next t ∧
      t.rd .BP_STATUS_PENDING n = 1 ∧
      (t.bp n).check = some (⟨s.stagedDecl n, decide (s.rd .BP_CTRL_ENABLE n = 1)⟩ : Check) ∧
      (t.bp n).decl = (s.bp n).decl) ∧
  (∀ (s : State) (n : BpIx), s.canonical →
    s.rd .BP_CTRL_ENABLE n = 0 →
    s.rd .BP_STATUS_STATE n = 0 →
    s.rd .BP_STATUS_PENDING n = 0 →
    s.rd .BP_ROUTE_SRC_KIND n ≠ 2 →
    ∃ t, Sys2Proof.Machine.exec (.bpEnable n) s = Host.Outcome.next t ∧
      t.rd .BP_CTRL_ENABLE n = 1 ∧
      t.rd .BP_STATUS_PENDING n = 1 ∧
      s.running n = true ∨ t.rd .BP_STATUS_STATE n = 1) ∧
  (∀ (s : State) (n : BpIx), s.canonical →
    s.rd .BP_STATUS_STATE n ≠ 0 →
    ∃ t, Sys2Proof.Machine.exec (.bpEnable n) s = Host.Outcome.next t ∧
      t = s) ∧
  (∀ (s : State) (n : BpIx), s.canonical →
    s.rd .BP_CTRL_ENABLE n = 1 →
    s.running n = true →
    s.rd .BP_STATUS_PENDING n = 0 →
    ∃ t, Sys2Proof.Machine.exec (.bpDisable n) s = Host.Outcome.next t ∧
      t.rd .BP_CTRL_ENABLE n = 0 ∧
      t.running n = true ∧
      (t.bp n).stop = true) ∧
  (∀ (s : State) (n : BpIx), s.canonical →
    s.rd .BP_CTRL_ENABLE n = 1 →
    s.running n = false →
    s.rd .BP_STATUS_PENDING n = 1 →
    ∃ t, Sys2Proof.Machine.exec (.bpDisable n) s = Host.Outcome.next t ∧
      t.rd .BP_CTRL_ENABLE n = 0 ∧
      t.rd .BP_STATUS_PENDING n = 0 ∧
      (t.bp n).check = none ∧
      t.running n = false) ∧
  (∀ (s : State) (n : BpIx) (c : Check), s.canonical →
    (s.bp n).check = some c →
    (s.bp n).sub.waiting = false →
    s.declCode n c.decl c.live ≠ 0 →
    ∃ t, Sys2Proof.Machine.exec (.bpCheckDone n) s = Host.Outcome.next t ∧
      t.rd .BP_STATUS_REJECT n = s.declCode n c.decl c.live ∧
      t.rd .BP_STATUS_PENDING n = 0 ∧
      (t.bp n).decl = (s.bp n).decl ∧
      t.running n = s.running n) ∧
  (∀ (s : State) (n : BpIx) (c : Check), s.canonical →
    (s.bp n).check = some c →
    c.live = true →
    (s.bp n).sub.waiting = false →
    s.running n = false →
    s.declCode n c.decl true = 0 →
    c.decl.srcKind = 1 →
    s.rd .BP_STATUS_STATE n = 1 →
    ∃ t, Sys2Proof.Machine.exec (.bpCheckDone n) s = Host.Outcome.next t ∧
      t.running n = true ∧
      (t.bp n).decl = c.decl ∧
      (t.bp n).seq = 0 ∧
      t.rd .BP_STATUS_PENDING n = 0 ∧
      t.rd .BP_STATUS_REJECT n = 0 ∧
      t.rd .BP_STATUS_STATE n = if delayState t n = 5 then 4 else 2) ∧
  (∀ (s : State) (n : BpIx) (c : Check), s.canonical →
    (s.bp n).check = some c →
    c.live = true →
    (s.bp n).sub.waiting = false →
    s.running n = true →
    s.declCode n c.decl true = 0 →
    ∃ t, Sys2Proof.Machine.exec (.bpCheckDone n) s = Host.Outcome.next t ∧
      (t.bp n).passed = some c.decl ∧
      (t.bp n).decl = (s.bp n).decl ∧
      t.rd .BP_STATUS_REJECT n = 0) ∧
  (∀ (s : State) (n : BpIx) (d : Decl), s.canonical →
    (s.bp n).passed = some d →
    s.running n = true →
    ∃ t, Sys2Proof.Machine.exec (.bpDeclarationApply n) s = Host.Outcome.next t ∧
      (t.bp n).decl = d ∧
      (t.bp n).passed = none ∧
      t.rd .BP_STATUS_PENDING n = 0 ∧
      (t.bp n).seq = (s.bp n).seq) ∧
  (∀ (s : State) (n : BpIx), s.canonical →
    s.running n = true →
    (s.bp n).stop = true →
    s.endDue n = false →
    s.rd .BP_STATUS_STATE n ≠ 5 →
    ∃ t, Sys2Proof.Machine.exec (.bpStop n) s = Host.Outcome.next t ∧
      t.running n = false ∧
      t.rd .BP_STATUS_STATE n = 0 ∧
      (t.bp n).decl = (s.bp n).atStop.getD (s.bp n).decl)

/-- In a grain period a publishing receive-window band path forms its next grain with the next SEQ, its node and its origin time; a band path that does not run forms nothing; a missing input grain makes GAP and, of a publisher, an invalid grain with LOSS in its place, with the next SEQ; a stream that stays away makes a publisher INVALID and a transmitter's delay LOST, with NO_GRAINS at level 0. Of each of these commands it says that exec answers a next state, under the conditions named: GRAIN_PERIOD, GRAIN_MISSING, NO_GRAINS. (R48, R50, R55, R57, R54, R193) -/
def Obligations.GrainPeriods : Prop :=
  (∀ (s : State) (n : BpIx) (g : GrainInput), s.canonical →
    s.running n = false →
    ∃ t, Sys2Proof.Machine.exec (.grainPeriod n g) s = Host.Outcome.next t ∧
      t = s) ∧
  (∀ (s : State) (n : BpIx) (g : GrainInput), s.canonical →
    s.running n = true →
    (s.bp n).decl.srcKind = 1 →
    (s.bp n).decl.dstKind = 2 →
    (s.bp n).chz.on = true →
    ∃ t, Sys2Proof.Machine.exec (.grainPeriod n g) s = Host.Outcome.next t ∧
      (t.bp n).seq = ((s.bp n).seq + 1) % 2 ^ 28 ∧
      (t.bp n).chz.g = (s.bp n).chz.g + 1 ∧
      (t.bp n).out.map (fun y => (Grain.ts y, Grain.node y, Grain.bp y, Grain.seq y)) = some (timeBits (s.originTs n (s.bp n).chz.g) % 2 ^ 80, s.nodeAddr, n.val, (s.bp n).seq)) ∧
  (∀ (s : State) (n : BpIx) (g : GrainInput) (h : Held), s.canonical →
    s.running n = true →
    (s.bp n).decl.srcKind = 2 →
    (s.bp n).decl.dstKind = 2 →
    s.nextInput n = some h →
    ∃ t, Sys2Proof.Machine.exec (.grainPeriod n g) s = Host.Outcome.next t ∧
      (t.bp n).seq = ((s.bp n).seq + 1) % 2 ^ 28 ∧
      (t.bp n).dly.count = h.pos + 1 ∧
      (t.bp n).out.map (fun y => (Grain.ts y, Grain.node y, Grain.bp y, Grain.seq y)) = some (h.grain.ts, s.nodeAddr, n.val, (s.bp n).seq)) ∧
  (∀ (s : State) (n : BpIx) (p ts : Int), s.canonical →
    s.running n = true →
    (s.bp n).decl.srcKind = 2 →
    (s.bp n).decl.dstKind = 2 →
    (s.bp n).dly.accepted = some (p, ts) →
    s.nextInput n = none →
    ∃ t, Sys2Proof.Machine.exec (.grainMissing n) s = Host.Outcome.next t ∧
      t.rd .BP_STATUS_GAP n = 1 ∧
      (t.bp n).seq = ((s.bp n).seq + 1) % 2 ^ 28 ∧
      (t.bp n).dly.count = (s.bp n).dly.count + 1 ∧
      (t.bp n).out.map (fun y => (Grain.valid y, gFlag y flLoss, Grain.seq y)) = some (0, true, (s.bp n).seq)) ∧
  (∀ (s : State) (n : BpIx), s.canonical →
    s.running n = true →
    (s.bp n).decl.srcKind = 2 →
    (s.bp n).decl.dstKind = 2 →
    s.rd .BP_STATUS_STATE n = 2 ∨ s.rd .BP_STATUS_STATE n = 3 →
    ∃ t, Sys2Proof.Machine.exec (.noGrains n) s = Host.Outcome.next t ∧
      t.rd .BP_STATUS_STATE n = 4 ∧
      (t.bp n).before = s.rd .BP_STATUS_STATE n ∧
      s.hasCond n 0x23 = true ∨ t.faultWaits n 0x23 = true) ∧
  (∀ (s : State) (n : BpIx), s.canonical →
    s.running n = true →
    (s.bp n).decl.srcKind = 2 →
    (s.bp n).decl.dstKind = 1 →
    s.rd .BP_STATUS_STATE n = 3 →
    delayState s n = 2 →
    ∃ t, Sys2Proof.Machine.exec (.noGrains n) s = Host.Outcome.next t ∧
      delayState t n = 4 ∧
      s.hasCond n 0x23 = true ∨ t.faultWaits n 0x23 = true)

/-- Writing RX_EN = 1 in OFF, with no fence and window centres that pass the check, enters LOCKING on the staged centres; RX_EN = 0 enters OFF with no lock; TX_EN is stored, and it holds transmission while the port locks or calibrates. Of each of these commands it says that exec answers a next state, under the conditions named: FE_RX_ENABLE, FE_RX_DISABLE, FE_TX_ENABLE, FE_TX_DISABLE. (R79, R87, R88) -/
def Obligations.PortReceiveAndTransmitEnable : Prop :=
  (∀ (s : State) (p : PortIx), s.canonical →
    s.rd .FE_STATUS_STATE p = 0 →
    s.fenced (0x80 + p) = false →
    s.retuneCode p (s.staged p) = 0 →
    ∃ t, Sys2Proof.Machine.exec (.feRxEnable p) s = Host.Outcome.next t ∧
      t.rd .FE_CTRL_RX_EN p = 1 ∧
      t.rd .FE_STATUS_STATE p = 1 ∧
      t.rd .FE_STATUS_REJECT p = 0 ∧
      (t.port p).centres = some (s.staged p)) ∧
  (∀ (s : State) (p : PortIx), s.canonical →
    s.rd .FE_STATUS_STATE p ≠ 0 →
    ∃ t, Sys2Proof.Machine.exec (.feRxDisable p) s = Host.Outcome.next t ∧
      t.rd .FE_CTRL_RX_EN p = 0 ∧
      t.rd .FE_STATUS_STATE p = 0 ∧
      t.rd .FE_STATUS_RX_LOCK p = 0 ∧
      t.rd .FE_STATUS_TX_LOCK p = 0 ∧
      t.rd .FE_STATUS_TX_HELD p = 0) ∧
  (∀ (s : State) (p : PortIx), s.canonical →
    ∃ t, Sys2Proof.Machine.exec (.feTxEnable p) s = Host.Outcome.next t ∧
      t.rd .FE_CTRL_TX_EN p = 1 ∧
      t.rd .FE_STATUS_TX_HELD p = flag (decide (s.rd .FE_STATUS_STATE p = 1 ∨ s.rd .FE_STATUS_STATE p = 2))) ∧
  (∀ (s : State) (p : PortIx), s.canonical →
    ∃ t, Sys2Proof.Machine.exec (.feTxDisable p) s = Host.Outcome.next t ∧
      t.rd .FE_CTRL_TX_EN p = 0 ∧
      t.rd .FE_STATUS_TX_HELD p = 0 ∧
      (t.port p).emits = false)

/-- A retune that passes its check moves a READY port to LOCKING on the staged centres when an LO changes, and one that fails shows its code alone; CAL_REQ moves READY to CALIBRATING; a completed lock goes to READY or, before the first calibration, to CALIBRATING; a port that does not lock, and one whose transmission was held too long, go to FENCED with their faults; an unlock goes back to LOCKING. Of each of these commands it says that exec answers a next state, under the conditions named: FE_RETUNE, FE_CAL_REQ, FE_LOCK_DONE, LOCK_TIMEOUT, UNLOCK, TX_TIMEOUT. (R79, R80, R81, R83, R87, R88) -/
def Obligations.PortRetuneAndLock : Prop :=
  (∀ (s : State) (p : PortIx), s.canonical →
    s.rd .FE_STATUS_STATE p = 3 →
    s.retuneCode p (s.staged p) = 0 →
    loMHz ((s.port p).centres.getD (s.staged p)).1 ≠ loMHz (s.rd .FE_RX_FREQ_FREQ p) →
    ∃ t, Sys2Proof.Machine.exec (.feRetune p) s = Host.Outcome.next t ∧
      t.rd .FE_STATUS_STATE p = 1 ∧
      t.rd .FE_STATUS_REJECT p = 0 ∧
      t.rd .FE_STATUS_RETUNE_PEND p = 0 ∧
      (t.port p).centres = some (s.staged p)) ∧
  (∀ (s : State) (p : PortIx), s.canonical →
    s.retuneCode p (s.staged p) ≠ 0 →
    ∃ t, Sys2Proof.Machine.exec (.feRetune p) s = Host.Outcome.next t ∧
      t.rd .FE_STATUS_REJECT p = s.retuneCode p (s.staged p) ∧
      t.rd .FE_STATUS_STATE p = s.rd .FE_STATUS_STATE p ∧
      t.ports = s.ports) ∧
  (∀ (s : State) (p : PortIx), s.canonical →
    s.rd .FE_STATUS_STATE p = 3 →
    ∃ t, Sys2Proof.Machine.exec (.feCalReq p) s = Host.Outcome.next t ∧
      t.rd .FE_STATUS_STATE p = 2 ∧
      (t.port p).calDue = false) ∧
  (∀ (s : State) (p : PortIx), s.canonical →
    s.rd .FE_STATUS_STATE p = 1 →
    (s.port p).calibrated = true →
    (s.port p).calDue = false →
    ∃ t, Sys2Proof.Machine.exec (.feLockDone p) s = Host.Outcome.next t ∧
      t.rd .FE_STATUS_STATE p = 3 ∧
      t.rd .FE_STATUS_RX_LOCK p = 1 ∧
      t.rd .FE_STATUS_TX_LOCK p = 1) ∧
  (∀ (s : State) (p : PortIx), s.canonical →
    s.rd .FE_STATUS_STATE p = 1 →
    (s.port p).calibrated = false →
    ∃ t, Sys2Proof.Machine.exec (.feLockDone p) s = Host.Outcome.next t ∧
      t.rd .FE_STATUS_STATE p = 2 ∧
      t.rd .FE_STATUS_RX_LOCK p = 1 ∧
      t.rd .FE_STATUS_TX_LOCK p = 1) ∧
  (∀ (s : State) (p : PortIx), s.canonical →
    s.rd .FE_STATUS_STATE p = 1 →
    ∃ t, Sys2Proof.Machine.exec (.lockTimeout p) s = Host.Outcome.next t ∧
      t.rd .FE_STATUS_STATE p = 4 ∧
      t.faultWaits (0x80 + p) 0x10 = true) ∧
  (∀ (s : State) (p : PortIx), s.canonical →
    s.rd .FE_STATUS_STATE p = 3 →
    ∃ t, Sys2Proof.Machine.exec (.unlock p) s = Host.Outcome.next t ∧
      t.rd .FE_STATUS_STATE p = 1 ∧
      t.rd .FE_STATUS_UNLOCK_COUNT p = min (s.rd .FE_STATUS_UNLOCK_COUNT p + 1) (2 ^ Field.FE_STATUS_UNLOCK_COUNT.row.width - 1) ∧
      t.faultWaits (0x80 + p) 0x11 = true) ∧
  (∀ (s : State) (p : PortIx), s.canonical →
    s.rd .FE_STATUS_TX_HELD p = 1 →
    ∃ t, Sys2Proof.Machine.exec (.txTimeout p) s = Host.Outcome.next t ∧
      t.rd .FE_STATUS_TX_TIMEOUT p = 1 ∧
      t.rd .FE_STATUS_STATE p = 4 ∧
      t.faultWaits (0x80 + p) 0x12 = true)

/-- A foreground calibration that fits stores the three image rejections and goes to READY, or to LOCKING on a retune that waited, and one that fails goes to FENCED with its fault; a background update clears the staleness of its chain; a stale chain is shown and reported; written attenuation takes effect. Of each of these commands it says that exec answers a next state, under the conditions named: FE_CAL_DONE, FE_BG_CAL_UPDATE, CAL_STALE, FE_ATT_APPLY. (R82, R83, R84, R86, R87) -/
def Obligations.PortCalibrationAndAttenuators : Prop :=
  (∀ (s : State) (p : PortIx) (rx tx obs : Nat), s.canonical →
    s.rd .FE_STATUS_STATE p = 2 →
    (s.port p).retune = none →
    ∃ t, Sys2Proof.Machine.exec (.feCalDone p (some (rx, tx, obs))) s = Host.Outcome.next t ∧
      t.rd .FE_STATUS_STATE p = 3 ∧
      t.rd .FE_CAL_STATUS_RX_IRR p = rx % 2 ^ Field.FE_CAL_STATUS_RX_IRR.row.width ∧
      t.rd .FE_CAL_STATUS_TX_IRR p = tx % 2 ^ Field.FE_CAL_STATUS_TX_IRR.row.width ∧
      t.rd .FE_CAL_STATUS_OBS_IRR p = obs % 2 ^ Field.FE_CAL_STATUS_OBS_IRR.row.width ∧
      (t.port p).calibrated = true) ∧
  (∀ (s : State) (p : PortIx) (c : Nat × Nat) (r : Nat × Nat × Nat), s.canonical →
    s.rd .FE_STATUS_STATE p = 2 →
    (s.port p).retune = some c →
    ∃ t, Sys2Proof.Machine.exec (.feCalDone p (some r)) s = Host.Outcome.next t ∧
      t.rd .FE_STATUS_STATE p = 1 ∧
      (t.port p).centres = some c) ∧
  (∀ (s : State) (p : PortIx), s.canonical →
    s.rd .FE_STATUS_STATE p = 2 →
    ∃ t, Sys2Proof.Machine.exec (.feCalDone p none) s = Host.Outcome.next t ∧
      t.rd .FE_STATUS_STATE p = 4 ∧
      t.rd .FE_CAL_STATUS_FG_FAIL p = 1 ∧
      t.faultWaits (0x80 + p) 0x16 = true) ∧
  (∀ (s : State) (p : PortIx) (tx obs : Bool), s.canonical →
    s.rd .FE_STATUS_STATE p = 3 →
    s.rd .FE_CAL_CTRL_BG_RX p = 1 →
    ∃ t, Sys2Proof.Machine.exec (.feBgCalUpdate p (true, tx, obs)) s = Host.Outcome.next t ∧
      (t.port p).stale.contains 0 = false ∧
      t.rd .FE_STATUS_STATE p = 3) ∧
  (∀ (s : State) (p : PortIx), s.canonical →
    s.chainStale p 1 = true →
    (s.port p).stale.contains 1 = false →
    ∃ t, Sys2Proof.Machine.exec (.calStale p) s = Host.Outcome.next t ∧
      t.rd .FE_CAL_STATUS_STALE p = 1 ∧
      (t.port p).stale.contains 1 = true ∧
      t.faultWaits (0x80 + p) 0x15 = true) ∧
  (∀ (s : State) (p : PortIx), s.canonical →
    s.attOf p ≠ (s.port p).att →
    s.rd .FE_STATUS_STATE p ≠ 2 →
    ∃ t, Sys2Proof.Machine.exec (.feAttApply p) s = Host.Outcome.next t ∧
      (t.port p).att = s.attOf p ∧
      (t.port p).attPend = false ∧
      t.rd .FE_STATUS_STATE p = s.rd .FE_STATUS_STATE p)

/-- When the position that the conditions of R92 call for is not the one held and no move runs, a move begins: POS reads MOVING, the move is counted, the transmitter stops and the PWM channel of the port is held safe; at its end POS reads the position sensed, and contacts that disagree, or read no position, set RELAY_MISMATCH, send the fault and start a move to the bypass position. Of each of these commands it says that exec answers a next state, under the conditions named: RELAY_MOVE_START, RELAY_MOVE_END. (R91, R92, R93) -/
def Obligations.RelayMoves : Prop :=
  (∀ (s : State) (p : PortIx), s.canonical →
    (s.port p).move = none →
    s.relayWanted p ≠ (s.port p).relay →
    ∃ t, Sys2Proof.Machine.exec (.relayMoveStart p) s = Host.Outcome.next t ∧
      t.rd .FE_RELAY_POS p = 3 ∧
      (t.port p).move = some (s.relayWanted p) ∧
      (t.port p).emits = false ∧
      (t.pwm p).relayHold = true ∧
      t.rd .FE_RELAY_MOVE_COUNT p = min (s.rd .FE_RELAY_MOVE_COUNT p + 1) (2 ^ Field.FE_RELAY_MOVE_COUNT.row.width - 1)) ∧
  (∀ (s : State) (p : PortIx) (sensed : Fin 4), s.canonical →
    (s.port p).move = some sensed.val →
    s.relayWanted p = sensed.val →
    ∃ t, Sys2Proof.Machine.exec (.relayMoveEnd p sensed) s = Host.Outcome.next t ∧
      (t.port p).move = none ∧
      (t.port p).relay = sensed ∧
      t.rd .FE_RELAY_POS p = sensed) ∧
  (∀ (s : State) (p : PortIx) (target : Nat) (sensed : Fin 4), s.canonical →
    (s.port p).move = some target →
    target ≠ sensed.val →
    ∃ t, Sys2Proof.Machine.exec (.relayMoveEnd p sensed) s = Host.Outcome.next t ∧
      t.rd .FE_STATUS_RELAY_MISMATCH p = 1 ∧
      t.faultWaits (0x80 + p) 0x13 = true ∧
      (t.port p).wasReady = false ∧
      (t.port p).relay = sensed ∧
      (t.port p).move = some (s.bypassPos p))

/-- MODE 0 stops the pilot; MODE 1 that passes its check starts acquisition; acquisition ends in LOCKED, or is reported too weak; a measurement in LOCKED that is not ambiguous stores the forward delay of R99, counts it and sets FRESH, and an ambiguous one sets AMBIG alone. Of each of these commands it says that exec answers a next state, under the conditions named: FE_PILOT_MODE, PILOT_LOCKED, PILOT_LOW_LEVEL, PILOT_MEASURE_DONE. (R97, R99) -/
def Obligations.PilotStates : Prop :=
  (∀ (s : State) (p : PortIx), s.canonical →
    ∃ t, Sys2Proof.Machine.exec (.fePilotMode p 0) s = Host.Outcome.next t ∧
      t.rd .FE_PILOT_STATUS_PSTATE p = 0 ∧
      t.rd .FE_PILOT_CTRL_MODE p = 0 ∧
      (t.port p).pilot.mode = 0) ∧
  (∀ (s : State) (p : PortIx), s.canonical →
    (s.port p).pilot.mode = 0 →
    (s.port p).pilot.mutes = [] →
    s.modeCode p 1 (s.rd .FE_PILOT_FREQ_FREQ p) (s.rd .FE_PILOT_SHIFT_FREQ p) = 0 →
    ∃ t, Sys2Proof.Machine.exec (.fePilotMode p 1) s = Host.Outcome.next t ∧
      t.rd .FE_PILOT_STATUS_PSTATE p = 1 ∧
      t.rd .FE_PILOT_CTRL_MODE p = 1 ∧
      t.rd .FE_STATUS_REJECT p = 0 ∧
      (t.port p).pilot.f0 = s.rd .FE_PILOT_FREQ_FREQ p) ∧
  (∀ (s : State) (p : PortIx), s.canonical →
    s.rd .FE_PILOT_STATUS_PSTATE p = 1 →
    ∃ t, Sys2Proof.Machine.exec (.pilotLocked p) s = Host.Outcome.next t ∧
      t.rd .FE_PILOT_STATUS_PSTATE p = 2) ∧
  (∀ (s : State) (p : PortIx), s.canonical →
    s.rd .FE_PILOT_STATUS_PSTATE p = 1 →
    ∃ t, Sys2Proof.Machine.exec (.pilotLowLevel p) s = Host.Outcome.next t ∧
      t.rd .FE_PILOT_STATUS_LOW_LEVEL p = 1 ∧
      t.rd .FE_PILOT_STATUS_PSTATE p = 1) ∧
  (∀ (s : State) (p : PortIx) (a b c : BitVec 40) (x : Int), s.canonical →
    s.rd .FE_PILOT_STATUS_PSTATE p = 2 →
    roundTrip a.toNat b.toNat c.toNat (s.rd .FE_PILOT_PRIOR_PRIOR p) = some x →
    ∃ t, Sys2Proof.Machine.exec (.pilotMeasureDone p a b c) s = Host.Outcome.next t ∧
      t.rdDelay .FE_PILOT_DLY_LO_DLY_LO .FE_PILOT_DLY_HI_DLY_HI p = signed 48 (wrapBits 48 (roundDiv (1024000 * x - ((s.rd .FE_TX_LAT_LAT p + s.rd .FE_RX_LAT_LAT p + s.rd .FE_PILOT_TURN_TURN p : Nat) : Int) * turn) (2 * turn).toNat + s.rdS .FE_PILOT_SPLIT_SPLIT p)) ∧
      t.rd .FE_PILOT_STATUS_FRESH p = 1 ∧
      t.rd .FE_PILOT_STATUS_COUNT p = (s.rd .FE_PILOT_STATUS_COUNT p + 1) % 2 ^ Field.FE_PILOT_STATUS_COUNT.row.width) ∧
  (∀ (s : State) (p : PortIx) (a b c : BitVec 40), s.canonical →
    s.rd .FE_PILOT_STATUS_PSTATE p = 2 →
    roundTrip a.toNat b.toNat c.toNat (s.rd .FE_PILOT_PRIOR_PRIOR p) = none →
    ∃ t, Sys2Proof.Machine.exec (.pilotMeasureDone p a b c) s = Host.Outcome.next t ∧
      t.rd .FE_PILOT_STATUS_AMBIG p = 1 ∧
      t.rd .FE_PILOT_STATUS_FRESH p = s.rd .FE_PILOT_STATUS_FRESH p)

/-- A synchronising reset is accepted for a running chain with T_sync chosen as R115 says, and at T_sync the chain restarts on its new grid with cleared stages, no fade and no pending swap left; a swap of a band path that is not OFF is held pending with its bank, one of a bank that no check has passed is refused, and one of a band path in OFF takes effect at once; a due swap of a running chain starts its fade, and a complete fade makes its bank the active one. Of each of these commands it says that exec answers a next state, under the conditions named: CHZ_SYNC, SYNC_RESET, CHZ_SWAP, FADE_START, FADE_END. (R115, R116, R121, R122, R123) -/
def Obligations.ChannelizerSyncAndFades : Prop :=
  (∀ (s : State) (q : CoreIx), s.canonical →
    (s.bp (s.rd .CHZ_SEL_N q)).chz.on = true →
    s.rd .CHZ_CHAIN_BYPASS (s.rd .CHZ_SEL_N q) = 0 →
    ∃ t, Sys2Proof.Machine.exec (.chzSync q) s = Host.Outcome.next t ∧
      (t.bp (s.rd .CHZ_SEL_N q)).chz.syncAt = some (s.chooseSync (s.bp (s.rd .CHZ_SEL_N q)).decl.span) ∧
      t.regs = s.regs) ∧
  (∀ (s : State) (n : BpIx) (m : Nat), s.canonical →
    (s.bp n).chz.syncAt = some m →
    (s.bp n).chz.swap = none →
    (s.bp n).chz.fade = none →
    ∃ t, Sys2Proof.Machine.exec (.syncReset n) s = Host.Outcome.next t ∧
      (t.bp n).chz.on = true ∧
      (t.bp n).chz.grid = m ∧
      (t.bp n).chz.g = 0 ∧
      (t.bp n).chz.off = (s.bp n).chz.syncOff ∧
      (t.bp n).chz.chain = ({ hb := List.replicate (chainD (s.bp n).decl.span) [] } : Chain) ∧
      (t.bp n).chz.syncAt = none ∧
      t.rd .CHZ_BANK_STATUS_ACTIVE n = s.rd .CHZ_BANK_STATUS_ACTIVE n ∧
      t.rd .CHZ_BANK_STATUS_FADING n = 0 ∧
      t.rd .CHZ_BANK_STATUS_PENDING n = 0) ∧
  (∀ (s : State) (n : BpIx) (m : Nat) (w : Swap), s.canonical →
    (s.bp n).chz.syncAt = some m →
    (s.bp n).chz.swap = some w →
    ∃ t, Sys2Proof.Machine.exec (.syncReset n) s = Host.Outcome.next t ∧
      (t.bp n).chz.swap = none ∧
      t.rd .CHZ_BANK_STATUS_ACTIVE n = w.bank % 2 ^ Field.CHZ_BANK_STATUS_ACTIVE.row.width ∧
      t.rd .CHZ_BANK_STATUS_PENDING n = 0) ∧
  (∀ (s : State) (q : CoreIx) (bank : Fin 4) (fade : Fin 16), s.canonical →
    s.rd .CHZ_CHAIN_BYPASS (s.rd .CHZ_SEL_N q) = 0 →
    bank.val < 2 →
    s.rd .BP_STATUS_STATE (s.rd .CHZ_SEL_N q) ≠ 0 →
    ∃ t, Sys2Proof.Machine.exec (.chzSwap q bank fade) s = Host.Outcome.next t ∧
      t.rd .CHZ_BANK_STATUS_PENDING (s.rd .CHZ_SEL_N q) = 1 ∧
      t.rd .CHZ_BANK_STATUS_PEND_BANK (s.rd .CHZ_SEL_N q) = bank ∧
      (t.bp (s.rd .CHZ_SEL_N q)).chz.swap.map Swap.grains = some (fade.val + 1) ∧
      t.rd .CHZ_BANK_STATUS_ACTIVE (s.rd .CHZ_SEL_N q) = s.rd .CHZ_BANK_STATUS_ACTIVE (s.rd .CHZ_SEL_N q)) ∧
  (∀ (s : State) (q : CoreIx) (fade : Fin 16), s.canonical →
    s.rd .CHZ_BANK_STATUS_OK3 (s.rd .CHZ_SEL_N q) = 0 →
    ∃ t, Sys2Proof.Machine.exec (.chzSwap q 3 fade) s = Host.Outcome.next t ∧
      t.rd .CHZ_BANK_STATUS_SWAP_REFUSED (s.rd .CHZ_SEL_N q) = 1 ∧
      t.bps = s.bps) ∧
  (∀ (s : State) (q : CoreIx) (fade : Fin 16), s.canonical →
    s.rd .CHZ_CHAIN_BYPASS (s.rd .CHZ_SEL_N q) = 0 →
    s.rd .BP_STATUS_STATE (s.rd .CHZ_SEL_N q) = 0 →
    ∃ t, Sys2Proof.Machine.exec (.chzSwap q 1 fade) s = Host.Outcome.next t ∧
      t.rd .CHZ_BANK_STATUS_ACTIVE (s.rd .CHZ_SEL_N q) = 1 ∧
      t.rd .CHZ_BANK_STATUS_PENDING (s.rd .CHZ_SEL_N q) = 0) ∧
  (∀ (s : State) (n : BpIx) (w : Swap), s.canonical →
    (s.bp n).chz.fade = none →
    (s.bp n).chz.swap = some w →
    w.earliest = none →
    (s.bp n).chz.on = true →
    w.bank ≠ s.rd .CHZ_BANK_STATUS_ACTIVE n →
    ∃ t, Sys2Proof.Machine.exec (.fadeStart n) s = Host.Outcome.next t ∧
      (t.bp n).chz.fade = some (⟨s.rd .CHZ_BANK_STATUS_ACTIVE n, w.bank, (s.bp n).chz.g, w.grains⟩ : Fade) ∧
      (t.bp n).chz.swap = none ∧
      t.rd .CHZ_BANK_STATUS_FADING n = 1 ∧
      t.rd .CHZ_BANK_STATUS_PENDING n = 0) ∧
  (∀ (s : State) (n : BpIx) (f : Fade), s.canonical →
    (s.bp n).chz.fade = some f →
    (s.bp n).chz.on = true →
    (s.bp n).chz.g = f.start + f.grains →
    ∃ t, Sys2Proof.Machine.exec (.fadeEnd n) s = Host.Outcome.next t ∧
      (t.bp n).chz.fade = none ∧
      t.rd .CHZ_BANK_STATUS_FADING n = 0 ∧
      t.rd .CHZ_BANK_STATUS_ACTIVE n = f.dst % 2 ^ Field.CHZ_BANK_STATUS_ACTIVE.row.width)

/-- A check of a user bank that may be written shows CHECKING; when it is done OK shows whether the bank passes R119; a coefficient written into a free bank reads back, clears OK, and is refused otherwise; a coefficient read gives the tap addressed and advances the tap while AUTO_INC is set. Of each of these commands it says that exec answers a next state, under the conditions named: CHZ_CHECK, CHZ_CHECK_DONE, CHZ_COEF_WRITE, CHZ_COEF_READ. (R119, R120) -/
def Obligations.UserBanks : Prop :=
  (∀ (s : State) (q : CoreIx) (b : Bool), s.canonical →
    s.bankFree (s.rd .CHZ_SEL_N q) (if b then 3 else 2) = true →
    ∃ t, Sys2Proof.Machine.exec (.chzCheck q b) s = Host.Outcome.next t ∧
      t.rd .CHZ_BANK_STATUS_CHECKING (s.rd .CHZ_SEL_N q) = 1 ∧
      t.rd .CHZ_CTRL_CHK_BANK (s.rd .CHZ_SEL_N q) = flag b ∧
      (t.bp (s.rd .CHZ_SEL_N q)).chz.checks3 = b) ∧
  (∀ (s : State) (n : BpIx), s.canonical →
    s.rd .CHZ_BANK_STATUS_CHECKING n = 1 →
    (s.bp n).chz.checks3 = false →
    ∃ t, Sys2Proof.Machine.exec (.chzCheckDone n) s = Host.Outcome.next t ∧
      t.rd .CHZ_BANK_STATUS_CHECKING n = 0 ∧
      t.rd .CHZ_BANK_STATUS_OK2 n = flag (s.bankPasses n 2) ∧
      t.rd .CHZ_BANK_STATUS_OK3 n = s.rd .CHZ_BANK_STATUS_OK3 n) ∧
  (∀ (s : State) (q : CoreIx) (w : Word), s.canonical →
    s.rd .CHZ_COEF_ADDR_BANK q = 2 →
    s.rd .CHZ_COEF_ADDR_TAP q ≤ 190 →
    s.bankFree (s.rd .CHZ_SEL_N q) 2 = true →
    Store.wf (fun _ => 0) (s.bp (s.rd .CHZ_SEL_N q)).chz.bank2 = true →
    ∃ t, Sys2Proof.Machine.exec (.chzCoefWrite q w) s = Host.Outcome.next t ∧
      t.coef (s.rd .CHZ_SEL_N q) 2 (s.rd .CHZ_COEF_ADDR_TAP q) = w.toNat % 2 ^ 18 ∧
      t.rd .CHZ_BANK_STATUS_OK2 (s.rd .CHZ_SEL_N q) = 0) ∧
  (∀ (s : State) (q : CoreIx) (w : Word), s.canonical →
    s.bankFree (s.rd .CHZ_SEL_N q) (s.rd .CHZ_COEF_ADDR_BANK q) = false →
    ∃ t, Sys2Proof.Machine.exec (.chzCoefWrite q w) s = Host.Outcome.next t ∧
      t.rd .CHZ_BANK_STATUS_WR_REFUSED (s.rd .CHZ_SEL_N q) = 1 ∧
      t.bps = s.bps) ∧
  (∀ (s : State) (q : CoreIx), s.canonical →
    ∃ t, Sys2Proof.Machine.exec (.chzCoefRead q) s = Host.Outcome.next t ∧
      (t.reader q).data = BitVec.ofNat 32 (s.coefWord q) ∧
      t.rd .CHZ_COEF_ADDR_TAP q = (s.rd .CHZ_COEF_ADDR_TAP q + s.rd .CHZ_COEF_ADDR_AUTO_INC q) % 256)

/-- The first overrun of a running band path in a tick keeps its values, counts, and names the source that was late, if one was; an ECC error and a cold start that comes too late are reported; at a tick boundary the tick index advances and the gains computed in the tick apply. Of each of these commands it says that exec answers a next state, under the conditions named: OVERRUN, ENGINE_ECC, CS_LATE, TICK_BOUNDARY. (R126, R147, R148, R149) -/
def Obligations.EngineEvents : Prop :=
  (∀ (s : State) (n : BpIx) (late : Option (Fin 5)), s.canonical →
    s.running n = true →
    (s.bp n).eng.overran = false →
    ∃ t, Sys2Proof.Machine.exec (.overrun n late) s = Host.Outcome.next t ∧
      (t.bp n).eng.next = none ∧
      (t.bp n).eng.overran = true ∧
      (t.bp n).eng.now = (s.bp n).eng.now ∧
      t.rd .GCE_OVR_OVR_COUNT n = min (s.rd .GCE_OVR_OVR_COUNT n + 1) (2 ^ Field.GCE_OVR_OVR_COUNT.row.width - 1) ∧
      t.rd .GCE_OVR_OVR_CONSEC n = min (s.rd .GCE_OVR_OVR_CONSEC n + 1) (2 ^ Field.GCE_OVR_OVR_CONSEC.row.width - 1) ∧
      late ≠ some 0 ∨ t.rd .GCE_TICK_LATE_SDL = 1 ∧
      late ≠ some 1 ∨ t.rd .GCE_TICK_LATE_EMG = 1 ∧
      late ≠ some 2 ∨ t.rd .GCE_TICK_LATE_THM = 1 ∧
      late ≠ some 3 ∨ t.rd .GCE_TICK_LATE_MON = 1 ∧
      late ≠ some 4 ∨ t.rd .GCE_TICK_ECC_RETRY = 1 ∧
      s.rd .GCE_OVR_OVR_CONSEC n ≠ 2 ∨ t.faultWaits n 0x20 = true) ∧
  (∀ (s : State) (n : BpIx), s.canonical →
    ∃ t, Sys2Proof.Machine.exec (.engineEcc n) s = Host.Outcome.next t ∧
      t.faultWaits n 0x21 = true ∧
      t.bps = s.bps) ∧
  (∀ (s : State) (n : BpIx), s.canonical →
    (s.bp n).eng.now.cs = 1 →
    ∃ t, Sys2Proof.Machine.exec (.csLate n) s = Host.Outcome.next t ∧
      t.rd .GCE_STAT_CS_LATE n = 1 ∧
      s.hasCond n 0x22 = true ∨ t.faultWaits n 0x22 = true) ∧
  (∀ (s : State), 
    ∃ t, Sys2Proof.Machine.exec (.tickBoundary) s = Host.Outcome.next t ∧
      t.clk = (⟨s.clk.tick + 1, 0⟩ : Clock))

/-- A firmware ceiling or slew above its hard value is stored as the hard value and CEIL_CLAMP is set, and one at or below it is stored as written; SETA falls invalid; a SETP period inside the range adds its duty and after sixteen in a row is valid; a period that is too short, and a pin that stays at one level, make SETP invalid with the cause shown. Of each of these commands it says that exec answers a next state, under the conditions named: FW_CEIL_WRITE, SETA_INVALID, SETP_PERIOD, SETP_STUCK. (R138, R143, R144) -/
def Obligations.SetPointPinsAndClamps : Prop :=
  (∀ (s : State) (q : CoreIx) (v : BitVec 16), s.canonical →
    signed 16 v.toNat ≤ s.rdS .GCE_CEIL_HARD_CEIL (s.rd .GCE_SEL_N q) →
    ∃ t, Sys2Proof.Machine.exec (.fwCeilWrite q false v) s = Host.Outcome.next t ∧
      t.rd .GCE_CEIL_FW_CEIL (s.rd .GCE_SEL_N q) = v.toNat ∧
      t.rd .GCE_STAT_CEIL_CLAMP (s.rd .GCE_SEL_N q) = s.rd .GCE_STAT_CEIL_CLAMP (s.rd .GCE_SEL_N q)) ∧
  (∀ (s : State) (q : CoreIx) (v : BitVec 16), s.canonical →
    s.rdS .GCE_CEIL_HARD_CEIL (s.rd .GCE_SEL_N q) < signed 16 v.toNat →
    ∃ t, Sys2Proof.Machine.exec (.fwCeilWrite q false v) s = Host.Outcome.next t ∧
      t.rd .GCE_CEIL_FW_CEIL (s.rd .GCE_SEL_N q) = s.rd .GCE_CEIL_HARD_CEIL (s.rd .GCE_SEL_N q) % 65536 ∧
      t.rd .GCE_STAT_CEIL_CLAMP (s.rd .GCE_SEL_N q) = 1) ∧
  (∀ (s : State) (q : CoreIx) (v : BitVec 16), s.canonical →
    s.rd .GCE_SLEW_SP_SLEW (s.rd .GCE_SEL_N q) < v.toNat →
    ∃ t, Sys2Proof.Machine.exec (.fwCeilWrite q true v) s = Host.Outcome.next t ∧
      t.rd .GCE_SLEW_FW_SP_SLEW (s.rd .GCE_SEL_N q) = s.rd .GCE_SLEW_SP_SLEW (s.rd .GCE_SEL_N q) % 65536 ∧
      t.rd .GCE_STAT_CEIL_CLAMP (s.rd .GCE_SEL_N q) = 1) ∧
  (∀ (s : State), s.canonical →
    s.rd .GCE_SETA_VALID = 1 →
    ∃ t, Sys2Proof.Machine.exec (.setaInvalid) s = Host.Outcome.next t ∧
      t.rd .GCE_SETA_VALID = 0 ∧
      ∀ n : Fin 128, s.rd .GCE_MODE_SP_SRC n ≠ 1 ∨ t.rd .GCE_STAT_SRC_INV n = 1) ∧
  (∀ (s : State) (period high : Nat), s.canonical →
    400 ≤ period →
    period ≤ 4000000 →
    15 ≤ s.pins.setpRun →
    ∃ t, Sys2Proof.Machine.exec (.setpPeriod period high) s = Host.Outcome.next t ∧
      t.rd .GCE_SETP_PER_PERIOD = period % 2 ^ Field.GCE_SETP_PER_PERIOD.row.width ∧
      t.rd .GCE_SETP_VALID = 1 ∧
      t.pins.setpRun = 16 ∧
      t.pins.setpSum = s.pins.setpSum + (roundDiv (high * 65536) period).toNat) ∧
  (∀ (s : State) (period high : Nat), s.canonical →
    period < 400 →
    s.rd .GCE_SETP_VALID = 1 →
    ∃ t, Sys2Proof.Machine.exec (.setpPeriod period high) s = Host.Outcome.next t ∧
      t.rd .GCE_SETP_FAST = 1 ∧
      t.rd .GCE_SETP_VALID = 0 ∧
      t.pins.setpRun = 0 ∧
      t.rd .GCE_SETP_CNT_INVALID_EVENTS = min (s.rd .GCE_SETP_CNT_INVALID_EVENTS + 1) (2 ^ Field.GCE_SETP_CNT_INVALID_EVENTS.row.width - 1)) ∧
  (∀ (s : State), s.canonical →
    s.rd .GCE_SETP_VALID = 1 →
    ∃ t, Sys2Proof.Machine.exec (.setpStuck) s = Host.Outcome.next t ∧
      t.rd .GCE_SETP_STUCK = 1 ∧
      t.rd .GCE_SETP_VALID = 0)

/-- In every state the gain that the engine computes for a band path is at most HARD_CEIL and at most FW_CEIL, in WAIT at most -60 dB, and it rises by at most GAIN_SLEW (at least one step) in one tick unless it rises to the lowest gain there is. (R133, R135, R138, R145) -/
def Obligations.GainBelowEveryCeiling : Prop :=
  ∀ (s : State) (n : BpIx),
    (s.computeLoops n).g ≤ s.rdS .GCE_CEIL_HARD_CEIL n ∧ (s.computeLoops n).g ≤ s.rdS .GCE_CEIL_FW_CEIL n ∧
    ((s.coldStep n (s.bp n).eng.now).cs = 1 → (s.computeLoops n).g ≤ -30000) ∧
    (s.computeLoops n).g ≤ max (-32768) ((s.bp n).eng.now.g + (max 1 (s.rd .GCE_GSLEW_GAIN_SLEW n) : Nat))

/-- An update, made when K/64 window samples have passed since the one before, forms the bounds of the eight sub-bands from the taps and σ of the own code, takes the headroom from TARGET, U_MAX and the member count, rolls UPDATES, detects each watched code above 4σ and loses it after a full window below 2σ, and a new loop shows in NEW_LOOP and restarts the window; a write of a watch entry stores it and clears MEAS_DONE, and TARGET stores at most HARD_FLOOR; the digest goes as one SDIGEST to the one partner; a detection and a gain report of a received digest are kept, and a member without gain reports for 10 ms is silent and counts. Of each of these commands it says that exec answers a next state, under the conditions named: SADDLE_UPDATE, SDL_WATCH_WRITE, SDL_TARGET_WRITE, SADDLE_DIGEST_SEND, SDIGEST, DIGEST_MISS. (R156, R161, R162, R163, R164, R165, R166, R170) -/
def Obligations.SaddleUpdates : Prop :=
  (∀ (s : State) (n : BpIx) (e : Estimate), s.canonical →
    s.updateDue n = true →
    (List.range 8).any (s.newLoopIn n e.own) = true →
    ∃ t, Sys2Proof.Machine.exec (.saddleUpdate n e) s = Host.Outcome.next t ∧
      (t.bp n).sad.est = some (loopBounds e.own) ∧
      (t.bp n).sad.updated = (s.bp n).sad.seen ∧
      t.rd .SDL_STATUS_UPDATES n = (s.rd .SDL_STATUS_UPDATES n + 1) % 2 ^ Field.SDL_STATUS_UPDATES.row.width ∧
      (t.bp n).eng.stab = some (unit * roundDiv (t.rdS .SDL_TARGET_TARGET n - t.rdS .SDL_BOUND_U_MAX n) (t.memberCount n)) ∧
      (t.bp n).sad.mark = (s.bp n).sad.seen ∧
      t.rd .SDL_STATUS_NEW_LOOP n = 1 ∧
      t.rd .SDL_COUNT_NEW_LOOPS n = min (s.rd .SDL_COUNT_NEW_LOOPS n + 1) (2 ^ Field.SDL_COUNT_NEW_LOOPS.row.width - 1)) ∧
  (∀ (s : State) (n : BpIx) (e : Estimate), s.canonical →
    s.updateDue n = true →
    (List.range 8).any (s.newLoopIn n e.own) = false →
    ∃ t, Sys2Proof.Machine.exec (.saddleUpdate n e) s = Host.Outcome.next t ∧
      (t.bp n).sad.est = some (loopBounds e.own) ∧
      (t.bp n).sad.updated = (s.bp n).sad.seen ∧
      t.rd .SDL_STATUS_UPDATES n = (s.rd .SDL_STATUS_UPDATES n + 1) % 2 ^ Field.SDL_STATUS_UPDATES.row.width ∧
      (t.bp n).eng.stab = some (unit * roundDiv (t.rdS .SDL_TARGET_TARGET n - t.rdS .SDL_BOUND_U_MAX n) (t.memberCount n)) ∧
      (t.bp n).sad.mark = (s.bp n).sad.mark ∧
      t.rd .SDL_STATUS_NEW_LOOP n = s.rd .SDL_STATUS_NEW_LOOP n ∧
      t.rd .SDL_COUNT_NEW_LOOPS n = s.rd .SDL_COUNT_NEW_LOOPS n) ∧
  (∀ (s : State) (n : BpIx) (e : Estimate) (w : Fin 15) (c : Correlation), s.canonical →
    s.updateDue n = true →
    e.watched[w.val]? = some c →
    ∃ t, Sys2Proof.Machine.exec (.saddleUpdate n e) s = Host.Outcome.next t ∧
      bit w (t.rd .SDL_DETECT_DET n) = ((s.watchCode n w).isSome && (codeAbove c || (bit w (s.rd .SDL_DETECT_DET n) && !quietFull (quietFrom (Store.get (fun _ => none) (s.bp n).sad.quietWatch w) (codeBelow c) (s.bp n).sad.seen) (s.bp n).sad.seen (s.windowK n))))) ∧
  (∀ (s : State) (n : BpIx) (e : Estimate), s.canonical →
    s.updateDue n = false →
    ∃ t, Sys2Proof.Machine.exec (.saddleUpdate n e) s = Host.Outcome.next t ∧
      t = s) ∧
  (∀ (s : State) (q : CoreIx) (i : Fin 15) (w : Word), s.canonical →
    ∃ t, Sys2Proof.Machine.exec (.sdlWatchWrite q i w) s = Host.Outcome.next t ∧
      t.watchCode (s.rd .SDL_SEL_N q) i = (if w.getLsbD 31 then some (128 * bits 7 12 w.toNat + bits 0 7 w.toNat) else none) ∧
      t.rd .SDL_STATUS_MEAS_DONE (s.rd .SDL_SEL_N q) = 0 ∧
      bit i (t.rd .SDL_DETECT_DET (s.rd .SDL_SEL_N q)) = false ∧
      (t.bp (s.rd .SDL_SEL_N q)).sad.mark = (s.bp (s.rd .SDL_SEL_N q)).sad.seen) ∧
  (∀ (s : State) (q : CoreIx) (v : BitVec 16), s.canonical →
    signed 16 v.toNat ≤ s.rdS .SDL_LIMIT_HARD_FLOOR →
    ∃ t, Sys2Proof.Machine.exec (.sdlTargetWrite q v) s = Host.Outcome.next t ∧
      t.rd .SDL_TARGET_TARGET (s.rd .SDL_SEL_N q) = v.toNat ∧
      t.rd .SDL_STATUS_TARGET_CLAMP (s.rd .SDL_SEL_N q) = s.rd .SDL_STATUS_TARGET_CLAMP (s.rd .SDL_SEL_N q)) ∧
  (∀ (s : State) (q : CoreIx) (v : BitVec 16), s.canonical →
    s.rdS .SDL_LIMIT_HARD_FLOOR < signed 16 v.toNat →
    ∃ t, Sys2Proof.Machine.exec (.sdlTargetWrite q v) s = Host.Outcome.next t ∧
      t.rd .SDL_TARGET_TARGET (s.rd .SDL_SEL_N q) = s.rd .SDL_LIMIT_HARD_FLOOR % 2 ^ 16 ∧
      t.rd .SDL_STATUS_TARGET_CLAMP (s.rd .SDL_SEL_N q) = 1) ∧
  (∀ (s : State) (d : Nat), s.canonical →
    s.rd .COL_NODE_VALID = 1 →
    s.partners = [d] →
    s.digest ≠ [] →
    s.digest.length ≤ 63 →
    ∃ t, Sys2Proof.Machine.exec (.saddleDigestSend) s = Host.Outcome.next t ∧
      t = s.sendRouted d (msgWord 12 0 0 false 0 s.digest.length :: s.digest)) ∧
  (∀ (s : State) (l : LaneIx) (f : Frame) (w : Word64), s.canonical →
    s.hears l f 12 = true →
    bits 40 6 (msgW f 0) = 1 →
    f.words[1]? = some w →
    bits 0 2 w.toNat = 2 →
    ∃ t, Sys2Proof.Machine.exec (.sdigest l f) s = Host.Outcome.next t ∧
      (bits 2 19 w.toNat, bits 21 19 w.toNat) ∈ t.remoteDet) ∧
  (∀ (s : State) (l : LaneIx) (f : Frame) (w : Word64) (n : BpIx) (v : Fin 15), s.canonical →
    s.hears l f 12 = true →
    bits 40 6 (msgW f 0) = 1 →
    f.words[1]? = some w →
    bits 0 2 w.toNat = 1 →
    s.running n = true →
    s.watchCode n v = some (bits 2 19 w.toNat) →
    ∃ t, Sys2Proof.Machine.exec (.sdigest l f) s = Host.Outcome.next t ∧
      ((t.bp n).sad.gains.find? fun g => MemberGain.code g == bits 2 19 w.toNat).map MemberGain.latest = some (signed 16 (bits 40 16 w.toNat))) ∧
  (∀ (s : State) (n : BpIx) (w : Fin 15) (c : Nat), s.canonical →
    s.watchCode n w = some c →
    s.isMutual n w = true →
    ∃ t, Sys2Proof.Machine.exec (.digestMiss n w) s = Host.Outcome.next t ∧
      ((t.bp n).sad.gains.find? fun g => MemberGain.code g == c).map MemberGain.silent = some true ∧
      t.rd .SDL_DIGEST_DIGEST_MISS = min (s.rd .SDL_DIGEST_DIGEST_MISS + 1) (2 ^ Field.SDL_DIGEST_DIGEST_MISS.row.width - 1))

/-- Saturated samples at or above OVL_N in a grain of a running band path that G1 does not mute yet trip G1: the band path is muted, the cause shows, the trip counts, and a fault of cause 0x02 is on its way; a grain below OVL_N trips nothing; its release ends the mute, and when no other mute is left the band path starts cold. Of each of these commands it says that exec answers a next state, under the conditions named: G1_OVERLOAD, G1_RELEASE. (R145, R168, R169) -/
def Obligations.GuardedFunctionG1 : Prop :=
  (∀ (s : State) (n : BpIx) (m : Fin 65), s.canonical →
    s.ovlN ≤ m →
    s.running n = true →
    s.rd .SDL_STATUS_G1_MUTED n = 0 →
    ∃ t, Sys2Proof.Machine.exec (.g1Overload n m) s = Host.Outcome.next t ∧
      t.rd .SDL_STATUS_G1_MUTED n = 1 ∧
      t.rd .SDL_STATUS_G1_OVERLOAD n = 1 ∧
      muteG1 ∈ (t.bp n).mutes ∧
      t.rd .SDL_COUNT_G1_TRIPS n = min (s.rd .SDL_COUNT_G1_TRIPS n + 1) (2 ^ Field.SDL_COUNT_G1_TRIPS.row.width - 1) ∧
      t.faultWaits n 0x02 = true) ∧
  (∀ (s : State) (n : BpIx) (m : Fin 65), s.canonical →
    m < s.ovlN →
    ∃ t, Sys2Proof.Machine.exec (.g1Overload n m) s = Host.Outcome.next t ∧
      t = s) ∧
  (∀ (s : State) (n : BpIx), s.canonical →
    s.rd .SDL_STATUS_G1_MUTED n = 1 →
    (s.bp n).mutes = [muteG1] →
    s.running n = true →
    s.fenced n = false →
    ∃ t, Sys2Proof.Machine.exec (.g1Release n) s = Host.Outcome.next t ∧
      t.rd .SDL_STATUS_G1_MUTED n = 0 ∧
      (t.bp n).mutes = [] ∧
      (t.bp n).sad.est = none ∧
      s.hasCond n 0x02 = false ∨ t.clearWaits n 0x02 = true)

/-- A commit of a target that R186 allows stores the target with REJECT 0, and any other leaves the target as it was and shows its code; a new target in HELD without STEP_OK slews; an accepted STEP_OK target is taken at the grain boundary, shows in STEP and counts, and is announced by a fault message of cause 0x29; FW_DLY_SLEW stores at most DLY_SLEW and shows the clamp in every band path. Of each of these commands it says that exec answers a next state, under the conditions named: FLO_TARGET_COMMIT, DELAY_STEP, FW_DLY_SLEW_WRITE. (R186, R187, R188, R198) -/
def Obligations.DelayTargetsAndSteps : Prop :=
  (∀ (s : State) (q : CoreIx) (hi : Word) (n : Nat) (v : Int), s.canonical →
    s.rd .FLO_SEL_N q = n →
    v = signed 48 ((s.bp n).dly.stagedLo.getD (s.rd .FLO_TARGET_LO_TARGET n) % 2 ^ 32 + hi.toNat % 2 ^ 16 * 2 ^ 32) →
    s.targetCode n v = 0 →
    ∃ t, Sys2Proof.Machine.exec (.floTargetCommit q hi) s = Host.Outcome.next t ∧
      t.targetOf n = v ∧
      t.rd .FLO_STATUS_REJECT n = 0 ∧
      (t.bp n).dly.stagedLo = none) ∧
  (∀ (s : State) (q : CoreIx) (hi : Word) (n : Nat) (v : Int), s.canonical →
    s.rd .FLO_SEL_N q = n →
    v = signed 48 ((s.bp n).dly.stagedLo.getD (s.rd .FLO_TARGET_LO_TARGET n) % 2 ^ 32 + hi.toNat % 2 ^ 16 * 2 ^ 32) →
    s.targetCode n v ≠ 0 →
    ∃ t, Sys2Proof.Machine.exec (.floTargetCommit q hi) s = Host.Outcome.next t ∧
      t.targetOf n = s.targetOf n ∧
      t.rd .FLO_STATUS_REJECT n = s.targetCode n v) ∧
  (∀ (s : State) (q : CoreIx) (hi : Word) (n : Nat) (v : Int), s.canonical →
    s.rd .FLO_SEL_N q = n →
    v = signed 48 ((s.bp n).dly.stagedLo.getD (s.rd .FLO_TARGET_LO_TARGET n) % 2 ^ 32 + hi.toNat % 2 ^ 16 * 2 ^ 32) →
    s.targetCode n v = 0 →
    delayState s n = 2 →
    s.rd .FLO_CTRL_STEP_OK n = 0 →
    (v * fine : Int) ≠ (s.bp n).dly.applied →
    ∃ t, Sys2Proof.Machine.exec (.floTargetCommit q hi) s = Host.Outcome.next t ∧
      t.targetOf n = v ∧
      t.rd .FLO_STATUS_SLEWING n = 1 ∧
      (t.bp n).dly.applied = (s.bp n).dly.applied ∧
      delayState t n = 2) ∧
  (∀ (s : State) (n : BpIx), s.canonical →
    s.running n = true →
    (s.bp n).dly.stepTo = true →
    tilesFor (s.bp n).decl.span (s.targetOf n * fine) ≤ runsCount (s.bp n).dly.tiles →
    ∃ t, Sys2Proof.Machine.exec (.delayStep n) s = Host.Outcome.next t ∧
      (t.bp n).dly.applied = s.targetOf n * fine ∧
      (t.bp n).dly.stepTo = false ∧
      (t.bp n).dly.announce = none ∧
      t.rd .BP_STATUS_STEP n = 1 ∧
      t.rd .FLO_COUNT_STEPS n = min (s.rd .FLO_COUNT_STEPS n + 1) (2 ^ Field.FLO_COUNT_STEPS.row.width - 1) ∧
      t.faultWaits n 0x29 = true ∧
      delayState t n = 2) ∧
  (∀ (s : State) (v : BitVec 16), s.canonical →
    v.toNat ≤ s.rd .FLO_SLEW_DLY_SLEW →
    ∃ t, Sys2Proof.Machine.exec (.fwDlySlewWrite v) s = Host.Outcome.next t ∧
      t.rd .FLO_SLEW_FW_DLY_SLEW = v.toNat ∧
      ∀ n : Fin 128, t.rd .FLO_STATUS_SLEW_CLAMP n = s.rd .FLO_STATUS_SLEW_CLAMP n) ∧
  (∀ (s : State) (v : BitVec 16), s.canonical →
    s.rd .FLO_SLEW_DLY_SLEW < v.toNat →
    ∃ t, Sys2Proof.Machine.exec (.fwDlySlewWrite v) s = Host.Outcome.next t ∧
      t.rd .FLO_SLEW_FW_DLY_SLEW = s.rd .FLO_SLEW_DLY_SLEW ∧
      ∀ n : Fin 128, t.rd .FLO_STATUS_SLEW_CLAMP n = 1)

/-- An establishment holds the target when D_min is at most the target, an OFFSET of D_min plus margin when it is not and STRICT is 0, and is LOST when STRICT is 1; four late grains lose the delay, which counts and makes the stream INVALID; after a loss the delay that was held returns when D_min still fits under it; a restoration holds the target again after an announced step. Of each of these commands it says that exec answers a next state, under the conditions named: DELAY_ESTABLISHED, DELAY_LOST, LOST_MEASURE_DONE, DELAY_RESTORE. (R57, R176, R185, R193, R194, R195) -/
def Obligations.DelayStates : Prop :=
  (∀ (s : State) (n : BpIx), s.canonical →
    delayState s n = 1 →
    (s.arrivalAge n).isSome = true →
    (s.refreshMin n).dMin n ≤ s.targetOf n →
    tilesFor (s.bp n).decl.span (s.targetOf n * fine) ≤ runsCount (s.bp n).dly.tiles →
    ∃ t, Sys2Proof.Machine.exec (.delayEstablished n) s = Host.Outcome.next t ∧
      delayState t n = 2 ∧
      (t.bp n).dly.applied = s.targetOf n * fine) ∧
  (∀ (s : State) (n : BpIx), s.canonical →
    delayState s n = 1 →
    (s.arrivalAge n).isSome = true →
    s.targetOf n < (s.refreshMin n).dMin n →
    s.rd .FLO_CTRL_STRICT n = 0 →
    tilesFor (s.bp n).decl.span (max (s.targetOf n * fine) ((s.refreshMin n).marginDelay n * fine)) ≤ runsCount (s.bp n).dly.tiles →
    ∃ t, Sys2Proof.Machine.exec (.delayEstablished n) s = Host.Outcome.next t ∧
      delayState t n = 3 ∧
      (t.bp n).dly.applied = (s.refreshMin n).marginDelay n * fine ∧
      s.hasCond n 0x27 = true ∨ t.faultWaits n 0x27 = true) ∧
  (∀ (s : State) (n : BpIx), s.canonical →
    delayState s n = 1 →
    (s.arrivalAge n).isSome = true →
    s.targetOf n < (s.refreshMin n).dMin n →
    s.rd .FLO_CTRL_STRICT n = 1 →
    ∃ t, Sys2Proof.Machine.exec (.delayEstablished n) s = Host.Outcome.next t ∧
      delayState t n = 4 ∧
      s.hasCond n 0x28 = true ∨ t.faultWaits n 0x28 = true) ∧
  (∀ (s : State) (n : BpIx), s.canonical →
    delayState s n = 2 ∨ delayState s n = 3 →
    4 ≤ (s.bp n).dly.lates →
    ∃ t, Sys2Proof.Machine.exec (.delayLost n) s = Host.Outcome.next t ∧
      delayState t n = 4 ∧
      (t.bp n).dly.before = delayState s n ∧
      t.rd .FLO_COUNT_LOST_EVENTS n = min (s.rd .FLO_COUNT_LOST_EVENTS n + 1) (2 ^ Field.FLO_COUNT_LOST_EVENTS.row.width - 1) ∧
      s.rd .BP_STATUS_STATE n ≠ 2 ∨ t.rd .BP_STATUS_STATE n = 4) ∧
  (∀ (s : State) (n : BpIx), s.canonical →
    delayState s n = 4 →
    (s.arrivalAge n).isSome = true →
    (s.bp n).dly.before = 2 →
    (s.refreshMin n).dMin n * fine ≤ (s.bp n).dly.applied →
    ∃ t, Sys2Proof.Machine.exec (.lostMeasureDone n) s = Host.Outcome.next t ∧
      delayState t n = 2 ∧
      (t.bp n).dly.applied = (s.bp n).dly.applied ∧
      s.hasCond n 0x28 = false ∨ t.clearWaits n 0x28 = true) ∧
  (∀ (s : State) (n : BpIx), s.canonical →
    delayState s n = 3 →
    s.rd .FLO_CTRL_RESTORE n = 1 →
    s.dMin n + usQ (s.estabMargin n) ≤ s.targetOf n →
    tilesFor (s.bp n).decl.span (s.targetOf n * fine) ≤ runsCount (s.bp n).dly.tiles →
    ∃ t, Sys2Proof.Machine.exec (.delayRestore n) s = Host.Outcome.next t ∧
      delayState t n = 2 ∧
      (t.bp n).dly.applied = s.targetOf n * fine ∧
      (t.bp n).dly.announce = some (5, roundDiv (s.bp n).dly.applied fine))

/-- A read of a tile in use whose seal is sound changes nothing but the event tallies; an uncorrectable error of a tile still on die has cause 5, spoils its grains and takes no tile out of use; a failed seal counts, the last bad tile with its cause shows, and a keep-store tile loses its copies; a tile that passes its write test returns to the pool, and one that fails it is retired. Of each of these commands it says that exec answers a next state, under the conditions named: TILE_READ_DONE, TILE_QUARANTINE_DONE. (R189, R190, R191, R192) -/
def Obligations.TileReadsAndQuarantine : Prop :=
  (∀ (s : State) (x : BitVec 23) (r : TileRead), s.canonical →
    s.tileInUse x.toNat = true →
    r.onDie = false →
    r.ce = false →
    s.sealCause x.toNat r = 0 →
    ∃ t, Sys2Proof.Machine.exec (.tileReadDone x r) s = Host.Outcome.next t ∧
      t = (s.tally 4 1 (x.toNat % 4)).tally 4 5 (x.toNat % 4) tileBursts) ∧
  (∀ (s : State) (x : BitVec 23) (r : TileRead), s.canonical →
    s.tileInUse x.toNat = true →
    r.onDie = false →
    s.sealCause x.toNat r ≠ 0 →
    ∃ t, Sys2Proof.Machine.exec (.tileReadDone x r) s = Host.Outcome.next t ∧
      t.rd .GRG_SEAL_FAIL_FAILS = min (s.rd .GRG_SEAL_FAIL_FAILS + 1) (2 ^ Field.GRG_SEAL_FAIL_FAILS.row.width - 1) ∧
      t.rd .GRG_LAST_BAD_TILE = x.toNat ∧
      t.rd .GRG_LAST_BAD_CAUSE = s.sealCause x.toNat r ∧
      s.tileOwner x.toNat / 4096 ≠ 5 ∨ x.toNat ∈ t.tiles.quarantine ++ t.tiles.retired ++ t.tiles.waiting) ∧
  (∀ (s : State) (x : BitVec 23) (r : TileRead) (n k : Nat), s.canonical →
    r.onDie = true →
    r.ue = true →
    s.tileOwner x.toNat = 4096 + n →
    n < 128 →
    s.dieRun n x.toNat = some k →
    ∃ t, Sys2Proof.Machine.exec (.tileReadDone x r) s = Host.Outcome.next t ∧
      t.rd .GRG_LAST_BAD_CAUSE = 5 ∧
      t.rd .GRG_LAST_BAD_TILE = x.toNat ∧
      t.tiles = s.tiles ∧
      (t.bp n).dly.gorge = (s.bp n).dly.gorge.map (spoilHeld k) ∧
      t.rd .FLO_STATUS_POISON n = 1) ∧
  (∀ (s : State) (x : BitVec 23), s.canonical →
    x.toNat ∈ s.tiles.quarantine →
    ∃ t, Sys2Proof.Machine.exec (.tileQuarantineDone x true) s = Host.Outcome.next t ∧
      x.toNat ∉ t.tiles.quarantine ∧
      t.tiles.retired = s.tiles.retired ∧
      t.tiles.moves = s.tiles.moves ++ [(⟨[(x.toNat, 1)], false, none, false⟩ : Transfer)]) ∧
  (∀ (s : State) (x : BitVec 23), s.canonical →
    x.toNat ∈ s.tiles.quarantine →
    ∃ t, Sys2Proof.Machine.exec (.tileQuarantineDone x false) s = Host.Outcome.next t ∧
      x.toNat ∉ t.tiles.quarantine ∧
      x.toNat ∈ t.tiles.retired ∧
      t.tiles.moves = s.tiles.moves)

/-- A finished spectrum joins the sliding mean of its port with the bins about the applied centre and everything guarded during it; a decision gives every band path of the transmit window its headroom and mutes one that alone guards a bin above its limit by TRIP_DB; power above the ceiling of a band path mutes it, shows CEILING and asserts cause 0x04. Of each of these commands it says that exec answers a next state, under the conditions named: SPECTRUM_DONE, G2_DECISION, G2_CEILING. (R207, R214, R215, R217) -/
def Obligations.SpectraAndDecisions : Prop :=
  (∀ (s : State) (p : PortIx) (power : List (Nat × Nat)) (sat : Nat), s.canonical →
    ∃ t, Sys2Proof.Machine.exec (.spectrumDone p ⟨power, sat⟩) s = Host.Outcome.next t ∧
      (t.port p).spectra.head?.map Spectrum.power = some (power.filter fun (b : Nat × Nat) => s.keepsBin p b.1) ∧
      (t.port p).spectra.head?.map Spectrum.guarded = some (((s.port p).guards ++ s.guardsNow p).dedup) ∧
      (t.port p).spectra.drop 1 = (s.port p).spectra.take 15 ∧
      t.regs = s.regs) ∧
  (∀ (s : State) (p : PortIx) (n : BpIx) (xs : List Spectrum), s.canonical →
    s.meanOf p = some xs →
    (s.port p).outMute = false →
    n.val ∈ s.windowOut p →
    ∃ t, Sys2Proof.Machine.exec (.g2Decision p) s = Host.Outcome.next t ∧
      t.rd .EMG_BP_STATUS_H_E n = wrapBits 16 (s.headroom n xs.length (powerSums xs)) ∧
      (t.bp n).eng.emit = some (unit * s.headroom n xs.length (powerSums xs))) ∧
  (∀ (s : State) (p : PortIx) (n : BpIx) (xs : List Spectrum) (b : Nat × Nat), s.canonical →
    s.meanOf p = some xs →
    (s.port p).outMute = false →
    b ∈ powerSums xs →
    s.excess p b.1 b.2 xs.length = true →
    n.val ∈ guardsOf (s.guardList p xs) b.1 →
    ∃ t, Sys2Proof.Machine.exec (.g2Decision p) s = Host.Outcome.next t ∧
      muteFine ∈ (t.bp n).mutes) ∧
  (∀ (s : State) (n : BpIx) (w : Nat), s.canonical →
    s.running n = true →
    s.emits n = true →
    tenAtMost true (s.rdS .EMG_BP_CEIL_CEIL n) w (s.ceilS * 32767 ^ 2) 5000 = true →
    muteCeiling ∉ (s.bp n).mutes →
    ∃ t, Sys2Proof.Machine.exec (.g2Ceiling n w) s = Host.Outcome.next t ∧
      (t.bp n).mutes = (s.bp n).mutes ++ [muteCeiling] ∧
      t.rd .EMG_BP_STATUS_CEILING n = 1 ∧
      t.rd .EMG_BP_STATUS_G2_MUTED n = 1 ∧
      t.faultWaits n 0x04 = true) ∧
  (∀ (s : State) (n : BpIx) (w : Nat), s.canonical →
    tenAtMost true (s.rdS .EMG_BP_CEIL_CEIL n) w (s.ceilS * 32767 ^ 2) 5000 = false →
    ∃ t, Sys2Proof.Machine.exec (.g2Ceiling n w) s = Host.Outcome.next t ∧
      t = s)

/-- After HOLD a FINE, CEILING or PILOT mute ends with its clear message; an OUT mute whose whole mean was taken under the mute and shows no unguarded excess ends for the port; a FOREIGN region that ends leaves the list and FOREIGN_N. Of each of these commands it says that exec answers a next state, under the conditions named: G2_RELEASE, FOREIGN_REGION_END. (R218, R219, R220) -/
def Obligations.ReleasesOfG2 : Prop :=
  (∀ (s : State) (n : BpIx), s.canonical →
    muteFine ∈ (s.bp n).mutes →
    ∃ t, Sys2Proof.Machine.exec (.g2Release (.fine n)) s = Host.Outcome.next t ∧
      (t.bp n).mutes = (s.bp n).mutes.filter (· != muteFine) ∧
      s.hasCond n 0x03 = false ∨ t.clearWaits n 0x03 = true) ∧
  (∀ (s : State) (n : BpIx), s.canonical →
    (s.bp n).mutes = [muteCeiling] →
    ∃ t, Sys2Proof.Machine.exec (.g2Release (.ceiling n)) s = Host.Outcome.next t ∧
      (t.bp n).mutes = [] ∧
      t.rd .EMG_BP_STATUS_G2_MUTED n = 0) ∧
  (∀ (s : State) (p : PortIx), s.canonical →
    pilotGuard ∈ (s.port p).pilot.mutes →
    ∃ t, Sys2Proof.Machine.exec (.g2Release (.pilot p)) s = Host.Outcome.next t ∧
      pilotGuard ∉ (t.port p).pilot.mutes) ∧
  (∀ (s : State) (p : PortIx) (xs : List Spectrum), s.canonical →
    (s.port p).outMute = true →
    s.meanOf p = some xs →
    xs.all Spectrum.muted = true →
    s.outBins p xs = [] →
    ∃ t, Sys2Proof.Machine.exec (.g2Release (.out p)) s = Host.Outcome.next t ∧
      (t.port p).outMute = false ∧
      t.rd .EMG_STATUS_PORT_MUTED p = 0 ∧
      ∀ n : Fin 128, muteOut p ∉ (t.bp n).mutes) ∧
  (∀ (s : State) (p : PortIx) (r : Fin 16), s.canonical →
    r.val < (s.port p).foreign.length →
    ∃ t, Sys2Proof.Machine.exec (.foreignRegionEnd p r) s = Host.Outcome.next t ∧
      (t.port p).foreign = (s.port p).foreign.eraseIdx r ∧
      t.rd .EMG_STATUS_FOREIGN_N p = ((s.port p).foreign.length - 1) % 2 ^ Field.EMG_STATUS_FOREIGN_N.row.width)

/-- A write of PLN_T_FIRST commits the range R_SEL with the values held, which the guard takes up at the next tick boundary; a write of PLN_RD_ADDR fetches the entry of the bin and its effective limit, or the mark 0x8000 where the bin is forbidden; a damaged tile is rebuilt when the flash reads and the mask section is verified, and is lost when it does not; EMIT_BACKOFF stores at least BACKOFF_MIN and shows the clamp. Of each of these commands it says that exec answers a next state, under the conditions named: PLN_T_FIRST_WRITE, PLN_RD_ADDR_WRITE, PLAIN_REBUILD_DONE, EMIT_BACKOFF_WRITE. (R201, R204, R216, R223, R226) -/
def Obligations.PlainTable : Prop :=
  (∀ (s : State) (w : Word), s.canonical →
    Store.wf (fun _ => none) s.plain.ranges = true →
    ∃ t, Sys2Proof.Machine.exec (.plnTFirstWrite w) s = Host.Outcome.next t ∧
      Store.get (fun _ => none) t.plain.ranges (s.rd .PLN_T_SEL_R_SEL) = some (⟨bits 0 24 w.toNat, s.rd .PLN_T_LAST_LAST, s.rd .PLN_T_LIM_LIMIT, s.rd .PLN_T_LIM_PORTS, w.getLsbD 31⟩ : Tighten) ∧
      t.rd .PLN_T_FIRST_FIRST = bits 0 24 w.toNat ∧
      t.plain.records = s.plain.records ∧
      t.plain.acting = s.plain.acting) ∧
  (∀ (s : State) (w : Word), s.canonical →
    ∃ t, Sys2Proof.Machine.exec (.plnRdAddrWrite w) s = Host.Outcome.next t ∧
      t.rd .PLN_RD_DATA_ENTRY = s.plainEntry (bits 0 24 w.toNat) % 2 ^ 16 ∧
      t.rd .PLN_RD_DATA_EFF = if s.forbidden (bits 24 2 w.toNat) (bits 0 24 w.toNat) = true then 0x8000 else wrapBits 16 (s.limitOf (bits 24 2 w.toNat) (bits 0 24 w.toNat))) ∧
  (∀ (s : State) (x : Fin 8192), s.canonical →
    x.val ∈ s.plain.damaged →
    (s.verifiedSection 0x11).isSome = true →
    ∃ t, Sys2Proof.Machine.exec (.plainRebuildDone x true) s = Host.Outcome.next t ∧
      x.val ∉ t.plain.damaged ∧
      t.plain.lost = s.plain.lost) ∧
  (∀ (s : State) (x : Fin 8192), s.canonical →
    x.val ∈ s.plain.damaged →
    ∃ t, Sys2Proof.Machine.exec (.plainRebuildDone x false) s = Host.Outcome.next t ∧
      x.val ∉ t.plain.damaged ∧
      t.plain.lost = x.val :: s.plain.lost) ∧
  (∀ (s : State) (q : CoreIx) (v : BitVec 16), s.canonical →
    s.rdS .EMG_LIMIT1_BACKOFF_MIN ≤ signed 16 v.toNat →
    ∃ t, Sys2Proof.Machine.exec (.emitBackoffWrite q v) s = Host.Outcome.next t ∧
      t.rd .EMG_BP_CTRL_EMIT_BACKOFF (s.rd .EMG_SEL_N q) = v.toNat ∧
      t.rd .EMG_BP_STATUS_BACKOFF_CLAMP (s.rd .EMG_SEL_N q) = s.rd .EMG_BP_STATUS_BACKOFF_CLAMP (s.rd .EMG_SEL_N q)) ∧
  (∀ (s : State) (q : CoreIx) (v : BitVec 16), s.canonical →
    signed 16 v.toNat < s.rdS .EMG_LIMIT1_BACKOFF_MIN →
    ∃ t, Sys2Proof.Machine.exec (.emitBackoffWrite q v) s = Host.Outcome.next t ∧
      t.rd .EMG_BP_CTRL_EMIT_BACKOFF (s.rd .EMG_SEL_N q) = s.rd .EMG_LIMIT1_BACKOFF_MIN % 2 ^ 16 ∧
      t.rd .EMG_BP_STATUS_BACKOFF_CLAMP (s.rd .EMG_SEL_N q) = 1)

/-- At each exchange instant every UP lane sends a message under the next number and keeps its instant; a received message keeps its number and instant, and with a stamp for both directions it gives delay and offset as R233 computes them; announcements show the root: a module without a live offer is root itself, and a received announcement is its lane's offer; a lane whose mean offset over 1 s exceeds CHECK_LIM shows CHECK_FAIL and asserts cause 0x41; a class 0x30 module whose HOLD_LIMIT passed gives the class up. Of each of these commands it says that exec answers a next state, under the conditions named: TIME_EX_SEND, TIME_EX, ANNOUNCE_SEND, ANNOUNCE, TIME_CHECK, HOLD_LIMIT_EXPIRE. (R231, R233, R236, R237, R238, R244) -/
def Obligations.TimeExchange : Prop :=
  (∀ (s : State) (phase : List Int) (l : LaneIx), s.canonical →
    s.laneUp l = true →
    ∃ t, Sys2Proof.Machine.exec (.timeExSend phase) s = Host.Outcome.next t ∧
      (t.lane l).txSeq = ((s.lane l).txSeq + 1) % 65536 ∧
      (t.lane l).sent.head? = some (⟨((s.lane l).txSeq + 1) % 65536, s.instant (phase.getD l 0)⟩ : Stamp)) ∧
  (∀ (s : State) (l : LaneIx) (f : Frame) (rx : Int), s.canonical →
    s.takes l f = true →
    f.cls = 0 →
    bits 0 8 (msgW f 0) = 0x11 →
    ∃ t, Sys2Proof.Machine.exec (.timeEx l f rx) s = Host.Outcome.next t ∧
      (t.lane l).recv.head? = some (⟨bits 20 16 (msgW f 0), s.instant (rx + (s.lane l).phase)⟩ : Stamp)) ∧
  (∀ (s : State) (l : LaneIx) (f : Frame) (rx : Int) (t1 t2 t3 t4 : Nat), s.canonical →
    s.takes l f = true →
    f.cls = 0 →
    bits 0 8 (msgW f 0) = 0x11 →
    bit 52 (msgW f 0) = true →
    stampOf (s.lane l).sent (bits 36 16 (msgW f 0)) = some t3 →
    stampOf (s.lane l).recv ((bits 20 16 (msgW f 0) + 65535) % 65536) = some t2 →
    t2 < t3 →
    t1 = ofShort (msgW f 1) (bits 0 30 (msgW f 3)) →
    t4 = ofShort (msgW f 2) (bits 30 30 (msgW f 3)) →
    ((s.now : Int) - t2) ≤ 4000 * 65536000 →
    ((s.now : Int) - (t4 + (s.exchange l t1 t2 t3 t4).2)) ≤ 4000 * 65536000 →
    ∃ t, Sys2Proof.Machine.exec (.timeEx l f rx) s = Host.Outcome.next t ∧
      (t.lane l).fresh = some (s.exchange l t1 t2 t3 t4).2 ∧
      t.rd .PLB_LOFS_THETA l = satBits 32 (s.exchange l t1 t2 t3 t4).2 ∧
      t.laneDelay l = wrapBits 48 (s.exchange l t1 t2 t3 t4).1) ∧
  (∀ (s : State), s.canonical →
    s.liveOffers = [] →
    ∃ t, Sys2Proof.Machine.exec (.announceSend) s = Host.Outcome.next t ∧
      t.role = (if s.hasRef then 2 else 3) ∧
      t.rd .PLB_ROOT_STEPS = 0 ∧
      t.rd .PLB_UNC_PATH_UNC = 0 ∧
      t.plumb.rootSeq = (s.plumb.rootSeq + 1) % 65536) ∧
  (∀ (s : State) (l : LaneIx) (f : Frame), s.canonical →
    s.takes l f = true →
    f.cls = 0 →
    bits 0 8 (msgW f 0) = 0x12 →
    bits 20 8 (msgW f 0) ≠ 255 →
    ∃ t, Sys2Proof.Machine.exec (.announce l f) s = Host.Outcome.next t ∧
      (t.lane l).offer.map (fun o => (Offer.cls o, Offer.prio o, Offer.uid o, Offer.steps o, Offer.rootSeq o)) = some (bits 32 8 (msgW f 0), bits 40 8 (msgW f 0), msgW f 1, bits 20 8 (msgW f 0), bits 0 16 (msgW f 3))) ∧
  (∀ (s : State) (l : LaneIx), s.canonical →
    s.laneUp l = true →
    (s.lane l).offer.map Offer.timeOk = some true →
    s.role ≠ 1 →
    max 1 (s.rd .PLB_CTRL_CHECK_LIM) * 65536 * (s.lane l).thetas.length < (s.lane l).thetas.sum.natAbs →
    (s.lane l).checkSent = false →
    ∃ t, Sys2Proof.Machine.exec (.timeCheck l) s = Host.Outcome.next t ∧
      t.rd .PLB_LSTAT_CHECK_FAIL l = 1 ∧
      t.rd .PLB_STATUS_CHECK_FAIL = 1 ∧
      t.faultWaits 0xA8 0x41 = true ∧
      (t.lane l).thetas = []) ∧
  (∀ (s : State), s.canonical →
    s.plumb.heir = true →
    s.plumb.wasRef = false →
    ∃ t, Sys2Proof.Machine.exec (.holdLimitExpire) s = Host.Outcome.next t ∧
      t.plumb.heir = false)

/-- A child with a fresh offset that is FREE plans a step to its parent's time and goes to ACQUIRE; with the steps that wait taken into account; in LOCKED it steers, by at most PHASE_SLEW and by at most FW_PHASE_SLEW, and keeps the time continuous while the offset is within STEP_MIN; after ten updates without a fresh offset it goes to HOLDOVER. Of each of these commands it says that exec answers a next state, under the conditions named: PLUMB_UPDATE. (R229, R239, R240, R254) -/
def Obligations.PlumbUpdates : Prop :=
  (∀ (s : State) (x : Int), s.canonical →
    s.role = 1 →
    s.laneUp (s.rd .PLB_STATUS_PARENT) = true →
    s.hasRef = false →
    (s.lane (s.rd .PLB_STATUS_PARENT)).fresh = some x →
    (s.lane (s.rd .PLB_STATUS_PARENT)).offer.map Offer.tstate = some 2 →
    s.tstate = 0 →
    ∃ t, Sys2Proof.Machine.exec (.plumbUpdate none) s = Host.Outcome.next t ∧
      t.tstate = 1 ∧
      t.plumb.pendStep = -x ∧
      t.plumb.stepping = true ∧
      (t.lane (s.rd .PLB_STATUS_PARENT)).fresh = none) ∧
  (∀ (s : State) (x : Int), s.canonical →
    s.role = 1 →
    s.laneUp (s.rd .PLB_STATUS_PARENT) = true →
    s.hasRef = false →
    (s.lane (s.rd .PLB_STATUS_PARENT)).fresh = some x →
    s.tstate = 2 →
    -(s.stepMin * 65536 : Nat) ≤ x + s.plumb.pendStep →
    ∃ t, Sys2Proof.Machine.exec (.plumbUpdate none) s = Host.Outcome.next t ∧
      t.plumb.stepping = s.plumb.stepping ∧
      t.plumb.pendStep = s.plumb.pendStep ∧
      t.plumb.ph.natAbs ≤ s.rd .PLB_SLEW_PHASE_SLEW ∧
      t.plumb.ph.natAbs ≤ max 1 (s.rd .PLB_SLEW_FW_PHASE_SLEW) ∧
      t.plumb.xs.head? = some (x + s.plumb.pendStep)) ∧
  (∀ (s : State), s.canonical →
    s.role = 1 →
    s.laneUp (s.rd .PLB_STATUS_PARENT) = true →
    s.hasRef = false →
    (s.lane (s.rd .PLB_STATUS_PARENT)).fresh = none →
    s.tstate = 2 →
    9 ≤ s.plumb.stale →
    ∃ t, Sys2Proof.Machine.exec (.plumbUpdate none) s = Host.Outcome.next t ∧
      t.tstate = 4 ∧
      t.plumb.ph = 0 ∧
      t.plumb.stale = s.plumb.stale + 1)

/-- A PPS_IN edge within 1 µs of a whole second gives an offset and one further away is counted as rejected; the fourth edge in a row makes PPS_IN valid; a timeout and a bad REF_IN end their validity; an armed second is kept, and it acts at the edge: in FREE as an epoch step, against the time line it is refused; PLB_TIME0 latches the other two words; FW_PHASE_SLEW stores at most PHASE_SLEW; a pulse of the second rises at it less PPS_OUT_DLY and lasts PPS_WIDTH; a read by the host while the field side is down gives all ones and is counted. Of each of these commands it says that exec answers a next state, under the conditions named: PPS_IN_EDGE, PPS_IN_TIMEOUT, REF_BAD, REF_IN_RESTORE, TOD_ARM, TOD_APPLY, PLB_TIME0_READ, FW_PHASE_SLEW_WRITE, PPS_OUT_PULSE. (R229, R230, R245, R246, R247, R248, R254) -/
def Obligations.GrandmasterPins : Prop :=
  (∀ (s : State) (e t0 : Int), s.canonical →
    s.rd .PLB_STATUS_PPS_IN_OK = 1 →
    t0 = (s.now : Int) + e + s.rdS .PLB_PPS_IN_DLY_DLY →
    (t0 - nearestSecond t0).natAbs ≤ usQ 1 →
    s.plumb.tod = none →
    ∃ t, Sys2Proof.Machine.exec (.ppsInEdge e none) s = Host.Outcome.next t ∧
      t.plumb.ppsX = some (t0 - nearestSecond t0) ∧
      t.plumb.ppsLast = some t0 ∧
      t.rd .PLB_REF_STAT_PPS_REJECT = s.rd .PLB_REF_STAT_PPS_REJECT) ∧
  (∀ (s : State) (e t0 : Int), s.canonical →
    s.rd .PLB_STATUS_PPS_IN_OK = 1 →
    t0 = (s.now : Int) + e + s.rdS .PLB_PPS_IN_DLY_DLY →
    usQ 1 < (t0 - nearestSecond t0).natAbs →
    ∃ t, Sys2Proof.Machine.exec (.ppsInEdge e none) s = Host.Outcome.next t ∧
      t.plumb = s.plumb ∧
      t.rd .PLB_REF_STAT_PPS_REJECT = min (s.rd .PLB_REF_STAT_PPS_REJECT + 1) (2 ^ Field.PLB_REF_STAT_PPS_REJECT.row.width - 1)) ∧
  (∀ (s : State) (e u : Int), s.canonical →
    s.rd .PLB_STATUS_PPS_IN_OK = 0 →
    s.plumb.ppsLast = some u →
    ((s.now : Int) + e + s.rdS .PLB_PPS_IN_DLY_DLY - u - quantaPerSec).natAbs ≤ usQ 1 →
    2 ≤ s.plumb.ppsRun →
    ∃ t, Sys2Proof.Machine.exec (.ppsInEdge e none) s = Host.Outcome.next t ∧
      t.rd .PLB_STATUS_PPS_IN_OK = 1 ∧
      t.plumb.ppsX.isSome = true) ∧
  (∀ (s : State), s.canonical →
    ∃ t, Sys2Proof.Machine.exec (.ppsInTimeout) s = Host.Outcome.next t ∧
      t.rd .PLB_STATUS_PPS_IN_OK = 0 ∧
      t.plumb.ppsLast = none ∧
      t.plumb.ppsX = none) ∧
  (∀ (s : State), s.canonical →
    ∃ t, Sys2Proof.Machine.exec (.refBad) s = Host.Outcome.next t ∧
      t.rd .PLB_STATUS_REF_IN_OK = 0 ∧
      t.rd .PLB_REF_STAT_REF_BAD = 1 ∧
      t.plumb.refAnchor = none) ∧
  (∀ (s : State), s.canonical →
    ∃ t, Sys2Proof.Machine.exec (.refInRestore) s = Host.Outcome.next t ∧
      t.rd .PLB_STATUS_REF_IN_OK = 1 ∧
      t.plumb = s.plumb) ∧
  (∀ (s : State) (w : Word), s.canonical →
    w.getLsbD 31 = true →
    ∃ t, Sys2Proof.Machine.exec (.todArm w) s = Host.Outcome.next t ∧
      t.plumb.tod = some (s.rd .PLB_TOD_LO_SEC_LO + bits 0 16 w.toNat * 2 ^ 32) ∧
      t.rd .PLB_TOD_HI_ARM = 1 ∧
      t.plumb.time = s.plumb.time) ∧
  (∀ (s : State) (c : Nat) (e : Int), s.canonical →
    s.plumb.tod = some c →
    s.todInstant = some e →
    s.tstate = 0 →
    (c * quantaPerSec : Int) ≠ e + s.plumb.pendStep →
    ∃ t, Sys2Proof.Machine.exec (.todApply) s = Host.Outcome.next t ∧
      t.plumb.tod = none ∧
      t.rd .PLB_TOD_HI_ARM = 0 ∧
      t.plumb.pendStep = c * quantaPerSec - e ∧
      t.plumb.pendEpoch = true ∧
      t.plumb.stepping = true) ∧
  (∀ (s : State) (c : Nat) (e : Int), s.canonical →
    s.plumb.tod = some c →
    s.todInstant = some e →
    s.tstate ≠ 0 →
    (c * quantaPerSec : Int) < e + s.plumb.pendStep →
    ∃ t, Sys2Proof.Machine.exec (.todApply) s = Host.Outcome.next t ∧
      t.plumb.tod = none ∧
      t.rd .PLB_STATUS_TOD_REFUSED = 1 ∧
      t.plumb.pendStep = s.plumb.pendStep) ∧
  (∀ (s : State) (who : Requester), s.canonical →
    s.reaches who = true →
    ∃ t, Sys2Proof.Machine.exec (.plbTime0Read who) s = Host.Outcome.next t ∧
      (t.reader (requesterIx who)).data = BitVec.ofNat 32 (timeBits s.now) ∧
      (t.reader (requesterIx who)).time1 = some (BitVec.ofNat 32 (timeBits s.now / 2 ^ 32)) ∧
      (t.reader (requesterIx who)).time2 = some (BitVec.ofNat 32 (timeBits s.now / 2 ^ 64)) ∧
      t.regs = s.regs) ∧
  (∀ (s : State), s.canonical →
    s.rd .SCR_HSTATUS_FIELD_UP = 0 →
    ∃ t, Sys2Proof.Machine.exec (.plbTime0Read .host) s = Host.Outcome.next t ∧
      t.scr.hostRead = [allOnes] ∧
      t.rd .SCR_HCOUNT_ABSENT = min (s.rd .SCR_HCOUNT_ABSENT + 1) (2 ^ Field.SCR_HCOUNT_ABSENT.row.width - 1) ∧
      t.readers = s.readers) ∧
  (∀ (s : State) (v : BitVec 16), s.canonical →
    ∃ t, Sys2Proof.Machine.exec (.fwPhaseSlewWrite v) s = Host.Outcome.next t ∧
      t.rd .PLB_SLEW_FW_PHASE_SLEW = min v.toNat (s.rd .PLB_SLEW_PHASE_SLEW) ∧
      v.toNat ≤ s.rd .PLB_SLEW_PHASE_SLEW ∨ t.rd .PLB_STATUS_SLEW_CLAMP = 1) ∧
  (∀ (s : State) (m : Int), s.canonical →
    s.rd .PLB_CTRL_PPS_OUT_EN = 1 →
    s.rd .PLB_CTRL_PPS_OUT_MODE = 1 →
    s.rd .PLB_STATUS_TIME_OK = 1 →
    m = roundDiv ((s.now : Int) + s.rdS .PLB_PPS_OUT_DLY_DLY) quantaPerSec →
    ((s.now : Int) + s.rdS .PLB_PPS_OUT_DLY_DLY - m * quantaPerSec).natAbs < usQ 10 →
    s.plumb.lastPulse ≠ some m →
    ∃ t, Sys2Proof.Machine.exec (.ppsOutPulse) s = Host.Outcome.next t ∧
      t.plumb.ppsOut = true ∧
      t.plumb.ppsRise = m * quantaPerSec - s.rdS .PLB_PPS_OUT_DLY_DLY ∧
      t.plumb.ppsTill = m * quantaPerSec - s.rdS .PLB_PPS_OUT_DLY_DLY + (usQ (1000 * s.ppsWidth) : Nat) ∧
      t.plumb.lastPulse = some m ∧
      t.regs = s.regs)

/-- An inserted pluggable is held in low power; one identified as four-lane optics of at most 2.5 W is accepted and its enabled dark lanes train, and any other is refused with cause 0x31; a removal fails every UP lane of the cage and empties it; a monitoring read fills the fields and an optical alarm fails its lane, and a pluggable that does not answer shows MGMT_FAIL. Of each of these commands it says that exec answers a next state, under the conditions named: CAGE_INSERT, CAGE_IDENTIFIED, CAGE_REMOVE, CAGE_MONITOR. (R257, R264) -/
def Obligations.Cages : Prop :=
  (∀ (s : State) (c : CageIx), s.canonical →
    ∃ t, Sys2Proof.Machine.exec (.cageInsert c) s = Host.Outcome.next t ∧
      t.rd .COL_CAGE_STATUS_PRESENT c = 1 ∧
      t.rd .COL_CAGE_STATUS_IDENT_OK c = 0 ∧
      t.rd .COL_CAGE_STATUS_LOW_POWER c = 1 ∧
      (t.cage c).phase = 1 ∧
      t.rd .COL_CAGE_STATUS_INSERTIONS c = min (s.rd .COL_CAGE_STATUS_INSERTIONS c + 1) (2 ^ Field.COL_CAGE_STATUS_INSERTIONS.row.width - 1)) ∧
  (∀ (s : State) (c : CageIx) (l : LaneIx) (x : CageIdent), s.canonical →
    (s.cage c).phase = 1 →
    x.optical4 = true →
    x.power ≤ 25 →
    l.val / 4 = c.val →
    ∃ t, Sys2Proof.Machine.exec (.cageIdentified c x) s = Host.Outcome.next t ∧
      (t.cage c).phase = 2 ∧
      t.rd .COL_CAGE_STATUS_IDENT_OK c = 1 ∧
      t.rd .COL_CAGE_STATUS_LOW_POWER c = 0 ∧
      t.laneState l = (if s.laneState l = 0 ∧ s.rd .LANE_CTRL_EN l ≠ 0 ∧ s.fenced (0x90 + l) = false then 1 else s.laneState l)) ∧
  (∀ (s : State) (c : CageIx) (x : CageIdent), s.canonical →
    (s.cage c).phase = 1 →
    x.optical4 = false ∨ 25 < x.power →
    ∃ t, Sys2Proof.Machine.exec (.cageIdentified c x) s = Host.Outcome.next t ∧
      (t.cage c).phase = 3 ∧
      t.faultWaits (0x84 + c) 0x31 = true ∧
      ∀ l : Fin 16, t.laneState l = s.laneState l) ∧
  (∀ (s : State) (c : CageIx) (l : LaneIx), s.canonical →
    l.val / 4 = c.val →
    ∃ t, Sys2Proof.Machine.exec (.cageRemove c) s = Host.Outcome.next t ∧
      t.rd .COL_CAGE_STATUS_PRESENT c = 0 ∧
      (t.cage c).phase = 0 ∧
      t.laneState l = (if s.laneState l = 3 ∨ s.laneState l = 4 then 4 else 0)) ∧
  (∀ (s : State) (c : CageIx) (i : Fin 4) (m : CageRead), s.canonical →
    (s.cage c).phase = 2 →
    m.answers = true →
    ∃ t, Sys2Proof.Machine.exec (.cageMonitor c m) s = Host.Outcome.next t ∧
      t.rd .COL_CAGE_MON_TEMP c = m.temp.toNat ∧
      t.rd .COL_CAGE_MON_VCC c = m.vcc.toNat ∧
      t.rd .LANE_OPT_RX_PWR (4 * c.val + i.val) = m.power.getD i 0 % 65536 ∧
      (s.laneUp (4 * c.val + i.val) && (m.los.getLsbD i || m.txFault.getLsbD i)) = false ∨ t.laneState (4 * c.val + i.val) = 4) ∧
  (∀ (s : State) (c : CageIx) (m : CageRead), s.canonical →
    (s.cage c).phase = 2 →
    m.answers = false →
    ∃ t, Sys2Proof.Machine.exec (.cageMonitor c m) s = Host.Outcome.next t ∧
      t.rd .COL_CAGE_STATUS_MGMT_FAIL c = 1 ∧
      t.rd .COL_CAGE_MON_TEMP c = s.rd .COL_CAGE_MON_TEMP c ∧
      s.hasCond (0x84 + c) 0x32 = true ∨ t.faultWaits (0x84 + c) 0x32 = true)

/-- A lane trains to HELLO on block lock and the peer's LSTATE, a LINK block of good CRC shows the peer and one of bad CRC is counted, a HELLO of a peer with room that is itself in HELLO brings the lane UP with the peer's sizes as credits, and the lane sends its own HELLO; EN = 1 lets a dark lane of an accepted pluggable train, EN = 0 makes it dark, RETRAIN trains it anew, and a failure of an UP lane counts, asserts cause 0x30 and leaves it FAILED. Of each of these commands it says that exec answers a next state, under the conditions named: LANE_BLOCK_LOCK, LINK_BLOCK, HELLO_SEND, HELLO, LANE_ENABLE, LANE_DISABLE, RETRAIN, LANE_FAIL. (R255, R258, R263, R264, R265) -/
def Obligations.LaneStates : Prop :=
  (∀ (s : State) (l : LaneIx), s.canonical →
    s.laneState l = 1 →
    (s.lane l).peerLstate = 1 →
    ∃ t, Sys2Proof.Machine.exec (.laneBlockLock l) s = Host.Outcome.next t ∧
      t.rd .LANE_STATUS_BLOCK_LOCK l = 1 ∧
      t.laneState l = 2) ∧
  (∀ (s : State) (l : LaneIx) (x : BitVec 56), s.canonical →
    crc8Ok x = true →
    s.laneState l = 1 ∨ s.laneState l = 2 ∨ s.laneState l = 3 →
    ∃ t, Sys2Proof.Machine.exec (.linkBlock l x) s = Host.Outcome.next t ∧
      (t.lane l).peerLstate = bits 0 3 x.toNat ∧
      t.rd .LANE_PEER_NODE l = bits 7 12 x.toNat ∧
      t.rd .LANE_PEER_CAGE l = bits 3 2 x.toNat ∧
      t.rd .LANE_ERR_BLOCK_ERR l = s.rd .LANE_ERR_BLOCK_ERR l) ∧
  (∀ (s : State) (l : LaneIx) (x : BitVec 56), s.canonical →
    crc8Ok x = false →
    ∃ t, Sys2Proof.Machine.exec (.linkBlock l x) s = Host.Outcome.next t ∧
      t.rd .LANE_ERR_BLOCK_ERR l = min (s.rd .LANE_ERR_BLOCK_ERR l + 1) (2 ^ Field.LANE_ERR_BLOCK_ERR.row.width - 1) ∧
      t.lanes = s.lanes) ∧
  (∀ (s : State) (l : LaneIx), s.canonical →
    s.laneState l = 2 →
    ∃ t, Sys2Proof.Machine.exec (.helloSend l) s = Host.Outcome.next t ∧
      (t.lane l).fibre = (s.lane l).fibre ++ [s.helloFrame l] ∧
      t.regs = s.regs) ∧
  (∀ (s : State) (l : LaneIx) (f : Frame), s.canonical →
    s.laneState l = 2 →
    f.cls = 2 →
    f.words.length = 3 →
    msgType f = 1 →
    msgVer f = 1 →
    msgW f 1 ≠ s.uid →
    (s.cage (l.val / 4)).peer = none →
    6 ≤ bits 16 8 (msgW f 2) →
    38 ≤ bits 0 16 (msgW f 2) →
    66 ≤ bits 24 12 (msgW f 2) →
    66 ≤ bits 36 12 (msgW f 2) →
    2 ≤ (s.lane l).peerLstate →
    ∃ t, Sys2Proof.Machine.exec (.hello l f) s = Host.Outcome.next t ∧
      t.laneState l = 3 ∧
      t.rd .LANE_CREDIT_TIME l = bits 16 8 (msgW f 2) % 2 ^ Field.LANE_CREDIT_TIME.row.width ∧
      t.rd .LANE_CREDIT_BAND l = bits 0 16 (msgW f 2) % 2 ^ Field.LANE_CREDIT_BAND.row.width ∧
      (t.cage (l.val / 4)).peer = some (msgW f 1, bits 53 2 (msgW f 0))) ∧
  (∀ (s : State) (l : LaneIx) (f : Frame), s.canonical →
    s.laneState l = 2 →
    f.cls = 2 →
    f.words.length = 3 →
    msgType f = 1 →
    msgVer f = 1 →
    msgW f 1 = s.uid →
    ∃ t, Sys2Proof.Machine.exec (.hello l f) s = Host.Outcome.next t ∧
      t.rd .LANE_STATUS_MISWIRED l = 1 ∧
      t.laneState l = 2) ∧
  (∀ (s : State) (l : LaneIx), s.canonical →
    s.laneState l = 0 →
    (s.cage (l.val / 4)).phase = 2 →
    s.fenced (0x90 + l) = false →
    ∃ t, Sys2Proof.Machine.exec (.laneEnable l) s = Host.Outcome.next t ∧
      t.rd .LANE_CTRL_EN l = 1 ∧
      t.laneState l = 1) ∧
  (∀ (s : State) (l : LaneIx), s.canonical →
    ∃ t, Sys2Proof.Machine.exec (.laneDisable l) s = Host.Outcome.next t ∧
      t.rd .LANE_CTRL_EN l = 0 ∧
      t.laneState l = 0) ∧
  (∀ (s : State) (l : LaneIx), s.canonical →
    s.laneState l = 1 ∨ s.laneState l = 2 ∨ s.laneState l = 3 →
    ∃ t, Sys2Proof.Machine.exec (.retrain l) s = Host.Outcome.next t ∧
      t.laneState l = 1 ∧
      t.rd .LANE_CREDIT_BAND l = 0) ∧
  (∀ (s : State) (l : LaneIx) (x : LaneCause), s.canonical →
    s.laneUp l = true →
    ∃ t, Sys2Proof.Machine.exec (.laneFail l x) s = Host.Outcome.next t ∧
      t.laneState l = 4 ∧
      t.rd .LANE_COUNT_FAILS l = min (s.rd .LANE_COUNT_FAILS l + 1) (2 ^ Field.LANE_COUNT_FAILS.row.width - 1) ∧
      t.faultWaits (0x90 + l) 0x30 = true ∧
      t.rd .LANE_CREDIT_BAND l = 0) ∧
  (∀ (s : State) (l : LaneIx) (x : LaneCause), s.canonical →
    s.laneUp l = false →
    ∃ t, Sys2Proof.Machine.exec (.laneFail l x) s = Host.Outcome.next t ∧
      t = s)

/-- A CREDIT block adds its increments to the credits, and fails the lane when one passes the peer's size; a frame error counts and more than 16 in one millisecond fail the lane; a frame for another module goes out on the first UP lane of the primary cage with one hop less, or ends at TTL 1 in HOP_DROP; an UNRES frame that has waited is dropped and counted; BULK words reach the policy cores, an unknown message is counted, and a grain of a subscribed stream reaches its band path. Of each of these commands it says that exec answers a next state, under the conditions named: CREDIT_BLOCK, FRAME_ERR, FRAME_FORWARD, UNRES_TIMEOUT, BULK_FRAME, MSG_DISCARD, BAND_FRAME_RECEIVE. (R259, R260, R261, R264, R276, R278, R283) -/
def Obligations.FramesAndCredits : Prop :=
  (∀ (s : State) (l : LaneIx) (x : BitVec 56) (c : Fin 4), s.canonical →
    crc8Ok x = true →
    s.laneUp l = true →
    (s.lane l).queue = [] →
    ∀ k : Fin 4, s.rd (creditField k) l + (bits (12 * k) 12 x.toNat + 4096 - (s.lane l).peerCum.get k % 4096) % 4096 ≤ (s.lane l).peerBuf.get k →
    ∃ t, Sys2Proof.Machine.exec (.creditBlock l x) s = Host.Outcome.next t ∧
      t.rd (creditField c) l = (s.rd (creditField c) l + (bits (12 * c) 12 x.toNat + 4096 - (s.lane l).peerCum.get c % 4096) % 4096) % 2 ^ (creditField c).row.width ∧
      (t.lane l).peerCum.get c = bits (12 * c) 12 x.toNat) ∧
  (∀ (s : State) (l : LaneIx) (x : BitVec 56) (c : Fin 4), s.canonical →
    crc8Ok x = true →
    s.laneUp l = true →
    (s.lane l).peerBuf.get c < s.rd (creditField c) l + (bits (12 * c) 12 x.toNat + 4096 - (s.lane l).peerCum.get c % 4096) % 4096 →
    ∃ t, Sys2Proof.Machine.exec (.creditBlock l x) s = Host.Outcome.next t ∧
      t.laneState l = 4) ∧
  (∀ (s : State) (l : LaneIx) (c : Fin 4) (k : Fin 65), s.canonical →
    (s.lane l).errMs ≠ s.now / (1000 * 65536000) →
    ∃ t, Sys2Proof.Machine.exec (.frameErr l c k) s = Host.Outcome.next t ∧
      t.rd .LANE_ERR_FRAME_ERR l = min (s.rd .LANE_ERR_FRAME_ERR l + 1) (2 ^ Field.LANE_ERR_FRAME_ERR.row.width - 1) ∧
      t.laneState l = s.laneState l ∧
      (t.lane l).errs = 1) ∧
  (∀ (s : State) (l : LaneIx) (c : Fin 4) (k : Fin 65), s.canonical →
    s.laneUp l = true →
    (s.lane l).errMs = s.now / (1000 * 65536000) →
    16 ≤ (s.lane l).errs →
    ∃ t, Sys2Proof.Machine.exec (.frameErr l c k) s = Host.Outcome.next t ∧
      t.laneState l = 4 ∧
      t.rd .LANE_STATUS_CRC_BURST l = 1) ∧
  (∀ (s : State) (l : LaneIx) (f : Frame) (k : Nat) (ks : List Nat), s.canonical →
    s.takes l f = true →
    s.isMine f = false →
    f.cls = 2 →
    2 ≤ f.ttl →
    s.rd .COL_NODE_VALID ≠ 0 →
    s.upLanes (s.primaryOf f.dest) = k :: ks →
    (s.lane k).queue = [] →
    frameBlocks f ≤ s.rd .LANE_CREDIT1_MGMT k →
    ∃ t, Sys2Proof.Machine.exec (.frameForward l f) s = Host.Outcome.next t ∧
      (t.lane k).fibre = (s.lane k).fibre ++ [hopOf f] ∧
      t.rd .LANE_CREDIT1_MGMT k = (s.rd .LANE_CREDIT1_MGMT k - frameBlocks f) % 2 ^ Field.LANE_CREDIT1_MGMT.row.width) ∧
  (∀ (s : State) (l : LaneIx) (f : Frame), s.canonical →
    s.takes l f = true →
    s.isMine f = false →
    f.ttl ≤ 1 →
    ∃ t, Sys2Proof.Machine.exec (.frameForward l f) s = Host.Outcome.next t ∧
      t.rd .COL_COUNT1_HOP_DROP 0 = min (s.rd .COL_COUNT1_HOP_DROP 0 + 1) (2 ^ Field.COL_COUNT1_HOP_DROP.row.width - 1) ∧
      ∀ k : Fin 16, (t.lane k).fibre = (s.lane k).fibre) ∧
  (∀ (s : State) (l : LaneIx) (q : QFrame), s.canonical →
    (s.lane l).queue.find? (fun x => (QFrame.frame x).cls == 1 && (QFrame.frame x).unres) = some q →
    ∃ t, Sys2Proof.Machine.exec (.unresTimeout l) s = Host.Outcome.next t ∧
      (t.lane l).queue = (s.lane l).queue.eraseP (fun x => (QFrame.frame x).cls == 1 && (QFrame.frame x).unres) ∧
      t.rd .LANE_STATUS_UNRES_DROP l = min (s.rd .LANE_STATUS_UNRES_DROP l + 1) (2 ^ Field.LANE_STATUS_UNRES_DROP.row.width - 1)) ∧
  (∀ (s : State) (l : LaneIx) (f : Frame), s.canonical →
    s.takes l f = true →
    s.isMine f = true →
    ∃ t, Sys2Proof.Machine.exec (.bulkFrame l f) s = Host.Outcome.next t ∧
      t.col.bulk = s.col.bulk ++ [f.words]) ∧
  (∀ (s : State) (l : LaneIx) (f : Frame), s.canonical →
    s.takes l f = true →
    s.isMine f = true →
    ∃ t, Sys2Proof.Machine.exec (.msgDiscard l f) s = Host.Outcome.next t ∧
      t.rd .COL_COUNT2_MSG_DISCARD 0 = min (s.rd .COL_COUNT2_MSG_DISCARD 0 + 1) (2 ^ Field.COL_COUNT2_MSG_DISCARD.row.width - 1) ∧
      t.col = s.col ∧
      t.bps = s.bps) ∧
  (∀ (s : State) (l : LaneIx) (f : Frame) (n : BpIx), s.canonical →
    s.takes l f = true →
    s.isMine f = true →
    f.cls = 1 →
    s.subscribers f.src f.bp = [n.val] →
    s.originOf (wordsGrain f.words).ts ≤ s.now + usQ 1 →
    (s.bp n).dly.last = none →
    s.emits n = false →
    delayState s n = 0 →
    s.fenced n = false →
    ∃ t, Sys2Proof.Machine.exec (.bandFrameReceive l f) s = Host.Outcome.next t ∧
      (t.bp n).dly.input.any (fun h => Held.grain h == wordsGrain f.words) = true ∧
      (t.bp n).lastGrain = s.clk.tick ∧
      (t.entry f.src f.bp f.rid).map Entry.inLane = some (some l.val))

/-- A claim takes REQ_ADDR where no record claims it, loses it to a better claim with cause 0x34, or with AUTO takes the lowest address that no record claims, and a loser with AUTO claims anew; a flood sends the module's own record under the next LSEQ; a record of a module not yet known is stored and starts a route computation, one that is not newer changes nothing in the database, and an expired one leaves it; a finished computation installs the routes and ends ROUTE_BUSY. Of each of these commands it says that exec answers a next state, under the conditions named: ADDR_CLAIM, ADDR_RECLAIM, LSA_FLOOD, LSA, LSA_EXPIRE, ROUTE_COMPUTE_DONE. (R266, R267, R268, R269, R270) -/
def Obligations.AddressesAndLinkState : Prop :=
  (∀ (s : State), s.canonical →
    s.rd .KCT_STATUS_LOCKED = 1 →
    s.rd .COL_STATUS_ADDR_CONFLICT = 0 →
    s.col.reclaim = false →
    s.rd .COL_NODE_AUTO = 0 →
    s.rd .COL_NODE_VALID = 0 →
    (s.col.db.all fun r => LsaRec.uid r == s.uid || !LsaRec.valid r || LsaRec.node r != s.rd .COL_NODE_REQ_ADDR) = true →
    ∃ t, Sys2Proof.Machine.exec (.addrClaim) s = Host.Outcome.next t ∧
      t.rd .COL_NODE_VALID = 1 ∧
      t.rd .COL_NODE_ADDR = s.rd .COL_NODE_REQ_ADDR % 4096) ∧
  (∀ (s : State) (r : LsaRec), s.canonical →
    s.rd .KCT_STATUS_LOCKED = 1 →
    s.rd .COL_STATUS_ADDR_CONFLICT = 0 →
    s.col.reclaim = false →
    s.rd .COL_NODE_AUTO = 0 →
    s.rd .COL_NODE_VALID = 0 →
    s.col.db = [r] →
    r.uid < s.uid →
    r.valid = true →
    r.auto = false →
    r.node = s.rd .COL_NODE_REQ_ADDR →
    ∃ t, Sys2Proof.Machine.exec (.addrClaim) s = Host.Outcome.next t ∧
      t.rd .COL_NODE_VALID = 0 ∧
      t.rd .COL_STATUS_ADDR_CONFLICT = 1 ∧
      s.hasCond 0xAE 0x34 = true ∨ t.faultWaits 0xAE 0x34 = true) ∧
  (∀ (s : State) (a : Nat), s.canonical →
    s.col.reclaim = true →
    s.rd .COL_NODE_AUTO = 1 →
    s.rd .COL_NODE_VALID = 0 →
    s.lowestAddr = some a →
    ∃ t, Sys2Proof.Machine.exec (.addrReclaim) s = Host.Outcome.next t ∧
      t.rd .COL_NODE_VALID = 1 ∧
      t.rd .COL_NODE_ADDR = a ∧
      t.col.reclaim = false) ∧
  (∀ (s : State), s.canonical →
    s.rd .COL_NODE_VALID = 1 →
    s.col.db.length < 4096 →
    ∃ t, Sys2Proof.Machine.exec (.lsaFlood) s = Host.Outcome.next t ∧
      t.col.lseq = (s.col.lseq + 1) % 2 ^ 32 ∧
      (t.col.db.find? fun r => LsaRec.uid r == s.uid).map LsaRec.lseq = some ((s.col.lseq + 1) % 2 ^ 32) ∧
      t.rd .COL_STATUS_ROUTE_BUSY = 1) ∧
  (∀ (s : State) (l : LaneIx) (f : Frame), s.canonical →
    s.hears l f 2 = true →
    msgW f 1 ≠ s.uid →
    (s.col.db.all fun r => LsaRec.uid r != msgW f 1) = true →
    s.col.db.length < 4096 →
    ∃ t, Sys2Proof.Machine.exec (.lsa l f) s = Host.Outcome.next t ∧
      wordsLsa f ∈ t.col.db ∧
      t.rd .COL_STATUS_ROUTE_BUSY = 1) ∧
  (∀ (s : State) (l : LaneIx) (f : Frame) (r : LsaRec), s.canonical →
    s.hears l f 2 = true →
    s.col.db.find? (fun x => LsaRec.uid x == msgW f 1) = some r →
    serialNewer (bits 0 32 (msgW f 2)) r.lseq = false →
    ∃ t, Sys2Proof.Machine.exec (.lsa l f) s = Host.Outcome.next t ∧
      t.col.db = s.col.db ∧
      t.rd .COL_STATUS_ROUTE_BUSY = s.rd .COL_STATUS_ROUTE_BUSY) ∧
  (∀ (s : State) (u : Nat), s.canonical →
    (s.col.db.any fun r => LsaRec.uid r == u) = true →
    ∃ t, Sys2Proof.Machine.exec (.lsaExpire u) s = Host.Outcome.next t ∧
      t.col.db = s.col.db.filter fun r => LsaRec.uid r != u ∧
      t.rd .COL_STATUS_ROUTE_BUSY = 1) ∧
  (∀ (s : State), s.canonical →
    ∃ t, Sys2Proof.Machine.exec (.routeComputeDone) s = Host.Outcome.next t ∧
      t.rd .COL_STATUS_ROUTE_BUSY = 0 ∧
      t.col.primary = s.computeRoutes.col.primary ∧
      t.col.alt = s.computeRoutes.col.alt)

/-- A request for a running publisher without a subscriber takes the subscriber and reserves a route; a refusal ends the waiting check with its code; a reservation that reaches its subscriber connects it; a refused reservation frees the hop's entry; the acknowledgement puts the route in use; a check whose exchange times out is rejected with code 6; a lost stream is re-established by a new reservation. Of each of these commands it says that exec answers a next state, under the conditions named: SUB_REQ, SUB_NAK, RESV, RESV_NAK, SUB_ACK, SUB_TIMEOUT, STREAM_REESTABLISH. (R273, R274) -/
def Obligations.Subscriptions : Prop :=
  (∀ (s : State) (l : LaneIx) (f : Frame) (n : BpIx), s.canonical →
    s.hears l f 3 = true →
    msgNode f = s.nodeAddr →
    msgBp f = n.val →
    s.running n = true →
    (s.bp n).decl.dstKind = 2 →
    (s.bp n).pub.subscriber = none →
    (((s.holding l f).updBp n fun x => { x with pub := { x.pub with subscriber := some (bits 40 12 (msgW f 0), bits 52 7 (msgW f 0)), tries := 0, avoid := [], lost := false } }).startRoute n).2 = true →
    ∃ t, Sys2Proof.Machine.exec (.subReq l f) s = Host.Outcome.next t ∧
      (t.bp n).pub.subscriber = some (bits 40 12 (msgW f 0), bits 52 7 (msgW f 0)) ∧
      (t.bp n).pub.pend.isSome = true ∧
      t.rd .COL_BP_STATUS_PEER n = bits 40 12 (msgW f 0)) ∧
  (∀ (s : State) (l : LaneIx) (f : Frame) (n : BpIx), s.canonical →
    s.hears l f 3 = true →
    msgNode f = s.nodeAddr →
    msgBp f = n.val →
    s.running n = true →
    (s.bp n).decl.dstKind = 2 →
    (s.bp n).pub.subscriber.isSome = true →
    ∃ t, Sys2Proof.Machine.exec (.subReq l f) s = Host.Outcome.next t ∧
      t.bps = s.bps ∧
      t.col.entries = s.col.entries) ∧
  (∀ (s : State) (l : LaneIx) (f : Frame) (n : BpIx), s.canonical →
    s.hears l f 4 = true →
    n.val ∈ s.waitingFor (msgNode f) (msgBp f) →
    ∃ t, Sys2Proof.Machine.exec (.subNak l f) s = Host.Outcome.next t ∧
      t.rd .COL_BP_STATUS_LAST_NAK n = bits 40 4 (msgW f 0) ∧
      t.rd .BP_STATUS_REJECT n = bits 40 4 (msgW f 0) ∧
      (t.bp n).check = none ∧
      (t.bp n).sub.waiting = false) ∧
  (∀ (s : State) (l : LaneIx) (f : Frame) (n : BpIx), s.canonical →
    s.hears l f 5 = true →
    bits 42 5 (msgW f 0) ≤ bits 47 5 (msgW f 0) + 1 →
    bits 44 7 (msgW f 2) = n.val →
    (s.bp n).sub.waiting = false →
    (s.bp n).sub.on = true →
    s.running n = true →
    (s.bp n).decl.srcKind = 2 →
    (s.bp n).decl.srcNode = msgNode f →
    (s.bp n).decl.srcBp = msgBp f →
    bits 24 15 (msgW f 1) = (s.bp n).decl.span →
    ∃ t, Sys2Proof.Machine.exec (.resv l f) s = Host.Outcome.next t ∧
      t.rd .COL_BP_STATUS_ROLE n = 2 ∧
      t.rd .COL_BP_STATUS_ROUTED n = 1 ∧
      (t.bp n).sub.freq = bits 0 32 (msgW f 2) ∧
      (t.bp n).sub.rid = msgRid f ∧
      (t.entry (msgNode f) (msgBp f) (msgRid f)).map Entry.inLane = some (some l.val)) ∧
  (∀ (s : State) (l : LaneIx) (f : Frame) (e : Entry), s.canonical →
    s.hears l f 6 = true →
    s.entry (msgNode f) (msgBp f) (msgRid f) = some e →
    msgNode f ≠ s.nodeAddr →
    ∃ t, Sys2Proof.Machine.exec (.resvNak l f) s = Host.Outcome.next t ∧
      t.entry (msgNode f) (msgBp f) (msgRid f) = none) ∧
  (∀ (s : State) (l : LaneIx) (f : Frame) (n : BpIx) (r : Route), s.canonical →
    s.hears l f 7 = true →
    msgNode f = s.nodeAddr →
    msgBp f = n.val →
    (s.bp n).pub.pend = some r →
    r.rid = msgRid f →
    ∃ t, Sys2Proof.Machine.exec (.subAck l f) s = Host.Outcome.next t ∧
      (t.bp n).pub.route = some r ∧
      (t.bp n).pub.pend = none ∧
      (t.bp n).pub.lost = false ∧
      t.rd .COL_BP_STATUS_ROLE n = 1 ∧
      t.rd .COL_BP_STATUS_ROUTED n = 1) ∧
  (∀ (s : State) (n : BpIx) (c : Check), s.canonical →
    (s.bp n).check = some c →
    (s.bp n).sub.waiting = true →
    ∃ t, Sys2Proof.Machine.exec (.subTimeout n) s = Host.Outcome.next t ∧
      (t.bp n).check = none ∧
      (t.bp n).sub.waiting = false ∧
      t.rd .BP_STATUS_REJECT n = 6 ∧
      t.rd .COL_BP_STATUS_LAST_NAK n = 6) ∧
  (∀ (s : State) (n : BpIx), s.canonical →
    (s.bp n).pub.lost = true →
    (s.bp n).pub.subscriber.isSome = true →
    (s.bp n).pub.pend = none →
    ((s.updBp n fun x => { x with pub := { x.pub with tries := 0, avoid := [], tried := s.clk.tick } }).startRoute n).2 = true →
    ∃ t, Sys2Proof.Machine.exec (.streamReestablish n) s = Host.Outcome.next t ∧
      (t.bp n).pub.pend.isSome = true ∧
      (t.bp n).pub.tried = s.clk.tick)

/-- An acknowledgement due is sent once and one received frees the kept copies it covers; a release frees the entry, and an UNSUB of the subscriber ends the publication's route; a repair that reaches the subscriber's module moves the entry to the lane it came on, and a repair report of a shortage waits for new routes at the publisher. Of each of these commands it says that exec answers a next state, under the conditions named: GRAIN_ACK_SEND, GRAIN_ACK, RELEASE, UNSUB, REPAIR, REPAIR_REPORT. (R274, R275, R276, R277) -/
def Obligations.StreamUpkeep : Prop :=
  (∀ (s : State) (n : BpIx) (a : Nat) (e : Entry) (k : Nat), s.canonical →
    s.running n = true →
    (s.bp n).decl.srcKind = 2 →
    (s.bp n).sub.ack = some a →
    (s.bp n).sub.acked ≠ some a →
    s.entry (s.bp n).decl.srcNode (s.bp n).decl.srcBp (s.bp n).sub.rid = some e →
    e.inLane = some k →
    ∃ t, Sys2Proof.Machine.exec (.grainAckSend) s = Host.Outcome.next t ∧
      (t.bp n).sub.acked = some a) ∧
  (∀ (s : State) (l : LaneIx) (f : Frame) (e : Entry), s.canonical →
    s.hears l f 8 = true →
    s.entry (msgNode f) (msgBp f) (msgRid f) = some e →
    e.inLane = none →
    ∃ t, Sys2Proof.Machine.exec (.grainAck l f) s = Host.Outcome.next t ∧
      ∀ j : Fin 16, (t.lane j).kept = (s.lane j).kept.filter fun k => !(frameOf (Kept.frame k) e && (gGen (wordsGrain (Kept.frame k).words) == msgGen f && decide (0 ≤ seqDist (wordsGrain (Kept.frame k).words).seq (bits 0 28 (msgW f 1)))))) ∧
  (∀ (s : State) (l : LaneIx) (f : Frame) (e : Entry), s.canonical →
    s.hears l f 9 = true →
    s.entry (msgNode f) (msgBp f) (msgRid f) = some e →
    ∃ t, Sys2Proof.Machine.exec (.release l f) s = Host.Outcome.next t ∧
      t.entry (msgNode f) (msgBp f) (msgRid f) = none ∧
      ∀ j : Fin 16, (t.lane j).members.any (fun m => Member.ofEntry m e) = false) ∧
  (∀ (s : State) (l : LaneIx) (f : Frame) (n : BpIx) (b : Nat), s.canonical →
    s.hears l f 13 = true →
    msgNode f = s.nodeAddr →
    msgBp f = n.val →
    (s.bp n).pub.subscriber = some (f.src, b) →
    ∃ t, Sys2Proof.Machine.exec (.unsub l f) s = Host.Outcome.next t ∧
      (t.bp n).pub.subscriber = none ∧
      (t.bp n).pub.route = none ∧
      t.rd .COL_BP_STATUS_ROUTED n = 0 ∧
      t.rd .COL_BP_STATUS_PEER n = 0) ∧
  (∀ (s : State) (l : LaneIx) (f : Frame) (e : Entry), s.canonical →
    s.hears l f 10 = true →
    s.entry (msgNode f) (msgBp f) (msgRid f) = some e →
    e.dest = s.nodeAddr →
    ∃ t, Sys2Proof.Machine.exec (.repair l f) s = Host.Outcome.next t ∧
      (t.entry (msgNode f) (msgBp f) (msgRid f)).map (fun x => (Entry.inLane x, Entry.rate x)) = some (some l.val, bits 0 24 (msgW f 1))) ∧
  (∀ (s : State) (l : LaneIx) (f : Frame) (n : BpIx), s.canonical →
    s.hears l f 11 = true →
    msgNode f = s.nodeAddr →
    msgBp f = n.val →
    bit 40 (msgW f 0) = true →
    (s.bp n).pub.route.isSome = true →
    ∃ t, Sys2Proof.Machine.exec (.repairReport l f) s = Host.Outcome.next t ∧
      (t.bp n).pub.report = true ∧
      t.rd .COL_BP_STATUS_UNRES n = 1)

/-- At the end of a period the committed set becomes the active one and a late set moves up; a commit holds the three registers for the next period, and one that completes in the last 4 cycles is late and counts; MODE changes only while ARM is 0; an armed channel without holds runs, and a disarmed one is safe; FW_MAX_DUTY stores at most MAX_DUTY; the fine calibration shows its outcome. Of each of these commands it says that exec answers a next state, under the conditions named: PWM_PERIOD_END, PWM_FALL_WRITE, PWM_MODE_WRITE, PWM_ARM, PWM_FW_LIMIT_WRITE, PWM_FINE_CAL. (R295, R297, R298, R301, R303, R310) -/
def Obligations.PwmPeriods : Prop :=
  (∀ (s : State) (k : ChanIx) (x : PwmSense) (r : PwmRun), s.canonical →
    (s.pwm k).run = some r →
    ∃ t, Sys2Proof.Machine.exec (.pwmPeriodEnd k x) s = Host.Outcome.next t ∧
      (t.pwm k).active = (s.pwm k).shadow ∧
      (t.pwm k).shadow = (s.pwm k).late.getD (s.pwm k).shadow ∧
      (t.pwm k).late = none ∧
      (t.pwm k).start = s.cycles * 32 ∧
      (t.pwm k).run.isSome = true) ∧
  (∀ (s : State) (k : ChanIx) (w : Word), s.canonical →
    (s.pwm k).active.per = 0 →
    ∃ t, Sys2Proof.Machine.exec (.pwmFallWrite k w) s = Host.Outcome.next t ∧
      (t.pwm k).shadow = (⟨max 16 (s.rd .PWM_PER_COUNT k) * 32 + s.rd .PWM_PER_FINE k, s.rd .PWM_RISE_COUNT k * 32 + s.rd .PWM_RISE_FINE k, bits 0 24 w.toNat * 32 + bits 24 5 w.toNat⟩ : PwmSet) ∧
      (t.pwm k).active = (s.pwm k).active ∧
      t.rd .PWM_STATUS_LATE k = s.rd .PWM_STATUS_LATE k) ∧
  (∀ (s : State) (k : ChanIx) (w : Word), s.canonical →
    0 < (s.pwm k).active.per →
    s.cycles * 32 ≤ (s.pwm k).start + (s.pwm k).active.per →
    (s.pwm k).start + (s.pwm k).active.per ≤ s.cycles * 32 + 128 →
    ∃ t, Sys2Proof.Machine.exec (.pwmFallWrite k w) s = Host.Outcome.next t ∧
      (t.pwm k).shadow = (s.pwm k).shadow ∧
      (t.pwm k).late.map PwmSet.fall = some (bits 0 24 w.toNat * 32 + bits 24 5 w.toNat) ∧
      t.rd .PWM_STATUS_LATE k = 1 ∧
      t.rd .PWM_COUNT_LATE_COMMITS k = min (s.rd .PWM_COUNT_LATE_COMMITS k + 1) (2 ^ Field.PWM_COUNT_LATE_COMMITS.row.width - 1)) ∧
  (∀ (s : State) (k : ChanIx) (m : Fin 4), s.canonical →
    s.rd .PWM_CTRL_ARM k = 0 →
    ∃ t, Sys2Proof.Machine.exec (.pwmModeWrite k m) s = Host.Outcome.next t ∧
      t.rd .PWM_CTRL_MODE k = m ∧
      t.rd .PWM_STATUS_MODE_REFUSED k = s.rd .PWM_STATUS_MODE_REFUSED k) ∧
  (∀ (s : State) (k : ChanIx) (m : Fin 4), s.canonical →
    s.rd .PWM_CTRL_ARM k = 1 →
    s.rd .PWM_CTRL_MODE k ≠ m →
    ∃ t, Sys2Proof.Machine.exec (.pwmModeWrite k m) s = Host.Outcome.next t ∧
      t.rd .PWM_CTRL_MODE k = s.rd .PWM_CTRL_MODE k ∧
      t.rd .PWM_STATUS_MODE_REFUSED k = 1) ∧
  (∀ (s : State) (k : ChanIx), s.canonical →
    s.gateHeld k = false →
    s.rd .KCT_STATUS_LOCKED = 1 →
    s.rd .PWM_STATUS_STATE k < 2 →
    ∃ t, Sys2Proof.Machine.exec (.pwmArm k true) s = Host.Outcome.next t ∧
      t.rd .PWM_CTRL_ARM k = 1 ∧
      (t.pwm k).run.isSome = true ∧
      2 ≤ t.rd .PWM_STATUS_STATE k ∧
      (t.pwm k).active = (s.pwm k).shadow) ∧
  (∀ (s : State) (k : ChanIx), s.canonical →
    ∃ t, Sys2Proof.Machine.exec (.pwmArm k false) s = Host.Outcome.next t ∧
      t.rd .PWM_CTRL_ARM k = 0 ∧
      t.rd .PWM_STATUS_STATE k = 0 ∧
      (t.pwm k).run = none) ∧
  (∀ (s : State) (k : ChanIx) (v : BitVec 16), s.canonical →
    ∃ t, Sys2Proof.Machine.exec (.pwmFwLimitWrite k 0 v) s = Host.Outcome.next t ∧
      t.rd .PWM_DUTY_FW_MAX_DUTY k = min v.toNat (s.rd .PWM_DUTY_MAX_DUTY k) ∧
      v.toNat ≤ s.rd .PWM_DUTY_MAX_DUTY k ∨ t.rd .PWM_STATUS_DUTY_CLAMP k = 1 ∧
      t.rd .PWM_DUTY_MAX_DUTY k = s.rd .PWM_DUTY_MAX_DUTY k) ∧
  (∀ (s : State), s.canonical →
    ∃ t, Sys2Proof.Machine.exec (.pwmFineCal true) s = Host.Outcome.next t ∧
      t.rd .PWM_GLOBAL_CAL_OK = 1 ∧
      t.pwms = s.pwms) ∧
  (∀ (s : State), s.canonical →
    ∃ t, Sys2Proof.Machine.exec (.pwmFineCal false) s = Host.Outcome.next t ∧
      t.rd .PWM_GLOBAL_CAL_FAIL = 1 ∧
      t.rd .PWM_GLOBAL_CAL_OK = 0 ∧
      s.hasCond 0xAF 0x51 = true ∨ t.faultWaits 0xAF 0x51 = true)

/-- A comparator trip of channels 0 to 3 makes the gates safe, shows its cause, counts unless the channel is held already, mutes every band path of the port's transmit window and asserts its fault; an active FLT input latches, counts and makes every channel it maps to safe; its latch clears only once the input is inactive; a clock stop and a debugger's halt disarm every channel. Of each of these commands it says that exec answers a next state, under the conditions named: G3_TRIP, FLT_ACTIVATE, FLT_INACTIVE, FLT_LATCH_CLEAR, CLK_STOP, DEBUG_HALT. (R306, R308, R309, R310, R422) -/
def Obligations.LinePowerTrips : Prop :=
  (∀ (s : State) (k : ChanIx) (b : Bool) (c : BitVec 16), s.canonical →
    k.val < 4 →
    (s.pwm k).g3 = false →
    s.fltHold k = false →
    s.senseLimit k b ≤ c.toNat →
    s.g3Blanked k = false →
    ∃ t, Sys2Proof.Machine.exec (.g3Trip k ⟨b, c⟩) s = Host.Outcome.next t ∧
      (t.pwm k).run = none ∧
      t.rd .PWM_STATUS_H_G3 k = 1 ∧
      t.rd .PWM_STATUS_STATE k < 2 ∧
      t.rd (if b then .PWM_STATUS_G3_OV else .PWM_STATUS_G3_OC) k = 1 ∧
      t.rd .PWM_COUNT1_G3_TRIPS k = min (s.rd .PWM_COUNT1_G3_TRIPS k + 1) (2 ^ Field.PWM_COUNT1_G3_TRIPS.row.width - 1) ∧
      t.faultWaits (0xA0 + k) (if b then 0x0A else 0x09) = true ∧
      ∀ n : Fin 128, n.val ∉ s.windowOut k ∨ muteG3 k ∈ (t.bp n).mutes) ∧
  (∀ (s : State) (i : Fin 4), s.canonical →
    bit i (s.rd .PWM_FLT_ACT) = false →
    ∃ t, Sys2Proof.Machine.exec (.fltActivate i) s = Host.Outcome.next t ∧
      bit i (t.rd .PWM_FLT_ACT) = true ∧
      bit i (t.rd .PWM_FLT_LATCH) = true ∧
      t.rd .PWM_FLT_FLT_EVENTS 0 = min (s.rd .PWM_FLT_FLT_EVENTS 0 + 1) (2 ^ Field.PWM_FLT_FLT_EVENTS.row.width - 1) ∧
      ∀ k : Fin 8, s.fltMaps i k = false ∨ ((t.pwm k).run = none ∧ t.rd .PWM_STATUS_H_G3 k = 1 ∧ t.faultWaits (0xA0 + k) 0x0B = true)) ∧
  (∀ (s : State) (i : Fin 4), s.canonical →
    bit i (s.rd .PWM_FLT_ACT) = true →
    ∃ t, Sys2Proof.Machine.exec (.fltInactive i) s = Host.Outcome.next t ∧
      bit i (t.rd .PWM_FLT_ACT) = false ∧
      t.rd .PWM_FLT_LATCH = s.rd .PWM_FLT_LATCH ∧
      t.pwms = s.pwms) ∧
  (∀ (s : State) (i : Fin 4), s.canonical →
    bit i (s.rd .PWM_FLT_ACT) = false →
    bit i (s.rd .PWM_FLT_LATCH) = true →
    ∃ t, Sys2Proof.Machine.exec (.fltLatchClear i) s = Host.Outcome.next t ∧
      bit i (t.rd .PWM_FLT_LATCH) = false ∧
      t.rd .PWM_FLT_ACT = s.rd .PWM_FLT_ACT) ∧
  (∀ (s : State) (i : Fin 4), s.canonical →
    bit i (s.rd .PWM_FLT_ACT) = true →
    ∃ t, Sys2Proof.Machine.exec (.fltLatchClear i) s = Host.Outcome.next t ∧
      t = s) ∧
  (∀ (s : State), s.canonical →
    ∃ t, Sys2Proof.Machine.exec (.clkStop) s = Host.Outcome.next t ∧
      t.rd .PWM_GLOBAL_CLK_STOP = 1 ∧
      ∀ k : Fin 8, t.rd .PWM_CTRL_ARM k = 0 ∧ t.rd .PWM_STATUS_STATE k = 0 ∧ (t.pwm k).run = none) ∧
  (∀ (s : State) (q : CoreIx), s.canonical →
    s.rd .KCT_CFG_DEBUG_EN = 1 →
    bit q (s.rd .PCR_CTRL_RUN) = true →
    bit q (s.rd .PCR_CTRL_HALTED) = false →
    ∃ t, Sys2Proof.Machine.exec (.debugHalt q) s = Host.Outcome.next t ∧
      bit q (t.rd .PCR_CTRL_HALTED) = true ∧
      t.rd .PWM_GLOBAL_DBG_SAFE = 1 ∧
      ∀ k : Fin 8, t.rd .PWM_CTRL_ARM k = 0 ∧ (t.pwm k).run = none)

/-- In every state the gate pulse that a new period gives is on for at most the product of its period with the lower of MAX_DUTY and FW_MAX_DUTY, whatever was commanded and whether it was stretched. (R302) -/
def Obligations.OnTimeBelowMaxDuty : Prop :=
  ∀ (s : State) (k : Nat) (cont : Bool) (lead : Option Nat) (dead : Nat) (x : PwmRun),
    ((s.shapePeriod k cont lead dead).pwm k).run = some x → x.given = true →
    x.fall - x.rise ≤ (s.pwm k).active.per * (dutyFrac (s.rd .PWM_DUTY_MAX_DUTY k)).1 / (dutyFrac (s.rd .PWM_DUTY_MAX_DUTY k)).2 ∧
    x.fall - x.rise ≤ (s.pwm k).active.per * (dutyFrac (s.rd .PWM_DUTY_FW_MAX_DUTY k)).1 / (dutyFrac (s.rd .PWM_DUTY_FW_MAX_DUTY k)).2

/-- REF_EN switches the reference and its readiness is shown; a calibration runs when the reference is ready, and its factors are stored when they lie within the bounds of R320 and otherwise the old ones stay with CAL_FAIL; a scan conversion joins the queue and becomes the latest of its channel, and an urgent request of an idle converter runs at once; a read of the queue takes the oldest entry; a stale cross-check makes PL_OK 0. Of each of these commands it says that exec answers a next state, under the conditions named: MON_REF_EN, MON_REF_READY, MON_CAL, MON_CAL_DONE, MON_CONVERSION_DONE, MON_URGENT, MON_QUEUE_READ, PL_STALE. (R319, R320, R321, R322, R323, R325) -/
def Obligations.MonitorConverters : Prop :=
  (∀ (s : State) (x : ConvIx), s.canonical →
    ∃ t, Sys2Proof.Machine.exec (.monRefEn x true) s = Host.Outcome.next t ∧
      t.rd .MON_CTRL_REF_EN x = 1 ∧
      t.rd .MON_STATUS_REF_READY x = s.rd .MON_STATUS_REF_READY x) ∧
  (∀ (s : State) (x : ConvIx), s.canonical →
    ∃ t, Sys2Proof.Machine.exec (.monRefEn x false) s = Host.Outcome.next t ∧
      t.rd .MON_CTRL_REF_EN x = 0 ∧
      t.rd .MON_STATUS_REF_READY x = 0) ∧
  (∀ (s : State) (x : ConvIx), s.canonical →
    s.rd .MON_CTRL_REF_EN x = 1 →
    ∃ t, Sys2Proof.Machine.exec (.monRefReady x) s = Host.Outcome.next t ∧
      t.rd .MON_STATUS_REF_READY x = 1 ∧
      t.convs = s.convs) ∧
  (∀ (s : State) (x : ConvIx), s.canonical →
    s.rd .MON_STATUS_REF_READY x = 1 →
    s.rd .MON_STATUS_CALIBRATING x = 0 →
    ∃ t, Sys2Proof.Machine.exec (.monCal x) s = Host.Outcome.next t ∧
      t.rd .MON_STATUS_CALIBRATING x = 1 ∧
      (t.conv x).mask = 0) ∧
  (∀ (s : State) (x : ConvIx), s.canonical →
    s.rd .MON_STATUS_REF_READY x = 0 →
    ∃ t, Sys2Proof.Machine.exec (.monCal x) s = Host.Outcome.next t ∧
      t.rd .MON_STATUS_CAL_REFUSED x = 1 ∧
      t.rd .MON_STATUS_CALIBRATING x = s.rd .MON_STATUS_CALIBRATING x) ∧
  (∀ (s : State) (x : ConvIx) (f : Int × Int), s.canonical →
    s.rd .MON_STATUS_CALIBRATING x = 1 →
    factorsOk f (s.factory.mon.getD x (0, 4194304)) = true →
    ∃ t, Sys2Proof.Machine.exec (.monCalDone x (some f)) s = Host.Outcome.next t ∧
      t.rd .MON_STATUS_CALIBRATING x = 0 ∧
      t.rd .MON_STATUS_CAL_OK x = 1 ∧
      t.rd .MON_CAL_OFS_OFS x = wrapBits 16 f.1 ∧
      t.rd .MON_CAL_GAIN_GAIN x = f.2.toNat % 2 ^ Field.MON_CAL_GAIN_GAIN.row.width) ∧
  (∀ (s : State) (x : ConvIx), s.canonical →
    s.rd .MON_STATUS_CALIBRATING x = 1 →
    ∃ t, Sys2Proof.Machine.exec (.monCalDone x none) s = Host.Outcome.next t ∧
      t.rd .MON_STATUS_CALIBRATING x = 0 ∧
      t.rd .MON_STATUS_CAL_OK x = 0 ∧
      t.rd .MON_STATUS_CAL_FAIL x = 1 ∧
      t.rd .MON_CAL_OFS_OFS x = s.rd .MON_CAL_OFS_OFS x ∧
      t.faultWaits 0xB0 0x52 = true) ∧
  (∀ (s : State) (x : ConvIx) (code : BitVec 16) (ch : Nat) (redo : Bool), s.canonical →
    (s.conv x).job = Job.scan ch redo →
    (s.conv x).queue.length < 128 →
    ∃ t, Sys2Proof.Machine.exec (.monConversionDone x code) s = Host.Outcome.next t ∧
      (t.conv x).queue = (s.conv x).queue ++ [monEntry code.toNat ch false redo (!s.is .MON_PLAUS_PL_OK) (!s.is .MON_STATUS_REF_READY x || !s.is .MON_STATUS_CAL_OK x) 0] ∧
      t.rd .MON_QLEVEL_LEVEL x = ((s.conv x).queue.length + 1) % 2 ^ Field.MON_QLEVEL_LEVEL.row.width ∧
      t.rd .MON_LAST_CODE ch = code.toNat ∧
      t.rd .MON_LAST_VALID ch = 1 ∧
      t.rd .MON_CONV_CONVERSIONS x = (s.rd .MON_CONV_CONVERSIONS x + 1) % 2 ^ Field.MON_CONV_CONVERSIONS.row.width) ∧
  (∀ (s : State) (x : ConvIx) (w : Word), s.canonical →
    s.rd .MON_CTRL_REF_EN x = 1 →
    s.rd .MON_STATUS_CALIBRATING x = 0 →
    (s.conv x).job = Job.idle →
    ∃ t, Sys2Proof.Machine.exec (.monUrgent x w) s = Host.Outcome.next t ∧
      (t.conv x).job = Job.urgent (bits 0 5 w.toNat) (bits 5 4 w.toNat) ∧
      t.rd .MON_STATUS_URG_BUSY x = 1) ∧
  (∀ (s : State) (x : ConvIx) (w : Word), s.canonical →
    s.rd .MON_CTRL_REF_EN x = 0 →
    ∃ t, Sys2Proof.Machine.exec (.monUrgent x w) s = Host.Outcome.next t ∧
      t.rd .MON_STATUS_URG_REFUSED x = 1 ∧
      t.convs = s.convs) ∧
  (∀ (s : State) (q : CoreIx) (x : ConvIx) (e : Word) (es : List Word), s.canonical →
    (s.conv x).queue = e :: es →
    ∃ t, Sys2Proof.Machine.exec (.monQueueRead q x) s = Host.Outcome.next t ∧
      (t.reader q).data = e ∧
      (t.conv x).queue = es ∧
      t.rd .MON_QLEVEL_LEVEL x = es.length % 2 ^ Field.MON_QLEVEL_LEVEL.row.width) ∧
  (∀ (s : State), s.canonical →
    ∃ t, Sys2Proof.Machine.exec (.plStale) s = Host.Outcome.next t ∧
      t.rd .MON_PLAUS_PL_STALE = 1 ∧
      t.rd .MON_PLAUS_PL_OK = 0 ∧
      t.plRun = 0)

/-- The oldest assert message of effective level 0 is a notice and fences nothing; one of a higher level fills an empty first-source latch and every unit its fence covers is fenced; while the latch is full it keeps its message and counts the overflow; a clear message ends its condition and leaves every fence; an injection in a factory image sends the message held, and without one is refused. Of each of these commands it says that exec answers a next state, under the conditions named: FAULT_MESSAGE, FAULT_CLEAR, FCL_INJECT. (R327, R330, R331, R335, R341) -/
def Obligations.CollectorAccepts : Prop :=
  (∀ (s : State) (m : FaultMsg) (ms : List FaultMsg), s.canonical →
    s.net.msgs = m :: ms →
    m.clear = false →
    (s.effective m).1 = 0 →
    ∃ t, Sys2Proof.Machine.exec (.faultMessage) s = Host.Outcome.next t ∧
      t.net.msgs = ms ∧
      t.fcl.fences = s.fcl.fences ∧
      t.rd .FCL_COUNT_NOTICES 0 = min (s.rd .FCL_COUNT_NOTICES 0 + 1) (2 ^ Field.FCL_COUNT_NOTICES.row.width - 1) ∧
      t.rd .FCL_STATUS_LATCHED = s.rd .FCL_STATUS_LATCHED) ∧
  (∀ (s : State) (m : FaultMsg) (ms : List FaultMsg) (u : Nat), s.canonical →
    s.net.msgs = m :: ms →
    m.clear = false →
    m.inj = false →
    1 ≤ (s.effective m).1 →
    s.rd .FCL_STATUS_LATCHED = 0 →
    u ∈ s.cover m.source (s.effective m).1 →
    ∃ t, Sys2Proof.Machine.exec (.faultMessage) s = Host.Outcome.next t ∧
      t.fenced u = true ∧
      t.rd .FCL_STATUS_LATCHED = 1 ∧
      t.rd .FCL_FIRST_MSG 0 = m.word0 % 2 ^ 32 ∧
      t.rd .FCL_FIRST_INFO_EFF_LEVEL = (s.effective m).1 ∧
      t.rd .FCL_FIRST_INFO_TAG = (s.rd .FCL_FIRST_INFO_TAG + 1) % 256) ∧
  (∀ (s : State) (m : FaultMsg) (ms : List FaultMsg), s.canonical →
    s.net.msgs = m :: ms →
    m.clear = false →
    m.inj = false →
    1 ≤ (s.effective m).1 →
    s.rd .FCL_STATUS_LATCHED = 1 →
    ∃ t, Sys2Proof.Machine.exec (.faultMessage) s = Host.Outcome.next t ∧
      t.rd .FCL_FIRST_INFO_OVF = 1 ∧
      t.rd .FCL_FIRST_INFO_OVF_COUNT 0 = min (s.rd .FCL_FIRST_INFO_OVF_COUNT 0 + 1) (2 ^ Field.FCL_FIRST_INFO_OVF_COUNT.row.width - 1) ∧
      t.rd .FCL_FIRST_MSG 0 = s.rd .FCL_FIRST_MSG 0 ∧
      t.rd .FCL_FIRST_INFO_TAG = s.rd .FCL_FIRST_INFO_TAG) ∧
  (∀ (s : State) (m : FaultMsg) (ms : List FaultMsg), s.canonical →
    s.net.msgs = m :: ms →
    m.clear = true →
    ∃ t, Sys2Proof.Machine.exec (.faultClear) s = Host.Outcome.next t ∧
      t.net.msgs = ms ∧
      (⟨m.source, m.cause, m.inj⟩ : Cond) ∉ t.fcl.conds ∧
      t.fcl.fences = s.fcl.fences) ∧
  (∀ (s : State) (q : CoreIx) (w : Word), s.canonical →
    s.rd .FCL_STATUS_FACTORY = 1 →
    s.net.msgs = [] →
    ∃ t, Sys2Proof.Machine.exec (.fclInject q w) s = Host.Outcome.next t ∧
      t.net.msgs.map (fun m => (FaultMsg.source m, FaultMsg.cause m, FaultMsg.inj m, FaultMsg.detail m)) = [(bits 0 8 (s.rd .FCL_INJECT_LO_W0), bits 8 8 (s.rd .FCL_INJECT_LO_W0), true, w.toNat)]) ∧
  (∀ (s : State) (q : CoreIx) (w : Word), s.canonical →
    s.rd .FCL_STATUS_FACTORY = 0 →
    ∃ t, Sys2Proof.Machine.exec (.fclInject q w) s = Host.Outcome.next t ∧
      t.rd .FCL_STATUS_INJ_REFUSED = 1 ∧
      t.net = s.net)

/-- An acknowledgement with the right TAG empties its latch and closes the class, one with another TAG is refused, and a host's does nothing while the field side is down; a class acknowledgement with ALL closes the classes it names; after its quiet period a source without an open condition recovers unless RECOV_MAX recoveries lie in the last hour; a release of a source without an open condition drops its fence and counts as a recovery, and with one is refused; ALIVE toggles only while no fence of level 2 is in force. Of each of these commands it says that exec answers a next state, under the conditions named: FCL_ACK, FCL_ACK_INJ, FCL_ACK_CLASS, FENCE_RECOVERY, FCL_RELEASE, ALIVE_TOGGLE. (R336, R337, R338, R339, R340) -/
def Obligations.AcknowledgementAndRecovery : Prop :=
  (∀ (s : State) (who : Requester) (x : BitVec 8), s.canonical →
    s.reaches who = true →
    s.rd .FCL_STATUS_LATCHED = 1 →
    s.rd .FCL_FIRST_INFO_TAG = x.toNat →
    ∃ t, Sys2Proof.Machine.exec (.fclAck who x) s = Host.Outcome.next t ∧
      t.rd .FCL_STATUS_LATCHED = 0 ∧
      t.rd .FCL_FIRST_INFO_OVF_COUNT = 0 ∧
      t.fcl.classes = s.fcl.classes.filter fun (c : FaultClass) => !c.names (bits 0 8 (s.rd .FCL_FIRST_MSG 0)) (bits 8 8 (s.rd .FCL_FIRST_MSG 0)) false ∧
      t.fcl.fences = s.fcl.fences) ∧
  (∀ (s : State) (who : Requester) (x : BitVec 8), s.canonical →
    s.reaches who = true →
    s.rd .FCL_FIRST_INFO_TAG ≠ x.toNat →
    ∃ t, Sys2Proof.Machine.exec (.fclAck who x) s = Host.Outcome.next t ∧
      t.rd .FCL_STATUS_ACK_REFUSED = 1 ∧
      t.rd .FCL_STATUS_LATCHED = s.rd .FCL_STATUS_LATCHED ∧
      t.fcl = s.fcl) ∧
  (∀ (s : State) (x : BitVec 8), s.canonical →
    s.rd .SCR_HSTATUS_FIELD_UP = 0 →
    ∃ t, Sys2Proof.Machine.exec (.fclAck .host x) s = Host.Outcome.next t ∧
      t.fcl = s.fcl ∧
      t.rd .FCL_STATUS_LATCHED = s.rd .FCL_STATUS_LATCHED ∧
      t.rd .SCR_HCOUNT_ABSENT 0 = min (s.rd .SCR_HCOUNT_ABSENT 0 + 1) (2 ^ Field.SCR_HCOUNT_ABSENT.row.width - 1)) ∧
  (∀ (s : State) (q : CoreIx) (x : BitVec 8), s.canonical →
    s.rd .FCL_STATUS_INJ_LATCHED = 1 →
    s.rd .FCL_INJ_INFO_TAG = x.toNat →
    ∃ t, Sys2Proof.Machine.exec (.fclAckInj q x) s = Host.Outcome.next t ∧
      t.rd .FCL_STATUS_INJ_LATCHED = 0 ∧
      t.rd .FCL_STATUS_LATCHED = s.rd .FCL_STATUS_LATCHED ∧
      t.fcl.classes = s.fcl.classes.filter fun (c : FaultClass) => !c.names (bits 0 8 (s.rd .FCL_INJ_MSG 0)) (bits 8 8 (s.rd .FCL_INJ_MSG 0)) true) ∧
  (∀ (s : State) (q : CoreIx) (w : Word), s.canonical →
    bit 17 w.toNat = true →
    ∃ t, Sys2Proof.Machine.exec (.fclAckClass q w) s = Host.Outcome.next t ∧
      t.fcl.classes = s.fcl.classes.filter fun (c : FaultClass) => !(c.inj == bit 18 w.toNat && (bit 16 w.toNat || (c.source == bits 0 8 w.toNat && c.cause == bits 8 8 w.toNat))) ∧
      t.fcl.fences = s.fcl.fences) ∧
  (∀ (s : State) (u : BitVec 8) (f : Fence), s.canonical →
    s.fcl.fences.find? (fun g => Fence.source g == u.toNat) = some f →
    u.toNat ≠ bypassUnit →
    s.quiet u.toNat = true →
    s.fcl.conds.any (fun c => Cond.source c == u.toNat) = false →
    u.toNat ∉ s.fcl.limited →
    s.recentRecoveries u.toNat < s.rd .FCL_LIMIT_RECOV_MAX →
    ∃ t, Sys2Proof.Machine.exec (.fenceRecovery u) s = Host.Outcome.next t ∧
      t.fcl.fences = s.fcl.fences.filter fun (g : Fence) => g.source != f.source ∧
      isUnit u.toNat = false ∨ t.rd .FCL_UNIT_RECOVERIES u.toNat = min (s.rd .FCL_UNIT_RECOVERIES u.toNat + 1) (2 ^ Field.FCL_UNIT_RECOVERIES.row.width - 1)) ∧
  (∀ (s : State) (u : BitVec 8) (f : Fence), s.canonical →
    s.fcl.fences.find? (fun g => Fence.source g == u.toNat) = some f →
    u.toNat ≠ bypassUnit →
    s.quiet u.toNat = true →
    s.fcl.conds.any (fun c => Cond.source c == u.toNat) = false →
    u.toNat ∉ s.fcl.limited →
    s.rd .FCL_LIMIT_RECOV_MAX ≤ s.recentRecoveries u.toNat →
    ∃ t, Sys2Proof.Machine.exec (.fenceRecovery u) s = Host.Outcome.next t ∧
      t.fcl.fences = s.fcl.fences ∧
      u.toNat ∈ t.fcl.limited ∧
      isUnit u.toNat = false ∨ t.rd .FCL_UNIT_LIMITED u.toNat = 1) ∧
  (∀ (s : State) (q : CoreIx) (w : Word) (f : Fence), s.canonical →
    bit 8 w.toNat = true →
    s.fcl.fences.find? (fun g => Fence.source g == bits 0 8 w.toNat) = some f →
    f.causes.any (fun c => s.fcl.conds.contains c) = false →
    ∃ t, Sys2Proof.Machine.exec (.fclRelease q w) s = Host.Outcome.next t ∧
      t.fcl.fences = s.fcl.fences.filter fun (g : Fence) => g.source != f.source ∧
      t.fcl.recoveries.getLast? = some (f.source, s.clk.tick)) ∧
  (∀ (s : State) (q : CoreIx) (w : Word) (f : Fence), s.canonical →
    bit 8 w.toNat = true →
    s.fcl.fences.find? (fun g => Fence.source g == bits 0 8 w.toNat) = some f →
    f.causes.any (fun c => s.fcl.conds.contains c) = true →
    ∃ t, Sys2Proof.Machine.exec (.fclRelease q w) s = Host.Outcome.next t ∧
      t.rd .FCL_STATUS_REL_REFUSED = 1 ∧
      t.fcl = s.fcl) ∧
  (∀ (s : State), s.canonical →
    s.kct.powered = true →
    s.rd .KCT_STATUS_LOCKED = 1 →
    s.maxFence < 2 →
    ∃ t, Sys2Proof.Machine.exec (.aliveToggle) s = Host.Outcome.next t ∧
      t.fcl.alive = !s.fcl.alive ∧
      t.rd .FCL_STATUS_ALIVE_RUN = 1) ∧
  (∀ (s : State), s.canonical →
    2 ≤ s.maxFence →
    ∃ t, Sys2Proof.Machine.exec (.aliveToggle) s = Host.Outcome.next t ∧
      t.fcl.alive = false ∧
      t.rd .FCL_STATUS_ALIVE_RUN = 0)

/-- A sample of a powered die is its reading, and the third in a row at or above TRIP of a die that is not suspect trips it; a tripped front-end die mutes the band paths that emit there and asserts cause 0x0C, and die M fences every unit; thermal hold takes the power of the field side away, counts and keeps the RESTART threshold; in the hold a sample of die M keeps since when it stands at or below that threshold; a thermal restart after 10 s there, of a module with fewer than three in the last 24 h, starts anew and notes the restart, and one that is not due, or a fourth, is refused; FW_WARN stores at most WARN. Of each of these commands it says that exec answers a next state, under the conditions named: THERMAL_SAMPLE, G4_TEMP, THERMAL_HOLD, THERMAL_RESTART, FW_WARN_WRITE. (R347, R348, R352, R353, R355, R356, R359) -/
def Obligations.TemperatureTrips : Prop :=
  (∀ (s : State) (e : DieIx) (r : BitVec 16), s.canonical →
    s.kct.powered = true →
    -3520 ≤ r.toInt →
    r.toInt ≤ 9600 →
    ∃ t, Sys2Proof.Machine.exec (.thermalSample e (some r)) s = Host.Outcome.next t ∧
      t.rd .THM_TEMP_TEMP e = r.toNat ∧
      (t.die e).good = true ∧
      (t.die e).seen = true ∧
      s.rdS .THM_RATE_MAX_T e ≤ t.rdS .THM_RATE_MAX_T e ∨ (s.die e).seen = false) ∧
  (∀ (s : State) (e : DieIx) (r : BitVec 16), s.canonical →
    s.kct.powered = true →
    -3520 ≤ r.toInt →
    r.toInt ≤ 9600 →
    s.rd .THM_TEMP_SUSPECT e = 0 →
    (s.die e).differs < 2 →
    (s.die e).tripRun = 2 →
    s.rd .THM_TEMP_TRIPPED e = 0 →
    s.tripAt e ≤ r.toInt →
    ∃ t, Sys2Proof.Machine.exec (.thermalSample e (some r)) s = Host.Outcome.next t ∧
      t.rd .THM_TEMP_TRIPPED e = 1) ∧
  (∀ (s : State) (e : DieIx) (p : PortIx) (n : BpIx), s.canonical →
    e.val = p.val + 1 →
    s.rd .THM_TEMP_TRIPPED e = 1 →
    (s.die e).reacted = false →
    n.val ∈ s.windowOut p →
    ∃ t, Sys2Proof.Machine.exec (.g4Temp e) s = Host.Outcome.next t ∧
      muteG4 p ∈ (t.bp n).mutes ∧
      t.faultWaits (0x80 + p) 0x0C = true ∧
      (t.die e).reacted = true) ∧
  (∀ (s : State) (u : Nat), s.canonical →
    s.rd .THM_TEMP_TRIPPED 0 = 1 →
    (s.die 0).reacted = false →
    u ∈ allUnits →
    ∃ t, Sys2Proof.Machine.exec (.g4Temp 0) s = Host.Outcome.next t ∧
      t.thm.tripped = true ∧
      t.fenced u = true ∧
      t.faultWaits 0xB1 0x0C = true) ∧
  (∀ (s : State), s.canonical →
    s.thm.tripped = true →
    ∃ t, Sys2Proof.Machine.exec (.thermalHold false) s = Host.Outcome.next t ∧
      t.thm.hold = true ∧
      t.kct.powered = false ∧
      t.thm.restartAt = s.restartAt 0 ∧
      t.kct.shutTotal = (s.kct.shutTotal + 1) % 65536 ∧
      t.clk = s.clk) ∧
  (∀ (s : State) (e : StartEnv), s.canonical →
    s.thm.hold = true →
    s.cooled = true →
    s.recentRestarts.length < 3 →
    ∃ t, Sys2Proof.Machine.exec (.thermalRestart e) s = Host.Outcome.next t ∧
      t.thm.hold = false ∧
      t.thm.restarts = s.clk.tick :: s.recentRestarts ∧
      (t.rd .KCT_STATUS_STATE = 5 ∨ (t.rd .KCT_STATUS_LOCKED = 1 ∧ t.rd .PCR_CTRL_RUN = 15)) ∧
      t.clk.tick = s.clk.tick) ∧
  (∀ (s : State) (e : StartEnv), s.canonical →
    s.thm.hold = true →
    3 ≤ s.recentRestarts.length →
    ∃ t, Sys2Proof.Machine.exec (.thermalRestart e) s = Host.Outcome.next t ∧
      t = s) ∧
  (∀ (s : State) (e : StartEnv), s.canonical →
    s.thm.hold = true →
    s.cooled = false →
    ∃ t, Sys2Proof.Machine.exec (.thermalRestart e) s = Host.Outcome.next t ∧
      t = s) ∧
  (∀ (s : State) (r : BitVec 16), s.canonical →
    s.kct.powered = false →
    s.thm.hold = true →
    ∃ t, Sys2Proof.Machine.exec (.thermalSample 0 (some r)) s = Host.Outcome.next t ∧
      t.thm.coolFrom = (if r.toInt ≤ s.thm.restartAt then some (s.thm.coolFrom.getD s.clk.tick) else none) ∧
      t.regs = s.regs) ∧
  (∀ (s : State) (e : DieIx) (v : BitVec 16), s.canonical →
    ∃ t, Sys2Proof.Machine.exec (.fwWarnWrite e v) s = Host.Outcome.next t ∧
      t.rdS .THM_LIM1_FW_WARN e = min (signed 16 v.toNat) (s.rdS .THM_LIM_WARN e) ∧
      t.rd .THM_LIM_WARN e = s.rd .THM_LIM_WARN e)

/-- The oldest queued event becomes the record with the next number, never above the mark; an uncorrectable error of the external ring ends its use with cause 0x61; a flood that has drained to 16 ends with one summary for each counted pair; a mark near the next number moves up by 65,536 in an open flash window and waits otherwise; firmware queues its record. Of each of these commands it says that exec answers a next state, under the conditions named: FRESCO_RECORD_WRITE, FLOOD_END, FRESCO_MARK, FIRMWARE. (R360, R361, R364, R366, R367) -/
def Obligations.FrescoRecords : Prop :=
  (∀ (s : State) (e : FrEvent) (es : List FrEvent), s.canonical →
    s.frs.queue = e :: es →
    s.frs.next ≤ s.frs.mark →
    s.rd .FRS_STATUS_MEDIUM_FAIL = 0 →
    Store.wf (fun _ => none) s.frs.ring = true →
    ∃ t, Sys2Proof.Machine.exec (.frescoRecordWrite false) s = Host.Outcome.next t ∧
      t.frs.queue = es ∧
      t.frs.next = s.frs.next + 1 ∧
      (t.ringAt s.frs.next).map (fun r => (FrRecord.seq r, FrRecord.type r, FrRecord.source r, FrRecord.time r, FrRecord.body r)) = some (s.frs.next, e.type, e.source, e.time, e.body)) ∧
  (∀ (s : State) (b : Bool), s.canonical →
    s.frs.mark < s.frs.next →
    ∃ t, Sys2Proof.Machine.exec (.frescoRecordWrite b) s = Host.Outcome.next t ∧
      t = s) ∧
  (∀ (s : State) (e : FrEvent) (es : List FrEvent), s.canonical →
    s.frs.queue = e :: es →
    s.frs.next ≤ s.frs.mark →
    s.rd .FRS_STATUS_MEDIUM_FAIL = 0 →
    ∃ t, Sys2Proof.Machine.exec (.frescoRecordWrite true) s = Host.Outcome.next t ∧
      t.rd .FRS_STATUS_MEDIUM_FAIL = 1 ∧
      t.frs.queue = e :: es ∧
      t.frs.next = s.frs.next + 1 ∧
      t.faultWaits 0xB2 0x61 = true) ∧
  (∀ (s : State), s.canonical →
    s.rd .FRS_STATUS_FLOOD = 1 →
    s.frs.queue.length ≤ 16 →
    ∃ t, Sys2Proof.Machine.exec (.floodEnd) s = Host.Outcome.next t ∧
      t.rd .FRS_STATUS_FLOOD = 0 ∧
      t.frs.queue = s.frs.queue ++ summaries s.frs.pairs ∧
      t.frs.pairs = []) ∧
  (∀ (s : State), s.canonical →
    s.frs.mark ≤ s.frs.next + 4096 →
    s.rd .THM_FLASH_WIN_OPEN = 1 →
    ∃ t, Sys2Proof.Machine.exec (.frescoMark) s = Host.Outcome.next t ∧
      t.frs.mark = s.frs.mark + 65536 ∧
      t.frs.next = s.frs.next) ∧
  (∀ (s : State), s.canonical →
    s.frs.mark ≤ s.frs.next + 4096 →
    s.rd .THM_FLASH_WIN_OPEN = 0 →
    ∃ t, Sys2Proof.Machine.exec (.frescoMark) s = Host.Outcome.next t ∧
      t.frs = s.frs ∧
      t.rd .THM_FLASH_WAITED = 1) ∧
  (∀ (s : State) (q : CoreIx), s.canonical →
    s.rd .FRS_STATUS_FLOOD = 0 →
    s.frs.queue.length < 64 →
    ∃ t, Sys2Proof.Machine.exec (.firmware q) s = Host.Outcome.next t ∧
      t.frs.queue.length = s.frs.queue.length + 1 ∧
      t.frs.queue.getLast?.map (fun e => (FrEvent.type e, FrEvent.source e, FrEvent.time e)) = some (0x40, s.rd .FRS_FW_CTRL_SOURCE, s.now))

/-- A flush in an open flash window programs the next record into the next slot and shows it, and a failed program counts and is retried in another slot, the third in a row being BB_FAIL; a clear code that matches empties the rings and starts the erase, a wrong one is refused, counted and locks clears at the eighth; the host reaches the clear only while Scrim is up; the erase empties the black box; a selection of the black box is copied before it is ready. Of each of these commands it says that exec answers a next state, under the conditions named: BB_FLUSH, FRS_CLEAR, FRS_ERASE_DONE, CLR_LOCK_END, FRS_RD_SEL_WRITE, FRS_COPY_DONE. (R363, R365, R368, R369) -/
def Obligations.BlackBox : Prop :=
  (∀ (s : State) (r : FrRecord), s.canonical →
    s.frs.flushNext < s.frs.next →
    s.rd .FRS_STATUS_BB_FAIL = 0 →
    s.frs.copying = false →
    s.rd .FRS_STATUS_CLEARING = 0 →
    s.rd .THM_FLASH_WIN_OPEN = 1 →
    s.ringAt s.frs.flushNext = some r →
    Store.wf (fun _ => .erased) s.frs.blackBox = true →
    ∃ t, Sys2Proof.Machine.exec (.bbFlush true) s = Host.Outcome.next t ∧
      t.frs.flushed = s.frs.flushNext ∧
      t.frs.flushNext = s.frs.flushNext + 1 ∧
      Store.get (fun _ => BbSlot.erased) t.frs.blackBox s.frs.bbNext = BbSlot.record r ∧
      t.rd .FRS_BB_NEWEST = s.frs.bbNext % 2 ^ Field.FRS_BB_NEWEST.row.width) ∧
  (∀ (s : State) (r : FrRecord), s.canonical →
    s.frs.flushNext < s.frs.next →
    s.rd .FRS_STATUS_BB_FAIL = 0 →
    s.frs.copying = false →
    s.rd .FRS_STATUS_CLEARING = 0 →
    s.rd .THM_FLASH_WIN_OPEN = 1 →
    s.ringAt s.frs.flushNext = some r →
    ∃ t, Sys2Proof.Machine.exec (.bbFlush false) s = Host.Outcome.next t ∧
      t.frs.flushNext = s.frs.flushNext ∧
      t.frs.bbNext = (s.frs.bbNext + 1) % 16384 ∧
      t.rd .FRS_COUNT1_FLASH_ERR 0 = min (s.rd .FRS_COUNT1_FLASH_ERR 0 + 1) (2 ^ Field.FRS_COUNT1_FLASH_ERR.row.width - 1) ∧
      s.frs.flashErrs < 2 ∨ t.rd .FRS_STATUS_BB_FAIL = 1) ∧
  (∀ (s : State) (who : Requester) (w : Word), s.canonical →
    s.reaches who = true →
    s.rd .FRS_STATUS_CLR_LOCK = 0 →
    s.rd .FRS_AUTH_ID_ID (s.rd .FRS_CLR_ID_INDEX) ≠ 0 →
    s.rd .FRS_CLR_CODE_LO_CODE + w.toNat * 2 ^ 32 = s.clearCode (s.rd .FRS_CLR_ID_INDEX) (s.rd2 .FRS_NONCE_LO_NONCE .FRS_NONCE_HI_NONCE) →
    ∃ t, Sys2Proof.Machine.exec (.frsClear who w) s = Host.Outcome.next t ∧
      t.frs.ring = [] ∧
      t.frs.dieRing = [] ∧
      t.rd .FRS_STATUS_CLEARING = 1 ∧
      t.frs.clearJournalled = true ∧
      t.frs.refusals = 0) ∧
  (∀ (s : State) (who : Requester) (w : Word), s.canonical →
    s.reaches who = true →
    s.rd .FRS_STATUS_CLR_LOCK = 0 →
    s.rd .FRS_AUTH_ID_ID (s.rd .FRS_CLR_ID_INDEX) = 0 →
    ∃ t, Sys2Proof.Machine.exec (.frsClear who w) s = Host.Outcome.next t ∧
      t.rd .FRS_STATUS_CLR_REFUSED = 1 ∧
      t.frs.refusals = s.frs.refusals + 1 ∧
      t.frs.ring = s.frs.ring ∧
      s.frs.refusals < 7 ∨ t.rd .FRS_STATUS_CLR_LOCK = 1) ∧
  (∀ (s : State) (w : Word), s.canonical →
    s.rd .SCR_HSTATUS_FIELD_UP = 0 →
    ∃ t, Sys2Proof.Machine.exec (.frsClear .host w) s = Host.Outcome.next t ∧
      t.frs = s.frs ∧
      t.rd .SCR_HCOUNT_ABSENT = min (s.rd .SCR_HCOUNT_ABSENT + 1) (2 ^ Field.SCR_HCOUNT_ABSENT.row.width - 1)) ∧
  (∀ (s : State), s.canonical →
    s.rd .FRS_STATUS_CLEARING = 1 →
    s.rd .THM_FLASH_WIN_OPEN = 1 →
    ∃ t, Sys2Proof.Machine.exec (.frsEraseDone) s = Host.Outcome.next t ∧
      t.frs.blackBox = [] ∧
      t.frs.bbNext = 0 ∧
      t.rd .FRS_STATUS_CLEARING = 0) ∧
  (∀ (s : State), s.canonical →
    s.rd .FRS_STATUS_CLR_LOCK = 1 →
    ∃ t, Sys2Proof.Machine.exec (.clrLockEnd) s = Host.Outcome.next t ∧
      t.rd .FRS_STATUS_CLR_LOCK = 0 ∧
      t.frs.refusals = 0) ∧
  (∀ (s : State) (w : Word), s.canonical →
    ∃ t, Sys2Proof.Machine.exec (.frsRdSelWrite w) s = Host.Outcome.next t ∧
      t.rd .FRS_RD_SEL_SLOT = bits 0 20 w.toNat ∧
      t.rd .FRS_RD_SEL_SRC = bits 20 2 w.toNat ∧
      t.rd .FRS_RD_SEL_READY = flag (decide (bits 20 2 w.toNat < 2)) ∧
      t.frs.copying = (bits 20 2 w.toNat == 2)) ∧
  (∀ (s : State), s.canonical →
    s.frs.copying = true →
    ∃ t, Sys2Proof.Machine.exec (.frsCopyDone) s = Host.Outcome.next t ∧
      t.frs.window = (Store.get (fun _ => BbSlot.erased) s.frs.blackBox (s.rd .FRS_RD_SEL_SLOT % 16384)).bytes ∧
      t.frs.copying = false ∧
      t.rd .FRS_RD_SEL_READY = 1)

/-- At a gather boundary every counter takes its events and is copied; a gather in time and without a hold publishes all copies at once, and a late one does not; a read of the low word latches the high word; the host reads only with HOST_RD and while Scrim is up, and a selection of the host needs HOST_PROG and a counter from 208; and a selection stops its counter until the next boundary; a hold ends by its timeout; a sample of a tagged instruction joins the buffer of 1,024 or is dropped, and firmware's fourth read of a record removes it. Of each of these commands it says that exec answers a next state, under the conditions named: GATHER_BOUNDARY, GATHER_PUBLISH, CNT_LO_READ, CNT_SEL_WRITE, HOLD_TO, PRECISE_SAMPLE, CNT_PS_DATA_READ. (R375, R376, R377, R378, R379, R381, R383) -/
def Obligations.Counters : Prop :=
  (∀ (s : State) (c : Fin 224), s.canonical →
    s.clk.tick % 100 = 0 →
    s.cnt.gathered ≠ s.clk.tick + 1 →
    s.rd .CNT_HI_PEND c = 0 →
    Store.wf (fun _ => 0) s.cnt.live = true →
    Store.wf (fun _ => 0) s.cnt.copies = true →
    ∃ t, Sys2Proof.Machine.exec (.gatherBoundary) s = Host.Outcome.next t ∧
      t.cnt.value c = (s.cnt.value c + s.counted c) % 2 ^ 48 ∧
      Store.get (fun _ => 0) t.cnt.copies c = (s.cnt.value c + s.counted c) % 2 ^ 48 ∧
      t.cnt.events = [] ∧
      t.cnt.copyIndex = s.cnt.copyIndex + 1 ∧
      t.cnt.copied = true) ∧
  (∀ (s : State) (c : Fin 224), s.canonical →
    s.cnt.copied = true →
    s.rd .CNT_CTRL_FW_HOLD = 0 →
    s.rd .CNT_CTRL_HOST_HOLD = 0 →
    ∃ t, Sys2Proof.Machine.exec (.gatherPublish false) s = Host.Outcome.next t ∧
      t.rd .CNT_LO_COUNT_LO c = Store.get (fun _ => 0) s.cnt.copies c % 2 ^ 32 ∧
      t.rd .CNT_HI_COUNT_HI c = Store.get (fun _ => 0) s.cnt.copies c / 2 ^ 32 % 2 ^ 16 ∧
      t.cnt.copied = false ∧
      t.cnt.time = s.cnt.copyTime) ∧
  (∀ (s : State), s.canonical →
    s.cnt.copied = true →
    ∃ t, Sys2Proof.Machine.exec (.gatherPublish true) s = Host.Outcome.next t ∧
      t.rd .CNT_STATUS_GATHER_LATE = 1 ∧
      t.cnt = s.cnt) ∧
  (∀ (s : State) (who : Requester) (c : Fin 224), s.canonical →
    s.reaches who = true →
    isHost who = false ∨ s.rd .CNT_CTRL_HOST_RD = 1 →
    ∃ t, Sys2Proof.Machine.exec (.cntLoRead who c) s = Host.Outcome.next t ∧
      (t.reader (requesterIx who)).data = BitVec.ofNat 32 (s.rd .CNT_LO_COUNT_LO c) ∧
      (t.reader (requesterIx who)).count = some (⟨c, BitVec.ofNat 32 (s.cntHi c)⟩ : Latch) ∧
      t.regs = s.regs) ∧
  (∀ (s : State) (c : Fin 224), s.canonical →
    s.rd .SCR_HSTATUS_FIELD_UP = 1 →
    s.rd .CNT_CTRL_HOST_RD = 0 →
    ∃ t, Sys2Proof.Machine.exec (.cntLoRead .host c) s = Host.Outcome.next t ∧
      (t.reader 5).data = 0 ∧
      t.rd .CNT_STATUS_HOST_REFUSED = 1) ∧
  (∀ (s : State) (c : Fin 224), s.canonical →
    s.rd .SCR_HSTATUS_FIELD_UP = 0 →
    ∃ t, Sys2Proof.Machine.exec (.cntLoRead .host c) s = Host.Outcome.next t ∧
      t.scr.hostRead = [allOnes] ∧
      t.rd .CNT_STATUS_HOST_REFUSED = s.rd .CNT_STATUS_HOST_REFUSED ∧
      t.rd .SCR_HCOUNT_ABSENT 0 = min (s.rd .SCR_HCOUNT_ABSENT 0 + 1) (2 ^ Field.SCR_HCOUNT_ABSENT.row.width - 1) ∧
      t.readers = s.readers) ∧
  (∀ (s : State) (c : Fin 224) (w : Word) (q : CoreIx), s.canonical →
    s.rd .CNT_HI_PEND c = 0 →
    Store.wf (fun _ => 0) s.cnt.live = true →
    ∃ t, Sys2Proof.Machine.exec (.cntSelWrite (.core q) c w) s = Host.Outcome.next t ∧
      t.rd .CNT_HI_PEND c = 1 ∧
      t.rd .CNT_SEL_EVENT c = bits 0 8 w.toNat ∧
      t.cnt.value c = (s.cnt.value c + (s.remote q).counted c) % 2 ^ 48 ∧
      c.val < 208 ∨ t.rd .CNT_SEL_GROUP c = bits 8 3 w.toNat) ∧
  (∀ (s : State) (c : Fin 224) (w : Word), s.canonical →
    s.rd .SCR_HSTATUS_FIELD_UP = 1 →
    s.rd .CNT_CTRL_HOST_PROG = 0 ∨ c.val < 208 →
    ∃ t, Sys2Proof.Machine.exec (.cntSelWrite .host c w) s = Host.Outcome.next t ∧
      t.rd .CNT_STATUS_HOST_REFUSED = 1 ∧
      t.rd .CNT_SEL_EVENT c = s.rd .CNT_SEL_EVENT c) ∧
  (∀ (s : State), s.canonical →
    s.rd .CNT_CTRL_FW_HOLD = 1 ∨ s.rd .CNT_CTRL_HOST_HOLD = 1 →
    ∃ t, Sys2Proof.Machine.exec (.holdTo) s = Host.Outcome.next t ∧
      t.rd .CNT_CTRL_FW_HOLD = 0 ∧
      t.rd .CNT_CTRL_HOST_HOLD = 0 ∧
      t.rd .CNT_STATUS_HOLD_TO = 1 ∧
      t.rd .CNT_STATUS_HELD = 0) ∧
  (∀ (s : State) (q : CoreIx) (x : Sample), s.canonical →
    s.cnt.samples.length < 1024 →
    Store.get (fun _ => 0) s.cnt.tagged q ≠ 0 →
    Store.wf (fun _ => 0) s.cnt.tagged = true →
    ∃ t, Sys2Proof.Machine.exec (.preciseSample q x) s = Host.Outcome.next t ∧
      Store.get (fun _ => 0) t.cnt.tagged q = Store.get (fun _ => 0) s.cnt.tagged q - 1 ∧
      t.cnt.samples = s.cnt.samples ++ [s.sampleWords q x] ∧
      t.rd .CNT_PS_STATUS_LEVEL = (s.cnt.samples.length + 1) % 2 ^ Field.CNT_PS_STATUS_LEVEL.row.width ∧
      t.rd .CNT_PS_STATUS_DROPPED = s.rd .CNT_PS_STATUS_DROPPED) ∧
  (∀ (s : State) (q : CoreIx) (x : Sample), s.canonical →
    Store.get (fun _ => 0) s.cnt.tagged q = 0 →
    ∃ t, Sys2Proof.Machine.exec (.preciseSample q x) s = Host.Outcome.next t ∧
      t = s) ∧
  (∀ (s : State) (q : CoreIx) (ws : List Word) (rest : List (List Word)), s.canonical →
    s.cnt.samples = ws :: rest →
    s.cnt.sampleWord = 3 →
    ∃ t, Sys2Proof.Machine.exec (.cntPsDataRead (.core q)) s = Host.Outcome.next t ∧
      (t.reader q).data = ws.getD 3 0 ∧
      t.cnt.samples = rest ∧
      t.cnt.sampleWord = 0)

/-- A naturally aligned access becomes one or two REQ messages while credits last and waits otherwise; a read of an absent field side gives all ones and a write goes nowhere, both counted; a write with partial byte enables is dropped and counted; an access that is not naturally aligned is an unsupported request; the field end serves the oldest request, a read with its RSP credit; the result completes the oldest read; SCR_HSYNC reads 0 once nothing is outstanding; the loss of the link, the absence of the host and the re-establishment with full credits; credits come back. Of each of these commands it says that exec answers a next state, under the conditions named: HOST_FIELD_ACCESS, SCRIM_REQ, SCRIM_RSP, SCR_HSYNC_READ, FIELD_DOWN, HOST_ABSENT, SCRIM_LANE_DROP, SCRIM_SYNC, SCRIM_CREDIT_RETURN, EVT_MESSAGE, MSIX_UNMASK, SCR_FW_IRQ_WRITE. (R386, R387, R388, R389, R390, R391, R394, R288) -/
def Obligations.HostAccesses : Prop :=
  (∀ (s : State) (off : BitVec 20) (wide : Bool), s.canonical →
    off.toNat < 0x80000 →
    off.toNat % (4 * accessWords wide) = 0 →
    s.rd .SCR_HSTATUS_FIELD_UP = 1 →
    s.scr.stalled = [] →
    2 ≤ s.rd .SCR_HCREDIT_REQ →
    ∃ t, Sys2Proof.Machine.exec (.hostFieldAccess off wide none false) s = Host.Outcome.next t ∧
      t.scr.reqs = s.scr.reqs ++ reqsOf (⟨off.toNat, wide, none⟩ : HostAccess) ∧
      t.scr.reads = s.scr.reads ++ [accessWords wide] ∧
      t.rd .SCR_HCREDIT_REQ = s.rd .SCR_HCREDIT_REQ - accessWords wide) ∧
  (∀ (s : State) (off : BitVec 20) (wide : Bool) (w : Word64), s.canonical →
    off.toNat < 0x80000 →
    off.toNat % (4 * accessWords wide) = 0 →
    s.rd .SCR_HSTATUS_FIELD_UP = 1 →
    s.scr.stalled = [] →
    2 ≤ s.rd .SCR_HCREDIT_REQ →
    ∃ t, Sys2Proof.Machine.exec (.hostFieldAccess off wide (some w) false) s = Host.Outcome.next t ∧
      t.scr.reqs.length = s.scr.reqs.length + accessWords wide ∧
      (t.scr.reqs.drop s.scr.reqs.length).head? = some (⟨off.toNat, some (w.setWidth 32)⟩ : HostReq) ∧
      t.scr.reads = s.scr.reads) ∧
  (∀ (s : State) (off : BitVec 20) (wide : Bool) (write : Option Word64), s.canonical →
    off.toNat < 0x80000 →
    off.toNat % (4 * accessWords wide) = 0 →
    s.rd .SCR_HSTATUS_FIELD_UP = 1 →
    s.rd .SCR_HCREDIT_REQ = 0 →
    ∃ t, Sys2Proof.Machine.exec (.hostFieldAccess off wide write false) s = Host.Outcome.next t ∧
      t.scr.stalled.length = s.scr.stalled.length + 1 ∧
      t.scr.reqs = s.scr.reqs ∧
      t.regs = s.regs) ∧
  (∀ (s : State) (off : BitVec 20) (wide : Bool), s.canonical →
    off.toNat < 0x80000 →
    off.toNat % (4 * accessWords wide) = 0 →
    s.rd .SCR_HSTATUS_FIELD_UP = 0 →
    ∃ t, Sys2Proof.Machine.exec (.hostFieldAccess off wide none false) s = Host.Outcome.next t ∧
      t.scr.hostRead = List.replicate (accessWords wide) 0xFFFFFFFF#32 ∧
      t.rd .SCR_HCOUNT_ABSENT 0 = min (s.rd .SCR_HCOUNT_ABSENT 0 + 1) (2 ^ Field.SCR_HCOUNT_ABSENT.row.width - 1) ∧
      t.scr.reqs = s.scr.reqs) ∧
  (∀ (s : State) (off : BitVec 20) (wide : Bool) (write : Option Word64) (part : Bool), s.canonical →
    off.toNat % (4 * accessWords wide) ≠ 0 →
    off.toNat < 0x80000 →
    ∃ t, Sys2Proof.Machine.exec (.hostFieldAccess off wide write part) s = Host.Outcome.next t ∧
      t.regs = s.regs ∧
      t.scr.reqs = s.scr.reqs ∧
      t.scr.aer = s.scr.aer ||| 32#8) ∧
  (∀ (s : State) (off : BitVec 20) (wide : Bool) (w : Word64), s.canonical →
    off.toNat < 0x80000 →
    off.toNat % (4 * accessWords wide) = 0 →
    s.rd .SCR_HSTATUS_FIELD_UP = 1 →
    ∃ t, Sys2Proof.Machine.exec (.hostFieldAccess off wide (some w) true) s = Host.Outcome.next t ∧
      t.rd .SCR_HCOUNT_PARTIAL_WR 0 = min (s.rd .SCR_HCOUNT_PARTIAL_WR 0 + 1) (2 ^ Field.SCR_HCOUNT_PARTIAL_WR.row.width - 1) ∧
      t.scr = s.scr) ∧
  (∀ (s : State) (o : Nat) (rest : List HostReq), s.canonical →
    s.kct.powered = true →
    s.rd .SCR_FSTATUS_HOST_UP = 1 →
    s.scr.reqs = ⟨o, none⟩ :: rest →
    s.rd .SCR_FCREDIT_RSP ≠ 0 →
    s.rd .SCR_FCREDIT_RSP ≤ 32 →
    ∃ t, Sys2Proof.Machine.exec (.scrimReq) s = Host.Outcome.next t ∧
      t.scr.reqs = rest ∧
      t.scr.rsps.length = s.scr.rsps.length + 1 ∧
      t.rd .SCR_FCREDIT_RSP = s.rd .SCR_FCREDIT_RSP - 1) ∧
  (∀ (s : State), s.canonical →
    s.rd .SCR_FSTATUS_HOST_UP = 0 →
    ∃ t, Sys2Proof.Machine.exec (.scrimReq) s = Host.Outcome.next t ∧
      t = s) ∧
  (∀ (s : State) (w : Word) (rest : List Word) (k : Nat) (ks : List Nat), s.canonical →
    s.rd .SCR_HSTATUS_FIELD_UP = 1 →
    s.scr.rsps = w :: rest →
    s.scr.reads = k :: ks →
    k ≤ s.scr.partRead.length + 1 →
    ∃ t, Sys2Proof.Machine.exec (.scrimRsp) s = Host.Outcome.next t ∧
      t.scr.hostRead = s.scr.partRead ++ [w] ∧
      t.scr.reads = ks ∧
      t.scr.rsps = rest ∧
      t.scr.partRead = []) ∧
  (∀ (s : State), s.canonical →
    s.scr.reqs = [] →
    s.scr.reads = [] →
    s.scr.stalled = [] →
    ∃ t, Sys2Proof.Machine.exec (.scrHsyncRead) s = Host.Outcome.next t ∧
      t.scr.hostRead = [0] ∧
      t.regs = s.regs) ∧
  (∀ (s : State), s.canonical →
    s.rd .SCR_HSTATUS_FIELD_UP = 1 →
    ∃ t, Sys2Proof.Machine.exec (.fieldDown) s = Host.Outcome.next t ∧
      t.rd .SCR_HSTATUS_FIELD_UP = 0 ∧
      t.scr.reads = [] ∧
      t.scr.stalled = [] ∧
      t.scr.reqs = s.scr.reqs ∧
      bit 0 (t.rd .SCR_HIRQ_CAUSE) = true) ∧
  (∀ (s : State), s.canonical →
    s.rd .SCR_HSTATUS_FIELD_UP = 0 →
    ∃ t, Sys2Proof.Machine.exec (.fieldDown) s = Host.Outcome.next t ∧
      t = s) ∧
  (∀ (s : State), s.canonical →
    ∃ t, Sys2Proof.Machine.exec (.hostAbsent) s = Host.Outcome.next t ∧
      t.rd .SCR_FSTATUS_HOST_UP = 0 ∧
      t.scr = s.scr ∧
      t.bps = s.bps) ∧
  (∀ (s : State) (d : Bool), s.canonical →
    5 ≤ s.scr.toHost →
    5 ≤ s.scr.toField →
    s.scr.toHost ≤ 8 →
    s.scr.toField ≤ 8 →
    ∃ t, Sys2Proof.Machine.exec (.scrimLaneDrop d) s = Host.Outcome.next t ∧
      t.scr.toHost = s.scr.toHost - (if d then 1 else 0) ∧
      t.scr.toField = s.scr.toField - (if d then 0 else 1) ∧
      t.rd .SCR_HSTATUS_LANES_RX = t.scr.toHost ∧
      bit 2 (t.rd .SCR_HIRQ_CAUSE) = true ∧
      t.rd .SCR_HSTATUS_FIELD_UP = s.rd .SCR_HSTATUS_FIELD_UP) ∧
  (∀ (s : State), s.canonical →
    s.scr.toHost = 4 →
    ∃ t, Sys2Proof.Machine.exec (.scrimLaneDrop true) s = Host.Outcome.next t ∧
      t.rd .SCR_HSTATUS_FIELD_UP = 0 ∧
      t.faultWaits 0xB5 0x63 = true) ∧
  (∀ (s : State) (x y : Fin 9), s.canonical →
    s.kct.powered = true →
    4 ≤ x.val →
    4 ≤ y.val →
    ∃ t, Sys2Proof.Machine.exec (.scrimSync x y) s = Host.Outcome.next t ∧
      t.rd .SCR_HSTATUS_FIELD_UP = 1 ∧
      t.rd .SCR_FSTATUS_HOST_UP = 1 ∧
      t.rd .SCR_HCREDIT_REQ = 32 ∧
      t.rd .SCR_FCREDIT_RSP = 32 ∧
      t.scr.reqs = [] ∧
      t.scr.rsps = [] ∧
      t.scr.reads = [] ∧
      t.scr.toHost = x.val) ∧
  (∀ (s : State), s.canonical →
    s.rd .SCR_HSTATUS_FIELD_UP = 1 →
    s.scr.stalled = [] →
    s.rd .SCR_HCREDIT_REQ + s.scr.owed.getD 0 0 ≤ 32 →
    s.rd .SCR_HCREDIT_MBX_TX = 16 →
    s.scr.owed.getD 3 0 = 0 →
    s.scr.owed.length = 6 →
    s.rd .SCR_FSTATUS_HOST_UP = 0 →
    ∃ t, Sys2Proof.Machine.exec (.scrimCreditReturn) s = Host.Outcome.next t ∧
      t.rd .SCR_HCREDIT_REQ = s.rd .SCR_HCREDIT_REQ + s.scr.owed.getD 0 0 ∧
      t.scr.owed.getD 0 0 = 0) ∧
  (∀ (s : State) (v : Nat) (es : List Nat), s.canonical →
    s.scr.evts = v :: es →
    s.rd .SCR_HSTATUS_FIELD_UP = 1 →
    s.rd .SCR_FSTATUS_HOST_UP = 1 →
    0 < s.rd .SCR_FCREDIT_EVT →
    ∃ t, Sys2Proof.Machine.exec (.evtMessage) s = Host.Outcome.next t ∧
      t.scr.evts = es ∧
      t.rd .SCR_FCREDIT_EVT = s.rd .SCR_FCREDIT_EVT - 1) ∧
  (∀ (s : State) (v : BitVec 5), s.canonical →
    Store.wf msixReset s.scr.msix = true →
    bit v.toNat s.scr.pba = true →
    ∃ t, Sys2Proof.Machine.exec (.msixUnmask v) s = Host.Outcome.next t ∧
      bit v.toNat t.scr.pba = false ∧
      (Store.get msixReset t.scr.msix (4 * v.toNat + 3)).getLsbD 0 = false) ∧
  (∀ (s : State) (q : CoreIx) (w : Word), s.canonical →
    s.rd .SCR_FSTATUS_HOST_UP = 0 →
    ∃ t, Sys2Proof.Machine.exec (.scrFwIrqWrite q w) s = Host.Outcome.next t ∧
      t.scr = s.scr ∧
      t.regs = s.regs)

/-- EN = 1 starts a ring with bus mastering, a field side and room below the limit, and is refused above it; EN = 0 stops it and frees its staging; a write of HEAD beyond the ring or behind what is posted is refused; a staged grain takes a posted descriptor or joins the open buffer; a buffer closes when it is full, at the flush time, and raises its interrupt; a DMA error, a die B of 110 °C and the loss of Bus Master Enable stop rings, and the endpoint reports a PCI Express error. Of each of these commands it says that exec answers a next state, under the conditions named: DMA_ENABLE, DMA_HEAD_WRITE, CAPTURE_GRAIN, DMA_BUFFER_CLOSE, DMA_FLUSH_TIMEOUT, DMA_HOLDOFF_EXPIRE, DMA_ERR, PCIE_ERROR, PCIE_RETRAIN, BME_OFF, DIE_B_TEMP_SAMPLE. (R393, R394, R395, R398, R400, R401, R403, R405) -/
def Obligations.CaptureRings : Prop :=
  (∀ (s : State) (r : RingIx) (w : Word), s.canonical →
    bit 0 w.toNat = true →
    s.rd .DMA_STATUS_RUN r = 0 →
    s.scr.tempHot = false →
    s.rd .PCIE_CAP_CAP_LIMIT ≠ 0 →
    (s.wr .DMA_CTRL_BP r (bits 1 7 w.toNat)).fitsLimit (some r.val) = true →
    s.rd .SCR_HSTATUS_FIELD_UP = 1 →
    s.scr.busMaster = true →
    ∃ t, Sys2Proof.Machine.exec (.dmaEnable r w) s = Host.Outcome.next t ∧
      t.rd .DMA_STATUS_RUN r = 1 ∧
      t.rd .DMA_CTRL_EN r = 1 ∧
      t.rd .DMA_CTRL_BP r = bits 1 7 w.toNat) ∧
  (∀ (s : State) (r : RingIx) (w : Word), s.canonical →
    bit 0 w.toNat = true →
    s.rd .DMA_STATUS_RUN r = 0 →
    s.scr.tempHot = true ∨ s.rd .PCIE_CAP_CAP_LIMIT = 0 →
    ∃ t, Sys2Proof.Machine.exec (.dmaEnable r w) s = Host.Outcome.next t ∧
      t.rd .DMA_STATUS_ENA_REFUSED r = 1 ∧
      t.rd .DMA_STATUS_RUN r = 0 ∧
      t.rd .DMA_CTRL_EN r = s.rd .DMA_CTRL_EN r) ∧
  (∀ (s : State) (r : RingIx) (w : Word), s.canonical →
    bit 0 w.toNat = false →
    ∃ t, Sys2Proof.Machine.exec (.dmaEnable r w) s = Host.Outcome.next t ∧
      t.rd .DMA_STATUS_RUN r = 0 ∧
      t.rd .DMA_CTRL_EN r = 0 ∧
      (t.ring r).staged = []) ∧
  (∀ (s : State) (r : RingIx) (w : Word), s.canonical →
    (w.toNat % 2 ^ 17 + 2 ^ 17 - s.rd .DMA_TAIL_TAIL r) % 2 ^ 17 ≤ s.ringSize r →
    s.posted r ≤ (w.toNat % 2 ^ 17 + 2 ^ 17 - s.rd .DMA_TAIL_TAIL r) % 2 ^ 17 →
    ∃ t, Sys2Proof.Machine.exec (.dmaHeadWrite r w) s = Host.Outcome.next t ∧
      t.rd .DMA_HEAD_HEAD r = w.toNat % 2 ^ 17 ∧
      t.rd .DMA_STATUS_HEAD_REFUSED r = s.rd .DMA_STATUS_HEAD_REFUSED r) ∧
  (∀ (s : State) (r : RingIx) (w : Word), s.canonical →
    s.ringSize r < (w.toNat % 2 ^ 17 + 2 ^ 17 - s.rd .DMA_TAIL_TAIL r) % 2 ^ 17 →
    ∃ t, Sys2Proof.Machine.exec (.dmaHeadWrite r w) s = Host.Outcome.next t ∧
      t.rd .DMA_STATUS_HEAD_REFUSED r = 1 ∧
      t.rd .DMA_HEAD_HEAD r = s.rd .DMA_HEAD_HEAD r) ∧
  (∀ (s : State) (r : RingIx) (d : Descriptor) (g : Staged) (gs : List Staged), s.canonical →
    (s.ring r).staged = g :: gs →
    (s.ring r).buffer = none →
    s.rd .DMA_STATUS_RUN r = 1 →
    s.rd .SCR_HSTATUS_FIELD_UP = 1 →
    s.scr.capCredit ≠ 0 →
    s.scr.capCredit ≤ 256 →
    s.posted r ≠ 0 →
    badDescriptor d = false →
    ∃ t, Sys2Proof.Machine.exec (.captureGrain r d) s = Host.Outcome.next t ∧
      (t.ring r).staged = gs ∧
      (t.ring r).buffer.map (fun b => (CapBuffer.desc b, CapBuffer.grains b, CapBuffer.lostBefore b)) = some (d, [g.grain], g.lostBefore) ∧
      t.scr.capCredit = s.scr.capCredit - 1) ∧
  (∀ (s : State) (r : RingIx) (d : Descriptor) (g : Staged) (gs : List Staged), s.canonical →
    (s.ring r).staged = g :: gs →
    (s.ring r).buffer = none →
    s.rd .DMA_STATUS_RUN r = 1 →
    s.rd .SCR_HSTATUS_FIELD_UP = 1 →
    s.scr.capCredit ≠ 0 →
    s.posted r ≠ 0 →
    badDescriptor d = true →
    ∃ t, Sys2Proof.Machine.exec (.captureGrain r d) s = Host.Outcome.next t ∧
      t.rd .DMA_STATUS_BAD_DESC r = 1 ∧
      t.rd .DMA_TAIL_TAIL r = (s.rd .DMA_TAIL_TAIL r + 1) % 2 ^ Field.DMA_TAIL_TAIL.row.width ∧
      (t.ring r).staged = g :: gs) ∧
  (∀ (s : State) (r : RingIx) (b : CapBuffer), s.canonical →
    (s.ring r).buffer = some b →
    bufferRoom b.desc.len ≤ b.grains.length →
    ∃ t, Sys2Proof.Machine.exec (.dmaBufferClose r) s = Host.Outcome.next t ∧
      (t.ring r).buffer = none ∧
      (t.ring r).done.map (fun d => (CapDone.count d, CapDone.data d)) = some (s.rd .DMA_TAIL_TAIL r, s.bufferHeader r b ++ b.grains.flatMap grainBytes) ∧
      t.rd .DMA_TAIL_TAIL r = (s.rd .DMA_TAIL_TAIL r + 1) % 2 ^ Field.DMA_TAIL_TAIL.row.width) ∧
  (∀ (s : State) (r : RingIx) (b : CapBuffer), s.canonical →
    (s.ring r).buffer = some b →
    s.rd .DMA_FLUSH_FLUSH_US r ≠ 0 →
    ∃ t, Sys2Proof.Machine.exec (.dmaFlushTimeout r) s = Host.Outcome.next t ∧
      (t.ring r).buffer = none ∧
      (t.ring r).done.map (fun d => CapDone.data d) = some (s.bufferHeader r b ++ b.grains.flatMap grainBytes)) ∧
  (∀ (s : State) (r : RingIx), s.canonical →
    (s.ring r).closed ≠ 0 →
    ∃ t, Sys2Proof.Machine.exec (.dmaHoldoffExpire r) s = Host.Outcome.next t ∧
      (t.ring r).closed = 0) ∧
  (∀ (s : State) (r : RingIx), s.canonical →
    s.rd .DMA_STATUS_RUN r = 1 →
    ∃ t, Sys2Proof.Machine.exec (.dmaErr r) s = Host.Outcome.next t ∧
      t.rd .DMA_STATUS_RUN r = 0 ∧
      t.rd .DMA_CTRL_EN r = 0 ∧
      t.rd .DMA_STATUS_DMA_ERR r = 1 ∧
      (t.ring r).buffer = none ∧
      (t.ring r).staged = [] ∧
      t.scr.aer.getLsbD 6 = true) ∧
  (∀ (s : State) (r : RingIx), s.canonical →
    s.rd .DMA_STATUS_RUN r = 1 →
    ∃ t, Sys2Proof.Machine.exec (.pcieError 6 r) s = Host.Outcome.next t ∧
      t.rd .DMA_STATUS_RUN r = 0 ∧
      t.rd .DMA_CTRL_EN r = 0 ∧
      t.rd .DMA_STATUS_DMA_ERR r = 1 ∧
      (t.ring r).buffer = none ∧
      (t.ring r).staged = [] ∧
      t.scr.aer.getLsbD 6 = true) ∧
  (∀ (s : State) (k : Fin 8) (r : RingIx), s.canonical →
    k.val ≠ 6 →
    ∃ t, Sys2Proof.Machine.exec (.pcieError k r) s = Host.Outcome.next t ∧
      t.scr.aer = s.scr.aer ||| BitVec.ofNat 8 (2 ^ k.val) ∧
      t.regs = s.regs ∧
      t.rings = s.rings) ∧
  (∀ (s : State) (gen : Fin 8) (width : Fin 32), s.canonical →
    1 ≤ gen.val →
    gen.val ≤ 4 →
    width.val ∈ [4, 8, 16] →
    ∀ r : Fin 8, s.rd .DMA_STATUS_RUN r = 0 →
    ∃ t, Sys2Proof.Machine.exec (.pcieRetrain gen width) s = Host.Outcome.next t ∧
      t.rd .PCIE_STATUS_GEN = gen.val ∧
      t.rd .PCIE_STATUS_WIDTH = width.val ∧
      t.rd .PCIE_STATUS_NARROW = 0 ∧
      t.rd .PCIE_CAP_CAP_LIMIT = capLimit gen.val width.val s.scr.toHost % 2 ^ Field.PCIE_CAP_CAP_LIMIT.row.width) ∧
  (∀ (s : State), s.canonical →
    ∃ t, Sys2Proof.Machine.exec (.bmeOff) s = Host.Outcome.next t ∧
      t.scr.busMaster = false ∧
      ∀ r : Fin 8, t.rd .DMA_STATUS_RUN r = 0) ∧
  (∀ (s : State) (x : BitVec 16), s.canonical →
    7040 ≤ x.toInt →
    s.scr.tempHot = false →
    ∃ t, Sys2Proof.Machine.exec (.dieBTempSample x) s = Host.Outcome.next t ∧
      t.scr.tempHot = true ∧
      t.rd .PCIE_TEMP_TEMP = x.toNat ∧
      ∀ r : Fin 8, t.rd .DMA_STATUS_RUN r = 0 ∧
      bit 4 (t.rd .SCR_HIRQ_CAUSE) = true) ∧
  (∀ (s : State) (x : BitVec 16), s.canonical →
    x.toInt ≤ 6080 →
    s.scr.tempHot = true →
    9999 ≤ s.scr.coolMs →
    ∃ t, Sys2Proof.Machine.exec (.dieBTempSample x) s = Host.Outcome.next t ∧
      t.scr.tempHot = false)

/-- A SEND moves the message to the other end with a credit, and only sets TX_FULL without one; a POP takes the oldest message and gives its credit back; VERSION, BP_ENABLE, DELAY and CEILING act on their band path and reply with CMD + 0x8000, the same TAG and their status, 16 for a band path that does not exist; BP_STAGE stages and applies, and its reply waits for the check. Of each of these commands it says that exec answers a next state, under the conditions named: MBX_SEND, MBX_POP, SCR_MB_SEND, SCR_MB_POP, VERSION, MBX_BP_ENABLE, BP_STAGE, DELAY, CEILING. (R404, R387) -/
def Obligations.MailboxCommands : Prop :=
  (∀ (s : State), s.canonical →
    s.rd .SCR_HCREDIT_MBX_TX = 0 →
    ∃ t, Sys2Proof.Machine.exec (.mbxSend) s = Host.Outcome.next t ∧
      t.rd .MBX_CTRL_TX_FULL = 1 ∧
      t.scr = s.scr) ∧
  (∀ (s : State), s.canonical →
    0 < s.rd .SCR_HCREDIT_MBX_TX →
    s.scrimUp = true →
    ∃ t, Sys2Proof.Machine.exec (.mbxSend) s = Host.Outcome.next t ∧
      t.scr.mbxField = s.scr.mbxField ++ [s.messageOf .MBX_TX_WORD] ∧
      t.rd .SCR_HCREDIT_MBX_TX = s.rd .SCR_HCREDIT_MBX_TX - 1) ∧
  (∀ (s : State) (m : List Word) (ms : List (List Word)), s.canonical →
    s.scr.mbxHost = m :: ms →
    ∃ t, Sys2Proof.Machine.exec (.mbxPop) s = Host.Outcome.next t ∧
      t.scr.mbxHost = ms ∧
      s.scr.owed.length ≤ 4 ∨ t.scr.owed.getD 4 0 = s.scr.owed.getD 4 0 + 1) ∧
  (∀ (s : State) (q : CoreIx), s.canonical →
    s.rd .SCR_FCREDIT_MBX_TX = 0 →
    ∃ t, Sys2Proof.Machine.exec (.scrMbSend q) s = Host.Outcome.next t ∧
      t.rd .SCR_MB_CTRL_TX_FULL = 1 ∧
      t.scr = s.scr) ∧
  (∀ (s : State) (q : CoreIx), s.canonical →
    0 < s.rd .SCR_FCREDIT_MBX_TX →
    s.scrimUp = true →
    ∃ t, Sys2Proof.Machine.exec (.scrMbSend q) s = Host.Outcome.next t ∧
      t.scr.mbxHost = s.scr.mbxHost ++ [s.messageOf .SCR_MB_TX_WORD] ∧
      t.rd .SCR_FCREDIT_MBX_TX = s.rd .SCR_FCREDIT_MBX_TX - 1) ∧
  (∀ (s : State) (q : CoreIx) (m : List Word) (ms : List (List Word)), s.canonical →
    s.scr.mbxField = m :: ms →
    ∃ t, Sys2Proof.Machine.exec (.scrMbPop q) s = Host.Outcome.next t ∧
      t.scr.mbxField = ms ∧
      t.scr.staging = none) ∧
  (∀ (s : State) (q : CoreIx) (m : List Word), s.canonical →
    s.mailDue q = some m →
    bits 0 16 (mword m 0) = 1 →
    s.scrimUp = true →
    ∃ t, Sys2Proof.Machine.exec (.version q) s = Host.Outcome.next t ∧
      (t.scr.mbxHost.getLast?.map fun (x : List Word) => (mword x 0 % 65536, mword x 0 / 2 ^ 24, mword x 1)) = some ((bits 0 16 (mword m 0) + 0x8000) % 65536, bits 24 8 (mword m 0), 0) ∧
      t.scr.mbxField = s.scr.mbxField.drop 1) ∧
  (∀ (s : State) (q : CoreIx) (m : List Word), s.canonical →
    s.mailDue q = some m →
    bits 0 16 (mword m 0) = 0x11 →
    128 ≤ mword m 1 →
    s.scrimUp = true →
    ∃ t, Sys2Proof.Machine.exec (.mbxBpEnable q) s = Host.Outcome.next t ∧
      (t.scr.mbxHost.getLast?.map fun (x : List Word) => (mword x 0 % 65536, mword x 0 / 2 ^ 24, mword x 1)) = some ((bits 0 16 (mword m 0) + 0x8000) % 65536, bits 24 8 (mword m 0), 16) ∧
      t.bps = s.bps) ∧
  (∀ (s : State) (q : CoreIx) (m : List Word) (n : BpIx), s.canonical →
    s.mailDue q = some m →
    bits 0 16 (mword m 0) = 0x11 →
    mword m 1 = n →
    bit 0 (mword m 2) = true →
    s.rd .BP_CTRL_ENABLE n = 0 →
    s.rd .BP_STATUS_STATE n = 0 →
    s.rd .BP_STATUS_PENDING n = 0 →
    s.rd .BP_ROUTE_SRC_KIND n ≠ 2 →
    s.scrimUp = true →
    ∃ t, Sys2Proof.Machine.exec (.mbxBpEnable q) s = Host.Outcome.next t ∧
      (t.scr.mbxHost.getLast?.map fun (x : List Word) => (mword x 0 % 65536, mword x 0 / 2 ^ 24, mword x 1)) = some ((bits 0 16 (mword m 0) + 0x8000) % 65536, bits 24 8 (mword m 0), 0) ∧
      t.rd .BP_CTRL_ENABLE n = 1 ∧
      t.rd .BP_STATUS_PENDING n = 1) ∧
  (∀ (s : State) (q : CoreIx) (m : List Word) (n : BpIx), s.canonical →
    s.mailDue q = some m →
    bits 0 16 (mword m 0) = 0x10 →
    mword m 1 = n →
    s.scr.staging = none →
    s.rd .BP_STATUS_PENDING n = 0 →
    s.rd .BP_CTRL_ENABLE n = 0 →
    ∃ t, Sys2Proof.Machine.exec (.bpStage q) s = Host.Outcome.next t ∧
      t.scr.staging = some n.val ∧
      t.rd .BP_STATUS_PENDING n = 1 ∧
      t.rd .BP_CTRL_SPAN n = mword m 2 % 65536 ∧
      t.rd .BP_FREQ_FREQ n = mword m 4 ∧
      t.scr.mbxField = s.scr.mbxField) ∧
  (∀ (s : State) (q : CoreIx) (m : List Word) (k : Nat), s.canonical →
    s.mailDue q = some m →
    bits 0 16 (mword m 0) = 0x10 →
    mword m 1 < 128 →
    s.scr.staging = some k →
    (s.bp k).check = none →
    s.rd .BP_STATUS_REJECT k < 16 →
    s.scrimUp = true →
    ∃ t, Sys2Proof.Machine.exec (.bpStage q) s = Host.Outcome.next t ∧
      (t.scr.mbxHost.getLast?.map fun (x : List Word) => (mword x 0 % 65536, mword x 0 / 2 ^ 24, mword x 1)) = some ((bits 0 16 (mword m 0) + 0x8000) % 65536, bits 24 8 (mword m 0), s.rd .BP_STATUS_REJECT k) ∧
      t.scr.staging = none) ∧
  (∀ (s : State) (q : CoreIx) (m : List Word), s.canonical →
    s.mailDue q = some m →
    bits 0 16 (mword m 0) = 0x20 →
    128 ≤ mword m 1 →
    s.scrimUp = true →
    ∃ t, Sys2Proof.Machine.exec (.delay q) s = Host.Outcome.next t ∧
      (t.scr.mbxHost.getLast?.map fun (x : List Word) => (mword x 0 % 65536, mword x 0 / 2 ^ 24, mword x 1)) = some ((bits 0 16 (mword m 0) + 0x8000) % 65536, bits 24 8 (mword m 0), 16) ∧
      t.bps = s.bps) ∧
  (∀ (s : State) (q : CoreIx) (m : List Word) (n : BpIx), s.canonical →
    s.mailDue q = some m →
    bits 0 16 (mword m 0) = 0x20 →
    mword m 1 = n →
    s.scrimUp = true →
    delayState s n ≠ 2 →
    delayState s n ≠ 3 →
    ∃ t, Sys2Proof.Machine.exec (.delay q) s = Host.Outcome.next t ∧
      t.rd .FLO_CTRL_STEP_OK n = bits 0 1 (mword m 4) ∧
      t.scr.mbxField = s.scr.mbxField.drop 1 ∧
      (t.scr.mbxHost.getLast?.map fun (x : List Word) => mword x 1) = some (t.rd .FLO_STATUS_REJECT n)) ∧
  (∀ (s : State) (q : CoreIx) (m : List Word) (n : BpIx), s.canonical →
    s.mailDue q = some m →
    bits 0 16 (mword m 0) = 0x30 →
    mword m 1 = n →
    mword m 2 % 65536 ≤ s.rd .GCE_CEIL_HARD_CEIL n →
    mword m 2 % 65536 ≤ 0x7FFF →
    s.rd .GCE_CEIL_HARD_CEIL n ≤ 0x7FFF →
    s.scrimUp = true →
    ∃ t, Sys2Proof.Machine.exec (.ceiling q) s = Host.Outcome.next t ∧
      (t.scr.mbxHost.getLast?.map fun (x : List Word) => (mword x 0 % 65536, mword x 0 / 2 ^ 24, mword x 1)) = some ((bits 0 16 (mword m 0) + 0x8000) % 65536, bits 24 8 (mword m 0), 0) ∧
      t.rd .GCE_CEIL_FW_CEIL n = mword m 2 % 65536)

/-- An update starts in an open flash window by erasing the header of the slot that is not active, and is refused while another runs, from a host that may not, or with the window closed, and nothing of a host reaches it while Scrim is down; the erase ends in RECEIVING; each data word goes to ADDR, which advances by 4, and data beyond the slot end the update; a commit begins the check; a check that passes makes the slot the journalled one, and a slot that cannot be read back ends the update with code 2; an abort or an expired window ends it; a kick restarts the watchdog; an expired watchdog restarts the core; an access without a target faults. Of each of these commands it says that exec answers a next state, under the conditions named: KCT_UPD_START, KCT_UPD_ERASE_DONE, KCT_UPD_DATA_WRITE, KCT_UPD_COMMIT, KCT_UPD_ABORT, UPDATE_WINDOW_TIMEOUT, KCT_VERIFY_DONE, PCR_KICK, CORE_WDG, CORE_ACCESS_FAULT. (R421, R423, R424, R427) -/
def Obligations.KeyCoatUpdates : Prop :=
  (∀ (s : State) (who : Requester), s.canonical →
    s.reaches who = true →
    s.kct.powered = true →
    s.updating = false →
    isHost who = false ∨ s.rd .KCT_CFG_HOST_UPD_EN = 1 →
    s.flashOpen = true →
    ∃ t, Sys2Proof.Machine.exec (.kctUpdStart who) s = Host.Outcome.next t ∧
      t.rd .KCT_UPD_STATUS_USTATE = 1 ∧
      t.rd .KCT_UPD_STATUS_UREJECT = 0 ∧
      t.kct.flash = eraseBytes s.kct.flash (slotBase (!s.kct.slotB)) 4096 ∧
      t.kct.slotB = s.kct.slotB) ∧
  (∀ (s : State) (who : Requester), s.canonical →
    s.reaches who = true →
    s.kct.powered = true →
    s.updating = true →
    ∃ t, Sys2Proof.Machine.exec (.kctUpdStart who) s = Host.Outcome.next t ∧
      t.rd .KCT_UPD_STATUS_UREJECT = 6 ∧
      t.rd .KCT_UPD_STATUS_USTATE = s.rd .KCT_UPD_STATUS_USTATE ∧
      t.kct = s.kct) ∧
  (∀ (s : State), s.canonical →
    s.rd .SCR_HSTATUS_FIELD_UP = 1 →
    s.kct.powered = true →
    s.updating = false →
    s.rd .KCT_CFG_HOST_UPD_EN = 0 →
    s.rd .KCT_STATUS_STATE ≠ 5 →
    ∃ t, Sys2Proof.Machine.exec (.kctUpdStart .host) s = Host.Outcome.next t ∧
      t.rd .KCT_UPD_STATUS_UREJECT = 5 ∧
      t.kct = s.kct) ∧
  (∀ (s : State), s.canonical →
    s.rd .SCR_HSTATUS_FIELD_UP = 0 →
    ∃ t, Sys2Proof.Machine.exec (.kctUpdStart .host) s = Host.Outcome.next t ∧
      t.kct = s.kct ∧
      t.rd .KCT_UPD_STATUS_USTATE = s.rd .KCT_UPD_STATUS_USTATE ∧
      t.rd .SCR_HCOUNT_ABSENT = min (s.rd .SCR_HCOUNT_ABSENT + 1) (2 ^ Field.SCR_HCOUNT_ABSENT.row.width - 1)) ∧
  (∀ (s : State), s.canonical →
    s.rd .KCT_UPD_STATUS_USTATE = 1 →
    s.flashOpen = true →
    ∃ t, Sys2Proof.Machine.exec (.kctUpdEraseDone) s = Host.Outcome.next t ∧
      t.rd .KCT_UPD_STATUS_USTATE = 2 ∧
      t.kct.flash = eraseBytes s.kct.flash (slotBase (!s.kct.slotB)) slotSize) ∧
  (∀ (s : State) (who : Requester) (w : Word), s.canonical →
    s.reaches who = true →
    s.rd .KCT_UPD_STATUS_USTATE = 2 →
    s.kct.updNext < 12 →
    s.rd .KCT_UPD_ADDR_ADDR < slotSize →
    ∃ t, Sys2Proof.Machine.exec (.kctUpdDataWrite who w) s = Host.Outcome.next t ∧
      t.rd .KCT_UPD_STATUS_USTATE = 2 ∧
      t.rd .KCT_UPD_ADDR_ADDR = s.rd .KCT_UPD_ADDR_ADDR / 4 * 4 + 4 ∧
      t.kct.updNext = max s.kct.updNext (s.rd .KCT_UPD_ADDR_ADDR / 4 * 4 + 4) ∧
      4096 ≤ s.rd .KCT_UPD_ADDR_ADDR ∨ t.kct.flash = s.kct.flash) ∧
  (∀ (s : State) (who : Requester) (w : Word), s.canonical →
    s.reaches who = true →
    s.rd .KCT_UPD_STATUS_USTATE = 2 →
    slotSize ≤ s.rd .KCT_UPD_ADDR_ADDR / 4 * 4 →
    ∃ t, Sys2Proof.Machine.exec (.kctUpdDataWrite who w) s = Host.Outcome.next t ∧
      t.rd .KCT_UPD_STATUS_USTATE = 0 ∧
      t.rd .KCT_UPD_STATUS_UREJECT = 4 ∧
      t.kct.flash = s.kct.flash) ∧
  (∀ (s : State) (who : Requester), s.canonical →
    s.reaches who = true →
    s.rd .KCT_UPD_STATUS_USTATE = 2 →
    s.flashOpen = true →
    ∃ t, Sys2Proof.Machine.exec (.kctUpdCommit who) s = Host.Outcome.next t ∧
      t.rd .KCT_UPD_STATUS_USTATE = 3 ∧
      t.kct.updCommit = false ∧
      t.kct.flash = programBytes s.kct.flash (slotBase (!s.kct.slotB)) (readBytes s.kct.updHead 0 4096)) ∧
  (∀ (s : State) (who : Requester), s.canonical →
    s.reaches who = true →
    s.rd .KCT_UPD_STATUS_USTATE ≠ 2 →
    ∃ t, Sys2Proof.Machine.exec (.kctUpdCommit who) s = Host.Outcome.next t ∧
      t.kct = s.kct ∧
      t.regs = s.regs) ∧
  (∀ (s : State) (who : Requester), s.canonical →
    s.reaches who = true →
    s.updating = true →
    ∃ t, Sys2Proof.Machine.exec (.kctUpdAbort who) s = Host.Outcome.next t ∧
      t.rd .KCT_UPD_STATUS_USTATE = 0 ∧
      t.rd .KCT_UPD_STATUS_UREJECT = 0 ∧
      t.kct.flash = eraseBytes s.kct.flash (slotBase (!s.kct.slotB)) 4096 ∧
      t.kct.slotB = s.kct.slotB) ∧
  (∀ (s : State) (w : Word), s.canonical →
    s.rd .SCR_HSTATUS_FIELD_UP = 0 →
    ∃ t, Sys2Proof.Machine.exec (.kctUpdDataWrite .host w) s = Host.Outcome.next t ∧
      t.kct = s.kct ∧
      t.rd .KCT_UPD_ADDR_ADDR = s.rd .KCT_UPD_ADDR_ADDR ∧
      t.rd .SCR_HCOUNT_ABSENT = min (s.rd .SCR_HCOUNT_ABSENT + 1) (2 ^ Field.SCR_HCOUNT_ABSENT.row.width - 1)) ∧
  (∀ (s : State), s.canonical →
    s.rd .SCR_HSTATUS_FIELD_UP = 0 →
    ∃ t, Sys2Proof.Machine.exec (.kctUpdCommit .host) s = Host.Outcome.next t ∧
      t.kct = s.kct ∧
      t.rd .KCT_UPD_STATUS_USTATE = s.rd .KCT_UPD_STATUS_USTATE ∧
      t.rd .SCR_HCOUNT_ABSENT = min (s.rd .SCR_HCOUNT_ABSENT + 1) (2 ^ Field.SCR_HCOUNT_ABSENT.row.width - 1)) ∧
  (∀ (s : State), s.canonical →
    s.rd .SCR_HSTATUS_FIELD_UP = 0 →
    ∃ t, Sys2Proof.Machine.exec (.kctUpdAbort .host) s = Host.Outcome.next t ∧
      t.kct = s.kct ∧
      t.rd .KCT_UPD_STATUS_USTATE = s.rd .KCT_UPD_STATUS_USTATE ∧
      t.rd .SCR_HCOUNT_ABSENT = min (s.rd .SCR_HCOUNT_ABSENT + 1) (2 ^ Field.SCR_HCOUNT_ABSENT.row.width - 1)) ∧
  (∀ (s : State), s.canonical →
    s.rd .KCT_UPD_STATUS_WAITING = 1 →
    s.updating = true →
    ∃ t, Sys2Proof.Machine.exec (.updateWindowTimeout) s = Host.Outcome.next t ∧
      t.rd .KCT_UPD_STATUS_USTATE = 0 ∧
      t.rd .KCT_UPD_STATUS_UREJECT = 1 ∧
      t.rd .KCT_UPD_STATUS_WAITING = 0) ∧
  (∀ (s : State) (b : Bool), s.canonical →
    s.rd .KCT_UPD_STATUS_USTATE = 3 →
    s.kct.updCommit = false →
    ∃ t, Sys2Proof.Machine.exec (.kctVerifyDone b) s = Host.Outcome.next t ∧
      (if (s.checkSlot (!s.kct.slotB) b).code = 0 ∧ (s.rd .KCT_STATUS_STATE = 5 ∨ s.rd .KCT_SEQ_SEQ < (s.checkSlot (!s.kct.slotB) b).header.seq) then t.rd .KCT_UPD_STATUS_USTATE = 4 ∧ t.kct.slotB = (!s.kct.slotB) ∧ t.kct.flash = s.kct.flash else t.rd .KCT_UPD_STATUS_USTATE = 0 ∧ t.kct.slotB = s.kct.slotB ∧ t.rd .KCT_UPD_STATUS_UREJECT = (if (s.checkSlot (!s.kct.slotB) b).code = 0 then 3 else 2))) ∧
  (∀ (s : State), s.canonical →
    s.rd .KCT_UPD_STATUS_USTATE = 3 →
    s.kct.updCommit = false →
    ∃ t, Sys2Proof.Machine.exec (.kctVerifyDone false) s = Host.Outcome.next t ∧
      t.rd .KCT_UPD_STATUS_USTATE = 0 ∧
      t.rd .KCT_UPD_STATUS_UREJECT = 2 ∧
      t.kct.slotB = s.kct.slotB) ∧
  (∀ (s : State) (q : CoreIx) (w : Word), s.canonical →
    Store.wf (fun _ => 0) s.kct.kickAt = true →
    ∃ t, Sys2Proof.Machine.exec (.pcrKick q w) s = Host.Outcome.next t ∧
      Store.get (fun _ => 0) t.kct.kickAt q = s.clk.tick ∧
      t.rd .PCR_CTRL_RUN = s.rd .PCR_CTRL_RUN) ∧
  (∀ (s : State) (q : CoreIx) (ecc : Bool), s.canonical →
    s.coreRuns q = true →
    ecc = true ∨ Store.get (fun _ => 0) s.kct.kickAt q + s.wdgTicks ≤ s.clk.tick →
    Store.wf (fun _ => 0) s.kct.kickAt = true →
    ∃ t, Sys2Proof.Machine.exec (.coreWdg q ecc) s = Host.Outcome.next t ∧
      t.rd .PCR_COUNT_RESTARTS q = min (s.rd .PCR_COUNT_RESTARTS q + 1) (2 ^ Field.PCR_COUNT_RESTARTS.row.width - 1) ∧
      Store.get (fun _ => 0) t.kct.kickAt q = s.clk.tick ∧
      t.rd .CHZ_SEL_N q = 0) ∧
  (∀ (s : State) (q : CoreIx) (ecc : Bool), s.canonical →
    s.coreRuns q = false →
    ∃ t, Sys2Proof.Machine.exec (.coreWdg q ecc) s = Host.Outcome.next t ∧
      t = s) ∧
  (∀ (s : State) (q : CoreIx) (a : Word), s.canonical →
    inCoreMap a.toNat = false →
    ∃ t, Sys2Proof.Machine.exec (.coreAccessFault q a) s = Host.Outcome.next t ∧
      t.rd .PCR_FAULT_ADDR q = a.toNat ∧
      t.rd .PCR_COUNT_FAULTS q = min (s.rd .PCR_COUNT_FAULTS q + 1) (2 ^ Field.PCR_COUNT_FAULTS.row.width - 1))

/-- Power-good starts an unpowered field side and a restart key a powered one: without an image that passes the module is in NO_IMAGE, and otherwise the image is locked and the policy cores run; a host that may not update cannot restart; power-fail puts every relay set in bypass and ends the power; a reset of die B returns its registers and empties its capture rings, and leaves the field side; a start declaration that was rejected with code 6 or 7 is applied again. Of each of these commands it says that exec answers a next state, under the conditions named: POWER_GOOD, POWER_FAIL, KCT_RESTART, DIE_B_RESET, DECL_RETRY. (R415, R416, R423, R93, R395, R438, R413) -/
def Obligations.PowerAndReset : Prop :=
  (∀ (s : State) (e : StartEnv), s.canonical →
    s.kct.powered = false →
    s.thm.hold = false →
    ∃ t, Sys2Proof.Machine.exec (.powerGood e) s = Host.Outcome.next t ∧
      t.kct.powered = true ∧
      t.rd .KCT_STATUS_STATE = 5 ∨ (t.rd .KCT_STATUS_LOCKED = 1 ∧ t.rd .PCR_CTRL_RUN = 15) ∧
      t.pending = s.pending) ∧
  (∀ (s : State) (e : StartEnv), s.canonical →
    s.kct.powered = true →
    ∃ t, Sys2Proof.Machine.exec (.powerGood e) s = Host.Outcome.next t ∧
      t = s) ∧
  (∀ (s : State), s.canonical →
    s.kct.powered = true →
    ∃ t, Sys2Proof.Machine.exec (.powerFail) s = Host.Outcome.next t ∧
      t.kct.powered = false ∧
      ∀ p : Fin 4, (t.port p).relay ≠ 0 ∧ (t.port p).move = none ∧
      t.kct.flash = s.kct.flash ∧
      t.rd .KCT_STATUS_LOCKED = 0) ∧
  (∀ (s : State) (who : Requester) (e : StartEnv), s.canonical →
    s.reaches who = true →
    s.kct.powered = true →
    isHost who = false ∨ s.rd .KCT_CFG_HOST_UPD_EN = 1 →
    ∃ t, Sys2Proof.Machine.exec (.kctRestart who e) s = Host.Outcome.next t ∧
      t.kct.powered = true ∧
      t.rd .KCT_STATUS_STATE = 5 ∨ (t.rd .KCT_STATUS_LOCKED = 1 ∧ t.rd .PCR_CTRL_RUN = 15) ∧
      t.pending = s.pending) ∧
  (∀ (s : State) (e : StartEnv), s.canonical →
    s.rd .SCR_HSTATUS_FIELD_UP = 1 →
    s.rd .KCT_CFG_HOST_UPD_EN = 0 →
    s.rd .KCT_STATUS_STATE ≠ 5 →
    s.rd .KCT_RESTART_KEY ≠ 0x52535421 →
    ∃ t, Sys2Proof.Machine.exec (.kctRestart .host e) s = Host.Outcome.next t ∧
      t = s) ∧
  (∀ (s : State) (e : StartEnv), s.canonical →
    s.rd .SCR_HSTATUS_FIELD_UP = 0 →
    ∃ t, Sys2Proof.Machine.exec (.kctRestart .host e) s = Host.Outcome.next t ∧
      t.kct = s.kct ∧
      t.bps = s.bps ∧
      t.hard = s.hard ∧
      t.rd .SCR_HCOUNT_ABSENT = min (s.rd .SCR_HCOUNT_ABSENT + 1) (2 ^ Field.SCR_HCOUNT_ABSENT.row.width - 1)) ∧
  (∀ (s : State), s.canonical →
    ∃ t, Sys2Proof.Machine.exec (.dieBReset) s = Host.Outcome.next t ∧
      t.rings = [] ∧
      t.bps = s.bps ∧
      t.kct = s.kct ∧
      t.rd .SCR_HSTATUS_FIELD_UP = 0 ∧
      ∀ r : Fin 8, t.rd .DMA_CTRL_EN r = 0) ∧
  (∀ (s : State) (n : BpIx), s.canonical →
    s.kct.retry = [n.val] →
    s.running n = false →
    s.rd .BP_STATUS_STATE n = 0 →
    s.rd .BP_STATUS_PENDING n = 0 →
    s.rd .BP_STATUS_REJECT n = 6 ∨ s.rd .BP_STATUS_REJECT n = 7 →
    ∃ t, Sys2Proof.Machine.exec (.declRetry) s = Host.Outcome.next t ∧
      t.rd .BP_STATUS_PENDING n = 1 ∨ t.rd .BP_STATUS_REJECT n = 6)

/-- A host write stores an RW field and leaves an FW field; a write-one-to-clear field loses the bits written 1; a write that supplies other bits for a locked KL field leaves it and counts; a host write is discarded while the image loads, and every host access while the field is down is counted and does nothing, a read giving all ones; a policy core's store to the host half is an access fault; a read returns the word and clears its RC fields; a read of a wide LO register latches HI for its requester, whose read of HI returns the latch. Of each of these commands it says that exec answers a next state, under the conditions named: REGISTER_WRITE, REGISTER_READ_CLEAR, WIDE_LO_READ. (R432, R433, R434, R435, R437, R421) -/
def Obligations.RegisterAccess : Prop :=
  (∀ (s : State) (w : Word), s.canonical →
    s.rd .SCR_HSTATUS_FIELD_UP = 1 →
    s.rd .KCT_STATUS_STATE = 4 →
    ∃ t, Sys2Proof.Machine.exec (.registerWrite .host 0x3034 w) s = Host.Outcome.next t ∧
      t.rd .FRS_CLR_ID_INDEX = bits 0 2 w.toNat) ∧
  (∀ (s : State) (w : Word), s.canonical →
    s.rd .SCR_HSTATUS_FIELD_UP = 1 →
    s.rd .KCT_STATUS_STATE ≤ 3 →
    ∃ t, Sys2Proof.Machine.exec (.registerWrite .host 0x3034 w) s = Host.Outcome.next t ∧
      t.regs = s.regs) ∧
  (∀ (s : State) (w : Word), s.canonical →
    s.rd .KCT_STATUS_STATE = 4 →
    ∃ t, Sys2Proof.Machine.exec (.registerWrite .host (BitVec.ofNat 20 Field.FCL_FW_QUIET_FW_QUIET.row.off) w) s = Host.Outcome.next t ∧
      t.rd .FCL_FW_QUIET_FW_QUIET = s.rd .FCL_FW_QUIET_FW_QUIET) ∧
  (∀ (s : State) (q : CoreIx) (w : Word), s.canonical →
    ∃ t, Sys2Proof.Machine.exec (.registerWrite (.core q) (BitVec.ofNat 20 Field.FCL_FW_QUIET_FW_QUIET.row.off) w) s = Host.Outcome.next t ∧
      t.rd .FCL_FW_QUIET_FW_QUIET = Field.FCL_FW_QUIET_FW_QUIET.slice w.toNat) ∧
  (∀ (s : State) (q : CoreIx) (w : Word), s.canonical →
    bit 4 w.toNat = true →
    ∃ t, Sys2Proof.Machine.exec (.registerWrite (.core q) 0x3000 w) s = Host.Outcome.next t ∧
      t.rd .FRS_STATUS_CLR_REFUSED = 0) ∧
  (∀ (s : State) (q : CoreIx) (w : Word), s.canonical →
    bit 4 w.toNat = false →
    ∃ t, Sys2Proof.Machine.exec (.registerWrite (.core q) 0x3000 w) s = Host.Outcome.next t ∧
      t.rd .FRS_STATUS_CLR_REFUSED = s.rd .FRS_STATUS_CLR_REFUSED) ∧
  (∀ (s : State) (q : CoreIx) (w : Word), s.canonical →
    s.rd .KCT_STATUS_LOCKED = 1 →
    bits 16 16 w.toNat ≠ s.rd .THM_LIM_TRIP →
    ∃ t, Sys2Proof.Machine.exec (.registerWrite (.core q) 0x5004 w) s = Host.Outcome.next t ∧
      t.rd .THM_LIM_TRIP = s.rd .THM_LIM_TRIP ∧
      t.rd .KCT_COUNT_KL_WRITES 0 = min (s.rd .KCT_COUNT_KL_WRITES 0 + 1) (2 ^ Field.KCT_COUNT_KL_WRITES.row.width - 1)) ∧
  (∀ (s : State) (off : BitVec 20) (w : Word), s.canonical →
    off.toNat < 0x80000 →
    off.toNat % 4 = 0 →
    s.rd .SCR_HSTATUS_FIELD_UP = 0 →
    ∃ t, Sys2Proof.Machine.exec (.registerWrite .host off w) s = Host.Outcome.next t ∧
      t = s.bump .SCR_HCOUNT_ABSENT) ∧
  (∀ (s : State) (off : BitVec 20), s.canonical →
    off.toNat < 0x80000 →
    off.toNat % 4 = 0 →
    s.rd .SCR_HSTATUS_FIELD_UP = 0 →
    ∃ t, Sys2Proof.Machine.exec (.registerReadClear .host off) s = Host.Outcome.next t ∧
      t.scr.hostRead = [allOnes] ∧
      t.rd .SCR_HCOUNT_ABSENT = min (s.rd .SCR_HCOUNT_ABSENT + 1) (2 ^ Field.SCR_HCOUNT_ABSENT.row.width - 1) ∧
      t.readers = s.readers) ∧
  (∀ (s : State) (q : CoreIx) (off : BitVec 20) (w : Word), s.canonical →
    0x80000 ≤ off.toNat ∨ off.toNat % 4 ≠ 0 →
    ∃ t, Sys2Proof.Machine.exec (.registerWrite (.core q) off w) s = Host.Outcome.next t ∧
      t.rd .PCR_FAULT_ADDR q = 0x40000000 + off.toNat ∧
      t.rd .PCR_COUNT_FAULTS q = min (s.rd .PCR_COUNT_FAULTS q + 1) (2 ^ Field.PCR_COUNT_FAULTS.row.width - 1)) ∧
  (∀ (s : State) (q : CoreIx), s.canonical →
    (s.reader q).wide = none →
    ∃ t, Sys2Proof.Machine.exec (.registerReadClear (.core q) 0x3024) s = Host.Outcome.next t ∧
      (t.reader q).data = BitVec.ofNat 32 (s.rd .FRS_COUNT_SUMMARIES + 65536 * s.rd .FRS_COUNT_COALESCED) ∧
      t.rd .FRS_COUNT_SUMMARIES = 0 ∧
      t.rd .FRS_COUNT_COALESCED = 0) ∧
  (∀ (s : State) (q : CoreIx), s.canonical →
    (s.reader q).wide = none →
    ∃ t, Sys2Proof.Machine.exec (.wideLoRead (.core q) 0x3004) s = Host.Outcome.next t ∧
      (t.reader q).data = BitVec.ofNat 32 (s.rd .FRS_NEXT_LO_SEQ) ∧
      (t.reader q).wide = some (⟨fieldKey .FRS_NEXT_HI_SEQ 0, BitVec.ofNat 32 (s.rd .FRS_NEXT_HI_SEQ)⟩ : Latch) ∧
      t.regs = s.regs) ∧
  (∀ (s : State) (q : CoreIx) (w : Word), s.canonical →
    (s.reader q).wide = some ⟨fieldKey .FRS_NEXT_HI_SEQ 0, w⟩ →
    ∃ t, Sys2Proof.Machine.exec (.registerReadClear (.core q) 0x3008) s = Host.Outcome.next t ∧
      (t.reader q).data = w ∧
      (t.reader q).wide = (s.reader q).wide)
end

