-- ==== Sys2Proof/Laws/Store.lean ====
section
/-!
SUPPORT. Laws of the sparse stores: reading after writing, and that every operation keeps the canonical form.
-/

namespace Sys2Proof.Machine

variable {α : Type} [DecidableEq α] {d : Nat → α}

theorem Store.wfFrom_mono {m : Store α} {a b : Nat} (h : a ≤ b) (hm : Store.wfFrom d b m = true) :
    Store.wfFrom d a m = true := by
  cases m with
  | nil => rfl
  | cons x rest =>
    obtain ⟨k, v⟩ := x
    simp only [Store.wfFrom, Bool.and_eq_true, decide_eq_true_eq] at hm ⊢
    exact ⟨⟨h.trans hm.1.1, hm.1.2⟩, hm.2⟩

/-- Below the first key every key reads as its default. -/
theorem Store.get_low {m : Store α} {lo k : Nat} (hm : Store.wfFrom d lo m = true) (h : k < lo) :
    Store.get d m k = d k := by
  cases m with
  | nil => rfl
  | cons x rest =>
    obtain ⟨j, v⟩ := x
    simp only [Store.wfFrom, Bool.and_eq_true, decide_eq_true_eq] at hm
    simp [Store.get, h.trans_le hm.1.1]

theorem Store.get_cons (k : Nat) (v : α) {rest : Store α} {lo : Nat} (hm : Store.wfFrom d lo rest = true) (h : k < lo)
    (j : Nat) : Store.get d (Store.cons d k v rest) j = if j = k then v else Store.get d rest j := by
  unfold Store.cons
  split
  · rename_i hv
    split
    · subst j; rw [Store.get_low hm h, hv]
    · rfl
  · simp only [Store.get]
    by_cases h1 : j < k
    · rw [if_pos h1, if_neg (by omega), Store.get_low hm (by omega)]
    · simp only [if_neg h1]

/-- Reading any key after writing one. -/
theorem Store.get_set {m : Store α} {lo : Nat} (hm : Store.wfFrom d lo m = true) (k : Nat) (v : α) (j : Nat) :
    Store.get d (Store.set d m k v) j = if j = k then v else Store.get d m j := by
  induction m generalizing lo with
  | nil => exact Store.get_cons k v (lo := k + 1) rfl (Nat.lt_succ_self k) j
  | cons x rest ih =>
    obtain ⟨i, u⟩ := x
    have hm' := hm
    simp only [Store.wfFrom, Bool.and_eq_true, decide_eq_true_eq] at hm
    unfold Store.set
    split
    · rename_i hk
      refine Store.get_cons k v (lo := i) ?_ hk j
      simp only [Store.wfFrom, Bool.and_eq_true, decide_eq_true_eq]
      exact ⟨⟨le_refl i, hm.1.2⟩, hm.2⟩
    · split
      · rename_i hk
        subst hk
        rw [Store.get_cons k v hm.2 (Nat.lt_succ_self k) j]
        split
        · rfl
        · rename_i hj
          simp only [Store.get]
          by_cases h1 : j < k
          · rw [if_pos h1, Store.get_low hm.2 (by omega)]
          · rw [if_neg h1, if_neg hj]
      · rename_i hk1 hk2
        simp only [Store.get]
        by_cases h1 : j < i
        · rw [if_pos h1, if_neg (by omega), if_pos h1]
        · rw [if_neg h1, if_neg h1]
          by_cases h2 : j = i
          · rw [if_pos h2, if_neg (by omega), if_pos h2]
          · rw [if_neg h2, if_neg h2, ih hm.2]

theorem Store.get_set_self {m : Store α} (hm : Store.wf d m = true) (k : Nat) (v : α) :
    Store.get d (Store.set d m k v) k = v := by
  rw [Store.get_set (lo := 0) hm, if_pos rfl]

theorem Store.get_set_ne {m : Store α} (hm : Store.wf d m = true) {k j : Nat} (h : j ≠ k) (v : α) :
    Store.get d (Store.set d m k v) j = Store.get d m j := by
  rw [Store.get_set (lo := 0) hm, if_neg h]

theorem Store.wfFrom_cons {k lo : Nat} {v : α} {rest : Store α} (hm : Store.wfFrom d (k + 1) rest = true) (h : lo ≤ k) :
    Store.wfFrom d lo (Store.cons d k v rest) = true := by
  unfold Store.cons
  split
  · exact Store.wfFrom_mono (by omega) hm
  · rename_i hv
    simp only [Store.wfFrom, Bool.and_eq_true, decide_eq_true_eq]
    exact ⟨⟨h, hv⟩, hm⟩

theorem Store.wfFrom_set {m : Store α} {lo k : Nat} (hm : Store.wfFrom d lo m = true) (h : lo ≤ k) (v : α) :
    Store.wfFrom d lo (Store.set d m k v) = true := by
  induction m generalizing lo with
  | nil => exact Store.wfFrom_cons rfl h
  | cons x rest ih =>
    obtain ⟨i, u⟩ := x
    simp only [Store.wfFrom, Bool.and_eq_true, decide_eq_true_eq] at hm
    unfold Store.set
    split
    · rename_i hk
      refine Store.wfFrom_cons ?_ h
      simp only [Store.wfFrom, Bool.and_eq_true, decide_eq_true_eq]
      exact ⟨⟨hk, hm.1.2⟩, hm.2⟩
    · split
      · rename_i hk
        subst hk
        exact Store.wfFrom_cons hm.2 h
      · simp only [Store.wfFrom, Bool.and_eq_true, decide_eq_true_eq]
        exact ⟨hm.1, ih hm.2 (by omega)⟩

/-- A write keeps the canonical form. -/
theorem Store.wf_set {m : Store α} (hm : Store.wf d m = true) (k : Nat) (v : α) : Store.wf d (Store.set d m k v) = true :=
  Store.wfFrom_set hm (Nat.zero_le k) v

theorem Store.wfFrom_filter {m : Store α} {lo : Nat} (hm : Store.wfFrom d lo m = true) (p : Nat × α → Bool) :
    Store.wfFrom d lo (m.filter p) = true := by
  induction m generalizing lo with
  | nil => rfl
  | cons x rest ih =>
    obtain ⟨i, u⟩ := x
    simp only [Store.wfFrom, Bool.and_eq_true, decide_eq_true_eq] at hm
    rw [List.filter_cons]
    split
    · simp only [Store.wfFrom, Bool.and_eq_true, decide_eq_true_eq]
      exact ⟨hm.1, ih hm.2⟩
    · exact Store.wfFrom_mono (by omega) (ih hm.2)

/-- Removing entries keeps the canonical form. -/
theorem Store.wf_filter {m : Store α} (hm : Store.wf d m = true) (p : Nat × α → Bool) : Store.wf d (m.filter p) = true :=
  Store.wfFrom_filter hm p

/-- A run of entries from `a` on, followed by a store whose keys lie beyond it. -/
theorem Store.wfFrom_append {m n : Store α} {lo hi : Nat} (hm : Store.wfFrom d lo m = true)
    (hh : ∀ x ∈ m, x.1 < hi) (hl : lo ≤ hi) (hn : Store.wfFrom d hi n = true) : Store.wfFrom d lo (m ++ n) = true := by
  induction m generalizing lo with
  | nil => exact Store.wfFrom_mono hl hn
  | cons x rest ih =>
    obtain ⟨i, u⟩ := x
    simp only [Store.wfFrom, Bool.and_eq_true, decide_eq_true_eq] at hm
    simp only [List.cons_append, Store.wfFrom, Bool.and_eq_true, decide_eq_true_eq]
    have hi' := hh (i, u) (List.mem_cons_self ..)
    exact ⟨hm.1, ih hm.2 (fun y hy => hh y (List.mem_cons_of_mem _ hy)) (by simpa using hi')⟩

theorem Store.wfFrom_high {m : Store α} {lo a : Nat} (hm : Store.wfFrom d lo m = true) (h : ∀ x ∈ m, a ≤ x.1) :
    Store.wfFrom d a m = true := by
  cases m with
  | nil => rfl
  | cons x rest =>
    obtain ⟨i, u⟩ := x
    simp only [Store.wfFrom, Bool.and_eq_true, decide_eq_true_eq] at hm ⊢
    exact ⟨⟨h (i, u) (List.mem_cons_self ..), hm.1.2⟩, hm.2⟩

end Sys2Proof.Machine
end

