-- ==== Sys2Proof/Laws/State.lean ====
section
/-!
SUPPORT. One lemma for each update of the state and each part it leaves alone, and what a register field reads after it.
-/

namespace Sys2Proof.Machine

variable {s : State}

/-! ### Writing a register field -/

@[simp] theorem State.wr_hard (f : Field) (i v : Nat) : (s.wr f i v).hard = s.hard := by
  unfold State.wr; split <;> rfl
@[simp] theorem State.wr_readers (f : Field) (i v : Nat) : (s.wr f i v).readers = s.readers := by
  unfold State.wr; split <;> rfl
@[simp] theorem State.wr_clk (f : Field) (i v : Nat) : (s.wr f i v).clk = s.clk := by
  unfold State.wr; split <;> rfl
@[simp] theorem State.wr_bps (f : Field) (i v : Nat) : (s.wr f i v).bps = s.bps := by
  unfold State.wr; split <;> rfl
@[simp] theorem State.wr_ports (f : Field) (i v : Nat) : (s.wr f i v).ports = s.ports := by
  unfold State.wr; split <;> rfl
@[simp] theorem State.wr_pwms (f : Field) (i v : Nat) : (s.wr f i v).pwms = s.pwms := by
  unfold State.wr; split <;> rfl
@[simp] theorem State.wr_convs (f : Field) (i v : Nat) : (s.wr f i v).convs = s.convs := by
  unfold State.wr; split <;> rfl
@[simp] theorem State.wr_dies (f : Field) (i v : Nat) : (s.wr f i v).dies = s.dies := by
  unfold State.wr; split <;> rfl
@[simp] theorem State.wr_plRun (f : Field) (i v : Nat) : (s.wr f i v).plRun = s.plRun := by
  unfold State.wr; split <;> rfl
@[simp] theorem State.wr_thm (f : Field) (i v : Nat) : (s.wr f i v).thm = s.thm := by
  unfold State.wr; split <;> rfl
@[simp] theorem State.wr_pins (f : Field) (i v : Nat) : (s.wr f i v).pins = s.pins := by
  unfold State.wr; split <;> rfl
@[simp] theorem State.wr_remoteDet (f : Field) (i v : Nat) : (s.wr f i v).remoteDet = s.remoteDet := by
  unfold State.wr; split <;> rfl
@[simp] theorem State.wr_tiles (f : Field) (i v : Nat) : (s.wr f i v).tiles = s.tiles := by
  unfold State.wr; split <;> rfl
@[simp] theorem State.wr_plain (f : Field) (i v : Nat) : (s.wr f i v).plain = s.plain := by
  unfold State.wr; split <;> rfl
@[simp] theorem State.wr_lanes (f : Field) (i v : Nat) : (s.wr f i v).lanes = s.lanes := by
  unfold State.wr; split <;> rfl
@[simp] theorem State.wr_cages (f : Field) (i v : Nat) : (s.wr f i v).cages = s.cages := by
  unfold State.wr; split <;> rfl
@[simp] theorem State.wr_rings (f : Field) (i v : Nat) : (s.wr f i v).rings = s.rings := by
  unfold State.wr; split <;> rfl
@[simp] theorem State.wr_plumb (f : Field) (i v : Nat) : (s.wr f i v).plumb = s.plumb := by
  unfold State.wr; split <;> rfl
@[simp] theorem State.wr_col (f : Field) (i v : Nat) : (s.wr f i v).col = s.col := by
  unfold State.wr; split <;> rfl
@[simp] theorem State.wr_net (f : Field) (i v : Nat) : (s.wr f i v).net = s.net := by
  unfold State.wr; split <;> rfl
@[simp] theorem State.wr_fcl (f : Field) (i v : Nat) : (s.wr f i v).fcl = s.fcl := by
  unfold State.wr; split <;> rfl
@[simp] theorem State.wr_frs (f : Field) (i v : Nat) : (s.wr f i v).frs = s.frs := by
  unfold State.wr; split <;> rfl
@[simp] theorem State.wr_cnt (f : Field) (i v : Nat) : (s.wr f i v).cnt = s.cnt := by
  unfold State.wr; split <;> rfl
@[simp] theorem State.wr_scr (f : Field) (i v : Nat) : (s.wr f i v).scr = s.scr := by
  unfold State.wr; split <;> rfl
@[simp] theorem State.wr_kct (f : Field) (i v : Nat) : (s.wr f i v).kct = s.kct := by
  unfold State.wr; split <;> rfl
@[simp] theorem State.wr_factory (f : Field) (i v : Nat) : (s.wr f i v).factory = s.factory := by
  unfold State.wr; split <;> rfl
@[simp] theorem State.wr_free (f : Field) (i v : Nat) : (s.wr f i v).free = s.free := by
  unfold State.wr; split <;> rfl
@[simp] theorem State.wr_pending (f : Field) (i v : Nat) : (s.wr f i v).pending = s.pending := by
  unfold State.wr; split <;> rfl
@[simp] theorem State.load_readers (f : Field) (i v : Nat) : (s.load f i v).readers = s.readers := by
  unfold State.load; split <;> simp
@[simp] theorem State.load_clk (f : Field) (i v : Nat) : (s.load f i v).clk = s.clk := by
  unfold State.load; split <;> simp
@[simp] theorem State.load_bps (f : Field) (i v : Nat) : (s.load f i v).bps = s.bps := by
  unfold State.load; split <;> simp
@[simp] theorem State.load_ports (f : Field) (i v : Nat) : (s.load f i v).ports = s.ports := by
  unfold State.load; split <;> simp
@[simp] theorem State.load_pwms (f : Field) (i v : Nat) : (s.load f i v).pwms = s.pwms := by
  unfold State.load; split <;> simp
@[simp] theorem State.load_convs (f : Field) (i v : Nat) : (s.load f i v).convs = s.convs := by
  unfold State.load; split <;> simp
@[simp] theorem State.load_dies (f : Field) (i v : Nat) : (s.load f i v).dies = s.dies := by
  unfold State.load; split <;> simp
@[simp] theorem State.load_plRun (f : Field) (i v : Nat) : (s.load f i v).plRun = s.plRun := by
  unfold State.load; split <;> simp
@[simp] theorem State.load_thm (f : Field) (i v : Nat) : (s.load f i v).thm = s.thm := by
  unfold State.load; split <;> simp
@[simp] theorem State.load_pins (f : Field) (i v : Nat) : (s.load f i v).pins = s.pins := by
  unfold State.load; split <;> simp
@[simp] theorem State.load_remoteDet (f : Field) (i v : Nat) : (s.load f i v).remoteDet = s.remoteDet := by
  unfold State.load; split <;> simp
@[simp] theorem State.load_tiles (f : Field) (i v : Nat) : (s.load f i v).tiles = s.tiles := by
  unfold State.load; split <;> simp
@[simp] theorem State.load_plain (f : Field) (i v : Nat) : (s.load f i v).plain = s.plain := by
  unfold State.load; split <;> simp
@[simp] theorem State.load_lanes (f : Field) (i v : Nat) : (s.load f i v).lanes = s.lanes := by
  unfold State.load; split <;> simp
@[simp] theorem State.load_cages (f : Field) (i v : Nat) : (s.load f i v).cages = s.cages := by
  unfold State.load; split <;> simp
@[simp] theorem State.load_rings (f : Field) (i v : Nat) : (s.load f i v).rings = s.rings := by
  unfold State.load; split <;> simp
@[simp] theorem State.load_plumb (f : Field) (i v : Nat) : (s.load f i v).plumb = s.plumb := by
  unfold State.load; split <;> simp
@[simp] theorem State.load_col (f : Field) (i v : Nat) : (s.load f i v).col = s.col := by
  unfold State.load; split <;> simp
@[simp] theorem State.load_net (f : Field) (i v : Nat) : (s.load f i v).net = s.net := by
  unfold State.load; split <;> simp
@[simp] theorem State.load_fcl (f : Field) (i v : Nat) : (s.load f i v).fcl = s.fcl := by
  unfold State.load; split <;> simp
@[simp] theorem State.load_frs (f : Field) (i v : Nat) : (s.load f i v).frs = s.frs := by
  unfold State.load; split <;> simp
@[simp] theorem State.load_cnt (f : Field) (i v : Nat) : (s.load f i v).cnt = s.cnt := by
  unfold State.load; split <;> simp
@[simp] theorem State.load_scr (f : Field) (i v : Nat) : (s.load f i v).scr = s.scr := by
  unfold State.load; split <;> simp
@[simp] theorem State.load_kct (f : Field) (i v : Nat) : (s.load f i v).kct = s.kct := by
  unfold State.load; split <;> simp
@[simp] theorem State.load_factory (f : Field) (i v : Nat) : (s.load f i v).factory = s.factory := by
  unfold State.load; split <;> simp
@[simp] theorem State.load_free (f : Field) (i v : Nat) : (s.load f i v).free = s.free := by
  unfold State.load; split <;> simp
@[simp] theorem State.load_pending (f : Field) (i v : Nat) : (s.load f i v).pending = s.pending := by
  unfold State.load; split <;> simp

/-- The number of a field is below 1,024, so a key names one field and one instance. -/
theorem Field.ctorIdx_lt (f : Field) : f.ctorIdx < 1024 := by
  cases f <;> decide

theorem Field.ctorIdx_inj {f g : Field} (h : f.ctorIdx = g.ctorIdx) : f = g := by
  rw [← Field.ofNat_ctorIdx f, ← Field.ofNat_ctorIdx g, h]

theorem fieldKey_inj {f g : Field} {i j : Nat} (h : fieldKey f i = fieldKey g j) : f = g ∧ i = j := by
  have hf := f.ctorIdx_lt
  have hg := g.ctorIdx_lt
  unfold fieldKey at h
  exact ⟨Field.ctorIdx_inj (by omega), by omega⟩

/-- A field other than the one written reads as before. -/
theorem State.rd_wr_ne (hs : Store.wf fieldReset s.regs = true) {f g : Field} {i j : Nat} (v : Nat)
    (h : g ≠ f ∨ j ≠ i) : (s.wr f i v).rd g j = s.rd g j := by
  unfold State.rd
  split
  · rw [State.wr_hard]
  · unfold State.wr
    split
    · rfl
    · refine Store.get_set_ne hs (fun e => ?_) _
      obtain ⟨rfl, rfl⟩ := fieldKey_inj e
      simp at h

/-- The field written reads as the value, cut to its width; a KL field keeps its value (R420). -/
theorem State.rd_wr_same (hs : Store.wf fieldReset s.regs = true) (f : Field) (i v : Nat) (h : f.locked = false) :
    (s.wr f i v).rd f i = v % 2 ^ f.row.width := by
  simp only [State.rd, State.wr, h, Bool.false_eq_true, if_false]
  exact Store.get_set_self hs _ _

theorem State.rd_wr (hs : Store.wf fieldReset s.regs = true) {f g : Field} {i j v : Nat} (h : f.locked = false) :
    (s.wr f i v).rd g j = if g = f ∧ j = i then v % 2 ^ f.row.width else s.rd g j := by
  split
  · rename_i e
    obtain ⟨rfl, rfl⟩ := e
    exact State.rd_wr_same hs _ _ _ h
  · rename_i e
    exact State.rd_wr_ne hs v (by tauto)

/-- The loader's port writes a KL field (R420). -/
theorem State.rd_load_same (hs : Store.wf fieldReset s.hard = true) (f : Field) (i v : Nat) (h : f.locked = true) :
    (s.load f i v).rd f i = v % 2 ^ f.row.width := by
  simp only [State.rd, State.load, h, if_true]
  exact Store.get_set_self hs _ _

/-- A write keeps the canonical form of the register store. -/
theorem State.wf_wr (hs : Store.wf fieldReset s.regs = true) (f : Field) (i v : Nat) :
    Store.wf fieldReset (s.wr f i v).regs = true := by
  unfold State.wr
  split
  · exact hs
  · exact Store.wf_set hs _ _

@[simp] theorem State.wr_locked (f : Field) (i v : Nat) (h : f.locked = true) : s.wr f i v = s := by
  simp [State.wr, h]

/-! ### The records of the units -/

@[simp] theorem State.setLane_regs (l : Nat) (y : Lane) : (s.setLane l y).regs = s.regs := rfl
@[simp] theorem State.setLane_hard (l : Nat) (y : Lane) : (s.setLane l y).hard = s.hard := rfl
@[simp] theorem State.setLane_readers (l : Nat) (y : Lane) : (s.setLane l y).readers = s.readers := rfl
@[simp] theorem State.setLane_clk (l : Nat) (y : Lane) : (s.setLane l y).clk = s.clk := rfl
@[simp] theorem State.setLane_bps (l : Nat) (y : Lane) : (s.setLane l y).bps = s.bps := rfl
@[simp] theorem State.setLane_ports (l : Nat) (y : Lane) : (s.setLane l y).ports = s.ports := rfl
@[simp] theorem State.setLane_pwms (l : Nat) (y : Lane) : (s.setLane l y).pwms = s.pwms := rfl
@[simp] theorem State.setLane_convs (l : Nat) (y : Lane) : (s.setLane l y).convs = s.convs := rfl
@[simp] theorem State.setLane_dies (l : Nat) (y : Lane) : (s.setLane l y).dies = s.dies := rfl
@[simp] theorem State.setLane_plRun (l : Nat) (y : Lane) : (s.setLane l y).plRun = s.plRun := rfl
@[simp] theorem State.setLane_thm (l : Nat) (y : Lane) : (s.setLane l y).thm = s.thm := rfl
@[simp] theorem State.setLane_pins (l : Nat) (y : Lane) : (s.setLane l y).pins = s.pins := rfl
@[simp] theorem State.setLane_remoteDet (l : Nat) (y : Lane) : (s.setLane l y).remoteDet = s.remoteDet := rfl
@[simp] theorem State.setLane_tiles (l : Nat) (y : Lane) : (s.setLane l y).tiles = s.tiles := rfl
@[simp] theorem State.setLane_plain (l : Nat) (y : Lane) : (s.setLane l y).plain = s.plain := rfl
@[simp] theorem State.setLane_cages (l : Nat) (y : Lane) : (s.setLane l y).cages = s.cages := rfl
@[simp] theorem State.setLane_rings (l : Nat) (y : Lane) : (s.setLane l y).rings = s.rings := rfl
@[simp] theorem State.setLane_plumb (l : Nat) (y : Lane) : (s.setLane l y).plumb = s.plumb := rfl
@[simp] theorem State.setLane_col (l : Nat) (y : Lane) : (s.setLane l y).col = s.col := rfl
@[simp] theorem State.setLane_net (l : Nat) (y : Lane) : (s.setLane l y).net = s.net := rfl
@[simp] theorem State.setLane_fcl (l : Nat) (y : Lane) : (s.setLane l y).fcl = s.fcl := rfl
@[simp] theorem State.setLane_frs (l : Nat) (y : Lane) : (s.setLane l y).frs = s.frs := rfl
@[simp] theorem State.setLane_cnt (l : Nat) (y : Lane) : (s.setLane l y).cnt = s.cnt := rfl
@[simp] theorem State.setLane_scr (l : Nat) (y : Lane) : (s.setLane l y).scr = s.scr := rfl
@[simp] theorem State.setLane_kct (l : Nat) (y : Lane) : (s.setLane l y).kct = s.kct := rfl
@[simp] theorem State.setLane_factory (l : Nat) (y : Lane) : (s.setLane l y).factory = s.factory := rfl
@[simp] theorem State.setLane_free (l : Nat) (y : Lane) : (s.setLane l y).free = s.free := rfl
@[simp] theorem State.setLane_pending (l : Nat) (y : Lane) : (s.setLane l y).pending = s.pending := rfl
@[simp] theorem State.setLane_rd (l : Nat) (y : Lane) (f : Field) (i : Nat) : (s.setLane l y).rd f i = s.rd f i := rfl
@[simp] theorem State.wr_lane (f : Field) (i v : Nat) (l : Nat) : (s.wr f i v).lane l = s.lane l := by
  simp [State.lane]
@[simp] theorem State.setLane_cage (l : Nat) (y : Lane) (j : Nat) : (s.setLane l y).cage j = s.cage j := rfl
@[simp] theorem State.setLane_ring (l : Nat) (y : Lane) (j : Nat) : (s.setLane l y).ring j = s.ring j := rfl
@[simp] theorem State.setLane_bp (l : Nat) (y : Lane) (j : Nat) : (s.setLane l y).bp j = s.bp j := rfl
@[simp] theorem State.setLane_port (l : Nat) (y : Lane) (j : Nat) : (s.setLane l y).port j = s.port j := rfl
@[simp] theorem State.setLane_pwm (l : Nat) (y : Lane) (j : Nat) : (s.setLane l y).pwm j = s.pwm j := rfl
@[simp] theorem State.setLane_conv (l : Nat) (y : Lane) (j : Nat) : (s.setLane l y).conv j = s.conv j := rfl
@[simp] theorem State.setLane_die (l : Nat) (y : Lane) (j : Nat) : (s.setLane l y).die j = s.die j := rfl
@[simp] theorem State.setLane_reader (l : Nat) (y : Lane) (j : Nat) : (s.setLane l y).reader j = s.reader j := rfl
theorem State.lane_setLane (hs : Store.wf (fun _ => {}) s.lanes = true) (l : Nat) (y : Lane) (j : Nat) :
    (s.setLane l y).lane j = if j = l then y else s.lane j := Store.get_set (lo := 0) hs _ _ _

@[simp] theorem State.setCage_regs (c : Nat) (y : Cage) : (s.setCage c y).regs = s.regs := rfl
@[simp] theorem State.setCage_hard (c : Nat) (y : Cage) : (s.setCage c y).hard = s.hard := rfl
@[simp] theorem State.setCage_readers (c : Nat) (y : Cage) : (s.setCage c y).readers = s.readers := rfl
@[simp] theorem State.setCage_clk (c : Nat) (y : Cage) : (s.setCage c y).clk = s.clk := rfl
@[simp] theorem State.setCage_bps (c : Nat) (y : Cage) : (s.setCage c y).bps = s.bps := rfl
@[simp] theorem State.setCage_ports (c : Nat) (y : Cage) : (s.setCage c y).ports = s.ports := rfl
@[simp] theorem State.setCage_pwms (c : Nat) (y : Cage) : (s.setCage c y).pwms = s.pwms := rfl
@[simp] theorem State.setCage_convs (c : Nat) (y : Cage) : (s.setCage c y).convs = s.convs := rfl
@[simp] theorem State.setCage_dies (c : Nat) (y : Cage) : (s.setCage c y).dies = s.dies := rfl
@[simp] theorem State.setCage_plRun (c : Nat) (y : Cage) : (s.setCage c y).plRun = s.plRun := rfl
@[simp] theorem State.setCage_thm (c : Nat) (y : Cage) : (s.setCage c y).thm = s.thm := rfl
@[simp] theorem State.setCage_pins (c : Nat) (y : Cage) : (s.setCage c y).pins = s.pins := rfl
@[simp] theorem State.setCage_remoteDet (c : Nat) (y : Cage) : (s.setCage c y).remoteDet = s.remoteDet := rfl
@[simp] theorem State.setCage_tiles (c : Nat) (y : Cage) : (s.setCage c y).tiles = s.tiles := rfl
@[simp] theorem State.setCage_plain (c : Nat) (y : Cage) : (s.setCage c y).plain = s.plain := rfl
@[simp] theorem State.setCage_lanes (c : Nat) (y : Cage) : (s.setCage c y).lanes = s.lanes := rfl
@[simp] theorem State.setCage_rings (c : Nat) (y : Cage) : (s.setCage c y).rings = s.rings := rfl
@[simp] theorem State.setCage_plumb (c : Nat) (y : Cage) : (s.setCage c y).plumb = s.plumb := rfl
@[simp] theorem State.setCage_col (c : Nat) (y : Cage) : (s.setCage c y).col = s.col := rfl
@[simp] theorem State.setCage_net (c : Nat) (y : Cage) : (s.setCage c y).net = s.net := rfl
@[simp] theorem State.setCage_fcl (c : Nat) (y : Cage) : (s.setCage c y).fcl = s.fcl := rfl
@[simp] theorem State.setCage_frs (c : Nat) (y : Cage) : (s.setCage c y).frs = s.frs := rfl
@[simp] theorem State.setCage_cnt (c : Nat) (y : Cage) : (s.setCage c y).cnt = s.cnt := rfl
@[simp] theorem State.setCage_scr (c : Nat) (y : Cage) : (s.setCage c y).scr = s.scr := rfl
@[simp] theorem State.setCage_kct (c : Nat) (y : Cage) : (s.setCage c y).kct = s.kct := rfl
@[simp] theorem State.setCage_factory (c : Nat) (y : Cage) : (s.setCage c y).factory = s.factory := rfl
@[simp] theorem State.setCage_free (c : Nat) (y : Cage) : (s.setCage c y).free = s.free := rfl
@[simp] theorem State.setCage_pending (c : Nat) (y : Cage) : (s.setCage c y).pending = s.pending := rfl
@[simp] theorem State.setCage_rd (c : Nat) (y : Cage) (f : Field) (i : Nat) : (s.setCage c y).rd f i = s.rd f i := rfl
@[simp] theorem State.wr_cage (f : Field) (i v : Nat) (c : Nat) : (s.wr f i v).cage c = s.cage c := by
  simp [State.cage]
@[simp] theorem State.setCage_lane (c : Nat) (y : Cage) (j : Nat) : (s.setCage c y).lane j = s.lane j := rfl
@[simp] theorem State.setCage_ring (c : Nat) (y : Cage) (j : Nat) : (s.setCage c y).ring j = s.ring j := rfl
@[simp] theorem State.setCage_bp (c : Nat) (y : Cage) (j : Nat) : (s.setCage c y).bp j = s.bp j := rfl
@[simp] theorem State.setCage_port (c : Nat) (y : Cage) (j : Nat) : (s.setCage c y).port j = s.port j := rfl
@[simp] theorem State.setCage_pwm (c : Nat) (y : Cage) (j : Nat) : (s.setCage c y).pwm j = s.pwm j := rfl
@[simp] theorem State.setCage_conv (c : Nat) (y : Cage) (j : Nat) : (s.setCage c y).conv j = s.conv j := rfl
@[simp] theorem State.setCage_die (c : Nat) (y : Cage) (j : Nat) : (s.setCage c y).die j = s.die j := rfl
@[simp] theorem State.setCage_reader (c : Nat) (y : Cage) (j : Nat) : (s.setCage c y).reader j = s.reader j := rfl
theorem State.cage_setCage (hs : Store.wf (fun _ => {}) s.cages = true) (c : Nat) (y : Cage) (j : Nat) :
    (s.setCage c y).cage j = if j = c then y else s.cage j := Store.get_set (lo := 0) hs _ _ _

@[simp] theorem State.setRing_regs (r : Nat) (y : Ring) : (s.setRing r y).regs = s.regs := rfl
@[simp] theorem State.setRing_hard (r : Nat) (y : Ring) : (s.setRing r y).hard = s.hard := rfl
@[simp] theorem State.setRing_readers (r : Nat) (y : Ring) : (s.setRing r y).readers = s.readers := rfl
@[simp] theorem State.setRing_clk (r : Nat) (y : Ring) : (s.setRing r y).clk = s.clk := rfl
@[simp] theorem State.setRing_bps (r : Nat) (y : Ring) : (s.setRing r y).bps = s.bps := rfl
@[simp] theorem State.setRing_ports (r : Nat) (y : Ring) : (s.setRing r y).ports = s.ports := rfl
@[simp] theorem State.setRing_pwms (r : Nat) (y : Ring) : (s.setRing r y).pwms = s.pwms := rfl
@[simp] theorem State.setRing_convs (r : Nat) (y : Ring) : (s.setRing r y).convs = s.convs := rfl
@[simp] theorem State.setRing_dies (r : Nat) (y : Ring) : (s.setRing r y).dies = s.dies := rfl
@[simp] theorem State.setRing_plRun (r : Nat) (y : Ring) : (s.setRing r y).plRun = s.plRun := rfl
@[simp] theorem State.setRing_thm (r : Nat) (y : Ring) : (s.setRing r y).thm = s.thm := rfl
@[simp] theorem State.setRing_pins (r : Nat) (y : Ring) : (s.setRing r y).pins = s.pins := rfl
@[simp] theorem State.setRing_remoteDet (r : Nat) (y : Ring) : (s.setRing r y).remoteDet = s.remoteDet := rfl
@[simp] theorem State.setRing_tiles (r : Nat) (y : Ring) : (s.setRing r y).tiles = s.tiles := rfl
@[simp] theorem State.setRing_plain (r : Nat) (y : Ring) : (s.setRing r y).plain = s.plain := rfl
@[simp] theorem State.setRing_lanes (r : Nat) (y : Ring) : (s.setRing r y).lanes = s.lanes := rfl
@[simp] theorem State.setRing_cages (r : Nat) (y : Ring) : (s.setRing r y).cages = s.cages := rfl
@[simp] theorem State.setRing_plumb (r : Nat) (y : Ring) : (s.setRing r y).plumb = s.plumb := rfl
@[simp] theorem State.setRing_col (r : Nat) (y : Ring) : (s.setRing r y).col = s.col := rfl
@[simp] theorem State.setRing_net (r : Nat) (y : Ring) : (s.setRing r y).net = s.net := rfl
@[simp] theorem State.setRing_fcl (r : Nat) (y : Ring) : (s.setRing r y).fcl = s.fcl := rfl
@[simp] theorem State.setRing_frs (r : Nat) (y : Ring) : (s.setRing r y).frs = s.frs := rfl
@[simp] theorem State.setRing_cnt (r : Nat) (y : Ring) : (s.setRing r y).cnt = s.cnt := rfl
@[simp] theorem State.setRing_scr (r : Nat) (y : Ring) : (s.setRing r y).scr = s.scr := rfl
@[simp] theorem State.setRing_kct (r : Nat) (y : Ring) : (s.setRing r y).kct = s.kct := rfl
@[simp] theorem State.setRing_factory (r : Nat) (y : Ring) : (s.setRing r y).factory = s.factory := rfl
@[simp] theorem State.setRing_free (r : Nat) (y : Ring) : (s.setRing r y).free = s.free := rfl
@[simp] theorem State.setRing_pending (r : Nat) (y : Ring) : (s.setRing r y).pending = s.pending := rfl
@[simp] theorem State.setRing_rd (r : Nat) (y : Ring) (f : Field) (i : Nat) : (s.setRing r y).rd f i = s.rd f i := rfl
@[simp] theorem State.wr_ring (f : Field) (i v : Nat) (r : Nat) : (s.wr f i v).ring r = s.ring r := by
  simp [State.ring]
@[simp] theorem State.setRing_lane (r : Nat) (y : Ring) (j : Nat) : (s.setRing r y).lane j = s.lane j := rfl
@[simp] theorem State.setRing_cage (r : Nat) (y : Ring) (j : Nat) : (s.setRing r y).cage j = s.cage j := rfl
@[simp] theorem State.setRing_bp (r : Nat) (y : Ring) (j : Nat) : (s.setRing r y).bp j = s.bp j := rfl
@[simp] theorem State.setRing_port (r : Nat) (y : Ring) (j : Nat) : (s.setRing r y).port j = s.port j := rfl
@[simp] theorem State.setRing_pwm (r : Nat) (y : Ring) (j : Nat) : (s.setRing r y).pwm j = s.pwm j := rfl
@[simp] theorem State.setRing_conv (r : Nat) (y : Ring) (j : Nat) : (s.setRing r y).conv j = s.conv j := rfl
@[simp] theorem State.setRing_die (r : Nat) (y : Ring) (j : Nat) : (s.setRing r y).die j = s.die j := rfl
@[simp] theorem State.setRing_reader (r : Nat) (y : Ring) (j : Nat) : (s.setRing r y).reader j = s.reader j := rfl
theorem State.ring_setRing (hs : Store.wf (fun _ => {}) s.rings = true) (r : Nat) (y : Ring) (j : Nat) :
    (s.setRing r y).ring j = if j = r then y else s.ring j := Store.get_set (lo := 0) hs _ _ _

@[simp] theorem State.setBp_regs (n : Nat) (y : Bp) : (s.setBp n y).regs = s.regs := rfl
@[simp] theorem State.setBp_hard (n : Nat) (y : Bp) : (s.setBp n y).hard = s.hard := rfl
@[simp] theorem State.setBp_readers (n : Nat) (y : Bp) : (s.setBp n y).readers = s.readers := rfl
@[simp] theorem State.setBp_clk (n : Nat) (y : Bp) : (s.setBp n y).clk = s.clk := rfl
@[simp] theorem State.setBp_ports (n : Nat) (y : Bp) : (s.setBp n y).ports = s.ports := rfl
@[simp] theorem State.setBp_pwms (n : Nat) (y : Bp) : (s.setBp n y).pwms = s.pwms := rfl
@[simp] theorem State.setBp_convs (n : Nat) (y : Bp) : (s.setBp n y).convs = s.convs := rfl
@[simp] theorem State.setBp_dies (n : Nat) (y : Bp) : (s.setBp n y).dies = s.dies := rfl
@[simp] theorem State.setBp_plRun (n : Nat) (y : Bp) : (s.setBp n y).plRun = s.plRun := rfl
@[simp] theorem State.setBp_thm (n : Nat) (y : Bp) : (s.setBp n y).thm = s.thm := rfl
@[simp] theorem State.setBp_pins (n : Nat) (y : Bp) : (s.setBp n y).pins = s.pins := rfl
@[simp] theorem State.setBp_remoteDet (n : Nat) (y : Bp) : (s.setBp n y).remoteDet = s.remoteDet := rfl
@[simp] theorem State.setBp_tiles (n : Nat) (y : Bp) : (s.setBp n y).tiles = s.tiles := rfl
@[simp] theorem State.setBp_plain (n : Nat) (y : Bp) : (s.setBp n y).plain = s.plain := rfl
@[simp] theorem State.setBp_lanes (n : Nat) (y : Bp) : (s.setBp n y).lanes = s.lanes := rfl
@[simp] theorem State.setBp_cages (n : Nat) (y : Bp) : (s.setBp n y).cages = s.cages := rfl
@[simp] theorem State.setBp_rings (n : Nat) (y : Bp) : (s.setBp n y).rings = s.rings := rfl
@[simp] theorem State.setBp_plumb (n : Nat) (y : Bp) : (s.setBp n y).plumb = s.plumb := rfl
@[simp] theorem State.setBp_col (n : Nat) (y : Bp) : (s.setBp n y).col = s.col := rfl
@[simp] theorem State.setBp_net (n : Nat) (y : Bp) : (s.setBp n y).net = s.net := rfl
@[simp] theorem State.setBp_fcl (n : Nat) (y : Bp) : (s.setBp n y).fcl = s.fcl := rfl
@[simp] theorem State.setBp_frs (n : Nat) (y : Bp) : (s.setBp n y).frs = s.frs := rfl
@[simp] theorem State.setBp_cnt (n : Nat) (y : Bp) : (s.setBp n y).cnt = s.cnt := rfl
@[simp] theorem State.setBp_scr (n : Nat) (y : Bp) : (s.setBp n y).scr = s.scr := rfl
@[simp] theorem State.setBp_kct (n : Nat) (y : Bp) : (s.setBp n y).kct = s.kct := rfl
@[simp] theorem State.setBp_factory (n : Nat) (y : Bp) : (s.setBp n y).factory = s.factory := rfl
@[simp] theorem State.setBp_free (n : Nat) (y : Bp) : (s.setBp n y).free = s.free := rfl
@[simp] theorem State.setBp_pending (n : Nat) (y : Bp) : (s.setBp n y).pending = s.pending := rfl
@[simp] theorem State.setBp_rd (n : Nat) (y : Bp) (f : Field) (i : Nat) : (s.setBp n y).rd f i = s.rd f i := rfl
@[simp] theorem State.wr_bp (f : Field) (i v : Nat) (n : Nat) : (s.wr f i v).bp n = s.bp n := by
  simp [State.bp]
@[simp] theorem State.setBp_lane (n : Nat) (y : Bp) (j : Nat) : (s.setBp n y).lane j = s.lane j := rfl
@[simp] theorem State.setBp_cage (n : Nat) (y : Bp) (j : Nat) : (s.setBp n y).cage j = s.cage j := rfl
@[simp] theorem State.setBp_ring (n : Nat) (y : Bp) (j : Nat) : (s.setBp n y).ring j = s.ring j := rfl
@[simp] theorem State.setBp_port (n : Nat) (y : Bp) (j : Nat) : (s.setBp n y).port j = s.port j := rfl
@[simp] theorem State.setBp_pwm (n : Nat) (y : Bp) (j : Nat) : (s.setBp n y).pwm j = s.pwm j := rfl
@[simp] theorem State.setBp_conv (n : Nat) (y : Bp) (j : Nat) : (s.setBp n y).conv j = s.conv j := rfl
@[simp] theorem State.setBp_die (n : Nat) (y : Bp) (j : Nat) : (s.setBp n y).die j = s.die j := rfl
@[simp] theorem State.setBp_reader (n : Nat) (y : Bp) (j : Nat) : (s.setBp n y).reader j = s.reader j := rfl
theorem State.bp_setBp (hs : Store.wf (fun _ => {}) s.bps = true) (n : Nat) (y : Bp) (j : Nat) :
    (s.setBp n y).bp j = if j = n then y else s.bp j := Store.get_set (lo := 0) hs _ _ _

@[simp] theorem State.setPort_regs (p : Nat) (y : Port) : (s.setPort p y).regs = s.regs := rfl
@[simp] theorem State.setPort_hard (p : Nat) (y : Port) : (s.setPort p y).hard = s.hard := rfl
@[simp] theorem State.setPort_readers (p : Nat) (y : Port) : (s.setPort p y).readers = s.readers := rfl
@[simp] theorem State.setPort_clk (p : Nat) (y : Port) : (s.setPort p y).clk = s.clk := rfl
@[simp] theorem State.setPort_bps (p : Nat) (y : Port) : (s.setPort p y).bps = s.bps := rfl
@[simp] theorem State.setPort_pwms (p : Nat) (y : Port) : (s.setPort p y).pwms = s.pwms := rfl
@[simp] theorem State.setPort_convs (p : Nat) (y : Port) : (s.setPort p y).convs = s.convs := rfl
@[simp] theorem State.setPort_dies (p : Nat) (y : Port) : (s.setPort p y).dies = s.dies := rfl
@[simp] theorem State.setPort_plRun (p : Nat) (y : Port) : (s.setPort p y).plRun = s.plRun := rfl
@[simp] theorem State.setPort_thm (p : Nat) (y : Port) : (s.setPort p y).thm = s.thm := rfl
@[simp] theorem State.setPort_pins (p : Nat) (y : Port) : (s.setPort p y).pins = s.pins := rfl
@[simp] theorem State.setPort_remoteDet (p : Nat) (y : Port) : (s.setPort p y).remoteDet = s.remoteDet := rfl
@[simp] theorem State.setPort_tiles (p : Nat) (y : Port) : (s.setPort p y).tiles = s.tiles := rfl
@[simp] theorem State.setPort_plain (p : Nat) (y : Port) : (s.setPort p y).plain = s.plain := rfl
@[simp] theorem State.setPort_lanes (p : Nat) (y : Port) : (s.setPort p y).lanes = s.lanes := rfl
@[simp] theorem State.setPort_cages (p : Nat) (y : Port) : (s.setPort p y).cages = s.cages := rfl
@[simp] theorem State.setPort_rings (p : Nat) (y : Port) : (s.setPort p y).rings = s.rings := rfl
@[simp] theorem State.setPort_plumb (p : Nat) (y : Port) : (s.setPort p y).plumb = s.plumb := rfl
@[simp] theorem State.setPort_col (p : Nat) (y : Port) : (s.setPort p y).col = s.col := rfl
@[simp] theorem State.setPort_net (p : Nat) (y : Port) : (s.setPort p y).net = s.net := rfl
@[simp] theorem State.setPort_fcl (p : Nat) (y : Port) : (s.setPort p y).fcl = s.fcl := rfl
@[simp] theorem State.setPort_frs (p : Nat) (y : Port) : (s.setPort p y).frs = s.frs := rfl
@[simp] theorem State.setPort_cnt (p : Nat) (y : Port) : (s.setPort p y).cnt = s.cnt := rfl
@[simp] theorem State.setPort_scr (p : Nat) (y : Port) : (s.setPort p y).scr = s.scr := rfl
@[simp] theorem State.setPort_kct (p : Nat) (y : Port) : (s.setPort p y).kct = s.kct := rfl
@[simp] theorem State.setPort_factory (p : Nat) (y : Port) : (s.setPort p y).factory = s.factory := rfl
@[simp] theorem State.setPort_free (p : Nat) (y : Port) : (s.setPort p y).free = s.free := rfl
@[simp] theorem State.setPort_pending (p : Nat) (y : Port) : (s.setPort p y).pending = s.pending := rfl
@[simp] theorem State.setPort_rd (p : Nat) (y : Port) (f : Field) (i : Nat) : (s.setPort p y).rd f i = s.rd f i := rfl
@[simp] theorem State.wr_port (f : Field) (i v : Nat) (p : Nat) : (s.wr f i v).port p = s.port p := by
  simp [State.port]
@[simp] theorem State.setPort_lane (p : Nat) (y : Port) (j : Nat) : (s.setPort p y).lane j = s.lane j := rfl
@[simp] theorem State.setPort_cage (p : Nat) (y : Port) (j : Nat) : (s.setPort p y).cage j = s.cage j := rfl
@[simp] theorem State.setPort_ring (p : Nat) (y : Port) (j : Nat) : (s.setPort p y).ring j = s.ring j := rfl
@[simp] theorem State.setPort_bp (p : Nat) (y : Port) (j : Nat) : (s.setPort p y).bp j = s.bp j := rfl
@[simp] theorem State.setPort_pwm (p : Nat) (y : Port) (j : Nat) : (s.setPort p y).pwm j = s.pwm j := rfl
@[simp] theorem State.setPort_conv (p : Nat) (y : Port) (j : Nat) : (s.setPort p y).conv j = s.conv j := rfl
@[simp] theorem State.setPort_die (p : Nat) (y : Port) (j : Nat) : (s.setPort p y).die j = s.die j := rfl
@[simp] theorem State.setPort_reader (p : Nat) (y : Port) (j : Nat) : (s.setPort p y).reader j = s.reader j := rfl
theorem State.port_setPort (hs : Store.wf (fun _ => {}) s.ports = true) (p : Nat) (y : Port) (j : Nat) :
    (s.setPort p y).port j = if j = p then y else s.port j := Store.get_set (lo := 0) hs _ _ _

@[simp] theorem State.setPwm_regs (k : Nat) (y : Pwm) : (s.setPwm k y).regs = s.regs := rfl
@[simp] theorem State.setPwm_hard (k : Nat) (y : Pwm) : (s.setPwm k y).hard = s.hard := rfl
@[simp] theorem State.setPwm_readers (k : Nat) (y : Pwm) : (s.setPwm k y).readers = s.readers := rfl
@[simp] theorem State.setPwm_clk (k : Nat) (y : Pwm) : (s.setPwm k y).clk = s.clk := rfl
@[simp] theorem State.setPwm_bps (k : Nat) (y : Pwm) : (s.setPwm k y).bps = s.bps := rfl
@[simp] theorem State.setPwm_ports (k : Nat) (y : Pwm) : (s.setPwm k y).ports = s.ports := rfl
@[simp] theorem State.setPwm_convs (k : Nat) (y : Pwm) : (s.setPwm k y).convs = s.convs := rfl
@[simp] theorem State.setPwm_dies (k : Nat) (y : Pwm) : (s.setPwm k y).dies = s.dies := rfl
@[simp] theorem State.setPwm_plRun (k : Nat) (y : Pwm) : (s.setPwm k y).plRun = s.plRun := rfl
@[simp] theorem State.setPwm_thm (k : Nat) (y : Pwm) : (s.setPwm k y).thm = s.thm := rfl
@[simp] theorem State.setPwm_pins (k : Nat) (y : Pwm) : (s.setPwm k y).pins = s.pins := rfl
@[simp] theorem State.setPwm_remoteDet (k : Nat) (y : Pwm) : (s.setPwm k y).remoteDet = s.remoteDet := rfl
@[simp] theorem State.setPwm_tiles (k : Nat) (y : Pwm) : (s.setPwm k y).tiles = s.tiles := rfl
@[simp] theorem State.setPwm_plain (k : Nat) (y : Pwm) : (s.setPwm k y).plain = s.plain := rfl
@[simp] theorem State.setPwm_lanes (k : Nat) (y : Pwm) : (s.setPwm k y).lanes = s.lanes := rfl
@[simp] theorem State.setPwm_cages (k : Nat) (y : Pwm) : (s.setPwm k y).cages = s.cages := rfl
@[simp] theorem State.setPwm_rings (k : Nat) (y : Pwm) : (s.setPwm k y).rings = s.rings := rfl
@[simp] theorem State.setPwm_plumb (k : Nat) (y : Pwm) : (s.setPwm k y).plumb = s.plumb := rfl
@[simp] theorem State.setPwm_col (k : Nat) (y : Pwm) : (s.setPwm k y).col = s.col := rfl
@[simp] theorem State.setPwm_net (k : Nat) (y : Pwm) : (s.setPwm k y).net = s.net := rfl
@[simp] theorem State.setPwm_fcl (k : Nat) (y : Pwm) : (s.setPwm k y).fcl = s.fcl := rfl
@[simp] theorem State.setPwm_frs (k : Nat) (y : Pwm) : (s.setPwm k y).frs = s.frs := rfl
@[simp] theorem State.setPwm_cnt (k : Nat) (y : Pwm) : (s.setPwm k y).cnt = s.cnt := rfl
@[simp] theorem State.setPwm_scr (k : Nat) (y : Pwm) : (s.setPwm k y).scr = s.scr := rfl
@[simp] theorem State.setPwm_kct (k : Nat) (y : Pwm) : (s.setPwm k y).kct = s.kct := rfl
@[simp] theorem State.setPwm_factory (k : Nat) (y : Pwm) : (s.setPwm k y).factory = s.factory := rfl
@[simp] theorem State.setPwm_free (k : Nat) (y : Pwm) : (s.setPwm k y).free = s.free := rfl
@[simp] theorem State.setPwm_pending (k : Nat) (y : Pwm) : (s.setPwm k y).pending = s.pending := rfl
@[simp] theorem State.setPwm_rd (k : Nat) (y : Pwm) (f : Field) (i : Nat) : (s.setPwm k y).rd f i = s.rd f i := rfl
@[simp] theorem State.wr_pwm (f : Field) (i v : Nat) (k : Nat) : (s.wr f i v).pwm k = s.pwm k := by
  simp [State.pwm]
@[simp] theorem State.setPwm_lane (k : Nat) (y : Pwm) (j : Nat) : (s.setPwm k y).lane j = s.lane j := rfl
@[simp] theorem State.setPwm_cage (k : Nat) (y : Pwm) (j : Nat) : (s.setPwm k y).cage j = s.cage j := rfl
@[simp] theorem State.setPwm_ring (k : Nat) (y : Pwm) (j : Nat) : (s.setPwm k y).ring j = s.ring j := rfl
@[simp] theorem State.setPwm_bp (k : Nat) (y : Pwm) (j : Nat) : (s.setPwm k y).bp j = s.bp j := rfl
@[simp] theorem State.setPwm_port (k : Nat) (y : Pwm) (j : Nat) : (s.setPwm k y).port j = s.port j := rfl
@[simp] theorem State.setPwm_conv (k : Nat) (y : Pwm) (j : Nat) : (s.setPwm k y).conv j = s.conv j := rfl
@[simp] theorem State.setPwm_die (k : Nat) (y : Pwm) (j : Nat) : (s.setPwm k y).die j = s.die j := rfl
@[simp] theorem State.setPwm_reader (k : Nat) (y : Pwm) (j : Nat) : (s.setPwm k y).reader j = s.reader j := rfl
theorem State.pwm_setPwm (hs : Store.wf (fun _ => {}) s.pwms = true) (k : Nat) (y : Pwm) (j : Nat) :
    (s.setPwm k y).pwm j = if j = k then y else s.pwm j := Store.get_set (lo := 0) hs _ _ _

@[simp] theorem State.setConv_regs (x : Nat) (y : Conv) : (s.setConv x y).regs = s.regs := rfl
@[simp] theorem State.setConv_hard (x : Nat) (y : Conv) : (s.setConv x y).hard = s.hard := rfl
@[simp] theorem State.setConv_readers (x : Nat) (y : Conv) : (s.setConv x y).readers = s.readers := rfl
@[simp] theorem State.setConv_clk (x : Nat) (y : Conv) : (s.setConv x y).clk = s.clk := rfl
@[simp] theorem State.setConv_bps (x : Nat) (y : Conv) : (s.setConv x y).bps = s.bps := rfl
@[simp] theorem State.setConv_ports (x : Nat) (y : Conv) : (s.setConv x y).ports = s.ports := rfl
@[simp] theorem State.setConv_pwms (x : Nat) (y : Conv) : (s.setConv x y).pwms = s.pwms := rfl
@[simp] theorem State.setConv_dies (x : Nat) (y : Conv) : (s.setConv x y).dies = s.dies := rfl
@[simp] theorem State.setConv_plRun (x : Nat) (y : Conv) : (s.setConv x y).plRun = s.plRun := rfl
@[simp] theorem State.setConv_thm (x : Nat) (y : Conv) : (s.setConv x y).thm = s.thm := rfl
@[simp] theorem State.setConv_pins (x : Nat) (y : Conv) : (s.setConv x y).pins = s.pins := rfl
@[simp] theorem State.setConv_remoteDet (x : Nat) (y : Conv) : (s.setConv x y).remoteDet = s.remoteDet := rfl
@[simp] theorem State.setConv_tiles (x : Nat) (y : Conv) : (s.setConv x y).tiles = s.tiles := rfl
@[simp] theorem State.setConv_plain (x : Nat) (y : Conv) : (s.setConv x y).plain = s.plain := rfl
@[simp] theorem State.setConv_lanes (x : Nat) (y : Conv) : (s.setConv x y).lanes = s.lanes := rfl
@[simp] theorem State.setConv_cages (x : Nat) (y : Conv) : (s.setConv x y).cages = s.cages := rfl
@[simp] theorem State.setConv_rings (x : Nat) (y : Conv) : (s.setConv x y).rings = s.rings := rfl
@[simp] theorem State.setConv_plumb (x : Nat) (y : Conv) : (s.setConv x y).plumb = s.plumb := rfl
@[simp] theorem State.setConv_col (x : Nat) (y : Conv) : (s.setConv x y).col = s.col := rfl
@[simp] theorem State.setConv_net (x : Nat) (y : Conv) : (s.setConv x y).net = s.net := rfl
@[simp] theorem State.setConv_fcl (x : Nat) (y : Conv) : (s.setConv x y).fcl = s.fcl := rfl
@[simp] theorem State.setConv_frs (x : Nat) (y : Conv) : (s.setConv x y).frs = s.frs := rfl
@[simp] theorem State.setConv_cnt (x : Nat) (y : Conv) : (s.setConv x y).cnt = s.cnt := rfl
@[simp] theorem State.setConv_scr (x : Nat) (y : Conv) : (s.setConv x y).scr = s.scr := rfl
@[simp] theorem State.setConv_kct (x : Nat) (y : Conv) : (s.setConv x y).kct = s.kct := rfl
@[simp] theorem State.setConv_factory (x : Nat) (y : Conv) : (s.setConv x y).factory = s.factory := rfl
@[simp] theorem State.setConv_free (x : Nat) (y : Conv) : (s.setConv x y).free = s.free := rfl
@[simp] theorem State.setConv_pending (x : Nat) (y : Conv) : (s.setConv x y).pending = s.pending := rfl
@[simp] theorem State.setConv_rd (x : Nat) (y : Conv) (f : Field) (i : Nat) : (s.setConv x y).rd f i = s.rd f i := rfl
@[simp] theorem State.wr_conv (f : Field) (i v : Nat) (x : Nat) : (s.wr f i v).conv x = s.conv x := by
  simp [State.conv]
@[simp] theorem State.setConv_lane (x : Nat) (y : Conv) (j : Nat) : (s.setConv x y).lane j = s.lane j := rfl
@[simp] theorem State.setConv_cage (x : Nat) (y : Conv) (j : Nat) : (s.setConv x y).cage j = s.cage j := rfl
@[simp] theorem State.setConv_ring (x : Nat) (y : Conv) (j : Nat) : (s.setConv x y).ring j = s.ring j := rfl
@[simp] theorem State.setConv_bp (x : Nat) (y : Conv) (j : Nat) : (s.setConv x y).bp j = s.bp j := rfl
@[simp] theorem State.setConv_port (x : Nat) (y : Conv) (j : Nat) : (s.setConv x y).port j = s.port j := rfl
@[simp] theorem State.setConv_pwm (x : Nat) (y : Conv) (j : Nat) : (s.setConv x y).pwm j = s.pwm j := rfl
@[simp] theorem State.setConv_die (x : Nat) (y : Conv) (j : Nat) : (s.setConv x y).die j = s.die j := rfl
@[simp] theorem State.setConv_reader (x : Nat) (y : Conv) (j : Nat) : (s.setConv x y).reader j = s.reader j := rfl
theorem State.conv_setConv (hs : Store.wf (fun _ => {}) s.convs = true) (x : Nat) (y : Conv) (j : Nat) :
    (s.setConv x y).conv j = if j = x then y else s.conv j := Store.get_set (lo := 0) hs _ _ _

@[simp] theorem State.setDie_regs (e : Nat) (y : Die) : (s.setDie e y).regs = s.regs := rfl
@[simp] theorem State.setDie_hard (e : Nat) (y : Die) : (s.setDie e y).hard = s.hard := rfl
@[simp] theorem State.setDie_readers (e : Nat) (y : Die) : (s.setDie e y).readers = s.readers := rfl
@[simp] theorem State.setDie_clk (e : Nat) (y : Die) : (s.setDie e y).clk = s.clk := rfl
@[simp] theorem State.setDie_bps (e : Nat) (y : Die) : (s.setDie e y).bps = s.bps := rfl
@[simp] theorem State.setDie_ports (e : Nat) (y : Die) : (s.setDie e y).ports = s.ports := rfl
@[simp] theorem State.setDie_pwms (e : Nat) (y : Die) : (s.setDie e y).pwms = s.pwms := rfl
@[simp] theorem State.setDie_convs (e : Nat) (y : Die) : (s.setDie e y).convs = s.convs := rfl
@[simp] theorem State.setDie_plRun (e : Nat) (y : Die) : (s.setDie e y).plRun = s.plRun := rfl
@[simp] theorem State.setDie_thm (e : Nat) (y : Die) : (s.setDie e y).thm = s.thm := rfl
@[simp] theorem State.setDie_pins (e : Nat) (y : Die) : (s.setDie e y).pins = s.pins := rfl
@[simp] theorem State.setDie_remoteDet (e : Nat) (y : Die) : (s.setDie e y).remoteDet = s.remoteDet := rfl
@[simp] theorem State.setDie_tiles (e : Nat) (y : Die) : (s.setDie e y).tiles = s.tiles := rfl
@[simp] theorem State.setDie_plain (e : Nat) (y : Die) : (s.setDie e y).plain = s.plain := rfl
@[simp] theorem State.setDie_lanes (e : Nat) (y : Die) : (s.setDie e y).lanes = s.lanes := rfl
@[simp] theorem State.setDie_cages (e : Nat) (y : Die) : (s.setDie e y).cages = s.cages := rfl
@[simp] theorem State.setDie_rings (e : Nat) (y : Die) : (s.setDie e y).rings = s.rings := rfl
@[simp] theorem State.setDie_plumb (e : Nat) (y : Die) : (s.setDie e y).plumb = s.plumb := rfl
@[simp] theorem State.setDie_col (e : Nat) (y : Die) : (s.setDie e y).col = s.col := rfl
@[simp] theorem State.setDie_net (e : Nat) (y : Die) : (s.setDie e y).net = s.net := rfl
@[simp] theorem State.setDie_fcl (e : Nat) (y : Die) : (s.setDie e y).fcl = s.fcl := rfl
@[simp] theorem State.setDie_frs (e : Nat) (y : Die) : (s.setDie e y).frs = s.frs := rfl
@[simp] theorem State.setDie_cnt (e : Nat) (y : Die) : (s.setDie e y).cnt = s.cnt := rfl
@[simp] theorem State.setDie_scr (e : Nat) (y : Die) : (s.setDie e y).scr = s.scr := rfl
@[simp] theorem State.setDie_kct (e : Nat) (y : Die) : (s.setDie e y).kct = s.kct := rfl
@[simp] theorem State.setDie_factory (e : Nat) (y : Die) : (s.setDie e y).factory = s.factory := rfl
@[simp] theorem State.setDie_free (e : Nat) (y : Die) : (s.setDie e y).free = s.free := rfl
@[simp] theorem State.setDie_pending (e : Nat) (y : Die) : (s.setDie e y).pending = s.pending := rfl
@[simp] theorem State.setDie_rd (e : Nat) (y : Die) (f : Field) (i : Nat) : (s.setDie e y).rd f i = s.rd f i := rfl
@[simp] theorem State.wr_die (f : Field) (i v : Nat) (e : Nat) : (s.wr f i v).die e = s.die e := by
  simp [State.die]
@[simp] theorem State.setDie_lane (e : Nat) (y : Die) (j : Nat) : (s.setDie e y).lane j = s.lane j := rfl
@[simp] theorem State.setDie_cage (e : Nat) (y : Die) (j : Nat) : (s.setDie e y).cage j = s.cage j := rfl
@[simp] theorem State.setDie_ring (e : Nat) (y : Die) (j : Nat) : (s.setDie e y).ring j = s.ring j := rfl
@[simp] theorem State.setDie_bp (e : Nat) (y : Die) (j : Nat) : (s.setDie e y).bp j = s.bp j := rfl
@[simp] theorem State.setDie_port (e : Nat) (y : Die) (j : Nat) : (s.setDie e y).port j = s.port j := rfl
@[simp] theorem State.setDie_pwm (e : Nat) (y : Die) (j : Nat) : (s.setDie e y).pwm j = s.pwm j := rfl
@[simp] theorem State.setDie_conv (e : Nat) (y : Die) (j : Nat) : (s.setDie e y).conv j = s.conv j := rfl
@[simp] theorem State.setDie_reader (e : Nat) (y : Die) (j : Nat) : (s.setDie e y).reader j = s.reader j := rfl
theorem State.die_setDie (hs : Store.wf (fun _ => {}) s.dies = true) (e : Nat) (y : Die) (j : Nat) :
    (s.setDie e y).die j = if j = e then y else s.die j := Store.get_set (lo := 0) hs _ _ _

@[simp] theorem State.setReader_regs (q : Nat) (y : Reader) : (s.setReader q y).regs = s.regs := rfl
@[simp] theorem State.setReader_hard (q : Nat) (y : Reader) : (s.setReader q y).hard = s.hard := rfl
@[simp] theorem State.setReader_clk (q : Nat) (y : Reader) : (s.setReader q y).clk = s.clk := rfl
@[simp] theorem State.setReader_bps (q : Nat) (y : Reader) : (s.setReader q y).bps = s.bps := rfl
@[simp] theorem State.setReader_ports (q : Nat) (y : Reader) : (s.setReader q y).ports = s.ports := rfl
@[simp] theorem State.setReader_pwms (q : Nat) (y : Reader) : (s.setReader q y).pwms = s.pwms := rfl
@[simp] theorem State.setReader_convs (q : Nat) (y : Reader) : (s.setReader q y).convs = s.convs := rfl
@[simp] theorem State.setReader_dies (q : Nat) (y : Reader) : (s.setReader q y).dies = s.dies := rfl
@[simp] theorem State.setReader_plRun (q : Nat) (y : Reader) : (s.setReader q y).plRun = s.plRun := rfl
@[simp] theorem State.setReader_thm (q : Nat) (y : Reader) : (s.setReader q y).thm = s.thm := rfl
@[simp] theorem State.setReader_pins (q : Nat) (y : Reader) : (s.setReader q y).pins = s.pins := rfl
@[simp] theorem State.setReader_remoteDet (q : Nat) (y : Reader) : (s.setReader q y).remoteDet = s.remoteDet := rfl
@[simp] theorem State.setReader_tiles (q : Nat) (y : Reader) : (s.setReader q y).tiles = s.tiles := rfl
@[simp] theorem State.setReader_plain (q : Nat) (y : Reader) : (s.setReader q y).plain = s.plain := rfl
@[simp] theorem State.setReader_lanes (q : Nat) (y : Reader) : (s.setReader q y).lanes = s.lanes := rfl
@[simp] theorem State.setReader_cages (q : Nat) (y : Reader) : (s.setReader q y).cages = s.cages := rfl
@[simp] theorem State.setReader_rings (q : Nat) (y : Reader) : (s.setReader q y).rings = s.rings := rfl
@[simp] theorem State.setReader_plumb (q : Nat) (y : Reader) : (s.setReader q y).plumb = s.plumb := rfl
@[simp] theorem State.setReader_col (q : Nat) (y : Reader) : (s.setReader q y).col = s.col := rfl
@[simp] theorem State.setReader_net (q : Nat) (y : Reader) : (s.setReader q y).net = s.net := rfl
@[simp] theorem State.setReader_fcl (q : Nat) (y : Reader) : (s.setReader q y).fcl = s.fcl := rfl
@[simp] theorem State.setReader_frs (q : Nat) (y : Reader) : (s.setReader q y).frs = s.frs := rfl
@[simp] theorem State.setReader_cnt (q : Nat) (y : Reader) : (s.setReader q y).cnt = s.cnt := rfl
@[simp] theorem State.setReader_scr (q : Nat) (y : Reader) : (s.setReader q y).scr = s.scr := rfl
@[simp] theorem State.setReader_kct (q : Nat) (y : Reader) : (s.setReader q y).kct = s.kct := rfl
@[simp] theorem State.setReader_factory (q : Nat) (y : Reader) : (s.setReader q y).factory = s.factory := rfl
@[simp] theorem State.setReader_free (q : Nat) (y : Reader) : (s.setReader q y).free = s.free := rfl
@[simp] theorem State.setReader_pending (q : Nat) (y : Reader) : (s.setReader q y).pending = s.pending := rfl
@[simp] theorem State.setReader_rd (q : Nat) (y : Reader) (f : Field) (i : Nat) : (s.setReader q y).rd f i = s.rd f i := rfl
@[simp] theorem State.wr_reader (f : Field) (i v : Nat) (q : Nat) : (s.wr f i v).reader q = s.reader q := by
  simp [State.reader]
@[simp] theorem State.setReader_lane (q : Nat) (y : Reader) (j : Nat) : (s.setReader q y).lane j = s.lane j := rfl
@[simp] theorem State.setReader_cage (q : Nat) (y : Reader) (j : Nat) : (s.setReader q y).cage j = s.cage j := rfl
@[simp] theorem State.setReader_ring (q : Nat) (y : Reader) (j : Nat) : (s.setReader q y).ring j = s.ring j := rfl
@[simp] theorem State.setReader_bp (q : Nat) (y : Reader) (j : Nat) : (s.setReader q y).bp j = s.bp j := rfl
@[simp] theorem State.setReader_port (q : Nat) (y : Reader) (j : Nat) : (s.setReader q y).port j = s.port j := rfl
@[simp] theorem State.setReader_pwm (q : Nat) (y : Reader) (j : Nat) : (s.setReader q y).pwm j = s.pwm j := rfl
@[simp] theorem State.setReader_conv (q : Nat) (y : Reader) (j : Nat) : (s.setReader q y).conv j = s.conv j := rfl
@[simp] theorem State.setReader_die (q : Nat) (y : Reader) (j : Nat) : (s.setReader q y).die j = s.die j := rfl
theorem State.reader_setReader (hs : Store.wf (fun _ => {}) s.readers = true) (q : Nat) (y : Reader) (j : Nat) :
    (s.setReader q y).reader j = if j = q then y else s.reader j := Store.get_set (lo := 0) hs _ _ _

/-! ### Updates of one part leave the register fields alone -/

@[simp] theorem State.rd_put_readers (x) (f : Field) (i : Nat) : ({ s with readers := x } : State).rd f i = s.rd f i := rfl
@[simp] theorem State.rd_put_clk (x) (f : Field) (i : Nat) : ({ s with clk := x } : State).rd f i = s.rd f i := rfl
@[simp] theorem State.rd_put_bps (x) (f : Field) (i : Nat) : ({ s with bps := x } : State).rd f i = s.rd f i := rfl
@[simp] theorem State.rd_put_ports (x) (f : Field) (i : Nat) : ({ s with ports := x } : State).rd f i = s.rd f i := rfl
@[simp] theorem State.rd_put_pwms (x) (f : Field) (i : Nat) : ({ s with pwms := x } : State).rd f i = s.rd f i := rfl
@[simp] theorem State.rd_put_convs (x) (f : Field) (i : Nat) : ({ s with convs := x } : State).rd f i = s.rd f i := rfl
@[simp] theorem State.rd_put_dies (x) (f : Field) (i : Nat) : ({ s with dies := x } : State).rd f i = s.rd f i := rfl
@[simp] theorem State.rd_put_plRun (x) (f : Field) (i : Nat) : ({ s with plRun := x } : State).rd f i = s.rd f i := rfl
@[simp] theorem State.rd_put_thm (x) (f : Field) (i : Nat) : ({ s with thm := x } : State).rd f i = s.rd f i := rfl
@[simp] theorem State.rd_put_pins (x) (f : Field) (i : Nat) : ({ s with pins := x } : State).rd f i = s.rd f i := rfl
@[simp] theorem State.rd_put_remoteDet (x) (f : Field) (i : Nat) : ({ s with remoteDet := x } : State).rd f i = s.rd f i := rfl
@[simp] theorem State.rd_put_tiles (x) (f : Field) (i : Nat) : ({ s with tiles := x } : State).rd f i = s.rd f i := rfl
@[simp] theorem State.rd_put_plain (x) (f : Field) (i : Nat) : ({ s with plain := x } : State).rd f i = s.rd f i := rfl
@[simp] theorem State.rd_put_lanes (x) (f : Field) (i : Nat) : ({ s with lanes := x } : State).rd f i = s.rd f i := rfl
@[simp] theorem State.rd_put_cages (x) (f : Field) (i : Nat) : ({ s with cages := x } : State).rd f i = s.rd f i := rfl
@[simp] theorem State.rd_put_rings (x) (f : Field) (i : Nat) : ({ s with rings := x } : State).rd f i = s.rd f i := rfl
@[simp] theorem State.rd_put_plumb (x) (f : Field) (i : Nat) : ({ s with plumb := x } : State).rd f i = s.rd f i := rfl
@[simp] theorem State.rd_put_col (x) (f : Field) (i : Nat) : ({ s with col := x } : State).rd f i = s.rd f i := rfl
@[simp] theorem State.rd_put_net (x) (f : Field) (i : Nat) : ({ s with net := x } : State).rd f i = s.rd f i := rfl
@[simp] theorem State.rd_put_fcl (x) (f : Field) (i : Nat) : ({ s with fcl := x } : State).rd f i = s.rd f i := rfl
@[simp] theorem State.rd_put_frs (x) (f : Field) (i : Nat) : ({ s with frs := x } : State).rd f i = s.rd f i := rfl
@[simp] theorem State.rd_put_cnt (x) (f : Field) (i : Nat) : ({ s with cnt := x } : State).rd f i = s.rd f i := rfl
@[simp] theorem State.rd_put_scr (x) (f : Field) (i : Nat) : ({ s with scr := x } : State).rd f i = s.rd f i := rfl
@[simp] theorem State.rd_put_kct (x) (f : Field) (i : Nat) : ({ s with kct := x } : State).rd f i = s.rd f i := rfl
@[simp] theorem State.rd_put_factory (x) (f : Field) (i : Nat) : ({ s with factory := x } : State).rd f i = s.rd f i := rfl
@[simp] theorem State.rd_put_free (x) (f : Field) (i : Nat) : ({ s with free := x } : State).rd f i = s.rd f i := rfl
@[simp] theorem State.rd_put_pending (x) (f : Field) (i : Nat) : ({ s with pending := x } : State).rd f i = s.rd f i := rfl

end Sys2Proof.Machine
end

