-- ==== Sys2Proof/Laws/Registers.lean ====
section
/-!
SUPPORT. The register stores of a canonical state: writes and resets keep them canonical, and every field reads below 2 to
the power of its width.
-/

namespace Sys2Proof.Machine

/-- Every value of the store is within the width of its field. -/
theorem goodRegs.fits {m : Store Nat} (h : goodRegs m = true) :
    ∀ x ∈ m, x.2 < 2 ^ (Field.ofNat (x.1 % 1024)).row.width := by
  simpa using (Bool.and_eq_true_iff.1 h).2

theorem goodRegs.wf {m : Store Nat} (h : goodRegs m = true) : Store.wf fieldReset m = true :=
  (Bool.and_eq_true_iff.1 h).1

theorem goodRegs.intro {m : Store Nat} (h : Store.wf fieldReset m = true)
    (g : ∀ x ∈ m, x.2 < 2 ^ (Field.ofNat (x.1 % 1024)).row.width) : goodRegs m = true := by
  simpa [goodRegs, h] using g

theorem goodRegs.filter {m : Store Nat} (h : goodRegs m = true) (p : Nat × Nat → Bool) : goodRegs (m.filter p) = true :=
  goodRegs.intro (Store.wf_filter (goodRegs.wf h) p) fun x hx => goodRegs.fits h x (List.mem_filter.1 hx).1

/-- The field that a key names. -/
theorem fieldKey_field (f : Field) (i : Nat) : Field.ofNat (fieldKey f i % 1024) = f := by
  have h : fieldKey f i % 1024 = f.ctorIdx := by
    have := f.ctorIdx_lt
    unfold fieldKey
    omega
  rw [h, Field.ofNat_ctorIdx]

/-- An entry of a store after a write is one of before, or the one written. -/
theorem Store.mem_set {α : Type} [DecidableEq α] {d : Nat → α} {m : Store α} {k : Nat} {v : α} {x : Nat × α}
    (h : x ∈ Store.set d m k v) : x ∈ m ∨ x = (k, v) := by
  have hc : ∀ {r : Store α}, x ∈ Store.cons d k v r → x ∈ r ∨ x = (k, v) := by
    intro r h
    unfold Store.cons at h
    split at h
    · exact Or.inl h
    · exact (List.mem_cons.1 h).symm
  induction m with
  | nil => exact hc h
  | cons y rest ih =>
    obtain ⟨j, u⟩ := y
    unfold Store.set at h
    split at h
    · exact hc h
    · split at h
      · exact (hc h).imp (List.mem_cons_of_mem _) id
      · rcases List.mem_cons.1 h with h | h
        · exact Or.inl (List.mem_cons.2 (Or.inl h))
        · exact (ih h).imp (List.mem_cons_of_mem _) id

theorem goodRegs.set {m : Store Nat} (h : goodRegs m = true) (f : Field) (i v : Nat) :
    goodRegs (Store.set fieldReset m (fieldKey f i) (v % 2 ^ f.row.width)) = true := by
  refine goodRegs.intro (Store.wf_set (goodRegs.wf h) _ _) fun x hx => ?_
  rcases Store.mem_set hx with hx | rfl
  · exact goodRegs.fits h x hx
  · rw [fieldKey_field]
    exact Nat.mod_lt _ (Nat.two_pow_pos _)

/-- A write keeps the canonical form of the register store. -/
theorem State.good_wr {s : State} (hs : goodRegs s.regs = true) (f : Field) (i v : Nat) :
    goodRegs (s.wr f i v).regs = true := by
  unfold State.wr
  split
  · exact hs
  · exact goodRegs.set hs f i v

/-- Every reset value is within the width of its field. -/
theorem fieldReset_lt (f : Field) (i : Nat) : fieldReset (fieldKey f i) < 2 ^ f.row.width := by
  have hg : ∀ k < 1024, (Field.ofNat k).row.rst < 2 ^ (Field.ofNat k).row.width := by decide +kernel
  have h := hg f.ctorIdx f.ctorIdx_lt
  rw [Field.ofNat_ctorIdx] at h
  unfold fieldReset
  rw [fieldKey_field]
  dsimp only
  split
  · subst f
    have : (Field.CNT_SEL_GROUP).row.width = 3 := by decide
    rw [this]
    repeat' split
    all_goals omega
  · exact h

theorem Store.get_mem {α : Type} {d : Nat → α} {m : Store α} {k : Nat} : (k, Store.get d m k) ∈ m ∨ Store.get d m k = d k := by
  induction m with
  | nil => exact Or.inr rfl
  | cons y rest ih =>
    obtain ⟨j, u⟩ := y
    unfold Store.get
    split
    · exact Or.inr rfl
    · split
      · rename_i h
        exact Or.inl (h ▸ List.mem_cons_self ..)
      · exact ih.imp (List.mem_cons_of_mem _) id

theorem goodRegs.get_lt {m : Store Nat} (h : goodRegs m = true) (f : Field) (i : Nat) :
    Store.get fieldReset m (fieldKey f i) < 2 ^ f.row.width := by
  rcases Store.get_mem (d := fieldReset) (m := m) (k := fieldKey f i) with hm | hm
  · have := goodRegs.fits h _ hm
    rwa [fieldKey_field] at this
  · rw [hm]
    exact fieldReset_lt f i

/-- In a canonical state a field reads below 2 to the power of its width. -/
theorem State.rd_lt {s : State} (hs : s.canonical) (f : Field) (i : Nat) : s.rd f i < 2 ^ f.row.width := by
  unfold State.rd
  split
  · exact goodRegs.get_lt hs.hard f i
  · exact goodRegs.get_lt hs.regs f i

end Sys2Proof.Machine
end

