-- ==== Sys2Proof/Laws/Keeps.lean ====
section
/-!
SUPPORT. What an operation may write, as one relation between the state before and after: `s.keeps m t` says that every
register field and every part of the state outside the set `m` is as it was, and that the canonical form is kept. Every
operation of the machine has one lemma `<name>_keeps` under Laws,
  and a set `writes_<name>` that names what it may write.
-/

namespace Sys2Proof.Machine


/-- The set of the listed fields and parts, as a bit mask. -/
def writes (fs : List Field) (ps : List Part) : Nat :=
  fs.foldr (fun f m => 2 ^ f.ctorIdx ||| m) (ps.foldr (fun p m => 2 ^ (1024 + p.ctorIdx) ||| m) 0)

/-- Every register field. -/
def anyField : Nat := 2 ^ 1024 - 1

/-- The field is in the set. -/
def inSet (m : Nat) (f : Field) : Bool := m.testBit f.ctorIdx

/-- The part is in the set. -/
def partIn (m : Nat) (p : Part) : Bool := m.testBit (1024 + p.ctorIdx)

/-- `t` differs from `s` only in the fields and parts of `m`, and is canonical if `s` is. -/
structure State.keeps (m : Nat) (s t : State) : Prop where
  canon : s.canonical → t.canonical
  fields : s.canonical → ∀ f i, inSet m f = false → t.rd f i = s.rd f i
  parts : ∀ p, partIn m p = false → p.same s t

/-- A command answers a next state that differs from `s` only in the set `m`. -/
def State.answers (m : Nat) (s : State) (o : Host.Outcome State Fault Refusal) : Prop :=
  ∃ t, o = .next t ∧ State.keeps m s t

variable {m a b : Nat} {s t u : State}

theorem Part.same_refl (p : Part) : p.same s s := by cases p <;> rfl

theorem Part.same_trans {p : Part} (h : p.same s t) (g : p.same t u) : p.same s u := by
  cases p <;> exact Eq.trans g h

theorem State.keeps.refl : State.keeps m s s := ⟨id, fun _ _ _ _ => rfl, fun p _ => p.same_refl⟩

theorem State.keeps.trans (h : State.keeps m s t) (g : State.keeps m t u) : State.keeps m s u where
  canon hs := g.canon (h.canon hs)
  fields hs f i hf := (g.fields (h.canon hs) f i hf).trans (h.fields hs f i hf)
  parts p hp := Part.same_trans (h.parts p hp) (g.parts p hp)


theorem inSet_mono (h : a ||| b = b) {f : Field} (hf : inSet b f = false) : inSet a f = false := by
  unfold inSet at *
  rw [← h, Nat.testBit_or, Bool.or_eq_false_iff] at hf
  exact hf.1

theorem partIn_mono (h : a ||| b = b) {p : Part} (hp : partIn b p = false) : partIn a p = false := by
  unfold partIn at *
  rw [← h, Nat.testBit_or, Bool.or_eq_false_iff] at hp
  exact hp.1

theorem State.keeps.mono (h : State.keeps a s t) (hab : a ||| b = b) : State.keeps b s t where
  canon := h.canon
  fields hs f i hf := h.fields hs f i (inSet_mono hab hf)
  parts p hp := h.parts p (partIn_mono hab hp)

/-- One part is put in place of another, which the set allows. -/
theorem State.keeps.put (h : State.keeps m s t) {q : Part} (hq : partIn m q = true)
    (hc : s.canonical → t.canonical → u.canonical) (hr : ∀ f i, u.rd f i = t.rd f i) (hu : ∀ p, p ≠ q → p.same t u) :
    State.keeps m s u where
  canon hs := hc hs (h.canon hs)
  fields hs f i hf := (hr f i).trans (h.fields hs f i hf)
  parts p hp := Part.same_trans (h.parts p hp) (hu p fun e => by rw [e, hq] at hp; cases hp)


/-- One more operation after those that led to `t`. -/
theorem State.keeps.step (h : State.keeps m s t) (g : State.keeps a t u) (ha : a ||| m = m) : State.keeps m s u :=
  h.trans (g.mono ha)

theorem State.keeps.ite {c : Prop} [Decidable c] (h : c → State.keeps m s t) (g : ¬c → State.keeps m s u) :
    State.keeps m s (if c then t else u) := by
  split
  · exact h ‹_›
  · exact g ‹_›

theorem State.answers.ite {c : Prop} [Decidable c] {o p : Host.Outcome State Fault Refusal}
    (h : c → State.answers m s o) (g : ¬c → State.answers m s p) : State.answers m s (if c then o else p) := by
  split
  · exact h ‹_›
  · exact g ‹_›

/-- An operation that may fail answers, if it succeeds, a state that differs from `s` only in the set `m`. -/
structure State.keepsO (m : Nat) (s : State) (o : Option State) : Prop where
  out : ∀ t, o = some t → State.keeps m s t

/-- An operation that answers more than a state. -/
def State.keepsP {α : Type} (m : Nat) (s : State) (p : State × α) : Prop := State.keeps m s p.1

/-- An operation that may fail and answers more than a state. -/
structure State.keepsQ {α : Type} (m : Nat) (s : State) (o : Option (State × α)) : Prop where
  out : ∀ t x, o = some (t, x) → State.keeps m s t

theorem State.keepsO.ite {c : Prop} [Decidable c] {o p : Option State}
    (h : c → State.keepsO m s o) (g : ¬c → State.keepsO m s p) : State.keepsO m s (if c then o else p) := by
  split
  · exact h ‹_›
  · exact g ‹_›

theorem State.keepsP.ite {α : Type} {c : Prop} [Decidable c] {o p : State × α}
    (h : c → State.keepsP m s o) (g : ¬c → State.keepsP m s p) : State.keepsP m s (if c then o else p) := by
  split
  · exact h ‹_›
  · exact g ‹_›

theorem State.keepsQ.ite {α : Type} {c : Prop} [Decidable c] {o p : Option (State × α)}
    (h : c → State.keepsQ m s o) (g : ¬c → State.keepsQ m s p) : State.keepsQ m s (if c then o else p) := by
  split
  · exact h ‹_›
  · exact g ‹_›

theorem State.keepsO.none : State.keepsO m s none := by
  exact ⟨fun t h => by cases h⟩

theorem State.keepsO.some (h : State.keeps m s t) : State.keepsO m s (some t) := by
  exact ⟨fun u e => by cases e; exact h⟩

theorem State.keepsO.get {o : Option State} (h : State.keepsO m s o) (e : o = Option.some t) : State.keeps m s t := h.out t e

theorem State.keepsO.getD {o : Option State} (h : State.keepsO m s o) (g : State.keeps m s t) :
    State.keeps m s (o.getD t) := by
  cases o with
  | none => exact g
  | some u => exact h.out u rfl

theorem State.keepsO.step {o : Option State} (h : State.keeps m s t) (g : State.keepsO a t o) (ha : a ||| m = m) :
    State.keepsO m s o := ⟨fun u e => h.step (g.out u e) ha⟩

theorem State.keepsP.mk {α : Type} {x : α} (h : State.keeps m s t) : State.keepsP m s (t, x) := h

theorem State.keepsP.get {α : Type} {p : State × α} {x : α} (h : State.keepsP m s p) (e : p = (t, x)) :
    State.keeps m s t := by
  subst e; exact h

theorem State.keepsP.fst {α : Type} {p : State × α} (h : State.keepsP m s p) : State.keeps m s p.1 := h

theorem State.keepsP.step {α : Type} {p : State × α} (h : State.keeps m s t) (g : State.keepsP a t p)
    (ha : a ||| m = m) : State.keepsP m s p := h.step g ha

theorem State.keepsQ.none {α : Type} : State.keepsQ m s (none : Option (State × α)) := by
  exact ⟨fun t x h => by cases h⟩

theorem State.keepsQ.some {α : Type} {p : State × α} (h : State.keepsP m s p) : State.keepsQ m s (some p) := by
  exact ⟨fun u x e => by cases e; exact h⟩

theorem State.keepsQ.get {α : Type} {o : Option (State × α)} {x : α} (h : State.keepsQ m s o)
    (e : o = Option.some (t, x)) : State.keeps m s t := h.out t x e

theorem State.keepsQ.step {α : Type} {o : Option (State × α)} (h : State.keeps m s t) (g : State.keepsQ a t o)
    (ha : a ||| m = m) : State.keepsQ m s o := ⟨fun u x e => h.step (g.out u x e) ha⟩

theorem State.answers.next (h : State.keeps m s t) : State.answers m s (.next t) := ⟨t, rfl, h⟩

theorem State.keeps.foldl {α : Type} {f : State → α → State} {xs : List α} (h : State.keeps m s t)
    (hf : ∀ u x, State.keeps m s u → State.keeps m s (f u x)) : State.keeps m s (xs.foldl f t) := by
  induction xs generalizing t with
  | nil => exact h
  | cons x xs ih => exact ih (hf t x h)

theorem State.keeps.foldl_mem {α : Type} {f : State → α → State} {xs : List α} (h : State.keeps m s t)
    (hf : ∀ u x, x ∈ xs → State.keeps m s u → State.keeps m s (f u x)) : State.keeps m s (xs.foldl f t) := by
  induction xs generalizing t with
  | nil => exact h
  | cons x xs ih =>
    exact ih (hf t x (List.mem_cons_self ..) h) fun u y hy => hf u y (List.mem_cons_of_mem _ hy)

theorem State.keeps.forEach {α : Type} {f : α → State → State} {xs : List α} (h : State.keeps m s t)
    (hf : ∀ x u, State.keeps m s u → State.keeps m s (f x u)) : State.keeps m s (State.forEach f xs t) :=
  State.keeps.foldl h fun u x => hf x u

theorem State.keeps.forUpTo {f : Nat → State → State} {n : Nat} (h : State.keeps m s t)
    (hf : ∀ x u, State.keeps m s u → State.keeps m s (f x u)) : State.keeps m s (State.forUpTo f n t) := by
  induction n with
  | zero => exact h
  | succ n ih => exact hf n _ ih

theorem State.keeps.put_clk (h : State.keeps m s t) (x) (hp : partIn m .clk = true) :
    State.keeps m s { t with clk := x } :=
  h.put hp (fun _ hc => { hc with }) (fun _ _ => rfl) fun p hq => by cases p <;> first | rfl | exact absurd rfl hq

theorem State.keeps.put_plRun (h : State.keeps m s t) (x) (hp : partIn m .plRun = true) :
    State.keeps m s { t with plRun := x } :=
  h.put hp (fun _ hc => { hc with }) (fun _ _ => rfl) fun p hq => by cases p <;> first | rfl | exact absurd rfl hq

theorem State.keeps.put_thm (h : State.keeps m s t) (x) (hp : partIn m .thm = true) :
    State.keeps m s { t with thm := x } :=
  h.put hp (fun _ hc => { hc with }) (fun _ _ => rfl) fun p hq => by cases p <;> first | rfl | exact absurd rfl hq

theorem State.keeps.put_pins (h : State.keeps m s t) (x) (hp : partIn m .pins = true) :
    State.keeps m s { t with pins := x } :=
  h.put hp (fun _ hc => { hc with }) (fun _ _ => rfl) fun p hq => by cases p <;> first | rfl | exact absurd rfl hq

theorem State.keeps.put_remoteDet (h : State.keeps m s t) (x) (hp : partIn m .remoteDet = true) :
    State.keeps m s { t with remoteDet := x } :=
  h.put hp (fun _ hc => { hc with }) (fun _ _ => rfl) fun p hq => by cases p <;> first | rfl | exact absurd rfl hq

theorem State.keeps.put_tiles (h : State.keeps m s t) (x) (hp : partIn m .tiles = true) :
    State.keeps m s { t with tiles := x } :=
  h.put hp (fun _ hc => { hc with }) (fun _ _ => rfl) fun p hq => by cases p <;> first | rfl | exact absurd rfl hq

theorem State.keeps.put_plain (h : State.keeps m s t) (x) (hp : partIn m .plain = true) :
    State.keeps m s { t with plain := x } :=
  h.put hp (fun _ hc => { hc with }) (fun _ _ => rfl) fun p hq => by cases p <;> first | rfl | exact absurd rfl hq

theorem State.keeps.put_plumb (h : State.keeps m s t) (x) (hp : partIn m .plumb = true) :
    State.keeps m s { t with plumb := x } :=
  h.put hp (fun _ hc => { hc with }) (fun _ _ => rfl) fun p hq => by cases p <;> first | rfl | exact absurd rfl hq

theorem State.keeps.put_col (h : State.keeps m s t) (x) (hp : partIn m .col = true) :
    State.keeps m s { t with col := x } :=
  h.put hp (fun _ hc => { hc with }) (fun _ _ => rfl) fun p hq => by cases p <;> first | rfl | exact absurd rfl hq

theorem State.keeps.put_net (h : State.keeps m s t) (x) (hp : partIn m .net = true) :
    State.keeps m s { t with net := x } :=
  h.put hp (fun _ hc => { hc with }) (fun _ _ => rfl) fun p hq => by cases p <;> first | rfl | exact absurd rfl hq

theorem State.keeps.put_fcl (h : State.keeps m s t) (x) (hp : partIn m .fcl = true) :
    State.keeps m s { t with fcl := x } :=
  h.put hp (fun _ hc => { hc with }) (fun _ _ => rfl) fun p hq => by cases p <;> first | rfl | exact absurd rfl hq

theorem State.keeps.put_frs (h : State.keeps m s t) (x) (hp : partIn m .frs = true) :
    State.keeps m s { t with frs := x } :=
  h.put hp (fun _ hc => { hc with }) (fun _ _ => rfl) fun p hq => by cases p <;> first | rfl | exact absurd rfl hq

theorem State.keeps.put_cnt (h : State.keeps m s t) (x) (hp : partIn m .cnt = true) :
    State.keeps m s { t with cnt := x } :=
  h.put hp (fun _ hc => { hc with }) (fun _ _ => rfl) fun p hq => by cases p <;> first | rfl | exact absurd rfl hq

theorem State.keeps.put_scr (h : State.keeps m s t) (x) (hp : partIn m .scr = true) :
    State.keeps m s { t with scr := x } :=
  h.put hp (fun _ hc => { hc with }) (fun _ _ => rfl) fun p hq => by cases p <;> first | rfl | exact absurd rfl hq

theorem State.keeps.put_factory (h : State.keeps m s t) (x) (hp : partIn m .factory = true) :
    State.keeps m s { t with factory := x } :=
  h.put hp (fun _ hc => { hc with }) (fun _ _ => rfl) fun p hq => by cases p <;> first | rfl | exact absurd rfl hq

theorem State.keeps.put_free (h : State.keeps m s t) (x) (hp : partIn m .free = true) :
    State.keeps m s { t with free := x } :=
  h.put hp (fun _ hc => { hc with }) (fun _ _ => rfl) fun p hq => by cases p <;> first | rfl | exact absurd rfl hq

theorem State.keeps.put_pending (h : State.keeps m s t) (x) (hp : partIn m .pending = true) :
    State.keeps m s { t with pending := x } :=
  h.put hp (fun _ hc => { hc with }) (fun _ _ => rfl) fun p hq => by cases p <;> first | rfl | exact absurd rfl hq

theorem State.keeps.put_readers (h : State.keeps m s t) (x) (hp : partIn m .readers = true)
    (hw : t.canonical → Store.wf (fun _ => {}) x = true) : State.keeps m s { t with readers := x } :=
  h.put hp (fun _ hc => { hc with readers := hw hc }) (fun _ _ => rfl) fun p hq => by
    cases p <;> first | rfl | exact absurd rfl hq

theorem State.keeps.put_bps (h : State.keeps m s t) (x) (hp : partIn m .bps = true)
    (hw : t.canonical → Store.wf (fun _ => {}) x = true) : State.keeps m s { t with bps := x } :=
  h.put hp (fun _ hc => { hc with bps := hw hc }) (fun _ _ => rfl) fun p hq => by
    cases p <;> first | rfl | exact absurd rfl hq

theorem State.keeps.put_ports (h : State.keeps m s t) (x) (hp : partIn m .ports = true)
    (hw : t.canonical → Store.wf (fun _ => {}) x = true) : State.keeps m s { t with ports := x } :=
  h.put hp (fun _ hc => { hc with ports := hw hc }) (fun _ _ => rfl) fun p hq => by
    cases p <;> first | rfl | exact absurd rfl hq

theorem State.keeps.put_pwms (h : State.keeps m s t) (x) (hp : partIn m .pwms = true)
    (hw : t.canonical → Store.wf (fun _ => {}) x = true) : State.keeps m s { t with pwms := x } :=
  h.put hp (fun _ hc => { hc with pwms := hw hc }) (fun _ _ => rfl) fun p hq => by
    cases p <;> first | rfl | exact absurd rfl hq

theorem State.keeps.put_convs (h : State.keeps m s t) (x) (hp : partIn m .convs = true)
    (hw : t.canonical → Store.wf (fun _ => {}) x = true) : State.keeps m s { t with convs := x } :=
  h.put hp (fun _ hc => { hc with convs := hw hc }) (fun _ _ => rfl) fun p hq => by
    cases p <;> first | rfl | exact absurd rfl hq

theorem State.keeps.put_dies (h : State.keeps m s t) (x) (hp : partIn m .dies = true)
    (hw : t.canonical → Store.wf (fun _ => {}) x = true) : State.keeps m s { t with dies := x } :=
  h.put hp (fun _ hc => { hc with dies := hw hc }) (fun _ _ => rfl) fun p hq => by
    cases p <;> first | rfl | exact absurd rfl hq

theorem State.keeps.put_lanes (h : State.keeps m s t) (x) (hp : partIn m .lanes = true)
    (hw : t.canonical → Store.wf (fun _ => {}) x = true) : State.keeps m s { t with lanes := x } :=
  h.put hp (fun _ hc => { hc with lanes := hw hc }) (fun _ _ => rfl) fun p hq => by
    cases p <;> first | rfl | exact absurd rfl hq

theorem State.keeps.put_cages (h : State.keeps m s t) (x) (hp : partIn m .cages = true)
    (hw : t.canonical → Store.wf (fun _ => {}) x = true) : State.keeps m s { t with cages := x } :=
  h.put hp (fun _ hc => { hc with cages := hw hc }) (fun _ _ => rfl) fun p hq => by
    cases p <;> first | rfl | exact absurd rfl hq

theorem State.keeps.put_rings (h : State.keeps m s t) (x) (hp : partIn m .rings = true)
    (hw : t.canonical → Store.wf (fun _ => {}) x = true) : State.keeps m s { t with rings := x } :=
  h.put hp (fun _ hc => { hc with rings := hw hc }) (fun _ _ => rfl) fun p hq => by
    cases p <;> first | rfl | exact absurd rfl hq

theorem State.keeps.put_kct (h : State.keeps m s t) (x : Loader) (hp : partIn m .kct = true)
    (hw : s.canonical → t.canonical → Store.wf erased x.flash = true ∧ Store.wf erased x.localMem = true ∧ Store.wf erased x.updHead = true) :
    State.keeps m s { t with kct := x } :=
  h.put hp (fun hs hc => { hc with
    flash := (hw hs hc).1, localMem := (hw hs hc).2.1, updHead := (hw hs hc).2.2 }) (fun _ _ => rfl) fun p hq => by
    cases p <;> first | rfl | exact absurd rfl hq

theorem partIn_self (p : Part) : partIn (writes [] [p]) p = true := by
  unfold partIn writes
  simp [Nat.testBit_two_pow_self]

theorem inSet_self (f : Field) (fs : List Field) (ps : List Part) : inSet (writes (f :: fs) ps) f = true := by
  unfold inSet writes
  rw [List.foldr_cons, Nat.testBit_or, Nat.testBit_two_pow_self, Bool.true_or]

theorem wr_keeps (s : State) (f : Field) (i v : Nat) : State.keeps (writes [f] []) s (s.wr f i v) where
  canon hs := by
    constructor <;> first | exact State.good_wr hs.regs f i v | (cases hs; simpa)
  fields hs g j hg := State.rd_wr_ne (goodRegs.wf hs.regs) v (Or.inl fun e => by subst e; rw [inSet_self] at hg; cases hg)
  parts p _ := by cases p <;> simp [Part.same]

theorem set1_keeps (s : State) (f : Field) (i : Nat) : State.keeps (writes [f] []) s (s.set1 f i) := wr_keeps ..

theorem clr_keeps (s : State) (f : Field) (i : Nat) : State.keeps (writes [f] []) s (s.clr f i) := wr_keeps ..

theorem wrB_keeps (s : State) (f : Field) (i : Nat) (b : Bool) : State.keeps (writes [f] []) s (s.wrB f i b) :=
  wr_keeps ..

theorem bump_keeps (s : State) (f : Field) (i k : Nat) : State.keeps (writes [f] []) s (s.bump f i k) := wr_keeps ..

theorem roll_keeps (s : State) (f : Field) (i : Nat) : State.keeps (writes [f] []) s (s.roll f i) := wr_keeps ..

theorem writes_cons (f : Field) (fs : List Field) (ps : List Part) : writes (f :: fs) ps = 2 ^ f.ctorIdx ||| writes fs ps := rfl

theorem writes_sub {f : Field} {fs : List Field} {ps : List Part} (h : f ∈ fs) :
    writes [f] [] ||| writes fs ps = writes fs ps := by
  induction fs with
  | nil => cases h
  | cons g gs ih =>
    have h1 : writes [f] [] = 2 ^ f.ctorIdx := Nat.or_zero _
    rw [writes_cons g]
    rcases List.mem_cons.mp h with rfl | h2
    · rw [h1, ← Nat.or_assoc, Nat.or_self]
    · rw [← Nat.or_assoc, Nat.or_comm (writes [f] []), Nat.or_assoc, ih h2]

theorem wr2_keeps (s : State) (lo hi : Field) (i v : Nat) :
    State.keeps (writes [lo, hi] []) s (s.wr2 lo hi i v) :=
  ((State.keeps.refl).step (wr_keeps s lo i v) (writes_sub (by simp))).step (wr_keeps ..) (writes_sub (by simp))

theorem State.keeps.wr (h : State.keeps m s t) {f : Field} {i v : Nat} (hf : inSet m f = true) :
    State.keeps m s (t.wr f i v) :=
  h.step (wr_keeps ..) (by
    have h1 : writes [f] [] = 2 ^ f.ctorIdx := Nat.or_zero _
    rw [h1]
    refine Nat.eq_of_testBit_eq fun k => ?_
    rw [Nat.testBit_or, Nat.testBit_two_pow]
    by_cases hk : f.ctorIdx = k
    · subst hk
      unfold inSet at hf
      simp [hf]
    · simp [hk])

theorem inSet_any (f : Field) : inSet anyField f = true := by
  unfold inSet anyField
  rw [Nat.testBit_two_pow_sub_one]
  simpa using f.ctorIdx_lt

theorem sub_any {fs : List Field} : writes fs [] ||| anyField = anyField := by
  induction fs with
  | nil => rw [show writes [] [] = 0 from rfl, Nat.zero_or]
  | cons f fs ih =>
    rw [writes_cons, Nat.or_assoc, ih]
    refine Nat.eq_of_testBit_eq fun k => ?_
    rw [Nat.testBit_or, Nat.testBit_two_pow]
    by_cases hk : f.ctorIdx = k
    · subst hk
      have h := inSet_any f
      unfold inSet at h
      rw [h, Bool.or_true]
    · simp [hk]

theorem sub_of {c : Nat} (h : a ||| b = b) (g : c ||| a = a) : c ||| b = b := by
  rw [← h, ← Nat.or_assoc, g]

theorem inSet_of {f : Field} (h : a ||| b = b) (g : inSet a f = true) : inSet b f = true := by
  unfold inSet at *
  rw [← h, Nat.testBit_or, g, Bool.true_or]

theorem partIn_of {p : Part} (h : a ||| b = b) (g : partIn a p = true) : partIn b p = true := by
  unfold partIn at *
  rw [← h, Nat.testBit_or, g, Bool.true_or]

theorem sub_right {c : Nat} (h : a ||| b = b) : a ||| (c ||| b) = c ||| b := by
  rw [← Nat.or_assoc, Nat.or_comm a c, Nat.or_assoc, h]

theorem sub_left {c : Nat} : c ||| (c ||| b) = c ||| b := by
  rw [← Nat.or_assoc, Nat.or_self]

theorem sub_both {c : Nat} (h : a ||| b = b) : c ||| a ||| (c ||| b) = c ||| b := by
  rw [Nat.or_comm c a, Nat.or_assoc, sub_left, sub_right h]

theorem inSet_right {f : Field} (h : inSet b f = true) : inSet (a ||| b) f = true := by
  unfold inSet at *
  rw [Nat.testBit_or, h, Bool.or_true]

theorem inSet_left {f : Field} (h : inSet a f = true) : inSet (a ||| b) f = true := by
  unfold inSet at *
  rw [Nat.testBit_or, h, Bool.true_or]

theorem partIn_right {p : Part} (h : partIn b p = true) : partIn (a ||| b) p = true := by
  unfold partIn at *
  rw [Nat.testBit_or, h, Bool.or_true]

theorem inSet_mem {f : Field} {fs : List Field} {ps : List Part} (h : f ∈ fs) : inSet (writes fs ps) f = true := by
  induction fs with
  | nil => cases h
  | cons g gs ih =>
    rcases List.mem_cons.mp h with rfl | h2
    · exact inSet_self _ _ _
    · exact inSet_right (ih h2)

theorem State.keeps.wrTo {f : Field} {i v : Nat} (hf : inSet m f = true) (h : State.keeps m s t) :
    State.keeps m s (t.wr f i v) := h.wr hf

/-- The loader's write port: a KL field is written in the limit store, any other field as by every other unit (R420). -/
theorem load_keeps (s : State) (f : Field) (i v : Nat) :
    State.keeps (writes [f] [.hard]) s (s.load f i v) := by
  unfold State.load
  split
  · rename_i hl
    refine ⟨fun hs => { hs with hard := goodRegs.set hs.hard f i v }, fun hs g j hg => ?_, fun p hp => ?_⟩
    · unfold State.rd
      split
      · refine Store.get_set_ne (goodRegs.wf hs.hard) (fun e => ?_) _
        obtain ⟨rfl, rfl⟩ := fieldKey_inj e
        rw [inSet_self] at hg
        cases hg
      · rfl
    · cases p <;> first
        | rfl
        | (unfold partIn writes at hp; simp [Nat.testBit_or, Nat.testBit_two_pow_self] at hp)
  · refine (wr_keeps s f i v).mono ?_
    simp only [writes, List.foldr_cons, List.foldr_nil, Nat.or_zero]
    rw [← Nat.or_assoc, Nat.or_self]

theorem bit_sub {k : Nat} (h : m.testBit k = true) : 2 ^ k ||| m = m := by
  refine Nat.eq_of_testBit_eq fun j => ?_
  rw [Nat.testBit_or, Nat.testBit_two_pow]
  by_cases hk : k = j
  · subst hk
    simp [h]
  · simp [hk]

theorem State.keeps.loadTo (h : State.keeps m s t) {f : Field} {i v : Nat} (hf : inSet m f = true)
    (hp : partIn m .hard = true) : State.keeps m s (t.load f i v) :=
  h.step (load_keeps ..) (by
    have h1 : writes [f] [.hard] = 2 ^ f.ctorIdx ||| 2 ^ (1024 + Part.hard.ctorIdx) := by
      unfold writes
      simp
    rw [h1, Nat.or_assoc, bit_sub (k := 1024 + Part.hard.ctorIdx) hp, bit_sub hf])

theorem setLane_keeps (s : State) (l : Nat) (y : Lane) : State.keeps (writes [] [.lanes]) s (s.setLane l y) :=
  State.keeps.refl.put_lanes _ (partIn_self _) fun hs => Store.wf_set hs.lanes _ _

theorem setCage_keeps (s : State) (c : Nat) (y : Cage) : State.keeps (writes [] [.cages]) s (s.setCage c y) :=
  State.keeps.refl.put_cages _ (partIn_self _) fun hs => Store.wf_set hs.cages _ _

theorem setRing_keeps (s : State) (r : Nat) (y : Ring) : State.keeps (writes [] [.rings]) s (s.setRing r y) :=
  State.keeps.refl.put_rings _ (partIn_self _) fun hs => Store.wf_set hs.rings _ _

theorem setBp_keeps (s : State) (n : Nat) (y : Bp) : State.keeps (writes [] [.bps]) s (s.setBp n y) :=
  State.keeps.refl.put_bps _ (partIn_self _) fun hs => Store.wf_set hs.bps _ _

theorem setPort_keeps (s : State) (p : Nat) (y : Port) : State.keeps (writes [] [.ports]) s (s.setPort p y) :=
  State.keeps.refl.put_ports _ (partIn_self _) fun hs => Store.wf_set hs.ports _ _

theorem setPwm_keeps (s : State) (k : Nat) (y : Pwm) : State.keeps (writes [] [.pwms]) s (s.setPwm k y) :=
  State.keeps.refl.put_pwms _ (partIn_self _) fun hs => Store.wf_set hs.pwms _ _

theorem setConv_keeps (s : State) (x : Nat) (y : Conv) : State.keeps (writes [] [.convs]) s (s.setConv x y) :=
  State.keeps.refl.put_convs _ (partIn_self _) fun hs => Store.wf_set hs.convs _ _

theorem setDie_keeps (s : State) (e : Nat) (y : Die) : State.keeps (writes [] [.dies]) s (s.setDie e y) :=
  State.keeps.refl.put_dies _ (partIn_self _) fun hs => Store.wf_set hs.dies _ _

theorem setReader_keeps (s : State) (q : Nat) (y : Reader) : State.keeps (writes [] [.readers]) s (s.setReader q y) :=
  State.keeps.refl.put_readers _ (partIn_self _) fun hs => Store.wf_set hs.readers _ _

theorem updLane_keeps (s : State) (l : Nat) (g : Lane → Lane) : State.keeps (writes [] [.lanes]) s (s.updLane l g) := setLane_keeps ..

theorem updBp_keeps (s : State) (n : Nat) (g : Bp → Bp) : State.keeps (writes [] [.bps]) s (s.updBp n g) := setBp_keeps ..

theorem updPort_keeps (s : State) (p : Nat) (g : Port → Port) : State.keeps (writes [] [.ports]) s (s.updPort p g) := setPort_keeps ..

theorem updPwm_keeps (s : State) (k : Nat) (g : Pwm → Pwm) : State.keeps (writes [] [.pwms]) s (s.updPwm k g) := setPwm_keeps ..

theorem State.keeps.put_clk_plumb (h : State.keeps m s t) (x) (y) (hp : partIn m .clk = true) (hq : partIn m .plumb = true) :
    State.keeps m s { t with clk := x, plumb := y } := (h.put_clk x hp).put_plumb y hq

theorem State.keeps.put_frs_free (h : State.keeps m s t) (x) (y) (hp : partIn m .frs = true) (hq : partIn m .free = true) :
    State.keeps m s { t with frs := x, free := y } := (h.put_frs x hp).put_free y hq

theorem State.keeps.put_thm_plumb (h : State.keeps m s t) (x) (y) (hp : partIn m .thm = true) (hq : partIn m .plumb = true) :
    State.keeps m s { t with thm := x, plumb := y } := (h.put_thm x hp).put_plumb y hq

theorem State.keeps.put_tiles_plain (h : State.keeps m s t) (x) (y) (hp : partIn m .tiles = true) (hq : partIn m .plain = true) :
    State.keeps m s { t with tiles := x, plain := y } := (h.put_tiles x hp).put_plain y hq

theorem State.keeps.put_thm_kct (h : State.keeps m s t) (x) (y : Loader) (hp : partIn m .thm = true) (hq : partIn m .kct = true)
    (hw : s.canonical → t.canonical → Store.wf erased y.flash = true ∧ Store.wf erased y.localMem = true ∧ Store.wf erased y.updHead = true) :
    State.keeps m s { t with thm := x, kct := y } :=
  (h.put_thm x hp).put_kct y hq fun hs hc => hw hs { hc with }


theorem inSet_writes {f : Field} {fs : List Field} {ps : List Part} (h : f ∉ fs) : inSet (writes fs ps) f = false := by
  induction fs with
  | nil =>
    unfold inSet writes
    induction ps with
    | nil => simp
    | cons p ps ih =>
      have := f.ctorIdx_lt
      have hne : ¬1024 + p.ctorIdx = f.ctorIdx := by omega
      simp only [List.foldr_nil, List.foldr_cons, Nat.testBit_or, Nat.testBit_two_pow, hne, decide_false,
        Bool.false_or] at ih ⊢
      exact ih
  | cons g gs ih =>
    have h1 := ih fun hg => h (List.mem_cons_of_mem _ hg)
    have hne : ¬g.ctorIdx = f.ctorIdx := fun e => h (by rw [Field.ctorIdx_inj e]; exact List.mem_cons_self ..)
    unfold inSet at h1 ⊢
    rw [writes_cons, Nat.testBit_or, Nat.testBit_two_pow, h1]
    simp [hne]

theorem partIn_writes {p : Part} {fs : List Field} {ps : List Part} (h : p ∉ ps) : partIn (writes fs ps) p = false := by
  induction fs with
  | nil =>
    unfold partIn writes
    induction ps with
    | nil => simp
    | cons q ps ih =>
      have hne : ¬1024 + q.ctorIdx = 1024 + p.ctorIdx := fun e => h (by
        have e2 : q.ctorIdx = p.ctorIdx := by omega
        have : q = p := by rw [← Part.ofNat_ctorIdx q, ← Part.ofNat_ctorIdx p, e2]
        rw [this]
        exact List.mem_cons_self ..)
      have h1 := ih fun hg => h (List.mem_cons_of_mem _ hg)
      simp only [List.foldr_nil, List.foldr_cons, Nat.testBit_or, Nat.testBit_two_pow, hne, decide_false,
        Bool.false_or] at h1 ⊢
      exact h1
  | cons g gs ih =>
    have hne : ¬g.ctorIdx = 1024 + p.ctorIdx := by
      have := g.ctorIdx_lt
      omega
    unfold partIn at ih ⊢
    rw [writes_cons, Nat.testBit_or, Nat.testBit_two_pow, ih]
    simp [hne]

/-- What an operation may write bounds what it changes. -/
theorem State.keeps.frame {fs : List Field} {ps : List Part} (h : State.keeps m s t) (hs : s.canonical)
    (hm : m ||| writes fs ps = writes fs ps) : Sys2Proof.Machine.frame fs ps s t :=
  ⟨fun f i hf => h.fields hs f i (inSet_mono hm (inSet_writes hf)),
    fun p hp => h.parts p (partIn_mono hm (partIn_writes hp))⟩

end Sys2Proof.Machine
end

