-- ==== Sys2Proof/Laws/OpsKeeps.lean ====
section
/-!
SUPPORT. What each operation of Machine/Ops.lean may write.
-/

namespace Sys2Proof.Machine

set_option Elab.async false

/-- What `nextFree` may write. -/
def writes_nextFree : Nat :=
  writes [] [.free]

theorem nextFree_keeps (s : State) :
    State.keeps writes_nextFree s (State.nextFree s) := by
  unfold State.nextFree
  refine (State.keeps.put_free ?_ _ (by decide +kernel))
  exact State.keeps.refl

/-- What `sendFault` may write. -/
def writes_sendFault : Nat :=
  writes [.FCL_COUNT_MERGED] [.net]

theorem sendFault_keeps (s : State) (source : ℕ) (cause : ℕ) (detail : ℕ) :
    State.keeps writes_sendFault s (State.sendFault s source cause detail) := by
  unfold State.sendFault
  extract_lets -merge -underBinder +onlyGivenNames y1
  extract_lets -merge -underBinder +onlyGivenNames y2
  refine State.keeps.ite (fun _ => ?_) (fun _ => ?_)
  · refine State.keeps.wr ?_ (by decide +kernel)
    refine (State.keeps.put_net ?_ _ (by decide +kernel))
    exact State.keeps.refl
  · refine (State.keeps.put_net ?_ _ (by decide +kernel))
    exact State.keeps.refl

/-- What `sendClear` may write. -/
def writes_sendClear : Nat :=
  writes [] [.net]

theorem sendClear_keeps (s : State) (source : ℕ) (cause : ℕ) :
    State.keeps writes_sendClear s (State.sendClear s source cause) := by
  unfold State.sendClear
  extract_lets -merge -underBinder +onlyGivenNames y1
  refine State.keeps.ite (fun _ => ?_) (fun _ => ?_)
  · refine (State.keeps.put_net ?_ _ (by decide +kernel))
    exact State.keeps.refl
  · exact State.keeps.refl

/-- What `recordEvent` may write. -/
def writes_recordEvent : Nat :=
  writes [.FRS_COUNT_COALESCED, .FRS_QUEUE_LEVEL, .FRS_STATUS_FLOOD] [.frs]

theorem recordEvent_keeps (s : State) (e : FrEvent) :
    State.keeps writes_recordEvent s (State.recordEvent s e) := by
  unfold State.recordEvent
  refine State.keeps.ite (fun _ => ?_) (fun _ => ?_)
  · refine State.keeps.wr ?_ (by decide +kernel)
    refine State.keeps.wr ?_ (by decide +kernel)
    refine (State.keeps.put_frs ?_ _ (by decide +kernel))
    exact State.keeps.refl
  · refine State.keeps.wr ?_ (by decide +kernel)
    refine (State.keeps.put_frs ?_ _ (by decide +kernel))
    exact State.keeps.refl

/-- What `record` may write. -/
def writes_record : Nat :=
  writes_recordEvent

theorem record_keeps (s : State) (type : ℕ) (source : ℕ) (body : List (ℕ × ℕ)) :
    State.keeps writes_record s (State.record s type source body) := by
  unfold State.record
  refine State.keeps.step ?_ (recordEvent_keeps ..) (by decide +kernel)
  exact State.keeps.refl

/-- What `tallyMask` may write. -/
def writes_tallyMask : Nat :=
  writes [] [.cnt]

theorem tallyMask_keeps (s : State) (group : ℕ) (event : ℕ) (unit : ℕ) (k : ℕ) (mask : ℕ) :
    State.keeps writes_tallyMask s (State.tallyMask s group event unit k mask) := by
  unfold State.tallyMask
  extract_lets -merge -underBinder +onlyGivenNames y1
  refine (State.keeps.put_cnt ?_ _ (by decide +kernel))
  exact State.keeps.refl

/-- What `tally` may write. -/
def writes_tally : Nat :=
  writes_tallyMask

theorem tally_keeps (s : State) (group : ℕ) (event : ℕ) (unit : ℕ) (k : ℕ) (cls : ℕ) :
    State.keeps writes_tally s (State.tally s group event unit k cls) := by
  unfold State.tally
  refine State.keeps.step ?_ (tallyMask_keeps ..) (by decide +kernel)
  exact State.keeps.refl

/-- What `remote` may write. -/
def writes_remote : Nat :=
  writes_tally

theorem remote_keeps (s : State) (q : ℕ) :
    State.keeps writes_remote s (State.remote s q) := by
  unfold State.remote
  refine State.keeps.ite (fun _ => ?_) (fun _ => ?_)
  · refine State.keeps.step ?_ (tally_keeps ..) (by decide +kernel)
    exact State.keeps.refl
  · exact State.keeps.refl

/-- What `absentAccess` may write. -/
def writes_absentAccess : Nat :=
  writes [.SCR_HCOUNT_ABSENT] [.scr]

theorem absentAccess_keeps (s : State) (words : Option ℕ) :
    State.keeps writes_absentAccess s (State.absentAccess s words) := by
  unfold State.absentAccess
  extract_lets -merge -underBinder +onlyGivenNames s1
  have h1 : State.keeps writes_absentAccess s s1 := by
    unfold s1
    refine State.keeps.wr ?_ (by decide +kernel)
    exact State.keeps.refl
  try clear_value s1
  split
  · refine (State.keeps.put_scr ?_ _ (by decide +kernel))
    exact h1
  · exact h1

/-- What `through` may write. -/
def writes_through : Nat :=
  writes_absentAccess ||| writes_remote

theorem through_keeps {ws : Nat} {sb : State} {s : State} {who : Sys2Proof.Requester} {read : Bool} {act
    : State → State}
    (hm : writes_through ||| ws = ws) (hs : State.keeps ws sb s)
    (h_act : ∀ t, State.keeps ws sb t → State.keeps ws sb (act t)) :
    State.keeps ws sb (State.through s who read act) := by
  unfold State.through
  split
  · refine State.keeps.ite (fun _ => ?_) (fun _ => ?_)
    · refine h_act _ ?_
      exact hs
    · refine State.keeps.step ?_ (absentAccess_keeps ..) (sub_of hm (by decide +kernel))
      exact hs
  · refine h_act _ ?_
    refine State.keeps.step ?_ (remote_keeps ..) (sub_of hm (by decide +kernel))
    exact hs
  · refine h_act _ ?_
    exact hs
  · refine h_act _ ?_
    exact hs

/-- What `via` may write. -/
def writes_via : Nat :=
  writes_through

theorem via_keeps {ws : Nat} {sb : State} {s : State} {who : Sys2Proof.Requester} {act : State → State}
    (hm : writes_via ||| ws = ws) (hs : State.keeps ws sb s)
    (h_act : ∀ t, State.keeps ws sb t → State.keeps ws sb (act t)) :
    State.keeps ws sb (State.via s who act) := by
  unfold State.via
  refine through_keeps (sub_of hm (by decide +kernel)) ?_ (fun s1 h1 => ?_)
  · exact hs
  · refine h_act _ ?_
    exact h1

/-- What `viaRead` may write. -/
def writes_viaRead : Nat :=
  writes_through

theorem viaRead_keeps {ws : Nat} {sb : State} {s : State} {who : Sys2Proof.Requester} {act : State → State}
    (hm : writes_viaRead ||| ws = ws) (hs : State.keeps ws sb s)
    (h_act : ∀ t, State.keeps ws sb t → State.keeps ws sb (act t)) :
    State.keeps ws sb (State.viaRead s who act) := by
  unfold State.viaRead
  refine through_keeps (sub_of hm (by decide +kernel)) ?_ (fun s1 h1 => ?_)
  · exact hs
  · refine h_act _ ?_
    exact h1

/-- What `raise` may write. -/
def writes_raise : Nat :=
  writes [] [.scr]

theorem raise_keeps (s : State) (v : ℕ) :
    State.keeps writes_raise s (State.raise s v) := by
  unfold State.raise
  refine State.keeps.ite (fun _ => ?_) (fun _ => ?_)
  · exact State.keeps.refl
  · refine (State.keeps.put_scr ?_ _ (by decide +kernel))
    exact State.keeps.refl

/-- What `interrupt` may write. -/
def writes_interrupt : Nat :=
  writes [] [.scr]

theorem interrupt_keeps (s : State) (v : ℕ) :
    State.keeps writes_interrupt s (State.interrupt s v) := by
  unfold State.interrupt
  extract_lets -merge -underBinder +onlyGivenNames y1
  refine State.keeps.ite (fun _ => ?_) (fun _ => ?_)
  · exact State.keeps.refl
  · refine State.keeps.ite (fun _ => ?_) (fun _ => ?_)
    · refine (State.keeps.put_scr ?_ _ (by decide +kernel))
      exact State.keeps.refl
    · refine (State.keeps.put_scr ?_ _ (by decide +kernel))
      exact State.keeps.refl

end Sys2Proof.Machine
end

