-- ==== Sys2Proof/Laws/GatesKeeps.lean ====
section
/-!
SUPPORT. What each operation of Machine/Gates.lean may write.
-/

namespace Sys2Proof.Machine

set_option Elab.async false

/-- What `shapePeriod` may write. -/
def writes_shapePeriod : Nat :=
  writes [.PWM_COUNT_SHORT_PULSES, .PWM_STATUS_DUTY_CLAMP, .PWM_STATUS_FULL, .PWM_STATUS_STATE] [.pwms]

theorem shapePeriod_keeps (s : State) (k : ℕ) (cont : Bool) (lead : Option ℕ) (dead : ℕ) :
    State.keeps writes_shapePeriod s (State.shapePeriod s k cont lead dead) := by
  unfold State.shapePeriod
  extract_lets -merge -underBinder +onlyGivenNames y1
  extract_lets -merge -underBinder +onlyGivenNames y2
  split
  · extract_lets -merge -underBinder +onlyGivenNames y3
    extract_lets -merge -underBinder +onlyGivenNames y4
    extract_lets -merge -underBinder +onlyGivenNames y5
    extract_lets -merge -underBinder +onlyGivenNames y6
    extract_lets -merge -underBinder +onlyGivenNames y7
    extract_lets -merge -underBinder +onlyGivenNames y8
    split
    · refine State.keeps.ite (fun _ => ?_) (fun _ => ?_)
      · refine State.keeps.wr ?_ (by decide +kernel)
        refine State.keeps.wr ?_ (by decide +kernel)
        refine State.keeps.wr ?_ (by decide +kernel)
        refine State.keeps.wr ?_ (by decide +kernel)
        refine State.keeps.step ?_ (setPwm_keeps ..) (by decide +kernel)
        exact State.keeps.refl
      · refine State.keeps.wr ?_ (by decide +kernel)
        refine State.keeps.wr ?_ (by decide +kernel)
        refine State.keeps.wr ?_ (by decide +kernel)
        refine State.keeps.step ?_ (setPwm_keeps ..) (by decide +kernel)
        exact State.keeps.refl

/-- What `keepBlank` may write. -/
def writes_keepBlank : Nat :=
  writes [] [.pwms]

theorem keepBlank_keeps (s : State) (src : ℕ) (till : ℕ) :
    State.keeps writes_keepBlank s (State.keepBlank s src till) := by
  unfold State.keepBlank
  refine State.keeps.forEach ?_ (fun x1 s1 h1 => ?_)
  · exact State.keeps.refl
  · try beta_reduce
    refine State.keeps.ite (fun _ => ?_) (fun _ => ?_)
    · refine State.keeps.step ?_ (updPwm_keeps ..) (by decide +kernel)
      exact h1
    · exact h1

/-- What `gateStop` may write. -/
def writes_gateStop : Nat :=
  writes [.PWM_STATUS_FULL, .PWM_STATUS_STATE] [] ||| writes_keepBlank

theorem gateStop_keeps (s : State) (k : ℕ) (st : ℕ) :
    State.keeps writes_gateStop s (State.gateStop s k st) := by
  unfold State.gateStop
  refine State.keeps.wr ?_ (by decide +kernel)
  refine State.keeps.wr ?_ (by decide +kernel)
  refine State.keeps.step ?_ (updPwm_keeps ..) (by decide +kernel)
  refine State.keeps.step ?_ (keepBlank_keeps ..) (by decide +kernel)
  exact State.keeps.refl

/-- What `gateReview` may write. -/
def writes_gateReview : Nat :=
  writes [.PWM_STATUS_H_FENCE, .PWM_STATUS_H_G3, .PWM_STATUS_H_RELAY] [] ||| writes_shapePeriod

theorem gateReview_keeps (s : State) (k : ℕ) :
    State.keeps writes_gateReview s (State.gateReview s k) := by
  unfold State.gateReview
  extract_lets -merge -underBinder +onlyGivenNames s1
  have h1 : State.keeps writes_gateReview s s1 := by
    unfold s1
    refine State.keeps.wr ?_ (by decide +kernel)
    refine State.keeps.wr ?_ (by decide +kernel)
    refine State.keeps.wr ?_ (by decide +kernel)
    exact State.keeps.refl
  try clear_value s1
  refine State.keeps.ite (fun _ => ?_) (fun _ => ?_)
  · refine State.keeps.step ?_ (gateStop_keeps ..) (by decide +kernel)
    exact h1
  · refine State.keeps.ite (fun _ => ?_) (fun _ => ?_)
    · refine State.keeps.step ?_ (gateStop_keeps ..) (by decide +kernel)
      exact h1
    · refine State.keeps.ite (fun _ => ?_) (fun _ => ?_)
      · refine State.keeps.step ?_ (shapePeriod_keeps ..) (by decide +kernel)
        refine State.keeps.step ?_ (updPwm_keeps ..) (by decide +kernel)
        exact h1
      · exact h1

/-- What `writeLimit` may write. -/
def writes_writeLimit : Nat :=
  writes [.PWM_DUTY_FW_MAX_DUTY, .PWM_DUTY_MAX_DUTY, .PWM_ILIM_FW_I_LIM, .PWM_ILIM_I_LIM, .PWM_STATUS_DUTY_CLAMP,
    .PWM_VLIM_FW_V_LIM, .PWM_VLIM_V_LIM] []

theorem writeLimit_keeps (s : State) (k : ℕ) (which : ℕ) (v : ℕ) :
    State.keeps writes_writeLimit s (State.writeLimit s k which v) := by
  unfold State.writeLimit
  extract_lets -merge -underBinder +onlyGivenNames y1
  unfold y1
  try beta_reduce
  split
  · refine State.keeps.ite (fun _ => ?_) (fun _ => ?_)
    · refine State.keeps.wr ?_ (by decide +kernel)
      refine State.keeps.wr ?_ (by decide +kernel)
      exact State.keeps.refl
    · refine State.keeps.wr ?_ (by decide +kernel)
      exact State.keeps.refl
  · refine State.keeps.ite (fun _ => ?_) (fun _ => ?_)
    · refine State.keeps.ite (fun _ => ?_) (fun _ => ?_)
      · refine State.keeps.wr ?_ (by decide +kernel)
        refine State.keeps.wr ?_ (by decide +kernel)
        exact State.keeps.refl
      · refine State.keeps.wr ?_ (by decide +kernel)
        exact State.keeps.refl
    · exact State.keeps.refl
  · refine State.keeps.ite (fun _ => ?_) (fun _ => ?_)
    · refine State.keeps.ite (fun _ => ?_) (fun _ => ?_)
      · refine State.keeps.wr ?_ (by decide +kernel)
        refine State.keeps.wr ?_ (by decide +kernel)
        exact State.keeps.refl
      · refine State.keeps.wr ?_ (by decide +kernel)
        exact State.keeps.refl
    · exact State.keeps.refl

/-- What `writeMode` may write. -/
def writes_writeMode : Nat :=
  writes [.PWM_CTRL_MODE, .PWM_STATUS_MODE_REFUSED] []

theorem writeMode_keeps (s : State) (k : ℕ) (v : ℕ) :
    State.keeps writes_writeMode s (State.writeMode s k v) := by
  unfold State.writeMode
  refine State.keeps.ite (fun _ => ?_) (fun _ => ?_)
  · exact State.keeps.refl
  · refine State.keeps.ite (fun _ => ?_) (fun _ => ?_)
    · refine State.keeps.wr ?_ (by decide +kernel)
      exact State.keeps.refl
    · refine State.keeps.wr ?_ (by decide +kernel)
      exact State.keeps.refl

/-- What `commitPwm` may write. -/
def writes_commitPwm : Nat :=
  writes [.PWM_COUNT_LATE_COMMITS, .PWM_FALL_COUNT, .PWM_FALL_FINE, .PWM_STATUS_LATE] [.pwms]

theorem commitPwm_keeps (s : State) (k : ℕ) (w : ℕ) :
    State.keeps writes_commitPwm s (State.commitPwm s k w) := by
  unfold State.commitPwm
  extract_lets -merge -underBinder +onlyGivenNames s1
  have h1 : State.keeps writes_commitPwm s s1 := by
    unfold s1
    refine State.keeps.wr ?_ (by decide +kernel)
    refine State.keeps.wr ?_ (by decide +kernel)
    exact State.keeps.refl
  try clear_value s1
  extract_lets -merge -underBinder +onlyGivenNames y2
  extract_lets -merge -underBinder +onlyGivenNames y3
  extract_lets -merge -underBinder +onlyGivenNames y4
  refine State.keeps.ite (fun _ => ?_) (fun _ => ?_)
  · refine State.keeps.wr ?_ (by decide +kernel)
    refine State.keeps.wr ?_ (by decide +kernel)
    refine State.keeps.step ?_ (setPwm_keeps ..) (by decide +kernel)
    exact h1
  · refine State.keeps.step ?_ (setPwm_keeps ..) (by decide +kernel)
    exact h1

end Sys2Proof.Machine
end

