-- ==== Sys2Proof/Laws/WindowsKeeps.lean ====
section
/-!
SUPPORT. What each operation of Machine/Windows.lean may write.
-/

namespace Sys2Proof.Machine

set_option Elab.async false

/-- What `refreshNco` may write. -/
def writes_refreshNco : Nat :=
  writes [] [.bps]

theorem refreshNco_keeps (s : State) (n : ℕ) :
    State.keeps writes_refreshNco s (State.refreshNco s n) := by
  unfold State.refreshNco
  refine State.keeps.ite (fun _ => ?_) (fun _ => ?_)
  · refine State.keeps.step ?_ (updBp_keeps ..) (by decide +kernel)
    exact State.keeps.refl
  · exact State.keeps.refl

/-- What `refreshGdc` may write. -/
def writes_refreshGdc : Nat :=
  writes [.CHZ_DST_GDC_GDC, .CHZ_GDC_GDC] [] ||| writes_refreshNco

theorem refreshGdc_keeps (s : State) (n : ℕ) :
    State.keeps writes_refreshGdc s (State.refreshGdc s n) := by
  unfold State.refreshGdc
  extract_lets -merge -underBinder +onlyGivenNames y1
  extract_lets -merge -underBinder +onlyGivenNames y2
  extract_lets -merge -underBinder +onlyGivenNames y3
  refine State.keeps.step ?_ (refreshNco_keeps ..) (by decide +kernel)
  refine State.keeps.wr ?_ (by decide +kernel)
  refine State.keeps.wr ?_ (by decide +kernel)
  exact State.keeps.refl

/-- What `refreshPortGdc` may write. -/
def writes_refreshPortGdc : Nat :=
  writes_refreshGdc

theorem refreshPortGdc_keeps (s : State) (p : ℕ) :
    State.keeps writes_refreshPortGdc s (State.refreshPortGdc s p) := by
  unfold State.refreshPortGdc
  refine State.keeps.forEach ?_ (fun x1 s1 h1 => ?_)
  · exact State.keeps.refl
  · try beta_reduce
    extract_lets -merge -underBinder +onlyGivenNames y2
    refine State.keeps.ite (fun _ => ?_) (fun _ => ?_)
    · refine State.keeps.step ?_ (refreshGdc_keeps ..) (by decide +kernel)
      exact h1
    · exact h1

/-- What `guardView` may write. -/
def writes_guardView : Nat :=
  writes [] [.plain]

theorem guardView_keeps (s : State) :
    State.keeps writes_guardView s (State.guardView s) := by
  unfold State.guardView
  refine (State.keeps.put_plain ?_ _ (by decide +kernel))
  exact State.keeps.refl

/-- What `refreshCeilings` may write. -/
def writes_refreshCeilings : Nat :=
  writes [.EMG_BP_CEIL_CEIL, .EMG_BP_STATUS_SHARE] [] ||| writes_guardView

theorem refreshCeilings_keeps (s : State) (p : ℕ) :
    State.keeps writes_refreshCeilings s (State.refreshCeilings s p) := by
  unfold State.refreshCeilings
  refine State.keeps.forEach ?_ (fun x1 s1 h1 => ?_)
  · exact State.keeps.refl
  · try beta_reduce
    refine State.keeps.wr ?_ (by decide +kernel)
    refine State.keeps.wr ?_ (by decide +kernel)
    exact h1

end Sys2Proof.Machine
end

