-- ==== Sys2Proof/Laws/FrontEndKeeps.lean ====
section
/-!
SUPPORT. What each operation of Machine/FrontEnd.lean may write.
-/

namespace Sys2Proof.Machine

set_option Elab.async false

/-- What `pilotReview` may write. -/
def writes_pilotReview : Nat :=
  writes [.FE_PILOT_STATUS_PSTATE] [.ports]

theorem pilotReview_keeps (s : State) (p : ℕ) :
    State.keeps writes_pilotReview s (State.pilotReview s p) := by
  unfold State.pilotReview
  extract_lets -merge -underBinder +onlyGivenNames y1
  refine State.keeps.ite (fun _ => ?_) (fun _ => ?_)
  · exact State.keeps.refl
  · refine State.keeps.ite (fun _ => ?_) (fun _ => ?_)
    · refine State.keeps.step ?_ (updPort_keeps ..) (by decide +kernel)
      refine State.keeps.wr ?_ (by decide +kernel)
      exact State.keeps.refl
    · refine State.keeps.ite (fun _ => ?_) (fun _ => ?_)
      · refine State.keeps.step ?_ (updPort_keeps ..) (by decide +kernel)
        refine State.keeps.wr ?_ (by decide +kernel)
        exact State.keeps.refl
      · exact State.keeps.refl

/-- What `badFrom` may write. -/
def writes_badFrom : Nat :=
  writes [] [.ports]

theorem badFrom_keeps (s : State) (p : ℕ) :
    State.keeps writes_badFrom s (State.badFrom s p) := by
  unfold State.badFrom
  refine State.keeps.step ?_ (updPort_keeps ..) (by decide +kernel)
  exact State.keeps.refl

/-- What `badTill` may write. -/
def writes_badTill : Nat :=
  writes [] [.ports]

theorem badTill_keeps (s : State) (p : ℕ) :
    State.keeps writes_badTill s (State.badTill s p) := by
  unfold State.badTill
  refine State.keeps.ite (fun _ => ?_) (fun _ => ?_)
  · exact State.keeps.refl
  · refine State.keeps.step ?_ (updPort_keeps ..) (by decide +kernel)
    exact State.keeps.refl

/-- What `badFor` may write. -/
def writes_badFor : Nat :=
  writes [] [.ports]

theorem badFor_keeps (s : State) (p : ℕ) (q : ℕ) :
    State.keeps writes_badFor s (State.badFor s p q) := by
  unfold State.badFor
  refine State.keeps.step ?_ (updPort_keeps ..) (by decide +kernel)
  exact State.keeps.refl

/-- What `lineHold` may write. -/
def writes_lineHold : Nat :=
  writes_gateReview

theorem lineHold_keeps (s : State) (p : ℕ) (held : Bool) :
    State.keeps writes_lineHold s (State.lineHold s p held) := by
  unfold State.lineHold
  refine State.keeps.step ?_ (gateReview_keeps ..) (by decide +kernel)
  refine State.keeps.step ?_ (updPwm_keeps ..) (by decide +kernel)
  exact State.keeps.refl

/-- What `relayMove` may write. -/
def writes_relayMove : Nat :=
  writes [.FE_RELAY_MOVE_COUNT, .FE_RELAY_POS] [] ||| writes_tally ||| writes_lineHold ||| writes_badFrom

theorem relayMove_keeps (s : State) (p : ℕ) (target : ℕ) :
    State.keeps writes_relayMove s (State.relayMove s p target) := by
  unfold State.relayMove
  refine State.keeps.step ?_ (tally_keeps ..) (by decide +kernel)
  refine State.keeps.wr ?_ (by decide +kernel)
  refine State.keeps.step ?_ (lineHold_keeps ..) (by decide +kernel)
  refine State.keeps.wr ?_ (by decide +kernel)
  refine State.keeps.step ?_ (updPort_keeps ..) (by decide +kernel)
  refine State.keeps.step ?_ (badFrom_keeps ..) (by decide +kernel)
  exact State.keeps.refl

/-- What `relayReview` may write. -/
def writes_relayReview : Nat :=
  writes_relayMove

theorem relayReview_keeps (s : State) (p : ℕ) :
    State.keeps writes_relayReview s (State.relayReview s p) := by
  unfold State.relayReview
  refine State.keeps.ite (fun _ => ?_) (fun _ => ?_)
  · exact State.keeps.refl
  · refine State.keeps.step ?_ (relayMove_keeps ..) (by decide +kernel)
    exact State.keeps.refl

/-- What `relayForce` may write. -/
def writes_relayForce : Nat :=
  writes [.FE_RELAY_POS] [.ports] ||| writes_lineHold

theorem relayForce_keeps (s : State) (p : ℕ) :
    State.keeps writes_relayForce s (State.relayForce s p) := by
  unfold State.relayForce
  refine State.keeps.step ?_ (lineHold_keeps ..) (by decide +kernel)
  refine State.keeps.wr ?_ (by decide +kernel)
  refine State.keeps.step ?_ (updPort_keeps ..) (by decide +kernel)
  exact State.keeps.refl

/-- What `applyAtt` may write. -/
def writes_applyAtt : Nat :=
  writes_badFor ||| writes_refreshCeilings

theorem applyAtt_keeps (s : State) (p : ℕ) :
    State.keeps writes_applyAtt s (State.applyAtt s p) := by
  unfold State.applyAtt
  extract_lets -merge -underBinder +onlyGivenNames y1
  extract_lets -merge -underBinder +onlyGivenNames y2
  extract_lets -merge -underBinder +onlyGivenNames s3
  have h3 : State.keeps writes_applyAtt s s3 := by
    unfold s3
    refine State.keeps.step ?_ (updPort_keeps ..) (by decide +kernel)
    exact State.keeps.refl
  try clear_value s3
  extract_lets -merge -underBinder +onlyGivenNames s4
  have h4 : State.keeps writes_applyAtt s s4 := by
    unfold s4
    refine State.keeps.ite (fun _ => ?_) (fun _ => ?_)
    · exact h3
    · refine State.keeps.step ?_ (badFor_keeps ..) (by decide +kernel)
      exact h3
  try clear_value s4
  extract_lets -merge -underBinder +onlyGivenNames s5
  have h5 : State.keeps writes_applyAtt s s5 := by
    unfold s5
    refine State.keeps.ite (fun _ => ?_) (fun _ => ?_)
    · exact h4
    · refine State.keeps.step ?_ (refreshCeilings_keeps ..) (by decide +kernel)
      exact h4
  try clear_value s5
  refine State.keeps.ite (fun _ => ?_) (fun _ => ?_)
  · exact h5
  · refine State.keeps.step ?_ (updPort_keeps ..) (by decide +kernel)
    exact h5

/-- What `attAfterCal` may write. -/
def writes_attAfterCal : Nat :=
  writes_applyAtt

theorem attAfterCal_keeps (s : State) (p : ℕ) :
    State.keeps writes_attAfterCal s (State.attAfterCal s p) := by
  unfold State.attAfterCal
  refine State.keeps.ite (fun _ => ?_) (fun _ => ?_)
  · refine State.keeps.step ?_ (applyAtt_keeps ..) (by decide +kernel)
    exact State.keeps.refl
  · exact State.keeps.refl

/-- What `staleChains` may write. -/
def writes_staleChains : Nat :=
  writes [] [.ports]

theorem staleChains_keeps (s : State) (p : ℕ) :
    State.keeps writes_staleChains s (State.staleChains s p) := by
  unfold State.staleChains
  refine State.keeps.step ?_ (updPort_keeps ..) (by decide +kernel)
  exact State.keeps.refl

/-- What `txReview` may write. -/
def writes_txReview : Nat :=
  writes [.FE_STATUS_TX_HELD] [.ports]

theorem txReview_keeps (s : State) (p : ℕ) :
    State.keeps writes_txReview s (State.txReview s p) := by
  unfold State.txReview
  extract_lets -merge -underBinder +onlyGivenNames y1
  refine State.keeps.ite (fun _ => ?_) (fun _ => ?_)
  · refine State.keeps.step ?_ (updPort_keeps ..) (by decide +kernel)
    refine State.keeps.wr ?_ (by decide +kernel)
    exact State.keeps.refl
  · refine State.keeps.ite (fun _ => ?_) (fun _ => ?_)
    · refine State.keeps.step ?_ (updPort_keeps ..) (by decide +kernel)
      refine State.keeps.wr ?_ (by decide +kernel)
      exact State.keeps.refl
    · refine State.keeps.step ?_ (updPort_keeps ..) (by decide +kernel)
      refine State.keeps.wr ?_ (by decide +kernel)
      exact State.keeps.refl

/-- What `enterLocking` may write. -/
def writes_enterLocking : Nat :=
  writes [.FE_CAL_STATUS_SEGMENT, .FE_STATUS_RETUNE_PEND, .FE_STATUS_RX_LOCK, .FE_STATUS_STATE,
    .FE_STATUS_TX_LOCK] [] ||| writes_txReview ||| writes_refreshPortGdc

theorem enterLocking_keeps (s : State) (p : ℕ) (c : ℕ × ℕ) :
    State.keeps writes_enterLocking s (State.enterLocking s p c) := by
  unfold State.enterLocking
  refine State.keeps.step ?_ (txReview_keeps ..) (by decide +kernel)
  refine State.keeps.step ?_ (badFrom_keeps ..) (by decide +kernel)
  refine State.keeps.step ?_ (refreshPortGdc_keeps ..) (by decide +kernel)
  refine State.keeps.step ?_ (staleChains_keeps ..) (by decide +kernel)
  refine State.keeps.wr ?_ (by decide +kernel)
  refine State.keeps.wr ?_ (by decide +kernel)
  refine State.keeps.step ?_ (updPort_keeps ..) (by decide +kernel)
  refine State.keeps.wr ?_ (by decide +kernel)
  refine State.keeps.wr ?_ (by decide +kernel)
  refine State.keeps.wr ?_ (by decide +kernel)
  exact State.keeps.refl

/-- What `startLocking` may write. -/
def writes_startLocking : Nat :=
  writes [.FE_STATUS_REJECT] [] ||| writes_enterLocking

theorem startLocking_keeps (s : State) (p : ℕ) :
    State.keeps writes_startLocking s (State.startLocking s p) := by
  unfold State.startLocking
  extract_lets -merge -underBinder +onlyGivenNames y1
  extract_lets -merge -underBinder +onlyGivenNames s2
  have h2 : State.keeps writes_startLocking s s2 := by
    unfold s2
    refine State.keeps.wr ?_ (by decide +kernel)
    exact State.keeps.refl
  try clear_value s2
  refine State.keeps.ite (fun _ => ?_) (fun _ => ?_)
  · refine State.keeps.step ?_ (enterLocking_keeps ..) (by decide +kernel)
    exact h2
  · split
    · refine State.keeps.step ?_ (enterLocking_keeps ..) (by decide +kernel)
      exact h2
    · refine State.keeps.step ?_ (txReview_keeps ..) (by decide +kernel)
      refine State.keeps.wr ?_ (by decide +kernel)
      exact h2

/-- What `enterFenced` may write. -/
def writes_enterFenced : Nat :=
  writes [.FE_STATUS_RETUNE_PEND, .FE_STATUS_STATE] [] ||| writes_txReview ||| writes_attAfterCal

theorem enterFenced_keeps (s : State) (p : ℕ) :
    State.keeps writes_enterFenced s (State.enterFenced s p) := by
  unfold State.enterFenced
  refine State.keeps.step ?_ (txReview_keeps ..) (by decide +kernel)
  refine State.keeps.step ?_ (badFrom_keeps ..) (by decide +kernel)
  refine State.keeps.step ?_ (attAfterCal_keeps ..) (by decide +kernel)
  refine State.keeps.wr ?_ (by decide +kernel)
  refine State.keeps.step ?_ (updPort_keeps ..) (by decide +kernel)
  refine State.keeps.wr ?_ (by decide +kernel)
  exact State.keeps.refl

/-- What `enterOff` may write. -/
def writes_enterOff : Nat :=
  writes [.FE_STATUS_RETUNE_PEND, .FE_STATUS_RX_LOCK, .FE_STATUS_STATE, .FE_STATUS_TX_LOCK] [] |||
    writes_relayReview ||| writes_txReview ||| writes_attAfterCal

theorem enterOff_keeps (s : State) (p : ℕ) :
    State.keeps writes_enterOff s (State.enterOff s p) := by
  unfold State.enterOff
  refine State.keeps.step ?_ (relayReview_keeps ..) (by decide +kernel)
  refine State.keeps.step ?_ (txReview_keeps ..) (by decide +kernel)
  refine State.keeps.step ?_ (badFrom_keeps ..) (by decide +kernel)
  refine State.keeps.step ?_ (attAfterCal_keeps ..) (by decide +kernel)
  refine State.keeps.wr ?_ (by decide +kernel)
  refine State.keeps.wr ?_ (by decide +kernel)
  refine State.keeps.wr ?_ (by decide +kernel)
  refine State.keeps.step ?_ (updPort_keeps ..) (by decide +kernel)
  refine State.keeps.wr ?_ (by decide +kernel)
  exact State.keeps.refl

/-- What `enterReady` may write. -/
def writes_enterReady : Nat :=
  writes [.FE_STATUS_STATE] [] ||| writes_relayReview ||| writes_txReview

theorem enterReady_keeps (s : State) (p : ℕ) :
    State.keeps writes_enterReady s (State.enterReady s p) := by
  unfold State.enterReady
  refine State.keeps.step ?_ (relayReview_keeps ..) (by decide +kernel)
  refine State.keeps.step ?_ (txReview_keeps ..) (by decide +kernel)
  refine State.keeps.step ?_ (badTill_keeps ..) (by decide +kernel)
  refine State.keeps.step ?_ (updPort_keeps ..) (by decide +kernel)
  refine State.keeps.wr ?_ (by decide +kernel)
  exact State.keeps.refl

/-- What `loadLatency` may write. -/
def writes_loadLatency : Nat :=
  writes [.FE_RX_LAT_LAT, .FE_TX_LAT_LAT] []

theorem loadLatency_keeps (s : State) (p : ℕ) :
    State.keeps writes_loadLatency s (State.loadLatency s p) := by
  unfold State.loadLatency
  extract_lets -merge -underBinder +onlyGivenNames y1
  refine State.keeps.wr ?_ (by decide +kernel)
  refine State.keeps.wr ?_ (by decide +kernel)
  exact State.keeps.refl

/-- What `calUpdated` may write. -/
def writes_calUpdated : Nat :=
  writes [] [.ports]

theorem calUpdated_keeps (s : State) (p : ℕ) (keys : List ℕ) (chains : List ℕ) :
    State.keeps writes_calUpdated s (State.calUpdated s p keys chains) := by
  unfold State.calUpdated
  refine State.keeps.step ?_ (updPort_keeps ..) (by decide +kernel)
  exact State.keeps.refl

/-- What `staleReview` may write. -/
def writes_staleReview : Nat :=
  writes_sendClear

theorem staleReview_keeps (s : State) (p : ℕ) :
    State.keeps writes_staleReview s (State.staleReview s p) := by
  unfold State.staleReview
  refine State.keeps.ite (fun _ => ?_) (fun _ => ?_)
  · refine State.keeps.step ?_ (sendClear_keeps ..) (by decide +kernel)
    exact State.keeps.refl
  · exact State.keeps.refl

/-- What `writeRxEn` may write. -/
def writes_writeRxEn : Nat :=
  writes [.FE_CTRL_RX_EN] [] ||| writes_startLocking ||| writes_enterOff

theorem writeRxEn_keeps (s : State) (p : ℕ) (on : Bool) :
    State.keeps writes_writeRxEn s (State.writeRxEn s p on) := by
  unfold State.writeRxEn
  extract_lets -merge -underBinder +onlyGivenNames s1
  have h1 : State.keeps writes_writeRxEn s s1 := by
    unfold s1
    refine State.keeps.wr ?_ (by decide +kernel)
    exact State.keeps.refl
  try clear_value s1
  refine State.keeps.ite (fun _ => ?_) (fun _ => ?_)
  · refine State.keeps.ite (fun _ => ?_) (fun _ => ?_)
    · exact h1
    · refine State.keeps.ite (fun _ => ?_) (fun _ => ?_)
      · refine State.keeps.step ?_ (txReview_keeps ..) (by decide +kernel)
        refine State.keeps.step ?_ (badFrom_keeps ..) (by decide +kernel)
        refine State.keeps.wr ?_ (by decide +kernel)
        exact h1
      · refine State.keeps.step ?_ (startLocking_keeps ..) (by decide +kernel)
        exact h1
  · refine State.keeps.ite (fun _ => ?_) (fun _ => ?_)
    · exact h1
    · refine State.keeps.step ?_ (enterOff_keeps ..) (by decide +kernel)
      exact h1

/-- What `writeTxEn` may write. -/
def writes_writeTxEn : Nat :=
  writes [.FE_CTRL_TX_EN] [] ||| writes_txReview

theorem writeTxEn_keeps (s : State) (p : ℕ) (on : Bool) :
    State.keeps writes_writeTxEn s (State.writeTxEn s p on) := by
  unfold State.writeTxEn
  refine State.keeps.step ?_ (txReview_keeps ..) (by decide +kernel)
  refine State.keeps.wr ?_ (by decide +kernel)
  exact State.keeps.refl

/-- What `writeInline` may write. -/
def writes_writeInline : Nat :=
  writes [.FE_CTRL_INLINE] [] ||| writes_relayReview

theorem writeInline_keeps (s : State) (p : ℕ) (on : Bool) :
    State.keeps writes_writeInline s (State.writeInline s p on) := by
  unfold State.writeInline
  refine State.keeps.step ?_ (relayReview_keeps ..) (by decide +kernel)
  refine State.keeps.wr ?_ (by decide +kernel)
  exact State.keeps.refl

/-- What `retune` may write. -/
def writes_retune : Nat :=
  writes_startLocking ||| writes_refreshCeilings

theorem retune_keeps (s : State) (p : ℕ) :
    State.keeps writes_retune s (State.retune s p) := by
  unfold State.retune
  extract_lets -merge -underBinder +onlyGivenNames y1
  extract_lets -merge -underBinder +onlyGivenNames y2
  extract_lets -merge -underBinder +onlyGivenNames s3
  have h3 : State.keeps writes_retune s s3 := by
    unfold s3
    refine State.keeps.wr ?_ (by decide +kernel)
    exact State.keeps.refl
  try clear_value s3
  refine State.keeps.ite (fun _ => ?_) (fun _ => ?_)
  · exact h3
  · extract_lets -merge -underBinder +onlyGivenNames s4
    have h4 : State.keeps writes_retune s s4 := by
      unfold s4
      split
      · refine State.keeps.ite (fun _ => ?_) (fun _ => ?_)
        · refine State.keeps.step ?_ (startLocking_keeps ..) (by decide +kernel)
          exact h3
        · exact h3
      · refine State.keeps.step ?_ (enterLocking_keeps ..) (by decide +kernel)
        exact h3
      · refine State.keeps.step ?_ (updPort_keeps ..) (by decide +kernel)
        refine State.keeps.wr ?_ (by decide +kernel)
        exact h3
      · extract_lets -merge -underBinder +onlyGivenNames y5
        refine State.keeps.ite (fun _ => ?_) (fun _ => ?_)
        · refine State.keeps.step ?_ (updPort_keeps ..) (by decide +kernel)
          exact h3
        · refine State.keeps.step ?_ (enterLocking_keeps ..) (by decide +kernel)
          exact h3
      · exact h3
    try clear_value s4
    refine State.keeps.step ?_ (refreshCeilings_keeps ..) (by decide +kernel)
    exact h4

/-- What `enterCalibrating` may write. -/
def writes_enterCalibrating : Nat :=
  writes [.FE_STATUS_STATE] [] ||| writes_txReview

theorem enterCalibrating_keeps (s : State) (p : ℕ) :
    State.keeps writes_enterCalibrating s (State.enterCalibrating s p) := by
  unfold State.enterCalibrating
  refine State.keeps.step ?_ (txReview_keeps ..) (by decide +kernel)
  refine State.keeps.step ?_ (badFrom_keeps ..) (by decide +kernel)
  refine State.keeps.step ?_ (updPort_keeps ..) (by decide +kernel)
  refine State.keeps.wr ?_ (by decide +kernel)
  exact State.keeps.refl

/-- What `calReq` may write. -/
def writes_calReq : Nat :=
  writes_enterCalibrating

theorem calReq_keeps (s : State) (p : ℕ) :
    State.keeps writes_calReq s (State.calReq s p) := by
  unfold State.calReq
  split
  · refine State.keeps.step ?_ (updPort_keeps ..) (by decide +kernel)
    exact State.keeps.refl
  · refine State.keeps.step ?_ (enterCalibrating_keeps ..) (by decide +kernel)
    exact State.keeps.refl
  · exact State.keeps.refl

/-- What `writeFeCtrl` may write. -/
def writes_writeFeCtrl : Nat :=
  writes_writeRxEn ||| writes_writeInline ||| writes_writeTxEn

theorem writeFeCtrl_keeps (s : State) (p : ℕ) (w : ℕ) :
    State.keeps writes_writeFeCtrl s (State.writeFeCtrl s p w) := by
  unfold State.writeFeCtrl
  extract_lets -merge -underBinder +onlyGivenNames s1
  have h1 : State.keeps writes_writeFeCtrl s s1 := by
    unfold s1
    refine State.keeps.ite (fun _ => ?_) (fun _ => ?_)
    · exact State.keeps.refl
    · refine State.keeps.step ?_ (writeRxEn_keeps ..) (by decide +kernel)
      exact State.keeps.refl
  try clear_value s1
  extract_lets -merge -underBinder +onlyGivenNames s2
  have h2 : State.keeps writes_writeFeCtrl s s2 := by
    unfold s2
    refine State.keeps.step ?_ (writeInline_keeps ..) (by decide +kernel)
    exact h1
  try clear_value s2
  extract_lets -merge -underBinder +onlyGivenNames s3
  have h3 : State.keeps writes_writeFeCtrl s s3 := by
    unfold s3
    refine State.keeps.ite (fun _ => ?_) (fun _ => ?_)
    · refine State.keeps.step ?_ (retune_keeps ..) (by decide +kernel)
      exact h2
    · exact h2
  try clear_value s3
  extract_lets -merge -underBinder +onlyGivenNames s4
  have h4 : State.keeps writes_writeFeCtrl s s4 := by
    unfold s4
    refine State.keeps.ite (fun _ => ?_) (fun _ => ?_)
    · refine State.keeps.step ?_ (calReq_keeps ..) (by decide +kernel)
      exact h3
    · exact h3
  try clear_value s4
  refine State.keeps.step ?_ (writeTxEn_keeps ..) (by decide +kernel)
  exact h4

/-- What `portFence` may write. -/
def writes_portFence : Nat :=
  writes_relayReview ||| writes_enterFenced

theorem portFence_keeps (s : State) (p : ℕ) :
    State.keeps writes_portFence s (State.portFence s p) := by
  unfold State.portFence
  refine State.keeps.ite (fun _ => ?_) (fun _ => ?_)
  · refine State.keeps.step ?_ (relayReview_keeps ..) (by decide +kernel)
    exact State.keeps.refl
  · refine State.keeps.step ?_ (relayReview_keeps ..) (by decide +kernel)
    refine State.keeps.step ?_ (enterFenced_keeps ..) (by decide +kernel)
    exact State.keeps.refl

/-- What `portRelease` may write. -/
def writes_portRelease : Nat :=
  writes_relayReview ||| writes_startLocking

theorem portRelease_keeps (s : State) (p : ℕ) :
    State.keeps writes_portRelease s (State.portRelease s p) := by
  unfold State.portRelease
  refine State.keeps.ite (fun _ => ?_) (fun _ => ?_)
  · refine State.keeps.step ?_ (relayReview_keeps ..) (by decide +kernel)
    refine State.keeps.step ?_ (startLocking_keeps ..) (by decide +kernel)
    exact State.keeps.refl
  · refine State.keeps.step ?_ (relayReview_keeps ..) (by decide +kernel)
    exact State.keeps.refl

/-- What `portTick` may write. -/
def writes_portTick : Nat :=
  writes [] [.ports] ||| writes_refreshPortGdc

theorem portTick_keeps (s : State) (p : ℕ) :
    State.keeps writes_portTick s (State.portTick s p) := by
  unfold State.portTick
  extract_lets -merge -underBinder +onlyGivenNames y1
  extract_lets -merge -underBinder +onlyGivenNames s2
  have h2 : State.keeps writes_portTick s s2 := by
    unfold s2
    refine State.keeps.ite (fun _ => ?_) (fun _ => ?_)
    · refine State.keeps.step ?_ (updPort_keeps ..) (by decide +kernel)
      exact State.keeps.refl
    · exact State.keeps.refl
  try clear_value s2
  split
  · exact h2
  · refine State.keeps.step ?_ (refreshPortGdc_keeps ..) (by decide +kernel)
    refine State.keeps.step ?_ (updPort_keeps ..) (by decide +kernel)
    exact h2

/-- What `execFeRxEnable` may write. -/
def writes_execFeRxEnable : Nat :=
  writes_writeRxEn

theorem execFeRxEnable_keeps (p : Sys2Proof.PortIx) (s : State) :
    State.answers writes_execFeRxEnable s (execFeRxEnable p s) := by
  unfold execFeRxEnable
  refine State.answers.next ?_
  refine State.keeps.step ?_ (writeRxEn_keeps ..) (by decide +kernel)
  exact State.keeps.refl

/-- What `execFeRxDisable` may write. -/
def writes_execFeRxDisable : Nat :=
  writes_writeRxEn

theorem execFeRxDisable_keeps (p : Sys2Proof.PortIx) (s : State) :
    State.answers writes_execFeRxDisable s (execFeRxDisable p s) := by
  unfold execFeRxDisable
  refine State.answers.next ?_
  refine State.keeps.step ?_ (writeRxEn_keeps ..) (by decide +kernel)
  exact State.keeps.refl

/-- What `execFeTxEnable` may write. -/
def writes_execFeTxEnable : Nat :=
  writes_writeTxEn

theorem execFeTxEnable_keeps (p : Sys2Proof.PortIx) (s : State) :
    State.answers writes_execFeTxEnable s (execFeTxEnable p s) := by
  unfold execFeTxEnable
  refine State.answers.next ?_
  refine State.keeps.step ?_ (writeTxEn_keeps ..) (by decide +kernel)
  exact State.keeps.refl

/-- What `execFeTxDisable` may write. -/
def writes_execFeTxDisable : Nat :=
  writes_writeTxEn

theorem execFeTxDisable_keeps (p : Sys2Proof.PortIx) (s : State) :
    State.answers writes_execFeTxDisable s (execFeTxDisable p s) := by
  unfold execFeTxDisable
  refine State.answers.next ?_
  refine State.keeps.step ?_ (writeTxEn_keeps ..) (by decide +kernel)
  exact State.keeps.refl

/-- What `execFeRetune` may write. -/
def writes_execFeRetune : Nat :=
  writes_retune

theorem execFeRetune_keeps (p : Sys2Proof.PortIx) (s : State) :
    State.answers writes_execFeRetune s (execFeRetune p s) := by
  unfold execFeRetune
  refine State.answers.next ?_
  refine State.keeps.step ?_ (retune_keeps ..) (by decide +kernel)
  exact State.keeps.refl

/-- What `execFeCalReq` may write. -/
def writes_execFeCalReq : Nat :=
  writes_calReq

theorem execFeCalReq_keeps (p : Sys2Proof.PortIx) (s : State) :
    State.answers writes_execFeCalReq s (execFeCalReq p s) := by
  unfold execFeCalReq
  refine State.answers.next ?_
  refine State.keeps.step ?_ (calReq_keeps ..) (by decide +kernel)
  exact State.keeps.refl

/-- What `lockDone` may write. -/
def writes_lockDone : Nat :=
  writes [.FE_STATUS_RX_LOCK, .FE_STATUS_TX_LOCK] [] ||| writes_sendClear ||| writes_refreshPortGdc |||
    writes_loadLatency ||| writes_enterReady

theorem lockDone_keeps (s : State) (p : ℕ) :
    State.keeps writes_lockDone s (State.lockDone s p) := by
  unfold State.lockDone
  refine State.keeps.ite (fun _ => ?_) (fun _ => ?_)
  · exact State.keeps.refl
  · extract_lets -merge -underBinder +onlyGivenNames s1
    have h1 : State.keeps writes_lockDone s s1 := by
      unfold s1
      refine State.keeps.step ?_ (sendClear_keeps ..) (by decide +kernel)
      refine State.keeps.step ?_ (refreshPortGdc_keeps ..) (by decide +kernel)
      refine State.keeps.step ?_ (loadLatency_keeps ..) (by decide +kernel)
      refine State.keeps.wr ?_ (by decide +kernel)
      refine State.keeps.wr ?_ (by decide +kernel)
      exact State.keeps.refl
    try clear_value s1
    refine State.keeps.ite (fun _ => ?_) (fun _ => ?_)
    · refine State.keeps.step ?_ (enterCalibrating_keeps ..) (by decide +kernel)
      exact h1
    · refine State.keeps.step ?_ (enterReady_keeps ..) (by decide +kernel)
      exact h1

/-- What `execFeLockDone` may write. -/
def writes_execFeLockDone : Nat :=
  writes_lockDone

theorem execFeLockDone_keeps (p : Sys2Proof.PortIx) (s : State) :
    State.answers writes_execFeLockDone s (execFeLockDone p s) := by
  unfold execFeLockDone
  refine State.answers.next ?_
  refine State.keeps.step ?_ (lockDone_keeps ..) (by decide +kernel)
  exact State.keeps.refl

/-- What `lockTimeout` may write. -/
def writes_lockTimeout : Nat :=
  writes_enterFenced ||| writes_sendFault

theorem lockTimeout_keeps (s : State) (p : ℕ) :
    State.keeps writes_lockTimeout s (State.lockTimeout s p) := by
  unfold State.lockTimeout
  refine State.keeps.ite (fun _ => ?_) (fun _ => ?_)
  · exact State.keeps.refl
  · refine State.keeps.step ?_ (enterFenced_keeps ..) (by decide +kernel)
    refine State.keeps.step ?_ (sendFault_keeps ..) (by decide +kernel)
    exact State.keeps.refl

/-- What `execLockTimeout` may write. -/
def writes_execLockTimeout : Nat :=
  writes_lockTimeout

theorem execLockTimeout_keeps (p : Sys2Proof.PortIx) (s : State) :
    State.answers writes_execLockTimeout s (execLockTimeout p s) := by
  unfold execLockTimeout
  refine State.answers.next ?_
  refine State.keeps.step ?_ (lockTimeout_keeps ..) (by decide +kernel)
  exact State.keeps.refl

/-- What `execUnlock` may write. -/
def writes_execUnlock : Nat :=
  writes [.FE_STATUS_UNLOCK_COUNT] [] ||| writes_enterLocking ||| writes_sendFault ||| writes_tally

theorem execUnlock_keeps (p : Sys2Proof.PortIx) (s : State) :
    State.answers writes_execUnlock s (execUnlock p s) := by
  unfold execUnlock
  refine State.answers.next ?_
  refine State.keeps.ite (fun _ => ?_) (fun _ => ?_)
  · exact State.keeps.refl
  · extract_lets -merge -underBinder +onlyGivenNames y1
    refine State.keeps.step ?_ (enterLocking_keeps ..) (by decide +kernel)
    refine State.keeps.step ?_ (sendFault_keeps ..) (by decide +kernel)
    refine State.keeps.step ?_ (tally_keeps ..) (by decide +kernel)
    refine State.keeps.wr ?_ (by decide +kernel)
    exact State.keeps.refl

/-- What `calDone` may write. -/
def writes_calDone : Nat :=
  writes [.FE_CAL_STATUS_FG_FAIL, .FE_CAL_STATUS_OBS_IRR, .FE_CAL_STATUS_RX_IRR, .FE_CAL_STATUS_TX_IRR] [] |||
    writes_enterFenced ||| writes_sendFault ||| writes_enterLocking ||| writes_enterReady

theorem calDone_keeps (s : State) (p : ℕ) (fit : Option (ℕ × ℕ × ℕ)) :
    State.keeps writes_calDone s (State.calDone s p fit) := by
  unfold State.calDone
  refine State.keeps.ite (fun _ => ?_) (fun _ => ?_)
  · exact State.keeps.refl
  · split
    · refine State.keeps.step ?_ (enterFenced_keeps ..) (by decide +kernel)
      refine State.keeps.step ?_ (sendFault_keeps ..) (by decide +kernel)
      refine State.keeps.wr ?_ (by decide +kernel)
      exact State.keeps.refl
    · extract_lets -merge -underBinder +onlyGivenNames y1
      extract_lets -merge -underBinder +onlyGivenNames y2
      extract_lets -merge -underBinder +onlyGivenNames y3
      extract_lets -merge -underBinder +onlyGivenNames s4
      have h4 : State.keeps writes_calDone s s4 := by
        unfold s4
        refine State.keeps.step ?_ (staleReview_keeps ..) (by decide +kernel)
        refine State.keeps.step ?_ (updPort_keeps ..) (by decide +kernel)
        refine State.keeps.step ?_ (calUpdated_keeps ..) (by decide +kernel)
        refine State.keeps.wr ?_ (by decide +kernel)
        refine State.keeps.wr ?_ (by decide +kernel)
        refine State.keeps.wr ?_ (by decide +kernel)
        exact State.keeps.refl
      try clear_value s4
      split
      · refine State.keeps.step ?_ (enterLocking_keeps ..) (by decide +kernel)
        refine State.keeps.step ?_ (attAfterCal_keeps ..) (by decide +kernel)
        exact h4
      · refine State.keeps.step ?_ (enterReady_keeps ..) (by decide +kernel)
        refine State.keeps.step ?_ (attAfterCal_keeps ..) (by decide +kernel)
        exact h4

/-- What `execFeCalDone` may write. -/
def writes_execFeCalDone : Nat :=
  writes_calDone

theorem execFeCalDone_keeps (p : Sys2Proof.PortIx) (fit : Option (ℕ × ℕ × ℕ)) (s : State) :
    State.answers writes_execFeCalDone s (execFeCalDone p fit s) := by
  unfold execFeCalDone
  refine State.answers.next ?_
  refine State.keeps.step ?_ (calDone_keeps ..) (by decide +kernel)
  exact State.keeps.refl

/-- What `execTxTimeout` may write. -/
def writes_execTxTimeout : Nat :=
  writes [.FE_STATUS_TX_TIMEOUT] [] ||| writes_enterFenced ||| writes_sendFault

theorem execTxTimeout_keeps (p : Sys2Proof.PortIx) (s : State) :
    State.answers writes_execTxTimeout s (execTxTimeout p s) := by
  unfold execTxTimeout
  refine State.answers.next ?_
  refine State.keeps.ite (fun _ => ?_) (fun _ => ?_)
  · exact State.keeps.refl
  · refine State.keeps.step ?_ (enterFenced_keeps ..) (by decide +kernel)
    refine State.keeps.step ?_ (sendFault_keeps ..) (by decide +kernel)
    refine State.keeps.wr ?_ (by decide +kernel)
    exact State.keeps.refl

/-- What `execFeBgCalUpdate` may write. -/
def writes_execFeBgCalUpdate : Nat :=
  writes_staleReview ||| writes_tally ||| writes_calUpdated

theorem execFeBgCalUpdate_keeps (p : Sys2Proof.PortIx) (able : Bool × Bool × Bool) (s : State) :
    State.answers writes_execFeBgCalUpdate s (execFeBgCalUpdate p able s) := by
  unfold execFeBgCalUpdate
  refine State.answers.next ?_
  refine State.keeps.ite (fun _ => ?_) (fun _ => ?_)
  · exact State.keeps.refl
  · extract_lets -merge -underBinder +onlyGivenNames y1
    extract_lets -merge -underBinder +onlyGivenNames y2
    refine State.keeps.ite (fun _ => ?_) (fun _ => ?_)
    · exact State.keeps.refl
    · refine State.keeps.step ?_ (staleReview_keeps ..) (by decide +kernel)
      refine State.keeps.step ?_ (tally_keeps ..) (by decide +kernel)
      refine State.keeps.step ?_ (calUpdated_keeps ..) (by decide +kernel)
      exact State.keeps.refl

/-- What `execCalStale` may write. -/
def writes_execCalStale : Nat :=
  writes [.FE_CAL_STATUS_STALE] [.ports] ||| writes_sendFault

theorem execCalStale_keeps (p : Sys2Proof.PortIx) (s : State) :
    State.answers writes_execCalStale s (execCalStale p s) := by
  unfold execCalStale
  refine State.answers.next ?_
  extract_lets -merge -underBinder +onlyGivenNames y1
  refine State.keeps.ite (fun _ => ?_) (fun _ => ?_)
  · exact State.keeps.refl
  · refine State.keeps.step ?_ (updPort_keeps ..) (by decide +kernel)
    refine State.keeps.step ?_ (sendFault_keeps ..) (by decide +kernel)
    refine State.keeps.wr ?_ (by decide +kernel)
    exact State.keeps.refl

/-- What `execFeAttApply` may write. -/
def writes_execFeAttApply : Nat :=
  writes_applyAtt

theorem execFeAttApply_keeps (p : Sys2Proof.PortIx) (s : State) :
    State.answers writes_execFeAttApply s (execFeAttApply p s) := by
  unfold execFeAttApply
  refine State.answers.next ?_
  refine State.keeps.ite (fun _ => ?_) (fun _ => ?_)
  · exact State.keeps.refl
  · refine State.keeps.ite (fun _ => ?_) (fun _ => ?_)
    · refine State.keeps.step ?_ (updPort_keeps ..) (by decide +kernel)
      exact State.keeps.refl
    · refine State.keeps.step ?_ (applyAtt_keeps ..) (by decide +kernel)
      exact State.keeps.refl

/-- What `execRelayMoveStart` may write. -/
def writes_execRelayMoveStart : Nat :=
  writes_relayReview

theorem execRelayMoveStart_keeps (p : Sys2Proof.PortIx) (s : State) :
    State.answers writes_execRelayMoveStart s (execRelayMoveStart p s) := by
  unfold execRelayMoveStart
  refine State.answers.next ?_
  refine State.keeps.step ?_ (relayReview_keeps ..) (by decide +kernel)
  exact State.keeps.refl

/-- What `relayEnd` may write. -/
def writes_relayEnd : Nat :=
  writes [.FE_STATUS_RELAY_MISMATCH] [] ||| writes_relayReview ||| writes_txReview ||| writes_sendFault

theorem relayEnd_keeps (s : State) (p : ℕ) (sensed : ℕ) :
    State.keeps writes_relayEnd s (State.relayEnd s p sensed) := by
  unfold State.relayEnd
  split
  · exact State.keeps.refl
  · extract_lets -merge -underBinder +onlyGivenNames s1
    have h1 : State.keeps writes_relayEnd s s1 := by
      unfold s1
      refine State.keeps.wr ?_ (by decide +kernel)
      refine State.keeps.step ?_ (updPort_keeps ..) (by decide +kernel)
      exact State.keeps.refl
    try clear_value s1
    refine State.keeps.ite (fun _ => ?_) (fun _ => ?_)
    · refine State.keeps.step ?_ (relayReview_keeps ..) (by decide +kernel)
      refine State.keeps.step ?_ (txReview_keeps ..) (by decide +kernel)
      refine State.keeps.step ?_ (badTill_keeps ..) (by decide +kernel)
      refine State.keeps.step ?_ (sendClear_keeps ..) (by decide +kernel)
      refine State.keeps.step ?_ (lineHold_keeps ..) (by decide +kernel)
      exact h1
    · extract_lets -merge -underBinder +onlyGivenNames s2
      have h2 : State.keeps writes_relayEnd s s2 := by
        unfold s2
        refine State.keeps.step ?_ (updPort_keeps ..) (by decide +kernel)
        refine State.keeps.step ?_ (sendFault_keeps ..) (by decide +kernel)
        refine State.keeps.wr ?_ (by decide +kernel)
        exact h1
      try clear_value s2
      refine State.keeps.step ?_ (relayMove_keeps ..) (by decide +kernel)
      exact h2

end Sys2Proof.Machine
end

