-- ==== Sys2Proof/Laws/ChannelizerKeeps.lean ====
section
/-!
SUPPORT. What each operation of Machine/Channelizer.lean may write.
-/

namespace Sys2Proof.Machine

set_option Elab.async false

/-- What `bankChecked` may write. -/
def writes_bankChecked : Nat :=
  writes [.CHZ_BANK_GD_GD2, .CHZ_BANK_GD_GD3, .CHZ_BANK_STATUS_OK2, .CHZ_BANK_STATUS_OK3] []

theorem bankChecked_keeps (s : State) (n : ℕ) (b : ℕ) :
    State.keeps writes_bankChecked s (State.bankChecked s n b) := by
  unfold State.bankChecked
  extract_lets -merge -underBinder +onlyGivenNames y1
  extract_lets -merge -underBinder +onlyGivenNames y2
  refine State.keeps.ite (fun _ => ?_) (fun _ => ?_)
  · refine State.keeps.wr ?_ (by decide +kernel)
    refine State.keeps.wr ?_ (by decide +kernel)
    exact State.keeps.refl
  · refine State.keeps.wr ?_ (by decide +kernel)
    refine State.keeps.wr ?_ (by decide +kernel)
    exact State.keeps.refl

/-- What `writeCoef` may write. -/
def writes_writeCoef : Nat :=
  writes [.CHZ_BANK_STATUS_OK2, .CHZ_BANK_STATUS_OK3, .CHZ_BANK_STATUS_WR_REFUSED] [.bps]

theorem writeCoef_keeps (s : State) (n : ℕ) (b : ℕ) (t : ℕ) (v : ℕ) :
    State.keeps writes_writeCoef s (State.writeCoef s n b t v) := by
  unfold State.writeCoef
  refine State.keeps.ite (fun _ => ?_) (fun _ => ?_)
  · extract_lets -merge -underBinder +onlyGivenNames s1
    have h1 : State.keeps writes_writeCoef s s1 := by
      unfold s1
      refine State.keeps.step ?_ (updBp_keeps ..) (by decide +kernel)
      exact State.keeps.refl
    try clear_value s1
    refine State.keeps.wrTo ?_ ?_
    · first | decide +kernel | (repeat' split) <;> decide +kernel
    exact h1
  · refine State.keeps.wr ?_ (by decide +kernel)
    exact State.keeps.refl

/-- What `refreshSrcGd` may write. -/
def writes_refreshSrcGd : Nat :=
  writes [.CHZ_SRC_GD_HI_GD_HI, .CHZ_SRC_GD_LO_GD_LO] []

theorem refreshSrcGd_keeps (s : State) (n : ℕ) :
    State.keeps writes_refreshSrcGd s (State.refreshSrcGd s n) := by
  unfold State.refreshSrcGd
  refine State.keeps.step ?_ (wr2_keeps ..) (by decide +kernel)
  exact State.keeps.refl

/-- What `refreshChain` may write. -/
def writes_refreshChain : Nat :=
  writes [.CHZ_CHAIN_BYPASS, .CHZ_CHAIN_D, .CHZ_DST_GD_HI_GD_HI, .CHZ_DST_GD_LO_GD_LO, .CHZ_SETTLE_COUNT] [] |||
    writes_refreshGdc ||| writes_refreshSrcGd

theorem refreshChain_keeps (s : State) (n : ℕ) :
    State.keeps writes_refreshChain s (State.refreshChain s n) := by
  unfold State.refreshChain
  extract_lets -merge -underBinder +onlyGivenNames y1
  refine State.keeps.step ?_ (refreshGdc_keeps ..) (by decide +kernel)
  refine State.keeps.step ?_ (refreshSrcGd_keeps ..) (by decide +kernel)
  refine State.keeps.step ?_ (wr2_keeps ..) (by decide +kernel)
  refine State.keeps.wr ?_ (by decide +kernel)
  refine State.keeps.wr ?_ (by decide +kernel)
  refine State.keeps.wr ?_ (by decide +kernel)
  exact State.keeps.refl

/-- What `setBank` may write. -/
def writes_setBank : Nat :=
  writes [.CHZ_BANK_STATUS_ACTIVE] [] ||| writes_refreshSrcGd

theorem setBank_keeps (s : State) (n : ℕ) (b : ℕ) :
    State.keeps writes_setBank s (State.setBank s n b) := by
  unfold State.setBank
  refine State.keeps.step ?_ (refreshSrcGd_keeps ..) (by decide +kernel)
  refine State.keeps.wr ?_ (by decide +kernel)
  exact State.keeps.refl

/-- What `requestSync` may write. -/
def writes_requestSync : Nat :=
  writes [] [.bps]

theorem requestSync_keeps (s : State) (n : ℕ) :
    State.keeps writes_requestSync s (State.requestSync s n) := by
  unfold State.requestSync
  refine State.keeps.step ?_ (updBp_keeps ..) (by decide +kernel)
  exact State.keeps.refl

/-- What `syncReset` may write. -/
def writes_syncReset : Nat :=
  writes [.CHZ_BANK_STATUS_FADING, .CHZ_BANK_STATUS_PENDING] [.bps] ||| writes_setBank

theorem syncReset_keeps (s : State) (n : ℕ) :
    State.keeps writes_syncReset s (State.syncReset s n) := by
  unfold State.syncReset
  extract_lets -merge -underBinder +onlyGivenNames y1
  extract_lets -merge -underBinder +onlyGivenNames y2
  split
  · exact State.keeps.refl
  · extract_lets -merge -underBinder +onlyGivenNames y3
    refine State.keeps.step ?_ (setBank_keeps ..) (by decide +kernel)
    refine State.keeps.wr ?_ (by decide +kernel)
    refine State.keeps.wr ?_ (by decide +kernel)
    refine State.keeps.step ?_ (updBp_keeps ..) (by decide +kernel)
    exact State.keeps.refl

/-- What `requestSwap` may write. -/
def writes_requestSwap : Nat :=
  writes [.CHZ_BANK_STATUS_LOST_SWAP, .CHZ_BANK_STATUS_PENDING, .CHZ_BANK_STATUS_PEND_BANK,
    .CHZ_BANK_STATUS_SWAP_REFUSED] [.bps] ||| writes_setBank

theorem requestSwap_keeps (s : State) (n : ℕ) (bank : ℕ) (fadeField : ℕ) :
    State.keeps writes_requestSwap s (State.requestSwap s n bank fadeField) := by
  unfold State.requestSwap
  extract_lets -merge -underBinder +onlyGivenNames y1
  extract_lets -merge -underBinder +onlyGivenNames y2
  refine State.keeps.ite (fun _ => ?_) (fun _ => ?_)
  · refine State.keeps.wr ?_ (by decide +kernel)
    exact State.keeps.refl
  · refine State.keeps.ite (fun _ => ?_) (fun _ => ?_)
    · refine State.keeps.step ?_ (setBank_keeps ..) (by decide +kernel)
      refine State.keeps.wr ?_ (by decide +kernel)
      refine State.keeps.step ?_ (updBp_keeps ..) (by decide +kernel)
      exact State.keeps.refl
    · extract_lets -merge -underBinder +onlyGivenNames s3
      have h3 : State.keeps writes_requestSwap s s3 := by
        unfold s3
        refine State.keeps.ite (fun _ => ?_) (fun _ => ?_)
        · refine State.keeps.wr ?_ (by decide +kernel)
          exact State.keeps.refl
        · exact State.keeps.refl
      try clear_value s3
      extract_lets -merge -underBinder +onlyGivenNames y4
      extract_lets -merge -underBinder +onlyGivenNames y5
      refine State.keeps.wr ?_ (by decide +kernel)
      refine State.keeps.wr ?_ (by decide +kernel)
      refine State.keeps.step ?_ (updBp_keeps ..) (by decide +kernel)
      exact h3

/-- What `fadeEnd` may write. -/
def writes_fadeEnd : Nat :=
  writes [.CHZ_BANK_STATUS_FADING] [.bps] ||| writes_setBank

theorem fadeEnd_keeps (s : State) (n : ℕ) :
    State.keeps writes_fadeEnd s (State.fadeEnd s n) := by
  unfold State.fadeEnd
  extract_lets -merge -underBinder +onlyGivenNames y1
  split
  · refine State.keeps.ite (fun _ => ?_) (fun _ => ?_)
    · refine State.keeps.step ?_ (setBank_keeps ..) (by decide +kernel)
      refine State.keeps.wr ?_ (by decide +kernel)
      refine State.keeps.step ?_ (updBp_keeps ..) (by decide +kernel)
      exact State.keeps.refl
    · exact State.keeps.refl
  · exact State.keeps.refl

/-- What `fadeStart` may write. -/
def writes_fadeStart : Nat :=
  writes [.CHZ_BANK_STATUS_FADING, .CHZ_BANK_STATUS_PENDING] [.bps]

theorem fadeStart_keeps (s : State) (n : ℕ) :
    State.keeps writes_fadeStart s (State.fadeStart s n) := by
  unfold State.fadeStart
  extract_lets -merge -underBinder +onlyGivenNames y1
  split
  · extract_lets -merge -underBinder +onlyGivenNames y2
    refine State.keeps.ite (fun _ => ?_) (fun _ => ?_)
    · exact State.keeps.refl
    · extract_lets -merge -underBinder +onlyGivenNames s3
      have h3 : State.keeps writes_fadeStart s s3 := by
        unfold s3
        refine State.keeps.wr ?_ (by decide +kernel)
        refine State.keeps.step ?_ (updBp_keeps ..) (by decide +kernel)
        exact State.keeps.refl
      try clear_value s3
      refine State.keeps.ite (fun _ => ?_) (fun _ => ?_)
      · exact h3
      · extract_lets -merge -underBinder +onlyGivenNames y4
        refine State.keeps.wr ?_ (by decide +kernel)
        refine State.keeps.step ?_ (updBp_keeps ..) (by decide +kernel)
        exact h3
  · exact State.keeps.refl

/-- What `chzOff` may write. -/
def writes_chzOff : Nat :=
  writes [.CHZ_BANK_STATUS_FADING] [.bps] ||| writes_setBank

theorem chzOff_keeps (s : State) (n : ℕ) :
    State.keeps writes_chzOff s (State.chzOff s n) := by
  unfold State.chzOff
  extract_lets -merge -underBinder +onlyGivenNames y1
  extract_lets -merge -underBinder +onlyGivenNames s2
  have h2 : State.keeps writes_chzOff s s2 := by
    unfold s2
    split
    · refine State.keeps.step ?_ (setBank_keeps ..) (by decide +kernel)
      refine State.keeps.wr ?_ (by decide +kernel)
      exact State.keeps.refl
    · exact State.keeps.refl
  try clear_value s2
  refine State.keeps.step ?_ (updBp_keeps ..) (by decide +kernel)
  exact h2

/-- What `chzStop` may write. -/
def writes_chzStop : Nat :=
  writes [] [.bps]

theorem chzStop_keeps (s : State) (n : ℕ) :
    State.keeps writes_chzStop s (State.chzStop s n) := by
  unfold State.chzStop
  refine State.keeps.step ?_ (updBp_keeps ..) (by decide +kernel)
  exact State.keeps.refl

/-- What `writeSync` may write. -/
def writes_writeSync : Nat :=
  writes_requestSync

theorem writeSync_keeps (s : State) (n : ℕ) :
    State.keeps writes_writeSync s (State.writeSync s n) := by
  unfold State.writeSync
  refine State.keeps.ite (fun _ => ?_) (fun _ => ?_)
  · exact State.keeps.refl
  · refine State.keeps.step ?_ (requestSync_keeps ..) (by decide +kernel)
    exact State.keeps.refl

/-- What `execChzSync` may write. -/
def writes_execChzSync : Nat :=
  writes_via ||| writes_writeSync

theorem execChzSync_keeps (q : Sys2Proof.CoreIx) (s : State) :
    State.answers writes_execChzSync s (execChzSync q s) := by
  unfold execChzSync
  refine State.answers.next ?_
  refine via_keeps (by decide +kernel) ?_ (fun s1 h1 => ?_)
  · exact State.keeps.refl
  · refine State.keeps.step ?_ (writeSync_keeps ..) (by decide +kernel)
    exact h1

/-- What `execSyncReset` may write. -/
def writes_execSyncReset : Nat :=
  writes_syncReset

theorem execSyncReset_keeps (n : Sys2Proof.BpIx) (s : State) :
    State.answers writes_execSyncReset s (execSyncReset n s) := by
  unfold execSyncReset
  refine State.answers.next ?_
  refine State.keeps.step ?_ (syncReset_keeps ..) (by decide +kernel)
  exact State.keeps.refl

/-- What `execChzSwap` may write. -/
def writes_execChzSwap : Nat :=
  writes [.CHZ_CTRL_FADE, .CHZ_CTRL_REQ_BANK] [] ||| writes_via ||| writes_requestSwap

theorem execChzSwap_keeps (q : Sys2Proof.CoreIx) (bank : Fin 4) (fade : Fin 16) (s : State) :
    State.answers writes_execChzSwap s (execChzSwap q bank fade s) := by
  unfold execChzSwap
  refine State.answers.next ?_
  refine via_keeps (by decide +kernel) ?_ (fun s1 h1 => ?_)
  · exact State.keeps.refl
  · extract_lets -merge -underBinder +onlyGivenNames y2
    refine State.keeps.step ?_ (requestSwap_keeps ..) (by decide +kernel)
    refine State.keeps.wr ?_ (by decide +kernel)
    refine State.keeps.wr ?_ (by decide +kernel)
    exact h1

/-- What `execFadeStart` may write. -/
def writes_execFadeStart : Nat :=
  writes_fadeStart

theorem execFadeStart_keeps (n : Sys2Proof.BpIx) (s : State) :
    State.answers writes_execFadeStart s (execFadeStart n s) := by
  unfold execFadeStart
  refine State.answers.next ?_
  refine State.keeps.step ?_ (fadeStart_keeps ..) (by decide +kernel)
  exact State.keeps.refl

/-- What `execFadeEnd` may write. -/
def writes_execFadeEnd : Nat :=
  writes_fadeEnd

theorem execFadeEnd_keeps (n : Sys2Proof.BpIx) (s : State) :
    State.answers writes_execFadeEnd s (execFadeEnd n s) := by
  unfold execFadeEnd
  refine State.answers.next ?_
  refine State.keeps.step ?_ (fadeEnd_keeps ..) (by decide +kernel)
  exact State.keeps.refl

/-- What `writeCheck` may write. -/
def writes_writeCheck : Nat :=
  writes [.CHZ_BANK_STATUS_CHECKING, .CHZ_CTRL_CHK_BANK] [.bps]

theorem writeCheck_keeps (s : State) (n : ℕ) (bank3 : Bool) :
    State.keeps writes_writeCheck s (State.writeCheck s n bank3) := by
  unfold State.writeCheck
  extract_lets -merge -underBinder +onlyGivenNames s1
  have h1 : State.keeps writes_writeCheck s s1 := by
    unfold s1
    refine State.keeps.wr ?_ (by decide +kernel)
    exact State.keeps.refl
  try clear_value s1
  refine State.keeps.ite (fun _ => ?_) (fun _ => ?_)
  · refine State.keeps.step ?_ (updBp_keeps ..) (by decide +kernel)
    refine State.keeps.wr ?_ (by decide +kernel)
    exact h1
  · exact h1

/-- What `execChzCheck` may write. -/
def writes_execChzCheck : Nat :=
  writes_via ||| writes_writeCheck

theorem execChzCheck_keeps (q : Sys2Proof.CoreIx) (bank3 : Bool) (s : State) :
    State.answers writes_execChzCheck s (execChzCheck q bank3 s) := by
  unfold execChzCheck
  refine State.answers.next ?_
  refine via_keeps (by decide +kernel) ?_ (fun s1 h1 => ?_)
  · exact State.keeps.refl
  · refine State.keeps.step ?_ (writeCheck_keeps ..) (by decide +kernel)
    exact h1

/-- What `execChzCheckDone` may write. -/
def writes_execChzCheckDone : Nat :=
  writes [.CHZ_BANK_STATUS_CHECKING] [] ||| writes_bankChecked

theorem execChzCheckDone_keeps (n : Sys2Proof.BpIx) (s : State) :
    State.answers writes_execChzCheckDone s (execChzCheckDone n s) := by
  unfold execChzCheckDone
  refine State.answers.next ?_
  refine State.keeps.ite (fun _ => ?_) (fun _ => ?_)
  · exact State.keeps.refl
  · refine State.keeps.step ?_ (bankChecked_keeps ..) (by decide +kernel)
    refine State.keeps.wr ?_ (by decide +kernel)
    exact State.keeps.refl

/-- What `advanceTap` may write. -/
def writes_advanceTap : Nat :=
  writes [.CHZ_COEF_ADDR_TAP] []

theorem advanceTap_keeps (s : State) (q : ℕ) :
    State.keeps writes_advanceTap s (State.advanceTap s q) := by
  unfold State.advanceTap
  refine State.keeps.ite (fun _ => ?_) (fun _ => ?_)
  · refine State.keeps.wr ?_ (by decide +kernel)
    exact State.keeps.refl
  · exact State.keeps.refl

/-- What `writeCoefData` may write. -/
def writes_writeCoefData : Nat :=
  writes_advanceTap ||| writes_writeCoef

theorem writeCoefData_keeps (s : State) (q : ℕ) (w : ℕ) :
    State.keeps writes_writeCoefData s (State.writeCoefData s q w) := by
  unfold State.writeCoefData
  refine State.keeps.step ?_ (advanceTap_keeps ..) (by decide +kernel)
  refine State.keeps.step ?_ (writeCoef_keeps ..) (by decide +kernel)
  exact State.keeps.refl

/-- What `execChzCoefWrite` may write. -/
def writes_execChzCoefWrite : Nat :=
  writes_via ||| writes_writeCoefData

theorem execChzCoefWrite_keeps (q : Sys2Proof.CoreIx) (w : Sys2Proof.Word) (s : State) :
    State.answers writes_execChzCoefWrite s (execChzCoefWrite q w s) := by
  unfold execChzCoefWrite
  refine State.answers.next ?_
  refine via_keeps (by decide +kernel) ?_ (fun s1 h1 => ?_)
  · exact State.keeps.refl
  · refine State.keeps.step ?_ (writeCoefData_keeps ..) (by decide +kernel)
    exact h1

/-- What `execChzCoefRead` may write. -/
def writes_execChzCoefRead : Nat :=
  writes [] [.readers] ||| writes_via ||| writes_advanceTap

theorem execChzCoefRead_keeps (q : Sys2Proof.CoreIx) (s : State) :
    State.answers writes_execChzCoefRead s (execChzCoefRead q s) := by
  unfold execChzCoefRead
  refine State.answers.next ?_
  refine via_keeps (by decide +kernel) ?_ (fun s1 h1 => ?_)
  · exact State.keeps.refl
  · refine State.keeps.step ?_ (advanceTap_keeps ..) (by decide +kernel)
    refine State.keeps.step ?_ (setReader_keeps ..) (by decide +kernel)
    exact h1

end Sys2Proof.Machine
end

