-- ==== Sys2Proof/Laws/EngineKeeps.lean ====
section
/-!
SUPPORT. What each operation of Machine/Engine.lean may write.
-/

namespace Sys2Proof.Machine

set_option Elab.async false

/-- What `engineSnapshot` may write. -/
def writes_engineSnapshot : Nat :=
  writes [.GCE_LEVEL_LEVEL, .GCE_STAT_SP_CLAMP, .GCE_STAT_SRC_INV] [.bps]

theorem engineSnapshot_keeps (s : State) (n : ℕ) :
    State.keeps writes_engineSnapshot s (State.engineSnapshot s n) := by
  unfold State.engineSnapshot
  extract_lets -merge -underBinder +onlyGivenNames y1
  extract_lets -merge -underBinder +onlyGivenNames y2
  extract_lets -merge -underBinder +onlyGivenNames y3
  extract_lets -merge -underBinder +onlyGivenNames s4
  have h4 : State.keeps writes_engineSnapshot s s4 := by
    unfold s4
    refine State.keeps.ite (fun _ => ?_) (fun _ => ?_)
    · exact State.keeps.refl
    · refine State.keeps.wr ?_ (by decide +kernel)
      exact State.keeps.refl
  try clear_value s4
  extract_lets -merge -underBinder +onlyGivenNames s5
  have h5 : State.keeps writes_engineSnapshot s s5 := by
    unfold s5
    refine State.keeps.ite (fun _ => ?_) (fun _ => ?_)
    · refine State.keeps.wr ?_ (by decide +kernel)
      exact h4
    · exact h4
  try clear_value s5
  refine State.keeps.step ?_ (updBp_keeps ..) (by decide +kernel)
  refine State.keeps.wr ?_ (by decide +kernel)
  exact h5

/-- What `engineApply` may write. -/
def writes_engineApply : Nat :=
  writes [.BP_GAIN_GAIN_NOW, .GCE_CAND0_C_LEV, .GCE_CAND0_C_STAB, .GCE_CAND1_C_EMIT, .GCE_CAND1_C_THM,
    .GCE_LEVEL_SP_RAMP, .GCE_OVR_OVR_CONSEC, .GCE_STAT_CS, .GCE_STAT_DET_ARMED, .GCE_STAT_WINNER] [.bps] |||
    writes_tally ||| writes_sendClear

theorem engineApply_keeps (s : State) (n : ℕ) :
    State.keeps writes_engineApply s (State.engineApply s n) := by
  unfold State.engineApply
  split
  · refine State.keeps.step ?_ (updBp_keeps ..) (by decide +kernel)
    exact State.keeps.refl
  · extract_lets -merge -underBinder +onlyGivenNames s1
    have h1 : State.keeps writes_engineApply s s1 := by
      unfold s1
      refine State.keeps.wr ?_ (by decide +kernel)
      refine State.keeps.wr ?_ (by decide +kernel)
      refine State.keeps.wr ?_ (by decide +kernel)
      refine State.keeps.wr ?_ (by decide +kernel)
      refine State.keeps.wr ?_ (by decide +kernel)
      refine State.keeps.wr ?_ (by decide +kernel)
      refine State.keeps.wr ?_ (by decide +kernel)
      refine State.keeps.wr ?_ (by decide +kernel)
      refine State.keeps.wr ?_ (by decide +kernel)
      refine State.keeps.wr ?_ (by decide +kernel)
      exact State.keeps.refl
    try clear_value s1
    extract_lets -merge -underBinder +onlyGivenNames s2
    have h2 : State.keeps writes_engineApply s s2 := by
      unfold s2
      refine State.keeps.step ?_ (updBp_keeps ..) (by decide +kernel)
      exact h1
    try clear_value s2
    extract_lets -merge -underBinder +onlyGivenNames s3
    have h3 : State.keeps writes_engineApply s s3 := by
      unfold s3
      refine State.keeps.step ?_ (tally_keeps ..) (by decide +kernel)
      exact h2
    try clear_value s3
    refine State.keeps.ite (fun _ => ?_) (fun _ => ?_)
    · refine State.keeps.step ?_ (sendClear_keeps ..) (by decide +kernel)
      exact h3
    · exact h3

/-- What `coldStart` may write. -/
def writes_coldStart : Nat :=
  writes [.BP_GAIN_GAIN_NOW, .GCE_STAT_CS, .GCE_STAT_DET_ARMED] [.bps]

theorem coldStart_keeps (s : State) (n : ℕ) :
    State.keeps writes_coldStart s (State.coldStart s n) := by
  unfold State.coldStart
  refine State.keeps.wr ?_ (by decide +kernel)
  refine State.keeps.wr ?_ (by decide +kernel)
  refine State.keeps.wr ?_ (by decide +kernel)
  refine State.keeps.step ?_ (updBp_keeps ..) (by decide +kernel)
  exact State.keeps.refl

/-- What `engineOff` may write. -/
def writes_engineOff : Nat :=
  writes [.BP_GAIN_GAIN_NOW, .GCE_CAND0_C_LEV, .GCE_CAND0_C_STAB, .GCE_CAND1_C_EMIT, .GCE_CAND1_C_THM,
    .GCE_STAT_CS] [.bps]

theorem engineOff_keeps (s : State) (n : ℕ) :
    State.keeps writes_engineOff s (State.engineOff s n) := by
  unfold State.engineOff
  refine State.keeps.step ?_ (updBp_keeps ..) (by decide +kernel)
  refine State.keeps.wr ?_ (by decide +kernel)
  refine State.keeps.wr ?_ (by decide +kernel)
  refine State.keeps.wr ?_ (by decide +kernel)
  refine State.keeps.wr ?_ (by decide +kernel)
  refine State.keeps.wr ?_ (by decide +kernel)
  refine State.keeps.wr ?_ (by decide +kernel)
  exact State.keeps.refl

/-- What `pinsTick` may write. -/
def writes_pinsTick : Nat :=
  writes [.GCE_SETA_CODE, .GCE_SETP_DUTY] [.pins]

theorem pinsTick_keeps (s : State) :
    State.keeps writes_pinsTick s (State.pinsTick s) := by
  unfold State.pinsTick
  extract_lets -merge -underBinder +onlyGivenNames y1
  extract_lets -merge -underBinder +onlyGivenNames s2
  have h2 : State.keeps writes_pinsTick s s2 := by
    unfold s2
    refine State.keeps.ite (fun _ => ?_) (fun _ => ?_)
    · exact State.keeps.refl
    · refine State.keeps.wr ?_ (by decide +kernel)
      exact State.keeps.refl
  try clear_value s2
  extract_lets -merge -underBinder +onlyGivenNames s3
  have h3 : State.keeps writes_pinsTick s s3 := by
    unfold s3
    refine State.keeps.ite (fun _ => ?_) (fun _ => ?_)
    · exact h2
    · refine State.keeps.wr ?_ (by decide +kernel)
      exact h2
  try clear_value s3
  refine (State.keeps.put_pins ?_ _ (by decide +kernel))
  exact h3

/-- What `srcInvalid` may write. -/
def writes_srcInvalid : Nat :=
  writes [.GCE_STAT_SRC_INV] []

theorem srcInvalid_keeps (s : State) (src : ℕ) :
    State.keeps writes_srcInvalid s (State.srcInvalid s src) := by
  unfold State.srcInvalid
  refine State.keeps.forEach ?_ (fun x1 s1 h1 => ?_)
  · exact State.keeps.refl
  · try beta_reduce
    refine State.keeps.ite (fun _ => ?_) (fun _ => ?_)
    · refine State.keeps.wr ?_ (by decide +kernel)
      exact h1
    · exact h1

/-- What `setpInvalid` may write. -/
def writes_setpInvalid : Nat :=
  writes [.GCE_SETP_CNT_INVALID_EVENTS, .GCE_SETP_VALID] [.pins] ||| writes_srcInvalid

theorem setpInvalid_keeps (s : State) (cause : Field) :
    State.keeps (writes [cause] [] ||| writes_setpInvalid) s (State.setpInvalid s cause) := by
  unfold State.setpInvalid
  extract_lets -merge -underBinder +onlyGivenNames s1
  have h1 : State.keeps (writes [cause] [] ||| writes_setpInvalid) s s1 := by
    unfold s1
    refine State.keeps.wr ?_ (inSet_left (inSet_mem (by simp)))
    exact State.keeps.refl
  try clear_value s1
  extract_lets -merge -underBinder +onlyGivenNames y2
  extract_lets -merge -underBinder +onlyGivenNames s3
  have h3 : State.keeps (writes [cause] [] ||| writes_setpInvalid) s s3 := by
    unfold s3
    refine (State.keeps.put_pins ?_ _ (partIn_right (by decide +kernel)))
    exact h1
  try clear_value s3
  refine State.keeps.ite (fun _ => ?_) (fun _ => ?_)
  · refine State.keeps.step ?_ (srcInvalid_keeps ..)
      (by first | exact sub_right (by decide +kernel) | exact sub_left | exact sub_both (by decide +kernel))
    refine State.keeps.wr ?_ (inSet_right (by decide +kernel))
    refine State.keeps.wr ?_ (inSet_right (by decide +kernel))
    exact h3
  · exact h3

/-- What `execOverrun` may write. -/
def writes_execOverrun : Nat :=
  writes [.GCE_OVR_OVR_CONSEC, .GCE_OVR_OVR_COUNT, .GCE_TICK_ECC_RETRY, .GCE_TICK_LATE_EMG, .GCE_TICK_LATE_MON,
    .GCE_TICK_LATE_SDL, .GCE_TICK_LATE_THM, .GCE_TICK_OVERRUN_TICKS] [.bps, .pins] ||| writes_tally |||
    writes_sendFault

theorem execOverrun_keeps (n : Sys2Proof.BpIx) (late : Option (Fin 5)) (s : State) :
    State.answers writes_execOverrun s (execOverrun n late s) := by
  unfold execOverrun
  refine State.answers.next ?_
  refine State.keeps.ite (fun _ => ?_) (fun _ => ?_)
  · exact State.keeps.refl
  · extract_lets -merge -underBinder +onlyGivenNames s1
    have h1 : State.keeps writes_execOverrun s s1 := by
      unfold s1
      refine State.keeps.step ?_ (tally_keeps ..) (by decide +kernel)
      refine State.keeps.wr ?_ (by decide +kernel)
      refine State.keeps.wr ?_ (by decide +kernel)
      refine State.keeps.step ?_ (updBp_keeps ..) (by decide +kernel)
      exact State.keeps.refl
    try clear_value s1
    extract_lets -merge -underBinder +onlyGivenNames s2
    have h2 : State.keeps writes_execOverrun s s2 := by
      unfold s2
      split
      · refine State.keeps.wrTo ?_ ?_
        · unfold lateField; first | decide +kernel | (repeat' split) <;> decide +kernel
        exact h1
      · exact h1
    try clear_value s2
    extract_lets -merge -underBinder +onlyGivenNames s3
    have h3 : State.keeps writes_execOverrun s s3 := by
      unfold s3
      refine State.keeps.wr ?_ (by decide +kernel)
      exact h2
    try clear_value s3
    extract_lets -merge -underBinder +onlyGivenNames y4
    extract_lets -merge -underBinder +onlyGivenNames s5
    have h5 : State.keeps writes_execOverrun s s5 := by
      unfold s5
      refine State.keeps.ite (fun _ => ?_) (fun _ => ?_)
      · exact h2
      · refine (State.keeps.put_pins ?_ _ (by decide +kernel))
        exact h3
    try clear_value s5
    refine State.keeps.ite (fun _ => ?_) (fun _ => ?_)
    · refine State.keeps.step ?_ (sendFault_keeps ..) (by decide +kernel)
      exact h5
    · exact h5

/-- What `execEngineEcc` may write. -/
def writes_execEngineEcc : Nat :=
  writes_sendFault

theorem execEngineEcc_keeps (n : Sys2Proof.BpIx) (s : State) :
    State.answers writes_execEngineEcc s (execEngineEcc n s) := by
  unfold execEngineEcc
  refine State.answers.next ?_
  refine State.keeps.step ?_ (sendFault_keeps ..) (by decide +kernel)
  exact State.keeps.refl

/-- What `execCsLate` may write. -/
def writes_execCsLate : Nat :=
  writes [.GCE_STAT_CS_LATE] [] ||| writes_sendFault

theorem execCsLate_keeps (n : Sys2Proof.BpIx) (s : State) :
    State.answers writes_execCsLate s (execCsLate n s) := by
  unfold execCsLate
  refine State.answers.next ?_
  refine State.keeps.ite (fun _ => ?_) (fun _ => ?_)
  · exact State.keeps.refl
  · extract_lets -merge -underBinder +onlyGivenNames s1
    have h1 : State.keeps writes_execCsLate s s1 := by
      unfold s1
      refine State.keeps.wr ?_ (by decide +kernel)
      exact State.keeps.refl
    try clear_value s1
    refine State.keeps.ite (fun _ => ?_) (fun _ => ?_)
    · exact h1
    · refine State.keeps.step ?_ (sendFault_keeps ..) (by decide +kernel)
      exact h1

/-- What `writeFwCeil` may write. -/
def writes_writeFwCeil : Nat :=
  writes [.GCE_CEIL_FW_CEIL, .GCE_STAT_CEIL_CLAMP] []

theorem writeFwCeil_keeps (s : State) (n : ℕ) (v : ℕ) :
    State.keeps writes_writeFwCeil s (State.writeFwCeil s n v) := by
  unfold State.writeFwCeil
  refine State.keeps.ite (fun _ => ?_) (fun _ => ?_)
  · refine State.keeps.wr ?_ (by decide +kernel)
    refine State.keeps.wr ?_ (by decide +kernel)
    exact State.keeps.refl
  · refine State.keeps.wr ?_ (by decide +kernel)
    exact State.keeps.refl

/-- What `writeFwSlew` may write. -/
def writes_writeFwSlew : Nat :=
  writes [.GCE_SLEW_FW_SP_SLEW, .GCE_STAT_CEIL_CLAMP] []

theorem writeFwSlew_keeps (s : State) (n : ℕ) (v : ℕ) :
    State.keeps writes_writeFwSlew s (State.writeFwSlew s n v) := by
  unfold State.writeFwSlew
  refine State.keeps.ite (fun _ => ?_) (fun _ => ?_)
  · refine State.keeps.wr ?_ (by decide +kernel)
    refine State.keeps.wr ?_ (by decide +kernel)
    exact State.keeps.refl
  · refine State.keeps.wr ?_ (by decide +kernel)
    exact State.keeps.refl

/-- What `execFwCeilWrite` may write. -/
def writes_execFwCeilWrite : Nat :=
  writes_via ||| writes_writeFwSlew ||| writes_writeFwCeil

theorem execFwCeilWrite_keeps (q : Sys2Proof.CoreIx) (slew : Bool) (v : BitVec 16) (s : State) :
    State.answers writes_execFwCeilWrite s (execFwCeilWrite q slew v s) := by
  unfold execFwCeilWrite
  refine State.answers.next ?_
  refine via_keeps (by decide +kernel) ?_ (fun s1 h1 => ?_)
  · exact State.keeps.refl
  · refine State.keeps.ite (fun _ => ?_) (fun _ => ?_)
    · refine State.keeps.step ?_ (writeFwSlew_keeps ..) (by decide +kernel)
      exact h1
    · refine State.keeps.step ?_ (writeFwCeil_keeps ..) (by decide +kernel)
      exact h1

/-- What `setaFail` may write. -/
def writes_setaFail : Nat :=
  writes [.GCE_SETA_VALID] [] ||| writes_srcInvalid

theorem setaFail_keeps (s : State) :
    State.keeps writes_setaFail s (State.setaFail s) := by
  unfold State.setaFail
  refine State.keeps.ite (fun _ => ?_) (fun _ => ?_)
  · refine State.keeps.step ?_ (srcInvalid_keeps ..) (by decide +kernel)
    refine State.keeps.wr ?_ (by decide +kernel)
    exact State.keeps.refl
  · exact State.keeps.refl

/-- What `execSetaInvalid` may write. -/
def writes_execSetaInvalid : Nat :=
  writes_setaFail

theorem execSetaInvalid_keeps (s : State) :
    State.answers writes_execSetaInvalid s (execSetaInvalid s) := by
  unfold execSetaInvalid
  refine State.answers.next ?_
  refine State.keeps.step ?_ (setaFail_keeps ..) (by decide +kernel)
  exact State.keeps.refl

/-- What `setaConversion` may write. -/
def writes_setaConversion : Nat :=
  writes [.GCE_SETA_VALID] [.pins]

theorem setaConversion_keeps (s : State) (code : ℕ) :
    State.keeps writes_setaConversion s (State.setaConversion s code) := by
  unfold State.setaConversion
  extract_lets -merge -underBinder +onlyGivenNames y1
  extract_lets -merge -underBinder +onlyGivenNames s2
  have h2 : State.keeps writes_setaConversion s s2 := by
    unfold s2
    refine (State.keeps.put_pins ?_ _ (by decide +kernel))
    exact State.keeps.refl
  try clear_value s2
  refine State.keeps.ite (fun _ => ?_) (fun _ => ?_)
  · refine State.keeps.wr ?_ (by decide +kernel)
    exact h2
  · exact h2

/-- What `execSetpPeriod` may write. -/
def writes_execSetpPeriod : Nat :=
  writes [.GCE_SETP_FAST, .GCE_SETP_PER_PERIOD, .GCE_SETP_SLOW] [] ||| writes_setpInvalid

theorem execSetpPeriod_keeps (period : ℕ) (high : ℕ) (s : State) :
    State.answers writes_execSetpPeriod s (execSetpPeriod period high s) := by
  unfold execSetpPeriod
  refine State.answers.next ?_
  refine State.keeps.ite (fun _ => ?_) (fun _ => ?_)
  · refine State.keeps.step ?_ (setpInvalid_keeps ..) (by decide +kernel)
    exact State.keeps.refl
  · refine State.keeps.ite (fun _ => ?_) (fun _ => ?_)
    · refine State.keeps.step ?_ (setpInvalid_keeps ..) (by decide +kernel)
      exact State.keeps.refl
    · extract_lets -merge -underBinder +onlyGivenNames s1
      have h1 : State.keeps writes_execSetpPeriod s s1 := by
        unfold s1
        refine State.keeps.wr ?_ (by decide +kernel)
        exact State.keeps.refl
      try clear_value s1
      extract_lets -merge -underBinder +onlyGivenNames y2
      extract_lets -merge -underBinder +onlyGivenNames y3
      extract_lets -merge -underBinder +onlyGivenNames y4
      extract_lets -merge -underBinder +onlyGivenNames s5
      have h5 : State.keeps writes_execSetpPeriod s s5 := by
        unfold s5
        refine (State.keeps.put_pins ?_ _ (by decide +kernel))
        exact h1
      try clear_value s5
      refine State.keeps.ite (fun _ => ?_) (fun _ => ?_)
      · refine State.keeps.wr ?_ (by decide +kernel)
        exact h5
      · exact h5

/-- What `execSetpStuck` may write. -/
def writes_execSetpStuck : Nat :=
  writes [.GCE_SETP_STUCK] [] ||| writes_setpInvalid

theorem execSetpStuck_keeps (s : State) :
    State.answers writes_execSetpStuck s (execSetpStuck s) := by
  unfold execSetpStuck
  refine State.answers.next ?_
  refine State.keeps.step ?_ (setpInvalid_keeps ..) (by decide +kernel)
  exact State.keeps.refl

end Sys2Proof.Machine
end

