-- ==== Sys2Proof/Laws/ChainKeeps.lean ====
section
/-!
SUPPORT. What each operation of Machine/Chain.lean may write.
-/

namespace Sys2Proof.Machine

set_option Elab.async false

/-- What `sumSample` may write. -/
def writes_sumSample : Nat :=
  writes [] [.ports]

theorem sumSample_keeps (s : State) (n : ℕ) (k : ℕ) (x : Sys2Proof.IQ) :
    State.keeps writes_sumSample s (State.sumSample s n k x) := by
  unfold State.sumSample
  extract_lets -merge -underBinder +onlyGivenNames y1
  refine State.keeps.step ?_ (updPort_keeps ..) (by decide +kernel)
  exact State.keeps.refl

/-- What `rsiOut` may write. -/
def writes_rsiOut : Nat :=
  writes [] [.bps] ||| writes_sumSample

theorem rsiOut_keeps (s : State) (n : ℕ) (m : ℤ) (x : Sys2Proof.IQ) :
    State.keeps writes_rsiOut s (State.rsiOut s n m x) := by
  unfold State.rsiOut
  extract_lets -merge -underBinder +onlyGivenNames y1
  extract_lets -merge -underBinder +onlyGivenNames y2
  extract_lets -merge -underBinder +onlyGivenNames s3
  have h3 : State.keeps writes_rsiOut s s3 := by
    unfold s3
    refine State.keeps.step ?_ (updBp_keeps ..) (by decide +kernel)
    exact State.keeps.refl
  try clear_value s3
  refine State.keeps.foldl ?_ (fun s4 x4 h4 => ?_)
  · exact h3
  · try beta_reduce
    refine State.keeps.ite (fun _ => ?_) (fun _ => ?_)
    · exact h4
    · refine State.keeps.step ?_ (sumSample_keeps ..) (by decide +kernel)
      exact h4

/-- What `rsiRun` may write. -/
def writes_rsiRun : Nat :=
  writes_rsiOut

theorem rsiRun_keeps (s : State) (n : ℕ) (grid : ℤ) (i : ℕ) (k : ℕ) :
    State.keeps writes_rsiRun s (State.rsiRun s n grid i k) := by
  induction k generalizing s with
  | zero => exact State.keeps.refl
  | succ k ih =>
    unfold State.rsiRun
    split
    · exact State.keeps.refl
    · extract_lets -merge -underBinder +onlyGivenNames y1
      refine State.keeps.ite (fun _ => ?_) (fun _ => State.keeps.ite (fun _ => ?_) (fun _ => State.keeps.refl))
      · exact (rsiOut_keeps ..).trans (ih _)
      · extract_lets -merge -underBinder +onlyGivenNames y2
        exact (rsiOut_keeps ..).trans (ih _)

/-- What `txSample` may write. -/
def writes_txSample : Nat :=
  writes_rsiRun

theorem txSample_keeps (s : State) (n : ℕ) (grid : ℤ) (i : ℕ) (x : Sys2Proof.IQ) :
    State.keeps writes_txSample s (State.txSample s n grid i x) := by
  unfold State.txSample
  extract_lets -merge -underBinder +onlyGivenNames y1
  extract_lets -merge -underBinder +onlyGivenNames y2
  extract_lets -merge -underBinder +onlyGivenNames y3
  refine State.keeps.step ?_ (rsiRun_keeps ..) (by decide +kernel)
  refine State.keeps.step ?_ (updBp_keeps ..) (by decide +kernel)
  exact State.keeps.refl

/-- What `txGrain` may write. -/
def writes_txGrain : Nat :=
  writes_txSample

theorem txGrain_keeps (s : State) (n : ℕ) (grid : ℤ) (xs : List Sys2Proof.IQ) :
    State.keeps writes_txGrain s (State.txGrain s n grid xs) := by
  unfold State.txGrain
  refine State.keeps.foldl ?_ (fun s1 x1 h1 => ?_)
  · exact State.keeps.refl
  · try beta_reduce
    refine State.keeps.step ?_ (txSample_keeps ..) (by decide +kernel)
    exact h1

/-- What `dacTick` may write. -/
def writes_dacTick : Nat :=
  writes [] [.ports]

theorem dacTick_keeps (s : State) (p : ℕ) :
    State.keeps writes_dacTick s (State.dacTick s p) := by
  unfold State.dacTick
  extract_lets -merge -underBinder +onlyGivenNames y1
  refine State.keeps.step ?_ (updPort_keeps ..) (by decide +kernel)
  exact State.keeps.refl

end Sys2Proof.Machine
end

