-- ==== Sys2Proof/Laws/SaddleKeeps.lean ====
section
/-!
SUPPORT. What each operation of Machine/Saddle.lean may write.
-/

namespace Sys2Proof.Machine

set_option Elab.async false

/-- What `saddleRestart` may write. -/
def writes_saddleRestart : Nat :=
  writes [.SDL_BOUND_FLOOR_MAX, .SDL_BOUND_U_MAX, .SDL_STATUS_MEAS_DONE, .SDL_SUB_U_HI, .SDL_SUB_U_LO] [.bps]

theorem saddleRestart_keeps (s : State) (n : ℕ) :
    State.keeps writes_saddleRestart s (State.saddleRestart s n) := by
  unfold State.saddleRestart
  refine State.keeps.forEach ?_ (fun x1 s1 h1 => ?_)
  · refine State.keeps.wr ?_ (by decide +kernel)
    refine State.keeps.wr ?_ (by decide +kernel)
    refine State.keeps.wr ?_ (by decide +kernel)
    refine State.keeps.step ?_ (updBp_keeps ..) (by decide +kernel)
    exact State.keeps.refl
  · try beta_reduce
    refine State.keeps.wr ?_ (by decide +kernel)
    refine State.keeps.wr ?_ (by decide +kernel)
    exact h1

/-- What `startCold` may write. -/
def writes_startCold : Nat :=
  writes_saddleRestart ||| writes_coldStart

theorem startCold_keeps (s : State) (n : ℕ) :
    State.keeps writes_startCold s (State.startCold s n) := by
  unfold State.startCold
  refine State.keeps.step ?_ (updBp_keeps ..) (by decide +kernel)
  refine State.keeps.step ?_ (saddleRestart_keeps ..) (by decide +kernel)
  refine State.keeps.step ?_ (coldStart_keeps ..) (by decide +kernel)
  exact State.keeps.refl

/-- What `mute` may write. -/
def writes_mute : Nat :=
  writes [] [.bps]

theorem mute_keeps (s : State) (n : ℕ) (cause : ℕ) :
    State.keeps writes_mute s (State.mute s n cause) := by
  unfold State.mute
  refine State.keeps.ite (fun _ => ?_) (fun _ => ?_)
  · exact State.keeps.refl
  · refine State.keeps.step ?_ (updBp_keeps ..) (by decide +kernel)
    exact State.keeps.refl

/-- What `unmute` may write. -/
def writes_unmute : Nat :=
  writes_startCold

theorem unmute_keeps (s : State) (n : ℕ) (cause : ℕ) :
    State.keeps writes_unmute s (State.unmute s n cause) := by
  unfold State.unmute
  refine State.keeps.ite (fun _ => ?_) (fun _ => ?_)
  · exact State.keeps.refl
  · extract_lets -merge -underBinder +onlyGivenNames s1
    have h1 : State.keeps writes_unmute s s1 := by
      unfold s1
      refine State.keeps.step ?_ (updBp_keeps ..) (by decide +kernel)
      exact State.keeps.refl
    try clear_value s1
    refine State.keeps.ite (fun _ => ?_) (fun _ => ?_)
    · refine State.keeps.step ?_ (startCold_keeps ..) (by decide +kernel)
      exact h1
    · exact h1

/-- What `gainReport` may write. -/
def writes_gainReport : Nat :=
  writes [] [.bps]

theorem gainReport_keeps (s : State) (n : ℕ) (c : ℕ) (g : ℤ) :
    State.keeps writes_gainReport s (State.gainReport s n c g) := by
  unfold State.gainReport
  refine State.keeps.step ?_ (updBp_keeps ..) (by decide +kernel)
  exact State.keeps.refl

/-- What `boundsUpdate` may write. -/
def writes_boundsUpdate : Nat :=
  writes [.SDL_BOUND_FLOOR_MAX, .SDL_BOUND_U_MAX, .SDL_DETECT_MUTUAL, .SDL_STATUS_FLOOR_HIGH,
    .SDL_STATUS_MEMBERS, .SDL_STATUS_WORST_SB, .SDL_SUB_U_HI, .SDL_SUB_U_LO] []

theorem boundsUpdate_keeps (s : State) (n : ℕ) :
    State.keeps writes_boundsUpdate s (State.boundsUpdate s n) := by
  unfold State.boundsUpdate
  extract_lets -merge -underBinder +onlyGivenNames y1
  extract_lets -merge -underBinder +onlyGivenNames y2
  extract_lets -merge -underBinder +onlyGivenNames y3
  extract_lets -merge -underBinder +onlyGivenNames s4
  have h4 : State.keeps writes_boundsUpdate s s4 := by
    unfold s4
    refine State.keeps.wr ?_ (by decide +kernel)
    refine State.keeps.wr ?_ (by decide +kernel)
    refine State.keeps.wr ?_ (by decide +kernel)
    refine State.keeps.wr ?_ (by decide +kernel)
    refine State.keeps.wr ?_ (by decide +kernel)
    refine State.keeps.wr ?_ (by decide +kernel)
    exact State.keeps.refl
  try clear_value s4
  refine State.keeps.forEach ?_ (fun x5 s5 h5 => ?_)
  · exact h4
  · try beta_reduce
    refine State.keeps.wr ?_ (by decide +kernel)
    refine State.keeps.wr ?_ (by decide +kernel)
    exact h5

/-- What `g1Trip` may write. -/
def writes_g1Trip : Nat :=
  writes [.SDL_COUNT_G1_TRIPS, .SDL_STATUS_G1_MARGIN, .SDL_STATUS_G1_MUTED, .SDL_STATUS_G1_OVERLOAD] [] |||
    writes_sendFault ||| writes_tally ||| writes_mute

theorem g1Trip_keeps (s : State) (n : ℕ) (margin : Bool) :
    State.keeps writes_g1Trip s (State.g1Trip s n margin) := by
  unfold State.g1Trip
  extract_lets -merge -underBinder +onlyGivenNames s1
  have h1 : State.keeps writes_g1Trip s s1 := by
    unfold s1
    refine State.keeps.wrTo ?_ ?_
    · first | decide +kernel | (repeat' split) <;> decide +kernel
    exact State.keeps.refl
  try clear_value s1
  refine State.keeps.ite (fun _ => ?_) (fun _ => ?_)
  · exact h1
  · refine State.keeps.step ?_ (sendFault_keeps ..) (by decide +kernel)
    refine State.keeps.step ?_ (updBp_keeps ..) (by decide +kernel)
    refine State.keeps.step ?_ (tally_keeps ..) (by decide +kernel)
    refine State.keeps.step ?_ (mute_keeps ..) (by decide +kernel)
    refine State.keeps.wr ?_ (by decide +kernel)
    refine State.keeps.wr ?_ (by decide +kernel)
    exact h1

/-- What `overload` may write. -/
def writes_overload : Nat :=
  writes_g1Trip

theorem overload_keeps (s : State) (n : ℕ) (sat : ℕ) :
    State.keeps writes_overload s (State.overload s n sat) := by
  unfold State.overload
  refine State.keeps.ite (fun _ => ?_) (fun _ => ?_)
  · refine State.keeps.step ?_ (g1Trip_keeps ..) (by decide +kernel)
    exact State.keeps.refl
  · exact State.keeps.refl

/-- What `saddleTick` may write. -/
def writes_saddleTick : Nat :=
  writes [.SDL_HEAD_PROBE, .SDL_STATUS_PROBE_CLAMP] [] ||| writes_boundsUpdate ||| writes_g1Trip

theorem saddleTick_keeps (s : State) (n : ℕ) :
    State.keeps writes_saddleTick s (State.saddleTick s n) := by
  unfold State.saddleTick
  extract_lets -merge -underBinder +onlyGivenNames y1
  extract_lets -merge -underBinder +onlyGivenNames y2
  extract_lets -merge -underBinder +onlyGivenNames s3
  have h3 : State.keeps writes_saddleTick s s3 := by
    unfold s3
    refine State.keeps.wr ?_ (by decide +kernel)
    exact State.keeps.refl
  try clear_value s3
  extract_lets -merge -underBinder +onlyGivenNames s4
  have h4 : State.keeps writes_saddleTick s s4 := by
    unfold s4
    refine State.keeps.ite (fun _ => ?_) (fun _ => ?_)
    · refine State.keeps.wr ?_ (by decide +kernel)
      exact h3
    · exact h3
  try clear_value s4
  extract_lets -merge -underBinder +onlyGivenNames s5
  have h5 : State.keeps writes_saddleTick s s5 := by
    unfold s5
    refine State.keeps.forEach ?_ (fun x6 s6 h6 => ?_)
    · exact h4
    · try beta_reduce
      split
      · split
        · refine State.keeps.step ?_ (gainReport_keeps ..) (by decide +kernel)
          exact h6
        · exact h6
      · exact h6
  try clear_value s5
  extract_lets -merge -underBinder +onlyGivenNames s7
  have h7 : State.keeps writes_saddleTick s s7 := by
    unfold s7
    refine State.keeps.step ?_ (boundsUpdate_keeps ..) (by decide +kernel)
    exact h5
  try clear_value s7
  extract_lets -merge -underBinder +onlyGivenNames s8
  have h8 : State.keeps writes_saddleTick s s8 := by
    unfold s8
    refine State.keeps.step ?_ (updBp_keeps ..) (by decide +kernel)
    exact h7
  try clear_value s8
  extract_lets -merge -underBinder +onlyGivenNames y9
  refine State.keeps.ite (fun _ => ?_) (fun _ => ?_)
  · refine State.keeps.step ?_ (g1Trip_keeps ..) (by decide +kernel)
    exact h8
  · exact h8

/-- What `measReview` may write. -/
def writes_measReview : Nat :=
  writes [.SDL_STATUS_MEAS_DONE] []

theorem measReview_keeps (s : State) (n : ℕ) :
    State.keeps writes_measReview s (State.measReview s n) := by
  unfold State.measReview
  extract_lets -merge -underBinder +onlyGivenNames y1
  refine State.keeps.wr ?_ (by decide +kernel)
  exact State.keeps.refl

/-- What `watchUpdate` may write. -/
def writes_watchUpdate : Nat :=
  writes [.SDL_DETECT_DET] [.bps]

theorem watchUpdate_keeps (s : State) (n : ℕ) (w : ℕ) (c : Sys2Proof.Correlation) :
    State.keeps writes_watchUpdate s (State.watchUpdate s n w c) := by
  unfold State.watchUpdate
  extract_lets -merge -underBinder +onlyGivenNames y1
  extract_lets -merge -underBinder +onlyGivenNames y2
  extract_lets -merge -underBinder +onlyGivenNames y3
  extract_lets -merge -underBinder +onlyGivenNames y4
  refine State.keeps.wr ?_ (by decide +kernel)
  refine State.keeps.step ?_ (updBp_keeps ..) (by decide +kernel)
  exact State.keeps.refl

/-- What `saddleUpdate` may write. -/
def writes_saddleUpdate : Nat :=
  writes [.SDL_COUNT_NEW_LOOPS, .SDL_HEAD_H_S, .SDL_STATUS_NEW_LOOP, .SDL_STATUS_UPDATES] [] ||| writes_tally |||
    writes_watchUpdate ||| writes_boundsUpdate ||| writes_measReview

theorem saddleUpdate_keeps (s : State) (n : ℕ) (e : Sys2Proof.Estimate) :
    State.keeps writes_saddleUpdate s (State.saddleUpdate s n e) := by
  unfold State.saddleUpdate
  extract_lets -merge -underBinder +onlyGivenNames y1
  extract_lets -merge -underBinder +onlyGivenNames s2
  have h2 : State.keeps writes_saddleUpdate s s2 := by
    unfold s2
    refine State.keeps.step ?_ (tally_keeps ..) (by decide +kernel)
    refine State.keeps.wr ?_ (by decide +kernel)
    refine State.keeps.step ?_ (updBp_keeps ..) (by decide +kernel)
    exact State.keeps.refl
  try clear_value s2
  extract_lets -merge -underBinder +onlyGivenNames s3
  have h3 : State.keeps writes_saddleUpdate s s3 := by
    unfold s3
    refine State.keeps.forEach ?_ (fun x4 s4 h4 => ?_)
    · exact h2
    · try beta_reduce
      refine State.keeps.step ?_ (watchUpdate_keeps ..) (by decide +kernel)
      exact h4
  try clear_value s3
  extract_lets -merge -underBinder +onlyGivenNames s5
  have h5 : State.keeps writes_saddleUpdate s s5 := by
    unfold s5
    refine State.keeps.ite (fun _ => ?_) (fun _ => ?_)
    · refine State.keeps.step ?_ (tally_keeps ..) (by decide +kernel)
      refine State.keeps.wr ?_ (by decide +kernel)
      refine State.keeps.wr ?_ (by decide +kernel)
      exact h3
    · exact h3
  try clear_value s5
  extract_lets -merge -underBinder +onlyGivenNames s6
  have h6 : State.keeps writes_saddleUpdate s s6 := by
    unfold s6
    refine State.keeps.step ?_ (boundsUpdate_keeps ..) (by decide +kernel)
    refine State.keeps.step ?_ (measReview_keeps ..) (by decide +kernel)
    exact h5
  try clear_value s6
  extract_lets -merge -underBinder +onlyGivenNames y7
  refine State.keeps.step ?_ (updBp_keeps ..) (by decide +kernel)
  refine State.keeps.wr ?_ (by decide +kernel)
  exact h6

/-- What `execSaddleUpdate` may write. -/
def writes_execSaddleUpdate : Nat :=
  writes_saddleUpdate

theorem execSaddleUpdate_keeps (n : Sys2Proof.BpIx) (e : Sys2Proof.Estimate) (s : State) :
    State.answers writes_execSaddleUpdate s (execSaddleUpdate n e s) := by
  unfold execSaddleUpdate
  refine State.answers.next ?_
  refine State.keeps.ite (fun _ => ?_) (fun _ => ?_)
  · refine State.keeps.step ?_ (saddleUpdate_keeps ..) (by decide +kernel)
    exact State.keeps.refl
  · exact State.keeps.refl

/-- What `watchWrite` may write. -/
def writes_watchWrite : Nat :=
  writes [.SDL_DETECT_DET, .SDL_STATUS_MEAS_DONE, .SDL_WATCH_BP, .SDL_WATCH_EN, .SDL_WATCH_NODE] [.bps]

theorem watchWrite_keeps (s : State) (n : ℕ) (idx : ℕ) (w : ℕ) :
    State.keeps writes_watchWrite s (State.watchWrite s n idx w) := by
  unfold State.watchWrite
  extract_lets -merge -underBinder +onlyGivenNames y1
  refine State.keeps.step ?_ (updBp_keeps ..) (by decide +kernel)
  refine State.keeps.wr ?_ (by decide +kernel)
  refine State.keeps.wr ?_ (by decide +kernel)
  refine State.keeps.wr ?_ (by decide +kernel)
  refine State.keeps.wr ?_ (by decide +kernel)
  refine State.keeps.wr ?_ (by decide +kernel)
  exact State.keeps.refl

/-- What `execSdlWatchWrite` may write. -/
def writes_execSdlWatchWrite : Nat :=
  writes_via ||| writes_watchWrite

theorem execSdlWatchWrite_keeps (q : Sys2Proof.CoreIx) (idx : Fin 15) (w : Sys2Proof.Word) (s : State) :
    State.answers writes_execSdlWatchWrite s (execSdlWatchWrite q idx w s) := by
  unfold execSdlWatchWrite
  refine State.answers.next ?_
  refine via_keeps (by decide +kernel) ?_ (fun s1 h1 => ?_)
  · exact State.keeps.refl
  · refine State.keeps.step ?_ (watchWrite_keeps ..) (by decide +kernel)
    exact h1

/-- What `writeTarget` may write. -/
def writes_writeTarget : Nat :=
  writes [.SDL_STATUS_TARGET_CLAMP, .SDL_TARGET_TARGET] []

theorem writeTarget_keeps (s : State) (n : ℕ) (v : ℕ) :
    State.keeps writes_writeTarget s (State.writeTarget s n v) := by
  unfold State.writeTarget
  refine State.keeps.ite (fun _ => ?_) (fun _ => ?_)
  · refine State.keeps.wr ?_ (by decide +kernel)
    refine State.keeps.wr ?_ (by decide +kernel)
    exact State.keeps.refl
  · refine State.keeps.wr ?_ (by decide +kernel)
    exact State.keeps.refl

/-- What `execSdlTargetWrite` may write. -/
def writes_execSdlTargetWrite : Nat :=
  writes_via ||| writes_writeTarget

theorem execSdlTargetWrite_keeps (q : Sys2Proof.CoreIx) (v : BitVec 16) (s : State) :
    State.answers writes_execSdlTargetWrite s (execSdlTargetWrite q v s) := by
  unfold execSdlTargetWrite
  refine State.answers.next ?_
  refine via_keeps (by decide +kernel) ?_ (fun s1 h1 => ?_)
  · exact State.keeps.refl
  · refine State.keeps.step ?_ (writeTarget_keeps ..) (by decide +kernel)
    exact h1

/-- What `execG1Overload` may write. -/
def writes_execG1Overload : Nat :=
  writes_overload

theorem execG1Overload_keeps (n : Sys2Proof.BpIx) (sat : Fin 65) (s : State) :
    State.answers writes_execG1Overload s (execG1Overload n sat s) := by
  unfold execG1Overload
  refine State.answers.next ?_
  refine State.keeps.ite (fun _ => ?_) (fun _ => ?_)
  · refine State.keeps.step ?_ (overload_keeps ..) (by decide +kernel)
    exact State.keeps.refl
  · exact State.keeps.refl

/-- What `execG1Release` may write. -/
def writes_execG1Release : Nat :=
  writes [.SDL_STATUS_G1_MUTED] [] ||| writes_unmute ||| writes_sendClear

theorem execG1Release_keeps (n : Sys2Proof.BpIx) (s : State) :
    State.answers writes_execG1Release s (execG1Release n s) := by
  unfold execG1Release
  refine State.answers.next ?_
  refine State.keeps.ite (fun _ => ?_) (fun _ => ?_)
  · exact State.keeps.refl
  · refine State.keeps.step ?_ (unmute_keeps ..) (by decide +kernel)
    refine State.keeps.step ?_ (sendClear_keeps ..) (by decide +kernel)
    refine State.keeps.step ?_ (sendClear_keeps ..) (by decide +kernel)
    refine State.keeps.wr ?_ (by decide +kernel)
    exact State.keeps.refl

/-- What `execDigestMiss` may write. -/
def writes_execDigestMiss : Nat :=
  writes [.SDL_DIGEST_DIGEST_MISS] [.bps]

theorem execDigestMiss_keeps (n : Sys2Proof.BpIx) (w : Fin 15) (s : State) :
    State.answers writes_execDigestMiss s (execDigestMiss n w s) := by
  unfold execDigestMiss
  refine State.answers.next ?_
  split
  · exact State.keeps.refl
  · refine State.keeps.ite (fun _ => ?_) (fun _ => ?_)
    · exact State.keeps.refl
    · extract_lets -merge -underBinder +onlyGivenNames y1
      refine State.keeps.wr ?_ (by decide +kernel)
      refine State.keeps.step ?_ (updBp_keeps ..) (by decide +kernel)
      exact State.keeps.refl

end Sys2Proof.Machine
end

