-- ==== Sys2Proof/Laws/TilesKeeps.lean ====
section
/-!
SUPPORT. What each operation of Machine/Tiles.lean may write.
-/

namespace Sys2Proof.Machine

set_option Elab.async false

/-- What `tileWritten` may write. -/
def writes_tileWritten : Nat :=
  writes [] [.tiles] ||| writes_tally

theorem tileWritten_keeps (s : State) (t : ℕ) (payload : List Sys2Proof.Byte) :
    State.keeps writes_tileWritten s (State.tileWritten s t payload) := by
  unfold State.tileWritten
  extract_lets -merge -underBinder +onlyGivenNames y1
  refine State.keeps.step ?_ (tally_keeps ..) (by decide +kernel)
  refine State.keeps.step ?_ (tally_keeps ..) (by decide +kernel)
  refine (State.keeps.put_tiles ?_ _ (by decide +kernel))
  exact State.keeps.refl

/-- What `memError` may write. -/
def writes_memError : Nat :=
  writes [.MEM_CH_UE, .MEM_UE_TILE_TILE] [] ||| writes_sendFault

theorem memError_keeps (s : State) (t : ℕ) :
    State.keeps writes_memError s (State.memError s t) := by
  unfold State.memError
  refine State.keeps.step ?_ (sendFault_keeps ..) (by decide +kernel)
  refine State.keeps.wr ?_ (by decide +kernel)
  refine State.keeps.wr ?_ (by decide +kernel)
  exact State.keeps.refl

/-- What `sealFail` may write. -/
def writes_sealFail : Nat :=
  writes [.GRG_LAST_BAD_CAUSE, .GRG_LAST_BAD_TILE, .GRG_LAST_OWNER_GEN, .GRG_LAST_OWNER_OWNER,
    .GRG_SEAL_FAIL_FAILS] [] ||| writes_tally

theorem sealFail_keeps (s : State) (t : ℕ) (cause : ℕ) :
    State.keeps writes_sealFail s (State.sealFail s t cause) := by
  unfold State.sealFail
  refine State.keeps.step ?_ (tally_keeps ..) (by decide +kernel)
  refine State.keeps.wr ?_ (by decide +kernel)
  refine State.keeps.wr ?_ (by decide +kernel)
  refine State.keeps.wr ?_ (by decide +kernel)
  refine State.keeps.wr ?_ (by decide +kernel)
  refine State.keeps.wr ?_ (by decide +kernel)
  exact State.keeps.refl

/-- What `takeTiles` may write. -/
def writes_takeTiles : Nat :=
  writes [] [.tiles]

theorem takeTiles_keeps (s : State) (owner : Option ℕ) (k : ℕ) :
    State.keepsQ writes_takeTiles s (State.takeTiles s owner k) := by
  unfold State.takeTiles
  refine State.keepsQ.ite (fun _ => ?_) (fun _ => ?_)
  · exact State.keepsQ.none
  · extract_lets -merge -underBinder +onlyGivenNames y1
    refine State.keepsQ.some ?_
    refine State.keepsP.mk ?_
    refine (State.keeps.put_tiles ?_ _ (by decide +kernel))
    exact State.keeps.refl

/-- What `giveTiles` may write. -/
def writes_giveTiles : Nat :=
  writes [] [.tiles]

theorem giveTiles_keeps (s : State) (owner : Option ℕ) (runs : List (ℕ × ℕ)) :
    State.keeps writes_giveTiles s (State.giveTiles s owner runs) := by
  unfold State.giveTiles
  refine State.keeps.ite (fun _ => ?_) (fun _ => ?_)
  · exact State.keeps.refl
  · refine (State.keeps.put_tiles ?_ _ (by decide +kernel))
    exact State.keeps.refl

/-- What `holdTiles` may write. -/
def writes_holdTiles : Nat :=
  writes [] [.bps] ||| writes_takeTiles

theorem holdTiles_keeps (s : State) (n : ℕ) (want : ℕ) :
    State.keepsO writes_holdTiles s (State.holdTiles s n want) := by
  unfold State.holdTiles
  extract_lets -merge -underBinder +onlyGivenNames y1
  refine State.keepsO.ite (fun _ => ?_) (fun _ => ?_)
  · split
    · exact State.keepsO.none
    · rename_i s2 z21 e2
      have h2 : State.keeps writes_holdTiles s s2 := by
        refine State.keepsQ.get ?_ e2
        refine State.keepsQ.step ?_ (takeTiles_keeps ..) (by decide +kernel)
        exact State.keeps.refl
      refine State.keepsO.some ?_
      refine State.keeps.step ?_ (updBp_keeps ..) (by decide +kernel)
      exact h2
  · extract_lets -merge -underBinder +onlyGivenNames y3
    refine State.keepsO.some ?_
    refine State.keeps.step ?_ (updBp_keeps ..) (by decide +kernel)
    refine State.keeps.step ?_ (giveTiles_keeps ..) (by decide +kernel)
    exact State.keeps.refl

/-- What `plusTiles` may write. -/
def writes_plusTiles : Nat :=
  0

theorem plusTiles_keeps (s : State) (f : Field) (i : ℕ) (k : ℕ) :
    State.keeps (writes [f] [] ||| writes_plusTiles) s (State.plusTiles s f i k) := by
  unfold State.plusTiles
  refine State.keeps.wr ?_ (inSet_left (inSet_mem (by simp)))
  exact State.keeps.refl

/-- What `minusTiles` may write. -/
def writes_minusTiles : Nat :=
  0

theorem minusTiles_keeps (s : State) (f : Field) (i : ℕ) (k : ℕ) :
    State.keeps (writes [f] [] ||| writes_minusTiles) s (State.minusTiles s f i k) := by
  unfold State.minusTiles
  refine State.keeps.wr ?_ (inSet_left (inSet_mem (by simp)))
  exact State.keeps.refl

/-- What `endTransfer` may write. -/
def writes_endTransfer : Nat :=
  writes [.FLO_TILES_RESERVED, .GRG_FREE_FREE, .GRG_OWNED_OWNED] [.tiles]

theorem endTransfer_keeps (m : Transfer) (s : State) :
    State.keeps writes_endTransfer s (State.endTransfer m s) := by
  unfold State.endTransfer
  extract_lets -merge -underBinder +onlyGivenNames y1
  refine State.keeps.ite (fun _ => ?_) (fun _ => ?_)
  · split
    · refine State.keeps.step ?_ (plusTiles_keeps ..) (by decide +kernel)
      refine State.keeps.step ?_ (plusTiles_keeps ..) (by decide +kernel)
      exact State.keeps.refl
    · refine State.keeps.step ?_ (plusTiles_keeps ..) (by decide +kernel)
      exact State.keeps.refl
  · refine State.keeps.step ?_ (plusTiles_keeps ..) (by decide +kernel)
    refine (State.keeps.put_tiles ?_ _ (by decide +kernel))
    exact State.keeps.refl

/-- What `startTransfer` may write. -/
def writes_startTransfer : Nat :=
  writes [.FLO_TILES_RESERVED, .GRG_FREE_FREE, .GRG_OWNED_OWNED, .GRG_QUAR_QUARANTINED] []

theorem startTransfer_keeps (m : Transfer) (s : State) :
    State.keeps writes_startTransfer s (State.startTransfer m s) := by
  unfold State.startTransfer
  extract_lets -merge -underBinder +onlyGivenNames y1
  refine State.keeps.ite (fun _ => ?_) (fun _ => ?_)
  · refine State.keeps.step ?_ (minusTiles_keeps ..) (by decide +kernel)
    exact State.keeps.refl
  · split
    · refine State.keeps.step ?_ (minusTiles_keeps ..) (by decide +kernel)
      refine State.keeps.step ?_ (minusTiles_keeps ..) (by decide +kernel)
      exact State.keeps.refl
    · refine State.keeps.step ?_ (minusTiles_keeps ..) (by decide +kernel)
      refine State.keeps.step ?_ (minusTiles_keeps ..) (by decide +kernel)
      exact State.keeps.refl

/-- What `tilesTick` may write. -/
def writes_tilesTick : Nat :=
  writes_endTransfer ||| writes_startTransfer ||| writes_record ||| writes_sendFault

theorem tilesTick_keeps (s : State) :
    State.keeps writes_tilesTick s (State.tilesTick s) := by
  unfold State.tilesTick
  extract_lets -merge -underBinder +onlyGivenNames y1
  extract_lets -merge -underBinder +onlyGivenNames y2
  extract_lets -merge -underBinder +onlyGivenNames s3
  have h3 : State.keeps writes_tilesTick s s3 := by
    unfold s3
    refine State.keeps.forEach ?_ (fun x4 s4 h4 => ?_)
    · refine (State.keeps.put_tiles ?_ _ (by decide +kernel))
      exact State.keeps.refl
    · try beta_reduce
      refine State.keeps.step ?_ (endTransfer_keeps ..) (by decide +kernel)
      exact h4
  try clear_value s3
  extract_lets -merge -underBinder +onlyGivenNames s5
  have h5 : State.keeps writes_tilesTick s s5 := by
    unfold s5
    refine State.keeps.forEach ?_ (fun x6 s6 h6 => ?_)
    · exact h3
    · try beta_reduce
      refine State.keeps.step ?_ (startTransfer_keeps ..) (by decide +kernel)
      exact h6
  try clear_value s5
  refine State.keeps.ite (fun _ => ?_) (fun _ => ?_)
  · exact h5
  · refine State.keeps.ite (fun _ => ?_) (fun _ => ?_)
    · refine State.keeps.step ?_ (sendClear_keeps ..) (by decide +kernel)
      exact h5
    · refine State.keeps.ite (fun _ => ?_) (fun _ => ?_)
      · exact h5
      · refine State.keeps.step ?_ (record_keeps ..) (by decide +kernel)
        refine State.keeps.step ?_ (sendFault_keeps ..) (by decide +kernel)
        exact h5

/-- What `quarantineTile` may write. -/
def writes_quarantineTile : Nat :=
  writes [.GRG_QUAR_QUARANTINED, .GRG_QUAR_RETIRED] [.tiles]

theorem quarantineTile_keeps (s : State) (t : ℕ) :
    State.keeps writes_quarantineTile s (State.quarantineTile s t) := by
  unfold State.quarantineTile
  extract_lets -merge -underBinder +onlyGivenNames y1
  extract_lets -merge -underBinder +onlyGivenNames y2
  extract_lets -merge -underBinder +onlyGivenNames s3
  have h3 : State.keeps writes_quarantineTile s s3 := by
    unfold s3
    refine (State.keeps.put_tiles ?_ _ (by decide +kernel))
    exact State.keeps.refl
  try clear_value s3
  refine State.keeps.step ?_ (plusTiles_keeps ..) (by split <;> decide +kernel)
  exact h3

/-- What `replaceTile` may write. -/
def writes_replaceTile : Nat :=
  writes_quarantineTile

theorem replaceTile_keeps (s : State) (t : ℕ) :
    State.keeps writes_replaceTile s (State.replaceTile s t) := by
  unfold State.replaceTile
  extract_lets -merge -underBinder +onlyGivenNames y1
  extract_lets -merge -underBinder +onlyGivenNames y2
  refine State.keeps.ite (fun _ => ?_) (fun _ => ?_)
  · refine (State.keeps.put_tiles ?_ _ (by decide +kernel))
    exact State.keeps.refl
  · extract_lets -merge -underBinder +onlyGivenNames y3
    extract_lets -merge -underBinder +onlyGivenNames y4
    extract_lets -merge -underBinder +onlyGivenNames s5
    have h5 : State.keeps writes_replaceTile s s5 := by
      unfold s5
      refine (State.keeps.put_tiles ?_ _ (by decide +kernel))
      exact State.keeps.refl
    try clear_value s5
    extract_lets -merge -underBinder +onlyGivenNames s6
    have h6 : State.keeps writes_replaceTile s s6 := by
      unfold s6
      refine State.keeps.step ?_ (quarantineTile_keeps ..) (by decide +kernel)
      exact h5
    try clear_value s6
    refine (State.keeps.put_tiles ?_ _ (by decide +kernel))
    exact h6

/-- What `dropGorgeTile` may write. -/
def writes_dropGorgeTile : Nat :=
  writes [.FLO_TILES_RESERVED] [] ||| writes_quarantineTile ||| writes_holdTiles

theorem dropGorgeTile_keeps (s : State) (n : ℕ) (t : ℕ) :
    State.keeps writes_dropGorgeTile s (State.dropGorgeTile s n t) := by
  unfold State.dropGorgeTile
  extract_lets -merge -underBinder +onlyGivenNames y1
  extract_lets -merge -underBinder +onlyGivenNames s2
  have h2 : State.keeps writes_dropGorgeTile s s2 := by
    unfold s2
    refine State.keeps.step ?_ (quarantineTile_keeps ..) (by decide +kernel)
    refine State.keeps.step ?_ (minusTiles_keeps ..) (by decide +kernel)
    refine State.keeps.step ?_ (updBp_keeps ..) (by decide +kernel)
    exact State.keeps.refl
  try clear_value s2
  refine State.keepsO.getD ?_ ?_
  · refine State.keepsO.step ?_ (holdTiles_keeps ..) (by decide +kernel)
    exact h2
  · exact h2

/-- What `execTileQuarantineDone` may write. -/
def writes_execTileQuarantineDone : Nat :=
  writes [.GRG_QUAR_QUARANTINED, .GRG_QUAR_RETIRED] [] ||| writes_giveTiles

theorem execTileQuarantineDone_keeps (t : BitVec 23) (pass : Bool) (s : State) :
    State.answers writes_execTileQuarantineDone s (execTileQuarantineDone t pass s) := by
  unfold execTileQuarantineDone
  refine State.answers.next ?_
  refine State.keeps.ite (fun _ => ?_) (fun _ => ?_)
  · exact State.keeps.refl
  · extract_lets -merge -underBinder +onlyGivenNames y1
    extract_lets -merge -underBinder +onlyGivenNames s2
    have h2 : State.keeps writes_execTileQuarantineDone s s2 := by
      unfold s2
      refine (State.keeps.put_tiles ?_ _ (by decide +kernel))
      exact State.keeps.refl
    try clear_value s2
    refine State.keeps.ite (fun _ => ?_) (fun _ => ?_)
    · refine State.keeps.step ?_ (giveTiles_keeps ..) (by decide +kernel)
      exact h2
    · extract_lets -merge -underBinder +onlyGivenNames y3
      extract_lets -merge -underBinder +onlyGivenNames s4
      have h4 : State.keeps writes_execTileQuarantineDone s s4 := by
        unfold s4
        refine (State.keeps.put_tiles ?_ _ (by decide +kernel))
        exact h2
      try clear_value s4
      refine State.keeps.step ?_ (plusTiles_keeps ..) (by decide +kernel)
      refine State.keeps.step ?_ (minusTiles_keeps ..) (by decide +kernel)
      exact h4

end Sys2Proof.Machine
end

