-- ==== Sys2Proof/Laws/DelayKeeps.lean ====
section
/-!
SUPPORT. What each operation of Machine/Delay.lean may write.
-/

namespace Sys2Proof.Machine

set_option Elab.async false

/-- What `wrDelay` may write. -/
def writes_wrDelay : Nat :=
  0

theorem wrDelay_keeps (s : State) (lo : Field) (hi : Field) (n : ℕ) (v : ℤ) :
    State.keeps (writes [lo, hi] [] ||| writes_wrDelay) s (State.wrDelay s lo hi n v) := by
  unfold State.wrDelay
  refine State.keeps.step ?_ (wr2_keeps ..)
    (by first | exact sub_right (by decide +kernel) | exact sub_left | exact sub_both (by decide +kernel))
  exact State.keeps.refl

/-- What `refreshAge` may write. -/
def writes_refreshAge : Nat :=
  writes [.FLO_AGE_HI_AGE, .FLO_AGE_LO_AGE] [.bps]

theorem refreshAge_keeps (s : State) (n : ℕ) :
    State.keeps writes_refreshAge s (State.refreshAge s n) := by
  unfold State.refreshAge
  extract_lets -merge -underBinder +onlyGivenNames s1
  have h1 : State.keeps writes_refreshAge s s1 := by
    unfold s1
    refine State.keeps.step ?_ (updBp_keeps ..) (by decide +kernel)
    exact State.keeps.refl
  try clear_value s1
  split
  · exact h1
  · refine State.keeps.step ?_ (wrDelay_keeps ..) (by decide +kernel)
    exact h1

/-- What `refreshMin` may write. -/
def writes_refreshMin : Nat :=
  writes [.FLO_LDST_HI_LDST, .FLO_LDST_LO_LDST, .FLO_MIN_HI_DMIN, .FLO_MIN_LO_DMIN] [] ||| writes_refreshAge

theorem refreshMin_keeps (s : State) (n : ℕ) :
    State.keeps writes_refreshMin s (State.refreshMin s n) := by
  unfold State.refreshMin
  extract_lets -merge -underBinder +onlyGivenNames s1
  have h1 : State.keeps writes_refreshMin s s1 := by
    unfold s1
    refine State.keeps.step ?_ (refreshAge_keeps ..) (by decide +kernel)
    exact State.keeps.refl
  try clear_value s1
  refine State.keeps.ite (fun _ => ?_) (fun _ => ?_)
  · exact h1
  · extract_lets -merge -underBinder +onlyGivenNames s2
    have h2 : State.keeps writes_refreshMin s s2 := by
      unfold s2
      refine State.keeps.step ?_ (wrDelay_keeps ..) (by decide +kernel)
      exact h1
    try clear_value s2
    split
    · exact h2
    · refine State.keeps.step ?_ (wrDelay_keeps ..) (by decide +kernel)
      exact h2

/-- What `enterInvalid` may write. -/
def writes_enterInvalid : Nat :=
  writes [.BP_STATUS_STATE] [.bps] ||| writes_raise

theorem enterInvalid_keeps (s : State) (n : ℕ) :
    State.keeps writes_enterInvalid s (State.enterInvalid s n) := by
  unfold State.enterInvalid
  extract_lets -merge -underBinder +onlyGivenNames y1
  refine State.keeps.ite (fun _ => ?_) (fun _ => ?_)
  · refine State.keeps.step ?_ (raise_keeps ..) (by decide +kernel)
    refine State.keeps.wr ?_ (by decide +kernel)
    refine State.keeps.step ?_ (updBp_keeps ..) (by decide +kernel)
    exact State.keeps.refl
  · exact State.keeps.refl

/-- What `leaveInvalid` may write. -/
def writes_leaveInvalid : Nat :=
  writes [.BP_STATUS_STATE] []

theorem leaveInvalid_keeps (s : State) (n : ℕ) :
    State.keeps writes_leaveInvalid s (State.leaveInvalid s n) := by
  unfold State.leaveInvalid
  refine State.keeps.ite (fun _ => ?_) (fun _ => ?_)
  · refine State.keeps.wr ?_ (by decide +kernel)
    exact State.keeps.refl
  · exact State.keeps.refl

/-- What `delayRecord` may write. -/
def writes_delayRecord : Nat :=
  writes_record

theorem delayRecord_keeps (s : State) (n : ℕ) (event : ℕ) :
    State.keeps writes_delayRecord s (State.delayRecord s n event) := by
  unfold State.delayRecord
  refine State.keeps.step ?_ (record_keeps ..) (by decide +kernel)
  exact State.keeps.refl

/-- What `setApplied` may write. -/
def writes_setApplied : Nat :=
  writes [.FLO_APPLIED_HI_APPLIED, .FLO_APPLIED_LO_APPLIED] [.bps]

theorem setApplied_keeps (s : State) (n : ℕ) (fineUnits : ℤ) :
    State.keeps writes_setApplied s (State.setApplied s n fineUnits) := by
  unfold State.setApplied
  refine State.keeps.step ?_ (wrDelay_keeps ..) (by decide +kernel)
  refine State.keeps.step ?_ (updBp_keeps ..) (by decide +kernel)
  exact State.keeps.refl

/-- What `enterHeld` may write. -/
def writes_enterHeld : Nat :=
  writes [.FLO_STATUS_DSTATE] [.bps] ||| writes_sendClear

theorem enterHeld_keeps (s : State) (n : ℕ) :
    State.keeps writes_enterHeld s (State.enterHeld s n) := by
  unfold State.enterHeld
  refine State.keeps.step ?_ (updBp_keeps ..) (by decide +kernel)
  refine State.keeps.step ?_ (sendClear_keeps ..) (by decide +kernel)
  refine State.keeps.wr ?_ (by decide +kernel)
  exact State.keeps.refl

/-- What `enterOffset` may write. -/
def writes_enterOffset : Nat :=
  writes [.FLO_STATUS_DSTATE, .FLO_STATUS_SLEWING] [.bps] ||| writes_delayRecord ||| writes_sendFault

theorem enterOffset_keeps (s : State) (n : ℕ) :
    State.keeps writes_enterOffset s (State.enterOffset s n) := by
  unfold State.enterOffset
  extract_lets -merge -underBinder +onlyGivenNames s1
  have h1 : State.keeps writes_enterOffset s s1 := by
    unfold s1
    refine State.keeps.wr ?_ (by decide +kernel)
    refine State.keeps.wr ?_ (by decide +kernel)
    exact State.keeps.refl
  try clear_value s1
  refine State.keeps.step ?_ (updBp_keeps ..) (by decide +kernel)
  refine State.keeps.step ?_ (delayRecord_keeps ..) (by decide +kernel)
  refine State.keeps.ite (fun _ => ?_) (fun _ => ?_)
  · exact h1
  · refine State.keeps.step ?_ (sendFault_keeps ..) (by decide +kernel)
    exact h1

/-- What `enterLost` may write. -/
def writes_enterLost : Nat :=
  writes [.FLO_COUNT_LOST_EVENTS, .FLO_STATUS_DSTATE, .FLO_STATUS_SLEWING] [] ||| writes_enterInvalid |||
    writes_delayRecord ||| writes_sendFault

theorem enterLost_keeps (s : State) (n : ℕ) :
    State.keeps writes_enterLost s (State.enterLost s n) := by
  unfold State.enterLost
  extract_lets -merge -underBinder +onlyGivenNames s1
  have h1 : State.keeps writes_enterLost s s1 := by
    unfold s1
    refine State.keeps.wr ?_ (by decide +kernel)
    refine State.keeps.wr ?_ (by decide +kernel)
    refine State.keeps.wr ?_ (by decide +kernel)
    refine State.keeps.step ?_ (updBp_keeps ..) (by decide +kernel)
    exact State.keeps.refl
  try clear_value s1
  refine State.keeps.step ?_ (enterInvalid_keeps ..) (by decide +kernel)
  refine State.keeps.step ?_ (delayRecord_keeps ..) (by decide +kernel)
  refine State.keeps.ite (fun _ => ?_) (fun _ => ?_)
  · exact h1
  · refine State.keeps.step ?_ (sendFault_keeps ..) (by decide +kernel)
    exact h1

/-- What `enterNoTiles` may write. -/
def writes_enterNoTiles : Nat :=
  writes [.FLO_STATUS_DSTATE] [] ||| writes_enterInvalid ||| writes_sendFault

theorem enterNoTiles_keeps (s : State) (n : ℕ) :
    State.keeps writes_enterNoTiles s (State.enterNoTiles s n) := by
  unfold State.enterNoTiles
  extract_lets -merge -underBinder +onlyGivenNames s1
  have h1 : State.keeps writes_enterNoTiles s s1 := by
    unfold s1
    refine State.keeps.wr ?_ (by decide +kernel)
    exact State.keeps.refl
  try clear_value s1
  refine State.keeps.step ?_ (enterInvalid_keeps ..) (by decide +kernel)
  refine State.keeps.ite (fun _ => ?_) (fun _ => ?_)
  · exact h1
  · refine State.keeps.step ?_ (sendFault_keeps ..) (by decide +kernel)
    exact h1

/-- What `reserveOr` may write. -/
def writes_reserveOr : Nat :=
  writes_holdTiles ||| writes_enterNoTiles

theorem reserveOr_keeps (s : State) (n : ℕ) :
    State.keeps writes_reserveOr s (State.reserveOr s n) := by
  unfold State.reserveOr
  refine State.keepsO.getD ?_ ?_
  · refine State.keepsO.step ?_ (holdTiles_keeps ..) (by decide +kernel)
    exact State.keeps.refl
  · refine State.keeps.step ?_ (enterNoTiles_keeps ..) (by decide +kernel)
    exact State.keeps.refl

/-- What `enterEstablishing` may write. -/
def writes_enterEstablishing : Nat :=
  writes [.FLO_MU_MU, .FLO_STATUS_SLEWING] [] ||| writes_reserveOr ||| writes_refreshMin

theorem enterEstablishing_keeps (s : State) (n : ℕ) :
    State.keeps writes_enterEstablishing s (State.enterEstablishing s n) := by
  unfold State.enterEstablishing
  extract_lets -merge -underBinder +onlyGivenNames s1
  have h1 : State.keeps writes_enterEstablishing s s1 := by
    unfold s1
    refine State.keeps.step ?_ (leaveInvalid_keeps ..) (by decide +kernel)
    refine State.keeps.step ?_ (sendClear_keeps ..) (by decide +kernel)
    refine State.keeps.step ?_ (sendClear_keeps ..) (by decide +kernel)
    refine State.keeps.step ?_ (updBp_keeps ..) (by decide +kernel)
    exact State.keeps.refl
  try clear_value s1
  refine State.keeps.ite (fun _ => ?_) (fun _ => ?_)
  · refine State.keeps.step ?_ (reserveOr_keeps ..) (by decide +kernel)
    refine State.keeps.step ?_ (refreshMin_keeps ..) (by decide +kernel)
    refine State.keeps.wr ?_ (by decide +kernel)
    refine State.keeps.wr ?_ (by decide +kernel)
    exact h1
  · refine State.keeps.wr ?_ (by decide +kernel)
    refine State.keeps.wr ?_ (by decide +kernel)
    refine State.keeps.wr ?_ (by decide +kernel)
    exact h1

/-- What `measureAnew` may write. -/
def writes_measureAnew : Nat :=
  writes [] [.bps]

theorem measureAnew_keeps (s : State) (n : ℕ) :
    State.keeps writes_measureAnew s (State.measureAnew s n) := by
  unfold State.measureAnew
  refine State.keeps.ite (fun _ => ?_) (fun _ => ?_)
  · refine State.keeps.step ?_ (updBp_keeps ..) (by decide +kernel)
    exact State.keeps.refl
  · exact State.keeps.refl

/-- What `leaveDelay` may write. -/
def writes_leaveDelay : Nat :=
  writes [.FLO_MU_MU, .FLO_STATUS_DSTATE, .FLO_STATUS_SLACK_LOW, .FLO_STATUS_SLEWING] [] ||| writes_sendClear |||
    writes_holdTiles

theorem leaveDelay_keeps (s : State) (n : ℕ) (disabled : Bool) :
    State.keeps writes_leaveDelay s (State.leaveDelay s n disabled) := by
  unfold State.leaveDelay
  extract_lets -merge -underBinder +onlyGivenNames s1
  have h1 : State.keeps writes_leaveDelay s s1 := by
    unfold s1
    refine State.keeps.step ?_ (updBp_keeps ..) (by decide +kernel)
    exact State.keeps.refl
  try clear_value s1
  extract_lets -merge -underBinder +onlyGivenNames s2
  have h2 : State.keeps writes_leaveDelay s s2 := by
    unfold s2
    refine State.keeps.wr ?_ (by decide +kernel)
    refine State.keeps.wr ?_ (by decide +kernel)
    refine State.keeps.wr ?_ (by decide +kernel)
    refine State.keeps.wr ?_ (by decide +kernel)
    exact h1
  try clear_value s2
  extract_lets -merge -underBinder +onlyGivenNames s3
  have h3 : State.keeps writes_leaveDelay s s3 := by
    unfold s3
    refine State.keeps.foldl ?_ (fun s4 x4 h4 => ?_)
    · exact h2
    · try beta_reduce
      refine State.keeps.step ?_ (sendClear_keeps ..) (by decide +kernel)
      exact h4
  try clear_value s3
  refine State.keeps.ite (fun _ => ?_) (fun _ => ?_)
  · refine State.keepsO.getD ?_ ?_
    · refine State.keepsO.step ?_ (holdTiles_keeps ..) (by decide +kernel)
      exact h3
    · exact h3
  · exact h3

/-- What `stepFrom` may write. -/
def writes_stepFrom : Nat :=
  writes [] [.bps]

theorem stepFrom_keeps (s : State) (n : ℕ) (cause : ℕ) :
    State.keeps writes_stepFrom s (State.stepFrom s n cause) := by
  unfold State.stepFrom
  refine State.keeps.step ?_ (updBp_keeps ..) (by decide +kernel)
  exact State.keeps.refl

/-- What `announceStep` may write. -/
def writes_announceStep : Nat :=
  writes [.BP_STATUS_STEP, .FLO_COUNT_STEPS] [.bps] ||| writes_raise ||| writes_sendFault ||| writes_record

theorem announceStep_keeps (s : State) (n : ℕ) :
    State.keeps writes_announceStep s (State.announceStep s n) := by
  unfold State.announceStep
  split
  · exact State.keeps.refl
  · refine State.keeps.step ?_ (raise_keeps ..) (by decide +kernel)
    refine State.keeps.step ?_ (sendFault_keeps ..) (by decide +kernel)
    refine State.keeps.step ?_ (record_keeps ..) (by decide +kernel)
    refine State.keeps.wr ?_ (by decide +kernel)
    refine State.keeps.wr ?_ (by decide +kernel)
    refine State.keeps.step ?_ (updBp_keeps ..) (by decide +kernel)
    exact State.keeps.refl

/-- What `delayStep` may write. -/
def writes_delayStep : Nat :=
  writes [.FLO_STATUS_SLEWING] [] ||| writes_reserveOr ||| writes_setApplied ||| writes_announceStep

theorem delayStep_keeps (s : State) (n : ℕ) :
    State.keeps writes_delayStep s (State.delayStep s n) := by
  unfold State.delayStep
  extract_lets -merge -underBinder +onlyGivenNames s1
  have h1 : State.keeps writes_delayStep s s1 := by
    unfold s1
    refine State.keeps.ite (fun _ => ?_) (fun _ => ?_)
    · refine State.keeps.step ?_ (reserveOr_keeps ..) (by decide +kernel)
      refine State.keeps.step ?_ (enterHeld_keeps ..) (by decide +kernel)
      refine State.keeps.wr ?_ (by decide +kernel)
      refine State.keeps.step ?_ (setApplied_keeps ..) (by decide +kernel)
      refine State.keeps.step ?_ (updBp_keeps ..) (by decide +kernel)
      refine State.keeps.step ?_ (stepFrom_keeps ..) (by decide +kernel)
      exact State.keeps.refl
    · exact State.keeps.refl
  try clear_value s1
  refine State.keeps.step ?_ (announceStep_keeps ..) (by decide +kernel)
  exact h1

/-- What `plumbStepped` may write. -/
def writes_plumbStepped : Nat :=
  writes_stepFrom

theorem plumbStepped_keeps (s : State) :
    State.keeps writes_plumbStepped s (State.plumbStepped s) := by
  unfold State.plumbStepped
  refine State.keeps.forEach ?_ (fun x1 s1 h1 => ?_)
  · exact State.keeps.refl
  · try beta_reduce
    refine State.keeps.ite (fun _ => ?_) (fun _ => ?_)
    · exact h1
    · refine State.keeps.ite (fun _ => ?_) (fun _ => ?_)
      · refine State.keeps.step ?_ (stepFrom_keeps ..) (by decide +kernel)
        exact h1
      · refine State.keeps.step ?_ (updBp_keeps ..) (by decide +kernel)
        exact h1

/-- What `commitTarget` may write. -/
def writes_commitTarget : Nat :=
  writes [.FLO_CTRL_STEP_OK, .FLO_STATUS_REJECT, .FLO_STATUS_SLEWING, .FLO_TARGET_HI_TARGET,
    .FLO_TARGET_LO_TARGET] [] ||| writes_reserveOr

theorem commitTarget_keeps (s : State) (n : ℕ) (v : ℤ) :
    State.keeps writes_commitTarget s (State.commitTarget s n v) := by
  unfold State.commitTarget
  extract_lets -merge -underBinder +onlyGivenNames y1
  extract_lets -merge -underBinder +onlyGivenNames s2
  have h2 : State.keeps writes_commitTarget s s2 := by
    unfold s2
    refine State.keeps.step ?_ (updBp_keeps ..) (by decide +kernel)
    exact State.keeps.refl
  try clear_value s2
  refine State.keeps.ite (fun _ => ?_) (fun _ => ?_)
  · refine State.keeps.wr ?_ (by decide +kernel)
    exact h2
  · extract_lets -merge -underBinder +onlyGivenNames s3
    have h3 : State.keeps writes_commitTarget s s3 := by
      unfold s3
      refine State.keeps.step ?_ (wrDelay_keeps ..) (by decide +kernel)
      refine State.keeps.wr ?_ (by decide +kernel)
      exact h2
    try clear_value s3
    split
    · extract_lets -merge -underBinder +onlyGivenNames s4
      have h4 : State.keeps writes_commitTarget s s4 := by
        unfold s4
        refine State.keeps.step ?_ (reserveOr_keeps ..) (by decide +kernel)
        exact h3
      try clear_value s4
      refine State.keeps.ite (fun _ => ?_) (fun _ => ?_)
      · refine State.keeps.wr ?_ (by decide +kernel)
        refine State.keeps.step ?_ (updBp_keeps ..) (by decide +kernel)
        exact h4
      · refine State.keeps.step ?_ (enterHeld_keeps ..) (by decide +kernel)
        refine State.keeps.wr ?_ (by decide +kernel)
        refine State.keeps.step ?_ (updBp_keeps ..) (by decide +kernel)
        exact h4
    · extract_lets -merge -underBinder +onlyGivenNames s5
      have h5 : State.keeps writes_commitTarget s s5 := by
        unfold s5
        refine State.keeps.step ?_ (reserveOr_keeps ..) (by decide +kernel)
        exact h3
      try clear_value s5
      refine State.keeps.ite (fun _ => ?_) (fun _ => ?_)
      · refine State.keeps.wr ?_ (by decide +kernel)
        refine State.keeps.step ?_ (updBp_keeps ..) (by decide +kernel)
        exact h5
      · refine State.keeps.step ?_ (enterHeld_keeps ..) (by decide +kernel)
        refine State.keeps.wr ?_ (by decide +kernel)
        refine State.keeps.step ?_ (updBp_keeps ..) (by decide +kernel)
        exact h5
    · refine State.keeps.step ?_ (reserveOr_keeps ..) (by decide +kernel)
      exact h3
    · refine State.keeps.step ?_ (reserveOr_keeps ..) (by decide +kernel)
      exact h3
    · exact h3

/-- What `writeTargetHi` may write. -/
def writes_writeTargetHi : Nat :=
  writes_commitTarget

theorem writeTargetHi_keeps (s : State) (n : ℕ) (hi : ℕ) :
    State.keeps writes_writeTargetHi s (State.writeTargetHi s n hi) := by
  unfold State.writeTargetHi
  refine State.keeps.step ?_ (commitTarget_keeps ..) (by decide +kernel)
  exact State.keeps.refl

/-- What `writeDlySlew` may write. -/
def writes_writeDlySlew : Nat :=
  writes [.FLO_SLEW_FW_DLY_SLEW, .FLO_STATUS_SLEW_CLAMP] []

theorem writeDlySlew_keeps (s : State) (v : ℕ) :
    State.keeps writes_writeDlySlew s (State.writeDlySlew s v) := by
  unfold State.writeDlySlew
  refine State.keeps.ite (fun _ => ?_) (fun _ => ?_)
  · refine State.keeps.forEach ?_ (fun x1 s1 h1 => ?_)
    · refine State.keeps.wr ?_ (by decide +kernel)
      exact State.keeps.refl
    · try beta_reduce
      refine State.keeps.wr ?_ (by decide +kernel)
      exact h1
  · refine State.keeps.wr ?_ (by decide +kernel)
    exact State.keeps.refl

/-- What `acceptGrain` may write. -/
def writes_acceptGrain : Nat :=
  writes [.FLO_STATUS_TS_JUMP] [] ||| writes_stepFrom ||| writes_tally

theorem acceptGrain_keeps (s : State) (n : ℕ) (g : Sys2Proof.Grain) (gen : ℕ) (pos : ℕ) (k : ℕ) :
    State.keepsP writes_acceptGrain s (State.acceptGrain s n g gen pos k) := by
  unfold State.acceptGrain
  extract_lets -merge -underBinder +onlyGivenNames y1
  extract_lets -merge -underBinder +onlyGivenNames y2
  extract_lets -merge -underBinder +onlyGivenNames y3
  extract_lets -merge -underBinder +onlyGivenNames s4
  have h4 : State.keeps writes_acceptGrain s s4 := by
    unfold s4
    refine State.keeps.step ?_ (updBp_keeps ..) (by decide +kernel)
    exact State.keeps.refl
  try clear_value s4
  extract_lets -merge -underBinder +onlyGivenNames s5
  have h5 : State.keeps writes_acceptGrain s s5 := by
    unfold s5
    refine State.keeps.ite (fun _ => ?_) (fun _ => ?_)
    · refine State.keeps.wr ?_ (by decide +kernel)
      exact h4
    · exact h4
  try clear_value s5
  extract_lets -merge -underBinder +onlyGivenNames s6
  have h6 : State.keeps writes_acceptGrain s s6 := by
    unfold s6
    refine State.keeps.ite (fun _ => ?_) (fun _ => ?_)
    · refine State.keeps.step ?_ (stepFrom_keeps ..) (by decide +kernel)
      exact h5
    · exact h5
  try clear_value s6
  refine State.keepsP.mk ?_
  refine State.keeps.step ?_ (tally_keeps ..) (by decide +kernel)
  exact h6

/-- What `slewTick` may write. -/
def writes_slewTick : Nat :=
  writes [.FLO_STATUS_SLEWING] [] ||| writes_setApplied ||| writes_reserveOr

theorem slewTick_keeps (s : State) (n : ℕ) :
    State.keeps writes_slewTick s (State.slewTick s n) := by
  unfold State.slewTick
  extract_lets -merge -underBinder +onlyGivenNames y1
  extract_lets -merge -underBinder +onlyGivenNames y2
  extract_lets -merge -underBinder +onlyGivenNames y3
  extract_lets -merge -underBinder +onlyGivenNames s4
  have h4 : State.keeps writes_slewTick s s4 := by
    unfold s4
    refine State.keeps.step ?_ (updBp_keeps ..) (by decide +kernel)
    exact State.keeps.refl
  try clear_value s4
  extract_lets -merge -underBinder +onlyGivenNames y5
  refine State.keeps.ite (fun _ => ?_) (fun _ => ?_)
  · exact h4
  · extract_lets -merge -underBinder +onlyGivenNames y6
    extract_lets -merge -underBinder +onlyGivenNames s7
    have h7 : State.keeps writes_slewTick s s7 := by
      unfold s7
      refine State.keeps.wr ?_ (by decide +kernel)
      refine State.keeps.step ?_ (setApplied_keeps ..) (by decide +kernel)
      exact h4
    try clear_value s7
    refine State.keeps.ite (fun _ => ?_) (fun _ => ?_)
    · refine State.keeps.step ?_ (reserveOr_keeps ..) (by decide +kernel)
      exact h7
    · exact h7

/-- What `slackTick` may write. -/
def writes_slackTick : Nat :=
  writes [.FLO_STATUS_SLACK_LOW] [.bps] ||| writes_sendFault

theorem slackTick_keeps (s : State) (n : ℕ) :
    State.keeps writes_slackTick s (State.slackTick s n) := by
  unfold State.slackTick
  extract_lets -merge -underBinder +onlyGivenNames y1
  extract_lets -merge -underBinder +onlyGivenNames s2
  have h2 : State.keeps writes_slackTick s s2 := by
    unfold s2
    refine State.keeps.wr ?_ (by decide +kernel)
    exact State.keeps.refl
  try clear_value s2
  refine State.keeps.ite (fun _ => ?_) (fun _ => ?_)
  · refine State.keeps.ite (fun _ => ?_) (fun _ => ?_)
    · exact h2
    · refine State.keeps.step ?_ (updBp_keeps ..) (by decide +kernel)
      refine State.keeps.step ?_ (sendFault_keeps ..) (by decide +kernel)
      exact h2
  · refine State.keeps.step ?_ (sendClear_keeps ..) (by decide +kernel)
    exact h2

/-- What `showFill` may write. -/
def writes_showFill : Nat :=
  writes [.FLO_FILL_GRAINS] []

theorem showFill_keeps (s : State) (n : ℕ) :
    State.keeps writes_showFill s (State.showFill s n) := by
  unfold State.showFill
  refine State.keeps.wr ?_ (by decide +kernel)
  exact State.keeps.refl

/-- What `delayTick` may write. -/
def writes_delayTick : Nat :=
  writes_showFill ||| writes_enterEstablishing ||| writes_slackTick ||| writes_slewTick

theorem delayTick_keeps (s : State) (n : ℕ) :
    State.keeps writes_delayTick s (State.delayTick s n) := by
  unfold State.delayTick
  refine State.keeps.ite (fun _ => ?_) (fun _ => ?_)
  · exact State.keeps.refl
  · refine State.keeps.ite (fun _ => ?_) (fun _ => ?_)
    · refine State.keeps.step ?_ (showFill_keeps ..) (by decide +kernel)
      refine State.keeps.step ?_ (refreshAge_keeps ..) (by decide +kernel)
      exact State.keeps.refl
    · extract_lets -merge -underBinder +onlyGivenNames s1
      have h1 : State.keeps writes_delayTick s s1 := by
        unfold s1
        refine State.keeps.step ?_ (refreshMin_keeps ..) (by decide +kernel)
        exact State.keeps.refl
      try clear_value s1
      extract_lets -merge -underBinder +onlyGivenNames s2
      have h2 : State.keeps writes_delayTick s s2 := by
        unfold s2
        refine State.keeps.ite (fun _ => ?_) (fun _ => ?_)
        · exact h1
        · split
          · exact h1
          · rename_i s3 e3
            have h3 : State.keeps writes_delayTick s s3 := by
              refine State.keepsO.get ?_ e3
              refine State.keepsO.step ?_ (holdTiles_keeps ..) (by decide +kernel)
              exact h1
            refine State.keeps.step ?_ (enterEstablishing_keeps ..) (by decide +kernel)
            refine State.keeps.step ?_ (leaveInvalid_keeps ..) (by decide +kernel)
            refine State.keeps.step ?_ (sendClear_keeps ..) (by decide +kernel)
            exact h3
      try clear_value s2
      extract_lets -merge -underBinder +onlyGivenNames s4
      have h4 : State.keeps writes_delayTick s s4 := by
        unfold s4
        refine State.keeps.step ?_ (slackTick_keeps ..) (by decide +kernel)
        refine State.keeps.step ?_ (slewTick_keeps ..) (by decide +kernel)
        exact h2
      try clear_value s4
      refine State.keeps.step ?_ (showFill_keeps ..) (by decide +kernel)
      refine State.keeps.wr ?_ (by decide +kernel)
      exact h4

/-- What `execFloTargetCommit` may write. -/
def writes_execFloTargetCommit : Nat :=
  writes_via ||| writes_writeTargetHi

theorem execFloTargetCommit_keeps (q : Sys2Proof.CoreIx) (hi : Sys2Proof.Word) (s : State) :
    State.answers writes_execFloTargetCommit s (execFloTargetCommit q hi s) := by
  unfold execFloTargetCommit
  refine State.answers.next ?_
  refine via_keeps (by decide +kernel) ?_ (fun s1 h1 => ?_)
  · exact State.keeps.refl
  · refine State.keeps.step ?_ (writeTargetHi_keeps ..) (by decide +kernel)
    exact h1

/-- What `execDelayStep` may write. -/
def writes_execDelayStep : Nat :=
  writes_delayStep

theorem execDelayStep_keeps (n : Sys2Proof.BpIx) (s : State) :
    State.answers writes_execDelayStep s (execDelayStep n s) := by
  unfold execDelayStep
  refine State.answers.next ?_
  refine State.keeps.ite (fun _ => ?_) (fun _ => ?_)
  · refine State.keeps.step ?_ (delayStep_keeps ..) (by decide +kernel)
    exact State.keeps.refl
  · exact State.keeps.refl

/-- What `execFwDlySlewWrite` may write. -/
def writes_execFwDlySlewWrite : Nat :=
  writes_writeDlySlew

theorem execFwDlySlewWrite_keeps (v : BitVec 16) (s : State) :
    State.answers writes_execFwDlySlewWrite s (execFwDlySlewWrite v s) := by
  unfold execFwDlySlewWrite
  refine State.answers.next ?_
  refine State.keeps.step ?_ (writeDlySlew_keeps ..) (by decide +kernel)
  exact State.keeps.refl

/-- What `execDelayEstablished` may write. -/
def writes_execDelayEstablished : Nat :=
  writes_refreshMin ||| writes_reserveOr ||| writes_setApplied ||| writes_enterLost

theorem execDelayEstablished_keeps (n : Sys2Proof.BpIx) (s : State) :
    State.answers writes_execDelayEstablished s (execDelayEstablished n s) := by
  unfold execDelayEstablished
  refine State.answers.next ?_
  refine State.keeps.ite (fun _ => ?_) (fun _ => ?_)
  · exact State.keeps.refl
  · extract_lets -merge -underBinder +onlyGivenNames s1
    have h1 : State.keeps writes_execDelayEstablished s s1 := by
      unfold s1
      refine State.keeps.step ?_ (updBp_keeps ..) (by decide +kernel)
      refine State.keeps.step ?_ (refreshMin_keeps ..) (by decide +kernel)
      exact State.keeps.refl
    try clear_value s1
    refine State.keeps.ite (fun _ => ?_) (fun _ => ?_)
    · refine State.keeps.step ?_ (reserveOr_keeps ..) (by decide +kernel)
      refine State.keeps.step ?_ (delayRecord_keeps ..) (by decide +kernel)
      refine State.keeps.step ?_ (enterHeld_keeps ..) (by decide +kernel)
      refine State.keeps.step ?_ (setApplied_keeps ..) (by decide +kernel)
      exact h1
    · refine State.keeps.ite (fun _ => ?_) (fun _ => ?_)
      · refine State.keeps.step ?_ (reserveOr_keeps ..) (by decide +kernel)
        refine State.keeps.step ?_ (enterOffset_keeps ..) (by decide +kernel)
        refine State.keeps.step ?_ (delayRecord_keeps ..) (by decide +kernel)
        refine State.keeps.step ?_ (setApplied_keeps ..) (by decide +kernel)
        exact h1
      · refine State.keeps.step ?_ (enterLost_keeps ..) (by decide +kernel)
        exact h1

/-- What `execDelayLost` may write. -/
def writes_execDelayLost : Nat :=
  writes_enterLost

theorem execDelayLost_keeps (n : Sys2Proof.BpIx) (s : State) :
    State.answers writes_execDelayLost s (execDelayLost n s) := by
  unfold execDelayLost
  refine State.answers.next ?_
  refine State.keeps.ite (fun _ => ?_) (fun _ => ?_)
  · refine State.keeps.step ?_ (enterLost_keeps ..) (by decide +kernel)
    exact State.keeps.refl
  · exact State.keeps.refl

/-- What `leaveLost` may write. -/
def writes_leaveLost : Nat :=
  writes_leaveInvalid ||| writes_sendClear

theorem leaveLost_keeps (s : State) (n : ℕ) :
    State.keeps writes_leaveLost s (State.leaveLost s n) := by
  unfold State.leaveLost
  refine State.keeps.step ?_ (leaveInvalid_keeps ..) (by decide +kernel)
  refine State.keeps.step ?_ (sendClear_keeps ..) (by decide +kernel)
  refine State.keeps.step ?_ (sendClear_keeps ..) (by decide +kernel)
  exact State.keeps.refl

/-- What `execLostMeasureDone` may write. -/
def writes_execLostMeasureDone : Nat :=
  writes_refreshMin ||| writes_reserveOr ||| writes_enterOffset ||| writes_setApplied

theorem execLostMeasureDone_keeps (n : Sys2Proof.BpIx) (s : State) :
    State.answers writes_execLostMeasureDone s (execLostMeasureDone n s) := by
  unfold execLostMeasureDone
  refine State.answers.next ?_
  refine State.keeps.ite (fun _ => ?_) (fun _ => ?_)
  · exact State.keeps.refl
  · extract_lets -merge -underBinder +onlyGivenNames s1
    have h1 : State.keeps writes_execLostMeasureDone s s1 := by
      unfold s1
      refine State.keeps.step ?_ (refreshMin_keeps ..) (by decide +kernel)
      exact State.keeps.refl
    try clear_value s1
    extract_lets -merge -underBinder +onlyGivenNames y2
    refine State.keeps.ite (fun _ => ?_) (fun _ => ?_)
    · extract_lets -merge -underBinder +onlyGivenNames s3
      have h3 : State.keeps writes_execLostMeasureDone s s3 := by
        unfold s3
        refine State.keeps.step ?_ (leaveLost_keeps ..) (by decide +kernel)
        exact h1
      try clear_value s3
      refine State.keeps.ite (fun _ => ?_) (fun _ => ?_)
      · refine State.keeps.step ?_ (updBp_keeps ..) (by decide +kernel)
        refine State.keeps.wr ?_ (by decide +kernel)
        exact h3
      · refine State.keeps.step ?_ (enterHeld_keeps ..) (by decide +kernel)
        exact h3
    · refine State.keeps.ite (fun _ => ?_) (fun _ => ?_)
      · refine State.keeps.step ?_ (reserveOr_keeps ..) (by decide +kernel)
        refine State.keeps.step ?_ (enterOffset_keeps ..) (by decide +kernel)
        refine State.keeps.step ?_ (leaveLost_keeps ..) (by decide +kernel)
        refine State.keeps.step ?_ (setApplied_keeps ..) (by decide +kernel)
        refine State.keeps.step ?_ (stepFrom_keeps ..) (by decide +kernel)
        exact h1
      · refine State.keeps.ite (fun _ => ?_) (fun _ => ?_)
        · refine State.keeps.step ?_ (reserveOr_keeps ..) (by decide +kernel)
          refine State.keeps.step ?_ (enterHeld_keeps ..) (by decide +kernel)
          refine State.keeps.step ?_ (leaveLost_keeps ..) (by decide +kernel)
          refine State.keeps.step ?_ (setApplied_keeps ..) (by decide +kernel)
          refine State.keeps.step ?_ (stepFrom_keeps ..) (by decide +kernel)
          exact h1
        · exact h1

/-- What `execDelayRestore` may write. -/
def writes_execDelayRestore : Nat :=
  writes_reserveOr ||| writes_delayRecord ||| writes_setApplied

theorem execDelayRestore_keeps (n : Sys2Proof.BpIx) (s : State) :
    State.answers writes_execDelayRestore s (execDelayRestore n s) := by
  unfold execDelayRestore
  refine State.answers.next ?_
  refine State.keeps.ite (fun _ => ?_) (fun _ => ?_)
  · refine State.keeps.step ?_ (reserveOr_keeps ..) (by decide +kernel)
    refine State.keeps.step ?_ (delayRecord_keeps ..) (by decide +kernel)
    refine State.keeps.step ?_ (enterHeld_keeps ..) (by decide +kernel)
    refine State.keeps.step ?_ (setApplied_keeps ..) (by decide +kernel)
    refine State.keeps.step ?_ (stepFrom_keeps ..) (by decide +kernel)
    exact State.keeps.refl
  · exact State.keeps.refl

end Sys2Proof.Machine
end

