-- ==== Sys2Proof/Laws/GuardKeeps.lean ====
section
/-!
SUPPORT. What each operation of Machine/Guard.lean may write.
-/

namespace Sys2Proof.Machine

set_option Elab.async false

/-- What `g2Show` may write. -/
def writes_g2Show : Nat :=
  writes [.EMG_BP_STATUS_FORBID, .EMG_BP_STATUS_G2_MUTED] []

theorem g2Show_keeps (s : State) (n : ℕ) :
    State.keeps writes_g2Show s (State.g2Show s n) := by
  unfold State.g2Show
  extract_lets -merge -underBinder +onlyGivenNames y1
  refine State.keeps.wr ?_ (by decide +kernel)
  refine State.keeps.wr ?_ (by decide +kernel)
  exact State.keeps.refl

/-- What `g2Mute` may write. -/
def writes_g2Mute : Nat :=
  writes_g2Show ||| writes_mute

theorem g2Mute_keeps (s : State) (n : ℕ) (cause : ℕ) :
    State.keeps writes_g2Mute s (State.g2Mute s n cause) := by
  unfold State.g2Mute
  refine State.keeps.step ?_ (g2Show_keeps ..) (by decide +kernel)
  refine State.keeps.step ?_ (mute_keeps ..) (by decide +kernel)
  exact State.keeps.refl

/-- What `g2Unmute` may write. -/
def writes_g2Unmute : Nat :=
  writes_g2Show ||| writes_unmute

theorem g2Unmute_keeps (s : State) (n : ℕ) (cause : ℕ) :
    State.keeps writes_g2Unmute s (State.g2Unmute s n cause) := by
  unfold State.g2Unmute
  refine State.keeps.step ?_ (g2Show_keeps ..) (by decide +kernel)
  refine State.keeps.step ?_ (unmute_keeps ..) (by decide +kernel)
  exact State.keeps.refl

/-- What `g2Trip` may write. -/
def writes_g2Trip : Nat :=
  writes [.EMG_BP_CEIL_G2_TRIPS] [] ||| writes_sendFault ||| writes_tally ||| writes_g2Mute

theorem g2Trip_keeps (s : State) (n : ℕ) (cause : ℕ) (bitF : Field) (code : ℕ) :
    State.keeps (writes [bitF] [] ||| writes_g2Trip) s (State.g2Trip s n cause bitF code) := by
  unfold State.g2Trip
  extract_lets -merge -underBinder +onlyGivenNames y1
  refine State.keeps.ite (fun _ => ?_) (fun _ => ?_)
  · exact State.keeps.refl
  · extract_lets -merge -underBinder +onlyGivenNames s2
    have h2 : State.keeps (writes [bitF] [] ||| writes_g2Trip) s s2 := by
      unfold s2
      refine State.keeps.ite (fun _ => ?_) (fun _ => ?_)
      · exact State.keeps.refl
      · refine State.keeps.wr ?_ (inSet_right (by decide +kernel))
        exact State.keeps.refl
    try clear_value s2
    refine State.keeps.step ?_ (sendFault_keeps ..)
      (by first | exact sub_right (by decide +kernel) | exact sub_left | exact sub_both (by decide +kernel))
    refine State.keeps.step ?_ (tally_keeps ..)
      (by first | exact sub_right (by decide +kernel) | exact sub_left | exact sub_both (by decide +kernel))
    refine State.keeps.step ?_ (g2Mute_keeps ..)
      (by first | exact sub_right (by decide +kernel) | exact sub_left | exact sub_both (by decide +kernel))
    refine State.keeps.wr ?_ (inSet_left (inSet_mem (by simp)))
    exact h2

/-- What `pilotMute` may write. -/
def writes_pilotMute : Nat :=
  writes [.FE_PILOT_STATUS_PSTATE] [.ports]

theorem pilotMute_keeps (s : State) (p : ℕ) (cause : ℕ) :
    State.keeps writes_pilotMute s (State.pilotMute s p cause) := by
  unfold State.pilotMute
  refine State.keeps.ite (fun _ => ?_) (fun _ => ?_)
  · exact State.keeps.refl
  · extract_lets -merge -underBinder +onlyGivenNames s1
    have h1 : State.keeps writes_pilotMute s s1 := by
      unfold s1
      refine State.keeps.step ?_ (updPort_keeps ..) (by decide +kernel)
      exact State.keeps.refl
    try clear_value s1
    refine State.keeps.ite (fun _ => ?_) (fun _ => ?_)
    · exact h1
    · refine State.keeps.wr ?_ (by decide +kernel)
      exact h1

/-- What `pilotUnmute` may write. -/
def writes_pilotUnmute : Nat :=
  writes [.FE_PILOT_STATUS_PSTATE] [.ports]

theorem pilotUnmute_keeps (s : State) (p : ℕ) (cause : ℕ) :
    State.keeps writes_pilotUnmute s (State.pilotUnmute s p cause) := by
  unfold State.pilotUnmute
  refine State.keeps.ite (fun _ => ?_) (fun _ => ?_)
  · exact State.keeps.refl
  · extract_lets -merge -underBinder +onlyGivenNames s1
    have h1 : State.keeps writes_pilotUnmute s s1 := by
      unfold s1
      refine State.keeps.step ?_ (updPort_keeps ..) (by decide +kernel)
      exact State.keeps.refl
    try clear_value s1
    extract_lets -merge -underBinder +onlyGivenNames y2
    refine State.keeps.ite (fun _ => ?_) (fun _ => ?_)
    · refine State.keeps.wr ?_ (by decide +kernel)
      exact h1
    · exact h1

/-- What `pilotTrip` may write. -/
def writes_pilotTrip : Nat :=
  writes [.EMG_STATUS_G2_PORT_TRIPS, .EMG_STATUS_PILOT] [] ||| writes_sendFault ||| writes_tally ||| writes_pilotMute

theorem pilotTrip_keeps (s : State) (p : ℕ) :
    State.keeps writes_pilotTrip s (State.pilotTrip s p) := by
  unfold State.pilotTrip
  refine State.keeps.ite (fun _ => ?_) (fun _ => ?_)
  · exact State.keeps.refl
  · refine State.keeps.step ?_ (sendFault_keeps ..) (by decide +kernel)
    refine State.keeps.step ?_ (tally_keeps ..) (by decide +kernel)
    refine State.keeps.step ?_ (pilotMute_keeps ..) (by decide +kernel)
    refine State.keeps.wr ?_ (by decide +kernel)
    refine State.keeps.wr ?_ (by decide +kernel)
    exact State.keeps.refl

/-- What `outTrip` may write. -/
def writes_outTrip : Nat :=
  writes [.EMG_BP_STATUS_PORT, .EMG_STATUS_G2_PORT_TRIPS, .EMG_STATUS_OUT, .EMG_STATUS_PORT_MUTED] [] |||
    writes_g2Mute ||| writes_sendFault ||| writes_tally ||| writes_pilotMute

theorem outTrip_keeps (s : State) (p : ℕ) :
    State.keeps writes_outTrip s (State.outTrip s p) := by
  unfold State.outTrip
  refine State.keeps.ite (fun _ => ?_) (fun _ => ?_)
  · exact State.keeps.refl
  · extract_lets -merge -underBinder +onlyGivenNames s1
    have h1 : State.keeps writes_outTrip s s1 := by
      unfold s1
      refine State.keeps.forEach ?_ (fun x2 s2 h2 => ?_)
      · refine State.keeps.step ?_ (updPort_keeps ..) (by decide +kernel)
        refine State.keeps.wr ?_ (by decide +kernel)
        refine State.keeps.wr ?_ (by decide +kernel)
        refine State.keeps.wr ?_ (by decide +kernel)
        exact State.keeps.refl
      · try beta_reduce
        refine State.keeps.wr ?_ (by decide +kernel)
        refine State.keeps.step ?_ (g2Mute_keeps ..) (by decide +kernel)
        exact h2
    try clear_value s1
    refine State.keeps.step ?_ (sendFault_keeps ..) (by decide +kernel)
    refine State.keeps.step ?_ (tally_keeps ..) (by decide +kernel)
    refine State.keeps.step ?_ (pilotMute_keeps ..) (by decide +kernel)
    exact h1

/-- What `outRelease` may write. -/
def writes_outRelease : Nat :=
  writes [.EMG_STATUS_PORT_MUTED] [] ||| writes_sendClear ||| writes_pilotUnmute ||| writes_g2Unmute

theorem outRelease_keeps (s : State) (p : ℕ) :
    State.keeps writes_outRelease s (State.outRelease s p) := by
  unfold State.outRelease
  refine State.keeps.step ?_ (sendClear_keeps ..) (by decide +kernel)
  refine State.keeps.step ?_ (pilotUnmute_keeps ..) (by decide +kernel)
  refine State.keeps.forEach ?_ (fun x1 s1 h1 => ?_)
  · refine State.keeps.step ?_ (updPort_keeps ..) (by decide +kernel)
    refine State.keeps.wr ?_ (by decide +kernel)
    exact State.keeps.refl
  · try beta_reduce
    refine State.keeps.step ?_ (g2Unmute_keeps ..) (by decide +kernel)
    exact h1

/-- What `forbidTick` may write. -/
def writes_forbidTick : Nat :=
  writes_sendFault ||| writes_g2Unmute

theorem forbidTick_keeps (s : State) (n : ℕ) :
    State.keeps writes_forbidTick s (State.forbidTick s n) := by
  unfold State.forbidTick
  extract_lets -merge -underBinder +onlyGivenNames y1
  extract_lets -merge -underBinder +onlyGivenNames y2
  extract_lets -merge -underBinder +onlyGivenNames y3
  extract_lets -merge -underBinder +onlyGivenNames s4
  have h4 : State.keeps writes_forbidTick s s4 := by
    unfold s4
    refine State.keeps.ite (fun _ => ?_) (fun _ => ?_)
    · refine State.keeps.ite (fun _ => ?_) (fun _ => ?_)
      · exact State.keeps.refl
      · refine State.keeps.step ?_ (sendFault_keeps ..) (by decide +kernel)
        refine State.keeps.step ?_ (g2Mute_keeps ..) (by decide +kernel)
        exact State.keeps.refl
    · refine State.keeps.ite (fun _ => ?_) (fun _ => ?_)
      · refine State.keeps.step ?_ (sendClear_keeps ..) (by decide +kernel)
        refine State.keeps.step ?_ (g2Unmute_keeps ..) (by decide +kernel)
        exact State.keeps.refl
      · exact State.keeps.refl
  try clear_value s4
  refine State.keeps.ite (fun _ => ?_) (fun _ => ?_)
  · refine State.keeps.ite (fun _ => ?_) (fun _ => ?_)
    · exact h4
    · extract_lets -merge -underBinder +onlyGivenNames s5
      have h5 : State.keeps writes_forbidTick s s5 := by
        unfold s5
        refine State.keeps.step ?_ (g2Mute_keeps ..) (by decide +kernel)
        exact h4
      try clear_value s5
      refine State.keeps.ite (fun _ => ?_) (fun _ => ?_)
      · exact h5
      · refine State.keeps.step ?_ (sendFault_keeps ..) (by decide +kernel)
        exact h5
  · refine State.keeps.ite (fun _ => ?_) (fun _ => ?_)
    · refine State.keeps.step ?_ (g2Unmute_keeps ..) (by decide +kernel)
      exact h4
    · exact h4

/-- What `portGuardTick` may write. -/
def writes_portGuardTick : Nat :=
  writes [.EMG_STATUS_TILE] [] ||| writes_sendFault ||| writes_pilotMute

theorem portGuardTick_keeps (s : State) (p : ℕ) :
    State.keeps writes_portGuardTick s (State.portGuardTick s p) := by
  unfold State.portGuardTick
  extract_lets -merge -underBinder +onlyGivenNames y1
  extract_lets -merge -underBinder +onlyGivenNames y2
  extract_lets -merge -underBinder +onlyGivenNames s3
  have h3 : State.keeps writes_portGuardTick s s3 := by
    unfold s3
    refine State.keeps.ite (fun _ => ?_) (fun _ => ?_)
    · refine State.keeps.ite (fun _ => ?_) (fun _ => ?_)
      · exact State.keeps.refl
      · refine State.keeps.step ?_ (sendFault_keeps ..) (by decide +kernel)
        refine State.keeps.step ?_ (pilotMute_keeps ..) (by decide +kernel)
        exact State.keeps.refl
    · refine State.keeps.ite (fun _ => ?_) (fun _ => ?_)
      · refine State.keeps.step ?_ (sendClear_keeps ..) (by decide +kernel)
        refine State.keeps.step ?_ (pilotUnmute_keeps ..) (by decide +kernel)
        exact State.keeps.refl
      · exact State.keeps.refl
  try clear_value s3
  extract_lets -merge -underBinder +onlyGivenNames s4
  have h4 : State.keeps writes_portGuardTick s s4 := by
    unfold s4
    refine State.keeps.step ?_ (pilotMute_keeps ..) (by decide +kernel)
    exact h3
  try clear_value s4
  extract_lets -merge -underBinder +onlyGivenNames s5
  have h5 : State.keeps writes_portGuardTick s s5 := by
    unfold s5
    refine State.keeps.ite (fun _ => ?_) (fun _ => ?_)
    · refine State.keeps.ite (fun _ => ?_) (fun _ => ?_)
      · exact h3
      · refine State.keeps.ite (fun _ => ?_) (fun _ => ?_)
        · exact h4
        · refine State.keeps.step ?_ (sendFault_keeps ..) (by decide +kernel)
          exact h4
    · refine State.keeps.step ?_ (pilotUnmute_keeps ..) (by decide +kernel)
      exact h3
  try clear_value s5
  extract_lets -merge -underBinder +onlyGivenNames y6
  extract_lets -merge -underBinder +onlyGivenNames y7
  extract_lets -merge -underBinder +onlyGivenNames s8
  have h8 : State.keeps writes_portGuardTick s s8 := by
    unfold s8
    refine State.keeps.wr ?_ (by decide +kernel)
    exact h5
  try clear_value s8
  refine State.keeps.ite (fun _ => ?_) (fun _ => ?_)
  · exact h8
  · refine State.keeps.step ?_ (sendClear_keeps ..) (by decide +kernel)
    exact h8

/-- What `guardFree` may write. -/
def writes_guardFree : Nat :=
  writes_sendClear ||| writes_g2Unmute

theorem guardFree_keeps (s : State) (n : ℕ) :
    State.keeps writes_guardFree s (State.guardFree s n) := by
  unfold State.guardFree
  extract_lets -merge -underBinder +onlyGivenNames s1
  have h1 : State.keeps writes_guardFree s s1 := by
    unfold s1
    refine State.keeps.ite (fun _ => ?_) (fun _ => ?_)
    · refine State.keeps.step ?_ (sendClear_keeps ..) (by decide +kernel)
      refine State.keeps.step ?_ (g2Unmute_keeps ..) (by decide +kernel)
      exact State.keeps.refl
    · exact State.keeps.refl
  try clear_value s1
  refine State.keeps.ite (fun _ => ?_) (fun _ => ?_)
  · refine State.keeps.step ?_ (g2Unmute_keeps ..) (by decide +kernel)
    exact h1
  · exact h1

/-- What `rangesAct` may write. -/
def writes_rangesAct : Nat :=
  writes_refreshCeilings

theorem rangesAct_keeps (s : State) :
    State.keeps writes_rangesAct s (State.rangesAct s) := by
  unfold State.rangesAct
  refine State.keeps.ite (fun _ => ?_) (fun _ => ?_)
  · exact State.keeps.refl
  · refine State.keeps.forEach ?_ (fun x1 s1 h1 => ?_)
    · refine (State.keeps.put_plain ?_ _ (by decide +kernel))
      exact State.keeps.refl
    · try beta_reduce
      refine State.keeps.step ?_ (refreshCeilings_keeps ..) (by decide +kernel)
      exact h1

/-- What `guardTick` may write. -/
def writes_guardTick : Nat :=
  writes_rangesAct ||| writes_portGuardTick ||| writes_forbidTick

theorem guardTick_keeps (s : State) :
    State.keeps writes_guardTick s (State.guardTick s) := by
  unfold State.guardTick
  extract_lets -merge -underBinder +onlyGivenNames s1
  have h1 : State.keeps writes_guardTick s s1 := by
    unfold s1
    refine State.keeps.step ?_ (rangesAct_keeps ..) (by decide +kernel)
    exact State.keeps.refl
  try clear_value s1
  refine State.keeps.forEach ?_ (fun x3 s3 h3 => ?_)
  · refine State.keeps.forEach ?_ (fun x2 s2 h2 => ?_)
    · exact h1
    · try beta_reduce
      refine State.keeps.ite (fun _ => ?_) (fun _ => ?_)
      · refine State.keeps.step ?_ (forbidTick_keeps ..) (by decide +kernel)
        exact h2
      · refine State.keeps.step ?_ (guardFree_keeps ..) (by decide +kernel)
        exact h2
  · try beta_reduce
    refine State.keeps.step ?_ (portGuardTick_keeps ..) (by decide +kernel)
    exact h3

/-- What `noteGuards` may write. -/
def writes_noteGuards : Nat :=
  writes [] [.ports]

theorem noteGuards_keeps (s : State) (p : ℕ) :
    State.keeps writes_noteGuards s (State.noteGuards s p) := by
  unfold State.noteGuards
  refine State.keeps.step ?_ (updPort_keeps ..) (by decide +kernel)
  exact State.keeps.refl

/-- What `outReview` may write. -/
def writes_outReview : Nat :=
  writes [.EMG_STATUS_FOREIGN_N] [] ||| writes_outRelease ||| writes_sendFault

theorem outReview_keeps (s : State) (p : ℕ) :
    State.keeps writes_outReview s (State.outReview s p) := by
  unfold State.outReview
  split
  · exact State.keeps.refl
  · refine State.keeps.ite (fun _ => ?_) (fun _ => ?_)
    · exact State.keeps.refl
    · extract_lets -merge -underBinder +onlyGivenNames y1
      refine State.keeps.ite (fun _ => ?_) (fun _ => ?_)
      · refine State.keeps.step ?_ (outRelease_keeps ..) (by decide +kernel)
        exact State.keeps.refl
      · extract_lets -merge -underBinder +onlyGivenNames y2
        extract_lets -merge -underBinder +onlyGivenNames y3
        refine State.keeps.ite (fun _ => ?_) (fun _ => ?_)
        · exact State.keeps.refl
        · extract_lets -merge -underBinder +onlyGivenNames y4
          extract_lets -merge -underBinder +onlyGivenNames y5
          extract_lets -merge -underBinder +onlyGivenNames s6
          have h6 : State.keeps writes_outReview s s6 := by
            unfold s6
            refine State.keeps.wr ?_ (by decide +kernel)
            refine State.keeps.step ?_ (updPort_keeps ..) (by decide +kernel)
            exact State.keeps.refl
          try clear_value s6
          refine State.keeps.step ?_ (outRelease_keeps ..) (by decide +kernel)
          refine State.keeps.step ?_ (sendFault_keeps ..) (by decide +kernel)
          exact h6

/-- What `execSpectrumDone` may write. -/
def writes_execSpectrumDone : Nat :=
  writes [] [.ports] ||| writes_tally

theorem execSpectrumDone_keeps (p : Sys2Proof.PortIx) (power : Sys2Proof.PowerSpectrum) (s : State) :
    State.answers writes_execSpectrumDone s (execSpectrumDone p power s) := by
  unfold execSpectrumDone
  refine State.answers.next ?_
  extract_lets -merge -underBinder +onlyGivenNames y1
  extract_lets -merge -underBinder +onlyGivenNames y2
  extract_lets -merge -underBinder +onlyGivenNames y3
  extract_lets -merge -underBinder +onlyGivenNames y4
  refine State.keeps.step ?_ (tally_keeps ..) (by decide +kernel)
  refine State.keeps.step ?_ (tally_keeps ..) (by decide +kernel)
  refine State.keeps.step ?_ (setPort_keeps ..) (by decide +kernel)
  exact State.keeps.refl

/-- What `decide'` may write. -/
def writes_decide' : Nat :=
  writes [.EMG_BP_STATUS_FINE] [] ||| writes_pilotTrip ||| writes_g2Trip ||| writes_outTrip

theorem decide'_keeps (s : State) (p : ℕ) (xs : List Spectrum) :
    State.keeps writes_decide' s (State.decide' s p xs) := by
  unfold State.decide'
  extract_lets -merge -underBinder +onlyGivenNames y1
  extract_lets -merge -underBinder +onlyGivenNames y2
  extract_lets -merge -underBinder +onlyGivenNames y3
  extract_lets -merge -underBinder +onlyGivenNames y4
  extract_lets -merge -underBinder +onlyGivenNames s5
  have h5 : State.keeps writes_decide' s s5 := by
    unfold s5
    refine State.keeps.forEach ?_ (fun x6 s6 h6 => ?_)
    · exact State.keeps.refl
    · try beta_reduce
      refine State.keeps.ite (fun _ => ?_) (fun _ => ?_)
      · refine State.keeps.step ?_ (pilotTrip_keeps ..) (by decide +kernel)
        exact h6
      · refine State.keeps.step ?_ (g2Trip_keeps ..) (by decide +kernel)
        exact h6
  try clear_value s5
  refine State.keeps.ite (fun _ => ?_) (fun _ => ?_)
  · refine State.keeps.step ?_ (outTrip_keeps ..) (by decide +kernel)
    exact h5
  · exact h5

/-- What `execG2Decision` may write. -/
def writes_execG2Decision : Nat :=
  writes [.EMG_BP_STATUS_H_E, .EMG_WORST_BIN_BIN, .EMG_WORST_EXCESS] [] ||| writes_decide' ||| writes_outReview

theorem execG2Decision_keeps (p : Sys2Proof.PortIx) (s : State) :
    State.answers writes_execG2Decision s (execG2Decision p s) := by
  unfold execG2Decision
  refine State.answers.next ?_
  split
  · exact State.keeps.refl
  · extract_lets -merge -underBinder +onlyGivenNames y1
    extract_lets -merge -underBinder +onlyGivenNames y2
    extract_lets -merge -underBinder +onlyGivenNames s3
    have h3 : State.keeps writes_execG2Decision s s3 := by
      unfold s3
      refine State.keeps.forEach ?_ (fun x4 s4 h4 => ?_)
      · exact State.keeps.refl
      · try beta_reduce
        extract_lets -merge -underBinder +onlyGivenNames y5
        refine State.keeps.step ?_ (updBp_keeps ..) (by decide +kernel)
        refine State.keeps.wr ?_ (by decide +kernel)
        exact h4
    try clear_value s3
    extract_lets -merge -underBinder +onlyGivenNames s6
    have h6 : State.keeps writes_execG2Decision s s6 := by
      unfold s6
      split
      · exact h3
      · refine State.keeps.wr ?_ (by decide +kernel)
        refine State.keeps.wr ?_ (by decide +kernel)
        exact h3
    try clear_value s6
    extract_lets -merge -underBinder +onlyGivenNames s7
    have h7 : State.keeps writes_execG2Decision s s7 := by
      unfold s7
      refine State.keeps.step ?_ (decide'_keeps ..) (by decide +kernel)
      refine State.keeps.step ?_ (tally_keeps ..) (by decide +kernel)
      exact h6
    try clear_value s7
    refine State.keeps.ite (fun _ => ?_) (fun _ => ?_)
    · refine State.keeps.step ?_ (outReview_keeps ..) (by decide +kernel)
      exact h7
    · exact h7

/-- What `ceilingReview` may write. -/
def writes_ceilingReview : Nat :=
  writes [.EMG_BP_STATUS_CEILING] [] ||| writes_g2Trip

theorem ceilingReview_keeps (s : State) (n : ℕ) :
    State.keeps writes_ceilingReview s (State.ceilingReview s n) := by
  unfold State.ceilingReview
  refine State.keeps.ite (fun _ => ?_) (fun _ => ?_)
  · exact State.keeps.refl
  · extract_lets -merge -underBinder +onlyGivenNames y1
    extract_lets -merge -underBinder +onlyGivenNames y2
    refine State.keeps.ite (fun _ => ?_) (fun _ => ?_)
    · refine State.keeps.step ?_ (g2Trip_keeps ..) (by decide +kernel)
      exact State.keeps.refl
    · exact State.keeps.refl

/-- What `execG2Ceiling` may write. -/
def writes_execG2Ceiling : Nat :=
  writes [.EMG_BP_STATUS_CEILING] [] ||| writes_g2Trip

theorem execG2Ceiling_keeps (n : Sys2Proof.BpIx) (power : ℕ) (s : State) :
    State.answers writes_execG2Ceiling s (execG2Ceiling n power s) := by
  unfold execG2Ceiling
  refine State.answers.next ?_
  refine State.keeps.ite (fun _ => ?_) (fun _ => ?_)
  · refine State.keeps.step ?_ (g2Trip_keeps ..) (by decide +kernel)
    exact State.keeps.refl
  · exact State.keeps.refl

/-- What `execG2Release` may write. -/
def writes_execG2Release : Nat :=
  writes_outReview

theorem execG2Release_keeps (m : Sys2Proof.G2Mute) (s : State) :
    State.answers writes_execG2Release s (execG2Release m s) := by
  unfold execG2Release
  refine State.answers.next ?_
  split
  · refine State.keeps.ite (fun _ => ?_) (fun _ => ?_)
    · refine State.keeps.step ?_ (sendClear_keeps ..) (by decide +kernel)
      refine State.keeps.step ?_ (g2Unmute_keeps ..) (by decide +kernel)
      exact State.keeps.refl
    · exact State.keeps.refl
  · refine State.keeps.ite (fun _ => ?_) (fun _ => ?_)
    · refine State.keeps.step ?_ (sendClear_keeps ..) (by decide +kernel)
      refine State.keeps.step ?_ (g2Unmute_keeps ..) (by decide +kernel)
      exact State.keeps.refl
    · exact State.keeps.refl
  · refine State.keeps.ite (fun _ => ?_) (fun _ => ?_)
    · refine State.keeps.step ?_ (sendClear_keeps ..) (by decide +kernel)
      refine State.keeps.step ?_ (pilotUnmute_keeps ..) (by decide +kernel)
      exact State.keeps.refl
    · exact State.keeps.refl
  · refine State.keeps.ite (fun _ => ?_) (fun _ => ?_)
    · refine State.keeps.step ?_ (outReview_keeps ..) (by decide +kernel)
      refine State.keeps.step ?_ (updPort_keeps ..) (by decide +kernel)
      exact State.keeps.refl
    · exact State.keeps.refl

/-- What `execForeignRegionEnd` may write. -/
def writes_execForeignRegionEnd : Nat :=
  writes [.EMG_STATUS_FOREIGN_N] [.ports] ||| writes_sendClear

theorem execForeignRegionEnd_keeps (p : Sys2Proof.PortIx) (r : Fin 16) (s : State) :
    State.answers writes_execForeignRegionEnd s (execForeignRegionEnd p r s) := by
  unfold execForeignRegionEnd
  refine State.answers.next ?_
  extract_lets -merge -underBinder +onlyGivenNames y1
  refine State.keeps.ite (fun _ => ?_) (fun _ => ?_)
  · exact State.keeps.refl
  · extract_lets -merge -underBinder +onlyGivenNames s2
    have h2 : State.keeps writes_execForeignRegionEnd s s2 := by
      unfold s2
      refine State.keeps.wr ?_ (by decide +kernel)
      refine State.keeps.step ?_ (updPort_keeps ..) (by decide +kernel)
      exact State.keeps.refl
    try clear_value s2
    refine State.keeps.ite (fun _ => ?_) (fun _ => ?_)
    · refine State.keeps.step ?_ (sendClear_keeps ..) (by decide +kernel)
      exact h2
    · exact h2

/-- What `showPlain` may write. -/
def writes_showPlain : Nat :=
  writes [.PLN_RD_DATA_EFF, .PLN_RD_DATA_ENTRY] []

theorem showPlain_keeps (s : State) :
    State.keeps writes_showPlain s (State.showPlain s) := by
  unfold State.showPlain
  extract_lets -merge -underBinder +onlyGivenNames y1
  extract_lets -merge -underBinder +onlyGivenNames y2
  refine State.keeps.wr ?_ (by decide +kernel)
  refine State.keeps.wr ?_ (by decide +kernel)
  exact State.keeps.refl

/-- What `commitRange` may write. -/
def writes_commitRange : Nat :=
  writes [.PLN_T_FIRST_EN, .PLN_T_FIRST_FIRST] [.plain] ||| writes_showPlain

theorem commitRange_keeps (s : State) (w : ℕ) :
    State.keeps writes_commitRange s (State.commitRange s w) := by
  unfold State.commitRange
  extract_lets -merge -underBinder +onlyGivenNames s1
  have h1 : State.keeps writes_commitRange s s1 := by
    unfold s1
    refine State.keeps.wr ?_ (by decide +kernel)
    refine State.keeps.wr ?_ (by decide +kernel)
    exact State.keeps.refl
  try clear_value s1
  extract_lets -merge -underBinder +onlyGivenNames y2
  refine State.keeps.step ?_ (showPlain_keeps ..) (by decide +kernel)
  refine (State.keeps.put_plain ?_ _ (by decide +kernel))
  exact h1

/-- What `execPlnTFirstWrite` may write. -/
def writes_execPlnTFirstWrite : Nat :=
  writes_commitRange

theorem execPlnTFirstWrite_keeps (w : Sys2Proof.Word) (s : State) :
    State.answers writes_execPlnTFirstWrite s (execPlnTFirstWrite w s) := by
  unfold execPlnTFirstWrite
  refine State.answers.next ?_
  refine State.keeps.step ?_ (commitRange_keeps ..) (by decide +kernel)
  exact State.keeps.refl

/-- What `writeBackoff` may write. -/
def writes_writeBackoff : Nat :=
  writes [.EMG_BP_CTRL_EMIT_BACKOFF, .EMG_BP_STATUS_BACKOFF_CLAMP] []

theorem writeBackoff_keeps (s : State) (n : ℕ) (v : ℕ) :
    State.keeps writes_writeBackoff s (State.writeBackoff s n v) := by
  unfold State.writeBackoff
  refine State.keeps.ite (fun _ => ?_) (fun _ => ?_)
  · refine State.keeps.wr ?_ (by decide +kernel)
    refine State.keeps.wr ?_ (by decide +kernel)
    exact State.keeps.refl
  · refine State.keeps.wr ?_ (by decide +kernel)
    exact State.keeps.refl

/-- What `execEmitBackoffWrite` may write. -/
def writes_execEmitBackoffWrite : Nat :=
  writes_via ||| writes_writeBackoff

theorem execEmitBackoffWrite_keeps (q : Sys2Proof.CoreIx) (v : BitVec 16) (s : State) :
    State.answers writes_execEmitBackoffWrite s (execEmitBackoffWrite q v s) := by
  unfold execEmitBackoffWrite
  refine State.answers.next ?_
  refine via_keeps (by decide +kernel) ?_ (fun s1 h1 => ?_)
  · exact State.keeps.refl
  · refine State.keeps.step ?_ (writeBackoff_keeps ..) (by decide +kernel)
    exact h1

/-- What `readPlain` may write. -/
def writes_readPlain : Nat :=
  writes [.PLN_RD_ADDR_BIN, .PLN_RD_ADDR_PORT] [] ||| writes_showPlain

theorem readPlain_keeps (s : State) (w : ℕ) :
    State.keeps writes_readPlain s (State.readPlain s w) := by
  unfold State.readPlain
  refine State.keeps.step ?_ (showPlain_keeps ..) (by decide +kernel)
  refine State.keeps.wr ?_ (by decide +kernel)
  refine State.keeps.wr ?_ (by decide +kernel)
  exact State.keeps.refl

/-- What `execPlnRdAddrWrite` may write. -/
def writes_execPlnRdAddrWrite : Nat :=
  writes_readPlain

theorem execPlnRdAddrWrite_keeps (w : Sys2Proof.Word) (s : State) :
    State.answers writes_execPlnRdAddrWrite s (execPlnRdAddrWrite w s) := by
  unfold execPlnRdAddrWrite
  refine State.answers.next ?_
  refine State.keeps.step ?_ (readPlain_keeps ..) (by decide +kernel)
  exact State.keeps.refl

/-- What `plainDamaged` may write. -/
def writes_plainDamaged : Nat :=
  writes [.PLN_STATUS_BAD_TILES, .PLN_STATUS_REBUILD] [.plain] ||| writes_showPlain

theorem plainDamaged_keeps (s : State) (place : ℕ) :
    State.keeps writes_plainDamaged s (State.plainDamaged s place) := by
  unfold State.plainDamaged
  refine State.keeps.ite (fun _ => ?_) (fun _ => ?_)
  · exact State.keeps.refl
  · refine State.keeps.step ?_ (showPlain_keeps ..) (by decide +kernel)
    refine State.keeps.wr ?_ (by decide +kernel)
    refine State.keeps.wr ?_ (by decide +kernel)
    refine (State.keeps.put_plain ?_ _ (by decide +kernel))
    exact State.keeps.refl

/-- What `plainRebuilt` may write. -/
def writes_plainRebuilt : Nat :=
  writes [.PLN_STATUS_REBUILD] [.plain] ||| writes_showPlain ||| writes_sendFault

theorem plainRebuilt_keeps (s : State) (place : ℕ) (ok : Bool) :
    State.keeps writes_plainRebuilt s (State.plainRebuilt s place ok) := by
  unfold State.plainRebuilt
  refine State.keeps.ite (fun _ => ?_) (fun _ => ?_)
  · exact State.keeps.refl
  · extract_lets -merge -underBinder +onlyGivenNames y1
    extract_lets -merge -underBinder +onlyGivenNames y2
    extract_lets -merge -underBinder +onlyGivenNames s3
    have h3 : State.keeps writes_plainRebuilt s s3 := by
      unfold s3
      refine (State.keeps.put_plain ?_ _ (by decide +kernel))
      exact State.keeps.refl
    try clear_value s3
    extract_lets -merge -underBinder +onlyGivenNames s4
    have h4 : State.keeps writes_plainRebuilt s s4 := by
      unfold s4
      refine State.keeps.step ?_ (showPlain_keeps ..) (by decide +kernel)
      refine State.keeps.wr ?_ (by decide +kernel)
      exact h3
    try clear_value s4
    refine State.keeps.ite (fun _ => ?_) (fun _ => ?_)
    · exact h4
    · refine State.keeps.forEach ?_ (fun x5 s5 h5 => ?_)
      · exact h4
      · try beta_reduce
        extract_lets -merge -underBinder +onlyGivenNames y6
        refine State.keeps.ite (fun _ => ?_) (fun _ => ?_)
        · refine State.keeps.step ?_ (sendFault_keeps ..) (by decide +kernel)
          exact h5
        · exact h5

end Sys2Proof.Machine
end

