-- ==== Sys2Proof/Laws/PilotKeeps.lean ====
section
/-!
SUPPORT. What each operation of Machine/Pilot.lean may write.
-/

namespace Sys2Proof.Machine

set_option Elab.async false

/-- What `writePilotMode` may write. -/
def writes_writePilotMode : Nat :=
  writes [.FE_PILOT_CTRL_MODE, .FE_PILOT_DLY_HI_DLY_HI, .FE_PILOT_DLY_LO_DLY_LO, .FE_PILOT_STATUS_PSTATE,
    .FE_STATUS_REJECT] [.ports]

theorem writePilotMode_keeps (s : State) (p : ℕ) (mode : ℕ) :
    State.keeps writes_writePilotMode s (State.writePilotMode s p mode) := by
  unfold State.writePilotMode
  extract_lets -merge -underBinder +onlyGivenNames y1
  extract_lets -merge -underBinder +onlyGivenNames y2
  refine State.keeps.ite (fun _ => ?_) (fun _ => ?_)
  · refine State.keeps.step ?_ (updPort_keeps ..) (by decide +kernel)
    refine State.keeps.wr ?_ (by decide +kernel)
    refine State.keeps.wr ?_ (by decide +kernel)
    exact State.keeps.refl
  · refine State.keeps.ite (fun _ => ?_) (fun _ => ?_)
    · refine State.keeps.wr ?_ (by decide +kernel)
      exact State.keeps.refl
    · extract_lets -merge -underBinder +onlyGivenNames y3
      extract_lets -merge -underBinder +onlyGivenNames y4
      extract_lets -merge -underBinder +onlyGivenNames y5
      extract_lets -merge -underBinder +onlyGivenNames s6
      have h6 : State.keeps writes_writePilotMode s s6 := by
        unfold s6
        refine State.keeps.wr ?_ (by decide +kernel)
        exact State.keeps.refl
      try clear_value s6
      refine State.keeps.ite (fun _ => ?_) (fun _ => ?_)
      · exact h6
      · extract_lets -merge -underBinder +onlyGivenNames s7
        have h7 : State.keeps writes_writePilotMode s s7 := by
          unfold s7
          refine State.keeps.step ?_ (updPort_keeps ..) (by decide +kernel)
          refine State.keeps.wr ?_ (by decide +kernel)
          exact h6
        try clear_value s7
        extract_lets -merge -underBinder +onlyGivenNames s8
        have h8 : State.keeps writes_writePilotMode s s8 := by
          unfold s8
          refine State.keeps.wr ?_ (by decide +kernel)
          exact h7
        try clear_value s8
        refine State.keeps.ite (fun _ => ?_) (fun _ => ?_)
        · refine State.keeps.step ?_ (wr2_keeps ..) (by decide +kernel)
          exact h8
        · exact h8

/-- What `execFePilotMode` may write. -/
def writes_execFePilotMode : Nat :=
  writes_writePilotMode

theorem execFePilotMode_keeps (p : Sys2Proof.PortIx) (mode : Fin 4) (s : State) :
    State.answers writes_execFePilotMode s (execFePilotMode p mode s) := by
  unfold execFePilotMode
  refine State.answers.next ?_
  refine State.keeps.step ?_ (writePilotMode_keeps ..) (by decide +kernel)
  exact State.keeps.refl

/-- What `execPilotLocked` may write. -/
def writes_execPilotLocked : Nat :=
  writes [.FE_PILOT_STATUS_PSTATE] []

theorem execPilotLocked_keeps (p : Sys2Proof.PortIx) (s : State) :
    State.answers writes_execPilotLocked s (execPilotLocked p s) := by
  unfold execPilotLocked
  refine State.answers.next ?_
  refine State.keeps.ite (fun _ => ?_) (fun _ => ?_)
  · refine State.keeps.wr ?_ (by decide +kernel)
    exact State.keeps.refl
  · exact State.keeps.refl

/-- What `execPilotLowLevel` may write. -/
def writes_execPilotLowLevel : Nat :=
  writes [.FE_PILOT_STATUS_LOW_LEVEL] []

theorem execPilotLowLevel_keeps (p : Sys2Proof.PortIx) (s : State) :
    State.answers writes_execPilotLowLevel s (execPilotLowLevel p s) := by
  unfold execPilotLowLevel
  refine State.answers.next ?_
  refine State.keeps.ite (fun _ => ?_) (fun _ => ?_)
  · refine State.keeps.wr ?_ (by decide +kernel)
    exact State.keeps.refl
  · exact State.keeps.refl

/-- What `execPilotMeasureDone` may write. -/
def writes_execPilotMeasureDone : Nat :=
  writes [.FE_PILOT_DLY_HI_DLY_HI, .FE_PILOT_DLY_LO_DLY_LO, .FE_PILOT_STATUS_AMBIG, .FE_PILOT_STATUS_COUNT,
    .FE_PILOT_STATUS_FRESH] [] ||| writes_tally

theorem execPilotMeasureDone_keeps (p : Sys2Proof.PortIx) (lag1 : BitVec 40) (lag2 : BitVec 40)
    (lag3 : BitVec 40) (s : State) :
    State.answers writes_execPilotMeasureDone s (execPilotMeasureDone p lag1 lag2 lag3 s) := by
  unfold execPilotMeasureDone
  refine State.answers.next ?_
  refine State.keeps.ite (fun _ => ?_) (fun _ => ?_)
  · exact State.keeps.refl
  · split
    · refine State.keeps.wr ?_ (by decide +kernel)
      exact State.keeps.refl
    · extract_lets -merge -underBinder +onlyGivenNames y1
      extract_lets -merge -underBinder +onlyGivenNames y2
      refine State.keeps.step ?_ (tally_keeps ..) (by decide +kernel)
      refine State.keeps.wr ?_ (by decide +kernel)
      refine State.keeps.wr ?_ (by decide +kernel)
      refine State.keeps.step ?_ (wr2_keeps ..) (by decide +kernel)
      exact State.keeps.refl

end Sys2Proof.Machine
end

