-- ==== Sys2Proof/Laws/LanesKeeps.lean ====
section
/-!
SUPPORT. What each operation of Machine/Lanes.lean may write.
-/

namespace Sys2Proof.Machine

set_option Elab.async false

/-- What `freeBlocks` may write. -/
def writes_freeBlocks : Nat :=
  writes [] [.lanes]

theorem freeBlocks_keeps (s : State) (l : ℕ) (c : ℕ) (k : ℕ) :
    State.keeps writes_freeBlocks s (State.freeBlocks s l c k) := by
  unfold State.freeBlocks
  refine State.keeps.ite (fun _ => ?_) (fun _ => ?_)
  · refine State.keeps.step ?_ (updLane_keeps ..) (by decide +kernel)
    exact State.keeps.refl
  · exact State.keeps.refl

/-- What `keepFrame` may write. -/
def writes_keepFrame : Nat :=
  writes [.GRG_KEEP_KEEP_DROP, .LANE_COUNT_KEPT] [.lanes] ||| writes_tileWritten

theorem keepFrame_keeps (s : State) (l : ℕ) (f : Sys2Proof.Frame) :
    State.keeps writes_keepFrame s (State.keepFrame s l f) := by
  unfold State.keepFrame
  refine State.keeps.ite (fun _ => ?_) (fun _ => ?_)
  · exact State.keeps.refl
  · extract_lets -merge -underBinder +onlyGivenNames y1
    extract_lets -merge -underBinder +onlyGivenNames y2
    extract_lets -merge -underBinder +onlyGivenNames s3
    have h3 : State.keeps writes_keepFrame s s3 := by
      unfold s3
      refine State.keeps.step ?_ (updLane_keeps ..) (by decide +kernel)
      exact State.keeps.refl
    try clear_value s3
    extract_lets -merge -underBinder +onlyGivenNames y4
    extract_lets -merge -underBinder +onlyGivenNames s5
    have h5 : State.keeps writes_keepFrame s s5 := by
      unfold s5
      refine State.keeps.wr ?_ (by decide +kernel)
      refine State.keeps.ite (fun _ => ?_) (fun _ => ?_)
      · refine State.keeps.step ?_ (tileWritten_keeps ..) (by decide +kernel)
        exact h3
      · exact h3
    try clear_value s5
    refine State.keeps.ite (fun _ => ?_) (fun _ => ?_)
    · refine State.keeps.wr ?_ (by decide +kernel)
      exact h5
    · exact h5

/-- What `sendNow` may write. -/
def writes_sendNow : Nat :=
  writes [.LANE_CREDIT1_BULK, .LANE_CREDIT1_MGMT, .LANE_CREDIT_BAND, .LANE_CREDIT_TIME] [] ||| writes_keepFrame

theorem sendNow_keeps (s : State) (l : ℕ) (q : QFrame) (rest : List QFrame) :
    State.keeps writes_sendNow s (State.sendNow s l q rest) := by
  unfold State.sendNow
  extract_lets -merge -underBinder +onlyGivenNames y1
  extract_lets -merge -underBinder +onlyGivenNames y2
  extract_lets -merge -underBinder +onlyGivenNames s3
  have h3 : State.keeps writes_sendNow s s3 := by
    unfold s3
    refine State.keeps.step ?_ (tally_keeps ..) (by decide +kernel)
    refine State.keeps.step ?_ (tally_keeps ..) (by decide +kernel)
    refine State.keeps.step ?_ (keepFrame_keeps ..) (by decide +kernel)
    refine State.keeps.wrTo ?_ ?_
    · unfold y2; unfold creditField; first | decide +kernel | (repeat' split) <;> decide +kernel
    refine State.keeps.step ?_ (updLane_keeps ..) (by decide +kernel)
    exact State.keeps.refl
  try clear_value s3
  extract_lets -merge -underBinder +onlyGivenNames s4
  have h4 : State.keeps writes_sendNow s s4 := by
    unfold s4
    refine State.keeps.ite (fun _ => ?_) (fun _ => ?_)
    · refine State.keeps.step ?_ (tally_keeps ..) (by decide +kernel)
      exact h3
    · exact h3
  try clear_value s4
  split
  · refine State.keeps.step ?_ (freeBlocks_keeps ..) (by decide +kernel)
    refine State.keeps.ite (fun _ => ?_) (fun _ => ?_)
    · refine State.keeps.step ?_ (tally_keeps ..) (by decide +kernel)
      exact h4
    · exact h4
  · exact h4

/-- What `pump` may write. -/
def writes_pump : Nat :=
  writes_sendNow

theorem pump_keeps (s : State) (l k : Nat) : State.keeps writes_pump s (State.pump s l k) := by
  induction k generalizing s with
  | zero => exact State.keeps.refl
  | succ k ih =>
    unfold State.pump
    split
    · exact State.keeps.refl
    · exact (State.keeps.refl.step (sendNow_keeps ..) (by decide +kernel)).trans (ih _)

/-- What `queueFrame` may write. -/
def writes_queueFrame : Nat :=
  writes [.COL_COUNT1_NO_ROUTE] [] ||| writes_pump

theorem queueFrame_keeps (s : State) (l : ℕ) (q : QFrame) :
    State.keeps writes_queueFrame s (State.queueFrame s l q) := by
  unfold State.queueFrame
  refine State.keeps.ite (fun _ => ?_) (fun _ => ?_)
  · extract_lets -merge -underBinder +onlyGivenNames s1
    have h1 : State.keeps writes_queueFrame s s1 := by
      unfold s1
      refine State.keeps.step ?_ (updLane_keeps ..) (by decide +kernel)
      exact State.keeps.refl
    try clear_value s1
    refine State.keeps.step ?_ (pump_keeps ..) (by decide +kernel)
    exact h1
  · extract_lets -merge -underBinder +onlyGivenNames s2
    have h2 : State.keeps writes_queueFrame s s2 := by
      unfold s2
      refine State.keeps.step ?_ (tally_keeps ..) (by decide +kernel)
      refine State.keeps.wr ?_ (by decide +kernel)
      exact State.keeps.refl
    try clear_value s2
    split
    · refine State.keeps.step ?_ (freeBlocks_keeps ..) (by decide +kernel)
      exact h2
    · exact h2

/-- What `sendFrame` may write. -/
def writes_sendFrame : Nat :=
  writes_queueFrame

theorem sendFrame_keeps (s : State) (l : ℕ) (f : Sys2Proof.Frame) :
    State.keeps writes_sendFrame s (State.sendFrame s l f) := by
  unfold State.sendFrame
  refine State.keeps.step ?_ (queueFrame_keeps ..) (by decide +kernel)
  exact State.keeps.refl

/-- What `routeQ` may write. -/
def writes_routeQ : Nat :=
  writes_queueFrame

theorem routeQ_keeps (s : State) (q : QFrame) :
    State.keeps writes_routeQ s (State.routeQ s q) := by
  unfold State.routeQ
  split
  · refine State.keeps.step ?_ (queueFrame_keeps ..) (by decide +kernel)
    exact State.keeps.refl
  · extract_lets -merge -underBinder +onlyGivenNames s1
    have h1 : State.keeps writes_routeQ s s1 := by
      unfold s1
      refine State.keeps.wr ?_ (by decide +kernel)
      exact State.keeps.refl
    try clear_value s1
    split
    · refine State.keeps.step ?_ (tally_keeps ..) (by decide +kernel)
      refine State.keeps.step ?_ (freeBlocks_keeps ..) (by decide +kernel)
      exact h1
    · exact h1

/-- What `sendRouted` may write. -/
def writes_sendRouted : Nat :=
  writes_routeQ

theorem sendRouted_keeps (s : State) (dest : ℕ) (ws : List Sys2Proof.Word64) :
    State.keeps writes_sendRouted s (State.sendRouted s dest ws) := by
  unfold State.sendRouted
  refine State.keeps.step ?_ (routeQ_keeps ..) (by decide +kernel)
  exact State.keeps.refl

/-- What `sendHop` may write. -/
def writes_sendHop : Nat :=
  writes_sendFrame

theorem sendHop_keeps (s : State) (d : ℕ) (ws : List Sys2Proof.Word64) :
    State.keeps writes_sendHop s (State.sendHop s d ws) := by
  unfold State.sendHop
  split
  · refine State.keeps.wr ?_ (by decide +kernel)
    exact State.keeps.refl
  · split
    · refine State.keeps.step ?_ (sendFrame_keeps ..) (by decide +kernel)
      exact State.keeps.refl
    · refine State.keeps.wr ?_ (by decide +kernel)
      exact State.keeps.refl

/-- What `sendBack` may write. -/
def writes_sendBack : Nat :=
  writes_sendFrame

theorem sendBack_keeps (s : State) (l : ℕ) (ws : List Sys2Proof.Word64) :
    State.keeps writes_sendBack s (State.sendBack s l ws) := by
  unfold State.sendBack
  refine State.keeps.ite (fun _ => ?_) (fun _ => ?_)
  · refine State.keeps.step ?_ (sendFrame_keeps ..) (by decide +kernel)
    exact State.keeps.refl
  · split
    · refine State.keeps.step ?_ (sendFrame_keeps ..) (by decide +kernel)
      exact State.keeps.refl
    · refine State.keeps.wr ?_ (by decide +kernel)
      exact State.keeps.refl

end Sys2Proof.Machine
end

