-- ==== Sys2Proof/Laws/StreamsKeeps.lean ====
section
/-!
SUPPORT. What each operation of Machine/Streams.lean may write.
-/

namespace Sys2Proof.Machine

set_option Elab.async false

/-- What `refreshLane` may write. -/
def writes_refreshLane : Nat :=
  writes [.LANE_COUNT_MEMBERS, .LANE_RESV_CEIL, .LANE_RESV_RESERVED, .LANE_STATUS_UNRES] []

theorem refreshLane_keeps (s : State) (l : ℕ) :
    State.keeps writes_refreshLane s (State.refreshLane s l) := by
  unfold State.refreshLane
  refine State.keeps.wr ?_ (by decide +kernel)
  refine State.keeps.wr ?_ (by decide +kernel)
  refine State.keeps.wr ?_ (by decide +kernel)
  refine State.keeps.wr ?_ (by decide +kernel)
  exact State.keeps.refl

/-- What `setEntry` may write. -/
def writes_setEntry : Nat :=
  writes [] [.col]

theorem setEntry_keeps (s : State) (e : Entry) :
    State.keeps writes_setEntry s (State.setEntry s e) := by
  unfold State.setEntry
  refine (State.keeps.put_col ?_ _ (by decide +kernel))
  exact State.keeps.refl

/-- What `putMember` may write. -/
def writes_putMember : Nat :=
  writes [] [.lanes] ||| writes_refreshLane

theorem putMember_keeps (s : State) (e : Entry) (i : ℕ) (l : ℕ) (unres : Bool) :
    State.keeps writes_putMember s (State.putMember s e i l unres) := by
  unfold State.putMember
  extract_lets -merge -underBinder +onlyGivenNames y1
  refine State.keeps.step ?_ (refreshLane_keeps ..) (by decide +kernel)
  refine State.keeps.step ?_ (updLane_keeps ..) (by decide +kernel)
  exact State.keeps.refl

/-- What `takeMembers` may write. -/
def writes_takeMembers : Nat :=
  writes [] [.lanes] ||| writes_refreshLane

theorem takeMembers_keeps (s : State) (e : Entry) :
    State.keeps writes_takeMembers s (State.takeMembers s e) := by
  unfold State.takeMembers
  refine State.keeps.forEach ?_ (fun x1 s1 h1 => ?_)
  · exact State.keeps.refl
  · try beta_reduce
    refine State.keeps.ite (fun _ => ?_) (fun _ => ?_)
    · refine State.keeps.step ?_ (refreshLane_keeps ..) (by decide +kernel)
      refine State.keeps.step ?_ (updLane_keeps ..) (by decide +kernel)
      exact h1
    · exact h1

/-- What `dropKept` may write. -/
def writes_dropKept : Nat :=
  writes [.LANE_COUNT_KEPT] [.lanes]

theorem dropKept_keeps (s : State) (e : Entry) (gone : Sys2Proof.Frame → Bool) :
    State.keeps writes_dropKept s (State.dropKept s e gone) := by
  unfold State.dropKept
  refine State.keeps.forEach ?_ (fun x1 s1 h1 => ?_)
  · exact State.keeps.refl
  · try beta_reduce
    refine State.keeps.ite (fun _ => ?_) (fun _ => ?_)
    · extract_lets -merge -underBinder +onlyGivenNames s2
      have h2 : State.keeps writes_dropKept s s2 := by
        unfold s2
        refine State.keeps.step ?_ (updLane_keeps ..) (by decide +kernel)
        exact h1
      try clear_value s2
      refine State.keeps.wr ?_ (by decide +kernel)
      exact h2
    · exact h1

/-- What `dropEntry` may write. -/
def writes_dropEntry : Nat :=
  writes [] [.col] ||| writes_dropKept ||| writes_takeMembers

theorem dropEntry_keeps (s : State) (e : Entry) :
    State.keeps writes_dropEntry s (State.dropEntry s e) := by
  unfold State.dropEntry
  extract_lets -merge -underBinder +onlyGivenNames s1
  have h1 : State.keeps writes_dropEntry s s1 := by
    unfold s1
    refine State.keeps.step ?_ (dropKept_keeps ..) (by decide +kernel)
    refine State.keeps.step ?_ (takeMembers_keeps ..) (by decide +kernel)
    exact State.keeps.refl
  try clear_value s1
  refine (State.keeps.put_col ?_ _ (by decide +kernel))
  exact h1

/-- What `installEntry` may write. -/
def writes_installEntry : Nat :=
  writes_putMember ||| writes_setEntry

theorem installEntry_keeps (s : State) (e : Entry) :
    State.keeps writes_installEntry s (State.installEntry s e) := by
  unfold State.installEntry
  refine State.keeps.forEach ?_ (fun x1 s1 h1 => ?_)
  · refine State.keeps.step ?_ (setEntry_keeps ..) (by decide +kernel)
    exact State.keeps.refl
  · try beta_reduce
    refine State.keeps.step ?_ (putMember_keeps ..) (by decide +kernel)
    exact h1

/-- What `computeRoutes` may write. -/
def writes_computeRoutes : Nat :=
  writes [] [.col]

theorem computeRoutes_keeps (s : State) :
    State.keeps writes_computeRoutes s (State.computeRoutes s) := by
  unfold State.computeRoutes
  extract_lets -merge -underBinder +onlyGivenNames y1
  extract_lets -merge -underBinder +onlyGivenNames y2
  extract_lets -merge -underBinder +onlyGivenNames y3
  extract_lets -merge -underBinder +onlyGivenNames y4
  extract_lets -merge -underBinder +onlyGivenNames y5
  extract_lets -merge -underBinder +onlyGivenNames y6
  refine (State.keeps.put_col ?_ _ (by decide +kernel))
  exact State.keeps.refl

/-- What `colStatus` may write. -/
def writes_colStatus : Nat :=
  writes [.COL_BP_STATUS_HOPS, .COL_BP_STATUS_K1, .COL_BP_STATUS_PEER, .COL_BP_STATUS_ROLE, .COL_BP_STATUS_ROUTED] []

theorem colStatus_keeps (s : State) (n : ℕ) (role : ℕ) (hops : ℕ) (k : ℕ) (peer : ℕ) (routed : Bool) :
    State.keeps writes_colStatus s (State.colStatus s n role hops k peer routed) := by
  unfold State.colStatus
  refine State.keeps.wr ?_ (by decide +kernel)
  refine State.keeps.wr ?_ (by decide +kernel)
  refine State.keeps.wr ?_ (by decide +kernel)
  refine State.keeps.wr ?_ (by decide +kernel)
  refine State.keeps.wr ?_ (by decide +kernel)
  exact State.keeps.refl

/-- What `startRoute` may write. -/
def writes_startRoute : Nat :=
  writes [.COL_BP_RATE_RATE] [.bps] ||| writes_installEntry ||| writes_sendHop

theorem startRoute_keeps (s : State) (n : ℕ) :
    State.keepsP writes_startRoute s (State.startRoute s n) := by
  unfold State.startRoute
  extract_lets -merge -underBinder +onlyGivenNames y1
  split
  · refine State.keepsP.mk ?_
    exact State.keeps.refl
  · extract_lets -merge -underBinder +onlyGivenNames y2
    extract_lets -merge -underBinder +onlyGivenNames y3
    extract_lets -merge -underBinder +onlyGivenNames y4
    split
    · refine State.keepsP.mk ?_
      exact State.keeps.refl
    · extract_lets -merge -underBinder +onlyGivenNames y5
      split
      · refine State.keepsP.mk ?_
        exact State.keeps.refl
      · split
        · refine State.keepsP.mk ?_
          exact State.keeps.refl
        · extract_lets -merge -underBinder +onlyGivenNames y6
          extract_lets -merge -underBinder +onlyGivenNames s7
          have h7 : State.keeps writes_startRoute s s7 := by
            unfold s7
            refine State.keeps.step ?_ (updBp_keeps ..) (by decide +kernel)
            refine State.keeps.step ?_ (installEntry_keeps ..) (by decide +kernel)
            exact State.keeps.refl
          try clear_value s7
          extract_lets -merge -underBinder +onlyGivenNames y8
          refine State.keepsP.mk ?_
          refine State.keeps.step ?_ (sendHop_keeps ..) (by decide +kernel)
          refine State.keeps.wr ?_ (by decide +kernel)
          exact h7

/-- What `releaseRoute` may write. -/
def writes_releaseRoute : Nat :=
  writes_sendBack ||| writes_dropEntry

theorem releaseRoute_keeps (s : State) (n : ℕ) (rid : Bool) (reason : ℕ) :
    State.keeps writes_releaseRoute s (State.releaseRoute s n rid reason) := by
  unfold State.releaseRoute
  split
  · exact State.keeps.refl
  · extract_lets -merge -underBinder +onlyGivenNames s1
    have h1 : State.keeps writes_releaseRoute s s1 := by
      unfold s1
      split
      · refine State.keeps.step ?_ (sendBack_keeps ..) (by decide +kernel)
        exact State.keeps.refl
      · exact State.keeps.refl
    try clear_value s1
    refine State.keeps.step ?_ (dropEntry_keeps ..) (by decide +kernel)
    exact h1

/-- What `releaseAll` may write. -/
def writes_releaseAll : Nat :=
  writes [.COL_BP_STATUS_ROUTED, .COL_BP_STATUS_UNRES] [.bps] ||| writes_releaseRoute

theorem releaseAll_keeps (s : State) (n : ℕ) (reason : ℕ) :
    State.keeps writes_releaseAll s (State.releaseAll s n reason) := by
  unfold State.releaseAll
  refine State.keeps.wr ?_ (by decide +kernel)
  refine State.keeps.wr ?_ (by decide +kernel)
  refine State.keeps.step ?_ (updBp_keeps ..) (by decide +kernel)
  refine State.keeps.step ?_ (releaseRoute_keeps ..) (by decide +kernel)
  refine State.keeps.step ?_ (releaseRoute_keeps ..) (by decide +kernel)
  exact State.keeps.refl

/-- What `routeLost` may write. -/
def writes_routeLost : Nat :=
  writes [.COL_BP_STATUS_REPAIRING] [] ||| writes_releaseAll

theorem routeLost_keeps (s : State) (n : ℕ) :
    State.keeps writes_routeLost s (State.routeLost s n) := by
  unfold State.routeLost
  refine State.keeps.wr ?_ (by decide +kernel)
  refine State.keeps.wr ?_ (by decide +kernel)
  refine State.keeps.step ?_ (updBp_keeps ..) (by decide +kernel)
  refine State.keeps.step ?_ (releaseAll_keeps ..) (by decide +kernel)
  exact State.keeps.refl

/-- What `newRoute` may write. -/
def writes_newRoute : Nat :=
  writes_startRoute ||| writes_routeLost

theorem newRoute_keeps (s : State) (n : ℕ) :
    State.keeps writes_newRoute s (State.newRoute s n) := by
  unfold State.newRoute
  extract_lets -merge -underBinder +onlyGivenNames s1
  have h1 : State.keeps writes_newRoute s s1 := by
    unfold s1
    refine State.keeps.wr ?_ (by decide +kernel)
    refine State.keeps.step ?_ (updBp_keeps ..) (by decide +kernel)
    exact State.keeps.refl
  try clear_value s1
  extract_lets -merge -underBinder +onlyGivenNames s2
  have h2 : State.keepsP writes_newRoute s s2 := by
    unfold s2
    refine State.keepsP.step ?_ (startRoute_keeps ..) (by decide +kernel)
    exact h1
  try clear_value s2
  refine State.keeps.ite (fun _ => ?_) (fun _ => ?_)
  · refine State.keepsP.fst ?_
    exact h2
  · refine State.keeps.step ?_ (routeLost_keeps ..) (by decide +kernel)
    exact h1

/-- What `pubReport` may write. -/
def writes_pubReport : Nat :=
  writes [.COL_BP_STATUS_UNRES] [.bps]

theorem pubReport_keeps (s : State) (n : ℕ) (short : Bool) (noalt : Bool) :
    State.keeps writes_pubReport s (State.pubReport s n short noalt) := by
  unfold State.pubReport
  refine State.keeps.ite (fun _ => ?_) (fun _ => ?_)
  · refine State.keeps.wr ?_ (by decide +kernel)
    refine State.keeps.step ?_ (updBp_keeps ..) (by decide +kernel)
    exact State.keeps.refl
  · exact State.keeps.refl

/-- What `reportRepair` may write. -/
def writes_reportRepair : Nat :=
  writes_pubReport ||| writes_sendRouted

theorem reportRepair_keeps (s : State) (e : Entry) (short : Bool) (noalt : Bool) :
    State.keeps writes_reportRepair s (State.reportRepair s e short noalt) := by
  unfold State.reportRepair
  refine State.keeps.ite (fun _ => ?_) (fun _ => ?_)
  · refine State.keeps.step ?_ (pubReport_keeps ..) (by decide +kernel)
    exact State.keeps.refl
  · refine State.keeps.step ?_ (sendRouted_keeps ..) (by decide +kernel)
    exact State.keeps.refl

/-- What `resendKept` may write. -/
def writes_resendKept : Nat :=
  writes [.GRG_KEEP_RESENT] [] ||| writes_sendFrame

theorem resendKept_keeps (s : State) (ls : List ℕ) (e : Entry) (idx : Option ℕ) :
    State.keeps writes_resendKept s (State.resendKept s ls e idx) := by
  unfold State.resendKept
  extract_lets -merge -underBinder +onlyGivenNames y1
  extract_lets -merge -underBinder +onlyGivenNames y2
  extract_lets -merge -underBinder +onlyGivenNames s3
  have h3 : State.keeps writes_resendKept s s3 := by
    unfold s3
    refine State.keeps.forEach ?_ (fun x4 s4 h4 => ?_)
    · exact State.keeps.refl
    · try beta_reduce
      extract_lets -merge -underBinder +onlyGivenNames s5
      have h5 : State.keeps writes_resendKept s s5 := by
        unfold s5
        refine State.keeps.step ?_ (updLane_keeps ..) (by decide +kernel)
        exact h4
      try clear_value s5
      refine State.keeps.wr ?_ (by decide +kernel)
      exact h5
  try clear_value s3
  refine State.keeps.forEach ?_ (fun x6 s6 h6 => ?_)
  · exact h3
  · try beta_reduce
    extract_lets -merge -underBinder +onlyGivenNames y7
    extract_lets -merge -underBinder +onlyGivenNames y8
    refine State.keeps.step ?_ (sendFrame_keeps ..) (by decide +kernel)
    refine State.keeps.step ?_ (tally_keeps ..) (by decide +kernel)
    refine State.keeps.wr ?_ (by decide +kernel)
    exact h6

/-- What `requeue` may write. -/
def writes_requeue : Nat :=
  writes_queueFrame

theorem requeue_keeps (s : State) (l : ℕ) (e : Entry) (idx : Option ℕ) :
    State.keeps writes_requeue s (State.requeue s l e idx) := by
  unfold State.requeue
  extract_lets -merge -underBinder +onlyGivenNames y1
  extract_lets -merge -underBinder +onlyGivenNames y2
  refine State.keeps.forEach ?_ (fun x3 s3 h3 => ?_)
  · refine State.keeps.step ?_ (updLane_keeps ..) (by decide +kernel)
    exact State.keeps.refl
  · try beta_reduce
    extract_lets -merge -underBinder +onlyGivenNames y4
    extract_lets -merge -underBinder +onlyGivenNames y5
    refine State.keeps.step ?_ (queueFrame_keeps ..) (by decide +kernel)
    exact h3

/-- What `moveInCage` may write. -/
def writes_moveInCage : Nat :=
  writes_putMember ||| writes_setEntry ||| writes_resendKept

theorem moveInCage_keeps (s : State) (l : Nat) (ms : List Member) :
    State.keepsP writes_moveInCage s (State.moveInCage s l ms) := by
  induction ms generalizing s with
  | nil => exact State.keepsP.mk State.keeps.refl
  | cons m rest ih =>
    unfold State.moveInCage
    split
    · refine State.keepsP.step ?_ (ih _) (Nat.or_self _)
      refine State.keeps.step ?_ (requeue_keeps ..) (by decide +kernel)
      refine State.keeps.step ?_ (resendKept_keeps ..) (by decide +kernel)
      refine State.keeps.step ?_ (putMember_keeps ..) (by decide +kernel)
      refine State.keeps.step ?_ (setEntry_keeps ..) (by decide +kernel)
      exact State.keeps.refl.step (updLane_keeps ..) (by decide +kernel)
    · exact State.keepsP.mk (ih s)

/-- What `repairStream` may write. -/
def writes_repairStream : Nat :=
  writes [.COL_COUNT0_REPAIRS, .COL_COUNT0_REPAIR_FAIL] [] ||| writes_takeMembers ||| writes_reportRepair |||
    writes_setEntry ||| writes_resendKept

theorem repairStream_keeps (s : State) (l : ℕ) (e : Entry) :
    State.keeps writes_repairStream s (State.repairStream s l e) := by
  unfold State.repairStream
  extract_lets -merge -underBinder +onlyGivenNames y1
  try clear_value y1
  split
  · extract_lets -merge -underBinder +onlyGivenNames s2
    have h2 : State.keeps writes_repairStream s s2 := by
      unfold s2
      refine State.keeps.step ?_ (dropKept_keeps ..) (by decide +kernel)
      refine State.keeps.step ?_ (takeMembers_keeps ..) (by decide +kernel)
      exact State.keeps.refl
    try clear_value s2
    extract_lets -merge -underBinder +onlyGivenNames s3
    have h3 : State.keeps writes_repairStream s s3 := by
      unfold s3
      refine State.keeps.step ?_ (updLane_keeps ..) (by decide +kernel)
      exact h2
    try clear_value s3
    refine State.keeps.wr ?_ (by decide +kernel)
    refine State.keeps.step ?_ (reportRepair_keeps ..) (by decide +kernel)
    refine State.keeps.step ?_ (setEntry_keeps ..) (by decide +kernel)
    exact h3
  · extract_lets -merge -underBinder +onlyGivenNames y4
    extract_lets -merge -underBinder +onlyGivenNames y5
    extract_lets -merge -underBinder +onlyGivenNames y6
    extract_lets -merge -underBinder +onlyGivenNames y7
    extract_lets -merge -underBinder +onlyGivenNames s8
    have h8 : State.keeps writes_repairStream s s8 := by
      unfold s8
      refine State.keeps.foldl ?_ (fun s9 x9 h9 => ?_)
      · refine State.keeps.step ?_ (setEntry_keeps ..) (by decide +kernel)
        refine State.keeps.step ?_ (takeMembers_keeps ..) (by decide +kernel)
        exact State.keeps.refl
      · try beta_reduce
        refine State.keeps.step ?_ (putMember_keeps ..) (by decide +kernel)
        exact h9
    try clear_value s8
    extract_lets -merge -underBinder +onlyGivenNames y10
    extract_lets -merge -underBinder +onlyGivenNames s11
    have h11 : State.keeps writes_repairStream s s11 := by
      unfold s11
      refine State.keeps.step ?_ (resendKept_keeps ..) (by decide +kernel)
      exact h8
    try clear_value s11
    extract_lets -merge -underBinder +onlyGivenNames s12
    have h12 : State.keeps writes_repairStream s s12 := by
      unfold s12
      refine State.keeps.step ?_ (requeue_keeps ..) (by decide +kernel)
      exact h11
    try clear_value s12
    refine State.keeps.wr ?_ (by decide +kernel)
    refine State.keeps.step ?_ (sendBack_keeps ..) (by decide +kernel)
    exact h12

/-- What `repairLane` may write. -/
def writes_repairLane : Nat :=
  writes_repairStream

theorem repairLane_keeps (s : State) (l : ℕ) :
    State.keeps writes_repairLane s (State.repairLane s l) := by
  unfold State.repairLane
  extract_lets -merge -underBinder +onlyGivenNames y1
  extract_lets -merge -underBinder +onlyGivenNames s2
  have h2 : State.keepsP writes_repairLane s s2 := by
    unfold s2
    refine State.keepsP.step ?_ (moveInCage_keeps ..) (by decide +kernel)
    exact State.keeps.refl
  try clear_value s2
  extract_lets -merge -underBinder +onlyGivenNames y3
  extract_lets -merge -underBinder +onlyGivenNames s4
  have h4 : State.keeps writes_repairLane s s4 := by
    unfold s4
    refine State.keeps.forEach ?_ (fun x5 s5 h5 => ?_)
    · refine State.keepsP.fst ?_
      exact h2
    · try beta_reduce
      refine State.keeps.step ?_ (repairStream_keeps ..) (by decide +kernel)
      exact h5
  try clear_value s4
  extract_lets -merge -underBinder +onlyGivenNames y6
  refine State.keeps.step ?_ (refreshLane_keeps ..) (by decide +kernel)
  refine State.keeps.forEach ?_ (fun x7 s7 h7 => ?_)
  · refine State.keeps.step ?_ (updLane_keeps ..) (by decide +kernel)
    exact h4
  · try beta_reduce
    split
    · refine State.keeps.step ?_ (freeBlocks_keeps ..) (by decide +kernel)
      exact h7
    · exact h7

/-- What `laneDown` may write. -/
def writes_laneDown : Nat :=
  writes [.LANE_CREDIT1_BULK, .LANE_CREDIT1_MGMT, .LANE_CREDIT_BAND, .LANE_CREDIT_TIME, .LANE_STATUS_BLOCK_LOCK,
    .LANE_STATUS_STATE, .PLB_LSTAT_LROLE, .PLB_LSTAT_PEER_OK, .PLB_LSTAT_PEER_STEPS] [.cages, .lanes]

theorem laneDown_keeps (s : State) (l : ℕ) (st : ℕ) :
    State.keeps writes_laneDown s (State.laneDown s l st) := by
  unfold State.laneDown
  extract_lets -merge -underBinder +onlyGivenNames s1
  have h1 : State.keeps writes_laneDown s s1 := by
    unfold s1
    refine State.keeps.foldl ?_ (fun s2 x2 h2 => ?_)
    · refine State.keeps.wr ?_ (by decide +kernel)
      refine State.keeps.wr ?_ (by decide +kernel)
      exact State.keeps.refl
    · try beta_reduce
      refine State.keeps.wrTo ?_ ?_
      · unfold creditField; first | decide +kernel | (repeat' split) <;> decide +kernel
      exact h2
  try clear_value s1
  extract_lets -merge -underBinder +onlyGivenNames s3
  have h3 : State.keeps writes_laneDown s s3 := by
    unfold s3
    refine State.keeps.step ?_ (updLane_keeps ..) (by decide +kernel)
    exact h1
  try clear_value s3
  extract_lets -merge -underBinder +onlyGivenNames s4
  have h4 : State.keeps writes_laneDown s s4 := by
    unfold s4
    refine State.keeps.wr ?_ (by decide +kernel)
    refine State.keeps.wr ?_ (by decide +kernel)
    refine State.keeps.wr ?_ (by decide +kernel)
    exact h3
  try clear_value s4
  refine State.keeps.ite (fun _ => ?_) (fun _ => ?_)
  · refine State.keeps.step ?_ (setCage_keeps ..) (by decide +kernel)
    exact h4
  · exact h4

/-- What `laneOut` may write. -/
def writes_laneOut : Nat :=
  writes_laneDown ||| writes_repairLane

theorem laneOut_keeps (s : State) (l : ℕ) (st : ℕ) :
    State.keeps writes_laneOut s (State.laneOut s l st) := by
  unfold State.laneOut
  extract_lets -merge -underBinder +onlyGivenNames y1
  extract_lets -merge -underBinder +onlyGivenNames s2
  have h2 : State.keeps writes_laneOut s s2 := by
    unfold s2
    refine State.keeps.step ?_ (laneDown_keeps ..) (by decide +kernel)
    exact State.keeps.refl
  try clear_value s2
  refine State.keeps.ite (fun _ => ?_) (fun _ => ?_)
  · refine State.keeps.step ?_ (repairLane_keeps ..) (by decide +kernel)
    exact h2
  · exact h2

/-- What `failLane` may write. -/
def writes_failLane : Nat :=
  writes [.LANE_COUNT_FAILS, .LANE_ERR_BLOCK_ERR, .LANE_STATUS_CRC_BURST, .LANE_STATUS_LOS,
    .LANE_STATUS_PROTO] [] ||| writes_sendFault ||| writes_laneOut

theorem failLane_keeps (s : State) (l : ℕ) (c : Sys2Proof.LaneCause) :
    State.keeps writes_failLane s (State.failLane s l c) := by
  unfold State.failLane
  refine State.keeps.ite (fun _ => ?_) (fun _ => ?_)
  · exact State.keeps.refl
  · extract_lets -merge -underBinder +onlyGivenNames s1
    have h1 : State.keeps writes_failLane s s1 := by
      unfold s1
      refine State.keeps.step ?_ (sendFault_keeps ..) (by decide +kernel)
      refine State.keeps.wr ?_ (by decide +kernel)
      exact State.keeps.refl
    try clear_value s1
    extract_lets -merge -underBinder +onlyGivenNames s2
    have h2 : State.keeps writes_failLane s s2 := by
      unfold s2
      refine State.keeps.ite (fun _ => ?_) (fun _ => ?_)
      · refine State.keeps.wr ?_ (by decide +kernel)
        exact h1
      · refine State.keeps.ite (fun _ => ?_) (fun _ => ?_)
        · refine State.keeps.wr ?_ (by decide +kernel)
          exact h1
        · refine State.keeps.ite (fun _ => ?_) (fun _ => ?_)
          · refine State.keeps.wr ?_ (by decide +kernel)
            exact h1
          · refine State.keeps.ite (fun _ => ?_) (fun _ => ?_)
            · refine State.keeps.wr ?_ (by decide +kernel)
              exact h1
            · exact h1
    try clear_value s2
    refine State.keeps.step ?_ (laneOut_keeps ..) (by decide +kernel)
    exact h2

/-- What `laneFence` may write. -/
def writes_laneFence : Nat :=
  writes_laneOut

theorem laneFence_keeps (s : State) (l : ℕ) :
    State.keeps writes_laneFence s (State.laneFence s l) := by
  unfold State.laneFence
  refine State.keeps.ite (fun _ => ?_) (fun _ => ?_)
  · exact State.keeps.refl
  · refine State.keeps.step ?_ (laneOut_keeps ..) (by decide +kernel)
    exact State.keeps.refl

/-- What `laneRelease` may write. -/
def writes_laneRelease : Nat :=
  writes [.LANE_STATUS_STATE] []

theorem laneRelease_keeps (s : State) (l : ℕ) :
    State.keeps writes_laneRelease s (State.laneRelease s l) := by
  unfold State.laneRelease
  refine State.keeps.ite (fun _ => ?_) (fun _ => ?_)
  · refine State.keeps.wr ?_ (by decide +kernel)
    exact State.keeps.refl
  · refine State.keeps.wr ?_ (by decide +kernel)
    exact State.keeps.refl

/-- What `discard` may write. -/
def writes_discard : Nat :=
  writes_tally

theorem discard_keeps (s : State) (l : ℕ) (f : Sys2Proof.Frame) :
    State.keeps writes_discard s (State.discard s l f) := by
  unfold State.discard
  refine State.keeps.step ?_ (tally_keeps ..) (by decide +kernel)
  exact State.keeps.refl

/-- What `frameError` may write. -/
def writes_frameError : Nat :=
  writes [.LANE_ERR_FRAME_ERR, .PLB_LCOUNT_EXCH_BAD] [] ||| writes_failLane

theorem frameError_keeps (s : State) (l : ℕ) (c : ℕ) (len : ℕ) :
    State.keeps writes_frameError s (State.frameError s l c len) := by
  unfold State.frameError
  extract_lets -merge -underBinder +onlyGivenNames y1
  extract_lets -merge -underBinder +onlyGivenNames y2
  extract_lets -merge -underBinder +onlyGivenNames s3
  have h3 : State.keeps writes_frameError s s3 := by
    unfold s3
    refine State.keeps.step ?_ (tally_keeps ..) (by decide +kernel)
    refine State.keeps.step ?_ (updLane_keeps ..) (by decide +kernel)
    refine State.keeps.wr ?_ (by decide +kernel)
    exact State.keeps.refl
  try clear_value s3
  extract_lets -merge -underBinder +onlyGivenNames s4
  have h4 : State.keeps writes_frameError s s4 := by
    unfold s4
    refine State.keeps.ite (fun _ => ?_) (fun _ => ?_)
    · refine State.keeps.step ?_ (updLane_keeps ..) (by decide +kernel)
      refine State.keeps.wr ?_ (by decide +kernel)
      exact h3
    · exact h3
  try clear_value s4
  refine State.keeps.ite (fun _ => ?_) (fun _ => ?_)
  · exact h4
  · extract_lets -merge -underBinder +onlyGivenNames s5
    have h5 : State.keeps writes_frameError s s5 := by
      unfold s5
      refine State.keeps.step ?_ (updLane_keeps ..) (by decide +kernel)
      exact h4
    try clear_value s5
    refine State.keeps.ite (fun _ => ?_) (fun _ => ?_)
    · refine State.keeps.step ?_ (failLane_keeps ..) (by decide +kernel)
      exact h5
    · exact h5

/-- What `receive` may write. -/
def writes_receive : Nat :=
  writes_frameError

theorem receive_keeps {ws : Nat} {sb : State} {s : State} {l : ℕ} {f : Sys2Proof.Frame} {keep : Bool} {act
    : State → State}
    (hm : writes_receive ||| ws = ws) (hs : State.keeps ws sb s)
    (h_act : ∀ t, State.keeps ws sb t → State.keeps ws sb (act t)) :
    State.keeps ws sb (State.receive s l f keep act) := by
  unfold State.receive
  refine State.keeps.ite (fun _ => ?_) (fun _ => ?_)
  · exact hs
  · refine State.keeps.ite (fun _ => ?_) (fun _ => ?_)
    · refine State.keeps.step ?_ (frameError_keeps ..) (sub_of hm (by decide +kernel))
      exact hs
    · refine State.keeps.ite (fun _ => ?_) (fun _ => ?_)
      · refine State.keeps.step ?_ (failLane_keeps ..) (sub_of hm (by decide +kernel))
        exact hs
      · extract_lets -merge -underBinder +onlyGivenNames s1
        have h1 : State.keeps ws sb s1 := by
          unfold s1
          refine State.keeps.step ?_ (tally_keeps ..) (sub_of hm (by decide +kernel))
          refine State.keeps.step ?_ (updLane_keeps ..) (sub_of hm (by decide +kernel))
          exact hs
        try clear_value s1
        refine State.keeps.ite (fun _ => ?_) (fun _ => ?_)
        · refine h_act _ ?_
          exact h1
        · refine State.keeps.step ?_ (freeBlocks_keeps ..) (sub_of hm (by decide +kernel))
          refine h_act _ ?_
          exact h1

end Sys2Proof.Machine
end

