-- ==== Sys2Proof/Laws/PlumbKeeps.lean ====
section
/-!
SUPPORT. What each operation of Machine/Plumb.lean may write.
-/

namespace Sys2Proof.Machine

set_option Elab.async false

/-- What `planStep` may write. -/
def writes_planStep : Nat :=
  writes [] [.plumb]

theorem planStep_keeps (s : State) (d : ℤ) (epoch : Bool) :
    State.keeps writes_planStep s (State.planStep s d epoch) := by
  unfold State.planStep
  refine (State.keeps.put_plumb ?_ _ (by decide +kernel))
  exact State.keeps.refl

/-- What `bandStepped` may write. -/
def writes_bandStepped : Nat :=
  writes_refreshNco

theorem bandStepped_keeps (s : State) (n : ℕ) (d : ℤ) :
    State.keeps writes_bandStepped s (State.bandStepped s n d) := by
  unfold State.bandStepped
  refine State.keeps.ite (fun _ => ?_) (fun _ => ?_)
  · exact State.keeps.refl
  · refine State.keeps.step ?_ (refreshNco_keeps ..) (by decide +kernel)
    refine State.keeps.step ?_ (updBp_keeps ..) (by decide +kernel)
    exact State.keeps.refl

/-- What `applyStep` may write. -/
def writes_applyStep : Nat :=
  writes [.PLB_COUNT_EPOCH, .PLB_COUNT_STEPS] [.lanes, .plumb] ||| writes_bandStepped ||| writes_tally |||
    writes_raise ||| writes_record

theorem applyStep_keeps (s : State) :
    State.keeps writes_applyStep s (State.applyStep s) := by
  unfold State.applyStep
  refine State.keeps.ite (fun _ => ?_) (fun _ => ?_)
  · exact State.keeps.refl
  · extract_lets -merge -underBinder +onlyGivenNames y1
    extract_lets -merge -underBinder +onlyGivenNames y2
    extract_lets -merge -underBinder +onlyGivenNames y3
    extract_lets -merge -underBinder +onlyGivenNames y4
    extract_lets -merge -underBinder +onlyGivenNames y5
    extract_lets -merge -underBinder +onlyGivenNames s6
    have h6 : State.keeps writes_applyStep s s6 := by
      unfold s6
      refine State.keeps.wr ?_ (by decide +kernel)
      refine (State.keeps.put_plumb ?_ _ (by decide +kernel))
      exact State.keeps.refl
    try clear_value s6
    extract_lets -merge -underBinder +onlyGivenNames s7
    have h7 : State.keeps writes_applyStep s s7 := by
      unfold s7
      refine State.keeps.ite (fun _ => ?_) (fun _ => ?_)
      · refine State.keeps.wr ?_ (by decide +kernel)
        exact h6
      · exact h6
    try clear_value s7
    extract_lets -merge -underBinder +onlyGivenNames s8
    have h8 : State.keeps writes_applyStep s s8 := by
      unfold s8
      refine State.keeps.forEach ?_ (fun x10 s10 h10 => ?_)
      · refine State.keeps.forEach ?_ (fun x9 s9 h9 => ?_)
        · exact h7
        · try beta_reduce
          refine State.keeps.ite (fun _ => ?_) (fun _ => ?_)
          · exact h9
          · refine State.keeps.step ?_ (updLane_keeps ..) (by decide +kernel)
            exact h9
      · try beta_reduce
        refine State.keeps.step ?_ (bandStepped_keeps ..) (by decide +kernel)
        exact h10
    try clear_value s8
    refine State.keeps.step ?_ (tally_keeps ..) (by decide +kernel)
    refine State.keeps.step ?_ (raise_keeps ..) (by decide +kernel)
    refine State.keeps.step ?_ (plumbStepped_keeps ..) (by decide +kernel)
    refine State.keeps.step ?_ (record_keeps ..) (by decide +kernel)
    exact h8

/-- What `sendTimeEx` may write. -/
def writes_sendTimeEx : Nat :=
  writes_sendFrame

theorem sendTimeEx_keeps (s : State) (l : ℕ) (tx : ℕ) :
    State.keeps writes_sendTimeEx s (State.sendTimeEx s l tx) := by
  unfold State.sendTimeEx
  extract_lets -merge -underBinder +onlyGivenNames y1
  extract_lets -merge -underBinder +onlyGivenNames y2
  extract_lets -merge -underBinder +onlyGivenNames y3
  extract_lets -merge -underBinder +onlyGivenNames y4
  extract_lets -merge -underBinder +onlyGivenNames y5
  extract_lets -merge -underBinder +onlyGivenNames y6
  refine State.keeps.step ?_ (sendFrame_keeps ..) (by decide +kernel)
  refine State.keeps.step ?_ (updLane_keeps ..) (by decide +kernel)
  exact State.keeps.refl

/-- What `execTimeExSend` may write. -/
def writes_execTimeExSend : Nat :=
  writes_sendTimeEx

theorem execTimeExSend_keeps (phase : List ℤ) (s : State) :
    State.answers writes_execTimeExSend s (execTimeExSend phase s) := by
  unfold execTimeExSend
  refine State.answers.next ?_
  refine State.keeps.forEach ?_ (fun x1 s1 h1 => ?_)
  · exact State.keeps.refl
  · try beta_reduce
    refine State.keeps.ite (fun _ => ?_) (fun _ => ?_)
    · refine State.keeps.step ?_ (sendTimeEx_keeps ..) (by decide +kernel)
      exact h1
    · exact h1

/-- What `completeExchange` may write. -/
def writes_completeExchange : Nat :=
  writes [.PLB_LCOUNT_EXCH, .PLB_LDLY_HI_D_HI, .PLB_LDLY_LO_D_LO, .PLB_LOFS_THETA] [.lanes] |||
    writes_refreshLane ||| writes_tally

theorem completeExchange_keeps (s : State) (l : ℕ) (t1 : ℤ) (t2 : ℤ) (t3 : ℤ) (t4 : ℤ) :
    State.keeps writes_completeExchange s (State.completeExchange s l t1 t2 t3 t4) := by
  unfold State.completeExchange
  extract_lets -merge -underBinder +onlyGivenNames y1
  refine State.keeps.ite (fun _ => ?_) (fun _ => ?_)
  · exact State.keeps.refl
  · refine State.keeps.step ?_ (refreshLane_keeps ..) (by decide +kernel)
    refine State.keeps.step ?_ (tally_keeps ..) (by decide +kernel)
    refine State.keeps.step ?_ (updLane_keeps ..) (by decide +kernel)
    refine State.keeps.wr ?_ (by decide +kernel)
    refine State.keeps.step ?_ (wr2_keeps ..) (by decide +kernel)
    refine State.keeps.wr ?_ (by decide +kernel)
    exact State.keeps.refl

/-- What `takeTimeEx` may write. -/
def writes_takeTimeEx : Nat :=
  writes [.PLB_LCOUNT_EXCH_BAD] [] ||| writes_completeExchange

theorem takeTimeEx_keeps (s : State) (l : ℕ) (f : Sys2Proof.Frame) (rx : ℕ) :
    State.keeps writes_takeTimeEx s (State.takeTimeEx s l f rx) := by
  unfold State.takeTimeEx
  extract_lets -merge -underBinder +onlyGivenNames y1
  extract_lets -merge -underBinder +onlyGivenNames y2
  extract_lets -merge -underBinder +onlyGivenNames y3
  extract_lets -merge -underBinder +onlyGivenNames y4
  extract_lets -merge -underBinder +onlyGivenNames y5
  extract_lets -merge -underBinder +onlyGivenNames s6
  have h6 : State.keeps writes_takeTimeEx s s6 := by
    unfold s6
    refine State.keeps.ite (fun _ => ?_) (fun _ => ?_)
    · exact State.keeps.refl
    · refine State.keeps.wr ?_ (by decide +kernel)
      exact State.keeps.refl
  try clear_value s6
  extract_lets -merge -underBinder +onlyGivenNames s7
  have h7 : State.keeps writes_takeTimeEx s s7 := by
    unfold s7
    refine State.keeps.step ?_ (updLane_keeps ..) (by decide +kernel)
    exact h6
  try clear_value s7
  refine State.keeps.ite (fun _ => ?_) (fun _ => ?_)
  · exact h7
  · split
    · exact h7
    · split
      · exact h7
      · refine State.keeps.step ?_ (completeExchange_keeps ..) (by decide +kernel)
        exact h7

/-- What `execTimeEx` may write. -/
def writes_execTimeEx : Nat :=
  writes_receive ||| writes_takeTimeEx

theorem execTimeEx_keeps (l : Sys2Proof.LaneIx) (f : Sys2Proof.Frame) (rx : ℤ) (s : State) :
    State.answers writes_execTimeEx s (execTimeEx l f rx s) := by
  unfold execTimeEx
  refine State.answers.next ?_
  refine receive_keeps (by decide +kernel) ?_ (fun s1 h1 => ?_)
  · exact State.keeps.refl
  · refine State.keeps.ite (fun _ => ?_) (fun _ => ?_)
    · refine State.keeps.step ?_ (takeTimeEx_keeps ..) (by decide +kernel)
      exact h1
    · refine State.keeps.wr ?_ (by decide +kernel)
      exact h1

/-- What `refreshTimeOk` may write. -/
def writes_refreshTimeOk : Nat :=
  writes [.PLB_STATUS_TIME_OK] [] ||| writes_raise

theorem refreshTimeOk_keeps (s : State) :
    State.keeps writes_refreshTimeOk s (State.refreshTimeOk s) := by
  unfold State.refreshTimeOk
  extract_lets -merge -underBinder +onlyGivenNames y1
  refine State.keeps.ite (fun _ => ?_) (fun _ => ?_)
  · exact State.keeps.refl
  · refine State.keeps.step ?_ (raise_keeps ..) (by decide +kernel)
    refine State.keeps.wr ?_ (by decide +kernel)
    exact State.keeps.refl

/-- What `showLanes` may write. -/
def writes_showLanes : Nat :=
  writes [.PLB_LSTAT_LROLE, .PLB_LSTAT_PEER_OK, .PLB_LSTAT_PEER_STEPS] []

theorem showLanes_keeps (s : State) :
    State.keeps writes_showLanes s (State.showLanes s) := by
  unfold State.showLanes
  refine State.keeps.forEach ?_ (fun x1 s1 h1 => ?_)
  · exact State.keeps.refl
  · try beta_reduce
    split
    · refine State.keeps.wr ?_ (by decide +kernel)
      refine State.keeps.wr ?_ (by decide +kernel)
      refine State.keeps.wr ?_ (by decide +kernel)
      exact h1
    · refine State.keeps.wr ?_ (by decide +kernel)
      refine State.keeps.wr ?_ (by decide +kernel)
      refine State.keeps.wr ?_ (by decide +kernel)
      exact h1
    · extract_lets -merge -underBinder +onlyGivenNames y2
      extract_lets -merge -underBinder +onlyGivenNames y3
      refine State.keeps.wr ?_ (by decide +kernel)
      refine State.keeps.wr ?_ (by decide +kernel)
      refine State.keeps.wr ?_ (by decide +kernel)
      exact h1

/-- What `inherit` may write. -/
def writes_inherit : Nat :=
  writes [] [.plumb]

theorem inherit_keeps (s : State) (best : Root) :
    State.keeps writes_inherit s (State.inherit s best) := by
  unfold State.inherit
  extract_lets -merge -underBinder +onlyGivenNames y1
  extract_lets -merge -underBinder +onlyGivenNames y2
  extract_lets -merge -underBinder +onlyGivenNames y3
  extract_lets -merge -underBinder +onlyGivenNames y4
  refine (State.keeps.put_plumb ?_ _ (by decide +kernel))
  exact State.keeps.refl

/-- What `takeRoot` may write. -/
def writes_takeRoot : Nat :=
  writes [.PLB_ROOT_CLASS, .PLB_ROOT_PRIORITY, .PLB_ROOT_STEPS, .PLB_ROOT_UID_HI_UID, .PLB_ROOT_UID_LO_UID,
    .PLB_STATUS_PARENT, .PLB_STATUS_ROLE, .PLB_UNC_PATH_UNC] []

theorem takeRoot_keeps (s : State) (best : Root) (parent : Option (ℕ × Offer)) :
    State.keeps writes_takeRoot s (State.takeRoot s best parent) := by
  unfold State.takeRoot
  extract_lets -merge -underBinder +onlyGivenNames s1
  have h1 : State.keeps writes_takeRoot s s1 := by
    unfold s1
    refine State.keeps.wr ?_ (by decide +kernel)
    refine State.keeps.wr ?_ (by decide +kernel)
    refine State.keeps.step ?_ (wr2_keeps ..) (by decide +kernel)
    exact State.keeps.refl
  try clear_value s1
  split
  · refine State.keeps.ite (fun _ => ?_) (fun _ => ?_)
    · refine State.keeps.wr ?_ (by decide +kernel)
      refine State.keeps.wr ?_ (by decide +kernel)
      exact h1
    · refine State.keeps.wr ?_ (by decide +kernel)
      refine State.keeps.wr ?_ (by decide +kernel)
      refine State.keeps.wr ?_ (by decide +kernel)
      refine State.keeps.wr ?_ (by decide +kernel)
      exact h1
  · extract_lets -merge -underBinder +onlyGivenNames y2
    refine State.keeps.wr ?_ (by decide +kernel)
    refine State.keeps.wr ?_ (by decide +kernel)
    refine State.keeps.wr ?_ (by decide +kernel)
    refine State.keeps.wr ?_ (by decide +kernel)
    exact h1

/-- What `elect` may write. -/
def writes_elect : Nat :=
  writes [.PLB_COUNT_ROOT_CHANGES] [] ||| writes_inherit ||| writes_takeRoot ||| writes_sendFault |||
    writes_record ||| writes_showLanes ||| writes_refreshTimeOk

theorem elect_keeps (s : State) :
    State.keeps writes_elect s (State.elect s) := by
  unfold State.elect
  extract_lets -merge -underBinder +onlyGivenNames y1
  extract_lets -merge -underBinder +onlyGivenNames y2
  extract_lets -merge -underBinder +onlyGivenNames y3
  extract_lets -merge -underBinder +onlyGivenNames s4
  have h4 : State.keeps writes_elect s s4 := by
    unfold s4
    refine State.keeps.step ?_ (inherit_keeps ..) (by decide +kernel)
    exact State.keeps.refl
  try clear_value s4
  extract_lets -merge -underBinder +onlyGivenNames y5
  extract_lets -merge -underBinder +onlyGivenNames y6
  extract_lets -merge -underBinder +onlyGivenNames y7
  extract_lets -merge -underBinder +onlyGivenNames s8
  have h8 : State.keeps writes_elect s s8 := by
    unfold s8
    refine State.keeps.step ?_ (takeRoot_keeps ..) (by decide +kernel)
    exact h4
  try clear_value s8
  extract_lets -merge -underBinder +onlyGivenNames s9
  have h9 : State.keeps writes_elect s s9 := by
    unfold s9
    refine State.keeps.ite (fun _ => ?_) (fun _ => ?_)
    · refine State.keeps.step ?_ (sendFault_keeps ..) (by decide +kernel)
      refine State.keeps.step ?_ (record_keeps ..) (by decide +kernel)
      refine State.keeps.wr ?_ (by decide +kernel)
      exact h8
    · exact h8
  try clear_value s9
  refine State.keeps.step ?_ (showLanes_keeps ..) (by decide +kernel)
  refine State.keeps.step ?_ (refreshTimeOk_keeps ..) (by decide +kernel)
  exact h9

/-- What `execAnnounceSend` may write. -/
def writes_execAnnounceSend : Nat :=
  writes_elect ||| writes_sendFrame

theorem execAnnounceSend_keeps (s : State) :
    State.answers writes_execAnnounceSend s (execAnnounceSend s) := by
  unfold execAnnounceSend
  extract_lets -merge -underBinder +onlyGivenNames s1
  have h1 : State.keeps writes_execAnnounceSend s s1 := by
    unfold s1
    refine State.keeps.step ?_ (elect_keeps ..) (by decide +kernel)
    exact State.keeps.refl
  try clear_value s1
  extract_lets -merge -underBinder +onlyGivenNames y2
  extract_lets -merge -underBinder +onlyGivenNames s3
  have h3 : State.keeps writes_execAnnounceSend s s3 := by
    unfold s3
    refine (State.keeps.put_plumb ?_ _ (by decide +kernel))
    exact h1
  try clear_value s3
  refine State.answers.next ?_
  refine State.keeps.forEach ?_ (fun x4 s4 h4 => ?_)
  · exact h3
  · try beta_reduce
    refine State.keeps.ite (fun _ => ?_) (fun _ => ?_)
    · refine State.keeps.step ?_ (sendFrame_keeps ..) (by decide +kernel)
      exact h4
    · exact h4

/-- What `checkAsym` may write. -/
def writes_checkAsym : Nat :=
  writes [.PLB_LSTAT_MISMATCH, .PLB_STATUS_ASYM_MISMATCH] [.lanes] ||| writes_sendFault

theorem checkAsym_keeps (s : State) (l : ℕ) (w : ℕ) :
    State.keeps writes_checkAsym s (State.checkAsym s l w) := by
  unfold State.checkAsym
  extract_lets -merge -underBinder +onlyGivenNames y1
  extract_lets -merge -underBinder +onlyGivenNames y2
  refine State.keeps.ite (fun _ => ?_) (fun _ => ?_)
  · exact State.keeps.refl
  · extract_lets -merge -underBinder +onlyGivenNames s3
    have h3 : State.keeps writes_checkAsym s s3 := by
      unfold s3
      refine State.keeps.wr ?_ (by decide +kernel)
      refine State.keeps.wr ?_ (by decide +kernel)
      exact State.keeps.refl
    try clear_value s3
    refine State.keeps.ite (fun _ => ?_) (fun _ => ?_)
    · exact h3
    · refine State.keeps.step ?_ (sendFault_keeps ..) (by decide +kernel)
      refine State.keeps.step ?_ (updLane_keeps ..) (by decide +kernel)
      exact h3

/-- What `takeOffer` may write. -/
def writes_takeOffer : Nat :=
  writes_checkAsym ||| writes_showLanes

theorem takeOffer_keeps (s : State) (l : ℕ) (f : Sys2Proof.Frame) :
    State.keeps writes_takeOffer s (State.takeOffer s l f) := by
  unfold State.takeOffer
  extract_lets -merge -underBinder +onlyGivenNames y1
  extract_lets -merge -underBinder +onlyGivenNames y2
  extract_lets -merge -underBinder +onlyGivenNames y3
  extract_lets -merge -underBinder +onlyGivenNames s4
  have h4 : State.keeps writes_takeOffer s s4 := by
    unfold s4
    refine State.keeps.step ?_ (checkAsym_keeps ..) (by decide +kernel)
    exact State.keeps.refl
  try clear_value s4
  refine State.keeps.ite (fun _ => ?_) (fun _ => ?_)
  · exact h4
  · extract_lets -merge -underBinder +onlyGivenNames y5
    extract_lets -merge -underBinder +onlyGivenNames y6
    extract_lets -merge -underBinder +onlyGivenNames y7
    extract_lets -merge -underBinder +onlyGivenNames y8
    refine State.keeps.step ?_ (showLanes_keeps ..) (by decide +kernel)
    refine State.keeps.step ?_ (updLane_keeps ..) (by decide +kernel)
    exact h4

/-- What `execAnnounce` may write. -/
def writes_execAnnounce : Nat :=
  writes_receive ||| writes_takeOffer

theorem execAnnounce_keeps (l : Sys2Proof.LaneIx) (f : Sys2Proof.Frame) (s : State) :
    State.answers writes_execAnnounce s (execAnnounce l f s) := by
  unfold execAnnounce
  refine State.answers.next ?_
  refine receive_keeps (by decide +kernel) ?_ (fun s1 h1 => ?_)
  · exact State.keeps.refl
  · refine State.keeps.ite (fun _ => ?_) (fun _ => ?_)
    · refine State.keeps.step ?_ (takeOffer_keeps ..) (by decide +kernel)
      exact h1
    · refine State.keeps.wr ?_ (by decide +kernel)
      exact h1

/-- What `execHoldLimitExpire` may write. -/
def writes_execHoldLimitExpire : Nat :=
  writes_elect

theorem execHoldLimitExpire_keeps (s : State) :
    State.answers writes_execHoldLimitExpire s (execHoldLimitExpire s) := by
  unfold execHoldLimitExpire
  refine State.answers.next ?_
  refine State.keeps.ite (fun _ => ?_) (fun _ => ?_)
  · refine State.keeps.step ?_ (elect_keeps ..) (by decide +kernel)
    refine (State.keeps.put_plumb ?_ _ (by decide +kernel))
    exact State.keeps.refl
  · exact State.keeps.refl

/-- What `execTimeCheck` may write. -/
def writes_execTimeCheck : Nat :=
  writes [.PLB_LSTAT_CHECK_FAIL, .PLB_STATUS_CHECK_FAIL] [.lanes] ||| writes_sendFault

theorem execTimeCheck_keeps (l : Sys2Proof.LaneIx) (s : State) :
    State.answers writes_execTimeCheck s (execTimeCheck l s) := by
  unfold execTimeCheck
  extract_lets -merge -underBinder +onlyGivenNames y1
  extract_lets -merge -underBinder +onlyGivenNames s2
  have h2 : State.keeps writes_execTimeCheck s s2 := by
    unfold s2
    refine State.keeps.ite (fun _ => ?_) (fun _ => ?_)
    · exact State.keeps.refl
    · refine State.keeps.step ?_ (updLane_keeps ..) (by decide +kernel)
      exact State.keeps.refl
  try clear_value s2
  extract_lets -merge -underBinder +onlyGivenNames y3
  extract_lets -merge -underBinder +onlyGivenNames y4
  refine State.answers.next ?_
  refine State.keeps.ite (fun _ => ?_) (fun _ => ?_)
  · exact h2
  · extract_lets -merge -underBinder +onlyGivenNames s5
    have h5 : State.keeps writes_execTimeCheck s s5 := by
      unfold s5
      refine State.keeps.wr ?_ (by decide +kernel)
      refine State.keeps.wr ?_ (by decide +kernel)
      exact h2
    try clear_value s5
    refine State.keeps.ite (fun _ => ?_) (fun _ => ?_)
    · exact h5
    · refine State.keeps.step ?_ (sendFault_keeps ..) (by decide +kernel)
      refine State.keeps.step ?_ (updLane_keeps ..) (by decide +kernel)
      exact h5

/-- What `showHold` may write. -/
def writes_showHold : Nat :=
  writes [.PLB_HOLD_HOLD_ERR, .PLB_HOLD_HOLD_S] []

theorem showHold_keeps (s : State) :
    State.keeps writes_showHold s (State.showHold s) := by
  unfold State.showHold
  extract_lets -merge -underBinder +onlyGivenNames y1
  refine State.keeps.wr ?_ (by decide +kernel)
  refine State.keeps.wr ?_ (by decide +kernel)
  exact State.keeps.refl

/-- What `showLoop` may write. -/
def writes_showLoop : Nat :=
  writes [.PLB_FI_FI, .PLB_OFFSET_OFS, .PLB_STATUS_FI_LIMIT] [.plumb] ||| writes_showHold |||
    writes_sendFault ||| writes_refreshTimeOk

theorem showLoop_keeps (s : State) :
    State.keeps writes_showLoop s (State.showLoop s) := by
  unfold State.showLoop
  extract_lets -merge -underBinder +onlyGivenNames s1
  have h1 : State.keeps writes_showLoop s s1 := by
    unfold s1
    refine State.keeps.step ?_ (showHold_keeps ..) (by decide +kernel)
    refine State.keeps.wr ?_ (by decide +kernel)
    exact State.keeps.refl
  try clear_value s1
  extract_lets -merge -underBinder +onlyGivenNames s2
  have h2 : State.keeps writes_showLoop s s2 := by
    unfold s2
    refine State.keeps.ite (fun _ => ?_) (fun _ => ?_)
    · exact h1
    · refine State.keeps.wr ?_ (by decide +kernel)
      exact h1
  try clear_value s2
  extract_lets -merge -underBinder +onlyGivenNames s3
  have h3 : State.keeps writes_showLoop s s3 := by
    unfold s3
    refine State.keeps.wr ?_ (by decide +kernel)
    exact h2
  try clear_value s3
  extract_lets -merge -underBinder +onlyGivenNames s4
  have h4 : State.keeps writes_showLoop s s4 := by
    unfold s4
    refine State.keeps.ite (fun _ => ?_) (fun _ => ?_)
    · refine State.keeps.ite (fun _ => ?_) (fun _ => ?_)
      · exact h3
      · refine State.keeps.step ?_ (sendFault_keeps ..) (by decide +kernel)
        exact h3
    · refine State.keeps.step ?_ (sendClear_keeps ..) (by decide +kernel)
      exact h2
  try clear_value s4
  extract_lets -merge -underBinder +onlyGivenNames y5
  extract_lets -merge -underBinder +onlyGivenNames y6
  refine State.keeps.step ?_ (refreshTimeOk_keeps ..) (by decide +kernel)
  refine (State.keeps.put_plumb ?_ _ (by decide +kernel))
  exact h4

/-- What `enterHoldover` may write. -/
def writes_enterHoldover : Nat :=
  writes [.PLB_STATUS_TSTATE] [.plumb]

theorem enterHoldover_keeps (s : State) :
    State.keeps writes_enterHoldover s (State.enterHoldover s) := by
  unfold State.enterHoldover
  refine State.keeps.ite (fun _ => ?_) (fun _ => ?_)
  · exact State.keeps.refl
  · refine State.keeps.wr ?_ (by decide +kernel)
    refine (State.keeps.put_plumb ?_ _ (by decide +kernel))
    exact State.keeps.refl

/-- What `updateWithout` may write. -/
def writes_updateWithout : Nat :=
  writes_enterHoldover

theorem updateWithout_keeps (s : State) :
    State.keeps writes_updateWithout s (State.updateWithout s) := by
  unfold State.updateWithout
  extract_lets -merge -underBinder +onlyGivenNames y1
  extract_lets -merge -underBinder +onlyGivenNames s2
  have h2 : State.keeps writes_updateWithout s s2 := by
    unfold s2
    refine (State.keeps.put_plumb ?_ _ (by decide +kernel))
    exact State.keeps.refl
  try clear_value s2
  refine State.keeps.ite (fun _ => ?_) (fun _ => ?_)
  · refine State.keeps.step ?_ (enterHoldover_keeps ..) (by decide +kernel)
    exact h2
  · exact h2

/-- What `timeStates` may write. -/
def writes_timeStates : Nat :=
  writes [.PLB_STATUS_TSTATE] [.plumb]

theorem timeStates_keeps (s : State) :
    State.keeps writes_timeStates s (State.timeStates s) := by
  unfold State.timeStates
  extract_lets -merge -underBinder +onlyGivenNames y1
  split
  · refine State.keeps.wr ?_ (by decide +kernel)
    refine (State.keeps.put_plumb ?_ _ (by decide +kernel))
    exact State.keeps.refl
  · refine State.keeps.ite (fun _ => ?_) (fun _ => ?_)
    · refine State.keeps.wr ?_ (by decide +kernel)
      exact State.keeps.refl
    · exact State.keeps.refl
  · refine State.keeps.ite (fun _ => ?_) (fun _ => ?_)
    · refine State.keeps.wr ?_ (by decide +kernel)
      exact State.keeps.refl
    · exact State.keeps.refl
  · refine State.keeps.ite (fun _ => ?_) (fun _ => ?_)
    · refine State.keeps.wr ?_ (by decide +kernel)
      exact State.keeps.refl
    · exact State.keeps.refl
  · exact State.keeps.refl

/-- What `steer` may write. -/
def writes_steer : Nat :=
  writes [] [.plumb] ||| writes_tally

theorem steer_keeps (s : State) (x : ℤ) (tp : ℕ) (ti : ℕ) (n : ℕ) :
    State.keeps writes_steer s (State.steer s x tp ti n) := by
  unfold State.steer
  extract_lets -merge -underBinder +onlyGivenNames y1
  refine State.keeps.ite (fun _ => ?_) (fun _ => ?_)
  · extract_lets -merge -underBinder +onlyGivenNames y2
    extract_lets -merge -underBinder +onlyGivenNames y3
    refine (State.keeps.put_plumb ?_ _ (by decide +kernel))
    exact State.keeps.refl
  · extract_lets -merge -underBinder +onlyGivenNames y4
    extract_lets -merge -underBinder +onlyGivenNames y5
    extract_lets -merge -underBinder +onlyGivenNames y6
    extract_lets -merge -underBinder +onlyGivenNames y7
    extract_lets -merge -underBinder +onlyGivenNames s8
    have h8 : State.keeps writes_steer s s8 := by
      unfold s8
      refine (State.keeps.put_plumb ?_ _ (by decide +kernel))
      exact State.keeps.refl
    try clear_value s8
    refine State.keeps.ite (fun _ => ?_) (fun _ => ?_)
    · exact h8
    · refine State.keeps.step ?_ (tally_keeps ..) (by decide +kernel)
      exact h8

/-- What `updateWith` may write. -/
def writes_updateWith : Nat :=
  writes [.PLB_STATUS_TIME_AHEAD] [] ||| writes_timeStates ||| writes_steer

theorem updateWith_keeps (s : State) (x : ℤ) (open' : Bool) (pps : Bool) :
    State.keeps writes_updateWith s (State.updateWith s x open' pps) := by
  unfold State.updateWith
  extract_lets -merge -underBinder +onlyGivenNames s1
  have h1 : State.keeps writes_updateWith s s1 := by
    unfold s1
    refine State.keeps.wr ?_ (by decide +kernel)
    refine (State.keeps.put_plumb ?_ _ (by decide +kernel))
    exact State.keeps.refl
  try clear_value s1
  refine State.keeps.ite (fun _ => ?_) (fun _ => ?_)
  · extract_lets -merge -underBinder +onlyGivenNames s2
    have h2 : State.keeps writes_updateWith s s2 := by
      unfold s2
      refine State.keeps.step ?_ (planStep_keeps ..) (by decide +kernel)
      exact h1
    try clear_value s2
    refine State.keeps.ite (fun _ => ?_) (fun _ => ?_)
    · refine State.keeps.wr ?_ (by decide +kernel)
      refine (State.keeps.put_plumb ?_ _ (by decide +kernel))
      exact h2
    · exact h2
  · refine State.keeps.ite (fun _ => ?_) (fun _ => ?_)
    · refine State.keeps.step ?_ (timeStates_keeps ..) (by decide +kernel)
      refine State.keeps.step ?_ (planStep_keeps ..) (by decide +kernel)
      exact h1
    · refine State.keeps.step ?_ (timeStates_keeps ..) (by decide +kernel)
      refine State.keeps.ite (fun _ => ?_) (fun _ => ?_)
      · refine State.keeps.step ?_ (steer_keeps ..) (by decide +kernel)
        exact h1
      · refine State.keeps.step ?_ (steer_keeps ..) (by decide +kernel)
        exact h1

/-- What `useX` may write. -/
def writes_useX : Nat :=
  writes [] [.lanes, .plumb]

theorem useX_keeps (s : State) (ref : Option ℤ) :
    State.keeps writes_useX s (State.useX s ref) := by
  unfold State.useX
  extract_lets -merge -underBinder +onlyGivenNames y1
  extract_lets -merge -underBinder +onlyGivenNames s2
  have h2 : State.keeps writes_useX s s2 := by
    unfold s2
    refine State.keeps.ite (fun _ => ?_) (fun _ => ?_)
    · refine (State.keeps.put_plumb ?_ _ (by decide +kernel))
      exact State.keeps.refl
    · exact State.keeps.refl
  try clear_value s2
  refine State.keeps.forEach ?_ (fun x3 s3 h3 => ?_)
  · exact h2
  · try beta_reduce
    refine State.keeps.ite (fun _ => ?_) (fun _ => ?_)
    · exact h3
    · refine State.keeps.step ?_ (updLane_keeps ..) (by decide +kernel)
      exact h3

/-- What `execPlumbUpdate` may write. -/
def writes_execPlumbUpdate : Nat :=
  writes_elect ||| writes_showLoop ||| writes_updateWith ||| writes_useX

theorem execPlumbUpdate_keeps (ref : Option ℤ) (s : State) :
    State.answers writes_execPlumbUpdate s (execPlumbUpdate ref s) := by
  unfold execPlumbUpdate
  extract_lets -merge -underBinder +onlyGivenNames s1
  have h1 : State.keeps writes_execPlumbUpdate s s1 := by
    unfold s1
    refine State.keeps.ite (fun _ => ?_) (fun _ => ?_)
    · refine State.keeps.step ?_ (elect_keeps ..) (by decide +kernel)
      exact State.keeps.refl
    · exact State.keeps.refl
  try clear_value s1
  refine State.answers.next ?_
  split
  · refine State.keeps.step ?_ (showLoop_keeps ..) (by decide +kernel)
    refine State.keeps.step ?_ (updateWith_keeps ..) (by decide +kernel)
    refine State.keeps.step ?_ (useX_keeps ..) (by decide +kernel)
    exact h1
  · refine State.keeps.ite (fun _ => ?_) (fun _ => ?_)
    · refine State.keeps.step ?_ (useX_keeps ..) (by decide +kernel)
      exact h1
    · refine State.keeps.step ?_ (showLoop_keeps ..) (by decide +kernel)
      refine State.keeps.step ?_ (updateWithout_keeps ..) (by decide +kernel)
      refine State.keeps.step ?_ (useX_keeps ..) (by decide +kernel)
      exact h1

/-- What `acceptPps` may write. -/
def writes_acceptPps : Nat :=
  writes [.PLB_REF_STAT_PPS_REF_SKEW] [.plumb]

theorem acceptPps_keeps (s : State) (t : ℤ) (ref : Option ℤ) :
    State.keeps writes_acceptPps s (State.acceptPps s t ref) := by
  unfold State.acceptPps
  extract_lets -merge -underBinder +onlyGivenNames y1
  extract_lets -merge -underBinder +onlyGivenNames y2
  extract_lets -merge -underBinder +onlyGivenNames y3
  extract_lets -merge -underBinder +onlyGivenNames y4
  split
  · refine (State.keeps.put_plumb ?_ _ (by decide +kernel))
    exact State.keeps.refl
  · refine State.keeps.ite (fun _ => ?_) (fun _ => ?_)
    · refine State.keeps.wr ?_ (by decide +kernel)
      refine (State.keeps.put_plumb ?_ _ (by decide +kernel))
      exact State.keeps.refl
    · refine (State.keeps.put_plumb ?_ _ (by decide +kernel))
      exact State.keeps.refl

/-- What `execPpsInEdge` may write. -/
def writes_execPpsInEdge : Nat :=
  writes [.PLB_REF_STAT_PPS_REJECT, .PLB_STATUS_PPS_IN_OK] [] ||| writes_tally ||| writes_acceptPps

theorem execPpsInEdge_keeps (edge : ℤ) (ref : Option ℤ) (s : State) :
    State.answers writes_execPpsInEdge s (execPpsInEdge edge ref s) := by
  unfold execPpsInEdge
  extract_lets -merge -underBinder +onlyGivenNames y1
  refine State.answers.next ?_
  refine State.keeps.ite (fun _ => ?_) (fun _ => ?_)
  · refine State.keeps.ite (fun _ => ?_) (fun _ => ?_)
    · refine State.keeps.step ?_ (tally_keeps ..) (by decide +kernel)
      refine State.keeps.step ?_ (acceptPps_keeps ..) (by decide +kernel)
      exact State.keeps.refl
    · refine State.keeps.step ?_ (tally_keeps ..) (by decide +kernel)
      refine State.keeps.wr ?_ (by decide +kernel)
      exact State.keeps.refl
  · extract_lets -merge -underBinder +onlyGivenNames y2
    extract_lets -merge -underBinder +onlyGivenNames y3
    extract_lets -merge -underBinder +onlyGivenNames y4
    extract_lets -merge -underBinder +onlyGivenNames s5
    have h5 : State.keeps writes_execPpsInEdge s s5 := by
      unfold s5
      refine (State.keeps.put_plumb ?_ _ (by decide +kernel))
      exact State.keeps.refl
    try clear_value s5
    refine State.keeps.ite (fun _ => ?_) (fun _ => ?_)
    · refine State.keeps.step ?_ (tally_keeps ..) (by decide +kernel)
      refine State.keeps.step ?_ (acceptPps_keeps ..) (by decide +kernel)
      refine State.keeps.wr ?_ (by decide +kernel)
      exact h5
    · exact h5

/-- What `execPpsInTimeout` may write. -/
def writes_execPpsInTimeout : Nat :=
  writes [.PLB_STATUS_PPS_IN_OK] [.plumb]

theorem execPpsInTimeout_keeps (s : State) :
    State.answers writes_execPpsInTimeout s (execPpsInTimeout s) := by
  unfold execPpsInTimeout
  refine State.answers.next ?_
  refine State.keeps.wr ?_ (by decide +kernel)
  refine (State.keeps.put_plumb ?_ _ (by decide +kernel))
  exact State.keeps.refl

/-- What `execRefBad` may write. -/
def writes_execRefBad : Nat :=
  writes [.PLB_REF_STAT_REF_BAD, .PLB_STATUS_REF_IN_OK] [.plumb]

theorem execRefBad_keeps (s : State) :
    State.answers writes_execRefBad s (execRefBad s) := by
  unfold execRefBad
  refine State.answers.next ?_
  refine State.keeps.wr ?_ (by decide +kernel)
  refine State.keeps.wr ?_ (by decide +kernel)
  refine (State.keeps.put_plumb ?_ _ (by decide +kernel))
  exact State.keeps.refl

/-- What `execRefInRestore` may write. -/
def writes_execRefInRestore : Nat :=
  writes [.PLB_STATUS_REF_IN_OK] []

theorem execRefInRestore_keeps (s : State) :
    State.answers writes_execRefInRestore s (execRefInRestore s) := by
  unfold execRefInRestore
  refine State.answers.next ?_
  refine State.keeps.wr ?_ (by decide +kernel)
  exact State.keeps.refl

/-- What `writeTod` may write. -/
def writes_writeTod : Nat :=
  writes [.PLB_TOD_HI_ARM, .PLB_TOD_HI_SEC_HI] [.plumb]

theorem writeTod_keeps (s : State) (w : ℕ) :
    State.keeps writes_writeTod s (State.writeTod s w) := by
  unfold State.writeTod
  extract_lets -merge -underBinder +onlyGivenNames s1
  have h1 : State.keeps writes_writeTod s s1 := by
    unfold s1
    refine State.keeps.wr ?_ (by decide +kernel)
    exact State.keeps.refl
  try clear_value s1
  refine State.keeps.ite (fun _ => ?_) (fun _ => ?_)
  · extract_lets -merge -underBinder +onlyGivenNames s2
    have h2 : State.keeps writes_writeTod s s2 := by
      unfold s2
      refine State.keeps.wr ?_ (by decide +kernel)
      exact h1
    try clear_value s2
    refine (State.keeps.put_plumb ?_ _ (by decide +kernel))
    exact h2
  · exact h1

/-- What `execTodArm` may write. -/
def writes_execTodArm : Nat :=
  writes_writeTod

theorem execTodArm_keeps (w : Sys2Proof.Word) (s : State) :
    State.answers writes_execTodArm s (execTodArm w s) := by
  unfold execTodArm
  refine State.answers.next ?_
  refine State.keeps.step ?_ (writeTod_keeps ..) (by decide +kernel)
  exact State.keeps.refl

/-- What `execTodApply` may write. -/
def writes_execTodApply : Nat :=
  writes [.PLB_STATUS_TOD_REFUSED, .PLB_TOD_HI_ARM] [] ||| writes_planStep

theorem execTodApply_keeps (s : State) :
    State.answers writes_execTodApply s (execTodApply s) := by
  unfold execTodApply
  refine State.answers.next ?_
  split
  · extract_lets -merge -underBinder +onlyGivenNames y1
    extract_lets -merge -underBinder +onlyGivenNames s2
    have h2 : State.keeps writes_execTodApply s s2 := by
      unfold s2
      refine State.keeps.wr ?_ (by decide +kernel)
      refine (State.keeps.put_plumb ?_ _ (by decide +kernel))
      exact State.keeps.refl
    try clear_value s2
    extract_lets -merge -underBinder +onlyGivenNames y3
    refine State.keeps.ite (fun _ => ?_) (fun _ => ?_)
    · refine State.keeps.ite (fun _ => ?_) (fun _ => ?_)
      · exact h2
      · refine State.keeps.step ?_ (planStep_keeps ..) (by decide +kernel)
        exact h2
    · refine State.keeps.ite (fun _ => ?_) (fun _ => ?_)
      · refine State.keeps.ite (fun _ => ?_) (fun _ => ?_)
        · exact h2
        · refine State.keeps.step ?_ (planStep_keeps ..) (by decide +kernel)
          exact h2
      · refine State.keeps.wr ?_ (by decide +kernel)
        exact h2
  · exact State.keeps.refl

/-- What `readTime0` may write. -/
def writes_readTime0 : Nat :=
  writes [] [.readers]

theorem readTime0_keeps (s : State) (r : ℕ) :
    State.keeps writes_readTime0 s (State.readTime0 s r) := by
  unfold State.readTime0
  extract_lets -merge -underBinder +onlyGivenNames y1
  refine State.keeps.step ?_ (setReader_keeps ..) (by decide +kernel)
  exact State.keeps.refl

/-- What `execPlbTime0Read` may write. -/
def writes_execPlbTime0Read : Nat :=
  writes_viaRead ||| writes_readTime0

theorem execPlbTime0Read_keeps (who : Sys2Proof.Requester) (s : State) :
    State.answers writes_execPlbTime0Read s (execPlbTime0Read who s) := by
  unfold execPlbTime0Read
  refine State.answers.next ?_
  refine viaRead_keeps (by decide +kernel) ?_ (fun s1 h1 => ?_)
  · exact State.keeps.refl
  · refine State.keeps.step ?_ (readTime0_keeps ..) (by decide +kernel)
    exact h1

/-- What `writePhaseSlew` may write. -/
def writes_writePhaseSlew : Nat :=
  writes [.PLB_SLEW_FW_PHASE_SLEW, .PLB_STATUS_SLEW_CLAMP] []

theorem writePhaseSlew_keeps (s : State) (v : ℕ) :
    State.keeps writes_writePhaseSlew s (State.writePhaseSlew s v) := by
  unfold State.writePhaseSlew
  refine State.keeps.ite (fun _ => ?_) (fun _ => ?_)
  · refine State.keeps.wr ?_ (by decide +kernel)
    refine State.keeps.wr ?_ (by decide +kernel)
    exact State.keeps.refl
  · refine State.keeps.wr ?_ (by decide +kernel)
    exact State.keeps.refl

/-- What `execFwPhaseSlewWrite` may write. -/
def writes_execFwPhaseSlewWrite : Nat :=
  writes_writePhaseSlew

theorem execFwPhaseSlewWrite_keeps (v : BitVec 16) (s : State) :
    State.answers writes_execFwPhaseSlewWrite s (execFwPhaseSlewWrite v s) := by
  unfold execFwPhaseSlewWrite
  refine State.answers.next ?_
  refine State.keeps.step ?_ (writePhaseSlew_keeps ..) (by decide +kernel)
  exact State.keeps.refl

/-- What `execPpsOutPulse` may write. -/
def writes_execPpsOutPulse : Nat :=
  writes [] [.plumb]

theorem execPpsOutPulse_keeps (s : State) :
    State.answers writes_execPpsOutPulse s (execPpsOutPulse s) := by
  unfold execPpsOutPulse
  extract_lets -merge -underBinder +onlyGivenNames y1
  extract_lets -merge -underBinder +onlyGivenNames y2
  extract_lets -merge -underBinder +onlyGivenNames y3
  extract_lets -merge -underBinder +onlyGivenNames y4
  refine State.answers.next ?_
  refine State.keeps.ite (fun _ => ?_) (fun _ => ?_)
  · refine (State.keeps.put_plumb ?_ _ (by decide +kernel))
    exact State.keeps.refl
  · exact State.keeps.refl

/-- What `plumbTick` may write. -/
def writes_plumbTick : Nat :=
  writes_applyStep

theorem plumbTick_keeps (s : State) :
    State.keeps writes_plumbTick s (State.plumbTick s) := by
  unfold State.plumbTick
  extract_lets -merge -underBinder +onlyGivenNames s1
  have h1 : State.keeps writes_plumbTick s s1 := by
    unfold s1
    refine State.keeps.step ?_ (applyStep_keeps ..) (by decide +kernel)
    exact State.keeps.refl
  try clear_value s1
  refine State.keeps.ite (fun _ => ?_) (fun _ => ?_)
  · refine (State.keeps.put_plumb ?_ _ (by decide +kernel))
    exact h1
  · exact h1

end Sys2Proof.Machine
end

