-- ==== Sys2Proof/Laws/BandPathKeeps.lean ====
section
/-!
SUPPORT. What each operation of Machine/BandPath.lean may write.
-/

namespace Sys2Proof.Machine

set_option Elab.async false

/-- What `sendUnsub` may write. -/
def writes_sendUnsub : Nat :=
  writes_sendRouted

theorem sendUnsub_keeps (s : State) (d : Decl) :
    State.keeps writes_sendUnsub s (State.sendUnsub s d) := by
  unfold State.sendUnsub
  refine State.keeps.step ?_ (sendRouted_keeps ..) (by decide +kernel)
  exact State.keeps.refl

/-- What `sendSubReq` may write. -/
def writes_sendSubReq : Nat :=
  writes [] [.bps] ||| writes_sendRouted

theorem sendSubReq_keeps (s : State) (n : ℕ) (d : Decl) :
    State.keeps writes_sendSubReq s (State.sendSubReq s n d) := by
  unfold State.sendSubReq
  refine State.keeps.step ?_ (sendRouted_keeps ..) (by decide +kernel)
  refine State.keeps.step ?_ (updBp_keeps ..) (by decide +kernel)
  exact State.keeps.refl

/-- What `endSub` may write. -/
def writes_endSub : Nat :=
  writes [] [.bps] ||| writes_sendUnsub ||| writes_dropEntry ||| writes_colStatus

theorem endSub_keeps (s : State) (n : ℕ) (d : Decl) :
    State.keeps writes_endSub s (State.endSub s n d) := by
  unfold State.endSub
  refine State.keeps.ite (fun _ => ?_) (fun _ => ?_)
  · exact State.keeps.refl
  · extract_lets -merge -underBinder +onlyGivenNames s1
    have h1 : State.keeps writes_endSub s s1 := by
      unfold s1
      refine State.keeps.step ?_ (updBp_keeps ..) (by decide +kernel)
      refine State.keeps.step ?_ (sendUnsub_keeps ..) (by decide +kernel)
      exact State.keeps.refl
    try clear_value s1
    refine State.keeps.foldl ?_ (fun s2 x2 h2 => ?_)
    · refine State.keeps.step ?_ (colStatus_keeps ..) (by decide +kernel)
      exact h1
    · try beta_reduce
      split
      · refine State.keeps.step ?_ (dropEntry_keeps ..) (by decide +kernel)
        exact h2
      · exact h2

/-- What `bpReject` may write. -/
def writes_bpReject : Nat :=
  writes [.BP_STATUS_PENDING, .BP_STATUS_REJECT, .BP_STATUS_STATE] [.bps]

theorem bpReject_keeps (s : State) (n : ℕ) (code : ℕ) :
    State.keeps writes_bpReject s (State.bpReject s n code) := by
  unfold State.bpReject
  extract_lets -merge -underBinder +onlyGivenNames s1
  have h1 : State.keeps writes_bpReject s s1 := by
    unfold s1
    refine State.keeps.step ?_ (updBp_keeps ..) (by decide +kernel)
    refine State.keeps.wr ?_ (by decide +kernel)
    refine State.keeps.wr ?_ (by decide +kernel)
    exact State.keeps.refl
  try clear_value s1
  refine State.keeps.ite (fun _ => ?_) (fun _ => ?_)
  · refine State.keeps.wr ?_ (by decide +kernel)
    exact h1
  · exact h1

/-- What `refreshPorts` may write. -/
def writes_refreshPorts : Nat :=
  writes_pilotReview ||| writes_refreshCeilings

theorem refreshPorts_keeps (s : State) (d : Decl) :
    State.keeps writes_refreshPorts s (State.refreshPorts s d) := by
  unfold State.refreshPorts
  extract_lets -merge -underBinder +onlyGivenNames s1
  have h1 : State.keeps writes_refreshPorts s s1 := by
    unfold s1
    refine State.keeps.ite (fun _ => ?_) (fun _ => ?_)
    · refine State.keeps.step ?_ (noteGuards_keeps ..) (by decide +kernel)
      refine State.keeps.step ?_ (pilotReview_keeps ..) (by decide +kernel)
      refine State.keeps.step ?_ (refreshCeilings_keeps ..) (by decide +kernel)
      exact State.keeps.refl
    · exact State.keeps.refl
  try clear_value s1
  refine State.keeps.ite (fun _ => ?_) (fun _ => ?_)
  · refine State.keeps.step ?_ (pilotReview_keeps ..) (by decide +kernel)
    exact h1
  · exact h1

/-- What `register` may write. -/
def writes_register : Nat :=
  writes [.COL_BP_RATE_RATE, .EMG_BP_STATUS_H_E] [.bps] ||| writes_colStatus

theorem register_keeps (s : State) (n : ℕ) (d : Decl) :
    State.keeps writes_register s (State.register s n d) := by
  unfold State.register
  refine State.keeps.ite (fun _ => ?_) (fun _ => ?_)
  · exact State.keeps.refl
  · refine State.keeps.wr ?_ (by decide +kernel)
    refine State.keeps.step ?_ (colStatus_keeps ..) (by decide +kernel)
    refine State.keeps.wr ?_ (by decide +kernel)
    refine State.keeps.step ?_ (updBp_keeps ..) (by decide +kernel)
    exact State.keeps.refl

/-- What `joinOut` may write. -/
def writes_joinOut : Nat :=
  writes [.EMG_BP_STATUS_PORT] [] ||| writes_g2Mute

theorem joinOut_keeps (s : State) (n : ℕ) (d : Decl) :
    State.keeps writes_joinOut s (State.joinOut s n d) := by
  unfold State.joinOut
  refine State.keeps.ite (fun _ => ?_) (fun _ => ?_)
  · refine State.keeps.wr ?_ (by decide +kernel)
    refine State.keeps.step ?_ (g2Mute_keeps ..) (by decide +kernel)
    exact State.keeps.refl
  · exact State.keeps.refl

/-- What `restartChain` may write. -/
def writes_restartChain : Nat :=
  writes_enterEstablishing

theorem restartChain_keeps (s : State) (n : ℕ) :
    State.keeps writes_restartChain s (State.restartChain s n) := by
  unfold State.restartChain
  extract_lets -merge -underBinder +onlyGivenNames s1
  have h1 : State.keeps writes_restartChain s s1 := by
    unfold s1
    refine State.keeps.step ?_ (chzStop_keeps ..) (by decide +kernel)
    exact State.keeps.refl
  try clear_value s1
  refine State.keeps.step ?_ (enterEstablishing_keeps ..) (by decide +kernel)
  refine State.keeps.ite (fun _ => ?_) (fun _ => ?_)
  · refine State.keeps.step ?_ (requestSync_keeps ..) (by decide +kernel)
    exact h1
  · exact h1

/-- What `restart` may write. -/
def writes_restart : Nat :=
  writes_startCold ||| writes_restartChain

theorem restart_keeps (s : State) (n : ℕ) :
    State.keeps writes_restart s (State.restart s n) := by
  unfold State.restart
  refine State.keeps.ite (fun _ => ?_) (fun _ => ?_)
  · refine State.keeps.step ?_ (startCold_keeps ..) (by decide +kernel)
    exact State.keeps.refl
  · refine State.keeps.step ?_ (restartChain_keeps ..) (by decide +kernel)
    refine State.keeps.step ?_ (startCold_keeps ..) (by decide +kernel)
    exact State.keeps.refl

/-- What `bpStart` may write. -/
def writes_bpStart : Nat :=
  writes_register ||| writes_refreshChain ||| writes_refreshPorts ||| writes_joinOut ||| writes_restart

theorem bpStart_keeps (s : State) (n : ℕ) (d : Decl) :
    State.keeps writes_bpStart s (State.bpStart s n d) := by
  unfold State.bpStart
  extract_lets -merge -underBinder +onlyGivenNames y1
  extract_lets -merge -underBinder +onlyGivenNames s2
  have h2 : State.keeps writes_bpStart s s2 := by
    unfold s2
    refine State.keeps.step ?_ (updBp_keeps ..) (by decide +kernel)
    exact State.keeps.refl
  try clear_value s2
  extract_lets -merge -underBinder +onlyGivenNames s3
  have h3 : State.keeps writes_bpStart s s3 := by
    unfold s3
    refine State.keeps.step ?_ (register_keeps ..) (by decide +kernel)
    refine State.keeps.step ?_ (refreshChain_keeps ..) (by decide +kernel)
    refine State.keeps.wr ?_ (by decide +kernel)
    exact h2
  try clear_value s3
  refine State.keeps.step ?_ (refreshPorts_keeps ..) (by decide +kernel)
  refine State.keeps.step ?_ (joinOut_keeps ..) (by decide +kernel)
  refine State.keeps.step ?_ (restart_keeps ..) (by decide +kernel)
  refine State.keeps.step ?_ (updBp_keeps ..) (by decide +kernel)
  exact h3

/-- What `bpPass` may write. -/
def writes_bpPass : Nat :=
  writes [.BP_STATUS_PENDING, .BP_STATUS_REJECT] [] ||| writes_bpStart

theorem bpPass_keeps (s : State) (n : ℕ) (d : Decl) (live : Bool) :
    State.keeps writes_bpPass s (State.bpPass s n d live) := by
  unfold State.bpPass
  extract_lets -merge -underBinder +onlyGivenNames s1
  have h1 : State.keeps writes_bpPass s s1 := by
    unfold s1
    refine State.keeps.step ?_ (updBp_keeps ..) (by decide +kernel)
    refine State.keeps.wr ?_ (by decide +kernel)
    exact State.keeps.refl
  try clear_value s1
  refine State.keeps.ite (fun _ => ?_) (fun _ => ?_)
  · refine State.keeps.ite (fun _ => ?_) (fun _ => ?_)
    · refine State.keeps.step ?_ (updBp_keeps ..) (by decide +kernel)
      exact h1
    · refine State.keeps.step ?_ (bpStart_keeps ..) (by decide +kernel)
      refine State.keeps.wr ?_ (by decide +kernel)
      exact h1
  · refine State.keeps.ite (fun _ => ?_) (fun _ => ?_)
    · refine State.keeps.step ?_ (updBp_keeps ..) (by decide +kernel)
      exact h1
    · refine State.keeps.wr ?_ (by decide +kernel)
      refine State.keeps.step ?_ (refreshChain_keeps ..) (by decide +kernel)
      refine State.keeps.step ?_ (updBp_keeps ..) (by decide +kernel)
      exact h1

/-- What `checkDone` may write. -/
def writes_checkDone : Nat :=
  writes_bpPass

theorem checkDone_keeps (s : State) (n : ℕ) :
    State.keeps writes_checkDone s (State.checkDone s n) := by
  unfold State.checkDone
  split
  · exact State.keeps.refl
  · refine State.keeps.ite (fun _ => ?_) (fun _ => ?_)
    · exact State.keeps.refl
    · extract_lets -merge -underBinder +onlyGivenNames y1
      refine State.keeps.ite (fun _ => ?_) (fun _ => ?_)
      · refine State.keeps.step ?_ (bpReject_keeps ..) (by decide +kernel)
        exact State.keeps.refl
      · refine State.keeps.ite (fun _ => ?_) (fun _ => ?_)
        · refine State.keeps.step ?_ (bpReject_keeps ..) (by decide +kernel)
          exact State.keeps.refl
        · refine State.keeps.step ?_ (bpPass_keeps ..) (by decide +kernel)
          exact State.keeps.refl

/-- What `execBpCheckDone` may write. -/
def writes_execBpCheckDone : Nat :=
  writes_checkDone

theorem execBpCheckDone_keeps (n : Sys2Proof.BpIx) (s : State) :
    State.answers writes_execBpCheckDone s (execBpCheckDone n s) := by
  unfold execBpCheckDone
  refine State.answers.next ?_
  refine State.keeps.step ?_ (checkDone_keeps ..) (by decide +kernel)
  exact State.keeps.refl

/-- What `bpApply` may write. -/
def writes_bpApply : Nat :=
  writes [.BP_STATUS_BUSY] [] ||| writes_bpReject ||| writes_sendSubReq

theorem bpApply_keeps (s : State) (n : ℕ) :
    State.keeps writes_bpApply s (State.bpApply s n) := by
  unfold State.bpApply
  refine State.keeps.ite (fun _ => ?_) (fun _ => ?_)
  · refine State.keeps.wr ?_ (by decide +kernel)
    exact State.keeps.refl
  · extract_lets -merge -underBinder +onlyGivenNames y1
    extract_lets -merge -underBinder +onlyGivenNames y2
    extract_lets -merge -underBinder +onlyGivenNames s3
    have h3 : State.keeps writes_bpApply s s3 := by
      unfold s3
      refine State.keeps.step ?_ (updBp_keeps ..) (by decide +kernel)
      refine State.keeps.wr ?_ (by decide +kernel)
      exact State.keeps.refl
    try clear_value s3
    extract_lets -merge -underBinder +onlyGivenNames y4
    extract_lets -merge -underBinder +onlyGivenNames s5
    have h5 : State.keeps writes_bpApply s s5 := by
      unfold s5
      refine State.keeps.ite (fun _ => ?_) (fun _ => ?_)
      · refine State.keeps.wr ?_ (by decide +kernel)
        exact h3
      · exact h3
    try clear_value s5
    refine State.keeps.ite (fun _ => ?_) (fun _ => ?_)
    · extract_lets -merge -underBinder +onlyGivenNames y6
      refine State.keeps.ite (fun _ => ?_) (fun _ => ?_)
      · refine State.keeps.step ?_ (bpReject_keeps ..) (by decide +kernel)
        exact h5
      · refine State.keeps.ite (fun _ => ?_) (fun _ => ?_)
        · refine State.keeps.step ?_ (sendSubReq_keeps ..) (by decide +kernel)
          exact h5
        · exact h5
    · exact h5

/-- What `bpCancel` may write. -/
def writes_bpCancel : Nat :=
  writes [.BP_STATUS_PENDING, .BP_STATUS_STATE] [] ||| writes_endSub

theorem bpCancel_keeps (s : State) (n : ℕ) :
    State.keeps writes_bpCancel s (State.bpCancel s n) := by
  unfold State.bpCancel
  extract_lets -merge -underBinder +onlyGivenNames s1
  have h1 : State.keeps writes_bpCancel s s1 := by
    unfold s1
    split
    · refine State.keeps.ite (fun _ => ?_) (fun _ => ?_)
      · exact State.keeps.refl
      · refine State.keeps.step ?_ (endSub_keeps ..) (by decide +kernel)
        exact State.keeps.refl
    · exact State.keeps.refl
  try clear_value s1
  extract_lets -merge -underBinder +onlyGivenNames s2
  have h2 : State.keeps writes_bpCancel s s2 := by
    unfold s2
    refine State.keeps.step ?_ (updBp_keeps ..) (by decide +kernel)
    refine State.keeps.wr ?_ (by decide +kernel)
    exact h1
  try clear_value s2
  refine State.keeps.ite (fun _ => ?_) (fun _ => ?_)
  · refine State.keeps.wr ?_ (by decide +kernel)
    exact h2
  · exact h2

/-- What `bpDisable` may write. -/
def writes_bpDisable : Nat :=
  writes [.BP_CTRL_ENABLE] [] ||| writes_bpCancel

theorem bpDisable_keeps (s : State) (n : ℕ) :
    State.keeps writes_bpDisable s (State.bpDisable s n) := by
  unfold State.bpDisable
  extract_lets -merge -underBinder +onlyGivenNames s1
  have h1 : State.keeps writes_bpDisable s s1 := by
    unfold s1
    refine State.keeps.wr ?_ (by decide +kernel)
    refine State.keeps.ite (fun _ => ?_) (fun _ => ?_)
    · refine State.keeps.step ?_ (bpCancel_keeps ..) (by decide +kernel)
      exact State.keeps.refl
    · exact State.keeps.refl
  try clear_value s1
  refine State.keeps.ite (fun _ => ?_) (fun _ => ?_)
  · refine State.keeps.step ?_ (updBp_keeps ..) (by decide +kernel)
    exact h1
  · exact h1

/-- What `bpEnable` may write. -/
def writes_bpEnable : Nat :=
  writes [.BP_CTRL_ENABLE] [] ||| writes_bpApply ||| writes_bpCancel

theorem bpEnable_keeps (s : State) (n : ℕ) :
    State.keeps writes_bpEnable s (State.bpEnable s n) := by
  unfold State.bpEnable
  refine State.keeps.ite (fun _ => ?_) (fun _ => ?_)
  · exact State.keeps.refl
  · refine State.keeps.step ?_ (bpApply_keeps ..) (by decide +kernel)
    refine State.keeps.wr ?_ (by decide +kernel)
    refine State.keeps.ite (fun _ => ?_) (fun _ => ?_)
    · refine State.keeps.step ?_ (bpCancel_keeps ..) (by decide +kernel)
      exact State.keeps.refl
    · exact State.keeps.refl

/-- What `bpWriteCtrl` may write. -/
def writes_bpWriteCtrl : Nat :=
  writes_bpEnable

theorem bpWriteCtrl_keeps (s : State) (n : ℕ) (enable : Bool) (apply : Bool) :
    State.keeps writes_bpWriteCtrl s (State.bpWriteCtrl s n enable apply) := by
  unfold State.bpWriteCtrl
  refine State.keeps.ite (fun _ => ?_) (fun _ => ?_)
  · refine State.keeps.ite (fun _ => ?_) (fun _ => ?_)
    · refine State.keeps.ite (fun _ => ?_) (fun _ => ?_)
      · refine State.keeps.step ?_ (bpApply_keeps ..) (by decide +kernel)
        exact State.keeps.refl
      · exact State.keeps.refl
    · refine State.keeps.step ?_ (bpEnable_keeps ..) (by decide +kernel)
      exact State.keeps.refl
  · extract_lets -merge -underBinder +onlyGivenNames s1
    have h1 : State.keeps writes_bpWriteCtrl s s1 := by
      unfold s1
      refine State.keeps.step ?_ (bpDisable_keeps ..) (by decide +kernel)
      exact State.keeps.refl
    try clear_value s1
    refine State.keeps.ite (fun _ => ?_) (fun _ => ?_)
    · exact h1
    · refine State.keeps.ite (fun _ => ?_) (fun _ => ?_)
      · refine State.keeps.wr ?_ (by decide +kernel)
        exact h1
      · refine State.keeps.step ?_ (bpApply_keeps ..) (by decide +kernel)
        exact h1

/-- What `execBpApply` may write. -/
def writes_execBpApply : Nat :=
  writes_bpApply

theorem execBpApply_keeps (n : Sys2Proof.BpIx) (s : State) :
    State.answers writes_execBpApply s (execBpApply n s) := by
  unfold execBpApply
  refine State.answers.next ?_
  refine State.keeps.step ?_ (bpApply_keeps ..) (by decide +kernel)
  exact State.keeps.refl

/-- What `execBpEnable` may write. -/
def writes_execBpEnable : Nat :=
  writes_bpEnable

theorem execBpEnable_keeps (n : Sys2Proof.BpIx) (s : State) :
    State.answers writes_execBpEnable s (execBpEnable n s) := by
  unfold execBpEnable
  refine State.answers.next ?_
  refine State.keeps.step ?_ (bpEnable_keeps ..) (by decide +kernel)
  exact State.keeps.refl

/-- What `execBpDisable` may write. -/
def writes_execBpDisable : Nat :=
  writes_bpDisable

theorem execBpDisable_keeps (n : Sys2Proof.BpIx) (s : State) :
    State.answers writes_execBpDisable s (execBpDisable n s) := by
  unfold execBpDisable
  refine State.answers.next ?_
  refine State.keeps.step ?_ (bpDisable_keeps ..) (by decide +kernel)
  exact State.keeps.refl

/-- What `bpRetune` may write. -/
def writes_bpRetune : Nat :=
  writes [.BP_STATUS_PENDING] [] ||| writes_refreshPorts ||| writes_refreshChain ||| writes_restart |||
    writes_register

theorem bpRetune_keeps (s : State) (n : ℕ) (d : Decl) :
    State.keeps writes_bpRetune s (State.bpRetune s n d) := by
  unfold State.bpRetune
  extract_lets -merge -underBinder +onlyGivenNames y1
  extract_lets -merge -underBinder +onlyGivenNames s2
  have h2 : State.keeps writes_bpRetune s s2 := by
    unfold s2
    refine State.keeps.step ?_ (refreshPorts_keeps ..) (by decide +kernel)
    refine State.keeps.step ?_ (refreshChain_keeps ..) (by decide +kernel)
    refine State.keeps.wr ?_ (by decide +kernel)
    refine State.keeps.step ?_ (updBp_keeps ..) (by decide +kernel)
    exact State.keeps.refl
  try clear_value s2
  extract_lets -merge -underBinder +onlyGivenNames y3
  refine State.keeps.ite (fun _ => ?_) (fun _ => ?_)
  · refine State.keeps.step ?_ (restart_keeps ..) (by decide +kernel)
    refine State.keeps.step ?_ (register_keeps ..) (by decide +kernel)
    exact h2
  · refine State.keeps.ite (fun _ => ?_) (fun _ => ?_)
    · extract_lets -merge -underBinder +onlyGivenNames s4
      have h4 : State.keeps writes_bpRetune s s4 := by
        unfold s4
        refine State.keeps.ite (fun _ => ?_) (fun _ => ?_)
        · refine State.keeps.step ?_ (updBp_keeps ..) (by decide +kernel)
          exact h2
        · exact h2
      try clear_value s4
      refine State.keeps.step ?_ (startCold_keeps ..) (by decide +kernel)
      exact h4
    · exact h2

/-- What `execBpDeclarationApply` may write. -/
def writes_execBpDeclarationApply : Nat :=
  writes_bpRetune

theorem execBpDeclarationApply_keeps (n : Sys2Proof.BpIx) (s : State) :
    State.answers writes_execBpDeclarationApply s (execBpDeclarationApply n s) := by
  unfold execBpDeclarationApply
  refine State.answers.next ?_
  split
  · refine State.keeps.ite (fun _ => ?_) (fun _ => ?_)
    · refine State.keeps.step ?_ (bpRetune_keeps ..) (by decide +kernel)
      exact State.keeps.refl
    · exact State.keeps.refl
  · exact State.keeps.refl

/-- What `bpStop` may write. -/
def writes_bpStop : Nat :=
  writes [.BP_STATUS_PENDING, .BP_STATUS_STATE] [] ||| writes_endSub ||| writes_releaseAll |||
    writes_leaveDelay ||| writes_engineOff ||| writes_chzOff ||| writes_refreshChain ||| writes_refreshPorts

theorem bpStop_keeps (s : State) (n : ℕ) :
    State.keeps writes_bpStop s (State.bpStop s n) := by
  unfold State.bpStop
  extract_lets -merge -underBinder +onlyGivenNames y1
  extract_lets -merge -underBinder +onlyGivenNames y2
  extract_lets -merge -underBinder +onlyGivenNames s3
  have h3 : State.keeps writes_bpStop s s3 := by
    unfold s3
    refine State.keeps.step ?_ (updBp_keeps ..) (by decide +kernel)
    refine State.keeps.step ?_ (endSub_keeps ..) (by decide +kernel)
    refine State.keeps.step ?_ (releaseAll_keeps ..) (by decide +kernel)
    exact State.keeps.refl
  try clear_value s3
  extract_lets -merge -underBinder +onlyGivenNames s4
  have h4 : State.keeps writes_bpStop s s4 := by
    unfold s4
    refine State.keeps.step ?_ (leaveDelay_keeps ..) (by decide +kernel)
    refine State.keeps.step ?_ (engineOff_keeps ..) (by decide +kernel)
    refine State.keeps.step ?_ (chzOff_keeps ..) (by decide +kernel)
    exact h3
  try clear_value s4
  extract_lets -merge -underBinder +onlyGivenNames s5
  have h5 : State.keeps writes_bpStop s s5 := by
    unfold s5
    refine State.keeps.ite (fun _ => ?_) (fun _ => ?_)
    · refine State.keeps.step ?_ (colStatus_keeps ..) (by decide +kernel)
      exact h4
    · exact h4
  try clear_value s5
  extract_lets -merge -underBinder +onlyGivenNames s6
  have h6 : State.keeps writes_bpStop s s6 := by
    unfold s6
    refine State.keeps.ite (fun _ => ?_) (fun _ => ?_)
    · exact h5
    · refine State.keeps.wr ?_ (by decide +kernel)
      exact h5
  try clear_value s6
  extract_lets -merge -underBinder +onlyGivenNames s7
  have h7 : State.keeps writes_bpStop s s7 := by
    unfold s7
    refine State.keeps.ite (fun _ => ?_) (fun _ => ?_)
    · refine State.keeps.step ?_ (refreshChain_keeps ..) (by decide +kernel)
      refine State.keeps.wr ?_ (by decide +kernel)
      exact h6
    · exact h6
  try clear_value s7
  refine State.keeps.step ?_ (refreshPorts_keeps ..) (by decide +kernel)
  exact h7

/-- What `execBpStop` may write. -/
def writes_execBpStop : Nat :=
  writes_bpStop

theorem execBpStop_keeps (n : Sys2Proof.BpIx) (s : State) :
    State.answers writes_execBpStop s (execBpStop n s) := by
  unfold execBpStop
  refine State.answers.next ?_
  refine State.keeps.ite (fun _ => ?_) (fun _ => ?_)
  · refine State.keeps.step ?_ (bpStop_keeps ..) (by decide +kernel)
    exact State.keeps.refl
  · exact State.keeps.refl

/-- What `bpFence` may write. -/
def writes_bpFence : Nat :=
  writes [.BP_STATUS_STATE] [] ||| writes_raise ||| writes_leaveDelay

theorem bpFence_keeps (s : State) (n : ℕ) :
    State.keeps writes_bpFence s (State.bpFence s n) := by
  unfold State.bpFence
  refine State.keeps.ite (fun _ => ?_) (fun _ => ?_)
  · exact State.keeps.refl
  · refine State.keeps.step ?_ (raise_keeps ..) (by decide +kernel)
    refine State.keeps.step ?_ (updBp_keeps ..) (by decide +kernel)
    refine State.keeps.step ?_ (chzStop_keeps ..) (by decide +kernel)
    refine State.keeps.step ?_ (leaveDelay_keeps ..) (by decide +kernel)
    refine State.keeps.wr ?_ (by decide +kernel)
    exact State.keeps.refl

/-- What `bpRelease` may write. -/
def writes_bpRelease : Nat :=
  writes_restart ||| writes_bpStop

theorem bpRelease_keeps (s : State) (n : ℕ) :
    State.keeps writes_bpRelease s (State.bpRelease s n) := by
  unfold State.bpRelease
  refine State.keeps.ite (fun _ => ?_) (fun _ => ?_)
  · exact State.keeps.refl
  · refine State.keeps.ite (fun _ => ?_) (fun _ => ?_)
    · refine State.keeps.wr ?_ (by decide +kernel)
      exact State.keeps.refl
    · refine State.keeps.ite (fun _ => ?_) (fun _ => ?_)
      · extract_lets -merge -underBinder +onlyGivenNames s1
        have h1 : State.keeps writes_bpRelease s s1 := by
          unfold s1
          refine State.keeps.wr ?_ (by decide +kernel)
          exact State.keeps.refl
        try clear_value s1
        refine State.keeps.ite (fun _ => ?_) (fun _ => ?_)
        · refine State.keeps.step ?_ (restart_keeps ..) (by decide +kernel)
          exact h1
        · refine State.keeps.step ?_ (restartChain_keeps ..) (by decide +kernel)
          exact h1
      · refine State.keeps.wr ?_ (by decide +kernel)
        refine State.keeps.step ?_ (bpStop_keeps ..) (by decide +kernel)
        exact State.keeps.refl

/-- What `capture` may write. -/
def writes_capture : Nat :=
  writes [.DMA_COUNT_LOST] [.rings] ||| writes_tileWritten

theorem capture_keeps (s : State) (n : ℕ) (tap : ℕ) (g : Sys2Proof.Grain) :
    State.keeps writes_capture s (State.capture s n tap g) := by
  unfold State.capture
  refine State.keeps.forEach ?_ (fun x1 s1 h1 => ?_)
  · exact State.keeps.refl
  · try beta_reduce
    refine State.keeps.ite (fun _ => ?_) (fun _ => ?_)
    · extract_lets -merge -underBinder +onlyGivenNames y2
      refine State.keeps.ite (fun _ => ?_) (fun _ => ?_)
      · refine State.keeps.step ?_ (setRing_keeps ..) (by decide +kernel)
        refine State.keeps.wr ?_ (by decide +kernel)
        exact h1
      · extract_lets -merge -underBinder +onlyGivenNames y3
        extract_lets -merge -underBinder +onlyGivenNames y4
        extract_lets -merge -underBinder +onlyGivenNames s5
        have h5 : State.keeps writes_capture s s5 := by
          unfold s5
          refine State.keeps.ite (fun _ => ?_) (fun _ => ?_)
          · refine State.keeps.step ?_ (tileWritten_keeps ..) (by decide +kernel)
            exact h1
          · exact h1
        try clear_value s5
        refine State.keeps.step ?_ (setRing_keeps ..) (by decide +kernel)
        exact h5
    · exact h1

/-- What `takePowers` may write. -/
def writes_takePowers : Nat :=
  writes [] [.bps]

theorem takePowers_keeps (s : State) (n : ℕ) (ys : List Sys2Proof.IQ) (valid : BitVec 64) :
    State.keeps writes_takePowers s (State.takePowers s n ys valid) := by
  unfold State.takePowers
  extract_lets -merge -underBinder +onlyGivenNames y1
  refine State.keeps.step ?_ (updBp_keeps ..) (by decide +kernel)
  exact State.keeps.refl

/-- What `takeSamples` may write. -/
def writes_takeSamples : Nat :=
  writes [] [.bps]

theorem takeSamples_keeps (s : State) (n : ℕ) (xs : List Sys2Proof.IQ) (ys : List Sys2Proof.IQ) (valid : BitVec 64) :
    State.keeps writes_takeSamples s (State.takeSamples s n xs ys valid) := by
  unfold State.takeSamples
  extract_lets -merge -underBinder +onlyGivenNames y1
  extract_lets -merge -underBinder +onlyGivenNames y2
  extract_lets -merge -underBinder +onlyGivenNames y3
  refine State.keeps.step ?_ (updBp_keeps ..) (by decide +kernel)
  exact State.keeps.refl

/-- What `tallySlots` may write. -/
def writes_tallySlots : Nat :=
  writes_tally

theorem tallySlots_keeps (s : State) (n : ℕ) (slots : ℕ) (valid : ℕ) (muted : Bool) :
    State.keeps writes_tallySlots s (State.tallySlots s n slots valid muted) := by
  unfold State.tallySlots
  extract_lets -merge -underBinder +onlyGivenNames s1
  have h1 : State.keeps writes_tallySlots s s1 := by
    unfold s1
    refine State.keeps.step ?_ (tally_keeps ..) (by decide +kernel)
    exact State.keeps.refl
  try clear_value s1
  refine State.keeps.ite (fun _ => ?_) (fun _ => ?_)
  · refine State.keeps.step ?_ (tally_keeps ..) (by decide +kernel)
    exact h1
  · refine State.keeps.step ?_ (tally_keeps ..) (by decide +kernel)
    refine State.keeps.step ?_ (tally_keeps ..) (by decide +kernel)
    exact h1

/-- What `sendGrain` may write. -/
def writes_sendGrain : Nat :=
  writes_sendFrame

theorem sendGrain_keeps (s : State) (n : ℕ) (g : Sys2Proof.Grain) :
    State.keeps writes_sendGrain s (State.sendGrain s n g) := by
  unfold State.sendGrain
  extract_lets -merge -underBinder +onlyGivenNames y1
  split
  · split
    · exact State.keeps.refl
    · extract_lets -merge -underBinder +onlyGivenNames y2
      extract_lets -merge -underBinder +onlyGivenNames y3
      refine State.keeps.ite (fun _ => ?_) (fun _ => ?_)
      · refine State.keeps.wr ?_ (by decide +kernel)
        exact State.keeps.refl
      · extract_lets -merge -underBinder +onlyGivenNames y4
        refine State.keeps.step ?_ (sendFrame_keeps ..) (by decide +kernel)
        exact State.keeps.refl
  · exact State.keeps.refl

/-- What `publish` may write. -/
def writes_publish : Nat :=
  writes [] [.bps] ||| writes_sendGrain

theorem publish_keeps (s : State) (n : ℕ) (g : Sys2Proof.Grain) :
    State.keeps writes_publish s (State.publish s n g) := by
  unfold State.publish
  extract_lets -merge -underBinder +onlyGivenNames s1
  have h1 : State.keeps writes_publish s s1 := by
    unfold s1
    refine State.keeps.step ?_ (tally_keeps ..) (by decide +kernel)
    refine State.keeps.step ?_ (updBp_keeps ..) (by decide +kernel)
    exact State.keeps.refl
  try clear_value s1
  refine State.keeps.step ?_ (sendGrain_keeps ..) (by decide +kernel)
  refine State.keeps.step ?_ (tallySlots_keeps ..) (by decide +kernel)
  exact h1

/-- What `emitOne` may write. -/
def writes_emitOne : Nat :=
  writes [.BP_STATUS_SUBST_GRAINS] [] ||| writes_txGrain ||| writes_tallySlots

theorem emitOne_keeps (s : State) (n : ℕ) (h : Held) :
    State.keeps writes_emitOne s (State.emitOne s n h) := by
  unfold State.emitOne
  extract_lets -merge -underBinder +onlyGivenNames y1
  extract_lets -merge -underBinder +onlyGivenNames y2
  extract_lets -merge -underBinder +onlyGivenNames y3
  extract_lets -merge -underBinder +onlyGivenNames y4
  extract_lets -merge -underBinder +onlyGivenNames y5
  extract_lets -merge -underBinder +onlyGivenNames y6
  extract_lets -merge -underBinder +onlyGivenNames y7
  extract_lets -merge -underBinder +onlyGivenNames y8
  extract_lets -merge -underBinder +onlyGivenNames y9
  extract_lets -merge -underBinder +onlyGivenNames s10
  have h10 : State.keeps writes_emitOne s s10 := by
    unfold s10
    refine State.keeps.step ?_ (updBp_keeps ..) (by decide +kernel)
    exact State.keeps.refl
  try clear_value s10
  extract_lets -merge -underBinder +onlyGivenNames y11
  extract_lets -merge -underBinder +onlyGivenNames s12
  have h12 : State.keeps writes_emitOne s s12 := by
    unfold s12
    refine State.keeps.ite (fun _ => ?_) (fun _ => ?_)
    · refine State.keeps.step ?_ (txGrain_keeps ..) (by decide +kernel)
      refine State.keeps.wr ?_ (by decide +kernel)
      refine State.keeps.step ?_ (tallySlots_keeps ..) (by decide +kernel)
      exact h10
    · exact h10
  try clear_value s12
  extract_lets -merge -underBinder +onlyGivenNames s13
  have h13 : State.keeps writes_emitOne s s13 := by
    unfold s13
    refine State.keeps.step ?_ (txGrain_keeps ..) (by decide +kernel)
    refine State.keeps.step ?_ (tallySlots_keeps ..) (by decide +kernel)
    exact h12
  try clear_value s13
  refine State.keeps.ite (fun _ => ?_) (fun _ => ?_)
  · refine State.keeps.wr ?_ (by decide +kernel)
    exact h13
  · exact h13

/-- What `emitAll` may write. -/
def writes_emitAll : Nat :=
  writes_emitOne

theorem emitAll_keeps (s : State) (n k : Nat) : State.keeps writes_emitAll s (State.emitAll s n k) := by
  induction k generalizing s with
  | zero => exact State.keeps.refl
  | succ k ih =>
    unfold State.emitAll
    split
    · exact State.keeps.refl
    · refine State.keeps.ite (fun _ => State.keeps.refl) (fun _ => ?_)
      exact (State.keeps.refl.step (emitOne_keeps ..) (by decide +kernel)).trans (ih _)

/-- What `emitReady` may write. -/
def writes_emitReady : Nat :=
  writes_emitAll

theorem emitReady_keeps (s : State) (n : ℕ) :
    State.keeps writes_emitReady s (State.emitReady s n) := by
  unfold State.emitReady
  refine State.keeps.step ?_ (emitAll_keeps ..) (by decide +kernel)
  exact State.keeps.refl

/-- What `emitNothing` may write. -/
def writes_emitNothing : Nat :=
  writes [.BP_STATUS_SUBST_GRAINS] [.bps] ||| writes_tallySlots

theorem emitNothing_keeps (s : State) (n : ℕ) (g : Sys2Proof.Grain) :
    State.keeps writes_emitNothing s (State.emitNothing s n g) := by
  unfold State.emitNothing
  refine State.keeps.wr ?_ (by decide +kernel)
  refine State.keeps.step ?_ (tallySlots_keeps ..) (by decide +kernel)
  refine State.keeps.step ?_ (updBp_keeps ..) (by decide +kernel)
  exact State.keeps.refl

/-- What `holdGrain` may write. -/
def writes_holdGrain : Nat :=
  writes_tileWritten ||| writes_emitReady

theorem holdGrain_keeps (s : State) (n : ℕ) (pos : ℕ) (grid : ℤ) (g : Sys2Proof.Grain) :
    State.keeps writes_holdGrain s (State.holdGrain s n pos grid g) := by
  unfold State.holdGrain
  extract_lets -merge -underBinder +onlyGivenNames s1
  have h1 : State.keeps writes_holdGrain s s1 := by
    unfold s1
    refine State.keeps.ite (fun _ => ?_) (fun _ => ?_)
    · refine State.keeps.step ?_ (tileWritten_keeps ..) (by decide +kernel)
      exact State.keeps.refl
    · exact State.keeps.refl
  try clear_value s1
  refine State.keeps.step ?_ (emitReady_keeps ..) (by decide +kernel)
  refine State.keeps.step ?_ (updBp_keeps ..) (by decide +kernel)
  exact h1

/-- What `advanceAck` may write. -/
def writes_advanceAck : Nat :=
  writes [] [.bps]

theorem advanceAck_keeps (s : State) (n : ℕ) :
    State.keeps writes_advanceAck s (State.advanceAck s n) := by
  unfold State.advanceAck
  extract_lets -merge -underBinder +onlyGivenNames y1
  split
  · refine State.keeps.step ?_ (updBp_keeps ..) (by decide +kernel)
    exact State.keeps.refl
  · extract_lets -merge -underBinder +onlyGivenNames y2
    refine State.keeps.step ?_ (updBp_keeps ..) (by decide +kernel)
    exact State.keeps.refl
  · exact State.keeps.refl

/-- What `deliver` may write. -/
def writes_deliver : Nat :=
  writes [.BP_STATUS_STATE] [] ||| writes_capture ||| writes_publish ||| writes_holdGrain

theorem deliver_keeps (s : State) (n : ℕ) (pos : ℕ) (grid : Option ℤ) (g : Sys2Proof.Grain) :
    State.keeps writes_deliver s (State.deliver s n pos grid g) := by
  unfold State.deliver
  extract_lets -merge -underBinder +onlyGivenNames s1
  have h1 : State.keeps writes_deliver s s1 := by
    unfold s1
    refine State.keeps.step ?_ (updBp_keeps ..) (by decide +kernel)
    refine State.keeps.step ?_ (capture_keeps ..) (by decide +kernel)
    exact State.keeps.refl
  try clear_value s1
  extract_lets -merge -underBinder +onlyGivenNames s2
  have h2 : State.keeps writes_deliver s s2 := by
    unfold s2
    refine State.keeps.ite (fun _ => ?_) (fun _ => ?_)
    · refine State.keeps.step ?_ (publish_keeps ..) (by decide +kernel)
      exact h1
    · split
      · refine State.keeps.ite (fun _ => ?_) (fun _ => ?_)
        · refine State.keeps.step ?_ (emitNothing_keeps ..) (by decide +kernel)
          exact h1
        · refine State.keeps.step ?_ (holdGrain_keeps ..) (by decide +kernel)
          exact h1
      · refine State.keeps.step ?_ (emitNothing_keeps ..) (by decide +kernel)
        exact h1
  try clear_value s2
  refine State.keeps.ite (fun _ => ?_) (fun _ => ?_)
  · refine State.keeps.wr ?_ (by decide +kernel)
    exact h2
  · exact h2

/-- What `tallyConverter` may write. -/
def writes_tallyConverter : Nat :=
  writes_tally

theorem tallyConverter_keeps (s : State) (n : ℕ) (count : ℕ) :
    State.keeps writes_tallyConverter s (State.tallyConverter s n count) := by
  unfold State.tallyConverter
  extract_lets -merge -underBinder +onlyGivenNames y1
  refine State.keeps.ite (fun _ => ?_) (fun _ => ?_)
  · refine State.keeps.step ?_ (tally_keeps ..) (by decide +kernel)
    exact State.keeps.refl
  · exact State.keeps.refl

/-- What `gainGrain` may write. -/
def writes_gainGrain : Nat :=
  writes_ceilingReview ||| writes_overload

theorem gainGrain_keeps (s : State) (n : ℕ) (g : ℕ) (xs : List Sys2Proof.IQ) (valid : BitVec 64) :
    State.keepsP writes_gainGrain s (State.gainGrain s n g xs valid) := by
  unfold State.gainGrain
  extract_lets -merge -underBinder +onlyGivenNames y1
  extract_lets -merge -underBinder +onlyGivenNames y2
  extract_lets -merge -underBinder +onlyGivenNames y3
  refine State.keepsP.mk ?_
  refine State.keeps.step ?_ (tally_keeps ..) (by decide +kernel)
  refine State.keeps.step ?_ (ceilingReview_keeps ..) (by decide +kernel)
  refine State.keeps.step ?_ (overload_keeps ..) (by decide +kernel)
  refine State.keeps.step ?_ (takePowers_keeps ..) (by decide +kernel)
  refine State.keeps.step ?_ (takeSamples_keeps ..) (by decide +kernel)
  exact State.keeps.refl

/-- What `windowGrain` may write. -/
def writes_windowGrain : Nat :=
  writes [.BP_STATUS_LATE] [] ||| writes_gainGrain ||| writes_deliver ||| writes_acceptGrain

theorem windowGrain_keeps (s : State) (n : ℕ) (i : Sys2Proof.GrainInput) :
    State.keeps writes_windowGrain s (State.windowGrain s n i) := by
  unfold State.windowGrain
  extract_lets -merge -underBinder +onlyGivenNames y1
  extract_lets -merge -underBinder +onlyGivenNames y2
  extract_lets -merge -underBinder +onlyGivenNames y3
  extract_lets -merge -underBinder +onlyGivenNames y4
  extract_lets -merge -underBinder +onlyGivenNames y5
  extract_lets -merge -underBinder +onlyGivenNames y6
  extract_lets -merge -underBinder +onlyGivenNames y7
  extract_lets -merge -underBinder +onlyGivenNames s8
  have h8 : State.keepsP writes_windowGrain s s8 := by
    unfold s8
    refine State.keepsP.step ?_ (gainGrain_keeps ..) (by decide +kernel)
    exact State.keeps.refl
  try clear_value s8
  extract_lets -merge -underBinder +onlyGivenNames y9
  extract_lets -merge -underBinder +onlyGivenNames y10
  extract_lets -merge -underBinder +onlyGivenNames s11
  have h11 : State.keeps writes_windowGrain s s11 := by
    unfold s11
    refine State.keepsP.fst ?_
    exact h8
  try clear_value s11
  extract_lets -merge -underBinder +onlyGivenNames y12
  extract_lets -merge -underBinder +onlyGivenNames y13
  extract_lets -merge -underBinder +onlyGivenNames y14
  extract_lets -merge -underBinder +onlyGivenNames s15
  have h15 : State.keeps writes_windowGrain s s15 := by
    unfold s15
    refine State.keeps.step ?_ (tallyConverter_keeps ..) (by decide +kernel)
    refine State.keeps.step ?_ (updBp_keeps ..) (by decide +kernel)
    refine State.keeps.step ?_ (capture_keeps ..) (by decide +kernel)
    exact h11
  try clear_value s15
  extract_lets -merge -underBinder +onlyGivenNames s16
  have h16 : State.keeps writes_windowGrain s s16 := by
    unfold s16
    refine State.keeps.ite (fun _ => ?_) (fun _ => ?_)
    · exact h15
    · refine State.keeps.step ?_ (tally_keeps ..) (by decide +kernel)
      exact h15
  try clear_value s16
  extract_lets -merge -underBinder +onlyGivenNames y17
  refine State.keeps.ite (fun _ => ?_) (fun _ => ?_)
  · refine State.keeps.step ?_ (deliver_keeps ..) (by decide +kernel)
    exact h16
  · extract_lets -merge -underBinder +onlyGivenNames y18
    refine State.keeps.ite (fun _ => ?_) (fun _ => ?_)
    · refine State.keeps.step ?_ (deliver_keeps ..) (by decide +kernel)
      refine State.keeps.step ?_ (updBp_keeps ..) (by decide +kernel)
      refine State.keeps.step ?_ (tally_keeps ..) (by decide +kernel)
      refine State.keeps.wr ?_ (by decide +kernel)
      exact h16
    · extract_lets -merge -underBinder +onlyGivenNames y19
      extract_lets -merge -underBinder +onlyGivenNames s20
      have h20 : State.keepsP writes_windowGrain s s20 := by
        unfold s20
        refine State.keepsP.step ?_ (acceptGrain_keeps ..) (by decide +kernel)
        exact h16
      try clear_value s20
      refine State.keeps.step ?_ (deliver_keeps ..) (by decide +kernel)
      refine State.keepsP.fst ?_
      exact h20

/-- What `laneGrain` may write. -/
def writes_laneGrain : Nat :=
  writes_gainGrain ||| writes_deliver

theorem laneGrain_keeps (s : State) (n : ℕ) (h : Held) :
    State.keeps writes_laneGrain s (State.laneGrain s n h) := by
  unfold State.laneGrain
  extract_lets -merge -underBinder +onlyGivenNames y1
  extract_lets -merge -underBinder +onlyGivenNames y2
  extract_lets -merge -underBinder +onlyGivenNames y3
  extract_lets -merge -underBinder +onlyGivenNames s4
  have h4 : State.keepsP writes_laneGrain s s4 := by
    unfold s4
    refine State.keepsP.step ?_ (gainGrain_keeps ..) (by decide +kernel)
    exact State.keeps.refl
  try clear_value s4
  extract_lets -merge -underBinder +onlyGivenNames y5
  extract_lets -merge -underBinder +onlyGivenNames y6
  extract_lets -merge -underBinder +onlyGivenNames y7
  extract_lets -merge -underBinder +onlyGivenNames s8
  have h8 : State.keeps writes_laneGrain s s8 := by
    unfold s8
    refine State.keeps.step ?_ (updBp_keeps ..) (by decide +kernel)
    refine State.keeps.step ?_ (capture_keeps ..) (by decide +kernel)
    refine State.keepsP.fst ?_
    exact h4
  try clear_value s8
  refine State.keeps.step ?_ (deliver_keeps ..) (by decide +kernel)
  exact h8

/-- What `execGrainPeriod` may write. -/
def writes_execGrainPeriod : Nat :=
  writes_windowGrain

theorem execGrainPeriod_keeps (n : Sys2Proof.BpIx) (g : Sys2Proof.GrainInput) (s : State) :
    State.answers writes_execGrainPeriod s (execGrainPeriod n g s) := by
  unfold execGrainPeriod
  refine State.answers.next ?_
  refine State.keeps.ite (fun _ => ?_) (fun _ => ?_)
  · exact State.keeps.refl
  · refine State.keeps.ite (fun _ => ?_) (fun _ => ?_)
    · refine State.keeps.ite (fun _ => ?_) (fun _ => ?_)
      · refine State.keeps.step ?_ (windowGrain_keeps ..) (by decide +kernel)
        exact State.keeps.refl
      · exact State.keeps.refl
    · split
      · refine State.keeps.step ?_ (laneGrain_keeps ..) (by decide +kernel)
        exact State.keeps.refl
      · exact State.keeps.refl

/-- What `execGrainMissing` may write. -/
def writes_execGrainMissing : Nat :=
  writes [.BP_STATUS_GAP] [] ||| writes_deliver

theorem execGrainMissing_keeps (n : Sys2Proof.BpIx) (s : State) :
    State.answers writes_execGrainMissing s (execGrainMissing n s) := by
  unfold execGrainMissing
  extract_lets -merge -underBinder +onlyGivenNames y1
  refine State.answers.next ?_
  split
  · exact State.keeps.refl
  · refine State.keeps.ite (fun _ => ?_) (fun _ => ?_)
    · exact State.keeps.refl
    · extract_lets -merge -underBinder +onlyGivenNames y2
      extract_lets -merge -underBinder +onlyGivenNames s3
      have h3 : State.keeps writes_execGrainMissing s s3 := by
        unfold s3
        refine State.keeps.step ?_ (updBp_keeps ..) (by decide +kernel)
        refine State.keeps.step ?_ (tally_keeps ..) (by decide +kernel)
        refine State.keeps.wr ?_ (by decide +kernel)
        exact State.keeps.refl
      try clear_value s3
      refine State.keeps.step ?_ (advanceAck_keeps ..) (by decide +kernel)
      refine State.keeps.step ?_ (deliver_keeps ..) (by decide +kernel)
      exact h3

/-- What `execNoGrains` may write. -/
def writes_execNoGrains : Nat :=
  writes_enterLost

theorem execNoGrains_keeps (n : Sys2Proof.BpIx) (s : State) :
    State.answers writes_execNoGrains s (execNoGrains n s) := by
  unfold execNoGrains
  refine State.answers.next ?_
  refine State.keeps.ite (fun _ => ?_) (fun _ => ?_)
  · exact State.keeps.refl
  · extract_lets -merge -underBinder +onlyGivenNames s1
    have h1 : State.keeps writes_execNoGrains s s1 := by
      unfold s1
      refine State.keeps.ite (fun _ => ?_) (fun _ => ?_)
      · exact State.keeps.refl
      · refine State.keeps.step ?_ (sendFault_keeps ..) (by decide +kernel)
        exact State.keeps.refl
    try clear_value s1
    refine State.keeps.ite (fun _ => ?_) (fun _ => ?_)
    · refine State.keeps.ite (fun _ => ?_) (fun _ => ?_)
      · refine State.keeps.step ?_ (enterLost_keeps ..) (by decide +kernel)
        exact h1
      · exact h1
    · refine State.keeps.step ?_ (enterInvalid_keeps ..) (by decide +kernel)
      exact h1

/-- What `lateGrain` may write. -/
def writes_lateGrain : Nat :=
  writes [.BP_STATUS_LATE] [.bps] ||| writes_tally

theorem lateGrain_keeps (s : State) (n : ℕ) :
    State.keeps writes_lateGrain s (State.lateGrain s n) := by
  unfold State.lateGrain
  refine State.keeps.step ?_ (updBp_keeps ..) (by decide +kernel)
  refine State.keeps.step ?_ (tally_keeps ..) (by decide +kernel)
  refine State.keeps.wr ?_ (by decide +kernel)
  exact State.keeps.refl

/-- What `arriveGrain` may write. -/
def writes_arriveGrain : Nat :=
  writes [.FLO_COUNT1_DUP_GRAINS, .FLO_STATUS_TS_BAD] [] ||| writes_sendFault ||| writes_leaveInvalid |||
    writes_lateGrain ||| writes_acceptGrain

theorem arriveGrain_keeps (s : State) (n : ℕ) (g : Sys2Proof.Grain) :
    State.keeps writes_arriveGrain s (State.arriveGrain s n g) := by
  unfold State.arriveGrain
  extract_lets -merge -underBinder +onlyGivenNames y1
  extract_lets -merge -underBinder +onlyGivenNames y2
  refine State.keeps.ite (fun _ => ?_) (fun _ => ?_)
  · refine State.keeps.step ?_ (sendFault_keeps ..) (by decide +kernel)
    refine State.keeps.wr ?_ (by decide +kernel)
    exact State.keeps.refl
  · extract_lets -merge -underBinder +onlyGivenNames y3
    extract_lets -merge -underBinder +onlyGivenNames s4
    have h4 : State.keeps writes_arriveGrain s s4 := by
      unfold s4
      refine State.keeps.step ?_ (sendClear_keeps ..) (by decide +kernel)
      refine State.keeps.step ?_ (updBp_keeps ..) (by decide +kernel)
      exact State.keeps.refl
    try clear_value s4
    extract_lets -merge -underBinder +onlyGivenNames s5
    have h5 : State.keeps writes_arriveGrain s s5 := by
      unfold s5
      refine State.keeps.ite (fun _ => ?_) (fun _ => ?_)
      · exact h4
      · refine State.keeps.step ?_ (leaveInvalid_keeps ..) (by decide +kernel)
        exact h4
    try clear_value s5
    refine State.keeps.ite (fun _ => ?_) (fun _ => ?_)
    · refine State.keeps.wr ?_ (by decide +kernel)
      exact h5
    · extract_lets -merge -underBinder +onlyGivenNames y6
      extract_lets -merge -underBinder +onlyGivenNames y7
      extract_lets -merge -underBinder +onlyGivenNames y8
      extract_lets -merge -underBinder +onlyGivenNames s9
      have h9 : State.keeps writes_arriveGrain s s9 := by
        unfold s9
        refine State.keeps.ite (fun _ => ?_) (fun _ => ?_)
        · refine State.keeps.step ?_ (updBp_keeps ..) (by decide +kernel)
          exact h5
        · exact h5
      try clear_value s9
      refine State.keeps.ite (fun _ => ?_) (fun _ => ?_)
      · exact h9
      · refine State.keeps.ite (fun _ => ?_) (fun _ => ?_)
        · refine State.keeps.step ?_ (lateGrain_keeps ..) (by decide +kernel)
          exact h9
        · extract_lets -merge -underBinder +onlyGivenNames s10
          have h10 : State.keeps writes_arriveGrain s s10 := by
            unfold s10
            refine State.keeps.ite (fun _ => ?_) (fun _ => ?_)
            · refine State.keeps.step ?_ (updBp_keeps ..) (by decide +kernel)
              exact h9
            · exact h9
          try clear_value s10
          extract_lets -merge -underBinder +onlyGivenNames y11
          extract_lets -merge -underBinder +onlyGivenNames y12
          extract_lets -merge -underBinder +onlyGivenNames s13
          have h13 : State.keepsP writes_arriveGrain s s13 := by
            unfold s13
            refine State.keepsP.ite (fun _ => ?_) (fun _ => ?_)
            · refine State.keepsP.mk ?_
              refine State.keeps.step ?_ (updBp_keeps ..) (by decide +kernel)
              exact h10
            · refine State.keepsP.step ?_ (acceptGrain_keeps ..) (by decide +kernel)
              exact h10
          try clear_value s13
          refine State.keeps.step ?_ (advanceAck_keeps ..) (by decide +kernel)
          refine State.keeps.step ?_ (updBp_keeps ..) (by decide +kernel)
          refine State.keepsP.fst ?_
          exact h13

/-- What `gorgeTick` may write. -/
def writes_gorgeTick : Nat :=
  writes_emitReady

theorem gorgeTick_keeps (s : State) (n : ℕ) :
    State.keeps writes_gorgeTick s (State.gorgeTick s n) := by
  unfold State.gorgeTick
  refine State.keeps.ite (fun _ => ?_) (fun _ => ?_)
  · refine State.keeps.step ?_ (emitReady_keeps ..) (by decide +kernel)
    exact State.keeps.refl
  · exact State.keeps.refl

end Sys2Proof.Machine
end

