-- ==== Sys2Proof/Laws/CagesKeeps.lean ====
section
/-!
SUPPORT. What each operation of Machine/Cages.lean may write.
-/

namespace Sys2Proof.Machine

set_option Elab.async false

/-- What `laneTrain` may write. -/
def writes_laneTrain : Nat :=
  writes [.LANE_STATUS_STATE] []

theorem laneTrain_keeps (s : State) (l : ℕ) :
    State.keeps writes_laneTrain s (State.laneTrain s l) := by
  unfold State.laneTrain
  refine State.keeps.ite (fun _ => ?_) (fun _ => ?_)
  · refine State.keeps.wr ?_ (by decide +kernel)
    exact State.keeps.refl
  · exact State.keeps.refl

/-- What `execCageInsert` may write. -/
def writes_execCageInsert : Nat :=
  writes [.COL_CAGE_STATUS_IDENT_OK, .COL_CAGE_STATUS_INSERTIONS, .COL_CAGE_STATUS_LOW_POWER,
    .COL_CAGE_STATUS_PRESENT] [.cages]

theorem execCageInsert_keeps (c : Sys2Proof.CageIx) (s : State) :
    State.answers writes_execCageInsert s (execCageInsert c s) := by
  unfold execCageInsert
  refine State.answers.next ?_
  refine State.keeps.step ?_ (setCage_keeps ..) (by decide +kernel)
  refine State.keeps.wr ?_ (by decide +kernel)
  refine State.keeps.wr ?_ (by decide +kernel)
  refine State.keeps.wr ?_ (by decide +kernel)
  refine State.keeps.wr ?_ (by decide +kernel)
  exact State.keeps.refl

/-- What `execCageIdentified` may write. -/
def writes_execCageIdentified : Nat :=
  writes [.COL_CAGE_STATUS_IDENT_OK, .COL_CAGE_STATUS_IDENT_REFUSED, .COL_CAGE_STATUS_LOW_POWER,
    .COL_CAGE_STATUS_POWER_REFUSED] [.cages] ||| writes_laneTrain ||| writes_sendFault

theorem execCageIdentified_keeps (c : Sys2Proof.CageIx) (i : Sys2Proof.CageIdent) (s : State) :
    State.answers writes_execCageIdentified s (execCageIdentified c i s) := by
  unfold execCageIdentified
  refine State.answers.next ?_
  refine State.keeps.ite (fun _ => ?_) (fun _ => ?_)
  · exact State.keeps.refl
  · refine State.keeps.ite (fun _ => ?_) (fun _ => ?_)
    · refine State.keeps.forEach ?_ (fun x1 s1 h1 => ?_)
      · refine State.keeps.wr ?_ (by decide +kernel)
        refine State.keeps.wr ?_ (by decide +kernel)
        refine State.keeps.step ?_ (setCage_keeps ..) (by decide +kernel)
        exact State.keeps.refl
      · try beta_reduce
        refine State.keeps.step ?_ (laneTrain_keeps ..) (by decide +kernel)
        exact h1
    · extract_lets -merge -underBinder +onlyGivenNames y2
      extract_lets -merge -underBinder +onlyGivenNames s3
      have h3 : State.keeps writes_execCageIdentified s s3 := by
        unfold s3
        refine State.keeps.step ?_ (setCage_keeps ..) (by decide +kernel)
        exact State.keeps.refl
      try clear_value s3
      extract_lets -merge -underBinder +onlyGivenNames s4
      have h4 : State.keeps writes_execCageIdentified s s4 := by
        unfold s4
        refine State.keeps.ite (fun _ => ?_) (fun _ => ?_)
        · exact h3
        · refine State.keeps.wr ?_ (by decide +kernel)
          exact h3
      try clear_value s4
      extract_lets -merge -underBinder +onlyGivenNames s5
      have h5 : State.keeps writes_execCageIdentified s s5 := by
        unfold s5
        refine State.keeps.ite (fun _ => ?_) (fun _ => ?_)
        · refine State.keeps.wr ?_ (by decide +kernel)
          exact h4
        · exact h4
      try clear_value s5
      refine State.keeps.step ?_ (sendFault_keeps ..) (by decide +kernel)
      exact h5

/-- What `execCageRemove` may write. -/
def writes_execCageRemove : Nat :=
  writes [.COL_CAGE_STATUS_IDENT_OK, .COL_CAGE_STATUS_LOW_POWER, .COL_CAGE_STATUS_PRESENT] [] ||| writes_failLane

theorem execCageRemove_keeps (c : Sys2Proof.CageIx) (s : State) :
    State.answers writes_execCageRemove s (execCageRemove c s) := by
  unfold execCageRemove
  extract_lets -merge -underBinder +onlyGivenNames s1
  have h1 : State.keeps writes_execCageRemove s s1 := by
    unfold s1
    refine State.keeps.wr ?_ (by decide +kernel)
    refine State.keeps.wr ?_ (by decide +kernel)
    refine State.keeps.wr ?_ (by decide +kernel)
    exact State.keeps.refl
  try clear_value s1
  extract_lets -merge -underBinder +onlyGivenNames s2
  have h2 : State.keeps writes_execCageRemove s s2 := by
    unfold s2
    refine State.keeps.forEach ?_ (fun x3 s3 h3 => ?_)
    · exact h1
    · try beta_reduce
      refine State.keeps.ite (fun _ => ?_) (fun _ => ?_)
      · refine State.keeps.step ?_ (failLane_keeps ..) (by decide +kernel)
        exact h3
      · refine State.keeps.ite (fun _ => ?_) (fun _ => ?_)
        · exact h3
        · refine State.keeps.step ?_ (laneOut_keeps ..) (by decide +kernel)
          exact h3
  try clear_value s2
  refine State.answers.next ?_
  refine State.keeps.foldl ?_ (fun s4 x4 h4 => ?_)
  · refine State.keeps.step ?_ (setCage_keeps ..) (by decide +kernel)
    exact h2
  · try beta_reduce
    refine State.keeps.step ?_ (sendClear_keeps ..) (by decide +kernel)
    exact h4

/-- What `monitorLane` may write. -/
def writes_monitorLane : Nat :=
  writes [.LANE_OPT_RX_PWR, .LANE_OPT_TX_BIAS, .LANE_STATUS_RX_LOW] [] ||| writes_failLane

theorem monitorLane_keeps (s : State) (l : ℕ) (i : ℕ) (m : Sys2Proof.CageRead) :
    State.keeps writes_monitorLane s (State.monitorLane s l i m) := by
  unfold State.monitorLane
  extract_lets -merge -underBinder +onlyGivenNames s1
  have h1 : State.keeps writes_monitorLane s s1 := by
    unfold s1
    refine State.keeps.wr ?_ (by decide +kernel)
    refine State.keeps.wr ?_ (by decide +kernel)
    refine State.keeps.wr ?_ (by decide +kernel)
    exact State.keeps.refl
  try clear_value s1
  extract_lets -merge -underBinder +onlyGivenNames s2
  have h2 : State.keeps writes_monitorLane s s2 := by
    unfold s2
    refine State.keeps.ite (fun _ => ?_) (fun _ => ?_)
    · refine State.keeps.wr ?_ (by decide +kernel)
      exact h1
    · exact h1
  try clear_value s2
  refine State.keeps.ite (fun _ => ?_) (fun _ => ?_)
  · refine State.keeps.wr ?_ (by decide +kernel)
    refine State.keeps.step ?_ (failLane_keeps ..) (by decide +kernel)
    exact h2
  · exact h2

/-- What `execCageMonitor` may write. -/
def writes_execCageMonitor : Nat :=
  writes [.COL_CAGE_MON_TEMP, .COL_CAGE_MON_VCC, .COL_CAGE_STATUS_LOW_POWER, .COL_CAGE_STATUS_MGMT_FAIL,
    .COL_CAGE_STATUS_TEMP_ALARM] [] ||| writes_monitorLane

theorem execCageMonitor_keeps (c : Sys2Proof.CageIx) (m : Sys2Proof.CageRead) (s : State) :
    State.answers writes_execCageMonitor s (execCageMonitor c m s) := by
  unfold execCageMonitor
  refine State.answers.next ?_
  refine State.keeps.ite (fun _ => ?_) (fun _ => ?_)
  · exact State.keeps.refl
  · refine State.keeps.ite (fun _ => ?_) (fun _ => ?_)
    · extract_lets -merge -underBinder +onlyGivenNames s1
      have h1 : State.keeps writes_execCageMonitor s s1 := by
        unfold s1
        refine State.keeps.wr ?_ (by decide +kernel)
        exact State.keeps.refl
      try clear_value s1
      refine State.keeps.ite (fun _ => ?_) (fun _ => ?_)
      · exact h1
      · refine State.keeps.step ?_ (sendFault_keeps ..) (by decide +kernel)
        exact h1
    · refine State.keeps.ite (fun _ => ?_) (fun _ => ?_)
      · refine State.keeps.step ?_ (sendClear_keeps ..) (by decide +kernel)
        exact State.keeps.refl
      · extract_lets -merge -underBinder +onlyGivenNames s2
        have h2 : State.keeps writes_execCageMonitor s s2 := by
          unfold s2
          refine State.keeps.forEach ?_ (fun x3 s3 h3 => ?_)
          · refine State.keeps.wr ?_ (by decide +kernel)
            refine State.keeps.wr ?_ (by decide +kernel)
            refine State.keeps.step ?_ (sendClear_keeps ..) (by decide +kernel)
            exact State.keeps.refl
          · try beta_reduce
            refine State.keeps.step ?_ (monitorLane_keeps ..) (by decide +kernel)
            exact h3
        try clear_value s2
        refine State.keeps.ite (fun _ => ?_) (fun _ => ?_)
        · extract_lets -merge -underBinder +onlyGivenNames s4
          have h4 : State.keeps writes_execCageMonitor s s4 := by
            unfold s4
            refine State.keeps.wr ?_ (by decide +kernel)
            refine State.keeps.wr ?_ (by decide +kernel)
            exact h2
          try clear_value s4
          refine State.keeps.ite (fun _ => ?_) (fun _ => ?_)
          · exact h4
          · refine State.keeps.step ?_ (sendFault_keeps ..) (by decide +kernel)
            exact h4
        · refine State.keeps.step ?_ (sendClear_keeps ..) (by decide +kernel)
          exact h2

/-- What `laneEnterUp` may write. -/
def writes_laneEnterUp : Nat :=
  writes [.LANE_CREDIT1_BULK, .LANE_CREDIT1_MGMT, .LANE_CREDIT_BAND, .LANE_CREDIT_TIME, .LANE_STATUS_STATE,
    .PLB_LSTAT_LROLE] [.cages, .col, .lanes] ||| writes_nextFree ||| writes_refreshLane

theorem laneEnterUp_keeps (s : State) (l : ℕ) :
    State.keeps writes_laneEnterUp s (State.laneEnterUp s l) := by
  unfold State.laneEnterUp
  extract_lets -merge -underBinder +onlyGivenNames y1
  extract_lets -merge -underBinder +onlyGivenNames y2
  extract_lets -merge -underBinder +onlyGivenNames s3
  have h3 : State.keeps writes_laneEnterUp s s3 := by
    unfold s3
    refine State.keeps.foldl ?_ (fun s4 x4 h4 => ?_)
    · refine State.keeps.wr ?_ (by decide +kernel)
      exact State.keeps.refl
    · try beta_reduce
      refine State.keeps.wrTo ?_ ?_
      · unfold creditField; first | decide +kernel | (repeat' split) <;> decide +kernel
      exact h4
  try clear_value s3
  extract_lets -merge -underBinder +onlyGivenNames s5
  have h5 : State.keeps writes_laneEnterUp s s5 := by
    unfold s5
    refine State.keeps.step ?_ (nextFree_keeps ..) (by decide +kernel)
    exact h3
  try clear_value s5
  extract_lets -merge -underBinder +onlyGivenNames y6
  extract_lets -merge -underBinder +onlyGivenNames s7
  have h7 : State.keeps writes_laneEnterUp s s7 := by
    unfold s7
    refine State.keeps.wr ?_ (by decide +kernel)
    refine State.keeps.step ?_ (updLane_keeps ..) (by decide +kernel)
    refine (State.keeps.put_col ?_ _ (by decide +kernel))
    exact h5
  try clear_value s7
  extract_lets -merge -underBinder +onlyGivenNames y8
  extract_lets -merge -underBinder +onlyGivenNames s9
  have h9 : State.keeps writes_laneEnterUp s s9 := by
    unfold s9
    refine State.keeps.ite (fun _ => ?_) (fun _ => ?_)
    · refine State.keeps.step ?_ (setCage_keeps ..) (by decide +kernel)
      exact h7
    · exact h7
  try clear_value s9
  refine State.keeps.step ?_ (refreshLane_keeps ..) (by decide +kernel)
  exact h9

/-- What `laneAdvance` may write. -/
def writes_laneAdvance : Nat :=
  writes [.LANE_STATUS_MISWIRED] [] ||| writes_laneEnterUp

theorem laneAdvance_keeps (s : State) (l : ℕ) :
    State.keeps writes_laneAdvance s (State.laneAdvance s l) := by
  unfold State.laneAdvance
  extract_lets -merge -underBinder +onlyGivenNames s1
  have h1 : State.keeps writes_laneAdvance s s1 := by
    unfold s1
    refine State.keeps.ite (fun _ => ?_) (fun _ => ?_)
    · refine State.keeps.wr ?_ (by decide +kernel)
      exact State.keeps.refl
    · exact State.keeps.refl
  try clear_value s1
  refine State.keeps.ite (fun _ => ?_) (fun _ => ?_)
  · refine State.keeps.ite (fun _ => ?_) (fun _ => ?_)
    · refine State.keeps.wr ?_ (by decide +kernel)
      refine State.keeps.step ?_ (updLane_keeps ..) (by decide +kernel)
      exact h1
    · refine State.keeps.step ?_ (laneEnterUp_keeps ..) (by decide +kernel)
      exact h1
  · exact h1

/-- What `execLaneBlockLock` may write. -/
def writes_execLaneBlockLock : Nat :=
  writes [.LANE_STATUS_BLOCK_LOCK] [] ||| writes_laneAdvance

theorem execLaneBlockLock_keeps (l : Sys2Proof.LaneIx) (s : State) :
    State.answers writes_execLaneBlockLock s (execLaneBlockLock l s) := by
  unfold execLaneBlockLock
  refine State.answers.next ?_
  refine State.keeps.ite (fun _ => ?_) (fun _ => ?_)
  · refine State.keeps.step ?_ (laneAdvance_keeps ..) (by decide +kernel)
    refine State.keeps.wr ?_ (by decide +kernel)
    exact State.keeps.refl
  · exact State.keeps.refl

/-- What `showPeer` may write. -/
def writes_showPeer : Nat :=
  writes [.LANE_PEER_CAGE, .LANE_PEER_LANE, .LANE_PEER_NODE, .LANE_PEER_NODE_VALID] []

theorem showPeer_keeps (s : State) (l : ℕ) (node : ℕ) (valid : Bool) (cage : ℕ) (lane : ℕ) :
    State.keeps writes_showPeer s (State.showPeer s l node valid cage lane) := by
  unfold State.showPeer
  refine State.keeps.wr ?_ (by decide +kernel)
  refine State.keeps.wr ?_ (by decide +kernel)
  refine State.keeps.wr ?_ (by decide +kernel)
  refine State.keeps.wr ?_ (by decide +kernel)
  exact State.keeps.refl

/-- What `execLinkBlock` may write. -/
def writes_execLinkBlock : Nat :=
  writes [.LANE_ERR_BLOCK_ERR] [] ||| writes_laneAdvance ||| writes_showPeer

theorem execLinkBlock_keeps (l : Sys2Proof.LaneIx) (content : BitVec 56) (s : State) :
    State.answers writes_execLinkBlock s (execLinkBlock l content s) := by
  unfold execLinkBlock
  extract_lets -merge -underBinder +onlyGivenNames y1
  refine State.answers.next ?_
  refine State.keeps.ite (fun _ => ?_) (fun _ => ?_)
  · refine State.keeps.wr ?_ (by decide +kernel)
    exact State.keeps.refl
  · refine State.keeps.ite (fun _ => ?_) (fun _ => ?_)
    · exact State.keeps.refl
    · refine State.keeps.step ?_ (laneAdvance_keeps ..) (by decide +kernel)
      refine State.keeps.step ?_ (showPeer_keeps ..) (by decide +kernel)
      refine State.keeps.step ?_ (updLane_keeps ..) (by decide +kernel)
      exact State.keeps.refl

/-- What `execHelloSend` may write. -/
def writes_execHelloSend : Nat :=
  writes [] [.lanes] ||| writes_tally

theorem execHelloSend_keeps (l : Sys2Proof.LaneIx) (s : State) :
    State.answers writes_execHelloSend s (execHelloSend l s) := by
  unfold execHelloSend
  refine State.answers.next ?_
  refine State.keeps.ite (fun _ => ?_) (fun _ => ?_)
  · refine State.keeps.step ?_ (tally_keeps ..) (by decide +kernel)
    refine State.keeps.step ?_ (updLane_keeps ..) (by decide +kernel)
    exact State.keeps.refl
  · exact State.keeps.refl

/-- What `execHello` may write. -/
def writes_execHello : Nat :=
  writes [.COL_COUNT2_MSG_DISCARD, .LANE_PEER_UID_HI_UID_HI, .LANE_PEER_UID_LO_UID_LO, .LANE_STATUS_PROTO] [] |||
    writes_discard ||| writes_showPeer ||| writes_laneAdvance

theorem execHello_keeps (l : Sys2Proof.LaneIx) (f : Sys2Proof.Frame) (s : State) :
    State.answers writes_execHello s (execHello l f s) := by
  unfold execHello
  extract_lets -merge -underBinder +onlyGivenNames y1
  refine State.answers.next ?_
  refine State.keeps.ite (fun _ => ?_) (fun _ => ?_)
  · exact State.keeps.refl
  · refine State.keeps.ite (fun _ => ?_) (fun _ => ?_)
    · refine State.keeps.step ?_ (discard_keeps ..) (by decide +kernel)
      refine State.keeps.wr ?_ (by decide +kernel)
      exact State.keeps.refl
    · refine State.keeps.ite (fun _ => ?_) (fun _ => ?_)
      · exact State.keeps.refl
      · extract_lets -merge -underBinder +onlyGivenNames y2
        extract_lets -merge -underBinder +onlyGivenNames y3
        extract_lets -merge -underBinder +onlyGivenNames s4
        have h4 : State.keeps writes_execHello s s4 := by
          unfold s4
          refine State.keeps.step ?_ (updLane_keeps ..) (by decide +kernel)
          refine State.keeps.step ?_ (tally_keeps ..) (by decide +kernel)
          refine State.keeps.step ?_ (wr2_keeps ..) (by decide +kernel)
          refine State.keeps.step ?_ (showPeer_keeps ..) (by decide +kernel)
          exact State.keeps.refl
        try clear_value s4
        extract_lets -merge -underBinder +onlyGivenNames y5
        refine State.keeps.ite (fun _ => ?_) (fun _ => ?_)
        · refine State.keeps.wr ?_ (by decide +kernel)
          exact h4
        · refine State.keeps.ite (fun _ => ?_) (fun _ => ?_)
          · refine State.keeps.wr ?_ (by decide +kernel)
            exact h4
          · refine State.keeps.step ?_ (laneAdvance_keeps ..) (by decide +kernel)
            refine State.keeps.step ?_ (updLane_keeps ..) (by decide +kernel)
            exact h4

/-- What `execCreditBlock` may write. -/
def writes_execCreditBlock : Nat :=
  writes_failLane

theorem execCreditBlock_keeps (l : Sys2Proof.LaneIx) (content : BitVec 56) (s : State) :
    State.answers writes_execCreditBlock s (execCreditBlock l content s) := by
  unfold execCreditBlock
  extract_lets -merge -underBinder +onlyGivenNames y1
  refine State.answers.next ?_
  refine State.keeps.ite (fun _ => ?_) (fun _ => ?_)
  · refine State.keeps.wr ?_ (by decide +kernel)
    exact State.keeps.refl
  · refine State.keeps.ite (fun _ => ?_) (fun _ => ?_)
    · exact State.keeps.refl
    · extract_lets -merge -underBinder +onlyGivenNames y2
      extract_lets -merge -underBinder +onlyGivenNames y3
      extract_lets -merge -underBinder +onlyGivenNames y4
      refine State.keeps.ite (fun _ => ?_) (fun _ => ?_)
      · refine State.keeps.step ?_ (failLane_keeps ..) (by decide +kernel)
        exact State.keeps.refl
      · extract_lets -merge -underBinder +onlyGivenNames s5
        have h5 : State.keeps writes_execCreditBlock s s5 := by
          unfold s5
          refine State.keeps.foldl ?_ (fun s6 x6 h6 => ?_)
          · exact State.keeps.refl
          · try beta_reduce
            refine State.keeps.wrTo ?_ ?_
            · unfold creditField; first | decide +kernel | (repeat' split) <;> decide +kernel
            exact h6
        try clear_value s5
        extract_lets -merge -underBinder +onlyGivenNames s7
        have h7 : State.keeps writes_execCreditBlock s s7 := by
          unfold s7
          refine State.keeps.step ?_ (updLane_keeps ..) (by decide +kernel)
          exact h5
        try clear_value s7
        refine State.keeps.step ?_ (pump_keeps ..) (by decide +kernel)
        exact h7

/-- What `execLaneFail` may write. -/
def writes_execLaneFail : Nat :=
  writes_failLane

theorem execLaneFail_keeps (l : Sys2Proof.LaneIx) (cause : Sys2Proof.LaneCause) (s : State) :
    State.answers writes_execLaneFail s (execLaneFail l cause s) := by
  unfold execLaneFail
  refine State.answers.next ?_
  refine State.keeps.step ?_ (failLane_keeps ..) (by decide +kernel)
  exact State.keeps.refl

/-- What `writeLaneEn` may write. -/
def writes_writeLaneEn : Nat :=
  writes [.LANE_CTRL_EN] [] ||| writes_laneOut

theorem writeLaneEn_keeps (s : State) (l : ℕ) (on : Bool) :
    State.keeps writes_writeLaneEn s (State.writeLaneEn s l on) := by
  unfold State.writeLaneEn
  refine State.keeps.ite (fun _ => ?_) (fun _ => ?_)
  · refine State.keeps.step ?_ (laneTrain_keeps ..) (by decide +kernel)
    refine State.keeps.wr ?_ (by decide +kernel)
    exact State.keeps.refl
  · refine State.keeps.step ?_ (laneOut_keeps ..) (by decide +kernel)
    refine State.keeps.wr ?_ (by decide +kernel)
    exact State.keeps.refl

/-- What `retrainLane` may write. -/
def writes_retrainLane : Nat :=
  writes_laneOut

theorem retrainLane_keeps (s : State) (l : ℕ) :
    State.keeps writes_retrainLane s (State.retrainLane s l) := by
  unfold State.retrainLane
  refine State.keeps.ite (fun _ => ?_) (fun _ => ?_)
  · exact State.keeps.refl
  · refine State.keeps.step ?_ (laneOut_keeps ..) (by decide +kernel)
    exact State.keeps.refl

/-- What `execLaneEnable` may write. -/
def writes_execLaneEnable : Nat :=
  writes_writeLaneEn

theorem execLaneEnable_keeps (l : Sys2Proof.LaneIx) (s : State) :
    State.answers writes_execLaneEnable s (execLaneEnable l s) := by
  unfold execLaneEnable
  refine State.answers.next ?_
  refine State.keeps.step ?_ (writeLaneEn_keeps ..) (by decide +kernel)
  exact State.keeps.refl

/-- What `execLaneDisable` may write. -/
def writes_execLaneDisable : Nat :=
  writes_writeLaneEn

theorem execLaneDisable_keeps (l : Sys2Proof.LaneIx) (s : State) :
    State.answers writes_execLaneDisable s (execLaneDisable l s) := by
  unfold execLaneDisable
  refine State.answers.next ?_
  refine State.keeps.step ?_ (writeLaneEn_keeps ..) (by decide +kernel)
  exact State.keeps.refl

/-- What `execRetrain` may write. -/
def writes_execRetrain : Nat :=
  writes_retrainLane

theorem execRetrain_keeps (l : Sys2Proof.LaneIx) (s : State) :
    State.answers writes_execRetrain s (execRetrain l s) := by
  unfold execRetrain
  refine State.answers.next ?_
  refine State.keeps.step ?_ (retrainLane_keeps ..) (by decide +kernel)
  exact State.keeps.refl

/-- What `execFrameErr` may write. -/
def writes_execFrameErr : Nat :=
  writes_frameError

theorem execFrameErr_keeps (l : Sys2Proof.LaneIx) (cls : Fin 4) (len : Fin 65) (s : State) :
    State.answers writes_execFrameErr s (execFrameErr l cls len s) := by
  unfold execFrameErr
  refine State.answers.next ?_
  refine State.keeps.step ?_ (frameError_keeps ..) (by decide +kernel)
  exact State.keeps.refl

/-- What `execUnresTimeout` may write. -/
def writes_execUnresTimeout : Nat :=
  writes [.LANE_STATUS_UNRES_DROP] [] ||| writes_tally ||| writes_freeBlocks

theorem execUnresTimeout_keeps (l : Sys2Proof.LaneIx) (s : State) :
    State.answers writes_execUnresTimeout s (execUnresTimeout l s) := by
  unfold execUnresTimeout
  extract_lets -merge -underBinder +onlyGivenNames y1
  extract_lets -merge -underBinder +onlyGivenNames y2
  refine State.answers.next ?_
  split
  · exact State.keeps.refl
  · extract_lets -merge -underBinder +onlyGivenNames s3
    have h3 : State.keeps writes_execUnresTimeout s s3 := by
      unfold s3
      refine State.keeps.step ?_ (tally_keeps ..) (by decide +kernel)
      refine State.keeps.wr ?_ (by decide +kernel)
      refine State.keeps.step ?_ (updLane_keeps ..) (by decide +kernel)
      exact State.keeps.refl
    try clear_value s3
    split
    · refine State.keeps.step ?_ (freeBlocks_keeps ..) (by decide +kernel)
      exact h3
    · exact h3

end Sys2Proof.Machine
end

