-- ==== Sys2Proof/Laws/ColKeeps.lean ====
section
/-!
SUPPORT. What each operation of Machine/Col.lean may write.
-/

namespace Sys2Proof.Machine

set_option Elab.async false

/-- What `extendEntry` may write. -/
def writes_extendEntry : Nat :=
  writes_putMember ||| writes_setEntry

theorem extendEntry_keeps (s : State) (e : Entry) (n : ℕ) :
    State.keepsP writes_extendEntry s (State.extendEntry s e n) := by
  unfold State.extendEntry
  split
  · refine State.keepsP.mk ?_
    exact State.keeps.refl
  · refine State.keepsP.ite (fun _ => ?_) (fun _ => ?_)
    · refine State.keepsP.mk ?_
      exact State.keeps.refl
    · extract_lets -merge -underBinder +onlyGivenNames y1
      extract_lets -merge -underBinder +onlyGivenNames y2
      refine State.keepsP.mk ?_
      refine State.keeps.foldl ?_ (fun s3 x3 h3 => ?_)
      · refine State.keeps.step ?_ (setEntry_keeps ..) (by decide +kernel)
        exact State.keeps.refl
      · try beta_reduce
        refine State.keeps.step ?_ (putMember_keeps ..) (by decide +kernel)
        exact h3

/-- What `entryFor` may write. -/
def writes_entryFor : Nat :=
  writes_extendEntry

theorem entryFor_keeps (s : State) (l : ℕ) (f : Sys2Proof.Frame) :
    State.keepsP writes_entryFor s (State.entryFor s l f) := by
  unfold State.entryFor
  split
  · extract_lets -merge -underBinder +onlyGivenNames y1
    extract_lets -merge -underBinder +onlyGivenNames s2
    have h2 : State.keeps writes_entryFor s s2 := by
      unfold s2
      refine State.keeps.ite (fun _ => ?_) (fun _ => ?_)
      · exact State.keeps.refl
      · refine State.keeps.step ?_ (setEntry_keeps ..) (by decide +kernel)
        exact State.keeps.refl
    try clear_value s2
    extract_lets -merge -underBinder +onlyGivenNames s3
    have h3 : State.keepsP writes_entryFor s s3 := by
      unfold s3
      refine State.keepsP.step ?_ (extendEntry_keeps ..) (by decide +kernel)
      exact h2
    try clear_value s3
    refine State.keepsP.mk ?_
    refine State.keepsP.fst ?_
    exact h3
  · split
    · refine State.keepsP.mk ?_
      exact State.keeps.refl
    · extract_lets -merge -underBinder +onlyGivenNames s4
      have h4 : State.keepsP writes_entryFor s s4 := by
        unfold s4
        refine State.keepsP.step ?_ (extendEntry_keeps ..) (by decide +kernel)
        exact State.keeps.refl
      try clear_value s4
      refine State.keepsP.mk ?_
      refine State.keepsP.fst ?_
      exact h4

/-- What `forwardFrame` may write. -/
def writes_forwardFrame : Nat :=
  writes [.COL_COUNT1_HOP_DROP] [] ||| writes_routeQ ||| writes_entryFor

theorem forwardFrame_keeps (s : State) (l : ℕ) (f : Sys2Proof.Frame) :
    State.keeps writes_forwardFrame s (State.forwardFrame s l f) := by
  unfold State.forwardFrame
  extract_lets -merge -underBinder +onlyGivenNames y1
  unfold y1
  try beta_reduce
  refine State.keeps.ite (fun _ => ?_) (fun _ => ?_)
  · refine State.keeps.step ?_ (freeBlocks_keeps ..) (by decide +kernel)
    refine State.keeps.step ?_ (discard_keeps ..) (by decide +kernel)
    refine State.keeps.wr ?_ (by decide +kernel)
    exact State.keeps.refl
  · refine State.keeps.ite (fun _ => ?_) (fun _ => ?_)
    · refine State.keeps.step ?_ (freeBlocks_keeps ..) (by decide +kernel)
      refine State.keeps.step ?_ (discard_keeps ..) (by decide +kernel)
      refine State.keeps.wr ?_ (by decide +kernel)
      exact State.keeps.refl
    · refine State.keeps.ite (fun _ => ?_) (fun _ => ?_)
      · refine State.keeps.step ?_ (routeQ_keeps ..) (by decide +kernel)
        exact State.keeps.refl
      · refine State.keeps.ite (fun _ => ?_) (fun _ => ?_)
        · refine State.keeps.step ?_ (freeBlocks_keeps ..) (by decide +kernel)
          refine State.keeps.step ?_ (discard_keeps ..) (by decide +kernel)
          refine State.keeps.wr ?_ (by decide +kernel)
          exact State.keeps.refl
        · extract_lets -merge -underBinder +onlyGivenNames s2
          have h2 : State.keepsP writes_forwardFrame s s2 := by
            unfold s2
            refine State.keepsP.step ?_ (entryFor_keeps ..) (by decide +kernel)
            exact State.keeps.refl
          try clear_value s2
          split
          · refine State.keeps.step ?_ (freeBlocks_keeps ..) (by decide +kernel)
            refine State.keeps.step ?_ (discard_keeps ..) (by decide +kernel)
            refine State.keeps.wr ?_ (by decide +kernel)
            refine State.keepsP.fst ?_
            exact h2
          · split
            · refine State.keeps.step ?_ (freeBlocks_keeps ..) (by decide +kernel)
              refine State.keeps.step ?_ (discard_keeps ..) (by decide +kernel)
              refine State.keeps.wr ?_ (by decide +kernel)
              refine State.keepsP.fst ?_
              exact h2
            · extract_lets -merge -underBinder +onlyGivenNames y3
              refine State.keeps.step ?_ (queueFrame_keeps ..) (by decide +kernel)
              refine State.keepsP.fst ?_
              exact h2

/-- What `execFrameForward` may write. -/
def writes_execFrameForward : Nat :=
  writes_receive ||| writes_forwardFrame

theorem execFrameForward_keeps (l : Sys2Proof.LaneIx) (f : Sys2Proof.Frame) (s : State) :
    State.answers writes_execFrameForward s (execFrameForward l f s) := by
  unfold execFrameForward
  refine State.answers.next ?_
  refine State.keeps.ite (fun _ => ?_) (fun _ => ?_)
  · exact State.keeps.refl
  · refine receive_keeps (by decide +kernel) ?_ (fun s1 h1 => ?_)
    · exact State.keeps.refl
    · refine State.keeps.step ?_ (forwardFrame_keeps ..) (by decide +kernel)
      exact h1

/-- What `deliverFrame` may write. -/
def writes_deliverFrame : Nat :=
  writes_receive ||| writes_forwardFrame

theorem deliverFrame_keeps {ws : Nat} {sb : State} {s : State} {l : ℕ} {f : Sys2Proof.Frame} {act : State → State}
    (hm : writes_deliverFrame ||| ws = ws) (hs : State.keeps ws sb s)
    (h_act : ∀ t, State.keeps ws sb t → State.keeps ws sb (act t)) :
    State.keeps ws sb (State.deliverFrame s l f act) := by
  unfold State.deliverFrame
  refine State.keeps.ite (fun _ => ?_) (fun _ => ?_)
  · refine receive_keeps (sub_of hm (by decide +kernel)) ?_ (fun s1 h1 => ?_)
    · exact hs
    · refine h_act _ ?_
      exact h1
  · refine receive_keeps (sub_of hm (by decide +kernel)) ?_ (fun s2 h2 => ?_)
    · exact hs
    · refine State.keeps.step ?_ (forwardFrame_keeps ..) (sub_of hm (by decide +kernel))
      exact h2

/-- What `onMsg` may write. -/
def writes_onMsg : Nat :=
  writes [.COL_COUNT2_MSG_DISCARD] [] ||| writes_deliverFrame

theorem onMsg_keeps {ws : Nat} {sb : State} {s : State} {l : ℕ} {f : Sys2Proof.Frame} {m : ℕ} {act : State → State}
    (hm : writes_onMsg ||| ws = ws) (hs : State.keeps ws sb s)
    (h_act : ∀ t, State.keeps ws sb t → State.keeps ws sb (act t)) :
    State.keeps ws sb (State.onMsg s l f m act) := by
  unfold State.onMsg
  refine deliverFrame_keeps (sub_of hm (by decide +kernel)) ?_ (fun s1 h1 => ?_)
  · exact hs
  · refine State.keeps.ite (fun _ => ?_) (fun _ => ?_)
    · exact h1
    · refine State.keeps.ite (fun _ => ?_) (fun _ => ?_)
      · refine State.keeps.step ?_ (discard_keeps ..) (sub_of hm (by decide +kernel))
        refine State.keeps.wr ?_ (inSet_of hm (by decide +kernel))
        exact h1
      · refine State.keeps.ite (fun _ => ?_) (fun _ => ?_)
        · refine h_act _ ?_
          exact h1
        · exact h1

/-- What `execMsgDiscard` may write. -/
def writes_execMsgDiscard : Nat :=
  writes [.COL_COUNT2_MSG_DISCARD] [] ||| writes_deliverFrame

theorem execMsgDiscard_keeps (l : Sys2Proof.LaneIx) (f : Sys2Proof.Frame) (s : State) :
    State.answers writes_execMsgDiscard s (execMsgDiscard l f s) := by
  unfold execMsgDiscard
  refine State.answers.next ?_
  refine deliverFrame_keeps (by decide +kernel) ?_ (fun s1 h1 => ?_)
  · exact State.keeps.refl
  · refine State.keeps.step ?_ (discard_keeps ..) (by decide +kernel)
    refine State.keeps.wr ?_ (by decide +kernel)
    exact h1

/-- What `execBulkFrame` may write. -/
def writes_execBulkFrame : Nat :=
  writes_deliverFrame

theorem execBulkFrame_keeps (l : Sys2Proof.LaneIx) (f : Sys2Proof.Frame) (s : State) :
    State.answers writes_execBulkFrame s (execBulkFrame l f s) := by
  unfold execBulkFrame
  refine State.answers.next ?_
  refine deliverFrame_keeps (by decide +kernel) ?_ (fun s1 h1 => ?_)
  · exact State.keeps.refl
  · refine (State.keeps.put_col ?_ _ (by decide +kernel))
    exact h1

/-- What `execBandFrameReceive` may write. -/
def writes_execBandFrameReceive : Nat :=
  writes_deliverFrame ||| writes_arriveGrain

theorem execBandFrameReceive_keeps (l : Sys2Proof.LaneIx) (f : Sys2Proof.Frame) (s : State) :
    State.answers writes_execBandFrameReceive s (execBandFrameReceive l f s) := by
  unfold execBandFrameReceive
  refine State.answers.next ?_
  refine State.keeps.ite (fun _ => ?_) (fun _ => ?_)
  · exact State.keeps.refl
  · refine deliverFrame_keeps (by decide +kernel) ?_ (fun s1 h1 => ?_)
    · exact State.keeps.refl
    · split
      · refine State.keeps.step ?_ (discard_keeps ..) (by decide +kernel)
        exact h1
      · extract_lets -merge -underBinder +onlyGivenNames s2
        have h2 : State.keeps writes_execBandFrameReceive s s2 := by
          unfold s2
          split
          · refine State.keeps.ite (fun _ => ?_) (fun _ => ?_)
            · exact h1
            · refine State.keeps.step ?_ (setEntry_keeps ..) (by decide +kernel)
              exact h1
          · refine State.keeps.step ?_ (setEntry_keeps ..) (by decide +kernel)
            exact h1
        try clear_value s2
        refine State.keeps.forEach ?_ (fun x3 s3 h3 => ?_)
        · exact h2
        · try beta_reduce
          refine State.keeps.step ?_ (arriveGrain_keeps ..) (by decide +kernel)
          exact h3

/-- What `codesRestart` may write. -/
def writes_codesRestart : Nat :=
  writes_saddleRestart

theorem codesRestart_keeps (s : State) :
    State.keeps writes_codesRestart s (State.codesRestart s) := by
  unfold State.codesRestart
  refine State.keeps.forEach ?_ (fun x1 s1 h1 => ?_)
  · exact State.keeps.refl
  · try beta_reduce
    refine State.keeps.ite (fun _ => ?_) (fun _ => ?_)
    · refine State.keeps.step ?_ (saddleRestart_keeps ..) (by decide +kernel)
      exact h1
    · exact h1

/-- What `changeAddr` may write. -/
def writes_changeAddr : Nat :=
  writes [.COL_COUNT2_ADDR_CHANGES, .COL_NODE_ADDR, .COL_NODE_VALID] [] ||| writes_releaseAll |||
    writes_bpReject ||| writes_endSub ||| writes_codesRestart ||| writes_record

theorem changeAddr_keeps (s : State) (new : Option ℕ) :
    State.keeps writes_changeAddr s (State.changeAddr s new) := by
  unfold State.changeAddr
  extract_lets -merge -underBinder +onlyGivenNames y1
  extract_lets -merge -underBinder +onlyGivenNames s2
  have h2 : State.keeps writes_changeAddr s s2 := by
    unfold s2
    refine State.keeps.forEach ?_ (fun x3 s3 h3 => ?_)
    · exact State.keeps.refl
    · try beta_reduce
      extract_lets -merge -underBinder +onlyGivenNames y4
      extract_lets -merge -underBinder +onlyGivenNames s5
      have h5 : State.keeps writes_changeAddr s s5 := by
        unfold s5
        refine State.keeps.ite (fun _ => ?_) (fun _ => ?_)
        · refine State.keeps.step ?_ (updBp_keeps ..) (by decide +kernel)
          refine State.keeps.step ?_ (releaseAll_keeps ..) (by decide +kernel)
          exact h3
        · exact h3
      try clear_value s5
      refine State.keeps.ite (fun _ => ?_) (fun _ => ?_)
      · extract_lets -merge -underBinder +onlyGivenNames y6
        refine State.keeps.step ?_ (bpReject_keeps ..) (by decide +kernel)
        refine State.keeps.step ?_ (endSub_keeps ..) (by decide +kernel)
        exact h5
      · refine State.keeps.step ?_ (endSub_keeps ..) (by decide +kernel)
        exact h5
  try clear_value s2
  extract_lets -merge -underBinder +onlyGivenNames s7
  have h7 : State.keeps writes_changeAddr s s7 := by
    unfold s7
    refine State.keeps.wr ?_ (by decide +kernel)
    refine State.keeps.wr ?_ (by decide +kernel)
    exact h2
  try clear_value s7
  refine State.keeps.step ?_ (codesRestart_keeps ..) (by decide +kernel)
  refine State.keeps.step ?_ (record_keeps ..) (by decide +kernel)
  refine State.keeps.wr ?_ (by decide +kernel)
  exact h7

/-- What `takeAddr` may write. -/
def writes_takeAddr : Nat :=
  writes_sendClear ||| writes_changeAddr

theorem takeAddr_keeps (s : State) (a : ℕ) :
    State.keeps writes_takeAddr s (State.takeAddr s a) := by
  unfold State.takeAddr
  extract_lets -merge -underBinder +onlyGivenNames y1
  extract_lets -merge -underBinder +onlyGivenNames s2
  have h2 : State.keeps writes_takeAddr s s2 := by
    unfold s2
    refine State.keeps.step ?_ (sendClear_keeps ..) (by decide +kernel)
    refine (State.keeps.put_col ?_ _ (by decide +kernel))
    exact State.keeps.refl
  try clear_value s2
  refine State.keeps.ite (fun _ => ?_) (fun _ => ?_)
  · refine State.keeps.step ?_ (changeAddr_keeps ..) (by decide +kernel)
    exact h2
  · extract_lets -merge -underBinder +onlyGivenNames y3
    extract_lets -merge -underBinder +onlyGivenNames s4
    have h4 : State.keeps writes_takeAddr s s4 := by
      unfold s4
      refine (State.keeps.put_col ?_ _ (by decide +kernel))
      exact h2
    try clear_value s4
    refine State.keeps.step ?_ (codesRestart_keeps ..) (by decide +kernel)
    refine State.keeps.wr ?_ (by decide +kernel)
    refine State.keeps.wr ?_ (by decide +kernel)
    exact h4

/-- What `checkConflict` may write. -/
def writes_checkConflict : Nat :=
  writes [.COL_STATUS_ADDR_CONFLICT] [] ||| writes_changeAddr ||| writes_sendFault

theorem checkConflict_keeps (s : State) (r : LsaRec) :
    State.keeps writes_checkConflict s (State.checkConflict s r) := by
  unfold State.checkConflict
  refine State.keeps.ite (fun _ => ?_) (fun _ => ?_)
  · exact State.keeps.refl
  · extract_lets -merge -underBinder +onlyGivenNames s1
    have h1 : State.keeps writes_checkConflict s s1 := by
      unfold s1
      refine State.keeps.step ?_ (changeAddr_keeps ..) (by decide +kernel)
      exact State.keeps.refl
    try clear_value s1
    refine State.keeps.ite (fun _ => ?_) (fun _ => ?_)
    · refine (State.keeps.put_col ?_ _ (by decide +kernel))
      exact h1
    · extract_lets -merge -underBinder +onlyGivenNames s2
      have h2 : State.keeps writes_checkConflict s s2 := by
        unfold s2
        refine State.keeps.wr ?_ (by decide +kernel)
        exact h1
      try clear_value s2
      refine State.keeps.ite (fun _ => ?_) (fun _ => ?_)
      · exact h2
      · refine State.keeps.step ?_ (sendFault_keeps ..) (by decide +kernel)
        exact h2

/-- What `claimAddr` may write. -/
def writes_claimAddr : Nat :=
  writes_checkConflict

theorem claimAddr_keeps (s : State) :
    State.keeps writes_claimAddr s (State.claimAddr s) := by
  unfold State.claimAddr
  refine State.keeps.ite (fun _ => ?_) (fun _ => ?_)
  · exact State.keeps.refl
  · refine State.keeps.ite (fun _ => ?_) (fun _ => ?_)
    · refine State.keeps.foldl ?_ (fun s1 x1 h1 => ?_)
      · refine State.keeps.step ?_ (takeAddr_keeps ..) (by decide +kernel)
        exact State.keeps.refl
      · try beta_reduce
        refine State.keeps.ite (fun _ => ?_) (fun _ => ?_)
        · exact h1
        · refine State.keeps.step ?_ (checkConflict_keeps ..) (by decide +kernel)
          exact h1
    · split
      · refine State.keeps.step ?_ (takeAddr_keeps ..) (by decide +kernel)
        exact State.keeps.refl
      · exact State.keeps.refl

/-- What `execAddrClaim` may write. -/
def writes_execAddrClaim : Nat :=
  writes_claimAddr

theorem execAddrClaim_keeps (s : State) :
    State.answers writes_execAddrClaim s (execAddrClaim s) := by
  unfold execAddrClaim
  refine State.answers.next ?_
  refine State.keeps.ite (fun _ => ?_) (fun _ => ?_)
  · exact State.keeps.refl
  · refine State.keeps.ite (fun _ => ?_) (fun _ => ?_)
    · exact State.keeps.refl
    · refine State.keeps.step ?_ (claimAddr_keeps ..) (by decide +kernel)
      exact State.keeps.refl

/-- What `execAddrReclaim` may write. -/
def writes_execAddrReclaim : Nat :=
  writes_claimAddr

theorem execAddrReclaim_keeps (s : State) :
    State.answers writes_execAddrReclaim s (execAddrReclaim s) := by
  unfold execAddrReclaim
  refine State.answers.next ?_
  refine State.keeps.ite (fun _ => ?_) (fun _ => ?_)
  · refine State.keeps.step ?_ (claimAddr_keeps ..) (by decide +kernel)
    exact State.keeps.refl
  · exact State.keeps.refl

/-- What `storeRec` may write. -/
def writes_storeRec : Nat :=
  writes [.COL_STATUS_NODES, .COL_STATUS_ROUTE_BUSY] [.col]

theorem storeRec_keeps (s : State) (r : LsaRec) :
    State.keeps writes_storeRec s (State.storeRec s r) := by
  unfold State.storeRec
  extract_lets -merge -underBinder +onlyGivenNames y1
  refine State.keeps.wr ?_ (by decide +kernel)
  refine State.keeps.wr ?_ (by decide +kernel)
  refine (State.keeps.put_col ?_ _ (by decide +kernel))
  exact State.keeps.refl

/-- What `flood` may write. -/
def writes_flood : Nat :=
  writes_sendFrame

theorem flood_keeps (s : State) (ws : List Sys2Proof.Word64) (but : Option ℕ) :
    State.keeps writes_flood s (State.flood s ws but) := by
  unfold State.flood
  refine State.keeps.forEach ?_ (fun x1 s1 h1 => ?_)
  · exact State.keeps.refl
  · try beta_reduce
    refine State.keeps.ite (fun _ => ?_) (fun _ => ?_)
    · refine State.keeps.step ?_ (sendFrame_keeps ..) (by decide +kernel)
      exact h1
    · exact h1

/-- What `execLsaFlood` may write. -/
def writes_execLsaFlood : Nat :=
  writes [.COL_STATUS_LSDB_FULL] [] ||| writes_flood ||| writes_storeRec

theorem execLsaFlood_keeps (s : State) :
    State.answers writes_execLsaFlood s (execLsaFlood s) := by
  unfold execLsaFlood
  refine State.answers.next ?_
  refine State.keeps.ite (fun _ => ?_) (fun _ => ?_)
  · exact State.keeps.refl
  · extract_lets -merge -underBinder +onlyGivenNames y1
    extract_lets -merge -underBinder +onlyGivenNames s2
    have h2 : State.keeps writes_execLsaFlood s s2 := by
      unfold s2
      refine (State.keeps.put_col ?_ _ (by decide +kernel))
      exact State.keeps.refl
    try clear_value s2
    extract_lets -merge -underBinder +onlyGivenNames y3
    refine State.keeps.step ?_ (flood_keeps ..) (by decide +kernel)
    refine State.keeps.ite (fun _ => ?_) (fun _ => ?_)
    · refine State.keeps.wr ?_ (by decide +kernel)
      exact h2
    · refine State.keeps.step ?_ (storeRec_keeps ..) (by decide +kernel)
      exact h2

/-- What `takeLsa` may write. -/
def writes_takeLsa : Nat :=
  writes [.COL_STATUS_LSDB_FULL] [] ||| writes_checkConflict ||| writes_storeRec

theorem takeLsa_keeps (s : State) (l : ℕ) (f : Sys2Proof.Frame) :
    State.keeps writes_takeLsa s (State.takeLsa s l f) := by
  unfold State.takeLsa
  extract_lets -merge -underBinder +onlyGivenNames y1
  refine State.keeps.ite (fun _ => ?_) (fun _ => ?_)
  · exact State.keeps.refl
  · extract_lets -merge -underBinder +onlyGivenNames y2
    refine State.keeps.ite (fun _ => ?_) (fun _ => ?_)
    · exact State.keeps.refl
    · refine State.keeps.ite (fun _ => ?_) (fun _ => ?_)
      · refine State.keeps.wr ?_ (by decide +kernel)
        exact State.keeps.refl
      · refine State.keeps.step ?_ (flood_keeps ..) (by decide +kernel)
        refine State.keeps.step ?_ (checkConflict_keeps ..) (by decide +kernel)
        refine State.keeps.step ?_ (storeRec_keeps ..) (by decide +kernel)
        exact State.keeps.refl

/-- What `execLsa` may write. -/
def writes_execLsa : Nat :=
  writes_onMsg ||| writes_takeLsa

theorem execLsa_keeps (l : Sys2Proof.LaneIx) (f : Sys2Proof.Frame) (s : State) :
    State.answers writes_execLsa s (execLsa l f s) := by
  unfold execLsa
  refine State.answers.next ?_
  refine onMsg_keeps (by decide +kernel) ?_ (fun s1 h1 => ?_)
  · exact State.keeps.refl
  · refine State.keeps.step ?_ (takeLsa_keeps ..) (by decide +kernel)
    exact h1

/-- What `execLsaExpire` may write. -/
def writes_execLsaExpire : Nat :=
  writes [.COL_STATUS_NODES, .COL_STATUS_ROUTE_BUSY] [.col]

theorem execLsaExpire_keeps (uid : ℕ) (s : State) :
    State.answers writes_execLsaExpire s (execLsaExpire uid s) := by
  unfold execLsaExpire
  refine State.answers.next ?_
  refine State.keeps.ite (fun _ => ?_) (fun _ => ?_)
  · extract_lets -merge -underBinder +onlyGivenNames y1
    refine State.keeps.wr ?_ (by decide +kernel)
    refine State.keeps.wr ?_ (by decide +kernel)
    refine (State.keeps.put_col ?_ _ (by decide +kernel))
    exact State.keeps.refl
  · exact State.keeps.refl

/-- What `execRouteComputeDone` may write. -/
def writes_execRouteComputeDone : Nat :=
  writes [.COL_STATUS_ROUTE_BUSY] [] ||| writes_newRoute

theorem execRouteComputeDone_keeps (s : State) :
    State.answers writes_execRouteComputeDone s (execRouteComputeDone s) := by
  unfold execRouteComputeDone
  refine State.answers.next ?_
  refine State.keeps.forEach ?_ (fun x1 s1 h1 => ?_)
  · refine State.keeps.wr ?_ (by decide +kernel)
    refine State.keeps.step ?_ (computeRoutes_keeps ..) (by decide +kernel)
    exact State.keeps.refl
  · try beta_reduce
    refine State.keeps.ite (fun _ => ?_) (fun _ => ?_)
    · refine State.keeps.step ?_ (newRoute_keeps ..) (by decide +kernel)
      exact h1
    · exact h1

/-- What `nakSub` may write. -/
def writes_nakSub : Nat :=
  writes [.COL_BP_STATUS_LAST_NAK] [.bps] ||| writes_sendRouted

theorem nakSub_keeps (s : State) (n : ℕ) (node : ℕ) (code : ℕ) :
    State.keeps writes_nakSub s (State.nakSub s n node code) := by
  unfold State.nakSub
  refine State.keeps.step ?_ (sendRouted_keeps ..) (by decide +kernel)
  refine State.keeps.wr ?_ (by decide +kernel)
  refine State.keeps.step ?_ (updBp_keeps ..) (by decide +kernel)
  exact State.keeps.refl

/-- What `takeSubReq` may write. -/
def writes_takeSubReq : Nat :=
  writes [.COL_BP_STATUS_PEER] [] ||| writes_startRoute ||| writes_nakSub

theorem takeSubReq_keeps (s : State) (f : Sys2Proof.Frame) :
    State.keeps writes_takeSubReq s (State.takeSubReq s f) := by
  unfold State.takeSubReq
  extract_lets -merge -underBinder +onlyGivenNames y1
  extract_lets -merge -underBinder +onlyGivenNames y2
  extract_lets -merge -underBinder +onlyGivenNames y3
  extract_lets -merge -underBinder +onlyGivenNames y4
  extract_lets -merge -underBinder +onlyGivenNames y5
  unfold y5
  try beta_reduce
  refine State.keeps.ite (fun _ => ?_) (fun _ => ?_)
  · refine State.keeps.step ?_ (sendRouted_keeps ..) (by decide +kernel)
    exact State.keeps.refl
  · refine State.keeps.ite (fun _ => ?_) (fun _ => ?_)
    · refine State.keeps.step ?_ (sendRouted_keeps ..) (by decide +kernel)
      exact State.keeps.refl
    · extract_lets -merge -underBinder +onlyGivenNames s6
      have h6 : State.keeps writes_takeSubReq s s6 := by
        unfold s6
        refine State.keeps.step ?_ (updBp_keeps ..) (by decide +kernel)
        exact State.keeps.refl
      try clear_value s6
      extract_lets -merge -underBinder +onlyGivenNames s7
      have h7 : State.keepsP writes_takeSubReq s s7 := by
        unfold s7
        refine State.keepsP.step ?_ (startRoute_keeps ..) (by decide +kernel)
        exact h6
      try clear_value s7
      refine State.keeps.ite (fun _ => ?_) (fun _ => ?_)
      · refine State.keeps.wr ?_ (by decide +kernel)
        refine State.keepsP.fst ?_
        exact h7
      · refine State.keeps.step ?_ (nakSub_keeps ..) (by decide +kernel)
        exact h6

/-- What `execSubReq` may write. -/
def writes_execSubReq : Nat :=
  writes_onMsg ||| writes_takeSubReq

theorem execSubReq_keeps (l : Sys2Proof.LaneIx) (f : Sys2Proof.Frame) (s : State) :
    State.answers writes_execSubReq s (execSubReq l f s) := by
  unfold execSubReq
  refine State.answers.next ?_
  refine onMsg_keeps (by decide +kernel) ?_ (fun s1 h1 => ?_)
  · exact State.keeps.refl
  · refine State.keeps.step ?_ (takeSubReq_keeps ..) (by decide +kernel)
    exact h1

/-- What `execSubNak` may write. -/
def writes_execSubNak : Nat :=
  writes [.COL_BP_STATUS_LAST_NAK] [] ||| writes_onMsg ||| writes_bpReject

theorem execSubNak_keeps (l : Sys2Proof.LaneIx) (f : Sys2Proof.Frame) (s : State) :
    State.answers writes_execSubNak s (execSubNak l f s) := by
  unfold execSubNak
  refine State.answers.next ?_
  refine onMsg_keeps (by decide +kernel) ?_ (fun s1 h1 => ?_)
  · exact State.keeps.refl
  · extract_lets -merge -underBinder +onlyGivenNames y2
    refine State.keeps.forEach ?_ (fun x3 s3 h3 => ?_)
    · exact h1
    · try beta_reduce
      refine State.keeps.wr ?_ (by decide +kernel)
      refine State.keeps.step ?_ (bpReject_keeps ..) (by decide +kernel)
      exact h3

/-- What `takeRoute` may write. -/
def writes_takeRoute : Nat :=
  writes [.COL_BP_STATUS_LAST_NAK, .COL_BP_STATUS_UNRES] [] ||| writes_sendRouted ||| writes_setEntry |||
    writes_bpPass

theorem takeRoute_keeps (s : State) (n : ℕ) (l : ℕ) (hops : ℕ) (f : Sys2Proof.Frame) :
    State.keeps writes_takeRoute s (State.takeRoute s n l hops f) := by
  unfold State.takeRoute
  extract_lets -merge -underBinder +onlyGivenNames y1
  extract_lets -merge -underBinder +onlyGivenNames y2
  extract_lets -merge -underBinder +onlyGivenNames y3
  extract_lets -merge -underBinder +onlyGivenNames y4
  extract_lets -merge -underBinder +onlyGivenNames y5
  refine State.keeps.ite (fun _ => ?_) (fun _ => ?_)
  · refine State.keeps.step ?_ (sendRouted_keeps ..) (by decide +kernel)
    exact State.keeps.refl
  · refine State.keeps.ite (fun _ => ?_) (fun _ => ?_)
    · extract_lets -merge -underBinder +onlyGivenNames s6
      have h6 : State.keeps writes_takeRoute s s6 := by
        unfold s6
        refine State.keeps.step ?_ (sendUnsub_keeps ..) (by decide +kernel)
        exact State.keeps.refl
      try clear_value s6
      refine State.keeps.ite (fun _ => ?_) (fun _ => ?_)
      · refine State.keeps.wr ?_ (by decide +kernel)
        refine State.keeps.step ?_ (bpReject_keeps ..) (by decide +kernel)
        exact h6
      · exact h6
    · extract_lets -merge -underBinder +onlyGivenNames y7
      extract_lets -merge -underBinder +onlyGivenNames s8
      have h8 : State.keeps writes_takeRoute s s8 := by
        unfold s8
        refine State.keeps.step ?_ (updBp_keeps ..) (by decide +kernel)
        refine State.keeps.step ?_ (setEntry_keeps ..) (by decide +kernel)
        exact State.keeps.refl
      try clear_value s8
      extract_lets -merge -underBinder +onlyGivenNames s9
      have h9 : State.keeps writes_takeRoute s s9 := by
        unfold s9
        refine State.keeps.step ?_ (sendRouted_keeps ..) (by decide +kernel)
        refine State.keeps.step ?_ (measureAnew_keeps ..) (by decide +kernel)
        refine State.keeps.wr ?_ (by decide +kernel)
        refine State.keeps.wr ?_ (by decide +kernel)
        refine State.keeps.step ?_ (colStatus_keeps ..) (by decide +kernel)
        exact h8
      try clear_value s9
      refine State.keeps.ite (fun _ => ?_) (fun _ => ?_)
      · refine State.keeps.step ?_ (bpPass_keeps ..) (by decide +kernel)
        exact h9
      · exact h9

/-- What `refuseResv` may write. -/
def writes_refuseResv : Nat :=
  writes_sendBack

theorem refuseResv_keeps (s : State) (l : ℕ) (lane : ℕ) (f : Sys2Proof.Frame) :
    State.keeps writes_refuseResv s (State.refuseResv s l lane f) := by
  unfold State.refuseResv
  refine State.keeps.step ?_ (sendBack_keeps ..) (by decide +kernel)
  exact State.keeps.refl

/-- What `takeResv` may write. -/
def writes_takeResv : Nat :=
  writes_takeRoute ||| writes_dropEntry

theorem takeResv_keeps (s : State) (l : ℕ) (f : Sys2Proof.Frame) :
    State.keeps writes_takeResv s (State.takeResv s l f) := by
  unfold State.takeResv
  extract_lets -merge -underBinder +onlyGivenNames y1
  extract_lets -merge -underBinder +onlyGivenNames y2
  extract_lets -merge -underBinder +onlyGivenNames y3
  extract_lets -merge -underBinder +onlyGivenNames y4
  extract_lets -merge -underBinder +onlyGivenNames y5
  refine State.keeps.ite (fun _ => ?_) (fun _ => ?_)
  · refine State.keeps.step ?_ (takeRoute_keeps ..) (by decide +kernel)
    exact State.keeps.refl
  · extract_lets -merge -underBinder +onlyGivenNames y6
    split
    · refine State.keeps.step ?_ (refuseResv_keeps ..) (by decide +kernel)
      exact State.keeps.refl
    · extract_lets -merge -underBinder +onlyGivenNames y7
      extract_lets -merge -underBinder +onlyGivenNames s8
      have h8 : State.keeps writes_takeResv s s8 := by
        unfold s8
        split
        · refine State.keeps.step ?_ (dropEntry_keeps ..) (by decide +kernel)
          exact State.keeps.refl
        · exact State.keeps.refl
      try clear_value s8
      refine State.keeps.ite (fun _ => ?_) (fun _ => ?_)
      · refine State.keeps.step ?_ (refuseResv_keeps ..) (by decide +kernel)
        exact State.keeps.refl
      · split
        · extract_lets -merge -underBinder +onlyGivenNames y9
          refine State.keeps.step ?_ (refuseResv_keeps ..) (by decide +kernel)
          exact h8
        · extract_lets -merge -underBinder +onlyGivenNames y10
          refine State.keeps.step ?_ (sendHop_keeps ..) (by decide +kernel)
          refine State.keeps.step ?_ (installEntry_keeps ..) (by decide +kernel)
          exact h8

/-- What `execResv` may write. -/
def writes_execResv : Nat :=
  writes_onMsg ||| writes_takeResv

theorem execResv_keeps (l : Sys2Proof.LaneIx) (f : Sys2Proof.Frame) (s : State) :
    State.answers writes_execResv s (execResv l f s) := by
  unfold execResv
  refine State.answers.next ?_
  refine onMsg_keeps (by decide +kernel) ?_ (fun s1 h1 => ?_)
  · exact State.keeps.refl
  · refine State.keeps.step ?_ (takeResv_keeps ..) (by decide +kernel)
    exact h1

/-- What `takeResvNak` may write. -/
def writes_takeResvNak : Nat :=
  writes_startRoute ||| writes_routeLost ||| writes_nakSub

theorem takeResvNak_keeps (s : State) (f : Sys2Proof.Frame) :
    State.keeps writes_takeResvNak s (State.takeResvNak s f) := by
  unfold State.takeResvNak
  extract_lets -merge -underBinder +onlyGivenNames y1
  extract_lets -merge -underBinder +onlyGivenNames y2
  extract_lets -merge -underBinder +onlyGivenNames y3
  split
  · exact State.keeps.refl
  · extract_lets -merge -underBinder +onlyGivenNames s4
    have h4 : State.keeps writes_takeResvNak s s4 := by
      unfold s4
      refine State.keeps.step ?_ (dropEntry_keeps ..) (by decide +kernel)
      exact State.keeps.refl
    try clear_value s4
    refine State.keeps.ite (fun _ => ?_) (fun _ => ?_)
    · split
      · refine State.keeps.step ?_ (sendBack_keeps ..) (by decide +kernel)
        exact h4
      · exact h4
    · extract_lets -merge -underBinder +onlyGivenNames y5
      extract_lets -merge -underBinder +onlyGivenNames y6
      extract_lets -merge -underBinder +onlyGivenNames s7
      have h7 : State.keeps writes_takeResvNak s s7 := by
        unfold s7
        refine State.keeps.step ?_ (updBp_keeps ..) (by decide +kernel)
        exact h4
      try clear_value s7
      extract_lets -merge -underBinder +onlyGivenNames s8
      have h8 : State.keepsP writes_takeResvNak s s8 := by
        unfold s8
        refine State.keepsP.ite (fun _ => ?_) (fun _ => ?_)
        · refine State.keepsP.step ?_ (startRoute_keeps ..) (by decide +kernel)
          exact h7
        · refine State.keepsP.mk ?_
          exact h7
      try clear_value s8
      refine State.keeps.ite (fun _ => ?_) (fun _ => ?_)
      · refine State.keepsP.fst ?_
        exact h8
      · split
        · refine State.keeps.step ?_ (routeLost_keeps ..) (by decide +kernel)
          exact h7
        · refine State.keeps.step ?_ (nakSub_keeps ..) (by decide +kernel)
          exact h7
        · exact h7

/-- What `execResvNak` may write. -/
def writes_execResvNak : Nat :=
  writes_onMsg ||| writes_takeResvNak

theorem execResvNak_keeps (l : Sys2Proof.LaneIx) (f : Sys2Proof.Frame) (s : State) :
    State.answers writes_execResvNak s (execResvNak l f s) := by
  unfold execResvNak
  refine State.answers.next ?_
  refine onMsg_keeps (by decide +kernel) ?_ (fun s1 h1 => ?_)
  · exact State.keeps.refl
  · refine State.keeps.step ?_ (takeResvNak_keeps ..) (by decide +kernel)
    exact h1

/-- What `takeSubAck` may write. -/
def writes_takeSubAck : Nat :=
  writes [.COL_BP_STATUS_REPAIRING, .COL_BP_STATUS_UNRES] [.bps] ||| writes_releaseRoute ||| writes_colStatus

theorem takeSubAck_keeps (s : State) (f : Sys2Proof.Frame) :
    State.keeps writes_takeSubAck s (State.takeSubAck s f) := by
  unfold State.takeSubAck
  extract_lets -merge -underBinder +onlyGivenNames y1
  split
  · exact State.keeps.refl
  · refine State.keeps.ite (fun _ => ?_) (fun _ => ?_)
    · exact State.keeps.refl
    · extract_lets -merge -underBinder +onlyGivenNames y2
      extract_lets -merge -underBinder +onlyGivenNames s3
      have h3 : State.keeps writes_takeSubAck s s3 := by
        unfold s3
        refine State.keeps.step ?_ (updBp_keeps ..) (by decide +kernel)
        exact State.keeps.refl
      try clear_value s3
      extract_lets -merge -underBinder +onlyGivenNames s4
      have h4 : State.keeps writes_takeSubAck s s4 := by
        unfold s4
        split
        · refine State.keeps.ite (fun _ => ?_) (fun _ => ?_)
          · exact h3
          · refine State.keeps.step ?_ (releaseRoute_keeps ..) (by decide +kernel)
            exact h3
        · exact h3
      try clear_value s4
      extract_lets -merge -underBinder +onlyGivenNames y5
      refine State.keeps.wr ?_ (by decide +kernel)
      refine State.keeps.wr ?_ (by decide +kernel)
      refine State.keeps.step ?_ (colStatus_keeps ..) (by decide +kernel)
      exact h4

/-- What `execSubAck` may write. -/
def writes_execSubAck : Nat :=
  writes_onMsg ||| writes_takeSubAck

theorem execSubAck_keeps (l : Sys2Proof.LaneIx) (f : Sys2Proof.Frame) (s : State) :
    State.answers writes_execSubAck s (execSubAck l f s) := by
  unfold execSubAck
  refine State.answers.next ?_
  refine onMsg_keeps (by decide +kernel) ?_ (fun s1 h1 => ?_)
  · exact State.keeps.refl
  · refine State.keeps.step ?_ (takeSubAck_keeps ..) (by decide +kernel)
    exact h1

/-- What `execSubTimeout` may write. -/
def writes_execSubTimeout : Nat :=
  writes [.COL_BP_STATUS_LAST_NAK] [] ||| writes_bpReject ||| writes_endSub

theorem execSubTimeout_keeps (n : Sys2Proof.BpIx) (s : State) :
    State.answers writes_execSubTimeout s (execSubTimeout n s) := by
  unfold execSubTimeout
  refine State.answers.next ?_
  split
  · refine State.keeps.ite (fun _ => ?_) (fun _ => ?_)
    · refine State.keeps.wr ?_ (by decide +kernel)
      refine State.keeps.step ?_ (bpReject_keeps ..) (by decide +kernel)
      refine State.keeps.step ?_ (endSub_keeps ..) (by decide +kernel)
      exact State.keeps.refl
    · exact State.keeps.refl
  · exact State.keeps.refl

/-- What `execStreamReestablish` may write. -/
def writes_execStreamReestablish : Nat :=
  writes_startRoute

theorem execStreamReestablish_keeps (n : Sys2Proof.BpIx) (s : State) :
    State.answers writes_execStreamReestablish s (execStreamReestablish n s) := by
  unfold execStreamReestablish
  extract_lets -merge -underBinder +onlyGivenNames y1
  refine State.answers.next ?_
  refine State.keeps.ite (fun _ => ?_) (fun _ => ?_)
  · exact State.keeps.refl
  · extract_lets -merge -underBinder +onlyGivenNames s2
    have h2 : State.keeps writes_execStreamReestablish s s2 := by
      unfold s2
      refine State.keeps.step ?_ (updBp_keeps ..) (by decide +kernel)
      exact State.keeps.refl
    try clear_value s2
    extract_lets -merge -underBinder +onlyGivenNames s3
    have h3 : State.keepsP writes_execStreamReestablish s s3 := by
      unfold s3
      refine State.keepsP.step ?_ (startRoute_keeps ..) (by decide +kernel)
      exact h2
    try clear_value s3
    refine State.keeps.ite (fun _ => ?_) (fun _ => ?_)
    · refine State.keepsP.fst ?_
      exact h3
    · exact h2

/-- What `execGrainAckSend` may write. -/
def writes_execGrainAckSend : Nat :=
  writes [] [.bps] ||| writes_sendBack

theorem execGrainAckSend_keeps (s : State) :
    State.answers writes_execGrainAckSend s (execGrainAckSend s) := by
  unfold execGrainAckSend
  refine State.answers.next ?_
  refine State.keeps.forEach ?_ (fun x1 s1 h1 => ?_)
  · exact State.keeps.refl
  · try beta_reduce
    extract_lets -merge -underBinder +onlyGivenNames y2
    extract_lets -merge -underBinder +onlyGivenNames y3
    refine State.keeps.ite (fun _ => ?_) (fun _ => ?_)
    · exact h1
    · split
      · refine State.keeps.step ?_ (sendBack_keeps ..) (by decide +kernel)
        refine State.keeps.step ?_ (updBp_keeps ..) (by decide +kernel)
        exact h1
      · exact h1

/-- What `takeAck` may write. -/
def writes_takeAck : Nat :=
  writes_sendBack

theorem takeAck_keeps (s : State) (f : Sys2Proof.Frame) :
    State.keeps writes_takeAck s (State.takeAck s f) := by
  unfold State.takeAck
  split
  · exact State.keeps.refl
  · extract_lets -merge -underBinder +onlyGivenNames y1
    extract_lets -merge -underBinder +onlyGivenNames s2
    have h2 : State.keeps writes_takeAck s s2 := by
      unfold s2
      refine State.keeps.step ?_ (dropKept_keeps ..) (by decide +kernel)
      exact State.keeps.refl
    try clear_value s2
    split
    · refine State.keeps.step ?_ (sendBack_keeps ..) (by decide +kernel)
      exact h2
    · exact h2

/-- What `execGrainAck` may write. -/
def writes_execGrainAck : Nat :=
  writes_onMsg

theorem execGrainAck_keeps (l : Sys2Proof.LaneIx) (f : Sys2Proof.Frame) (s : State) :
    State.answers writes_execGrainAck s (execGrainAck l f s) := by
  unfold execGrainAck
  refine State.answers.next ?_
  refine onMsg_keeps (by decide +kernel) ?_ (fun s1 h1 => ?_)
  · exact State.keeps.refl
  · refine State.keeps.step ?_ (takeAck_keeps ..) (by decide +kernel)
    exact h1

/-- What `takeRelease` may write. -/
def writes_takeRelease : Nat :=
  writes [.COL_BP_STATUS_ROLE, .COL_BP_STATUS_ROUTED] [.bps] ||| writes_sendBack ||| writes_dropEntry

theorem takeRelease_keeps (s : State) (f : Sys2Proof.Frame) :
    State.keeps writes_takeRelease s (State.takeRelease s f) := by
  unfold State.takeRelease
  split
  · exact State.keeps.refl
  · extract_lets -merge -underBinder +onlyGivenNames y1
    extract_lets -merge -underBinder +onlyGivenNames s2
    have h2 : State.keeps writes_takeRelease s s2 := by
      unfold s2
      split
      · refine State.keeps.step ?_ (sendBack_keeps ..) (by decide +kernel)
        exact State.keeps.refl
      · exact State.keeps.refl
    try clear_value s2
    refine State.keeps.forEach ?_ (fun x3 s3 h3 => ?_)
    · refine State.keeps.step ?_ (dropEntry_keeps ..) (by decide +kernel)
      exact h2
    · try beta_reduce
      refine State.keeps.ite (fun _ => ?_) (fun _ => ?_)
      · extract_lets -merge -underBinder +onlyGivenNames s4
        have h4 : State.keeps writes_takeRelease s s4 := by
          unfold s4
          refine State.keeps.wr ?_ (by decide +kernel)
          exact h3
        try clear_value s4
        refine State.keeps.ite (fun _ => ?_) (fun _ => ?_)
        · exact h4
        · refine State.keeps.wr ?_ (by decide +kernel)
          refine State.keeps.step ?_ (updBp_keeps ..) (by decide +kernel)
          exact h4
      · exact h3

/-- What `execRelease` may write. -/
def writes_execRelease : Nat :=
  writes_onMsg ||| writes_takeRelease

theorem execRelease_keeps (l : Sys2Proof.LaneIx) (f : Sys2Proof.Frame) (s : State) :
    State.answers writes_execRelease s (execRelease l f s) := by
  unfold execRelease
  refine State.answers.next ?_
  refine onMsg_keeps (by decide +kernel) ?_ (fun s1 h1 => ?_)
  · exact State.keeps.refl
  · refine State.keeps.step ?_ (takeRelease_keeps ..) (by decide +kernel)
    exact h1

/-- What `takeUnsub` may write. -/
def writes_takeUnsub : Nat :=
  writes [.COL_BP_STATUS_PEER, .COL_BP_STATUS_REPAIRING] [] ||| writes_releaseAll

theorem takeUnsub_keeps (s : State) (f : Sys2Proof.Frame) :
    State.keeps writes_takeUnsub s (State.takeUnsub s f) := by
  unfold State.takeUnsub
  extract_lets -merge -underBinder +onlyGivenNames y1
  split
  · exact State.keeps.refl
  · refine State.keeps.ite (fun _ => ?_) (fun _ => ?_)
    · exact State.keeps.refl
    · refine State.keeps.wr ?_ (by decide +kernel)
      refine State.keeps.wr ?_ (by decide +kernel)
      refine State.keeps.wr ?_ (by decide +kernel)
      refine State.keeps.step ?_ (updBp_keeps ..) (by decide +kernel)
      refine State.keeps.step ?_ (releaseAll_keeps ..) (by decide +kernel)
      exact State.keeps.refl

/-- What `execUnsub` may write. -/
def writes_execUnsub : Nat :=
  writes_onMsg ||| writes_takeUnsub

theorem execUnsub_keeps (l : Sys2Proof.LaneIx) (f : Sys2Proof.Frame) (s : State) :
    State.answers writes_execUnsub s (execUnsub l f s) := by
  unfold execUnsub
  refine State.answers.next ?_
  refine onMsg_keeps (by decide +kernel) ?_ (fun s1 h1 => ?_)
  · exact State.keeps.refl
  · refine State.keeps.step ?_ (takeUnsub_keeps ..) (by decide +kernel)
    exact h1

/-- What `admitRepair` may write. -/
def writes_admitRepair : Nat :=
  writes_putMember

theorem State.keepsP.foldl {α β : Type} {m : Nat} {s : State} {f : State × α → β → State × α} {xs : List β}
    {p : State × α} (h : State.keepsP m s p) (hf : ∀ q x, State.keepsP m s q → State.keepsP m s (f q x)) :
    State.keepsP m s (xs.foldl f p) := by
  induction xs generalizing p with
  | nil => exact h
  | cons x xs ih => exact ih (hf p x h)

theorem admitRepair_keeps (s : State) (e : Entry) : State.keepsP writes_admitRepair s (State.admitRepair s e) := by
  unfold State.admitRepair
  refine State.keepsP.foldl (State.keepsP.mk State.keeps.refl) (fun r x hr => ?_)
  beta_reduce
  extract_lets -merge -underBinder +onlyGivenNames y1
  refine State.keepsP.ite (fun _ => hr) (fun _ => ?_)
  extract_lets -merge -underBinder +onlyGivenNames s2
  have h2 : State.keeps writes_admitRepair s s2 := by
    unfold s2
    exact hr.fst.step (updLane_keeps ..) (by decide +kernel)
  clear_value s2
  refine State.keepsP.ite (fun _ => ?_) (fun _ => ?_)
  · exact State.keepsP.mk (h2.step (putMember_keeps ..) (by decide +kernel))
  · exact State.keepsP.mk (h2.step (putMember_keeps ..) (by decide +kernel))

/-- What `takeRepair` may write. -/
def writes_takeRepair : Nat :=
  writes [.COL_BP_STATUS_UNRES] [] ||| writes_sendRouted ||| writes_measureAnew ||| writes_extendEntry

theorem takeRepair_keeps (s : State) (l : ℕ) (f : Sys2Proof.Frame) :
    State.keeps writes_takeRepair s (State.takeRepair s l f) := by
  unfold State.takeRepair
  split
  · refine State.keeps.wr ?_ (by decide +kernel)
    exact State.keeps.refl
  · extract_lets -merge -underBinder +onlyGivenNames y1
    extract_lets -merge -underBinder +onlyGivenNames y2
    extract_lets -merge -underBinder +onlyGivenNames y3
    refine State.keeps.ite (fun _ => ?_) (fun _ => ?_)
    · refine State.keeps.step ?_ (sendRouted_keeps ..) (by decide +kernel)
      refine State.keeps.forEach ?_ (fun x4 s4 h4 => ?_)
      · refine State.keeps.step ?_ (setEntry_keeps ..) (by decide +kernel)
        exact State.keeps.refl
      · try beta_reduce
        refine State.keeps.step ?_ (measureAnew_keeps ..) (by decide +kernel)
        refine State.keeps.wr ?_ (by decide +kernel)
        exact h4
    · extract_lets -merge -underBinder +onlyGivenNames s5
      have h5 : State.keepsP writes_takeRepair s s5 := by
        unfold s5
        refine State.keepsP.step ?_ (extendEntry_keeps ..) (by decide +kernel)
        refine State.keeps.step ?_ (setEntry_keeps ..) (by decide +kernel)
        exact State.keeps.refl
      try clear_value s5
      extract_lets -merge -underBinder +onlyGivenNames y6
      extract_lets -merge -underBinder +onlyGivenNames s7
      have h7 : State.keepsP writes_takeRepair s s7 := by
        unfold s7
        refine State.keepsP.step ?_ (admitRepair_keeps ..) (by decide +kernel)
        refine State.keepsP.fst ?_
        exact h5
      try clear_value s7
      extract_lets -merge -underBinder +onlyGivenNames y8
      split
      · refine State.keeps.step ?_ (sendBack_keeps ..) (by decide +kernel)
        refine State.keepsP.fst ?_
        exact h7
      · refine State.keepsP.fst ?_
        exact h7

/-- What `execRepair` may write. -/
def writes_execRepair : Nat :=
  writes_onMsg

theorem execRepair_keeps (l : Sys2Proof.LaneIx) (f : Sys2Proof.Frame) (s : State) :
    State.answers writes_execRepair s (execRepair l f s) := by
  unfold execRepair
  refine State.answers.next ?_
  refine onMsg_keeps (by decide +kernel) ?_ (fun s1 h1 => ?_)
  · exact State.keeps.refl
  · refine State.keeps.step ?_ (takeRepair_keeps ..) (by decide +kernel)
    exact h1

/-- What `execRepairReport` may write. -/
def writes_execRepairReport : Nat :=
  writes_onMsg

theorem execRepairReport_keeps (l : Sys2Proof.LaneIx) (f : Sys2Proof.Frame) (s : State) :
    State.answers writes_execRepairReport s (execRepairReport l f s) := by
  unfold execRepairReport
  refine State.answers.next ?_
  refine onMsg_keeps (by decide +kernel) ?_ (fun s1 h1 => ?_)
  · exact State.keeps.refl
  · refine State.keeps.ite (fun _ => ?_) (fun _ => ?_)
    · refine State.keeps.step ?_ (pubReport_keeps ..) (by decide +kernel)
      exact h1
    · exact h1

/-- What `execSaddleDigestSend` may write. -/
def writes_execSaddleDigestSend : Nat :=
  writes_sendRouted

theorem execSaddleDigestSend_keeps (s : State) :
    State.answers writes_execSaddleDigestSend s (execSaddleDigestSend s) := by
  unfold execSaddleDigestSend
  extract_lets -merge -underBinder +onlyGivenNames y1
  refine State.answers.next ?_
  refine State.keeps.ite (fun _ => ?_) (fun _ => ?_)
  · exact State.keeps.refl
  · refine State.keeps.forEach ?_ (fun x2 s2 h2 => ?_)
    · exact State.keeps.refl
    · try beta_reduce
      refine State.keeps.forEach ?_ (fun x3 s3 h3 => ?_)
      · exact h2
      · try beta_reduce
        refine State.keeps.step ?_ (sendRouted_keeps ..) (by decide +kernel)
        exact h3

/-- What `takeDigest` may write. -/
def writes_takeDigest : Nat :=
  writes [] [.remoteDet] ||| writes_gainReport

theorem takeDigest_keeps (s : State) (r : ℕ) :
    State.keeps writes_takeDigest s (State.takeDigest s r) := by
  unfold State.takeDigest
  extract_lets -merge -underBinder +onlyGivenNames y1
  refine State.keeps.ite (fun _ => ?_) (fun _ => ?_)
  · extract_lets -merge -underBinder +onlyGivenNames s2
    have h2 : State.keeps writes_takeDigest s s2 := by
      unfold s2
      refine State.keeps.ite (fun _ => ?_) (fun _ => ?_)
      · refine (State.keeps.put_remoteDet ?_ _ (by decide +kernel))
        exact State.keeps.refl
      · exact State.keeps.refl
    try clear_value s2
    refine State.keeps.forEach ?_ (fun x3 s3 h3 => ?_)
    · exact h2
    · try beta_reduce
      refine State.keeps.ite (fun _ => ?_) (fun _ => ?_)
      · refine State.keeps.step ?_ (gainReport_keeps ..) (by decide +kernel)
        exact h3
      · exact h3
  · refine State.keeps.ite (fun _ => ?_) (fun _ => ?_)
    · refine State.keeps.ite (fun _ => ?_) (fun _ => ?_)
      · exact State.keeps.refl
      · refine (State.keeps.put_remoteDet ?_ _ (by decide +kernel))
        exact State.keeps.refl
    · exact State.keeps.refl

/-- What `execSdigest` may write. -/
def writes_execSdigest : Nat :=
  writes [.SDL_DIGEST_DIGESTS_RX] [] ||| writes_onMsg ||| writes_takeDigest

theorem execSdigest_keeps (l : Sys2Proof.LaneIx) (f : Sys2Proof.Frame) (s : State) :
    State.answers writes_execSdigest s (execSdigest l f s) := by
  unfold execSdigest
  refine State.answers.next ?_
  refine onMsg_keeps (by decide +kernel) ?_ (fun s1 h1 => ?_)
  · exact State.keeps.refl
  · refine State.keeps.forEach ?_ (fun x2 s2 h2 => ?_)
    · refine State.keeps.wr ?_ (by decide +kernel)
      exact h1
    · try beta_reduce
      refine State.keeps.step ?_ (takeDigest_keeps ..) (by decide +kernel)
      exact h2

end Sys2Proof.Machine
end

