-- ==== Sys2Proof/Laws/MonitorKeeps.lean ====
section
/-!
SUPPORT. What each operation of Machine/Monitor.lean may write.
-/

namespace Sys2Proof.Machine

set_option Elab.async false

/-- What `showUrgent` may write. -/
def writes_showUrgent : Nat :=
  writes [.MON_STATUS_URG_BUSY, .MON_STATUS_URG_PEND] []

theorem showUrgent_keeps (s : State) (x : ℕ) :
    State.keeps writes_showUrgent s (State.showUrgent s x) := by
  unfold State.showUrgent
  extract_lets -merge -underBinder +onlyGivenNames y1
  refine State.keeps.wr ?_ (by decide +kernel)
  refine State.keeps.wr ?_ (by decide +kernel)
  exact State.keeps.refl

/-- What `nextJob` may write. -/
def writes_nextJob : Nat :=
  writes [] [.convs] ||| writes_showUrgent

theorem nextJob_keeps (s : State) (x : ℕ) :
    State.keeps writes_nextJob s (State.nextJob s x) := by
  unfold State.nextJob
  extract_lets -merge -underBinder +onlyGivenNames y1
  extract_lets -merge -underBinder +onlyGivenNames y2
  refine State.keeps.step ?_ (showUrgent_keeps ..) (by decide +kernel)
  refine State.keeps.step ?_ (setConv_keeps ..) (by decide +kernel)
  exact State.keeps.refl

/-- What `monWake` may write. -/
def writes_monWake : Nat :=
  writes_nextJob

theorem monWake_keeps (s : State) (x : ℕ) :
    State.keeps writes_monWake s (State.monWake s x) := by
  unfold State.monWake
  split
  · refine State.keeps.step ?_ (nextJob_keeps ..) (by decide +kernel)
    refine State.keeps.step ?_ (setConv_keeps ..) (by decide +kernel)
    exact State.keeps.refl
  · exact State.keeps.refl

/-- What `monStop` may write. -/
def writes_monStop : Nat :=
  writes_nextJob

theorem monStop_keeps (s : State) (x : ℕ) :
    State.keeps writes_monStop s (State.monStop s x) := by
  unfold State.monStop
  extract_lets -merge -underBinder +onlyGivenNames y1
  extract_lets -merge -underBinder +onlyGivenNames s2
  have h2 : State.keeps writes_monStop s s2 := by
    unfold s2
    refine State.keeps.step ?_ (setConv_keeps ..) (by decide +kernel)
    exact State.keeps.refl
  try clear_value s2
  split
  · refine State.keeps.step ?_ (nextJob_keeps ..) (by decide +kernel)
    exact h2
  · exact h2

/-- What `urgent` may write. -/
def writes_urgent : Nat :=
  writes [.MON_COUNT_ABORTS, .MON_COUNT_URG_LOST, .MON_STATUS_URG_REFUSED] [.convs] ||| writes_showUrgent

theorem urgent_keeps (s : State) (x : ℕ) (ch : ℕ) (tag : ℕ) :
    State.keeps writes_urgent s (State.urgent s x ch tag) := by
  unfold State.urgent
  extract_lets -merge -underBinder +onlyGivenNames y1
  refine State.keeps.ite (fun _ => ?_) (fun _ => ?_)
  · refine State.keeps.wr ?_ (by decide +kernel)
    exact State.keeps.refl
  · extract_lets -merge -underBinder +onlyGivenNames y2
    unfold y2
    try beta_reduce
    split
    · refine State.keeps.step ?_ (showUrgent_keeps ..) (by decide +kernel)
      refine State.keeps.step ?_ (setConv_keeps ..) (by decide +kernel)
      exact State.keeps.refl
    · refine State.keeps.ite (fun _ => ?_) (fun _ => ?_)
      · refine State.keeps.step ?_ (showUrgent_keeps ..) (by decide +kernel)
        refine State.keeps.step ?_ (setConv_keeps ..) (by decide +kernel)
        exact State.keeps.refl
      · refine State.keeps.wr ?_ (by decide +kernel)
        exact State.keeps.refl
    · refine State.keeps.ite (fun _ => ?_) (fun _ => ?_)
      · refine State.keeps.step ?_ (showUrgent_keeps ..) (by decide +kernel)
        refine State.keeps.wr ?_ (by decide +kernel)
        refine State.keeps.step ?_ (setConv_keeps ..) (by decide +kernel)
        exact State.keeps.refl
      · refine State.keeps.ite (fun _ => ?_) (fun _ => ?_)
        · refine State.keeps.step ?_ (showUrgent_keeps ..) (by decide +kernel)
          refine State.keeps.step ?_ (setConv_keeps ..) (by decide +kernel)
          exact State.keeps.refl
        · refine State.keeps.wr ?_ (by decide +kernel)
          exact State.keeps.refl

/-- What `monPush` may write. -/
def writes_monPush : Nat :=
  writes [.MON_QLEVEL_LEVEL, .MON_QLEVEL_Q_DROP, .MON_STATUS_Q_OVF] [.convs]

theorem monPush_keeps (s : State) (x : ℕ) (urgent : Bool) (e : Sys2Proof.Word) :
    State.keeps writes_monPush s (State.monPush s x urgent e) := by
  unfold State.monPush
  extract_lets -merge -underBinder +onlyGivenNames y1
  refine State.keeps.ite (fun _ => ?_) (fun _ => ?_)
  · refine State.keeps.wr ?_ (by decide +kernel)
    refine State.keeps.step ?_ (setConv_keeps ..) (by decide +kernel)
    exact State.keeps.refl
  · extract_lets -merge -underBinder +onlyGivenNames y2
    refine State.keeps.wr ?_ (by decide +kernel)
    refine State.keeps.wr ?_ (by decide +kernel)
    refine State.keeps.step ?_ (setConv_keeps ..) (by decide +kernel)
    exact State.keeps.refl

/-- What `plLost` may write. -/
def writes_plLost : Nat :=
  writes [.MON_PLAUS_PL_OK] [.plRun] ||| writes_setaFail

theorem plLost_keeps (s : State) :
    State.keeps writes_plLost s (State.plLost s) := by
  unfold State.plLost
  refine State.keeps.step ?_ (setaFail_keeps ..) (by decide +kernel)
  extract_lets -merge -underBinder +onlyGivenNames s1
  have h1 : State.keeps writes_plLost s s1 := by
    unfold s1
    refine State.keeps.wr ?_ (by decide +kernel)
    exact State.keeps.refl
  try clear_value s1
  refine (State.keeps.put_plRun ?_ _ (by decide +kernel))
  exact h1

/-- What `crossCheck` may write. -/
def writes_crossCheck : Nat :=
  writes [.MON_PLAUS_DIFF, .MON_PLAUS_PL_FAIL, .MON_PLAUS_PL_STALE] [.convs] ||| writes_plLost ||| writes_sendFault

theorem crossCheck_keeps (s : State) (x : ℕ) (code : ℕ) :
    State.keeps writes_crossCheck s (State.crossCheck s x code) := by
  unfold State.crossCheck
  extract_lets -merge -underBinder +onlyGivenNames y1
  extract_lets -merge -underBinder +onlyGivenNames s2
  have h2 : State.keeps writes_crossCheck s s2 := by
    unfold s2
    refine State.keeps.step ?_ (setConv_keeps ..) (by decide +kernel)
    exact State.keeps.refl
  try clear_value s2
  split
  · exact h2
  · refine State.keeps.ite (fun _ => ?_) (fun _ => ?_)
    · exact h2
    · extract_lets -merge -underBinder +onlyGivenNames y3
      extract_lets -merge -underBinder +onlyGivenNames y4
      extract_lets -merge -underBinder +onlyGivenNames s5
      have h5 : State.keeps writes_crossCheck s s5 := by
        unfold s5
        refine State.keeps.wr ?_ (by decide +kernel)
        refine State.keeps.wr ?_ (by decide +kernel)
        exact h2
      try clear_value s5
      refine State.keeps.ite (fun _ => ?_) (fun _ => ?_)
      · extract_lets -merge -underBinder +onlyGivenNames s6
        have h6 : State.keeps writes_crossCheck s s6 := by
          unfold s6
          refine (State.keeps.put_plRun ?_ _ (by decide +kernel))
          exact h5
        try clear_value s6
        refine State.keeps.ite (fun _ => ?_) (fun _ => ?_)
        · refine State.keeps.step ?_ (sendClear_keeps ..) (by decide +kernel)
          refine State.keeps.wr ?_ (by decide +kernel)
          exact h6
        · exact h6
      · extract_lets -merge -underBinder +onlyGivenNames s7
        have h7 : State.keeps writes_crossCheck s s7 := by
          unfold s7
          refine State.keeps.step ?_ (plLost_keeps ..) (by decide +kernel)
          refine State.keeps.wr ?_ (by decide +kernel)
          exact h5
        try clear_value s7
        refine State.keeps.ite (fun _ => ?_) (fun _ => ?_)
        · exact h7
        · refine State.keeps.step ?_ (sendFault_keeps ..) (by decide +kernel)
          exact h7

/-- What `writeRefEn` may write. -/
def writes_writeRefEn : Nat :=
  writes [.MON_CTRL_REF_EN, .MON_STATUS_REF_READY] [] ||| writes_monWake

theorem writeRefEn_keeps (s : State) (x : ℕ) (on : Bool) :
    State.keeps writes_writeRefEn s (State.writeRefEn s x on) := by
  unfold State.writeRefEn
  refine State.keeps.ite (fun _ => ?_) (fun _ => ?_)
  · refine State.keeps.step ?_ (monWake_keeps ..) (by decide +kernel)
    refine State.keeps.wr ?_ (by decide +kernel)
    exact State.keeps.refl
  · refine State.keeps.step ?_ (monStop_keeps ..) (by decide +kernel)
    refine State.keeps.wr ?_ (by decide +kernel)
    refine State.keeps.wr ?_ (by decide +kernel)
    exact State.keeps.refl

/-- What `writeScanEn` may write. -/
def writes_writeScanEn : Nat :=
  writes [.MON_CTRL_SCAN_EN] [] ||| writes_monWake

theorem writeScanEn_keeps (s : State) (x : ℕ) (on : Bool) :
    State.keeps writes_writeScanEn s (State.writeScanEn s x on) := by
  unfold State.writeScanEn
  refine State.keeps.ite (fun _ => ?_) (fun _ => ?_)
  · refine State.keeps.step ?_ (monWake_keeps ..) (by decide +kernel)
    refine State.keeps.wr ?_ (by decide +kernel)
    exact State.keeps.refl
  · refine State.keeps.step ?_ (monStop_keeps ..) (by decide +kernel)
    refine State.keeps.wr ?_ (by decide +kernel)
    exact State.keeps.refl

/-- What `monCal` may write. -/
def writes_monCal : Nat :=
  writes [.MON_STATUS_CALIBRATING, .MON_STATUS_CAL_REFUSED] [] ||| writes_monStop

theorem monCal_keeps (s : State) (x : ℕ) :
    State.keeps writes_monCal s (State.monCal s x) := by
  unfold State.monCal
  refine State.keeps.ite (fun _ => ?_) (fun _ => ?_)
  · refine State.keeps.wr ?_ (by decide +kernel)
    exact State.keeps.refl
  · refine State.keeps.step ?_ (monStop_keeps ..) (by decide +kernel)
    refine State.keeps.wr ?_ (by decide +kernel)
    exact State.keeps.refl

/-- What `writeMonCtrl` may write. -/
def writes_writeMonCtrl : Nat :=
  writes_writeRefEn ||| writes_writeScanEn ||| writes_monCal

theorem writeMonCtrl_keeps (s : State) (x : ℕ) (w : ℕ) :
    State.keeps writes_writeMonCtrl s (State.writeMonCtrl s x w) := by
  unfold State.writeMonCtrl
  extract_lets -merge -underBinder +onlyGivenNames s1
  have h1 : State.keeps writes_writeMonCtrl s s1 := by
    unfold s1
    refine State.keeps.step ?_ (writeRefEn_keeps ..) (by decide +kernel)
    exact State.keeps.refl
  try clear_value s1
  extract_lets -merge -underBinder +onlyGivenNames s2
  have h2 : State.keeps writes_writeMonCtrl s s2 := by
    unfold s2
    refine State.keeps.step ?_ (writeScanEn_keeps ..) (by decide +kernel)
    exact h1
  try clear_value s2
  refine State.keeps.ite (fun _ => ?_) (fun _ => ?_)
  · refine State.keeps.step ?_ (monCal_keeps ..) (by decide +kernel)
    exact h2
  · exact h2

/-- What `writeMonScan` may write. -/
def writes_writeMonScan : Nat :=
  writes [.MON_SCAN_MASK] [] ||| writes_monWake

theorem writeMonScan_keeps (s : State) (x : ℕ) (w : ℕ) :
    State.keeps writes_writeMonScan s (State.writeMonScan s x w) := by
  unfold State.writeMonScan
  refine State.keeps.step ?_ (monWake_keeps ..) (by decide +kernel)
  refine State.keeps.wr ?_ (by decide +kernel)
  exact State.keeps.refl

/-- What `writeUrgent` may write. -/
def writes_writeUrgent : Nat :=
  writes [.MON_URGENT_CH, .MON_URGENT_TAG] [] ||| writes_urgent

theorem writeUrgent_keeps (s : State) (x : ℕ) (w : ℕ) :
    State.keeps writes_writeUrgent s (State.writeUrgent s x w) := by
  unfold State.writeUrgent
  refine State.keeps.step ?_ (urgent_keeps ..) (by decide +kernel)
  refine State.keeps.wr ?_ (by decide +kernel)
  refine State.keeps.wr ?_ (by decide +kernel)
  exact State.keeps.refl

/-- What `monPop` may write. -/
def writes_monPop : Nat :=
  writes [.MON_QLEVEL_LEVEL] [.convs]

theorem monPop_keeps (s : State) (x : ℕ) :
    State.keeps writes_monPop s (State.monPop s x) := by
  unfold State.monPop
  extract_lets -merge -underBinder +onlyGivenNames y1
  refine State.keeps.wr ?_ (by decide +kernel)
  refine State.keeps.step ?_ (setConv_keeps ..) (by decide +kernel)
  exact State.keeps.refl

/-- What `execMonRefEn` may write. -/
def writes_execMonRefEn : Nat :=
  writes_writeRefEn

theorem execMonRefEn_keeps (x : Sys2Proof.ConvIx) (on : Bool) (s : State) :
    State.answers writes_execMonRefEn s (execMonRefEn x on s) := by
  unfold execMonRefEn
  refine State.answers.next ?_
  refine State.keeps.step ?_ (writeRefEn_keeps ..) (by decide +kernel)
  exact State.keeps.refl

/-- What `execMonRefReady` may write. -/
def writes_execMonRefReady : Nat :=
  writes [.MON_STATUS_REF_READY] []

theorem execMonRefReady_keeps (x : Sys2Proof.ConvIx) (s : State) :
    State.answers writes_execMonRefReady s (execMonRefReady x s) := by
  unfold execMonRefReady
  refine State.answers.next ?_
  refine State.keeps.ite (fun _ => ?_) (fun _ => ?_)
  · refine State.keeps.wr ?_ (by decide +kernel)
    exact State.keeps.refl
  · exact State.keeps.refl

/-- What `execMonCal` may write. -/
def writes_execMonCal : Nat :=
  writes_monCal

theorem execMonCal_keeps (x : Sys2Proof.ConvIx) (s : State) :
    State.answers writes_execMonCal s (execMonCal x s) := by
  unfold execMonCal
  refine State.answers.next ?_
  refine State.keeps.step ?_ (monCal_keeps ..) (by decide +kernel)
  exact State.keeps.refl

/-- What `monCalDone` may write. -/
def writes_monCalDone : Nat :=
  writes [.MON_CAL_GAIN_GAIN, .MON_CAL_OFS_OFS, .MON_STATUS_CALIBRATING, .MON_STATUS_CAL_FAIL,
    .MON_STATUS_CAL_OK] [] ||| writes_monWake ||| writes_sendFault

theorem monCalDone_keeps (s : State) (x : ℕ) (factors : Option (ℤ × ℤ)) :
    State.keeps writes_monCalDone s (State.monCalDone s x factors) := by
  unfold State.monCalDone
  extract_lets -merge -underBinder +onlyGivenNames s1
  have h1 : State.keeps writes_monCalDone s s1 := by
    unfold s1
    refine State.keeps.wr ?_ (by decide +kernel)
    exact State.keeps.refl
  try clear_value s1
  extract_lets -merge -underBinder +onlyGivenNames y2
  split
  · extract_lets -merge -underBinder +onlyGivenNames y3
    extract_lets -merge -underBinder +onlyGivenNames s4
    have h4 : State.keeps writes_monCalDone s s4 := by
      unfold s4
      refine State.keeps.wr ?_ (by decide +kernel)
      refine State.keeps.wr ?_ (by decide +kernel)
      refine State.keeps.step ?_ (setConv_keeps ..) (by decide +kernel)
      exact h1
    try clear_value s4
    extract_lets -merge -underBinder +onlyGivenNames s5
    have h5 : State.keeps writes_monCalDone s s5 := by
      unfold s5
      refine State.keeps.wr ?_ (by decide +kernel)
      exact h4
    try clear_value s5
    refine State.keeps.step ?_ (monWake_keeps ..) (by decide +kernel)
    refine State.keeps.ite (fun _ => ?_) (fun _ => ?_)
    · exact h5
    · refine State.keeps.step ?_ (sendClear_keeps ..) (by decide +kernel)
      exact h5
  · extract_lets -merge -underBinder +onlyGivenNames y6
    extract_lets -merge -underBinder +onlyGivenNames s7
    have h7 : State.keeps writes_monCalDone s s7 := by
      unfold s7
      refine State.keeps.wr ?_ (by decide +kernel)
      refine State.keeps.wr ?_ (by decide +kernel)
      refine State.keeps.step ?_ (setConv_keeps ..) (by decide +kernel)
      exact h1
    try clear_value s7
    refine State.keeps.step ?_ (monWake_keeps ..) (by decide +kernel)
    refine State.keeps.step ?_ (sendFault_keeps ..) (by decide +kernel)
    exact h7

/-- What `execMonCalDone` may write. -/
def writes_execMonCalDone : Nat :=
  writes_monCalDone

theorem execMonCalDone_keeps (x : Sys2Proof.ConvIx) (factors : Option (ℤ × ℤ)) (s : State) :
    State.answers writes_execMonCalDone s (execMonCalDone x factors s) := by
  unfold execMonCalDone
  refine State.answers.next ?_
  refine State.keeps.ite (fun _ => ?_) (fun _ => ?_)
  · refine State.keeps.step ?_ (monCalDone_keeps ..) (by decide +kernel)
    exact State.keeps.refl
  · exact State.keeps.refl

/-- What `converted` may write. -/
def writes_converted : Nat :=
  writes [.MON_CONV_CONVERSIONS, .MON_LAST_CODE, .MON_LAST_CONV, .MON_LAST_FLAGGED, .MON_LAST_VALID] [] |||
    writes_tally ||| writes_monPush ||| writes_crossCheck ||| writes_nextJob ||| writes_setaConversion

theorem converted_keeps (s : State) (x : ℕ) (ch : ℕ) (code : ℕ) (urgent : Bool) (redo : Bool) (tag : ℕ) :
    State.keeps writes_converted s (State.converted s x ch code urgent redo tag) := by
  unfold State.converted
  extract_lets -merge -underBinder +onlyGivenNames y1
  extract_lets -merge -underBinder +onlyGivenNames y2
  extract_lets -merge -underBinder +onlyGivenNames s3
  have h3 : State.keeps writes_converted s s3 := by
    unfold s3
    refine State.keeps.step ?_ (tally_keeps ..) (by decide +kernel)
    refine State.keeps.wr ?_ (by decide +kernel)
    refine State.keeps.step ?_ (monPush_keeps ..) (by decide +kernel)
    exact State.keeps.refl
  try clear_value s3
  extract_lets -merge -underBinder +onlyGivenNames s4
  have h4 : State.keeps writes_converted s s4 := by
    unfold s4
    refine State.keeps.wr ?_ (by decide +kernel)
    refine State.keeps.wr ?_ (by decide +kernel)
    refine State.keeps.wr ?_ (by decide +kernel)
    refine State.keeps.wr ?_ (by decide +kernel)
    exact h3
  try clear_value s4
  extract_lets -merge -underBinder +onlyGivenNames s5
  have h5 : State.keeps writes_converted s s5 := by
    unfold s5
    refine State.keeps.ite (fun _ => ?_) (fun _ => ?_)
    · refine State.keeps.step ?_ (crossCheck_keeps ..) (by decide +kernel)
      exact h4
    · exact h4
  try clear_value s5
  refine State.keeps.step ?_ (nextJob_keeps ..) (by decide +kernel)
  refine State.keeps.ite (fun _ => ?_) (fun _ => ?_)
  · refine State.keeps.step ?_ (setaConversion_keeps ..) (by decide +kernel)
    exact h5
  · exact h5

/-- What `execMonConversionDone` may write. -/
def writes_execMonConversionDone : Nat :=
  writes_converted

theorem execMonConversionDone_keeps (x : Sys2Proof.ConvIx) (code : BitVec 16) (s : State) :
    State.answers writes_execMonConversionDone s (execMonConversionDone x code s) := by
  unfold execMonConversionDone
  refine State.answers.next ?_
  split
  · exact State.keeps.refl
  · refine State.keeps.step ?_ (converted_keeps ..) (by decide +kernel)
    exact State.keeps.refl
  · refine State.keeps.step ?_ (converted_keeps ..) (by decide +kernel)
    exact State.keeps.refl

/-- What `execPlStale` may write. -/
def writes_execPlStale : Nat :=
  writes [.MON_PLAUS_PL_STALE] [] ||| writes_plLost

theorem execPlStale_keeps (s : State) :
    State.answers writes_execPlStale s (execPlStale s) := by
  unfold execPlStale
  refine State.answers.next ?_
  refine State.keeps.step ?_ (plLost_keeps ..) (by decide +kernel)
  refine State.keeps.wr ?_ (by decide +kernel)
  exact State.keeps.refl

/-- What `execMonUrgent` may write. -/
def writes_execMonUrgent : Nat :=
  writes_writeUrgent

theorem execMonUrgent_keeps (x : Sys2Proof.ConvIx) (w : Sys2Proof.Word) (s : State) :
    State.answers writes_execMonUrgent s (execMonUrgent x w s) := by
  unfold execMonUrgent
  refine State.answers.next ?_
  refine State.keeps.step ?_ (writeUrgent_keeps ..) (by decide +kernel)
  exact State.keeps.refl

/-- What `execMonQueueRead` may write. -/
def writes_execMonQueueRead : Nat :=
  writes [] [.readers] ||| writes_via ||| writes_monPop

theorem execMonQueueRead_keeps (q : Sys2Proof.CoreIx) (x : Sys2Proof.ConvIx) (s : State) :
    State.answers writes_execMonQueueRead s (execMonQueueRead q x s) := by
  unfold execMonQueueRead
  refine State.answers.next ?_
  refine via_keeps (by decide +kernel) ?_ (fun s1 h1 => ?_)
  · exact State.keeps.refl
  · refine State.keeps.step ?_ (monPop_keeps ..) (by decide +kernel)
    refine State.keeps.step ?_ (setReader_keeps ..) (by decide +kernel)
    exact h1

end Sys2Proof.Machine
end

