-- ==== Sys2Proof/Laws/PwmKeeps.lean ====
section
/-!
SUPPORT. What each operation of Machine/Pwm.lean may write.
-/

namespace Sys2Proof.Machine

set_option Elab.async false

/-- What `g3Restart` may write. -/
def writes_g3Restart : Nat :=
  writes_unmute

theorem g3Restart_keeps (s : State) (k : ℕ) :
    State.keeps writes_g3Restart s (State.g3Restart s k) := by
  unfold State.g3Restart
  refine State.keeps.ite (fun _ => ?_) (fun _ => ?_)
  · refine State.keeps.forEach ?_ (fun x1 s1 h1 => ?_)
    · exact State.keeps.refl
    · try beta_reduce
      refine State.keeps.step ?_ (unmute_keeps ..) (by decide +kernel)
      exact h1
  · exact State.keeps.refl

/-- What `pwmReview` may write. -/
def writes_pwmReview : Nat :=
  writes_g3Restart ||| writes_gateReview

theorem pwmReview_keeps (s : State) (k : ℕ) :
    State.keeps writes_pwmReview s (State.pwmReview s k) := by
  unfold State.pwmReview
  refine State.keeps.step ?_ (g3Restart_keeps ..) (by decide +kernel)
  refine State.keeps.step ?_ (gateReview_keeps ..) (by decide +kernel)
  exact State.keeps.refl

/-- What `pwmReviewAll` may write. -/
def writes_pwmReviewAll : Nat :=
  writes_pwmReview

theorem pwmReviewAll_keeps (s : State) :
    State.keeps writes_pwmReviewAll s (State.pwmReviewAll s) := by
  unfold State.pwmReviewAll
  refine State.keeps.forEach ?_ (fun x1 s1 h1 => ?_)
  · exact State.keeps.refl
  · try beta_reduce
    refine State.keeps.step ?_ (pwmReview_keeps ..) (by decide +kernel)
    exact h1

/-- What `pwmRelease` may write. -/
def writes_pwmRelease : Nat :=
  writes_pwmReview

theorem pwmRelease_keeps (s : State) (k : ℕ) :
    State.keeps writes_pwmRelease s (State.pwmRelease s k) := by
  unfold State.pwmRelease
  extract_lets -merge -underBinder +onlyGivenNames y1
  refine State.keeps.step ?_ (pwmReview_keeps ..) (by decide +kernel)
  refine State.keeps.ite (fun _ => ?_) (fun _ => ?_)
  · exact State.keeps.refl
  · refine State.keeps.step ?_ (updPwm_keeps ..) (by decide +kernel)
    exact State.keeps.refl

/-- What `g3Trip` may write. -/
def writes_g3Trip : Nat :=
  writes [.PWM_COUNT1_G3_TRIPS] [] ||| writes_mute ||| writes_gateReview ||| writes_sendFault ||| writes_urgent

theorem g3Trip_keeps (s : State) (k : ℕ) (cause : ℕ) (held : Bool) :
    State.keeps writes_g3Trip s (State.g3Trip s k cause held) := by
  unfold State.g3Trip
  extract_lets -merge -underBinder +onlyGivenNames s1
  have h1 : State.keeps writes_g3Trip s s1 := by
    unfold s1
    refine State.keeps.step ?_ (updPwm_keeps ..) (by decide +kernel)
    exact State.keeps.refl
  try clear_value s1
  extract_lets -merge -underBinder +onlyGivenNames s2
  have h2 : State.keeps writes_g3Trip s s2 := by
    unfold s2
    refine State.keeps.ite (fun _ => ?_) (fun _ => ?_)
    · exact h1
    · refine State.keeps.wr ?_ (by decide +kernel)
      exact h1
  try clear_value s2
  extract_lets -merge -underBinder +onlyGivenNames s3
  have h3 : State.keeps writes_g3Trip s s3 := by
    unfold s3
    refine State.keeps.forEach ?_ (fun x4 s4 h4 => ?_)
    · refine State.keeps.step ?_ (gateReview_keeps ..) (by decide +kernel)
      exact h2
    · try beta_reduce
      refine State.keeps.step ?_ (mute_keeps ..) (by decide +kernel)
      exact h4
  try clear_value s3
  refine State.keeps.step ?_ (sendFault_keeps ..) (by decide +kernel)
  refine State.keeps.step ?_ (urgent_keeps ..) (by decide +kernel)
  refine State.keeps.step ?_ (urgent_keeps ..) (by decide +kernel)
  exact h3

/-- What `execG3Trip` may write. -/
def writes_execG3Trip : Nat :=
  writes [.PWM_STATUS_G3_OC, .PWM_STATUS_G3_OV] [] ||| writes_g3Trip

theorem execG3Trip_keeps (k : Sys2Proof.ChanIx) (x : Sys2Proof.Comparison) (s : State) :
    State.answers writes_execG3Trip s (execG3Trip k x s) := by
  unfold execG3Trip
  refine State.answers.next ?_
  refine State.keeps.ite (fun _ => ?_) (fun _ => ?_)
  · exact State.keeps.refl
  · extract_lets -merge -underBinder +onlyGivenNames y1
    extract_lets -merge -underBinder +onlyGivenNames s2
    have h2 : State.keeps writes_execG3Trip s s2 := by
      unfold s2
      refine State.keeps.step ?_ (updPwm_keeps ..) (by decide +kernel)
      exact State.keeps.refl
    try clear_value s2
    refine State.keeps.step ?_ (g3Trip_keeps ..) (by decide +kernel)
    refine State.keeps.wrTo ?_ ?_
    · first | decide +kernel | (repeat' split) <;> decide +kernel
    exact h2

/-- What `fltActivate` may write. -/
def writes_fltActivate : Nat :=
  writes [.PWM_FLT_ACT, .PWM_FLT_FLT_EVENTS, .PWM_FLT_LATCH] [] ||| writes_g3Trip

theorem fltActivate_keeps (s : State) (i : ℕ) :
    State.keeps writes_fltActivate s (State.fltActivate s i) := by
  unfold State.fltActivate
  extract_lets -merge -underBinder +onlyGivenNames y1
  refine State.keeps.ite (fun _ => ?_) (fun _ => ?_)
  · exact State.keeps.refl
  · extract_lets -merge -underBinder +onlyGivenNames y2
    extract_lets -merge -underBinder +onlyGivenNames y3
    extract_lets -merge -underBinder +onlyGivenNames s4
    have h4 : State.keeps writes_fltActivate s s4 := by
      unfold s4
      refine State.keeps.wr ?_ (by decide +kernel)
      refine State.keeps.wr ?_ (by decide +kernel)
      refine State.keeps.wr ?_ (by decide +kernel)
      exact State.keeps.refl
    try clear_value s4
    refine State.keeps.forEach ?_ (fun x5 s5 h5 => ?_)
    · exact h4
    · try beta_reduce
      refine State.keeps.ite (fun _ => ?_) (fun _ => ?_)
      · refine State.keeps.step ?_ (g3Trip_keeps ..) (by decide +kernel)
        exact h5
      · refine State.keeps.step ?_ (sendFault_keeps ..) (by decide +kernel)
        refine State.keeps.step ?_ (gateReview_keeps ..) (by decide +kernel)
        exact h5

/-- What `execFltActivate` may write. -/
def writes_execFltActivate : Nat :=
  writes_fltActivate

theorem execFltActivate_keeps (i : Fin 4) (s : State) :
    State.answers writes_execFltActivate s (execFltActivate i s) := by
  unfold execFltActivate
  refine State.answers.next ?_
  refine State.keeps.step ?_ (fltActivate_keeps ..) (by decide +kernel)
  exact State.keeps.refl

/-- What `execFltInactive` may write. -/
def writes_execFltInactive : Nat :=
  writes [.PWM_FLT_ACT] []

theorem execFltInactive_keeps (i : Fin 4) (s : State) :
    State.answers writes_execFltInactive s (execFltInactive i s) := by
  unfold execFltInactive
  refine State.answers.next ?_
  refine State.keeps.ite (fun _ => ?_) (fun _ => ?_)
  · refine State.keeps.wr ?_ (by decide +kernel)
    exact State.keeps.refl
  · exact State.keeps.refl

/-- What `fltClear` may write. -/
def writes_fltClear : Nat :=
  writes [.PWM_FLT_LATCH] [] ||| writes_pwmReview ||| writes_sendClear

theorem fltClear_keeps (s : State) (i : ℕ) :
    State.keeps writes_fltClear s (State.fltClear s i) := by
  unfold State.fltClear
  extract_lets -merge -underBinder +onlyGivenNames y1
  refine State.keeps.ite (fun _ => ?_) (fun _ => ?_)
  · exact State.keeps.refl
  · refine State.keeps.forEach ?_ (fun x2 s2 h2 => ?_)
    · refine State.keeps.wr ?_ (by decide +kernel)
      exact State.keeps.refl
    · try beta_reduce
      refine State.keeps.step ?_ (pwmReview_keeps ..) (by decide +kernel)
      refine State.keeps.ite (fun _ => ?_) (fun _ => ?_)
      · exact h2
      · refine State.keeps.step ?_ (sendClear_keeps ..) (by decide +kernel)
        exact h2

/-- What `execFltLatchClear` may write. -/
def writes_execFltLatchClear : Nat :=
  writes_fltClear

theorem execFltLatchClear_keeps (i : Fin 4) (s : State) :
    State.answers writes_execFltLatchClear s (execFltLatchClear i s) := by
  unfold execFltLatchClear
  refine State.answers.next ?_
  refine State.keeps.step ?_ (fltClear_keeps ..) (by decide +kernel)
  exact State.keeps.refl

/-- What `senseLow` may write. -/
def writes_senseLow : Nat :=
  writes_sendClear

theorem senseLow_keeps (s : State) (k : ℕ) (cause : ℕ) (since : Option ℕ) :
    State.keeps writes_senseLow s (State.senseLow s k cause since) := by
  unfold State.senseLow
  split
  · refine State.keeps.ite (fun _ => ?_) (fun _ => ?_)
    · refine State.keeps.step ?_ (sendClear_keeps ..) (by decide +kernel)
      exact State.keeps.refl
    · exact State.keeps.refl
  · exact State.keeps.refl

/-- What `execPwmPeriodEnd` may write. -/
def writes_execPwmPeriodEnd : Nat :=
  writes [.PWM_COUNT1_SWN_MISS, .PWM_DT_DT_LAST] [] ||| writes_tally ||| writes_shapePeriod ||| writes_senseLow

theorem execPwmPeriodEnd_keeps (k : Sys2Proof.ChanIx) (x : Sys2Proof.PwmSense) (s : State) :
    State.answers writes_execPwmPeriodEnd s (execPwmPeriodEnd k x s) := by
  unfold execPwmPeriodEnd
  extract_lets -merge -underBinder +onlyGivenNames y1
  extract_lets -merge -underBinder +onlyGivenNames y2
  extract_lets -merge -underBinder +onlyGivenNames y3
  extract_lets -merge -underBinder +onlyGivenNames y4
  extract_lets -merge -underBinder +onlyGivenNames y5
  extract_lets -merge -underBinder +onlyGivenNames y6
  extract_lets -merge -underBinder +onlyGivenNames s7
  have h7 : State.keeps writes_execPwmPeriodEnd s s7 := by
    unfold s7
    refine State.keeps.step ?_ (tally_keeps ..) (by decide +kernel)
    exact State.keeps.refl
  try clear_value s7
  extract_lets -merge -underBinder +onlyGivenNames y8
  extract_lets -merge -underBinder +onlyGivenNames y9
  extract_lets -merge -underBinder +onlyGivenNames s10
  have h10 : State.keeps writes_execPwmPeriodEnd s s10 := by
    unfold s10
    refine State.keeps.ite (fun _ => ?_) (fun _ => ?_)
    · exact h7
    · try clear_value y8
      split
      · refine State.keeps.wr ?_ (by decide +kernel)
        exact h7
      · refine State.keeps.wr ?_ (by decide +kernel)
        refine State.keeps.wr ?_ (by decide +kernel)
        exact h7
  try clear_value s10
  extract_lets -merge -underBinder +onlyGivenNames y11
  extract_lets -merge -underBinder +onlyGivenNames y12
  extract_lets -merge -underBinder +onlyGivenNames y13
  extract_lets -merge -underBinder +onlyGivenNames s14
  have h14 : State.keeps writes_execPwmPeriodEnd s s14 := by
    unfold s14
    refine State.keeps.step ?_ (updPwm_keeps ..) (by decide +kernel)
    refine State.keeps.step ?_ (keepBlank_keeps ..) (by decide +kernel)
    exact h10
  try clear_value s14
  extract_lets -merge -underBinder +onlyGivenNames s15
  have h15 : State.keeps writes_execPwmPeriodEnd s s15 := by
    unfold s15
    split
    · exact h14
    · refine State.keeps.step ?_ (shapePeriod_keeps ..) (by decide +kernel)
      exact h14
  try clear_value s15
  refine State.answers.next ?_
  refine State.keeps.ite (fun _ => ?_) (fun _ => ?_)
  · refine State.keeps.step ?_ (senseLow_keeps ..) (by decide +kernel)
    refine State.keeps.step ?_ (senseLow_keeps ..) (by decide +kernel)
    exact h15
  · exact h15

/-- What `execPwmFallWrite` may write. -/
def writes_execPwmFallWrite : Nat :=
  writes_commitPwm

theorem execPwmFallWrite_keeps (k : Sys2Proof.ChanIx) (w : Sys2Proof.Word) (s : State) :
    State.answers writes_execPwmFallWrite s (execPwmFallWrite k w s) := by
  unfold execPwmFallWrite
  refine State.answers.next ?_
  refine State.keeps.step ?_ (commitPwm_keeps ..) (by decide +kernel)
  exact State.keeps.refl

/-- What `execPwmModeWrite` may write. -/
def writes_execPwmModeWrite : Nat :=
  writes_writeMode

theorem execPwmModeWrite_keeps (k : Sys2Proof.ChanIx) (mode : Fin 4) (s : State) :
    State.answers writes_execPwmModeWrite s (execPwmModeWrite k mode s) := by
  unfold execPwmModeWrite
  refine State.answers.next ?_
  refine State.keeps.step ?_ (writeMode_keeps ..) (by decide +kernel)
  exact State.keeps.refl

/-- What `writeArm` may write. -/
def writes_writeArm : Nat :=
  writes [.PWM_CTRL_ARM] [] ||| writes_pwmReview

theorem writeArm_keeps (s : State) (k : ℕ) (arm : Bool) :
    State.keeps writes_writeArm s (State.writeArm s k arm) := by
  unfold State.writeArm
  refine State.keeps.step ?_ (pwmReview_keeps ..) (by decide +kernel)
  refine State.keeps.wr ?_ (by decide +kernel)
  exact State.keeps.refl

/-- What `execPwmArm` may write. -/
def writes_execPwmArm : Nat :=
  writes_writeArm

theorem execPwmArm_keeps (k : Sys2Proof.ChanIx) (arm : Bool) (s : State) :
    State.answers writes_execPwmArm s (execPwmArm k arm s) := by
  unfold execPwmArm
  refine State.answers.next ?_
  refine State.keeps.step ?_ (writeArm_keeps ..) (by decide +kernel)
  exact State.keeps.refl

/-- What `writePwmCtrl` may write. -/
def writes_writePwmCtrl : Nat :=
  writes [.PWM_CTRL_ADAPT, .PWM_CTRL_STRETCH] [] ||| writes_writeArm ||| writes_writeMode

theorem writePwmCtrl_keeps (s : State) (k : ℕ) (w : ℕ) :
    State.keeps writes_writePwmCtrl s (State.writePwmCtrl s k w) := by
  unfold State.writePwmCtrl
  refine State.keeps.step ?_ (writeArm_keeps ..) (by decide +kernel)
  refine State.keeps.wr ?_ (by decide +kernel)
  refine State.keeps.wr ?_ (by decide +kernel)
  refine State.keeps.step ?_ (writeMode_keeps ..) (by decide +kernel)
  exact State.keeps.refl

/-- What `execPwmFwLimitWrite` may write. -/
def writes_execPwmFwLimitWrite : Nat :=
  writes_writeLimit

theorem execPwmFwLimitWrite_keeps (k : Sys2Proof.ChanIx) (which : Fin 3) (v : BitVec 16) (s : State) :
    State.answers writes_execPwmFwLimitWrite s (execPwmFwLimitWrite k which v s) := by
  unfold execPwmFwLimitWrite
  refine State.answers.next ?_
  refine State.keeps.step ?_ (writeLimit_keeps ..) (by decide +kernel)
  exact State.keeps.refl

/-- What `execPwmFineCal` may write. -/
def writes_execPwmFineCal : Nat :=
  writes [.PWM_GLOBAL_CAL_FAIL, .PWM_GLOBAL_CAL_OK] [] ||| writes_sendFault

theorem execPwmFineCal_keeps (ok : Bool) (s : State) :
    State.answers writes_execPwmFineCal s (execPwmFineCal ok s) := by
  unfold execPwmFineCal
  refine State.answers.next ?_
  refine State.keeps.ite (fun _ => ?_) (fun _ => ?_)
  · refine State.keeps.step ?_ (sendClear_keeps ..) (by decide +kernel)
    refine State.keeps.wr ?_ (by decide +kernel)
    exact State.keeps.refl
  · extract_lets -merge -underBinder +onlyGivenNames s1
    have h1 : State.keeps writes_execPwmFineCal s s1 := by
      unfold s1
      refine State.keeps.wr ?_ (by decide +kernel)
      refine State.keeps.wr ?_ (by decide +kernel)
      exact State.keeps.refl
    try clear_value s1
    refine State.keeps.ite (fun _ => ?_) (fun _ => ?_)
    · exact h1
    · refine State.keeps.step ?_ (sendFault_keeps ..) (by decide +kernel)
      exact h1

/-- What `disarmAll` may write. -/
def writes_disarmAll : Nat :=
  writes_writeArm

theorem disarmAll_keeps (s : State) :
    State.keeps writes_disarmAll s (State.disarmAll s) := by
  unfold State.disarmAll
  refine State.keeps.forEach ?_ (fun x1 s1 h1 => ?_)
  · exact State.keeps.refl
  · try beta_reduce
    refine State.keeps.step ?_ (writeArm_keeps ..) (by decide +kernel)
    exact h1

/-- What `execClkStop` may write. -/
def writes_execClkStop : Nat :=
  writes [.PWM_GLOBAL_CLK_STOP] [] ||| writes_disarmAll

theorem execClkStop_keeps (s : State) :
    State.answers writes_execClkStop s (execClkStop s) := by
  unfold execClkStop
  refine State.answers.next ?_
  refine State.keeps.wr ?_ (by decide +kernel)
  refine State.keeps.step ?_ (disarmAll_keeps ..) (by decide +kernel)
  exact State.keeps.refl

/-- What `execDebugHalt` may write. -/
def writes_execDebugHalt : Nat :=
  writes [.PCR_CTRL_HALTED, .PWM_GLOBAL_DBG_SAFE] [] ||| writes_disarmAll

theorem execDebugHalt_keeps (q : Sys2Proof.CoreIx) (s : State) :
    State.answers writes_execDebugHalt s (execDebugHalt q s) := by
  unfold execDebugHalt
  refine State.answers.next ?_
  refine State.keeps.ite (fun _ => ?_) (fun _ => ?_)
  · refine State.keeps.wr ?_ (by decide +kernel)
    refine State.keeps.wr ?_ (by decide +kernel)
    refine State.keeps.step ?_ (disarmAll_keeps ..) (by decide +kernel)
    exact State.keeps.refl
  · exact State.keeps.refl

/-- What `execRelayMoveEnd` may write. -/
def writes_execRelayMoveEnd : Nat :=
  writes_g3Restart ||| writes_relayEnd

theorem execRelayMoveEnd_keeps (p : Sys2Proof.PortIx) (sensed : Fin 4) (s : State) :
    State.answers writes_execRelayMoveEnd s (execRelayMoveEnd p sensed s) := by
  unfold execRelayMoveEnd
  refine State.answers.next ?_
  refine State.keeps.step ?_ (g3Restart_keeps ..) (by decide +kernel)
  refine State.keeps.step ?_ (relayEnd_keeps ..) (by decide +kernel)
  exact State.keeps.refl

end Sys2Proof.Machine
end

