-- ==== Sys2Proof/Laws/FaultsKeeps.lean ====
section
/-!
SUPPORT. What each operation of Machine/Faults.lean may write.
-/

namespace Sys2Proof.Machine

set_option Elab.async false

/-- What `fenceUnit` may write. -/
def writes_fenceUnit : Nat :=
  writes_bpFence ||| writes_portFence ||| writes_laneFence ||| writes_pwmReview

theorem fenceUnit_keeps (s : State) (u : ℕ) :
    State.keeps writes_fenceUnit s (State.fenceUnit s u) := by
  unfold State.fenceUnit
  refine State.keeps.ite (fun _ => ?_) (fun _ => ?_)
  · refine State.keeps.step ?_ (bpFence_keeps ..) (by decide +kernel)
    exact State.keeps.refl
  · refine State.keeps.ite (fun _ => ?_) (fun _ => ?_)
    · refine State.keeps.step ?_ (portFence_keeps ..) (by decide +kernel)
      exact State.keeps.refl
    · refine State.keeps.ite (fun _ => ?_) (fun _ => ?_)
      · exact State.keeps.refl
      · refine State.keeps.ite (fun _ => ?_) (fun _ => ?_)
        · refine State.keeps.step ?_ (laneFence_keeps ..) (by decide +kernel)
          exact State.keeps.refl
        · refine State.keeps.step ?_ (pwmReview_keeps ..) (by decide +kernel)
          exact State.keeps.refl

/-- What `releaseUnit` may write. -/
def writes_releaseUnit : Nat :=
  writes_bpRelease ||| writes_portRelease ||| writes_laneRelease ||| writes_pwmRelease

theorem releaseUnit_keeps (s : State) (u : ℕ) :
    State.keeps writes_releaseUnit s (State.releaseUnit s u) := by
  unfold State.releaseUnit
  refine State.keeps.ite (fun _ => ?_) (fun _ => ?_)
  · refine State.keeps.step ?_ (bpRelease_keeps ..) (by decide +kernel)
    exact State.keeps.refl
  · refine State.keeps.ite (fun _ => ?_) (fun _ => ?_)
    · refine State.keeps.ite (fun _ => ?_) (fun _ => ?_)
      · exact State.keeps.refl
      · refine State.keeps.step ?_ (portRelease_keeps ..) (by decide +kernel)
        exact State.keeps.refl
    · refine State.keeps.ite (fun _ => ?_) (fun _ => ?_)
      · exact State.keeps.refl
      · refine State.keeps.ite (fun _ => ?_) (fun _ => ?_)
        · refine State.keeps.step ?_ (laneRelease_keeps ..) (by decide +kernel)
          exact State.keeps.refl
        · refine State.keeps.step ?_ (pwmRelease_keeps ..) (by decide +kernel)
          exact State.keeps.refl

/-- What `showUnit` may write. -/
def writes_showUnit : Nat :=
  writes [.FCL_UNIT_FENCE, .FCL_UNIT_OWN] []

theorem showUnit_keeps (s : State) (u : ℕ) :
    State.keeps writes_showUnit s (State.showUnit s u) := by
  unfold State.showUnit
  refine State.keeps.wr ?_ (by decide +kernel)
  refine State.keeps.wr ?_ (by decide +kernel)
  exact State.keeps.refl

/-- What `showCond` may write. -/
def writes_showCond : Nat :=
  writes [.FCL_UNIT_COND] []

theorem showCond_keeps (s : State) (u : ℕ) :
    State.keeps writes_showCond s (State.showCond s u) := by
  unfold State.showCond
  refine State.keeps.ite (fun _ => ?_) (fun _ => ?_)
  · refine State.keeps.wr ?_ (by decide +kernel)
    exact State.keeps.refl
  · exact State.keeps.refl

/-- What `fencesChanged` may write. -/
def writes_fencesChanged : Nat :=
  writes [.FCL_STATUS_ALIVE_RUN, .FCL_STATUS_BYPASS, .FCL_STATUS_MAX_FENCE] [.fcl] ||| writes_pwmReviewAll

theorem fencesChanged_keeps (s : State) :
    State.keeps writes_fencesChanged s (State.fencesChanged s) := by
  unfold State.fencesChanged
  extract_lets -merge -underBinder +onlyGivenNames s1
  have h1 : State.keeps writes_fencesChanged s s1 := by
    unfold s1
    refine State.keeps.wr ?_ (by decide +kernel)
    refine State.keeps.wr ?_ (by decide +kernel)
    exact State.keeps.refl
  try clear_value s1
  extract_lets -merge -underBinder +onlyGivenNames s2
  have h2 : State.keeps writes_fencesChanged s s2 := by
    unfold s2
    refine State.keeps.wr ?_ (by decide +kernel)
    exact h1
  try clear_value s2
  extract_lets -merge -underBinder +onlyGivenNames y3
  extract_lets -merge -underBinder +onlyGivenNames s4
  have h4 : State.keeps writes_fencesChanged s s4 := by
    unfold s4
    refine State.keeps.ite (fun _ => ?_) (fun _ => ?_)
    · refine (State.keeps.put_fcl ?_ _ (by decide +kernel))
      exact h2
    · exact h1
  try clear_value s4
  refine State.keeps.step ?_ (pwmReviewAll_keeps ..) (by decide +kernel)
  exact h4

/-- What `applyFence` may write. -/
def writes_applyFence : Nat :=
  writes_fencesChanged ||| writes_showUnit ||| writes_fenceUnit

theorem applyFence_keeps (s : State) (source : ℕ) (level : ℕ) (cause : Cond) :
    State.keeps writes_applyFence s (State.applyFence s source level cause) := by
  unfold State.applyFence
  extract_lets -merge -underBinder +onlyGivenNames y1
  extract_lets -merge -underBinder +onlyGivenNames y2
  refine State.keeps.ite (fun _ => ?_) (fun _ => ?_)
  · exact State.keeps.refl
  · extract_lets -merge -underBinder +onlyGivenNames y3
    extract_lets -merge -underBinder +onlyGivenNames y4
    extract_lets -merge -underBinder +onlyGivenNames y5
    extract_lets -merge -underBinder +onlyGivenNames y6
    extract_lets -merge -underBinder +onlyGivenNames y7
    extract_lets -merge -underBinder +onlyGivenNames s8
    have h8 : State.keeps writes_applyFence s s8 := by
      unfold s8
      refine (State.keeps.put_fcl ?_ _ (by decide +kernel))
      exact State.keeps.refl
    try clear_value s8
    extract_lets -merge -underBinder +onlyGivenNames s9
    have h9 : State.keeps writes_applyFence s s9 := by
      unfold s9
      refine State.keeps.ite (fun _ => ?_) (fun _ => ?_)
      · refine State.keeps.step ?_ (raise_keeps ..) (by decide +kernel)
        exact h8
      · exact h8
    try clear_value s9
    refine State.keeps.step ?_ (fencesChanged_keeps ..) (by decide +kernel)
    refine State.keeps.forEach ?_ (fun x10 s10 h10 => ?_)
    · exact h9
    · try beta_reduce
      refine State.keeps.step ?_ (showUnit_keeps ..) (by decide +kernel)
      refine State.keeps.step ?_ (fenceUnit_keeps ..) (by decide +kernel)
      exact h10

/-- What `dropFence` may write. -/
def writes_dropFence : Nat :=
  writes [.COL_CAGE_STATUS_LOW_POWER] [] ||| writes_fencesChanged ||| writes_showUnit ||| writes_releaseUnit

theorem dropFence_keeps (s : State) (f : Fence) :
    State.keeps writes_dropFence s (State.dropFence s f) := by
  unfold State.dropFence
  extract_lets -merge -underBinder +onlyGivenNames y1
  extract_lets -merge -underBinder +onlyGivenNames s2
  have h2 : State.keeps writes_dropFence s s2 := by
    unfold s2
    refine (State.keeps.put_fcl ?_ _ (by decide +kernel))
    exact State.keeps.refl
  try clear_value s2
  extract_lets -merge -underBinder +onlyGivenNames s3
  have h3 : State.keeps writes_dropFence s s3 := by
    unfold s3
    refine State.keeps.ite (fun _ => ?_) (fun _ => ?_)
    · refine State.keeps.wr ?_ (by decide +kernel)
      exact h2
    · exact h2
  try clear_value s3
  refine State.keeps.step ?_ (fencesChanged_keeps ..) (by decide +kernel)
  refine State.keeps.forEach ?_ (fun x4 s4 h4 => ?_)
  · exact h3
  · try beta_reduce
    refine State.keeps.step ?_ (showUnit_keeps ..) (by decide +kernel)
    refine State.keeps.ite (fun _ => ?_) (fun _ => ?_)
    · refine State.keeps.ite (fun _ => ?_) (fun _ => ?_)
      · refine State.keeps.step ?_ (relayReview_keeps ..) (by decide +kernel)
        exact h4
      · exact h4
    · refine State.keeps.step ?_ (releaseUnit_keeps ..) (by decide +kernel)
      exact h4

/-- What `quietNow` may write. -/
def writes_quietNow : Nat :=
  writes [] [.fcl]

theorem quietNow_keeps (s : State) (u : ℕ) :
    State.keeps writes_quietNow s (State.quietNow s u) := by
  unfold State.quietNow
  refine (State.keeps.put_fcl ?_ _ (by decide +kernel))
  exact State.keeps.refl

/-- What `showClass` may write. -/
def writes_showClass : Nat :=
  writes [.FCL_CLASS_LEVEL, .FCL_CLASS_OPEN] []

theorem showClass_keeps (s : State) :
    State.keeps writes_showClass s (State.showClass s) := by
  unfold State.showClass
  extract_lets -merge -underBinder +onlyGivenNames y1
  refine State.keeps.wr ?_ (by decide +kernel)
  refine State.keeps.wr ?_ (by decide +kernel)
  exact State.keeps.refl

/-- What `closeClasses` may write. -/
def writes_closeClasses : Nat :=
  writes [] [.fcl] ||| writes_showClass

theorem closeClasses_keeps (s : State) (p : FaultClass → Bool) :
    State.keeps writes_closeClasses s (State.closeClasses s p) := by
  unfold State.closeClasses
  refine State.keeps.step ?_ (showClass_keeps ..) (by decide +kernel)
  refine (State.keeps.put_fcl ?_ _ (by decide +kernel))
  exact State.keeps.refl

/-- What `capture'` may write. -/
def writes_capture' : Nat :=
  writes [.FCL_FIRST_INFO_EFF_LEVEL, .FCL_FIRST_INFO_ESCALATED, .FCL_FIRST_INFO_GONE, .FCL_FIRST_INFO_OVF,
    .FCL_FIRST_INFO_OVF_COUNT, .FCL_FIRST_INFO_TAG, .FCL_FIRST_MSG, .FCL_INJ_INFO_EFF_LEVEL,
    .FCL_INJ_INFO_ESCALATED, .FCL_INJ_INFO_GONE, .FCL_INJ_INFO_OVF, .FCL_INJ_INFO_OVF_COUNT, .FCL_INJ_INFO_TAG,
    .FCL_INJ_MSG, .FCL_STATUS_INJ_LATCHED, .FCL_STATUS_LATCHED] [] ||| writes_raise

theorem capture'_keeps (s : State) (m : FaultMsg) (eff : ℕ) (esc : Bool) :
    State.keeps writes_capture' s (State.capture' s m eff esc) := by
  unfold State.capture'
  extract_lets -merge -underBinder +onlyGivenNames y1
  refine State.keeps.ite (fun _ => ?_) (fun _ => ?_)
  · refine State.keeps.wrTo ?_ ?_
    · unfold y1; unfold latchRegs; first | decide +kernel | (repeat' split) <;> decide +kernel
    refine State.keeps.wrTo ?_ ?_
    · unfold y1; unfold latchRegs; first | decide +kernel | (repeat' split) <;> decide +kernel
    exact State.keeps.refl
  · extract_lets -merge -underBinder +onlyGivenNames y2
    extract_lets -merge -underBinder +onlyGivenNames s3
    have h3 : State.keeps writes_capture' s s3 := by
      unfold s3
      refine State.keeps.foldl ?_ (fun s4 x4 h4 => ?_)
      · exact State.keeps.refl
      · try beta_reduce
        refine State.keeps.wrTo ?_ ?_
        · unfold y1; unfold latchRegs; first | decide +kernel | (repeat' split) <;> decide +kernel
        exact h4
    try clear_value s3
    extract_lets -merge -underBinder +onlyGivenNames s5
    have h5 : State.keeps writes_capture' s s5 := by
      unfold s5
      refine State.keeps.wrTo ?_ ?_
      · unfold y1; unfold latchRegs; first | decide +kernel | (repeat' split) <;> decide +kernel
      refine State.keeps.wrTo ?_ ?_
      · unfold y1; unfold latchRegs; first | decide +kernel | (repeat' split) <;> decide +kernel
      refine State.keeps.wrTo ?_ ?_
      · unfold y1; unfold latchRegs; first | decide +kernel | (repeat' split) <;> decide +kernel
      refine State.keeps.wrTo ?_ ?_
      · unfold y1; unfold latchRegs; first | decide +kernel | (repeat' split) <;> decide +kernel
      refine State.keeps.wrTo ?_ ?_
      · unfold y1; unfold latchRegs; first | decide +kernel | (repeat' split) <;> decide +kernel
      exact h3
    try clear_value s5
    extract_lets -merge -underBinder +onlyGivenNames s6
    have h6 : State.keeps writes_capture' s s6 := by
      unfold s6
      refine State.keeps.wrTo ?_ ?_
      · unfold y1; unfold latchRegs; first | decide +kernel | (repeat' split) <;> decide +kernel
      refine State.keeps.wrTo ?_ ?_
      · unfold y1; unfold latchRegs; first | decide +kernel | (repeat' split) <;> decide +kernel
      exact h5
    try clear_value s6
    refine State.keeps.ite (fun _ => ?_) (fun _ => ?_)
    · exact h6
    · refine State.keeps.step ?_ (raise_keeps ..) (by decide +kernel)
      exact h6

/-- What `ack` may write. -/
def writes_ack : Nat :=
  writes [.FCL_FIRST_INFO_EFF_LEVEL, .FCL_FIRST_INFO_ESCALATED, .FCL_FIRST_INFO_GONE, .FCL_FIRST_INFO_OVF,
    .FCL_FIRST_INFO_OVF_COUNT, .FCL_FIRST_INFO_TAG, .FCL_FIRST_MSG, .FCL_INJ_INFO_EFF_LEVEL,
    .FCL_INJ_INFO_ESCALATED, .FCL_INJ_INFO_GONE, .FCL_INJ_INFO_OVF, .FCL_INJ_INFO_OVF_COUNT, .FCL_INJ_INFO_TAG,
    .FCL_INJ_MSG, .FCL_STATUS_ACK_REFUSED, .FCL_STATUS_INJ_LATCHED, .FCL_STATUS_LATCHED] [] ||| writes_closeClasses

theorem ack_keeps (s : State) (inj : Bool) (tag : ℕ) :
    State.keeps writes_ack s (State.ack s inj tag) := by
  unfold State.ack
  extract_lets -merge -underBinder +onlyGivenNames y1
  refine State.keeps.ite (fun _ => ?_) (fun _ => ?_)
  · refine State.keeps.wr ?_ (by decide +kernel)
    exact State.keeps.refl
  · extract_lets -merge -underBinder +onlyGivenNames y2
    extract_lets -merge -underBinder +onlyGivenNames y3
    refine State.keeps.step ?_ (closeClasses_keeps ..) (by decide +kernel)
    refine State.keeps.wrTo ?_ ?_
    · unfold y1; unfold latchRegs; first | decide +kernel | (repeat' split) <;> decide +kernel
    refine State.keeps.wrTo ?_ ?_
    · unfold y1; unfold latchRegs; first | decide +kernel | (repeat' split) <;> decide +kernel
    refine State.keeps.wrTo ?_ ?_
    · unfold y1; unfold latchRegs; first | decide +kernel | (repeat' split) <;> decide +kernel
    refine State.keeps.wrTo ?_ ?_
    · unfold y1; unfold latchRegs; first | decide +kernel | (repeat' split) <;> decide +kernel
    exact State.keeps.refl

/-- What `recordFault` may write. -/
def writes_recordFault : Nat :=
  writes_recordEvent

theorem recordFault_keeps (s : State) (m : FaultMsg) (eff : ℕ) (esc : Bool) (latched : Bool) (ovf : Bool) :
    State.keeps writes_recordFault s (State.recordFault s m eff esc latched ovf) := by
  unfold State.recordFault
  refine State.keeps.step ?_ (recordEvent_keeps ..) (by decide +kernel)
  exact State.keeps.refl

/-- What `acceptAssert` may write. -/
def writes_acceptAssert : Nat :=
  writes [.FCL_COUNT_NOTICES, .FCL_UNIT_LAST_CAUSE] [] ||| writes_showCond ||| writes_showClass |||
    writes_capture' ||| writes_recordFault ||| writes_applyFence

theorem acceptAssert_keeps (s : State) (m : FaultMsg) :
    State.keeps writes_acceptAssert s (State.acceptAssert s m) := by
  unfold State.acceptAssert
  split
  · extract_lets -merge -underBinder +onlyGivenNames y1
    extract_lets -merge -underBinder +onlyGivenNames y2
    extract_lets -merge -underBinder +onlyGivenNames y3
    extract_lets -merge -underBinder +onlyGivenNames y4
    extract_lets -merge -underBinder +onlyGivenNames s5
    have h5 : State.keeps writes_acceptAssert s s5 := by
      unfold s5
      refine State.keeps.step ?_ (quietNow_keeps ..) (by decide +kernel)
      refine State.keeps.step ?_ (showCond_keeps ..) (by decide +kernel)
      refine State.keeps.step ?_ (showClass_keeps ..) (by decide +kernel)
      refine (State.keeps.put_fcl ?_ _ (by decide +kernel))
      exact State.keeps.refl
    try clear_value s5
    extract_lets -merge -underBinder +onlyGivenNames s6
    have h6 : State.keeps writes_acceptAssert s s6 := by
      unfold s6
      refine State.keeps.ite (fun _ => ?_) (fun _ => ?_)
      · refine State.keeps.wr ?_ (by decide +kernel)
        exact h5
      · exact h5
    try clear_value s6
    extract_lets -merge -underBinder +onlyGivenNames y7
    extract_lets -merge -underBinder +onlyGivenNames s8
    have h8 : State.keeps writes_acceptAssert s s8 := by
      unfold s8
      refine State.keeps.ite (fun _ => ?_) (fun _ => ?_)
      · refine State.keeps.wr ?_ (by decide +kernel)
        exact h6
      · refine State.keeps.step ?_ (capture'_keeps ..) (by decide +kernel)
        exact h6
    try clear_value s8
    extract_lets -merge -underBinder +onlyGivenNames s9
    have h9 : State.keeps writes_acceptAssert s s9 := by
      unfold s9
      refine State.keeps.step ?_ (tally_keeps ..) (by decide +kernel)
      refine State.keeps.step ?_ (recordFault_keeps ..) (by decide +kernel)
      exact h8
    try clear_value s9
    refine State.keeps.ite (fun _ => ?_) (fun _ => ?_)
    · exact h9
    · refine State.keeps.step ?_ (applyFence_keeps ..) (by decide +kernel)
      exact h9

/-- What `acceptClear` may write. -/
def writes_acceptClear : Nat :=
  writes [.FCL_FIRST_INFO_EFF_LEVEL, .FCL_FIRST_INFO_ESCALATED, .FCL_FIRST_INFO_GONE, .FCL_FIRST_INFO_OVF,
    .FCL_FIRST_INFO_OVF_COUNT, .FCL_FIRST_INFO_TAG, .FCL_FIRST_MSG, .FCL_INJ_INFO_EFF_LEVEL,
    .FCL_INJ_INFO_ESCALATED, .FCL_INJ_INFO_GONE, .FCL_INJ_INFO_OVF, .FCL_INJ_INFO_OVF_COUNT, .FCL_INJ_INFO_TAG,
    .FCL_INJ_MSG, .FCL_STATUS_INJ_LATCHED, .FCL_STATUS_LATCHED] [] ||| writes_quietNow ||| writes_showCond |||
    writes_tally ||| writes_recordFault

theorem acceptClear_keeps (s : State) (m : FaultMsg) :
    State.keeps writes_acceptClear s (State.acceptClear s m) := by
  unfold State.acceptClear
  extract_lets -merge -underBinder +onlyGivenNames y1
  extract_lets -merge -underBinder +onlyGivenNames y2
  extract_lets -merge -underBinder +onlyGivenNames s3
  have h3 : State.keeps writes_acceptClear s s3 := by
    unfold s3
    refine State.keeps.step ?_ (quietNow_keeps ..) (by decide +kernel)
    refine State.keeps.step ?_ (showCond_keeps ..) (by decide +kernel)
    refine (State.keeps.put_fcl ?_ _ (by decide +kernel))
    exact State.keeps.refl
  try clear_value s3
  extract_lets -merge -underBinder +onlyGivenNames s4
  have h4 : State.keeps writes_acceptClear s s4 := by
    unfold s4
    refine State.keeps.ite (fun _ => ?_) (fun _ => ?_)
    · refine State.keeps.wrTo ?_ ?_
      · unfold latchRegs; first | decide +kernel | (repeat' split) <;> decide +kernel
      exact h3
    · exact h3
  try clear_value s4
  refine State.keeps.step ?_ (tally_keeps ..) (by decide +kernel)
  refine State.keeps.step ?_ (recordFault_keeps ..) (by decide +kernel)
  exact h4

/-- What `execFaultMessage` may write. -/
def writes_execFaultMessage : Nat :=
  writes_acceptAssert

theorem execFaultMessage_keeps (s : State) :
    State.answers writes_execFaultMessage s (execFaultMessage s) := by
  unfold execFaultMessage
  refine State.answers.next ?_
  split
  · refine State.keeps.ite (fun _ => ?_) (fun _ => ?_)
    · exact State.keeps.refl
    · refine State.keeps.step ?_ (acceptAssert_keeps ..) (by decide +kernel)
      refine (State.keeps.put_net ?_ _ (by decide +kernel))
      exact State.keeps.refl
  · exact State.keeps.refl

/-- What `execFaultClear` may write. -/
def writes_execFaultClear : Nat :=
  writes [] [.net] ||| writes_acceptClear

theorem execFaultClear_keeps (s : State) :
    State.answers writes_execFaultClear s (execFaultClear s) := by
  unfold execFaultClear
  refine State.answers.next ?_
  split
  · refine State.keeps.ite (fun _ => ?_) (fun _ => ?_)
    · refine State.keeps.step ?_ (acceptClear_keeps ..) (by decide +kernel)
      refine (State.keeps.put_net ?_ _ (by decide +kernel))
      exact State.keeps.refl
    · exact State.keeps.refl
  · exact State.keeps.refl

/-- What `execFclAck` may write. -/
def writes_execFclAck : Nat :=
  writes [.FCL_CTRL_ACK_TAG] [] ||| writes_via ||| writes_ack

theorem execFclAck_keeps (who : Sys2Proof.Requester) (tag : BitVec 8) (s : State) :
    State.answers writes_execFclAck s (execFclAck who tag s) := by
  unfold execFclAck
  refine State.answers.next ?_
  refine via_keeps (by decide +kernel) ?_ (fun s1 h1 => ?_)
  · exact State.keeps.refl
  · refine State.keeps.step ?_ (ack_keeps ..) (by decide +kernel)
    refine State.keeps.wr ?_ (by decide +kernel)
    exact h1

/-- What `execFclAckInj` may write. -/
def writes_execFclAckInj : Nat :=
  writes [.FCL_CTRL_ACK_TAG] [] ||| writes_via ||| writes_ack

theorem execFclAckInj_keeps (q : Sys2Proof.CoreIx) (tag : BitVec 8) (s : State) :
    State.answers writes_execFclAckInj s (execFclAckInj q tag s) := by
  unfold execFclAckInj
  refine State.answers.next ?_
  refine via_keeps (by decide +kernel) ?_ (fun s1 h1 => ?_)
  · exact State.keeps.refl
  · refine State.keeps.step ?_ (ack_keeps ..) (by decide +kernel)
    refine State.keeps.wr ?_ (by decide +kernel)
    exact h1

/-- What `writeFclCtrl` may write. -/
def writes_writeFclCtrl : Nat :=
  writes [.FCL_CTRL_ACK_TAG] [] ||| writes_ack

theorem writeFclCtrl_keeps (s : State) (w : ℕ) (fw : Bool) :
    State.keeps writes_writeFclCtrl s (State.writeFclCtrl s w fw) := by
  unfold State.writeFclCtrl
  extract_lets -merge -underBinder +onlyGivenNames y1
  extract_lets -merge -underBinder +onlyGivenNames s2
  have h2 : State.keeps writes_writeFclCtrl s s2 := by
    unfold s2
    refine State.keeps.wr ?_ (by decide +kernel)
    exact State.keeps.refl
  try clear_value s2
  extract_lets -merge -underBinder +onlyGivenNames s3
  have h3 : State.keeps writes_writeFclCtrl s s3 := by
    unfold s3
    refine State.keeps.ite (fun _ => ?_) (fun _ => ?_)
    · refine State.keeps.step ?_ (ack_keeps ..) (by decide +kernel)
      exact h2
    · exact h2
  try clear_value s3
  refine State.keeps.ite (fun _ => ?_) (fun _ => ?_)
  · refine State.keeps.step ?_ (ack_keeps ..) (by decide +kernel)
    exact h3
  · exact h3

/-- What `writeAckClass` may write. -/
def writes_writeAckClass : Nat :=
  writes [.FCL_ACK_CLASS_ALL, .FCL_ACK_CLASS_CAUSE, .FCL_ACK_CLASS_INJ, .FCL_ACK_CLASS_SOURCE] [] |||
    writes_closeClasses

theorem writeAckClass_keeps (s : State) (w : ℕ) :
    State.keeps writes_writeAckClass s (State.writeAckClass s w) := by
  unfold State.writeAckClass
  extract_lets -merge -underBinder +onlyGivenNames s1
  have h1 : State.keeps writes_writeAckClass s s1 := by
    unfold s1
    refine State.keeps.wr ?_ (by decide +kernel)
    refine State.keeps.wr ?_ (by decide +kernel)
    refine State.keeps.wr ?_ (by decide +kernel)
    refine State.keeps.wr ?_ (by decide +kernel)
    exact State.keeps.refl
  try clear_value s1
  refine State.keeps.ite (fun _ => ?_) (fun _ => ?_)
  · refine State.keeps.step ?_ (closeClasses_keeps ..) (by decide +kernel)
    exact h1
  · exact h1

/-- What `execFclAckClass` may write. -/
def writes_execFclAckClass : Nat :=
  writes_via ||| writes_writeAckClass

theorem execFclAckClass_keeps (q : Sys2Proof.CoreIx) (w : Sys2Proof.Word) (s : State) :
    State.answers writes_execFclAckClass s (execFclAckClass q w s) := by
  unfold execFclAckClass
  refine State.answers.next ?_
  refine via_keeps (by decide +kernel) ?_ (fun s1 h1 => ?_)
  · exact State.keeps.refl
  · refine State.keeps.step ?_ (writeAckClass_keeps ..) (by decide +kernel)
    exact h1

/-- What `showHour` may write. -/
def writes_showHour : Nat :=
  writes [.FCL_UNIT_RECOV_HOUR] []

theorem showHour_keeps (s : State) (u : ℕ) :
    State.keeps writes_showHour s (State.showHour s u) := by
  unfold State.showHour
  refine State.keeps.ite (fun _ => ?_) (fun _ => ?_)
  · refine State.keeps.wr ?_ (by decide +kernel)
    exact State.keeps.refl
  · exact State.keeps.refl

/-- What `recordRecovery` may write. -/
def writes_recordRecovery : Nat :=
  writes_record

theorem recordRecovery_keeps (s : State) (u : ℕ) (kind : ℕ) :
    State.keeps writes_recordRecovery s (State.recordRecovery s u kind) := by
  unfold State.recordRecovery
  refine State.keeps.step ?_ (record_keeps ..) (by decide +kernel)
  exact State.keeps.refl

/-- What `recover` may write. -/
def writes_recover : Nat :=
  writes [.FCL_UNIT_LIMITED, .FCL_UNIT_RECOVERIES] [] ||| writes_dropFence ||| writes_recordRecovery |||
    writes_showHour

theorem recover_keeps (s : State) (f : Fence) (kind : ℕ) :
    State.keeps writes_recover s (State.recover s f kind) := by
  unfold State.recover
  extract_lets -merge -underBinder +onlyGivenNames y1
  extract_lets -merge -underBinder +onlyGivenNames y2
  extract_lets -merge -underBinder +onlyGivenNames y3
  extract_lets -merge -underBinder +onlyGivenNames s4
  have h4 : State.keeps writes_recover s s4 := by
    unfold s4
    refine (State.keeps.put_fcl ?_ _ (by decide +kernel))
    exact State.keeps.refl
  try clear_value s4
  extract_lets -merge -underBinder +onlyGivenNames s5
  have h5 : State.keeps writes_recover s s5 := by
    unfold s5
    refine State.keeps.ite (fun _ => ?_) (fun _ => ?_)
    · refine State.keeps.wr ?_ (by decide +kernel)
      refine State.keeps.wr ?_ (by decide +kernel)
      exact h4
    · exact h4
  try clear_value s5
  refine State.keeps.step ?_ (dropFence_keeps ..) (by decide +kernel)
  refine State.keeps.step ?_ (recordRecovery_keeps ..) (by decide +kernel)
  refine State.keeps.step ?_ (showHour_keeps ..) (by decide +kernel)
  exact h5

/-- What `execFenceRecovery` may write. -/
def writes_execFenceRecovery : Nat :=
  writes_recover

theorem execFenceRecovery_keeps (u : BitVec 8) (s : State) :
    State.answers writes_execFenceRecovery s (execFenceRecovery u s) := by
  unfold execFenceRecovery
  refine State.answers.next ?_
  split
  · exact State.keeps.refl
  · refine State.keeps.ite (fun _ => ?_) (fun _ => ?_)
    · exact State.keeps.refl
    · refine State.keeps.ite (fun _ => ?_) (fun _ => ?_)
      · extract_lets -merge -underBinder +onlyGivenNames y1
        extract_lets -merge -underBinder +onlyGivenNames s2
        have h2 : State.keeps writes_execFenceRecovery s s2 := by
          unfold s2
          refine (State.keeps.put_fcl ?_ _ (by decide +kernel))
          exact State.keeps.refl
        try clear_value s2
        refine State.keeps.step ?_ (recordRecovery_keeps ..) (by decide +kernel)
        refine State.keeps.ite (fun _ => ?_) (fun _ => ?_)
        · refine State.keeps.wr ?_ (by decide +kernel)
          exact h2
        · exact h2
      · refine State.keeps.step ?_ (recover_keeps ..) (by decide +kernel)
        exact State.keeps.refl

/-- What `releaseFence` may write. -/
def writes_releaseFence : Nat :=
  writes [.FCL_STATUS_REL_REFUSED] [] ||| writes_recover

theorem releaseFence_keeps (s : State) (u : ℕ) :
    State.keeps writes_releaseFence s (State.releaseFence s u) := by
  unfold State.releaseFence
  split
  · exact State.keeps.refl
  · refine State.keeps.ite (fun _ => ?_) (fun _ => ?_)
    · refine State.keeps.wr ?_ (by decide +kernel)
      exact State.keeps.refl
    · refine State.keeps.step ?_ (recover_keeps ..) (by decide +kernel)
      exact State.keeps.refl

/-- What `writeRelease` may write. -/
def writes_writeRelease : Nat :=
  writes [.FCL_RELEASE_UNIT] [] ||| writes_releaseFence

theorem writeRelease_keeps (s : State) (w : ℕ) :
    State.keeps writes_writeRelease s (State.writeRelease s w) := by
  unfold State.writeRelease
  extract_lets -merge -underBinder +onlyGivenNames s1
  have h1 : State.keeps writes_writeRelease s s1 := by
    unfold s1
    refine State.keeps.wr ?_ (by decide +kernel)
    exact State.keeps.refl
  try clear_value s1
  refine State.keeps.ite (fun _ => ?_) (fun _ => ?_)
  · refine State.keeps.step ?_ (releaseFence_keeps ..) (by decide +kernel)
    exact h1
  · exact h1

/-- What `execFclRelease` may write. -/
def writes_execFclRelease : Nat :=
  writes_via ||| writes_writeRelease

theorem execFclRelease_keeps (q : Sys2Proof.CoreIx) (w : Sys2Proof.Word) (s : State) :
    State.answers writes_execFclRelease s (execFclRelease q w s) := by
  unfold execFclRelease
  refine State.answers.next ?_
  refine via_keeps (by decide +kernel) ?_ (fun s1 h1 => ?_)
  · exact State.keeps.refl
  · refine State.keeps.step ?_ (writeRelease_keeps ..) (by decide +kernel)
    exact h1

/-- What `execAliveToggle` may write. -/
def writes_execAliveToggle : Nat :=
  writes [.FCL_STATUS_ALIVE_RUN] [.fcl]

theorem execAliveToggle_keeps (s : State) :
    State.answers writes_execAliveToggle s (execAliveToggle s) := by
  unfold execAliveToggle
  refine State.answers.next ?_
  refine State.keeps.ite (fun _ => ?_) (fun _ => ?_)
  · extract_lets -merge -underBinder +onlyGivenNames s1
    have h1 : State.keeps writes_execAliveToggle s s1 := by
      unfold s1
      refine State.keeps.wr ?_ (by decide +kernel)
      exact State.keeps.refl
    try clear_value s1
    refine (State.keeps.put_fcl ?_ _ (by decide +kernel))
    exact h1
  · extract_lets -merge -underBinder +onlyGivenNames s2
    have h2 : State.keeps writes_execAliveToggle s s2 := by
      unfold s2
      refine State.keeps.wr ?_ (by decide +kernel)
      exact State.keeps.refl
    try clear_value s2
    refine (State.keeps.put_fcl ?_ _ (by decide +kernel))
    exact h2

/-- What `inject` may write. -/
def writes_inject : Nat :=
  writes [.FCL_COUNT_MERGED, .FCL_INJECT_HI_DETAIL, .FCL_STATUS_INJ_REFUSED] [.net]

theorem inject_keeps (s : State) (detail : ℕ) :
    State.keeps writes_inject s (State.inject s detail) := by
  unfold State.inject
  refine State.keeps.ite (fun _ => ?_) (fun _ => ?_)
  · refine State.keeps.wr ?_ (by decide +kernel)
    exact State.keeps.refl
  · extract_lets -merge -underBinder +onlyGivenNames s1
    have h1 : State.keeps writes_inject s s1 := by
      unfold s1
      refine State.keeps.wr ?_ (by decide +kernel)
      exact State.keeps.refl
    try clear_value s1
    extract_lets -merge -underBinder +onlyGivenNames y2
    extract_lets -merge -underBinder +onlyGivenNames y3
    refine State.keeps.ite (fun _ => ?_) (fun _ => ?_)
    · refine State.keeps.wr ?_ (by decide +kernel)
      exact h1
    · refine (State.keeps.put_net ?_ _ (by decide +kernel))
      exact h1

/-- What `execFclInject` may write. -/
def writes_execFclInject : Nat :=
  writes_via ||| writes_inject

theorem execFclInject_keeps (q : Sys2Proof.CoreIx) (w : Sys2Proof.Word) (s : State) :
    State.answers writes_execFclInject s (execFclInject q w s) := by
  unfold execFclInject
  refine State.answers.next ?_
  refine via_keeps (by decide +kernel) ?_ (fun s1 h1 => ?_)
  · exact State.keeps.refl
  · refine State.keeps.step ?_ (inject_keeps ..) (by decide +kernel)
    exact h1

/-- What `fclTick` may write. -/
def writes_fclTick : Nat :=
  writes [] [.fcl] ||| writes_showHour

theorem fclTick_keeps (s : State) :
    State.keeps writes_fclTick s (State.fclTick s) := by
  unfold State.fclTick
  extract_lets -merge -underBinder +onlyGivenNames y1
  extract_lets -merge -underBinder +onlyGivenNames y2
  refine State.keeps.ite (fun _ => ?_) (fun _ => ?_)
  · exact State.keeps.refl
  · refine State.keeps.forEach ?_ (fun x3 s3 h3 => ?_)
    · refine (State.keeps.put_fcl ?_ _ (by decide +kernel))
      exact State.keeps.refl
    · try beta_reduce
      refine State.keeps.step ?_ (showHour_keeps ..) (by decide +kernel)
      exact h3

end Sys2Proof.Machine
end

