-- ==== Sys2Proof/Laws/ThermalKeeps.lean ====
section
/-!
SUPPORT. What each operation of Machine/Thermal.lean may write.
-/

namespace Sys2Proof.Machine

set_option Elab.async false

/-- What `writeFwWarn` may write. -/
def writes_writeFwWarn : Nat :=
  writes [.THM_LIM1_FW_WARN] []

theorem writeFwWarn_keeps (s : State) (e : ℕ) (v : ℕ) :
    State.keeps writes_writeFwWarn s (State.writeFwWarn s e v) := by
  unfold State.writeFwWarn
  extract_lets -merge -underBinder +onlyGivenNames y1
  refine State.keeps.wr ?_ (by decide +kernel)
  exact State.keeps.refl

/-- What `setSuspect` may write. -/
def writes_setSuspect : Nat :=
  writes [.THM_COUNT_SUSPECT_EVENTS, .THM_TEMP_SUSPECT] [.dies] ||| writes_record

theorem setSuspect_keeps (s : State) (e : ℕ) (on : Bool) :
    State.keeps writes_setSuspect s (State.setSuspect s e on) := by
  unfold State.setSuspect
  extract_lets -merge -underBinder +onlyGivenNames y1
  extract_lets -merge -underBinder +onlyGivenNames s2
  have h2 : State.keeps writes_setSuspect s s2 := by
    unfold s2
    refine State.keeps.wr ?_ (by decide +kernel)
    refine State.keeps.step ?_ (setDie_keeps ..) (by decide +kernel)
    exact State.keeps.refl
  try clear_value s2
  refine State.keeps.step ?_ (record_keeps ..) (by decide +kernel)
  refine State.keeps.ite (fun _ => ?_) (fun _ => ?_)
  · refine State.keeps.wr ?_ (by decide +kernel)
    exact h2
  · exact h2

/-- What `xcheck` may write. -/
def writes_xcheck : Nat :=
  writes_setSuspect

theorem xcheck_keeps (s : State) (e : ℕ) (good : Bool) :
    State.keeps writes_xcheck s (State.xcheck s e good) := by
  unfold State.xcheck
  extract_lets -merge -underBinder +onlyGivenNames y1
  extract_lets -merge -underBinder +onlyGivenNames y2
  extract_lets -merge -underBinder +onlyGivenNames y3
  refine State.keeps.ite (fun _ => ?_) (fun _ => ?_)
  · refine State.keeps.ite (fun _ => ?_) (fun _ => ?_)
    · refine State.keeps.step ?_ (setDie_keeps ..) (by decide +kernel)
      exact State.keeps.refl
    · refine State.keeps.step ?_ (setSuspect_keeps ..) (by decide +kernel)
      exact State.keeps.refl
  · refine State.keeps.ite (fun _ => ?_) (fun _ => ?_)
    · extract_lets -merge -underBinder +onlyGivenNames y4
      refine State.keeps.ite (fun _ => ?_) (fun _ => ?_)
      · refine State.keeps.step ?_ (setSuspect_keeps ..) (by decide +kernel)
        exact State.keeps.refl
      · refine State.keeps.step ?_ (setDie_keeps ..) (by decide +kernel)
        exact State.keeps.refl
    · extract_lets -merge -underBinder +onlyGivenNames y5
      extract_lets -merge -underBinder +onlyGivenNames y6
      refine State.keeps.ite (fun _ => ?_) (fun _ => ?_)
      · refine State.keeps.step ?_ (setSuspect_keeps ..) (by decide +kernel)
        exact State.keeps.refl
      · refine State.keeps.step ?_ (setDie_keeps ..) (by decide +kernel)
        exact State.keeps.refl

/-- What `warnOver` may write. -/
def writes_warnOver : Nat :=
  writes_sendClear

theorem warnOver_keeps (s : State) :
    State.keeps writes_warnOver s (State.warnOver s) := by
  unfold State.warnOver
  refine State.keeps.ite (fun _ => ?_) (fun _ => ?_)
  · exact State.keeps.refl
  · refine State.keeps.step ?_ (sendClear_keeps ..) (by decide +kernel)
    exact State.keeps.refl

/-- What `warnRegion` may write. -/
def writes_warnRegion : Nat :=
  writes [.THM_COUNT_WARN_EVENTS, .THM_TEMP_WARN] [.dies] ||| writes_sendFault

theorem warnRegion_keeps (s : State) (e : ℕ) :
    State.keeps writes_warnRegion s (State.warnRegion s e) := by
  unfold State.warnRegion
  split
  · exact State.keeps.refl
  · extract_lets -merge -underBinder +onlyGivenNames y1
    extract_lets -merge -underBinder +onlyGivenNames y2
    extract_lets -merge -underBinder +onlyGivenNames y3
    extract_lets -merge -underBinder +onlyGivenNames s4
    have h4 : State.keeps writes_warnRegion s s4 := by
      unfold s4
      refine State.keeps.step ?_ (setDie_keeps ..) (by decide +kernel)
      exact State.keeps.refl
    try clear_value s4
    refine State.keeps.ite (fun _ => ?_) (fun _ => ?_)
    · exact h4
    · refine State.keeps.ite (fun _ => ?_) (fun _ => ?_)
      · refine State.keeps.step ?_ (warnOver_keeps ..) (by decide +kernel)
        refine State.keeps.wr ?_ (by decide +kernel)
        exact h4
      · refine State.keeps.step ?_ (sendFault_keeps ..) (by decide +kernel)
        refine State.keeps.wr ?_ (by decide +kernel)
        refine State.keeps.wr ?_ (by decide +kernel)
        exact h4

/-- What `riseReview` may write. -/
def writes_riseReview : Nat :=
  writes [.THM_RATE_RISE] [.dies] ||| writes_sendFault

theorem riseReview_keeps (s : State) (e : ℕ) :
    State.keeps writes_riseReview s (State.riseReview s e) := by
  unfold State.riseReview
  extract_lets -merge -underBinder +onlyGivenNames y1
  extract_lets -merge -underBinder +onlyGivenNames y2
  split
  · refine State.keeps.step ?_ (setDie_keeps ..) (by decide +kernel)
    exact State.keeps.refl
  · extract_lets -merge -underBinder +onlyGivenNames y3
    extract_lets -merge -underBinder +onlyGivenNames s4
    have h4 : State.keeps writes_riseReview s s4 := by
      unfold s4
      refine State.keeps.wr ?_ (by decide +kernel)
      exact State.keeps.refl
    try clear_value s4
    extract_lets -merge -underBinder +onlyGivenNames y5
    extract_lets -merge -underBinder +onlyGivenNames y6
    extract_lets -merge -underBinder +onlyGivenNames y7
    extract_lets -merge -underBinder +onlyGivenNames y8
    extract_lets -merge -underBinder +onlyGivenNames y9
    extract_lets -merge -underBinder +onlyGivenNames y10
    refine State.keeps.ite (fun _ => ?_) (fun _ => ?_)
    · refine State.keeps.step ?_ (sendFault_keeps ..) (by decide +kernel)
      refine State.keeps.step ?_ (setDie_keeps ..) (by decide +kernel)
      exact h4
    · refine State.keeps.ite (fun _ => ?_) (fun _ => ?_)
      · refine State.keeps.step ?_ (warnOver_keeps ..) (by decide +kernel)
        refine State.keeps.step ?_ (setDie_keeps ..) (by decide +kernel)
        exact h4
      · refine State.keeps.step ?_ (setDie_keeps ..) (by decide +kernel)
        exact h4

/-- What `tripOver` may write. -/
def writes_tripOver : Nat :=
  writes [.THM_TEMP_TRIPPED] [.dies] ||| writes_sendClear ||| writes_unmute

theorem tripOver_keeps (s : State) (e : ℕ) :
    State.keeps writes_tripOver s (State.tripOver s e) := by
  unfold State.tripOver
  extract_lets -merge -underBinder +onlyGivenNames y1
  refine State.keeps.step ?_ (sendClear_keeps ..) (by decide +kernel)
  refine State.keeps.forEach ?_ (fun x2 s2 h2 => ?_)
  · refine State.keeps.wr ?_ (by decide +kernel)
    refine State.keeps.step ?_ (setDie_keeps ..) (by decide +kernel)
    exact State.keeps.refl
  · try beta_reduce
    refine State.keeps.step ?_ (unmute_keeps ..) (by decide +kernel)
    exact h2

/-- What `tripRegion` may write. -/
def writes_tripRegion : Nat :=
  writes_tripOver

theorem tripRegion_keeps (s : State) (e : ℕ) (forced : Bool) :
    State.keeps writes_tripRegion s (State.tripRegion s e forced) := by
  unfold State.tripRegion
  extract_lets -merge -underBinder +onlyGivenNames y1
  refine State.keeps.ite (fun _ => ?_) (fun _ => ?_)
  · extract_lets -merge -underBinder +onlyGivenNames y2
    extract_lets -merge -underBinder +onlyGivenNames s3
    have h3 : State.keeps writes_tripRegion s s3 := by
      unfold s3
      refine State.keeps.step ?_ (setDie_keeps ..) (by decide +kernel)
      exact State.keeps.refl
    try clear_value s3
    refine State.keeps.ite (fun _ => ?_) (fun _ => ?_)
    · refine State.keeps.wr ?_ (by decide +kernel)
      exact h3
    · exact h3
  · refine State.keeps.ite (fun _ => ?_) (fun _ => ?_)
    · exact State.keeps.refl
    · extract_lets -merge -underBinder +onlyGivenNames y4
      extract_lets -merge -underBinder +onlyGivenNames y5
      extract_lets -merge -underBinder +onlyGivenNames s6
      have h6 : State.keeps writes_tripRegion s s6 := by
        unfold s6
        refine State.keeps.step ?_ (setDie_keeps ..) (by decide +kernel)
        exact State.keeps.refl
      try clear_value s6
      refine State.keeps.ite (fun _ => ?_) (fun _ => ?_)
      · refine State.keeps.step ?_ (tripOver_keeps ..) (by decide +kernel)
        exact h6
      · exact h6

/-- What `setWindow` may write. -/
def writes_setWindow : Nat :=
  writes [.FRS_STATUS_FLUSH_WAIT, .KCT_UPD_STATUS_WAITING, .THM_FLASH_WIN_OPEN] []

theorem setWindow_keeps (s : State) (isOpen : Bool) :
    State.keeps writes_setWindow s (State.setWindow s isOpen) := by
  unfold State.setWindow
  extract_lets -merge -underBinder +onlyGivenNames s1
  have h1 : State.keeps writes_setWindow s s1 := by
    unfold s1
    refine State.keeps.wr ?_ (by decide +kernel)
    exact State.keeps.refl
  try clear_value s1
  extract_lets -merge -underBinder +onlyGivenNames y2
  extract_lets -merge -underBinder +onlyGivenNames s3
  have h3 : State.keeps writes_setWindow s s3 := by
    unfold s3
    refine State.keeps.ite (fun _ => ?_) (fun _ => ?_)
    · refine State.keeps.wr ?_ (by decide +kernel)
      exact h1
    · refine State.keeps.wr ?_ (by decide +kernel)
      exact h1
  try clear_value s3
  refine State.keeps.ite (fun _ => ?_) (fun _ => ?_)
  · refine State.keeps.wr ?_ (by decide +kernel)
    exact h3
  · exact h3

/-- What `flashWaits` may write. -/
def writes_flashWaits : Nat :=
  writes [.THM_FLASH_WAITED] []

theorem flashWaits_keeps (s : State) :
    State.keeps writes_flashWaits s (State.flashWaits s) := by
  unfold State.flashWaits
  refine State.keeps.wr ?_ (by decide +kernel)
  exact State.keeps.refl

/-- What `flashReview` may write. -/
def writes_flashReview : Nat :=
  writes [.THM_FLASH_T_FLASH] [.thm] ||| writes_setWindow

theorem flashReview_keeps (s : State) :
    State.keeps writes_flashReview s (State.flashReview s) := by
  unfold State.flashReview
  extract_lets -merge -underBinder +onlyGivenNames y1
  extract_lets -merge -underBinder +onlyGivenNames y2
  extract_lets -merge -underBinder +onlyGivenNames y3
  extract_lets -merge -underBinder +onlyGivenNames y4
  extract_lets -merge -underBinder +onlyGivenNames y5
  extract_lets -merge -underBinder +onlyGivenNames s6
  have h6 : State.keeps writes_flashReview s s6 := by
    unfold s6
    refine State.keeps.wr ?_ (by decide +kernel)
    exact State.keeps.refl
  try clear_value s6
  extract_lets -merge -underBinder +onlyGivenNames s7
  have h7 : State.keeps writes_flashReview s s7 := by
    unfold s7
    refine (State.keeps.put_thm ?_ _ (by decide +kernel))
    exact h6
  try clear_value s7
  refine State.keeps.ite (fun _ => ?_) (fun _ => ?_)
  · refine State.keeps.ite (fun _ => ?_) (fun _ => ?_)
    · refine State.keeps.step ?_ (setWindow_keeps ..) (by decide +kernel)
      exact h7
    · exact h7
  · refine State.keeps.ite (fun _ => ?_) (fun _ => ?_)
    · refine State.keeps.step ?_ (setWindow_keeps ..) (by decide +kernel)
      exact h7
    · exact h7

/-- What `fastReview` may write. -/
def writes_fastReview : Nat :=
  writes [.THM_TEMP_FAST] []

theorem fastReview_keeps (s : State) (e : ℕ) :
    State.keeps writes_fastReview s (State.fastReview s e) := by
  unfold State.fastReview
  extract_lets -merge -underBinder +onlyGivenNames y1
  extract_lets -merge -underBinder +onlyGivenNames y2
  refine State.keeps.wr ?_ (by decide +kernel)
  exact State.keeps.refl

/-- What `thermalSample` may write. -/
def writes_thermalSample : Nat :=
  writes [.THM_RATE_MAX_T, .THM_TEMP_TEMP] [] ||| writes_xcheck ||| writes_tally ||| writes_tripRegion |||
    writes_warnRegion ||| writes_riseReview ||| writes_fastReview ||| writes_flashReview

theorem thermalSample_keeps (s : State) (e : ℕ) (reading : Option ℤ) :
    State.keeps writes_thermalSample s (State.thermalSample s e reading) := by
  unfold State.thermalSample
  extract_lets -merge -underBinder +onlyGivenNames y1
  extract_lets -merge -underBinder +onlyGivenNames y2
  extract_lets -merge -underBinder +onlyGivenNames s3
  have h3 : State.keeps writes_thermalSample s s3 := by
    unfold s3
    split
    · extract_lets -merge -underBinder +onlyGivenNames y4
      refine State.keeps.wr ?_ (by decide +kernel)
      refine State.keeps.wr ?_ (by decide +kernel)
      exact State.keeps.refl
    · exact State.keeps.refl
  try clear_value s3
  extract_lets -merge -underBinder +onlyGivenNames s5
  have h5 : State.keeps writes_thermalSample s s5 := by
    unfold s5
    refine State.keeps.step ?_ (xcheck_keeps ..) (by decide +kernel)
    refine State.keeps.step ?_ (setDie_keeps ..) (by decide +kernel)
    refine State.keeps.step ?_ (tally_keeps ..) (by decide +kernel)
    exact h3
  try clear_value s5
  split
  · extract_lets -merge -underBinder +onlyGivenNames y6
    extract_lets -merge -underBinder +onlyGivenNames s7
    have h7 : State.keeps writes_thermalSample s s7 := by
      unfold s7
      refine State.keeps.step ?_ (tripRegion_keeps ..) (by decide +kernel)
      refine State.keeps.step ?_ (warnRegion_keeps ..) (by decide +kernel)
      refine State.keeps.step ?_ (riseReview_keeps ..) (by decide +kernel)
      refine State.keeps.step ?_ (setDie_keeps ..) (by decide +kernel)
      exact h5
    try clear_value s7
    refine State.keeps.step ?_ (fastReview_keeps ..) (by decide +kernel)
    refine State.keeps.ite (fun _ => ?_) (fun _ => ?_)
    · refine State.keeps.step ?_ (flashReview_keeps ..) (by decide +kernel)
      exact h7
    · exact h7

/-- What `holdSample` may write. -/
def writes_holdSample : Nat :=
  writes [] [.thm]

theorem holdSample_keeps (s : State) (reading : Option ℤ) :
    State.keeps writes_holdSample s (State.holdSample s reading) := by
  unfold State.holdSample
  extract_lets -merge -underBinder +onlyGivenNames y1
  refine (State.keeps.put_thm ?_ _ (by decide +kernel))
  exact State.keeps.refl

/-- What `execThermalSample` may write. -/
def writes_execThermalSample : Nat :=
  writes_thermalSample

theorem execThermalSample_keeps (e : Sys2Proof.DieIx) (reading : Option (BitVec 16)) (s : State) :
    State.answers writes_execThermalSample s (execThermalSample e reading s) := by
  unfold execThermalSample
  refine State.answers.next ?_
  refine State.keeps.ite (fun _ => ?_) (fun _ => ?_)
  · refine State.keeps.step ?_ (thermalSample_keeps ..) (by decide +kernel)
    exact State.keeps.refl
  · refine State.keeps.ite (fun _ => ?_) (fun _ => ?_)
    · refine State.keeps.step ?_ (holdSample_keeps ..) (by decide +kernel)
      exact State.keeps.refl
    · exact State.keeps.refl

/-- What `execG4Temp` may write. -/
def writes_execG4Temp : Nat :=
  writes [] [.dies, .thm] ||| writes_applyFence ||| writes_sendFault

theorem execG4Temp_keeps (e : Sys2Proof.DieIx) (s : State) :
    State.answers writes_execG4Temp s (execG4Temp e s) := by
  unfold execG4Temp
  refine State.answers.next ?_
  refine State.keeps.ite (fun _ => ?_) (fun _ => ?_)
  · exact State.keeps.refl
  · extract_lets -merge -underBinder +onlyGivenNames y1
    extract_lets -merge -underBinder +onlyGivenNames s2
    have h2 : State.keeps writes_execG4Temp s s2 := by
      unfold s2
      refine State.keeps.step ?_ (setDie_keeps ..) (by decide +kernel)
      exact State.keeps.refl
    try clear_value s2
    refine State.keeps.ite (fun _ => ?_) (fun _ => ?_)
    · refine State.keeps.step ?_ (applyFence_keeps ..) (by decide +kernel)
      refine State.keeps.step ?_ (sendFault_keeps ..) (by decide +kernel)
      refine (State.keeps.put_thm ?_ _ (by decide +kernel))
      exact h2
    · extract_lets -merge -underBinder +onlyGivenNames y3
      refine State.keeps.step ?_ (sendFault_keeps ..) (by decide +kernel)
      refine State.keeps.step ?_ (portFence_keeps ..) (by decide +kernel)
      refine State.keeps.forEach ?_ (fun x4 s4 h4 => ?_)
      · exact h2
      · try beta_reduce
        refine State.keeps.step ?_ (mute_keeps ..) (by decide +kernel)
        exact h4

/-- What `execFwWarnWrite` may write. -/
def writes_execFwWarnWrite : Nat :=
  writes_writeFwWarn

theorem execFwWarnWrite_keeps (e : Sys2Proof.DieIx) (v : BitVec 16) (s : State) :
    State.answers writes_execFwWarnWrite s (execFwWarnWrite e v s) := by
  unfold execFwWarnWrite
  refine State.answers.next ?_
  refine State.keeps.step ?_ (writeFwWarn_keeps ..) (by decide +kernel)
  exact State.keeps.refl

end Sys2Proof.Machine
end

