-- ==== Sys2Proof/Laws/FrescoKeeps.lean ====
section
/-!
SUPPORT. What each operation of Machine/Fresco.lean may write.
-/

namespace Sys2Proof.Machine

set_option Elab.async false

/-- What `showFresco` may write. -/
def writes_showFresco : Nat :=
  writes [.FRS_FLUSHED_HI_SEQ, .FRS_FLUSHED_LO_SEQ, .FRS_NEXT_HI_SEQ, .FRS_NEXT_LO_SEQ, .FRS_OLDEST_HI_SEQ,
    .FRS_OLDEST_LO_SEQ, .FRS_QUEUE_LEVEL] []

theorem showFresco_keeps (s : State) :
    State.keeps writes_showFresco s (State.showFresco s) := by
  unfold State.showFresco
  refine State.keeps.wr ?_ (by decide +kernel)
  refine State.keeps.step ?_ (wr2_keeps ..) (by decide +kernel)
  refine State.keeps.step ?_ (wr2_keeps ..) (by decide +kernel)
  refine State.keeps.step ?_ (wr2_keeps ..) (by decide +kernel)
  exact State.keeps.refl

/-- What `writeRecord` may write. -/
def writes_writeRecord : Nat :=
  writes [] [.frs] ||| writes_tileWritten ||| writes_showFresco

theorem writeRecord_keeps (s : State) (e : FrEvent) :
    State.keeps writes_writeRecord s (State.writeRecord s e) := by
  unfold State.writeRecord
  extract_lets -merge -underBinder +onlyGivenNames y1
  extract_lets -merge -underBinder +onlyGivenNames y2
  extract_lets -merge -underBinder +onlyGivenNames y3
  extract_lets -merge -underBinder +onlyGivenNames y4
  extract_lets -merge -underBinder +onlyGivenNames y5
  extract_lets -merge -underBinder +onlyGivenNames y6
  extract_lets -merge -underBinder +onlyGivenNames y7
  extract_lets -merge -underBinder +onlyGivenNames y8
  extract_lets -merge -underBinder +onlyGivenNames s9
  have h9 : State.keeps writes_writeRecord s s9 := by
    unfold s9
    refine State.keeps.ite (fun _ => ?_) (fun _ => ?_)
    · exact State.keeps.refl
    · refine State.keeps.step ?_ (tileWritten_keeps ..) (by decide +kernel)
      exact State.keeps.refl
  try clear_value s9
  refine State.keeps.step ?_ (tally_keeps ..) (by decide +kernel)
  refine State.keeps.step ?_ (showFresco_keeps ..) (by decide +kernel)
  refine (State.keeps.put_frs ?_ _ (by decide +kernel))
  exact h9

/-- What `recordFirst` may write. -/
def writes_recordFirst : Nat :=
  writes [] [.frs] ||| writes_showFresco

theorem recordFirst_keeps (s : State) (e : FrEvent) :
    State.keeps writes_recordFirst s (State.recordFirst s e) := by
  unfold State.recordFirst
  refine State.keeps.step ?_ (showFresco_keeps ..) (by decide +kernel)
  refine (State.keeps.put_frs ?_ _ (by decide +kernel))
  exact State.keeps.refl

/-- What `mediumFail` may write. -/
def writes_mediumFail : Nat :=
  writes [.FRS_STATUS_MEDIUM_FAIL] [] ||| writes_sendFault ||| writes_writeRecord

theorem mediumFail_keeps (s : State) (tile : ℕ) (cause : ℕ) :
    State.keeps writes_mediumFail s (State.mediumFail s tile cause) := by
  unfold State.mediumFail
  refine State.keeps.ite (fun _ => ?_) (fun _ => ?_)
  · exact State.keeps.refl
  · extract_lets -merge -underBinder +onlyGivenNames y1
    extract_lets -merge -underBinder +onlyGivenNames y2
    extract_lets -merge -underBinder +onlyGivenNames y3
    extract_lets -merge -underBinder +onlyGivenNames s4
    have h4 : State.keeps writes_mediumFail s s4 := by
      unfold s4
      refine State.keeps.wr ?_ (by decide +kernel)
      refine (State.keeps.put_frs ?_ _ (by decide +kernel))
      exact State.keeps.refl
    try clear_value s4
    refine State.keeps.step ?_ (sendFault_keeps ..) (by decide +kernel)
    refine State.keeps.ite (fun _ => ?_) (fun _ => ?_)
    · refine State.keeps.step ?_ (recordFirst_keeps ..) (by decide +kernel)
      exact h4
    · refine State.keeps.step ?_ (writeRecord_keeps ..) (by decide +kernel)
      exact h4

/-- What `execFrescoRecordWrite` may write. -/
def writes_execFrescoRecordWrite : Nat :=
  writes_mediumFail ||| writes_memError

theorem execFrescoRecordWrite_keeps (ue : Bool) (s : State) :
    State.answers writes_execFrescoRecordWrite s (execFrescoRecordWrite ue s) := by
  unfold execFrescoRecordWrite
  refine State.answers.next ?_
  split
  · exact State.keeps.refl
  · refine State.keeps.ite (fun _ => ?_) (fun _ => ?_)
    · exact State.keeps.refl
    · refine State.keeps.ite (fun _ => ?_) (fun _ => ?_)
      · extract_lets -merge -underBinder +onlyGivenNames y1
        refine State.keeps.step ?_ (mediumFail_keeps ..) (by decide +kernel)
        refine State.keeps.step ?_ (memError_keeps ..) (by decide +kernel)
        exact State.keeps.refl
      · refine State.keeps.step ?_ (writeRecord_keeps ..) (by decide +kernel)
        refine (State.keeps.put_frs ?_ _ (by decide +kernel))
        exact State.keeps.refl

/-- What `execFloodEnd` may write. -/
def writes_execFloodEnd : Nat :=
  writes [.FRS_COUNT_SUMMARIES, .FRS_STATUS_FLOOD] [.frs] ||| writes_showFresco

theorem execFloodEnd_keeps (s : State) :
    State.answers writes_execFloodEnd s (execFloodEnd s) := by
  unfold execFloodEnd
  refine State.answers.next ?_
  refine State.keeps.ite (fun _ => ?_) (fun _ => ?_)
  · extract_lets -merge -underBinder +onlyGivenNames y1
    refine State.keeps.step ?_ (showFresco_keeps ..) (by decide +kernel)
    refine State.keeps.wr ?_ (by decide +kernel)
    refine State.keeps.wr ?_ (by decide +kernel)
    refine (State.keeps.put_frs ?_ _ (by decide +kernel))
    exact State.keeps.refl
  · exact State.keeps.refl

/-- What `execFrescoMark` may write. -/
def writes_execFrescoMark : Nat :=
  writes [] [.frs] ||| writes_flashWaits

theorem execFrescoMark_keeps (s : State) :
    State.answers writes_execFrescoMark s (execFrescoMark s) := by
  unfold execFrescoMark
  refine State.answers.next ?_
  refine State.keeps.ite (fun _ => ?_) (fun _ => ?_)
  · exact State.keeps.refl
  · refine State.keeps.ite (fun _ => ?_) (fun _ => ?_)
    · refine State.keeps.step ?_ (flashWaits_keeps ..) (by decide +kernel)
      exact State.keeps.refl
    · refine (State.keeps.put_frs ?_ _ (by decide +kernel))
      exact State.keeps.refl

/-- What `bbProgram` may write. -/
def writes_bbProgram : Nat :=
  writes [] [.frs]

theorem bbProgram_keeps (s : State) (x : BbSlot) :
    State.keeps writes_bbProgram s (State.bbProgram s x) := by
  unfold State.bbProgram
  extract_lets -merge -underBinder +onlyGivenNames y1
  extract_lets -merge -underBinder +onlyGivenNames y2
  extract_lets -merge -underBinder +onlyGivenNames y3
  refine (State.keeps.put_frs ?_ _ (by decide +kernel))
  exact State.keeps.refl

/-- What `execBbFlush` may write. -/
def writes_execBbFlush : Nat :=
  writes [.FRS_BB_NEWEST, .FRS_COUNT1_FLASH_ERR, .FRS_STATUS_BB_FAIL, .FRS_STATUS_FLUSH_WAIT] [.free] |||
    writes_flashWaits ||| writes_bbProgram ||| writes_showFresco ||| writes_sendFault

theorem execBbFlush_keeps (ok : Bool) (s : State) :
    State.answers writes_execBbFlush s (execBbFlush ok s) := by
  unfold execBbFlush
  extract_lets -merge -underBinder +onlyGivenNames y1
  refine State.answers.next ?_
  refine State.keeps.ite (fun _ => ?_) (fun _ => ?_)
  · exact State.keeps.refl
  · refine State.keeps.ite (fun _ => ?_) (fun _ => ?_)
    · refine State.keeps.wr ?_ (by decide +kernel)
      refine State.keeps.step ?_ (flashWaits_keeps ..) (by decide +kernel)
      exact State.keeps.refl
    · split
      · exact State.keeps.refl
      · refine State.keeps.ite (fun _ => ?_) (fun _ => ?_)
        · extract_lets -merge -underBinder +onlyGivenNames s2
          have h2 : State.keeps writes_execBbFlush s s2 := by
            unfold s2
            refine State.keeps.wr ?_ (by decide +kernel)
            refine State.keeps.step ?_ (bbProgram_keeps ..) (by decide +kernel)
            exact State.keeps.refl
          try clear_value s2
          refine State.keeps.step ?_ (showFresco_keeps ..) (by decide +kernel)
          refine (State.keeps.put_frs ?_ _ (by decide +kernel))
          exact h2
        · extract_lets -merge -underBinder +onlyGivenNames s3
          have h3 : State.keeps writes_execBbFlush s s3 := by
            unfold s3
            refine State.keeps.wr ?_ (by decide +kernel)
            refine State.keeps.step ?_ (bbProgram_keeps ..) (by decide +kernel)
            exact State.keeps.refl
          try clear_value s3
          extract_lets -merge -underBinder +onlyGivenNames y4
          extract_lets -merge -underBinder +onlyGivenNames s5
          have h5 : State.keeps writes_execBbFlush s s5 := by
            unfold s5
            refine State.keeps.put_frs_free ?_ _ _ (by decide +kernel) (by decide +kernel)
            exact h3
          try clear_value s5
          refine State.keeps.ite (fun _ => ?_) (fun _ => ?_)
          · exact h5
          · refine State.keeps.step ?_ (sendFault_keeps ..) (by decide +kernel)
            refine State.keeps.wr ?_ (by decide +kernel)
            exact h5

/-- What `newNonce` may write. -/
def writes_newNonce : Nat :=
  writes [.FRS_NONCE_HI_NONCE, .FRS_NONCE_LO_NONCE] [] ||| writes_nextFree

theorem newNonce_keeps (s : State) :
    State.keeps writes_newNonce s (State.newNonce s) := by
  unfold State.newNonce
  refine State.keeps.step ?_ (nextFree_keeps ..) (by decide +kernel)
  refine State.keeps.step ?_ (wr2_keeps ..) (by decide +kernel)
  exact State.keeps.refl

/-- What `frsClear` may write. -/
def writes_frsClear : Nat :=
  writes [.FRS_STATUS_CLEARING, .FRS_STATUS_CLR_LOCK, .FRS_STATUS_CLR_REFUSED] [] ||| writes_record |||
    writes_newNonce ||| writes_recordFirst

theorem frsClear_keeps (s : State) (code : ℕ) :
    State.keeps writes_frsClear s (State.frsClear s code) := by
  unfold State.frsClear
  extract_lets -merge -underBinder +onlyGivenNames y1
  extract_lets -merge -underBinder +onlyGivenNames y2
  extract_lets -merge -underBinder +onlyGivenNames y3
  extract_lets -merge -underBinder +onlyGivenNames y4
  unfold y4
  try beta_reduce
  refine State.keeps.step ?_ (newNonce_keeps ..) (by decide +kernel)
  refine State.keeps.ite (fun _ => ?_) (fun _ => ?_)
  · extract_lets -merge -underBinder +onlyGivenNames s5
    have h5 : State.keeps writes_frsClear s s5 := by
      unfold s5
      refine State.keeps.step ?_ (record_keeps ..) (by decide +kernel)
      refine State.keeps.wr ?_ (by decide +kernel)
      exact State.keeps.refl
    try clear_value s5
    extract_lets -merge -underBinder +onlyGivenNames y6
    extract_lets -merge -underBinder +onlyGivenNames y7
    extract_lets -merge -underBinder +onlyGivenNames s8
    have h8 : State.keeps writes_frsClear s s8 := by
      unfold s8
      refine (State.keeps.put_frs ?_ _ (by decide +kernel))
      exact h5
    try clear_value s8
    refine State.keeps.ite (fun _ => ?_) (fun _ => ?_)
    · refine State.keeps.wr ?_ (by decide +kernel)
      exact h8
    · exact h8
  · refine State.keeps.ite (fun _ => ?_) (fun _ => ?_)
    · extract_lets -merge -underBinder +onlyGivenNames s9
      have h9 : State.keeps writes_frsClear s s9 := by
        unfold s9
        refine State.keeps.step ?_ (record_keeps ..) (by decide +kernel)
        refine State.keeps.wr ?_ (by decide +kernel)
        exact State.keeps.refl
      try clear_value s9
      extract_lets -merge -underBinder +onlyGivenNames y10
      extract_lets -merge -underBinder +onlyGivenNames y11
      extract_lets -merge -underBinder +onlyGivenNames s12
      have h12 : State.keeps writes_frsClear s s12 := by
        unfold s12
        refine (State.keeps.put_frs ?_ _ (by decide +kernel))
        exact h9
      try clear_value s12
      refine State.keeps.ite (fun _ => ?_) (fun _ => ?_)
      · refine State.keeps.wr ?_ (by decide +kernel)
        exact h12
      · exact h12
    · refine State.keeps.ite (fun _ => ?_) (fun _ => ?_)
      · extract_lets -merge -underBinder +onlyGivenNames s13
        have h13 : State.keeps writes_frsClear s s13 := by
          unfold s13
          refine State.keeps.step ?_ (record_keeps ..) (by decide +kernel)
          refine State.keeps.wr ?_ (by decide +kernel)
          exact State.keeps.refl
        try clear_value s13
        extract_lets -merge -underBinder +onlyGivenNames y14
        extract_lets -merge -underBinder +onlyGivenNames y15
        extract_lets -merge -underBinder +onlyGivenNames s16
        have h16 : State.keeps writes_frsClear s s16 := by
          unfold s16
          refine (State.keeps.put_frs ?_ _ (by decide +kernel))
          exact h13
        try clear_value s16
        refine State.keeps.ite (fun _ => ?_) (fun _ => ?_)
        · refine State.keeps.wr ?_ (by decide +kernel)
          exact h16
        · exact h16
      · extract_lets -merge -underBinder +onlyGivenNames y17
        extract_lets -merge -underBinder +onlyGivenNames y18
        extract_lets -merge -underBinder +onlyGivenNames y19
        extract_lets -merge -underBinder +onlyGivenNames y20
        extract_lets -merge -underBinder +onlyGivenNames s21
        have h21 : State.keeps writes_frsClear s s21 := by
          unfold s21
          refine (State.keeps.put_frs ?_ _ (by decide +kernel))
          exact State.keeps.refl
        try clear_value s21
        refine State.keeps.step ?_ (recordFirst_keeps ..) (by decide +kernel)
        refine State.keeps.wr ?_ (by decide +kernel)
        exact h21

/-- What `writeClearHi` may write. -/
def writes_writeClearHi : Nat :=
  writes [.FRS_CLR_CODE_HI_CODE] [] ||| writes_frsClear

theorem writeClearHi_keeps (s : State) (w : ℕ) :
    State.keeps writes_writeClearHi s (State.writeClearHi s w) := by
  unfold State.writeClearHi
  refine State.keeps.step ?_ (frsClear_keeps ..) (by decide +kernel)
  refine State.keeps.wr ?_ (by decide +kernel)
  exact State.keeps.refl

/-- What `execFrsClear` may write. -/
def writes_execFrsClear : Nat :=
  writes_via ||| writes_writeClearHi

theorem execFrsClear_keeps (who : Sys2Proof.Requester) (w : Sys2Proof.Word) (s : State) :
    State.answers writes_execFrsClear s (execFrsClear who w s) := by
  unfold execFrsClear
  refine State.answers.next ?_
  refine via_keeps (by decide +kernel) ?_ (fun s1 h1 => ?_)
  · exact State.keeps.refl
  · refine State.keeps.step ?_ (writeClearHi_keeps ..) (by decide +kernel)
    exact h1

/-- What `execFrsEraseDone` may write. -/
def writes_execFrsEraseDone : Nat :=
  writes [.FRS_STATUS_CLEARING] [.frs] ||| writes_flashWaits

theorem execFrsEraseDone_keeps (s : State) :
    State.answers writes_execFrsEraseDone s (execFrsEraseDone s) := by
  unfold execFrsEraseDone
  refine State.answers.next ?_
  refine State.keeps.ite (fun _ => ?_) (fun _ => ?_)
  · exact State.keeps.refl
  · refine State.keeps.ite (fun _ => ?_) (fun _ => ?_)
    · refine State.keeps.step ?_ (flashWaits_keeps ..) (by decide +kernel)
      exact State.keeps.refl
    · refine State.keeps.wr ?_ (by decide +kernel)
      refine (State.keeps.put_frs ?_ _ (by decide +kernel))
      exact State.keeps.refl

/-- What `execClrLockEnd` may write. -/
def writes_execClrLockEnd : Nat :=
  writes [.FRS_STATUS_CLR_LOCK] [.frs]

theorem execClrLockEnd_keeps (s : State) :
    State.answers writes_execClrLockEnd s (execClrLockEnd s) := by
  unfold execClrLockEnd
  refine State.answers.next ?_
  refine State.keeps.ite (fun _ => ?_) (fun _ => ?_)
  · refine State.keeps.wr ?_ (by decide +kernel)
    refine (State.keeps.put_frs ?_ _ (by decide +kernel))
    exact State.keeps.refl
  · exact State.keeps.refl

/-- What `writeRdSel` may write. -/
def writes_writeRdSel : Nat :=
  writes [.FRS_RD_SEL_READY, .FRS_RD_SEL_SLOT, .FRS_RD_SEL_SRC] [.frs]

theorem writeRdSel_keeps (s : State) (w : ℕ) :
    State.keeps writes_writeRdSel s (State.writeRdSel s w) := by
  unfold State.writeRdSel
  extract_lets -merge -underBinder +onlyGivenNames y1
  extract_lets -merge -underBinder +onlyGivenNames s2
  have h2 : State.keeps writes_writeRdSel s s2 := by
    unfold s2
    refine State.keeps.wr ?_ (by decide +kernel)
    refine State.keeps.wr ?_ (by decide +kernel)
    exact State.keeps.refl
  try clear_value s2
  extract_lets -merge -underBinder +onlyGivenNames s3
  have h3 : State.keeps writes_writeRdSel s s3 := by
    unfold s3
    refine State.keeps.wr ?_ (by decide +kernel)
    exact h2
  try clear_value s3
  refine (State.keeps.put_frs ?_ _ (by decide +kernel))
  exact h3

/-- What `execFrsRdSelWrite` may write. -/
def writes_execFrsRdSelWrite : Nat :=
  writes_writeRdSel

theorem execFrsRdSelWrite_keeps (w : Sys2Proof.Word) (s : State) :
    State.answers writes_execFrsRdSelWrite s (execFrsRdSelWrite w s) := by
  unfold execFrsRdSelWrite
  refine State.answers.next ?_
  refine State.keeps.step ?_ (writeRdSel_keeps ..) (by decide +kernel)
  exact State.keeps.refl

/-- What `execFrsCopyDone` may write. -/
def writes_execFrsCopyDone : Nat :=
  writes [.FRS_RD_SEL_READY] [.frs]

theorem execFrsCopyDone_keeps (s : State) :
    State.answers writes_execFrsCopyDone s (execFrsCopyDone s) := by
  unfold execFrsCopyDone
  refine State.answers.next ?_
  refine State.keeps.ite (fun _ => ?_) (fun _ => ?_)
  · extract_lets -merge -underBinder +onlyGivenNames y1
    refine State.keeps.wr ?_ (by decide +kernel)
    refine (State.keeps.put_frs ?_ _ (by decide +kernel))
    exact State.keeps.refl
  · exact State.keeps.refl

/-- What `firmwareRecord` may write. -/
def writes_firmwareRecord : Nat :=
  writes_recordEvent

theorem firmwareRecord_keeps (s : State) :
    State.keeps writes_firmwareRecord s (State.firmwareRecord s) := by
  unfold State.firmwareRecord
  refine State.keeps.step ?_ (recordEvent_keeps ..) (by decide +kernel)
  exact State.keeps.refl

/-- What `execFirmware` may write. -/
def writes_execFirmware : Nat :=
  writes_via ||| writes_firmwareRecord

theorem execFirmware_keeps (q : Sys2Proof.CoreIx) (s : State) :
    State.answers writes_execFirmware s (execFirmware q s) := by
  unfold execFirmware
  refine State.answers.next ?_
  refine via_keeps (by decide +kernel) ?_ (fun s1 h1 => ?_)
  · exact State.keeps.refl
  · refine State.keeps.step ?_ (firmwareRecord_keeps ..) (by decide +kernel)
    exact h1

end Sys2Proof.Machine
end

