-- ==== Sys2Proof/Laws/CountersKeeps.lean ====
section
/-!
SUPPORT. What each operation of Machine/Counters.lean may write.
-/

namespace Sys2Proof.Machine

set_option Elab.async false

/-- What `countUp` may write. -/
def writes_countUp : Nat :=
  writes [.CNT_HI_OVF] [.cnt]

theorem countUp_keeps (s : State) (c : ℕ) (k : ℕ) :
    State.keeps writes_countUp s (State.countUp s c k) := by
  unfold State.countUp
  extract_lets -merge -underBinder +onlyGivenNames y1
  extract_lets -merge -underBinder +onlyGivenNames y2
  extract_lets -merge -underBinder +onlyGivenNames s3
  have h3 : State.keeps writes_countUp s s3 := by
    unfold s3
    refine (State.keeps.put_cnt ?_ _ (by decide +kernel))
    exact State.keeps.refl
  try clear_value s3
  refine State.keeps.ite (fun _ => ?_) (fun _ => ?_)
  · refine State.keeps.wr ?_ (by decide +kernel)
    exact h3
  · exact h3

/-- What `gatherCounter` may write. -/
def writes_gatherCounter : Nat :=
  writes [.CNT_HI_PEND] [] ||| writes_countUp

theorem gatherCounter_keeps (s : State) (c : ℕ) :
    State.keeps writes_gatherCounter s (State.gatherCounter s c) := by
  unfold State.gatherCounter
  extract_lets -merge -underBinder +onlyGivenNames y1
  extract_lets -merge -underBinder +onlyGivenNames s2
  have h2 : State.keeps writes_gatherCounter s s2 := by
    unfold s2
    refine State.keeps.ite (fun _ => ?_) (fun _ => ?_)
    · exact State.keeps.refl
    · refine State.keeps.step ?_ (countUp_keeps ..) (by decide +kernel)
      exact State.keeps.refl
  try clear_value s2
  extract_lets -merge -underBinder +onlyGivenNames y3
  extract_lets -merge -underBinder +onlyGivenNames y4
  extract_lets -merge -underBinder +onlyGivenNames s5
  have h5 : State.keeps writes_gatherCounter s s5 := by
    unfold s5
    refine (State.keeps.put_cnt ?_ _ (by decide +kernel))
    exact h2
  try clear_value s5
  refine State.keeps.ite (fun _ => ?_) (fun _ => ?_)
  · exact h5
  · extract_lets -merge -underBinder +onlyGivenNames s6
    have h6 : State.keeps writes_gatherCounter s s6 := by
      unfold s6
      refine State.keeps.wr ?_ (by decide +kernel)
      exact h5
    try clear_value s6
    refine State.keeps.ite (fun _ => ?_) (fun _ => ?_)
    · refine State.keeps.wr ?_ (by decide +kernel)
      refine (State.keeps.put_cnt ?_ _ (by decide +kernel))
      exact h6
    · exact h6

/-- What `execGatherBoundary` may write. -/
def writes_execGatherBoundary : Nat :=
  writes_gatherCounter

theorem execGatherBoundary_keeps (s : State) :
    State.answers writes_execGatherBoundary s (execGatherBoundary s) := by
  unfold execGatherBoundary
  refine State.answers.next ?_
  refine State.keeps.ite (fun _ => ?_) (fun _ => ?_)
  · exact State.keeps.refl
  · extract_lets -merge -underBinder +onlyGivenNames s1
    have h1 : State.keeps writes_execGatherBoundary s s1 := by
      unfold s1
      refine State.keeps.forEach ?_ (fun x2 s2 h2 => ?_)
      · exact State.keeps.refl
      · try beta_reduce
        refine State.keeps.step ?_ (gatherCounter_keeps ..) (by decide +kernel)
        exact h2
    try clear_value s1
    refine (State.keeps.put_cnt ?_ _ (by decide +kernel))
    exact h1

/-- What `showHeld` may write. -/
def writes_showHeld : Nat :=
  writes [.CNT_STATUS_HELD] []

theorem showHeld_keeps (s : State) :
    State.keeps writes_showHeld s (State.showHeld s) := by
  unfold State.showHeld
  refine State.keeps.wr ?_ (by decide +kernel)
  exact State.keeps.refl

/-- What `publishGather` may write. -/
def writes_publishGather : Nat :=
  writes [.CNT_GATHER_GATHER, .CNT_GTIME_TIME, .CNT_HI_COUNT_HI, .CNT_LO_COUNT_LO] [.cnt]

theorem publishGather_keeps (s : State) :
    State.keeps writes_publishGather s (State.publishGather s) := by
  unfold State.publishGather
  extract_lets -merge -underBinder +onlyGivenNames y1
  extract_lets -merge -underBinder +onlyGivenNames s2
  have h2 : State.keeps writes_publishGather s s2 := by
    unfold s2
    refine State.keeps.foldl ?_ (fun s3 x3 h3 => ?_)
    · exact State.keeps.refl
    · try beta_reduce
      extract_lets -merge -underBinder +onlyGivenNames y4
      refine State.keeps.wr ?_ (by decide +kernel)
      refine State.keeps.wr ?_ (by decide +kernel)
      exact h3
  try clear_value s2
  extract_lets -merge -underBinder +onlyGivenNames s5
  have h5 : State.keeps writes_publishGather s s5 := by
    unfold s5
    refine State.keeps.wr ?_ (by decide +kernel)
    exact h2
  try clear_value s5
  extract_lets -merge -underBinder +onlyGivenNames y6
  extract_lets -merge -underBinder +onlyGivenNames s7
  have h7 : State.keeps writes_publishGather s s7 := by
    unfold s7
    refine State.keeps.wr ?_ (by decide +kernel)
    refine State.keeps.wr ?_ (by decide +kernel)
    refine State.keeps.wr ?_ (by decide +kernel)
    exact h5
  try clear_value s7
  refine (State.keeps.put_cnt ?_ _ (by decide +kernel))
  exact h7

/-- What `execGatherPublish` may write. -/
def writes_execGatherPublish : Nat :=
  writes [.CNT_STATUS_GATHER_LATE] [] ||| writes_publishGather

theorem execGatherPublish_keeps (late : Bool) (s : State) :
    State.answers writes_execGatherPublish s (execGatherPublish late s) := by
  unfold execGatherPublish
  refine State.answers.next ?_
  refine State.keeps.ite (fun _ => ?_) (fun _ => ?_)
  · exact State.keeps.refl
  · refine State.keeps.ite (fun _ => ?_) (fun _ => ?_)
    · refine State.keeps.wr ?_ (by decide +kernel)
      exact State.keeps.refl
    · refine State.keeps.ite (fun _ => ?_) (fun _ => ?_)
      · exact State.keeps.refl
      · refine State.keeps.step ?_ (publishGather_keeps ..) (by decide +kernel)
        exact State.keeps.refl

/-- What `execHoldTo` may write. -/
def writes_execHoldTo : Nat :=
  writes [.CNT_CTRL_FW_HOLD, .CNT_CTRL_HOST_HOLD, .CNT_STATUS_HOLD_TO] [] ||| writes_showHeld

theorem execHoldTo_keeps (s : State) :
    State.answers writes_execHoldTo s (execHoldTo s) := by
  unfold execHoldTo
  refine State.answers.next ?_
  refine State.keeps.ite (fun _ => ?_) (fun _ => ?_)
  · refine State.keeps.step ?_ (showHeld_keeps ..) (by decide +kernel)
    refine State.keeps.wr ?_ (by decide +kernel)
    refine State.keeps.wr ?_ (by decide +kernel)
    refine State.keeps.wr ?_ (by decide +kernel)
    exact State.keeps.refl
  · exact State.keeps.refl

/-- What `answer` may write. -/
def writes_answer : Nat :=
  writes [] [.readers]

theorem answer_keeps (s : State) (who : Sys2Proof.Requester) (w : ℕ) :
    State.keeps writes_answer s (State.answer s who w) := by
  unfold State.answer
  extract_lets -merge -underBinder +onlyGivenNames y1
  refine State.keeps.step ?_ (setReader_keeps ..) (by decide +kernel)
  exact State.keeps.refl

/-- What `readCntLo` may write. -/
def writes_readCntLo : Nat :=
  writes [.CNT_STATUS_HOST_REFUSED] [] ||| writes_answer

theorem readCntLo_keeps (s : State) (who : Sys2Proof.Requester) (c : ℕ) :
    State.keeps writes_readCntLo s (State.readCntLo s who c) := by
  unfold State.readCntLo
  refine State.keeps.ite (fun _ => ?_) (fun _ => ?_)
  · refine State.keeps.step ?_ (answer_keeps ..) (by decide +kernel)
    refine State.keeps.wr ?_ (by decide +kernel)
    exact State.keeps.refl
  · extract_lets -merge -underBinder +onlyGivenNames y1
    refine State.keeps.step ?_ (answer_keeps ..) (by decide +kernel)
    refine State.keeps.step ?_ (setReader_keeps ..) (by decide +kernel)
    exact State.keeps.refl

/-- What `readCntHi` may write. -/
def writes_readCntHi : Nat :=
  writes [.CNT_STATUS_HOST_REFUSED] [] ||| writes_answer

theorem readCntHi_keeps (s : State) (who : Sys2Proof.Requester) (c : ℕ) :
    State.keeps writes_readCntHi s (State.readCntHi s who c) := by
  unfold State.readCntHi
  refine State.keeps.ite (fun _ => ?_) (fun _ => ?_)
  · refine State.keeps.step ?_ (answer_keeps ..) (by decide +kernel)
    refine State.keeps.wr ?_ (by decide +kernel)
    exact State.keeps.refl
  · split
    · refine State.keeps.step ?_ (answer_keeps ..) (by decide +kernel)
      exact State.keeps.refl
    · refine State.keeps.step ?_ (answer_keeps ..) (by decide +kernel)
      exact State.keeps.refl

/-- What `execCntLoRead` may write. -/
def writes_execCntLoRead : Nat :=
  writes_viaRead ||| writes_readCntLo

theorem execCntLoRead_keeps (who : Sys2Proof.Requester) (c : Fin 224) (s : State) :
    State.answers writes_execCntLoRead s (execCntLoRead who c s) := by
  unfold execCntLoRead
  refine State.answers.next ?_
  refine viaRead_keeps (by decide +kernel) ?_ (fun s1 h1 => ?_)
  · exact State.keeps.refl
  · refine State.keeps.step ?_ (readCntLo_keeps ..) (by decide +kernel)
    exact h1

/-- What `stopCounter` may write. -/
def writes_stopCounter : Nat :=
  writes_countUp

theorem stopCounter_keeps (s : State) (c : ℕ) :
    State.keeps writes_stopCounter s (State.stopCounter s c) := by
  unfold State.stopCounter
  extract_lets -merge -underBinder +onlyGivenNames y1
  extract_lets -merge -underBinder +onlyGivenNames s2
  have h2 : State.keeps writes_stopCounter s s2 := by
    unfold s2
    refine State.keeps.step ?_ (countUp_keeps ..) (by decide +kernel)
    exact State.keeps.refl
  try clear_value s2
  refine State.keeps.ite (fun _ => ?_) (fun _ => ?_)
  · refine (State.keeps.put_cnt ?_ _ (by decide +kernel))
    exact h2
  · exact h2

/-- What `writeCntHi` may write. -/
def writes_writeCntHi : Nat :=
  writes [.CNT_HI_OVF] []

theorem writeCntHi_keeps (s : State) (c : ℕ) (w : ℕ) :
    State.keeps writes_writeCntHi s (State.writeCntHi s c w) := by
  unfold State.writeCntHi
  refine State.keeps.ite (fun _ => ?_) (fun _ => ?_)
  · refine State.keeps.wr ?_ (by decide +kernel)
    exact State.keeps.refl
  · exact State.keeps.refl

/-- What `writeCntSel` may write. -/
def writes_writeCntSel : Nat :=
  writes [.CNT_HI_PEND, .CNT_SEL_EVENT, .CNT_SEL_GROUP, .CNT_SEL_QUAL, .CNT_SEL_UNIT, .CNT_SEL_ZERO,
    .CNT_STATUS_HOST_REFUSED] [] ||| writes_stopCounter

theorem writeCntSel_keeps (s : State) (who : Sys2Proof.Requester) (c : ℕ) (w : ℕ) :
    State.keeps writes_writeCntSel s (State.writeCntSel s who c w) := by
  unfold State.writeCntSel
  refine State.keeps.ite (fun _ => ?_) (fun _ => ?_)
  · refine State.keeps.wr ?_ (by decide +kernel)
    exact State.keeps.refl
  · extract_lets -merge -underBinder +onlyGivenNames s1
    have h1 : State.keeps writes_writeCntSel s s1 := by
      unfold s1
      refine State.keeps.ite (fun _ => ?_) (fun _ => ?_)
      · exact State.keeps.refl
      · refine State.keeps.wr ?_ (by decide +kernel)
        refine State.keeps.step ?_ (stopCounter_keeps ..) (by decide +kernel)
        exact State.keeps.refl
    try clear_value s1
    extract_lets -merge -underBinder +onlyGivenNames s2
    have h2 : State.keeps writes_writeCntSel s s2 := by
      unfold s2
      refine State.keeps.ite (fun _ => ?_) (fun _ => ?_)
      · refine State.keeps.wr ?_ (by decide +kernel)
        exact h1
      · exact h1
    try clear_value s2
    refine State.keeps.wr ?_ (by decide +kernel)
    refine State.keeps.wr ?_ (by decide +kernel)
    refine State.keeps.wr ?_ (by decide +kernel)
    refine State.keeps.wr ?_ (by decide +kernel)
    exact h2

/-- What `execCntSelWrite` may write. -/
def writes_execCntSelWrite : Nat :=
  writes_via ||| writes_writeCntSel

theorem execCntSelWrite_keeps (who : Sys2Proof.Requester) (c : Fin 224) (w : Sys2Proof.Word) (s : State) :
    State.answers writes_execCntSelWrite s (execCntSelWrite who c w s) := by
  unfold execCntSelWrite
  refine State.answers.next ?_
  refine via_keeps (by decide +kernel) ?_ (fun s1 h1 => ?_)
  · exact State.keeps.refl
  · refine State.keeps.step ?_ (writeCntSel_keeps ..) (by decide +kernel)
    exact h1

/-- What `writeCntCtrl` may write. -/
def writes_writeCntCtrl : Nat :=
  writes [.CNT_CTRL_FW_HOLD, .CNT_CTRL_HOST_HOLD, .CNT_CTRL_HOST_PROG, .CNT_CTRL_HOST_RD] [] ||| writes_showHeld

theorem writeCntCtrl_keeps (s : State) (who : Sys2Proof.Requester) (w : ℕ) :
    State.keeps writes_writeCntCtrl s (State.writeCntCtrl s who w) := by
  unfold State.writeCntCtrl
  extract_lets -merge -underBinder +onlyGivenNames s1
  have h1 : State.keeps writes_writeCntCtrl s s1 := by
    unfold s1
    refine State.keeps.ite (fun _ => ?_) (fun _ => ?_)
    · exact State.keeps.refl
    · refine State.keeps.wr ?_ (by decide +kernel)
      refine State.keeps.wr ?_ (by decide +kernel)
      refine State.keeps.wr ?_ (by decide +kernel)
      exact State.keeps.refl
  try clear_value s1
  refine State.keeps.step ?_ (showHeld_keeps ..) (by decide +kernel)
  refine State.keeps.ite (fun _ => ?_) (fun _ => ?_)
  · refine State.keeps.wr ?_ (by decide +kernel)
    exact h1
  · exact h1

/-- What `showSamples` may write. -/
def writes_showSamples : Nat :=
  writes [.CNT_PS_STATUS_LEVEL] []

theorem showSamples_keeps (s : State) :
    State.keeps writes_showSamples s (State.showSamples s) := by
  unfold State.showSamples
  refine State.keeps.wr ?_ (by decide +kernel)
  exact State.keeps.refl

/-- What `dispatch` may write. -/
def writes_dispatch : Nat :=
  writes [] [.cnt] ||| writes_nextFree

theorem dispatch_keeps (s : State) (q : ℕ) (n : ℕ) :
    State.keeps writes_dispatch s (State.dispatch s q n) := by
  unfold State.dispatch
  refine State.keeps.ite (fun _ => ?_) (fun _ => ?_)
  · exact State.keeps.refl
  · extract_lets -merge -underBinder +onlyGivenNames y1
    extract_lets -merge -underBinder +onlyGivenNames y2
    unfold y2
    try beta_reduce
    extract_lets -merge -underBinder +onlyGivenNames y3
    extract_lets -merge -underBinder +onlyGivenNames y4
    refine State.keeps.ite (fun _ => ?_) (fun _ => ?_)
    · refine State.keeps.step ?_ (nextFree_keeps ..) (by decide +kernel)
      refine (State.keeps.put_cnt ?_ _ (by decide +kernel))
      exact State.keeps.refl
    · extract_lets -merge -underBinder +onlyGivenNames y5
      extract_lets -merge -underBinder +onlyGivenNames s6
      have h6 : State.keeps writes_dispatch s s6 := by
        unfold s6
        refine State.keeps.step ?_ (nextFree_keeps ..) (by decide +kernel)
        refine (State.keeps.put_cnt ?_ _ (by decide +kernel))
        exact State.keeps.refl
      try clear_value s6
      refine (State.keeps.put_cnt ?_ _ (by decide +kernel))
      exact h6

/-- What `execPreciseSample` may write. -/
def writes_execPreciseSample : Nat :=
  writes [.CNT_PS_STATUS_DROPPED] [] ||| writes_tally ||| writes_showSamples

theorem execPreciseSample_keeps (q : Sys2Proof.CoreIx) (x : Sys2Proof.Sample) (s : State) :
    State.answers writes_execPreciseSample s (execPreciseSample q x s) := by
  unfold execPreciseSample
  extract_lets -merge -underBinder +onlyGivenNames y1
  extract_lets -merge -underBinder +onlyGivenNames y2
  extract_lets -merge -underBinder +onlyGivenNames y3
  extract_lets -merge -underBinder +onlyGivenNames y4
  extract_lets -merge -underBinder +onlyGivenNames s5
  have h5 : State.keeps writes_execPreciseSample s s5 := by
    unfold s5
    refine (State.keeps.put_cnt ?_ _ (by decide +kernel))
    exact State.keeps.refl
  try clear_value s5
  extract_lets -merge -underBinder +onlyGivenNames s6
  have h6 : State.keeps writes_execPreciseSample s s6 := by
    unfold s6
    refine State.keeps.step ?_ (tally_keeps ..) (by decide +kernel)
    exact h5
  try clear_value s6
  refine State.answers.next ?_
  refine State.keeps.ite (fun _ => ?_) (fun _ => ?_)
  · exact State.keeps.refl
  · refine State.keeps.ite (fun _ => ?_) (fun _ => ?_)
    · refine State.keeps.step ?_ (showSamples_keeps ..) (by decide +kernel)
      refine (State.keeps.put_cnt ?_ _ (by decide +kernel))
      exact h6
    · extract_lets -merge -underBinder +onlyGivenNames s7
      have h7 : State.keeps writes_execPreciseSample s s7 := by
        unfold s7
        refine State.keeps.wr ?_ (by decide +kernel)
        exact h6
      try clear_value s7
      refine State.keeps.ite (fun _ => ?_) (fun _ => ?_)
      · refine (State.keeps.put_cnt ?_ _ (by decide +kernel))
        exact h7
      · exact h7

/-- What `readPsData` may write. -/
def writes_readPsData : Nat :=
  writes [] [.cnt] ||| writes_answer ||| writes_showSamples

theorem readPsData_keeps (s : State) (who : Sys2Proof.Requester) :
    State.keeps writes_readPsData s (State.readPsData s who) := by
  unfold State.readPsData
  extract_lets -merge -underBinder +onlyGivenNames s1
  have h1 : State.keeps writes_readPsData s s1 := by
    unfold s1
    refine State.keeps.step ?_ (answer_keeps ..) (by decide +kernel)
    exact State.keeps.refl
  try clear_value s1
  refine State.keeps.ite (fun _ => ?_) (fun _ => ?_)
  · exact h1
  · refine State.keeps.ite (fun _ => ?_) (fun _ => ?_)
    · refine (State.keeps.put_cnt ?_ _ (by decide +kernel))
      exact h1
    · refine State.keeps.step ?_ (showSamples_keeps ..) (by decide +kernel)
      refine (State.keeps.put_cnt ?_ _ (by decide +kernel))
      exact h1

/-- What `execCntPsDataRead` may write. -/
def writes_execCntPsDataRead : Nat :=
  writes_viaRead ||| writes_readPsData

theorem execCntPsDataRead_keeps (who : Sys2Proof.Requester) (s : State) :
    State.answers writes_execCntPsDataRead s (execCntPsDataRead who s) := by
  unfold execCntPsDataRead
  refine State.answers.next ?_
  refine viaRead_keeps (by decide +kernel) ?_ (fun s1 h1 => ?_)
  · exact State.keeps.refl
  · refine State.keeps.step ?_ (readPsData_keeps ..) (by decide +kernel)
    exact h1

/-- What `issueCycles` may write. -/
def writes_issueCycles : Nat :=
  writes_dispatch

theorem issueCycles_keeps (s : State) (q : ℕ) (n : ℕ) :
    State.keeps writes_issueCycles s (State.issueCycles s q n) := by
  unfold State.issueCycles
  refine State.keeps.ite (fun _ => ?_) (fun _ => ?_)
  · exact State.keeps.refl
  · extract_lets -merge -underBinder +onlyGivenNames y1
    extract_lets -merge -underBinder +onlyGivenNames y2
    extract_lets -merge -underBinder +onlyGivenNames y3
    extract_lets -merge -underBinder +onlyGivenNames y4
    extract_lets -merge -underBinder +onlyGivenNames s5
    have h5 : State.keeps writes_issueCycles s s5 := by
      unfold s5
      refine State.keeps.foldl ?_ (fun s6 x6 h6 => ?_)
      · refine State.keeps.step ?_ (tally_keeps ..) (by decide +kernel)
        exact State.keeps.refl
      · try beta_reduce
        refine State.keeps.step ?_ (tally_keeps ..) (by decide +kernel)
        exact h6
    try clear_value s5
    refine State.keeps.step ?_ (dispatch_keeps ..) (by decide +kernel)
    refine State.keeps.step ?_ (tally_keeps ..) (by decide +kernel)
    refine State.keeps.step ?_ (tally_keeps ..) (by decide +kernel)
    refine State.keeps.step ?_ (tally_keeps ..) (by decide +kernel)
    exact h5

/-- What `memoryCycles` may write. -/
def writes_memoryCycles : Nat :=
  writes_tally

theorem memoryCycles_keeps (s : State) (k : ℕ) :
    State.keeps writes_memoryCycles s (State.memoryCycles s k) := by
  unfold State.memoryCycles
  refine State.keeps.forEach ?_ (fun x1 s1 h1 => ?_)
  · exact State.keeps.refl
  · try beta_reduce
    refine State.keeps.ite (fun _ => ?_) (fun _ => ?_)
    · refine State.keeps.step ?_ (tally_keeps ..) (by decide +kernel)
      exact h1
    · exact h1

/-- What `fieldCycles` may write. -/
def writes_fieldCycles : Nat :=
  writes_issueCycles

theorem fieldCycles_keeps (s : State) (n : ℕ) :
    State.keeps writes_fieldCycles s (State.fieldCycles s n) := by
  unfold State.fieldCycles
  extract_lets -merge -underBinder +onlyGivenNames s1
  have h1 : State.keeps writes_fieldCycles s s1 := by
    unfold s1
    refine State.keeps.forEach ?_ (fun x2 s2 h2 => ?_)
    · exact State.keeps.refl
    · try beta_reduce
      refine State.keeps.step ?_ (issueCycles_keeps ..) (by decide +kernel)
      exact h2
  try clear_value s1
  refine State.keeps.forEach ?_ (fun x3 s3 h3 => ?_)
  · exact h1
  · try beta_reduce
    refine State.keeps.ite (fun _ => ?_) (fun _ => ?_)
    · exact h3
    · refine State.keeps.step ?_ (tallyMask_keeps ..) (by decide +kernel)
      exact h3

end Sys2Proof.Machine
end

