-- ==== Sys2Proof/Laws/DmaKeeps.lean ====
section
/-!
SUPPORT. What each operation of Machine/Dma.lean may write.
-/

namespace Sys2Proof.Machine

set_option Elab.async false

/-- What `ringInterrupt` may write. -/
def writes_ringInterrupt : Nat :=
  writes [] [.rings] ||| writes_interrupt

theorem ringInterrupt_keeps (s : State) (r : ℕ) :
    State.keeps writes_ringInterrupt s (State.ringInterrupt s r) := by
  unfold State.ringInterrupt
  refine State.keeps.step ?_ (interrupt_keeps ..) (by decide +kernel)
  refine State.keeps.step ?_ (setRing_keeps ..) (by decide +kernel)
  exact State.keeps.refl

/-- What `countClosed` may write. -/
def writes_countClosed : Nat :=
  writes_ringInterrupt

theorem countClosed_keeps (s : State) (r : ℕ) :
    State.keeps writes_countClosed s (State.countClosed s r) := by
  unfold State.countClosed
  extract_lets -merge -underBinder +onlyGivenNames y1
  extract_lets -merge -underBinder +onlyGivenNames y2
  extract_lets -merge -underBinder +onlyGivenNames s3
  have h3 : State.keeps writes_countClosed s s3 := by
    unfold s3
    refine State.keeps.step ?_ (setRing_keeps ..) (by decide +kernel)
    exact State.keeps.refl
  try clear_value s3
  refine State.keeps.ite (fun _ => ?_) (fun _ => ?_)
  · refine State.keeps.step ?_ (ringInterrupt_keeps ..) (by decide +kernel)
    exact h3
  · exact h3

/-- What `closeBuffer` may write. -/
def writes_closeBuffer : Nat :=
  writes [.DMA_TAIL_TAIL] [] ||| writes_countClosed

theorem closeBuffer_keeps (s : State) (r : ℕ) (ends : Bool) :
    State.keeps writes_closeBuffer s (State.closeBuffer s r ends) := by
  unfold State.closeBuffer
  extract_lets -merge -underBinder +onlyGivenNames y1
  split
  · exact State.keeps.refl
  · extract_lets -merge -underBinder +onlyGivenNames y2
    refine State.keeps.step ?_ (countClosed_keeps ..) (by decide +kernel)
    refine State.keeps.wr ?_ (by decide +kernel)
    refine State.keeps.step ?_ (setRing_keeps ..) (by decide +kernel)
    exact State.keeps.refl

/-- What `stopRing` may write. -/
def writes_stopRing : Nat :=
  writes [.DMA_CTRL_EN, .DMA_STATUS_RUN] [] ||| writes_closeBuffer

theorem stopRing_keeps (s : State) (cause : Field) (r : ℕ) :
    State.keeps (writes [cause] [] ||| writes_stopRing) s (State.stopRing s cause r) := by
  unfold State.stopRing
  refine State.keeps.ite (fun _ => ?_) (fun _ => ?_)
  · exact State.keeps.refl
  · extract_lets -merge -underBinder +onlyGivenNames s1
    have h1 : State.keeps (writes [cause] [] ||| writes_stopRing) s s1 := by
      unfold s1
      refine State.keeps.wr ?_ (inSet_left (inSet_mem (by simp)))
      refine State.keeps.wr ?_ (inSet_right (by decide +kernel))
      refine State.keeps.wr ?_ (inSet_right (by decide +kernel))
      refine State.keeps.step ?_ (closeBuffer_keeps ..)
        (by first | exact sub_right (by decide +kernel) | exact sub_left | exact sub_both (by decide +kernel))
      exact State.keeps.refl
    try clear_value s1
    refine State.keeps.step ?_ (setRing_keeps ..)
      (by first | exact sub_right (by decide +kernel) | exact sub_left | exact sub_both (by decide +kernel))
    exact h1

/-- What `stopRings` may write. -/
def writes_stopRings : Nat :=
  writes_stopRing

theorem stopRings_keeps (s : State) (cause : Field) :
    State.keeps (writes [cause] [] ||| writes_stopRings) s (State.stopRings s cause) := by
  unfold State.stopRings
  refine State.keeps.forEach ?_ (fun x1 s1 h1 => ?_)
  · exact State.keeps.refl
  · try beta_reduce
    refine State.keeps.step ?_ (stopRing_keeps ..)
      (by first | exact sub_right (by decide +kernel) | exact sub_left | exact sub_both (by decide +kernel))
    exact h1

/-- What `refreshLimit` may write. -/
def writes_refreshLimit : Nat :=
  writes [.DMA_STATUS_LIMIT_STOP, .PCIE_CAP_CAP_LIMIT, .PCIE_STATUS_NARROW] [] ||| writes_stopRing

theorem refreshLimit_keeps (s : State) :
    State.keeps writes_refreshLimit s (State.refreshLimit s) := by
  unfold State.refreshLimit
  extract_lets -merge -underBinder +onlyGivenNames y1
  extract_lets -merge -underBinder +onlyGivenNames s2
  have h2 : State.keeps writes_refreshLimit s s2 := by
    unfold s2
    refine State.keeps.wr ?_ (by decide +kernel)
    refine State.keeps.wr ?_ (by decide +kernel)
    exact State.keeps.refl
  try clear_value s2
  refine State.keeps.foldl ?_ (fun s3 x3 h3 => ?_)
  · exact h2
  · try beta_reduce
    refine State.keeps.ite (fun _ => ?_) (fun _ => ?_)
    · exact h3
    · refine State.keeps.step ?_ (stopRing_keeps ..) (by decide +kernel)
      exact h3

/-- What `writeDmaCtrl` may write. -/
def writes_writeDmaCtrl : Nat :=
  writes [.DMA_CTRL_BP, .DMA_CTRL_HOLDOFF, .DMA_CTRL_IRQ_N, .DMA_CTRL_TAP, .DMA_STATUS_BME_OFF,
    .DMA_STATUS_ENA_REFUSED, .DMA_STATUS_FIELD_LOST] [] ||| writes_stopRing

theorem writeDmaCtrl_keeps (s : State) (r : ℕ) (w : ℕ) :
    State.keeps writes_writeDmaCtrl s (State.writeDmaCtrl s r w) := by
  unfold State.writeDmaCtrl
  extract_lets -merge -underBinder +onlyGivenNames s1
  have h1 : State.keeps writes_writeDmaCtrl s s1 := by
    unfold s1
    refine State.keeps.wr ?_ (by decide +kernel)
    refine State.keeps.wr ?_ (by decide +kernel)
    refine State.keeps.wr ?_ (by decide +kernel)
    refine State.keeps.wr ?_ (by decide +kernel)
    exact State.keeps.refl
  try clear_value s1
  refine State.keeps.ite (fun _ => ?_) (fun _ => ?_)
  · extract_lets -merge -underBinder +onlyGivenNames s2
    have h2 : State.keeps writes_writeDmaCtrl s s2 := by
      unfold s2
      refine State.keeps.wr ?_ (by decide +kernel)
      refine State.keeps.wr ?_ (by decide +kernel)
      refine State.keeps.step ?_ (closeBuffer_keeps ..) (by decide +kernel)
      exact h1
    try clear_value s2
    refine State.keeps.step ?_ (setRing_keeps ..) (by decide +kernel)
    exact h2
  · refine State.keeps.ite (fun _ => ?_) (fun _ => ?_)
    · exact h1
    · refine State.keeps.ite (fun _ => ?_) (fun _ => ?_)
      · refine State.keeps.wr ?_ (by decide +kernel)
        exact h1
      · extract_lets -merge -underBinder +onlyGivenNames s3
        have h3 : State.keeps writes_writeDmaCtrl s s3 := by
          unfold s3
          refine State.keeps.wr ?_ (by decide +kernel)
          refine State.keeps.wr ?_ (by decide +kernel)
          exact h1
        try clear_value s3
        refine State.keeps.ite (fun _ => ?_) (fun _ => ?_)
        · refine State.keeps.step ?_ (stopRing_keeps ..) (by decide +kernel)
          exact h3
        · refine State.keeps.ite (fun _ => ?_) (fun _ => ?_)
          · refine State.keeps.step ?_ (stopRing_keeps ..) (by decide +kernel)
            exact h3
          · exact h3

/-- What `writeDmaHead` may write. -/
def writes_writeDmaHead : Nat :=
  writes [.DMA_HEAD_HEAD, .DMA_STATUS_HEAD_REFUSED] []

theorem writeDmaHead_keeps (s : State) (r : ℕ) (w : ℕ) :
    State.keeps writes_writeDmaHead s (State.writeDmaHead s r w) := by
  unfold State.writeDmaHead
  extract_lets -merge -underBinder +onlyGivenNames y1
  refine State.keeps.ite (fun _ => ?_) (fun _ => ?_)
  · refine State.keeps.wr ?_ (by decide +kernel)
    exact State.keeps.refl
  · refine State.keeps.wr ?_ (by decide +kernel)
    exact State.keeps.refl

/-- What `execDmaEnable` may write. -/
def writes_execDmaEnable : Nat :=
  writes_writeDmaCtrl

theorem execDmaEnable_keeps (r : Sys2Proof.RingIx) (w : Sys2Proof.Word) (s : State) :
    State.answers writes_execDmaEnable s (execDmaEnable r w s) := by
  unfold execDmaEnable
  refine State.answers.next ?_
  refine State.keeps.step ?_ (writeDmaCtrl_keeps ..) (by decide +kernel)
  exact State.keeps.refl

/-- What `execDmaHeadWrite` may write. -/
def writes_execDmaHeadWrite : Nat :=
  writes_writeDmaHead

theorem execDmaHeadWrite_keeps (r : Sys2Proof.RingIx) (w : Sys2Proof.Word) (s : State) :
    State.answers writes_execDmaHeadWrite s (execDmaHeadWrite r w s) := by
  unfold execDmaHeadWrite
  refine State.answers.next ?_
  refine State.keeps.step ?_ (writeDmaHead_keeps ..) (by decide +kernel)
  exact State.keeps.refl

/-- What `takeStaged` may write. -/
def writes_takeStaged : Nat :=
  writes [.SCR_FCREDIT_CAP8] [.rings, .scr] ||| writes_tally

theorem takeStaged_keeps (s : State) (r : ℕ) (b : CapBuffer) (rest : List Staged) :
    State.keeps writes_takeStaged s (State.takeStaged s r b rest) := by
  unfold State.takeStaged
  extract_lets -merge -underBinder +onlyGivenNames y1
  extract_lets -merge -underBinder +onlyGivenNames s2
  have h2 : State.keeps writes_takeStaged s s2 := by
    unfold s2
    refine State.keeps.step ?_ (setRing_keeps ..) (by decide +kernel)
    exact State.keeps.refl
  try clear_value s2
  extract_lets -merge -underBinder +onlyGivenNames y3
  refine State.keeps.step ?_ (tally_keeps ..) (by decide +kernel)
  refine State.keeps.wr ?_ (by decide +kernel)
  refine (State.keeps.put_scr ?_ _ (by decide +kernel))
  exact h2

/-- What `captureGrain` may write. -/
def writes_captureGrain : Nat :=
  writes [.DMA_STATUS_BAD_DESC, .DMA_TAIL_TAIL] [] ||| writes_takeStaged

theorem captureGrain_keeps (s : State) (r : ℕ) (d : Sys2Proof.Descriptor) :
    State.keeps writes_captureGrain s (State.captureGrain s r d) := by
  unfold State.captureGrain
  extract_lets -merge -underBinder +onlyGivenNames y1
  split
  · exact State.keeps.refl
  · refine State.keeps.ite (fun _ => ?_) (fun _ => ?_)
    · exact State.keeps.refl
    · split
      · refine State.keeps.step ?_ (takeStaged_keeps ..) (by decide +kernel)
        exact State.keeps.refl
      · refine State.keeps.ite (fun _ => ?_) (fun _ => ?_)
        · exact State.keeps.refl
        · refine State.keeps.ite (fun _ => ?_) (fun _ => ?_)
          · extract_lets -merge -underBinder +onlyGivenNames y2
            refine State.keeps.step ?_ (countClosed_keeps ..) (by decide +kernel)
            refine State.keeps.wr ?_ (by decide +kernel)
            refine State.keeps.wr ?_ (by decide +kernel)
            refine State.keeps.step ?_ (setRing_keeps ..) (by decide +kernel)
            exact State.keeps.refl
          · refine State.keeps.step ?_ (takeStaged_keeps ..) (by decide +kernel)
            exact State.keeps.refl

/-- What `execCaptureGrain` may write. -/
def writes_execCaptureGrain : Nat :=
  writes_captureGrain

theorem execCaptureGrain_keeps (r : Sys2Proof.RingIx) (d : Sys2Proof.Descriptor) (s : State) :
    State.answers writes_execCaptureGrain s (execCaptureGrain r d s) := by
  unfold execCaptureGrain
  refine State.answers.next ?_
  refine State.keeps.step ?_ (captureGrain_keeps ..) (by decide +kernel)
  exact State.keeps.refl

/-- What `execDmaBufferClose` may write. -/
def writes_execDmaBufferClose : Nat :=
  writes_closeBuffer

theorem execDmaBufferClose_keeps (r : Sys2Proof.RingIx) (s : State) :
    State.answers writes_execDmaBufferClose s (execDmaBufferClose r s) := by
  unfold execDmaBufferClose
  refine State.answers.next ?_
  refine State.keeps.ite (fun _ => ?_) (fun _ => ?_)
  · refine State.keeps.step ?_ (closeBuffer_keeps ..) (by decide +kernel)
    exact State.keeps.refl
  · exact State.keeps.refl

/-- What `execDmaFlushTimeout` may write. -/
def writes_execDmaFlushTimeout : Nat :=
  writes_closeBuffer

theorem execDmaFlushTimeout_keeps (r : Sys2Proof.RingIx) (s : State) :
    State.answers writes_execDmaFlushTimeout s (execDmaFlushTimeout r s) := by
  unfold execDmaFlushTimeout
  refine State.answers.next ?_
  refine State.keeps.ite (fun _ => ?_) (fun _ => ?_)
  · exact State.keeps.refl
  · refine State.keeps.step ?_ (closeBuffer_keeps ..) (by decide +kernel)
    exact State.keeps.refl

/-- What `execDmaHoldoffExpire` may write. -/
def writes_execDmaHoldoffExpire : Nat :=
  writes_ringInterrupt

theorem execDmaHoldoffExpire_keeps (r : Sys2Proof.RingIx) (s : State) :
    State.answers writes_execDmaHoldoffExpire s (execDmaHoldoffExpire r s) := by
  unfold execDmaHoldoffExpire
  refine State.answers.next ?_
  refine State.keeps.ite (fun _ => ?_) (fun _ => ?_)
  · exact State.keeps.refl
  · refine State.keeps.step ?_ (ringInterrupt_keeps ..) (by decide +kernel)
    exact State.keeps.refl

/-- What `report` may write. -/
def writes_report : Nat :=
  writes [] [.scr]

theorem report_keeps (s : State) (k : ℕ) :
    State.keeps writes_report s (State.report s k) := by
  unfold State.report
  refine (State.keeps.put_scr ?_ _ (by decide +kernel))
  exact State.keeps.refl

/-- What `execDmaErr` may write. -/
def writes_execDmaErr : Nat :=
  writes [.DMA_STATUS_DMA_ERR] [] ||| writes_stopRing

theorem execDmaErr_keeps (r : Sys2Proof.RingIx) (s : State) :
    State.answers writes_execDmaErr s (execDmaErr r s) := by
  unfold execDmaErr
  refine State.answers.next ?_
  refine State.keeps.step ?_ (stopRing_keeps ..) (by decide +kernel)
  refine State.keeps.step ?_ (report_keeps ..) (by decide +kernel)
  exact State.keeps.refl

/-- What `execPcieError` may write. -/
def writes_execPcieError : Nat :=
  writes [.DMA_STATUS_DMA_ERR] [] ||| writes_stopRing

theorem execPcieError_keeps (k : Fin 8) (r : Sys2Proof.RingIx) (s : State) :
    State.answers writes_execPcieError s (execPcieError k r s) := by
  unfold execPcieError
  refine State.answers.next ?_
  refine State.keeps.ite (fun _ => ?_) (fun _ => ?_)
  · refine State.keeps.step ?_ (stopRing_keeps ..) (by decide +kernel)
    refine State.keeps.step ?_ (report_keeps ..) (by decide +kernel)
    exact State.keeps.refl
  · refine State.keeps.step ?_ (report_keeps ..) (by decide +kernel)
    exact State.keeps.refl

/-- What `execPcieRetrain` may write. -/
def writes_execPcieRetrain : Nat :=
  writes [.PCIE_STATUS_GEN, .PCIE_STATUS_WIDTH] [] ||| writes_refreshLimit

theorem execPcieRetrain_keeps (gen : Fin 8) (width : Fin 32) (s : State) :
    State.answers writes_execPcieRetrain s (execPcieRetrain gen width s) := by
  unfold execPcieRetrain
  refine State.answers.next ?_
  refine State.keeps.ite (fun _ => ?_) (fun _ => ?_)
  · refine State.keeps.step ?_ (refreshLimit_keeps ..) (by decide +kernel)
    refine State.keeps.wr ?_ (by decide +kernel)
    refine State.keeps.wr ?_ (by decide +kernel)
    exact State.keeps.refl
  · exact State.keeps.refl

/-- What `execBmeOff` may write. -/
def writes_execBmeOff : Nat :=
  writes [.DMA_STATUS_BME_OFF] [] ||| writes_stopRings

theorem execBmeOff_keeps (s : State) :
    State.answers writes_execBmeOff s (execBmeOff s) := by
  unfold execBmeOff
  extract_lets -merge -underBinder +onlyGivenNames s1
  have h1 : State.keeps writes_execBmeOff s s1 := by
    unfold s1
    refine State.keeps.step ?_ (stopRings_keeps ..) (by decide +kernel)
    exact State.keeps.refl
  try clear_value s1
  refine State.answers.next ?_
  refine (State.keeps.put_scr ?_ _ (by decide +kernel))
  exact h1

/-- What `hostCause` may write. -/
def writes_hostCause : Nat :=
  writes [.SCR_HIRQ_CAUSE] [] ||| writes_interrupt

theorem hostCause_keeps (s : State) (b : ℕ) :
    State.keeps writes_hostCause s (State.hostCause s b) := by
  unfold State.hostCause
  extract_lets -merge -underBinder +onlyGivenNames y1
  refine State.keeps.step ?_ (interrupt_keeps ..) (by decide +kernel)
  refine State.keeps.ite (fun _ => ?_) (fun _ => ?_)
  · exact State.keeps.refl
  · refine State.keeps.wr ?_ (by decide +kernel)
    exact State.keeps.refl

/-- What `execDieBTempSample` may write. -/
def writes_execDieBTempSample : Nat :=
  writes [.DMA_STATUS_TEMP_STOP, .PCIE_TEMP_MAX_T, .PCIE_TEMP_TEMP] [] ||| writes_hostCause ||| writes_stopRings

theorem execDieBTempSample_keeps (t : BitVec 16) (s : State) :
    State.answers writes_execDieBTempSample s (execDieBTempSample t s) := by
  unfold execDieBTempSample
  extract_lets -merge -underBinder +onlyGivenNames y1
  extract_lets -merge -underBinder +onlyGivenNames y2
  extract_lets -merge -underBinder +onlyGivenNames y3
  extract_lets -merge -underBinder +onlyGivenNames y4
  extract_lets -merge -underBinder +onlyGivenNames y5
  extract_lets -merge -underBinder +onlyGivenNames y6
  extract_lets -merge -underBinder +onlyGivenNames y7
  extract_lets -merge -underBinder +onlyGivenNames s8
  have h8 : State.keeps writes_execDieBTempSample s s8 := by
    unfold s8
    refine State.keeps.wr ?_ (by decide +kernel)
    refine State.keeps.wr ?_ (by decide +kernel)
    exact State.keeps.refl
  try clear_value s8
  extract_lets -merge -underBinder +onlyGivenNames s9
  have h9 : State.keeps writes_execDieBTempSample s s9 := by
    unfold s9
    refine (State.keeps.put_scr ?_ _ (by decide +kernel))
    exact h8
  try clear_value s9
  extract_lets -merge -underBinder +onlyGivenNames s10
  have h10 : State.keeps writes_execDieBTempSample s s10 := by
    unfold s10
    refine State.keeps.ite (fun _ => ?_) (fun _ => ?_)
    · refine State.keeps.step ?_ (hostCause_keeps ..) (by decide +kernel)
      exact h9
    · exact h9
  try clear_value s10
  refine State.answers.next ?_
  refine State.keeps.ite (fun _ => ?_) (fun _ => ?_)
  · refine State.keeps.step ?_ (hostCause_keeps ..) (by decide +kernel)
    refine State.keeps.step ?_ (stopRings_keeps ..) (by decide +kernel)
    exact h10
  · exact h10

end Sys2Proof.Machine
end

