-- ==== Sys2Proof/Laws/Memory.lean ====
section
/-!
SUPPORT. Laws of the byte memories (flash, the local memories of the policy cores, the held head of an update): every
operation keeps the canonical form, and what a byte reads as after it.
-/

namespace Sys2Proof.Machine

/-- Erasing keeps the canonical form. -/
theorem wf_eraseBytes {m : Store Byte} (hm : Store.wf erased m = true) (a k : Nat) :
    Store.wf erased (eraseBytes m a k) = true := Store.wf_filter hm _

/-- Programming keeps the canonical form. -/
theorem wf_programBytes {m : Store Byte} (hm : Store.wf erased m = true) (a : Nat) (bs : List Byte) :
    Store.wf erased (programBytes m a bs) = true := by
  induction bs generalizing m a with
  | nil => exact hm
  | cons v vs ih => exact ih (Store.wf_set hm _ _) _

/-- Setting bytes one after another keeps the canonical form. -/
theorem wf_setBytes {α : Type} {m : Store Byte} (hm : Store.wf erased m = true) (k : α → Nat) (v : α → Byte) (xs : List α) :
    Store.wf erased (xs.foldl (fun m i => Store.set erased m (k i) (v i)) m) = true := by
  induction xs generalizing m with
  | nil => exact hm
  | cons x xs ih => exact ih (Store.wf_set hm _ _)

theorem wfFrom_entries (bs : List Byte) (a lo n : Nat) (h : lo ≤ a + n) :
    Store.wfFrom erased lo ((bs.zipIdx n).filterMap fun x => if x.1 = erased 0 then none else some (a + x.2, x.1)) = true := by
  induction bs generalizing lo n with
  | nil => rfl
  | cons v vs ih =>
    rw [List.zipIdx_cons, List.filterMap_cons]
    by_cases hv : v = erased 0
    · simp only [hv, if_true]
      exact ih _ _ (by omega)
    · simp only [hv, if_false, Store.wfFrom, Bool.and_eq_true, decide_eq_true_eq]
      exact ⟨⟨h, hv⟩, ih _ _ (by omega)⟩

/-- Replacing bytes keeps the canonical form. -/
theorem wf_putBytes {m : Store Byte} (hm : Store.wf erased m = true) (a : Nat) (bs : List Byte) :
    Store.wf erased (putBytes m a bs) = true := by
  unfold putBytes Store.wf
  refine Store.wfFrom_append (hi := a + bs.length) ?_ ?_ (Nat.zero_le _) ?_
  · refine Store.wfFrom_append (hi := a) (Store.wfFrom_filter hm _) ?_ (Nat.zero_le _) (wfFrom_entries bs a a 0 (by omega))
    intro x hx
    simpa using (List.mem_filter.mp hx).2
  · intro x hx
    rcases List.mem_append.mp hx with h | h
    · have := (List.mem_filter.mp h).2
      simp at this
      omega
    · obtain ⟨y, hy, he⟩ := List.mem_filterMap.mp h
      have hl := List.snd_lt_of_mem_zipIdx hy
      split at he
      · cases he
      · cases he
        simpa using hl
  · refine Store.wfFrom_high (Store.wfFrom_filter hm _) ?_
    intro x hx
    simpa using (List.mem_filter.mp hx).2

/-- Replacing several runs of bytes keeps the canonical form. -/
theorem wf_putAll {α : Type} {m : Store Byte} (hm : Store.wf erased m = true) (k : α → Nat) (v : α → List Byte)
    (xs : List α) : Store.wf erased (xs.foldl (fun m i => putBytes m (k i) (v i)) m) = true := by
  induction xs generalizing m with
  | nil => exact hm
  | cons x xs ih => exact ih (wf_putBytes hm _ _)

theorem Store.get_filter {α : Type} [DecidableEq α] {d : Nat → α} {m : Store α} {lo : Nat}
    (hm : Store.wfFrom d lo m = true) (p : Nat → Bool) (k : Nat) :
    Store.get d (m.filter fun x => p x.1) k = if p k then Store.get d m k else d k := by
  induction m generalizing lo with
  | nil => simp [Store.get]
  | cons x rest ih =>
    obtain ⟨j, v⟩ := x
    simp only [Store.wfFrom, Bool.and_eq_true, decide_eq_true_eq] at hm
    rw [List.filter_cons]
    by_cases hp : p j = true
    · simp only [hp, if_true, Store.get, ih hm.2]
      grind
    · simp only [hp, Bool.false_eq_true, if_false, ih hm.2, Store.get]
      by_cases h1 : k < j
      · rw [Store.get_low hm.2 (by omega)]
        simp [h1]
      · by_cases h2 : k = j
        · subst h2
          simp [hp]
        · simp [h1, h2]

/-- An erased byte reads 0xFF; every other byte reads as before. -/
theorem get_eraseBytes {m : Store Byte} (hm : Store.wf erased m = true) (a k b : Nat) :
    Store.get erased (eraseBytes m a k) b = if b < a ∨ a + k ≤ b then Store.get erased m b else erased b := by
  have h := Store.get_filter (lo := 0) hm (fun x => decide (x < a ∨ a + k ≤ x)) b
  simpa [eraseBytes] using h

/-- A byte outside the programmed ones reads as before. -/
theorem get_programBytes_ne {m : Store Byte} (hm : Store.wf erased m = true) (a : Nat) (bs : List Byte) (b : Nat)
    (h : b < a ∨ a + bs.length ≤ b) : Store.get erased (programBytes m a bs) b = Store.get erased m b := by
  induction bs generalizing m a with
  | nil => rfl
  | cons v vs ih =>
    have hl : (v :: vs).length = vs.length + 1 := rfl
    rw [programBytes, ih (Store.wf_set hm _ _) _ (by omega), Store.get_set_ne hm (by omega)]

/-- A programmed byte keeps the bits that were 1 and that the new byte has 1. -/
theorem get_programBytes {m : Store Byte} (hm : Store.wf erased m = true) (a : Nat) (bs : List Byte) (i : Nat)
    (h : i < bs.length) :
    Store.get erased (programBytes m a bs) (a + i) = Store.get erased m (a + i) &&& bs.getD i 0 := by
  induction bs generalizing m a i with
  | nil => cases h
  | cons v vs ih =>
    rw [programBytes]
    cases i with
    | zero =>
      rw [get_programBytes_ne (Store.wf_set hm _ _) _ _ _ (by omega), Nat.add_zero, Store.get_set_self hm]
      rfl
    | succ i =>
      have := ih (Store.wf_set hm a (Store.get erased m a &&& v)) (a + 1) i (by simpa using h)
      rw [show a + (i + 1) = a + 1 + i by omega, this, Store.get_set_ne hm (by omega)]
      rfl

theorem length_bytesFrom (k : Nat) (m : Store Byte) (a : Nat) : (bytesFrom k m a).length = k := by
  induction k generalizing m a with
  | zero => rfl
  | succ k ih =>
    cases m with
    | nil => simp [bytesFrom, ih]
    | cons x rest => obtain ⟨j, v⟩ := x; rw [bytesFrom]; split <;> simp [ih]

theorem length_readBytes (m : Store Byte) (a k : Nat) : (readBytes m a k).length = k := length_bytesFrom _ _ _

theorem getD_bytesFrom (k : Nat) {m : Store Byte} (a i : Nat) (hm : Store.wfFrom erased a m = true) (h : i < k) :
    (bytesFrom k m a).getD i 0 = Store.get erased m (a + i) := by
  induction k generalizing m a i with
  | zero => cases h
  | succ k ih =>
    cases m with
    | nil =>
      cases i with
      | zero => rfl
      | succ i =>
        rw [bytesFrom, List.getD_cons_succ, ih (m := []) (a + 1) i rfl (by omega)]
        rfl
    | cons x rest =>
      obtain ⟨j, v⟩ := x
      have hm' := hm
      simp only [Store.wfFrom, Bool.and_eq_true, decide_eq_true_eq] at hm
      rw [bytesFrom]
      split
      · rename_i hj
        subst hj
        cases i with
        | zero => simp [Store.get]
        | succ i =>
          rw [List.getD_cons_succ, ih _ i hm.2 (by omega), show j + 1 + i = j + (i + 1) by omega]
          simp [Store.get]
      · rename_i hj
        cases i with
        | zero =>
          have : a < j := by omega
          simp [Store.get, this]
        | succ i =>
          have hw : Store.wfFrom erased (a + 1) ((j, v) :: rest) = true := by
            simp only [Store.wfFrom, Bool.and_eq_true, decide_eq_true_eq]
            exact ⟨⟨by omega, hm.1.2⟩, hm.2⟩
          rw [List.getD_cons_succ, ih _ i hw (by omega), show a + 1 + i = a + (i + 1) by omega]

theorem wfFrom_dropWhile {m : Store Byte} {lo : Nat} (hm : Store.wfFrom erased lo m = true) (a : Nat) :
    Store.wfFrom erased a (m.dropWhile fun (x : Nat × Byte) => decide (x.1 < a)) = true := by
  induction m generalizing lo with
  | nil => rfl
  | cons x rest ih =>
    obtain ⟨j, v⟩ := x
    simp only [Store.wfFrom, Bool.and_eq_true, decide_eq_true_eq] at hm
    rw [List.dropWhile_cons]
    split
    · exact ih hm.2
    · rename_i h
      simp only [Store.wfFrom, Bool.and_eq_true, decide_eq_true_eq]
      simp at h
      exact ⟨⟨h, hm.1.2⟩, hm.2⟩

theorem get_dropWhile {m : Store Byte} (a b : Nat) (h : a ≤ b) :
    Store.get erased (m.dropWhile fun (x : Nat × Byte) => decide (x.1 < a)) b = Store.get erased m b := by
  induction m with
  | nil => rfl
  | cons x rest ih =>
    obtain ⟨j, v⟩ := x
    rw [List.dropWhile_cons]
    split
    · rename_i hj
      simp at hj
      rw [ih, Store.get, if_neg (by omega), if_neg (by omega)]
    · rfl

/-- Byte `i` of a run of bytes read from address `a` is the byte at `a + i`. -/
theorem getD_readBytes {m : Store Byte} (hm : Store.wf erased m = true) (a k i : Nat) (h : i < k) :
    (readBytes m a k).getD i 0 = Store.get erased m (a + i) := by
  rw [readBytes, getD_bytesFrom k a i (wfFrom_dropWhile (lo := 0) hm a) h, get_dropWhile a _ (by omega)]

end Sys2Proof.Machine
end

