-- ==== Sys2Proof/Laws/UpdateKeeps.lean ====
section
/-!
SUPPORT. What each operation of Machine/Update.lean may write.
-/

namespace Sys2Proof.Machine

set_option Elab.async false

/-- What `updEnd` may write. -/
def writes_updEnd : Nat :=
  writes [.KCT_UPD_STATUS_UREJECT, .KCT_UPD_STATUS_USTATE, .KCT_UPD_STATUS_WAITING] [.kct]

theorem updEnd_keeps (s : State) (code : ℕ) :
    State.keeps writes_updEnd s (State.updEnd s code) := by
  unfold State.updEnd
  extract_lets -merge -underBinder +onlyGivenNames s1
  have h1 : State.keeps writes_updEnd s s1 := by
    unfold s1
    refine State.keeps.wr ?_ (by decide +kernel)
    refine State.keeps.wr ?_ (by decide +kernel)
    refine State.keeps.wr ?_ (by decide +kernel)
    exact State.keeps.refl
  try clear_value s1
  refine (State.keeps.put_kct ?_ _ (by decide +kernel) (fun _ hw => ⟨hw.flash, hw.localMem, rfl⟩))
  exact h1

/-- What `eraseInactive` may write. -/
def writes_eraseInactive : Nat :=
  writes [] [.kct]

theorem eraseInactive_keeps (s : State) (o : ℕ) (k : ℕ) :
    State.keeps writes_eraseInactive s (State.eraseInactive s o k) := by
  unfold State.eraseInactive
  refine (State.keeps.put_kct ?_ _ (by decide +kernel) (fun _ hw => ⟨wf_eraseBytes hw.flash _ _, hw.localMem,
    hw.updHead⟩))
  exact State.keeps.refl

/-- What `updStart` may write. -/
def writes_updStart : Nat :=
  writes [.KCT_UPD_STATUS_OWNER, .KCT_UPD_STATUS_UFAIL, .KCT_UPD_STATUS_UREJECT, .KCT_UPD_STATUS_USTATE,
    .KCT_UPD_STATUS_WAITING] [] ||| writes_eraseInactive

theorem updStart_keeps (s : State) (who : Sys2Proof.Requester) :
    State.keeps writes_updStart s (State.updStart s who) := by
  unfold State.updStart
  refine State.keeps.ite (fun _ => ?_) (fun _ => ?_)
  · exact State.keeps.refl
  · refine State.keeps.ite (fun _ => ?_) (fun _ => ?_)
    · refine State.keeps.wr ?_ (by decide +kernel)
      exact State.keeps.refl
    · refine State.keeps.ite (fun _ => ?_) (fun _ => ?_)
      · refine State.keeps.wr ?_ (by decide +kernel)
        exact State.keeps.refl
      · refine State.keeps.ite (fun _ => ?_) (fun _ => ?_)
        · refine State.keeps.wr ?_ (by decide +kernel)
          exact State.keeps.refl
        · extract_lets -merge -underBinder +onlyGivenNames s1
          have h1 : State.keeps writes_updStart s s1 := by
            unfold s1
            refine State.keeps.wr ?_ (by decide +kernel)
            refine State.keeps.wr ?_ (by decide +kernel)
            refine State.keeps.wr ?_ (by decide +kernel)
            refine State.keeps.wr ?_ (by decide +kernel)
            refine State.keeps.wr ?_ (by decide +kernel)
            refine State.keeps.step ?_ (eraseInactive_keeps ..) (by decide +kernel)
            exact State.keeps.refl
          try clear_value s1
          refine (State.keeps.put_kct ?_ _ (by decide +kernel) (fun _ hw => ⟨hw.flash, hw.localMem, rfl⟩))
          exact h1

/-- What `execKctUpdStart` may write. -/
def writes_execKctUpdStart : Nat :=
  writes_via ||| writes_updStart

theorem execKctUpdStart_keeps (who : Sys2Proof.Requester) (s : State) :
    State.answers writes_execKctUpdStart s (execKctUpdStart who s) := by
  unfold execKctUpdStart
  refine State.answers.next ?_
  refine via_keeps (by decide +kernel) ?_ (fun s1 h1 => ?_)
  · exact State.keeps.refl
  · refine State.keeps.step ?_ (updStart_keeps ..) (by decide +kernel)
    exact h1

/-- What `execKctUpdEraseDone` may write. -/
def writes_execKctUpdEraseDone : Nat :=
  writes [.KCT_UPD_STATUS_USTATE] [] ||| writes_eraseInactive

theorem execKctUpdEraseDone_keeps (s : State) :
    State.answers writes_execKctUpdEraseDone s (execKctUpdEraseDone s) := by
  unfold execKctUpdEraseDone
  refine State.answers.next ?_
  refine State.keeps.ite (fun _ => ?_) (fun _ => ?_)
  · refine State.keeps.wr ?_ (by decide +kernel)
    refine State.keeps.step ?_ (eraseInactive_keeps ..) (by decide +kernel)
    exact State.keeps.refl
  · exact State.keeps.refl

/-- What `updData` may write. -/
def writes_updData : Nat :=
  writes [.KCT_UPD_ADDR_ADDR, .KCT_UPD_DATA_DATA] [] ||| writes_updEnd ||| writes_flashWaits

theorem updData_keeps (s : State) (w : ℕ) :
    State.keeps writes_updData s (State.updData s w) := by
  unfold State.updData
  extract_lets -merge -underBinder +onlyGivenNames s1
  have h1 : State.keeps writes_updData s s1 := by
    unfold s1
    refine State.keeps.wr ?_ (by decide +kernel)
    exact State.keeps.refl
  try clear_value s1
  refine State.keeps.ite (fun _ => ?_) (fun _ => ?_)
  · exact h1
  · extract_lets -merge -underBinder +onlyGivenNames y2
    extract_lets -merge -underBinder +onlyGivenNames y3
    refine State.keeps.ite (fun _ => ?_) (fun _ => ?_)
    · refine State.keeps.step ?_ (updEnd_keeps ..) (by decide +kernel)
      exact h1
    · extract_lets -merge -underBinder +onlyGivenNames y4
      extract_lets -merge -underBinder +onlyGivenNames y5
      extract_lets -merge -underBinder +onlyGivenNames s6
      have h6 : State.keeps writes_updData s s6 := by
        unfold s6
        refine State.keeps.ite (fun _ => ?_) (fun _ => ?_)
        · exact h1
        · refine State.keeps.step ?_ (flashWaits_keeps ..) (by decide +kernel)
          exact h1
      try clear_value s6
      extract_lets -merge -underBinder +onlyGivenNames s7
      have h7 : State.keeps writes_updData s s7 := by
        unfold s7
        refine State.keeps.ite (fun _ => ?_) (fun _ => ?_)
        · refine (State.keeps.put_kct ?_ _ (by decide +kernel) (fun hc _ =>
            ⟨(h1.canon hc).flash, (h1.canon hc).localMem, wf_setBytes (h1.canon hc).updHead _ _ _⟩))
          exact h1
        · refine (State.keeps.put_kct ?_ _ (by decide +kernel) (fun hc _ =>
            ⟨wf_programBytes (h1.canon hc).flash _ _, (h1.canon hc).localMem, (h1.canon hc).updHead⟩))
          exact h6
      try clear_value s7
      extract_lets -merge -underBinder +onlyGivenNames y8
      extract_lets -merge -underBinder +onlyGivenNames s9
      have h9 : State.keeps writes_updData s s9 := by
        unfold s9
        refine (State.keeps.put_kct ?_ _ (by decide +kernel) (fun _ hw => ⟨hw.flash, hw.localMem, hw.updHead⟩))
        exact h7
      try clear_value s9
      refine State.keeps.wr ?_ (by decide +kernel)
      exact h9

/-- What `execKctUpdDataWrite` may write. -/
def writes_execKctUpdDataWrite : Nat :=
  writes_via ||| writes_updData

theorem execKctUpdDataWrite_keeps (who : Sys2Proof.Requester) (w : Sys2Proof.Word) (s : State) :
    State.answers writes_execKctUpdDataWrite s (execKctUpdDataWrite who w s) := by
  unfold execKctUpdDataWrite
  refine State.answers.next ?_
  refine via_keeps (by decide +kernel) ?_ (fun s1 h1 => ?_)
  · exact State.keeps.refl
  · refine State.keeps.step ?_ (updData_keeps ..) (by decide +kernel)
    exact h1

/-- What `programHead` may write. -/
def writes_programHead : Nat :=
  writes [] [.kct]

theorem programHead_keeps (s : State) :
    State.keeps writes_programHead s (State.programHead s) := by
  unfold State.programHead
  refine (State.keeps.put_kct ?_ _ (by decide +kernel) (fun _ hw => ⟨wf_programBytes hw.flash _ _, hw.localMem,
    hw.updHead⟩))
  exact State.keeps.refl

/-- What `updCommit` may write. -/
def writes_updCommit : Nat :=
  writes [.KCT_UPD_STATUS_USTATE] [] ||| writes_programHead ||| writes_flashWaits

theorem updCommit_keeps (s : State) :
    State.keeps writes_updCommit s (State.updCommit s) := by
  unfold State.updCommit
  refine State.keeps.ite (fun _ => ?_) (fun _ => ?_)
  · exact State.keeps.refl
  · extract_lets -merge -underBinder +onlyGivenNames s1
    have h1 : State.keeps writes_updCommit s s1 := by
      unfold s1
      refine State.keeps.wr ?_ (by decide +kernel)
      exact State.keeps.refl
    try clear_value s1
    refine State.keeps.ite (fun _ => ?_) (fun _ => ?_)
    · refine State.keeps.step ?_ (programHead_keeps ..) (by decide +kernel)
      exact h1
    · refine State.keeps.step ?_ (flashWaits_keeps ..) (by decide +kernel)
      refine (State.keeps.put_kct ?_ _ (by decide +kernel) (fun _ hw => ⟨hw.flash, hw.localMem, hw.updHead⟩))
      exact h1

/-- What `execKctUpdCommit` may write. -/
def writes_execKctUpdCommit : Nat :=
  writes_via ||| writes_updCommit

theorem execKctUpdCommit_keeps (who : Sys2Proof.Requester) (s : State) :
    State.answers writes_execKctUpdCommit s (execKctUpdCommit who s) := by
  unfold execKctUpdCommit
  refine State.answers.next ?_
  refine via_keeps (by decide +kernel) ?_ (fun s1 h1 => ?_)
  · exact State.keeps.refl
  · refine State.keeps.step ?_ (updCommit_keeps ..) (by decide +kernel)
    exact h1

/-- What `updAbort` may write. -/
def writes_updAbort : Nat :=
  writes_updEnd

theorem updAbort_keeps (s : State) :
    State.keeps writes_updAbort s (State.updAbort s) := by
  unfold State.updAbort
  refine State.keeps.ite (fun _ => ?_) (fun _ => ?_)
  · refine State.keeps.step ?_ (updEnd_keeps ..) (by decide +kernel)
    refine State.keeps.step ?_ (eraseInactive_keeps ..) (by decide +kernel)
    exact State.keeps.refl
  · exact State.keeps.refl

/-- What `execKctUpdAbort` may write. -/
def writes_execKctUpdAbort : Nat :=
  writes_via ||| writes_updAbort

theorem execKctUpdAbort_keeps (who : Sys2Proof.Requester) (s : State) :
    State.answers writes_execKctUpdAbort s (execKctUpdAbort who s) := by
  unfold execKctUpdAbort
  refine State.answers.next ?_
  refine via_keeps (by decide +kernel) ?_ (fun s1 h1 => ?_)
  · exact State.keeps.refl
  · refine State.keeps.step ?_ (updAbort_keeps ..) (by decide +kernel)
    exact h1

/-- What `execUpdateWindowTimeout` may write. -/
def writes_execUpdateWindowTimeout : Nat :=
  writes_updEnd

theorem execUpdateWindowTimeout_keeps (s : State) :
    State.answers writes_execUpdateWindowTimeout s (execUpdateWindowTimeout s) := by
  unfold execUpdateWindowTimeout
  refine State.answers.next ?_
  refine State.keeps.ite (fun _ => ?_) (fun _ => ?_)
  · refine State.keeps.step ?_ (updEnd_keeps ..) (by decide +kernel)
    refine State.keeps.step ?_ (eraseInactive_keeps ..) (by decide +kernel)
    exact State.keeps.refl
  · exact State.keeps.refl

/-- What `showSlot` may write. -/
def writes_showSlot : Nat :=
  writes [.KCT_STATUS_FAIL_A, .KCT_STATUS_FAIL_B, .KCT_STATUS_SLOT_A_OK, .KCT_STATUS_SLOT_B_OK] []

theorem showSlot_keeps (s : State) (b : Bool) (code : ℕ) :
    State.keeps writes_showSlot s (State.showSlot s b code) := by
  unfold State.showSlot
  refine State.keeps.ite (fun _ => ?_) (fun _ => ?_)
  · refine State.keeps.wr ?_ (by decide +kernel)
    refine State.keeps.wr ?_ (by decide +kernel)
    exact State.keeps.refl
  · refine State.keeps.wr ?_ (by decide +kernel)
    refine State.keeps.wr ?_ (by decide +kernel)
    exact State.keeps.refl

/-- What `verifyDone` may write. -/
def writes_verifyDone : Nat :=
  writes [.KCT_COUNT_UPDATES, .KCT_UPD_STATUS_UFAIL] [] ||| writes_showSlot ||| writes_updEnd

theorem verifyDone_keeps (s : State) (readback : Bool) :
    State.keeps writes_verifyDone s (State.verifyDone s readback) := by
  unfold State.verifyDone
  refine State.keeps.ite (fun _ => ?_) (fun _ => ?_)
  · exact State.keeps.refl
  · extract_lets -merge -underBinder +onlyGivenNames s1
    have h1 : State.keeps writes_verifyDone s s1 := by
      unfold s1
      refine State.keeps.ite (fun _ => ?_) (fun _ => ?_)
      · refine State.keeps.step ?_ (programHead_keeps ..) (by decide +kernel)
        exact State.keeps.refl
      · exact State.keeps.refl
    try clear_value s1
    extract_lets -merge -underBinder +onlyGivenNames y2
    extract_lets -merge -underBinder +onlyGivenNames y3
    extract_lets -merge -underBinder +onlyGivenNames s4
    have h4 : State.keeps writes_verifyDone s s4 := by
      unfold s4
      refine State.keeps.step ?_ (showSlot_keeps ..) (by decide +kernel)
      exact h1
    try clear_value s4
    extract_lets -merge -underBinder +onlyGivenNames y5
    refine State.keeps.ite (fun _ => ?_) (fun _ => ?_)
    · refine State.keeps.wr ?_ (by decide +kernel)
      refine State.keeps.step ?_ (updEnd_keeps ..) (by decide +kernel)
      refine State.keeps.step ?_ (eraseInactive_keeps ..) (by decide +kernel)
      exact h4
    · refine State.keeps.ite (fun _ => ?_) (fun _ => ?_)
      · refine State.keeps.step ?_ (updEnd_keeps ..) (by decide +kernel)
        refine State.keeps.step ?_ (eraseInactive_keeps ..) (by decide +kernel)
        exact h4
      · extract_lets -merge -underBinder +onlyGivenNames s6
        have h6 : State.keeps writes_verifyDone s s6 := by
          unfold s6
          refine State.keeps.wr ?_ (by decide +kernel)
          refine State.keeps.wr ?_ (by decide +kernel)
          refine State.keeps.step ?_ (updEnd_keeps ..) (by decide +kernel)
          exact h4
        try clear_value s6
        refine (State.keeps.put_kct ?_ _ (by decide +kernel) (fun _ hw => ⟨hw.flash, hw.localMem, hw.updHead⟩))
        exact h6

/-- What `execKctVerifyDone` may write. -/
def writes_execKctVerifyDone : Nat :=
  writes_verifyDone

theorem execKctVerifyDone_keeps (readback : Bool) (s : State) :
    State.answers writes_execKctVerifyDone s (execKctVerifyDone readback s) := by
  unfold execKctVerifyDone
  refine State.answers.next ?_
  refine State.keeps.step ?_ (verifyDone_keeps ..) (by decide +kernel)
  exact State.keeps.refl

/-- What `kick` may write. -/
def writes_kick : Nat :=
  writes [.PCR_KICK_KICK] [.kct]

theorem kick_keeps (s : State) (q : ℕ) (w : ℕ) :
    State.keeps writes_kick s (State.kick s q w) := by
  unfold State.kick
  extract_lets -merge -underBinder +onlyGivenNames s1
  have h1 : State.keeps writes_kick s s1 := by
    unfold s1
    refine State.keeps.wr ?_ (by decide +kernel)
    exact State.keeps.refl
  try clear_value s1
  refine (State.keeps.put_kct ?_ _ (by decide +kernel) (fun _ hw => ⟨hw.flash, hw.localMem, hw.updHead⟩))
  exact h1

/-- What `execPcrKick` may write. -/
def writes_execPcrKick : Nat :=
  writes_via ||| writes_kick

theorem execPcrKick_keeps (q : Sys2Proof.CoreIx) (w : Sys2Proof.Word) (s : State) :
    State.answers writes_execPcrKick s (execPcrKick q w s) := by
  unfold execPcrKick
  refine State.answers.next ?_
  refine via_keeps (by decide +kernel) ?_ (fun s1 h1 => ?_)
  · exact State.keeps.refl
  · refine State.keeps.step ?_ (kick_keeps ..) (by decide +kernel)
    exact h1

/-- What `coreReset` may write. -/
def writes_coreReset : Nat :=
  writes [.CHZ_COEF_ADDR_AUTO_INC, .CHZ_COEF_ADDR_BANK, .CHZ_COEF_ADDR_TAP, .CHZ_SEL_N, .COL_SEL_N, .EMG_SEL_N,
    .FLO_SEL_N, .GCE_SEL_N, .SDL_SEL_N] [.kct, .readers]

theorem coreReset_keeps (s : State) (q : ℕ) :
    State.keeps writes_coreReset s (State.coreReset s q) := by
  unfold State.coreReset
  extract_lets -merge -underBinder +onlyGivenNames s1
  have h1 : State.keeps writes_coreReset s s1 := by
    unfold s1
    refine State.keeps.foldl_mem ?_ (fun s2 x2 hx h2 => ?_)
    · refine State.keeps.step ?_ (setReader_keeps ..) (by decide +kernel)
      exact State.keeps.refl
    · have hm : ∀ f ∈ [Field.CHZ_SEL_N, .GCE_SEL_N, .SDL_SEL_N, .FLO_SEL_N, .EMG_SEL_N, .COL_SEL_N,
        .CHZ_COEF_ADDR_TAP,
          .CHZ_COEF_ADDR_BANK, .CHZ_COEF_ADDR_AUTO_INC], inSet writes_coreReset f = true := by decide +kernel
      exact h2.wr (hm _ hx)
  try clear_value s1
  extract_lets -merge -underBinder +onlyGivenNames y3
  extract_lets -merge -underBinder +onlyGivenNames y4
  refine (State.keeps.put_kct ?_ _ (by decide +kernel) (fun _ hw => ⟨hw.flash,
    wf_putBytes (wf_eraseBytes hw.localMem _ _) _ _, hw.updHead⟩))
  exact h1

/-- What `execCoreWdg` may write. -/
def writes_execCoreWdg : Nat :=
  writes [.PCR_COUNT_RESTARTS] [] ||| writes_sendFault ||| writes_coreReset

theorem execCoreWdg_keeps (q : Sys2Proof.CoreIx) (ecc : Bool) (s : State) :
    State.answers writes_execCoreWdg s (execCoreWdg q ecc s) := by
  unfold execCoreWdg
  refine State.answers.next ?_
  refine State.keeps.ite (fun _ => ?_) (fun _ => ?_)
  · exact State.keeps.refl
  · refine State.keeps.ite (fun _ => ?_) (fun _ => ?_)
    · exact State.keeps.refl
    · refine State.keeps.step ?_ (sendClear_keeps ..) (by decide +kernel)
      refine State.keeps.step ?_ (sendFault_keeps ..) (by decide +kernel)
      refine State.keeps.wr ?_ (by decide +kernel)
      refine State.keeps.step ?_ (coreReset_keeps ..) (by decide +kernel)
      exact State.keeps.refl

/-- What `accessFault` may write. -/
def writes_accessFault : Nat :=
  writes [.PCR_COUNT_FAULTS, .PCR_FAULT_ADDR] []

theorem accessFault_keeps (s : State) (q : ℕ) (addr : ℕ) :
    State.keeps writes_accessFault s (State.accessFault s q addr) := by
  unfold State.accessFault
  refine State.keeps.wr ?_ (by decide +kernel)
  refine State.keeps.wr ?_ (by decide +kernel)
  exact State.keeps.refl

/-- What `execCoreAccessFault` may write. -/
def writes_execCoreAccessFault : Nat :=
  writes_accessFault ||| writes_remote

theorem execCoreAccessFault_keeps (q : Sys2Proof.CoreIx) (addr : Sys2Proof.Word) (s : State) :
    State.answers writes_execCoreAccessFault s (execCoreAccessFault q addr s) := by
  unfold execCoreAccessFault
  refine State.answers.next ?_
  refine State.keeps.ite (fun _ => ?_) (fun _ => ?_)
  · exact State.keeps.refl
  · refine State.keeps.step ?_ (accessFault_keeps ..) (by decide +kernel)
    refine State.keeps.ite (fun _ => ?_) (fun _ => ?_)
    · exact State.keeps.refl
    · refine State.keeps.step ?_ (remote_keeps ..) (by decide +kernel)
      exact State.keeps.refl

end Sys2Proof.Machine
end

