-- ==== Sys2Proof/Laws/MailboxKeeps.lean ====
section
/-!
SUPPORT. What each operation of Machine/Mailbox.lean may write.
-/

namespace Sys2Proof.Machine

set_option Elab.async false

/-- What `owe` may write. -/
def writes_owe : Nat :=
  writes [] [.scr]

theorem owe_keeps (s : State) (k : ℕ) :
    State.keeps writes_owe s (State.owe s k) := by
  unfold State.owe
  refine (State.keeps.put_scr ?_ _ (by decide +kernel))
  exact State.keeps.refl

/-- What `scrimSent` may write. -/
def writes_scrimSent : Nat :=
  writes_tally

theorem scrimSent_keeps (s : State) :
    State.keeps writes_scrimSent s (State.scrimSent s) := by
  unfold State.scrimSent
  refine State.keeps.step ?_ (tally_keeps ..) (by decide +kernel)
  exact State.keeps.refl

/-- What `scrimReceived` may write. -/
def writes_scrimReceived : Nat :=
  writes_tally

theorem scrimReceived_keeps (s : State) (k : ℕ) :
    State.keeps writes_scrimReceived s (State.scrimReceived s k) := by
  unfold State.scrimReceived
  refine State.keeps.step ?_ (tally_keeps ..) (by decide +kernel)
  exact State.keeps.refl

/-- What `mbxSend` may write. -/
def writes_mbxSend : Nat :=
  writes [.MBX_CTRL_TX_FULL, .SCR_HCREDIT_MBX_TX, .SCR_MB_CTRL_RX_LEVEL] [.scr] ||| writes_scrimReceived

theorem mbxSend_keeps (s : State) :
    State.keeps writes_mbxSend s (State.mbxSend s) := by
  unfold State.mbxSend
  extract_lets -merge -underBinder +onlyGivenNames y1
  refine State.keeps.ite (fun _ => ?_) (fun _ => ?_)
  · refine State.keeps.wr ?_ (by decide +kernel)
    exact State.keeps.refl
  · extract_lets -merge -underBinder +onlyGivenNames s2
    have h2 : State.keeps writes_mbxSend s s2 := by
      unfold s2
      refine State.keeps.wr ?_ (by decide +kernel)
      exact State.keeps.refl
    try clear_value s2
    extract_lets -merge -underBinder +onlyGivenNames y3
    refine State.keeps.ite (fun _ => ?_) (fun _ => ?_)
    · refine State.keeps.step ?_ (scrimReceived_keeps ..) (by decide +kernel)
      refine State.keeps.wr ?_ (by decide +kernel)
      refine (State.keeps.put_scr ?_ _ (by decide +kernel))
      exact h2
    · refine (State.keeps.put_scr ?_ _ (by decide +kernel))
      exact h2

/-- What `mbxPop` may write. -/
def writes_mbxPop : Nat :=
  writes [.MBX_CTRL_RX_LEVEL] [] ||| writes_owe

theorem mbxPop_keeps (s : State) :
    State.keeps writes_mbxPop s (State.mbxPop s) := by
  unfold State.mbxPop
  split
  · exact State.keeps.refl
  · refine State.keeps.step ?_ (owe_keeps ..) (by decide +kernel)
    refine State.keeps.wr ?_ (by decide +kernel)
    refine (State.keeps.put_scr ?_ _ (by decide +kernel))
    exact State.keeps.refl

/-- What `sendToHost` may write. -/
def writes_sendToHost : Nat :=
  writes [.MBX_CTRL_RX_LEVEL, .SCR_FCREDIT_MBX_TX] [] ||| writes_scrimSent ||| writes_interrupt

theorem sendToHost_keeps (s : State) (m : List Sys2Proof.Word) :
    State.keeps writes_sendToHost s (State.sendToHost s m) := by
  unfold State.sendToHost
  extract_lets -merge -underBinder +onlyGivenNames s1
  have h1 : State.keeps writes_sendToHost s s1 := by
    unfold s1
    refine State.keeps.step ?_ (scrimSent_keeps ..) (by decide +kernel)
    refine State.keeps.wr ?_ (by decide +kernel)
    exact State.keeps.refl
  try clear_value s1
  refine State.keeps.ite (fun _ => ?_) (fun _ => ?_)
  · refine State.keeps.step ?_ (interrupt_keeps ..) (by decide +kernel)
    refine State.keeps.wr ?_ (by decide +kernel)
    refine (State.keeps.put_scr ?_ _ (by decide +kernel))
    exact h1
  · refine (State.keeps.put_scr ?_ _ (by decide +kernel))
    exact h1

/-- What `scrMbSend` may write. -/
def writes_scrMbSend : Nat :=
  writes [.SCR_MB_CTRL_TX_FULL] [] ||| writes_sendToHost

theorem scrMbSend_keeps (s : State) :
    State.keeps writes_scrMbSend s (State.scrMbSend s) := by
  unfold State.scrMbSend
  refine State.keeps.ite (fun _ => ?_) (fun _ => ?_)
  · refine State.keeps.wr ?_ (by decide +kernel)
    exact State.keeps.refl
  · refine State.keeps.step ?_ (sendToHost_keeps ..) (by decide +kernel)
    exact State.keeps.refl

/-- What `scrMbPop` may write. -/
def writes_scrMbPop : Nat :=
  writes [.SCR_MB_CTRL_RX_LEVEL] [] ||| writes_owe

theorem scrMbPop_keeps (s : State) :
    State.keeps writes_scrMbPop s (State.scrMbPop s) := by
  unfold State.scrMbPop
  split
  · exact State.keeps.refl
  · refine State.keeps.step ?_ (owe_keeps ..) (by decide +kernel)
    refine State.keeps.wr ?_ (by decide +kernel)
    refine (State.keeps.put_scr ?_ _ (by decide +kernel))
    exact State.keeps.refl

/-- What `execMbxSend` may write. -/
def writes_execMbxSend : Nat :=
  writes_mbxSend

theorem execMbxSend_keeps (s : State) :
    State.answers writes_execMbxSend s (execMbxSend s) := by
  unfold execMbxSend
  refine State.answers.next ?_
  refine State.keeps.step ?_ (mbxSend_keeps ..) (by decide +kernel)
  exact State.keeps.refl

/-- What `execMbxPop` may write. -/
def writes_execMbxPop : Nat :=
  writes_mbxPop

theorem execMbxPop_keeps (s : State) :
    State.answers writes_execMbxPop s (execMbxPop s) := by
  unfold execMbxPop
  refine State.answers.next ?_
  refine State.keeps.step ?_ (mbxPop_keeps ..) (by decide +kernel)
  exact State.keeps.refl

/-- What `execScrMbSend` may write. -/
def writes_execScrMbSend : Nat :=
  writes_via ||| writes_scrMbSend

theorem execScrMbSend_keeps (q : Sys2Proof.CoreIx) (s : State) :
    State.answers writes_execScrMbSend s (execScrMbSend q s) := by
  unfold execScrMbSend
  refine State.answers.next ?_
  refine via_keeps (by decide +kernel) ?_ (fun s1 h1 => ?_)
  · exact State.keeps.refl
  · refine State.keeps.step ?_ (scrMbSend_keeps ..) (by decide +kernel)
    exact h1

/-- What `execScrMbPop` may write. -/
def writes_execScrMbPop : Nat :=
  writes_via ||| writes_scrMbPop

theorem execScrMbPop_keeps (q : Sys2Proof.CoreIx) (s : State) :
    State.answers writes_execScrMbPop s (execScrMbPop q s) := by
  unfold execScrMbPop
  refine State.answers.next ?_
  refine via_keeps (by decide +kernel) ?_ (fun s1 h1 => ?_)
  · exact State.keeps.refl
  · refine State.keeps.step ?_ (scrMbPop_keeps ..) (by decide +kernel)
    exact h1

/-- What `reply` may write. -/
def writes_reply : Nat :=
  writes [.SCR_MB_TX_WORD] [] ||| writes_scrMbSend ||| writes_scrMbPop

theorem reply_keeps (s : State) (m : List Sys2Proof.Word) (ws : List ℕ) :
    State.keeps writes_reply s (State.reply s m ws) := by
  unfold State.reply
  extract_lets -merge -underBinder +onlyGivenNames y1
  extract_lets -merge -underBinder +onlyGivenNames y2
  extract_lets -merge -underBinder +onlyGivenNames s3
  have h3 : State.keeps writes_reply s s3 := by
    unfold s3
    refine State.keeps.foldl ?_ (fun s4 x4 h4 => ?_)
    · exact State.keeps.refl
    · try beta_reduce
      refine State.keeps.wr ?_ (by decide +kernel)
      exact h4
  try clear_value s3
  refine State.keeps.step ?_ (scrMbSend_keeps ..) (by decide +kernel)
  refine State.keeps.step ?_ (scrMbPop_keeps ..) (by decide +kernel)
  exact h3

/-- What `serve` may write. -/
def writes_serve : Nat :=
  writes_reply

theorem serve_keeps {ws : Nat} {sb : State} {s : State} {q : ℕ} {cmd : ℕ} {act : List Sys2Proof.Word → State}
    (hm : writes_serve ||| ws = ws) (hs : State.keeps ws sb s)
    (h_act : ∀ x, State.keeps ws sb (act x)) :
    State.keeps ws sb (State.serve s q cmd act) := by
  unfold State.serve
  split
  · exact hs
  · extract_lets -merge -underBinder +onlyGivenNames y1
    refine State.keeps.ite (fun _ => ?_) (fun _ => ?_)
    · exact h_act _
    · refine State.keeps.ite (fun _ => ?_) (fun _ => ?_)
      · exact hs
      · refine State.keeps.step ?_ (reply_keeps ..) (sub_of hm (by decide +kernel))
        exact hs

/-- What `execVersion` may write. -/
def writes_execVersion : Nat :=
  writes_serve

theorem execVersion_keeps (q : Sys2Proof.CoreIx) (s : State) :
    State.answers writes_execVersion s (execVersion q s) := by
  unfold execVersion
  refine State.answers.next ?_
  refine serve_keeps (by decide +kernel) ?_ (fun x1 => ?_)
  · exact State.keeps.refl
  · refine State.keeps.step ?_ (reply_keeps ..) (by decide +kernel)
    exact State.keeps.refl

/-- What `fwBpCtrl` may write. -/
def writes_fwBpCtrl : Nat :=
  writes [] [.kct] ||| writes_bpWriteCtrl

theorem fwBpCtrl_keeps (s : State) (n : ℕ) (enable : Bool) (apply : Bool) :
    State.keeps writes_fwBpCtrl s (State.fwBpCtrl s n enable apply) := by
  unfold State.fwBpCtrl
  refine State.keeps.step ?_ (bpWriteCtrl_keeps ..) (by decide +kernel)
  refine (State.keeps.put_kct ?_ _ (by decide +kernel) (fun _ hw => ⟨hw.flash, hw.localMem, hw.updHead⟩))
  exact State.keeps.refl

/-- What `stageWords` may write. -/
def writes_stageWords : Nat :=
  writes [.BP_CTRL_SPAN, .BP_DST_FREQ_FREQ, .BP_FREQ_FREQ, .BP_ROUTE_DST_KIND, .BP_ROUTE_DST_PORT,
    .BP_ROUTE_GROUP, .BP_ROUTE_SRC_BP, .BP_ROUTE_SRC_KIND, .BP_ROUTE_SRC_NODE, .BP_ROUTE_SRC_PORT,
    .BP_ROUTE_STRIPE] []

theorem stageWords_keeps (s : State) (n : Nat) (m : List Sys2Proof.Word) :
    State.keeps writes_stageWords s (State.stageWords s n m) := by
  unfold State.stageWords
  refine State.keeps.foldl_mem ?_ (fun t f hf ht => ?_)
  · exact ((State.keeps.refl.wr (by decide +kernel)).wr (by decide +kernel)).wr (by decide +kernel)
  · have hm : ∀ f ∈ [Field.BP_ROUTE_SRC_KIND, .BP_ROUTE_SRC_PORT, .BP_ROUTE_SRC_NODE, .BP_ROUTE_SRC_BP,
        .BP_ROUTE_DST_KIND, .BP_ROUTE_DST_PORT, .BP_ROUTE_STRIPE, .BP_ROUTE_GROUP],
          inSet writes_stageWords f = true := by
      decide +kernel
    exact ht.wr (hm _ hf)

/-- What `bpStageMail` may write. -/
def writes_bpStageMail : Nat :=
  writes_reply ||| writes_fwBpCtrl ||| writes_stageWords

theorem bpStageMail_keeps (s : State) (m : List Sys2Proof.Word) :
    State.keeps writes_bpStageMail s (State.bpStageMail s m) := by
  unfold State.bpStageMail
  extract_lets -merge -underBinder +onlyGivenNames y1
  refine State.keeps.ite (fun _ => ?_) (fun _ => ?_)
  · refine State.keeps.step ?_ (reply_keeps ..) (by decide +kernel)
    exact State.keeps.refl
  · split
    · refine State.keeps.ite (fun _ => ?_) (fun _ => ?_)
      · exact State.keeps.refl
      · refine State.keeps.step ?_ (reply_keeps ..) (by decide +kernel)
        exact State.keeps.refl
    · refine State.keeps.ite (fun _ => ?_) (fun _ => ?_)
      · refine State.keeps.step ?_ (reply_keeps ..) (by decide +kernel)
        exact State.keeps.refl
      · extract_lets -merge -underBinder +onlyGivenNames s2
        have h2 : State.keeps writes_bpStageMail s s2 := by
          unfold s2
          refine State.keeps.step ?_ (fwBpCtrl_keeps ..) (by decide +kernel)
          refine State.keeps.step ?_ (stageWords_keeps ..) (by decide +kernel)
          exact State.keeps.refl
        try clear_value s2
        refine (State.keeps.put_scr ?_ _ (by decide +kernel))
        exact h2

/-- What `execBpStage` may write. -/
def writes_execBpStage : Nat :=
  writes_bpStageMail

theorem execBpStage_keeps (q : Sys2Proof.CoreIx) (s : State) :
    State.answers writes_execBpStage s (execBpStage q s) := by
  unfold execBpStage
  refine State.answers.next ?_
  refine serve_keeps (by decide +kernel) ?_ (fun x1 => ?_)
  · exact State.keeps.refl
  · refine State.keeps.step ?_ (bpStageMail_keeps ..) (by decide +kernel)
    exact State.keeps.refl

/-- What `execMbxBpEnable` may write. -/
def writes_execMbxBpEnable : Nat :=
  writes_serve ||| writes_fwBpCtrl

theorem execMbxBpEnable_keeps (q : Sys2Proof.CoreIx) (s : State) :
    State.answers writes_execMbxBpEnable s (execMbxBpEnable q s) := by
  unfold execMbxBpEnable
  refine State.answers.next ?_
  refine serve_keeps (by decide +kernel) ?_ (fun x1 => ?_)
  · exact State.keeps.refl
  · extract_lets -merge -underBinder +onlyGivenNames y2
    refine State.keeps.ite (fun _ => ?_) (fun _ => ?_)
    · refine State.keeps.step ?_ (reply_keeps ..) (by decide +kernel)
      exact State.keeps.refl
    · refine State.keeps.step ?_ (reply_keeps ..) (by decide +kernel)
      refine State.keeps.step ?_ (fwBpCtrl_keeps ..) (by decide +kernel)
      exact State.keeps.refl

/-- What `execDelay` may write. -/
def writes_execDelay : Nat :=
  writes_serve ||| writes_writeTargetHi

theorem execDelay_keeps (q : Sys2Proof.CoreIx) (s : State) :
    State.answers writes_execDelay s (execDelay q s) := by
  unfold execDelay
  refine State.answers.next ?_
  refine serve_keeps (by decide +kernel) ?_ (fun x1 => ?_)
  · exact State.keeps.refl
  · extract_lets -merge -underBinder +onlyGivenNames y2
    refine State.keeps.ite (fun _ => ?_) (fun _ => ?_)
    · refine State.keeps.step ?_ (reply_keeps ..) (by decide +kernel)
      exact State.keeps.refl
    · extract_lets -merge -underBinder +onlyGivenNames s3
      have h3 : State.keeps writes_execDelay s s3 := by
        unfold s3
        refine State.keeps.step ?_ (updBp_keeps ..) (by decide +kernel)
        refine State.keeps.wr ?_ (by decide +kernel)
        exact State.keeps.refl
      try clear_value s3
      extract_lets -merge -underBinder +onlyGivenNames s4
      have h4 : State.keeps writes_execDelay s s4 := by
        unfold s4
        refine State.keeps.step ?_ (writeTargetHi_keeps ..) (by decide +kernel)
        exact h3
      try clear_value s4
      refine State.keeps.step ?_ (reply_keeps ..) (by decide +kernel)
      exact h4

/-- What `execCeiling` may write. -/
def writes_execCeiling : Nat :=
  writes_serve ||| writes_writeFwCeil

theorem execCeiling_keeps (q : Sys2Proof.CoreIx) (s : State) :
    State.answers writes_execCeiling s (execCeiling q s) := by
  unfold execCeiling
  refine State.answers.next ?_
  refine serve_keeps (by decide +kernel) ?_ (fun x1 => ?_)
  · exact State.keeps.refl
  · extract_lets -merge -underBinder +onlyGivenNames y2
    refine State.keeps.ite (fun _ => ?_) (fun _ => ?_)
    · refine State.keeps.step ?_ (reply_keeps ..) (by decide +kernel)
      exact State.keeps.refl
    · refine State.keeps.step ?_ (reply_keeps ..) (by decide +kernel)
      refine State.keeps.step ?_ (writeFwCeil_keeps ..) (by decide +kernel)
      exact State.keeps.refl

end Sys2Proof.Machine
end

