-- ==== Sys2Proof/Laws/AccessKeeps.lean ====
section
/-!
SUPPORT. What each operation of Machine/Access.lean may write.
-/

namespace Sys2Proof.Machine

set_option Elab.async false

/-- What `msixDeliver` may write. -/
def writes_msixDeliver : Nat :=
  writes_interrupt

theorem msixDeliver_keeps (s : State) (v : ℕ) :
    State.keeps writes_msixDeliver s (State.msixDeliver s v) := by
  unfold State.msixDeliver
  refine State.keeps.ite (fun _ => ?_) (fun _ => ?_)
  · refine State.keeps.step ?_ (interrupt_keeps ..) (by decide +kernel)
    refine (State.keeps.put_scr ?_ _ (by decide +kernel))
    exact State.keeps.refl
  · exact State.keeps.refl

/-- What `msixWrite` may write. -/
def writes_msixWrite : Nat :=
  writes_msixDeliver

theorem msixWrite_keeps (s : State) (i : ℕ) (w : ℕ) :
    State.keeps writes_msixWrite s (State.msixWrite s i w) := by
  unfold State.msixWrite
  refine State.keeps.step ?_ (msixDeliver_keeps ..) (by decide +kernel)
  refine (State.keeps.put_scr ?_ _ (by decide +kernel))
  exact State.keeps.refl

/-- What `execMsixUnmask` may write. -/
def writes_execMsixUnmask : Nat :=
  writes_msixWrite

theorem execMsixUnmask_keeps (v : BitVec 5) (s : State) :
    State.answers writes_execMsixUnmask s (execMsixUnmask v s) := by
  unfold execMsixUnmask
  extract_lets -merge -underBinder +onlyGivenNames y1
  refine State.answers.next ?_
  refine State.keeps.step ?_ (msixWrite_keeps ..) (by decide +kernel)
  exact State.keeps.refl

/-- What `fwIrq` may write. -/
def writes_fwIrq : Nat :=
  writes_raise

theorem fwIrq_keeps (s : State) (w : ℕ) :
    State.keeps writes_fwIrq s (State.fwIrq s w) := by
  unfold State.fwIrq
  refine State.keeps.ite (fun _ => ?_) (fun _ => ?_)
  · refine State.keeps.foldl ?_ (fun s1 x1 h1 => ?_)
    · exact State.keeps.refl
    · try beta_reduce
      refine State.keeps.step ?_ (raise_keeps ..) (by decide +kernel)
      exact h1
  · exact State.keeps.refl

/-- What `execScrFwIrqWrite` may write. -/
def writes_execScrFwIrqWrite : Nat :=
  writes_via

theorem execScrFwIrqWrite_keeps (q : Sys2Proof.CoreIx) (w : Sys2Proof.Word) (s : State) :
    State.answers writes_execScrFwIrqWrite s (execScrFwIrqWrite q w s) := by
  unfold execScrFwIrqWrite
  refine State.answers.next ?_
  refine via_keeps (by decide +kernel) ?_ (fun s1 h1 => ?_)
  · exact State.keeps.refl
  · refine State.keeps.step ?_ (fwIrq_keeps ..) (by decide +kernel)
    exact h1

/-- What `storeField` may write. -/
def writes_storeField : Nat :=
  anyField ||| writes [] []

theorem storeField_keeps (s : State) (who : Sys2Proof.Requester) (w : ℕ) (x : Field × ℕ) :
    State.keeps writes_storeField s (State.storeField s who w x) := by
  unfold State.storeField
  split
  · refine State.keeps.wr ?_ (inSet_left (inSet_any _))
    exact State.keeps.refl
  · refine State.keeps.ite (fun _ => ?_) (fun _ => ?_)
    · exact State.keeps.refl
    · refine State.keeps.wr ?_ (inSet_left (inSet_any _))
      exact State.keeps.refl
  · refine State.keeps.wr ?_ (inSet_left (inSet_any _))
    exact State.keeps.refl
  · exact State.keeps.refl

/-- What `storeFields` may write. -/
def writes_storeFields : Nat :=
  anyField ||| writes [] []

theorem storeFields_keeps (s : State) (who : Sys2Proof.Requester) (w : ℕ) (fs : List (Field × ℕ)) :
    State.keeps writes_storeFields s (State.storeFields s who w fs) := by
  unfold State.storeFields
  refine State.keeps.foldl ?_ (fun s1 x1 h1 => ?_)
  · exact State.keeps.refl
  · try beta_reduce
    refine State.keeps.step ?_ (storeField_keeps ..) (by decide +kernel)
    exact h1

/-- What `writeBpCtrl` may write. -/
def writes_writeBpCtrl : Nat :=
  writes [.BP_CTRL_MUTE, .BP_CTRL_SPAN] [.kct] ||| writes_bpEnable

theorem writeBpCtrl_keeps (s : State) (host : Bool) (n : ℕ) (w : ℕ) :
    State.keeps writes_writeBpCtrl s (State.writeBpCtrl s host n w) := by
  unfold State.writeBpCtrl
  extract_lets -merge -underBinder +onlyGivenNames s1
  have h1 : State.keeps writes_writeBpCtrl s s1 := by
    unfold s1
    refine State.keeps.wr ?_ (by decide +kernel)
    exact State.keeps.refl
  try clear_value s1
  refine State.keeps.ite (fun _ => ?_) (fun _ => ?_)
  · exact h1
  · extract_lets -merge -underBinder +onlyGivenNames y2
    extract_lets -merge -underBinder +onlyGivenNames s3
    have h3 : State.keeps writes_writeBpCtrl s s3 := by
      unfold s3
      refine (State.keeps.put_kct ?_ _ (by decide +kernel) (fun _ hw => ⟨hw.flash, hw.localMem, hw.updHead⟩))
      exact h1
    try clear_value s3
    refine State.keeps.ite (fun _ => ?_) (fun _ => ?_)
    · extract_lets -merge -underBinder +onlyGivenNames s4
      have h4 : State.keeps writes_writeBpCtrl s s4 := by
        unfold s4
        refine State.keeps.ite (fun _ => ?_) (fun _ => ?_)
        · refine State.keeps.wr ?_ (by decide +kernel)
          exact h3
        · exact h3
      try clear_value s4
      refine State.keeps.ite (fun _ => ?_) (fun _ => ?_)
      · refine State.keeps.step ?_ (bpEnable_keeps ..) (by decide +kernel)
        exact h4
      · refine State.keeps.step ?_ (bpDisable_keeps ..) (by decide +kernel)
        exact h4
    · refine State.keeps.step ?_ (bpWriteCtrl_keeps ..) (by decide +kernel)
      refine State.keeps.wr ?_ (by decide +kernel)
      exact h3

/-- What `writeChzCtrl` may write. -/
def writes_writeChzCtrl : Nat :=
  writes [.CHZ_CTRL_FADE, .CHZ_CTRL_REQ_BANK] [] ||| writes_requestSwap ||| writes_writeCheck

theorem writeChzCtrl_keeps (s : State) (n : ℕ) (w : ℕ) :
    State.keeps writes_writeChzCtrl s (State.writeChzCtrl s n w) := by
  unfold State.writeChzCtrl
  extract_lets -merge -underBinder +onlyGivenNames s1
  have h1 : State.keeps writes_writeChzCtrl s s1 := by
    unfold s1
    refine State.keeps.wr ?_ (by decide +kernel)
    refine State.keeps.wr ?_ (by decide +kernel)
    exact State.keeps.refl
  try clear_value s1
  extract_lets -merge -underBinder +onlyGivenNames s2
  have h2 : State.keeps writes_writeChzCtrl s s2 := by
    unfold s2
    refine State.keeps.ite (fun _ => ?_) (fun _ => ?_)
    · refine State.keeps.step ?_ (writeSync_keeps ..) (by decide +kernel)
      exact h1
    · exact h1
  try clear_value s2
  extract_lets -merge -underBinder +onlyGivenNames s3
  have h3 : State.keeps writes_writeChzCtrl s s3 := by
    unfold s3
    refine State.keeps.ite (fun _ => ?_) (fun _ => ?_)
    · refine State.keeps.step ?_ (requestSwap_keeps ..) (by decide +kernel)
      exact h2
    · exact h2
  try clear_value s3
  refine State.keeps.ite (fun _ => ?_) (fun _ => ?_)
  · refine State.keeps.step ?_ (writeCheck_keeps ..) (by decide +kernel)
    exact h3
  · refine State.keeps.wr ?_ (by decide +kernel)
    exact h3

/-- What `writeUpdCtrl` may write. -/
def writes_writeUpdCtrl : Nat :=
  writes_updStart ||| writes_updCommit

theorem writeUpdCtrl_keeps (s : State) (who : Sys2Proof.Requester) (w : ℕ) :
    State.keeps writes_writeUpdCtrl s (State.writeUpdCtrl s who w) := by
  unfold State.writeUpdCtrl
  extract_lets -merge -underBinder +onlyGivenNames s1
  have h1 : State.keeps writes_writeUpdCtrl s s1 := by
    unfold s1
    refine State.keeps.ite (fun _ => ?_) (fun _ => ?_)
    · refine State.keeps.step ?_ (updStart_keeps ..) (by decide +kernel)
      exact State.keeps.refl
    · exact State.keeps.refl
  try clear_value s1
  extract_lets -merge -underBinder +onlyGivenNames s2
  have h2 : State.keeps writes_writeUpdCtrl s s2 := by
    unfold s2
    refine State.keeps.ite (fun _ => ?_) (fun _ => ?_)
    · refine State.keeps.step ?_ (updCommit_keeps ..) (by decide +kernel)
      exact h1
    · exact h1
  try clear_value s2
  refine State.keeps.ite (fun _ => ?_) (fun _ => ?_)
  · refine State.keeps.step ?_ (updAbort_keeps ..) (by decide +kernel)
    exact h2
  · exact h2

/-- What `writeRestart` may write. -/
def writes_writeRestart : Nat :=
  writes [.KCT_RESTART_KEY] []

theorem writeRestart_keeps (s : State) (who : Sys2Proof.Requester) (w : ℕ) :
    State.keeps writes_writeRestart s (State.writeRestart s who w) := by
  unfold State.writeRestart
  refine State.keeps.ite (fun _ => ?_) (fun _ => ?_)
  · exact State.keeps.refl
  · refine State.keeps.wr ?_ (by decide +kernel)
    exact State.keeps.refl

/-- What `writeMbCtrl` may write. -/
def writes_writeMbCtrl : Nat :=
  0

theorem writeMbCtrl_keeps {ws : Nat} {sb s : State} {w : Nat} {full : Field} {send pop : State → State}
    (hf : inSet ws full = true) (hs : State.keeps ws sb s)
    (h_send : ∀ t, State.keeps ws sb t → State.keeps ws sb (send t))
    (h_pop : ∀ t, State.keeps ws sb t → State.keeps ws sb (pop t)) :
    State.keeps ws sb (State.writeMbCtrl s w full send pop) := by
  unfold State.writeMbCtrl
  extract_lets -merge -underBinder +onlyGivenNames s1 s2
  have h1 : State.keeps ws sb s1 := by
    unfold s1
    exact State.keeps.ite (fun _ => hs.wr hf) (fun _ => hs)
  have h2 : State.keeps ws sb s2 := by
    unfold s2
    exact State.keeps.ite (fun _ => h_send _ h1) (fun _ => h1)
  exact State.keeps.ite (fun _ => h_pop _ h2) (fun _ => h2)

/-- What `writeFrsFwCtrl` may write. -/
def writes_writeFrsFwCtrl : Nat :=
  writes [.FRS_FW_CTRL_SOURCE] [] ||| writes_firmwareRecord

theorem writeFrsFwCtrl_keeps (s : State) (w : ℕ) :
    State.keeps writes_writeFrsFwCtrl s (State.writeFrsFwCtrl s w) := by
  unfold State.writeFrsFwCtrl
  extract_lets -merge -underBinder +onlyGivenNames s1
  have h1 : State.keeps writes_writeFrsFwCtrl s s1 := by
    unfold s1
    refine State.keeps.wr ?_ (by decide +kernel)
    exact State.keeps.refl
  try clear_value s1
  refine State.keeps.ite (fun _ => ?_) (fun _ => ?_)
  · refine State.keeps.step ?_ (firmwareRecord_keeps ..) (by decide +kernel)
    exact h1
  · exact h1

/-- What `writeLaneCtrl` may write. -/
def writes_writeLaneCtrl : Nat :=
  writes_writeLaneEn

theorem writeLaneCtrl_keeps (s : State) (l : ℕ) (w : ℕ) :
    State.keeps writes_writeLaneCtrl s (State.writeLaneCtrl s l w) := by
  unfold State.writeLaneCtrl
  extract_lets -merge -underBinder +onlyGivenNames s1
  have h1 : State.keeps writes_writeLaneCtrl s s1 := by
    unfold s1
    refine State.keeps.step ?_ (writeLaneEn_keeps ..) (by decide +kernel)
    exact State.keeps.refl
  try clear_value s1
  refine State.keeps.ite (fun _ => ?_) (fun _ => ?_)
  · refine State.keeps.step ?_ (retrainLane_keeps ..) (by decide +kernel)
    exact h1
  · exact h1

/-- What `writePilotCtrl` may write. -/
def writes_writePilotCtrl : Nat :=
  writes [.FE_PILOT_CTRL_LEVEL, .FE_PILOT_CTRL_PERIOD, .FE_PILOT_CTRL_SHIFT_NEG] [] ||| writes_writePilotMode

theorem writePilotCtrl_keeps (s : State) (p : ℕ) (w : ℕ) :
    State.keeps writes_writePilotCtrl s (State.writePilotCtrl s p w) := by
  unfold State.writePilotCtrl
  refine State.keeps.step ?_ (writePilotMode_keeps ..) (by decide +kernel)
  refine State.keeps.wr ?_ (by decide +kernel)
  refine State.keeps.wr ?_ (by decide +kernel)
  refine State.keeps.wr ?_ (by decide +kernel)
  exact State.keeps.refl

/-- What `writeTargetLo` may write. -/
def writes_writeTargetLo : Nat :=
  writes [] [.bps]

theorem writeTargetLo_keeps (s : State) (n : ℕ) (w : ℕ) :
    State.keeps writes_writeTargetLo s (State.writeTargetLo s n w) := by
  unfold State.writeTargetLo
  refine State.keeps.step ?_ (updBp_keeps ..) (by decide +kernel)
  exact State.keeps.refl

/-- What `writeShared` may write. -/
def writes_writeShared : Nat :=
  anyField ||| writes [] [.bps, .cnt, .col, .fcl, .free, .frs, .kct, .lanes, .net, .pwms, .rings, .scr, .tiles]

theorem writeShared_keeps (s : State) (who : Sys2Proof.Requester) (f : Field) (i : ℕ) (w : ℕ)
    (fs : List (Field × ℕ)) :
    State.keepsO writes_writeShared s (State.writeShared s who f i w fs) := by
  unfold State.writeShared
  split
  · refine State.keepsO.some ?_
    refine State.keeps.step ?_ (writeUpdCtrl_keeps ..) (by decide +kernel)
    exact State.keeps.refl
  · refine State.keepsO.some ?_
    refine State.keeps.step ?_ (updData_keeps ..) (by decide +kernel)
    exact State.keeps.refl
  · refine State.keepsO.some ?_
    refine State.keeps.step ?_ (writeRestart_keeps ..) (by decide +kernel)
    exact State.keeps.refl
  · refine State.keepsO.some ?_
    refine State.keeps.step ?_ (writeFclCtrl_keeps ..) (by decide +kernel)
    exact State.keeps.refl
  · refine State.keepsO.some ?_
    refine State.keeps.step ?_ (showClass_keeps ..) (by decide +kernel)
    refine State.keeps.step ?_ (storeFields_keeps ..) (by decide +kernel)
    exact State.keeps.refl
  · refine State.keepsO.some ?_
    refine State.keeps.step ?_ (writeClearHi_keeps ..) (by decide +kernel)
    exact State.keeps.refl
  · refine State.keepsO.some ?_
    refine State.keeps.step ?_ (writeRdSel_keeps ..) (by decide +kernel)
    exact State.keeps.refl
  · refine State.keepsO.some ?_
    refine State.keeps.step ?_ (writeCntCtrl_keeps ..) (by decide +kernel)
    exact State.keeps.refl
  · refine State.keepsO.some ?_
    refine State.keeps.step ?_ (writeCntSel_keeps ..) (by decide +kernel)
    exact State.keeps.refl
  · refine State.keepsO.some ?_
    refine State.keeps.step ?_ (writeCntHi_keeps ..) (by decide +kernel)
    exact State.keeps.refl
  · refine State.keepsO.some ?_
    refine State.keeps.foldl ?_ (fun s1 x1 h1 => ?_)
    · exact State.keeps.refl
    · try beta_reduce
      refine State.keeps.step ?_ (fltClear_keeps ..) (by decide +kernel)
      exact h1
  · refine State.keepsO.some ?_
    refine State.keeps.step ?_ (writeBpCtrl_keeps ..) (by decide +kernel)
    exact State.keeps.refl
  · refine State.keepsO.some ?_
    refine State.keeps.step ?_ (readPlain_keeps ..) (by decide +kernel)
    exact State.keeps.refl
  · refine State.keepsO.some ?_
    refine State.keeps.step ?_ (writeDmaCtrl_keeps ..) (by decide +kernel)
    exact State.keeps.refl
  · refine State.keepsO.some ?_
    refine State.keeps.ite (fun _ => ?_) (fun _ => ?_)
    · exact State.keeps.refl
    · refine State.keeps.wr ?_ (by decide +kernel)
      exact State.keeps.refl
  · refine State.keepsO.some ?_
    refine State.keeps.ite (fun _ => ?_) (fun _ => ?_)
    · exact State.keeps.refl
    · refine State.keeps.wr ?_ (by decide +kernel)
      exact State.keeps.refl
  · refine State.keepsO.some ?_
    refine State.keeps.ite (fun _ => ?_) (fun _ => ?_)
    · exact State.keeps.refl
    · refine State.keeps.wr ?_ (by decide +kernel)
      exact State.keeps.refl
  · refine State.keepsO.some ?_
    refine State.keeps.step ?_ (writeDmaHead_keeps ..) (by decide +kernel)
    exact State.keeps.refl
  · refine State.keepsO.some ?_
    refine writeMbCtrl_keeps (by decide +kernel) ?_ (fun s2 h2 => ?_) (fun s3 h3 => ?_)
    · exact State.keeps.refl
    · refine State.keeps.step ?_ (mbxSend_keeps ..) (by decide +kernel)
      exact h2
    · refine State.keeps.step ?_ (mbxPop_keeps ..) (by decide +kernel)
      exact h3
  · exact State.keepsO.none

/-- What `writeFirmware` may write. -/
def writes_writeFirmware : Nat :=
  anyField ||| writes [] [.bps, .cages, .cnt, .col, .convs, .fcl, .frs, .kct, .lanes, .net, .plain, .plumb,
    .ports, .pwms, .scr, .tiles]

theorem writeFirmware_keeps (s : State) (q : ℕ) (f : Field) (i : ℕ) (w : ℕ) (fs : List (Field × ℕ)) :
    State.keepsO writes_writeFirmware s (State.writeFirmware s q f i w fs) := by
  unfold State.writeFirmware
  extract_lets -merge -underBinder +onlyGivenNames y1
  extract_lets -merge -underBinder +onlyGivenNames s2
  have h2 : State.keeps writes_writeFirmware s s2 := by
    unfold s2
    refine State.keeps.ite (fun _ => ?_) (fun _ => ?_)
    · refine State.keeps.wr ?_ (by decide +kernel)
      exact State.keeps.refl
    · refine State.keeps.step ?_ (storeFields_keeps ..) (by decide +kernel)
      exact State.keeps.refl
  try clear_value s2
  split
  · refine State.keepsO.some ?_
    refine State.keeps.step ?_ (kick_keeps ..) (by decide +kernel)
    exact State.keeps.refl
  · refine State.keepsO.some ?_
    refine State.keeps.step ?_ (writeAckClass_keeps ..) (by decide +kernel)
    exact State.keeps.refl
  · refine State.keepsO.some ?_
    refine State.keeps.step ?_ (writeRelease_keeps ..) (by decide +kernel)
    exact State.keeps.refl
  · refine State.keepsO.some ?_
    refine State.keeps.step ?_ (inject_keeps ..) (by decide +kernel)
    exact State.keeps.refl
  · refine State.keepsO.some ?_
    refine State.keeps.step ?_ (writeFrsFwCtrl_keeps ..) (by decide +kernel)
    exact State.keeps.refl
  · refine State.keepsO.some ?_
    exact State.keeps.refl
  · refine State.keepsO.some ?_
    refine State.keeps.step ?_ (writeFwWarn_keeps ..) (by decide +kernel)
    exact State.keeps.refl
  · refine State.keepsO.some ?_
    refine State.keeps.step ?_ (writeMonCtrl_keeps ..) (by decide +kernel)
    exact State.keeps.refl
  · refine State.keepsO.some ?_
    refine State.keeps.step ?_ (writeMonScan_keeps ..) (by decide +kernel)
    exact State.keeps.refl
  · refine State.keepsO.some ?_
    refine State.keeps.step ?_ (writeUrgent_keeps ..) (by decide +kernel)
    exact State.keeps.refl
  · refine State.keepsO.some ?_
    exact State.keeps.refl
  · refine State.keepsO.some ?_
    refine State.keeps.step ?_ (writePwmCtrl_keeps ..) (by decide +kernel)
    exact State.keeps.refl
  · refine State.keepsO.some ?_
    refine State.keeps.step ?_ (commitPwm_keeps ..) (by decide +kernel)
    exact State.keeps.refl
  · refine State.keepsO.some ?_
    refine State.keeps.step ?_ (writeLimit_keeps ..) (by decide +kernel)
    exact State.keeps.refl
  · refine State.keepsO.some ?_
    refine State.keeps.step ?_ (writeLimit_keeps ..) (by decide +kernel)
    exact State.keeps.refl
  · refine State.keepsO.some ?_
    refine State.keeps.step ?_ (writeLimit_keeps ..) (by decide +kernel)
    exact State.keeps.refl
  · refine State.keepsO.some ?_
    refine State.keeps.step ?_ (fwIrq_keeps ..) (by decide +kernel)
    exact State.keeps.refl
  · refine State.keepsO.some ?_
    refine writeMbCtrl_keeps (by decide +kernel) ?_ (fun s3 h3 => ?_) (fun s4 h4 => ?_)
    · exact State.keeps.refl
    · refine State.keeps.step ?_ (scrMbSend_keeps ..) (by decide +kernel)
      exact h3
    · refine State.keeps.step ?_ (scrMbPop_keeps ..) (by decide +kernel)
      exact h4
  · refine State.keepsO.some ?_
    exact h2
  · refine State.keepsO.some ?_
    exact h2
  · refine State.keepsO.some ?_
    exact h2
  · refine State.keepsO.some ?_
    refine State.keeps.step ?_ (writeChzCtrl_keeps ..) (by decide +kernel)
    exact State.keeps.refl
  · refine State.keepsO.some ?_
    refine State.keeps.step ?_ (writeCoefData_keeps ..) (by decide +kernel)
    exact State.keeps.refl
  · refine State.keepsO.some ?_
    refine State.keeps.step ?_ (writeFwCeil_keeps ..) (by decide +kernel)
    exact State.keeps.refl
  · refine State.keepsO.some ?_
    refine State.keeps.step ?_ (writeFwSlew_keeps ..) (by decide +kernel)
    exact State.keeps.refl
  · refine State.keepsO.some ?_
    refine State.keeps.step ?_ (writeTarget_keeps ..) (by decide +kernel)
    exact State.keeps.refl
  · refine State.keepsO.some ?_
    refine State.keeps.step ?_ (watchWrite_keeps ..) (by decide +kernel)
    exact State.keeps.refl
  · refine State.keepsO.some ?_
    refine State.keeps.step ?_ (writeTargetLo_keeps ..) (by decide +kernel)
    exact State.keeps.refl
  · refine State.keepsO.some ?_
    refine State.keeps.step ?_ (writeTargetHi_keeps ..) (by decide +kernel)
    exact State.keeps.refl
  · refine State.keepsO.some ?_
    refine State.keeps.step ?_ (writeDlySlew_keeps ..) (by decide +kernel)
    exact State.keeps.refl
  · refine State.keepsO.some ?_
    refine State.keeps.step ?_ (writeBackoff_keeps ..) (by decide +kernel)
    exact State.keeps.refl
  · refine State.keepsO.some ?_
    refine State.keeps.step ?_ (commitRange_keeps ..) (by decide +kernel)
    exact State.keeps.refl
  · refine State.keepsO.some ?_
    refine State.keeps.step ?_ (writePhaseSlew_keeps ..) (by decide +kernel)
    exact State.keeps.refl
  · refine State.keepsO.some ?_
    refine State.keeps.step ?_ (writeTod_keeps ..) (by decide +kernel)
    exact State.keeps.refl
  · refine State.keepsO.some ?_
    refine State.keeps.step ?_ (writeLaneCtrl_keeps ..) (by decide +kernel)
    exact State.keeps.refl
  · refine State.keepsO.some ?_
    refine State.keeps.step ?_ (writeFeCtrl_keeps ..) (by decide +kernel)
    exact State.keeps.refl
  · refine State.keepsO.some ?_
    refine State.keeps.step ?_ (writePilotCtrl_keeps ..) (by decide +kernel)
    exact State.keeps.refl
  · exact State.keepsO.none

/-- What `writeFields` may write. -/
def writes_writeFields : Nat :=
  anyField ||| writes [] [.bps, .cages, .cnt, .col, .convs, .fcl, .free, .frs, .kct, .lanes, .net, .plain,
    .plumb, .ports, .pwms, .rings, .scr, .tiles]

theorem writeFields_keeps (s : State) (who : Sys2Proof.Requester) (w : ℕ) (fs : List (Field × ℕ)) :
    State.keeps writes_writeFields s (State.writeFields s who w fs) := by
  unfold State.writeFields
  split
  · exact State.keeps.refl
  · split
    · rename_i s1 e1
      have h1 : State.keeps writes_writeFields s s1 := by
        refine State.keepsO.get ?_ e1
        refine State.keepsO.step ?_ (writeShared_keeps ..) (by decide +kernel)
        exact State.keeps.refl
      exact h1
    · refine State.keeps.ite (fun _ => ?_) (fun _ => ?_)
      · refine State.keeps.step ?_ (storeFields_keeps ..) (by decide +kernel)
        exact State.keeps.refl
      · refine State.keepsO.getD ?_ ?_
        · refine State.keepsO.step ?_ (writeFirmware_keeps ..) (by decide +kernel)
          exact State.keeps.refl
        · refine State.keeps.step ?_ (storeFields_keeps ..) (by decide +kernel)
          exact State.keeps.refl

/-- What `writeReg` may write. -/
def writes_writeReg : Nat :=
  anyField ||| writes [] [.bps, .cages, .cnt, .col, .convs, .fcl, .free, .frs, .kct, .lanes, .net, .plain,
    .plumb, .ports, .pwms, .rings, .scr, .tiles]

theorem writeReg_keeps (s : State) (who : Sys2Proof.Requester) (off : ℕ) (w : ℕ) :
    State.keeps writes_writeReg s (State.writeReg s who off w) := by
  unfold State.writeReg
  refine State.keeps.ite (fun _ => ?_) (fun _ => ?_)
  · refine State.keeps.step ?_ (msixWrite_keeps ..) (by decide +kernel)
    exact State.keeps.refl
  · refine State.keeps.ite (fun _ => ?_) (fun _ => ?_)
    · exact State.keeps.refl
    · extract_lets -merge -underBinder +onlyGivenNames y1
      refine State.keeps.ite (fun _ => ?_) (fun _ => ?_)
      · exact State.keeps.refl
      · refine State.keeps.step ?_ (writeFields_keeps ..) (by decide +kernel)
        refine State.keeps.ite (fun _ => ?_) (fun _ => ?_)
        · refine State.keeps.wr ?_ (by decide +kernel)
          exact State.keeps.refl
        · exact State.keeps.refl

/-- What `latchWide` may write. -/
def writes_latchWide : Nat :=
  writes [] [.readers]

theorem latchWide_keeps (s : State) (who : Sys2Proof.Requester) (view : Bool) (f : Field) (i : ℕ) :
    State.keeps writes_latchWide s (State.latchWide s who view f i) := by
  unfold State.latchWide
  split
  · extract_lets -merge -underBinder +onlyGivenNames y1
    refine State.keeps.step ?_ (setReader_keeps ..) (by decide +kernel)
    exact State.keeps.refl
  · exact State.keeps.refl

/-- What `clearRead` may write. -/
def writes_clearRead : Nat :=
  writes [.BP_STATUS_SUBST_GRAINS, .CHZ_BANK_STATUS_LOST_SWAP, .CNT_PS_STATUS_DROPPED,
    .COL_CAGE_STATUS_INSERTIONS, .COL_COUNT0_REPAIRS, .COL_COUNT0_REPAIR_FAIL, .COL_COUNT1_HOP_DROP,
    .COL_COUNT1_NO_ROUTE, .COL_COUNT2_ADDR_CHANGES, .COL_COUNT2_MSG_DISCARD, .DMA_COUNT_LOST,
    .EMG_BP_CEIL_G2_TRIPS, .EMG_STATUS_G2_PORT_TRIPS, .FCL_COUNT_MERGED, .FCL_COUNT_NOTICES,
    .FCL_UNIT_RECOVERIES, .FE_PILOT_STATUS_FRESH, .FE_STATUS_UNLOCK_COUNT, .FLO_COUNT1_DUP_GRAINS,
    .FLO_COUNT1_POISON_GRAINS, .FLO_COUNT_LOST_EVENTS, .FLO_COUNT_STEPS, .FRS_COUNT1_FLASH_ERR,
    .FRS_COUNT_COALESCED, .FRS_COUNT_SUMMARIES, .GCE_OVR_OVR_COUNT, .GCE_SETP_CNT_INVALID_EVENTS,
    .GCE_TICK_OVERRUN_TICKS, .GRG_KEEP_KEEP_DROP, .GRG_KEEP_RESENT, .GRG_SEAL_FAIL_FAILS, .KCT_COUNT_KL_WRITES,
    .LANE_COUNT_FAILS, .LANE_ERR_BLOCK_ERR, .LANE_ERR_FRAME_ERR, .LANE_STATUS_UNRES_DROP, .MEM_CH_CE,
    .MON_COUNT_ABORTS, .MON_COUNT_URG_LOST, .MON_QLEVEL_Q_DROP, .PCR_COUNT_FAULTS, .PCR_COUNT_RESTARTS,
    .PLB_COUNT_ROOT_CHANGES, .PLB_COUNT_STEPS, .PLB_LCOUNT_EXCH_BAD, .PLB_REF_STAT_PPS_REJECT,
    .PLN_STATUS_BAD_TILES, .PWM_COUNT1_G3_TRIPS, .PWM_COUNT1_SWN_MISS, .PWM_COUNT_LATE_COMMITS,
    .PWM_COUNT_SHORT_PULSES, .PWM_FLT_FLT_EVENTS, .SCR_HCOUNT_ABSENT, .SCR_HCOUNT_PARTIAL_WR,
    .SCR_HCOUNT_UNSURE_WR, .SDL_COUNT_G1_TRIPS, .SDL_COUNT_NEW_LOOPS, .SDL_DIGEST_DIGESTS_RX,
    .SDL_DIGEST_DIGEST_MISS, .THM_COUNT_SUSPECT_EVENTS, .THM_COUNT_WARN_EVENTS] []

theorem clearRead_keeps (s : State) (fs : List (Field × Nat)) :
    State.keeps writes_clearRead s (State.clearRead s fs) := by
  have hk : ∀ k < 1024, (Field.ofNat k).row.access = .rc → inSet writes_clearRead (Field.ofNat k) = true := by
    decide +kernel
  have hf : ∀ f : Field, f.row.access = .rc → inSet writes_clearRead f = true := by
    intro f h
    have := hk f.ctorIdx f.ctorIdx_lt
    rw [Field.ofNat_ctorIdx] at this
    exact this h
  unfold State.clearRead
  refine State.keeps.foldl State.keeps.refl (fun t x ht => ?_)
  beta_reduce
  split
  · exact ht.wr (hf _ ‹_›)
  · exact ht

/-- What `readReg` may write. -/
def writes_readReg : Nat :=
  writes_readCntLo ||| writes_readPsData ||| writes_monPop ||| writes_advanceTap ||| writes_clearRead

theorem readReg_keeps (s : State) (who : Sys2Proof.Requester) (off : ℕ) :
    State.keeps writes_readReg s (State.readReg s who off) := by
  unfold State.readReg
  extract_lets -merge -underBinder +onlyGivenNames y1
  refine State.keeps.ite (fun _ => ?_) (fun _ => ?_)
  · refine State.keeps.step ?_ (answer_keeps ..) (by decide +kernel)
    exact State.keeps.refl
  · refine State.keeps.ite (fun _ => ?_) (fun _ => ?_)
    · refine State.keeps.step ?_ (answer_keeps ..) (by decide +kernel)
      exact State.keeps.refl
    · refine State.keeps.ite (fun _ => ?_) (fun _ => ?_)
      · refine State.keeps.step ?_ (answer_keeps ..) (by decide +kernel)
        exact State.keeps.refl
      · split
        · refine State.keeps.step ?_ (answer_keeps ..) (by decide +kernel)
          exact State.keeps.refl
        · extract_lets -merge -underBinder +onlyGivenNames s2
          have h2 : State.keeps writes_readReg s s2 := by
            unfold s2
            refine State.keeps.step ?_ (latchWide_keeps ..) (by decide +kernel)
            refine State.keeps.step ?_ (answer_keeps ..) (by decide +kernel)
            exact State.keeps.refl
          try clear_value s2
          refine State.keeps.ite (fun _ => ?_) (fun _ => ?_)
          · exact h2
          · split
            · refine State.keeps.step ?_ (readCntLo_keeps ..) (by decide +kernel)
              exact State.keeps.refl
            · refine State.keeps.step ?_ (readCntHi_keeps ..) (by decide +kernel)
              exact State.keeps.refl
            · refine State.keeps.step ?_ (readPsData_keeps ..) (by decide +kernel)
              exact State.keeps.refl
            · refine State.keeps.ite (fun _ => ?_) (fun _ => ?_)
              · refine State.keeps.step ?_ (answer_keeps ..) (by decide +kernel)
                refine State.keeps.wr ?_ (by decide +kernel)
                exact State.keeps.refl
              · refine State.keeps.step ?_ (answer_keeps ..) (by decide +kernel)
                exact State.keeps.refl
            · refine State.keeps.step ?_ (readTime0_keeps ..) (by decide +kernel)
              exact State.keeps.refl
            · extract_lets -merge -underBinder +onlyGivenNames s3
              have h3 : State.keeps writes_readReg s s3 := by
                unfold s3
                refine State.keeps.step ?_ (answer_keeps ..) (by decide +kernel)
                exact State.keeps.refl
              try clear_value s3
              refine State.keeps.ite (fun _ => ?_) (fun _ => ?_)
              · exact h3
              · refine State.keeps.step ?_ (monPop_keeps ..) (by decide +kernel)
                exact h3
            · refine State.keeps.step ?_ (advanceTap_keeps ..) (by decide +kernel)
              refine State.keeps.step ?_ (answer_keeps ..) (by decide +kernel)
              exact State.keeps.refl
            · refine State.keeps.step ?_ (clearRead_keeps ..) (by decide +kernel)
              exact h2

/-- What `access` may write. -/
def writes_access : Nat :=
  writes_absentAccess ||| writes_remote ||| writes_accessFault

theorem access_keeps {ws : Nat} {sb : State} {s : State} {who : Sys2Proof.Requester} {off : ℕ} {store
    : Bool} {act : State → State}
    (hm : writes_access ||| ws = ws) (hs : State.keeps ws sb s)
    (h_act : ∀ t, State.keeps ws sb t → State.keeps ws sb (act t)) :
    State.keeps ws sb (State.access s who off store act) := by
  unfold State.access
  split
  · refine State.keeps.ite (fun _ => ?_) (fun _ => ?_)
    · refine State.keeps.step ?_ (report_keeps ..) (sub_of hm (by decide +kernel))
      exact hs
    · refine State.keeps.ite (fun _ => ?_) (fun _ => ?_)
      · refine State.keeps.step ?_ (absentAccess_keeps ..) (sub_of hm (by decide +kernel))
        exact hs
      · refine h_act _ ?_
        exact hs
  · refine State.keeps.ite (fun _ => ?_) (fun _ => ?_)
    · exact hs
    · refine h_act _ ?_
      exact hs
  · extract_lets -merge -underBinder +onlyGivenNames s1
    have h1 : State.keeps ws sb s1 := by
      unfold s1
      refine State.keeps.step ?_ (remote_keeps ..) (sub_of hm (by decide +kernel))
      exact hs
    try clear_value s1
    refine State.keeps.ite (fun _ => ?_) (fun _ => ?_)
    · refine State.keeps.step ?_ (accessFault_keeps ..) (sub_of hm (by decide +kernel))
      exact h1
    · refine h_act _ ?_
      exact h1
  · refine State.keeps.ite (fun _ => ?_) (fun _ => ?_)
    · exact hs
    · refine State.keeps.ite (fun _ => ?_) (fun _ => ?_)
      · refine State.keeps.step ?_ (accessFault_keeps ..) (sub_of hm (by decide +kernel))
        exact hs
      · refine h_act _ ?_
        exact hs

/-- What `execRegisterWrite` may write. -/
def writes_execRegisterWrite : Nat :=
  anyField ||| writes [] [.bps, .cages, .cnt, .col, .convs, .fcl, .free, .frs, .kct, .lanes, .net, .plain,
    .plumb, .ports, .pwms, .rings, .scr, .tiles]

theorem execRegisterWrite_keeps (who : Sys2Proof.Requester) (off : BitVec 20) (w : Sys2Proof.Word) (s : State) :
    State.answers writes_execRegisterWrite s (execRegisterWrite who off w s) := by
  unfold execRegisterWrite
  refine State.answers.next ?_
  refine access_keeps (by decide +kernel) ?_ (fun s1 h1 => ?_)
  · exact State.keeps.refl
  · refine State.keeps.step ?_ (writeReg_keeps ..) (by decide +kernel)
    exact h1

/-- What `execRegisterReadClear` may write. -/
def writes_execRegisterReadClear : Nat :=
  writes_access ||| writes_readReg

theorem execRegisterReadClear_keeps (who : Sys2Proof.Requester) (off : BitVec 20) (s : State) :
    State.answers writes_execRegisterReadClear s (execRegisterReadClear who off s) := by
  unfold execRegisterReadClear
  refine State.answers.next ?_
  refine access_keeps (by decide +kernel) ?_ (fun s1 h1 => ?_)
  · exact State.keeps.refl
  · refine State.keeps.step ?_ (readReg_keeps ..) (by decide +kernel)
    exact h1

/-- What `execWideLoRead` may write. -/
def writes_execWideLoRead : Nat :=
  writes_access ||| writes_readReg

theorem execWideLoRead_keeps (who : Sys2Proof.Requester) (off : BitVec 20) (s : State) :
    State.answers writes_execWideLoRead s (execWideLoRead who off s) := by
  unfold execWideLoRead
  refine State.answers.next ?_
  refine access_keeps (by decide +kernel) ?_ (fun s1 h1 => ?_)
  · exact State.keeps.refl
  · refine State.keeps.step ?_ (readReg_keeps ..) (by decide +kernel)
    exact h1

end Sys2Proof.Machine
end

