-- ==== Sys2Proof/Laws/Blocks.lean ====
section
/-!
SUPPORT. Blocks on the fibre: a receiver in step with the sender reads back every bit of a payload (R258).
-/

namespace Sys2Proof.Machine

/-- The scrambler loses no bit: a receiver whose register holds the same 58 bits recovers the payload. -/
theorem descramble_scramble (r : Nat) (bs : List Bool) : descramble r (scramble r bs).2 = bs := by
  induction bs generalizing r with
  | nil => rfl
  | cons b rest ih => simp [scramble, descramble, scrambleBit, ih]

/-- A block takes 66 bits. -/
theorem Block.send_length (b : Block) (r : Nat) : (b.send r).2.length = 66 := by
  have h (r : Nat) (bs : List Bool) : (scramble r bs).2.length = bs.length := by
    induction bs generalizing r with
    | nil => rfl
    | cons b rest ih => simp [scramble, ih]
  simp [Block.send, h]

/-- A frame of LEN data words is LEN + 2 blocks, the number of credits it uses (R261). -/
theorem blocksOf_length (f : Frame) : (blocksOf f).length = frameBlocks f := by simp [blocksOf, frameBlocks]

end Sys2Proof.Machine
end

