-- ==== Sys2Proof/Laws/ScrimKeeps.lean ====
section
/-!
SUPPORT. What each operation of Machine/Scrim.lean may write.
-/

namespace Sys2Proof.Machine

set_option Elab.async false

/-- What `sendReqs` may write. -/
def writes_sendReqs : Nat :=
  writes [.SCR_HCREDIT_REQ] [.scr] ||| writes_scrimReceived

theorem sendReqs_keeps (s : State) (a : HostAccess) :
    State.keeps writes_sendReqs s (State.sendReqs s a) := by
  unfold State.sendReqs
  extract_lets -merge -underBinder +onlyGivenNames s1
  have h1 : State.keeps writes_sendReqs s s1 := by
    unfold s1
    refine State.keeps.step ?_ (scrimReceived_keeps ..) (by decide +kernel)
    refine State.keeps.wr ?_ (by decide +kernel)
    exact State.keeps.refl
  try clear_value s1
  refine (State.keeps.put_scr ?_ _ (by decide +kernel))
  exact h1

/-- What `takeStalled` may write. -/
def writes_takeStalled : Nat :=
  writes_sendReqs

theorem takeStalled_keeps (xs : List HostAccess) (s : State) :
    State.keeps writes_takeStalled s (State.takeStalled xs s) := by
  induction xs generalizing s with
  | nil => exact State.keeps.refl.put_scr _ (by decide +kernel)
  | cons a rest ih =>
    unfold State.takeStalled
    refine State.keeps.ite (fun _ => ?_) (fun _ => ?_)
    · exact (State.keeps.refl.step (sendReqs_keeps ..) (by decide +kernel)).trans (ih _)
    · exact State.keeps.refl.put_scr _ (by decide +kernel)

/-- What `hostAccess` may write. -/
def writes_hostAccess : Nat :=
  writes [.SCR_HCOUNT_PARTIAL_WR] [] ||| writes_absentAccess ||| writes_takeStalled

theorem hostAccess_keeps (s : State) (a : HostAccess) (masked : Bool) :
    State.keeps writes_hostAccess s (State.hostAccess s a masked) := by
  unfold State.hostAccess
  extract_lets -merge -underBinder +onlyGivenNames y1
  extract_lets -merge -underBinder +onlyGivenNames s2
  have h2 : State.keeps writes_hostAccess s s2 := by
    unfold s2
    refine State.keeps.ite (fun _ => ?_) (fun _ => ?_)
    · refine State.keeps.wr ?_ (by decide +kernel)
      exact State.keeps.refl
    · exact State.keeps.refl
  try clear_value s2
  refine State.keeps.ite (fun _ => ?_) (fun _ => ?_)
  · refine State.keeps.step ?_ (absentAccess_keeps ..) (by decide +kernel)
    exact h2
  · refine State.keeps.ite (fun _ => ?_) (fun _ => ?_)
    · exact h2
    · refine State.keeps.step ?_ (takeStalled_keeps ..) (by decide +kernel)
      exact State.keeps.refl

/-- What `execHostFieldAccess` may write. -/
def writes_execHostFieldAccess : Nat :=
  writes_hostAccess

theorem execHostFieldAccess_keeps (off : BitVec 20) (wide : Bool) (write : Option Sys2Proof.Word64)
    (masked : Bool) (s : State) :
    State.answers writes_execHostFieldAccess s (execHostFieldAccess off wide write masked s) := by
  unfold execHostFieldAccess
  extract_lets -merge -underBinder +onlyGivenNames y1
  refine State.answers.next ?_
  refine State.keeps.ite (fun _ => ?_) (fun _ => ?_)
  · exact State.keeps.refl
  · refine State.keeps.ite (fun _ => ?_) (fun _ => ?_)
    · refine State.keeps.step ?_ (report_keeps ..) (by decide +kernel)
      exact State.keeps.refl
    · refine State.keeps.step ?_ (hostAccess_keeps ..) (by decide +kernel)
      exact State.keeps.refl

/-- What `serveReq` may write. -/
def writes_serveReq : Nat :=
  anyField ||| writes [] [.bps, .cages, .cnt, .col, .convs, .fcl, .free, .frs, .kct, .lanes, .net, .plain,
    .plumb, .ports, .pwms, .readers, .rings, .scr, .tiles]

theorem serveReq_keeps (s : State) :
    State.keeps writes_serveReq s (State.serveReq s) := by
  unfold State.serveReq
  split
  · exact State.keeps.refl
  · extract_lets -merge -underBinder +onlyGivenNames y1
    extract_lets -merge -underBinder +onlyGivenNames s2
    have h2 : State.keeps writes_serveReq s s2 := by
      unfold s2
      refine State.keeps.step ?_ (owe_keeps ..) (by decide +kernel)
      refine (State.keeps.put_scr ?_ _ (by decide +kernel))
      exact State.keeps.refl
    try clear_value s2
    split
    · refine State.keeps.step ?_ (writeReg_keeps ..) (by decide +kernel)
      exact h2
    · refine State.keeps.ite (fun _ => ?_) (fun _ => ?_)
      · exact State.keeps.refl
      · extract_lets -merge -underBinder +onlyGivenNames s3
        have h3 : State.keeps writes_serveReq s s3 := by
          unfold s3
          refine State.keeps.step ?_ (readReg_keeps ..) (by decide +kernel)
          exact h2
        try clear_value s3
        extract_lets -merge -underBinder +onlyGivenNames s4
        have h4 : State.keeps writes_serveReq s s4 := by
          unfold s4
          refine State.keeps.step ?_ (scrimSent_keeps ..) (by decide +kernel)
          refine State.keeps.wr ?_ (by decide +kernel)
          exact h3
        try clear_value s4
        refine (State.keeps.put_scr ?_ _ (by decide +kernel))
        exact h4

/-- What `execScrimReq` may write. -/
def writes_execScrimReq : Nat :=
  anyField ||| writes [] [.bps, .cages, .cnt, .col, .convs, .fcl, .free, .frs, .kct, .lanes, .net, .plain,
    .plumb, .ports, .pwms, .readers, .rings, .scr, .tiles]

theorem execScrimReq_keeps (s : State) :
    State.answers writes_execScrimReq s (execScrimReq s) := by
  unfold execScrimReq
  refine State.answers.next ?_
  refine State.keeps.ite (fun _ => ?_) (fun _ => ?_)
  · refine State.keeps.step ?_ (serveReq_keeps ..) (by decide +kernel)
    exact State.keeps.refl
  · exact State.keeps.refl

/-- What `execScrimRsp` may write. -/
def writes_execScrimRsp : Nat :=
  writes_owe

theorem execScrimRsp_keeps (s : State) :
    State.answers writes_execScrimRsp s (execScrimRsp s) := by
  unfold execScrimRsp
  refine State.answers.next ?_
  split
  · refine State.keeps.ite (fun _ => ?_) (fun _ => ?_)
    · exact State.keeps.refl
    · extract_lets -merge -underBinder +onlyGivenNames y1
      extract_lets -merge -underBinder +onlyGivenNames y2
      extract_lets -merge -underBinder +onlyGivenNames s3
      have h3 : State.keeps writes_execScrimRsp s s3 := by
        unfold s3
        refine (State.keeps.put_scr ?_ _ (by decide +kernel))
        exact State.keeps.refl
      try clear_value s3
      extract_lets -merge -underBinder +onlyGivenNames s4
      have h4 : State.keeps writes_execScrimRsp s s4 := by
        unfold s4
        refine State.keeps.step ?_ (owe_keeps ..) (by decide +kernel)
        exact h3
      try clear_value s4
      refine State.keeps.ite (fun _ => ?_) (fun _ => ?_)
      · refine (State.keeps.put_scr ?_ _ (by decide +kernel))
        exact h4
      · refine (State.keeps.put_scr ?_ _ (by decide +kernel))
        exact h4
  · exact State.keeps.refl

/-- What `execScrHsyncRead` may write. -/
def writes_execScrHsyncRead : Nat :=
  writes [] [.scr]

theorem execScrHsyncRead_keeps (s : State) :
    State.answers writes_execScrHsyncRead s (execScrHsyncRead s) := by
  unfold execScrHsyncRead
  refine State.answers.next ?_
  refine State.keeps.ite (fun _ => ?_) (fun _ => ?_)
  · refine (State.keeps.put_scr ?_ _ (by decide +kernel))
    exact State.keeps.refl
  · exact State.keeps.refl

/-- What `execEvtMessage` may write. -/
def writes_execEvtMessage : Nat :=
  writes [.SCR_FCREDIT_EVT] [] ||| writes_scrimSent ||| writes_interrupt

theorem execEvtMessage_keeps (s : State) :
    State.answers writes_execEvtMessage s (execEvtMessage s) := by
  unfold execEvtMessage
  refine State.answers.next ?_
  split
  · exact State.keeps.refl
  · refine State.keeps.ite (fun _ => ?_) (fun _ => ?_)
    · extract_lets -merge -underBinder +onlyGivenNames y1
      extract_lets -merge -underBinder +onlyGivenNames s2
      have h2 : State.keeps writes_execEvtMessage s s2 := by
        unfold s2
        refine State.keeps.step ?_ (scrimSent_keeps ..) (by decide +kernel)
        refine (State.keeps.put_scr ?_ _ (by decide +kernel))
        exact State.keeps.refl
      try clear_value s2
      refine State.keeps.step ?_ (interrupt_keeps ..) (by decide +kernel)
      refine State.keeps.step ?_ (owe_keeps ..) (by decide +kernel)
      refine State.keeps.wr ?_ (by decide +kernel)
      exact h2
    · exact State.keeps.refl

/-- What `fieldLost` may write. -/
def writes_fieldLost : Nat :=
  writes [.DMA_STATUS_FIELD_LOST, .SCR_HCOUNT_UNSURE_WR, .SCR_HSTATUS_FIELD_UP] [] ||| writes_absentAccess |||
    writes_hostCause ||| writes_stopRings

theorem fieldLost_keeps (s : State) :
    State.keeps writes_fieldLost s (State.fieldLost s) := by
  unfold State.fieldLost
  refine State.keeps.ite (fun _ => ?_) (fun _ => ?_)
  · exact State.keeps.refl
  · extract_lets -merge -underBinder +onlyGivenNames s1
    have h1 : State.keeps writes_fieldLost s s1 := by
      unfold s1
      refine State.keeps.wr ?_ (by decide +kernel)
      refine State.keeps.wr ?_ (by decide +kernel)
      exact State.keeps.refl
    try clear_value s1
    extract_lets -merge -underBinder +onlyGivenNames s2
    have h2 : State.keeps writes_fieldLost s s2 := by
      unfold s2
      refine State.keeps.foldl ?_ (fun s3 x3 h3 => ?_)
      · exact h1
      · try beta_reduce
        refine State.keeps.step ?_ (absentAccess_keeps ..) (by decide +kernel)
        exact h3
    try clear_value s2
    extract_lets -merge -underBinder +onlyGivenNames s4
    have h4 : State.keeps writes_fieldLost s s4 := by
      unfold s4
      refine State.keeps.foldl ?_ (fun s5 x5 h5 => ?_)
      · exact h2
      · try beta_reduce
        refine State.keeps.step ?_ (absentAccess_keeps ..) (by decide +kernel)
        exact h5
    try clear_value s4
    extract_lets -merge -underBinder +onlyGivenNames y6
    extract_lets -merge -underBinder +onlyGivenNames s7
    have h7 : State.keeps writes_fieldLost s s7 := by
      unfold s7
      refine (State.keeps.put_scr ?_ _ (by decide +kernel))
      exact h4
    try clear_value s7
    refine State.keeps.step ?_ (hostCause_keeps ..) (by decide +kernel)
    refine State.keeps.step ?_ (stopRings_keeps ..) (by decide +kernel)
    exact h7

/-- What `execFieldDown` may write. -/
def writes_execFieldDown : Nat :=
  writes_fieldLost

theorem execFieldDown_keeps (s : State) :
    State.answers writes_execFieldDown s (execFieldDown s) := by
  unfold execFieldDown
  refine State.answers.next ?_
  refine State.keeps.step ?_ (fieldLost_keeps ..) (by decide +kernel)
  exact State.keeps.refl

/-- What `execHostAbsent` may write. -/
def writes_execHostAbsent : Nat :=
  writes [.SCR_FSTATUS_HOST_UP] []

theorem execHostAbsent_keeps (s : State) :
    State.answers writes_execHostAbsent s (execHostAbsent s) := by
  unfold execHostAbsent
  refine State.answers.next ?_
  refine State.keeps.wr ?_ (by decide +kernel)
  exact State.keeps.refl

/-- What `showScrim` may write. -/
def writes_showScrim : Nat :=
  writes [.SCR_FSTATUS_LANES_RX, .SCR_HSTATUS_LANES_RX] []

theorem showScrim_keeps (s : State) :
    State.keeps writes_showScrim s (State.showScrim s) := by
  unfold State.showScrim
  refine State.keeps.wr ?_ (by decide +kernel)
  refine State.keeps.wr ?_ (by decide +kernel)
  exact State.keeps.refl

/-- What `laneDrop` may write. -/
def writes_laneDrop : Nat :=
  writes_refreshLimit ||| writes_showScrim ||| writes_sendFault ||| writes_fieldLost

theorem laneDrop_keeps (s : State) (toHost : Bool) :
    State.keeps writes_laneDrop s (State.laneDrop s toHost) := by
  unfold State.laneDrop
  extract_lets -merge -underBinder +onlyGivenNames y1
  extract_lets -merge -underBinder +onlyGivenNames y2
  extract_lets -merge -underBinder +onlyGivenNames y3
  extract_lets -merge -underBinder +onlyGivenNames s4
  have h4 : State.keeps writes_laneDrop s s4 := by
    unfold s4
    refine State.keeps.step ?_ (refreshLimit_keeps ..) (by decide +kernel)
    refine State.keeps.step ?_ (hostCause_keeps ..) (by decide +kernel)
    refine State.keeps.step ?_ (showScrim_keeps ..) (by decide +kernel)
    refine (State.keeps.put_scr ?_ _ (by decide +kernel))
    exact State.keeps.refl
  try clear_value s4
  refine State.keeps.ite (fun _ => ?_) (fun _ => ?_)
  · exact h4
  · refine State.keeps.step ?_ (sendFault_keeps ..) (by decide +kernel)
    refine State.keeps.step ?_ (fieldLost_keeps ..) (by decide +kernel)
    exact h4

/-- What `execScrimLaneDrop` may write. -/
def writes_execScrimLaneDrop : Nat :=
  writes_laneDrop

theorem execScrimLaneDrop_keeps (toHost : Bool) (s : State) :
    State.answers writes_execScrimLaneDrop s (execScrimLaneDrop toHost s) := by
  unfold execScrimLaneDrop
  refine State.answers.next ?_
  refine State.keeps.step ?_ (laneDrop_keeps ..) (by decide +kernel)
  exact State.keeps.refl

/-- What `discardMessages` may write. -/
def writes_discardMessages : Nat :=
  writes [.MBX_CTRL_RX_LEVEL, .SCR_FCREDIT_CAP8, .SCR_FCREDIT_EVT, .SCR_FCREDIT_MBX_TX, .SCR_FCREDIT_RSP,
    .SCR_HCREDIT_MBX_TX, .SCR_HCREDIT_REQ, .SCR_MB_CTRL_RX_LEVEL] [.readers, .scr]

theorem discardMessages_keeps (s : State) : State.keeps writes_discardMessages s (State.discardMessages s) := by
  unfold State.discardMessages
  refine State.keeps.step ?_ (setReader_keeps ..) (by decide +kernel)
  refine State.keeps.foldl_mem ?_ (fun t x hx ht => ?_)
  · exact State.keeps.refl.put_scr _ (by decide +kernel)
  · have hm : ∀ x ∈ [(Field.SCR_HCREDIT_REQ, 32), (.SCR_HCREDIT_MBX_TX, 16), (.SCR_FCREDIT_RSP, 32),
      (.SCR_FCREDIT_EVT, 16),
        (.SCR_FCREDIT_MBX_TX, 16), (.SCR_FCREDIT_CAP8, 32), (.SCR_MB_CTRL_RX_LEVEL, 0), (.MBX_CTRL_RX_LEVEL, 0)],
        inSet writes_discardMessages x.1 = true := by decide +kernel
    exact ht.wr (hm _ hx)

/-- What `scrimSync` may write. -/
def writes_scrimSync : Nat :=
  writes [.SCR_FSTATUS_HOST_UP, .SCR_HSTATUS_LINK_EPOCH] [] ||| writes_discardMessages ||| writes_fieldLost |||
    writes_refreshLimit ||| writes_showScrim ||| writes_sendClear

theorem scrimSync_keeps (s : State) (toHost : ℕ) (toField : ℕ) :
    State.keeps writes_scrimSync s (State.scrimSync s toHost toField) := by
  unfold State.scrimSync
  extract_lets -merge -underBinder +onlyGivenNames s1
  have h1 : State.keeps writes_scrimSync s s1 := by
    unfold s1
    refine State.keeps.step ?_ (discardMessages_keeps ..) (by decide +kernel)
    refine State.keeps.step ?_ (fieldLost_keeps ..) (by decide +kernel)
    exact State.keeps.refl
  try clear_value s1
  extract_lets -merge -underBinder +onlyGivenNames y2
  extract_lets -merge -underBinder +onlyGivenNames s3
  have h3 : State.keeps writes_scrimSync s s3 := by
    unfold s3
    refine State.keeps.step ?_ (refreshLimit_keeps ..) (by decide +kernel)
    refine State.keeps.step ?_ (showScrim_keeps ..) (by decide +kernel)
    refine (State.keeps.put_scr ?_ _ (by decide +kernel))
    exact h1
  try clear_value s3
  refine State.keeps.step ?_ (sendClear_keeps ..) (by decide +kernel)
  refine State.keeps.step ?_ (hostCause_keeps ..) (by decide +kernel)
  refine State.keeps.wr ?_ (by decide +kernel)
  refine State.keeps.wr ?_ (by decide +kernel)
  refine State.keeps.wr ?_ (by decide +kernel)
  exact h3

/-- What `execScrimSync` may write. -/
def writes_execScrimSync : Nat :=
  writes_scrimSync

theorem execScrimSync_keeps (toHost : Fin 9) (toField : Fin 9) (s : State) :
    State.answers writes_execScrimSync s (execScrimSync toHost toField s) := by
  unfold execScrimSync
  refine State.answers.next ?_
  refine State.keeps.ite (fun _ => ?_) (fun _ => ?_)
  · refine State.keeps.step ?_ (scrimSync_keeps ..) (by decide +kernel)
    exact State.keeps.refl
  · exact State.keeps.refl

/-- What `giveBack` may write. -/
def writes_giveBack : Nat :=
  0

theorem giveBack_keeps (s : State) (f : Field) (k : ℕ) :
    State.keeps (writes [f] [] ||| writes_giveBack) s (State.giveBack s f k) := by
  unfold State.giveBack
  refine State.keeps.wr ?_ (inSet_left (inSet_mem (by simp)))
  exact State.keeps.refl

/-- What `creditsToHost` may write. -/
def writes_creditsToHost : Nat :=
  writes [.SCR_HCREDIT_MBX_TX] [] ||| writes_takeStalled

theorem creditsToHost_keeps (s : State) :
    State.keeps writes_creditsToHost s (State.creditsToHost s) := by
  unfold State.creditsToHost
  extract_lets -merge -underBinder +onlyGivenNames y1
  extract_lets -merge -underBinder +onlyGivenNames y2
  extract_lets -merge -underBinder +onlyGivenNames s3
  have h3 : State.keeps writes_creditsToHost s s3 := by
    unfold s3
    refine State.keeps.ite (fun _ => ?_) (fun _ => ?_)
    · refine State.keeps.step ?_ (scrimSent_keeps ..) (by decide +kernel)
      exact State.keeps.refl
    · exact State.keeps.refl
  try clear_value s3
  extract_lets -merge -underBinder +onlyGivenNames s4
  have h4 : State.keeps writes_creditsToHost s s4 := by
    unfold s4
    refine State.keeps.step ?_ (giveBack_keeps ..) (by decide +kernel)
    refine State.keeps.step ?_ (giveBack_keeps ..) (by decide +kernel)
    exact h3
  try clear_value s4
  extract_lets -merge -underBinder +onlyGivenNames y5
  extract_lets -merge -underBinder +onlyGivenNames s6
  have h6 : State.keeps writes_creditsToHost s s6 := by
    unfold s6
    refine (State.keeps.put_scr ?_ _ (by decide +kernel))
    exact h4
  try clear_value s6
  extract_lets -merge -underBinder +onlyGivenNames s7
  have h7 : State.keeps writes_creditsToHost s s7 := by
    unfold s7
    refine State.keeps.ite (fun _ => ?_) (fun _ => ?_)
    · refine State.keeps.step ?_ (interrupt_keeps ..) (by decide +kernel)
      exact h6
    · exact h6
  try clear_value s7
  refine State.keeps.step ?_ (takeStalled_keeps ..) (by decide +kernel)
  exact h7

/-- What `creditsToField` may write. -/
def writes_creditsToField : Nat :=
  writes [.SCR_FCREDIT_CAP8, .SCR_FCREDIT_EVT, .SCR_FCREDIT_MBX_TX, .SCR_FCREDIT_RSP] [.scr] ||| writes_scrimReceived

theorem creditsToField_keeps (s : State) :
    State.keeps writes_creditsToField s (State.creditsToField s) := by
  unfold State.creditsToField
  extract_lets -merge -underBinder +onlyGivenNames y1
  extract_lets -merge -underBinder +onlyGivenNames y2
  extract_lets -merge -underBinder +onlyGivenNames s3
  have h3 : State.keeps writes_creditsToField s s3 := by
    unfold s3
    refine State.keeps.ite (fun _ => ?_) (fun _ => ?_)
    · refine State.keeps.step ?_ (scrimReceived_keeps ..) (by decide +kernel)
      exact State.keeps.refl
    · exact State.keeps.refl
  try clear_value s3
  extract_lets -merge -underBinder +onlyGivenNames s4
  have h4 : State.keeps writes_creditsToField s s4 := by
    unfold s4
    refine State.keeps.wr ?_ (by decide +kernel)
    refine State.keeps.step ?_ (giveBack_keeps ..) (by decide +kernel)
    refine State.keeps.step ?_ (giveBack_keeps ..) (by decide +kernel)
    refine State.keeps.step ?_ (giveBack_keeps ..) (by decide +kernel)
    exact h3
  try clear_value s4
  refine (State.keeps.put_scr ?_ _ (by decide +kernel))
  exact h4

/-- What `execScrimCreditReturn` may write. -/
def writes_execScrimCreditReturn : Nat :=
  writes_creditsToHost ||| writes_creditsToField

theorem execScrimCreditReturn_keeps (s : State) :
    State.answers writes_execScrimCreditReturn s (execScrimCreditReturn s) := by
  unfold execScrimCreditReturn
  extract_lets -merge -underBinder +onlyGivenNames s1
  have h1 : State.keeps writes_execScrimCreditReturn s s1 := by
    unfold s1
    refine State.keeps.ite (fun _ => ?_) (fun _ => ?_)
    · refine State.keeps.step ?_ (creditsToHost_keeps ..) (by decide +kernel)
      exact State.keeps.refl
    · exact State.keeps.refl
  try clear_value s1
  refine State.answers.next ?_
  refine State.keeps.ite (fun _ => ?_) (fun _ => ?_)
  · refine State.keeps.step ?_ (creditsToField_keeps ..) (by decide +kernel)
    exact h1
  · exact h1

/-- What `dieBReset` may write. -/
def writes_dieBReset : Nat :=
  writes [.DMA_BASE_HI_ADDR, .DMA_BASE_LO_ADDR, .DMA_COUNT_LOST, .DMA_CTRL_BP, .DMA_CTRL_EN, .DMA_CTRL_HOLDOFF,
    .DMA_CTRL_IRQ_N, .DMA_CTRL_TAP, .DMA_FLUSH_FLUSH_US, .DMA_HEAD_HEAD, .DMA_SIZE_SIZE, .DMA_STATUS_BAD_DESC,
    .DMA_STATUS_BME_OFF, .DMA_STATUS_DMA_ERR, .DMA_STATUS_ENA_REFUSED, .DMA_STATUS_FIELD_LOST,
    .DMA_STATUS_HEAD_REFUSED, .DMA_STATUS_LIMIT_STOP, .DMA_STATUS_RUN, .DMA_STATUS_TEMP_STOP, .DMA_TAIL_TAIL,
    .MBX_CTRL_POP, .MBX_CTRL_RX_LEVEL, .MBX_CTRL_SEND, .MBX_CTRL_TX_FULL, .MBX_RX_WORD, .MBX_TX_WORD,
    .PCIE_CAP_CAP_LIMIT, .PCIE_STATUS_GEN, .PCIE_STATUS_NARROW, .PCIE_STATUS_WIDTH, .PCIE_TEMP_MAX_T,
    .PCIE_TEMP_TEMP, .SCR_HCOUNT_ABSENT, .SCR_HCOUNT_PARTIAL_WR, .SCR_HCOUNT_UNSURE_WR, .SCR_HCREDIT_MBX_TX,
    .SCR_HCREDIT_REQ, .SCR_HIRQ_CAUSE, .SCR_HSTATUS_FIELD_UP, .SCR_HSTATUS_LANES_RX, .SCR_HSTATUS_LINK_EPOCH,
    .SCR_HSYNC_ZERO] [.rings, .scr]

theorem dieBReset_keeps (s : State) : State.keeps writes_dieBReset s (State.dieBReset s) := by
  have hk : ∀ k < 1024, inSet writes_dieBReset (Field.ofNat k) = false → 0x80000 ≤ (Field.ofNat k).row.off →
    False := by
    decide +kernel
  refine ⟨fun hs => { hs with regs := goodRegs.filter hs.regs _, rings := rfl }, fun hs f i hf => ?_, fun p hp => ?_⟩
  · unfold State.rd State.dieBReset
    split
    · rfl
    · dsimp only
      rw [Store.get_filter (lo := 0) (goodRegs.wf hs.regs) (fun k => !hostHalf k), if_pos]
      have h := hk f.ctorIdx f.ctorIdx_lt
      rw [Field.ofNat_ctorIdx] at h
      have hm : fieldKey f i % 1024 = f.ctorIdx := by
        have := f.ctorIdx_lt
        unfold fieldKey
        omega
      unfold hostHalf
      rw [hm, Field.ofNat_ctorIdx]
      simpa using fun hl => h hf hl
  · cases p <;> first
      | rfl
      | exact absurd hp (by decide +kernel)

/-- What `execDieBReset` may write. -/
def writes_execDieBReset : Nat :=
  writes_dieBReset

theorem execDieBReset_keeps (s : State) :
    State.answers writes_execDieBReset s (execDieBReset s) := by
  unfold execDieBReset
  refine State.answers.next ?_
  refine State.keeps.step ?_ (dieBReset_keeps ..) (by decide +kernel)
  exact State.keeps.refl

end Sys2Proof.Machine
end

