-- ==== Sys2Proof/Laws/TileReadsKeeps.lean ====
section
/-!
SUPPORT. What each operation of Machine/TileReads.lean may write.
-/

namespace Sys2Proof.Machine

set_option Elab.async false

/-- What `poisonRun` may write. -/
def writes_poisonRun : Nat :=
  writes [.FLO_COUNT1_POISON_GRAINS, .FLO_STATUS_POISON] [.bps] ||| writes_sendFault

theorem poisonRun_keeps (s : State) (n : ℕ) (k : ℕ) :
    State.keeps writes_poisonRun s (State.poisonRun s n k) := by
  unfold State.poisonRun
  refine State.keeps.step ?_ (sendFault_keeps ..) (by decide +kernel)
  refine State.keeps.wr ?_ (by decide +kernel)
  refine State.keeps.wr ?_ (by decide +kernel)
  refine State.keeps.step ?_ (updBp_keeps ..) (by decide +kernel)
  exact State.keeps.refl

/-- What `poisonGorge` may write. -/
def writes_poisonGorge : Nat :=
  writes_dropGorgeTile ||| writes_poisonRun

theorem poisonGorge_keeps (s : State) (n : ℕ) (t : ℕ) :
    State.keeps writes_poisonGorge s (State.poisonGorge s n t) := by
  unfold State.poisonGorge
  split
  · exact State.keeps.refl
  · refine State.keeps.step ?_ (dropGorgeTile_keeps ..) (by decide +kernel)
    refine State.keeps.step ?_ (poisonRun_keeps ..) (by decide +kernel)
    exact State.keeps.refl

/-- What `poisonStaging` may write. -/
def writes_poisonStaging : Nat :=
  writes [.DMA_COUNT_LOST] [.rings]

theorem poisonStaging_keeps (s : State) (place : ℕ) :
    State.keeps writes_poisonStaging s (State.poisonStaging s place) := by
  unfold State.poisonStaging
  extract_lets -merge -underBinder +onlyGivenNames y1
  extract_lets -merge -underBinder +onlyGivenNames y2
  extract_lets -merge -underBinder +onlyGivenNames y3
  extract_lets -merge -underBinder +onlyGivenNames y4
  refine State.keeps.wr ?_ (by decide +kernel)
  refine State.keeps.step ?_ (setRing_keeps ..) (by decide +kernel)
  exact State.keeps.refl

/-- What `poisonKeep` may write. -/
def writes_poisonKeep : Nat :=
  writes [.LANE_COUNT_KEPT] [.lanes]

theorem poisonKeep_keeps (s : State) (place : ℕ) :
    State.keeps writes_poisonKeep s (State.poisonKeep s place) := by
  unfold State.poisonKeep
  extract_lets -merge -underBinder +onlyGivenNames y1
  extract_lets -merge -underBinder +onlyGivenNames s2
  have h2 : State.keeps writes_poisonKeep s s2 := by
    unfold s2
    refine State.keeps.step ?_ (updLane_keeps ..) (by decide +kernel)
    exact State.keeps.refl
  try clear_value s2
  refine State.keeps.wr ?_ (by decide +kernel)
  exact h2

/-- What `poisonTile` may write. -/
def writes_poisonTile : Nat :=
  writes_poisonGorge ||| writes_plainDamaged ||| writes_mediumFail ||| writes_poisonStaging ||| writes_poisonKeep

theorem poisonTile_keeps (s : State) (t : ℕ) (cause : ℕ) :
    State.keeps writes_poisonTile s (State.poisonTile s t cause) := by
  unfold State.poisonTile
  extract_lets -merge -underBinder +onlyGivenNames y1
  extract_lets -merge -underBinder +onlyGivenNames y2
  split
  · refine State.keeps.step ?_ (poisonGorge_keeps ..) (by decide +kernel)
    exact State.keeps.refl
  · refine State.keeps.ite (fun _ => ?_) (fun _ => ?_)
    · exact State.keeps.refl
    · refine State.keeps.step ?_ (replaceTile_keeps ..) (by decide +kernel)
      refine State.keeps.step ?_ (plainDamaged_keeps ..) (by decide +kernel)
      exact State.keeps.refl
  · refine State.keeps.step ?_ (mediumFail_keeps ..) (by decide +kernel)
    exact State.keeps.refl
  · refine State.keeps.step ?_ (replaceTile_keeps ..) (by decide +kernel)
    refine State.keeps.step ?_ (poisonStaging_keeps ..) (by decide +kernel)
    exact State.keeps.refl
  · refine State.keeps.step ?_ (replaceTile_keeps ..) (by decide +kernel)
    refine State.keeps.step ?_ (poisonKeep_keeps ..) (by decide +kernel)
    exact State.keeps.refl
  · exact State.keeps.refl

/-- What `dieRead` may write. -/
def writes_dieRead : Nat :=
  writes_poisonRun ||| writes_sealFail

theorem dieRead_keeps (s : State) (t : ℕ) (ue : Bool) :
    State.keeps writes_dieRead s (State.dieRead s t ue) := by
  unfold State.dieRead
  split
  · refine State.keeps.ite (fun _ => ?_) (fun _ => ?_)
    · refine State.keeps.step ?_ (poisonRun_keeps ..) (by decide +kernel)
      refine State.keeps.step ?_ (sealFail_keeps ..) (by decide +kernel)
      exact State.keeps.refl
    · exact State.keeps.refl
  · exact State.keeps.refl

/-- What `tileRead` may write. -/
def writes_tileRead : Nat :=
  writes [.MEM_CH_CE] [] ||| writes_dieRead ||| writes_memError ||| writes_poisonTile

theorem tileRead_keeps (s : State) (t : ℕ) (r : Sys2Proof.TileRead) :
    State.keeps writes_tileRead s (State.tileRead s t r) := by
  unfold State.tileRead
  refine State.keeps.ite (fun _ => ?_) (fun _ => ?_)
  · refine State.keeps.step ?_ (dieRead_keeps ..) (by decide +kernel)
    exact State.keeps.refl
  · refine State.keeps.ite (fun _ => ?_) (fun _ => ?_)
    · exact State.keeps.refl
    · extract_lets -merge -underBinder +onlyGivenNames s1
      have h1 : State.keeps writes_tileRead s s1 := by
        unfold s1
        refine State.keeps.step ?_ (tally_keeps ..) (by decide +kernel)
        refine State.keeps.step ?_ (tally_keeps ..) (by decide +kernel)
        exact State.keeps.refl
      try clear_value s1
      extract_lets -merge -underBinder +onlyGivenNames s2
      have h2 : State.keeps writes_tileRead s s2 := by
        unfold s2
        refine State.keeps.ite (fun _ => ?_) (fun _ => ?_)
        · refine State.keeps.step ?_ (tally_keeps ..) (by decide +kernel)
          refine State.keeps.wr ?_ (by decide +kernel)
          exact h1
        · exact h1
      try clear_value s2
      extract_lets -merge -underBinder +onlyGivenNames y3
      extract_lets -merge -underBinder +onlyGivenNames s4
      have h4 : State.keeps writes_tileRead s s4 := by
        unfold s4
        refine State.keeps.ite (fun _ => ?_) (fun _ => ?_)
        · refine State.keeps.step ?_ (memError_keeps ..) (by decide +kernel)
          exact h2
        · exact h2
      try clear_value s4
      refine State.keeps.ite (fun _ => ?_) (fun _ => ?_)
      · exact h4
      · refine State.keeps.step ?_ (poisonTile_keeps ..) (by decide +kernel)
        refine State.keeps.step ?_ (sealFail_keeps ..) (by decide +kernel)
        exact h4

/-- What `execTileReadDone` may write. -/
def writes_execTileReadDone : Nat :=
  writes_tileRead

theorem execTileReadDone_keeps (t : BitVec 23) (r : Sys2Proof.TileRead) (s : State) :
    State.answers writes_execTileReadDone s (execTileReadDone t r s) := by
  unfold execTileReadDone
  refine State.answers.next ?_
  refine State.keeps.step ?_ (tileRead_keeps ..) (by decide +kernel)
  exact State.keeps.refl

/-- What `execPlainRebuildDone` may write. -/
def writes_execPlainRebuildDone : Nat :=
  writes_plainRebuilt ||| writes_tileWritten

theorem execPlainRebuildDone_keeps (t : Fin 8192) (read : Bool) (s : State) :
    State.answers writes_execPlainRebuildDone s (execPlainRebuildDone t read s) := by
  unfold execPlainRebuildDone
  extract_lets -merge -underBinder +onlyGivenNames y1
  refine State.answers.next ?_
  refine State.keeps.ite (fun _ => ?_) (fun _ => ?_)
  · extract_lets -merge -underBinder +onlyGivenNames s2
    have h2 : State.keeps writes_execPlainRebuildDone s s2 := by
      unfold s2
      refine State.keeps.step ?_ (plainRebuilt_keeps ..) (by decide +kernel)
      exact State.keeps.refl
    try clear_value s2
    refine State.keeps.ite (fun _ => ?_) (fun _ => ?_)
    · refine State.keeps.step ?_ (tileWritten_keeps ..) (by decide +kernel)
      exact h2
    · exact h2
  · exact State.keeps.refl

/-- What `serveWaiting` may write. -/
def writes_serveWaiting : Nat :=
  writes_replaceTile

theorem serveWaiting_keeps (s : State) :
    State.keeps writes_serveWaiting s (State.serveWaiting s) := by
  unfold State.serveWaiting
  refine State.keeps.forEach ?_ (fun x1 s1 h1 => ?_)
  · exact State.keeps.refl
  · try beta_reduce
    refine State.keeps.step ?_ (replaceTile_keeps ..) (by decide +kernel)
    exact h1

end Sys2Proof.Machine
end

