-- ==== Sys2Proof/Laws/StartKeeps.lean ====
section
/-!
SUPPORT. What each operation of Machine/Start.lean may write.
-/

namespace Sys2Proof.Machine

set_option Elab.async false

/-- What `clearField` may write. -/
def writes_clearField : Nat :=
  anyField ||| writes [] [.bps, .cages, .cnt, .col, .convs, .dies, .fcl, .frs, .hard, .kct, .lanes, .net, .pins,
    .plRun, .plain, .plumb, .ports, .pwms, .readers, .remoteDet, .rings, .scr, .thm, .tiles]

theorem clearField_keeps (s : State) :
    State.keeps writes_clearField s (State.clearField s) := by
  unfold State.clearField
  extract_lets -merge -underBinder +onlyGivenNames s1
  have h1 : State.keeps writes_clearField s s1 := by
    unfold s1
    refine State.keeps.forEach ?_ (fun x2 s2 h2 => ?_)
    · exact State.keeps.refl
    · try beta_reduce
      refine State.keeps.step ?_ (relayForce_keeps ..) (by decide +kernel)
      exact h2
  try clear_value s1
  extract_lets -merge -underBinder +onlyGivenNames s3
  have h3 : State.keeps writes_clearField s s3 := by
    unfold s3
    have hany : ∀ f, inSet writes_clearField f = true := fun f => inSet_left (inSet_any f)
    refine ⟨fun hc => ?_, fun _ f i hf => ?_, fun p hp => ?_⟩
    · constructor <;> first
        | rfl
        | exact goodRegs.filter (h1.canon hc).regs _
        | exact (h1.canon hc).flash
    · rw [hany f] at hf
      cases hf
    · cases p <;> first
        | exact h1.parts _ hp
        | exact absurd hp (by decide +kernel)
  try clear_value s3
  extract_lets -merge -underBinder +onlyGivenNames s4
  have h4 : State.keeps writes_clearField s s4 := by
    unfold s4
    refine State.keeps.forEach ?_ (fun x5 s5 h5 => ?_)
    · exact h3
    · try beta_reduce
      refine State.keeps.wr ?_ (by decide +kernel)
      refine State.keeps.step ?_ (setPort_keeps ..) (by decide +kernel)
      exact h5
  try clear_value s4
  extract_lets -merge -underBinder +onlyGivenNames s6
  have h6 : State.keeps writes_clearField s s6 := by
    unfold s6
    refine State.keeps.forEach ?_ (fun x7 s7 h7 => ?_)
    · exact h4
    · try beta_reduce
      extract_lets -merge -underBinder +onlyGivenNames y8
      refine State.keeps.ite (fun _ => ?_) (fun _ => ?_)
      · exact h7
      · refine State.keeps.wr ?_ (by decide +kernel)
        refine State.keeps.wr ?_ (by decide +kernel)
        refine State.keeps.step ?_ (setCage_keeps ..) (by decide +kernel)
        exact h7
  try clear_value s6
  refine State.keeps.forEach ?_ (fun x9 s9 h9 => ?_)
  · exact h6
  · try beta_reduce
    refine State.keeps.step ?_ (setRing_keeps ..) (by decide +kernel)
    exact h9

/-- What `setTime` may write. -/
def writes_setTime : Nat :=
  writes [] [.clk, .plumb]

theorem setTime_keeps (s : State) (t : ℕ) :
    State.keeps writes_setTime s (State.setTime s t) := by
  unfold State.setTime
  refine State.keeps.put_clk_plumb ?_ _ _ (by decide +kernel) (by decide +kernel)
  exact State.keeps.refl

/-- What `abortTold` may write. -/
def writes_abortTold : Nat :=
  writes [] [.thm]

theorem abortTold_keeps (s : State) :
    State.keeps writes_abortTold s (State.abortTold s) := by
  unfold State.abortTold
  refine (State.keeps.put_thm ?_ _ (by decide +kernel))
  exact State.keeps.refl

/-- What `loadFactory` may write. -/
def writes_loadFactory : Nat :=
  writes [.COL_ID_HI_ID_HI, .COL_ID_LO_ID_LO, .EMG_FLOOR_N, .MON_CAL_GAIN_GAIN, .MON_CAL_OFS_OFS,
    .THM_FLASH_OFS_FLASH_DELTA, .THM_SHUT_ABORTED, .THM_SHUT_LAST_SHUT, .THM_SHUT_RESTARTS,
    .THM_SHUT_SHUT_TOTAL] [] ||| writes_newNonce ||| writes_abortTold ||| writes_setTime

theorem loadFactory_keeps (s : State) (last : Bool) :
    State.keeps writes_loadFactory s (State.loadFactory s last) := by
  unfold State.loadFactory
  extract_lets -merge -underBinder +onlyGivenNames y1
  extract_lets -merge -underBinder +onlyGivenNames s2
  have h2 : State.keeps writes_loadFactory s s2 := by
    unfold s2
    refine State.keeps.wr ?_ (by decide +kernel)
    refine State.keeps.wr ?_ (by decide +kernel)
    refine State.keeps.step ?_ (wr2_keeps ..) (by decide +kernel)
    exact State.keeps.refl
  try clear_value s2
  extract_lets -merge -underBinder +onlyGivenNames s3
  have h3 : State.keeps writes_loadFactory s s3 := by
    unfold s3
    refine State.keeps.forEach ?_ (fun x4 s4 h4 => ?_)
    · exact h2
    · try beta_reduce
      refine State.keeps.wr ?_ (by decide +kernel)
      exact h4
  try clear_value s3
  extract_lets -merge -underBinder +onlyGivenNames s5
  have h5 : State.keeps writes_loadFactory s s5 := by
    unfold s5
    refine State.keeps.forEach ?_ (fun x6 s6 h6 => ?_)
    · exact h3
    · try beta_reduce
      extract_lets -merge -underBinder +onlyGivenNames y7
      refine State.keeps.wr ?_ (by decide +kernel)
      refine State.keeps.wr ?_ (by decide +kernel)
      exact h6
  try clear_value s5
  extract_lets -merge -underBinder +onlyGivenNames s8
  have h8 : State.keeps writes_loadFactory s s8 := by
    unfold s8
    refine State.keeps.wr ?_ (by decide +kernel)
    refine State.keeps.wr ?_ (by decide +kernel)
    refine State.keeps.wr ?_ (by decide +kernel)
    exact h5
  try clear_value s8
  refine State.keeps.step ?_ (newNonce_keeps ..) (by decide +kernel)
  refine State.keeps.step ?_ (abortTold_keeps ..) (by decide +kernel)
  refine State.keeps.step ?_ (setTime_keeps ..) (by decide +kernel)
  exact h8

/-- What `coatField` may write. -/
def writes_coatField : Nat :=
  anyField ||| writes [] [.hard]

theorem coatField_keeps (s : State) (w : ℕ) (x : Field × ℕ) :
    State.keeps writes_coatField s (State.coatField s w x) := by
  unfold State.coatField
  extract_lets -merge -underBinder +onlyGivenNames y1
  extract_lets -merge -underBinder +onlyGivenNames y2
  refine State.keeps.ite (fun _ => ?_) (fun _ => ?_)
  · exact State.keeps.refl
  · split
    · refine State.keeps.loadTo ?_ (inSet_left (inSet_any _)) (by decide +kernel)
      exact State.keeps.refl
    · refine State.keeps.loadTo ?_ (inSet_left (inSet_any _)) (by decide +kernel)
      exact State.keeps.refl
    · refine State.keeps.loadTo ?_ (inSet_left (inSet_any _)) (by decide +kernel)
      exact State.keeps.refl
    · refine State.keeps.ite (fun _ => ?_) (fun _ => ?_)
      · refine State.keeps.wr ?_ (inSet_left (inSet_any _))
        exact State.keeps.refl
      · exact State.keeps.refl

/-- What `storeRecord` may write. -/
def writes_storeRecord : Nat :=
  anyField ||| writes [] [.bps, .cages, .cnt, .col, .convs, .fcl, .free, .frs, .hard, .kct, .lanes, .net, .plain,
    .plumb, .ports, .pwms, .rings, .scr, .tiles]

theorem storeRecord_keeps (s : State) (r : RegRecord) :
    State.keeps writes_storeRecord s (State.storeRecord s r) := by
  unfold State.storeRecord
  extract_lets -merge -underBinder +onlyGivenNames s1
  have h1 : State.keeps writes_storeRecord s s1 := by
    unfold s1
    split
    · refine State.keeps.ite (fun _ => ?_) (fun _ => ?_)
      · refine State.keeps.wr ?_ (inSet_left (inSet_any _))
        exact State.keeps.refl
      · exact State.keeps.refl
    · exact State.keeps.refl
  try clear_value s1
  refine State.keeps.ite (fun _ => ?_) (fun _ => ?_)
  · extract_lets -merge -underBinder +onlyGivenNames y2
    refine State.keeps.foldl ?_ (fun s3 x3 h3 => ?_)
    · exact h1
    · try beta_reduce
      refine State.keeps.step ?_ (coatField_keeps ..) (by decide +kernel)
      exact h3
  · refine State.keeps.step ?_ (writeReg_keeps ..) (by decide +kernel)
    exact h1

/-- What `capLimits` may write. -/
def writes_capLimits : Nat :=
  writes [.THM_LIM1_RESTART, .THM_LIM_TRIP, .THM_LIM_WARN] [.hard] ||| writes_writeFwWarn |||
    writes_writeBackoff ||| writes_writeTarget ||| writes_writeFwSlew ||| writes_writeFwCeil |||
    writes_writePhaseSlew ||| writes_writeDlySlew ||| writes_writeLimit

theorem capLimits_keeps (s : State) :
    State.keeps writes_capLimits s (State.capLimits s) := by
  unfold State.capLimits
  extract_lets -merge -underBinder +onlyGivenNames s1
  have h1 : State.keeps writes_capLimits s s1 := by
    unfold s1
    refine State.keeps.forEach ?_ (fun x2 s2 h2 => ?_)
    · exact State.keeps.refl
    · try beta_reduce
      extract_lets -merge -underBinder +onlyGivenNames y3
      extract_lets -merge -underBinder +onlyGivenNames s4
      have h4 : State.keeps writes_capLimits s s4 := by
        unfold s4
        refine State.keeps.step ?_ (load_keeps ..) (by decide +kernel)
        refine State.keeps.step ?_ (load_keeps ..) (by decide +kernel)
        refine State.keeps.step ?_ (load_keeps ..) (by decide +kernel)
        exact h2
      try clear_value s4
      refine State.keeps.step ?_ (writeFwWarn_keeps ..) (by decide +kernel)
      exact h4
  try clear_value s1
  extract_lets -merge -underBinder +onlyGivenNames s5
  have h5 : State.keeps writes_capLimits s s5 := by
    unfold s5
    refine State.keeps.forEach ?_ (fun x6 s6 h6 => ?_)
    · exact h1
    · try beta_reduce
      refine State.keeps.step ?_ (writeBackoff_keeps ..) (by decide +kernel)
      refine State.keeps.step ?_ (writeTarget_keeps ..) (by decide +kernel)
      refine State.keeps.step ?_ (writeFwSlew_keeps ..) (by decide +kernel)
      refine State.keeps.step ?_ (writeFwCeil_keeps ..) (by decide +kernel)
      exact h6
  try clear_value s5
  extract_lets -merge -underBinder +onlyGivenNames s7
  have h7 : State.keeps writes_capLimits s s7 := by
    unfold s7
    refine State.keeps.step ?_ (writePhaseSlew_keeps ..) (by decide +kernel)
    refine State.keeps.step ?_ (writeDlySlew_keeps ..) (by decide +kernel)
    exact h5
  try clear_value s7
  refine State.keeps.forEach ?_ (fun x8 s8 h8 => ?_)
  · exact h7
  · try beta_reduce
    extract_lets -merge -underBinder +onlyGivenNames s9
    have h9 : State.keeps writes_capLimits s s9 := by
      unfold s9
      refine State.keeps.step ?_ (writeLimit_keeps ..) (by decide +kernel)
      exact h8
    try clear_value s9
    refine State.keeps.ite (fun _ => ?_) (fun _ => ?_)
    · refine State.keeps.step ?_ (writeLimit_keeps ..) (by decide +kernel)
      refine State.keeps.step ?_ (writeLimit_keeps ..) (by decide +kernel)
      exact h9
    · exact h9

/-- What `takeCoat` may write. -/
def writes_takeCoat : Nat :=
  writes [.EMG_FLOOR_V] [.ports] ||| writes_pwmReview ||| writes_showHeld

theorem takeCoat_keeps (s : State) :
    State.keeps writes_takeCoat s (State.takeCoat s) := by
  unfold State.takeCoat
  extract_lets -merge -underBinder +onlyGivenNames s1
  have h1 : State.keeps writes_takeCoat s s1 := by
    unfold s1
    refine State.keeps.forEach ?_ (fun x2 s2 h2 => ?_)
    · exact State.keeps.refl
    · try beta_reduce
      refine State.keeps.step ?_ (updBp_keeps ..) (by decide +kernel)
      exact h2
  try clear_value s1
  extract_lets -merge -underBinder +onlyGivenNames s3
  have h3 : State.keeps writes_takeCoat s s3 := by
    unfold s3
    refine State.keeps.forEach ?_ (fun x4 s4 h4 => ?_)
    · exact h1
    · try beta_reduce
      refine State.keeps.wr ?_ (by decide +kernel)
      refine State.keeps.step ?_ (updPort_keeps ..) (by decide +kernel)
      exact h4
  try clear_value s3
  extract_lets -merge -underBinder +onlyGivenNames s5
  have h5 : State.keeps writes_takeCoat s s5 := by
    unfold s5
    refine State.keeps.forEach ?_ (fun x6 s6 h6 => ?_)
    · exact h3
    · try beta_reduce
      refine State.keeps.step ?_ (pwmReview_keeps ..) (by decide +kernel)
      refine State.keeps.step ?_ (updPwm_keeps ..) (by decide +kernel)
      exact h6
  try clear_value s5
  refine State.keeps.step ?_ (showHeld_keeps ..) (by decide +kernel)
  exact h5

/-- What `storeCoef` may write. -/
def writes_storeCoef : Nat :=
  writes [] [.bps] ||| writes_bankChecked

theorem storeCoef_keeps (s : State) (bs : List Sys2Proof.Byte) :
    State.keeps writes_storeCoef s (State.storeCoef s bs) := by
  unfold State.storeCoef
  extract_lets -merge -underBinder +onlyGivenNames y1
  extract_lets -merge -underBinder +onlyGivenNames s2
  have h2 : State.keeps writes_storeCoef s s2 := by
    unfold s2
    refine State.keeps.foldl ?_ (fun s3 x3 h3 => ?_)
    · exact State.keeps.refl
    · try beta_reduce
      refine State.keeps.step ?_ (updBp_keeps ..) (by decide +kernel)
      exact h3
  try clear_value s2
  extract_lets -merge -underBinder +onlyGivenNames y4
  refine State.keeps.forEach ?_ (fun x5 s5 h5 => ?_)
  · exact h2
  · try beta_reduce
    refine State.keeps.ite (fun _ => ?_) (fun _ => ?_)
    · refine State.keeps.step ?_ (bankChecked_keeps ..) (by decide +kernel)
      refine State.keeps.step ?_ (bankChecked_keeps ..) (by decide +kernel)
      exact h5
    · exact h5

/-- What `storeAuth` may write. -/
def writes_storeAuth : Nat :=
  writes [.FRS_AUTH_ID_ID] [.frs, .hard]

theorem storeAuth_keeps (s : State) (bs : List Sys2Proof.Byte) :
    State.keeps writes_storeAuth s (State.storeAuth s bs) := by
  unfold State.storeAuth
  extract_lets -merge -underBinder +onlyGivenNames y1
  extract_lets -merge -underBinder +onlyGivenNames s2
  have h2 : State.keeps writes_storeAuth s s2 := by
    unfold s2
    refine State.keeps.foldl ?_ (fun s3 x3 h3 => ?_)
    · exact State.keeps.refl
    · try beta_reduce
      refine State.keeps.step ?_ (load_keeps ..) (by decide +kernel)
      exact h3
  try clear_value s2
  refine (State.keeps.put_frs ?_ _ (by decide +kernel))
  exact h2

/-- What `loadImage` may write. -/
def writes_loadImage : Nat :=
  anyField ||| writes [] [.bps, .cages, .cnt, .col, .convs, .fcl, .free, .frs, .hard, .kct, .lanes, .net, .plain,
    .plumb, .ports, .pwms, .rings, .scr, .tiles]

theorem loadImage_keeps (s : State) (b : Bool) (c : Checked) :
    State.keeps writes_loadImage s (State.loadImage s b c) := by
  unfold State.loadImage
  extract_lets -merge -underBinder +onlyGivenNames s1
  have h1 : State.keeps writes_loadImage s s1 := by
    unfold s1
    refine State.keeps.foldl ?_ (fun s2 x2 h2 => ?_)
    · exact State.keeps.refl
    · try beta_reduce
      refine State.keeps.step ?_ (storeRecord_keeps ..) (by decide +kernel)
      exact h2
  try clear_value s1
  extract_lets -merge -underBinder +onlyGivenNames s3
  have h3 : State.keeps writes_loadImage s s3 := by
    unfold s3
    refine State.keeps.step ?_ (takeCoat_keeps ..) (by decide +kernel)
    refine State.keeps.step ?_ (capLimits_keeps ..) (by decide +kernel)
    refine State.keeps.step ?_ (storeAuth_keeps ..) (by decide +kernel)
    refine State.keeps.step ?_ (storeCoef_keeps ..) (by decide +kernel)
    exact h1
  try clear_value s3
  extract_lets -merge -underBinder +onlyGivenNames y4
  extract_lets -merge -underBinder +onlyGivenNames y5
  extract_lets -merge -underBinder +onlyGivenNames s6
  have h6 : State.keeps writes_loadImage s s6 := by
    unfold s6
    refine (State.keeps.put_kct ?_ _ (by decide +kernel) (fun _ hw => ⟨hw.flash, wf_putAll rfl _ _ _, hw.updHead⟩))
    exact h3
  try clear_value s6
  extract_lets -merge -underBinder +onlyGivenNames s7
  have h7 : State.keeps writes_loadImage s s7 := by
    unfold s7
    refine State.keeps.wr ?_ (by decide +kernel)
    refine State.keeps.wr ?_ (by decide +kernel)
    refine State.keeps.wr ?_ (by decide +kernel)
    refine State.keeps.wr ?_ (by decide +kernel)
    exact h6
  try clear_value s7
  extract_lets -merge -underBinder +onlyGivenNames s8
  have h8 : State.keeps writes_loadImage s s8 := by
    unfold s8
    refine State.keeps.wr ?_ (by decide +kernel)
    refine State.keeps.wr ?_ (by decide +kernel)
    exact h7
  try clear_value s8
  refine State.keeps.forEach ?_ (fun x9 s9 h9 => ?_)
  · exact h8
  · try beta_reduce
    refine State.keeps.ite (fun _ => ?_) (fun _ => ?_)
    · refine State.keeps.step ?_ (laneTrain_keeps ..) (by decide +kernel)
      exact h9
    · exact h9

/-- What `chooseSlot` may write. -/
def writes_chooseSlot : Nat :=
  writes [.KCT_STATUS_FALLBACK] [] ||| writes_showSlot ||| writes_sendFault

theorem chooseSlot_keeps (s : State) (e : Sys2Proof.StartEnv) :
    State.keepsP writes_chooseSlot s (State.chooseSlot s e) := by
  unfold State.chooseSlot
  extract_lets -merge -underBinder +onlyGivenNames y1
  extract_lets -merge -underBinder +onlyGivenNames y2
  extract_lets -merge -underBinder +onlyGivenNames y3
  extract_lets -merge -underBinder +onlyGivenNames s4
  have h4 : State.keeps writes_chooseSlot s s4 := by
    unfold s4
    refine State.keeps.step ?_ (showSlot_keeps ..) (by decide +kernel)
    exact State.keeps.refl
  try clear_value s4
  refine State.keepsP.ite (fun _ => ?_) (fun _ => ?_)
  · refine State.keepsP.mk ?_
    exact h4
  · extract_lets -merge -underBinder +onlyGivenNames y5
    extract_lets -merge -underBinder +onlyGivenNames s6
    have h6 : State.keeps writes_chooseSlot s s6 := by
      unfold s6
      refine State.keeps.step ?_ (showSlot_keeps ..) (by decide +kernel)
      exact h4
    try clear_value s6
    refine State.keepsP.ite (fun _ => ?_) (fun _ => ?_)
    · refine State.keepsP.mk ?_
      refine State.keeps.step ?_ (sendFault_keeps ..) (by decide +kernel)
      refine State.keeps.wr ?_ (by decide +kernel)
      exact h6
    · refine State.keepsP.mk ?_
      exact h6

/-- What `fillMemory` may write. -/
def writes_fillMemory : Nat :=
  writes [.GRG_FREE_FREE, .GRG_OWNED_OWNED] [.plain, .tiles]

theorem fillMemory_keeps (s : State) (mask : List Sys2Proof.Byte) :
    State.keeps writes_fillMemory s (State.fillMemory s mask) := by
  unfold State.fillMemory
  refine State.keeps.wr ?_ (by decide +kernel)
  refine State.keeps.wr ?_ (by decide +kernel)
  refine State.keeps.put_tiles_plain ?_ _ _ (by decide +kernel) (by decide +kernel)
  exact State.keeps.refl

/-- What `startRecord` may write. -/
def writes_startRecord : Nat :=
  writes [.FRS_STATUS_CLEARING] [] ||| writes_recordFirst

theorem startRecord_keeps (s : State) (cause : ℕ) (slot : ℕ) :
    State.keeps writes_startRecord s (State.startRecord s cause slot) := by
  unfold State.startRecord
  extract_lets -merge -underBinder +onlyGivenNames y1
  extract_lets -merge -underBinder +onlyGivenNames y2
  extract_lets -merge -underBinder +onlyGivenNames s3
  have h3 : State.keeps writes_startRecord s s3 := by
    unfold s3
    refine (State.keeps.put_frs ?_ _ (by decide +kernel))
    exact State.keeps.refl
  try clear_value s3
  extract_lets -merge -underBinder +onlyGivenNames s4
  have h4 : State.keeps writes_startRecord s s4 := by
    unfold s4
    refine State.keeps.step ?_ (recordFirst_keeps ..) (by decide +kernel)
    exact h3
  try clear_value s4
  refine State.keeps.ite (fun _ => ?_) (fun _ => ?_)
  · refine State.keeps.wr ?_ (by decide +kernel)
    exact h4
  · exact h4

/-- What `holdUpTest` may write. -/
def writes_holdUpTest : Nat :=
  writes [] [.fcl] ||| writes_sendFault

theorem holdUpTest_keeps (s : State) (ok : Bool) :
    State.keeps writes_holdUpTest s (State.holdUpTest s ok) := by
  unfold State.holdUpTest
  refine State.keeps.ite (fun _ => ?_) (fun _ => ?_)
  · exact State.keeps.refl
  · refine State.keeps.forEach ?_ (fun x1 s1 h1 => ?_)
    · refine (State.keeps.put_fcl ?_ _ (by decide +kernel))
      exact State.keeps.refl
    · try beta_reduce
      refine State.keeps.step ?_ (sendFault_keeps ..) (by decide +kernel)
      exact h1

/-- What `releaseCores` may write. -/
def writes_releaseCores : Nat :=
  writes [.PCR_CTRL_RUN] [.kct]

theorem releaseCores_keeps (s : State) :
    State.keeps writes_releaseCores s (State.releaseCores s) := by
  unfold State.releaseCores
  extract_lets -merge -underBinder +onlyGivenNames s1
  have h1 : State.keeps writes_releaseCores s s1 := by
    unfold s1
    refine State.keeps.wr ?_ (by decide +kernel)
    exact State.keeps.refl
  try clear_value s1
  refine (State.keeps.put_kct ?_ _ (by decide +kernel) (fun _ hw => ⟨hw.flash, hw.localMem, hw.updHead⟩))
  exact h1

/-- What `memoryTrained` may write. -/
def writes_memoryTrained : Nat :=
  writes [.MEM_CH_TRAINED] []

theorem memoryTrained_keeps (s : State) (mask : ℕ) :
    State.keeps writes_memoryTrained s (State.memoryTrained s mask) := by
  unfold State.memoryTrained
  refine State.keeps.forEach ?_ (fun x1 s1 h1 => ?_)
  · exact State.keeps.refl
  · try beta_reduce
    refine State.keeps.wr ?_ (by decide +kernel)
    exact h1

/-- What `refsReady` may write. -/
def writes_refsReady : Nat :=
  writes_writeRefEn

theorem refsReady_keeps (s : State) :
    State.keeps writes_refsReady s (State.refsReady s) := by
  unfold State.refsReady
  refine State.keeps.forEach ?_ (fun x1 s1 h1 => ?_)
  · exact State.keeps.refl
  · try beta_reduce
    refine State.keeps.wr ?_ (by decide +kernel)
    refine State.keeps.step ?_ (writeRefEn_keeps ..) (by decide +kernel)
    exact h1

/-- What `calibrateMonitors` may write. -/
def writes_calibrateMonitors : Nat :=
  writes_writeScanEn ||| writes_monCalDone

theorem calibrateMonitors_keeps (s : State) (e : Sys2Proof.StartEnv) :
    State.keeps writes_calibrateMonitors s (State.calibrateMonitors s e) := by
  unfold State.calibrateMonitors
  refine State.keeps.forEach ?_ (fun x1 s1 h1 => ?_)
  · exact State.keeps.refl
  · try beta_reduce
    refine State.keeps.step ?_ (writeScanEn_keeps ..) (by decide +kernel)
    refine State.keeps.step ?_ (monCalDone_keeps ..) (by decide +kernel)
    exact h1

/-- What `startPort` may write. -/
def writes_startPort : Nat :=
  writes_startLocking ||| writes_calDone ||| writes_lockDone ||| writes_writePilotMode

theorem startPort_keeps (s : State) (e : Sys2Proof.StartEnv) (p : ℕ) :
    State.keeps writes_startPort s (State.startPort s e p) := by
  unfold State.startPort
  extract_lets -merge -underBinder +onlyGivenNames y1
  extract_lets -merge -underBinder +onlyGivenNames s2
  have h2 : State.keeps writes_startPort s s2 := by
    unfold s2
    refine State.keeps.wr ?_ (by decide +kernel)
    exact State.keeps.refl
  try clear_value s2
  extract_lets -merge -underBinder +onlyGivenNames s3
  have h3 : State.keeps writes_startPort s s3 := by
    unfold s3
    refine State.keeps.step ?_ (startLocking_keeps ..) (by decide +kernel)
    exact h2
  try clear_value s3
  extract_lets -merge -underBinder +onlyGivenNames s4
  have h4 : State.keeps writes_startPort s s4 := by
    unfold s4
    refine State.keeps.ite (fun _ => ?_) (fun _ => ?_)
    · exact h2
    · refine State.keeps.ite (fun _ => ?_) (fun _ => ?_)
      · refine State.keeps.step ?_ (calDone_keeps ..) (by decide +kernel)
        refine State.keeps.step ?_ (lockDone_keeps ..) (by decide +kernel)
        exact h3
      · refine State.keeps.step ?_ (lockTimeout_keeps ..) (by decide +kernel)
        exact h3
  try clear_value s4
  refine State.keeps.step ?_ (writePilotMode_keeps ..) (by decide +kernel)
  exact h4

/-- What `applyDeclarations` may write. -/
def writes_applyDeclarations : Nat :=
  writes [.MON_MODE_SVC] [] ||| writes_checkDone ||| writes_bpWriteCtrl ||| writes_releaseCores

theorem applyDeclarations_keeps (s : State) (declared : List ℕ) :
    State.keeps writes_applyDeclarations s (State.applyDeclarations s declared) := by
  unfold State.applyDeclarations
  extract_lets -merge -underBinder +onlyGivenNames s1
  have h1 : State.keeps writes_applyDeclarations s s1 := by
    unfold s1
    refine State.keeps.foldl ?_ (fun s2 x2 h2 => ?_)
    · exact State.keeps.refl
    · try beta_reduce
      refine State.keeps.step ?_ (checkDone_keeps ..) (by decide +kernel)
      refine State.keeps.step ?_ (bpWriteCtrl_keeps ..) (by decide +kernel)
      exact h2
  try clear_value s1
  refine State.keeps.step ?_ (releaseCores_keeps ..) (by decide +kernel)
  refine State.keeps.wr ?_ (by decide +kernel)
  refine (State.keeps.put_kct ?_ _ (by decide +kernel) (fun _ hw => ⟨hw.flash, hw.localMem, hw.updHead⟩))
  exact h1

/-- What `runSteps` may write. -/
def writes_runSteps : Nat :=
  writes [.KCT_STATUS_STATE, .PLN_STATUS_LOADED] [] ||| writes_startRecord ||| writes_fillMemory |||
    writes_holdUpTest ||| writes_memoryTrained ||| writes_refsReady ||| writes_calibrateMonitors |||
    writes_startPort ||| writes_applyDeclarations

theorem runSteps_keeps (s : State) (e : Sys2Proof.StartEnv) (cause : ℕ) (b : Bool) (c : Checked) :
    State.keeps writes_runSteps s (State.runSteps s e cause b c) := by
  unfold State.runSteps
  extract_lets -merge -underBinder +onlyGivenNames s1
  have h1 : State.keeps writes_runSteps s s1 := by
    unfold s1
    refine State.keeps.step ?_ (startRecord_keeps ..) (by decide +kernel)
    refine State.keeps.step ?_ (fillMemory_keeps ..) (by decide +kernel)
    refine State.keeps.step ?_ (holdUpTest_keeps ..) (by decide +kernel)
    refine State.keeps.step ?_ (memoryTrained_keeps ..) (by decide +kernel)
    refine State.keeps.step ?_ (refsReady_keeps ..) (by decide +kernel)
    exact State.keeps.refl
  try clear_value s1
  refine State.keeps.ite (fun _ => ?_) (fun _ => ?_)
  · refine State.keeps.step ?_ (releaseCores_keeps ..) (by decide +kernel)
    refine State.keeps.step ?_ (sendFault_keeps ..) (by decide +kernel)
    refine State.keeps.wr ?_ (by decide +kernel)
    refine (State.keeps.put_kct ?_ _ (by decide +kernel) (fun _ hw => ⟨hw.flash, hw.localMem, hw.updHead⟩))
    exact h1
  · extract_lets -merge -underBinder +onlyGivenNames s2
    have h2 : State.keeps writes_runSteps s s2 := by
      unfold s2
      refine State.keeps.step ?_ (calibrateMonitors_keeps ..) (by decide +kernel)
      refine State.keeps.wr ?_ (by decide +kernel)
      exact h1
    try clear_value s2
    extract_lets -merge -underBinder +onlyGivenNames s3
    have h3 : State.keeps writes_runSteps s s3 := by
      unfold s3
      refine State.keeps.forEach ?_ (fun x4 s4 h4 => ?_)
      · exact h2
      · try beta_reduce
        refine State.keeps.step ?_ (startPort_keeps ..) (by decide +kernel)
        exact h4
    try clear_value s3
    refine State.keeps.wr ?_ (by decide +kernel)
    refine State.keeps.step ?_ (applyDeclarations_keeps ..) (by decide +kernel)
    exact h3

/-- What `startUp` may write. -/
def writes_startUp : Nat :=
  anyField ||| writes [] [.bps, .cages, .clk, .cnt, .col, .convs, .fcl, .free, .frs, .hard, .kct, .lanes, .net,
    .plain, .plumb, .ports, .pwms, .rings, .scr, .thm, .tiles]

theorem startUp_keeps (s : State) (e : Sys2Proof.StartEnv) (cause : ℕ) :
    State.keeps writes_startUp s (State.startUp s e cause) := by
  unfold State.startUp
  extract_lets -merge -underBinder +onlyGivenNames y1
  extract_lets -merge -underBinder +onlyGivenNames s2
  have h2 : State.keeps writes_startUp s s2 := by
    unfold s2
    refine (State.keeps.put_kct ?_ _ (by decide +kernel) (fun _ hw => ⟨hw.flash, hw.localMem, hw.updHead⟩))
    exact State.keeps.refl
  try clear_value s2
  extract_lets -merge -underBinder +onlyGivenNames s3
  have h3 : State.keeps writes_startUp s s3 := by
    unfold s3
    refine State.keeps.step ?_ (loadFactory_keeps ..) (by decide +kernel)
    exact h2
  try clear_value s3
  extract_lets -merge -underBinder +onlyGivenNames s4
  have h4 : State.keepsP writes_startUp s s4 := by
    unfold s4
    refine State.keepsP.step ?_ (chooseSlot_keeps ..) (by decide +kernel)
    exact h3
  try clear_value s4
  split
  · refine State.keeps.step ?_ (startRecord_keeps ..) (by decide +kernel)
    refine State.keeps.wr ?_ (by decide +kernel)
    refine State.keepsP.fst ?_
    exact h4
  · refine State.keeps.step ?_ (runSteps_keeps ..) (by decide +kernel)
    refine State.keeps.step ?_ (loadImage_keeps ..) (by decide +kernel)
    refine State.keepsP.fst ?_
    exact h4

/-- What `execPowerGood` may write. -/
def writes_execPowerGood : Nat :=
  anyField ||| writes [] [.bps, .cages, .clk, .cnt, .col, .convs, .dies, .fcl, .free, .frs, .hard, .kct, .lanes,
    .net, .pins, .plRun, .plain, .plumb, .ports, .pwms, .readers, .remoteDet, .rings, .scr, .thm, .tiles]

theorem execPowerGood_keeps (e : Sys2Proof.StartEnv) (s : State) :
    State.answers writes_execPowerGood s (execPowerGood e s) := by
  unfold execPowerGood
  refine State.answers.next ?_
  refine State.keeps.ite (fun _ => ?_) (fun _ => ?_)
  · exact State.keeps.refl
  · refine State.keeps.step ?_ (startUp_keeps ..) (by decide +kernel)
    refine State.keeps.step ?_ (clearField_keeps ..) (by decide +kernel)
    exact State.keeps.refl

/-- What `execPowerFail` may write. -/
def writes_execPowerFail : Nat :=
  anyField ||| writes [] [.bps, .cages, .cnt, .col, .convs, .dies, .fcl, .frs, .hard, .kct, .lanes, .net, .pins,
    .plRun, .plain, .plumb, .ports, .pwms, .readers, .remoteDet, .rings, .scr, .thm, .tiles]

theorem execPowerFail_keeps (s : State) :
    State.answers writes_execPowerFail s (execPowerFail s) := by
  unfold execPowerFail
  refine State.answers.next ?_
  refine State.keeps.ite (fun _ => ?_) (fun _ => ?_)
  · extract_lets -merge -underBinder +onlyGivenNames s1
    have h1 : State.keeps writes_execPowerFail s s1 := by
      unfold s1
      refine State.keeps.step ?_ (clearField_keeps ..) (by decide +kernel)
      exact State.keeps.refl
    try clear_value s1
    refine State.keeps.put_thm_kct ?_ _ _ (by decide +kernel) (by decide +kernel) (fun _ hw => ⟨hw.flash,
      hw.localMem, hw.updHead⟩)
    exact h1
  · exact State.keeps.refl

/-- What `execKctRestart` may write. -/
def writes_execKctRestart : Nat :=
  anyField ||| writes [] [.bps, .cages, .clk, .cnt, .col, .convs, .dies, .fcl, .free, .frs, .hard, .kct, .lanes,
    .net, .pins, .plRun, .plain, .plumb, .ports, .pwms, .readers, .remoteDet, .rings, .scr, .thm, .tiles]

theorem execKctRestart_keeps (who : Sys2Proof.Requester) (e : Sys2Proof.StartEnv) (s : State) :
    State.answers writes_execKctRestart s (execKctRestart who e s) := by
  unfold execKctRestart
  extract_lets -merge -underBinder +onlyGivenNames y1
  refine State.answers.next ?_
  refine via_keeps (by decide +kernel) ?_ (fun s2 h2 => ?_)
  · exact State.keeps.refl
  · refine State.keeps.ite (fun _ => ?_) (fun _ => ?_)
    · refine State.keeps.step ?_ (startUp_keeps ..) (by decide +kernel)
      refine State.keeps.step ?_ (clearField_keeps ..) (by decide +kernel)
      exact h2
    · exact h2

/-- What `execDeclRetry` may write. -/
def writes_execDeclRetry : Nat :=
  writes [] [.kct] ||| writes_bpApply

theorem execDeclRetry_keeps (s : State) :
    State.answers writes_execDeclRetry s (execDeclRetry s) := by
  unfold execDeclRetry
  extract_lets -merge -underBinder +onlyGivenNames y1
  extract_lets -merge -underBinder +onlyGivenNames y2
  refine State.answers.next ?_
  refine State.keeps.foldl ?_ (fun s3 x3 h3 => ?_)
  · refine (State.keeps.put_kct ?_ _ (by decide +kernel) (fun _ hw => ⟨hw.flash, hw.localMem, hw.updHead⟩))
    exact State.keeps.refl
  · try beta_reduce
    refine State.keeps.step ?_ (bpApply_keeps ..) (by decide +kernel)
    exact h3

/-- What `enterHold` may write. -/
def writes_enterHold : Nat :=
  anyField ||| writes [] [.bps, .cages, .cnt, .col, .convs, .dies, .fcl, .frs, .hard, .kct, .lanes, .net, .pins,
    .plRun, .plain, .plumb, .ports, .pwms, .readers, .remoteDet, .rings, .scr, .thm, .tiles]

theorem enterHold_keeps (s : State) (aborted : Bool) :
    State.keeps writes_enterHold s (State.enterHold s aborted) := by
  unfold State.enterHold
  extract_lets -merge -underBinder +onlyGivenNames y1
  extract_lets -merge -underBinder +onlyGivenNames s2
  have h2 : State.keeps writes_enterHold s s2 := by
    unfold s2
    refine State.keeps.step ?_ (clearField_keeps ..) (by decide +kernel)
    exact State.keeps.refl
  try clear_value s2
  refine State.keeps.put_thm_kct ?_ _ _ (by decide +kernel) (by decide +kernel) (fun _ hw => ⟨hw.flash,
    hw.localMem, hw.updHead⟩)
  exact h2

/-- What `execThermalHold` may write. -/
def writes_execThermalHold : Nat :=
  anyField ||| writes [] [.bps, .cages, .cnt, .col, .convs, .dies, .fcl, .frs, .hard, .kct, .lanes, .net, .pins,
    .plRun, .plain, .plumb, .ports, .pwms, .readers, .remoteDet, .rings, .scr, .thm, .tiles]

theorem execThermalHold_keeps (running : Bool) (s : State) :
    State.answers writes_execThermalHold s (execThermalHold running s) := by
  unfold execThermalHold
  extract_lets -merge -underBinder +onlyGivenNames y1
  refine State.answers.next ?_
  refine State.keeps.ite (fun _ => ?_) (fun _ => ?_)
  · exact State.keeps.refl
  · refine State.keeps.step ?_ (enterHold_keeps ..) (by decide +kernel)
    exact State.keeps.refl

/-- What `execThermalRestart` may write. -/
def writes_execThermalRestart : Nat :=
  anyField ||| writes [] [.bps, .cages, .clk, .cnt, .col, .convs, .dies, .fcl, .free, .frs, .hard, .kct, .lanes,
    .net, .pins, .plRun, .plain, .plumb, .ports, .pwms, .readers, .remoteDet, .rings, .scr, .thm, .tiles]

theorem execThermalRestart_keeps (e : Sys2Proof.StartEnv) (s : State) :
    State.answers writes_execThermalRestart s (execThermalRestart e s) := by
  unfold execThermalRestart
  refine State.answers.next ?_
  refine State.keeps.ite (fun _ => ?_) (fun _ => ?_)
  · exact State.keeps.refl
  · extract_lets -merge -underBinder +onlyGivenNames s1
    have h1 : State.keeps writes_execThermalRestart s s1 := by
      unfold s1
      refine State.keeps.step ?_ (clearField_keeps ..) (by decide +kernel)
      exact State.keeps.refl
    try clear_value s1
    refine State.keeps.step ?_ (startUp_keeps ..) (by decide +kernel)
    refine (State.keeps.put_thm ?_ _ (by decide +kernel))
    exact h1

end Sys2Proof.Machine
end

