-- ==== Sys2Proof/Laws/TickKeeps.lean ====
section
/-!
SUPPORT. What each operation of Machine/Tick.lean may write.
-/

namespace Sys2Proof.Machine

set_option Elab.async false

/-- What `keepAlive` may write. -/
def writes_keepAlive : Nat :=
  writes_tally

theorem keepAlive_keeps (s : State) (k : ℕ) :
    State.keeps writes_keepAlive s (State.keepAlive s k) := by
  unfold State.keepAlive
  refine State.keeps.ite (fun _ => ?_) (fun _ => ?_)
  · exact State.keeps.refl
  · extract_lets -merge -underBinder +onlyGivenNames s1
    have h1 : State.keeps writes_keepAlive s s1 := by
      unfold s1
      refine State.keeps.ite (fun _ => ?_) (fun _ => ?_)
      · refine State.keeps.step ?_ (tally_keeps ..) (by decide +kernel)
        exact State.keeps.refl
      · exact State.keeps.refl
    try clear_value s1
    refine State.keeps.ite (fun _ => ?_) (fun _ => ?_)
    · refine State.keeps.step ?_ (scrimReceived_keeps ..) (by decide +kernel)
      exact h1
    · exact h1

/-- What `passCycles` may write. -/
def writes_passCycles : Nat :=
  writes [] [.plumb] ||| writes_fieldCycles

theorem passCycles_keeps (s : State) (k : ℕ) :
    State.keeps writes_passCycles s (State.passCycles s k) := by
  unfold State.passCycles
  extract_lets -merge -underBinder +onlyGivenNames y1
  refine State.keeps.step ?_ (keepAlive_keeps ..) (by decide +kernel)
  refine State.keeps.step ?_ (fieldCycles_keeps ..) (by decide +kernel)
  refine State.keeps.step ?_ (memoryCycles_keeps ..) (by decide +kernel)
  refine (State.keeps.put_plumb ?_ _ (by decide +kernel))
  exact State.keeps.refl

/-- What `engineTick` may write. -/
def writes_engineTick : Nat :=
  writes_engineApply ||| writes_pinsTick ||| writes_engineSnapshot

theorem engineTick_keeps (s : State) :
    State.keeps writes_engineTick s (State.engineTick s) := by
  unfold State.engineTick
  extract_lets -merge -underBinder +onlyGivenNames s1
  have h1 : State.keeps writes_engineTick s s1 := by
    unfold s1
    refine State.keeps.foldl ?_ (fun s2 x2 h2 => ?_)
    · refine State.keeps.step ?_ (pinsTick_keeps ..) (by decide +kernel)
      exact State.keeps.refl
    · try beta_reduce
      refine State.keeps.step ?_ (engineApply_keeps ..) (by decide +kernel)
      exact h2
  try clear_value s1
  refine State.keeps.foldl ?_ (fun s3 x3 h3 => ?_)
  · exact h1
  · try beta_reduce
    refine State.keeps.step ?_ (engineSnapshot_keeps ..) (by decide +kernel)
    exact h3

/-- What `bandTick` may write. -/
def writes_bandTick : Nat :=
  writes_gorgeTick ||| writes_delayTick ||| writes_saddleTick

theorem bandTick_keeps (s : State) :
    State.keeps writes_bandTick s (State.bandTick s) := by
  unfold State.bandTick
  refine State.keeps.foldl ?_ (fun s1 x1 h1 => ?_)
  · exact State.keeps.refl
  · try beta_reduce
    refine State.keeps.step ?_ (gorgeTick_keeps ..) (by decide +kernel)
    refine State.keeps.step ?_ (delayTick_keeps ..) (by decide +kernel)
    refine State.keeps.step ?_ (saddleTick_keeps ..) (by decide +kernel)
    exact h1

/-- What `fibreTick` may write. -/
def writes_fibreTick : Nat :=
  writes [] [.lanes]

theorem fibreTick_keeps (s : State) :
    State.keeps writes_fibreTick s (State.fibreTick s) := by
  unfold State.fibreTick
  refine State.keeps.forEach ?_ (fun x1 s1 h1 => ?_)
  · exact State.keeps.refl
  · try beta_reduce
    refine State.keeps.ite (fun _ => ?_) (fun _ => ?_)
    · exact h1
    · refine State.keeps.step ?_ (updLane_keeps ..) (by decide +kernel)
      exact h1

/-- What `timesTick` may write. -/
def writes_timesTick : Nat :=
  writes [.KCT_TIMES_T_BAND, .KCT_TIMES_T_PLUMB] []

theorem timesTick_keeps (s : State) :
    State.keeps writes_timesTick s (State.timesTick s) := by
  unfold State.timesTick
  extract_lets -merge -underBinder +onlyGivenNames y1
  extract_lets -merge -underBinder +onlyGivenNames s2
  have h2 : State.keeps writes_timesTick s s2 := by
    unfold s2
    refine State.keeps.ite (fun _ => ?_) (fun _ => ?_)
    · refine State.keeps.wr ?_ (by decide +kernel)
      exact State.keeps.refl
    · exact State.keeps.refl
  try clear_value s2
  refine State.keeps.ite (fun _ => ?_) (fun _ => ?_)
  · refine State.keeps.wr ?_ (by decide +kernel)
    exact h2
  · exact h2

/-- What `restartsTick` may write. -/
def writes_restartsTick : Nat :=
  writes [.THM_SHUT_RESTARTS] [.thm]

theorem restartsTick_keeps (s : State) :
    State.keeps writes_restartsTick s (State.restartsTick s) := by
  unfold State.restartsTick
  extract_lets -merge -underBinder +onlyGivenNames y1
  refine State.keeps.ite (fun _ => ?_) (fun _ => ?_)
  · exact State.keeps.refl
  · extract_lets -merge -underBinder +onlyGivenNames y2
    extract_lets -merge -underBinder +onlyGivenNames s3
    have h3 : State.keeps writes_restartsTick s s3 := by
      unfold s3
      refine (State.keeps.put_thm ?_ _ (by decide +kernel))
      exact State.keeps.refl
    try clear_value s3
    refine State.keeps.ite (fun _ => ?_) (fun _ => ?_)
    · refine State.keeps.wr ?_ (by decide +kernel)
      exact h3
    · exact h3

/-- What `fieldTick` may write. -/
def writes_fieldTick : Nat :=
  writes [] [.kct] ||| writes_serveWaiting ||| writes_tilesTick ||| writes_engineTick ||| writes_plumbTick |||
    writes_bandTick ||| writes_portTick ||| writes_guardTick ||| writes_timesTick ||| writes_fclTick

theorem fieldTick_keeps (s : State) :
    State.keeps writes_fieldTick s (State.fieldTick s) := by
  unfold State.fieldTick
  extract_lets -merge -underBinder +onlyGivenNames y1
  extract_lets -merge -underBinder +onlyGivenNames s2
  have h2 : State.keeps writes_fieldTick s s2 := by
    unfold s2
    refine (State.keeps.put_kct ?_ _ (by decide +kernel) (fun _ hw => ⟨hw.flash, hw.localMem, hw.updHead⟩))
    exact State.keeps.refl
  try clear_value s2
  extract_lets -merge -underBinder +onlyGivenNames s3
  have h3 : State.keeps writes_fieldTick s s3 := by
    unfold s3
    refine State.keeps.step ?_ (serveWaiting_keeps ..) (by decide +kernel)
    refine State.keeps.step ?_ (tilesTick_keeps ..) (by decide +kernel)
    refine State.keeps.step ?_ (fibreTick_keeps ..) (by decide +kernel)
    refine State.keeps.step ?_ (engineTick_keeps ..) (by decide +kernel)
    refine State.keeps.step ?_ (plumbTick_keeps ..) (by decide +kernel)
    exact h2
  try clear_value s3
  extract_lets -merge -underBinder +onlyGivenNames s4
  have h4 : State.keeps writes_fieldTick s s4 := by
    unfold s4
    refine State.keeps.step ?_ (bandTick_keeps ..) (by decide +kernel)
    refine State.keeps.forEach ?_ (fun x5 s5 h5 => ?_)
    · exact h3
    · try beta_reduce
      refine State.keeps.step ?_ (portTick_keeps ..) (by decide +kernel)
      exact h5
  try clear_value s4
  extract_lets -merge -underBinder +onlyGivenNames s6
  have h6 : State.keeps writes_fieldTick s s6 := by
    unfold s6
    refine State.keeps.step ?_ (guardTick_keeps ..) (by decide +kernel)
    refine State.keeps.forEach ?_ (fun x7 s7 h7 => ?_)
    · exact h4
    · try beta_reduce
      refine State.keeps.step ?_ (dacTick_keeps ..) (by decide +kernel)
      exact h7
  try clear_value s6
  refine State.keeps.step ?_ (timesTick_keeps ..) (by decide +kernel)
  refine State.keeps.step ?_ (fclTick_keeps ..) (by decide +kernel)
  exact h6

/-- What `tickBoundary` may write. -/
def writes_tickBoundary : Nat :=
  writes [] [.clk] ||| writes_passCycles ||| writes_restartsTick ||| writes_fieldTick

theorem tickBoundary_keeps (s : State) :
    State.keeps writes_tickBoundary s (State.tickBoundary s) := by
  unfold State.tickBoundary
  extract_lets -merge -underBinder +onlyGivenNames s1
  have h1 : State.keeps writes_tickBoundary s s1 := by
    unfold s1
    refine State.keeps.ite (fun _ => ?_) (fun _ => ?_)
    · refine State.keeps.step ?_ (passCycles_keeps ..) (by decide +kernel)
      exact State.keeps.refl
    · exact State.keeps.refl
  try clear_value s1
  extract_lets -merge -underBinder +onlyGivenNames s2
  have h2 : State.keeps writes_tickBoundary s s2 := by
    unfold s2
    refine (State.keeps.put_clk ?_ _ (by decide +kernel))
    exact h1
  try clear_value s2
  refine State.keeps.step ?_ (restartsTick_keeps ..) (by decide +kernel)
  refine State.keeps.ite (fun _ => ?_) (fun _ => ?_)
  · refine State.keeps.step ?_ (fieldTick_keeps ..) (by decide +kernel)
    exact h2
  · exact h2

/-- What `execTickBoundary` may write. -/
def writes_execTickBoundary : Nat :=
  writes_tickBoundary

theorem execTickBoundary_keeps (s : State) :
    State.answers writes_execTickBoundary s (execTickBoundary s) := by
  unfold execTickBoundary
  refine State.answers.next ?_
  refine State.keeps.step ?_ (tickBoundary_keeps ..) (by decide +kernel)
  exact State.keeps.refl

/-- What `idle` may write. -/
def writes_idle : Nat :=
  writes [] [.clk] ||| writes_passCycles

theorem idle_keeps (s : State) :
    State.keeps writes_idle s (State.idle s) := by
  unfold State.idle
  refine State.keeps.ite (fun _ => ?_) (fun _ => ?_)
  · exact State.keeps.refl
  · extract_lets -merge -underBinder +onlyGivenNames s1
    have h1 : State.keeps writes_idle s s1 := by
      unfold s1
      refine State.keeps.ite (fun _ => ?_) (fun _ => ?_)
      · refine State.keeps.step ?_ (passCycles_keeps ..) (by decide +kernel)
        exact State.keeps.refl
      · exact State.keeps.refl
    try clear_value s1
    refine (State.keeps.put_clk ?_ _ (by decide +kernel))
    exact h1

end Sys2Proof.Machine
end

