-- ==== Sys2Proof/Laws/Exec.lean ====
section
/-!
SUPPORT. What each command may write, and that each answers a next state which differs only in that set.
-/

namespace Sys2Proof.Machine

set_option Elab.async false

/-- What a command may write. -/
def writesOf (c : Sys2Proof.Instr) : Nat :=
  match c with
  | .powerGood _ => writes_execPowerGood
  | .powerFail => writes_execPowerFail
  | .kctRestart _ _ => writes_execKctRestart
  | .dieBReset => writes_execDieBReset
  | .declRetry => writes_execDeclRetry
  | .registerWrite _ _ _ => writes_execRegisterWrite
  | .registerReadClear _ _ => writes_execRegisterReadClear
  | .wideLoRead _ _ => writes_execWideLoRead
  | .bpApply _ => writes_execBpApply
  | .bpEnable _ => writes_execBpEnable
  | .bpDisable _ => writes_execBpDisable
  | .bpCheckDone _ => writes_execBpCheckDone
  | .bpDeclarationApply _ => writes_execBpDeclarationApply
  | .bpStop _ => writes_execBpStop
  | .grainPeriod _ _ => writes_execGrainPeriod
  | .bandFrameReceive _ _ => writes_execBandFrameReceive
  | .grainMissing _ => writes_execGrainMissing
  | .noGrains _ => writes_execNoGrains
  | .feRxEnable _ => writes_execFeRxEnable
  | .feRxDisable _ => writes_execFeRxDisable
  | .feTxEnable _ => writes_execFeTxEnable
  | .feTxDisable _ => writes_execFeTxDisable
  | .feRetune _ => writes_execFeRetune
  | .feCalReq _ => writes_execFeCalReq
  | .feLockDone _ => writes_execFeLockDone
  | .lockTimeout _ => writes_execLockTimeout
  | .unlock _ => writes_execUnlock
  | .feCalDone _ _ => writes_execFeCalDone
  | .txTimeout _ => writes_execTxTimeout
  | .feBgCalUpdate _ _ => writes_execFeBgCalUpdate
  | .calStale _ => writes_execCalStale
  | .feAttApply _ => writes_execFeAttApply
  | .relayMoveStart _ => writes_execRelayMoveStart
  | .relayMoveEnd _ _ => writes_execRelayMoveEnd
  | .fePilotMode _ _ => writes_execFePilotMode
  | .pilotLocked _ => writes_execPilotLocked
  | .pilotLowLevel _ => writes_execPilotLowLevel
  | .pilotMeasureDone _ _ _ _ => writes_execPilotMeasureDone
  | .chzSync _ => writes_execChzSync
  | .syncReset _ => writes_execSyncReset
  | .chzSwap _ _ _ => writes_execChzSwap
  | .fadeStart _ => writes_execFadeStart
  | .fadeEnd _ => writes_execFadeEnd
  | .chzCheck _ _ => writes_execChzCheck
  | .chzCheckDone _ => writes_execChzCheckDone
  | .chzCoefWrite _ _ => writes_execChzCoefWrite
  | .chzCoefRead _ => writes_execChzCoefRead
  | .tickBoundary => writes_execTickBoundary
  | .overrun _ _ => writes_execOverrun
  | .engineEcc _ => writes_execEngineEcc
  | .csLate _ => writes_execCsLate
  | .fwCeilWrite _ _ _ => writes_execFwCeilWrite
  | .setaInvalid => writes_execSetaInvalid
  | .setpPeriod _ _ => writes_execSetpPeriod
  | .setpStuck => writes_execSetpStuck
  | .saddleUpdate _ _ => writes_execSaddleUpdate
  | .sdlWatchWrite _ _ _ => writes_execSdlWatchWrite
  | .sdlTargetWrite _ _ => writes_execSdlTargetWrite
  | .saddleDigestSend => writes_execSaddleDigestSend
  | .sdigest _ _ => writes_execSdigest
  | .digestMiss _ _ => writes_execDigestMiss
  | .g1Overload _ _ => writes_execG1Overload
  | .g1Release _ => writes_execG1Release
  | .floTargetCommit _ _ => writes_execFloTargetCommit
  | .delayStep _ => writes_execDelayStep
  | .fwDlySlewWrite _ => writes_execFwDlySlewWrite
  | .delayEstablished _ => writes_execDelayEstablished
  | .delayLost _ => writes_execDelayLost
  | .lostMeasureDone _ => writes_execLostMeasureDone
  | .delayRestore _ => writes_execDelayRestore
  | .tileReadDone _ _ => writes_execTileReadDone
  | .tileQuarantineDone _ _ => writes_execTileQuarantineDone
  | .spectrumDone _ _ => writes_execSpectrumDone
  | .g2Decision _ => writes_execG2Decision
  | .g2Ceiling _ _ => writes_execG2Ceiling
  | .g2Release _ => writes_execG2Release
  | .foreignRegionEnd _ _ => writes_execForeignRegionEnd
  | .plnTFirstWrite _ => writes_execPlnTFirstWrite
  | .plainRebuildDone _ _ => writes_execPlainRebuildDone
  | .emitBackoffWrite _ _ => writes_execEmitBackoffWrite
  | .plnRdAddrWrite _ => writes_execPlnRdAddrWrite
  | .plumbUpdate _ => writes_execPlumbUpdate
  | .timeExSend _ => writes_execTimeExSend
  | .timeEx _ _ _ => writes_execTimeEx
  | .announceSend => writes_execAnnounceSend
  | .announce _ _ => writes_execAnnounce
  | .timeCheck _ => writes_execTimeCheck
  | .holdLimitExpire => writes_execHoldLimitExpire
  | .ppsInEdge _ _ => writes_execPpsInEdge
  | .ppsInTimeout => writes_execPpsInTimeout
  | .refBad => writes_execRefBad
  | .refInRestore => writes_execRefInRestore
  | .todArm _ => writes_execTodArm
  | .todApply => writes_execTodApply
  | .plbTime0Read _ => writes_execPlbTime0Read
  | .fwPhaseSlewWrite _ => writes_execFwPhaseSlewWrite
  | .ppsOutPulse => writes_execPpsOutPulse
  | .cageInsert _ => writes_execCageInsert
  | .cageIdentified _ _ => writes_execCageIdentified
  | .cageRemove _ => writes_execCageRemove
  | .cageMonitor _ _ => writes_execCageMonitor
  | .laneBlockLock _ => writes_execLaneBlockLock
  | .helloSend _ => writes_execHelloSend
  | .hello _ _ => writes_execHello
  | .creditBlock _ _ => writes_execCreditBlock
  | .laneFail _ _ => writes_execLaneFail
  | .laneEnable _ => writes_execLaneEnable
  | .laneDisable _ => writes_execLaneDisable
  | .retrain _ => writes_execRetrain
  | .addrClaim => writes_execAddrClaim
  | .addrReclaim => writes_execAddrReclaim
  | .lsaFlood => writes_execLsaFlood
  | .lsa _ _ => writes_execLsa
  | .lsaExpire _ => writes_execLsaExpire
  | .routeComputeDone => writes_execRouteComputeDone
  | .frameForward _ _ => writes_execFrameForward
  | .subReq _ _ => writes_execSubReq
  | .subNak _ _ => writes_execSubNak
  | .resv _ _ => writes_execResv
  | .resvNak _ _ => writes_execResvNak
  | .subAck _ _ => writes_execSubAck
  | .subTimeout _ => writes_execSubTimeout
  | .grainAckSend => writes_execGrainAckSend
  | .grainAck _ _ => writes_execGrainAck
  | .release _ _ => writes_execRelease
  | .unsub _ _ => writes_execUnsub
  | .repair _ _ => writes_execRepair
  | .repairReport _ _ => writes_execRepairReport
  | .streamReestablish _ => writes_execStreamReestablish
  | .unresTimeout _ => writes_execUnresTimeout
  | .pwmPeriodEnd _ _ => writes_execPwmPeriodEnd
  | .pwmFallWrite _ _ => writes_execPwmFallWrite
  | .pwmModeWrite _ _ => writes_execPwmModeWrite
  | .pwmArm _ _ => writes_execPwmArm
  | .pwmFwLimitWrite _ _ _ => writes_execPwmFwLimitWrite
  | .g3Trip _ _ => writes_execG3Trip
  | .fltActivate _ => writes_execFltActivate
  | .fltLatchClear _ => writes_execFltLatchClear
  | .pwmFineCal _ => writes_execPwmFineCal
  | .clkStop => writes_execClkStop
  | .debugHalt _ => writes_execDebugHalt
  | .monRefEn _ _ => writes_execMonRefEn
  | .monRefReady _ => writes_execMonRefReady
  | .monCal _ => writes_execMonCal
  | .monCalDone _ _ => writes_execMonCalDone
  | .monConversionDone _ _ => writes_execMonConversionDone
  | .plStale => writes_execPlStale
  | .monUrgent _ _ => writes_execMonUrgent
  | .monQueueRead _ _ => writes_execMonQueueRead
  | .faultMessage => writes_execFaultMessage
  | .faultClear => writes_execFaultClear
  | .fclAck _ _ => writes_execFclAck
  | .fclAckInj _ _ => writes_execFclAckInj
  | .fclAckClass _ _ => writes_execFclAckClass
  | .fclRelease _ _ => writes_execFclRelease
  | .fclInject _ _ => writes_execFclInject
  | .fenceRecovery _ => writes_execFenceRecovery
  | .aliveToggle => writes_execAliveToggle
  | .thermalSample _ _ => writes_execThermalSample
  | .g4Temp _ => writes_execG4Temp
  | .thermalHold _ => writes_execThermalHold
  | .thermalRestart _ => writes_execThermalRestart
  | .fwWarnWrite _ _ => writes_execFwWarnWrite
  | .frescoRecordWrite _ => writes_execFrescoRecordWrite
  | .bbFlush _ => writes_execBbFlush
  | .frescoMark => writes_execFrescoMark
  | .floodEnd => writes_execFloodEnd
  | .frsClear _ _ => writes_execFrsClear
  | .frsEraseDone => writes_execFrsEraseDone
  | .clrLockEnd => writes_execClrLockEnd
  | .frsRdSelWrite _ => writes_execFrsRdSelWrite
  | .frsCopyDone => writes_execFrsCopyDone
  | .firmware _ => writes_execFirmware
  | .gatherBoundary => writes_execGatherBoundary
  | .gatherPublish _ => writes_execGatherPublish
  | .cntLoRead _ _ => writes_execCntLoRead
  | .cntSelWrite _ _ _ => writes_execCntSelWrite
  | .holdTo => writes_execHoldTo
  | .preciseSample _ _ => writes_execPreciseSample
  | .cntPsDataRead _ => writes_execCntPsDataRead
  | .scrimReq => writes_execScrimReq
  | .scrimRsp => writes_execScrimRsp
  | .hostFieldAccess _ _ _ _ => writes_execHostFieldAccess
  | .scrHsyncRead => writes_execScrHsyncRead
  | .fieldDown => writes_execFieldDown
  | .hostAbsent => writes_execHostAbsent
  | .scrimLaneDrop _ => writes_execScrimLaneDrop
  | .scrimSync _ _ => writes_execScrimSync
  | .scrimCreditReturn => writes_execScrimCreditReturn
  | .evtMessage => writes_execEvtMessage
  | .msixUnmask _ => writes_execMsixUnmask
  | .scrFwIrqWrite _ _ => writes_execScrFwIrqWrite
  | .pcieError _ _ => writes_execPcieError
  | .pcieRetrain _ _ => writes_execPcieRetrain
  | .dmaEnable _ _ => writes_execDmaEnable
  | .dmaHeadWrite _ _ => writes_execDmaHeadWrite
  | .captureGrain _ _ => writes_execCaptureGrain
  | .dmaBufferClose _ => writes_execDmaBufferClose
  | .dmaFlushTimeout _ => writes_execDmaFlushTimeout
  | .dmaHoldoffExpire _ => writes_execDmaHoldoffExpire
  | .dmaErr _ => writes_execDmaErr
  | .dieBTempSample _ => writes_execDieBTempSample
  | .mbxSend => writes_execMbxSend
  | .mbxPop => writes_execMbxPop
  | .scrMbSend _ => writes_execScrMbSend
  | .scrMbPop _ => writes_execScrMbPop
  | .version _ => writes_execVersion
  | .bpStage _ => writes_execBpStage
  | .mbxBpEnable _ => writes_execMbxBpEnable
  | .delay _ => writes_execDelay
  | .ceiling _ => writes_execCeiling
  | .kctUpdStart _ => writes_execKctUpdStart
  | .kctUpdDataWrite _ _ => writes_execKctUpdDataWrite
  | .kctUpdCommit _ => writes_execKctUpdCommit
  | .kctUpdAbort _ => writes_execKctUpdAbort
  | .kctVerifyDone _ => writes_execKctVerifyDone
  | .pcrKick _ _ => writes_execPcrKick
  | .coreWdg _ _ => writes_execCoreWdg
  | .coreAccessFault _ _ => writes_execCoreAccessFault
  | .bmeOff => writes_execBmeOff
  | .fltInactive _ => writes_execFltInactive
  | .linkBlock _ _ => writes_execLinkBlock
  | .frameErr _ _ _ => writes_execFrameErr
  | .bulkFrame _ _ => writes_execBulkFrame
  | .msgDiscard _ _ => writes_execMsgDiscard
  | .kctUpdEraseDone => writes_execKctUpdEraseDone
  | .updateWindowTimeout => writes_execUpdateWindowTimeout

/-- Every command answers a next state that differs from the one before only in what that command may write. -/
theorem exec_answers (c : Sys2Proof.Instr) (s : State) : State.answers (writesOf c) s (exec c s) :=
  match c with
  | .powerGood e => execPowerGood_keeps e s
  | .powerFail => execPowerFail_keeps s
  | .kctRestart who e => execKctRestart_keeps who e s
  | .dieBReset => execDieBReset_keeps s
  | .declRetry => execDeclRetry_keeps s
  | .registerWrite who off w => execRegisterWrite_keeps who off w s
  | .registerReadClear who off => execRegisterReadClear_keeps who off s
  | .wideLoRead who off => execWideLoRead_keeps who off s
  | .bpApply n => execBpApply_keeps n s
  | .bpEnable n => execBpEnable_keeps n s
  | .bpDisable n => execBpDisable_keeps n s
  | .bpCheckDone n => execBpCheckDone_keeps n s
  | .bpDeclarationApply n => execBpDeclarationApply_keeps n s
  | .bpStop n => execBpStop_keeps n s
  | .grainPeriod n g => execGrainPeriod_keeps n g s
  | .bandFrameReceive l f => execBandFrameReceive_keeps l f s
  | .grainMissing n => execGrainMissing_keeps n s
  | .noGrains n => execNoGrains_keeps n s
  | .feRxEnable p => execFeRxEnable_keeps p s
  | .feRxDisable p => execFeRxDisable_keeps p s
  | .feTxEnable p => execFeTxEnable_keeps p s
  | .feTxDisable p => execFeTxDisable_keeps p s
  | .feRetune p => execFeRetune_keeps p s
  | .feCalReq p => execFeCalReq_keeps p s
  | .feLockDone p => execFeLockDone_keeps p s
  | .lockTimeout p => execLockTimeout_keeps p s
  | .unlock p => execUnlock_keeps p s
  | .feCalDone p fit => execFeCalDone_keeps p fit s
  | .txTimeout p => execTxTimeout_keeps p s
  | .feBgCalUpdate p able => execFeBgCalUpdate_keeps p able s
  | .calStale p => execCalStale_keeps p s
  | .feAttApply p => execFeAttApply_keeps p s
  | .relayMoveStart p => execRelayMoveStart_keeps p s
  | .relayMoveEnd p sensed => execRelayMoveEnd_keeps p sensed s
  | .fePilotMode p mode => execFePilotMode_keeps p mode s
  | .pilotLocked p => execPilotLocked_keeps p s
  | .pilotLowLevel p => execPilotLowLevel_keeps p s
  | .pilotMeasureDone p lag1 lag2 lag3 => execPilotMeasureDone_keeps p lag1 lag2 lag3 s
  | .chzSync q => execChzSync_keeps q s
  | .syncReset n => execSyncReset_keeps n s
  | .chzSwap q bank fade => execChzSwap_keeps q bank fade s
  | .fadeStart n => execFadeStart_keeps n s
  | .fadeEnd n => execFadeEnd_keeps n s
  | .chzCheck q bank3 => execChzCheck_keeps q bank3 s
  | .chzCheckDone n => execChzCheckDone_keeps n s
  | .chzCoefWrite q w => execChzCoefWrite_keeps q w s
  | .chzCoefRead q => execChzCoefRead_keeps q s
  | .tickBoundary => execTickBoundary_keeps s
  | .overrun n late => execOverrun_keeps n late s
  | .engineEcc n => execEngineEcc_keeps n s
  | .csLate n => execCsLate_keeps n s
  | .fwCeilWrite q slew v => execFwCeilWrite_keeps q slew v s
  | .setaInvalid => execSetaInvalid_keeps s
  | .setpPeriod period high => execSetpPeriod_keeps period high s
  | .setpStuck => execSetpStuck_keeps s
  | .saddleUpdate n e => execSaddleUpdate_keeps n e s
  | .sdlWatchWrite q idx w => execSdlWatchWrite_keeps q idx w s
  | .sdlTargetWrite q v => execSdlTargetWrite_keeps q v s
  | .saddleDigestSend => execSaddleDigestSend_keeps s
  | .sdigest l f => execSdigest_keeps l f s
  | .digestMiss n w => execDigestMiss_keeps n w s
  | .g1Overload n sat => execG1Overload_keeps n sat s
  | .g1Release n => execG1Release_keeps n s
  | .floTargetCommit q hi => execFloTargetCommit_keeps q hi s
  | .delayStep n => execDelayStep_keeps n s
  | .fwDlySlewWrite v => execFwDlySlewWrite_keeps v s
  | .delayEstablished n => execDelayEstablished_keeps n s
  | .delayLost n => execDelayLost_keeps n s
  | .lostMeasureDone n => execLostMeasureDone_keeps n s
  | .delayRestore n => execDelayRestore_keeps n s
  | .tileReadDone t r => execTileReadDone_keeps t r s
  | .tileQuarantineDone t pass => execTileQuarantineDone_keeps t pass s
  | .spectrumDone p power => execSpectrumDone_keeps p power s
  | .g2Decision p => execG2Decision_keeps p s
  | .g2Ceiling n power => execG2Ceiling_keeps n power s
  | .g2Release m => execG2Release_keeps m s
  | .foreignRegionEnd p r => execForeignRegionEnd_keeps p r s
  | .plnTFirstWrite w => execPlnTFirstWrite_keeps w s
  | .plainRebuildDone t read => execPlainRebuildDone_keeps t read s
  | .emitBackoffWrite q v => execEmitBackoffWrite_keeps q v s
  | .plnRdAddrWrite w => execPlnRdAddrWrite_keeps w s
  | .plumbUpdate ref => execPlumbUpdate_keeps ref s
  | .timeExSend phase => execTimeExSend_keeps phase s
  | .timeEx l f rx => execTimeEx_keeps l f rx s
  | .announceSend => execAnnounceSend_keeps s
  | .announce l f => execAnnounce_keeps l f s
  | .timeCheck l => execTimeCheck_keeps l s
  | .holdLimitExpire => execHoldLimitExpire_keeps s
  | .ppsInEdge edge ref => execPpsInEdge_keeps edge ref s
  | .ppsInTimeout => execPpsInTimeout_keeps s
  | .refBad => execRefBad_keeps s
  | .refInRestore => execRefInRestore_keeps s
  | .todArm w => execTodArm_keeps w s
  | .todApply => execTodApply_keeps s
  | .plbTime0Read who => execPlbTime0Read_keeps who s
  | .fwPhaseSlewWrite v => execFwPhaseSlewWrite_keeps v s
  | .ppsOutPulse => execPpsOutPulse_keeps s
  | .cageInsert c => execCageInsert_keeps c s
  | .cageIdentified c x => execCageIdentified_keeps c x s
  | .cageRemove c => execCageRemove_keeps c s
  | .cageMonitor c m => execCageMonitor_keeps c m s
  | .laneBlockLock l => execLaneBlockLock_keeps l s
  | .helloSend l => execHelloSend_keeps l s
  | .hello l f => execHello_keeps l f s
  | .creditBlock l content => execCreditBlock_keeps l content s
  | .laneFail l cause => execLaneFail_keeps l cause s
  | .laneEnable l => execLaneEnable_keeps l s
  | .laneDisable l => execLaneDisable_keeps l s
  | .retrain l => execRetrain_keeps l s
  | .addrClaim => execAddrClaim_keeps s
  | .addrReclaim => execAddrReclaim_keeps s
  | .lsaFlood => execLsaFlood_keeps s
  | .lsa l f => execLsa_keeps l f s
  | .lsaExpire uid => execLsaExpire_keeps uid s
  | .routeComputeDone => execRouteComputeDone_keeps s
  | .frameForward l f => execFrameForward_keeps l f s
  | .subReq l f => execSubReq_keeps l f s
  | .subNak l f => execSubNak_keeps l f s
  | .resv l f => execResv_keeps l f s
  | .resvNak l f => execResvNak_keeps l f s
  | .subAck l f => execSubAck_keeps l f s
  | .subTimeout n => execSubTimeout_keeps n s
  | .grainAckSend => execGrainAckSend_keeps s
  | .grainAck l f => execGrainAck_keeps l f s
  | .release l f => execRelease_keeps l f s
  | .unsub l f => execUnsub_keeps l f s
  | .repair l f => execRepair_keeps l f s
  | .repairReport l f => execRepairReport_keeps l f s
  | .streamReestablish n => execStreamReestablish_keeps n s
  | .unresTimeout l => execUnresTimeout_keeps l s
  | .pwmPeriodEnd k x => execPwmPeriodEnd_keeps k x s
  | .pwmFallWrite k w => execPwmFallWrite_keeps k w s
  | .pwmModeWrite k mode => execPwmModeWrite_keeps k mode s
  | .pwmArm k arm => execPwmArm_keeps k arm s
  | .pwmFwLimitWrite k which v => execPwmFwLimitWrite_keeps k which v s
  | .g3Trip k x => execG3Trip_keeps k x s
  | .fltActivate x => execFltActivate_keeps x s
  | .fltLatchClear x => execFltLatchClear_keeps x s
  | .pwmFineCal ok => execPwmFineCal_keeps ok s
  | .clkStop => execClkStop_keeps s
  | .debugHalt q => execDebugHalt_keeps q s
  | .monRefEn x on => execMonRefEn_keeps x on s
  | .monRefReady x => execMonRefReady_keeps x s
  | .monCal x => execMonCal_keeps x s
  | .monCalDone x factors => execMonCalDone_keeps x factors s
  | .monConversionDone x code => execMonConversionDone_keeps x code s
  | .plStale => execPlStale_keeps s
  | .monUrgent x w => execMonUrgent_keeps x w s
  | .monQueueRead q x => execMonQueueRead_keeps q x s
  | .faultMessage => execFaultMessage_keeps s
  | .faultClear => execFaultClear_keeps s
  | .fclAck who tag => execFclAck_keeps who tag s
  | .fclAckInj q tag => execFclAckInj_keeps q tag s
  | .fclAckClass q w => execFclAckClass_keeps q w s
  | .fclRelease q w => execFclRelease_keeps q w s
  | .fclInject q w => execFclInject_keeps q w s
  | .fenceRecovery u => execFenceRecovery_keeps u s
  | .aliveToggle => execAliveToggle_keeps s
  | .thermalSample e reading => execThermalSample_keeps e reading s
  | .g4Temp e => execG4Temp_keeps e s
  | .thermalHold running => execThermalHold_keeps running s
  | .thermalRestart e => execThermalRestart_keeps e s
  | .fwWarnWrite e v => execFwWarnWrite_keeps e v s
  | .frescoRecordWrite ue => execFrescoRecordWrite_keeps ue s
  | .bbFlush ok => execBbFlush_keeps ok s
  | .frescoMark => execFrescoMark_keeps s
  | .floodEnd => execFloodEnd_keeps s
  | .frsClear who w => execFrsClear_keeps who w s
  | .frsEraseDone => execFrsEraseDone_keeps s
  | .clrLockEnd => execClrLockEnd_keeps s
  | .frsRdSelWrite w => execFrsRdSelWrite_keeps w s
  | .frsCopyDone => execFrsCopyDone_keeps s
  | .firmware q => execFirmware_keeps q s
  | .gatherBoundary => execGatherBoundary_keeps s
  | .gatherPublish late => execGatherPublish_keeps late s
  | .cntLoRead who c => execCntLoRead_keeps who c s
  | .cntSelWrite who c w => execCntSelWrite_keeps who c w s
  | .holdTo => execHoldTo_keeps s
  | .preciseSample q x => execPreciseSample_keeps q x s
  | .cntPsDataRead who => execCntPsDataRead_keeps who s
  | .scrimReq => execScrimReq_keeps s
  | .scrimRsp => execScrimRsp_keeps s
  | .hostFieldAccess off wide write masked => execHostFieldAccess_keeps off wide write masked s
  | .scrHsyncRead => execScrHsyncRead_keeps s
  | .fieldDown => execFieldDown_keeps s
  | .hostAbsent => execHostAbsent_keeps s
  | .scrimLaneDrop toHost => execScrimLaneDrop_keeps toHost s
  | .scrimSync toHost toField => execScrimSync_keeps toHost toField s
  | .scrimCreditReturn => execScrimCreditReturn_keeps s
  | .evtMessage => execEvtMessage_keeps s
  | .msixUnmask v => execMsixUnmask_keeps v s
  | .scrFwIrqWrite q w => execScrFwIrqWrite_keeps q w s
  | .pcieError k r => execPcieError_keeps k r s
  | .pcieRetrain gen width => execPcieRetrain_keeps gen width s
  | .dmaEnable r w => execDmaEnable_keeps r w s
  | .dmaHeadWrite r w => execDmaHeadWrite_keeps r w s
  | .captureGrain r d => execCaptureGrain_keeps r d s
  | .dmaBufferClose r => execDmaBufferClose_keeps r s
  | .dmaFlushTimeout r => execDmaFlushTimeout_keeps r s
  | .dmaHoldoffExpire r => execDmaHoldoffExpire_keeps r s
  | .dmaErr r => execDmaErr_keeps r s
  | .dieBTempSample t => execDieBTempSample_keeps t s
  | .mbxSend => execMbxSend_keeps s
  | .mbxPop => execMbxPop_keeps s
  | .scrMbSend q => execScrMbSend_keeps q s
  | .scrMbPop q => execScrMbPop_keeps q s
  | .version q => execVersion_keeps q s
  | .bpStage q => execBpStage_keeps q s
  | .mbxBpEnable q => execMbxBpEnable_keeps q s
  | .delay q => execDelay_keeps q s
  | .ceiling q => execCeiling_keeps q s
  | .kctUpdStart who => execKctUpdStart_keeps who s
  | .kctUpdDataWrite who w => execKctUpdDataWrite_keeps who w s
  | .kctUpdCommit who => execKctUpdCommit_keeps who s
  | .kctUpdAbort who => execKctUpdAbort_keeps who s
  | .kctVerifyDone readback => execKctVerifyDone_keeps readback s
  | .pcrKick q w => execPcrKick_keeps q w s
  | .coreWdg q ecc => execCoreWdg_keeps q ecc s
  | .coreAccessFault q addr => execCoreAccessFault_keeps q addr s
  | .bmeOff => execBmeOff_keeps s
  | .fltInactive x => execFltInactive_keeps x s
  | .linkBlock l content => execLinkBlock_keeps l content s
  | .frameErr l cls len => execFrameErr_keeps l cls len s
  | .bulkFrame l f => execBulkFrame_keeps l f s
  | .msgDiscard l f => execMsgDiscard_keeps l f s
  | .kctUpdEraseDone => execKctUpdEraseDone_keeps s
  | .updateWindowTimeout => execUpdateWindowTimeout_keeps s

end Sys2Proof.Machine
end

