-- ==== Sys2Proof/Laws/Seals.lean ====
section
/-!
SUPPORT. Little-endian bytes, the CRC of a tile and its seal (R6, R189, Table 86): what is written into a seal is what a read
of it finds.
-/

namespace Sys2Proof.Machine

@[simp] theorem leBytes_length (k v : Nat) : (leBytes k v).length = k := by
  induction k generalizing v with
  | zero => rfl
  | succ k ih => simp [leBytes, ih]

/-- Bytes spell the number they were made of, below their width. -/
theorem ofLe_leBytes (k v : Nat) : ofLe (leBytes k v) = v % 256 ^ k := by
  induction k generalizing v with
  | zero => simp [leBytes, ofLe, Nat.mod_one]
  | succ k ih => simp only [leBytes, ofLe, ih, BitVec.toNat_ofNat, Nat.pow_succ']; exact (Nat.mod_mul).symm

theorem crcBit_lt {c : Nat} (h : c < 2 ^ 32) : crcBit c < 2 ^ 32 := by
  unfold crcBit
  split
  · exact Nat.xor_lt_two_pow (by omega) (by decide)
  · omega

theorem crcByte_lt {c : Nat} (b : Byte) (h : c < 2 ^ 32) : crcByte c b < 2 ^ 32 := by
  have hb : Nat.xor c b.toNat < 2 ^ 32 := Nat.xor_lt_two_pow h (by have := b.isLt; omega)
  exact crcBit_lt (crcBit_lt (crcBit_lt (crcBit_lt (crcBit_lt (crcBit_lt (crcBit_lt (crcBit_lt hb)))))))

/-- A CRC-32C fits 32 bits. -/
theorem crc32c_lt (bs : List Byte) : crc32c bs < 2 ^ 32 := by
  have step : ∀ (xs : List Byte) (c : Nat), c < 2 ^ 32 → xs.foldl crcByte c < 2 ^ 32 := by
    intro xs
    induction xs with
    | nil => exact fun _ h => h
    | cons x xs ih => exact fun c h => ih _ (crcByte_lt x h)
  exact Nat.xor_lt_two_pow (step bs _ (by decide)) (by decide)

/-- The fields of a seal read back as they were written (Table 86). -/
theorem sealCrc_sealBytes {crc : Nat} (gen owner : Nat) (h : crc < 2 ^ 32) : sealCrc (sealBytes crc gen owner) = crc := by
  have : (sealBytes crc gen owner).take 4 = leBytes 4 crc := by
    simp [sealBytes, List.append_assoc]
  rw [sealCrc, this, ofLe_leBytes, Nat.mod_eq_of_lt (by simpa using h)]

theorem sealGen_sealBytes (crc gen owner : Nat) : sealGen (sealBytes crc gen owner) = gen % 65536 := by
  have : ((sealBytes crc gen owner).drop 4).take 2 = leBytes 2 gen := by
    simp [sealBytes, List.append_assoc]
  rw [sealGen, this, ofLe_leBytes]; rfl

theorem sealOwner_sealBytes (crc gen owner : Nat) : sealOwner (sealBytes crc gen owner) = owner % 65536 := by
  have : ((sealBytes crc gen owner).drop 6).take 2 = leBytes 2 owner := by
    rfl
  rw [sealOwner, this, ofLe_leBytes]; rfl

/-- A read that brings a payload of 4,096 bytes with the seal that its write made finds nothing wrong (R190). -/
theorem sealCause_sound {s : State} {t : Nat} {p : List Byte} {ce die : Bool} (hp : p.length = 4096)
    (hg : s.tileGen t < 65536) (ho : s.tileOwner t < 65536) :
    s.sealCause t ⟨p, sealBytes (tileCrc p t (s.tileGen t)) (s.tileGen t) (s.tileOwner t), false, ce, die⟩ = 0 := by
  simp [State.sealCause, hp, sealGen_sealBytes, sealOwner_sealBytes, Nat.mod_eq_of_lt hg, Nat.mod_eq_of_lt ho,
    sealCrc_sealBytes _ _ (show tileCrc p t (s.tileGen t) < 2 ^ 32 from crc32c_lt _)]

end Sys2Proof.Machine
end

