-- ==== Sys2Proof/Tests/Slice0.lean ====
section
/-!
SUPPORT. Tests of the model: examples worked in the spec, ill-formed operands that the checks refuse, and for every
hypothesis of a statement a concrete state and operands that meet it.
-/

open Sys2Proof Sys2Proof.Machine

set_option Elab.async false
set_option linter.unusedVariables false

namespace Sys2Proof.Tests

/-- The reset state with some register fields stored. -/
def wst (xs : List (Field × Nat × Nat)) : State := xs.foldl (fun t x => t.load x.1 x.2.1 x.2.2) State.reset

/-- A mask without a forbidden bin. -/
def openMask (s : State) : State := { s with plain := { records := [(0, 0x7FFF)] } }

/-- A MGMT message for this module. -/
def msg (ws : List Word64) : Frame := { cls := 2, dest := 0, src := 2, isLocal := true, words := ws }

/-- This module is node 1, its lane 3 is UP toward node 2, which both know, with room for streams. -/
def fabric (s : State) : State :=
  let xs : List (Field × Nat × Nat) := [(.COL_NODE_ADDR, 0, 1), (.COL_NODE_VALID, 0, 1), (.COL_CTRL_FWD_EN, 0, 1),
    (.COL_ID_LO_ID_LO, 0, 77), (.LANE_STATUS_STATE, 3, 3), (.LANE_PEER_NODE, 3, 2), (.LANE_PEER_NODE_VALID, 3, 1),
    (.LANE_CREDIT_TIME, 3, 60), (.LANE_CREDIT_BAND, 3, 900), (.LANE_CREDIT1_MGMT, 3, 900), (.LANE_CREDIT1_BULK, 3, 900)]
  let t : State := xs.foldl (fun t x => t.load x.1 x.2.1 x.2.2) s
  let far : LsaRec := ⟨99, 2, true, true, true, 5, [⟨1, true, 0, 8, 0, [10000, 10000, 10000, 10000]⟩]⟩
  ({ t with col := { t.col with db := [far], primary := [(2, 0)], claimed := true } }).updLane 3 fun x =>
    { x with peerBuf := { time := 64, band := 32768, mgmt := 2048, bulk := 1024 } }

/-- Band path 5 publishes to node 2. -/
def publishes (s : State) : State :=
  (fabric s).updBp 5 fun x => { x with live := true, decl := { x.decl with dstKind := 2, span := 8 } }

/-- Band path 6 is fed by stream 4 of node 2. -/
def subscribes (s : State) : State :=
  (fabric s).updBp 6 fun x => { x with
    live := true, decl := { x.decl with srcKind := 2, srcNode := 2, srcBp := 4, span := 8 }, sub := { x.sub with on := true } }

/-! ### Examples worked in the spec -/

/-- The next state of a command. -/
def nextOf (c : Sys2Proof.Instr) (s : State) : State := match exec c s with | .next t => t | _ => State.reset

/-- 2,250 MHz is 0x4650_0000 (00_scope.md, encoding a tuning). -/
theorem test_tuning : 2250 * mhz = 0x46500000 := by decide

/-- −60 dB is 0x8AD0 and 25 µs is 0x61A8_0000 (00_scope.md, encoding a gain and a delay). -/
theorem test_gain_and_delay : wrapBits 16 (-30000) = 0x8AD0 ∧ usQ 25 = 0x61A80000 := by decide

/-- N = 3,200 has d = 5 and C = 231; its source figure is 120,483,840 quanta and its destination figure 387.4375 ns
(04_channelizer.md, band path 5). -/
theorem test_chain : chainD 3200 = 5 ∧ settleCount 3200 = 231 ∧ frontDelay 5 + 95 * 16 * 65536 = 120483840 ∧
    (dstDelay 3200).round = 25391104 := by decide +kernel

/-- BP_ROUTE[17] = 0x6685_2A72 (02_band_paths.md, the route at module C), as the staged word lays it out. -/
theorem test_route : (nextOf (.registerWrite (.core 1) 0x10228 0x66852A72) (wst [])).rd .BP_ROUTE_SRC_NODE 17 = 0x2A7 ∧
    (nextOf (.registerWrite (.core 1) 0x10228 0x66852A72) (wst [])).rd .BP_ROUTE_GROUP 17 = 3 := by decide +kernel

/-- ORIGIN_TS and STREAM of grain 1,000 (02_band_paths.md, one grain). -/
theorem test_grain : timeBits ((2100000036 * 1000000000 + 500000000) * 65536 + 0x8000) % 2 ^ 80 = 0x1F4ADD491DCD65008000 ∧
    streamField ⟨0, 0x2A7, 5, 1000, 0, 0, []⟩ = 0x3E8052A7 := by decide +kernel

/-- The bins guarded before and after the retune, and C_17 = −449 steps (08_emission_guard.md, worked example). -/
theorem test_guarded : guardedBand 3200 0x46600000 = (4560892, 4663299) ∧ guardedBand 3200 0x465A0000 = (4559356, 4661763) := by
  decide +kernel

/-- A mask with these records. -/
def withPlain (s : State) (rs : List (Nat × Nat)) : State := { s with plain := { records := rs } }

theorem test_ceiling : ((((withPlain (wst [(.EMG_FLOOR_N, 3, 0xC700)]) [(0, 59776), (4662272, 52224), (4665344, 59776)]).updBp 17 fun x => { x with
      live := true, decl := { x.decl with span := 3200, dstKind := 1, dstPort := 3, dstFreq := 0x465A0000 } }).updPort 3
      fun x => { x with att := (0, 8, 0) }).ceiling 17) = -449 := by decide +kernel

/-- d and θ of the exchange on lane 6 (09_plumb_timing.md, worked example). -/
theorem test_exchange : (wst [(.PLB_ASYM_FIX_FIX, 6, 4096), (.PLB_ASYM_RATIO_RATIO, 6, 40960)]).exchange 6 65536000 2162762208
    32768000000 34865077792 = (2097152000, 98304) := by decide +kernel

/-- fwd = 496,435,338 quanta from the three lags (03_front_end.md, measuring a 2 km coax run). -/
theorem test_pilot : (nextOf (.pilotMeasureDone 2 265939976921 527495321374 774351734679) (wst [(.FE_PILOT_STATUS_PSTATE, 2, 2),
    (.FE_TX_LAT_LAT, 2, 6324224), (.FE_RX_LAT_LAT, 2, 9715712), (.FE_PILOT_TURN_TURN, 2, 5570560)])).rd
      .FE_PILOT_DLY_LO_DLY_LO 2 = 496435338 := by decide +kernel

/-- Tile reservations: 7 tiles for 65 µs at N = 3,200, and D_min = 0x8254_2F00 (07_delay_flattening.md, three hops). -/
theorem test_tiles : tilesFor 3200 (usQ 65 * fine : Nat) = 7 := by decide +kernel

theorem test_min_delay : (((wst [(.CHZ_DST_GDC_GDC, 17, 0xFFFFFF00), (.FE_TX_LAT_LAT, 3, 6635520)]).updBp 17 fun x => { x with
      decl := { x.decl with span := 3200, dstPort := 3 } }).minDelay 17 (0x7B7B8000, 1)).ceil = 0x82542F00 := by decide +kernel

/-- The set-point turns at −17.004 dB and then rises 0.010 dB in a tick (05_gain_loops.md). -/
theorem test_set_point : rampTo (-8500) (-8502) 5 = -8502 ∧ rampTo (-8502) (-3000) 5 = -8497 := by decide

/-- The offsets that the host and a core read (20_register_map.md, the applied delay of band path 17). -/
theorem test_offsets : ((wst [(.FLO_HOST_SEL_N, 0, 17)]).regAt .host 0x15114).fields = [(.FLO_APPLIED_LO_APPLIED, 17)] ∧
    ((wst []).regAt (.core 2) 0x1A318).fields = [(.LANE_CREDIT_BAND, 12), (.LANE_CREDIT_TIME, 12)] ∧
    ((wst []).regAt .host 0x820D4).fields = [(.DMA_HEAD_HEAD, 3)] := by decide +kernel

/-- Period 4 of the climb is on for 2,562 fine steps (12_pwm_line_power.md, worked example): after a period of duty
984 / 65,536, the slew limit gives 1,312 / 65,536 of 128,000. -/
theorem test_climb : (((nextOf (.pwmPeriodEnd 1 {}) ((wst [(.KCT_STATUS_LOCKED, 0, 1), (.PWM_CTRL_ARM, 1, 1),
    (.PWM_STATUS_STATE, 1, 2), (.PWM_DT_DT_RISE, 1, 24), (.PWM_LIM_DT_MIN, 1, 16), (.PWM_LIM_MIN_PULSE, 1, 40),
    (.PWM_SLEW_DUTY_SLEW, 1, 328), (.PWM_DUTY_MAX_DUTY, 1, 0xC000), (.PWM_DUTY_FW_MAX_DUTY, 1, 0xC000),
    (.PWM_GLOBAL_CAL_OK, 0, 1)]).updPwm 1 fun x => { x with
      active := ⟨128000, 0, 64000⟩, shadow := ⟨128000, 0, 64000⟩, relayHold := false, duty := (984, 65536),
      run := some ⟨0, 0, false, false, false, none, 0⟩ })).pwm 1).run.map fun r => (r.rise, r.fall)) = some (0, 2562) := by
  decide +kernel

/-- Tag 3 aborts channel 1 (13_monitor_converters.md, urgent requests that meet a scan). -/
theorem test_urgent : (nextOf (.monUrgent 0 (9 + 3 * 32)) ((wst [(.MON_CTRL_REF_EN, 0, 1), (.MON_CTRL_SCAN_EN, 0, 1),
    (.MON_STATUS_REF_READY, 0, 1), (.MON_MODE_SVC, 0, 1), (.MON_SCAN_MASK, 0, 0x8000000F)]).setConv 0
    { job := .scan 1 false, mask := 0x8000000F, at' := 1 })).conv 0 = { job := .urgent 9 3, mask := 0x8000000F, at' := 1, redo := some 1 } := by
  decide +kernel

/-- The second message of an open class is at level 1 and the third at level 2; the latch keeps TAG 1 (14_faults_safety.md,
band path 17 trips G1 three times). -/
theorem test_three_trips :
    let trip := fun (s : State) => nextOf .faultMessage (s.sendFault 0x11 1)
    let calm := fun (s : State) => nextOf .faultClear (s.sendClear 0x11 1)
    let two := trip (calm (trip (wst [(.KCT_STATUS_LOCKED, 0, 1)])))
    two.maxFence = 1 ∧ (trip (calm two)).maxFence = 2 ∧ (trip (calm two)).rd .FCL_FIRST_INFO_TAG = 1 := by decide +kernel

/-- CRC-32C of the string 1 to 9, the check value of its published definition (R189). -/
theorem test_crc32c : crc32c [0x31, 0x32, 0x33, 0x34, 0x35, 0x36, 0x37, 0x38, 0x39] = 0xE3069283 := by decide +kernel

/-- A LINK block that the module forms passes its own CRC-8, and a frame's SOF spells the frame (R258, R259). -/
theorem test_blocks :
    (let s := wst [(.LANE_STATUS_STATE, 5, 3), (.COL_NODE_ADDR, 0, 0x2A7), (.COL_NODE_VALID, 0, 1)]
     crc8Ok (BitVec.ofNat 56 ((s.linkBlock 5).payload.toNat / 256)) = true) ∧
    (let f : Frame := { cls := 1, dest := 0x2A7, src := 5, bp := 3, member := 1, unres := true, ttl := 9, rid := true, words := [1, 2] }
     frameSpelt (sofContent f) f.words = some f) := by decide +kernel

/-- No row of the table has bits, so no word spells a command. -/
theorem test_no_words (s : State) (n w : Nat) : Sys2Proof.decodeTableWord n w = none ∧ s.withFetchWord n w = s := ⟨rfl, rfl⟩

/-! ### Operands that the checks refuse -/

theorem bad_start_env : Instr.wf (.powerGood { memTrained := 16 }) = false := by decide
theorem bad_offset : Instr.wf (.registerWrite .loader 2 0) = false := by decide
theorem bad_read_offset : Instr.wf (.registerReadClear .loader 3) = false := by decide
theorem bad_pair_offset : Instr.wf (.wideLoRead .loader 6) = false := by decide
theorem bad_field_offset : Instr.wf (.hostFieldAccess 0x80000 false none false) = false := by decide
theorem bad_samples : Instr.wf (.grainPeriod 0 { samples := [⟨-32768, 0⟩] }) = false := by decide
theorem bad_estimate : Instr.wf (.saddleUpdate 0 { own := ⟨[], []⟩ }) = false := by decide
theorem bad_payload : Instr.wf (.tileReadDone 0 { payload := [0] }) = false := by decide
theorem bad_descriptor : Instr.wf (.captureGrain 0 { addr := 0, len := 2 ^ 32 }) = false := by decide
theorem bad_cage_read : Instr.wf (.cageMonitor 0 { answers := true }) = false := by decide
theorem bad_class : Instr.wf (.bulkFrame 0 { cls := 2, dest := 0, src := 0, words := [0] }) = false := by decide
theorem bad_length : Instr.wf (.frameForward 0 { cls := 1, dest := 0, src := 0, words := [0] }) = false := by decide
theorem bad_node : Instr.wf (.lsa 0 { cls := 2, dest := 4096, src := 0, words := [0] }) = false := by decide
theorem bad_period : Instr.wf (.setpPeriod 0 0) = false := by decide
theorem bad_bins : Instr.wf (.spectrumDone 0 ⟨[(5, 1), (5, 2)], 0⟩) = false := by decide
theorem bad_uid : Instr.wf (.lsaExpire (2 ^ 64)) = false := by decide
theorem good_restart : Instr.wf (.kctRestart .host {}) = true := by decide

/-! ### Witnesses of the hypotheses -/

/-- The canonical form as a check. -/
def canonB (s : State) : Bool :=
  goodRegs s.regs && goodRegs s.hard && Store.wf (fun _ => {}) s.readers && Store.wf (fun _ => {}) s.bps &&
    Store.wf (fun _ => {}) s.ports && Store.wf (fun _ => {}) s.pwms && Store.wf (fun _ => {}) s.convs &&
    Store.wf (fun _ => {}) s.dies && Store.wf (fun _ => {}) s.lanes && Store.wf (fun _ => {}) s.cages &&
    Store.wf (fun _ => {}) s.rings && Store.wf erased s.kct.flash && Store.wf erased s.kct.localMem &&
    Store.wf erased s.kct.updHead

theorem canonical_of {s : State} (h : canonB s = true) : s.canonical := by
  simp only [canonB, Bool.and_eq_true] at h
  obtain ⟨⟨⟨⟨⟨⟨⟨⟨⟨⟨⟨⟨⟨h1, h2⟩, h3⟩, h4⟩, h5⟩, h6⟩, h7⟩, h8⟩, h9⟩, h10⟩, h11⟩, h12⟩, h13⟩, h14⟩ := h
  exact ⟨h1, h2, h3, h4, h5, h6, h7, h8, h9, h10, h11, h12, h13, h14⟩

theorem witness_StepRunsFront : State.reset.pending = [] := rfl

theorem witness_StepKeepsCanonical : State.reset.canonical ∧ step State.reset = Host.Outcome.next State.reset.idle :=
  ⟨canonical_of (by decide +kernel), rfl⟩

theorem witness_LimitsKept : resetsField .tickBoundary = false ∧ (fun s : State => s.canonical ∧ (0x5004 : BitVec 20).toNat < 0x80000 ∧
    (0x5004 : BitVec 20).toNat % 4 = 0 ∧ (s.regAt (.core 1) 0x5004).view = false ∧
    s.breaksLock 0x10000 (s.regAt (.core 1) 0x5004).fields = true) (wst [(.KCT_STATUS_LOCKED, 0, 1)]) :=
  ⟨rfl, canonical_of (by decide +kernel), by decide +kernel⟩

theorem witness_SlotsAudit : State.reset.canonical ∧ Store.wf (fun _ => 0) State.reset.cnt.events = true ∧ ∀ m : BpIx, State.reset.slotsAudit m :=
  ⟨canonical_of (by decide +kernel), rfl, fun _ => rfl⟩

theorem witness_SamplesSaturate_1 : (fun (s : State) (n : BpIx) => s.canonical ∧ s.running n = true ∧ (s.bp n).decl.srcKind = 1 ∧ (s.bp n).decl.dstKind = 2 ∧
    (s.bp n).chz.on = true) ((wst []).updBp 7 fun x => { x with
      live := true, decl := { x.decl with span := 64, srcKind := 1, dstKind := 2 }, chz := { x.chz with on := true } }) 7 :=
  ⟨canonical_of (by decide +kernel), by decide +kernel⟩

theorem witness_SamplesSaturate_2 : (fun (s : State) (n : BpIx) (h : Held) => s.canonical ∧ s.running n = true ∧ (s.bp n).decl.srcKind = 2 ∧
    (s.bp n).decl.dstKind = 2 ∧ s.nextInput n = some h) ((wst []).updBp 7 fun x => { x with
      live := true, decl := { x.decl with span := 64, srcKind := 2, dstKind := 2 }
      dly := { x.dly with count := 4, input := [⟨4, 0, ⟨99, 0, 0, 4, 0, 0, [0x80008000]⟩⟩] } }) 7 ⟨4, 0, ⟨99, 0, 0, 4, 0, 0, [0x80008000]⟩⟩ :=
  ⟨canonical_of (by decide +kernel), by decide +kernel⟩

theorem witness_HalfbandStages : (fun N : Nat => 1 ≤ N ∧ N ≤ 25600) 25600 := by decide

theorem witness_FirmwareLimits_1 : (fun (s : State) (k : ChanIx) (v : BitVec 16) =>
    s.canonical ∧ v.toNat ≤ s.rd .PWM_DUTY_MAX_DUTY k) (wst [(.PWM_DUTY_MAX_DUTY, 2, 100)]) 2 100 :=
  ⟨canonical_of (by decide +kernel), by decide +kernel⟩

theorem witness_FirmwareLimits_2 : (fun (s : State) (k : ChanIx) (v : BitVec 16) =>
    s.canonical ∧ s.rd .PWM_DUTY_MAX_DUTY k < v.toNat) (wst [(.PWM_DUTY_MAX_DUTY, 2, 100)]) 2 101 :=
  ⟨canonical_of (by decide +kernel), by decide +kernel⟩

theorem witness_FirmwareLimits_3 : (fun (s : State) (k : ChanIx) (v : BitVec 16) =>
    s.canonical ∧ k.val < 4 ∧ v.toNat ≤ s.rd .PWM_ILIM_I_LIM k) (wst [(.PWM_ILIM_I_LIM, 2, 100)]) 2 100 :=
  ⟨canonical_of (by decide +kernel), by decide +kernel⟩

theorem witness_FirmwareLimits_4 : (fun (s : State) (k : ChanIx) (v : BitVec 16) =>
    s.canonical ∧ k.val < 4 ∧ s.rd .PWM_ILIM_I_LIM k < v.toNat) (wst [(.PWM_ILIM_I_LIM, 2, 100)]) 2 101 :=
  ⟨canonical_of (by decide +kernel), by decide +kernel⟩

theorem witness_FirmwareLimits_5 : (fun (s : State) (k : ChanIx) (v : BitVec 16) =>
    s.canonical ∧ k.val < 4 ∧ v.toNat ≤ s.rd .PWM_VLIM_V_LIM k) (wst [(.PWM_VLIM_V_LIM, 2, 100)]) 2 100 :=
  ⟨canonical_of (by decide +kernel), by decide +kernel⟩

theorem witness_FirmwareLimits_6 : (fun (s : State) (k : ChanIx) (v : BitVec 16) =>
    s.canonical ∧ k.val < 4 ∧ s.rd .PWM_VLIM_V_LIM k < v.toNat) (wst [(.PWM_VLIM_V_LIM, 2, 100)]) 2 101 :=
  ⟨canonical_of (by decide +kernel), by decide +kernel⟩

theorem witness_StagingWhilePending_1 : (fun (s : State) (q : CoreIx) (n : BpIx) (w : Word) =>
    s.canonical ∧ s.rd .BP_STATUS_PENDING n = 1) (wst [(.BP_STATUS_PENDING, 7, 1), (.BP_CTRL_ENABLE, 7, 1), (.BP_CTRL_SPAN, 7, 64)]) 1 7 0x22 :=
  ⟨canonical_of (by decide +kernel), by decide +kernel⟩

theorem witness_StagingWhilePending_2 : (fun (s : State) (q : CoreIx) (n : BpIx) (w : Word) =>
    s.canonical ∧ s.rd .BP_STATUS_PENDING n = 1) (wst [(.BP_STATUS_PENDING, 7, 1), (.BP_CTRL_ENABLE, 7, 1), (.BP_CTRL_SPAN, 7, 64)]) 1 7 5 :=
  ⟨canonical_of (by decide +kernel), by decide +kernel⟩

theorem witness_StagingWhilePending_3 : (fun (s : State) (q : CoreIx) (n : BpIx) (w : Word) =>
    s.canonical ∧ s.rd .BP_STATUS_PENDING n = 1) (wst [(.BP_STATUS_PENDING, 7, 1), (.BP_CTRL_ENABLE, 7, 1), (.BP_CTRL_SPAN, 7, 64)]) 1 7 5 :=
  ⟨canonical_of (by decide +kernel), by decide +kernel⟩

theorem witness_StagingWhilePending_4 : (fun (s : State) (q : CoreIx) (n : BpIx) (w : Word) =>
    s.canonical ∧ s.rd .BP_STATUS_PENDING n = 1 ∧ s.rd .BP_CTRL_ENABLE n = 1 ∧ bit 0 w.toNat = true ∧ (bit 1 w.toNat = true ∨ bits 16 16 w.toNat ≠ s.rd .BP_CTRL_SPAN n)) (wst [(.BP_STATUS_PENDING, 7, 1), (.BP_CTRL_ENABLE, 7, 1), (.BP_CTRL_SPAN, 7, 64)]) 1 7 0x50003 :=
  ⟨canonical_of (by decide +kernel), by decide +kernel⟩

theorem witness_StagingWhilePending_5 : (fun (s : State) (n : BpIx) =>
    s.canonical ∧ s.rd .BP_STATUS_PENDING n = 1) (wst [(.BP_STATUS_PENDING, 7, 1), (.BP_CTRL_ENABLE, 7, 1), (.BP_CTRL_SPAN, 7, 64)]) 7 :=
  ⟨canonical_of (by decide +kernel), by decide +kernel⟩

theorem witness_StagingWhilePending_6 : (fun (s : State) (n : BpIx) =>
    s.canonical ∧ s.rd .BP_STATUS_PENDING n = 1) ((fun (s : State) => s.updBp 7 fun x => { x with live := true }) (wst [(.BP_STATUS_PENDING, 7, 1), (.BP_CTRL_ENABLE, 7, 1), (.BP_CTRL_SPAN, 7, 64)])) 7 :=
  ⟨canonical_of (by decide +kernel), by decide +kernel⟩

theorem witness_FrameOfTheBand : State.reset.canonical := canonical_of (by decide +kernel)

theorem witness_FrameOfTheFabric : State.reset.canonical := canonical_of (by decide +kernel)

theorem witness_FrameOfTheRecords : State.reset.canonical := canonical_of (by decide +kernel)

theorem witness_HostSideLeavesField : State.reset.canonical ∧ (match (Sys2Proof.Instr.dieBReset) with | .dieBReset => True | _ => False) :=
  ⟨canonical_of (by decide +kernel), trivial⟩

theorem witness_Declarations_1 : (fun (s : State) (n : BpIx) =>
    s.canonical ∧ s.rd .BP_STATUS_PENDING n = 1) (wst [(.BP_STATUS_PENDING, 7, 1)]) 7 :=
  ⟨canonical_of (by decide +kernel), by decide +kernel⟩

theorem witness_Declarations_2 : (fun (s : State) (n : BpIx) =>
    s.canonical ∧ s.rd .BP_STATUS_PENDING n = 0 ∧ (s.rd .BP_CTRL_ENABLE n = 0 ∨ s.running n = true)) (wst [(.BP_ROUTE_SRC_KIND, 7, 1)]) 7 :=
  ⟨canonical_of (by decide +kernel), by decide +kernel⟩

theorem witness_Declarations_3 : (fun (s : State) (n : BpIx) =>
    s.canonical ∧ s.rd .BP_CTRL_ENABLE n = 0 ∧ s.rd .BP_STATUS_STATE n = 0 ∧ s.rd .BP_STATUS_PENDING n = 0 ∧ s.rd .BP_ROUTE_SRC_KIND n ≠ 2) (wst [(.BP_ROUTE_SRC_KIND, 7, 1)]) 7 :=
  ⟨canonical_of (by decide +kernel), by decide +kernel⟩

theorem witness_Declarations_4 : (fun (s : State) (n : BpIx) =>
    s.canonical ∧ s.rd .BP_STATUS_STATE n ≠ 0) (wst [(.BP_STATUS_STATE, 7, 3)]) 7 :=
  ⟨canonical_of (by decide +kernel), by decide +kernel⟩

theorem witness_Declarations_5 : (fun (s : State) (n : BpIx) =>
    s.canonical ∧ s.rd .BP_CTRL_ENABLE n = 1 ∧ s.running n = true ∧ s.rd .BP_STATUS_PENDING n = 0) ((fun (s : State) => s.updBp 7 fun x => { x with live := true }) (wst [(.BP_CTRL_ENABLE, 7, 1)])) 7 :=
  ⟨canonical_of (by decide +kernel), by decide +kernel⟩

theorem witness_Declarations_6 : (fun (s : State) (n : BpIx) =>
    s.canonical ∧ s.rd .BP_CTRL_ENABLE n = 1 ∧ s.running n = false ∧ s.rd .BP_STATUS_PENDING n = 1) ((fun (s : State) => s.updBp 7 fun x => { x with check := some ⟨{}, true⟩ }) (wst [(.BP_CTRL_ENABLE, 7, 1), (.BP_STATUS_PENDING, 7, 1), (.BP_STATUS_STATE, 7, 1)])) 7 :=
  ⟨canonical_of (by decide +kernel), by decide +kernel⟩

theorem witness_Declarations_7 : (fun (s : State) (n : BpIx) (c : Check) =>
    s.canonical ∧ (s.bp n).check = some c ∧ (s.bp n).sub.waiting = false ∧ s.declCode n c.decl c.live ≠ 0) ((fun (s : State) => s.updBp 7 fun x => { x with check := some ⟨{}, true⟩ }) (wst [])) 7 (⟨{}, true⟩ : Check) :=
  ⟨canonical_of (by decide +kernel), by decide +kernel⟩

theorem witness_Declarations_8 : (fun (s : State) (n : BpIx) (c : Check) =>
    s.canonical ∧ (s.bp n).check = some c ∧ c.live = true ∧ (s.bp n).sub.waiting = false ∧ s.running n = false ∧ s.declCode n c.decl true = 0 ∧ c.decl.srcKind = 1 ∧ s.rd .BP_STATUS_STATE n = 1) ((fun (s : State) => s.updBp 7 fun x => { x with check := some ⟨{ span := 64, srcKind := 1, dstKind := 2, freq := 2000 * mhz }, true⟩ }) (wst [(.BP_STATUS_STATE, 7, 1), (.COL_NODE_VALID, 0, 1), (.FE_RX_FREQ_FREQ, 0, 2000 * mhz)])) 7 (⟨{ span := 64, srcKind := 1, dstKind := 2, freq := 2000 * mhz }, true⟩ : Check) :=
  ⟨canonical_of (by decide +kernel), by decide +kernel⟩

theorem witness_Declarations_9 : (fun (s : State) (n : BpIx) (c : Check) =>
    s.canonical ∧ (s.bp n).check = some c ∧ c.live = true ∧ (s.bp n).sub.waiting = false ∧ s.running n = true ∧ s.declCode n c.decl true = 0) ((fun (s : State) => s.updBp 7 fun x => { x with live := true, decl := { x.decl with srcKind := 1, dstKind := 2, span := 64 }, check := some ⟨{ span := 64, srcKind := 1, dstKind := 2, freq := 2000 * mhz }, true⟩ }) (wst [(.COL_NODE_VALID, 0, 1), (.FE_RX_FREQ_FREQ, 0, 2000 * mhz)])) 7 (⟨{ span := 64, srcKind := 1, dstKind := 2, freq := 2000 * mhz }, true⟩ : Check) :=
  ⟨canonical_of (by decide +kernel), by decide +kernel⟩

theorem witness_Declarations_10 : (fun (s : State) (n : BpIx) (d : Decl) =>
    s.canonical ∧ (s.bp n).passed = some d ∧ s.running n = true) ((fun (s : State) => s.updBp 7 fun x => { x with live := true, passed := some { span := 64, srcKind := 1, dstKind := 2 } }) (wst [])) 7 ({ span := 64, srcKind := 1, dstKind := 2 } : Decl) :=
  ⟨canonical_of (by decide +kernel), by decide +kernel⟩

theorem witness_Declarations_11 : (fun (s : State) (n : BpIx) =>
    s.canonical ∧ s.running n = true ∧ (s.bp n).stop = true ∧ s.endDue n = false ∧ s.rd .BP_STATUS_STATE n ≠ 5) ((fun (s : State) => s.updBp 7 fun x => { x with live := true, stop := true }) (wst [(.BP_STATUS_STATE, 7, 3)])) 7 :=
  ⟨canonical_of (by decide +kernel), by decide +kernel⟩

theorem witness_GrainPeriods_1 : (fun (s : State) (n : BpIx) (g : GrainInput) =>
    s.canonical ∧ s.running n = false) (wst []) 7 (⟨[], 0⟩ : GrainInput) :=
  ⟨canonical_of (by decide +kernel), by decide +kernel⟩

theorem witness_GrainPeriods_2 : (fun (s : State) (n : BpIx) (g : GrainInput) =>
    s.canonical ∧ s.running n = true ∧ (s.bp n).decl.srcKind = 1 ∧ (s.bp n).decl.dstKind = 2 ∧ (s.bp n).chz.on = true) ((fun (s : State) => s.updBp 7 fun x => { x with live := true, seq := 5, decl := { x.decl with span := 64, srcKind := 1, dstKind := 2 }, chz := { x.chz with on := true, g := 3 } }) (wst [])) 7 (⟨[], 0⟩ : GrainInput) :=
  ⟨canonical_of (by decide +kernel), by decide +kernel⟩

theorem witness_GrainPeriods_3 : (fun (s : State) (n : BpIx) (g : GrainInput) (h : Held) =>
    s.canonical ∧ s.running n = true ∧ (s.bp n).decl.srcKind = 2 ∧ (s.bp n).decl.dstKind = 2 ∧ s.nextInput n = some h) ((fun (s : State) => s.updBp 7 fun x => { x with live := true, decl := { x.decl with span := 64, srcKind := 2, dstKind := 2 }, dly := { x.dly with count := 4, input := [⟨4, 0, (⟨99, 0, 0, 4, 0, 0, []⟩ : Grain)⟩] } }) (wst [])) 7 (⟨[], 0⟩ : GrainInput) (⟨4, 0, (⟨99, 0, 0, 4, 0, 0, []⟩ : Grain)⟩ : Held) :=
  ⟨canonical_of (by decide +kernel), by decide +kernel⟩

theorem witness_GrainPeriods_4 : (fun (s : State) (n : BpIx) (p ts : Int) =>
    s.canonical ∧ s.running n = true ∧ (s.bp n).decl.srcKind = 2 ∧ (s.bp n).decl.dstKind = 2 ∧ (s.bp n).dly.accepted = some (p, ts) ∧ s.nextInput n = none) ((fun (s : State) => s.updBp 7 fun x => { x with live := true, decl := { x.decl with span := 64, srcKind := 2, dstKind := 2 }, dly := { x.dly with count := 4, accepted := some (3, 1000) } }) (wst [])) 7 3 1000 :=
  ⟨canonical_of (by decide +kernel), by decide +kernel⟩

theorem witness_GrainPeriods_5 : (fun (s : State) (n : BpIx) =>
    s.canonical ∧ s.running n = true ∧ (s.bp n).decl.srcKind = 2 ∧ (s.bp n).decl.dstKind = 2 ∧ (s.rd .BP_STATUS_STATE n = 2 ∨ s.rd .BP_STATUS_STATE n = 3)) ((fun (s : State) => s.updBp 7 fun x => { x with live := true, decl := { x.decl with span := 64, srcKind := 2, dstKind := 2 } }) (wst [(.BP_STATUS_STATE, 7, 3)])) 7 :=
  ⟨canonical_of (by decide +kernel), by decide +kernel⟩

theorem witness_GrainPeriods_6 : (fun (s : State) (n : BpIx) =>
    s.canonical ∧ s.running n = true ∧ (s.bp n).decl.srcKind = 2 ∧ (s.bp n).decl.dstKind = 1 ∧ s.rd .BP_STATUS_STATE n = 3 ∧ delayState s n = 2) ((fun (s : State) => s.updBp 7 fun x => { x with live := true, decl := { x.decl with span := 64, srcKind := 2, dstKind := 1 } }) (wst [(.BP_STATUS_STATE, 7, 3), (.FLO_STATUS_DSTATE, 7, 2)])) 7 :=
  ⟨canonical_of (by decide +kernel), by decide +kernel⟩

theorem witness_PortReceiveAndTransmitEnable_1 : (fun (s : State) (p : PortIx) =>
    s.canonical ∧ s.rd .FE_STATUS_STATE p = 0 ∧ s.fenced (0x80 + p) = false ∧ s.retuneCode p (s.staged p) = 0) (wst [(.FE_RX_FREQ_FREQ, 0, 1048576000), (.FE_TX_FREQ_FREQ, 0, 1048576000)]) 0 :=
  ⟨canonical_of (by decide +kernel), by decide +kernel⟩

theorem witness_PortReceiveAndTransmitEnable_2 : (fun (s : State) (p : PortIx) =>
    s.canonical ∧ s.rd .FE_STATUS_STATE p ≠ 0) (wst [(.FE_STATUS_STATE, 1, 3), (.FE_CTRL_RX_EN, 1, 1)]) 1 :=
  ⟨canonical_of (by decide +kernel), by decide +kernel⟩

theorem witness_PortReceiveAndTransmitEnable_3 : (fun (s : State) (p : PortIx) =>
    s.canonical) (wst [(.FE_STATUS_STATE, 3, 2)]) 3 :=
  canonical_of (by decide +kernel)

theorem witness_PortReceiveAndTransmitEnable_4 : (fun (s : State) (p : PortIx) =>
    s.canonical) (wst [(.FE_STATUS_STATE, 0, 3), (.FE_CTRL_TX_EN, 0, 1)]) 0 :=
  canonical_of (by decide +kernel)

theorem witness_PortRetuneAndLock_1 : (fun (s : State) (p : PortIx) =>
    s.canonical ∧ s.rd .FE_STATUS_STATE p = 3 ∧ s.retuneCode p (s.staged p) = 0 ∧ loMHz ((s.port p).centres.getD (s.staged p)).1 ≠ loMHz (s.rd .FE_RX_FREQ_FREQ p)) ((fun (s : State) => s.updPort 0 fun x => { x with centres := some (2097152000, 2097152000) }) (wst [(.FE_RX_FREQ_FREQ, 0, 1048576000), (.FE_TX_FREQ_FREQ, 0, 1048576000), (.FE_STATUS_STATE, 0, 3)])) 0 :=
  ⟨canonical_of (by decide +kernel), by decide +kernel⟩

theorem witness_PortRetuneAndLock_2 : (fun (s : State) (p : PortIx) =>
    s.canonical ∧ s.retuneCode p (s.staged p) ≠ 0) (wst []) 2 :=
  ⟨canonical_of (by decide +kernel), by decide +kernel⟩

theorem witness_PortRetuneAndLock_3 : (fun (s : State) (p : PortIx) =>
    s.canonical ∧ s.rd .FE_STATUS_STATE p = 3) (wst [(.FE_STATUS_STATE, 2, 3)]) 2 :=
  ⟨canonical_of (by decide +kernel), by decide +kernel⟩

theorem witness_PortRetuneAndLock_4 : (fun (s : State) (p : PortIx) =>
    s.canonical ∧ s.rd .FE_STATUS_STATE p = 1 ∧ (s.port p).calibrated = true ∧ (s.port p).calDue = false) ((fun (s : State) => s.updPort 3 fun x => { x with calibrated := true }) (wst [(.FE_STATUS_STATE, 3, 1)])) 3 :=
  ⟨canonical_of (by decide +kernel), by decide +kernel⟩

theorem witness_PortRetuneAndLock_5 : (fun (s : State) (p : PortIx) =>
    s.canonical ∧ s.rd .FE_STATUS_STATE p = 1 ∧ (s.port p).calibrated = false) (wst [(.FE_STATUS_STATE, 0, 1)]) 0 :=
  ⟨canonical_of (by decide +kernel), by decide +kernel⟩

theorem witness_PortRetuneAndLock_6 : (fun (s : State) (p : PortIx) =>
    s.canonical ∧ s.rd .FE_STATUS_STATE p = 1) (wst [(.FE_STATUS_STATE, 1, 1)]) 1 :=
  ⟨canonical_of (by decide +kernel), by decide +kernel⟩

theorem witness_PortRetuneAndLock_7 : (fun (s : State) (p : PortIx) =>
    s.canonical ∧ s.rd .FE_STATUS_STATE p = 3) (wst [(.FE_STATUS_STATE, 1, 3)]) 1 :=
  ⟨canonical_of (by decide +kernel), by decide +kernel⟩

theorem witness_PortRetuneAndLock_8 : (fun (s : State) (p : PortIx) =>
    s.canonical ∧ s.rd .FE_STATUS_TX_HELD p = 1) (wst [(.FE_STATUS_STATE, 2, 1), (.FE_STATUS_TX_HELD, 2, 1)]) 2 :=
  ⟨canonical_of (by decide +kernel), by decide +kernel⟩

theorem witness_PortCalibrationAndAttenuators_1 : (fun (s : State) (p : PortIx) (rx tx obs : Nat) =>
    s.canonical ∧ s.rd .FE_STATUS_STATE p = 2 ∧ (s.port p).retune = none) (wst [(.FE_STATUS_STATE, 1, 2)]) 1 60 61 62 :=
  ⟨canonical_of (by decide +kernel), by decide +kernel⟩

theorem witness_PortCalibrationAndAttenuators_2 : (fun (s : State) (p : PortIx) (c : Nat × Nat) (r : Nat × Nat × Nat) =>
    s.canonical ∧ s.rd .FE_STATUS_STATE p = 2 ∧ (s.port p).retune = some c) ((fun (s : State) => s.updPort 1 fun x => { x with retune := some (5, 6) }) (wst [(.FE_STATUS_STATE, 1, 2)])) 1 (5, 6) (1, 2, 3) :=
  ⟨canonical_of (by decide +kernel), by decide +kernel⟩

theorem witness_PortCalibrationAndAttenuators_3 : (fun (s : State) (p : PortIx) =>
    s.canonical ∧ s.rd .FE_STATUS_STATE p = 2) (wst [(.FE_STATUS_STATE, 1, 2)]) 1 :=
  ⟨canonical_of (by decide +kernel), by decide +kernel⟩

theorem witness_PortCalibrationAndAttenuators_4 : (fun (s : State) (p : PortIx) (tx obs : Bool) =>
    s.canonical ∧ s.rd .FE_STATUS_STATE p = 3 ∧ s.rd .FE_CAL_CTRL_BG_RX p = 1) ((fun (s : State) => s.updPort 0 fun x => { x with stale := [0, 1] }) (wst [(.FE_STATUS_STATE, 0, 3), (.FE_CAL_CTRL_BG_RX, 0, 1)])) 0 false false :=
  ⟨canonical_of (by decide +kernel), by decide +kernel⟩

theorem witness_PortCalibrationAndAttenuators_5 : (fun (s : State) (p : PortIx) =>
    s.canonical ∧ s.chainStale p 1 = true ∧ (s.port p).stale.contains 1 = false) ((fun (s : State) => { s.updPort 0 fun x => { x with calAt := [(64, some (0, 0))] } with clk := { tick := 100000000, cycle := 0 } }) (wst [(.THM_TEMP_TEMP, 1, 3000)])) 0 :=
  ⟨canonical_of (by decide +kernel), by decide +kernel⟩

theorem witness_PortCalibrationAndAttenuators_6 : (fun (s : State) (p : PortIx) =>
    s.canonical ∧ s.attOf p ≠ (s.port p).att ∧ s.rd .FE_STATUS_STATE p ≠ 2) (wst [(.FE_ATT_RX_ATT, 3, 10)]) 3 :=
  ⟨canonical_of (by decide +kernel), by decide +kernel⟩

theorem witness_RelayMoves_1 : (fun (s : State) (p : PortIx) =>
    s.canonical ∧ (s.port p).move = none ∧ s.relayWanted p ≠ (s.port p).relay) ((fun (s : State) => s.updPort 1 fun x => { x with relay := 0 }) (wst [])) 1 :=
  ⟨canonical_of (by decide +kernel), by decide +kernel⟩

theorem witness_RelayMoves_2 : (fun (s : State) (p : PortIx) (sensed : Fin 4) =>
    s.canonical ∧ (s.port p).move = some sensed.val ∧ s.relayWanted p = sensed.val) ((fun (s : State) => s.updPort 1 fun x => { x with move := some 2 }) (wst [])) 1 2 :=
  ⟨canonical_of (by decide +kernel), by decide +kernel⟩

theorem witness_RelayMoves_3 : (fun (s : State) (p : PortIx) (target : Nat) (sensed : Fin 4) =>
    s.canonical ∧ (s.port p).move = some target ∧ target ≠ sensed.val) ((fun (s : State) => s.updPort 1 fun x => { x with move := some 0 }) (wst [])) 1 0 1 :=
  ⟨canonical_of (by decide +kernel), by decide +kernel⟩

theorem witness_PilotStates_1 : (fun (s : State) (p : PortIx) =>
    s.canonical) (wst []) 0 :=
  canonical_of (by decide +kernel)

theorem witness_PilotStates_2 : (fun (s : State) (p : PortIx) =>
    s.canonical ∧ (s.port p).pilot.mode = 0 ∧ (s.port p).pilot.mutes = [] ∧ s.modeCode p 1 (s.rd .FE_PILOT_FREQ_FREQ p) (s.rd .FE_PILOT_SHIFT_FREQ p) = 0) (openMask (wst [(.FE_RX_FREQ_FREQ, 0, 1048576000), (.FE_TX_FREQ_FREQ, 0, 1048576000), (.FE_PILOT_FREQ_FREQ, 0, 1048576000), (.FE_PILOT_CTRL_LEVEL, 0, 60), (.PLN_STATUS_LOADED, 0, 1)])) 0 :=
  ⟨canonical_of (by decide +kernel), by decide +kernel⟩

theorem witness_PilotStates_3 : (fun (s : State) (p : PortIx) =>
    s.canonical ∧ s.rd .FE_PILOT_STATUS_PSTATE p = 1) (wst [(.FE_PILOT_STATUS_PSTATE, 2, 1)]) 2 :=
  ⟨canonical_of (by decide +kernel), by decide +kernel⟩

theorem witness_PilotStates_4 : (fun (s : State) (p : PortIx) =>
    s.canonical ∧ s.rd .FE_PILOT_STATUS_PSTATE p = 1) (wst [(.FE_PILOT_STATUS_PSTATE, 2, 1)]) 2 :=
  ⟨canonical_of (by decide +kernel), by decide +kernel⟩

theorem witness_PilotStates_5 : (fun (s : State) (p : PortIx) (a b c : BitVec 40) (x : Int) =>
    s.canonical ∧ s.rd .FE_PILOT_STATUS_PSTATE p = 2 ∧ roundTrip a.toNat b.toNat c.toNat (s.rd .FE_PILOT_PRIOR_PRIOR p) = some x) (wst [(.FE_PILOT_STATUS_PSTATE, 1, 2)]) 1 0 0 0 0 :=
  ⟨canonical_of (by decide +kernel), by decide +kernel⟩

theorem witness_PilotStates_6 : (fun (s : State) (p : PortIx) (a b c : BitVec 40) =>
    s.canonical ∧ s.rd .FE_PILOT_STATUS_PSTATE p = 2 ∧ roundTrip a.toNat b.toNat c.toNat (s.rd .FE_PILOT_PRIOR_PRIOR p) = none) (wst [(.FE_PILOT_STATUS_PSTATE, 1, 2)]) 1 0 549755813888 0 :=
  ⟨canonical_of (by decide +kernel), by decide +kernel⟩

theorem witness_ChannelizerSyncAndFades_1 : (fun (s : State) (q : CoreIx) =>
    s.canonical ∧ (s.bp (s.rd .CHZ_SEL_N q)).chz.on = true ∧ s.rd .CHZ_CHAIN_BYPASS (s.rd .CHZ_SEL_N q) = 0) ((fun (s : State) => s.updBp 7 fun x => { x with chz := { x.chz with on := true }, decl := { x.decl with span := 64 } }) (wst [(.CHZ_SEL_N, 2, 7)])) 2 :=
  ⟨canonical_of (by decide +kernel), by decide +kernel⟩

theorem witness_ChannelizerSyncAndFades_2 : (fun (s : State) (n : BpIx) (m : Nat) =>
    s.canonical ∧ (s.bp n).chz.syncAt = some m ∧ (s.bp n).chz.swap = none ∧ (s.bp n).chz.fade = none) ((fun (s : State) => s.updBp 7 fun x => { x with chz := { x.chz with syncAt := some 99 } }) (wst [])) 7 99 :=
  ⟨canonical_of (by decide +kernel), by decide +kernel⟩

theorem witness_ChannelizerSyncAndFades_3 : (fun (s : State) (n : BpIx) (m : Nat) (w : Swap) =>
    s.canonical ∧ (s.bp n).chz.syncAt = some m ∧ (s.bp n).chz.swap = some w) ((fun (s : State) => s.updBp 7 fun x => { x with chz := { x.chz with syncAt := some 99, swap := some ⟨1, 4, none⟩ } }) (wst [])) 7 99 (⟨1, 4, none⟩ : Swap) :=
  ⟨canonical_of (by decide +kernel), by decide +kernel⟩

theorem witness_ChannelizerSyncAndFades_4 : (fun (s : State) (q : CoreIx) (bank : Fin 4) (fade : Fin 16) =>
    s.canonical ∧ s.rd .CHZ_CHAIN_BYPASS (s.rd .CHZ_SEL_N q) = 0 ∧ bank.val < 2 ∧ s.rd .BP_STATUS_STATE (s.rd .CHZ_SEL_N q) ≠ 0) (wst [(.CHZ_SEL_N, 1, 3), (.BP_STATUS_STATE, 3, 2)]) 1 1 5 :=
  ⟨canonical_of (by decide +kernel), by decide +kernel⟩

theorem witness_ChannelizerSyncAndFades_5 : (fun (s : State) (q : CoreIx) (fade : Fin 16) =>
    s.canonical ∧ s.rd .CHZ_BANK_STATUS_OK3 (s.rd .CHZ_SEL_N q) = 0) (wst [(.CHZ_SEL_N, 1, 3)]) 1 2 :=
  ⟨canonical_of (by decide +kernel), by decide +kernel⟩

theorem witness_ChannelizerSyncAndFades_6 : (fun (s : State) (q : CoreIx) (fade : Fin 16) =>
    s.canonical ∧ s.rd .CHZ_CHAIN_BYPASS (s.rd .CHZ_SEL_N q) = 0 ∧ s.rd .BP_STATUS_STATE (s.rd .CHZ_SEL_N q) = 0) (wst [(.CHZ_SEL_N, 1, 3)]) 1 2 :=
  ⟨canonical_of (by decide +kernel), by decide +kernel⟩

theorem witness_ChannelizerSyncAndFades_7 : (fun (s : State) (n : BpIx) (w : Swap) =>
    s.canonical ∧ (s.bp n).chz.fade = none ∧ (s.bp n).chz.swap = some w ∧ w.earliest = none ∧ (s.bp n).chz.on = true ∧ w.bank ≠ s.rd .CHZ_BANK_STATUS_ACTIVE n) ((fun (s : State) => s.updBp 7 fun x => { x with chz := { x.chz with on := true, swap := some ⟨1, 4, none⟩ } }) (wst [])) 7 (⟨1, 4, none⟩ : Swap) :=
  ⟨canonical_of (by decide +kernel), by decide +kernel⟩

theorem witness_ChannelizerSyncAndFades_8 : (fun (s : State) (n : BpIx) (f : Fade) =>
    s.canonical ∧ (s.bp n).chz.fade = some f ∧ (s.bp n).chz.on = true ∧ (s.bp n).chz.g = f.start + f.grains) ((fun (s : State) => s.updBp 7 fun x => { x with chz := { x.chz with on := true, g := 9, fade := some ⟨0, 1, 5, 4⟩ } }) (wst [])) 7 (⟨0, 1, 5, 4⟩ : Fade) :=
  ⟨canonical_of (by decide +kernel), by decide +kernel⟩

theorem witness_UserBanks_1 : (fun (s : State) (q : CoreIx) (b : Bool) =>
    s.canonical ∧ (s.bankFree (s.rd .CHZ_SEL_N q) (if b then 3 else 2) = true)) (wst []) 0 true :=
  ⟨canonical_of (by decide +kernel), by decide +kernel⟩

theorem witness_UserBanks_2 : (fun (s : State) (n : BpIx) =>
    s.canonical ∧ s.rd .CHZ_BANK_STATUS_CHECKING n = 1 ∧ (s.bp n).chz.checks3 = false) (wst [(.CHZ_BANK_STATUS_CHECKING, 5, 1)]) 5 :=
  ⟨canonical_of (by decide +kernel), by decide +kernel⟩

theorem witness_UserBanks_3 : (fun (s : State) (q : CoreIx) (w : Word) =>
    s.canonical ∧ s.rd .CHZ_COEF_ADDR_BANK q = 2 ∧ s.rd .CHZ_COEF_ADDR_TAP q ≤ 190 ∧ s.bankFree (s.rd .CHZ_SEL_N q) 2 = true ∧ (Store.wf (fun _ => 0) (s.bp (s.rd .CHZ_SEL_N q)).chz.bank2 = true)) (wst [(.CHZ_COEF_ADDR_BANK, 1, 2), (.CHZ_COEF_ADDR_TAP, 1, 190), (.CHZ_COEF_ADDR_AUTO_INC, 1, 1), (.CHZ_BANK_STATUS_OK2, 0, 1)]) 1 0x2ABCD :=
  ⟨canonical_of (by decide +kernel), by decide +kernel⟩

theorem witness_UserBanks_4 : (fun (s : State) (q : CoreIx) (w : Word) =>
    s.canonical ∧ s.bankFree (s.rd .CHZ_SEL_N q) (s.rd .CHZ_COEF_ADDR_BANK q) = false) (wst []) 1 5 :=
  ⟨canonical_of (by decide +kernel), by decide +kernel⟩

theorem witness_UserBanks_5 : (fun (s : State) (q : CoreIx) =>
    s.canonical) (wst [(.CHZ_COEF_ADDR_TAP, 3, 190), (.CHZ_COEF_ADDR_AUTO_INC, 3, 1)]) 3 :=
  canonical_of (by decide +kernel)

theorem witness_EngineEvents_1 : (fun (s : State) (n : BpIx) (late : Option (Fin 5)) =>
    s.canonical ∧ s.running n = true ∧ (s.bp n).eng.overran = false) ((fun (s : State) => s.updBp 9 fun x => { x with live := true, eng := { x.eng with next := some {} } }) (wst [(.GCE_OVR_OVR_CONSEC, 9, 2)])) 9 (some 3) :=
  ⟨canonical_of (by decide +kernel), by decide +kernel⟩

theorem witness_EngineEvents_2 : (fun (s : State) (n : BpIx) =>
    s.canonical) (wst []) 9 :=
  canonical_of (by decide +kernel)

theorem witness_EngineEvents_3 : (fun (s : State) (n : BpIx) =>
    s.canonical ∧ (s.bp n).eng.now.cs = 1) ((fun (s : State) => s.updBp 9 fun x => { x with eng := { x.eng with now := { x.eng.now with cs := 1 } } }) (wst [])) 9 :=
  ⟨canonical_of (by decide +kernel), by decide +kernel⟩

theorem witness_SetPointPinsAndClamps_1 : (fun (s : State) (q : CoreIx) (v : BitVec 16) =>
    s.canonical ∧ signed 16 v.toNat ≤ s.rdS .GCE_CEIL_HARD_CEIL (s.rd .GCE_SEL_N q)) (wst [(.GCE_CEIL_HARD_CEIL, 0, 100)]) 0 100 :=
  ⟨canonical_of (by decide +kernel), by decide +kernel⟩

theorem witness_SetPointPinsAndClamps_2 : (fun (s : State) (q : CoreIx) (v : BitVec 16) =>
    s.canonical ∧ s.rdS .GCE_CEIL_HARD_CEIL (s.rd .GCE_SEL_N q) < signed 16 v.toNat) (wst [(.GCE_CEIL_HARD_CEIL, 0, 100)]) 0 101 :=
  ⟨canonical_of (by decide +kernel), by decide +kernel⟩

theorem witness_SetPointPinsAndClamps_3 : (fun (s : State) (q : CoreIx) (v : BitVec 16) =>
    s.canonical ∧ s.rd .GCE_SLEW_SP_SLEW (s.rd .GCE_SEL_N q) < v.toNat) (wst [(.GCE_SLEW_SP_SLEW, 0, 100)]) 0 101 :=
  ⟨canonical_of (by decide +kernel), by decide +kernel⟩

theorem witness_SetPointPinsAndClamps_4 : (fun (s : State)  =>
    s.canonical ∧ s.rd .GCE_SETA_VALID = 1) (wst [(.GCE_SETA_VALID, 0, 1), (.GCE_MODE_SP_SRC, 127, 1)])  :=
  ⟨canonical_of (by decide +kernel), by decide +kernel⟩

theorem witness_SetPointPinsAndClamps_5 : (fun (s : State) (period high : Nat) =>
    s.canonical ∧ 400 ≤ period ∧ period ≤ 4000000 ∧ 15 ≤ s.pins.setpRun) ((fun (s : State) => { s with pins := { s.pins with setpRun := 15 } }) (wst [])) 400 100 :=
  ⟨canonical_of (by decide +kernel), by decide +kernel⟩

theorem witness_SetPointPinsAndClamps_6 : (fun (s : State) (period high : Nat) =>
    s.canonical ∧ period < 400 ∧ s.rd .GCE_SETP_VALID = 1) (wst [(.GCE_SETP_VALID, 0, 1)]) 399 100 :=
  ⟨canonical_of (by decide +kernel), by decide +kernel⟩

theorem witness_SetPointPinsAndClamps_7 : (fun (s : State)  =>
    s.canonical ∧ s.rd .GCE_SETP_VALID = 1) (wst [(.GCE_SETP_VALID, 0, 1)])  :=
  ⟨canonical_of (by decide +kernel), by decide +kernel⟩

theorem witness_GainBelowEveryCeiling : (fun (s : State) (n : BpIx) => (s.coldStep n (s.bp n).eng.now).cs = 1)
    ((wst []).updBp 3 fun x => { x with eng := { x.eng with now := { x.eng.now with cs := 1 } } }) 3 := by decide +kernel

theorem witness_SaddleUpdates_1 : (fun (s : State) (n : BpIx) (e : Estimate) =>
    s.canonical ∧ s.updateDue n = true ∧ (List.range 8).any (s.newLoopIn n e.own) = true) ((fun (s : State) => s.updBp 7 fun x => { x with live := true, sad := { x.sad with seen := 2 ^ 21, quietOwn := [(2, some 5)] } }) (wst [(.SDL_WATCH_EN, 105, 1), (.SDL_DETECT_DET, 7, 1), (.SDL_CTRL_K_LOG2, 7, 20)])) 7 (⟨⟨[[], [], [50, 3]], [0, 0, 12]⟩, []⟩ : Estimate) :=
  ⟨canonical_of (by decide +kernel), by decide +kernel⟩

theorem witness_SaddleUpdates_2 : (fun (s : State) (n : BpIx) (e : Estimate) =>
    s.canonical ∧ s.updateDue n = true ∧ (List.range 8).any (s.newLoopIn n e.own) = false) ((fun (s : State) => s.updBp 7 fun x => { x with live := true, sad := { x.sad with seen := 2 ^ 21, quietOwn := [(2, some 5)] } }) (wst [(.SDL_WATCH_EN, 105, 1), (.SDL_DETECT_DET, 7, 1), (.SDL_CTRL_K_LOG2, 7, 20)])) 7 (⟨⟨[[], [], [48, 3]], [0, 0, 12]⟩, []⟩ : Estimate) :=
  ⟨canonical_of (by decide +kernel), by decide +kernel⟩

theorem witness_SaddleUpdates_3 : (fun (s : State) (n : BpIx) (e : Estimate) (w : Fin 15) (c : Correlation) =>
    s.canonical ∧ s.updateDue n = true ∧ e.watched[w.val]? = some c) ((fun (s : State) => s.updBp 7 fun x => { x with live := true, sad := { x.sad with seen := 2 ^ 21, quietWatch := [(0, some 5)] } }) (wst [(.SDL_WATCH_EN, 105, 1), (.SDL_DETECT_DET, 7, 1), (.SDL_CTRL_K_LOG2, 7, 20)])) 7 (⟨⟨[], []⟩, [⟨[], []⟩]⟩ : Estimate) 0 (⟨[], []⟩ : Correlation) :=
  ⟨canonical_of (by decide +kernel), by decide +kernel⟩

theorem witness_SaddleUpdates_4 : (fun (s : State) (n : BpIx) (e : Estimate) =>
    s.canonical ∧ s.updateDue n = false) (wst []) 7 (⟨⟨[], []⟩, []⟩ : Estimate) :=
  ⟨canonical_of (by decide +kernel), by decide +kernel⟩

theorem witness_SaddleUpdates_5 : (fun (s : State) (q : CoreIx) (i : Fin 15) (w : Word) =>
    s.canonical) (wst [(.SDL_SEL_N, 1, 7), (.SDL_DETECT_DET, 7, 32767), (.SDL_STATUS_MEAS_DONE, 7, 1)]) 1 14 0x80012345 :=
  canonical_of (by decide +kernel)

theorem witness_SaddleUpdates_6 : (fun (s : State) (q : CoreIx) (v : BitVec 16) =>
    s.canonical ∧ signed 16 v.toNat ≤ s.rdS .SDL_LIMIT_HARD_FLOOR) (wst []) 2 0xFFFF :=
  ⟨canonical_of (by decide +kernel), by decide +kernel⟩

theorem witness_SaddleUpdates_7 : (fun (s : State) (q : CoreIx) (v : BitVec 16) =>
    s.canonical ∧ s.rdS .SDL_LIMIT_HARD_FLOOR < signed 16 v.toNat) (wst []) 2 1 :=
  ⟨canonical_of (by decide +kernel), by decide +kernel⟩

theorem witness_SaddleUpdates_8 : (fun (s : State) (d : Nat) =>
    s.canonical ∧ s.rd .COL_NODE_VALID = 1 ∧ s.partners = [d] ∧ s.digest ≠ [] ∧ s.digest.length ≤ 63) ((fun (s : State) => s.updBp 7 fun x => { x with live := true, pub := { x.pub with subscriber := some (33, 2) } }) (wst [(.COL_NODE_VALID, 0, 1), (.COL_NODE_ADDR, 0, 9)])) 33 :=
  ⟨canonical_of (by decide +kernel), by decide +kernel⟩

theorem witness_SaddleUpdates_9 : (fun (s : State) (l : LaneIx) (f : Frame) (w : Word64) =>
    s.canonical ∧ s.hears l f 12 = true ∧ bits 40 6 (msgW f 0) = 1 ∧ f.words[1]? = some w ∧ bits 0 2 w.toNat = 2) (wst [(.LANE_STATUS_STATE, 3, 3)]) 3 { cls := 2, dest := 0, src := 1, isLocal := true, words := [msgWord 12 0 0 false 0 1, 0xE00006] } 0xE00006 :=
  ⟨canonical_of (by decide +kernel), by decide +kernel⟩

theorem witness_SaddleUpdates_10 : (fun (s : State) (l : LaneIx) (f : Frame) (w : Word64) (n : BpIx) (v : Fin 15) =>
    s.canonical ∧ s.hears l f 12 = true ∧ bits 40 6 (msgW f 0) = 1 ∧ f.words[1]? = some w ∧ bits 0 2 w.toNat = 1 ∧ s.running n = true ∧ s.watchCode n v = some (bits 2 19 w.toNat)) ((fun (s : State) => s.updBp 5 fun x => { x with live := true }) (wst [(.LANE_STATUS_STATE, 3, 3), (.SDL_WATCH_EN, 79, 1), (.SDL_WATCH_BP, 79, 1)])) 3 { cls := 2, dest := 0, src := 1, isLocal := true, words := [msgWord 12 0 0 false 0 1, 0xFF000000000005] } 0xFF000000000005 5 4 :=
  ⟨canonical_of (by decide +kernel), by decide +kernel⟩

theorem witness_SaddleUpdates_11 : (fun (s : State) (n : BpIx) (w : Fin 15) (c : Nat) =>
    s.canonical ∧ s.watchCode n w = some c ∧ s.isMutual n w = true) ((fun (s : State) => { s with remoteDet := [(1, 5)] }) (wst [(.SDL_WATCH_EN, 79, 1), (.SDL_WATCH_BP, 79, 1), (.SDL_DETECT_DET, 5, 16)])) 5 4 1 :=
  ⟨canonical_of (by decide +kernel), by decide +kernel⟩

theorem witness_GuardedFunctionG1_1 : (fun (s : State) (n : BpIx) (m : Fin 65) =>
    s.canonical ∧ s.ovlN ≤ m ∧ s.running n = true ∧ s.rd .SDL_STATUS_G1_MUTED n = 0) ((fun (s : State) => s.updBp 7 fun x => { x with live := true }) (wst [])) 7 64 :=
  ⟨canonical_of (by decide +kernel), by decide +kernel⟩

theorem witness_GuardedFunctionG1_2 : (fun (s : State) (n : BpIx) (m : Fin 65) =>
    s.canonical ∧ m < s.ovlN) (wst []) 7 0 :=
  ⟨canonical_of (by decide +kernel), by decide +kernel⟩

theorem witness_GuardedFunctionG1_3 : (fun (s : State) (n : BpIx) =>
    s.canonical ∧ s.rd .SDL_STATUS_G1_MUTED n = 1 ∧ (s.bp n).mutes = [muteG1] ∧ s.running n = true ∧ s.fenced n = false) ((fun (s : State) => s.updBp 7 fun x => { x with live := true, mutes := [muteG1] }) (wst [(.SDL_STATUS_G1_MUTED, 7, 1)])) 7 :=
  ⟨canonical_of (by decide +kernel), by decide +kernel⟩

theorem witness_DelayTargetsAndSteps_1 : (fun (s : State) (q : CoreIx) (hi : Word) (n : Nat) (v : Int) =>
    s.canonical ∧ s.rd .FLO_SEL_N q = n ∧ v = signed 48 ((s.bp n).dly.stagedLo.getD (s.rd .FLO_TARGET_LO_TARGET n) % 2 ^ 32 + hi.toNat % 2 ^ 16 * 2 ^ 32) ∧ s.targetCode n v = 0) ((fun (s : State) => s.updBp 7 fun x => { x with dly := { x.dly with stagedLo := some 5 } }) (wst [(.FLO_SEL_N, 1, 7), (.FLO_STATUS_REJECT, 7, 2)])) 1 3 7 12884901893 :=
  ⟨canonical_of (by decide +kernel), by decide +kernel⟩

theorem witness_DelayTargetsAndSteps_2 : (fun (s : State) (q : CoreIx) (hi : Word) (n : Nat) (v : Int) =>
    s.canonical ∧ s.rd .FLO_SEL_N q = n ∧ v = signed 48 ((s.bp n).dly.stagedLo.getD (s.rd .FLO_TARGET_LO_TARGET n) % 2 ^ 32 + hi.toNat % 2 ^ 16 * 2 ^ 32) ∧ s.targetCode n v ≠ 0) ((fun (s : State) => s.updBp 7 fun x => { x with dly := { x.dly with stagedLo := some 0 } }) (wst [(.FLO_SEL_N, 1, 7)])) 1 0x8000 7 (-140737488355328) :=
  ⟨canonical_of (by decide +kernel), by decide +kernel⟩

theorem witness_DelayTargetsAndSteps_3 : (fun (s : State) (q : CoreIx) (hi : Word) (n : Nat) (v : Int) =>
    s.canonical ∧ s.rd .FLO_SEL_N q = n ∧ v = signed 48 ((s.bp n).dly.stagedLo.getD (s.rd .FLO_TARGET_LO_TARGET n) % 2 ^ 32 + hi.toNat % 2 ^ 16 * 2 ^ 32) ∧ s.targetCode n v = 0 ∧ delayState s n = 2 ∧ s.rd .FLO_CTRL_STEP_OK n = 0 ∧ (v * fine : Int) ≠ (s.bp n).dly.applied) ((fun (s : State) => s.updBp 7 fun x => { x with dly := { x.dly with stagedLo := some 5 } }) (wst [(.FLO_SEL_N, 1, 7), (.FLO_STATUS_DSTATE, 7, 2)])) 1 3 7 12884901893 :=
  ⟨canonical_of (by decide +kernel), by decide +kernel⟩

theorem witness_DelayTargetsAndSteps_4 : (fun (s : State) (n : BpIx) =>
    s.canonical ∧ s.running n = true ∧ (s.bp n).dly.stepTo = true ∧ tilesFor (s.bp n).decl.span (s.targetOf n * fine) ≤ runsCount (s.bp n).dly.tiles) ((fun (s : State) => s.updBp 7 fun x => { x with live := true, dly := { x.dly with stepTo := true, tiles := [(70000, 100)] } }) (wst [(.FLO_TARGET_LO_TARGET, 7, 4096)])) 7 :=
  ⟨canonical_of (by decide +kernel), by decide +kernel⟩

theorem witness_DelayTargetsAndSteps_5 : (fun (s : State) (v : BitVec 16) =>
    s.canonical ∧ v.toNat ≤ s.rd .FLO_SLEW_DLY_SLEW) (wst [(.FLO_SLEW_DLY_SLEW, 0, 40)]) 40 :=
  ⟨canonical_of (by decide +kernel), by decide +kernel⟩

theorem witness_DelayTargetsAndSteps_6 : (fun (s : State) (v : BitVec 16) =>
    s.canonical ∧ s.rd .FLO_SLEW_DLY_SLEW < v.toNat) (wst [(.FLO_SLEW_DLY_SLEW, 0, 40)]) 41 :=
  ⟨canonical_of (by decide +kernel), by decide +kernel⟩

theorem witness_DelayStates_1 : (fun (s : State) (n : BpIx) =>
    s.canonical ∧ delayState s n = 1 ∧ (s.arrivalAge n).isSome = true ∧ (s.refreshMin n).dMin n ≤ s.targetOf n ∧ tilesFor (s.bp n).decl.span (s.targetOf n * fine) ≤ runsCount (s.bp n).dly.tiles) ((fun (s : State) => s.updBp 7 fun x => { x with live := true, decl := { x.decl with span := 64, srcKind := 1, dstKind := 1 }, dly := { x.dly with tiles := [(70000, 10000)] } }) (wst [(.FLO_STATUS_DSTATE, 7, 1), (.FLO_TARGET_HI_TARGET, 7, 64)])) 7 :=
  ⟨canonical_of (by decide +kernel), by decide +kernel⟩

theorem witness_DelayStates_2 : (fun (s : State) (n : BpIx) =>
    s.canonical ∧ delayState s n = 1 ∧ (s.arrivalAge n).isSome = true ∧ s.targetOf n < (s.refreshMin n).dMin n ∧ s.rd .FLO_CTRL_STRICT n = 0 ∧ tilesFor (s.bp n).decl.span (max (s.targetOf n * fine) ((s.refreshMin n).marginDelay n * fine)) ≤ runsCount (s.bp n).dly.tiles) ((fun (s : State) => s.updBp 7 fun x => { x with live := true, decl := { x.decl with span := 64, srcKind := 1, dstKind := 1 }, dly := { x.dly with tiles := [(70000, 10000)] } }) (wst [(.FLO_STATUS_DSTATE, 7, 1), (.FLO_CTRL_STRICT, 7, 0)])) 7 :=
  ⟨canonical_of (by decide +kernel), by decide +kernel⟩

theorem witness_DelayStates_3 : (fun (s : State) (n : BpIx) =>
    s.canonical ∧ delayState s n = 1 ∧ (s.arrivalAge n).isSome = true ∧ s.targetOf n < (s.refreshMin n).dMin n ∧ s.rd .FLO_CTRL_STRICT n = 1) ((fun (s : State) => s.updBp 7 fun x => { x with live := true, decl := { x.decl with span := 64, srcKind := 1, dstKind := 1 }, dly := { x.dly with tiles := [] } }) (wst [(.FLO_STATUS_DSTATE, 7, 1), (.FLO_CTRL_STRICT, 7, 1)])) 7 :=
  ⟨canonical_of (by decide +kernel), by decide +kernel⟩

theorem witness_DelayStates_4 : (fun (s : State) (n : BpIx) =>
    s.canonical ∧ (delayState s n = 2 ∨ delayState s n = 3) ∧ 4 ≤ (s.bp n).dly.lates) ((fun (s : State) => s.updBp 7 fun x => { x with dly := { x.dly with lates := 4 } }) (wst [(.FLO_STATUS_DSTATE, 7, 3), (.BP_STATUS_STATE, 7, 2)])) 7 :=
  ⟨canonical_of (by decide +kernel), by decide +kernel⟩

theorem witness_DelayStates_5 : (fun (s : State) (n : BpIx) =>
    s.canonical ∧ delayState s n = 4 ∧ (s.arrivalAge n).isSome = true ∧ (s.bp n).dly.before = 2 ∧ (s.refreshMin n).dMin n * fine ≤ (s.bp n).dly.applied) ((fun (s : State) => s.updBp 7 fun x => { x with live := true, decl := { x.decl with span := 64, srcKind := 1, dstKind := 1 }, dly := { x.dly with before := 2, applied := 10 ^ 20 } }) (wst [(.FLO_STATUS_DSTATE, 7, 4)])) 7 :=
  ⟨canonical_of (by decide +kernel), by decide +kernel⟩

theorem witness_DelayStates_6 : (fun (s : State) (n : BpIx) =>
    s.canonical ∧ delayState s n = 3 ∧ s.rd .FLO_CTRL_RESTORE n = 1 ∧ s.dMin n + usQ (s.estabMargin n) ≤ s.targetOf n ∧ tilesFor (s.bp n).decl.span (s.targetOf n * fine) ≤ runsCount (s.bp n).dly.tiles) ((fun (s : State) => s.updBp 7 fun x => { x with live := true, decl := { x.decl with span := 64, srcKind := 1, dstKind := 1 }, dly := { x.dly with tiles := [(70000, 10000)] } }) (wst [(.FLO_STATUS_DSTATE, 7, 3), (.FLO_CTRL_RESTORE, 7, 1), (.FLO_TARGET_HI_TARGET, 7, 1)])) 7 :=
  ⟨canonical_of (by decide +kernel), by decide +kernel⟩

theorem witness_TileReadsAndQuarantine_1 : (fun (s : State) (x : BitVec 23) (r : TileRead) =>
    s.canonical ∧ s.tileInUse x.toNat = true ∧ r.onDie = false ∧ r.ce = false ∧ s.sealCause x.toNat r = 0) (wst []) 57344 (⟨List.replicate 4096 0, sealBytes (tileCrc (List.replicate 4096 0) 57344 0) 0 0x5000, false, false, false⟩ : TileRead) :=
  ⟨canonical_of (by decide +kernel), by decide +kernel, rfl, rfl,
    sealCause_sound List.length_replicate (by decide +kernel) (by decide +kernel)⟩

theorem witness_TileReadsAndQuarantine_2 : (fun (s : State) (x : BitVec 23) (r : TileRead) =>
    s.canonical ∧ s.tileInUse x.toNat = true ∧ r.onDie = false ∧ s.sealCause x.toNat r ≠ 0) (wst []) 57344 (⟨[], [], false, false, false⟩ : TileRead) :=
  ⟨canonical_of (by decide +kernel), by decide +kernel⟩

theorem witness_TileReadsAndQuarantine_3 : (fun (s : State) (x : BitVec 23) (r : TileRead) (n k : Nat) =>
    s.canonical ∧ r.onDie = true ∧ r.ue = true ∧ s.tileOwner x.toNat = 4096 + n ∧ n < 128 ∧ s.dieRun n x.toNat = some k) ((fun (s : State) => s.updBp 7 fun x => { x with dly := { x.dly with tiles := [(70000, 5)], count := 20 } }) (wst [])) 70000 (⟨[], [], true, false, true⟩ : TileRead) 7 0 :=
  ⟨canonical_of (by decide +kernel), by decide +kernel⟩

theorem witness_TileReadsAndQuarantine_4 : (fun (s : State) (x : BitVec 23) =>
    s.canonical ∧ x.toNat ∈ s.tiles.quarantine) ((fun (s : State) => { s with tiles := { s.tiles with quarantine := [5, 6] } }) (wst [])) 5 :=
  ⟨canonical_of (by decide +kernel), by decide +kernel⟩

theorem witness_TileReadsAndQuarantine_5 : (fun (s : State) (x : BitVec 23) =>
    s.canonical ∧ x.toNat ∈ s.tiles.quarantine) ((fun (s : State) => { s with tiles := { s.tiles with quarantine := [5, 6] } }) (wst [])) 5 :=
  ⟨canonical_of (by decide +kernel), by decide +kernel⟩

theorem witness_SpectraAndDecisions_1 : (fun (s : State) (p : PortIx) (power : List (Nat × Nat)) (sat : Nat) =>
    s.canonical) (wst []) 2 [(5, 6)] 3 :=
  canonical_of (by decide +kernel)

theorem witness_SpectraAndDecisions_2 : (fun (s : State) (p : PortIx) (n : BpIx) (xs : List Spectrum) =>
    s.canonical ∧ s.meanOf p = some xs ∧ (s.port p).outMute = false ∧ n.val ∈ s.windowOut p) ((fun (s : State) => ((s.updBp 7 fun x => { x with live := true, decl := { x.decl with dstKind := 1, dstFreq := 256000 } }).updPort 0 fun x => { x with spectra := [⟨true, false, [], []⟩,⟨true, false, [], []⟩,⟨true, false, [], []⟩,⟨true, false, [], []⟩] })) (wst [])) 0 7 [⟨true, false, [], []⟩, ⟨true, false, [], []⟩, ⟨true, false, [], []⟩, ⟨true, false, [], []⟩] :=
  ⟨canonical_of (by decide +kernel), by decide +kernel⟩

theorem witness_SpectraAndDecisions_3 : (fun (s : State) (p : PortIx) (n : BpIx) (xs : List Spectrum) (b : Nat × Nat) =>
    s.canonical ∧ s.meanOf p = some xs ∧ (s.port p).outMute = false ∧ b ∈ powerSums xs ∧ s.excess p b.1 b.2 xs.length = true ∧ n.val ∈ guardsOf (s.guardList p xs) b.1) ((fun (s : State) => ((({ s with plain := { records := [(0, 2560)] } }).updBp 7 fun x => { x with live := true, decl := { x.decl with dstKind := 1, dstFreq := 256000 } }).updPort 0 fun x => { x with spectra := [⟨true, false, [(1000, 10 ^ 33)], [(7, 996, 1003)]⟩,⟨true, false, [(1000, 10 ^ 33)], [(7, 996, 1003)]⟩,⟨true, false, [(1000, 10 ^ 33)], [(7, 996, 1003)]⟩,⟨true, false, [(1000, 10 ^ 33)], [(7, 996, 1003)]⟩] })) (wst [])) 0 7 [⟨true, false, [(1000, 10 ^ 33)], [(7, 996, 1003)]⟩, ⟨true, false, [(1000, 10 ^ 33)], [(7, 996, 1003)]⟩, ⟨true, false, [(1000, 10 ^ 33)], [(7, 996, 1003)]⟩, ⟨true, false, [(1000, 10 ^ 33)], [(7, 996, 1003)]⟩] (1000, 4 * 10 ^ 33) :=
  ⟨canonical_of (by decide +kernel), by decide +kernel⟩

theorem witness_SpectraAndDecisions_4 : (fun (s : State) (n : BpIx) (w : Nat) =>
    s.canonical ∧ s.running n = true ∧ s.emits n = true ∧ tenAtMost true (s.rdS .EMG_BP_CEIL_CEIL n) w (s.ceilS * 32767 ^ 2) 5000 = true ∧ muteCeiling ∉ (s.bp n).mutes) ((fun (s : State) => (s.updBp 7 fun x => { x with live := true, decl := { x.decl with dstKind := 1 } })) (wst [])) 7 (10 ^ 14) :=
  ⟨canonical_of (by decide +kernel), by decide +kernel⟩

theorem witness_SpectraAndDecisions_5 : (fun (s : State) (n : BpIx) (w : Nat) =>
    s.canonical ∧ tenAtMost true (s.rdS .EMG_BP_CEIL_CEIL n) w (s.ceilS * 32767 ^ 2) 5000 = false) (wst []) 7 5 :=
  ⟨canonical_of (by decide +kernel), by decide +kernel⟩

theorem witness_ReleasesOfG2_1 : (fun (s : State) (n : BpIx) =>
    s.canonical ∧ muteFine ∈ (s.bp n).mutes) ((fun (s : State) => (s.updBp 7 fun x => { x with live := true, mutes := [muteFine, muteG1] })) (wst [])) 7 :=
  ⟨canonical_of (by decide +kernel), by decide +kernel⟩

theorem witness_ReleasesOfG2_2 : (fun (s : State) (n : BpIx) =>
    s.canonical ∧ (s.bp n).mutes = [muteCeiling]) ((fun (s : State) => (s.updBp 7 fun x => { x with live := true, mutes := [muteCeiling] })) (wst [(.EMG_BP_STATUS_G2_MUTED, 7, 1)])) 7 :=
  ⟨canonical_of (by decide +kernel), by decide +kernel⟩

theorem witness_ReleasesOfG2_3 : (fun (s : State) (p : PortIx) =>
    s.canonical ∧ pilotGuard ∈ (s.port p).pilot.mutes) ((fun (s : State) => (s.updPort 2 fun x => { x with pilot := { x.pilot with mutes := [1] } })) (wst [])) 2 :=
  ⟨canonical_of (by decide +kernel), by decide +kernel⟩

theorem witness_ReleasesOfG2_4 : (fun (s : State) (p : PortIx) (xs : List Spectrum) =>
    s.canonical ∧ (s.port p).outMute = true ∧ s.meanOf p = some xs ∧ xs.all Spectrum.muted = true ∧ s.outBins p xs = []) ((fun (s : State) => ((s.updBp 7 fun x => { x with live := true, mutes := [muteOut 0] }).updPort 0 fun x => { x with outMute := true, spectra := [⟨true, true, [], []⟩,⟨true, true, [], []⟩,⟨true, true, [], []⟩,⟨true, true, [], []⟩] })) (wst [(.EMG_STATUS_PORT_MUTED, 0, 1)])) 0 [⟨true, true, [], []⟩, ⟨true, true, [], []⟩, ⟨true, true, [], []⟩, ⟨true, true, [], []⟩] :=
  ⟨canonical_of (by decide +kernel), by decide +kernel⟩

theorem witness_ReleasesOfG2_5 : (fun (s : State) (p : PortIx) (r : Fin 16) =>
    s.canonical ∧ r.val < (s.port p).foreign.length) ((fun (s : State) => (s.updPort 2 fun x => { x with foreign := [⟨1, 2, [], 4⟩, ⟨11, 12, [], 4⟩] })) (wst [])) 2 1 :=
  ⟨canonical_of (by decide +kernel), by decide +kernel⟩

theorem witness_PlainTable_1 : (fun (s : State) (w : Word) =>
    s.canonical ∧ (Store.wf (fun _ => none) s.plain.ranges = true)) (wst [(.PLN_T_SEL_R_SEL, 0, 3)]) 0x80001234 :=
  ⟨canonical_of (by decide +kernel), by decide +kernel⟩

theorem witness_PlainTable_2 : (fun (s : State) (w : Word) =>
    s.canonical) (openMask (wst [])) 0x01001234 :=
  canonical_of (by decide +kernel)

theorem witness_PlainTable_3 : (fun (s : State) (x : Fin 8192) =>
    s.canonical ∧ x.val ∈ s.plain.damaged ∧ (s.verifiedSection 0x11).isSome = true) ((fun (s : State) => { s with plain := { damaged := [5, 6] }, kct := { s.kct with sections := [⟨0x11, 0, 0, sha256 []⟩] } }) (wst [])) 5 :=
  ⟨canonical_of (by decide +kernel), by decide +kernel⟩

theorem witness_PlainTable_4 : (fun (s : State) (x : Fin 8192) =>
    s.canonical ∧ x.val ∈ s.plain.damaged) ((fun (s : State) => { s with plain := { damaged := [5, 6] } }) (wst [])) 5 :=
  ⟨canonical_of (by decide +kernel), by decide +kernel⟩

theorem witness_PlainTable_5 : (fun (s : State) (q : CoreIx) (v : BitVec 16) =>
    s.canonical ∧ s.rdS .EMG_LIMIT1_BACKOFF_MIN ≤ signed 16 v.toNat) (wst [(.EMG_LIMIT1_BACKOFF_MIN, 0, 40)]) 1 40 :=
  ⟨canonical_of (by decide +kernel), by decide +kernel⟩

theorem witness_PlainTable_6 : (fun (s : State) (q : CoreIx) (v : BitVec 16) =>
    s.canonical ∧ signed 16 v.toNat < s.rdS .EMG_LIMIT1_BACKOFF_MIN) (wst [(.EMG_LIMIT1_BACKOFF_MIN, 0, 40)]) 1 39 :=
  ⟨canonical_of (by decide +kernel), by decide +kernel⟩

theorem witness_TimeExchange_1 : (fun (s : State) (phase : List Int) (l : LaneIx) =>
    s.canonical ∧ s.laneUp l = true) (wst [(.LANE_STATUS_STATE, 3, 3)]) [1, 2, 3, 4] 3 :=
  ⟨canonical_of (by decide +kernel), by decide +kernel⟩

theorem witness_TimeExchange_2 : (fun (s : State) (l : LaneIx) (f : Frame) (rx : Int) =>
    s.canonical ∧ s.takes l f = true ∧ f.cls = 0 ∧ bits 0 8 (msgW f 0) = 0x11) ((fun (s : State) => s.updLane 3 fun x => { x with phase := 11 }) (wst [(.LANE_STATUS_STATE, 3, 3)])) 3 { cls := 0, dest := 0, src := 1, isLocal := true, words := [0x400011, 5, 6, 7] } 77 :=
  ⟨canonical_of (by decide +kernel), by decide +kernel⟩

theorem witness_TimeExchange_3 : (fun (s : State) (l : LaneIx) (f : Frame) (rx : Int) (t1 t2 t3 t4 : Nat) =>
    s.canonical ∧ s.takes l f = true ∧ f.cls = 0 ∧ bits 0 8 (msgW f 0) = 0x11 ∧ bit 52 (msgW f 0) = true ∧ stampOf (s.lane l).sent (bits 36 16 (msgW f 0)) = some t3 ∧ stampOf (s.lane l).recv ((bits 20 16 (msgW f 0) + 65535) % 65536) = some t2 ∧ t2 < t3 ∧ t1 = ofShort (msgW f 1) (bits 0 30 (msgW f 3)) ∧ t4 = ofShort (msgW f 2) (bits 30 30 (msgW f 3)) ∧ ((s.now : Int) - t2) ≤ 4000 * 65536000 ∧ ((s.now : Int) - (t4 + (s.exchange l t1 t2 t3 t4).2)) ≤ 4000 * 65536000) ((fun (s : State) => (({ s with plumb := { s.plumb with time := 100000 } }).updLane 3 fun x => { x with sent := [⟨2, 6000⟩], recv := [⟨0, 3000⟩] })) (wst [(.LANE_STATUS_STATE, 3, 3)])) 3 { cls := 0, dest := 0, src := 1, isLocal := true, words := [0x10002000100011, 1000, 10000, 0] } 77 1000 3000 6000 10000 :=
  ⟨canonical_of (by decide +kernel), by decide +kernel⟩

theorem witness_TimeExchange_4 : (fun (s : State)  =>
    s.canonical ∧ s.liveOffers = []) (wst [(.PLB_ROOT_STEPS, 0, 5)])  :=
  ⟨canonical_of (by decide +kernel), by decide +kernel⟩

theorem witness_TimeExchange_5 : (fun (s : State) (l : LaneIx) (f : Frame) =>
    s.canonical ∧ s.takes l f = true ∧ f.cls = 0 ∧ bits 0 8 (msgW f 0) = 0x12 ∧ bits 20 8 (msgW f 0) ≠ 255) (wst [(.LANE_STATUS_STATE, 3, 3)]) 3 { cls := 0, dest := 0, src := 1, isLocal := true, words := [0x1002000300012, 5, 6, 7] } :=
  ⟨canonical_of (by decide +kernel), by decide +kernel⟩

theorem witness_TimeExchange_6 : (fun (s : State) (l : LaneIx) =>
    s.canonical ∧ s.laneUp l = true ∧ (s.lane l).offer.map Offer.timeOk = some true ∧ s.role ≠ 1 ∧ max 1 (s.rd .PLB_CTRL_CHECK_LIM) * 65536 * (s.lane l).thetas.length < (s.lane l).thetas.sum.natAbs ∧ (s.lane l).checkSent = false) ((fun (s : State) => (s.updLane 3 fun x => { x with offer := some ⟨1, 1, 1, 1, 1, true, 0, 0, 0, false⟩, thetas := [100000000, 100000000] })) (wst [(.LANE_STATUS_STATE, 3, 3)])) 3 :=
  ⟨canonical_of (by decide +kernel), by decide +kernel⟩

theorem witness_TimeExchange_7 : (fun (s : State)  =>
    s.canonical ∧ s.plumb.heir = true ∧ s.plumb.wasRef = false) ((fun (s : State) => { s with plumb := { s.plumb with heir := true } }) (wst []))  :=
  ⟨canonical_of (by decide +kernel), by decide +kernel⟩

theorem witness_PlumbUpdates_1 : (fun (s : State) (x : Int) =>
    s.canonical ∧ s.role = 1 ∧ s.laneUp (s.rd .PLB_STATUS_PARENT) = true ∧ s.hasRef = false ∧ (s.lane (s.rd .PLB_STATUS_PARENT)).fresh = some x ∧ (s.lane (s.rd .PLB_STATUS_PARENT)).offer.map Offer.tstate = some 2 ∧ s.tstate = 0) ((fun (s : State) => (({ s with plumb := { s.plumb with pendStep := 4 } }).updLane 3 fun x => { x with fresh := some 99, offer := some ⟨1, 1, 1, 1, 2, true, 0, 0, 0, false⟩ })) (wst [(.LANE_STATUS_STATE, 3, 3), (.PLB_STATUS_ROLE, 0, 1), (.PLB_STATUS_PARENT, 0, 3)])) 99 :=
  ⟨canonical_of (by decide +kernel), by decide +kernel⟩

theorem witness_PlumbUpdates_2 : (fun (s : State) (x : Int) =>
    s.canonical ∧ s.role = 1 ∧ s.laneUp (s.rd .PLB_STATUS_PARENT) = true ∧ s.hasRef = false ∧ (s.lane (s.rd .PLB_STATUS_PARENT)).fresh = some x ∧ s.tstate = 2 ∧ -(s.stepMin * 65536 : Nat) ≤ x + s.plumb.pendStep) ((fun (s : State) => (s.updLane 3 fun x => { x with fresh := some 999999 })) (wst [(.LANE_STATUS_STATE, 3, 3), (.PLB_STATUS_ROLE, 0, 1), (.PLB_STATUS_PARENT, 0, 3), (.PLB_STATUS_TSTATE, 0, 2), (.PLB_SLEW_PHASE_SLEW, 0, 100), (.PLB_SLEW_FW_PHASE_SLEW, 0, 90)])) 999999 :=
  ⟨canonical_of (by decide +kernel), by decide +kernel⟩

theorem witness_PlumbUpdates_3 : (fun (s : State)  =>
    s.canonical ∧ s.role = 1 ∧ s.laneUp (s.rd .PLB_STATUS_PARENT) = true ∧ s.hasRef = false ∧ (s.lane (s.rd .PLB_STATUS_PARENT)).fresh = none ∧ s.tstate = 2 ∧ 9 ≤ s.plumb.stale) ((fun (s : State) => { s with plumb := { s.plumb with stale := 9 } }) (wst [(.LANE_STATUS_STATE, 3, 3), (.PLB_STATUS_ROLE, 0, 1), (.PLB_STATUS_PARENT, 0, 3), (.PLB_STATUS_TSTATE, 0, 2)]))  :=
  ⟨canonical_of (by decide +kernel), by decide +kernel⟩

theorem witness_GrandmasterPins_1 : (fun (s : State) (e t0 : Int) =>
    s.canonical ∧ s.rd .PLB_STATUS_PPS_IN_OK = 1 ∧ t0 = (s.now : Int) + e + s.rdS .PLB_PPS_IN_DLY_DLY ∧ (t0 - nearestSecond t0).natAbs ≤ usQ 1 ∧ s.plumb.tod = none) (wst [(.PLB_STATUS_PPS_IN_OK, 0, 1)]) 5 5 :=
  ⟨canonical_of (by decide +kernel), by decide +kernel⟩

theorem witness_GrandmasterPins_2 : (fun (s : State) (e t0 : Int) =>
    s.canonical ∧ s.rd .PLB_STATUS_PPS_IN_OK = 1 ∧ t0 = (s.now : Int) + e + s.rdS .PLB_PPS_IN_DLY_DLY ∧ usQ 1 < (t0 - nearestSecond t0).natAbs) (wst [(.PLB_STATUS_PPS_IN_OK, 0, 1)]) 65536001 65536001 :=
  ⟨canonical_of (by decide +kernel), by decide +kernel⟩

theorem witness_GrandmasterPins_3 : (fun (s : State) (e u : Int) =>
    s.canonical ∧ s.rd .PLB_STATUS_PPS_IN_OK = 0 ∧ s.plumb.ppsLast = some u ∧ ((s.now : Int) + e + s.rdS .PLB_PPS_IN_DLY_DLY - u - quantaPerSec).natAbs ≤ usQ 1 ∧ 2 ≤ s.plumb.ppsRun) ((fun (s : State) => { s with plumb := { s.plumb with time := 65536000000000, ppsRun := 2, ppsLast := some 0 } }) (wst [])) 5 0 :=
  ⟨canonical_of (by decide +kernel), by decide +kernel⟩

theorem witness_GrandmasterPins_4 : (fun (s : State)  =>
    s.canonical) (wst [(.PLB_STATUS_PPS_IN_OK, 0, 1)])  :=
  canonical_of (by decide +kernel)

theorem witness_GrandmasterPins_5 : (fun (s : State)  =>
    s.canonical) (wst [(.PLB_STATUS_REF_IN_OK, 0, 1)])  :=
  canonical_of (by decide +kernel)

theorem witness_GrandmasterPins_6 : (fun (s : State)  =>
    s.canonical) (wst [])  :=
  canonical_of (by decide +kernel)

theorem witness_GrandmasterPins_7 : (fun (s : State) (w : Word) =>
    s.canonical ∧ w.getLsbD 31 = true) (wst [(.PLB_TOD_LO_SEC_LO, 0, 77)]) 0x80000001 :=
  ⟨canonical_of (by decide +kernel), by decide +kernel⟩

theorem witness_GrandmasterPins_8 : (fun (s : State) (c : Nat) (e : Int) =>
    s.canonical ∧ s.plumb.tod = some c ∧ s.todInstant = some e ∧ s.tstate = 0 ∧ (c * quantaPerSec : Int) ≠ e + s.plumb.pendStep) ((fun (s : State) => { s with plumb := { s.plumb with tod := some 9, todEdge := some 4 } }) (wst [(.PLB_STATUS_PPS_IN_OK, 0, 1), (.PLB_TOD_HI_ARM, 0, 1)])) 9 4 :=
  ⟨canonical_of (by decide +kernel), by decide +kernel⟩

theorem witness_GrandmasterPins_9 : (fun (s : State) (c : Nat) (e : Int) =>
    s.canonical ∧ s.plumb.tod = some c ∧ s.todInstant = some e ∧ s.tstate ≠ 0 ∧ (c * quantaPerSec : Int) < e + s.plumb.pendStep) ((fun (s : State) => { s with plumb := { s.plumb with tod := some 0, todEdge := some 4 } }) (wst [(.PLB_STATUS_PPS_IN_OK, 0, 1), (.PLB_STATUS_TSTATE, 0, 2)])) 0 4 :=
  ⟨canonical_of (by decide +kernel), by decide +kernel⟩

theorem witness_GrandmasterPins_10 : (fun (s : State) (who : Requester) =>
    s.canonical ∧ s.reaches who = true) ((fun (s : State) => { s with plumb := { s.plumb with time := 123456789012345678 } }) (wst [])) (.core 2) :=
  ⟨canonical_of (by decide +kernel), by decide +kernel⟩

theorem witness_GrandmasterPins_11 : (fun (s : State)  =>
    s.canonical ∧ s.rd .SCR_HSTATUS_FIELD_UP = 0) (wst [])  :=
  ⟨canonical_of (by decide +kernel), by decide +kernel⟩

theorem witness_GrandmasterPins_12 : (fun (s : State) (v : BitVec 16) =>
    s.canonical) (wst [(.PLB_SLEW_PHASE_SLEW, 0, 50)]) 60 :=
  canonical_of (by decide +kernel)

theorem witness_GrandmasterPins_13 : (fun (s : State) (m : Int) =>
    s.canonical ∧ s.rd .PLB_CTRL_PPS_OUT_EN = 1 ∧ s.rd .PLB_CTRL_PPS_OUT_MODE = 1 ∧ s.rd .PLB_STATUS_TIME_OK = 1 ∧ m = roundDiv ((s.now : Int) + s.rdS .PLB_PPS_OUT_DLY_DLY) quantaPerSec ∧ ((s.now : Int) + s.rdS .PLB_PPS_OUT_DLY_DLY - m * quantaPerSec).natAbs < usQ 10 ∧ s.plumb.lastPulse ≠ some m) (wst [(.PLB_CTRL_PPS_OUT_EN, 0, 1), (.PLB_CTRL_PPS_OUT_MODE, 0, 1), (.PLB_STATUS_TIME_OK, 0, 1)]) 0 :=
  ⟨canonical_of (by decide +kernel), by decide +kernel⟩

theorem witness_Cages_1 : (fun (s : State) (c : CageIx) =>
    s.canonical) (wst []) 2 :=
  canonical_of (by decide +kernel)

theorem witness_Cages_2 : (fun (s : State) (c : CageIx) (l : LaneIx) (x : CageIdent) =>
    s.canonical ∧ (s.cage c).phase = 1 ∧ x.optical4 = true ∧ x.power ≤ 25 ∧ l.val / 4 = c.val) ((fun (s : State) => s.setCage 2 { phase := 1 }) (wst [(.LANE_CTRL_EN, 9, 1)])) 2 9 (⟨true, 25⟩ : CageIdent) :=
  ⟨canonical_of (by decide +kernel), by decide +kernel⟩

theorem witness_Cages_3 : (fun (s : State) (c : CageIx) (x : CageIdent) =>
    s.canonical ∧ (s.cage c).phase = 1 ∧ (x.optical4 = false ∨ 25 < x.power)) ((fun (s : State) => s.setCage 2 { phase := 1 }) (wst [])) 2 (⟨true, 26⟩ : CageIdent) :=
  ⟨canonical_of (by decide +kernel), by decide +kernel⟩

theorem witness_Cages_4 : (fun (s : State) (c : CageIx) (l : LaneIx) =>
    s.canonical ∧ l.val / 4 = c.val) ((fun (s : State) => s.setCage 0 { phase := 2 }) (wst [(.LANE_STATUS_STATE, 3, 3), (.COL_CAGE_STATUS_PRESENT, 0, 1)])) 0 3 :=
  ⟨canonical_of (by decide +kernel), by decide +kernel⟩

theorem witness_Cages_5 : (fun (s : State) (c : CageIx) (i : Fin 4) (m : CageRead) =>
    s.canonical ∧ (s.cage c).phase = 2 ∧ m.answers = true) ((fun (s : State) => s.setCage 0 { phase := 2 }) (wst [(.LANE_STATUS_STATE, 3, 3)])) 0 3 { answers := true, temp := 9, power := [1, 2, 3, 4], bias := [1, 2, 3, 4], los := 8 } :=
  ⟨canonical_of (by decide +kernel), by decide +kernel⟩

theorem witness_Cages_6 : (fun (s : State) (c : CageIx) (m : CageRead) =>
    s.canonical ∧ (s.cage c).phase = 2 ∧ m.answers = false) ((fun (s : State) => s.setCage 0 { phase := 2 }) (wst [])) 0 { answers := false } :=
  ⟨canonical_of (by decide +kernel), by decide +kernel⟩

theorem witness_LaneStates_1 : (fun (s : State) (l : LaneIx) =>
    s.canonical ∧ s.laneState l = 1 ∧ (s.lane l).peerLstate = 1) ((fun (s : State) => s.updLane 3 fun x => { x with peerLstate := 1 }) (wst [(.LANE_STATUS_STATE, 3, 1)])) 3 :=
  ⟨canonical_of (by decide +kernel), by decide +kernel⟩

theorem witness_LaneStates_2 : (fun (s : State) (l : LaneIx) (x : BitVec 56) =>
    s.canonical ∧ crc8Ok x = true ∧ (s.laneState l = 1 ∨ s.laneState l = 2 ∨ s.laneState l = 3)) (wst [(.LANE_STATUS_STATE, 3, 2)]) 3 0xC700000000A00B :=
  ⟨canonical_of (by decide +kernel), by decide +kernel⟩

theorem witness_LaneStates_3 : (fun (s : State) (l : LaneIx) (x : BitVec 56) =>
    s.canonical ∧ crc8Ok x = false) (wst [(.LANE_STATUS_STATE, 3, 2)]) 3 0xC600000000A00B :=
  ⟨canonical_of (by decide +kernel), by decide +kernel⟩

theorem witness_LaneStates_4 : (fun (s : State) (l : LaneIx) =>
    s.canonical ∧ s.laneState l = 2) (wst [(.LANE_STATUS_STATE, 3, 2)]) 3 :=
  ⟨canonical_of (by decide +kernel), by decide +kernel⟩

theorem witness_LaneStates_5 : (fun (s : State) (l : LaneIx) (f : Frame) =>
    s.canonical ∧ s.laneState l = 2 ∧ f.cls = 2 ∧ f.words.length = 3 ∧ msgType f = 1 ∧ msgVer f = 1 ∧ msgW f 1 ≠ s.uid ∧ (s.cage (l.val / 4)).peer = none ∧ 6 ≤ bits 16 8 (msgW f 2) ∧ 38 ≤ bits 0 16 (msgW f 2) ∧ 66 ≤ bits 24 12 (msgW f 2) ∧ 66 ≤ bits 36 12 (msgW f 2) ∧ 2 ≤ (s.lane l).peerLstate) ((fun (s : State) => s.updLane 3 fun x => { x with peerLstate := 2 }) (wst [(.LANE_STATUS_STATE, 3, 2), (.COL_ID_LO_ID_LO, 0, 77)])) 3 (msg [msgWord 1 0 0 false 0 (5 + 4096 + 8192), 5, 32768 + 64 * 65536 + 2048 * 16777216 + 1024 * 68719476736]) :=
  ⟨canonical_of (by decide +kernel), by decide +kernel⟩

theorem witness_LaneStates_6 : (fun (s : State) (l : LaneIx) (f : Frame) =>
    s.canonical ∧ s.laneState l = 2 ∧ f.cls = 2 ∧ f.words.length = 3 ∧ msgType f = 1 ∧ msgVer f = 1 ∧ msgW f 1 = s.uid) (wst [(.LANE_STATUS_STATE, 3, 2), (.COL_ID_LO_ID_LO, 0, 5)]) 3 (msg [msgWord 1 0 0 false 0 5, 5, 6]) :=
  ⟨canonical_of (by decide +kernel), by decide +kernel⟩

theorem witness_LaneStates_7 : (fun (s : State) (l : LaneIx) =>
    s.canonical ∧ s.laneState l = 0 ∧ (s.cage (l.val / 4)).phase = 2 ∧ s.fenced (0x90 + l) = false) ((fun (s : State) => s.setCage 0 { phase := 2 }) (wst [])) 3 :=
  ⟨canonical_of (by decide +kernel), by decide +kernel⟩

theorem witness_LaneStates_8 : (fun (s : State) (l : LaneIx) =>
    s.canonical) (wst [(.LANE_STATUS_STATE, 3, 3)]) 3 :=
  canonical_of (by decide +kernel)

theorem witness_LaneStates_9 : (fun (s : State) (l : LaneIx) =>
    s.canonical ∧ (s.laneState l = 1 ∨ s.laneState l = 2 ∨ s.laneState l = 3)) (wst [(.LANE_STATUS_STATE, 3, 3), (.LANE_CREDIT_BAND, 3, 9)]) 3 :=
  ⟨canonical_of (by decide +kernel), by decide +kernel⟩

theorem witness_LaneStates_10 : (fun (s : State) (l : LaneIx) (x : LaneCause) =>
    s.canonical ∧ s.laneUp l = true) (wst [(.LANE_STATUS_STATE, 3, 3), (.LANE_CREDIT_BAND, 3, 9)]) 3 .sync :=
  ⟨canonical_of (by decide +kernel), by decide +kernel⟩

theorem witness_LaneStates_11 : (fun (s : State) (l : LaneIx) (x : LaneCause) =>
    s.canonical ∧ s.laneUp l = false) (wst []) 3 .sync :=
  ⟨canonical_of (by decide +kernel), by decide +kernel⟩

theorem witness_FramesAndCredits_1 : (fun (s : State) (l : LaneIx) (x : BitVec 56) (c : Fin 4) =>
    s.canonical ∧ crc8Ok x = true ∧ s.laneUp l = true ∧ (s.lane l).queue = [] ∧ (∀ k : Fin 4, s.rd (creditField k) l + (bits (12 * k) 12 x.toNat + 4096 - (s.lane l).peerCum.get k % 4096) % 4096 ≤ (s.lane l).peerBuf.get k)) ((fun (s : State) => s.updLane 3 fun x => { x with peerBuf := { time := 64, band := 32768, mgmt := 2048, bulk := 1024 } }) (wst [(.LANE_STATUS_STATE, 3, 3)])) 3 0x28000000009005 1 :=
  ⟨canonical_of (by decide +kernel), by decide +kernel⟩

theorem witness_FramesAndCredits_2 : (fun (s : State) (l : LaneIx) (x : BitVec 56) (c : Fin 4) =>
    s.canonical ∧ crc8Ok x = true ∧ s.laneUp l = true ∧ (s.lane l).peerBuf.get c < s.rd (creditField c) l + (bits (12 * c) 12 x.toNat + 4096 - (s.lane l).peerCum.get c % 4096) % 4096) (wst [(.LANE_STATUS_STATE, 3, 3)]) 3 0x28000000009005 1 :=
  ⟨canonical_of (by decide +kernel), by decide +kernel⟩

theorem witness_FramesAndCredits_3 : (fun (s : State) (l : LaneIx) (c : Fin 4) (k : Fin 65) =>
    s.canonical ∧ (s.lane l).errMs ≠ s.now / (1000 * 65536000)) ((fun (s : State) => s.updLane 3 fun x => { x with errMs := 7 }) (wst [(.LANE_STATUS_STATE, 3, 3)])) 3 2 9 :=
  ⟨canonical_of (by decide +kernel), by decide +kernel⟩

theorem witness_FramesAndCredits_4 : (fun (s : State) (l : LaneIx) (c : Fin 4) (k : Fin 65) =>
    s.canonical ∧ s.laneUp l = true ∧ (s.lane l).errMs = s.now / (1000 * 65536000) ∧ 16 ≤ (s.lane l).errs) ((fun (s : State) => s.updLane 3 fun x => { x with errs := 16 }) (wst [(.LANE_STATUS_STATE, 3, 3)])) 3 2 9 :=
  ⟨canonical_of (by decide +kernel), by decide +kernel⟩

theorem witness_FramesAndCredits_5 : (fun (s : State) (l : LaneIx) (f : Frame) (k : Nat) (ks : List Nat) =>
    s.canonical ∧ s.takes l f = true ∧ s.isMine f = false ∧ f.cls = 2 ∧ 2 ≤ f.ttl ∧ s.rd .COL_NODE_VALID ≠ 0 ∧ s.upLanes (s.primaryOf f.dest) = k :: ks ∧ (s.lane k).queue = [] ∧ frameBlocks f ≤ s.rd .LANE_CREDIT1_MGMT k) (fabric (wst [(.LANE_STATUS_STATE, 6, 3)])) 6 { cls := 2, dest := 2, src := 9, ttl := 4, words := [5, 6] } 3 [] :=
  ⟨canonical_of (by decide +kernel), by decide +kernel⟩

theorem witness_FramesAndCredits_6 : (fun (s : State) (l : LaneIx) (f : Frame) =>
    s.canonical ∧ s.takes l f = true ∧ s.isMine f = false ∧ f.ttl ≤ 1) (fabric (wst [(.LANE_STATUS_STATE, 6, 3)])) 6 { cls := 2, dest := 2, src := 9, ttl := 1, words := [5, 6] } :=
  ⟨canonical_of (by decide +kernel), by decide +kernel⟩

theorem witness_FramesAndCredits_7 : (fun (s : State) (l : LaneIx) (q : QFrame) =>
    s.canonical ∧ ((s.lane l).queue.find? (fun x => (QFrame.frame x).cls == 1 && (QFrame.frame x).unres) = some q)) ((fun (s : State) => s.updLane 3 fun x => { x with queue := [{ frame := { cls := 1, dest := 2, src := 9, unres := true, words := [5] } }] }) (wst [])) 3 { frame := { cls := 1, dest := 2, src := 9, unres := true, words := [5] } } :=
  ⟨canonical_of (by decide +kernel), by decide +kernel⟩

theorem witness_FramesAndCredits_8 : (fun (s : State) (l : LaneIx) (f : Frame) =>
    s.canonical ∧ s.takes l f = true ∧ s.isMine f = true) (wst [(.LANE_STATUS_STATE, 3, 3)]) 3 { cls := 3, dest := 2, src := 9, isLocal := true, words := [5, 6] } :=
  ⟨canonical_of (by decide +kernel), by decide +kernel⟩

theorem witness_FramesAndCredits_9 : (fun (s : State) (l : LaneIx) (f : Frame) =>
    s.canonical ∧ s.takes l f = true ∧ s.isMine f = true) (wst [(.LANE_STATUS_STATE, 3, 3)]) 3 { cls := 2, dest := 2, src := 9, isLocal := true, words := [0xFF] } :=
  ⟨canonical_of (by decide +kernel), by decide +kernel⟩

theorem witness_FramesAndCredits_10 : (fun (s : State) (l : LaneIx) (f : Frame) (n : BpIx) =>
    s.canonical ∧ s.takes l f = true ∧ s.isMine f = true ∧ f.cls = 1 ∧ s.subscribers f.src f.bp = [n.val] ∧ s.originOf (wordsGrain f.words).ts ≤ s.now + usQ 1 ∧ (s.bp n).dly.last = none ∧ s.emits n = false ∧ delayState s n = 0 ∧ s.fenced n = false) (subscribes (wst [])) 3 { cls := 1, dest := 1, src := 2, bp := 4, words := List.replicate 36 0 } 6 :=
  ⟨canonical_of (by decide +kernel), by decide +kernel⟩

theorem witness_AddressesAndLinkState_1 : (fun (s : State)  =>
    s.canonical ∧ s.rd .KCT_STATUS_LOCKED = 1 ∧ s.rd .COL_STATUS_ADDR_CONFLICT = 0 ∧ s.col.reclaim = false ∧ s.rd .COL_NODE_AUTO = 0 ∧ s.rd .COL_NODE_VALID = 0 ∧ ((s.col.db.all fun r => LsaRec.uid r == s.uid || !LsaRec.valid r || LsaRec.node r != s.rd .COL_NODE_REQ_ADDR) = true)) ((fun (s : State) => { s with col := { s.col with db := [⟨9, 43, true, false, true, 5, []⟩] } }) (wst [(.KCT_STATUS_LOCKED, 0, 1), (.COL_NODE_REQ_ADDR, 0, 44), (.COL_NODE_AUTO, 0, 0)]))  :=
  ⟨canonical_of (by decide +kernel), by decide +kernel⟩

theorem witness_AddressesAndLinkState_2 : (fun (s : State) (r : LsaRec) =>
    s.canonical ∧ s.rd .KCT_STATUS_LOCKED = 1 ∧ s.rd .COL_STATUS_ADDR_CONFLICT = 0 ∧ s.col.reclaim = false ∧ s.rd .COL_NODE_AUTO = 0 ∧ s.rd .COL_NODE_VALID = 0 ∧ s.col.db = [r] ∧ r.uid < s.uid ∧ r.valid = true ∧ r.auto = false ∧ r.node = s.rd .COL_NODE_REQ_ADDR) ((fun (s : State) => { s with col := { s.col with db := [⟨9, 44, true, false, true, 5, []⟩] } }) (wst [(.KCT_STATUS_LOCKED, 0, 1), (.COL_NODE_REQ_ADDR, 0, 44), (.COL_NODE_AUTO, 0, 0), (.COL_ID_LO_ID_LO, 0, 77)])) ⟨9, 44, true, false, true, 5, []⟩ :=
  ⟨canonical_of (by decide +kernel), by decide +kernel⟩

theorem witness_AddressesAndLinkState_3 : (fun (s : State) (a : Nat) =>
    s.canonical ∧ s.col.reclaim = true ∧ s.rd .COL_NODE_AUTO = 1 ∧ s.rd .COL_NODE_VALID = 0 ∧ s.lowestAddr = some a) ((fun (s : State) => { s with col := { s.col with reclaim := true, db := [⟨9, 0, true, true, true, 5, []⟩] } }) (wst [(.COL_NODE_AUTO, 0, 1)])) 1 :=
  ⟨canonical_of (by decide +kernel), by decide +kernel⟩

theorem witness_AddressesAndLinkState_4 : (fun (s : State)  =>
    s.canonical ∧ s.rd .COL_NODE_VALID = 1 ∧ s.col.db.length < 4096) (fabric (wst []))  :=
  ⟨canonical_of (by decide +kernel), by decide +kernel⟩

theorem witness_AddressesAndLinkState_5 : (fun (s : State) (l : LaneIx) (f : Frame) =>
    s.canonical ∧ s.hears l f 2 = true ∧ msgW f 1 ≠ s.uid ∧ ((s.col.db.all fun r => LsaRec.uid r != msgW f 1) = true) ∧ s.col.db.length < 4096) (fabric (wst [])) 3 (msg [msgWord 2 0 0 false 0 (7 + 4096), 55, 1, 0, 0, 0, 0, 0, 0, 0, 0]) :=
  ⟨canonical_of (by decide +kernel), by decide +kernel⟩

theorem witness_AddressesAndLinkState_6 : (fun (s : State) (l : LaneIx) (f : Frame) (r : LsaRec) =>
    s.canonical ∧ s.hears l f 2 = true ∧ (s.col.db.find? (fun x => LsaRec.uid x == msgW f 1) = some r) ∧ serialNewer (bits 0 32 (msgW f 2)) r.lseq = false) (fabric (wst [])) 3 (msg [msgWord 2 0 0 false 0 (2 + 4096), 99, 5, 0, 0, 0, 0, 0, 0, 0, 0]) (⟨99, 2, true, true, true, 5, [⟨1, true, 0, 8, 0, [10000, 10000, 10000, 10000]⟩]⟩ : LsaRec) :=
  ⟨canonical_of (by decide +kernel), by decide +kernel⟩

theorem witness_AddressesAndLinkState_7 : (fun (s : State) (u : Nat) =>
    s.canonical ∧ ((s.col.db.any fun r => LsaRec.uid r == u) = true)) (fabric (wst [])) 99 :=
  ⟨canonical_of (by decide +kernel), by decide +kernel⟩

theorem witness_AddressesAndLinkState_8 : (fun (s : State)  =>
    s.canonical) (fabric (wst [(.COL_STATUS_ROUTE_BUSY, 0, 1)]))  :=
  canonical_of (by decide +kernel)

theorem witness_Subscriptions_1 : (fun (s : State) (l : LaneIx) (f : Frame) (n : BpIx) =>
    s.canonical ∧ s.hears l f 3 = true ∧ msgNode f = s.nodeAddr ∧ msgBp f = n.val ∧ s.running n = true ∧ (s.bp n).decl.dstKind = 2 ∧ (s.bp n).pub.subscriber = none ∧ ((((s.holding l f).updBp n fun x => { x with pub := { x.pub with subscriber := some (bits 40 12 (msgW f 0), bits 52 7 (msgW f 0)), tries := 0, avoid := [], lost := false } }).startRoute n).2 = true)) (publishes (wst [])) 3 (msg [msgWord 3 1 5 false 0 (2 + 4096 * 6), 8]) 5 :=
  ⟨canonical_of (by decide +kernel), by decide +kernel⟩

theorem witness_Subscriptions_2 : (fun (s : State) (l : LaneIx) (f : Frame) (n : BpIx) =>
    s.canonical ∧ s.hears l f 3 = true ∧ msgNode f = s.nodeAddr ∧ msgBp f = n.val ∧ s.running n = true ∧ (s.bp n).decl.dstKind = 2 ∧ (s.bp n).pub.subscriber.isSome = true) ((fun (s : State) => (publishes s).updBp 5 fun x => { x with pub := { x.pub with subscriber := some (9, 9) } }) (wst [])) 3 (msg [msgWord 3 1 5 false 0 (2 + 4096 * 6), 8]) 5 :=
  ⟨canonical_of (by decide +kernel), by decide +kernel⟩

theorem witness_Subscriptions_3 : (fun (s : State) (l : LaneIx) (f : Frame) (n : BpIx) =>
    s.canonical ∧ s.hears l f 4 = true ∧ n.val ∈ s.waitingFor (msgNode f) (msgBp f)) ((fun (s : State) => (fabric s).updBp 6 fun x => { x with check := some ⟨{ srcKind := 2, srcNode := 2, srcBp := 4 }, true⟩, sub := { x.sub with waiting := true } }) (wst [])) 3 (msg [msgWord 4 2 4 false 0 8]) 6 :=
  ⟨canonical_of (by decide +kernel), by decide +kernel⟩

theorem witness_Subscriptions_4 : (fun (s : State) (l : LaneIx) (f : Frame) (n : BpIx) =>
    s.canonical ∧ s.hears l f 5 = true ∧ bits 42 5 (msgW f 0) ≤ bits 47 5 (msgW f 0) + 1 ∧ bits 44 7 (msgW f 2) = n.val ∧ (s.bp n).sub.waiting = false ∧ (s.bp n).sub.on = true ∧ s.running n = true ∧ (s.bp n).decl.srcKind = 2 ∧ (s.bp n).decl.srcNode = msgNode f ∧ (s.bp n).decl.srcBp = msgBp f ∧ bits 24 15 (msgW f 1) = (s.bp n).decl.span) (subscribes (wst [])) 3 (msg [msgWord 5 2 4 true 0 (4 * 1), 5625 + 16777216 * 8, 4096 + 17592186044416 * 6, 1, 0, 0, 0, 0, 0]) 6 :=
  ⟨canonical_of (by decide +kernel), by decide +kernel⟩

theorem witness_Subscriptions_5 : (fun (s : State) (l : LaneIx) (f : Frame) (e : Entry) =>
    s.canonical ∧ s.hears l f 6 = true ∧ s.entry (msgNode f) (msgBp f) (msgRid f) = some e ∧ msgNode f ≠ s.nodeAddr) ((fun (s : State) => (fabric s).setEntry { node := 7, bp := 4, rid := false }) (wst [])) 3 (msg [msgWord 6 7 4 false 0 0]) { node := 7, bp := 4, rid := false } :=
  ⟨canonical_of (by decide +kernel), by decide +kernel⟩

theorem witness_Subscriptions_6 : (fun (s : State) (l : LaneIx) (f : Frame) (n : BpIx) (r : Route) =>
    s.canonical ∧ s.hears l f 7 = true ∧ msgNode f = s.nodeAddr ∧ msgBp f = n.val ∧ (s.bp n).pub.pend = some r ∧ r.rid = msgRid f) ((fun (s : State) => (publishes s).updBp 5 fun x => { x with pub := { x.pub with subscriber := some (2, 6), pend := some ⟨true, [2], [3]⟩ } }) (wst [])) 3 (msg [msgWord 7 1 5 true 0 0]) 5 (⟨true, [2], [3]⟩ : Route) :=
  ⟨canonical_of (by decide +kernel), by decide +kernel⟩

theorem witness_Subscriptions_7 : (fun (s : State) (n : BpIx) (c : Check) =>
    s.canonical ∧ (s.bp n).check = some c ∧ (s.bp n).sub.waiting = true) ((fun (s : State) => (fabric s).updBp 6 fun x => { x with check := some ⟨{ srcKind := 2, srcNode := 2, srcBp := 4 }, true⟩, sub := { x.sub with waiting := true } }) (wst [])) 6 (⟨{ srcKind := 2, srcNode := 2, srcBp := 4 }, true⟩ : Check) :=
  ⟨canonical_of (by decide +kernel), by decide +kernel⟩

theorem witness_Subscriptions_8 : (fun (s : State) (n : BpIx) =>
    s.canonical ∧ (s.bp n).pub.lost = true ∧ (s.bp n).pub.subscriber.isSome = true ∧ (s.bp n).pub.pend = none ∧ (((s.updBp n fun x => { x with pub := { x.pub with tries := 0, avoid := [], tried := s.clk.tick } }).startRoute n).2 = true)) ((fun (s : State) => (publishes s).updBp 5 fun x => { x with pub := { x.pub with subscriber := some (2, 6), lost := true } }) (wst [])) 5 :=
  ⟨canonical_of (by decide +kernel), by decide +kernel⟩

theorem witness_StreamUpkeep_1 : (fun (s : State) (n : BpIx) (a : Nat) (e : Entry) (k : Nat) =>
    s.canonical ∧ s.running n = true ∧ (s.bp n).decl.srcKind = 2 ∧ (s.bp n).sub.ack = some a ∧ (s.bp n).sub.acked ≠ some a ∧ s.entry (s.bp n).decl.srcNode (s.bp n).decl.srcBp (s.bp n).sub.rid = some e ∧ e.inLane = some k) ((fun (s : State) => ((subscribes s).setEntry { node := 2, bp := 4, rid := false, inLane := some 3 }).updBp 6 fun x => { x with sub := { x.sub with ack := some 9 } }) (wst [])) 6 9 { node := 2, bp := 4, rid := false, inLane := some 3 } 3 :=
  ⟨canonical_of (by decide +kernel), by decide +kernel⟩

theorem witness_StreamUpkeep_2 : (fun (s : State) (l : LaneIx) (f : Frame) (e : Entry) =>
    s.canonical ∧ s.hears l f 8 = true ∧ s.entry (msgNode f) (msgBp f) (msgRid f) = some e ∧ e.inLane = none) ((fun (s : State) => ((fabric s).setEntry { node := 1, bp := 5, rid := false }).updLane 3 fun x => { x with kept := [⟨0, { cls := 1, dest := 2, src := 1, bp := 5, words := List.replicate 36 0 }⟩] }) (wst [])) 3 (msg [msgWord 8 1 5 false 0 0, 3]) { node := 1, bp := 5, rid := false } :=
  ⟨canonical_of (by decide +kernel), by decide +kernel⟩

theorem witness_StreamUpkeep_3 : (fun (s : State) (l : LaneIx) (f : Frame) (e : Entry) =>
    s.canonical ∧ s.hears l f 9 = true ∧ s.entry (msgNode f) (msgBp f) (msgRid f) = some e) ((fun (s : State) => ((fabric s).setEntry { node := 7, bp := 4, rid := false }).updLane 3 fun x => { x with members := [⟨7, 4, false, 0, 100, false⟩] }) (wst [])) 3 (msg [msgWord 9 7 4 false 0 0]) { node := 7, bp := 4, rid := false } :=
  ⟨canonical_of (by decide +kernel), by decide +kernel⟩

theorem witness_StreamUpkeep_4 : (fun (s : State) (l : LaneIx) (f : Frame) (n : BpIx) (b : Nat) =>
    s.canonical ∧ s.hears l f 13 = true ∧ msgNode f = s.nodeAddr ∧ msgBp f = n.val ∧ (s.bp n).pub.subscriber = some (f.src, b)) ((fun (s : State) => (publishes s).updBp 5 fun x => { x with pub := { x.pub with subscriber := some (2, 6) } }) (wst [(.COL_BP_STATUS_ROUTED, 5, 1)])) 3 (msg [msgWord 13 1 5 false 0 0]) 5 6 :=
  ⟨canonical_of (by decide +kernel), by decide +kernel⟩

theorem witness_StreamUpkeep_5 : (fun (s : State) (l : LaneIx) (f : Frame) (e : Entry) =>
    s.canonical ∧ s.hears l f 10 = true ∧ s.entry (msgNode f) (msgBp f) (msgRid f) = some e ∧ e.dest = s.nodeAddr) ((fun (s : State) => (fabric s).setEntry { node := 2, bp := 4, rid := false, dest := 1 }) (wst [])) 3 (msg [msgWord 10 2 4 false 0 0, 700]) { node := 2, bp := 4, rid := false, dest := 1 } :=
  ⟨canonical_of (by decide +kernel), by decide +kernel⟩

theorem witness_StreamUpkeep_6 : (fun (s : State) (l : LaneIx) (f : Frame) (n : BpIx) =>
    s.canonical ∧ s.hears l f 11 = true ∧ msgNode f = s.nodeAddr ∧ msgBp f = n.val ∧ bit 40 (msgW f 0) = true ∧ (s.bp n).pub.route.isSome = true) ((fun (s : State) => (publishes s).updBp 5 fun x => { x with pub := { x.pub with subscriber := some (2, 6), route := some ⟨false, [2], [3]⟩ } }) (wst [])) 3 (msg [msgWord 11 1 5 false 0 1]) 5 :=
  ⟨canonical_of (by decide +kernel), by decide +kernel⟩

theorem witness_PwmPeriods_1 : (fun (s : State) (k : ChanIx) (x : PwmSense) (r : PwmRun) =>
    s.canonical ∧ (s.pwm k).run = some r) ((fun (s : State) => s.setPwm 2 { shadow := ⟨3200, 0, 640⟩, run := some ⟨0, 64, true, false, false, none, 0⟩ }) (wst [])) 2 {} (⟨0, 64, true, false, false, none, 0⟩ : PwmRun) :=
  ⟨canonical_of (by decide +kernel), by decide +kernel⟩

theorem witness_PwmPeriods_2 : (fun (s : State) (k : ChanIx) (w : Word) =>
    s.canonical ∧ (s.pwm k).active.per = 0) (wst [(.PWM_PER_COUNT, 2, 100), (.PWM_RISE_COUNT, 2, 10)]) 2 0x03000014 :=
  ⟨canonical_of (by decide +kernel), by decide +kernel⟩

theorem witness_PwmPeriods_3 : (fun (s : State) (k : ChanIx) (w : Word) =>
    s.canonical ∧ 0 < (s.pwm k).active.per ∧ s.cycles * 32 ≤ (s.pwm k).start + (s.pwm k).active.per ∧ (s.pwm k).start + (s.pwm k).active.per ≤ s.cycles * 32 + 128) ((fun (s : State) => s.setPwm 2 { active := ⟨100, 0, 64⟩ }) (wst [])) 2 0x03000014 :=
  ⟨canonical_of (by decide +kernel), by decide +kernel⟩

theorem witness_PwmPeriods_4 : (fun (s : State) (k : ChanIx) (m : Fin 4) =>
    s.canonical ∧ s.rd .PWM_CTRL_ARM k = 0) (wst []) 2 2 :=
  ⟨canonical_of (by decide +kernel), by decide +kernel⟩

theorem witness_PwmPeriods_5 : (fun (s : State) (k : ChanIx) (m : Fin 4) =>
    s.canonical ∧ s.rd .PWM_CTRL_ARM k = 1 ∧ s.rd .PWM_CTRL_MODE k ≠ m) (wst [(.PWM_CTRL_ARM, 2, 1)]) 2 2 :=
  ⟨canonical_of (by decide +kernel), by decide +kernel⟩

theorem witness_PwmPeriods_6 : (fun (s : State) (k : ChanIx) =>
    s.canonical ∧ s.gateHeld k = false ∧ s.rd .KCT_STATUS_LOCKED = 1 ∧ s.rd .PWM_STATUS_STATE k < 2) ((fun (s : State) => s.setPwm 2 { relayHold := false, shadow := ⟨3200, 0, 640⟩ }) (wst [(.KCT_STATUS_LOCKED, 0, 1)])) 2 :=
  ⟨canonical_of (by decide +kernel), by decide +kernel⟩

theorem witness_PwmPeriods_7 : (fun (s : State) (k : ChanIx) =>
    s.canonical) (wst [(.PWM_CTRL_ARM, 2, 1), (.PWM_STATUS_STATE, 2, 3)]) 2 :=
  canonical_of (by decide +kernel)

theorem witness_PwmPeriods_8 : (fun (s : State) (k : ChanIx) (v : BitVec 16) =>
    s.canonical) (wst [(.PWM_DUTY_MAX_DUTY, 2, 500)]) 2 600 :=
  canonical_of (by decide +kernel)

theorem witness_PwmPeriods_9 : (fun (s : State)  =>
    s.canonical) (wst [])  :=
  canonical_of (by decide +kernel)

theorem witness_PwmPeriods_10 : (fun (s : State)  =>
    s.canonical) (wst [(.PWM_GLOBAL_CAL_OK, 0, 1)])  :=
  canonical_of (by decide +kernel)

theorem witness_LinePowerTrips_1 : (fun (s : State) (k : ChanIx) (b : Bool) (c : BitVec 16) =>
    s.canonical ∧ k.val < 4 ∧ (s.pwm k).g3 = false ∧ s.fltHold k = false ∧ s.senseLimit k b ≤ c.toNat ∧ s.g3Blanked k = false) ((fun (s : State) => ((s.setPwm 2 { relayHold := false, run := some ⟨0, 64, true, false, false, none, 0⟩ }).updBp 7 fun x => { x with live := true, decl := { x.decl with dstKind := 1, dstPort := 2 } })) (wst [(.PWM_CTRL_ARM, 2, 1), (.PWM_STATUS_STATE, 2, 3)])) 2 true 0xFFF0 :=
  ⟨canonical_of (by decide +kernel), by decide +kernel⟩

theorem witness_LinePowerTrips_2 : (fun (s : State) (i : Fin 4) =>
    s.canonical ∧ bit i (s.rd .PWM_FLT_ACT) = false) ((fun (s : State) => s.setPwm 5 { run := some ⟨0, 64, true, false, false, none, 0⟩ }) (wst [(.PWM_FLT_MAP_MAP1, 0, 0x22)])) 1 :=
  ⟨canonical_of (by decide +kernel), by decide +kernel⟩

theorem witness_LinePowerTrips_3 : (fun (s : State) (i : Fin 4) =>
    s.canonical ∧ bit i (s.rd .PWM_FLT_ACT) = true) (wst [(.PWM_FLT_ACT, 0, 6), (.PWM_FLT_LATCH, 0, 6)]) 1 :=
  ⟨canonical_of (by decide +kernel), by decide +kernel⟩

theorem witness_LinePowerTrips_4 : (fun (s : State) (i : Fin 4) =>
    s.canonical ∧ bit i (s.rd .PWM_FLT_ACT) = false ∧ bit i (s.rd .PWM_FLT_LATCH) = true) (wst [(.PWM_FLT_ACT, 0, 4), (.PWM_FLT_LATCH, 0, 6)]) 1 :=
  ⟨canonical_of (by decide +kernel), by decide +kernel⟩

theorem witness_LinePowerTrips_5 : (fun (s : State) (i : Fin 4) =>
    s.canonical ∧ bit i (s.rd .PWM_FLT_ACT) = true) (wst [(.PWM_FLT_ACT, 0, 6), (.PWM_FLT_LATCH, 0, 6)]) 1 :=
  ⟨canonical_of (by decide +kernel), by decide +kernel⟩

theorem witness_LinePowerTrips_6 : (fun (s : State)  =>
    s.canonical) (wst [(.PWM_CTRL_ARM, 2, 1), (.PWM_STATUS_STATE, 2, 3)])  :=
  canonical_of (by decide +kernel)

theorem witness_LinePowerTrips_7 : (fun (s : State) (q : CoreIx) =>
    s.canonical ∧ s.rd .KCT_CFG_DEBUG_EN = 1 ∧ bit q (s.rd .PCR_CTRL_RUN) = true ∧ bit q (s.rd .PCR_CTRL_HALTED) = false) (wst [(.KCT_CFG_DEBUG_EN, 0, 1), (.PCR_CTRL_RUN, 0, 15), (.PWM_CTRL_ARM, 2, 1)]) 3 :=
  ⟨canonical_of (by decide +kernel), by decide +kernel⟩

theorem witness_OnTimeBelowMaxDuty : (fun (s : State) (k : Nat) (x : PwmRun) => ((s.shapePeriod k false none 0).pwm k).run = some x ∧ x.given = true)
    ((wst [(.PWM_DUTY_MAX_DUTY, 2, 0x4000), (.PWM_DUTY_FW_MAX_DUTY, 2, 0x8000)]).updPwm 2 fun x => { x with
      active := ⟨32000, 100, 24000⟩, duty := (1, 4) }) 2 ⟨128, 8096, true, false, false, none, 0⟩ := by decide +kernel

theorem witness_MonitorConverters_1 : (fun (s : State) (x : ConvIx) =>
    s.canonical) (wst []) 1 :=
  canonical_of (by decide +kernel)

theorem witness_MonitorConverters_2 : (fun (s : State) (x : ConvIx) =>
    s.canonical) (wst [(.MON_CTRL_REF_EN, 1, 1), (.MON_STATUS_REF_READY, 1, 1)]) 1 :=
  canonical_of (by decide +kernel)

theorem witness_MonitorConverters_3 : (fun (s : State) (x : ConvIx) =>
    s.canonical ∧ s.rd .MON_CTRL_REF_EN x = 1) (wst [(.MON_CTRL_REF_EN, 1, 1)]) 1 :=
  ⟨canonical_of (by decide +kernel), by decide +kernel⟩

theorem witness_MonitorConverters_4 : (fun (s : State) (x : ConvIx) =>
    s.canonical ∧ s.rd .MON_STATUS_REF_READY x = 1 ∧ s.rd .MON_STATUS_CALIBRATING x = 0) (wst [(.MON_STATUS_REF_READY, 1, 1)]) 1 :=
  ⟨canonical_of (by decide +kernel), by decide +kernel⟩

theorem witness_MonitorConverters_5 : (fun (s : State) (x : ConvIx) =>
    s.canonical ∧ s.rd .MON_STATUS_REF_READY x = 0) (wst []) 1 :=
  ⟨canonical_of (by decide +kernel), by decide +kernel⟩

theorem witness_MonitorConverters_6 : (fun (s : State) (x : ConvIx) (f : Int × Int) =>
    s.canonical ∧ s.rd .MON_STATUS_CALIBRATING x = 1 ∧ factorsOk f (s.factory.mon.getD x (0, 4194304)) = true) (wst [(.MON_STATUS_CALIBRATING, 1, 1)]) 1 (-5, 4194305) :=
  ⟨canonical_of (by decide +kernel), by decide +kernel⟩

theorem witness_MonitorConverters_7 : (fun (s : State) (x : ConvIx) =>
    s.canonical ∧ s.rd .MON_STATUS_CALIBRATING x = 1) (wst [(.MON_STATUS_CALIBRATING, 1, 1), (.MON_CAL_OFS_OFS, 1, 9)]) 1 :=
  ⟨canonical_of (by decide +kernel), by decide +kernel⟩

theorem witness_MonitorConverters_8 : (fun (s : State) (x : ConvIx) (code : BitVec 16) (ch : Nat) (redo : Bool) =>
    s.canonical ∧ (s.conv x).job = Job.scan ch redo ∧ (s.conv x).queue.length < 128) ((fun (s : State) => s.setConv 1 { job := .scan 7 false }) (wst [])) 1 0x8001 7 false :=
  ⟨canonical_of (by decide +kernel), by decide +kernel⟩

theorem witness_MonitorConverters_9 : (fun (s : State) (x : ConvIx) (w : Word) =>
    s.canonical ∧ s.rd .MON_CTRL_REF_EN x = 1 ∧ s.rd .MON_STATUS_CALIBRATING x = 0 ∧ (s.conv x).job = Job.idle) (wst [(.MON_CTRL_REF_EN, 1, 1)]) 1 0x123 :=
  ⟨canonical_of (by decide +kernel), by decide +kernel⟩

theorem witness_MonitorConverters_10 : (fun (s : State) (x : ConvIx) (w : Word) =>
    s.canonical ∧ s.rd .MON_CTRL_REF_EN x = 0) (wst []) 1 0x123 :=
  ⟨canonical_of (by decide +kernel), by decide +kernel⟩

theorem witness_MonitorConverters_11 : (fun (s : State) (q : CoreIx) (x : ConvIx) (e : Word) (es : List Word) =>
    s.canonical ∧ (s.conv x).queue = e :: es) ((fun (s : State) => s.setConv 1 { queue := [5, 6, 7] }) (wst [])) 2 1 5 [6, 7] :=
  ⟨canonical_of (by decide +kernel), by decide +kernel⟩

theorem witness_MonitorConverters_12 : (fun (s : State)  =>
    s.canonical) (wst [(.MON_PLAUS_PL_OK, 0, 1)])  :=
  canonical_of (by decide +kernel)

theorem witness_CollectorAccepts_1 : (fun (s : State) (m : FaultMsg) (ms : List FaultMsg) =>
    s.canonical ∧ s.net.msgs = m :: ms ∧ m.clear = false ∧ (s.effective m).1 = 0) ((fun (s : State) => { s with net := { s.net with msgs := [{ source := 0xB1, cause := 0x70, level := 0 }] } }) (wst [])) { source := 0xB1, cause := 0x70, level := 0 } [] :=
  ⟨canonical_of (by decide +kernel), by decide +kernel⟩

theorem witness_CollectorAccepts_2 : (fun (s : State) (m : FaultMsg) (ms : List FaultMsg) (u : Nat) =>
    s.canonical ∧ s.net.msgs = m :: ms ∧ m.clear = false ∧ m.inj = false ∧ 1 ≤ (s.effective m).1 ∧ s.rd .FCL_STATUS_LATCHED = 0 ∧ u ∈ s.cover m.source (s.effective m).1) ((fun (s : State) => { s with net := { s.net with msgs := [{ source := 7, cause := 0x20, level := 1 }] } }) (wst [])) { source := 7, cause := 0x20, level := 1 } [] 7 :=
  ⟨canonical_of (by decide +kernel), by decide +kernel⟩

theorem witness_CollectorAccepts_3 : (fun (s : State) (m : FaultMsg) (ms : List FaultMsg) =>
    s.canonical ∧ s.net.msgs = m :: ms ∧ m.clear = false ∧ m.inj = false ∧ 1 ≤ (s.effective m).1 ∧ s.rd .FCL_STATUS_LATCHED = 1) ((fun (s : State) => { s with net := { s.net with msgs := [{ source := 7, cause := 0x20, level := 1 }] } }) (wst [(.FCL_STATUS_LATCHED, 0, 1)])) { source := 7, cause := 0x20, level := 1 } [] :=
  ⟨canonical_of (by decide +kernel), by decide +kernel⟩

theorem witness_CollectorAccepts_4 : (fun (s : State) (m : FaultMsg) (ms : List FaultMsg) =>
    s.canonical ∧ s.net.msgs = m :: ms ∧ m.clear = true) ((fun (s : State) => { s with net := { s.net with msgs := [{ source := 7, cause := 0x22, level := 0, clear := true }] }, fcl := { s.fcl with conds := [⟨7, 0x22, false⟩] } }) (wst [])) { source := 7, cause := 0x22, level := 0, clear := true } [] :=
  ⟨canonical_of (by decide +kernel), by decide +kernel⟩

theorem witness_CollectorAccepts_5 : (fun (s : State) (q : CoreIx) (w : Word) =>
    s.canonical ∧ s.rd .FCL_STATUS_FACTORY = 1 ∧ s.net.msgs = []) (wst [(.FCL_STATUS_FACTORY, 0, 1), (.FCL_INJECT_LO_W0, 0, 0x2007)]) 1 77 :=
  ⟨canonical_of (by decide +kernel), by decide +kernel⟩

theorem witness_CollectorAccepts_6 : (fun (s : State) (q : CoreIx) (w : Word) =>
    s.canonical ∧ s.rd .FCL_STATUS_FACTORY = 0) (wst []) 1 77 :=
  ⟨canonical_of (by decide +kernel), by decide +kernel⟩

theorem witness_AcknowledgementAndRecovery_1 : (fun (s : State) (who : Requester) (x : BitVec 8) =>
    s.canonical ∧ s.reaches who = true ∧ s.rd .FCL_STATUS_LATCHED = 1 ∧ s.rd .FCL_FIRST_INFO_TAG = x.toNat) ((fun (s : State) => { s with fcl := { s.fcl with classes := [⟨7, 0x20, false, 1⟩, ⟨8, 0x20, false, 1⟩] } }) (wst [(.SCR_HSTATUS_FIELD_UP, 0, 1), (.FCL_STATUS_LATCHED, 0, 1), (.FCL_FIRST_INFO_TAG, 0, 9), (.FCL_FIRST_MSG, 0, 0x2007)])) .host 9 :=
  ⟨canonical_of (by decide +kernel), by decide +kernel⟩

theorem witness_AcknowledgementAndRecovery_2 : (fun (s : State) (who : Requester) (x : BitVec 8) =>
    s.canonical ∧ s.reaches who = true ∧ s.rd .FCL_FIRST_INFO_TAG ≠ x.toNat) (wst [(.SCR_HSTATUS_FIELD_UP, 0, 1), (.FCL_STATUS_LATCHED, 0, 1), (.FCL_FIRST_INFO_TAG, 0, 9)]) .host 8 :=
  ⟨canonical_of (by decide +kernel), by decide +kernel⟩

theorem witness_AcknowledgementAndRecovery_3 : (fun (s : State) (x : BitVec 8) =>
    s.canonical ∧ s.rd .SCR_HSTATUS_FIELD_UP = 0) (wst [(.FCL_STATUS_LATCHED, 0, 1), (.FCL_FIRST_INFO_TAG, 0, 9)]) 9 :=
  ⟨canonical_of (by decide +kernel), by decide +kernel⟩

theorem witness_AcknowledgementAndRecovery_4 : (fun (s : State) (q : CoreIx) (x : BitVec 8) =>
    s.canonical ∧ s.rd .FCL_STATUS_INJ_LATCHED = 1 ∧ s.rd .FCL_INJ_INFO_TAG = x.toNat) ((fun (s : State) => { s with fcl := { s.fcl with classes := [⟨7, 0x20, true, 1⟩, ⟨8, 0x20, false, 1⟩] } }) (wst [(.FCL_STATUS_INJ_LATCHED, 0, 1), (.FCL_INJ_INFO_TAG, 0, 9), (.FCL_INJ_MSG, 0, 0x42007)])) 1 9 :=
  ⟨canonical_of (by decide +kernel), by decide +kernel⟩

theorem witness_AcknowledgementAndRecovery_5 : (fun (s : State) (q : CoreIx) (w : Word) =>
    s.canonical ∧ bit 17 w.toNat = true) ((fun (s : State) => { s with fcl := { s.fcl with classes := [⟨7, 0x20, false, 1⟩, ⟨8, 0x20, false, 1⟩] } }) (wst [])) 1 0x22007 :=
  ⟨canonical_of (by decide +kernel), by decide +kernel⟩

theorem witness_AcknowledgementAndRecovery_6 : (fun (s : State) (u : BitVec 8) (f : Fence) =>
    s.canonical ∧ (s.fcl.fences.find? (fun g => Fence.source g == u.toNat) = some f) ∧ u.toNat ≠ bypassUnit ∧ s.quiet u.toNat = true ∧ (s.fcl.conds.any (fun c => Cond.source c == u.toNat) = false) ∧ u.toNat ∉ s.fcl.limited ∧ s.recentRecoveries u.toNat < s.rd .FCL_LIMIT_RECOV_MAX) ((fun (s : State) => { s with clk := ⟨100000, 0⟩, fcl := { s.fcl with fences := [⟨7, 1, [7], [⟨7, 0x20, false⟩]⟩] } }) (wst [(.FCL_LIMIT_RECOV_MAX, 0, 2)])) 7 (⟨7, 1, [7], [⟨7, 0x20, false⟩]⟩ : Fence) :=
  ⟨canonical_of (by decide +kernel), by decide +kernel⟩

theorem witness_AcknowledgementAndRecovery_7 : (fun (s : State) (u : BitVec 8) (f : Fence) =>
    s.canonical ∧ (s.fcl.fences.find? (fun g => Fence.source g == u.toNat) = some f) ∧ u.toNat ≠ bypassUnit ∧ s.quiet u.toNat = true ∧ (s.fcl.conds.any (fun c => Cond.source c == u.toNat) = false) ∧ u.toNat ∉ s.fcl.limited ∧ s.rd .FCL_LIMIT_RECOV_MAX ≤ s.recentRecoveries u.toNat) ((fun (s : State) => { s with clk := ⟨100000, 0⟩, fcl := { s.fcl with fences := [⟨7, 1, [7], [⟨7, 0x20, false⟩]⟩] } }) (wst [(.FCL_LIMIT_RECOV_MAX, 0, 0)])) 7 (⟨7, 1, [7], [⟨7, 0x20, false⟩]⟩ : Fence) :=
  ⟨canonical_of (by decide +kernel), by decide +kernel⟩

theorem witness_AcknowledgementAndRecovery_8 : (fun (s : State) (q : CoreIx) (w : Word) (f : Fence) =>
    s.canonical ∧ bit 8 w.toNat = true ∧ (s.fcl.fences.find? (fun g => Fence.source g == bits 0 8 w.toNat) = some f) ∧ (f.causes.any (fun c => s.fcl.conds.contains c) = false)) ((fun (s : State) => { s with fcl := { s.fcl with fences := [⟨7, 1, [7], [⟨7, 0x20, false⟩]⟩] } }) (wst [])) 1 0x107 (⟨7, 1, [7], [⟨7, 0x20, false⟩]⟩ : Fence) :=
  ⟨canonical_of (by decide +kernel), by decide +kernel⟩

theorem witness_AcknowledgementAndRecovery_9 : (fun (s : State) (q : CoreIx) (w : Word) (f : Fence) =>
    s.canonical ∧ bit 8 w.toNat = true ∧ (s.fcl.fences.find? (fun g => Fence.source g == bits 0 8 w.toNat) = some f) ∧ (f.causes.any (fun c => s.fcl.conds.contains c) = true)) ((fun (s : State) => { s with fcl := { s.fcl with conds := [⟨7, 0x20, false⟩], fences := [⟨7, 1, [7], [⟨7, 0x20, false⟩]⟩] } }) (wst [])) 1 0x107 (⟨7, 1, [7], [⟨7, 0x20, false⟩]⟩ : Fence) :=
  ⟨canonical_of (by decide +kernel), by decide +kernel⟩

theorem witness_AcknowledgementAndRecovery_10 : (fun (s : State)  =>
    s.canonical ∧ s.kct.powered = true ∧ s.rd .KCT_STATUS_LOCKED = 1 ∧ s.maxFence < 2) ((fun (s : State) => { s with kct := { s.kct with powered := true } }) (wst [(.KCT_STATUS_LOCKED, 0, 1)]))  :=
  ⟨canonical_of (by decide +kernel), by decide +kernel⟩

theorem witness_AcknowledgementAndRecovery_11 : (fun (s : State)  =>
    s.canonical ∧ 2 ≤ s.maxFence) ((fun (s : State) => { s with fcl := { s.fcl with fences := [⟨7, 2, [7], []⟩] } }) (wst []))  :=
  ⟨canonical_of (by decide +kernel), by decide +kernel⟩

theorem witness_TemperatureTrips_1 : (fun (s : State) (e : DieIx) (r : BitVec 16) =>
    s.canonical ∧ s.kct.powered = true ∧ -3520 ≤ r.toInt ∧ r.toInt ≤ 9600) ((fun (s : State) => { s with kct := { s.kct with powered := true } }) (wst [])) 2 0x1000 :=
  ⟨canonical_of (by decide +kernel), by decide +kernel⟩

theorem witness_TemperatureTrips_2 : (fun (s : State) (e : DieIx) (r : BitVec 16) =>
    s.canonical ∧ s.kct.powered = true ∧ -3520 ≤ r.toInt ∧ r.toInt ≤ 9600 ∧ s.rd .THM_TEMP_SUSPECT e = 0 ∧ (s.die e).differs < 2 ∧ (s.die e).tripRun = 2 ∧ s.rd .THM_TEMP_TRIPPED e = 0 ∧ s.tripAt e ≤ r.toInt) ((fun (s : State) => ({ s with kct := { s.kct with powered := true } }).setDie 2 { tripRun := 2 }) (wst [])) 2 0x1CC0 :=
  ⟨canonical_of (by decide +kernel), by decide +kernel⟩

theorem witness_TemperatureTrips_3 : (fun (s : State) (e : DieIx) (p : PortIx) (n : BpIx) =>
    s.canonical ∧ e.val = p.val + 1 ∧ s.rd .THM_TEMP_TRIPPED e = 1 ∧ (s.die e).reacted = false ∧ n.val ∈ s.windowOut p) ((fun (s : State) => s.updBp 7 fun x => { x with live := true, decl := { x.decl with dstKind := 1, dstPort := 2 } }) (wst [(.THM_TEMP_TRIPPED, 3, 1)])) 3 2 7 :=
  ⟨canonical_of (by decide +kernel), by decide +kernel⟩

theorem witness_TemperatureTrips_4 : (fun (s : State) (u : Nat) =>
    s.canonical ∧ s.rd .THM_TEMP_TRIPPED 0 = 1 ∧ (s.die 0).reacted = false ∧ u ∈ allUnits) (wst [(.THM_TEMP_TRIPPED, 0, 1)]) 0xA7 :=
  ⟨canonical_of (by decide +kernel), by decide +kernel⟩

theorem witness_TemperatureTrips_5 : (fun (s : State)  =>
    s.canonical ∧ s.thm.tripped = true) ((fun (s : State) => { s with thm := { s.thm with tripped := true } }) (wst []))  :=
  ⟨canonical_of (by decide +kernel), by decide +kernel⟩

theorem witness_TemperatureTrips_6 : (fun (s : State) (e : StartEnv) =>
    s.canonical ∧ s.thm.hold = true ∧ s.cooled = true ∧ s.recentRestarts.length < 3) ((fun (s : State) => { s with clk := { s.clk with tick := 1000005 }, thm := { s.thm with hold := true, coolFrom := some 5 } }) (wst [])) {} :=
  ⟨canonical_of (by decide +kernel), by decide +kernel⟩

theorem witness_TemperatureTrips_7 : (fun (s : State) (e : StartEnv) =>
    s.canonical ∧ s.thm.hold = true ∧ 3 ≤ s.recentRestarts.length) ((fun (s : State) => { s with thm := { s.thm with hold := true, restarts := [0, 0, 0] } }) (wst [])) {} :=
  ⟨canonical_of (by decide +kernel), by decide +kernel⟩

theorem witness_TemperatureTrips_8 : (fun (s : State) (e : StartEnv) =>
    s.canonical ∧ s.thm.hold = true ∧ s.cooled = false) ((fun (s : State) => { s with thm := { s.thm with hold := true } }) (wst [])) {} :=
  ⟨canonical_of (by decide +kernel), by decide +kernel⟩

theorem witness_TemperatureTrips_9 : (fun (s : State) (r : BitVec 16) =>
    s.canonical ∧ s.kct.powered = false ∧ s.thm.hold = true) ((fun (s : State) => { s with clk := { s.clk with tick := 9 }, thm := { s.thm with hold := true, restartAt := 100 } }) (wst [])) 5 :=
  ⟨canonical_of (by decide +kernel), by decide +kernel⟩

theorem witness_TemperatureTrips_10 : (fun (s : State) (e : DieIx) (v : BitVec 16) =>
    s.canonical) (wst [(.THM_LIM_WARN, 3, 100)]) 3 200 :=
  canonical_of (by decide +kernel)

theorem witness_FrescoRecords_1 : (fun (s : State) (e : FrEvent) (es : List FrEvent) =>
    s.canonical ∧ s.frs.queue = e :: es ∧ s.frs.next ≤ s.frs.mark ∧ s.rd .FRS_STATUS_MEDIUM_FAIL = 0 ∧ (Store.wf (fun _ => none) s.frs.ring = true)) ((fun (s : State) => { s with frs := { s.frs with mark := 9, queue := [{ type := 0x40, source := 9, time := 5, body := [1, 2] }] } }) (wst [])) { type := 0x40, source := 9, time := 5, body := [1, 2] } [] :=
  ⟨canonical_of (by decide +kernel), by decide +kernel⟩

theorem witness_FrescoRecords_2 : (fun (s : State) (b : Bool) =>
    s.canonical ∧ s.frs.mark < s.frs.next) (wst []) true :=
  ⟨canonical_of (by decide +kernel), by decide +kernel⟩

theorem witness_FrescoRecords_3 : (fun (s : State) (e : FrEvent) (es : List FrEvent) =>
    s.canonical ∧ s.frs.queue = e :: es ∧ s.frs.next ≤ s.frs.mark ∧ s.rd .FRS_STATUS_MEDIUM_FAIL = 0) ((fun (s : State) => { s with frs := { s.frs with mark := 9, queue := [{ type := 0x40, source := 9, time := 5, body := [1, 2] }] } }) (wst [])) { type := 0x40, source := 9, time := 5, body := [1, 2] } [] :=
  ⟨canonical_of (by decide +kernel), by decide +kernel⟩

theorem witness_FrescoRecords_4 : (fun (s : State)  =>
    s.canonical ∧ s.rd .FRS_STATUS_FLOOD = 1 ∧ s.frs.queue.length ≤ 16) ((fun (s : State) => { s with frs := { s.frs with pairs := [⟨1, 2, 3, 4⟩] } }) (wst [(.FRS_STATUS_FLOOD, 0, 1)]))  :=
  ⟨canonical_of (by decide +kernel), by decide +kernel⟩

theorem witness_FrescoRecords_5 : (fun (s : State)  =>
    s.canonical ∧ s.frs.mark ≤ s.frs.next + 4096 ∧ s.rd .THM_FLASH_WIN_OPEN = 1) (wst [(.THM_FLASH_WIN_OPEN, 0, 1)])  :=
  ⟨canonical_of (by decide +kernel), by decide +kernel⟩

theorem witness_FrescoRecords_6 : (fun (s : State)  =>
    s.canonical ∧ s.frs.mark ≤ s.frs.next + 4096 ∧ s.rd .THM_FLASH_WIN_OPEN = 0) (wst [(.THM_FLASH_WIN_OPEN, 0, 0)])  :=
  ⟨canonical_of (by decide +kernel), by decide +kernel⟩

theorem witness_FrescoRecords_7 : (fun (s : State) (q : CoreIx) =>
    s.canonical ∧ s.rd .FRS_STATUS_FLOOD = 0 ∧ s.frs.queue.length < 64) (wst [(.FRS_FW_CTRL_SOURCE, 0, 5)]) 1 :=
  ⟨canonical_of (by decide +kernel), by decide +kernel⟩

theorem witness_BlackBox_1 : (fun (s : State) (r : FrRecord) =>
    s.canonical ∧ s.frs.flushNext < s.frs.next ∧ s.rd .FRS_STATUS_BB_FAIL = 0 ∧ s.frs.copying = false ∧ s.rd .FRS_STATUS_CLEARING = 0 ∧ s.rd .THM_FLASH_WIN_OPEN = 1 ∧ s.ringAt s.frs.flushNext = some r ∧ (Store.wf (fun _ => .erased) s.frs.blackBox = true)) ((fun (s : State) => { s with frs := { s.frs with next := 5, flushNext := 4, bbNext := 3, ring := [(4, some ⟨4, 0x40, false, false, 5, 0, 9, [1]⟩)] } }) (wst [(.THM_FLASH_WIN_OPEN, 0, 1)])) ⟨4, 0x40, false, false, 5, 0, 9, [1]⟩ :=
  ⟨canonical_of (by decide +kernel), by decide +kernel⟩

theorem witness_BlackBox_2 : (fun (s : State) (r : FrRecord) =>
    s.canonical ∧ s.frs.flushNext < s.frs.next ∧ s.rd .FRS_STATUS_BB_FAIL = 0 ∧ s.frs.copying = false ∧ s.rd .FRS_STATUS_CLEARING = 0 ∧ s.rd .THM_FLASH_WIN_OPEN = 1 ∧ s.ringAt s.frs.flushNext = some r) ((fun (s : State) => { s with frs := { s.frs with next := 5, flushNext := 4, bbNext := 3, ring := [(4, some ⟨4, 0x40, false, false, 5, 0, 9, [1]⟩)] } }) (wst [(.THM_FLASH_WIN_OPEN, 0, 1)])) ⟨4, 0x40, false, false, 5, 0, 9, [1]⟩ :=
  ⟨canonical_of (by decide +kernel), by decide +kernel⟩

theorem witness_BlackBox_3 : (fun (s : State) (who : Requester) (w : Word) =>
    s.canonical ∧ s.reaches who = true ∧ s.rd .FRS_STATUS_CLR_LOCK = 0 ∧ s.rd .FRS_AUTH_ID_ID (s.rd .FRS_CLR_ID_INDEX) ≠ 0 ∧ s.rd .FRS_CLR_CODE_LO_CODE + w.toNat * 2 ^ 32 = s.clearCode (s.rd .FRS_CLR_ID_INDEX) (s.rd2 .FRS_NONCE_LO_NONCE .FRS_NONCE_HI_NONCE)) (wst [(.SCR_HSTATUS_FIELD_UP, 0, 1), (.FRS_AUTH_ID_ID, 0, 5), (.FRS_CLR_CODE_LO_CODE, 0, 1268743129)]) .host 3146408475 :=
  ⟨canonical_of (by decide +kernel), by decide +kernel⟩

theorem witness_BlackBox_4 : (fun (s : State) (who : Requester) (w : Word) =>
    s.canonical ∧ s.reaches who = true ∧ s.rd .FRS_STATUS_CLR_LOCK = 0 ∧ s.rd .FRS_AUTH_ID_ID (s.rd .FRS_CLR_ID_INDEX) = 0) ((fun (s : State) => { s with frs := { s.frs with refusals := 7 } }) (wst [(.SCR_HSTATUS_FIELD_UP, 0, 1)])) .host 9 :=
  ⟨canonical_of (by decide +kernel), by decide +kernel⟩

theorem witness_BlackBox_5 : (fun (s : State) (w : Word) =>
    s.canonical ∧ s.rd .SCR_HSTATUS_FIELD_UP = 0) (wst []) 9 :=
  ⟨canonical_of (by decide +kernel), by decide +kernel⟩

theorem witness_BlackBox_6 : (fun (s : State)  =>
    s.canonical ∧ s.rd .FRS_STATUS_CLEARING = 1 ∧ s.rd .THM_FLASH_WIN_OPEN = 1) ((fun (s : State) => { s with frs := { s.frs with blackBox := [(3, .failed 1)] } }) (wst [(.THM_FLASH_WIN_OPEN, 0, 1), (.FRS_STATUS_CLEARING, 0, 1)]))  :=
  ⟨canonical_of (by decide +kernel), by decide +kernel⟩

theorem witness_BlackBox_7 : (fun (s : State)  =>
    s.canonical ∧ s.rd .FRS_STATUS_CLR_LOCK = 1) (wst [(.FRS_STATUS_CLR_LOCK, 0, 1)])  :=
  ⟨canonical_of (by decide +kernel), by decide +kernel⟩

theorem witness_BlackBox_8 : (fun (s : State) (w : Word) =>
    s.canonical) (wst []) 0x200005 :=
  canonical_of (by decide +kernel)

theorem witness_BlackBox_9 : (fun (s : State)  =>
    s.canonical ∧ s.frs.copying = true) ((fun (s : State) => { s with frs := { s.frs with copying := true } }) (wst []))  :=
  ⟨canonical_of (by decide +kernel), by decide +kernel⟩

theorem witness_Counters_1 : (fun (s : State) (c : Fin 224) =>
    s.canonical ∧ s.clk.tick % 100 = 0 ∧ s.cnt.gathered ≠ s.clk.tick + 1 ∧ s.rd .CNT_HI_PEND c = 0 ∧ (Store.wf (fun _ => 0) s.cnt.live = true) ∧ (Store.wf (fun _ => 0) s.cnt.copies = true)) ((fun (s : State) => s.tally 0 1 3) (wst [(.CNT_SEL_EVENT, 7, 1), (.CNT_SEL_UNIT, 7, 0xFF)])) 7 :=
  ⟨canonical_of (by decide +kernel), by decide +kernel⟩

theorem witness_Counters_2 : (fun (s : State) (c : Fin 224) =>
    s.canonical ∧ s.cnt.copied = true ∧ s.rd .CNT_CTRL_FW_HOLD = 0 ∧ s.rd .CNT_CTRL_HOST_HOLD = 0) ((fun (s : State) => { s with cnt := { s.cnt with copied := true, copies := [(7, 99)] } }) (wst [])) 7 :=
  ⟨canonical_of (by decide +kernel), by decide +kernel⟩

theorem witness_Counters_3 : (fun (s : State)  =>
    s.canonical ∧ s.cnt.copied = true) ((fun (s : State) => { s with cnt := { s.cnt with copied := true } }) (wst []))  :=
  ⟨canonical_of (by decide +kernel), by decide +kernel⟩

theorem witness_Counters_4 : (fun (s : State) (who : Requester) (c : Fin 224) =>
    s.canonical ∧ s.reaches who = true ∧ (isHost who = false ∨ s.rd .CNT_CTRL_HOST_RD = 1)) (wst [(.CNT_LO_COUNT_LO, 7, 55)]) (.core 1) 7 :=
  ⟨canonical_of (by decide +kernel), by decide +kernel⟩

theorem witness_Counters_5 : (fun (s : State) (c : Fin 224) =>
    s.canonical ∧ s.rd .SCR_HSTATUS_FIELD_UP = 1 ∧ s.rd .CNT_CTRL_HOST_RD = 0) (wst [(.SCR_HSTATUS_FIELD_UP, 0, 1)]) 7 :=
  ⟨canonical_of (by decide +kernel), by decide +kernel⟩

theorem witness_Counters_6 : (fun (s : State) (c : Fin 224) =>
    s.canonical ∧ s.rd .SCR_HSTATUS_FIELD_UP = 0) (wst []) 7 :=
  ⟨canonical_of (by decide +kernel), by decide +kernel⟩

theorem witness_Counters_7 : (fun (s : State) (c : Fin 224) (w : Word) (q : CoreIx) =>
    s.canonical ∧ s.rd .CNT_HI_PEND c = 0 ∧ (Store.wf (fun _ => 0) s.cnt.live = true)) (wst []) 210 0x502 1 :=
  ⟨canonical_of (by decide +kernel), by decide +kernel⟩

theorem witness_Counters_8 : (fun (s : State) (c : Fin 224) (w : Word) =>
    s.canonical ∧ s.rd .SCR_HSTATUS_FIELD_UP = 1 ∧ (s.rd .CNT_CTRL_HOST_PROG = 0 ∨ c.val < 208)) (wst [(.SCR_HSTATUS_FIELD_UP, 0, 1)]) 210 0x502 :=
  ⟨canonical_of (by decide +kernel), by decide +kernel⟩

theorem witness_Counters_9 : (fun (s : State)  =>
    s.canonical ∧ (s.rd .CNT_CTRL_FW_HOLD = 1 ∨ s.rd .CNT_CTRL_HOST_HOLD = 1)) (wst [(.CNT_CTRL_HOST_HOLD, 0, 1)])  :=
  ⟨canonical_of (by decide +kernel), by decide +kernel⟩

theorem witness_Counters_10 : (fun (s : State) (q : CoreIx) (x : Sample) =>
    s.canonical ∧ s.cnt.samples.length < 1024 ∧ (Store.get (fun _ => 0) s.cnt.tagged q ≠ 0) ∧ (Store.wf (fun _ => 0) s.cnt.tagged = true)) ((fun (s : State) => { s with cnt := { s.cnt with tagged := [(1, 2)] } }) (wst [])) 1 (⟨1, 2, 3, 4, 5⟩ : Sample) :=
  ⟨canonical_of (by decide +kernel), by decide +kernel⟩

theorem witness_Counters_11 : (fun (s : State) (q : CoreIx) (x : Sample) =>
    s.canonical ∧ (Store.get (fun _ => 0) s.cnt.tagged q = 0)) (wst []) 1 (⟨1, 2, 3, 4, 5⟩ : Sample) :=
  ⟨canonical_of (by decide +kernel), by decide +kernel⟩

theorem witness_Counters_12 : (fun (s : State) (q : CoreIx) (ws : List Word) (rest : List (List Word)) =>
    s.canonical ∧ s.cnt.samples = ws :: rest ∧ s.cnt.sampleWord = 3) ((fun (s : State) => { s with cnt := { s.cnt with samples := [[1, 2, 3, 4], [5, 6, 7, 8]], sampleWord := 3 } }) (wst [])) 1 [1, 2, 3, 4] [[5, 6, 7, 8]] :=
  ⟨canonical_of (by decide +kernel), by decide +kernel⟩

theorem witness_HostAccesses_1 : (fun (s : State) (off : BitVec 20) (wide : Bool) =>
    s.canonical ∧ off.toNat < 0x80000 ∧ off.toNat % (4 * accessWords wide) = 0 ∧ s.rd .SCR_HSTATUS_FIELD_UP = 1 ∧ s.scr.stalled = [] ∧ 2 ≤ s.rd .SCR_HCREDIT_REQ) (wst [(.SCR_HSTATUS_FIELD_UP, 0, 1), (.SCR_HCREDIT_REQ, 0, 5)]) 0x3008 true :=
  ⟨canonical_of (by decide +kernel), by decide +kernel⟩

theorem witness_HostAccesses_2 : (fun (s : State) (off : BitVec 20) (wide : Bool) (w : Word64) =>
    s.canonical ∧ off.toNat < 0x80000 ∧ off.toNat % (4 * accessWords wide) = 0 ∧ s.rd .SCR_HSTATUS_FIELD_UP = 1 ∧ s.scr.stalled = [] ∧ 2 ≤ s.rd .SCR_HCREDIT_REQ) (wst [(.SCR_HSTATUS_FIELD_UP, 0, 1), (.SCR_HCREDIT_REQ, 0, 5)]) 0x3008 true 99 :=
  ⟨canonical_of (by decide +kernel), by decide +kernel⟩

theorem witness_HostAccesses_3 : (fun (s : State) (off : BitVec 20) (wide : Bool) (write : Option Word64) =>
    s.canonical ∧ off.toNat < 0x80000 ∧ off.toNat % (4 * accessWords wide) = 0 ∧ s.rd .SCR_HSTATUS_FIELD_UP = 1 ∧ s.rd .SCR_HCREDIT_REQ = 0) (wst [(.SCR_HSTATUS_FIELD_UP, 0, 1), (.SCR_HCREDIT_REQ, 0, 0)]) 0x3008 true none :=
  ⟨canonical_of (by decide +kernel), by decide +kernel⟩

theorem witness_HostAccesses_4 : (fun (s : State) (off : BitVec 20) (wide : Bool) =>
    s.canonical ∧ off.toNat < 0x80000 ∧ off.toNat % (4 * accessWords wide) = 0 ∧ s.rd .SCR_HSTATUS_FIELD_UP = 0) (wst []) 0x3008 true :=
  ⟨canonical_of (by decide +kernel), by decide +kernel⟩

theorem witness_HostAccesses_5 : (fun (s : State) (off : BitVec 20) (wide : Bool) (write : Option Word64) (part : Bool) =>
    s.canonical ∧ off.toNat % (4 * accessWords wide) ≠ 0 ∧ off.toNat < 0x80000) (wst []) 0x300A true none false :=
  ⟨canonical_of (by decide +kernel), by decide +kernel⟩

theorem witness_HostAccesses_6 : (fun (s : State) (off : BitVec 20) (wide : Bool) (w : Word64) =>
    s.canonical ∧ off.toNat < 0x80000 ∧ off.toNat % (4 * accessWords wide) = 0 ∧ s.rd .SCR_HSTATUS_FIELD_UP = 1) (wst [(.SCR_HSTATUS_FIELD_UP, 0, 1)]) 0x3008 true 99 :=
  ⟨canonical_of (by decide +kernel), by decide +kernel⟩

theorem witness_HostAccesses_7 : (fun (s : State) (o : Nat) (rest : List HostReq) =>
    s.canonical ∧ s.kct.powered = true ∧ s.rd .SCR_FSTATUS_HOST_UP = 1 ∧ s.scr.reqs = ⟨o, none⟩ :: rest ∧ s.rd .SCR_FCREDIT_RSP ≠ 0 ∧ s.rd .SCR_FCREDIT_RSP ≤ 32) ((fun (s : State) => { s with kct := { s.kct with powered := true }, scr := { s.scr with reqs := [⟨0x3004, none⟩] } }) (wst [(.SCR_FSTATUS_HOST_UP, 0, 1), (.SCR_FCREDIT_RSP, 0, 7), (.KCT_STATUS_STATE, 0, 4)])) 0x3004 [] :=
  ⟨canonical_of (by decide +kernel), by decide +kernel⟩

theorem witness_HostAccesses_8 : (fun (s : State)  =>
    s.canonical ∧ s.rd .SCR_FSTATUS_HOST_UP = 0) (wst [(.SCR_FSTATUS_HOST_UP, 0, 0)])  :=
  ⟨canonical_of (by decide +kernel), by decide +kernel⟩

theorem witness_HostAccesses_9 : (fun (s : State) (w : Word) (rest : List Word) (k : Nat) (ks : List Nat) =>
    s.canonical ∧ s.rd .SCR_HSTATUS_FIELD_UP = 1 ∧ s.scr.rsps = w :: rest ∧ s.scr.reads = k :: ks ∧ k ≤ s.scr.partRead.length + 1) ((fun (s : State) => { s with scr := { s.scr with rsps := [5], reads := [1] } }) (wst [(.SCR_HSTATUS_FIELD_UP, 0, 1)])) 5 [] 1 [] :=
  ⟨canonical_of (by decide +kernel), by decide +kernel⟩

theorem witness_HostAccesses_10 : (fun (s : State)  =>
    s.canonical ∧ s.scr.reqs = [] ∧ s.scr.reads = [] ∧ s.scr.stalled = []) (wst [])  :=
  ⟨canonical_of (by decide +kernel), by decide +kernel⟩

theorem witness_HostAccesses_11 : (fun (s : State)  =>
    s.canonical ∧ s.rd .SCR_HSTATUS_FIELD_UP = 1) ((fun (s : State) => { s with scr := { s.scr with reads := [2] } }) (wst [(.SCR_HSTATUS_FIELD_UP, 0, 1)]))  :=
  ⟨canonical_of (by decide +kernel), by decide +kernel⟩

theorem witness_HostAccesses_12 : (fun (s : State)  =>
    s.canonical ∧ s.rd .SCR_HSTATUS_FIELD_UP = 0) (wst [])  :=
  ⟨canonical_of (by decide +kernel), by decide +kernel⟩

theorem witness_HostAccesses_13 : (fun (s : State)  =>
    s.canonical) (wst [(.SCR_FSTATUS_HOST_UP, 0, 1)])  :=
  canonical_of (by decide +kernel)

theorem witness_HostAccesses_14 : (fun (s : State) (d : Bool) =>
    s.canonical ∧ 5 ≤ s.scr.toHost ∧ 5 ≤ s.scr.toField ∧ s.scr.toHost ≤ 8 ∧ s.scr.toField ≤ 8) ((fun (s : State) => { s with scr := { s.scr with toHost := 8, toField := 8 } }) (wst [(.SCR_HSTATUS_FIELD_UP, 0, 1)])) true :=
  ⟨canonical_of (by decide +kernel), by decide +kernel⟩

theorem witness_HostAccesses_15 : (fun (s : State)  =>
    s.canonical ∧ s.scr.toHost = 4) ((fun (s : State) => { s with scr := { s.scr with toHost := 4, toField := 8 } }) (wst [(.SCR_HSTATUS_FIELD_UP, 0, 1)]))  :=
  ⟨canonical_of (by decide +kernel), by decide +kernel⟩

theorem witness_HostAccesses_16 : (fun (s : State) (x y : Fin 9) =>
    s.canonical ∧ s.kct.powered = true ∧ 4 ≤ x.val ∧ 4 ≤ y.val) ((fun (s : State) => { s with kct := { s.kct with powered := true } }) (wst [])) 8 8 :=
  ⟨canonical_of (by decide +kernel), by decide +kernel⟩

theorem witness_HostAccesses_17 : (fun (s : State)  =>
    s.canonical ∧ s.rd .SCR_HSTATUS_FIELD_UP = 1 ∧ s.scr.stalled = [] ∧ s.rd .SCR_HCREDIT_REQ + s.scr.owed.getD 0 0 ≤ 32 ∧ s.rd .SCR_HCREDIT_MBX_TX = 16 ∧ s.scr.owed.getD 3 0 = 0 ∧ s.scr.owed.length = 6 ∧ s.rd .SCR_FSTATUS_HOST_UP = 0) ((fun (s : State) => { s with scr := { s.scr with owed := [3, 0, 0, 0, 0, 0] } }) (wst [(.SCR_HSTATUS_FIELD_UP, 0, 1), (.SCR_HCREDIT_REQ, 0, 5), (.SCR_HCREDIT_MBX_TX, 0, 16), (.SCR_FSTATUS_HOST_UP, 0, 0)]))  :=
  ⟨canonical_of (by decide +kernel), by decide +kernel⟩

theorem witness_HostAccesses_18 : (fun (s : State) (v : Nat) (es : List Nat) =>
    s.canonical ∧ s.scr.evts = v :: es ∧ s.rd .SCR_HSTATUS_FIELD_UP = 1 ∧ s.rd .SCR_FSTATUS_HOST_UP = 1 ∧ 0 < s.rd .SCR_FCREDIT_EVT) ((fun (s : State) => { s with scr := { s.scr with evts := [20] } }) (wst [(.SCR_HSTATUS_FIELD_UP, 0, 1), (.SCR_FSTATUS_HOST_UP, 0, 1), (.SCR_FCREDIT_EVT, 0, 9)])) 20 [] :=
  ⟨canonical_of (by decide +kernel), by decide +kernel⟩

theorem witness_HostAccesses_19 : (fun (s : State) (v : BitVec 5) =>
    s.canonical ∧ Store.wf msixReset s.scr.msix = true ∧ bit v.toNat s.scr.pba = true) ((fun (s : State) => { s with scr := { s.scr with pba := 8 } }) (wst [])) 3 :=
  ⟨canonical_of (by decide +kernel), by decide +kernel⟩

theorem witness_HostAccesses_20 : (fun (s : State) (q : CoreIx) (w : Word) =>
    s.canonical ∧ s.rd .SCR_FSTATUS_HOST_UP = 0) (wst [(.SCR_FSTATUS_HOST_UP, 0, 0)]) 1 5 :=
  ⟨canonical_of (by decide +kernel), by decide +kernel⟩

theorem witness_CaptureRings_1 : (fun (s : State) (r : RingIx) (w : Word) =>
    s.canonical ∧ bit 0 w.toNat = true ∧ s.rd .DMA_STATUS_RUN r = 0 ∧ s.scr.tempHot = false ∧ s.rd .PCIE_CAP_CAP_LIMIT ≠ 0 ∧ (s.wr .DMA_CTRL_BP r (bits 1 7 w.toNat)).fitsLimit (some r.val) = true ∧ s.rd .SCR_HSTATUS_FIELD_UP = 1 ∧ s.scr.busMaster = true) ((fun (s : State) => { s with scr := { s.scr with busMaster := true } }) (wst [(.SCR_HSTATUS_FIELD_UP, 0, 1), (.PCIE_CAP_CAP_LIMIT, 0, 20000)])) 2 11 :=
  ⟨canonical_of (by decide +kernel), by decide +kernel⟩

theorem witness_CaptureRings_2 : (fun (s : State) (r : RingIx) (w : Word) =>
    s.canonical ∧ bit 0 w.toNat = true ∧ s.rd .DMA_STATUS_RUN r = 0 ∧ (s.scr.tempHot = true ∨ s.rd .PCIE_CAP_CAP_LIMIT = 0)) ((fun (s : State) => { s with scr := { s.scr with tempHot := true } }) (wst [])) 2 1 :=
  ⟨canonical_of (by decide +kernel), by decide +kernel⟩

theorem witness_CaptureRings_3 : (fun (s : State) (r : RingIx) (w : Word) =>
    s.canonical ∧ bit 0 w.toNat = false) (wst [(.DMA_STATUS_RUN, 2, 1), (.DMA_CTRL_EN, 2, 1)]) 2 0 :=
  ⟨canonical_of (by decide +kernel), by decide +kernel⟩

theorem witness_CaptureRings_4 : (fun (s : State) (r : RingIx) (w : Word) =>
    s.canonical ∧ (w.toNat % 2 ^ 17 + 2 ^ 17 - s.rd .DMA_TAIL_TAIL r) % 2 ^ 17 ≤ s.ringSize r ∧ s.posted r ≤ (w.toNat % 2 ^ 17 + 2 ^ 17 - s.rd .DMA_TAIL_TAIL r) % 2 ^ 17) (wst []) 2 3 :=
  ⟨canonical_of (by decide +kernel), by decide +kernel⟩

theorem witness_CaptureRings_5 : (fun (s : State) (r : RingIx) (w : Word) =>
    s.canonical ∧ s.ringSize r < (w.toNat % 2 ^ 17 + 2 ^ 17 - s.rd .DMA_TAIL_TAIL r) % 2 ^ 17) (wst []) 2 300 :=
  ⟨canonical_of (by decide +kernel), by decide +kernel⟩

theorem witness_CaptureRings_6 : (fun (s : State) (r : RingIx) (d : Descriptor) (g : Staged) (gs : List Staged) =>
    s.canonical ∧ (s.ring r).staged = g :: gs ∧ (s.ring r).buffer = none ∧ s.rd .DMA_STATUS_RUN r = 1 ∧ s.rd .SCR_HSTATUS_FIELD_UP = 1 ∧ s.scr.capCredit ≠ 0 ∧ s.scr.capCredit ≤ 256 ∧ s.posted r ≠ 0 ∧ badDescriptor d = false) ((fun (s : State) => { (s.setRing 2 { s.ring 2 with staged := [⟨(⟨99, 0, 0, 4, 0, 0, []⟩ : Grain), 0, 0, 3, false⟩] }) with scr := { s.scr with capCredit := 256 } }) (wst [(.SCR_HSTATUS_FIELD_UP, 0, 1), (.DMA_STATUS_RUN, 2, 1), (.DMA_CTRL_EN, 2, 1), (.DMA_HEAD_HEAD, 2, 4)])) 2 (⟨4096, 8192⟩ : Descriptor) ⟨(⟨99, 0, 0, 4, 0, 0, []⟩ : Grain), 0, 0, 3, false⟩ [] :=
  ⟨canonical_of (by decide +kernel), by decide +kernel⟩

theorem witness_CaptureRings_7 : (fun (s : State) (r : RingIx) (d : Descriptor) (g : Staged) (gs : List Staged) =>
    s.canonical ∧ (s.ring r).staged = g :: gs ∧ (s.ring r).buffer = none ∧ s.rd .DMA_STATUS_RUN r = 1 ∧ s.rd .SCR_HSTATUS_FIELD_UP = 1 ∧ s.scr.capCredit ≠ 0 ∧ s.posted r ≠ 0 ∧ badDescriptor d = true) ((fun (s : State) => { (s.setRing 2 { s.ring 2 with staged := [⟨(⟨99, 0, 0, 4, 0, 0, []⟩ : Grain), 0, 0, 3, false⟩] }) with scr := { s.scr with capCredit := 256 } }) (wst [(.SCR_HSTATUS_FIELD_UP, 0, 1), (.DMA_STATUS_RUN, 2, 1), (.DMA_CTRL_EN, 2, 1), (.DMA_HEAD_HEAD, 2, 4)])) 2 (⟨4097, 8192⟩ : Descriptor) ⟨(⟨99, 0, 0, 4, 0, 0, []⟩ : Grain), 0, 0, 3, false⟩ [] :=
  ⟨canonical_of (by decide +kernel), by decide +kernel⟩

theorem witness_CaptureRings_8 : (fun (s : State) (r : RingIx) (b : CapBuffer) =>
    s.canonical ∧ (s.ring r).buffer = some b ∧ bufferRoom b.desc.len ≤ b.grains.length) ((fun (s : State) => s.setRing 2 { s.ring 2 with buffer := some { desc := ⟨4096, 64⟩, grains := [], lostBefore := 0, poison := false, time := 0 } }) (wst [])) 2 { desc := ⟨4096, 64⟩, grains := [], lostBefore := 0, poison := false, time := 0 } :=
  ⟨canonical_of (by decide +kernel), by decide +kernel⟩

theorem witness_CaptureRings_9 : (fun (s : State) (r : RingIx) (b : CapBuffer) =>
    s.canonical ∧ (s.ring r).buffer = some b ∧ s.rd .DMA_FLUSH_FLUSH_US r ≠ 0) ((fun (s : State) => s.setRing 2 { s.ring 2 with buffer := some { desc := ⟨4096, 4096⟩, grains := [], lostBefore := 0, poison := false, time := 0 } }) (wst [(.DMA_FLUSH_FLUSH_US, 2, 1)])) 2 { desc := ⟨4096, 4096⟩, grains := [], lostBefore := 0, poison := false, time := 0 } :=
  ⟨canonical_of (by decide +kernel), by decide +kernel⟩

theorem witness_CaptureRings_10 : (fun (s : State) (r : RingIx) =>
    s.canonical ∧ (s.ring r).closed ≠ 0) ((fun (s : State) => s.setRing 2 { s.ring 2 with closed := 3 }) (wst [])) 2 :=
  ⟨canonical_of (by decide +kernel), by decide +kernel⟩

theorem witness_CaptureRings_11 : (fun (s : State) (r : RingIx) =>
    s.canonical ∧ s.rd .DMA_STATUS_RUN r = 1) (wst [(.DMA_STATUS_RUN, 2, 1), (.DMA_CTRL_EN, 2, 1)]) 2 :=
  ⟨canonical_of (by decide +kernel), by decide +kernel⟩

theorem witness_CaptureRings_12 : (fun (s : State) (r : RingIx) =>
    s.canonical ∧ s.rd .DMA_STATUS_RUN r = 1) (wst [(.DMA_STATUS_RUN, 2, 1), (.DMA_CTRL_EN, 2, 1)]) 2 :=
  ⟨canonical_of (by decide +kernel), by decide +kernel⟩

theorem witness_CaptureRings_13 : (fun (s : State) (k : Fin 8) (r : RingIx) =>
    s.canonical ∧ k.val ≠ 6) (wst []) 3 2 :=
  ⟨canonical_of (by decide +kernel), by decide +kernel⟩

theorem witness_CaptureRings_14 : (fun (s : State) (gen : Fin 8) (width : Fin 32) =>
    s.canonical ∧ 1 ≤ gen.val ∧ gen.val ≤ 4 ∧ width.val ∈ [4, 8, 16] ∧ (∀ r : Fin 8, s.rd .DMA_STATUS_RUN r = 0)) (wst []) 3 8 :=
  ⟨canonical_of (by decide +kernel), by decide +kernel⟩

theorem witness_CaptureRings_15 : (fun (s : State)  =>
    s.canonical) (wst [(.DMA_STATUS_RUN, 2, 1), (.DMA_CTRL_EN, 2, 1)])  :=
  canonical_of (by decide +kernel)

theorem witness_CaptureRings_16 : (fun (s : State) (x : BitVec 16) =>
    s.canonical ∧ 7040 ≤ x.toInt ∧ s.scr.tempHot = false) (wst [(.DMA_STATUS_RUN, 2, 1), (.DMA_CTRL_EN, 2, 1)]) 7050 :=
  ⟨canonical_of (by decide +kernel), by decide +kernel⟩

theorem witness_CaptureRings_17 : (fun (s : State) (x : BitVec 16) =>
    s.canonical ∧ x.toInt ≤ 6080 ∧ s.scr.tempHot = true ∧ 9999 ≤ s.scr.coolMs) ((fun (s : State) => { s with scr := { s.scr with tempHot := true, coolMs := 9999 } }) (wst [])) 6000 :=
  ⟨canonical_of (by decide +kernel), by decide +kernel⟩

theorem witness_MailboxCommands_1 : (fun (s : State)  =>
    s.canonical ∧ s.rd .SCR_HCREDIT_MBX_TX = 0) (wst [(.SCR_HCREDIT_MBX_TX, 0, 0)])  :=
  ⟨canonical_of (by decide +kernel), by decide +kernel⟩

theorem witness_MailboxCommands_2 : (fun (s : State)  =>
    s.canonical ∧ 0 < s.rd .SCR_HCREDIT_MBX_TX ∧ s.scrimUp = true) (wst [(.SCR_HSTATUS_FIELD_UP, 0, 1), (.SCR_FSTATUS_HOST_UP, 0, 1), (.SCR_HCREDIT_MBX_TX, 0, 8)])  :=
  ⟨canonical_of (by decide +kernel), by decide +kernel⟩

theorem witness_MailboxCommands_3 : (fun (s : State) (m : List Word) (ms : List (List Word)) =>
    s.canonical ∧ s.scr.mbxHost = m :: ms) ((fun (s : State) => { s with scr := { s.scr with mbxHost := [[1]] } }) (wst [])) [1] [] :=
  ⟨canonical_of (by decide +kernel), by decide +kernel⟩

theorem witness_MailboxCommands_4 : (fun (s : State) (q : CoreIx) =>
    s.canonical ∧ s.rd .SCR_FCREDIT_MBX_TX = 0) (wst [(.SCR_FCREDIT_MBX_TX, 0, 0)]) 1 :=
  ⟨canonical_of (by decide +kernel), by decide +kernel⟩

theorem witness_MailboxCommands_5 : (fun (s : State) (q : CoreIx) =>
    s.canonical ∧ 0 < s.rd .SCR_FCREDIT_MBX_TX ∧ s.scrimUp = true) (wst [(.SCR_HSTATUS_FIELD_UP, 0, 1), (.SCR_FSTATUS_HOST_UP, 0, 1), (.SCR_FCREDIT_MBX_TX, 0, 8)]) 1 :=
  ⟨canonical_of (by decide +kernel), by decide +kernel⟩

theorem witness_MailboxCommands_6 : (fun (s : State) (q : CoreIx) (m : List Word) (ms : List (List Word)) =>
    s.canonical ∧ s.scr.mbxField = m :: ms) ((fun (s : State) => { s with scr := { s.scr with mbxField := [[1]] } }) (wst [])) 1 [1] [] :=
  ⟨canonical_of (by decide +kernel), by decide +kernel⟩

theorem witness_MailboxCommands_7 : (fun (s : State) (q : CoreIx) (m : List Word) =>
    s.canonical ∧ s.mailDue q = some m ∧ bits 0 16 (mword m 0) = 1 ∧ s.scrimUp = true) ((fun (s : State) => { s with scr := { s.scr with mbxField := [[0x05000001]] } }) (wst [(.KCT_ID_FW_MAJOR, 0, 3), (.SCR_FCREDIT_MBX_TX, 0, 8), (.PCR_CTRL_RUN, 0, 15), (.SCR_FSTATUS_HOST_UP, 0, 1), (.SCR_HSTATUS_FIELD_UP, 0, 1)])) 1 [0x05000001] :=
  ⟨canonical_of (by decide +kernel), by decide +kernel⟩

theorem witness_MailboxCommands_8 : (fun (s : State) (q : CoreIx) (m : List Word) =>
    s.canonical ∧ s.mailDue q = some m ∧ bits 0 16 (mword m 0) = 0x11 ∧ 128 ≤ mword m 1 ∧ s.scrimUp = true) ((fun (s : State) => { s with scr := { s.scr with mbxField := [[0x05000011, 200, 1]] } }) (wst [(.KCT_ID_FW_MAJOR, 0, 3), (.SCR_FCREDIT_MBX_TX, 0, 8), (.PCR_CTRL_RUN, 0, 15), (.SCR_FSTATUS_HOST_UP, 0, 1), (.SCR_HSTATUS_FIELD_UP, 0, 1)])) 1 [0x05000011, 200, 1] :=
  ⟨canonical_of (by decide +kernel), by decide +kernel⟩

theorem witness_MailboxCommands_9 : (fun (s : State) (q : CoreIx) (m : List Word) (n : BpIx) =>
    s.canonical ∧ s.mailDue q = some m ∧ bits 0 16 (mword m 0) = 0x11 ∧ mword m 1 = n ∧ bit 0 (mword m 2) = true ∧ s.rd .BP_CTRL_ENABLE n = 0 ∧ s.rd .BP_STATUS_STATE n = 0 ∧ s.rd .BP_STATUS_PENDING n = 0 ∧ s.rd .BP_ROUTE_SRC_KIND n ≠ 2 ∧ s.scrimUp = true) ((fun (s : State) => { s with scr := { s.scr with mbxField := [[0x05000011, 7, 1]] } }) (wst [(.KCT_ID_FW_MAJOR, 0, 3), (.SCR_FCREDIT_MBX_TX, 0, 8), (.PCR_CTRL_RUN, 0, 15), (.SCR_FSTATUS_HOST_UP, 0, 1), (.SCR_HSTATUS_FIELD_UP, 0, 1)])) 1 [0x05000011, 7, 1] 7 :=
  ⟨canonical_of (by decide +kernel), by decide +kernel⟩

theorem witness_MailboxCommands_10 : (fun (s : State) (q : CoreIx) (m : List Word) (n : BpIx) =>
    s.canonical ∧ s.mailDue q = some m ∧ bits 0 16 (mword m 0) = 0x10 ∧ mword m 1 = n ∧ s.scr.staging = none ∧ s.rd .BP_STATUS_PENDING n = 0 ∧ s.rd .BP_CTRL_ENABLE n = 0) ((fun (s : State) => { s with scr := { s.scr with mbxField := [[0x05000010, 7, 64, 0x21, 1000, 0]] } }) (wst [(.KCT_ID_FW_MAJOR, 0, 3), (.SCR_FCREDIT_MBX_TX, 0, 8), (.PCR_CTRL_RUN, 0, 15), (.SCR_FSTATUS_HOST_UP, 0, 1), (.SCR_HSTATUS_FIELD_UP, 0, 1)])) 1 [0x05000010, 7, 64, 0x21, 1000, 0] 7 :=
  ⟨canonical_of (by decide +kernel), by decide +kernel⟩

theorem witness_MailboxCommands_11 : (fun (s : State) (q : CoreIx) (m : List Word) (k : Nat) =>
    s.canonical ∧ s.mailDue q = some m ∧ bits 0 16 (mword m 0) = 0x10 ∧ mword m 1 < 128 ∧ s.scr.staging = some k ∧ (s.bp k).check = none ∧ s.rd .BP_STATUS_REJECT k < 16 ∧ s.scrimUp = true) ((fun (s : State) => { s with scr := { s.scr with mbxField := [[0x05000010, 7]], staging := some 7 } }) (wst [(.KCT_ID_FW_MAJOR, 0, 3), (.SCR_FCREDIT_MBX_TX, 0, 8), (.PCR_CTRL_RUN, 0, 15), (.SCR_FSTATUS_HOST_UP, 0, 1), (.SCR_HSTATUS_FIELD_UP, 0, 1), (.BP_STATUS_REJECT, 7, 9)])) 1 [0x05000010, 7] 7 :=
  ⟨canonical_of (by decide +kernel), by decide +kernel⟩

theorem witness_MailboxCommands_12 : (fun (s : State) (q : CoreIx) (m : List Word) =>
    s.canonical ∧ s.mailDue q = some m ∧ bits 0 16 (mword m 0) = 0x20 ∧ 128 ≤ mword m 1 ∧ s.scrimUp = true) ((fun (s : State) => { s with scr := { s.scr with mbxField := [[0x05000020, 200, 1]] } }) (wst [(.KCT_ID_FW_MAJOR, 0, 3), (.SCR_FCREDIT_MBX_TX, 0, 8), (.PCR_CTRL_RUN, 0, 15), (.SCR_FSTATUS_HOST_UP, 0, 1), (.SCR_HSTATUS_FIELD_UP, 0, 1)])) 1 [0x05000020, 200, 1] :=
  ⟨canonical_of (by decide +kernel), by decide +kernel⟩

theorem witness_MailboxCommands_13 : (fun (s : State) (q : CoreIx) (m : List Word) (n : BpIx) =>
    s.canonical ∧ s.mailDue q = some m ∧ bits 0 16 (mword m 0) = 0x20 ∧ mword m 1 = n ∧ s.scrimUp = true ∧ delayState s n ≠ 2 ∧ delayState s n ≠ 3) ((fun (s : State) => { s with scr := { s.scr with mbxField := [[0x05000020, 7, 1, 0, 1]] } }) (wst [(.KCT_ID_FW_MAJOR, 0, 3), (.SCR_FCREDIT_MBX_TX, 0, 8), (.PCR_CTRL_RUN, 0, 15), (.SCR_FSTATUS_HOST_UP, 0, 1), (.SCR_HSTATUS_FIELD_UP, 0, 1)])) 1 [0x05000020, 7, 1, 0, 1] 7 :=
  ⟨canonical_of (by decide +kernel), by decide +kernel⟩

theorem witness_MailboxCommands_14 : (fun (s : State) (q : CoreIx) (m : List Word) (n : BpIx) =>
    s.canonical ∧ s.mailDue q = some m ∧ bits 0 16 (mword m 0) = 0x30 ∧ mword m 1 = n ∧ mword m 2 % 65536 ≤ s.rd .GCE_CEIL_HARD_CEIL n ∧ mword m 2 % 65536 ≤ 0x7FFF ∧ s.rd .GCE_CEIL_HARD_CEIL n ≤ 0x7FFF ∧ s.scrimUp = true) ((fun (s : State) => { s with scr := { s.scr with mbxField := [[0x05000030, 7, 50]] } }) (wst [(.KCT_ID_FW_MAJOR, 0, 3), (.SCR_FCREDIT_MBX_TX, 0, 8), (.PCR_CTRL_RUN, 0, 15), (.SCR_FSTATUS_HOST_UP, 0, 1), (.SCR_HSTATUS_FIELD_UP, 0, 1), (.GCE_CEIL_HARD_CEIL, 7, 100)])) 1 [0x05000030, 7, 50] 7 :=
  ⟨canonical_of (by decide +kernel), by decide +kernel⟩

theorem witness_KeyCoatUpdates_1 : (fun (s : State) (who : Requester) =>
    s.canonical ∧ s.reaches who = true ∧ s.kct.powered = true ∧ s.updating = false ∧ (isHost who = false ∨ s.rd .KCT_CFG_HOST_UPD_EN = 1) ∧ s.flashOpen = true) ((fun (s : State) => { s with kct := { s.kct with powered := true } }) (wst [(.THM_FLASH_WIN_OPEN, 0, 1)])) (.core 1) :=
  ⟨canonical_of (by decide +kernel), by decide +kernel⟩

theorem witness_KeyCoatUpdates_2 : (fun (s : State) (who : Requester) =>
    s.canonical ∧ s.reaches who = true ∧ s.kct.powered = true ∧ s.updating = true) ((fun (s : State) => { s with kct := { s.kct with powered := true } }) (wst [(.THM_FLASH_WIN_OPEN, 0, 1), (.KCT_UPD_STATUS_USTATE, 0, 2)])) (.core 1) :=
  ⟨canonical_of (by decide +kernel), by decide +kernel⟩

theorem witness_KeyCoatUpdates_3 : (fun (s : State)  =>
    s.canonical ∧ s.rd .SCR_HSTATUS_FIELD_UP = 1 ∧ s.kct.powered = true ∧ s.updating = false ∧ s.rd .KCT_CFG_HOST_UPD_EN = 0 ∧ s.rd .KCT_STATUS_STATE ≠ 5) ((fun (s : State) => { s with kct := { s.kct with powered := true } }) (wst [(.THM_FLASH_WIN_OPEN, 0, 1), (.SCR_HSTATUS_FIELD_UP, 0, 1), (.KCT_STATUS_STATE, 0, 4)]))  :=
  ⟨canonical_of (by decide +kernel), by decide +kernel⟩

theorem witness_KeyCoatUpdates_4 : (fun (s : State)  =>
    s.canonical ∧ s.rd .SCR_HSTATUS_FIELD_UP = 0) ((fun (s : State) => { s with kct := { s.kct with powered := true } }) (wst [(.THM_FLASH_WIN_OPEN, 0, 1)]))  :=
  ⟨canonical_of (by decide +kernel), by decide +kernel⟩

theorem witness_KeyCoatUpdates_5 : (fun (s : State)  =>
    s.canonical ∧ s.rd .KCT_UPD_STATUS_USTATE = 1 ∧ s.flashOpen = true) (wst [(.THM_FLASH_WIN_OPEN, 0, 1), (.KCT_UPD_STATUS_USTATE, 0, 1)])  :=
  ⟨canonical_of (by decide +kernel), by decide +kernel⟩

theorem witness_KeyCoatUpdates_6 : (fun (s : State) (who : Requester) (w : Word) =>
    s.canonical ∧ s.reaches who = true ∧ s.rd .KCT_UPD_STATUS_USTATE = 2 ∧ s.kct.updNext < 12 ∧ s.rd .KCT_UPD_ADDR_ADDR < slotSize) (wst [(.THM_FLASH_WIN_OPEN, 0, 1), (.KCT_UPD_STATUS_USTATE, 0, 2), (.KCT_UPD_ADDR_ADDR, 0, 8)]) (.core 1) 99 :=
  ⟨canonical_of (by decide +kernel), by decide +kernel⟩

theorem witness_KeyCoatUpdates_7 : (fun (s : State) (who : Requester) (w : Word) =>
    s.canonical ∧ s.reaches who = true ∧ s.rd .KCT_UPD_STATUS_USTATE = 2 ∧ slotSize ≤ s.rd .KCT_UPD_ADDR_ADDR / 4 * 4) (wst [(.THM_FLASH_WIN_OPEN, 0, 1), (.KCT_UPD_STATUS_USTATE, 0, 2), (.KCT_UPD_ADDR_ADDR, 0, slotSize)]) (.core 1) 99 :=
  ⟨canonical_of (by decide +kernel), by decide +kernel⟩

theorem witness_KeyCoatUpdates_8 : (fun (s : State) (who : Requester) =>
    s.canonical ∧ s.reaches who = true ∧ s.rd .KCT_UPD_STATUS_USTATE = 2 ∧ s.flashOpen = true) (wst [(.THM_FLASH_WIN_OPEN, 0, 1), (.KCT_UPD_STATUS_USTATE, 0, 2)]) (.core 1) :=
  ⟨canonical_of (by decide +kernel), by decide +kernel⟩

theorem witness_KeyCoatUpdates_9 : (fun (s : State) (who : Requester) =>
    s.canonical ∧ s.reaches who = true ∧ s.rd .KCT_UPD_STATUS_USTATE ≠ 2) (wst []) (.core 1) :=
  ⟨canonical_of (by decide +kernel), by decide +kernel⟩

theorem witness_KeyCoatUpdates_10 : (fun (s : State) (who : Requester) =>
    s.canonical ∧ s.reaches who = true ∧ s.updating = true) (wst [(.KCT_UPD_STATUS_USTATE, 0, 2)]) (.core 1) :=
  ⟨canonical_of (by decide +kernel), by decide +kernel⟩

theorem witness_KeyCoatUpdates_11 : (fun (s : State) (w : Word) =>
    s.canonical ∧ s.rd .SCR_HSTATUS_FIELD_UP = 0) (wst [(.THM_FLASH_WIN_OPEN, 0, 1), (.KCT_UPD_STATUS_USTATE, 0, 2)]) 99 :=
  ⟨canonical_of (by decide +kernel), by decide +kernel⟩

theorem witness_KeyCoatUpdates_12 : (fun (s : State)  =>
    s.canonical ∧ s.rd .SCR_HSTATUS_FIELD_UP = 0) (wst [(.THM_FLASH_WIN_OPEN, 0, 1), (.KCT_UPD_STATUS_USTATE, 0, 2)])  :=
  ⟨canonical_of (by decide +kernel), by decide +kernel⟩

theorem witness_KeyCoatUpdates_13 : (fun (s : State)  =>
    s.canonical ∧ s.rd .SCR_HSTATUS_FIELD_UP = 0) (wst [(.THM_FLASH_WIN_OPEN, 0, 1), (.KCT_UPD_STATUS_USTATE, 0, 2)])  :=
  ⟨canonical_of (by decide +kernel), by decide +kernel⟩

theorem witness_KeyCoatUpdates_14 : (fun (s : State)  =>
    s.canonical ∧ s.rd .KCT_UPD_STATUS_WAITING = 1 ∧ s.updating = true) (wst [(.KCT_UPD_STATUS_USTATE, 0, 2), (.KCT_UPD_STATUS_WAITING, 0, 1)])  :=
  ⟨canonical_of (by decide +kernel), by decide +kernel⟩

theorem witness_KeyCoatUpdates_15 : (fun (s : State) (b : Bool) =>
    s.canonical ∧ s.rd .KCT_UPD_STATUS_USTATE = 3 ∧ s.kct.updCommit = false) (wst [(.KCT_UPD_STATUS_USTATE, 0, 3)]) true :=
  ⟨canonical_of (by decide +kernel), by decide +kernel⟩

theorem witness_KeyCoatUpdates_16 : (fun (s : State)  =>
    s.canonical ∧ s.rd .KCT_UPD_STATUS_USTATE = 3 ∧ s.kct.updCommit = false) (wst [(.KCT_UPD_STATUS_USTATE, 0, 3)])  :=
  ⟨canonical_of (by decide +kernel), by decide +kernel⟩

theorem witness_KeyCoatUpdates_17 : (fun (s : State) (q : CoreIx) (w : Word) =>
    s.canonical ∧ (Store.wf (fun _ => 0) s.kct.kickAt = true)) (wst []) 1 5 :=
  ⟨canonical_of (by decide +kernel), by decide +kernel⟩

theorem witness_KeyCoatUpdates_18 : (fun (s : State) (q : CoreIx) (ecc : Bool) =>
    s.canonical ∧ s.coreRuns q = true ∧ (ecc = true ∨ Store.get (fun _ => 0) s.kct.kickAt q + s.wdgTicks ≤ s.clk.tick) ∧ (Store.wf (fun _ => 0) s.kct.kickAt = true)) (wst [(.PCR_CTRL_RUN, 0, 15), (.CHZ_SEL_N, 1, 9)]) 1 true :=
  ⟨canonical_of (by decide +kernel), by decide +kernel⟩

theorem witness_KeyCoatUpdates_19 : (fun (s : State) (q : CoreIx) (ecc : Bool) =>
    s.canonical ∧ s.coreRuns q = false) (wst []) 1 true :=
  ⟨canonical_of (by decide +kernel), by decide +kernel⟩

theorem witness_KeyCoatUpdates_20 : (fun (s : State) (q : CoreIx) (a : Word) =>
    s.canonical ∧ inCoreMap a.toNat = false) (wst []) 1 0x20000000 :=
  ⟨canonical_of (by decide +kernel), by decide +kernel⟩

theorem witness_PowerAndReset_1 : (fun (s : State) (e : StartEnv) =>
    s.canonical ∧ s.kct.powered = false ∧ s.thm.hold = false) (wst []) ({} : StartEnv) :=
  ⟨canonical_of (by decide +kernel), by decide +kernel⟩

theorem witness_PowerAndReset_2 : (fun (s : State) (e : StartEnv) =>
    s.canonical ∧ s.kct.powered = true) ((fun (s : State) => { s with kct := { s.kct with powered := true } }) (wst [])) ({} : StartEnv) :=
  ⟨canonical_of (by decide +kernel), by decide +kernel⟩

theorem witness_PowerAndReset_3 : (fun (s : State)  =>
    s.canonical ∧ s.kct.powered = true) ((fun (s : State) => { s with kct := { s.kct with powered := true } }) (wst []))  :=
  ⟨canonical_of (by decide +kernel), by decide +kernel⟩

theorem witness_PowerAndReset_4 : (fun (s : State) (who : Requester) (e : StartEnv) =>
    s.canonical ∧ s.reaches who = true ∧ s.kct.powered = true ∧ (isHost who = false ∨ s.rd .KCT_CFG_HOST_UPD_EN = 1)) ((fun (s : State) => { s with kct := { s.kct with powered := true } }) (wst [])) (.core 1) ({} : StartEnv) :=
  ⟨canonical_of (by decide +kernel), by decide +kernel⟩

theorem witness_PowerAndReset_5 : (fun (s : State) (e : StartEnv) =>
    s.canonical ∧ s.rd .SCR_HSTATUS_FIELD_UP = 1 ∧ s.rd .KCT_CFG_HOST_UPD_EN = 0 ∧ s.rd .KCT_STATUS_STATE ≠ 5 ∧ s.rd .KCT_RESTART_KEY ≠ 0x52535421) (wst [(.SCR_HSTATUS_FIELD_UP, 0, 1), (.KCT_STATUS_STATE, 0, 4)]) ({} : StartEnv) :=
  ⟨canonical_of (by decide +kernel), by decide +kernel⟩

theorem witness_PowerAndReset_6 : (fun (s : State) (e : StartEnv) =>
    s.canonical ∧ s.rd .SCR_HSTATUS_FIELD_UP = 0) (wst []) ({} : StartEnv) :=
  ⟨canonical_of (by decide +kernel), by decide +kernel⟩

theorem witness_PowerAndReset_7 : (fun (s : State)  =>
    s.canonical) (wst [(.DMA_CTRL_EN, 2, 1)])  :=
  canonical_of (by decide +kernel)

theorem witness_PowerAndReset_8 : (fun (s : State) (n : BpIx) =>
    s.canonical ∧ s.kct.retry = [n.val] ∧ s.running n = false ∧ s.rd .BP_STATUS_STATE n = 0 ∧ s.rd .BP_STATUS_PENDING n = 0 ∧ (s.rd .BP_STATUS_REJECT n = 6 ∨ s.rd .BP_STATUS_REJECT n = 7)) ((fun (s : State) => { s with kct := { s.kct with retry := [7] } }) (wst [(.BP_STATUS_REJECT, 7, 6)])) 7 :=
  ⟨canonical_of (by decide +kernel), by decide +kernel⟩

theorem witness_RegisterAccess_1 : (fun (s : State) (w : Word) =>
    s.canonical ∧ s.rd .SCR_HSTATUS_FIELD_UP = 1 ∧ s.rd .KCT_STATUS_STATE = 4) (wst [(.SCR_HSTATUS_FIELD_UP, 0, 1), (.KCT_STATUS_STATE, 0, 4)]) 3 :=
  ⟨canonical_of (by decide +kernel), by decide +kernel⟩

theorem witness_RegisterAccess_2 : (fun (s : State) (w : Word) =>
    s.canonical ∧ s.rd .SCR_HSTATUS_FIELD_UP = 1 ∧ s.rd .KCT_STATUS_STATE ≤ 3) (wst [(.SCR_HSTATUS_FIELD_UP, 0, 1)]) 3 :=
  ⟨canonical_of (by decide +kernel), by decide +kernel⟩

theorem witness_RegisterAccess_3 : (fun (s : State) (w : Word) =>
    s.canonical ∧ s.rd .KCT_STATUS_STATE = 4) (wst [(.SCR_HSTATUS_FIELD_UP, 0, 1), (.KCT_STATUS_STATE, 0, 4)]) 3 :=
  ⟨canonical_of (by decide +kernel), by decide +kernel⟩

theorem witness_RegisterAccess_4 : (fun (s : State) (q : CoreIx) (w : Word) =>
    s.canonical) (wst []) 1 3 :=
  canonical_of (by decide +kernel)

theorem witness_RegisterAccess_5 : (fun (s : State) (q : CoreIx) (w : Word) =>
    s.canonical ∧ bit 4 w.toNat = true) (wst [(.FRS_STATUS_CLR_REFUSED, 0, 1)]) 1 16 :=
  ⟨canonical_of (by decide +kernel), by decide +kernel⟩

theorem witness_RegisterAccess_6 : (fun (s : State) (q : CoreIx) (w : Word) =>
    s.canonical ∧ bit 4 w.toNat = false) (wst [(.FRS_STATUS_CLR_REFUSED, 0, 1)]) 1 0 :=
  ⟨canonical_of (by decide +kernel), by decide +kernel⟩

theorem witness_RegisterAccess_7 : (fun (s : State) (q : CoreIx) (w : Word) =>
    s.canonical ∧ s.rd .KCT_STATUS_LOCKED = 1 ∧ bits 16 16 w.toNat ≠ s.rd .THM_LIM_TRIP) (wst [(.KCT_STATUS_LOCKED, 0, 1)]) 1 0x10000 :=
  ⟨canonical_of (by decide +kernel), by decide +kernel⟩

theorem witness_RegisterAccess_8 : (fun (s : State) (off : BitVec 20) (w : Word) =>
    s.canonical ∧ off.toNat < 0x80000 ∧ off.toNat % 4 = 0 ∧ s.rd .SCR_HSTATUS_FIELD_UP = 0) (wst []) 0x3034 3 :=
  ⟨canonical_of (by decide +kernel), by decide +kernel⟩

theorem witness_RegisterAccess_9 : (fun (s : State) (off : BitVec 20) =>
    s.canonical ∧ off.toNat < 0x80000 ∧ off.toNat % 4 = 0 ∧ s.rd .SCR_HSTATUS_FIELD_UP = 0) (wst []) 0x3034 :=
  ⟨canonical_of (by decide +kernel), by decide +kernel⟩

theorem witness_RegisterAccess_10 : (fun (s : State) (q : CoreIx) (off : BitVec 20) (w : Word) =>
    s.canonical ∧ (0x80000 ≤ off.toNat ∨ off.toNat % 4 ≠ 0)) (wst []) 1 0x80004 3 :=
  ⟨canonical_of (by decide +kernel), by decide +kernel⟩

theorem witness_RegisterAccess_11 : (fun (s : State) (q : CoreIx) =>
    s.canonical ∧ (s.reader q).wide = none) (wst [(.FRS_COUNT_SUMMARIES, 0, 7), (.FRS_COUNT_COALESCED, 0, 9)]) 1 :=
  ⟨canonical_of (by decide +kernel), by decide +kernel⟩

theorem witness_RegisterAccess_12 : (fun (s : State) (q : CoreIx) =>
    s.canonical ∧ (s.reader q).wide = none) (wst [(.FRS_NEXT_LO_SEQ, 0, 7), (.FRS_NEXT_HI_SEQ, 0, 9)]) 1 :=
  ⟨canonical_of (by decide +kernel), by decide +kernel⟩

theorem witness_RegisterAccess_13 : (fun (s : State) (q : CoreIx) (w : Word) =>
    s.canonical ∧ (s.reader q).wide = some ⟨fieldKey .FRS_NEXT_HI_SEQ 0, w⟩) ((fun (s : State) => s.setReader 1 { s.reader 1 with wide := some ⟨fieldKey .FRS_NEXT_HI_SEQ 0, 5⟩ }) (wst [(.FRS_NEXT_HI_SEQ, 0, 9)])) 1 5 :=
  ⟨canonical_of (by decide +kernel), by decide +kernel⟩

end Sys2Proof.Tests
end

section
/-!
SUPPORT. The state after reset and the canonical form along a run: what each register field reads after reset, that the
reset state is canonical, and that a step keeps the canonical form.
-/

namespace Sys2Proof.Machine

/-! ### The state after reset (R13) -/

/-- The register stores of the reset state are empty, so every field reads as an unlisted key does. -/
theorem State.rd_reset (f : Field) (i : Nat) : State.reset.rd f i = fieldReset (fieldKey f i) := by
  unfold State.rd
  exact ite_self _

/-- An unlisted field reads as its Reset column; only the GROUP of a counter depends on which it is (R372). -/
theorem fieldReset_fieldKey {f : Field} (h : f ≠ .CNT_SEL_GROUP) (i : Nat) : fieldReset (fieldKey f i) = f.row.rst := by
  unfold fieldReset
  rw [fieldKey_field]
  exact if_neg h

/-- Counters 0 to 63 are of group 0 (R372, Table 161). -/
theorem fieldReset_group_zero {c : Nat} (h : c < 64) : fieldReset (fieldKey .CNT_SEL_GROUP c) = 0 := by
  have hc : fieldKey .CNT_SEL_GROUP c / 1024 = c := by
    have := (Field.CNT_SEL_GROUP).ctorIdx_lt
    unfold fieldKey
    omega
  unfold fieldReset
  rw [fieldKey_field, if_pos rfl, hc]
  exact if_pos h

/-- Every store of the reset state is empty, and the empty store is canonical. -/
theorem State.reset_canonical : State.reset.canonical where
  regs := rfl
  hard := rfl
  readers := rfl
  bps := rfl
  ports := rfl
  pwms := rfl
  convs := rfl
  dies := rfl
  lanes := rfl
  cages := rfl
  rings := rfl
  flash := rfl
  localMem := rfl
  updHead := rfl

/-- No event has been counted after reset. -/
theorem State.reset_slotEvents (e : Nat) (n : Sys2Proof.BpIx) : State.reset.slotEvents e n = 0 := rfl

/-- The audit of sample slots holds after reset (R374). -/
theorem State.reset_slotsAudit (n : Sys2Proof.BpIx) : State.reset.slotsAudit n := by
  simp only [State.slotsAudit, State.reset_slotEvents]

/-! ### The canonical form along a run -/

section
variable {s t : State}

/-- Taking a command off the queue touches no store. -/
theorem State.canonical.put_pending (h : s.canonical) (q : List Sys2Proof.Instr) :
    ({ s with pending := q } : State).canonical :=
  { h with }

/-- Every command keeps the canonical form. -/
theorem exec_canonical {c : Sys2Proof.Instr} (h : s.canonical) (e : exec c s = .next t) : t.canonical := by
  obtain ⟨u, hu, hk⟩ := exec_answers c s
  obtain rfl : u = t := Host.Outcome.next.inj (hu.symm.trans e)
  exact hk.canon h

/-- A step keeps the canonical form, whether it runs the front of the queue or lets a clock cycle pass. -/
theorem step_canonical (h : s.canonical) (e : step s = .next t) : t.canonical := by
  unfold step at e
  split at e
  case h_1 =>
    obtain rfl : s.idle = t := Host.Outcome.next.inj e
    exact (idle_keeps s).canon h
  case h_2 c rest _ => exact exec_canonical (h.put_pending rest) e

end

/-! ### The statements -/

/-- Settles O4: a step is an idle cycle or one command, and both keep the canonical form. -/
theorem stepKeepsCanonical : Obligations.StepKeepsCanonical := by
  unfold Obligations.StepKeepsCanonical
  exact fun _ _ => step_canonical

/-- Settles O2: the reset state lists no field, so each reads as an unlisted key does. -/
theorem resetValues : Obligations.ResetValues := by
  unfold Obligations.ResetValues
  refine ⟨fun f i hf => ?_, ?_, fun c => ?_, ?_, ?_, rfl, rfl⟩
  · rw [State.rd_reset, fieldReset_fieldKey hf]
  · simp only [State.rd_reset]
    decide +kernel
  · rw [State.rd_reset, fieldReset_group_zero c.isLt]
  · rw [State.rd_reset]; rfl
  · rw [State.rd_reset]; rfl

/-- Settles O3: every store of the reset state is empty, and so is the tally of slots. -/
theorem resetCanonical : Obligations.ResetCanonical := by
  unfold Obligations.ResetCanonical
  exact ⟨State.reset_canonical, State.reset_slotsAudit⟩

end Sys2Proof.Machine
end

section
/-!
SUPPORT. The host side and the field side: what the commands of the host side write lies within what a reset of die B
writes, and that holds no register field of the field half and no part of the field side.
-/

namespace Sys2Proof.Machine

/-- A reset of die B writes no register field of the field half (R395). -/
theorem inSet_dieBReset_fieldHalf (f : Field) (hf : f.row.off < 0x80000) : inSet writes_dieBReset f = false := by
  have h : ∀ k < 1024, (Field.ofNat k).row.off < 0x80000 → inSet writes_dieBReset (Field.ofNat k) = false := by
    decide +kernel
  simpa only [Field.ofNat_ctorIdx] using h f.ctorIdx f.ctorIdx_lt (by rwa [Field.ofNat_ctorIdx])

/-- A reset of die B writes no part of the field side (R395). -/
theorem partIn_dieBReset_fieldSide {p : Part} (hp : p ∉ [Part.rings, Part.scr]) : partIn writes_dieBReset p = false := by
  unfold writes_dieBReset
  exact partIn_writes hp

/-- An operation that writes no more than a reset of die B leaves the field side as it was: the register fields of the
field half, and every part but the capture rings and Scrim (R21, R395). -/
theorem State.keeps.fieldSide {m : Nat} {s t : State} (h : State.keeps m s t) (hm : m ||| writes_dieBReset = writes_dieBReset)
    (hs : s.canonical) :
    (∀ (f : Field) (i : Nat), f.row.off < 0x80000 → t.rd f i = s.rd f i) ∧ ∀ p : Part, p ∉ [Part.rings, Part.scr] → p.same s t := by
  have hr := h.mono hm
  exact ⟨fun f i hf => hr.fields hs f i (inSet_dieBReset_fieldHalf f hf), fun p hp => hr.parts p (partIn_dieBReset_fieldSide hp)⟩

/-- Settles O15: each command of the host side writes no more than a reset of die B. -/
theorem hostSideLeavesField : Obligations.HostSideLeavesField := by
  unfold Obligations.HostSideLeavesField
  intro c s hs hc
  have hm : writesOf c ||| writes_dieBReset = writes_dieBReset := by
    cases c with
    | dieBReset | pcieError | pcieRetrain | bmeOff | dmaErr | dmaEnable | dmaHeadWrite | dmaFlushTimeout | dmaHoldoffExpire
    | dmaBufferClose | dieBTempSample | msixUnmask | mbxPop | scrHsyncRead | scrimRsp | fieldDown =>
      dsimp only [writesOf]
      decide +kernel
    | _ => exact hc.elim
  obtain ⟨t, ht, hk⟩ := exec_answers c s
  exact ⟨t, ht, hk.fieldSide hm hs⟩

end Sys2Proof.Machine
end

section
/-!
SUPPORT. The samples of a published grain: every stage of a band path saturates, so what a window or a lane publishes lies
within full scale.
-/

namespace Sys2Proof.Machine

/-- I and Q of a sample lie within ±32,767 (R38). -/
def withinFullScale (x : Sys2Proof.IQ) : Prop := -32767 ≤ x.i ∧ x.i ≤ 32767 ∧ -32767 ≤ x.q ∧ x.q ≤ 32767

/-! ### Samples and sample words (R37, R38) -/

theorem sat16_bounds (x : Int) : -32767 ≤ sat16 x ∧ sat16 x ≤ 32767 := by
  unfold sat16 clampI
  omega

theorem map_sat16_withinFullScale (x : Sys2Proof.IQ) : withinFullScale (IQ.map sat16 x) := by
  obtain ⟨hi, hi'⟩ := sat16_bounds x.i
  obtain ⟨hq, hq'⟩ := sat16_bounds x.q
  exact ⟨hi, hi', hq, hq'⟩

/-- The gain stage saturates both parts of its result (R136). -/
theorem gainSample_withinFullScale (m sh : Nat) (x : Sys2Proof.IQ) : withinFullScale (gainSample m sh x).1 :=
  map_sat16_withinFullScale ⟨_, _⟩

/-- A 16-bit part that reads −32,768 is taken as −32,767; any other keeps its value (R38). -/
theorem max_signed16 {v : Nat} (hv : v < 65536) :
    max (-32767) (signed 16 v) = if v = 0x8000 then -32767 else signed 16 v := by
  unfold signed
  split <;> split <;> omega

theorem ofSampleWord_i (w : Sys2Proof.Word) : (ofSampleWord w).i =
    if w.toNat % 65536 = 0x8000 then -32767 else signed 16 (w.toNat % 65536) :=
  max_signed16 (Nat.mod_lt _ (by decide))

theorem ofSampleWord_q (w : Sys2Proof.Word) : (ofSampleWord w).q =
    if w.toNat / 65536 = 0x8000 then -32767 else signed 16 (w.toNat / 65536) :=
  max_signed16 (by have := w.isLt; omega)

/-- A number within ±32,767 survives its 16-bit form. -/
theorem signed_wrapBits16 {x : Int} (hlo : -32767 ≤ x) (hhi : x ≤ 32767) : signed 16 (wrapBits 16 x) = x := by
  unfold signed wrapBits
  split <;> omega

theorem wrapBits16_lt (x : Int) : wrapBits 16 x < 65536 := by
  unfold wrapBits
  omega

/-- The low half of a sample word is I, the high half Q (R37). -/
theorem sampleWord_halves (x : Sys2Proof.IQ) :
    (sampleWord x).toNat % 65536 = wrapBits 16 x.i ∧ (sampleWord x).toNat / 65536 = wrapBits 16 x.q := by
  have hi := wrapBits16_lt x.i
  have hq := wrapBits16_lt x.q
  unfold sampleWord
  rw [BitVec.toNat_ofNat]
  omega

theorem saturated_sampleWord {x : Sys2Proof.IQ} (h : withinFullScale x) : saturated (sampleWord x) := by
  obtain ⟨hi, hi', hq, hq'⟩ := h
  obtain ⟨low, high⟩ := sampleWord_halves x
  unfold saturated
  rw [low, high, signed_wrapBits16 hi hi', signed_wrapBits16 hq hq']
  exact ⟨hi, hq⟩

theorem saturated_zero : saturated 0 := by
  unfold saturated
  decide

/-! ### The samples of an output grain (R38, R136, R154) -/

section
variable {s : State} {n : Nat}

theorem State.gainGrain_withinFullScale (g : Nat) (xs : List Sys2Proof.IQ) (valid : BitVec 64) :
    ∀ y ∈ (s.gainGrain n g xs valid).2.1, withinFullScale y := by
  intro y hy
  simp only [State.gainGrain, gainSamples, List.map_map, List.mem_map, Function.comp_apply] at hy
  obtain ⟨x, -, rfl⟩ := hy
  exact gainSample_withinFullScale ..

/-- The probe is added with saturation (R154). -/
theorem State.withProbe_withinFullScale {ys : List Sys2Proof.IQ} (h : ∀ y ∈ ys, withinFullScale y) (valid : BitVec 64) :
    ∀ y ∈ s.withProbe n ys valid, withinFullScale y := by
  intro y hy
  obtain ⟨⟨z, k⟩, hz, rfl⟩ := List.mem_map.mp hy
  dsimp only
  split
  · exact map_sat16_withinFullScale _
  · exact h z (List.fst_mem_of_mem_zipIdx hz)

theorem State.outSamples_saturated {ys : List Sys2Proof.IQ} (h : ∀ y ∈ ys, withinFullScale y) (valid : BitVec 64) :
    ∀ w ∈ s.outSamples n ys valid, saturated w := by
  intro w hw
  unfold State.outSamples at hw
  split at hw
  case isTrue =>
    rw [List.eq_of_mem_replicate hw]
    exact saturated_zero
  case isFalse =>
    obtain ⟨y, hy, rfl⟩ := List.mem_map.mp hw
    exact saturated_sampleWord (State.withProbe_withinFullScale h valid y hy)

theorem State.outGrain_saturated {ys : List Sys2Proof.IQ} (h : ∀ y ∈ ys, withinFullScale y) (ts : Nat) (valid : BitVec 64)
    (carried : Nat) (sat : Bool) : ∀ w ∈ (s.outGrain n ts ys valid carried sat).samples, saturated w :=
  State.outSamples_saturated h valid

end

/-! ### The record of a band path -/

section
variable {m : Nat} {s t u : State}

/-- An operation that writes no band path leaves the record of each as it was. -/
theorem State.keeps.bp (h : State.keeps m s t) (hm : partIn m .bps = false) (n : Nat) : t.bp n = s.bp n := by
  have hb : t.bps = s.bps := h.parts .bps hm
  simp only [State.bp, hb]

theorem State.canonical.bp_updBp (hs : s.canonical) (n k : Nat) (f : Bp → Bp) :
    (s.updBp n f).bp k = if k = n then f (s.bp n) else s.bp k :=
  State.bp_setBp hs.bps ..

/-- `t` is canonical if `s` is, and has the declarations that `s` has. -/
structure State.keepsDecl (s t : State) : Prop where
  canon : s.canonical → t.canonical
  decl : s.canonical → ∀ n, (t.bp n).decl = (s.bp n).decl

theorem State.keepsDecl.refl : State.keepsDecl s s := ⟨id, fun _ _ => rfl⟩

theorem State.keepsDecl.trans (h : State.keepsDecl s t) (g : State.keepsDecl t u) : State.keepsDecl s u where
  canon hs := g.canon (h.canon hs)
  decl hs n := (g.decl (h.canon hs) n).trans (h.decl hs n)

theorem State.keepsDecl.step (h : State.keepsDecl s t) (g : State.keeps m t u) (hm : partIn m .bps = false) :
    State.keepsDecl s u :=
  h.trans ⟨g.canon, fun _ n => by rw [g.bp hm]⟩

theorem State.keepsDecl.wr (h : State.keepsDecl s t) (f : Field) (i v : Nat) : State.keepsDecl s (t.wr f i v) :=
  h.trans ⟨(wr_keeps t f i v).canon, fun _ _ => by rw [State.wr_bp]⟩

/-- An update of a band path's record that leaves its declaration. -/
theorem State.keepsDecl.updBp (h : State.keepsDecl s t) (n : Nat) {f : Bp → Bp} (hf : ∀ x, (f x).decl = x.decl) :
    State.keepsDecl s (t.updBp n f) := by
  refine h.trans ⟨(updBp_keeps t n f).canon, fun ht k => ?_⟩
  rw [ht.bp_updBp]
  split
  case isTrue e => rw [hf, e]
  case isFalse => rfl

theorem mute_keepsDecl (s : State) (n cause : Nat) : State.keepsDecl s (s.mute n cause) := by
  unfold State.mute
  split
  · exact .refl
  · exact State.keepsDecl.refl.updBp n fun _ => rfl

theorem g1Trip_keepsDecl (s : State) (n : Nat) (margin : Bool) : State.keepsDecl s (s.g1Trip n margin) := by
  unfold State.g1Trip
  extract_lets s1
  have h1 : State.keepsDecl s s1 := State.keepsDecl.refl.wr ..
  split
  · exact h1
  · refine State.keepsDecl.step ?_ (sendFault_keeps ..) (by decide +kernel)
    refine State.keepsDecl.updBp ?_ n fun _ => rfl
    refine State.keepsDecl.step ?_ (tally_keeps ..) (by decide +kernel)
    exact ((h1.wr ..).wr ..).trans (mute_keepsDecl ..)

theorem g2Trip_keepsDecl (s : State) (n cause : Nat) (bitF : Field) (code : Nat) :
    State.keepsDecl s (s.g2Trip n cause bitF code) := by
  unfold State.g2Trip
  extract_lets m s1
  have h1 : State.keepsDecl s s1 := by
    unfold s1
    split
    · exact .refl
    · exact State.keepsDecl.refl.wr ..
  split
  · exact .refl
  · refine State.keepsDecl.step ?_ (sendFault_keeps ..) (by decide +kernel)
    refine State.keepsDecl.step ?_ (tally_keeps ..) (by decide +kernel)
    refine State.keepsDecl.step ?_ (g2Show_keeps ..) (by decide +kernel)
    exact (h1.wr ..).trans (mute_keepsDecl ..)

theorem overload_keepsDecl (s : State) (n sat : Nat) : State.keepsDecl s (s.overload n sat) := by
  unfold State.overload
  split
  · exact g1Trip_keepsDecl ..
  · exact .refl

theorem ceilingReview_keepsDecl (s : State) (n : Nat) : State.keepsDecl s (s.ceilingReview n) := by
  unfold State.ceilingReview
  split
  · exact .refl
  · extract_lets ps first
    split
    · exact g2Trip_keepsDecl ..
    · exact .refl

theorem takeSamples_keepsDecl (s : State) (n : Nat) (xs ys : List Sys2Proof.IQ) (valid : BitVec 64) :
    State.keepsDecl s (s.takeSamples n xs ys valid) := by
  unfold State.takeSamples
  exact State.keepsDecl.refl.updBp n fun _ => rfl

theorem takePowers_keepsDecl (s : State) (n : Nat) (ys : List Sys2Proof.IQ) (valid : BitVec 64) :
    State.keepsDecl s (s.takePowers n ys valid) := by
  unfold State.takePowers
  exact State.keepsDecl.refl.updBp n fun _ => rfl

/-- The gain stage and its guarded functions leave every declaration (R130, R136, R168, R214). -/
theorem gainGrain_keepsDecl (s : State) (n g : Nat) (xs : List Sys2Proof.IQ) (valid : BitVec 64) :
    State.keepsDecl s (s.gainGrain n g xs valid).1 := by
  unfold State.gainGrain
  extract_lets r ys sat
  refine State.keepsDecl.step ?_ (tally_keeps ..) (by decide +kernel)
  refine State.keepsDecl.trans ?_ (ceilingReview_keepsDecl ..)
  refine State.keepsDecl.trans ?_ (overload_keepsDecl ..)
  exact (takeSamples_keepsDecl ..).trans (takePowers_keepsDecl ..)

end

/-! ### What a band path publishes (R50, R459) -/

section
variable {s : State} {n : Nat}

/-- The grain published is the band path's output. -/
theorem State.publish_out (hs : s.canonical) (g : Sys2Proof.Grain) : ((s.publish n g).bp n).out = some g := by
  unfold State.publish
  rw [(sendGrain_keeps ..).bp (by decide +kernel), (tallySlots_keeps ..).bp (by decide +kernel),
    (tally_keeps ..).bp (by decide +kernel), hs.bp_updBp, if_pos rfl]

/-- A band path whose destination is a published stream delivers by publishing, whatever the grain time (R50). -/
theorem State.deliver_out (hs : s.canonical) (hd : (s.bp n).decl.dstKind = 2) (pos : Nat) (grid : Option Int)
    (g : Sys2Proof.Grain) : ((s.deliver n pos grid g).bp n).out = some g := by
  unfold State.deliver
  extract_lets s1 s2
  have h1 : s1.canonical := (updBp_keeps ..).canon ((capture_keeps ..).canon hs)
  have h2 : (s2.bp n).out = some g := by
    unfold s2
    rw [if_pos hd]
    exact State.publish_out h1 g
  split
  · rwa [State.wr_bp]
  · exact h2

/-- What the grain of a band path, formed after the operations that led to `u`, leaves as output. -/
theorem State.keepsDecl.deliver_out {u : State} (h : State.keepsDecl s u) (hs : s.canonical)
    (hd : (s.bp n).decl.dstKind = 2) (pos : Nat) (grid : Option Int) (g : Sys2Proof.Grain) :
    ((u.deliver n pos grid g).bp n).out = some g :=
  State.deliver_out (h.canon hs) (by rw [h.decl hs, hd]) pos grid g

/-- A grain published from a window holds the samples of the gain stage (R136). -/
theorem State.windowGrain_saturated (hs : s.canonical) (hd : (s.bp n).decl.dstKind = 2) (i : Sys2Proof.GrainInput) :
    ∃ y, ((s.windowGrain n i).bp n).out = some y ∧ ∀ w ∈ y.samples, saturated w := by
  unfold State.windowGrain
  extract_lets x g run xs valid bad ts r srcSat settle s0 tap0 tap out s1 s2 pos
  have h0 : State.keepsDecl s s0 := gainGrain_keepsDecl ..
  have h1 : State.keepsDecl s s1 := by
    unfold s1
    refine State.keepsDecl.step ?_ (tallyConverter_keeps ..) (by decide +kernel)
    exact (h0.step (capture_keeps ..) (by decide +kernel)).updBp n fun _ => rfl
  have h2 : State.keepsDecl s s2 := by
    unfold s2
    split
    · exact h1
    · exact h1.step (tally_keeps ..) (by decide +kernel)
  have hout : ∀ w ∈ out.samples, saturated w :=
    State.outGrain_saturated (State.gainGrain_withinFullScale _ _ _) _ _ _ _
  have hno : s.emits n = false := by
    simp [State.emits, hd]
  rw [if_pos (Or.inl (by rw [hno]; rfl))]
  exact ⟨out, h2.deliver_out hs hd .., hout⟩

/-- A grain published from a lane holds the samples of the gain stage (R136). -/
theorem State.laneGrain_saturated (hs : s.canonical) (hd : (s.bp n).decl.dstKind = 2) (h : Held) :
    ∃ y, ((s.laneGrain n h).bp n).out = some y ∧ ∀ w ∈ y.samples, saturated w := by
  unfold State.laneGrain
  extract_lets x xs valid r out tap0 tap s1
  have h1 : State.keepsDecl s s1 :=
    ((gainGrain_keepsDecl ..).step (capture_keeps ..) (by decide +kernel)).updBp n fun _ => rfl
  have hout : ∀ w ∈ out.samples, saturated w :=
    State.outGrain_saturated (State.gainGrain_withinFullScale _ _ _) _ _ _ _
  exact ⟨out, h1.deliver_out hs hd .., hout⟩

/-- A running receive-window source whose chain runs forms a grain from its window (R459). -/
theorem execGrainPeriod_window {n : Sys2Proof.BpIx} (hrun : s.running n = true) (hsrc : (s.bp n).decl.srcKind = 1)
    (hon : (s.bp n).chz.on = true) (g : Sys2Proof.GrainInput) : execGrainPeriod n g s = .next (s.windowGrain n g) := by
  simp [execGrainPeriod, hrun, hsrc, hon]

/-- A running lane source whose next input grain has come forms a grain from it (R459). -/
theorem execGrainPeriod_lane {n : Sys2Proof.BpIx} {h : Held} (hrun : s.running n = true)
    (hsrc : (s.bp n).decl.srcKind = 2) (hnext : s.nextInput n = some h) (g : Sys2Proof.GrainInput) :
    execGrainPeriod n g s = .next (s.laneGrain n h) := by
  simp [execGrainPeriod, hrun, hsrc, hnext]

end

/-- Settles O8: the gain stage and the probe saturate, and what a publishing band path delivers are their samples. -/
theorem samplesSaturate : Obligations.SamplesSaturate := by
  unfold Obligations.SamplesSaturate
  refine ⟨gainSample_withinFullScale, fun w => ⟨ofSampleWord_i w, ofSampleWord_q w⟩, ?_, ?_⟩
  · exact fun s n g hs hrun hsrc hdst hon =>
      ⟨_, execGrainPeriod_window hrun hsrc hon g, State.windowGrain_saturated hs hdst g⟩
  · exact fun s n g h hs hrun hsrc hdst hnext =>
      ⟨_, execGrainPeriod_lane hrun hsrc hnext g, State.laneGrain_saturated hs hdst h⟩

end Sys2Proof.Machine
end

section
/-!
SUPPORT. The frame of the band chain: what a command of band paths, front ends, the channelizer, gain control, Saddle, delay
and tiles, the emission guard or Plumb may write lies within the fields and parts that its statement lists.
-/

namespace Sys2Proof.Machine

/-- Settles O12: what each command of the band chain may write lies within its list. -/
theorem frameOfTheBand : Obligations.FrameOfTheBand := by
  unfold Obligations.FrameOfTheBand
  intro c s hs
  obtain ⟨t, ht, hk⟩ := exec_answers c s
  refine ⟨t, ht, ?_⟩
  cases c with
  | dieBReset | declRetry | registerReadClear | wideLoRead | bpApply | bpEnable | bpDisable | bpCheckDone
    | bpDeclarationApply | bpStop | grainPeriod | bandFrameReceive | grainMissing | noGrains | delayLost
    | feRxEnable | feRxDisable | feTxEnable | feTxDisable | feRetune | feCalReq | feLockDone | lockTimeout | unlock
    | feCalDone | txTimeout | feBgCalUpdate | calStale | feAttApply | relayMoveStart | relayMoveEnd | fePilotMode
    | pilotLocked | pilotLowLevel | pilotMeasureDone | chzSync | syncReset | chzSwap | fadeStart | fadeEnd
    | chzCheck | chzCheckDone | chzCoefWrite | chzCoefRead | tickBoundary | overrun | engineEcc | csLate
    | fwCeilWrite | setaInvalid | setpPeriod | setpStuck | saddleUpdate | sdlWatchWrite | sdlTargetWrite
    | saddleDigestSend | timeExSend | sdigest | digestMiss | g1Overload | g1Release | floTargetCommit | delayStep
    | fwDlySlewWrite | delayEstablished | lostMeasureDone | delayRestore | tileReadDone | tileQuarantineDone
    | spectrumDone | g2Decision | g2Ceiling | g2Release | foreignRegionEnd | plnTFirstWrite | plainRebuildDone
    | emitBackoffWrite | plnRdAddrWrite | plumbUpdate | timeEx | announceSend | announce | timeCheck
    | holdLimitExpire | ppsInEdge | ppsInTimeout | refBad | refInRestore | todArm | todApply | plbTime0Read
    | fwPhaseSlewWrite | ppsOutPulse =>
    dsimp only [writesOf] at hk
    exact hk.frame hs (by decide +kernel)
  | _ => trivial

end Sys2Proof.Machine
end

section
/-!
SUPPORT. What a register field and the record of a port show after an operation: rules to carry a known value along a chain
of operations, by what each may write.
-/

namespace Sys2Proof.Machine

/-- The state is canonical, and field `f` of index `i` reads `v`. -/
structure State.reads (s : State) (f : Field) (i v : Nat) : Prop where
  canon : s.canonical
  eq : s.rd f i = v

/-- The state is canonical, and what `g` takes from the record of port `p` is `v`. -/
structure State.portShows {α : Type} (s : State) (g : Port → α) (p : Nat) (v : α) : Prop where
  canon : s.canonical
  eq : g (s.port p) = v

/-- `g` takes nothing from a port's record that the reviews of its samples and of its transmission rewrite. -/
def unreviewed {α : Type} (g : Port → α) : Prop :=
  ∀ x bad broken emits starts, g { x with bad := bad, obsBroken := broken, emits := emits, starts := starts } = g x

section
variable {s t : State} {m : Nat} {f : Field} {i v : Nat}

/-! ### Register fields -/

theorem State.canonical.reads (hs : s.canonical) (f : Field) (i : Nat) : s.reads f i (s.rd f i) := ⟨hs, rfl⟩

/-- A field that is not KL reads as the value last written, if that fits. -/
theorem State.canonical.reads_wr (hs : s.canonical) (hl : f.locked = false := by decide +kernel)
    (hv : v < 2 ^ f.row.width := by decide +kernel) : (s.wr f i v).reads f i v where
  canon := (wr_keeps s f i v).canon hs
  eq := (State.rd_wr_same (goodRegs.wf hs.regs) f i v hl).trans (Nat.mod_eq_of_lt hv)

/-- A field that is not KL reads as the value last written, cut to its width. -/
theorem State.canonical.reads_wr_mod (hs : s.canonical) (hl : f.locked = false := by decide +kernel) :
    (s.wr f i v).reads f i (v % 2 ^ f.row.width) where
  canon := (wr_keeps s f i v).canon hs
  eq := State.rd_wr_same (goodRegs.wf hs.regs) f i v hl

/-- A saturating counter counts up to the largest value of its width. -/
theorem State.canonical.reads_bump (hs : s.canonical) (hl : f.locked = false := by decide +kernel) :
    (s.bump f i).reads f i (min (s.rd f i + 1) (2 ^ f.row.width - 1)) :=
  hs.reads_wr hl (by have := Nat.two_pow_pos f.row.width; omega)

/-- An operation that may not write a field leaves what it reads. -/
theorem State.keeps.reads (k : State.keeps m s t) (h : s.reads f i v) (hf : inSet m f = false := by decide +kernel) :
    t.reads f i v :=
  ⟨k.canon h.canon, (k.fields h.canon f i hf).trans h.eq⟩

/-! ### The record of a port -/

section
variable {α : Type} {g : Port → α} {p : Nat} {w : α}

/-- The record of a port after an update of it. -/
theorem State.canonical.portShows_updPort (hs : s.canonical) (y : Port → Port) :
    (s.updPort p y).portShows g p (g (y (s.port p))) where
  canon := (updPort_keeps s p y).canon hs
  eq := congrArg g ((State.port_setPort hs.ports ..).trans (if_pos rfl))

/-- An update of a port that leaves what `g` takes from it. -/
theorem State.portShows.updPort (h : s.portShows g p w) (q : Nat) {y : Port → Port}
    (hy : ∀ x, g (y x) = g x := by exact fun _ => rfl) : (s.updPort q y).portShows g p w where
  canon := (updPort_keeps s q y).canon h.canon
  eq := by
    unfold State.updPort
    rw [State.port_setPort h.canon.ports]
    split
    case isTrue e => rw [hy, ← e, h.eq]
    case isFalse => exact h.eq

/-- An operation that writes no port leaves the record of each. -/
theorem State.keeps.port (k : State.keeps m s t) (hm : partIn m .ports = false) (p : Nat) : t.port p = s.port p := by
  have hp : t.ports = s.ports := k.parts .ports hm
  simp only [State.port, hp]

theorem State.keeps.portShows (k : State.keeps m s t) (h : s.portShows g p w)
    (hm : partIn m .ports = false := by decide +kernel) : t.portShows g p w :=
  ⟨k.canon h.canon, by rw [k.port hm, h.eq]⟩

end

/-! ### Fault messages (R327, R330) -/

/-- After a source has sent an assert message one of its pair waits, be it this one or an earlier one that it merged
with. -/
theorem State.faultWaits_sendFault (s : State) (source cause detail : Nat) :
    (s.sendFault source cause detail).faultWaits source cause = true := by
  unfold State.sendFault State.faultWaits
  extract_lets c raised
  split
  case isTrue h =>
    obtain ⟨x, hx, hp⟩ := List.any_eq_true.mp h
    simp only [State.bump, State.wr_net]
    exact List.any_eq_true.mpr ⟨x, hx, (Bool.and_eq_true_iff.mp hp).1⟩
  case isFalse => simp

/-- An operation that does not touch the fault network leaves the messages that wait. -/
theorem State.keeps.faultWaits (k : State.keeps m s t) {source cause : Nat} (h : s.faultWaits source cause = true)
    (hm : partIn m .net = false := by decide +kernel) : t.faultWaits source cause = true := by
  have hn : t.net = s.net := k.parts .net hm
  rwa [State.faultWaits, hn]

/-! ### One-bit fields -/

theorem flag_lt_two_pow (b : Bool) {w : Nat} (h : 0 < w) : flag b < 2 ^ w := by
  have : 2 ^ 1 ≤ 2 ^ w := Nat.pow_le_pow_right (by decide) h
  unfold flag
  split <;> omega

theorem State.canonical.reads_wrB (hs : s.canonical) {b : Bool} (hl : f.locked = false := by decide +kernel)
    (hw : 0 < f.row.width := by decide +kernel) : (s.wrB f i b).reads f i (flag b) :=
  hs.reads_wr hl (flag_lt_two_pow b hw)

theorem State.reads.is (h : s.reads f i v) : s.is f i = (v != 0) := by
  rw [State.is, h.eq]

end

/-! ### Reviews of the samples and of the transmission of a port (Tables 35 and 53, R88) -/

section
variable {s : State} {α : Type} {g : Port → α} {p : Nat} {w : α}

theorem badFrom_portShows (q : Nat) (h : s.portShows g p w) (hg : unreviewed g := by exact fun _ _ _ _ _ => rfl) :
    (s.badFrom q).portShows g p w :=
  h.updPort q (fun x => hg x _ true x.emits x.starts)

theorem badTill_portShows (q : Nat) (h : s.portShows g p w) (hg : unreviewed g := by exact fun _ _ _ _ _ => rfl) :
    (s.badTill q).portShows g p w := by
  unfold State.badTill
  split
  · exact h
  · exact h.updPort q (fun x => hg x _ x.obsBroken x.emits x.starts)

theorem badFor_portShows (q k : Nat) (h : s.portShows g p w) (hg : unreviewed g := by exact fun _ _ _ _ _ => rfl) :
    (s.badFor q k).portShows g p w :=
  h.updPort q (fun x => hg x _ x.obsBroken x.emits x.starts)

theorem txReview_portShows (q : Nat) (h : s.portShows g p w) (hg : unreviewed g := by exact fun _ _ _ _ _ => rfl) :
    (s.txReview q).portShows g p w := by
  unfold State.txReview
  extract_lets st
  split
  · exact ((wr_keeps ..).portShows h).updPort q (fun x => hg x x.bad x.obsBroken _ _)
  · split
    · exact ((wr_keeps ..).portShows h).updPort q (fun x => hg x x.bad x.obsBroken _ _)
    · exact ((wr_keeps ..).portShows h).updPort q (fun x => hg x x.bad x.obsBroken _ _)

end

end Sys2Proof.Machine
end

section
/-!
SUPPORT. The states of a port (03_front_end.md): what each entry of Table 36, a transmit hold and the checks of centres leave
in the port's status and record, and the statements on enabling, retuning and locking.
-/

namespace Sys2Proof.Machine

/-! ### The check of centres does not depend on RX_EN (R79) -/

section
variable {s : State} {v : Nat}

theorem State.rd_wr_rxEn (hs : s.canonical) (i : Nat) {f : Field} (hf : f ≠ .FE_CTRL_RX_EN) (j : Nat) :
    (s.wr .FE_CTRL_RX_EN i v).rd f j = s.rd f j :=
  State.rd_wr_ne (goodRegs.wf hs.regs) v (Or.inl hf)

theorem State.portOffset_wr_rxEn (hs : s.canonical) (i q : Nat) :
    (s.wr .FE_CTRL_RX_EN i v).portOffset q = s.portOffset q := by
  unfold State.portOffset
  rw [State.rd_wr_rxEn hs]
  split
  · decide
  · split
    · decide
    · split <;> decide

theorem State.forbidden_wr_rxEn (hs : s.canonical) (i q k : Nat) :
    (s.wr .FE_CTRL_RX_EN i v).forbidden q k = s.forbidden q k := by
  have ht : (s.wr .FE_CTRL_RX_EN i v).tightenings = s.tightenings := by simp only [State.tightenings, State.wr_plain]
  have he : (s.wr .FE_CTRL_RX_EN i v).plainEntry k = s.plainEntry k := by simp only [State.plainEntry, State.wr_plain]
  have hm : (s.wr .FE_CTRL_RX_EN i v).marked q k = s.marked q k := by simp only [State.marked, ht, he]
  have hl : (s.wr .FE_CTRL_RX_EN i v).limitOf q k = s.limitOf q k := by
    simp only [State.limitOf, ht, he, State.portOffset_wr_rxEn hs]
  have hv : (s.wr .FE_CTRL_RX_EN i v).verifiable q = s.verifiable q := by
    simp only [State.verifiable, State.rdS, State.rd_wr_rxEn hs i (f := .EMG_FLOOR_N) (by decide),
      State.rd_wr_rxEn hs i (f := .EMG_LIMIT_OBS_ATT_MAX) (by decide)]
  unfold State.forbidden
  rw [hm, hl, hv]

theorem State.toneForbidden_wr_rxEn (hs : s.canonical) (i q : Nat) (f : Int) :
    (s.wr .FE_CTRL_RX_EN i v).toneForbidden q f = s.toneForbidden q f := by
  have hb (lo hi : Nat) : (s.wr .FE_CTRL_RX_EN i v).breaks lo hi = s.breaks lo hi := by
    simp only [State.breaks, State.tightenings, State.wr_plain]
  have hf : (s.wr .FE_CTRL_RX_EN i v).forbidden q = s.forbidden q := funext (State.forbidden_wr_rxEn hs i q)
  simp only [State.toneForbidden, State.anyForbidden, hb, hf]

theorem State.retuneCode_wr_rxEn (hs : s.canonical) (i q : Nat) (c : Nat × Nat) :
    (s.wr .FE_CTRL_RX_EN i v).retuneCode q c = s.retuneCode q c := by
  have hbp : (s.wr .FE_CTRL_RX_EN i v).bp = s.bp := funext fun _ => State.wr_bp ..
  have hrun : (s.wr .FE_CTRL_RX_EN i v).running = s.running := funext fun n => by simp only [State.running, hbp]
  have hneg : (s.wr .FE_CTRL_RX_EN i v).is .FE_PILOT_CTRL_SHIFT_NEG q = s.is .FE_PILOT_CTRL_SHIFT_NEG q := by
    rw [State.is, State.rd_wr_rxEn hs i (by decide), State.is]
  have hout : (s.wr .FE_CTRL_RX_EN i v).pilotEmits q = s.pilotEmits q := by unfold State.pilotEmits; rw [hneg]
  have hin : (s.wr .FE_CTRL_RX_EN i v).pilotReceives q = s.pilotReceives q := by unfold State.pilotReceives; rw [hneg]
  have htone : (s.wr .FE_CTRL_RX_EN i v).toneForbidden q = s.toneForbidden q := funext (State.toneForbidden_wr_rxEn hs i q)
  unfold State.retuneCode
  rw [State.wr_port, hbp, hrun, hout, hin, htone]

theorem State.staged_wr_rxEn (hs : s.canonical) (i q : Nat) : (s.wr .FE_CTRL_RX_EN i v).staged q = s.staged q := by
  simp only [State.staged, State.rd_wr_rxEn hs i (f := .FE_RX_FREQ_FREQ) (by decide),
    State.rd_wr_rxEn hs i (f := .FE_TX_FREQ_FREQ) (by decide)]

end

/-- The check answers a code of Table 40 from 0 to 3. -/
theorem State.retuneCode_le_three (s : State) (p : Nat) (c : Nat × Nat) : s.retuneCode p c ≤ 3 := by
  unfold State.retuneCode
  extract_lets q
  split
  · decide
  · split
    · decide
    · split <;> decide

/-! ### Transmit holds (R88) -/

section
variable {s : State}

/-- Transmission is held while TX_EN is 1 in LOCKING or CALIBRATING. -/
theorem txReview_reads_held (hs : s.canonical) (p : Nat) : (s.txReview p).reads .FE_STATUS_TX_HELD p
    (flag (decide (s.feState p = 1 ∨ s.feState p = 2) && s.is .FE_CTRL_TX_EN p)) := by
  unfold State.txReview
  extract_lets st
  split
  case isTrue h =>
    rw [decide_eq_true h, Bool.true_and]
    exact (updPort_keeps ..).reads hs.reads_wrB
  case isFalse h =>
    rw [decide_eq_false h, Bool.false_and]
    split
    · exact (updPort_keeps ..).reads hs.reads_wr
    · exact (updPort_keeps ..).reads hs.reads_wr

/-- With TX_EN at 0 a port does not emit. -/
theorem txReview_silent (hs : s.canonical) {p : Nat} (h : s.is .FE_CTRL_TX_EN p = false) :
    ((s.txReview p).port p).emits = false := by
  unfold State.txReview
  extract_lets st
  split
  · exact (((wr_keeps ..).canon hs).portShows_updPort (g := Port.emits) _).eq
  · split
    · refine (((wr_keeps ..).canon hs).portShows_updPort (g := Port.emits) _).eq.trans ?_
      rw [h, Bool.and_false]
    · exact (((wr_keeps ..).canon hs).portShows_updPort (g := Port.emits) _).eq

/-- TX_EN written (R88). -/
theorem writeTxEn_spec (hs : s.canonical) (p : Nat) (on : Bool) :
    (s.writeTxEn p on).rd .FE_CTRL_TX_EN p = flag on ∧
    (s.writeTxEn p on).rd .FE_STATUS_TX_HELD p = flag (decide (s.feState p = 1 ∨ s.feState p = 2) && on) ∧
    (on = false → ((s.writeTxEn p on).port p).emits = false) := by
  have hw : (s.wrB .FE_CTRL_TX_EN p on).reads .FE_CTRL_TX_EN p (flag on) := hs.reads_wrB
  have hst : (s.wrB .FE_CTRL_TX_EN p on).feState p = s.feState p := ((wr_keeps ..).reads (hs.reads ..)).eq
  have hen : (s.wrB .FE_CTRL_TX_EN p on).is .FE_CTRL_TX_EN p = on := by
    rw [hw.is]
    cases on <;> rfl
  refine ⟨((txReview_keeps ..).reads hw).eq, ?_, fun hoff => ?_⟩
  · have hheld := (txReview_reads_held hw.canon p).eq
    rwa [hst, hen] at hheld
  · exact txReview_silent hw.canon (hen.trans hoff)

/-! ### Entering the states of a port (Tables 35 and 36) -/

theorem enterLocking_reads_state (hs : s.canonical) (p : Nat) (c : Nat × Nat) :
    (s.enterLocking p c).reads .FE_STATUS_STATE p 1 :=
  (txReview_keeps ..).reads <| (badFrom_keeps ..).reads <| (refreshPortGdc_keeps ..).reads <| (staleChains_keeps ..).reads <|
    (wr_keeps ..).reads <| (wr_keeps ..).reads <| (updPort_keeps ..).reads <| (wr_keeps ..).reads <| (wr_keeps ..).reads <|
    hs.reads_wr

/-- No retune waits in LOCKING. -/
theorem enterLocking_reads_pend (hs : s.canonical) (p : Nat) (c : Nat × Nat) :
    (s.enterLocking p c).reads .FE_STATUS_RETUNE_PEND p 0 :=
  (txReview_keeps ..).reads <| (badFrom_keeps ..).reads <| (refreshPortGdc_keeps ..).reads <| (staleChains_keeps ..).reads <|
    (wr_keeps ..).reads <| ((updPort_keeps ..).canon <| (wr_keeps ..).canon <| (wr_keeps ..).canon <|
      (wr_keeps ..).canon hs).reads_wr

/-- The chains that other centres leave stale (R86) are all that `staleChains` writes. -/
theorem staleChains_portShows {α : Type} {g : Port → α} {w : α} {p : Nat} (q : Nat) (h : s.portShows g p w)
    (hg : ∀ x k, g { x with stale := k } = g x := by exact fun _ _ => rfl) : (s.staleChains q).portShows g p w :=
  h.updPort q (fun x => hg x _)

/-- LOCKING applies the centres. -/
theorem enterLocking_centres (hs : s.canonical) (p : Nat) (c : Nat × Nat) :
    (s.enterLocking p c).portShows Port.centres p (some c) :=
  txReview_portShows p <| badFrom_portShows p <| (refreshPortGdc_keeps ..).portShows <| staleChains_portShows p <|
    (wr_keeps ..).portShows <| (wr_keeps ..).portShows <|
    ((wr_keeps ..).canon <| (wr_keeps ..).canon <| (wr_keeps ..).canon hs).portShows_updPort _

theorem enterCalibrating_reads_state (hs : s.canonical) (p : Nat) : (s.enterCalibrating p).reads .FE_STATUS_STATE p 2 :=
  (txReview_keeps ..).reads <| (badFrom_keeps ..).reads <| (updPort_keeps ..).reads hs.reads_wr

/-- A calibration that begins answers the request. -/
theorem enterCalibrating_calDue (hs : s.canonical) (p : Nat) : (s.enterCalibrating p).portShows Port.calDue p false :=
  txReview_portShows p <| badFrom_portShows p <| ((wr_keeps ..).canon hs).portShows_updPort _

theorem enterReady_reads_state (hs : s.canonical) (p : Nat) : (s.enterReady p).reads .FE_STATUS_STATE p 3 :=
  (relayReview_keeps ..).reads <| (txReview_keeps ..).reads <| (badTill_keeps ..).reads <| (updPort_keeps ..).reads
    hs.reads_wr

theorem enterFenced_reads_state (hs : s.canonical) (p : Nat) : (s.enterFenced p).reads .FE_STATUS_STATE p 4 :=
  (txReview_keeps ..).reads <| (badFrom_keeps ..).reads <| (attAfterCal_keeps ..).reads <| (wr_keeps ..).reads <|
    (updPort_keeps ..).reads hs.reads_wr

end

/-! ### RX_EN and TX_EN (R79, R87, R88) -/

section
variable {s : State} {p : Nat}

/-- RX_EN written 1 in OFF, with no fence and centres that pass the check, starts a lock on the staged centres. -/
theorem writeRxEn_of_off (hs : s.canonical) (hoff : s.feState p = 0) (hf : s.fenced (0x80 + p) = false)
    (hc : s.retuneCode p (s.staged p) = 0) :
    s.writeRxEn p true = ((s.wrB .FE_CTRL_RX_EN p true).wr .FE_STATUS_REJECT p 0).enterLocking p (s.staged p) := by
  have hst : (s.wrB .FE_CTRL_RX_EN p true).staged p = s.staged p := State.staged_wr_rxEn hs p p
  have hcode : (s.wrB .FE_CTRL_RX_EN p true).retuneCode p (s.staged p) = 0 :=
    (State.retuneCode_wr_rxEn hs p p _).trans hc
  have hstart : (s.wrB .FE_CTRL_RX_EN p true).startLocking p =
      ((s.wrB .FE_CTRL_RX_EN p true).wr .FE_STATUS_REJECT p 0).enterLocking p (s.staged p) := by
    simp only [State.startLocking, hst, hcode, if_true]
  simp only [State.writeRxEn, hoff, hf, hstart, if_true, ne_eq, not_true_eq_false, if_false, Bool.false_eq_true]

theorem rxEnable_spec (hs : s.canonical) (hoff : s.feState p = 0) (hf : s.fenced (0x80 + p) = false)
    (hc : s.retuneCode p (s.staged p) = 0) :
    (s.writeRxEn p true).rd .FE_CTRL_RX_EN p = 1 ∧ (s.writeRxEn p true).rd .FE_STATUS_STATE p = 1 ∧
    (s.writeRxEn p true).rd .FE_STATUS_REJECT p = 0 ∧ ((s.writeRxEn p true).port p).centres = some (s.staged p) := by
  have hen : (s.wrB .FE_CTRL_RX_EN p true).reads .FE_CTRL_RX_EN p 1 := hs.reads_wrB
  have hrej : ((s.wrB .FE_CTRL_RX_EN p true).wr .FE_STATUS_REJECT p 0).reads .FE_STATUS_REJECT p 0 := hen.canon.reads_wr
  rw [writeRxEn_of_off hs hoff hf hc]
  exact ⟨((enterLocking_keeps ..).reads <| (wr_keeps ..).reads hen).eq, (enterLocking_reads_state hrej.canon ..).eq,
    ((enterLocking_keeps ..).reads hrej).eq, (enterLocking_centres hrej.canon ..).eq⟩

/-- A port in OFF shows no lock and holds no transmission. -/
theorem enterOff_status (hs : s.canonical) (p : Nat) :
    (s.enterOff p).rd .FE_STATUS_STATE p = 0 ∧ (s.enterOff p).rd .FE_STATUS_RX_LOCK p = 0 ∧
    (s.enterOff p).rd .FE_STATUS_TX_LOCK p = 0 ∧ (s.enterOff p).rd .FE_STATUS_TX_HELD p = 0 := by
  obtain ⟨u, hu, hst, hrx, htx⟩ : ∃ u : State, s.enterOff p = (u.txReview p).relayReview p ∧
      u.reads .FE_STATUS_STATE p 0 ∧ u.reads .FE_STATUS_RX_LOCK p 0 ∧ u.reads .FE_STATUS_TX_LOCK p 0 := by
    refine ⟨_, rfl, ?_, ?_, ?_⟩
    · exact (badFrom_keeps ..).reads <| (attAfterCal_keeps ..).reads <| (wr_keeps ..).reads <| (wr_keeps ..).reads <|
        (wr_keeps ..).reads <| (updPort_keeps ..).reads hs.reads_wr
    · exact (badFrom_keeps ..).reads <| (attAfterCal_keeps ..).reads <| (wr_keeps ..).reads <| State.canonical.reads_wr <|
        (wr_keeps ..).canon <| (updPort_keeps ..).canon <| (wr_keeps ..).canon hs
    · exact (badFrom_keeps ..).reads <| (attAfterCal_keeps ..).reads <| State.canonical.reads_wr <|
        (wr_keeps ..).canon <| (wr_keeps ..).canon <| (updPort_keeps ..).canon <| (wr_keeps ..).canon hs
  have hheld := txReview_reads_held hst.canon p
  rw [State.feState, hst.eq] at hheld
  rw [hu]
  exact ⟨((relayReview_keeps ..).reads <| (txReview_keeps ..).reads hst).eq,
    ((relayReview_keeps ..).reads <| (txReview_keeps ..).reads hrx).eq,
    ((relayReview_keeps ..).reads <| (txReview_keeps ..).reads htx).eq, ((relayReview_keeps ..).reads hheld).eq⟩

/-- RX_EN written 0 in another state than OFF enters OFF. -/
theorem writeRxEn_off (h : s.feState p ≠ 0) :
    s.writeRxEn p false = (s.wrB .FE_CTRL_RX_EN p false).enterOff p := by
  simp only [State.writeRxEn, h, if_false, Bool.false_eq_true]

end

/-- Settles O18: RX_EN = 1 starts a lock on the staged centres, RX_EN = 0 enters OFF, and a write of TX_EN ends in the review
of the transmit hold. -/
theorem portReceiveAndTransmitEnable : Obligations.PortReceiveAndTransmitEnable := by
  unfold Obligations.PortReceiveAndTransmitEnable
  refine ⟨fun s p hs hoff hf hc => ⟨_, rfl, rxEnable_spec hs hoff hf hc⟩, fun s p hs h => ⟨_, rfl, ?_⟩,
    fun s p hs => ⟨_, rfl, ?_⟩, fun s p hs => ⟨_, rfl, ?_⟩⟩
  · have hen : (s.wrB .FE_CTRL_RX_EN p false).reads .FE_CTRL_RX_EN p 0 := hs.reads_wrB
    rw [writeRxEn_off h]
    exact ⟨((enterOff_keeps ..).reads hen).eq, enterOff_status hen.canon p⟩
  · obtain ⟨hen, hheld, -⟩ := writeTxEn_spec hs p true
    exact ⟨hen, hheld.trans (by rw [Bool.and_true]; rfl)⟩
  · obtain ⟨hen, hheld, hquiet⟩ := writeTxEn_spec hs p false
    exact ⟨hen, hheld.trans (by rw [Bool.and_false]; rfl), hquiet rfl⟩

/-! ### Retune, calibration request and lock (R79 to R83, R88) -/

section
variable {s : State} {p : Nat}

/-- A retune that fails its check shows its code alone. -/
theorem retune_refused (h : s.retuneCode p (s.staged p) ≠ 0) :
    s.retune p = s.wr .FE_STATUS_REJECT p (s.retuneCode p (s.staged p)) := by
  simp only [State.retune, ne_eq, h, not_false_eq_true, if_true]

/-- A retune of a READY port whose receive LO changes starts a lock on the staged centres. -/
theorem retune_of_ready (h : s.feState p = 3) (hc : s.retuneCode p (s.staged p) = 0)
    (hlo : loMHz ((s.port p).centres.getD (s.staged p)).1 ≠ loMHz (s.staged p).1) :
    s.retune p = ((s.wr .FE_STATUS_REJECT p 0).enterLocking p (s.staged p)).refreshCeilings p := by
  simp only [State.retune, hc, h, hlo, false_and, if_false, ne_eq, not_true_eq_false]

theorem retune_spec (hs : s.canonical) (h : s.feState p = 3) (hc : s.retuneCode p (s.staged p) = 0)
    (hlo : loMHz ((s.port p).centres.getD (s.staged p)).1 ≠ loMHz (s.staged p).1) :
    (s.retune p).rd .FE_STATUS_STATE p = 1 ∧ (s.retune p).rd .FE_STATUS_REJECT p = 0 ∧
    (s.retune p).rd .FE_STATUS_RETUNE_PEND p = 0 ∧ ((s.retune p).port p).centres = some (s.staged p) := by
  have hrej : (s.wr .FE_STATUS_REJECT p 0).reads .FE_STATUS_REJECT p 0 := hs.reads_wr
  rw [retune_of_ready h hc hlo]
  exact ⟨((refreshCeilings_keeps ..).reads <| enterLocking_reads_state hrej.canon ..).eq,
    ((refreshCeilings_keeps ..).reads <| (enterLocking_keeps ..).reads hrej).eq,
    ((refreshCeilings_keeps ..).reads <| enterLocking_reads_pend hrej.canon ..).eq,
    ((refreshCeilings_keeps ..).portShows <| enterLocking_centres hrej.canon ..).eq⟩

theorem retune_refused_spec (hs : s.canonical) (h : s.retuneCode p (s.staged p) ≠ 0) :
    (s.retune p).rd .FE_STATUS_REJECT p = s.retuneCode p (s.staged p) ∧
    (s.retune p).rd .FE_STATUS_STATE p = s.rd .FE_STATUS_STATE p ∧ (s.retune p).ports = s.ports := by
  have hfits : s.retuneCode p (s.staged p) < 2 ^ Field.FE_STATUS_REJECT.row.width :=
    (State.retuneCode_le_three ..).trans_lt (by decide)
  rw [retune_refused h]
  exact ⟨(hs.reads_wr (hv := hfits)).eq, ((wr_keeps ..).reads (hs.reads ..)).eq, State.wr_ports ..⟩

theorem calReq_of_ready (h : s.feState p = 3) : s.calReq p = s.enterCalibrating p := by
  simp only [State.calReq, h]

/-- Both synthesisers of a LOCKING port lock: the two lock bits stand in the state in which the port goes on. -/
theorem lockDone_cases (hs : s.canonical) (h : s.feState p = 1) :
    ∃ u : State, u.reads .FE_STATUS_RX_LOCK p 1 ∧ u.reads .FE_STATUS_TX_LOCK p 1 ∧
      s.lockDone p = if !(s.port p).calibrated || (s.port p).calDue then u.enterCalibrating p else u.enterReady p := by
  refine ⟨((((s.set1 .FE_STATUS_RX_LOCK p).set1 .FE_STATUS_TX_LOCK p).loadLatency p).refreshPortGdc p).sendClear
    (0x80 + p) 0x11, ?_, ?_, ?_⟩
  · exact (sendClear_keeps ..).reads <| (refreshPortGdc_keeps ..).reads <| (loadLatency_keeps ..).reads <|
      (wr_keeps ..).reads hs.reads_wr
  · exact (sendClear_keeps ..).reads <| (refreshPortGdc_keeps ..).reads <| (loadLatency_keeps ..).reads <|
      ((wr_keeps ..).canon hs).reads_wr
  · simp only [State.lockDone, h, ne_eq, not_true_eq_false, if_false]

theorem lockDone_ready (hs : s.canonical) (h : s.feState p = 1) (hcal : (s.port p).calibrated = true)
    (hdue : (s.port p).calDue = false) :
    (s.lockDone p).rd .FE_STATUS_STATE p = 3 ∧ (s.lockDone p).rd .FE_STATUS_RX_LOCK p = 1 ∧
    (s.lockDone p).rd .FE_STATUS_TX_LOCK p = 1 := by
  obtain ⟨u, hrx, htx, hu⟩ := lockDone_cases hs h
  rw [hcal, hdue] at hu
  have hu : s.lockDone p = u.enterReady p := hu
  rw [hu]
  exact ⟨(enterReady_reads_state hrx.canon p).eq, ((enterReady_keeps ..).reads hrx).eq,
    ((enterReady_keeps ..).reads htx).eq⟩

theorem lockDone_calibrates (hs : s.canonical) (h : s.feState p = 1) (hcal : (s.port p).calibrated = false) :
    (s.lockDone p).rd .FE_STATUS_STATE p = 2 ∧ (s.lockDone p).rd .FE_STATUS_RX_LOCK p = 1 ∧
    (s.lockDone p).rd .FE_STATUS_TX_LOCK p = 1 := by
  obtain ⟨u, hrx, htx, hu⟩ := lockDone_cases hs h
  rw [hcal] at hu
  have hu : s.lockDone p = u.enterCalibrating p := hu
  rw [hu]
  exact ⟨(enterCalibrating_reads_state hrx.canon p).eq, ((enterCalibrating_keeps ..).reads hrx).eq,
    ((enterCalibrating_keeps ..).reads htx).eq⟩

/-- A READY port that loses its lock counts and reports it, and locks again. -/
theorem execUnlock_of_ready {p : Sys2Proof.PortIx} (hs : s.canonical) (h : s.feState p = 3) :
    ∃ (u : State) (c : Nat × Nat), execUnlock p s = .next (u.enterLocking p c) ∧
      u.reads .FE_STATUS_UNLOCK_COUNT p
        (min (s.rd .FE_STATUS_UNLOCK_COUNT p + 1) (2 ^ Field.FE_STATUS_UNLOCK_COUNT.row.width - 1)) ∧
      u.faultWaits (0x80 + p) 0x11 = true :=
  ⟨_, _, congrArg Host.Outcome.next (if_neg (not_not_intro h)),
    (sendFault_keeps ..).reads <| (tally_keeps ..).reads hs.reads_bump, State.faultWaits_sendFault ..⟩

theorem lockTimeout_of_locking (h : s.feState p = 1) :
    s.lockTimeout p = (s.sendFault (0x80 + p) 0x10).enterFenced p :=
  if_neg (not_not_intro h)

/-- A port that a fault of its own fences: it is FENCED and the fault waits. -/
theorem sendFault_enterFenced (hs : s.canonical) (source cause : Nat) :
    ((s.sendFault source cause).enterFenced p).rd .FE_STATUS_STATE p = 4 ∧
    ((s.sendFault source cause).enterFenced p).faultWaits source cause = true :=
  ⟨(enterFenced_reads_state ((sendFault_keeps ..).canon hs) p).eq,
    (enterFenced_keeps ..).faultWaits (s.faultWaits_sendFault ..)⟩

end

/-- Settles O19: each command enters a state of Table 36, whose status the lemmas on its entry give, or shows a code. -/
theorem portRetuneAndLock : Obligations.PortRetuneAndLock := by
  unfold Obligations.PortRetuneAndLock
  refine ⟨fun s p hs h hc hlo => ⟨_, rfl, retune_spec hs h hc hlo⟩,
    fun s p hs h => ⟨_, rfl, retune_refused_spec hs h⟩,
    fun s p hs h => ⟨_, rfl, ?_⟩, fun s p hs h hcal hdue => ⟨_, rfl, lockDone_ready hs h hcal hdue⟩,
    fun s p hs h hcal => ⟨_, rfl, lockDone_calibrates hs h hcal⟩, fun s p hs h => ⟨_, rfl, ?_⟩,
    fun s p hs h => ?_, fun s p hs h => ⟨_, rfl, ?_⟩⟩
  · rw [calReq_of_ready h]
    exact ⟨(enterCalibrating_reads_state hs p).eq, (enterCalibrating_calDue hs p).eq⟩
  · rw [lockTimeout_of_locking h]
    exact sendFault_enterFenced hs ..
  · obtain ⟨u, c, hu, hcount, hfault⟩ := execUnlock_of_ready hs h
    exact ⟨_, hu, (enterLocking_reads_state hcount.canon ..).eq, ((enterLocking_keeps ..).reads hcount).eq,
      (enterLocking_keeps ..).faultWaits hfault⟩
  · have hto : (s.set1 .FE_STATUS_TX_TIMEOUT p).reads .FE_STATUS_TX_TIMEOUT p 1 := hs.reads_wr
    have hheld : s.is .FE_STATUS_TX_HELD p = true := (State.reads.mk hs h).is
    rw [if_neg (by rw [hheld]; decide)]
    exact ⟨((enterFenced_keeps ..).reads <| (sendFault_keeps ..).reads hto).eq, sendFault_enterFenced hto.canon ..⟩

end Sys2Proof.Machine
end

section
/-!
SUPPORT. Calibration, attenuators and relays of a port (03_front_end.md R82 to R94): what a calibration, written attenuation
and a relay move leave, and the statements on them.
-/

namespace Sys2Proof.Machine

/-! ### Relay moves and the record of a port (R92, Table 38) -/

section
variable {s : State} {α : Type} {g : Port → α} {p : Nat} {w : α}

/-- A relay move writes of a port's record the target, and what the reviews rewrite. -/
theorem relayMove_portShows (q target : Nat) (h : s.portShows g p w)
    (hg : unreviewed g := by exact fun _ _ _ _ _ => rfl)
    (hm : ∀ x k, g { x with move := k } = g x := by exact fun _ _ => rfl) : (s.relayMove q target).portShows g p w := by
  have hy (x : Port) : g { x with move := some target, emits := false } = g x :=
    (hm { x with emits := false } _).trans (hg x x.bad x.obsBroken false x.starts)
  exact (tally_keeps ..).portShows <| (wr_keeps ..).portShows <| (lineHold_keeps ..).portShows <| (wr_keeps ..).portShows <|
    State.portShows.updPort (hy := hy) (q := q) <| badFrom_portShows q h hg

theorem relayReview_portShows (q : Nat) (h : s.portShows g p w)
    (hg : unreviewed g := by exact fun _ _ _ _ _ => rfl)
    (hm : ∀ x k, g { x with move := k } = g x := by exact fun _ _ => rfl) : (s.relayReview q).portShows g p w := by
  unfold State.relayReview
  split
  · exact h
  · exact relayMove_portShows q _ h hg hm

/-- READY notes that it was reached; of the record beside it only the move and what the reviews rewrite changes. -/
theorem enterReady_portShows (q : Nat) (h : s.portShows g p w)
    (hg : unreviewed g := by exact fun _ _ _ _ _ => rfl)
    (hm : ∀ x k, g { x with move := k } = g x := by exact fun _ _ => rfl)
    (hr : ∀ x, g { x with wasReady := true } = g x := by exact fun _ => rfl) : (s.enterReady q).portShows g p w :=
  have hw : ((s.wr .FE_STATUS_STATE q 3).updPort q fun x => { x with wasReady := true }).portShows g p w :=
    ((wr_keeps ..).portShows h).updPort q hr
  relayReview_portShows q (txReview_portShows q (badTill_portShows q hw hg) hg) hg hm

end

/-! ### Attenuators (R82, Table 37) -/

section
variable {s : State} {α : Type} {g : Port → α} {p : Nat} {w : α}

/-- The written attenuation takes effect; of the record beside it only what the reviews rewrite changes. -/
theorem applyAtt_portShows (hs : s.canonical) (p : Nat) (hg : unreviewed g := by exact fun _ _ _ _ _ => rfl) :
    (s.applyAtt p).portShows g p (g { s.port p with att := s.attOf p, attPend := false }) := by
  unfold State.applyAtt
  extract_lets old new s1 s2 s3
  have h1 : s1.portShows g p (g { s.port p with att := s.attOf p, attPend := false }) := hs.portShows_updPort _
  have h2 : s2.portShows g p (g { s.port p with att := s.attOf p, attPend := false }) := by
    unfold s2
    split
    · exact h1
    · exact badFor_portShows p _ h1 hg
  have h3 : s3.portShows g p (g { s.port p with att := s.attOf p, attPend := false }) := by
    unfold s3
    split
    · exact h2
    · exact (refreshCeilings_keeps ..).portShows h2
  split
  · exact h3
  · exact h3.updPort p (fun x => hg x x.bad true x.emits x.starts)

theorem attAfterCal_portShows (h : s.portShows g p w) (hg : unreviewed g := by exact fun _ _ _ _ _ => rfl)
    (ha : ∀ x a b, g { x with att := a, attPend := b } = g x := by exact fun _ _ _ => rfl) :
    (s.attAfterCal p).portShows g p w := by
  unfold State.attAfterCal
  split
  · have := applyAtt_portShows h.canon p hg
    rwa [ha, h.eq] at this
  · exact h

/-- Attenuation written outside a foreground calibration takes effect. -/
theorem execFeAttApply_of_changed {p : Sys2Proof.PortIx} (ha : s.attOf p ≠ (s.port p).att) (h : s.feState p ≠ 2) :
    execFeAttApply p s = .next (s.applyAtt p) :=
  congrArg Host.Outcome.next ((if_neg ha).trans (if_neg h))

end

/-! ### Calibration (R83, R84, R86, R87) -/

section
variable {s : State} {p : Nat}

/-- An update of a chain ends its staleness. -/
theorem calUpdated_fresh (hs : s.canonical) (p : Nat) (keys : List Nat) {chains : List Nat} {k : Nat} (h : k ∈ chains) :
    (s.calUpdated p keys chains).portShows (fun x => x.stale.contains k) p false := by
  have hk : ((s.port p).stale.filter fun j => !chains.contains j).contains k = false := by
    simp [h]
  rw [← hk]
  exact hs.portShows_updPort _

/-- A foreground calibration that fits has stored its results in the state in which the port goes on: to LOCKING on a retune
that waited, else to READY. -/
theorem calDone_fit (hs : s.canonical) (h : s.feState p = 2) (rx tx obs : Nat) :
    ∃ u : State, s.calDone p (some (rx, tx, obs)) = (s.port p).retune.elim ((u.attAfterCal p).enterReady p)
        (fun c => (u.attAfterCal p).enterLocking p c) ∧
      u.reads .FE_CAL_STATUS_RX_IRR p (rx % 2 ^ Field.FE_CAL_STATUS_RX_IRR.row.width) ∧
      u.reads .FE_CAL_STATUS_TX_IRR p (tx % 2 ^ Field.FE_CAL_STATUS_TX_IRR.row.width) ∧
      u.reads .FE_CAL_STATUS_OBS_IRR p (obs % 2 ^ Field.FE_CAL_STATUS_OBS_IRR.row.width) ∧
      u.portShows Port.calibrated p true := by
  generalize ht : s.calDone p (some (rx, tx, obs)) = t
  unfold State.calDone at ht
  rw [if_neg (not_not_intro h)] at ht
  dsimp -zeta only at ht
  extract_lets x segs keys u at ht
  refine ⟨u, ?_, ?_, ?_, ?_, ?_⟩
  · rw [← ht]
    unfold x
    cases (s.port p).retune <;> simp only [Option.elim]
  · exact (staleReview_keeps ..).reads <| (updPort_keeps ..).reads <| (calUpdated_keeps ..).reads <|
      (wr_keeps ..).reads <| (wr_keeps ..).reads hs.reads_wr_mod
  · exact (staleReview_keeps ..).reads <| (updPort_keeps ..).reads <| (calUpdated_keeps ..).reads <|
      (wr_keeps ..).reads <| ((wr_keeps ..).canon hs).reads_wr_mod
  · exact (staleReview_keeps ..).reads <| (updPort_keeps ..).reads <| (calUpdated_keeps ..).reads <|
      State.canonical.reads_wr_mod <| (wr_keeps ..).canon <| (wr_keeps ..).canon hs
  · exact (staleReview_keeps ..).portShows <| State.canonical.portShows_updPort (y := ({ · with calibrated := true }))
      ((calUpdated_keeps ..).canon <| (wr_keeps ..).canon <| (wr_keeps ..).canon <| (wr_keeps ..).canon hs)

theorem calDone_ready (hs : s.canonical) (h : s.feState p = 2) (hr : (s.port p).retune = none) (rx tx obs : Nat) :
    let t := s.calDone p (some (rx, tx, obs))
    t.rd .FE_STATUS_STATE p = 3 ∧
    t.rd .FE_CAL_STATUS_RX_IRR p = rx % 2 ^ Field.FE_CAL_STATUS_RX_IRR.row.width ∧
    t.rd .FE_CAL_STATUS_TX_IRR p = tx % 2 ^ Field.FE_CAL_STATUS_TX_IRR.row.width ∧
    t.rd .FE_CAL_STATUS_OBS_IRR p = obs % 2 ^ Field.FE_CAL_STATUS_OBS_IRR.row.width ∧
    (t.port p).calibrated = true := by
  obtain ⟨u, hu, hrx, htx, hobs, hcal⟩ := calDone_fit hs h rx tx obs
  rw [hr] at hu
  simp only [hu, Option.elim]
  exact ⟨(enterReady_reads_state ((attAfterCal_keeps ..).canon hrx.canon) p).eq,
    ((enterReady_keeps ..).reads <| (attAfterCal_keeps ..).reads hrx).eq,
    ((enterReady_keeps ..).reads <| (attAfterCal_keeps ..).reads htx).eq,
    ((enterReady_keeps ..).reads <| (attAfterCal_keeps ..).reads hobs).eq,
    (enterReady_portShows p <| attAfterCal_portShows hcal).eq⟩

theorem calDone_locking (hs : s.canonical) (h : s.feState p = 2) {c : Nat × Nat} (hr : (s.port p).retune = some c)
    (r : Nat × Nat × Nat) : (s.calDone p (some r)).rd .FE_STATUS_STATE p = 1 ∧
      ((s.calDone p (some r)).port p).centres = some c := by
  obtain ⟨u, hu, hrx, -⟩ := calDone_fit hs h r.1 r.2.1 r.2.2
  have hc : (u.attAfterCal p).canonical := (attAfterCal_keeps ..).canon hrx.canon
  rw [hr] at hu
  simp only [hu, Option.elim]
  exact ⟨(enterLocking_reads_state hc ..).eq, (enterLocking_centres hc ..).eq⟩

/-- A foreground calibration that fails is shown, reported, and fences the port. -/
theorem calDone_failed (h : s.feState p = 2) :
    s.calDone p none = ((s.set1 .FE_CAL_STATUS_FG_FAIL p).sendFault (0x80 + p) 0x16).enterFenced p :=
  if_neg (not_not_intro h)

/-- A background update of a READY port whose receive chain allows one updates that chain. -/
theorem execFeBgCalUpdate_of_rx {p : Sys2Proof.PortIx} (h : s.feState p = 3) (hbg : s.bgOn p 0 = true) (tx obs : Bool) :
    ∃ keys chains, 0 ∈ chains ∧ execFeBgCalUpdate p (true, tx, obs) s =
      .next (((s.calUpdated p keys chains).tally 5 0x04 p).staleReview p) := by
  unfold execFeBgCalUpdate
  rw [if_neg (not_not_intro h)]
  extract_lets on chains
  have hmem : 0 ∈ chains := List.mem_filter.mpr ⟨by decide, by simp [on, hbg]⟩
  exact ⟨_, chains, hmem, congrArg Host.Outcome.next (if_neg (List.ne_nil_of_mem hmem))⟩

/-- A chain that has become stale is shown, reported and noted. -/
theorem execCalStale_of_stale {p : Sys2Proof.PortIx} {k : Nat} (hk : k ∈ [0, 1, 2]) (h : s.chainStale p k = true)
    (hn : (s.port p).stale.contains k = false) :
    ∃ new, k ∈ new ∧ execCalStale p s = .next (((s.set1 .FE_CAL_STATUS_STALE p).sendFault (0x80 + p) 0x15).updPort p
      fun x => { x with stale := x.stale ++ new }) := by
  unfold execCalStale
  extract_lets new
  have hmem : k ∈ new := List.mem_filter.mpr ⟨hk, by rw [h, hn]; rfl⟩
  exact ⟨new, hmem, congrArg Host.Outcome.next (if_neg (List.ne_nil_of_mem hmem))⟩

end

/-- Settles O20: the ends of a calibration enter READY, LOCKING or FENCED; the other commands write the port's record. -/
theorem portCalibrationAndAttenuators : Obligations.PortCalibrationAndAttenuators := by
  unfold Obligations.PortCalibrationAndAttenuators
  refine ⟨fun s p rx tx obs hs h hr => ⟨_, rfl, calDone_ready hs h hr rx tx obs⟩,
    fun s p c r hs h hr => ⟨_, rfl, calDone_locking hs h hr r⟩, fun s p hs h => ⟨_, rfl, ?_⟩,
    fun s p tx obs hs h hbg => ?_, fun s p hs h hn => ?_, fun s p hs ha h => ⟨_, execFeAttApply_of_changed ha h, ?_⟩⟩
  · have hfail : (s.set1 .FE_CAL_STATUS_FG_FAIL p).reads .FE_CAL_STATUS_FG_FAIL p 1 := hs.reads_wr
    obtain ⟨hst, hfault⟩ := sendFault_enterFenced (p := p) hfail.canon (0x80 + p) 0x16
    rw [calDone_failed h]
    exact ⟨hst, ((enterFenced_keeps ..).reads <| (sendFault_keeps ..).reads hfail).eq, hfault⟩
  · have hon : s.bgOn p 0 = true := (State.reads.mk hs hbg).is
    obtain ⟨keys, chains, hmem, ht⟩ := execFeBgCalUpdate_of_rx h hon tx obs
    exact ⟨_, ht, ((staleReview_keeps ..).portShows <| (tally_keeps ..).portShows <| calUpdated_fresh hs p keys hmem).eq,
      ((staleReview_keeps ..).reads <| (tally_keeps ..).reads <| (calUpdated_keeps ..).reads ⟨hs, h⟩).eq⟩
  · obtain ⟨new, hmem, ht⟩ := execCalStale_of_stale (by decide) h hn
    have hstale : ((s.set1 .FE_CAL_STATUS_STALE p).sendFault (0x80 + p) 0x15).reads .FE_CAL_STATUS_STALE p 1 :=
      (sendFault_keeps ..).reads hs.reads_wr
    refine ⟨_, ht, ((updPort_keeps ..).reads hstale).eq, ?_,
      (updPort_keeps ..).faultWaits (State.faultWaits_sendFault ..)⟩
    rw [(hstale.canon.portShows_updPort (g := Port.stale) _).eq]
    simp [hmem]
  · exact ⟨(applyAtt_portShows hs (g := Port.att) p).eq,
      (applyAtt_portShows hs (g := Port.attPend) p).eq, ((applyAtt_keeps ..).reads ⟨hs, rfl⟩).eq⟩

end Sys2Proof.Machine
end

section
/-!
SUPPORT. The relays of a port (03_front_end.md R90 to R94): the relay hold of its PWM channel through a review of the gates,
what begins and ends a move, and the statement on relay moves.
-/

namespace Sys2Proof.Machine

/-! ### The relay hold of a PWM channel (Table 133) -/

/-- The state is canonical, and the relay hold of channel `k` is `b`. -/
structure State.relayHeld (s : State) (k : Nat) (b : Bool) : Prop where
  canon : s.canonical
  eq : (s.pwm k).relayHold = b

section
variable {s t : State} {m k : Nat} {b : Bool}

theorem State.keeps.relayHeld (h : State.keeps m s t) (hb : s.relayHeld k b)
    (hm : partIn m .pwms = false := by decide +kernel) : t.relayHeld k b := by
  have hp : t.pwms = s.pwms := h.parts .pwms hm
  exact ⟨h.canon hb.canon, by simp only [State.pwm, hp]; exact hb.eq⟩

/-- A record of a channel put in place of one with the same relay hold. -/
theorem State.relayHeld.setPwm (hb : s.relayHeld k b) (j : Nat) {y : Pwm}
    (hy : y.relayHold = (s.pwm j).relayHold := by rfl) : (s.setPwm j y).relayHeld k b where
  canon := (setPwm_keeps s j y).canon hb.canon
  eq := by
    rw [State.pwm_setPwm hb.canon.pwms]
    split
    case isTrue e => rw [hy, ← e, hb.eq]
    case isFalse => exact hb.eq

theorem State.relayHeld.updPwm (hb : s.relayHeld k b) (j : Nat) {y : Pwm → Pwm}
    (hy : ∀ x, (y x).relayHold = x.relayHold := by exact fun _ => rfl) : (s.updPwm j y).relayHeld k b :=
  hb.setPwm j (hy _)

theorem State.relayHeld.forEach {α : Type} {f : α → State → State}
    (hf : ∀ x u, u.relayHeld k b → (f x u).relayHeld k b) (xs : List α) (hb : s.relayHeld k b) :
    (State.forEach f xs s).relayHeld k b :=
  List.foldlRecOn xs (fun t x => f x t) hb fun u hu x _ => hf x u hu

theorem keepBlank_relayHeld (src till : Nat) (hb : s.relayHeld k b) : (s.keepBlank src till).relayHeld k b := by
  refine hb.forEach (fun x u hu => ?_) _
  split
  · exact hu.updPwm _
  · exact hu

theorem gateStop_relayHeld (j st : Nat) (hb : s.relayHeld k b) : (s.gateStop j st).relayHeld k b :=
  (wr_keeps ..).relayHeld <| (wr_keeps ..).relayHeld <|
    (keepBlank_relayHeld j _ hb).updPwm j

theorem shapePeriod_relayHeld (j : Nat) (cont : Bool) (lead : Option Nat) (dead : Nat) (hb : s.relayHeld k b) :
    (s.shapePeriod j cont lead dead).relayHeld k b := by
  have hclamp (c : Prop) [Decidable c] (u : State) (hu : u.relayHeld k b) :
      (if c then u.set1 .PWM_STATUS_DUTY_CLAMP j else u).relayHeld k b := by
    split
    · exact (wr_keeps ..).relayHeld hu
    · exact hu
  unfold State.shapePeriod
  extract_lets x per
  split
  extract_lets
  split
  exact hclamp _ _ <| (wr_keeps ..).relayHeld <| (wr_keeps ..).relayHeld <| (wr_keeps ..).relayHeld <| hb.setPwm j

/-- A review of the gates of a channel leaves every relay hold. -/
theorem gateReview_relayHeld (j : Nat) (hb : s.relayHeld k b) : (s.gateReview j).relayHeld k b := by
  unfold State.gateReview
  extract_lets s1
  have h1 : s1.relayHeld k b := (wr_keeps ..).relayHeld <| (wr_keeps ..).relayHeld <| (wr_keeps ..).relayHeld hb
  split
  · exact gateStop_relayHeld j 0 h1
  · split
    · exact gateStop_relayHeld j 1 h1
    · split
      · exact shapePeriod_relayHeld j _ _ _ (h1.updPwm j)
      · exact h1

theorem lineHold_relayHeld (hs : s.canonical) (p : Nat) (held : Bool) : (s.lineHold p held).relayHeld p held := by
  refine gateReview_relayHeld p ⟨(updPwm_keeps ..).canon hs, ?_⟩
  unfold State.updPwm
  rw [State.pwm_setPwm hs.pwms, if_pos rfl]

end

/-! ### The beginning of a move (R92, Table 38) -/

section
variable {s t : State} {p : Nat}

/-- Instant 0 of a relay move. -/
theorem relayMove_spec (hs : s.canonical) (p target : Nat) :
    (s.relayMove p target).rd .FE_RELAY_POS p = 3 ∧ ((s.relayMove p target).port p).move = some target ∧
    ((s.relayMove p target).port p).emits = false ∧ ((s.relayMove p target).pwm p).relayHold = true ∧
    (s.relayMove p target).rd .FE_RELAY_MOVE_COUNT p =
      min (s.rd .FE_RELAY_MOVE_COUNT p + 1) (2 ^ Field.FE_RELAY_MOVE_COUNT.row.width - 1) := by
  have hb : (s.badFrom p).canonical := (badFrom_keeps ..).canon hs
  obtain ⟨u, hu, hpos, hmove, hemits, hheld, hcount⟩ : ∃ u : State,
      s.relayMove p target = (u.bump .FE_RELAY_MOVE_COUNT p).tally 5 0x06 p ∧ u.reads .FE_RELAY_POS p 3 ∧
      u.portShows Port.move p (some target) ∧ u.portShows Port.emits p false ∧ u.relayHeld p true ∧
      u.reads .FE_RELAY_MOVE_COUNT p (s.rd .FE_RELAY_MOVE_COUNT p) := by
    refine ⟨_, rfl, ?_, ?_, ?_, ?_, ?_⟩
    · exact (lineHold_keeps ..).reads ((updPort_keeps ..).canon hb).reads_wr
    · exact (lineHold_keeps ..).portShows <| (wr_keeps ..).portShows <| hb.portShows_updPort _
    · exact (lineHold_keeps ..).portShows <| (wr_keeps ..).portShows <| hb.portShows_updPort _
    · exact lineHold_relayHeld ((wr_keeps ..).canon <| (updPort_keeps ..).canon hb) p true
    · exact (lineHold_keeps ..).reads <| (wr_keeps ..).reads <| (updPort_keeps ..).reads <| (badFrom_keeps ..).reads
        (hs.reads ..)
  rw [hu, ← hcount.eq]
  exact ⟨((tally_keeps ..).reads <| (wr_keeps ..).reads hpos).eq,
    ((tally_keeps ..).portShows <| (wr_keeps ..).portShows hmove).eq,
    ((tally_keeps ..).portShows <| (wr_keeps ..).portShows hemits).eq,
    ((tally_keeps ..).relayHeld <| (wr_keeps ..).relayHeld hheld).eq, ((tally_keeps ..).reads hcount.canon.reads_bump).eq⟩

/-- A move begins where none runs and the position called for is another one. -/
theorem relayReview_of_moves (hm : (s.port p).move = none) (hw : s.relayWanted p ≠ (s.port p).relay) :
    s.relayReview p = s.relayMove p (s.relayWanted p) :=
  if_neg (by simp only [hm, Option.isSome_none, Bool.false_eq_true, hw, or_self, not_false_eq_true])

/-- No move begins while the relay is in the position called for. -/
theorem relayReview_of_placed (hw : s.relayWanted p = (s.port p).relay) : s.relayReview p = s :=
  if_pos (Or.inr hw)

/-! ### The end of a move (R92, R93, Table 38) -/

/-- What a relay move and its end may write leaves the conditions of R92 but for what the record of the port holds. -/
theorem State.keeps.relayWanted (k : State.keeps writes_relayEnd s t) (hs : s.canonical)
    (hw : (t.port p).wasReady = (s.port p).wasReady) : t.relayWanted p = s.relayWanted p := by
  have hkct : t.kct = s.kct := k.parts .kct (by decide +kernel)
  have hfcl : t.fcl = s.fcl := k.parts .fcl (by decide +kernel)
  have hfac : t.factory = s.factory := k.parts .factory (by decide +kernel)
  have hlock := k.fields hs .KCT_STATUS_LOCKED 0 (by decide +kernel)
  have hen := k.fields hs .FE_CTRL_RX_EN p (by decide +kernel)
  have hin := k.fields hs .FE_CTRL_INLINE p (by decide +kernel)
  have hmode (q : Nat) := k.fields hs .FE_RELAY_BYPASS_MODE q (by decide +kernel)
  have hlevel (u : Nat) : t.fenceLevel u = s.fenceLevel u := by simp only [State.fenceLevel, hfcl]
  have hwants : t.wantsInline p = s.wantsInline p := by
    unfold State.wantsInline State.is
    rw [hkct, hfcl, hlock, hen, hin, hw, hlevel]
  have hbypass : t.bypassPos p = s.bypassPos p := by
    unfold State.bypassPos
    extract_lets partner
    rw [hfac, hmode p, hmode partner]
  unfold State.relayWanted
  rw [hwants, hbypass]

/-- A move whose target the contacts sense ends there; what follows is a review of the relay. -/
theorem relayEnd_of_sensed (hs : s.canonical) {sensed : Nat} (hfits : sensed < 4) (hm : (s.port p).move = some sensed) :
    ∃ u : State, s.relayEnd p sensed = u.relayReview p ∧ State.keeps writes_relayEnd s u ∧
      u.reads .FE_RELAY_POS p sensed ∧ ∀ {α : Type} (g : Port → α), unreviewed g →
        u.portShows g p (g { s.port p with move := none, relay := sensed }) := by
  refine ⟨_, by simp only [State.relayEnd, hm, if_true]; rfl, ?_, ?_, fun g hg => ?_⟩
  · refine State.keeps.step ?_ (txReview_keeps ..) (by decide +kernel)
    refine State.keeps.step ?_ (badTill_keeps ..) (by decide +kernel)
    refine State.keeps.step ?_ (sendClear_keeps ..) (by decide +kernel)
    refine State.keeps.step ?_ (lineHold_keeps ..) (by decide +kernel)
    refine State.keeps.step ?_ (wr_keeps ..) (by decide +kernel)
    exact State.keeps.refl.step (updPort_keeps ..) (by decide +kernel)
  · exact (txReview_keeps ..).reads <| (badTill_keeps ..).reads <| (sendClear_keeps ..).reads <| (lineHold_keeps ..).reads <|
      ((updPort_keeps ..).canon hs).reads_wr (hv := hfits)
  · exact txReview_portShows p (badTill_portShows p ((sendClear_keeps ..).portShows <| (lineHold_keeps ..).portShows <|
      (wr_keeps ..).portShows <| hs.portShows_updPort _) hg) hg

/-- Where the position sensed is still the one called for, the relay stays there. -/
theorem relayEnd_placed (hs : s.canonical) {sensed : Nat} (hfits : sensed < 4) (hm : (s.port p).move = some sensed)
    (hw : s.relayWanted p = sensed) :
    (s.relayEnd p sensed).reads .FE_RELAY_POS p sensed ∧ (s.relayEnd p sensed).portShows Port.move p none ∧
    (s.relayEnd p sensed).portShows Port.relay p sensed := by
  obtain ⟨u, hu, hk, hpos, hport⟩ := relayEnd_of_sensed hs hfits hm
  have hready := hport Port.wasReady fun _ _ _ _ _ => rfl
  have hrelay := hport Port.relay fun _ _ _ _ _ => rfl
  have hwanted : u.relayWanted p = (u.port p).relay := by rw [hk.relayWanted hs hready.eq, hw, hrelay.eq]
  rw [hu, relayReview_of_placed hwanted]
  exact ⟨hpos, hport Port.move fun _ _ _ _ _ => rfl, hrelay⟩

/-- Contacts that sense another position are shown and reported, READY must be reached anew, and the relay is driven to
bypass. -/
theorem relayEnd_of_mismatch (hs : s.canonical) {target sensed : Nat} (hm : (s.port p).move = some target)
    (hne : target ≠ sensed) :
    ∃ u : State, s.relayEnd p sensed = u.relayMove p (s.bypassPos p) ∧ u.reads .FE_STATUS_RELAY_MISMATCH p 1 ∧
      u.faultWaits (0x80 + p) 0x13 = true ∧ u.portShows Port.wasReady p false ∧ u.portShows Port.relay p sensed := by
  have hc : ((s.updPort p fun x => { x with move := none, relay := sensed }).wr .FE_RELAY_POS p sensed).canonical :=
    (wr_keeps ..).canon <| (updPort_keeps ..).canon hs
  refine ⟨_, by simp only [State.relayEnd, hm, hne.symm, if_false]; rfl, ?_, ?_, ?_, ?_⟩
  · exact (updPort_keeps ..).reads <| (sendFault_keeps ..).reads hc.reads_wr
  · exact (updPort_keeps ..).faultWaits <| State.faultWaits_sendFault ..
  · exact ((sendFault_keeps ..).canon <| (wr_keeps ..).canon hc).portShows_updPort _
  · exact ((sendFault_keeps ..).portShows <| (wr_keeps ..).portShows <| (wr_keeps ..).portShows <|
      hs.portShows_updPort (g := Port.relay) _).updPort p

end

/-- Settles O21: a review of the relay begins a move, and the end of a move places the relay or drives it to bypass. -/
theorem relayMoves : Obligations.RelayMoves := by
  unfold Obligations.RelayMoves
  refine ⟨fun s p hs hm hw => ⟨_, rfl, ?_⟩, fun s p sensed hs hm hw => ⟨_, rfl, ?_⟩,
    fun s p target sensed hs hm hne => ⟨_, rfl, ?_⟩⟩
  · rw [relayReview_of_moves hm hw]
    exact relayMove_spec hs p (s.relayWanted p)
  · obtain ⟨hpos, hmove, hrelay⟩ := relayEnd_placed hs sensed.isLt hm hw
    exact ⟨((g3Restart_keeps ..).portShows hmove).eq, ((g3Restart_keeps ..).portShows hrelay).eq,
      ((g3Restart_keeps ..).reads hpos).eq⟩
  · obtain ⟨u, hu, hbit, hfault, hready, hrelay⟩ := relayEnd_of_mismatch hs hm hne
    obtain ⟨-, hmove, -⟩ := relayMove_spec hbit.canon p (s.bypassPos p)
    rw [hu]
    exact ⟨((g3Restart_keeps ..).reads <| (relayMove_keeps ..).reads hbit).eq,
      (g3Restart_keeps ..).faultWaits <| (relayMove_keeps ..).faultWaits hfault,
      ((g3Restart_keeps ..).portShows <| relayMove_portShows p _ hready).eq,
      ((g3Restart_keeps ..).portShows <| relayMove_portShows p _ hrelay).eq,
      ((g3Restart_keeps ..).portShows ⟨(relayMove_keeps ..).canon hbit.canon, hmove⟩).eq⟩

end Sys2Proof.Machine
end

section
/-!
SUPPORT. The pilot of a port (03_front_end.md R95 to R101): the writes of MODE, the end of an acquisition and the measured
forward delay, and the statement on the states of the pilot.
-/

namespace Sys2Proof.Machine

/-! ### A delay in two registers (R5, R8) -/

theorem wrapBits_lt (w : Nat) (x : Int) : wrapBits w x < 2 ^ w := by
  have hpos : (0 : Int) < 2 ^ w := by positivity
  have hlt : x % 2 ^ w < 2 ^ w := Int.emod_lt_of_pos x hpos
  have hge : 0 ≤ x % 2 ^ w := Int.emod_nonneg x hpos.ne'
  unfold wrapBits
  zify
  rwa [Int.toNat_of_nonneg hge]

section
variable {s : State} {p : Nat}

/-- A 48-bit value stored in the two registers of the measured delay is read back from them. -/
theorem rdDelay_of_reads {v : Nat} (hlo : s.reads .FE_PILOT_DLY_LO_DLY_LO p (v % 2 ^ 32))
    (hhi : s.reads .FE_PILOT_DLY_HI_DLY_HI p (v / 2 ^ 32)) :
    s.rdDelay .FE_PILOT_DLY_LO_DLY_LO .FE_PILOT_DLY_HI_DLY_HI p = signed 48 v := by
  rw [State.rdDelay, State.rd2, hlo.eq, hhi.eq, Nat.mul_comm, Nat.mod_add_div]

/-! ### MODE (R97) -/

/-- MODE 0 stops the pilot. -/
theorem writePilotMode_zero (s : State) (p : Nat) : s.writePilotMode p 0 =
    ((s.wr .FE_PILOT_CTRL_MODE p 0).wr .FE_PILOT_STATUS_PSTATE p 0).updPort p fun x =>
      { x with pilot := { x.pilot with mode := 0, blocked := false } } := by
  simp [State.writePilotMode]

theorem writePilotMode_zero_spec (hs : s.canonical) (p : Nat) :
    (s.writePilotMode p 0).rd .FE_PILOT_STATUS_PSTATE p = 0 ∧ (s.writePilotMode p 0).rd .FE_PILOT_CTRL_MODE p = 0 ∧
    ((s.writePilotMode p 0).port p).pilot.mode = 0 := by
  have hmode : (s.wr .FE_PILOT_CTRL_MODE p 0).reads .FE_PILOT_CTRL_MODE p 0 := hs.reads_wr
  have hst : ((s.wr .FE_PILOT_CTRL_MODE p 0).wr .FE_PILOT_STATUS_PSTATE p 0).reads .FE_PILOT_STATUS_PSTATE p 0 :=
    hmode.canon.reads_wr
  rw [writePilotMode_zero]
  exact ⟨((updPort_keeps ..).reads hst).eq, ((updPort_keeps ..).reads <| (wr_keeps ..).reads hmode).eq,
    (hst.canon.portShows_updPort (g := fun x => x.pilot.mode) _).eq⟩

/-- MODE 1 of a pilot that is off, passes its check and is not muted starts acquisition on the staged frequencies. -/
theorem writePilotMode_one_of_off (hoff : (s.port p).pilot.mode = 0) (hmute : (s.port p).pilot.mutes = [])
    (hc : s.modeCode p 1 (s.rd .FE_PILOT_FREQ_FREQ p) (s.rd .FE_PILOT_SHIFT_FREQ p) = 0) :
    s.writePilotMode p 1 = (((s.wr .FE_STATUS_REJECT p 0).wr .FE_PILOT_CTRL_MODE p 1).updPort p fun x =>
      { x with pilot := { x.pilot with mode := 1, f0 := s.rd .FE_PILOT_FREQ_FREQ p, shift := s.rd .FE_PILOT_SHIFT_FREQ p,
                                       blocked := false } }).wr .FE_PILOT_STATUS_PSTATE p 1 := by
  simp [State.writePilotMode, hoff, hmute, hc]

theorem writePilotMode_one_spec (hs : s.canonical) (hoff : (s.port p).pilot.mode = 0) (hmute : (s.port p).pilot.mutes = [])
    (hc : s.modeCode p 1 (s.rd .FE_PILOT_FREQ_FREQ p) (s.rd .FE_PILOT_SHIFT_FREQ p) = 0) :
    (s.writePilotMode p 1).rd .FE_PILOT_STATUS_PSTATE p = 1 ∧ (s.writePilotMode p 1).rd .FE_PILOT_CTRL_MODE p = 1 ∧
    (s.writePilotMode p 1).rd .FE_STATUS_REJECT p = 0 ∧
    ((s.writePilotMode p 1).port p).pilot.f0 = s.rd .FE_PILOT_FREQ_FREQ p := by
  have hrej : (s.wr .FE_STATUS_REJECT p 0).reads .FE_STATUS_REJECT p 0 := hs.reads_wr
  have hmode : ((s.wr .FE_STATUS_REJECT p 0).wr .FE_PILOT_CTRL_MODE p 1).reads .FE_PILOT_CTRL_MODE p 1 := hrej.canon.reads_wr
  rw [writePilotMode_one_of_off hoff hmute hc]
  refine ⟨?_, ?_, ?_, ?_⟩
  · exact ((updPort_keeps ..).canon hmode.canon).reads_wr.eq
  · exact ((wr_keeps ..).reads <| (updPort_keeps ..).reads hmode).eq
  · exact ((wr_keeps ..).reads <| (updPort_keeps ..).reads <| (wr_keeps ..).reads hrej).eq
  · exact ((wr_keeps ..).portShows (g := fun x => x.pilot.f0) <| hmode.canon.portShows_updPort _).eq

end

/-! ### The measured delay (R99) -/

section
variable {s : State} {p : Sys2Proof.PortIx} {a b c : BitVec 40}

/-- A measurement in LOCKED that is not ambiguous stores the forward delay, sets FRESH and counts. -/
theorem execPilotMeasureDone_of_some (h : s.rd .FE_PILOT_STATUS_PSTATE p = 2) {x : Int}
    (hx : roundTrip a.toNat b.toNat c.toNat (s.rd .FE_PILOT_PRIOR_PRIOR p) = some x) :
    execPilotMeasureDone p a b c s = .next
      ((((s.wr2 .FE_PILOT_DLY_LO_DLY_LO .FE_PILOT_DLY_HI_DLY_HI p (wrapBits 48 (roundDiv (1024000 * x -
          ((s.rd .FE_TX_LAT_LAT p + s.rd .FE_RX_LAT_LAT p + s.rd .FE_PILOT_TURN_TURN p : Nat) : Int) * turn)
          (2 * turn).toNat + s.rdS .FE_PILOT_SPLIT_SPLIT p))).set1 .FE_PILOT_STATUS_FRESH p).roll
        .FE_PILOT_STATUS_COUNT p).tally 5 0x05 p) := by
  unfold execPilotMeasureDone
  rw [if_neg (not_not_intro h), hx]

/-- An ambiguous one sets AMBIG alone. -/
theorem execPilotMeasureDone_of_none (h : s.rd .FE_PILOT_STATUS_PSTATE p = 2)
    (hx : roundTrip a.toNat b.toNat c.toNat (s.rd .FE_PILOT_PRIOR_PRIOR p) = none) :
    execPilotMeasureDone p a b c s = .next (s.set1 .FE_PILOT_STATUS_AMBIG p) := by
  unfold execPilotMeasureDone
  rw [if_neg (not_not_intro h), hx]

/-- The registers after a new result `v`. -/
theorem pilotResult_spec (hs : s.canonical) (p : Nat) {v : Nat} (hv : v < 2 ^ 48) :
    let t := (((s.wr2 .FE_PILOT_DLY_LO_DLY_LO .FE_PILOT_DLY_HI_DLY_HI p v).set1 .FE_PILOT_STATUS_FRESH p).roll
      .FE_PILOT_STATUS_COUNT p).tally 5 0x05 p
    t.rdDelay .FE_PILOT_DLY_LO_DLY_LO .FE_PILOT_DLY_HI_DLY_HI p = signed 48 v ∧ t.rd .FE_PILOT_STATUS_FRESH p = 1 ∧
    t.rd .FE_PILOT_STATUS_COUNT p = (s.rd .FE_PILOT_STATUS_COUNT p + 1) % 2 ^ Field.FE_PILOT_STATUS_COUNT.row.width := by
  intro t
  have hlo : (s.wr .FE_PILOT_DLY_LO_DLY_LO p v).reads .FE_PILOT_DLY_LO_DLY_LO p (v % 2 ^ 32) := hs.reads_wr_mod
  have hhi : (s.wr2 .FE_PILOT_DLY_LO_DLY_LO .FE_PILOT_DLY_HI_DLY_HI p v).reads .FE_PILOT_DLY_HI_DLY_HI p (v / 2 ^ 32) :=
    hlo.canon.reads_wr (hv := show v / 2 ^ 32 < 2 ^ 16 by omega)
  have hcount : ((s.wr2 .FE_PILOT_DLY_LO_DLY_LO .FE_PILOT_DLY_HI_DLY_HI p v).set1 .FE_PILOT_STATUS_FRESH p).reads
      .FE_PILOT_STATUS_COUNT p (s.rd .FE_PILOT_STATUS_COUNT p) :=
    (wr_keeps ..).reads <| (wr_keeps ..).reads <| (wr_keeps ..).reads (hs.reads ..)
  refine ⟨rdDelay_of_reads ?_ ?_, ?_, ?_⟩
  · exact (tally_keeps ..).reads <| (wr_keeps ..).reads <| (wr_keeps ..).reads <| (wr_keeps ..).reads hlo
  · exact (tally_keeps ..).reads <| (wr_keeps ..).reads <| (wr_keeps ..).reads hhi
  · exact ((tally_keeps ..).reads <| (wr_keeps ..).reads hhi.canon.reads_wr).eq
  · rw [← hcount.eq]
    exact ((tally_keeps ..).reads hcount.canon.reads_wr_mod).eq

end

/-- Settles O22: each command writes the mode, the state or the result of the pilot. -/
theorem pilotStates : Obligations.PilotStates := by
  unfold Obligations.PilotStates
  refine ⟨fun s p hs => ⟨_, rfl, writePilotMode_zero_spec hs p⟩,
    fun s p hs hoff hmute hc => ⟨_, rfl, writePilotMode_one_spec hs hoff hmute hc⟩,
    fun s p hs h => ⟨_, congrArg Host.Outcome.next (if_pos h), hs.reads_wr.eq⟩,
    fun s p hs h => ⟨_, congrArg Host.Outcome.next (if_pos h), hs.reads_wr.eq, ((wr_keeps ..).reads ⟨hs, h⟩).eq⟩,
    fun s p a b c x hs h hx => ⟨_, execPilotMeasureDone_of_some h hx, pilotResult_spec hs p (wrapBits_lt ..)⟩,
    fun s p a b c hs h hx =>
      ⟨_, execPilotMeasureDone_of_none h hx, hs.reads_wr.eq, ((wr_keeps ..).reads (hs.reads ..)).eq⟩⟩

end Sys2Proof.Machine
end

section
/-!
SUPPORT. The halfband stages of a channelizer (04_channelizer.md R104): how many there are for each span.
-/

namespace Sys2Proof.Machine

/-- `chainD` is the largest number of halvings that R104 allows. -/
theorem le_chainD_iff {N : Nat} (hpos : 1 ≤ N) (hN : N ≤ 163840) (d : Nat) : d ≤ chainD N ↔ 2 ^ d * N ≤ 163840 := by
  have hq : 163840 / N ≠ 0 := (Nat.div_pos hN hpos).ne'
  rw [chainD, Nat.le_log2 hq, Nat.le_div_iff_mul_le hpos]

/-- Settles O9: each bound on the number of stages is the defining inequality at one number of stages, and the bound on the
ratio is its failure at one stage more. -/
theorem halfbandStages : Obligations.HalfbandStages := by
  unfold Obligations.HalfbandStages
  intro N hpos hN
  have hle := le_chainD_iff hpos (hN.trans (by decide))
  have hmore : ¬2 ^ (chainD N + 1) * N ≤ 163840 := fun h => Nat.not_succ_le_self _ ((hle _).mpr h)
  have hratio : 2 ^ (chainD N + 1) * N = 2 * (N * 2 ^ chainD N) := by ring
  have h2 := hle 2
  have h3 := hle 3
  have h17 := hle 17
  have h18 := hle 18
  refine ⟨(hle _).mp le_rfl, fun d => (hle d).mpr, ?_, ?_, ?_, ?_, ?_⟩ <;> omega

end Sys2Proof.Machine
end

section
/-!
SUPPORT. Synchronising resets, swaps and fades of a channelizer (04_channelizer.md R115 to R123): what the record of a band
path shows after an operation, what an access of a policy core leaves, and what each command on the grid and the active bank
does.
-/

namespace Sys2Proof.Machine

/-! ### What the record of a band path shows -/

/-- The state is canonical, and what `g` takes from the record of band path `n` is `v`. -/
structure State.bpShows {α : Type} (s : State) (g : Bp → α) (n : Nat) (v : α) : Prop where
  canon : s.canonical
  eq : g (s.bp n) = v

/-- Update the channelizer of band path `n`. -/
def State.updChz (s : State) (n : Nat) (y : Chz → Chz) : State := s.updBp n fun x => { x with chz := y x.chz }

theorem updChz_keeps (s : State) (n : Nat) (y : Chz → Chz) : State.keeps (writes [] [.bps]) s (s.updChz n y) :=
  updBp_keeps ..

section
variable {s t : State} {m n : Nat} {α : Type} {g : Bp → α} {v : α}

theorem State.canonical.bpShows (hs : s.canonical) (g : Bp → α) (n : Nat) : s.bpShows g n (g (s.bp n)) := ⟨hs, rfl⟩

/-- An operation that writes no band path leaves what the record of each shows. -/
theorem State.keeps.bpShows (k : State.keeps m s t) (h : s.bpShows g n v)
    (hm : partIn m .bps = false := by decide +kernel) : t.bpShows g n v :=
  ⟨k.canon h.canon, by rw [k.bp hm, h.eq]⟩

/-- The channelizer of a band path after an update of it. -/
theorem State.bpShows.updChz {c : Chz} (h : s.bpShows Bp.chz n c) (y : Chz → Chz) : (s.updChz n y).bpShows Bp.chz n (y c) where
  canon := (updChz_keeps s n y).canon h.canon
  eq := by rw [State.updChz, h.canon.bp_updBp, if_pos rfl, h.eq]

end

/-! ### Accesses of a policy core (R382) -/

/-- What an access of a core counts is all it leaves beside its own effect. -/
theorem State.remote_eq_put_cnt (s : State) (q : Nat) : ∃ c, s.remote q = { s with cnt := c } := by
  unfold State.remote
  split
  · exact ⟨_, rfl⟩
  · exact ⟨s.cnt, rfl⟩

/-- A core's write acts on a state that differs from the present one at most in its counts. -/
theorem State.canonical.via_core {s : State} (hs : s.canonical) (q : Sys2Proof.CoreIx) (act : State → State) :
    ∃ c, ({ s with cnt := c } : State).canonical ∧ s.via (.core q) act = act { s with cnt := c } := by
  obtain ⟨c, hc⟩ := s.remote_eq_put_cnt q
  exact ⟨c, { hs with }, congrArg act hc⟩

section
variable {s : State} {n : Nat}

/-! ### The active bank (R121) -/

theorem setBank_reads_active (hs : s.canonical) (n b : Nat) :
    (s.setBank n b).reads .CHZ_BANK_STATUS_ACTIVE n (b % 2 ^ Field.CHZ_BANK_STATUS_ACTIVE.row.width) :=
  (refreshSrcGd_keeps ..).reads hs.reads_wr_mod

/-! ### The synchronising reset (R115, R116) -/

/-- A chain that runs accepts a synchronising reset, unless the source is a lane. -/
theorem writeSync_of_running (hon : (s.bp n).chz.on = true) (hsrc : s.rd .CHZ_CHAIN_BYPASS n = 0) :
    s.writeSync n = s.requestSync n :=
  if_neg (by simp [State.is, hsrc, hon])

theorem requestSync_syncAt (hs : s.canonical) (n : Nat) :
    ((s.requestSync n).bp n).chz.syncAt = some (s.chooseSync (s.bp n).decl.span) := by
  rw [State.requestSync, hs.bp_updBp, if_pos rfl]

/-- The channelizer as it restarts at T_sync = m × P. -/
def Chz.restarted (c : Chz) (span m : Nat) : Chz :=
  { c with
    on := true, grid := m, syncAt := none, off := c.syncOff, g := 0, fade := none, swap := none, bad := []
    next := firstSample ((m * periodK : Nat) - c.syncOff * span) span
    chain := { hb := List.replicate (chainD span) [] } }

/-- The bank that T_sync makes active: that of a pending swap, else the one faded to, else the active one. -/
def State.settledBank (s : State) (n : Nat) : Nat :=
  let c := (s.bp n).chz
  (c.swap.map Swap.bank).getD ((c.fade.map Fade.dst).getD (s.rd .CHZ_BANK_STATUS_ACTIVE n))

theorem syncReset_of_accepted {m : Nat} (h : (s.bp n).chz.syncAt = some m) :
    s.syncReset n = (((s.updChz n (Chz.restarted · (s.bp n).decl.span m)).clr .CHZ_BANK_STATUS_FADING n).clr
      .CHZ_BANK_STATUS_PENDING n).setBank n (s.settledBank n) := by
  unfold State.syncReset State.settledBank
  dsimp only
  rw [h]
  cases (s.bp n).chz.swap with
  | some w => rfl
  | none => cases (s.bp n).chz.fade <;> rfl

/-- At T_sync the chain restarts, no fade runs and no swap is pending, and the settled bank is active. -/
theorem syncReset_spec (hs : s.canonical) {m : Nat} (h : (s.bp n).chz.syncAt = some m) :
    let t := s.syncReset n
    (t.bp n).chz = (s.bp n).chz.restarted (s.bp n).decl.span m ∧
    t.rd .CHZ_BANK_STATUS_ACTIVE n = s.settledBank n % 2 ^ Field.CHZ_BANK_STATUS_ACTIVE.row.width ∧
    t.rd .CHZ_BANK_STATUS_FADING n = 0 ∧ t.rd .CHZ_BANK_STATUS_PENDING n = 0 := by
  have hchz := (hs.bpShows Bp.chz n).updChz (Chz.restarted · (s.bp n).decl.span m)
  have hfading := hchz.canon.reads_wr (f := .CHZ_BANK_STATUS_FADING) (i := n) (v := 0)
  have hpend := hfading.canon.reads_wr (f := .CHZ_BANK_STATUS_PENDING) (i := n) (v := 0)
  rw [syncReset_of_accepted h]
  exact ⟨((setBank_keeps ..).bpShows <| (clr_keeps ..).bpShows <| (clr_keeps ..).bpShows hchz).eq,
    (setBank_reads_active hpend.canon ..).eq, ((setBank_keeps ..).reads <| (clr_keeps ..).reads hfading).eq,
    ((setBank_keeps ..).reads hpend).eq⟩

/-! ### Requests of a swap (R121 to R123) -/

/-- A write of SWAP acts as the request on a state whose staged bank and fade are the ones written. -/
theorem execChzSwap_eq (hs : s.canonical) (q : Sys2Proof.CoreIx) (bank : Fin 4) (fade : Fin 16) :
    ∃ u, State.keeps (writes [.CHZ_CTRL_REQ_BANK, .CHZ_CTRL_FADE] [.cnt]) s u ∧
      execChzSwap q bank fade s = .next (u.requestSwap (s.rd .CHZ_SEL_N q) bank fade) := by
  obtain ⟨c, -, hc⟩ := hs.via_core q fun t =>
    ((t.wr .CHZ_CTRL_REQ_BANK (t.chzSel q) bank).wr .CHZ_CTRL_FADE (t.chzSel q) fade).requestSwap (t.chzSel q) bank fade
  refine ⟨_, ?_, congrArg Host.Outcome.next hc⟩
  refine State.keeps.wr ?_ (by decide +kernel)
  refine State.keeps.wr ?_ (by decide +kernel)
  exact State.keeps.refl.put_cnt c (by decide +kernel)

/-- A swap to bank 3 is refused while no check has passed it. -/
theorem requestSwap_of_unchecked (h : s.rd .CHZ_BANK_STATUS_OK3 n = 0) (fade : Nat) :
    s.requestSwap n 3 fade = s.set1 .CHZ_BANK_STATUS_SWAP_REFUSED n :=
  if_pos (Or.inr (Or.inl (by simp [State.is, h])))

section
variable {b : Nat} (hsrc : s.rd .CHZ_CHAIN_BYPASS n = 0) (hb : b < 2)
include hsrc hb

/-- No swap of a receive-window source to a factory bank is refused (R123). -/
theorem factorySwap_allowed (userOk : Bool) (c : Prop) :
    ¬(s.is .CHZ_CHAIN_BYPASS n = true ∨ (decide (b < 2) || userOk) = false ∨ 2 ≤ b ∧ c) := by
  simp [State.is, hsrc, hb]

/-- In OFF the bank is active at once, and a pending swap is cancelled. -/
theorem requestSwap_of_off (hoff : s.rd .BP_STATUS_STATE n = 0) (fade : Nat) :
    s.requestSwap n b fade = ((s.updChz n ({ · with swap := none })).clr .CHZ_BANK_STATUS_PENDING n).setBank n b :=
  (if_neg (factorySwap_allowed hsrc hb _ _)).trans (if_pos hoff)

/-- Outside OFF the swap becomes pending, after a pending one that it replaces has been counted. -/
theorem requestSwap_of_on (hon : s.rd .BP_STATUS_STATE n ≠ 0) (fade : Nat) :
    ∃ (u : State) (w : Swap), State.keeps (writes [.CHZ_BANK_STATUS_LOST_SWAP] []) s u ∧ w.grains = fade + 1 ∧
      s.requestSwap n b fade = ((u.updChz n ({ · with swap := some w })).set1 .CHZ_BANK_STATUS_PENDING n).wr
        .CHZ_BANK_STATUS_PEND_BANK n b :=
  ⟨_, _, State.keeps.ite (fun _ => bump_keeps ..) fun _ => State.keeps.refl, rfl,
    (if_neg (factorySwap_allowed hsrc hb _ _)).trans (if_neg hon)⟩

theorem requestSwap_off_spec (hs : s.canonical) (hoff : s.rd .BP_STATUS_STATE n = 0) (fade : Nat) :
    (s.requestSwap n b fade).rd .CHZ_BANK_STATUS_ACTIVE n = b ∧ (s.requestSwap n b fade).rd .CHZ_BANK_STATUS_PENDING n = 0 := by
  have hpend := ((updChz_keeps s n ({ · with swap := none })).canon hs).reads_wr
    (f := .CHZ_BANK_STATUS_PENDING) (i := n) (v := 0)
  have hfits : b % 2 ^ Field.CHZ_BANK_STATUS_ACTIVE.row.width = b := Nat.mod_eq_of_lt (hb.trans (by decide +kernel))
  rw [requestSwap_of_off hsrc hb hoff]
  exact ⟨(setBank_reads_active hpend.canon ..).eq.trans hfits, ((setBank_keeps ..).reads hpend).eq⟩

theorem requestSwap_on_spec (hs : s.canonical) (hon : s.rd .BP_STATUS_STATE n ≠ 0) (fade : Nat) :
    let t := s.requestSwap n b fade
    t.rd .CHZ_BANK_STATUS_PENDING n = 1 ∧ t.rd .CHZ_BANK_STATUS_PEND_BANK n = b ∧
    (t.bp n).chz.swap.map Swap.grains = some (fade + 1) ∧
    t.rd .CHZ_BANK_STATUS_ACTIVE n = s.rd .CHZ_BANK_STATUS_ACTIVE n := by
  obtain ⟨u, w, hu, hw, ht⟩ := requestSwap_of_on hsrc hb hon fade
  have hchz := ((hu.canon hs).bpShows Bp.chz n).updChz ({ · with swap := some w })
  have hpend := hchz.canon.reads_wr (f := .CHZ_BANK_STATUS_PENDING) (i := n) (v := 1)
  rw [ht]
  refine ⟨((wr_keeps ..).reads hpend).eq, (hpend.canon.reads_wr (hv := hb.trans (by decide +kernel))).eq, ?_,
    ((wr_keeps ..).reads <| (set1_keeps ..).reads <| (updChz_keeps ..).reads <| hu.reads (hs.reads ..)).eq⟩
  rw [((wr_keeps ..).bpShows <| (set1_keeps ..).bpShows hchz).eq, ← hw]
  rfl

end

/-! ### The beginning and the end of a fade (R121, R122) -/

/-- The fade that a swap begins now. -/
def State.fadeOf (s : State) (n : Nat) (w : Swap) : Fade :=
  ⟨s.rd .CHZ_BANK_STATUS_ACTIVE n, w.bank, (s.bp n).chz.g, w.grains⟩

section
variable {w : Swap} (hfade : (s.bp n).chz.fade = none) (hswap : (s.bp n).chz.swap = some w) (hdue : w.earliest = none)
  (hon : (s.bp n).chz.on = true) (hbank : w.bank ≠ s.rd .CHZ_BANK_STATUS_ACTIVE n)
include hfade hswap hdue hon hbank

/-- A swap that waits for no instant begins to fade, unless its bank is active already. -/
theorem fadeStart_of_due :
    s.fadeStart n = (((s.updChz n ({ · with swap := none })).clr .CHZ_BANK_STATUS_PENDING n).updChz n
      ({ · with fade := some (s.fadeOf n w) })).set1 .CHZ_BANK_STATUS_FADING n := by
  unfold State.fadeStart
  dsimp only
  rw [hfade, hswap]
  dsimp only
  rw [hdue, hon]
  exact (if_neg Bool.false_ne_true).trans (if_neg hbank)

theorem fadeStart_spec (hs : s.canonical) :
    let t := s.fadeStart n
    (t.bp n).chz = { (s.bp n).chz with swap := none, fade := some (s.fadeOf n w) } ∧
    t.rd .CHZ_BANK_STATUS_FADING n = 1 ∧ t.rd .CHZ_BANK_STATUS_PENDING n = 0 := by
  have hnone := (hs.bpShows Bp.chz n).updChz ({ · with swap := none })
  have hpend := hnone.canon.reads_wr (f := .CHZ_BANK_STATUS_PENDING) (i := n) (v := 0)
  have hchz := ((clr_keeps _ .CHZ_BANK_STATUS_PENDING n).bpShows hnone).updChz ({ · with fade := some (s.fadeOf n w) })
  rw [fadeStart_of_due hfade hswap hdue hon hbank]
  exact ⟨((set1_keeps ..).bpShows hchz).eq, hchz.canon.reads_wr.eq,
    ((set1_keeps ..).reads <| (updChz_keeps ..).reads hpend).eq⟩

end

section
variable {f : Fade} (hfade : (s.bp n).chz.fade = some f) (hon : (s.bp n).chz.on = true)
  (hg : (s.bp n).chz.g = f.start + f.grains)
include hfade hon hg

theorem fadeEnd_of_complete :
    s.fadeEnd n = ((s.updChz n ({ · with fade := none })).clr .CHZ_BANK_STATUS_FADING n).setBank n f.dst := by
  unfold State.fadeEnd
  dsimp only
  rw [hfade]
  exact if_pos ⟨hon, hg⟩

theorem fadeEnd_spec (hs : s.canonical) :
    let t := s.fadeEnd n
    (t.bp n).chz.fade = none ∧ t.rd .CHZ_BANK_STATUS_FADING n = 0 ∧
    t.rd .CHZ_BANK_STATUS_ACTIVE n = f.dst % 2 ^ Field.CHZ_BANK_STATUS_ACTIVE.row.width := by
  have hchz := (hs.bpShows Bp.chz n).updChz ({ · with fade := none })
  have hfading := hchz.canon.reads_wr (f := .CHZ_BANK_STATUS_FADING) (i := n) (v := 0)
  rw [fadeEnd_of_complete hfade hon hg]
  exact ⟨congrArg Chz.fade ((setBank_keeps ..).bpShows <| (clr_keeps ..).bpShows hchz).eq,
    ((setBank_keeps ..).reads hfading).eq, (setBank_reads_active hfading.canon ..).eq⟩

end

end

/-- Settles O23: each command acts as a reset, a request, or an end of a fade, whose effect its lemma gives. -/
theorem channelizerSyncAndFades : Obligations.ChannelizerSyncAndFades := by
  unfold Obligations.ChannelizerSyncAndFades
  refine ⟨fun s q hs hon hsrc => ?_, fun s n m hs hm hswap hfade => ⟨_, rfl, ?_⟩, fun s n m w hs hm hswap => ⟨_, rfl, ?_⟩,
    fun s q bank fade hs hsrc hb hst => ?_, fun s q fade hs hok => ?_, fun s q fade hs hsrc hoff => ?_,
    fun s n w hs hfade hswap hdue hon hbank => ⟨_, rfl, ?_⟩,
    fun s n f hs hfade hon hg => ⟨_, rfl, fadeEnd_spec hfade hon hg hs⟩⟩
  · obtain ⟨c, hc, ht⟩ := hs.via_core q fun t => t.writeSync (t.chzSel q)
    exact ⟨_, congrArg Host.Outcome.next (ht.trans (writeSync_of_running hon hsrc)), requestSync_syncAt hc _, rfl⟩
  · obtain ⟨hchz, hactive, hfading, hpend⟩ := syncReset_spec hs hm
    have hkept : s.settledBank n = s.rd .CHZ_BANK_STATUS_ACTIVE n := by simp [State.settledBank, hswap, hfade]
    rw [hkept, Nat.mod_eq_of_lt (State.rd_lt hs ..)] at hactive
    rw [hchz]
    exact ⟨rfl, rfl, rfl, rfl, rfl, rfl, hactive, hfading, hpend⟩
  · obtain ⟨hchz, hactive, -, hpend⟩ := syncReset_spec hs hm
    have hnew : s.settledBank n = w.bank := by simp [State.settledBank, hswap]
    rw [hnew] at hactive
    rw [hchz]
    exact ⟨rfl, hactive, hpend⟩
  · obtain ⟨u, hu, ht⟩ := execChzSwap_eq hs q bank fade
    obtain ⟨hpend, hbank, hgrains, hactive⟩ := requestSwap_on_spec (hu.reads ⟨hs, hsrc⟩).eq hb (hu.canon hs)
      ((hu.reads (hs.reads ..)).eq.trans_ne hst) fade
    exact ⟨_, ht, hpend, hbank, hgrains, hactive.trans (hu.reads (hs.reads ..)).eq⟩
  · obtain ⟨u, hu, ht⟩ := execChzSwap_eq hs q 3 fade
    have hbps : u.bps = s.bps := hu.parts .bps (by decide +kernel)
    exact ⟨_, ht.trans (congrArg Host.Outcome.next (requestSwap_of_unchecked (hu.reads ⟨hs, hok⟩).eq _)),
      (hu.canon hs).reads_wr.eq, (State.wr_bps ..).trans hbps⟩
  · obtain ⟨u, hu, ht⟩ := execChzSwap_eq hs q 1 fade
    exact ⟨_, ht, requestSwap_off_spec (hu.reads ⟨hs, hsrc⟩).eq (by decide) (hu.canon hs) (hu.reads ⟨hs, hoff⟩).eq _⟩
  · obtain ⟨hchz, hfading, hpend⟩ := fadeStart_spec hfade hswap hdue hon hbank hs
    rw [hchz]
    exact ⟨rfl, rfl, hfading, hpend⟩

end Sys2Proof.Machine
end

section
/-!
SUPPORT. The user banks of a channelizer (04_channelizer.md R119, R120): their checks, and accesses to their coefficients.
-/

namespace Sys2Proof.Machine

section
variable {s : State} {n : Nat}

/-! ### Checks (R119) -/

/-- A check of a bank that may be written runs. -/
theorem writeCheck_of_free {b : Bool} (h : s.bankFree n (if b then 3 else 2) = true) :
    s.writeCheck n b = ((s.wrB .CHZ_CTRL_CHK_BANK n b).set1 .CHZ_BANK_STATUS_CHECKING n).updChz n ({ · with checks3 := b }) :=
  if_pos h

theorem writeCheck_spec (hs : s.canonical) {b : Bool} (h : s.bankFree n (if b then 3 else 2) = true) :
    let t := s.writeCheck n b
    t.rd .CHZ_BANK_STATUS_CHECKING n = 1 ∧ t.rd .CHZ_CTRL_CHK_BANK n = flag b ∧ (t.bp n).chz.checks3 = b := by
  have hbank : (s.wrB .CHZ_CTRL_CHK_BANK n b).reads .CHZ_CTRL_CHK_BANK n (flag b) := hs.reads_wrB
  have hchecking := hbank.canon.reads_wr (f := .CHZ_BANK_STATUS_CHECKING) (i := n) (v := 1)
  rw [writeCheck_of_free h]
  exact ⟨((updChz_keeps ..).reads hchecking).eq, ((updChz_keeps ..).reads <| (set1_keeps ..).reads hbank).eq,
    congrArg Chz.checks3 ((hchecking.canon.bpShows Bp.chz n).updChz _).eq⟩

/-- A check that runs on bank 2 ends with the outcome of that bank. -/
theorem execChzCheckDone_of_two {n : Sys2Proof.BpIx} (h : s.rd .CHZ_BANK_STATUS_CHECKING n = 1)
    (hb : (s.bp n).chz.checks3 = false) :
    execChzCheckDone n s = .next ((s.clr .CHZ_BANK_STATUS_CHECKING n).bankChecked n 2) := by
  simp [execChzCheckDone, State.is, h, hb]

/-- Whether a user bank passes is a matter of the record of its band path alone. -/
theorem bankPasses_two_congr {t : State} (h : t.bp n = s.bp n) : t.bankPasses n 2 = s.bankPasses n 2 := by
  have hcoef : t.coef n 2 = s.coef n 2 := funext fun k => by simp only [State.coef, h]
  unfold State.bankPasses State.bankSum State.bankMoment
  rw [hcoef]

/-- The outcome for bank 2 is written into OK2 and its group delay. -/
theorem bankChecked_two (s : State) (n : Nat) :
    ∃ gd, s.bankChecked n 2 = (s.wrB .CHZ_BANK_STATUS_OK2 n (s.bankPasses n 2)).wr .CHZ_BANK_GD_GD2 n gd := by
  unfold State.bankChecked
  exact ⟨_, if_neg (show ¬2 = 3 by decide)⟩

/-! ### Coefficients (R120) -/

/-- A coefficient written into bank 2 while that may be written is stored, and the bank counts as unchecked. -/
theorem writeCoef_two_of_free {k : Nat} (hk : k ≤ 190) (h : s.bankFree n 2 = true) (v : Nat) :
    s.writeCoef n 2 k v = (s.updChz n fun c => { c with bank2 := Store.set (fun _ => 0) c.bank2 k (v % 2 ^ 18) }).clr
      .CHZ_BANK_STATUS_OK2 n :=
  if_pos ⟨hk, h⟩

theorem writeCoef_of_not_free {b : Nat} (h : s.bankFree n b = false) (k v : Nat) :
    s.writeCoef n b k v = s.set1 .CHZ_BANK_STATUS_WR_REFUSED n :=
  if_neg (by simp [h])

theorem writeCoef_two_spec (hs : s.canonical) {k : Nat} (hk : k ≤ 190) (h : s.bankFree n 2 = true)
    (hwf : Store.wf (fun _ => 0) (s.bp n).chz.bank2 = true) (v : Nat) :
    (s.writeCoef n 2 k v).bpShows (fun x => Store.get (fun _ => 0) x.chz.bank2 k) n (v % 2 ^ 18) ∧
    (s.writeCoef n 2 k v).reads .CHZ_BANK_STATUS_OK2 n 0 := by
  have hchz := (hs.bpShows Bp.chz n).updChz fun c => { c with bank2 := Store.set (fun _ => 0) c.bank2 k (v % 2 ^ 18) }
  rw [writeCoef_two_of_free hk h]
  refine ⟨(clr_keeps ..).bpShows ⟨hchz.canon, ?_⟩, hchz.canon.reads_wr⟩
  rw [hchz.eq]
  exact Store.get_set_self hwf ..

/-- TAP goes on by AUTO_INC, modulo its width (Table 61). -/
theorem advanceTap_tap (hs : s.canonical) (q : Nat) : (s.advanceTap q).rd .CHZ_COEF_ADDR_TAP q =
    (s.rd .CHZ_COEF_ADDR_TAP q + s.rd .CHZ_COEF_ADDR_AUTO_INC q) % 256 := by
  have htap : s.rd .CHZ_COEF_ADDR_TAP q < 256 := State.rd_lt hs ..
  have hinc : s.rd .CHZ_COEF_ADDR_AUTO_INC q < 2 := State.rd_lt hs ..
  unfold State.advanceTap State.is
  split
  case isTrue h =>
    have hne : s.rd .CHZ_COEF_ADDR_AUTO_INC q ≠ 0 := by simpa using h
    have hone : s.rd .CHZ_COEF_ADDR_AUTO_INC q = 1 := by omega
    rw [hone]
    exact hs.reads_wr_mod.eq
  case isFalse h =>
    have hzero : s.rd .CHZ_COEF_ADDR_AUTO_INC q = 0 := by simpa using h
    rw [hzero, Nat.add_zero, Nat.mod_eq_of_lt htap]

section
variable {q : Nat}

/-- A coefficient written into bank 2 reads back, and the bank counts as unchecked. -/
theorem writeCoefData_two_spec (hs : s.canonical) (hb : s.rd .CHZ_COEF_ADDR_BANK q = 2)
    (hk : s.rd .CHZ_COEF_ADDR_TAP q ≤ 190) (hf : s.bankFree (s.rd .CHZ_SEL_N q) 2 = true)
    (hwf : Store.wf (fun _ => 0) (s.bp (s.rd .CHZ_SEL_N q)).chz.bank2 = true) (w : Nat) :
    (s.writeCoefData q w).coef (s.rd .CHZ_SEL_N q) 2 (s.rd .CHZ_COEF_ADDR_TAP q) = w % 2 ^ 18 ∧
    (s.writeCoefData q w).rd .CHZ_BANK_STATUS_OK2 (s.rd .CHZ_SEL_N q) = 0 := by
  obtain ⟨hcoef, hok⟩ := writeCoef_two_spec hs hk hf hwf w
  unfold State.writeCoefData State.chzSel
  rw [hb]
  exact ⟨((advanceTap_keeps ..).bpShows hcoef).eq, ((advanceTap_keeps ..).reads hok).eq⟩

/-- A coefficient written into a bank that is not free is refused. -/
theorem writeCoefData_of_not_free (hs : s.canonical)
    (hf : s.bankFree (s.rd .CHZ_SEL_N q) (s.rd .CHZ_COEF_ADDR_BANK q) = false) (w : Nat) :
    (s.writeCoefData q w).rd .CHZ_BANK_STATUS_WR_REFUSED (s.rd .CHZ_SEL_N q) = 1 ∧ (s.writeCoefData q w).bps = s.bps := by
  have hbps := (advanceTap_keeps (s.set1 .CHZ_BANK_STATUS_WR_REFUSED (s.rd .CHZ_SEL_N q)) q).parts .bps (by decide +kernel)
  unfold State.writeCoefData State.chzSel
  rw [writeCoef_of_not_free hf]
  exact ⟨((advanceTap_keeps ..).reads hs.reads_wr).eq, hbps.trans (State.wr_bps ..)⟩

/-- What a requester reads stays while TAP advances. -/
theorem setReader_advanceTap_spec (hs : s.canonical) (x : Reader) :
    let t := (s.setReader q x).advanceTap q
    t.reader q = x ∧
    t.rd .CHZ_COEF_ADDR_TAP q = (s.rd .CHZ_COEF_ADDR_TAP q + s.rd .CHZ_COEF_ADDR_AUTO_INC q) % 256 := by
  have hreaders := (advanceTap_keeps (s.setReader q x) q).parts .readers (by decide +kernel)
  have hread : (s.setReader q x).reader q = x := (State.reader_setReader hs.readers ..).trans (if_pos rfl)
  exact ⟨(congrArg (Store.get _ · q) hreaders).trans hread, advanceTap_tap ((setReader_keeps ..).canon hs) q⟩

end

end

/-- Settles O24: each command checks a bank or accesses a coefficient, as the lemmas on those say. -/
theorem userBanks : Obligations.UserBanks := by
  unfold Obligations.UserBanks
  refine ⟨fun s q b hs hf => ?_, fun s n hs h hb => ⟨_, execChzCheckDone_of_two h hb, ?_⟩,
    fun s q w hs hb hk hf hwf => ?_, fun s q w hs hf => ?_, fun s q hs => ?_⟩
  · obtain ⟨c, hc, ht⟩ := hs.via_core q fun t => t.writeCheck (t.chzSel q) b
    exact ⟨_, congrArg Host.Outcome.next ht, writeCheck_spec hc hf⟩
  · have hidle : (s.clr .CHZ_BANK_STATUS_CHECKING n).reads .CHZ_BANK_STATUS_CHECKING n 0 := hs.reads_wr
    have hpass : (s.clr .CHZ_BANK_STATUS_CHECKING n).bankPasses n 2 = s.bankPasses n 2 :=
      bankPasses_two_congr (State.wr_bp ..)
    obtain ⟨gd, hgd⟩ := bankChecked_two (s.clr .CHZ_BANK_STATUS_CHECKING n) n
    rw [hgd, hpass]
    exact ⟨((wr_keeps ..).reads <| (wrB_keeps ..).reads hidle).eq, ((wr_keeps ..).reads hidle.canon.reads_wrB).eq,
      ((wr_keeps ..).reads <| (wrB_keeps ..).reads <| (clr_keeps ..).reads (hs.reads ..)).eq⟩
  · obtain ⟨c, hc, ht⟩ := hs.via_core q fun t => t.writeCoefData q w.toNat
    exact ⟨_, congrArg Host.Outcome.next ht, writeCoefData_two_spec hc hb hk hf hwf w.toNat⟩
  · obtain ⟨c, hc, ht⟩ := hs.via_core q fun t => t.writeCoefData q w.toNat
    exact ⟨_, congrArg Host.Outcome.next ht, writeCoefData_of_not_free hc hf w.toNat⟩
  · obtain ⟨c, hc, ht⟩ := hs.via_core q fun t =>
      (t.setReader q { t.reader q with data := BitVec.ofNat 32 (t.coefWord q) }).advanceTap q
    obtain ⟨hread, htap⟩ := setReader_advanceTap_spec (q := q) hc
      { s.reader q with data := BitVec.ofNat 32 (s.coefWord q) }
    exact ⟨_, congrArg Host.Outcome.next ht, congrArg Reader.data hread, htap⟩

end Sys2Proof.Machine
end

section
/-!
SUPPORT. The step of the block (R125, R294): a command in front of the queue is run, and while none waits a cycle of the
clock passes, which moves Plumb time and the tallies and no register.
-/

namespace Sys2Proof.Machine

/-! ### Operations over a list of indices -/

section
variable {α : Type} {f : α → State → State} {xs : List α} {s : State} {P Q : State → Prop}

/-- What holds at first and is kept at each index holds at the end. -/
theorem State.forEach_invariant (h : P s) (hf : ∀ x t, P t → P (f x t)) : P (State.forEach f xs s) :=
  List.foldlRecOn xs (motive := P) (fun t x => f x t) h fun t ht x _ => hf x t ht

/-- What one listed index brings about holds at the end, if the indices before it keep its condition and those after it
keep the effect. -/
theorem State.forEach_effect {x : α} (hx : x ∈ xs) (h : P s) (hP : ∀ y t, P t → P (f y t))
    (hPQ : ∀ t, P t → Q (f x t)) (hQ : ∀ y t, Q t → Q (f y t)) : Q (State.forEach f xs s) := by
  obtain ⟨before, after, rfl⟩ := List.append_of_mem hx
  rw [State.forEach, List.foldl_append, List.foldl_cons]
  exact State.forEach_invariant (hPQ _ (State.forEach_invariant h hP)) hQ

end

/-! ### Cycles of the clock touch no register -/

section
variable {s : State}

@[simp] theorem State.tallyMask_regs (group event unit k mask : Nat) :
    (s.tallyMask group event unit k mask).regs = s.regs := rfl

@[simp] theorem State.tally_regs (group event unit k cls : Nat) : (s.tally group event unit k cls).regs = s.regs := rfl

@[simp] theorem State.dispatch_regs (q n : Nat) : (s.dispatch q n).regs = s.regs := by
  unfold State.dispatch
  extract_lets
  split
  · rfl
  · split <;> rfl

@[simp] theorem State.issueCycles_regs (q n : Nat) : (s.issueCycles q n).regs = s.regs := by
  unfold State.issueCycles
  extract_lets a xs issued squashed s1
  have h1 : s1.regs = s.regs :=
    List.foldlRecOn _ (motive := fun t : State => t.regs = s.regs) _ (State.tally_regs ..) fun _ ht _ _ => ht
  split
  · rfl
  · simp only [State.dispatch_regs, State.tally_regs, h1]

theorem State.memoryCycles_regs (k : Nat) : (s.memoryCycles k).regs = s.regs := by
  refine State.forEach_invariant (P := fun t => t.regs = s.regs) rfl fun m t ht => ?_
  split
  · exact ht
  · exact ht

theorem State.fieldCycles_regs (n : Nat) : (s.fieldCycles n).regs = s.regs := by
  refine State.forEach_invariant (P := fun t => t.regs = s.regs) ?_ fun l t ht => ?_
  · exact State.forEach_invariant (P := fun t => t.regs = s.regs) rfl fun q t ht => (State.issueCycles_regs q n).trans ht
  · split
    · exact ht
    · exact ht

theorem State.keepAlive_regs (k : Nat) : (s.keepAlive k).regs = s.regs := by
  unfold State.keepAlive
  extract_lets s1
  have h1 : s1.regs = s.regs := by
    unfold s1
    split <;> rfl
  split
  · rfl
  · split
    · exact h1
    · exact h1

theorem State.passCycles_regs (k : Nat) : (s.passCycles k).regs = s.regs := by
  unfold State.passCycles
  rw [State.keepAlive_regs, State.fieldCycles_regs, State.memoryCycles_regs]

/-- An idle cycle changes no register. -/
theorem State.idle_regs : s.idle.regs = s.regs := by
  unfold State.idle
  extract_lets s1
  have h1 : s1.regs = s.regs := by
    unfold s1
    split
    · exact State.passCycles_regs 1
    · rfl
  split
  · rfl
  · exact h1

/-- An idle cycle advances the clock by one cycle, or waits for the tick boundary (log entry 3). -/
theorem State.idle_clock : s.idle = s ∨ s.idle.clk.cycle = s.clk.cycle + 1 := by
  unfold State.idle
  split
  · exact Or.inl rfl
  · exact Or.inr rfl

/-- With an empty queue a step is an idle cycle. -/
theorem step_of_empty (h : s.pending = []) : step s = .next s.idle := by
  unfold step
  rw [h]

end

/-- Settles O1: a step is by definition the command in front, or an idle cycle, which writes Plumb time, tallies and the
clock. -/
theorem stepRunsFront : Obligations.StepRunsFront := by
  unfold Obligations.StepRunsFront
  refine ⟨fun c rest s => rfl, fun s h => ⟨s.idle, step_of_empty h, State.idle_regs, ?_, ?_, State.idle_clock⟩⟩
  · exact (idle_keeps s).parts .hard (by decide +kernel)
  · have hp : s.idle.pending = s.pending := (idle_keeps s).parts .pending (by decide +kernel)
    exact hp.trans h

end Sys2Proof.Machine
end

section
/-!
SUPPORT. The min-select of the loop engine (05_gain_loops.md R133, R135): bounds of the gain that a tick computes.
-/

namespace Sys2Proof.Machine

/-- Rounding to steps keeps a bound of whole steps. -/
theorem toSteps_le {u k : Int} (h : u ≤ unit * k) : toSteps u ≤ k := by
  unfold unit at h
  unfold toSteps roundDiv
  split <;> omega

/-- The lower saturation of the min-select keeps a bound that is a gain. -/
theorem toSteps_max_le {u k : Int} (hk : -32768 ≤ k) (h : u ≤ unit * k) : toSteps (max (-32768 * 256) u) ≤ k := by
  refine toSteps_le (max_le ?_ h)
  unfold unit
  omega

/-- A 16-bit number is not below the lowest gain there is. -/
theorem le_signed16 (v : Nat) : -32768 ≤ signed 16 v := by
  unfold signed
  split <;> omega

section
variable {s : State} {n : Nat}

/-- A tick of the cold start leaves the gain. -/
theorem State.coldStep_g (e : Loops) : (s.coldStep n e).g = e.g := by
  unfold State.coldStep
  extract_lets done top ramp
  split
  · rfl
  · split <;> rfl

/-- The gain of a tick is a value below the ceilings, and in WAIT at most −60 dB, limited to the rise of one tick and
to the lowest gain there is (R133). -/
theorem State.computeLoops_g : ∃ u : Int,
    (s.computeLoops n).g = toSteps (max (-32768 * 256) (min u (unit * (s.bp n).eng.now.g + s.gainSlew n))) ∧
    u ≤ s.hardCeil n ∧ u ≤ s.fwCeil n ∧ ((s.coldStep n (s.bp n).eng.now).cs = 1 → u ≤ minus60) := by
  unfold State.computeLoops
  extract_lets x e spMin spMax held r fixed eLev eStab eEmit eThm kp ki ks ke kth cLev cStab cEmit cThm ramp u0 u1 u w
  have h0 : u0 ≤ min (s.hardCeil n) (s.fwCeil n) := min_le_right _ _
  refine ⟨u1, ?_, ?_⟩
  · have he : e.g = (s.bp n).eng.now.g := State.coldStep_g _
    rw [← he]
  · have h1 : u1 ≤ min (s.hardCeil n) (s.fwCeil n) := by
      unfold u1
      split
      · exact min_le_right _ _
      · split
        · exact (min_le_left _ _).trans h0
        · exact h0
    refine ⟨h1.trans (min_le_left _ _), h1.trans (min_le_right _ _), fun hwait => ?_⟩
    unfold u1
    rw [if_pos hwait]
    exact min_le_left _ _

end

/-- Settles O27: the min-select lies below both ceilings, below −60 dB in WAIT and below the rise of one tick, and its
lower saturation is the lowest gain there is. -/
theorem gainBelowEveryCeiling : Obligations.GainBelowEveryCeiling := by
  unfold Obligations.GainBelowEveryCeiling
  intro s n
  obtain ⟨u, hg, hhard, hfw, hwait⟩ := State.computeLoops_g (s := s) (n := n)
  rw [hg]
  refine ⟨?_, ?_, fun hcs => ?_, ?_⟩
  · exact toSteps_max_le (le_signed16 _) ((min_le_left ..).trans hhard)
  · exact toSteps_max_le (le_signed16 _) ((min_le_left ..).trans hfw)
  · exact toSteps_max_le (by decide) ((min_le_left ..).trans (hwait hcs))
  · refine toSteps_max_le (le_max_left ..) ((min_le_right ..).trans ?_)
    unfold State.gainSlew unit
    omega

end Sys2Proof.Machine
end

section
/-!
SUPPORT. The clamps of firmware's ceiling and slew, and the set-point pins SETA and SETP (05_gain_loops.md R138, R143,
R144).
-/

namespace Sys2Proof.Machine

section
variable {s : State} {n : Nat}

/-! ### Status bits and counters -/

/-- A status bit that stands stays when the same bit is set, at whatever index. -/
theorem State.reads.set1 {f : Field} {i : Nat} (h : s.reads f i 1) (j : Nat) (hl : f.locked = false := by decide +kernel)
    (hw : 1 < 2 ^ f.row.width := by decide +kernel) : (s.set1 f j).reads f i 1 := by
  refine ⟨(set1_keeps ..).canon h.canon, ?_⟩
  rw [State.set1, State.rd_wr (goodRegs.wf h.canon.regs) hl]
  split
  · exact Nat.mod_eq_of_lt hw
  · exact h.eq

/-- A saturating counter that reads `v` counts on from it. -/
theorem State.reads.bump {f : Field} {i v : Nat} (h : s.reads f i v) (hl : f.locked = false := by decide +kernel) :
    (s.bump f i).reads f i (min (v + 1) (2 ^ f.row.width - 1)) :=
  h.eq ▸ h.canon.reads_bump hl

/-- The state of the pins is no register field. -/
theorem State.reads.put_pins {f : Field} {i v : Nat} (h : s.reads f i v) (x : Pins) :
    ({ s with pins := x } : State).reads f i v :=
  ⟨{ h.canon with }, h.eq⟩

/-! ### Firmware's ceiling and slew (R138) -/

theorem writeFwCeil_of_le (hs : s.canonical) (v : BitVec 16) (h : signed 16 v.toNat ≤ s.rdS .GCE_CEIL_HARD_CEIL n) :
    (s.writeFwCeil n v.toNat).rd .GCE_CEIL_FW_CEIL n = v.toNat ∧
    (s.writeFwCeil n v.toNat).rd .GCE_STAT_CEIL_CLAMP n = s.rd .GCE_STAT_CEIL_CLAMP n := by
  have hw : s.writeFwCeil n v.toNat = s.wr .GCE_CEIL_FW_CEIL n v.toNat := if_neg (not_lt.mpr h)
  rw [hw]
  exact ⟨(hs.reads_wr (hv := v.isLt)).eq, ((wr_keeps ..).reads (hs.reads ..)).eq⟩

theorem writeFwCeil_of_gt (hs : s.canonical) {v : Nat} (h : s.rdS .GCE_CEIL_HARD_CEIL n < signed 16 v) :
    (s.writeFwCeil n v).rd .GCE_CEIL_FW_CEIL n = s.rd .GCE_CEIL_HARD_CEIL n % 65536 ∧
    (s.writeFwCeil n v).rd .GCE_STAT_CEIL_CLAMP n = 1 := by
  have hw : s.writeFwCeil n v = (s.wr .GCE_CEIL_FW_CEIL n (s.rd .GCE_CEIL_HARD_CEIL n)).set1 .GCE_STAT_CEIL_CLAMP n :=
    if_pos h
  have hceil := hs.reads_wr_mod (f := .GCE_CEIL_FW_CEIL) (i := n) (v := s.rd .GCE_CEIL_HARD_CEIL n)
  rw [hw]
  exact ⟨((set1_keeps ..).reads hceil).eq, hceil.canon.reads_wr.eq⟩

theorem writeFwSlew_of_gt (hs : s.canonical) (v : BitVec 16) (h : s.rd .GCE_SLEW_SP_SLEW n < v.toNat) :
    (s.writeFwSlew n v.toNat).rd .GCE_SLEW_FW_SP_SLEW n = s.rd .GCE_SLEW_SP_SLEW n % 65536 ∧
    (s.writeFwSlew n v.toNat).rd .GCE_STAT_CEIL_CLAMP n = 1 := by
  have hw : s.writeFwSlew n v.toNat =
      (s.wr .GCE_SLEW_FW_SP_SLEW n (s.rd .GCE_SLEW_SP_SLEW n)).set1 .GCE_STAT_CEIL_CLAMP n :=
    if_pos ((Nat.mod_eq_of_lt v.isLt).symm ▸ h)
  have hslew := hs.reads_wr_mod (f := .GCE_SLEW_FW_SP_SLEW) (i := n) (v := s.rd .GCE_SLEW_SP_SLEW n)
  rw [hw]
  exact ⟨((set1_keeps ..).reads hslew).eq, hslew.canon.reads_wr.eq⟩

/-! ### A pin becomes invalid (R143, R144) -/

/-- A band path whose source is the pin shows that its source is invalid. -/
theorem srcInvalid_reads {src : Nat} (h : s.reads .GCE_MODE_SP_SRC n src) (hn : n < 128) :
    (s.srcInvalid src).reads .GCE_STAT_SRC_INV n 1 := by
  refine State.forEach_effect (P := (·.reads .GCE_MODE_SP_SRC n src)) (Q := (·.reads .GCE_STAT_SRC_INV n 1))
    (List.mem_range.mpr hn) h (fun m t ht => ?_) (fun t ht => ?_) fun m t ht => ?_
  · split
    · exact (set1_keeps ..).reads ht
    · exact ht
  · rw [if_pos ht.eq]
    exact ht.canon.reads_wr
  · split
    · exact ht.set1 m
    · exact ht

/-- SETA that was valid is not, and every band path that uses it shows that. -/
theorem setaFail_spec (hs : s.canonical) (hv : s.rd .GCE_SETA_VALID = 1) :
    s.setaFail.rd .GCE_SETA_VALID = 0 ∧
    ∀ n : Fin 128, s.rd .GCE_MODE_SP_SRC n ≠ 1 ∨ s.setaFail.rd .GCE_STAT_SRC_INV n = 1 := by
  have hfail : s.setaFail = (s.clr .GCE_SETA_VALID).srcInvalid 1 := if_pos (State.reads.mk hs hv).is
  have hclr : (s.clr .GCE_SETA_VALID).reads .GCE_SETA_VALID 0 0 := hs.reads_wr
  rw [hfail]
  refine ⟨((srcInvalid_keeps ..).reads hclr).eq, fun n => or_iff_not_imp_left.mpr fun hsrc => ?_⟩
  have hsrc : s.reads .GCE_MODE_SP_SRC n 1 := ⟨hs, not_ne_iff.mp hsrc⟩
  exact (srcInvalid_reads ((clr_keeps ..).reads hsrc) n.isLt).eq

/-- SETP, which was valid, is not any more: the event counts, and the band paths that use it show it. -/
def State.setpEnd (s : State) : State := ((s.clr .GCE_SETP_VALID).bump .GCE_SETP_CNT_INVALID_EVENTS).srcInvalid 2

theorem setpInvalid_of_valid (hs : s.canonical) (hv : s.rd .GCE_SETP_VALID = 1) (cause : Field) :
    s.setpInvalid cause = State.setpEnd { s.set1 cause with pins := { (s.set1 cause).pins with setpRun := 0 } } :=
  if_pos (State.reads.mk hs hv).is

theorem setpEnd_keeps (s : State) :
    State.keeps (writes [.GCE_SETP_VALID, .GCE_SETP_CNT_INVALID_EVENTS, .GCE_STAT_SRC_INV] []) s s.setpEnd := by
  unfold State.setpEnd
  refine State.keeps.step ?_ (srcInvalid_keeps ..) (by decide +kernel)
  refine State.keeps.step ?_ (bump_keeps ..) (by decide +kernel)
  exact (clr_keeps ..).mono (by decide +kernel)

theorem setpEnd_pins (s : State) : s.setpEnd.pins = s.pins :=
  (setpEnd_keeps s).parts .pins (partIn_writes List.not_mem_nil)

theorem setpEnd_reads_valid (hs : s.canonical) : s.setpEnd.reads .GCE_SETP_VALID 0 0 :=
  (srcInvalid_keeps ..).reads <| (bump_keeps ..).reads hs.reads_wr

theorem setpEnd_reads_count {v : Nat} (h : s.reads .GCE_SETP_CNT_INVALID_EVENTS 0 v) :
    s.setpEnd.reads .GCE_SETP_CNT_INVALID_EVENTS 0 (min (v + 1) (2 ^ Field.GCE_SETP_CNT_INVALID_EVENTS.row.width - 1)) :=
  (srcInvalid_keeps ..).reads ((clr_keeps ..).reads h).bump

/-- SETP that was valid is not: the cause shows, the run of good periods ends, and the event counts. -/
theorem setpInvalid_spec (hs : s.canonical) (hv : s.rd .GCE_SETP_VALID = 1) {cause : Field}
    (hl : cause.locked = false := by decide +kernel) (hw : 1 < 2 ^ cause.row.width := by decide +kernel)
    (hc : cause ∉ [Field.GCE_SETP_VALID, .GCE_SETP_CNT_INVALID_EVENTS, .GCE_STAT_SRC_INV] := by decide) :
    (s.setpInvalid cause).rd cause = 1 ∧ (s.setpInvalid cause).rd .GCE_SETP_VALID = 0 ∧
    (s.setpInvalid cause).pins.setpRun = 0 ∧
    (s.setpInvalid cause).rd .GCE_SETP_CNT_INVALID_EVENTS =
      min (s.rd .GCE_SETP_CNT_INVALID_EVENTS + 1) (2 ^ Field.GCE_SETP_CNT_INVALID_EVENTS.row.width - 1) := by
  have hne : Field.GCE_SETP_CNT_INVALID_EVENTS ≠ cause := by
    rintro rfl
    exact hc (by decide)
  have hset := (State.canonical.reads_wr hs (i := 0) hl hw).put_pins { (s.set1 cause).pins with setpRun := 0 }
  have hcount := (set1_keeps s cause 0).reads (hs.reads .GCE_SETP_CNT_INVALID_EVENTS 0)
    (inSet_writes (mt List.mem_singleton.mp hne))
  rw [setpInvalid_of_valid hs hv]
  exact ⟨((setpEnd_keeps ..).reads hset (inSet_writes hc)).eq, (setpEnd_reads_valid hset.canon).eq,
    by rw [setpEnd_pins], (setpEnd_reads_count (hcount.put_pins _)).eq⟩

/-! ### The periods of SETP (R144) -/

/-- A period inside the range after fifteen or more in a row adds its duty, and SETP is valid. -/
theorem execSetpPeriod_of_good (hs : s.canonical) {period : Nat} (high : Nat) (hlo : 400 ≤ period)
    (hhi : period ≤ 4000000) (hrun : 15 ≤ s.pins.setpRun) : ∃ u : State,
    execSetpPeriod period high s = .next (u.set1 .GCE_SETP_VALID) ∧
    u.reads .GCE_SETP_PER_PERIOD 0 (period % 2 ^ Field.GCE_SETP_PER_PERIOD.row.width) ∧
    u.pins.setpRun = 16 ∧ u.pins.setpSum = s.pins.setpSum + (roundDiv (high * 65536) period).toNat := by
  have hmin : min 16 (s.pins.setpRun + 1) = 16 := by omega
  unfold execSetpPeriod
  rw [if_neg (not_lt.mpr hlo), if_neg (not_lt.mpr hhi)]
  dsimp only
  rw [if_pos hmin]
  exact ⟨_, rfl, hs.reads_wr_mod.put_pins _, hmin, by rw [State.wr_pins]⟩

/-- A period that is too short makes SETP invalid. -/
theorem execSetpPeriod_of_short {period : Nat} (h : period < 400) (high : Nat) :
    execSetpPeriod period high s = .next (s.setpInvalid .GCE_SETP_FAST) :=
  congrArg Host.Outcome.next (if_pos h)

end

/-- Settles O26: firmware's writes act by the lemmas on the clamps, SETA ends by `setaFail_spec`, and SETP by
`setpInvalid_spec` with the cause of the command. -/
theorem setPointPinsAndClamps : Obligations.SetPointPinsAndClamps := by
  unfold Obligations.SetPointPinsAndClamps
  refine ⟨fun s q v hs h => ?_, fun s q v hs h => ?_, fun s q v hs h => ?_,
    fun s hs hv => ⟨_, rfl, setaFail_spec hs hv⟩, fun s period high hs hlo hhi hrun => ?_,
    fun s period high hs h hv => ⟨_, execSetpPeriod_of_short h high, setpInvalid_spec hs hv⟩,
    fun s hs hv => ⟨_, rfl, ?_⟩⟩
  · obtain ⟨c, hc, ht⟩ := hs.via_core q fun t => t.writeFwCeil (t.rd .GCE_SEL_N q) v.toNat
    exact ⟨_, congrArg Host.Outcome.next ht, writeFwCeil_of_le hc v h⟩
  · obtain ⟨c, hc, ht⟩ := hs.via_core q fun t => t.writeFwCeil (t.rd .GCE_SEL_N q) v.toNat
    exact ⟨_, congrArg Host.Outcome.next ht, writeFwCeil_of_gt hc h⟩
  · obtain ⟨c, hc, ht⟩ := hs.via_core q fun t => t.writeFwSlew (t.rd .GCE_SEL_N q) v.toNat
    exact ⟨_, congrArg Host.Outcome.next ht, writeFwSlew_of_gt hc v h⟩
  · obtain ⟨u, hu, hper, hcount, hsum⟩ := execSetpPeriod_of_good hs high hlo hhi hrun
    exact ⟨_, hu, ((set1_keeps ..).reads hper).eq, hper.canon.reads_wr.eq,
      (congrArg Pins.setpRun (State.wr_pins ..)).trans hcount, (congrArg Pins.setpSum (State.wr_pins ..)).trans hsum⟩
  · obtain ⟨hcause, hvalid, -, -⟩ := setpInvalid_spec (cause := .GCE_SETP_STUCK) hs hv
    exact ⟨hcause, hvalid⟩

end Sys2Proof.Machine
end

section
/-!
SUPPORT. Saddle's updates, its watch list, its target and its digests (06_saddle_stability.md R156 to R170): the stages of
an update, what the watch list detects, the gain reports of a code, and what a MGMT message does that this module hears.
-/

namespace Sys2Proof.Machine

set_option Elab.async false

/-! ### Bits of a number -/

/-- `x` with `b` at bit `k`. -/
def putBit (k : Nat) (b : Bool) (x : Nat) : Nat := x - flag (bit k x) * 2 ^ k + flag b * 2 ^ k

theorem bit_eq_testBit (k x : Nat) : bit k x = x.testBit k := by
  rw [bit, Nat.testBit_eq_decide_div_mod_eq]
  rfl

theorem flag_bit (k x : Nat) : flag (bit k x) = x / 2 ^ k % 2 := by
  unfold flag bit
  rcases Nat.mod_two_eq_zero_or_one (x / 2 ^ k) with h | h <;> rw [h] <;> rfl

/-- Only the number formed by the bits from `k` on changes, and of that only its lowest bit. -/
theorem putBit_eq (k : Nat) (b : Bool) (x : Nat) :
    putBit k b x = 2 ^ k * (2 * (x / 2 ^ k / 2) + flag b) + x % 2 ^ k := by
  have hx := Nat.div_add_mod x (2 ^ k)
  have ha := Nat.div_add_mod (x / 2 ^ k) 2
  have hsub : x - x / 2 ^ k % 2 * 2 ^ k = 2 ^ k * (2 * (x / 2 ^ k / 2)) + x % 2 ^ k := by
    refine Nat.sub_eq_of_eq_add ?_
    calc x = 2 ^ k * (2 * (x / 2 ^ k / 2) + x / 2 ^ k % 2) + x % 2 ^ k := by rw [ha, hx]
      _ = _ := by ring
  rw [putBit, flag_bit, hsub]
  ring

theorem bit_putBit (k j : Nat) (b : Bool) (x : Nat) : bit j (putBit k b x) = if j = k then b else bit j x := by
  have hlow : x % 2 ^ k < 2 ^ k := Nat.mod_lt _ (Nat.two_pow_pos k)
  rw [bit_eq_testBit, bit_eq_testBit, putBit_eq, Nat.testBit_two_pow_mul_add _ hlow]
  rcases Nat.lt_trichotomy j k with h | rfl | h
  · rw [if_pos h, if_neg h.ne, Nat.testBit_mod_two_pow, decide_eq_true h, Bool.true_and]
  · rw [if_neg (lt_irrefl _), if_pos rfl, Nat.sub_self, Nat.testBit_zero]
    cases b <;> simp [flag]
  · obtain ⟨i, rfl⟩ := Nat.exists_eq_add_of_lt h
    have hi : k + i + 1 - k = i + 1 := by omega
    have hflag := flag_lt_two_pow b Nat.one_pos
    have hhalf : (2 * (x / 2 ^ k / 2) + flag b) / 2 = x / 2 ^ k / 2 := by omega
    rw [if_neg h.not_gt, if_neg h.ne', hi, Nat.testBit_succ, hhalf, ← Nat.testBit_succ, Nat.testBit_div_two_pow]
    congr 1
    omega

theorem bits_one_ne_zero (k x : Nat) : (bits k 1 x != 0) = bit k x := by
  unfold bits bit
  rcases Nat.mod_two_eq_zero_or_one (x / 2 ^ k) with h | h <;> rw [pow_one, h] <;> rfl

theorem bit_mod_two_pow {j w : Nat} (h : j < w) (x : Nat) : bit j (x % 2 ^ w) = bit j x := by
  rw [bit_eq_testBit, bit_eq_testBit, Nat.testBit_mod_two_pow, decide_eq_true h, Bool.true_and]

/-- A write of one key leaves what a larger key reads, whatever the form of the store. -/
theorem Store.get_set_of_lt {α : Type} [DecidableEq α] {d : Nat → α} (m : Store α) {k j : Nat} (h : k < j) (v : α) :
    Store.get d (Store.set d m k v) j = Store.get d m j := by
  have hcons (rest : Store α) : Store.get d (Store.cons d k v rest) j = Store.get d rest j := by
    unfold Store.cons
    split
    · rfl
    · rw [Store.get, if_neg h.not_gt, if_neg h.ne']
  induction m with
  | nil => exact hcons []
  | cons x rest ih =>
    obtain ⟨i, u⟩ := x
    unfold Store.set
    split
    · exact hcons _
    · split
      case isTrue e => rw [hcons, Store.get, ← e, if_neg h.not_gt, if_neg h.ne']
      case isFalse => rw [Store.get, Store.get, ih]

/-- What the item of one position brings about holds at the end, if the items before it keep its condition and those after
it keep the effect. -/
theorem State.forEach_zipIdx_effect {α : Type} {f : α × Nat → State → State} {xs : List α} {s : State}
    {P Q : State → Prop} {w : Nat} {c : α} (hc : xs[w]? = some c) (h : P s) (hP : ∀ c' v t, v < w → P t → P (f (c', v) t))
    (hPQ : ∀ t, P t → Q (f (c, w) t)) (hQ : ∀ c' v t, w < v → Q t → Q (f (c', v) t)) :
    Q (State.forEach f xs.zipIdx s) := by
  obtain ⟨hw, rfl⟩ := List.getElem?_eq_some_iff.mp hc
  have hlen : (xs.take w).length = w := List.length_take_of_le hw.le
  have hsplit : xs.zipIdx = (xs.take w).zipIdx ++ (xs[w], w) :: (xs.drop (w + 1)).zipIdx (w + 1) := by
    conv_lhs =>
      rw [← List.take_append_drop w xs, List.drop_eq_getElem_cons hw, List.zipIdx_append, List.zipIdx_cons, hlen,
        Nat.zero_add]
  rw [State.forEach, hsplit, List.foldl_append, List.foldl_cons]
  refine List.foldlRecOn _ _ (hPQ _ (List.foldlRecOn _ _ h fun t ht x hx => ?_)) fun t ht x hx => ?_
  · exact hP x.1 x.2 t (by simpa [hlen] using List.snd_lt_add_of_mem_zipIdx hx) ht
  · exact hQ x.1 x.2 t (List.le_snd_of_mem_zipIdx hx) ht

/-! ### The record of a band path -/

section
variable {s : State} {n : Nat} {α : Type} {g : Bp → α} {v : α}

/-- The record of a band path after an update of it. -/
theorem State.canonical.bpShows_updBp (hs : s.canonical) (y : Bp → Bp) : (s.updBp n y).bpShows g n (g (y (s.bp n))) where
  canon := (updBp_keeps s n y).canon hs
  eq := congrArg g ((hs.bp_updBp ..).trans (if_pos rfl))

/-- An update of a band path that leaves what `g` takes from it. -/
theorem State.bpShows.updBp (h : s.bpShows g n v) (k : Nat) {y : Bp → Bp}
    (hy : ∀ x, g (y x) = g x := by exact fun _ => rfl) : (s.updBp k y).bpShows g n v where
  canon := (updBp_keeps s k y).canon h.canon
  eq := by
    rw [h.canon.bp_updBp]
    split
    case isTrue e => rw [hy, ← e, h.eq]
    case isFalse => exact h.eq

end

/-! ### The watch list (R161, R166, R170) -/

section
variable {s t : State} {m n : Nat}

theorem State.keeps.watchCode (k : State.keeps m s t) (hs : s.canonical) (n w : Nat)
    (hen : inSet m .SDL_WATCH_EN = false := by decide +kernel)
    (hnode : inSet m .SDL_WATCH_NODE = false := by decide +kernel)
    (hbp : inSet m .SDL_WATCH_BP = false := by decide +kernel) : t.watchCode n w = s.watchCode n w := by
  unfold State.watchCode State.is
  rw [k.fields hs _ _ hen, k.fields hs _ _ hnode, k.fields hs _ _ hbp]

theorem State.keeps.windowK (k : State.keeps m s t) (hs : s.canonical) (n : Nat)
    (hk : inSet m .SDL_CTRL_K_LOG2 = false := by decide +kernel) : t.windowK n = s.windowK n := by
  unfold State.windowK
  rw [k.fields hs _ _ hk]

/-- An operation that leaves the watch list, what it has detected, the node address and the detections told leaves the
member count. -/
theorem State.keeps.memberCount (k : State.keeps m s t) (hs : s.canonical) (n : Nat)
    (hdet : inSet m .SDL_DETECT_DET = false := by decide +kernel)
    (hvalid : inSet m .COL_NODE_VALID = false := by decide +kernel)
    (haddr : inSet m .COL_NODE_ADDR = false := by decide +kernel)
    (hremote : partIn m .remoteDet = false := by decide +kernel)
    (hen : inSet m .SDL_WATCH_EN = false := by decide +kernel)
    (hnode : inSet m .SDL_WATCH_NODE = false := by decide +kernel)
    (hbp : inSet m .SDL_WATCH_BP = false := by decide +kernel) : t.memberCount n = s.memberCount n := by
  have hd : t.remoteDet = s.remoteDet := k.parts .remoteDet hremote
  have hbit (j : Nat) := k.fields hs .SDL_DETECT_DET j hdet
  have hcode (j w : Nat) := k.watchCode hs j w hen hnode hbp
  have hindex (j : Nat) : t.codeIndex j = s.codeIndex j := by
    unfold State.codeIndex State.is
    rw [k.fields hs _ _ hvalid, k.fields hs _ _ haddr]
  have hmutual (w : Nat) : t.isMutual n w = s.isMutual n w := by
    simp only [State.isMutual, hd, hbit, hcode, hindex]
  simp only [State.memberCount, State.mutualCodes, hmutual, hcode]

/-- Since when entry `w` of band path `n` has been quiet, with its estimate `c` (R161). -/
def State.quietSince (s : State) (n w : Nat) (c : Sys2Proof.Correlation) : Option Nat :=
  quietFrom (Store.get (fun _ => none) (s.bp n).sad.quietWatch w) (codeBelow c) (s.bp n).sad.seen

/-- Whether entry `w` of band path `n` counts as detected after its estimate `c` (R161). -/
def State.detects (s : State) (n w : Nat) (c : Sys2Proof.Correlation) : Bool :=
  (s.watchCode n w).isSome && (codeAbove c || (bit w (s.rd .SDL_DETECT_DET n) &&
    !quietFull (s.quietSince n w c) (s.bp n).sad.seen (s.windowK n)))

/-- What the detection rests on beside the watch list and K: the entry's bit, its quiet span and the window samples. -/
theorem State.keeps.detects (k : State.keeps m s t) (hs : s.canonical) {w : Nat} (c : Sys2Proof.Correlation)
    (hbit : bit w (t.rd .SDL_DETECT_DET n) = bit w (s.rd .SDL_DETECT_DET n))
    (hquiet : Store.get (fun _ => none) (t.bp n).sad.quietWatch w = Store.get (fun _ => none) (s.bp n).sad.quietWatch w)
    (hseen : (t.bp n).sad.seen = (s.bp n).sad.seen)
    (hen : inSet m .SDL_WATCH_EN = false := by decide +kernel)
    (hnode : inSet m .SDL_WATCH_NODE = false := by decide +kernel)
    (hbp : inSet m .SDL_WATCH_BP = false := by decide +kernel)
    (hk : inSet m .SDL_CTRL_K_LOG2 = false := by decide +kernel) : t.detects n w c = s.detects n w c := by
  rw [State.detects, State.quietSince, k.watchCode hs n w hen hnode hbp, k.windowK hs n hk, hbit, hquiet, hseen]
  rfl

/-- DET after one entry's estimate. -/
theorem watchUpdate_reads_det (hs : s.canonical) (n w : Nat) (c : Sys2Proof.Correlation) :
    (s.watchUpdate n w c).reads .SDL_DETECT_DET n (putBit w (s.detects n w c) (s.rd .SDL_DETECT_DET n) % 2 ^ 15) :=
  ((updBp_keeps ..).canon hs).reads_wr_mod

theorem watchUpdate_bit (hs : s.canonical) (n w : Nat) {v : Nat} (hv : v < 15) (c : Sys2Proof.Correlation) :
    bit v ((s.watchUpdate n w c).rd .SDL_DETECT_DET n) =
      if v = w then s.detects n w c else bit v (s.rd .SDL_DETECT_DET n) := by
  rw [(watchUpdate_reads_det hs n w c).eq, bit_mod_two_pow hv, bit_putBit]

/-- What an entry's estimate leaves in the record of the band path. -/
theorem watchUpdate_sad (hs : s.canonical) (n w : Nat) (c : Sys2Proof.Correlation) :
    (s.watchUpdate n w c).bpShows Bp.sad n { (s.bp n).sad with
      quietWatch := Store.set (fun _ => none) (s.bp n).sad.quietWatch w (s.quietSince n w c) } := by
  unfold State.watchUpdate
  exact (wr_keeps ..).bpShows (hs.bpShows_updBp _)

/-- Of the record of a band path it changes the quiet spans alone. -/
theorem watchUpdate_bpShows {α : Type} {g : Bp → α} {v : α} (h : s.bpShows g n v) (w : Nat) (c : Sys2Proof.Correlation)
    (hg : ∀ x q, g { x with sad := { x.sad with quietWatch := q } } = g x) : (s.watchUpdate n w c).bpShows g n v := by
  unfold State.watchUpdate
  exact (wr_keeps ..).bpShows <| h.updBp n fun _ => hg ..

/-- The estimate of an entry leaves the detection of the entries after it. -/
theorem watchUpdate_detects (hs : s.canonical) (n : Nat) {v w : Nat} (h : v < w) (hw : w < 15)
    (c c' : Sys2Proof.Correlation) : (s.watchUpdate n v c').detects n w c = s.detects n w c := by
  have hsad := (watchUpdate_sad hs n v c').eq
  refine (watchUpdate_keeps ..).detects hs c ?_ ?_ ?_
  · rw [watchUpdate_bit hs n v hw, if_neg h.ne']
  · rw [hsad, Store.get_set_of_lt _ h]
  · rw [hsad]

end

/-! ### The stages of an update (R156, R161, R164 to R166) -/

/-- Saddle's record after the estimate of the own code. -/
def State.estimated (s : State) (n : Nat) (e : Sys2Proof.Estimate) : Saddle :=
  { (s.bp n).sad with
    est := some (loopBounds e.own), updated := (s.bp n).sad.seen, quietOwn := s.quietSubs n e.own
    mark := if (List.range 8).any (s.newLoopIn n e.own) then (s.bp n).sad.seen else (s.bp n).sad.mark }

/-- The estimate of the own code is taken. -/
def State.takeEstimate (s : State) (n : Nat) (e : Sys2Proof.Estimate) : State :=
  ((s.updBp n fun x => { x with sad := { x.sad with
      est := some (loopBounds e.own), updated := x.sad.seen, quietOwn := s.quietSubs n e.own
      mark := if (List.range 8).any (s.newLoopIn n e.own) then x.sad.seen else x.sad.mark } }).roll
    .SDL_STATUS_UPDATES n).tally 3 0x01 n

/-- The estimates of the watched codes are taken. -/
def State.takeWatched (s : State) (n : Nat) (cs : List Sys2Proof.Correlation) : State :=
  s.forEach (fun (c : Sys2Proof.Correlation × Nat) t => t.watchUpdate n c.2 c.1) (cs.take 15).zipIdx

/-- A new loop is shown and counted. -/
def State.noteLoop (s : State) (n : Nat) (found : Bool) : State :=
  if found then ((s.set1 .SDL_STATUS_NEW_LOOP n).bump .SDL_COUNT_NEW_LOOPS n).tally 3 0x02 n else s

/-- MEAS_DONE and the bounds are reviewed. -/
def State.saddleReview (s : State) (n : Nat) : State := (s.measReview n).boundsUpdate n

/-- The headroom of the loop per member (R164). -/
def State.loopHeadroom (s : State) (n : Nat) : Int :=
  roundDiv (s.rdS .SDL_TARGET_TARGET n - s.rdS .SDL_BOUND_U_MAX n) (s.memberCount n)

/-- The headroom is shown and goes to the gain loops. -/
def State.giveHeadroom (s : State) (n : Nat) : State :=
  (s.wr .SDL_HEAD_H_S n (satBits 16 (s.loopHeadroom n))).updBp n fun x =>
    { x with eng := { x.eng with stab := some (unit * s.loopHeadroom n) } }

theorem saddleUpdate_stages (s : State) (n : Nat) (e : Sys2Proof.Estimate) :
    s.saddleUpdate n e = ((((s.takeEstimate n e).takeWatched n e.watched).noteLoop n
      ((List.range 8).any (s.newLoopIn n e.own))).saddleReview n).giveHeadroom n := rfl

/-- What `takeEstimate` may write. -/
def writes_takeEstimate : Nat := writes [.SDL_STATUS_UPDATES] [.bps] ||| writes_tally

theorem takeEstimate_keeps (s : State) (n : Nat) (e : Sys2Proof.Estimate) :
    State.keeps writes_takeEstimate s (s.takeEstimate n e) := by
  unfold State.takeEstimate
  refine State.keeps.step ?_ (tally_keeps ..) (by decide +kernel)
  refine State.keeps.step ?_ (roll_keeps ..) (by decide +kernel)
  exact State.keeps.refl.step (updBp_keeps ..) (by decide +kernel)

theorem takeWatched_keeps (s : State) (n : Nat) (cs : List Sys2Proof.Correlation) :
    State.keeps writes_watchUpdate s (s.takeWatched n cs) :=
  State.keeps.refl.forEach fun _ _ h => h.trans (watchUpdate_keeps ..)

/-- What `noteLoop` may write. -/
def writes_noteLoop : Nat := writes [.SDL_STATUS_NEW_LOOP, .SDL_COUNT_NEW_LOOPS] [] ||| writes_tally

theorem noteLoop_keeps (s : State) (n : Nat) (found : Bool) : State.keeps writes_noteLoop s (s.noteLoop n found) := by
  unfold State.noteLoop
  refine State.keeps.ite (fun _ => ?_) (fun _ => State.keeps.refl)
  refine State.keeps.step ?_ (tally_keeps ..) (by decide +kernel)
  refine State.keeps.step ?_ (bump_keeps ..) (by decide +kernel)
  exact State.keeps.refl.step (set1_keeps ..) (by decide +kernel)

/-- What `saddleReview` may write. -/
def writes_saddleReview : Nat := writes_measReview ||| writes_boundsUpdate

theorem saddleReview_keeps (s : State) (n : Nat) : State.keeps writes_saddleReview s (s.saddleReview n) := by
  refine State.keeps.step ?_ (boundsUpdate_keeps ..) (by decide +kernel)
  exact State.keeps.refl.step (measReview_keeps ..) (by decide +kernel)

/-- What `giveHeadroom` may write. -/
def writes_giveHeadroom : Nat := writes [.SDL_HEAD_H_S] [.bps]

theorem giveHeadroom_keeps (s : State) (n : Nat) : State.keeps writes_giveHeadroom s (s.giveHeadroom n) := by
  refine State.keeps.step ?_ (updBp_keeps ..) (by decide +kernel)
  exact State.keeps.refl.step (wr_keeps ..) (by decide +kernel)

section
variable {s : State} {n : Nat} {e : Sys2Proof.Estimate}

theorem takeEstimate_sad (hs : s.canonical) (n : Nat) (e : Sys2Proof.Estimate) :
    (s.takeEstimate n e).bpShows Bp.sad n (s.estimated n e) :=
  (tally_keeps ..).bpShows <| (roll_keeps ..).bpShows <| hs.bpShows_updBp _

theorem takeEstimate_updates (hs : s.canonical) (n : Nat) (e : Sys2Proof.Estimate) :
    (s.takeEstimate n e).reads .SDL_STATUS_UPDATES n
      ((s.rd .SDL_STATUS_UPDATES n + 1) % 2 ^ Field.SDL_STATUS_UPDATES.row.width) :=
  (tally_keeps ..).reads ((updBp_keeps ..).canon hs).reads_wr_mod

/-- Of the record of a band path the watched codes change their quiet spans alone. -/
theorem takeWatched_bpShows {α : Type} {g : Bp → α} {v : α} (h : s.bpShows g n v) (cs : List Sys2Proof.Correlation)
    (hg : ∀ x q, g { x with sad := { x.sad with quietWatch := q } } = g x) :
    (s.takeWatched n cs).bpShows g n v :=
  State.forEach_invariant (P := (·.bpShows g n v)) h fun x _ ht => watchUpdate_bpShows ht x.2 x.1 hg

/-- Each entry shows what its own estimate gives: those before it leave what it rests on, and those after it leave its
bit. -/
theorem takeWatched_bit (hs : s.canonical) {cs : List Sys2Proof.Correlation} {w : Nat} {c : Sys2Proof.Correlation}
    (hw : w < 15) (hc : cs[w]? = some c) :
    (s.takeWatched n cs).canonical ∧ bit w ((s.takeWatched n cs).rd .SDL_DETECT_DET n) = s.detects n w c := by
  have hc15 : (cs.take 15)[w]? = some c := (List.getElem?_take_of_lt hw).trans hc
  refine State.forEach_zipIdx_effect (P := fun t => t.canonical ∧ t.detects n w c = s.detects n w c)
    (Q := fun t => t.canonical ∧ bit w (t.rd .SDL_DETECT_DET n) = s.detects n w c) hc15 ⟨hs, rfl⟩ ?_ ?_ ?_
  · rintro c' v t hv ⟨ht, hdet⟩
    exact ⟨(watchUpdate_keeps ..).canon ht, (watchUpdate_detects ht n hv hw c c').trans hdet⟩
  · rintro t ⟨ht, hdet⟩
    exact ⟨(watchUpdate_keeps ..).canon ht, by rw [watchUpdate_bit ht n w hw, if_pos rfl, hdet]⟩
  · rintro c' v t hv ⟨ht, hbit⟩
    exact ⟨(watchUpdate_keeps ..).canon ht, by rw [watchUpdate_bit ht n v hw, if_neg hv.ne, hbit]⟩

theorem noteLoop_of_found {k : Nat} (h : s.reads .SDL_COUNT_NEW_LOOPS n k) :
    (s.noteLoop n true).reads .SDL_STATUS_NEW_LOOP n 1 ∧
    (s.noteLoop n true).reads .SDL_COUNT_NEW_LOOPS n (min (k + 1) (2 ^ Field.SDL_COUNT_NEW_LOOPS.row.width - 1)) :=
  ⟨(tally_keeps ..).reads <| (bump_keeps ..).reads h.canon.reads_wr,
    (tally_keeps ..).reads ((set1_keeps ..).reads h).bump⟩

/-- Giving the headroom changes nothing that it rests on. -/
theorem giveHeadroom_stab (hs : s.canonical) (n : Nat) :
    ((s.giveHeadroom n).bp n).eng.stab = some (unit * (s.giveHeadroom n).loopHeadroom n) := by
  have hstab : (s.giveHeadroom n).bpShows (fun x => x.eng.stab) n (some (unit * s.loopHeadroom n)) :=
    ((wr_keeps ..).canon hs).bpShows_updBp _
  have hk := giveHeadroom_keeps s n
  rw [hstab.eq, State.loopHeadroom, State.loopHeadroom, hk.memberCount hs n]
  unfold State.rdS
  rw [hk.fields hs .SDL_TARGET_TARGET n (by decide +kernel), hk.fields hs .SDL_BOUND_U_MAX n (by decide +kernel)]

/-- The last stages leave every field that they do not write. -/
theorem giveHeadroom_saddleReview_reads {f : Field} {i v : Nat} (h : s.reads f i v)
    (hr : inSet writes_saddleReview f = false := by decide +kernel)
    (hh : inSet writes_giveHeadroom f = false := by decide +kernel) : ((s.saddleReview n).giveHeadroom n).reads f i v :=
  (giveHeadroom_keeps ..).reads (hf := hh) <| (saddleReview_keeps ..).reads (hf := hr) h

/-! ### What an update leaves (R156, R161, R164 to R166) -/

theorem saddleUpdate_sad {α : Type} (hs : s.canonical) (n : Nat) (e : Sys2Proof.Estimate) (g : Saddle → α)
    (hg : ∀ x q, g { x with quietWatch := q } = g x := by exact fun _ _ => rfl) :
    g ((s.saddleUpdate n e).bp n).sad = g (s.estimated n e) := by
  have hown := takeEstimate_sad hs n e
  have hg' : ((s.takeEstimate n e).takeWatched n e.watched).bpShows (fun x => g x.sad) n (g (s.estimated n e)) :=
    takeWatched_bpShows ⟨hown.canon, congrArg g hown.eq⟩ _ fun _ _ => hg ..
  rw [saddleUpdate_stages]
  exact ((wr_keeps ..).bpShows <| (saddleReview_keeps ..).bpShows <| (noteLoop_keeps ..).bpShows hg').updBp n |>.eq

/-- What every update leaves. -/
theorem saddleUpdate_spec (hs : s.canonical) (n : Nat) (e : Sys2Proof.Estimate) :
    let t := s.saddleUpdate n e
    (t.bp n).sad.est = some (loopBounds e.own) ∧ (t.bp n).sad.updated = (s.bp n).sad.seen ∧
    t.rd .SDL_STATUS_UPDATES n = (s.rd .SDL_STATUS_UPDATES n + 1) % 2 ^ Field.SDL_STATUS_UPDATES.row.width ∧
    (t.bp n).eng.stab = some (unit * t.loopHeadroom n) := by
  have hcount := (noteLoop_keeps (n := n) (found := (List.range 8).any (s.newLoopIn n e.own)) ..).reads <|
    (takeWatched_keeps (n := n) (cs := e.watched) ..).reads (takeEstimate_updates hs n e)
  refine ⟨saddleUpdate_sad hs n e Saddle.est, saddleUpdate_sad hs n e Saddle.updated, ?_, ?_⟩
  · exact (giveHeadroom_saddleReview_reads hcount).eq
  · exact giveHeadroom_stab ((saddleReview_keeps ..).canon hcount.canon) n

/-- A new loop restarts the window, is shown and counts. -/
theorem saddleUpdate_of_newLoop (hs : s.canonical) (h : (List.range 8).any (s.newLoopIn n e.own) = true) :
    let t := s.saddleUpdate n e
    (t.bp n).sad.mark = (s.bp n).sad.seen ∧ t.rd .SDL_STATUS_NEW_LOOP n = 1 ∧
    t.rd .SDL_COUNT_NEW_LOOPS n =
      min (s.rd .SDL_COUNT_NEW_LOOPS n + 1) (2 ^ Field.SDL_COUNT_NEW_LOOPS.row.width - 1) := by
  obtain ⟨hshown, hcounted⟩ := noteLoop_of_found <| (takeWatched_keeps (n := n) (cs := e.watched) ..).reads <|
    (takeEstimate_keeps s n e).reads (hs.reads .SDL_COUNT_NEW_LOOPS n)
  refine ⟨(saddleUpdate_sad hs n e Saddle.mark).trans (if_pos h), ?_⟩
  rw [saddleUpdate_stages, h]
  exact ⟨(giveHeadroom_saddleReview_reads hshown).eq, (giveHeadroom_saddleReview_reads hcounted).eq⟩

/-- Without one the window goes on. -/
theorem saddleUpdate_of_no_newLoop (hs : s.canonical) (h : (List.range 8).any (s.newLoopIn n e.own) = false) :
    let t := s.saddleUpdate n e
    (t.bp n).sad.mark = (s.bp n).sad.mark ∧ t.rd .SDL_STATUS_NEW_LOOP n = s.rd .SDL_STATUS_NEW_LOOP n ∧
    t.rd .SDL_COUNT_NEW_LOOPS n = s.rd .SDL_COUNT_NEW_LOOPS n := by
  have hshown := (takeWatched_keeps (n := n) (cs := e.watched) ..).reads <|
    (takeEstimate_keeps s n e).reads (hs.reads .SDL_STATUS_NEW_LOOP n)
  have hcounted := (takeWatched_keeps (n := n) (cs := e.watched) ..).reads <|
    (takeEstimate_keeps s n e).reads (hs.reads .SDL_COUNT_NEW_LOOPS n)
  refine ⟨(saddleUpdate_sad hs n e Saddle.mark).trans (if_neg (by rw [h]; decide)), ?_⟩
  rw [saddleUpdate_stages, h]
  exact ⟨(giveHeadroom_saddleReview_reads hshown).eq, (giveHeadroom_saddleReview_reads hcounted).eq⟩

/-- The estimate of the own code leaves what the detections rest on, and the later stages leave DET. -/
theorem saddleUpdate_bit (hs : s.canonical) {w : Nat} {c : Sys2Proof.Correlation} (hw : w < 15)
    (hc : e.watched[w]? = some c) : bit w ((s.saddleUpdate n e).rd .SDL_DETECT_DET n) = s.detects n w c := by
  have hown := takeEstimate_sad hs n e
  have hk := takeEstimate_keeps s n e
  have hdet : (s.takeEstimate n e).detects n w c = s.detects n w c :=
    hk.detects hs c (by rw [hk.fields hs .SDL_DETECT_DET n (by decide +kernel)]) (by rw [hown.eq]; rfl)
      (by rw [hown.eq]; rfl)
  obtain ⟨hcanon, hbit⟩ := takeWatched_bit (n := n) hown.canon hw hc
  have hlast := giveHeadroom_saddleReview_reads (n := n) <|
    (noteLoop_keeps (n := n) (found := (List.range 8).any (s.newLoopIn n e.own)) ..).reads (hcanon.reads .SDL_DETECT_DET n)
  rw [saddleUpdate_stages, hlast.eq, hbit, hdet]

theorem execSaddleUpdate_of_due {n : Sys2Proof.BpIx} (h : s.updateDue n = true) :
    execSaddleUpdate n e s = .next (s.saddleUpdate n e) := congrArg Host.Outcome.next (if_pos h)

end

/-! ### Writes of the watch list and of TARGET (R164, R166, R170) -/

section
variable {s : State} {n : Nat}

theorem watchCode_of_reads {w en node bp : Nat} (hen : s.reads .SDL_WATCH_EN (15 * n + w) en)
    (hnode : s.reads .SDL_WATCH_NODE (15 * n + w) node) (hbp : s.reads .SDL_WATCH_BP (15 * n + w) bp) :
    s.watchCode n w = if en != 0 then some (128 * node + bp) else none := by
  rw [State.watchCode, hen.is, hnode.eq, hbp.eq]

theorem watchWrite_watchCode (hs : s.canonical) (n i w : Nat) : (s.watchWrite n i w).watchCode n i =
    if bits 31 1 w != 0 then some (128 * bits 7 12 w + bits 0 7 w) else none := by
  have hbp : (s.wr .SDL_WATCH_BP (15 * n + i) (bits 0 7 w)).reads .SDL_WATCH_BP (15 * n + i) (bits 0 7 w) :=
    hs.reads_wr (hv := Nat.mod_lt _ (by decide))
  have hnode := hbp.canon.reads_wr (f := .SDL_WATCH_NODE) (i := 15 * n + i) (v := bits 7 12 w)
    (hv := Nat.mod_lt _ (by decide))
  have hen := hnode.canon.reads_wr (f := .SDL_WATCH_EN) (i := 15 * n + i) (v := bits 31 1 w)
    (hv := Nat.mod_lt _ (by decide))
  unfold State.watchWrite
  exact watchCode_of_reads
    ((updBp_keeps ..).reads <| (clr_keeps ..).reads <| (wr_keeps ..).reads hen)
    ((updBp_keeps ..).reads <| (clr_keeps ..).reads <| (wr_keeps ..).reads <| (wr_keeps ..).reads hnode)
    ((updBp_keeps ..).reads <| (clr_keeps ..).reads <| (wr_keeps ..).reads <| (wr_keeps ..).reads <|
      (wr_keeps ..).reads hbp)

theorem watchWrite_spec (hs : s.canonical) (n : Nat) {i : Nat} (hi : i < 15) (w : Nat) :
    (s.watchWrite n i w).rd .SDL_STATUS_MEAS_DONE n = 0 ∧ bit i ((s.watchWrite n i w).rd .SDL_DETECT_DET n) = false ∧
    ((s.watchWrite n i w).bp n).sad.mark = (s.bp n).sad.seen := by
  have hcanon : (((s.wr .SDL_WATCH_BP (15 * n + i) (bits 0 7 w)).wr .SDL_WATCH_NODE (15 * n + i) (bits 7 12 w)).wr
      .SDL_WATCH_EN (15 * n + i) (bits 31 1 w)).canonical :=
    (wr_keeps ..).canon <| (wr_keeps ..).canon <| (wr_keeps ..).canon hs
  have hdet := hcanon.reads_wr_mod (f := .SDL_DETECT_DET) (i := n)
    (v := s.rd .SDL_DETECT_DET n - flag (bit i (s.rd .SDL_DETECT_DET n)) * 2 ^ i)
  have hput : s.rd .SDL_DETECT_DET n - flag (bit i (s.rd .SDL_DETECT_DET n)) * 2 ^ i =
      putBit i false (s.rd .SDL_DETECT_DET n) := by simp [putBit, flag]
  unfold State.watchWrite
  refine ⟨?_, ?_, ?_⟩
  · exact ((updBp_keeps ..).reads hdet.canon.reads_wr).eq
  · rw [((updBp_keeps ..).reads <| (clr_keeps ..).reads hdet).eq, hput]
    exact (bit_mod_two_pow hi _).trans ((bit_putBit ..).trans (if_pos rfl))
  · refine (((clr_keeps ..).canon hdet.canon).bpShows_updBp (g := fun x => x.sad.mark) _).eq.trans ?_
    simp only [State.clr, State.wr_bp]

theorem writeTarget_of_le (hs : s.canonical) (v : BitVec 16) (h : signed 16 v.toNat ≤ s.rdS .SDL_LIMIT_HARD_FLOOR) :
    (s.writeTarget n v.toNat).rd .SDL_TARGET_TARGET n = v.toNat ∧
    (s.writeTarget n v.toNat).rd .SDL_STATUS_TARGET_CLAMP n = s.rd .SDL_STATUS_TARGET_CLAMP n := by
  have hw : s.writeTarget n v.toNat = s.wr .SDL_TARGET_TARGET n v.toNat := if_neg (not_lt.mpr h)
  rw [hw]
  exact ⟨(hs.reads_wr (hv := v.isLt)).eq, ((wr_keeps ..).reads (hs.reads ..)).eq⟩

theorem writeTarget_of_gt (hs : s.canonical) {v : Nat} (h : s.rdS .SDL_LIMIT_HARD_FLOOR < signed 16 v) :
    (s.writeTarget n v).rd .SDL_TARGET_TARGET n = s.rd .SDL_LIMIT_HARD_FLOOR % 2 ^ 16 ∧
    (s.writeTarget n v).rd .SDL_STATUS_TARGET_CLAMP n = 1 := by
  have hw : s.writeTarget n v =
      (s.wr .SDL_TARGET_TARGET n (s.rd .SDL_LIMIT_HARD_FLOOR)).set1 .SDL_STATUS_TARGET_CLAMP n := if_pos h
  have htarget := hs.reads_wr_mod (f := .SDL_TARGET_TARGET) (i := n) (v := s.rd .SDL_LIMIT_HARD_FLOOR)
  rw [hw]
  exact ⟨((set1_keeps ..).reads htarget).eq, htarget.canon.reads_wr.eq⟩

end

/-! ### Digests sent (R162) -/

/-- A digest of at most 63 records goes in one frame. -/
theorem digestFrames_of_short {ws : List Sys2Proof.Word64} (hne : ws ≠ []) (hle : ws.length ≤ 63) :
    digestFrames ws ws.length = [ws] := by
  obtain ⟨k, hk⟩ := Nat.exists_eq_succ_of_ne_zero (mt List.length_eq_zero_iff.mp hne)
  have hrest : digestFrames [] k = [] := by cases k <;> rfl
  rw [hk, digestFrames, if_neg hne, List.take_of_length_le hle, List.drop_of_length_le hle, hrest]

theorem execSaddleDigestSend_of_single {s : State} {d : Nat} (hv : s.rd .COL_NODE_VALID = 1) (hp : s.partners = [d])
    (hne : s.digest ≠ []) (hle : s.digest.length ≤ 63) : execSaddleDigestSend s =
      .next (s.sendRouted d (msgWord 12 0 0 false 0 s.digest.length :: s.digest)) := by
  have hlen : place 0 6 s.digest.length = s.digest.length := by
    unfold place
    omega
  unfold execSaddleDigestSend
  simp [State.is, hv, hp, digestFrames_of_short hne hle, State.forEach, hlen]

/-! ### Digests received (R163) -/

/-- A MGMT message that the module hears acts while it stands in the receive buffer, and its blocks are freed afterwards. -/
theorem onMsg_of_hears {s : State} {l : Nat} {f : Sys2Proof.Frame} {m : Nat} (h : s.hears l f m = true) (hlo : m ≠ 0)
    (hhi : m ≤ 13) (act : State → State) :
    s.onMsg l f m act = (act (s.holding l f)).freeBlocks l f.cls (frameBlocks f) := by
  simp only [State.hears, State.takes, Bool.and_eq_true, decide_eq_true_eq, beq_iff_eq] at h
  obtain ⟨⟨⟨⟨⟨⟨hup, hlen⟩, hroom⟩, hmine⟩, hcls⟩, hver⟩, htype⟩ := h
  have hkind : ¬(msgVer f ≠ 1 ∨ msgType f = 0 ∨ 13 < msgType f) := by omega
  have hact : s.onMsg l f m act = s.deliverFrame l f act :=
    congrArg (s.deliverFrame l f) (funext fun _ =>
      (if_neg (not_not_intro hcls)).trans ((if_neg hkind).trans (if_pos htype)))
  rw [hact, State.deliverFrame, if_pos hmine, State.receive, if_neg (by simp [hup]), if_neg (by simp [hlen]),
    if_neg (not_lt.mpr hroom)]
  rfl

/-- The latest report of code `c` that band path `n` has. -/
def Bp.report (c : Nat) (x : Bp) : Option MemberGain := x.sad.gains.find? fun g => MemberGain.code g == c

/-- The report put in place of those of its code is the one found. -/
theorem report_of_replaced {x : Bp} {gs : List MemberGain} {m : MemberGain} {c : Nat}
    (hx : x.sad.gains = gs.filter (fun y => y.code != c) ++ [m]) (hm : m.code = c) : x.report c = some m := by
  have hold : (gs.filter fun y => y.code != c).find? (fun g => MemberGain.code g == c) = none :=
    List.find?_eq_none.mpr fun y hy => by simpa using (List.mem_filter.mp hy).2
  rw [Bp.report, hx, List.find?_append, hold, Option.none_or, List.find?_singleton, if_pos (by simp [hm])]

section
variable {s : State} {n : Nat}

/-- The member of code `c` after a gain report: of the minima those that it undercuts, and those before the window, go. -/
def State.reported (s : State) (n c : Nat) (g : Int) : MemberGain :=
  { code := c, latest := g
    minima := ((((s.bp n).report c).getD ⟨c, g, [], false⟩).minima.filter fun m =>
      decide (m.1 < g ∧ (s.bp n).sad.seen ≤ m.2 + s.windowK n)) ++ [(g, (s.bp n).sad.seen)] }

theorem gainReport_report (hs : s.canonical) (n c : Nat) (g : Int) :
    (s.gainReport n c g).bpShows (fun x => (x.report c).map MemberGain.latest) n (some g) where
  canon := (gainReport_keeps ..).canon hs
  eq := by
    have hgains : ((s.gainReport n c g).bp n).sad.gains =
        (s.bp n).sad.gains.filter (fun y => y.code != c) ++ [s.reported n c g] :=
      (hs.bpShows_updBp (g := fun x => x.sad.gains) _).eq
    rw [report_of_replaced hgains rfl]
    rfl

/-- A gain report to another band path, or the same report again, leaves the latest. -/
theorem gainReport_bpShows {c : Nat} {g : Int} (h : s.bpShows (fun x => (x.report c).map MemberGain.latest) n (some g))
    (k : Nat) : (s.gainReport k c g).bpShows (fun x => (x.report c).map MemberGain.latest) n (some g) := by
  by_cases hk : k = n
  · exact hk ▸ gainReport_report h.canon k c g
  · refine ⟨(gainReport_keeps ..).canon h.canon, ?_⟩
    rw [State.gainReport, h.canon.bp_updBp, if_neg (Ne.symm hk), h.eq]

theorem gainReport_running (hs : s.canonical) (k c : Nat) (g : Int) (n : Nat) :
    (s.gainReport k c g).running n = s.running n :=
  ((hs.bpShows Bp.live n).updBp k).eq

/-- Every running band path that watches the code takes its gain report. -/
theorem takeDigest_of_gain (hs : s.canonical) {r v : Nat} (hr : bits 0 2 r = 1) (hn : n < 128) (hv : v < 15)
    (hrun : s.running n = true) (hw : s.watchCode n v = some (bits 2 19 r)) :
    (s.takeDigest r).bpShows (fun x => (x.report (bits 2 19 r)).map MemberGain.latest) n
      (some (signed 16 (bits 40 16 r))) := by
  unfold State.takeDigest
  extract_lets c s1
  rw [if_pos hr]
  have h1 : s1.canonical ∧ s1.running n = true ∧ s1.watchCode n v = some c := by
    unfold s1
    split
    · exact ⟨{ hs with }, hrun, hw⟩
    · exact ⟨hs, hrun, hw⟩
  refine State.forEach_effect (P := fun t => t.canonical ∧ t.running n = true ∧ t.watchCode n v = some c)
    (Q := (·.bpShows (fun x => (x.report c).map MemberGain.latest) n (some (signed 16 (bits 40 16 r)))))
    (List.mem_range.mpr hn) h1 (fun k t ht => ?_) (fun t ht => ?_) fun k t ht => ?_
  · obtain ⟨hcanon, hlive, hcode⟩ := ht
    split
    · exact ⟨(gainReport_keeps ..).canon hcanon, (gainReport_running hcanon ..).trans hlive,
        ((gainReport_keeps ..).watchCode hcanon n v).trans hcode⟩
    · exact ⟨hcanon, hlive, hcode⟩
  · obtain ⟨hcanon, hlive, hcode⟩ := ht
    have hwatch : (List.range 15).any (fun w => t.watchCode n w == some c) = true :=
      List.any_eq_true.mpr ⟨v, List.mem_range.mpr hv, by rw [hcode, beq_self_eq_true]⟩
    rw [if_pos (by rw [hlive, hwatch]; rfl)]
    exact gainReport_report hcanon ..
  · split
    · exact gainReport_bpShows ht k
    · exact ht

/-- A detection told is kept. -/
theorem takeDigest_of_detection {r : Nat} (hr : bits 0 2 r = 2) :
    (bits 2 19 r, bits 21 19 r) ∈ (s.takeDigest r).remoteDet := by
  unfold State.takeDigest
  extract_lets c
  rw [if_neg (by omega), if_pos hr]
  split
  case isTrue h => exact List.contains_iff_mem.mp h
  case isFalse => exact List.mem_append_right _ (List.mem_singleton_self _)

/-- A digest of one record is counted and taken. -/
theorem execSdigest_of_single {l : Sys2Proof.LaneIx} {f : Sys2Proof.Frame} {w : Sys2Proof.Word64}
    (h : s.hears l f 12 = true) (hone : bits 40 6 (msgW f 0) = 1) (hw : f.words[1]? = some w) :
    execSdigest l f s = .next ((((s.holding l f).bump .SDL_DIGEST_DIGESTS_RX).takeDigest w.toNat).freeBlocks l f.cls
      (frameBlocks f)) := by
  have hrecords : (f.words.drop 1).take 1 = [w] := by
    rw [List.take_one, List.head?_drop, hw]
    rfl
  rw [execSdigest, onMsg_of_hears h (by decide) (by decide), hone, hrecords]
  rfl

/-- What `holding` may write. -/
def writes_holding : Nat := writes [] [.lanes] ||| writes_tally

theorem holding_keeps (s : State) (l : Nat) (f : Sys2Proof.Frame) : State.keeps writes_holding s (s.holding l f) := by
  refine State.keeps.step ?_ (tally_keeps ..) (by decide +kernel)
  exact State.keeps.refl.step (updLane_keeps ..) (by decide +kernel)

/-- The state in which the records of a received digest are taken has the watch list and the band paths of before. -/
theorem holding_bump_keeps (s : State) (l : Nat) (f : Sys2Proof.Frame) :
    State.keeps (writes_holding ||| writes [.SDL_DIGEST_DIGESTS_RX] []) s
      ((s.holding l f).bump .SDL_DIGEST_DIGESTS_RX) := by
  refine State.keeps.step ?_ (bump_keeps ..) (by decide +kernel)
  exact State.keeps.refl.step (holding_keeps ..) (by decide +kernel)

/-! ### Members without gain reports (R163) -/

/-- The member as it is marked silent. -/
def State.silenced (s : State) (n c : Nat) : MemberGain :=
  { ((s.bp n).report c).getD ⟨c, -30000, [], false⟩ with silent := true }

theorem silenced_code (s : State) (n c : Nat) : (s.silenced n c).code = c := by
  unfold State.silenced
  cases h : (s.bp n).report c with
  | none => rfl
  | some m => simpa using List.find?_some h

theorem execDigestMiss_of_mutual {n : Sys2Proof.BpIx} {w : Fin 15} {c : Nat} (hw : s.watchCode n w = some c)
    (hm : s.isMutual n w = true) : execDigestMiss n w s =
      .next ((s.updBp n fun x => { x with sad := { x.sad with
        gains := x.sad.gains.filter (fun y => y.code != c) ++ [s.silenced n c] } }).bump .SDL_DIGEST_DIGEST_MISS) := by
  simp only [execDigestMiss, hw, hm, Bool.not_true, Bool.false_eq_true, if_false]
  rfl

theorem silence_spec (hs : s.canonical) (n c : Nat) :
    let t := (s.updBp n fun x => { x with sad := { x.sad with
      gains := x.sad.gains.filter (fun y => y.code != c) ++ [s.silenced n c] } }).bump .SDL_DIGEST_DIGEST_MISS
    ((t.bp n).report c).map MemberGain.silent = some true ∧
    t.rd .SDL_DIGEST_DIGEST_MISS =
      min (s.rd .SDL_DIGEST_DIGEST_MISS + 1) (2 ^ Field.SDL_DIGEST_DIGEST_MISS.row.width - 1) := by
  refine ⟨?_, ((updBp_keeps ..).reads (hs.reads ..)).bump.eq⟩
  exact ((bump_keeps ..).bpShows <| hs.bpShows_updBp (g := fun x => (x.report c).map MemberGain.silent) _).eq.trans
    (congrArg (Option.map MemberGain.silent) (report_of_replaced rfl (silenced_code s n c)))

end

/-- Settles O28: an update by its stages, the writes by what they store, and the digests by their records. -/
theorem saddleUpdates : Obligations.SaddleUpdates := by
  unfold Obligations.SaddleUpdates
  refine ⟨fun s n e hs hdue hloop => ⟨_, execSaddleUpdate_of_due hdue, ?_⟩,
    fun s n e hs hdue hloop => ⟨_, execSaddleUpdate_of_due hdue, ?_⟩,
    fun s n e w c hs hdue hc => ⟨_, execSaddleUpdate_of_due hdue, saddleUpdate_bit hs w.isLt hc⟩,
    fun s n e hs hdue => ⟨_, congrArg Host.Outcome.next (if_neg (by rw [hdue]; decide)), rfl⟩,
    fun s q i w hs => ?_, fun s q v hs h => ?_, fun s q v hs h => ?_,
    fun s d hs hv hp hne hle => ⟨_, execSaddleDigestSend_of_single hv hp hne hle, rfl⟩,
    fun s l f w hs hear hone hw hr => ⟨_, execSdigest_of_single hear hone hw, ?_⟩,
    fun s l f w n v hs hear hone hw hr hrun hcode => ⟨_, execSdigest_of_single hear hone hw, ?_⟩,
    fun s n w c hs hcode hm => ⟨_, execDigestMiss_of_mutual hcode hm, silence_spec hs n c⟩⟩
  · obtain ⟨hest, hupd, hcount, hstab⟩ := saddleUpdate_spec hs n e
    exact ⟨hest, hupd, hcount, hstab, saddleUpdate_of_newLoop hs hloop⟩
  · obtain ⟨hest, hupd, hcount, hstab⟩ := saddleUpdate_spec hs n e
    exact ⟨hest, hupd, hcount, hstab, saddleUpdate_of_no_newLoop hs hloop⟩
  · obtain ⟨c, hc, ht⟩ := hs.via_core q fun t => t.watchWrite (t.rd .SDL_SEL_N q) i w.toNat
    have hbit : (bits 31 1 w.toNat != 0) = w.getLsbD 31 := by
      rw [bits_one_ne_zero, bit_eq_testBit, BitVec.testBit_toNat]
    exact ⟨_, congrArg Host.Outcome.next ht, hbit ▸ watchWrite_watchCode hc _ i w.toNat,
      watchWrite_spec hc _ i.isLt _⟩
  · obtain ⟨c, hc, ht⟩ := hs.via_core q fun t => t.writeTarget (t.rd .SDL_SEL_N q) v.toNat
    exact ⟨_, congrArg Host.Outcome.next ht, writeTarget_of_le hc v h⟩
  · obtain ⟨c, hc, ht⟩ := hs.via_core q fun t => t.writeTarget (t.rd .SDL_SEL_N q) v.toNat
    exact ⟨_, congrArg Host.Outcome.next ht, writeTarget_of_gt hc h⟩
  · have hpart : ∀ (t : State) k, (t.freeBlocks l f.cls k).remoteDet = t.remoteDet := fun t k =>
      (freeBlocks_keeps ..).parts .remoteDet (by decide +kernel)
    rw [hpart]
    exact takeDigest_of_detection hr
  · have hk := holding_bump_keeps s l f
    exact ((freeBlocks_keeps ..).bpShows <| takeDigest_of_gain (hk.canon hs) hr n.isLt v.isLt
      ((hk.bpShows (hs.bpShows Bp.live n)).eq.trans hrun) ((hk.watchCode hs n v).trans hcode)).eq

end Sys2Proof.Machine
end

section
/-!
SUPPORT. Targets, the slew and steps of the constant delay (07_delay_flattening.md R186 to R188, R198): what a reservation of
tiles leaves of a band path's record, what a commit does with a target, and how a step is taken and announced.
-/

namespace Sys2Proof.Machine

/-! ### A delay of 48 bits (R8) -/

/-- The 48-bit form of a 48-bit value is that value. -/
theorem signed_wrapBits48_signed (v : Nat) : signed 48 (wrapBits 48 (signed 48 v)) = signed 48 v := by
  unfold signed wrapBits
  split <;> split <;> omega

section
variable {s t : State} {m n : Nat}

/-- A target stored in its two registers is read back from them. -/
theorem wrDelay_targetOf (hs : s.canonical) (n : Nat) (v : Int) :
    (s.wrDelay .FLO_TARGET_LO_TARGET .FLO_TARGET_HI_TARGET n v).targetOf n = signed 48 (wrapBits 48 v) := by
  have hlo := hs.reads_wr_mod (f := .FLO_TARGET_LO_TARGET) (i := n) (v := wrapBits 48 v)
  have hhi : wrapBits 48 v / 2 ^ 32 < 2 ^ Field.FLO_TARGET_HI_TARGET.row.width :=
    Nat.div_lt_of_lt_mul (wrapBits_lt 48 v)
  rw [State.targetOf, State.rdDelay, State.rd2, State.wrDelay, State.wr2, ((wr_keeps ..).reads hlo).eq,
    (hlo.canon.reads_wr (hv := hhi)).eq, Nat.mul_comm]
  exact congrArg (signed 48) (Nat.mod_add_div ..)

/-- An operation that writes neither register of the target leaves the target. -/
theorem State.keeps.targetOf (k : State.keeps m s t) (hs : s.canonical) (n : Nat)
    (hlo : inSet m .FLO_TARGET_LO_TARGET = false := by decide +kernel)
    (hhi : inSet m .FLO_TARGET_HI_TARGET = false := by decide +kernel) : t.targetOf n = s.targetOf n := by
  unfold State.targetOf State.rdDelay State.rd2
  rw [k.fields hs _ _ hlo, k.fields hs _ _ hhi]

end

/-! ### Reservations of tiles (R181, R286) -/

section
variable {s : State} {n : Nat} {α : Type} {g : Bp → α} {w : α}

/-- A reservation fails if it has to grow by more than the pool may give. -/
theorem holdTiles_isNone (s : State) (n want : Nat) : (s.holdTiles n want).isNone =
    decide (runsCount (s.bp n).dly.tiles < want ∧
      runsCount s.tiles.free < want - runsCount (s.bp n).dly.tiles + 64) := by
  unfold State.holdTiles State.takeTiles
  by_cases hgrow : runsCount (s.bp n).dly.tiles < want
  · by_cases hpool : runsCount s.tiles.free < want - runsCount (s.bp n).dly.tiles + 64 <;> simp [hgrow, hpool]
  · simp [hgrow]

/-- Tiles that a band path already holds can be reserved: NO_TILES is not entered. -/
theorem reserveOr_keeps_of_held (h : s.tilesWanted n ≤ runsCount (s.bp n).dly.tiles) :
    State.keeps writes_holdTiles s (s.reserveOr n) := by
  have hsome : (s.holdTiles n (s.tilesWanted n)).isNone = false := by
    rw [holdTiles_isNone]
    exact decide_eq_false fun hc => hc.1.not_ge h
  obtain ⟨t, ht⟩ := Option.isSome_iff_exists.mp (Option.isNone_eq_false_iff.mp hsome)
  rw [State.reserveOr, ht]
  exact (holdTiles_keeps ..).get ht

/-- `g` takes nothing from a band path's record that a reservation rewrites. -/
def unreserved {α : Type} (g : Bp → α) : Prop :=
  ∀ x b ts, g { x with before := b, dly := { x.dly with tiles := ts } } = g x

/-- A reservation that succeeds exchanges tiles with the pool, and gives the band path those it holds. -/
theorem holdTiles_some {want : Nat} {t : State} (h : s.holdTiles n want = some t) : ∃ (u : State) (ts : Bp → List (Nat × Nat)),
    State.keeps (writes [] [.tiles]) s u ∧ t = u.updBp n fun x => { x with dly := { x.dly with tiles := ts x } } := by
  unfold State.holdTiles at h
  dsimp only at h
  split at h
  · split at h
    case h_1 => cases h
    case h_2 u runs hu =>
      exact ⟨u, fun x => x.dly.tiles ++ runs, (takeTiles_keeps ..).get hu, (Option.some.inj h).symm⟩
  · exact ⟨_, fun _ => _, giveTiles_keeps .., (Option.some.inj h).symm⟩

theorem enterInvalid_bpShows (h : s.bpShows g n w) (k : Nat) (hg : unreserved g := by exact fun _ _ _ => rfl) :
    (s.enterInvalid k).bpShows g n w := by
  unfold State.enterInvalid
  dsimp only
  split
  · exact (raise_keeps ..).bpShows <| (wr_keeps ..).bpShows <| h.updBp k fun x => hg x _ x.dly.tiles
  · exact h

theorem enterNoTiles_bpShows (h : s.bpShows g n w) (k : Nat) (hg : unreserved g := by exact fun _ _ _ => rfl) :
    (s.enterNoTiles k).bpShows g n w := by
  have hstate := (wr_keeps s .FLO_STATUS_DSTATE k 5).bpShows h
  unfold State.enterNoTiles
  dsimp only
  split
  · exact enterInvalid_bpShows hstate k hg
  · exact enterInvalid_bpShows ((sendFault_keeps ..).bpShows hstate) k hg

/-- Whether it succeeds or enters NO_TILES, a reservation leaves the rest of a band path's record. -/
theorem reserveOr_bpShows (h : s.bpShows g n w) (k : Nat) (hg : unreserved g := by exact fun _ _ _ => rfl) :
    (s.reserveOr k).bpShows g n w := by
  unfold State.reserveOr
  cases hres : s.holdTiles k (s.tilesWanted k) with
  | none => exact enterNoTiles_bpShows h k hg
  | some t =>
    obtain ⟨u, ts, hu, rfl⟩ := holdTiles_some hres
    exact (hu.bpShows h).updBp k fun x => hg x x.before (ts x)

end

/-! ### The state HELD (Table 84) -/

section
variable {s : State} {n : Nat} {α : Type} {g : Bp → α} {w : α}

theorem enterHeld_reads_state (hs : s.canonical) (n : Nat) : (s.enterHeld n).reads .FLO_STATUS_DSTATE n 2 :=
  (updBp_keeps ..).reads <| (sendClear_keeps ..).reads hs.reads_wr

theorem enterHeld_bpShows (h : s.bpShows g n w) (k : Nat)
    (hg : ∀ x b, g { x with dly := { x.dly with slackSent := b } } = g x := by exact fun _ _ => rfl) :
    (s.enterHeld k).bpShows g n w :=
  ((sendClear_keeps ..).bpShows <| (wr_keeps ..).bpShows h).updBp k fun x => hg x _

end

/-! ### The commit of a target (R186, R198, Table 85) -/

section
variable {s : State} {n : Nat} {v : Int}

theorem targetCode_le_three (s : State) (n : Nat) (v : Int) : s.targetCode n v ≤ 3 := by
  unfold State.targetCode
  extract_lets st held
  split
  · decide
  · split
    · decide
    · split <;> decide

/-- The check of a target does not depend on the counts. -/
theorem targetCode_put_cnt (s : State) (c : Counters) (n : Nat) (v : Int) :
    ({ s with cnt := c } : State).targetCode n v = s.targetCode n v := by
  simp only [State.targetCode, holdTiles_isNone]
  rfl

/-- The target `v` is stored, with REJECT 0, and no low word waits for a commit. -/
def State.storeTarget (s : State) (n : Nat) (v : Int) : State :=
  ((s.updBp n fun x => { x with dly := { x.dly with stagedLo := none } }).clr .FLO_STATUS_REJECT n).wrDelay
    .FLO_TARGET_LO_TARGET .FLO_TARGET_HI_TARGET n v

/-- A step to the target waits for the grain boundary, and STEP_OK is used up. -/
def State.awaitStep (s : State) (n : Nat) : State :=
  (s.updBp n fun x => { x with dly := { x.dly with stepTo := true } }).clr .FLO_CTRL_STEP_OK n

/-- HELD is entered, with SLEWING if D_a has a way to go to the target. -/
def State.slewHeld (s : State) (n : Nat) (away : Bool) : State :=
  ((s.updBp n fun x => { x with dly := { x.dly with stepTo := false } }).wrB .FLO_STATUS_SLEWING n away).enterHeld n

theorem awaitStep_keeps (s : State) (n : Nat) : State.keeps (writes [.FLO_CTRL_STEP_OK] [.bps]) s (s.awaitStep n) :=
  ((updBp_keeps s n _).mono (by decide +kernel)).step (clr_keeps ..) (by decide +kernel)

theorem slewHeld_keeps (s : State) (n : Nat) (away : Bool) :
    State.keeps (writes [.FLO_STATUS_SLEWING] [] ||| writes_enterHeld) s (s.slewHeld n away) := by
  refine State.keeps.step ?_ (enterHeld_keeps ..) (by decide +kernel)
  exact ((updBp_keeps s n _).mono (by decide +kernel)).step (wrB_keeps ..) (by decide +kernel)

theorem storeTarget_spec (hs : s.canonical) (n : Nat) (v : Nat) :
    (s.storeTarget n (signed 48 v)).targetOf n = signed 48 v ∧
    (s.storeTarget n (signed 48 v)).reads .FLO_STATUS_REJECT n 0 ∧
    (s.storeTarget n (signed 48 v)).bpShows (fun x => x.dly.stagedLo) n none := by
  have hupd : (s.updBp n fun x => { x with dly := { x.dly with stagedLo := none } }).canonical := (updBp_keeps ..).canon hs
  exact ⟨(wrDelay_targetOf ((clr_keeps ..).canon hupd) n _).trans (signed_wrapBits48_signed v),
    (wrDelay_keeps ..).reads hupd.reads_wr,
    (wrDelay_keeps ..).bpShows <| (clr_keeps ..).bpShows <| hs.bpShows_updBp (g := fun x => x.dly.stagedLo) _⟩

/-- A refused target shows its code; of the rest only the low word that was staged goes. -/
theorem commitTarget_of_refused (h : s.targetCode n v ≠ 0) : s.commitTarget n v =
    (s.updBp n fun x => { x with dly := { x.dly with stagedLo := none } }).wr .FLO_STATUS_REJECT n (s.targetCode n v) :=
  if_pos h

/-- An allowed target is stored; by the delay state it is no more than stored, or tiles are reserved for it as well, and
then D_a may step or slew to it. -/
theorem commitTarget_cases (h : s.targetCode n v = 0) :
    s.commitTarget n v = s.storeTarget n v ∨
    s.commitTarget n v = (s.storeTarget n v).reserveOr n ∨
    s.commitTarget n v = ((s.storeTarget n v).reserveOr n).awaitStep n ∨
    ∃ away, s.commitTarget n v = ((s.storeTarget n v).reserveOr n).slewHeld n away := by
  unfold State.commitTarget
  dsimp only
  rw [if_neg (not_not_intro h)]
  split
  case h_1 | h_2 =>
    split
    · exact .inr (.inr (.inl rfl))
    · exact .inr (.inr (.inr ⟨_, rfl⟩))
  case h_3 | h_4 => exact .inr (.inl rfl)
  case h_5 => exact .inl rfl

/-- A target committed in HELD without STEP_OK is one that D_a slews to. -/
theorem commitTarget_of_held (h : s.targetCode n v = 0) (hst : delayState s n = 2) (hok : s.rd .FLO_CTRL_STEP_OK n = 0) :
    s.commitTarget n v =
      ((s.storeTarget n v).reserveOr n).slewHeld n (decide (v * fine ≠ (s.bp n).dly.applied)) := by
  have hnot : s.is .FLO_CTRL_STEP_OK n = false := by rw [State.is, hok]; rfl
  unfold State.commitTarget
  dsimp only
  rw [if_neg (not_not_intro h), hst]
  exact if_neg fun hc => Bool.false_ne_true (hnot.symm.trans hc.1)

/-- What follows the storing of an allowed target. -/
theorem commitTarget_keeps_stored (h : s.targetCode n v = 0) :
    State.keeps (writes [.FLO_CTRL_STEP_OK, .FLO_STATUS_SLEWING] [] ||| writes_reserveOr) (s.storeTarget n v)
      (s.commitTarget n v) := by
  have hres : State.keeps (writes [.FLO_CTRL_STEP_OK, .FLO_STATUS_SLEWING] [] ||| writes_reserveOr) (s.storeTarget n v)
      ((s.storeTarget n v).reserveOr n) := (reserveOr_keeps ..).mono (by decide +kernel)
  obtain e | e | e | ⟨away, e⟩ := commitTarget_cases h <;> rw [e]
  · exact State.keeps.refl
  · exact hres
  · exact hres.step (awaitStep_keeps ..) (by decide +kernel)
  · exact hres.step (slewHeld_keeps ..) (by decide +kernel)

theorem commitTarget_stagedLo {lo : Option Nat} (h : s.targetCode n v = 0)
    (hlo : (s.storeTarget n v).bpShows (fun x => x.dly.stagedLo) n lo) :
    (s.commitTarget n v).bpShows (fun x => x.dly.stagedLo) n lo := by
  have hres := reserveOr_bpShows hlo n
  obtain e | e | e | ⟨away, e⟩ := commitTarget_cases h <;> rw [e]
  · exact hlo
  · exact hres
  · exact (clr_keeps ..).bpShows <| hres.updBp n
  · exact enterHeld_bpShows ((wrB_keeps ..).bpShows <| hres.updBp n) n

end

/-! ### What each commit shows -/

section
variable {s : State} {n v : Nat}

/-- A core's write of the high word commits the target that both words form, on a state that differs from the present one
at most in its counts. -/
theorem execFloTargetCommit_commits {q : Sys2Proof.CoreIx} {hi : Sys2Proof.Word} {v : Int} (hs : s.canonical)
    (hn : s.rd .FLO_SEL_N q = n)
    (hv : v = signed 48 ((s.bp n).dly.stagedLo.getD (s.rd .FLO_TARGET_LO_TARGET n) % 2 ^ 32 + hi.toNat % 2 ^ 16 * 2 ^ 32)) :
    ∃ c, ({ s with cnt := c } : State).canonical ∧
      execFloTargetCommit q hi s = .next (({ s with cnt := c } : State).commitTarget n v) := by
  subst hn hv
  obtain ⟨c, hc, ht⟩ := hs.via_core q fun t => t.writeTargetHi (t.rd .FLO_SEL_N q) hi.toNat
  exact ⟨c, hc, congrArg Host.Outcome.next ht⟩

theorem commitTarget_accepted (hs : s.canonical) (h : s.targetCode n (signed 48 v) = 0) :
    (s.commitTarget n (signed 48 v)).targetOf n = signed 48 v ∧
    (s.commitTarget n (signed 48 v)).rd .FLO_STATUS_REJECT n = 0 ∧
    ((s.commitTarget n (signed 48 v)).bp n).dly.stagedLo = none := by
  obtain ⟨htarget, hreject, hstaged⟩ := storeTarget_spec hs n v
  have hk := commitTarget_keeps_stored h
  exact ⟨(hk.targetOf hreject.canon n).trans htarget, (hk.reads hreject).eq, (commitTarget_stagedLo h hstaged).eq⟩

theorem commitTarget_refused {v : Int} (hs : s.canonical) (h : s.targetCode n v ≠ 0) :
    (s.commitTarget n v).targetOf n = s.targetOf n ∧
    (s.commitTarget n v).rd .FLO_STATUS_REJECT n = s.targetCode n v := by
  have hupd := updBp_keeps s n fun x => { x with dly := { x.dly with stagedLo := none } }
  have hfits : s.targetCode n v < 2 ^ Field.FLO_STATUS_REJECT.row.width := (targetCode_le_three ..).trans_lt (by decide)
  rw [commitTarget_of_refused h]
  exact ⟨((wr_keeps ..).targetOf (hupd.canon hs) n).trans (hupd.targetOf hs n), ((hupd.canon hs).reads_wr (hv := hfits)).eq⟩

theorem commitTarget_slews (hs : s.canonical) (h : s.targetCode n (signed 48 v) = 0) (hst : delayState s n = 2)
    (hok : s.rd .FLO_CTRL_STEP_OK n = 0) (haway : signed 48 v * fine ≠ (s.bp n).dly.applied) :
    (s.commitTarget n (signed 48 v)).rd .FLO_STATUS_SLEWING n = 1 ∧
    ((s.commitTarget n (signed 48 v)).bp n).dly.applied = (s.bp n).dly.applied ∧
    delayState (s.commitTarget n (signed 48 v)) n = 2 := by
  have happ : (s.storeTarget n (signed 48 v)).bpShows (fun x => x.dly.applied) n (s.bp n).dly.applied :=
    (wrDelay_keeps ..).bpShows <| (clr_keeps ..).bpShows <| hs.bpShows_updBp (g := fun x => x.dly.applied) _
  have hto := (reserveOr_bpShows happ n).updBp n (y := fun x => { x with dly := { x.dly with stepTo := false } })
  have hslew := hto.canon.reads_wrB (f := .FLO_STATUS_SLEWING) (i := n) (b := true)
  rw [commitTarget_of_held h hst hok, decide_eq_true haway]
  exact ⟨((enterHeld_keeps ..).reads hslew).eq, (enterHeld_bpShows ((wrB_keeps ..).bpShows hto) n).eq,
    (enterHeld_reads_state hslew.canon n).eq⟩

end

/-! ### Steps (R186, R188) -/

section
variable {s : State} {n : Nat} {x : Bp}

theorem State.bpShows.of_id (h : s.bpShows id n x) {α : Type} (g : Bp → α) : s.bpShows g n (g x) :=
  ⟨h.canon, congrArg g h.eq⟩

theorem State.bpShows.updBp_id (h : s.bpShows id n x) (y : Bp → Bp) : (s.updBp n y).bpShows id n (y x) where
  canon := (updBp_keeps ..).canon h.canon
  eq := (h.canon.bp_updBp ..).trans ((if_pos rfl).trans (congrArg y h.eq))

/-- D_a takes the value `a` in a step and HELD is entered, with the step noted for its announcement. -/
def State.takeStep (s : State) (n : Nat) (a : Int) : State :=
  ((((s.stepFrom n 1).updBp n fun x => { x with dly := { x.dly with stepTo := false } }).setApplied n
    a).clr .FLO_STATUS_SLEWING n).enterHeld n

theorem delayStep_of_stepTo (h : (s.bp n).dly.stepTo = true) :
    s.delayStep n = ((s.takeStep n (s.targetOf n * fine)).reserveOr n).announceStep n :=
  congrArg (State.announceStep · n) (if_pos h)

theorem takeStep_keeps (s : State) (n : Nat) (a : Int) :
    State.keeps (writes [.FLO_STATUS_SLEWING] [] ||| writes_setApplied ||| writes_enterHeld) s (s.takeStep n a) := by
  refine State.keeps.step ?_ (enterHeld_keeps ..) (by decide +kernel)
  refine State.keeps.step ?_ (clr_keeps ..) (by decide +kernel)
  refine State.keeps.step ?_ (setApplied_keeps ..) (by decide +kernel)
  refine State.keeps.step ?_ (updBp_keeps ..) (by decide +kernel)
  exact (stepFrom_keeps s n 1).mono (by decide +kernel)

theorem takeStep_reads_state (hs : s.canonical) (n : Nat) (a : Int) : (s.takeStep n a).reads .FLO_STATUS_DSTATE n 2 :=
  enterHeld_reads_state
    ((clr_keeps ..).canon <| (setApplied_keeps ..).canon <| (updBp_keeps ..).canon <| (stepFrom_keeps ..).canon hs) n

/-- The record of a band path whose D_a has stepped to `applied`. -/
def Bp.stepped (x : Bp) (applied : Int) : Bp :=
  { x with dly := { x.dly with
      applied := applied, stepTo := false, announce := some (1, roundDiv x.dly.applied fine), slackSent := false } }

theorem stepFrom_bp (h : s.bpShows id n x) (cause : Nat) : (s.stepFrom n cause).bpShows id n
    { x with dly := { x.dly with announce := some (cause, roundDiv x.dly.applied fine) } } :=
  h.updBp_id _

theorem setApplied_bp (h : s.bpShows id n x) (a : Int) :
    (s.setApplied n a).bpShows id n { x with dly := { x.dly with applied := a } } :=
  (wrDelay_keeps ..).bpShows (h.updBp_id _)

theorem enterHeld_bp (h : s.bpShows id n x) :
    (s.enterHeld n).bpShows id n { x with dly := { x.dly with slackSent := false } } :=
  State.bpShows.updBp_id ((sendClear_keeps ..).bpShows <| (wr_keeps ..).bpShows h) _

theorem takeStep_bp (hs : s.canonical) (n : Nat) (a : Int) : (s.takeStep n a).bpShows id n ((s.bp n).stepped a) :=
  enterHeld_bp <| (clr_keeps ..).bpShows <| setApplied_bp ((stepFrom_bp (hs.bpShows id n) 1).updBp_id _) _

/-- A waiting step is announced in the four ways of R188, and then no longer waits. -/
theorem announceStep_of_announce {c : Nat × Int} (h : (s.bp n).dly.announce = some c) : ∃ body, s.announceStep n =
    (((((s.updBp n fun x => { x with dly := { x.dly with announce := none } }).set1 .BP_STATUS_STEP n).bump
      .FLO_COUNT_STEPS n).record 0x20 n body).sendFault n 0x29).raise 5 := by
  rw [State.announceStep, h]
  exact ⟨_, rfl⟩

theorem announceStep_spec {k : Nat} (hs : s.reads .FLO_COUNT_STEPS n k) {c : Nat × Int}
    (h : (s.bp n).dly.announce = some c) :
    ((s.announceStep n).bp n).dly.announce = none ∧ (s.announceStep n).rd .BP_STATUS_STEP n = 1 ∧
    (s.announceStep n).rd .FLO_COUNT_STEPS n = min (k + 1) (2 ^ Field.FLO_COUNT_STEPS.row.width - 1) ∧
    (s.announceStep n).faultWaits n 0x29 = true := by
  obtain ⟨body, e⟩ := announceStep_of_announce h
  have hbp := hs.canon.bpShows_updBp (n := n) (g := fun x => x.dly.announce) fun x =>
    { x with dly := { x.dly with announce := none } }
  rw [e]
  exact ⟨((raise_keeps ..).bpShows <| (sendFault_keeps ..).bpShows <| (record_keeps ..).bpShows <|
      (bump_keeps ..).bpShows <| (set1_keeps ..).bpShows hbp).eq,
    ((raise_keeps ..).reads <| (sendFault_keeps ..).reads <| (record_keeps ..).reads <|
      (bump_keeps ..).reads hbp.canon.reads_wr).eq,
    ((raise_keeps ..).reads <| (sendFault_keeps ..).reads <| (record_keeps ..).reads <|
      ((set1_keeps ..).reads <| (updBp_keeps ..).reads hs).bump).eq,
    (raise_keeps ..).faultWaits (State.faultWaits_sendFault ..)⟩

theorem announceStep_bpShows {α : Type} {g : Bp → α} {w : α} (h : s.bpShows g n w) (k : Nat)
    (hg : ∀ x, g { x with dly := { x.dly with announce := none } } = g x := by exact fun _ => rfl) :
    (s.announceStep k).bpShows g n w := by
  unfold State.announceStep
  split
  · exact h
  · exact (raise_keeps ..).bpShows <| (sendFault_keeps ..).bpShows <| (record_keeps ..).bpShows <|
      (bump_keeps ..).bpShows <| (set1_keeps ..).bpShows <| h.updBp k hg

/-- The tiles that a step to the target needs are held, so HELD stays. -/
theorem takeStep_reserves (hs : s.canonical) {a : Int} (ha : s.targetOf n * fine = a)
    (h : tilesFor (s.bp n).decl.span a ≤ runsCount (s.bp n).dly.tiles) :
    State.keeps writes_holdTiles (s.takeStep n a) ((s.takeStep n a).reserveOr n) := by
  have hbp : (s.takeStep n a).bp n = (s.bp n).stepped a := (takeStep_bp hs n a).eq
  refine reserveOr_keeps_of_held ?_
  rw [State.tilesWanted, (takeStep_keeps s n a).targetOf hs, ha, hbp]
  simp only [Bp.stepped, max_self]
  exact h

theorem delayStep_spec (hs : s.canonical) (hto : (s.bp n).dly.stepTo = true)
    (h : tilesFor (s.bp n).decl.span (s.targetOf n * fine) ≤ runsCount (s.bp n).dly.tiles) :
    ((s.delayStep n).bp n).dly.applied = s.targetOf n * fine ∧ ((s.delayStep n).bp n).dly.stepTo = false ∧
    ((s.delayStep n).bp n).dly.announce = none ∧ (s.delayStep n).rd .BP_STATUS_STEP n = 1 ∧
    (s.delayStep n).rd .FLO_COUNT_STEPS n =
      min (s.rd .FLO_COUNT_STEPS n + 1) (2 ^ Field.FLO_COUNT_STEPS.row.width - 1) ∧
    (s.delayStep n).faultWaits n 0x29 = true ∧ delayState (s.delayStep n) n = 2 := by
  have hbp := takeStep_bp hs n (s.targetOf n * fine)
  have hres := takeStep_reserves hs rfl h
  have hcount := hres.reads <| (takeStep_keeps s n _).reads (hs.reads .FLO_COUNT_STEPS n)
  have hann := reserveOr_bpShows (hbp.of_id fun x => x.dly.announce) n
  have hheld := takeStep_reads_state hs n (s.targetOf n * fine)
  obtain ⟨hnone, hstep, hsteps, hfault⟩ := announceStep_spec hcount hann.eq
  rw [delayStep_of_stepTo hto]
  exact ⟨(announceStep_bpShows (reserveOr_bpShows (hbp.of_id fun x => x.dly.applied) n) n).eq,
    (announceStep_bpShows (reserveOr_bpShows (hbp.of_id fun x => x.dly.stepTo) n) n).eq, hnone, hstep, hsteps, hfault,
    ((announceStep_keeps ..).reads <| hres.reads hheld).eq⟩

end

/-! ### Firmware's slew (R187) -/

section
variable {s : State}

theorem writeDlySlew_of_le (hs : s.canonical) (v : BitVec 16) (h : v.toNat ≤ s.rd .FLO_SLEW_DLY_SLEW) :
    (s.writeDlySlew v.toNat).rd .FLO_SLEW_FW_DLY_SLEW = v.toNat ∧
    ∀ n : Fin 128, (s.writeDlySlew v.toNat).rd .FLO_STATUS_SLEW_CLAMP n = s.rd .FLO_STATUS_SLEW_CLAMP n := by
  have hw : s.writeDlySlew v.toNat = s.wr .FLO_SLEW_FW_DLY_SLEW 0 v.toNat :=
    if_neg (not_lt.mpr ((Nat.mod_le ..).trans h))
  rw [hw]
  exact ⟨(hs.reads_wr (hv := v.isLt)).eq, fun n => ((wr_keeps ..).reads (hs.reads ..)).eq⟩

/-- Each band path shows that a write of the slew was clamped. -/
theorem slewClamp_reads {n : Nat} (hs : s.canonical) (hn : n < 128) :
    (s.forEach (fun n t => t.set1 .FLO_STATUS_SLEW_CLAMP n) allBps).reads .FLO_STATUS_SLEW_CLAMP n 1 :=
  State.forEach_effect (P := State.canonical) (Q := (·.reads .FLO_STATUS_SLEW_CLAMP n 1)) (List.mem_range.mpr hn) hs
    (fun _ _ ht => (set1_keeps ..).canon ht) (fun _ ht => ht.reads_wr) fun m _ ht => ht.set1 m

theorem writeDlySlew_of_gt (hs : s.canonical) (v : BitVec 16) (h : s.rd .FLO_SLEW_DLY_SLEW < v.toNat) :
    (s.writeDlySlew v.toNat).rd .FLO_SLEW_FW_DLY_SLEW = s.rd .FLO_SLEW_DLY_SLEW ∧
    ∀ n : Fin 128, (s.writeDlySlew v.toNat).rd .FLO_STATUS_SLEW_CLAMP n = 1 := by
  have hw : s.writeDlySlew v.toNat = (s.wr .FLO_SLEW_FW_DLY_SLEW 0 (s.rd .FLO_SLEW_DLY_SLEW)).forEach
      (fun n t => t.set1 .FLO_STATUS_SLEW_CLAMP n) allBps := if_pos ((Nat.mod_eq_of_lt v.isLt).symm ▸ h)
  have hslew : (s.wr .FLO_SLEW_FW_DLY_SLEW 0 (s.rd .FLO_SLEW_DLY_SLEW)).reads .FLO_SLEW_FW_DLY_SLEW 0
      (s.rd .FLO_SLEW_DLY_SLEW) := hs.reads_wr (hv := h.trans v.isLt)
  rw [hw]
  exact ⟨(State.forEach_invariant (P := (·.reads .FLO_SLEW_FW_DLY_SLEW 0 _)) hslew fun _ _ ht =>
    (set1_keeps ..).reads ht).eq, fun n => (slewClamp_reads hslew.canon n.isLt).eq⟩

end

/-- Settles O30: a commit stores or refuses the target as its code says, an accepted step is taken and then announced, and
firmware's slew is stored under the clamp. -/
theorem delayTargetsAndSteps : Obligations.DelayTargetsAndSteps := by
  unfold Obligations.DelayTargetsAndSteps
  refine ⟨fun s q hi n v hs hn hv hcode => ?_, fun s q hi n v hs hn hv hcode => ?_,
    fun s q hi n v hs hn hv hcode hst hok haway => ?_, fun s n hs hrun hto hheld => ?_,
    fun s v hs h => ⟨_, rfl, writeDlySlew_of_le hs v h⟩, fun s v hs h => ⟨_, rfl, writeDlySlew_of_gt hs v h⟩⟩
  · obtain ⟨c, hc, ht⟩ := execFloTargetCommit_commits hs hn hv
    subst hv
    exact ⟨_, ht, commitTarget_accepted hc ((targetCode_put_cnt ..).trans hcode)⟩
  · obtain ⟨c, hc, ht⟩ := execFloTargetCommit_commits hs hn hv
    have hcode' := targetCode_put_cnt s c n v
    obtain ⟨htarget, hreject⟩ := commitTarget_refused hc (hcode'.trans_ne hcode)
    exact ⟨_, ht, htarget, hreject.trans hcode'⟩
  · obtain ⟨c, hc, ht⟩ := execFloTargetCommit_commits hs hn hv
    subst hv
    have hcode' := (targetCode_put_cnt s c n _).trans hcode
    obtain ⟨htarget, -, -⟩ := commitTarget_accepted hc hcode'
    exact ⟨_, ht, htarget, commitTarget_slews hc hcode' hst hok haway⟩
  · exact ⟨_, congrArg Host.Outcome.next (if_pos hrun), delayStep_spec hs hto hheld⟩

end Sys2Proof.Machine
end

section
/-!
SUPPORT. The Plain mask through an operation (08_emission_guard.md R201 to R204, R209): effective limits and forbidden bins
rest on the mask, its ranges, the port offsets and the verifiable floor, and stay as they are where those stay.
-/

namespace Sys2Proof.Machine

set_option Elab.async false

/-- The register fields on which the limits of a bin rest beside the mask and its ranges (R201, R209). -/
def limitFields : List Field :=
  [.PLN_PORT_OFS_OFS0, .PLN_PORT_OFS_OFS1, .PLN_PORT_OFS_OFS2, .PLN_PORT_OFS_OFS3, .EMG_FLOOR_N, .EMG_LIMIT_OBS_ATT_MAX]

/-- The set `m` holds nothing on which the limits of a bin rest. -/
def limitsOutside (m : Nat) : Bool := !partIn m .plain && limitFields.all fun f => !inSet m f

section
variable {s t : State} {m : Nat}

theorem partIn_plain_of_limitsOutside (hm : limitsOutside m = true) : partIn m .plain = false := by
  obtain ⟨hplain, -⟩ := Bool.and_eq_true_iff.mp hm
  simpa using hplain

theorem State.keeps.limitField (k : State.keeps m s t) (hs : s.canonical) (hm : limitsOutside m = true) {f : Field}
    (hf : f ∈ limitFields) (i : Nat) : t.rd f i = s.rd f i := by
  obtain ⟨-, hall⟩ := Bool.and_eq_true_iff.mp hm
  exact k.fields hs f i (by simpa using List.all_eq_true.mp hall f hf)

theorem State.keeps.tightenings (k : State.keeps m s t) (hm : limitsOutside m = true) : t.tightenings = s.tightenings := by
  have hp : t.plain = s.plain := k.parts .plain (partIn_plain_of_limitsOutside hm)
  simp only [State.tightenings, hp]

theorem State.keeps.plainEntry (k : State.keeps m s t) (hm : limitsOutside m = true) (b : Nat) :
    t.plainEntry b = s.plainEntry b := by
  have hp : t.plain = s.plain := k.parts .plain (partIn_plain_of_limitsOutside hm)
  simp only [State.plainEntry, hp]

theorem State.keeps.portOffset (k : State.keeps m s t) (hs : s.canonical) (hm : limitsOutside m = true) (p : Nat) :
    t.portOffset p = s.portOffset p := by
  unfold State.portOffset
  rw [k.limitField hs hm]
  repeat' split
  all_goals decide

theorem State.keeps.limitOf (k : State.keeps m s t) (hs : s.canonical) (hm : limitsOutside m = true) (p b : Nat) :
    t.limitOf p b = s.limitOf p b := by
  simp only [State.limitOf, k.tightenings hm, k.plainEntry hm, k.portOffset hs hm]

theorem State.keeps.verifiable (k : State.keeps m s t) (hs : s.canonical) (hm : limitsOutside m = true) (p : Nat) :
    t.verifiable p = s.verifiable p := by
  rw [State.verifiable, State.rdS, k.limitField hs hm (by decide), k.limitField hs hm (by decide)]
  rfl

theorem State.keeps.forbidden (k : State.keeps m s t) (hs : s.canonical) (hm : limitsOutside m = true) (p b : Nat) :
    t.forbidden p b = s.forbidden p b := by
  simp only [State.forbidden, State.marked, k.tightenings hm, k.plainEntry hm, k.limitOf hs hm, k.verifiable hs hm]

/-- What an operation leaves as it was, it leaves so in the guard's view as well (R204). -/
theorem State.keeps.guardView (k : State.keeps m s t) (hm : limitsOutside m = true) :
    State.keeps m s.guardView t.guardView where
  canon hs := { k.canon { hs with } with }
  fields hs f i hf := k.fields { hs with } f i hf
  parts p hp := by
    have hplain : t.plain = s.plain := k.parts .plain (partIn_plain_of_limitsOutside hm)
    have hsame := k.parts p hp
    cases p with
    | plain => exact congrArg (fun x : Plain => { x with ranges := x.acting }) hplain
    | _ => exact hsame

/-- A bin breaks its limit as it did before. -/
theorem State.keeps.excess (k : State.keeps m s t) (hs : s.canonical) (hm : limitsOutside m = true)
    (htrip : inSet m .EMG_LIMIT_TRIP_DB = false := by decide +kernel) (p b sum n : Nat) :
    t.excess p b sum n = s.excess p b sum n := by
  have hv : s.guardView.canonical := { hs with }
  have hdb : t.tripDb = s.tripDb := by rw [State.tripDb, k.fields hs _ _ htrip, State.tripDb]
  rw [State.excess, (k.guardView hm).forbidden hv hm, (k.guardView hm).limitOf hv hm, hdb, State.excess]

end

end Sys2Proof.Machine
end

section
/-!
SUPPORT. Spectra, decisions and the fast ceiling (08_emission_guard.md R207, R214, R215, R217): what a trip leaves in the
record of a band path, the stages of a decision, and the statement on the three commands.
-/

namespace Sys2Proof.Machine

set_option Elab.async false

/-! ### Mutes of a band path (R212, R217) -/

/-- A record that shows `v` through `g` still does so once a mute is added. -/
def mutesLeave {α : Type} (g : Bp → α) (v : α) : Prop :=
  ∀ x c, g x = v → g { x with mutes := x.mutes ++ [c] } = v

section
variable {s : State} {n cause : Nat} {α : Type} {g : Bp → α} {v : α}

/-- An update that keeps `v` shown wherever it is shown. -/
theorem State.bpShows.updBp_of (h : s.bpShows g n v) (k : Nat) {y : Bp → Bp} (hy : ∀ x, g x = v → g (y x) = v) :
    (s.updBp k y).bpShows g n v where
  canon := (updBp_keeps s k y).canon h.canon
  eq := by
    rw [h.canon.bp_updBp]
    split
    case isTrue e => exact hy _ (e ▸ h.eq)
    case isFalse => exact h.eq

theorem mute_bpShows (h : s.bpShows g n v) (hg : mutesLeave g v) (k c : Nat) : (s.mute k c).bpShows g n v := by
  unfold State.mute
  split
  · exact h
  · exact h.updBp_of k fun x => hg x c

theorem g2Mute_bpShows (h : s.bpShows g n v) (hg : mutesLeave g v) (k c : Nat) : (s.g2Mute k c).bpShows g n v :=
  (g2Show_keeps ..).bpShows (mute_bpShows h hg k c)

/-- A cause that a band path does not hold is added behind those it holds. -/
theorem mute_mutes (hs : s.canonical) (h : cause ∉ (s.bp n).mutes) :
    (s.mute n cause).bpShows Bp.mutes n ((s.bp n).mutes ++ [cause]) := by
  have hnew : s.mute n cause = s.updBp n fun x => { x with mutes := x.mutes ++ [cause] } := if_neg (by simp [h])
  rw [hnew]
  exact hs.bpShows_updBp _

/-- A mute of G2 other than OUT shows in G2_MUTED. -/
theorem g2Show_reads_muted {ms : List Nat} (h : s.bpShows Bp.mutes n ms) (hc : cause ∈ ms)
    (hg : cause ∈ [muteFine, muteCeiling, muteForbid, muteTile]) : (s.g2Show n).reads .EMG_BP_STATUS_G2_MUTED n 1 := by
  have hany : ((s.bp n).mutes.any fun c => [muteFine, muteCeiling, muteForbid, muteTile].contains c || decide (32 ≤ c)) =
      true := by
    rw [h.eq]
    exact List.any_eq_true.mpr ⟨cause, hc, by rw [List.contains_iff_mem.mpr hg, Bool.true_or]⟩
  unfold State.g2Show
  dsimp only
  rw [hany]
  exact (wrB_keeps ..).reads h.canon.reads_wrB

end

/-! ### Trips (R214, R217, Table 100) -/

section
variable {s : State} {n cause : Nat}

/-- A trip of a cause that the band path does not hold: its bit, the mute, the tally and the fault, after a count which
`u` has. -/
theorem g2Trip_of_new (h : cause ∉ (s.bp n).mutes) (f : Field) (code : Nat) : ∃ u : State,
    State.keeps (writes [.EMG_BP_CEIL_G2_TRIPS] []) s u ∧ s.g2Trip n cause f code =
      (((u.set1 f n).g2Mute n cause).tally 3 0x06 (s.bp n).decl.dstPort).sendFault n code := by
  unfold State.g2Trip
  extract_lets held s1
  refine ⟨s1, .ite (fun _ => .refl) fun _ => bump_keeps .., if_neg (by simp [held, h])⟩

theorem g2Trip_bpShows {α : Type} {g : Bp → α} {v : α} (h : s.bpShows g n v) (hg : mutesLeave g v) (k c : Nat) (f : Field)
    (code : Nat) : (s.g2Trip k c f code).bpShows g n v := by
  by_cases hk : c ∈ (s.bp k).mutes
  · have hheld : s.g2Trip k c f code = s := if_pos (List.contains_iff_mem.mpr hk)
    rwa [hheld]
  · obtain ⟨u, hu, ht⟩ := g2Trip_of_new hk f code
    have hf : (u.set1 f k).bpShows g n v := (set1_keeps ..).bpShows (hu.bpShows h) (partIn_writes (by decide))
    rw [ht]
    exact (sendFault_keeps ..).bpShows <| (tally_keeps ..).bpShows <| g2Mute_bpShows hf hg k c

/-- After a trip of a cause the band path holds it. -/
theorem g2Trip_holds (hs : s.canonical) (n cause : Nat) (f : Field) (code : Nat) :
    (s.g2Trip n cause f code).bpShows (fun x => x.mutes.contains cause) n true := by
  by_cases hk : cause ∈ (s.bp n).mutes
  · have hheld : s.g2Trip n cause f code = s := if_pos (List.contains_iff_mem.mpr hk)
    rw [hheld]
    exact ⟨hs, List.contains_iff_mem.mpr hk⟩
  · obtain ⟨u, hu, ht⟩ := g2Trip_of_new hk f code
    have hf : (u.set1 f n).bpShows Bp.mutes n (s.bp n).mutes :=
      (set1_keeps ..).bpShows (hu.bpShows (hs.bpShows Bp.mutes n)) (partIn_writes (by decide))
    have hmute := mute_mutes hf.canon (hf.eq.symm ▸ hk)
    rw [ht]
    refine (sendFault_keeps ..).bpShows <| (tally_keeps ..).bpShows <| (g2Show_keeps ..).bpShows ⟨hmute.canon, ?_⟩
    simp [hmute.eq]

/-- A trip of the fast ceiling (R214). -/
theorem g2Trip_ceiling_spec (hs : s.canonical) (h : muteCeiling ∉ (s.bp n).mutes) :
    let t := s.g2Trip n muteCeiling .EMG_BP_STATUS_CEILING 0x04
    (t.bp n).mutes = (s.bp n).mutes ++ [muteCeiling] ∧ t.rd .EMG_BP_STATUS_CEILING n = 1 ∧
    t.rd .EMG_BP_STATUS_G2_MUTED n = 1 ∧ t.faultWaits n 0x04 = true := by
  obtain ⟨u, hu, ht⟩ := g2Trip_of_new h .EMG_BP_STATUS_CEILING 0x04
  have hbit : (u.set1 .EMG_BP_STATUS_CEILING n).reads .EMG_BP_STATUS_CEILING n 1 := (hu.canon hs).reads_wr
  have hf : (u.set1 .EMG_BP_STATUS_CEILING n).bpShows Bp.mutes n (s.bp n).mutes :=
    (set1_keeps ..).bpShows (hu.bpShows (hs.bpShows Bp.mutes n))
  have hmute := mute_mutes hbit.canon (hf.eq.symm ▸ h)
  rw [hf.eq] at hmute
  have hshow := g2Show_reads_muted hmute (List.mem_append_right _ (List.mem_singleton_self _)) (by decide)
  simp only [ht]
  exact ⟨((sendFault_keeps ..).bpShows <| (tally_keeps ..).bpShows <| (g2Show_keeps ..).bpShows hmute).eq,
    ((sendFault_keeps ..).reads <| (tally_keeps ..).reads <| (g2Mute_keeps ..).reads hbit).eq,
    ((sendFault_keeps ..).reads <| (tally_keeps ..).reads hshow).eq, State.faultWaits_sendFault ..⟩

end

/-! ### OUT (R217, R219) -/

/-- The port is muted and HOLD has passed. -/
def Port.holdPassed (x : Port) : Bool := x.outMute && x.holdOver

section
variable {s : State} {p : Nat}

theorem pilotMute_portShows {α : Type} {g : Port → α} {v : α} (h : s.portShows g p v) (q c : Nat)
    (hg : ∀ x y, g { x with pilot := y } = g x := by exact fun _ _ => rfl) : (s.pilotMute q c).portShows g p v := by
  unfold State.pilotMute
  split
  · exact h
  · have hm := h.updPort q (y := fun x => { x with pilot := { x.pilot with mutes := x.pilot.mutes ++ [c] } })
      fun x => hg x _
    extract_lets s1
    split
    · exact hm
    · exact (wr_keeps ..).portShows hm

theorem pilotTrip_portShows {α : Type} {g : Port → α} {v : α} (h : s.portShows g p v) (q : Nat)
    (hg : ∀ x y, g { x with pilot := y } = g x := by exact fun _ _ => rfl) : (s.pilotTrip q).portShows g p v := by
  unfold State.pilotTrip
  split
  · exact h
  · exact (sendFault_keeps ..).portShows <| (tally_keeps ..).portShows <|
      pilotMute_portShows (hg := hg) ((bump_keeps ..).portShows <| (set1_keeps ..).portShows h) ..

/-- A trip of OUT begins the mute, so its HOLD has not passed. -/
theorem outTrip_holdPassed (h : s.portShows Port.holdPassed p false) :
    (s.outTrip p).portShows Port.holdPassed p false := by
  unfold State.outTrip
  split
  · exact h
  · refine (sendFault_keeps ..).portShows <| (tally_keeps ..).portShows <| pilotMute_portShows ?_ ..
    refine State.forEach_invariant (P := (·.portShows Port.holdPassed p false)) ?_
      fun n t ht => (set1_keeps ..).portShows <| (g2Mute_keeps ..).portShows ht
    exact State.canonical.portShows_updPort (g := Port.holdPassed)
      ((bump_keeps ..).canon <| (set1_keeps ..).canon <| (set1_keeps ..).canon h.canon) _

theorem outTrip_bpShows {n : Nat} {α : Type} {g : Bp → α} {v : α} (h : s.bpShows g n v) (hg : mutesLeave g v) :
    (s.outTrip p).bpShows g n v := by
  unfold State.outTrip
  split
  · exact h
  · refine (sendFault_keeps ..).bpShows <| (tally_keeps ..).bpShows <| (pilotMute_keeps ..).bpShows ?_
    refine State.forEach_invariant (P := (·.bpShows g n v)) ?_
      fun k t ht => (set1_keeps ..).bpShows <| g2Mute_bpShows ht hg ..
    exact (updPort_keeps ..).bpShows <| (bump_keeps ..).bpShows <| (set1_keeps ..).bpShows <| (set1_keeps ..).bpShows h

end

/-! ### The trips of a decision (R217) -/

section
variable {s : State} {p : Nat} {xs : List Spectrum}

/-- What each single trip keeps, the trips of a decision keep. -/
theorem decide'_invariant {P : State → Prop} (h : P s) (hpilot : ∀ t, P t → P (t.pilotTrip p))
    (hfine : ∀ t u, P t → P (t.g2Trip u muteFine .EMG_BP_STATUS_FINE 0x03)) (hout : ∀ t, P t → P (t.outTrip p)) :
    P (s.decide' p xs) := by
  unfold State.decide'
  extract_lets sums gs hot units s1
  have h1 : P s1 := State.forEach_invariant h fun u t ht => by
    split
    · exact hpilot t ht
    · exact hfine t u ht
  split
  · exact hout s1 h1
  · exact h1

theorem decide'_bpShows {n : Nat} {α : Type} {g : Bp → α} {v : α} (h : s.bpShows g n v) (hg : mutesLeave g v) :
    (s.decide' p xs).bpShows g n v :=
  decide'_invariant (P := (·.bpShows g n v)) h (fun _ ht => (pilotTrip_keeps ..).bpShows ht)
    (fun _ _ ht => g2Trip_bpShows ht hg ..) fun _ ht => outTrip_bpShows ht hg

theorem decide'_holdPassed (h : s.portShows Port.holdPassed p false) :
    (s.decide' p xs).portShows Port.holdPassed p false :=
  decide'_invariant (P := (·.portShows Port.holdPassed p false)) h (fun _ ht => pilotTrip_portShows ht p)
    (fun _ _ ht => (g2Trip_keeps ..).portShows ht) fun _ ht => outTrip_holdPassed ht

theorem mutesLeave_contains (c : Nat) : mutesLeave (fun x => x.mutes.contains c) true := by
  intro x k h
  simp only [List.contains_iff_mem, List.mem_append] at h ⊢
  exact Or.inl h

/-- A band path that guards a bin above its limit by TRIP_DB is tripped. -/
theorem decide'_holds_fine (hs : s.canonical) {n : Nat} (hn : n ≠ 128) {b : Nat × Nat} (hb : b ∈ powerSums xs)
    (hex : s.excess p b.1 b.2 xs.length = true) (hg : n ∈ guardsOf (s.guardList p xs) b.1) :
    (s.decide' p xs).bpShows (fun x => x.mutes.contains muteFine) n true := by
  unfold State.decide'
  extract_lets sums gs hot units s1
  have hunit : n ∈ units := List.mem_dedup.mpr (List.mem_flatMap.mpr ⟨b, List.mem_filter.mpr ⟨hb, hex⟩, hg⟩)
  have h1 : s1.bpShows (fun x => x.mutes.contains muteFine) n true := by
    refine State.forEach_effect (P := State.canonical) (Q := (·.bpShows (fun x => x.mutes.contains muteFine) n true))
      hunit hs (fun u t ht => ?_) (fun t ht => ?_) fun u t ht => ?_
    · split
      · exact (pilotTrip_keeps ..).canon ht
      · exact (g2Trip_keeps ..).canon ht
    · rw [if_neg hn]
      exact g2Trip_holds ht ..
    · split
      · exact (pilotTrip_keeps ..).bpShows ht
      · exact g2Trip_bpShows ht (mutesLeave_contains _) ..
  split
  · exact outTrip_bpShows h1 (mutesLeave_contains _)
  · exact h1

end

/-! ### The stages of a decision (R207, R215) -/

/-- The emission headroom of each band path of the window, in its status and in its loop engine (R215). -/
def State.giveHeadrooms (s : State) (p : Nat) (xs : List Spectrum) : State :=
  s.forEach (fun n t => (t.wr .EMG_BP_STATUS_H_E n (wrapBits 16 (s.headroom n xs.length (powerSums xs)))).updBp n fun x =>
    { x with eng := { x.eng with emit := some (unit * s.headroom n xs.length (powerSums xs)) } }) (s.windowOut p)

/-- What the worst bin and the tally of a decision may write. -/
def writes_worst : Nat := writes [.EMG_WORST_BIN_BIN, .EMG_WORST_EXCESS] [] ||| writes_tally

section
variable {s : State} {p : Nat} {xs : List Spectrum}

theorem giveHeadrooms_keeps (s : State) (p : Nat) (xs : List Spectrum) :
    State.keeps (writes [.EMG_BP_STATUS_H_E] [.bps]) s (s.giveHeadrooms p xs) :=
  State.keeps.forEach .refl fun _ _ k =>
    (k.step (wr_keeps ..) (by decide +kernel)).step (updBp_keeps ..) (by decide +kernel)

/-- Each band path of the window is given its headroom. -/
theorem giveHeadrooms_spec (hs : s.canonical) {n : Nat} (hn : n ∈ s.windowOut p) :
    (s.giveHeadrooms p xs).reads .EMG_BP_STATUS_H_E n (wrapBits 16 (s.headroom n xs.length (powerSums xs))) ∧
    (s.giveHeadrooms p xs).bpShows (fun x => x.eng.emit) n (some (unit * s.headroom n xs.length (powerSums xs))) := by
  constructor
  · refine State.forEach_effect (P := State.canonical) (Q := (·.reads .EMG_BP_STATUS_H_E n _)) hn hs
      (fun k t ht => (updBp_keeps ..).canon <| (wr_keeps ..).canon ht)
      (fun t ht => (updBp_keeps ..).reads <| ht.reads_wr (hv := wrapBits_lt ..)) fun k t ht => (updBp_keeps ..).reads ?_
    by_cases hk : k = n
    · subst hk
      exact ht.canon.reads_wr (hv := wrapBits_lt ..)
    · exact ⟨(wr_keeps ..).canon ht.canon,
        (State.rd_wr_ne (goodRegs.wf ht.canon.regs) _ (Or.inr (Ne.symm hk))).trans ht.eq⟩
  · refine State.forEach_effect (P := State.canonical) (Q := (·.bpShows (fun x => x.eng.emit) n _)) hn hs
      (fun k t ht => (updBp_keeps ..).canon <| (wr_keeps ..).canon ht)
      (fun t ht => ((wr_keeps ..).canon ht).bpShows_updBp _) fun k t ht => ?_
    by_cases hk : k = n
    · subst hk
      exact ((wr_keeps ..).canon ht.canon).bpShows_updBp _
    · have hw := (wr_keeps t .EMG_BP_STATUS_H_E k (wrapBits 16 (s.headroom k xs.length (powerSums xs)))).bpShows ht
      exact ⟨(updBp_keeps ..).canon hw.canon, by rw [hw.canon.bp_updBp, if_neg (Ne.symm hk)]; exact hw.eq⟩

theorem giveHeadrooms_running (hs : s.canonical) (n : Nat) : (s.giveHeadrooms p xs).running n = s.running n :=
  (State.forEach_invariant (P := (·.bpShows Bp.live n (s.running n))) (hs.bpShows Bp.live n) fun _ _ ht =>
    ((wr_keeps ..).bpShows ht).updBp _).eq

/-- What comes before the trips leaves what is guarded and which bins break their limits. -/
theorem State.keeps.guardList_of_giveHeadrooms {u : State} (k : State.keeps writes_worst (s.giveHeadrooms p xs) u)
    (hs : s.canonical) (q : Nat) (ys : List Spectrum) : u.guardList q ys = s.guardList q ys := by
  have hrun : u.running = s.running := funext fun n => by
    rw [← giveHeadrooms_running hs n, State.running, k.bp (by decide +kernel), State.running]
  have hport : u.port q = s.port q := by
    rw [k.port (by decide +kernel), (giveHeadrooms_keeps ..).port (by decide +kernel)]
  rw [State.guardList, hrun, hport, State.guardList]

theorem State.keeps.excess_of_giveHeadrooms {u : State} (k : State.keeps writes_worst (s.giveHeadrooms p xs) u)
    (hs : s.canonical) (q b sum n : Nat) : u.excess q b sum n = s.excess q b sum n := by
  have hk : State.keeps (writes [.EMG_BP_STATUS_H_E] [.bps] ||| writes_worst) s u :=
    ((giveHeadrooms_keeps s p xs).mono (by decide +kernel)).step k (by decide +kernel)
  exact hk.excess hs (by decide +kernel) (by decide +kernel) ..

/-- With a valid mean the port's headrooms, worst bin and tally are followed by the trips, and no more on a port without an
OUT mute. -/
theorem execG2Decision_of_mean {p : Sys2Proof.PortIx} (hs : s.canonical) (h : s.meanOf p = some xs)
    (hmute : (s.port p).outMute = false) :
    ∃ u, State.keeps writes_worst (s.giveHeadrooms p xs) u ∧ execG2Decision p s = .next (u.decide' p xs) := by
  generalize ht : execG2Decision p s = t
  unfold execG2Decision at ht
  rw [h] at ht
  dsimp -zeta only at ht
  extract_lets sums m s1 s2 s3 at ht
  have hk : State.keeps writes_worst s1 (s2.tally 3 0x05 p) := by
    refine State.keeps.step ?_ (tally_keeps ..) (by decide +kernel)
    unfold s2
    split
    · exact .refl
    · exact ((wr_keeps ..).mono (by decide +kernel)).step (wr_keeps ..) (by decide +kernel)
  have hport : s.portShows Port.holdPassed p false := ⟨hs, by rw [Port.holdPassed, hmute, Bool.false_and]⟩
  have h3 : ((s3.port p).outMute && (s3.port p).holdOver) = false :=
    (decide'_holdPassed <| hk.portShows <| (giveHeadrooms_keeps s p xs).portShows hport).eq
  rw [h3, if_neg Bool.false_ne_true] at ht
  exact ⟨_, hk, ht.symm⟩

/-- A decision gives every band path of the window its headroom. -/
theorem g2Decision_headroom {p : Sys2Proof.PortIx} (hs : s.canonical) (h : s.meanOf p = some xs)
    (hmute : (s.port p).outMute = false) {n : Nat} (hn : n ∈ s.windowOut p) : ∃ t, execG2Decision p s = .next t ∧
      t.rd .EMG_BP_STATUS_H_E n = wrapBits 16 (s.headroom n xs.length (powerSums xs)) ∧
      (t.bp n).eng.emit = some (unit * s.headroom n xs.length (powerSums xs)) := by
  obtain ⟨u, hk, hu⟩ := execG2Decision_of_mean hs h hmute
  obtain ⟨hread, hemit⟩ := giveHeadrooms_spec (xs := xs) hs hn
  exact ⟨_, hu, ((decide'_keeps ..).reads <| hk.reads hread).eq, (decide'_bpShows (hk.bpShows hemit) fun _ _ hx => hx).eq⟩

/-- A decision mutes each band path that guards a bin above its limit by TRIP_DB. -/
theorem g2Decision_fine {p : Sys2Proof.PortIx} (hs : s.canonical) (h : s.meanOf p = some xs)
    (hmute : (s.port p).outMute = false) {n : Nat} (hn : n ≠ 128) {b : Nat × Nat} (hb : b ∈ powerSums xs)
    (hex : s.excess p b.1 b.2 xs.length = true) (hg : n ∈ guardsOf (s.guardList p xs) b.1) :
    ∃ t, execG2Decision p s = .next t ∧ muteFine ∈ (t.bp n).mutes := by
  obtain ⟨u, hk, hu⟩ := execG2Decision_of_mean hs h hmute
  rw [← hk.excess_of_giveHeadrooms hs] at hex
  rw [← hk.guardList_of_giveHeadrooms hs] at hg
  have hcanon : u.canonical := hk.canon ((giveHeadrooms_keeps ..).canon hs)
  exact ⟨_, hu, List.contains_iff_mem.mp (decide'_holds_fine hcanon hn hb hex hg).eq⟩

end

/-! ### Spectra and the fast ceiling (R205, R207, R214) -/

section
variable {s : State}

/-- The spectrum that port `p` has finished, of the powers of its bins (R205, R207, R217). -/
def State.finishedSpectrum (s : State) (p : Nat) (bins : List (Nat × Nat)) : Spectrum :=
  ⟨(decide (s.feState p = 3) && (s.port p).move.isNone) && !(s.port p).obsBroken, (s.port p).outMute && (s.port p).outSince,
    bins.filter (fun b => s.keepsBin p b.1), ((s.port p).guards ++ s.guardsNow p).dedup⟩

/-- A finished spectrum joins the mean of its port, and no register changes. -/
theorem execSpectrumDone_spectra (hs : s.canonical) (p : Sys2Proof.PortIx) (power : Sys2Proof.PowerSpectrum) :
    ∃ t, execSpectrumDone p power s = .next t ∧ t.regs = s.regs ∧
      (t.port p).spectra = (s.finishedSpectrum p power.bins :: (s.port p).spectra).take 16 :=
  ⟨_, rfl, rfl, congrArg Port.spectra ((State.port_setPort hs.ports ..).trans (if_pos rfl))⟩

theorem execG2Ceiling_of_above {n : Sys2Proof.BpIx} {w : Nat} (hrun : s.running n = true) (hemit : s.emits n = true)
    (h : tenAtMost true (s.rdS .EMG_BP_CEIL_CEIL n) w (s.ceilS * 32767 ^ 2) 5000 = true) :
    execG2Ceiling n w s = .next (s.g2Trip n muteCeiling .EMG_BP_STATUS_CEILING 0x04) :=
  congrArg Host.Outcome.next (if_pos (by rw [hrun, hemit, h]; rfl))

theorem execG2Ceiling_of_below {n : Sys2Proof.BpIx} {w : Nat}
    (h : tenAtMost true (s.rdS .EMG_BP_CEIL_CEIL n) w (s.ceilS * 32767 ^ 2) 5000 = false) :
    execG2Ceiling n w s = .next s :=
  congrArg Host.Outcome.next (if_neg (by rw [h, Bool.and_false]; exact Bool.false_ne_true))

end

/-- Settles O33: a finished spectrum stands first in the mean, a decision gives headrooms and trips those that guard an
excess, and power above the ceiling is a trip of CEILING. -/
theorem spectraAndDecisions : Obligations.SpectraAndDecisions := by
  unfold Obligations.SpectraAndDecisions
  refine ⟨fun s p power sat hs => ?_, fun s p n xs hs hmean hmute hn => g2Decision_headroom hs hmean hmute hn,
    fun s p n xs b hs hmean hmute hb hex hg => g2Decision_fine hs hmean hmute n.isLt.ne hb hex hg,
    fun s n w hs hrun hemit habove hnew => ⟨_, execG2Ceiling_of_above hrun hemit habove, g2Trip_ceiling_spec hs hnew⟩,
    fun s n w hs hbelow => ⟨s, execG2Ceiling_of_below hbelow, rfl⟩⟩
  obtain ⟨t, ht, hregs, hspectra⟩ := execSpectrumDone_spectra hs p ⟨power, sat⟩
  refine ⟨t, ht, ?_⟩
  rw [hspectra]
  exact ⟨rfl, rfl, rfl, hregs⟩

end Sys2Proof.Machine
end

section
/-!
SUPPORT. The commands of Plain and the write of EMIT_BACKOFF (08_emission_guard.md R204, R216, R223, R226): what PLN_RD_DATA
shows, what a committed range and a rebuilt tile leave in the mask, and the statement on them.
-/

namespace Sys2Proof.Machine

set_option Elab.async false

theorem bits_lt (lo w x : Nat) : bits lo w x < 2 ^ w := Nat.mod_lt _ (Nat.two_pow_pos w)

/-- The mask is no register field. -/
theorem State.reads.put_plain {s : State} {f : Field} {i v : Nat} (h : s.reads f i v) (x : Plain) :
    ({ s with plain := x } : State).reads f i v :=
  ⟨{ h.canon with }, h.eq⟩

/-! ### PLN_RD_DATA (R226) -/

section
variable {s : State}

/-- What PLN_RD_DATA shows of the limit of bin `b` for port `p`: the mark where the bin is forbidden (R226). -/
def State.shownLimit (s : State) (p b : Nat) : Nat :=
  if s.forbidden p b then forbiddenMark else wrapBits 16 (s.limitOf p b)

theorem shownLimit_lt (s : State) (p b : Nat) : s.shownLimit p b < 2 ^ 16 := by
  unfold State.shownLimit
  split
  · decide
  · exact wrapBits16_lt _

theorem State.keeps.shownLimit {t : State} {m : Nat} (k : State.keeps m s t) (hs : s.canonical)
    (hm : limitsOutside m = true) (p b : Nat) : t.shownLimit p b = s.shownLimit p b := by
  rw [State.shownLimit, k.forbidden hs hm, k.limitOf hs hm, State.shownLimit]

/-- PLN_RD_DATA shows the bin and the port that PLN_RD_ADDR names. -/
theorem showPlain_spec {b p : Nat} (hb : s.reads .PLN_RD_ADDR_BIN 0 b) (hp : s.reads .PLN_RD_ADDR_PORT 0 p) :
    s.showPlain.rd .PLN_RD_DATA_ENTRY = s.plainEntry b % 2 ^ 16 ∧ s.showPlain.rd .PLN_RD_DATA_EFF = s.shownLimit p b := by
  have hshow : s.showPlain = (s.wr .PLN_RD_DATA_ENTRY 0 (s.plainEntry b)).wr .PLN_RD_DATA_EFF 0 (s.shownLimit p b) := by
    rw [State.showPlain, hb.eq, hp.eq, State.shownLimit]
  have hentry := hb.canon.reads_wr_mod (f := .PLN_RD_DATA_ENTRY) (i := 0) (v := s.plainEntry b)
  rw [hshow]
  exact ⟨((wr_keeps ..).reads hentry).eq, (hentry.canon.reads_wr (hv := shownLimit_lt ..)).eq⟩

/-- A write of PLN_RD_ADDR fetches what its bin and port show. -/
theorem readPlain_spec (hs : s.canonical) (w : Nat) :
    (s.readPlain w).rd .PLN_RD_DATA_ENTRY = s.plainEntry (bits 0 24 w) % 2 ^ 16 ∧
    (s.readPlain w).rd .PLN_RD_DATA_EFF = s.shownLimit (bits 24 2 w) (bits 0 24 w) := by
  have hk : State.keeps (writes [.PLN_RD_ADDR_BIN, .PLN_RD_ADDR_PORT] []) s
      ((s.wr .PLN_RD_ADDR_BIN 0 (bits 0 24 w)).wr .PLN_RD_ADDR_PORT 0 (bits 24 2 w)) :=
    ((wr_keeps ..).mono (by decide +kernel)).step (wr_keeps ..) (by decide +kernel)
  have hm : limitsOutside (writes [.PLN_RD_ADDR_BIN, .PLN_RD_ADDR_PORT] []) = true := by decide +kernel
  have hb := hs.reads_wr (f := .PLN_RD_ADDR_BIN) (i := 0) (hv := bits_lt 0 24 w)
  have hp := hb.canon.reads_wr (f := .PLN_RD_ADDR_PORT) (i := 0) (hv := bits_lt 24 2 w)
  obtain ⟨hentry, heff⟩ := showPlain_spec ((wr_keeps ..).reads hb) hp
  rw [hk.plainEntry hm] at hentry
  rw [hk.shownLimit hs hm] at heff
  exact ⟨hentry, heff⟩

/-! ### Tightening ranges (R204) -/

/-- The range that a write of PLN_T_FIRST commits: the word written, with the values that the other registers hold. -/
def State.heldRange (s : State) (w : Nat) : Tighten :=
  ⟨bits 0 24 w, s.rd .PLN_T_LAST_LAST, s.rd .PLN_T_LIM_LIMIT, s.rd .PLN_T_LIM_PORTS, bit 31 w⟩

theorem commitRange_plain (s : State) (w : Nat) : (s.commitRange w).plain =
    { s.plain with ranges := Store.set (fun _ => none) s.plain.ranges (s.rd .PLN_T_SEL_R_SEL) (some (s.heldRange w)) } := by
  refine ((showPlain_keeps _).parts .plain (by decide +kernel)).trans ?_
  simp only [State.wr_plain, State.heldRange]

theorem commitRange_reads_first (hs : s.canonical) (w : Nat) :
    (s.commitRange w).reads .PLN_T_FIRST_FIRST 0 (bits 0 24 w) :=
  (showPlain_keeps _).reads <| State.reads.put_plain (x := _) <| (wr_keeps ..).reads <| hs.reads_wr (hv := bits_lt 0 24 w)

/-- The range R_SEL is committed; the mask and the ranges in force stay. -/
theorem commitRange_spec (hs : s.canonical) (hw : Store.wf (fun _ => none) s.plain.ranges = true) (w : Nat) :
    Store.get (fun _ => none) (s.commitRange w).plain.ranges (s.rd .PLN_T_SEL_R_SEL) = some (s.heldRange w) ∧
    (s.commitRange w).rd .PLN_T_FIRST_FIRST = bits 0 24 w ∧
    (s.commitRange w).plain.records = s.plain.records ∧ (s.commitRange w).plain.acting = s.plain.acting := by
  rw [commitRange_plain]
  exact ⟨Store.get_set_self hw _ _, (commitRange_reads_first hs w).eq, rfl, rfl⟩

/-! ### Rebuilt tiles (R223) -/

/-- A damaged tile whose rebuild ends is damaged no more, and is lost if it failed. -/
theorem plainRebuilt_plain {x : Nat} (h : x ∈ s.plain.damaged) (ok : Bool) : (s.plainRebuilt x ok).plain =
    { s.plain with damaged := s.plain.damaged.filter (· != x), lost := if ok then s.plain.lost else x :: s.plain.lost } := by
  have hin : (!s.plain.damaged.contains x) = false := by simp [h]
  unfold State.plainRebuilt
  rw [hin, if_neg Bool.false_ne_true]
  extract_lets left old s1 s2
  have h2 : s2.plain = s1.plain := ((showPlain_keeps _).parts .plain (by decide +kernel)).trans (State.wr_plain ..)
  change _ = s1.plain
  refine (State.keeps.parts (m := writes_sendFault) ?_ .plain (by decide +kernel)).trans h2
  refine .ite (fun _ => .refl) fun _ => .forEach .refl fun p t k => ?_
  extract_lets c
  exact .ite (fun _ => k.trans (sendFault_keeps ..)) fun _ => k

/-- What the command leaves in the mask, whether the flash read and the section was verified (`ok`) or not. -/
theorem execPlainRebuildDone_of_damaged {x : Fin 8192} (h : x.val ∈ s.plain.damaged) {read ok : Bool}
    (hok : (read && (s.verifiedSection 0x11).isSome) = ok) : ∃ t, execPlainRebuildDone x read s = .next t ∧
      t.plain = (s.plainRebuilt x ok).plain := by
  have hc : s.plain.damaged.contains x.val = true := by simp [h]
  unfold execPlainRebuildDone
  rw [hok]
  dsimp only
  rw [if_pos hc]
  refine ⟨_, rfl, ?_⟩
  split
  · exact (tileWritten_keeps ..).parts .plain (by decide +kernel)
  · rfl

/-! ### EMIT_BACKOFF (R216) -/

theorem writeBackoff_of_ge {n : Nat} (hs : s.canonical) (v : BitVec 16)
    (h : s.rdS .EMG_LIMIT1_BACKOFF_MIN ≤ signed 16 v.toNat) :
    (s.writeBackoff n v.toNat).rd .EMG_BP_CTRL_EMIT_BACKOFF n = v.toNat ∧
    (s.writeBackoff n v.toNat).rd .EMG_BP_STATUS_BACKOFF_CLAMP n = s.rd .EMG_BP_STATUS_BACKOFF_CLAMP n := by
  have hw : s.writeBackoff n v.toNat = s.wr .EMG_BP_CTRL_EMIT_BACKOFF n v.toNat := if_neg (not_lt.mpr h)
  rw [hw]
  exact ⟨(hs.reads_wr (hv := v.isLt)).eq, ((wr_keeps ..).reads (hs.reads ..)).eq⟩

theorem writeBackoff_of_lt {n v : Nat} (hs : s.canonical) (h : signed 16 v < s.rdS .EMG_LIMIT1_BACKOFF_MIN) :
    (s.writeBackoff n v).rd .EMG_BP_CTRL_EMIT_BACKOFF n = s.rd .EMG_LIMIT1_BACKOFF_MIN % 2 ^ 16 ∧
    (s.writeBackoff n v).rd .EMG_BP_STATUS_BACKOFF_CLAMP n = 1 := by
  have hw : s.writeBackoff n v =
      (s.wr .EMG_BP_CTRL_EMIT_BACKOFF n (s.rd .EMG_LIMIT1_BACKOFF_MIN)).set1 .EMG_BP_STATUS_BACKOFF_CLAMP n := if_pos h
  have hstored := hs.reads_wr_mod (f := .EMG_BP_CTRL_EMIT_BACKOFF) (i := n) (v := s.rd .EMG_LIMIT1_BACKOFF_MIN)
  rw [hw]
  exact ⟨((set1_keeps ..).reads hstored).eq, hstored.canon.reads_wr.eq⟩

end

/-- Settles O35: a committed range and a rebuilt tile by what they leave in the mask, a read by what PLN_RD_DATA shows, and
EMIT_BACKOFF by its clamp. -/
theorem plainTable : Obligations.PlainTable := by
  unfold Obligations.PlainTable
  refine ⟨fun s w hs hw => ⟨_, rfl, ?_⟩, fun s w hs => ⟨_, rfl, readPlain_spec hs w.toNat⟩,
    fun s x hs hx hv => ?_, fun s x hs hx => ?_, fun s q v hs h => ?_, fun s q v hs h => ?_⟩
  · obtain ⟨hrange, hrest⟩ := commitRange_spec hs hw w.toNat
    rw [State.heldRange, bit_eq_testBit] at hrange
    exact ⟨hrange, hrest⟩
  · obtain ⟨t, ht, hplain⟩ := execPlainRebuildDone_of_damaged (read := true) (ok := true) hx (by rw [hv]; rfl)
    refine ⟨t, ht, ?_⟩
    rw [hplain, plainRebuilt_plain hx]
    exact ⟨by simp, rfl⟩
  · obtain ⟨t, ht, hplain⟩ := execPlainRebuildDone_of_damaged (read := false) (ok := false) hx rfl
    refine ⟨t, ht, ?_⟩
    rw [hplain, plainRebuilt_plain hx]
    exact ⟨by simp, rfl⟩
  · obtain ⟨c, hc, ht⟩ := hs.via_core q fun t => t.writeBackoff (t.rd .EMG_SEL_N q) v.toNat
    exact ⟨_, congrArg Host.Outcome.next ht, writeBackoff_of_ge hc v h⟩
  · obtain ⟨c, hc, ht⟩ := hs.via_core q fun t => t.writeBackoff (t.rd .EMG_SEL_N q) v.toNat
    exact ⟨_, congrArg Host.Outcome.next ht, writeBackoff_of_lt hc h⟩

end Sys2Proof.Machine
end

section
/-!
SUPPORT. What the record of a lane shows after an operation, and what sending and receiving frames leaves of it
(10_col_fabric.md R259 to R261, R283): the time exchange and the election rest on these rules.
-/

namespace Sys2Proof.Machine

/-! ### What the record of a lane shows -/

/-- The state is canonical, and what `g` takes from the record of lane `l` is `v`. -/
structure State.laneShows {α : Type} (s : State) (g : Lane → α) (l : Nat) (v : α) : Prop where
  canon : s.canonical
  eq : g (s.lane l) = v

/-- `g` takes nothing from a lane's record that sending and receiving frames rewrite: queue, fibre, keep store and
buffers. -/
def unsent {α : Type} (g : Lane → α) : Prop :=
  ∀ x queue fibre kept next filling held freed, g { x with
    queue := queue, fibre := fibre, kept := kept, keptNext := next, filling := filling, held := held, freed := freed } = g x

section
variable {s t : State} {m l : Nat} {α : Type} {g : Lane → α} {v : α}

theorem State.canonical.laneShows (hs : s.canonical) (g : Lane → α) (l : Nat) : s.laneShows g l (g (s.lane l)) := ⟨hs, rfl⟩

/-- An operation that writes no lane leaves what the record of each shows. -/
theorem State.keeps.laneShows (k : State.keeps m s t) (h : s.laneShows g l v)
    (hm : partIn m .lanes = false := by decide +kernel) : t.laneShows g l v where
  canon := k.canon h.canon
  eq := by
    have hl : t.lanes = s.lanes := k.parts .lanes hm
    rw [State.lane, hl]
    exact h.eq

theorem State.canonical.lane_updLane (hs : s.canonical) (l k : Nat) (y : Lane → Lane) :
    (s.updLane l y).lane k = if k = l then y (s.lane l) else s.lane k :=
  State.lane_setLane hs.lanes ..

/-- The record of a lane after an update of it. -/
theorem State.canonical.laneShows_updLane (hs : s.canonical) (y : Lane → Lane) :
    (s.updLane l y).laneShows g l (g (y (s.lane l))) where
  canon := (updLane_keeps s l y).canon hs
  eq := congrArg g ((hs.lane_updLane ..).trans (if_pos rfl))

/-- An update of a lane that leaves what `g` takes from it. -/
theorem State.laneShows.updLane (h : s.laneShows g l v) (k : Nat) {y : Lane → Lane}
    (hy : ∀ x, g (y x) = g x := by exact fun _ => rfl) : (s.updLane k y).laneShows g l v where
  canon := (updLane_keeps s k y).canon h.canon
  eq := by
    rw [h.canon.lane_updLane]
    split
    case isTrue e => rw [hy, ← e, h.eq]
    case isFalse => exact h.eq

/-- An update of another lane. -/
theorem State.laneShows.updLane_of_ne (h : s.laneShows g l v) {k : Nat} (hk : k ≠ l) (y : Lane → Lane) :
    (s.updLane k y).laneShows g l v where
  canon := (updLane_keeps s k y).canon h.canon
  eq := by rw [h.canon.lane_updLane, if_neg hk.symm, h.eq]

/-! ### Sending (R192, R260, R276) -/

theorem freeBlocks_laneShows (h : s.laneShows g l v) (r c k : Nat) (hg : unsent g := by exact fun _ _ _ _ _ _ _ _ => rfl) :
    (s.freeBlocks r c k).laneShows g l v := by
  unfold State.freeBlocks
  split
  · exact h.updLane r fun x => hg x x.queue x.fibre x.kept x.keptNext x.filling _ _
  · exact h

theorem keepFrame_laneShows (h : s.laneShows g l v) (hg : unsent g) (k : Nat) (f : Sys2Proof.Frame) :
    (s.keepFrame k f).laneShows g l v := by
  unfold State.keepFrame
  split
  · exact h
  · extract_lets full place s1 bytes s2
    have h1 : s1.laneShows g l v := h.updLane k fun x => hg x x.queue x.fibre _ _ _ x.held x.freed
    have h2 : s2.laneShows g l v := by
      refine (wr_keeps ..).laneShows ?_
      split
      · exact (tileWritten_keeps ..).laneShows h1
      · exact h1
    split
    · exact (bump_keeps ..).laneShows h2
    · exact h2

theorem sendNow_laneShows (h : s.laneShows g l v) (hg : unsent g) (k : Nat) (q : QFrame) (rest : List QFrame) :
    (s.sendNow k q rest).laneShows g l v := by
  unfold State.sendNow
  extract_lets f cf s1 s2
  have h1 : s1.laneShows g l v := by
    refine (tally_keeps ..).laneShows <| (tally_keeps ..).laneShows <| keepFrame_laneShows ?_ hg k f
    refine (wr_keeps ..).laneShows ?_ (partIn_writes List.not_mem_nil)
    exact h.updLane k fun x => hg x _ _ x.kept x.keptNext x.filling x.held x.freed
  have h2 : s2.laneShows g l v := by
    unfold s2
    split
    · exact (tally_keeps ..).laneShows h1
    · exact h1
  split
  · refine freeBlocks_laneShows ?_ _ _ _ hg
    split
    · exact (tally_keeps ..).laneShows h2
    · exact h2
  · exact h2

theorem pump_laneShows (h : s.laneShows g l v) (hg : unsent g) (k n : Nat) : (s.pump k n).laneShows g l v := by
  induction n generalizing s with
  | zero => exact h
  | succ n ih =>
    unfold State.pump
    split
    · exact h
    · exact ih (sendNow_laneShows h hg k _ _)

theorem queueFrame_laneShows (h : s.laneShows g l v) (hg : unsent g) (k : Nat) (q : QFrame) :
    (s.queueFrame k q).laneShows g l v := by
  unfold State.queueFrame
  split
  · exact pump_laneShows (h.updLane k fun x => hg x _ x.fibre x.kept x.keptNext x.filling x.held x.freed) hg k _
  · extract_lets s1
    have h1 : s1.laneShows g l v := (tally_keeps ..).laneShows <| (bump_keeps ..).laneShows h
    split
    · exact freeBlocks_laneShows h1 _ _ _ hg
    · exact h1

/-- A frame that is sent leaves what a lane's record holds beside its traffic. -/
theorem sendFrame_laneShows (h : s.laneShows g l v) (k : Nat) (f : Sys2Proof.Frame)
    (hg : unsent g := by exact fun _ _ _ _ _ _ _ _ => rfl) : (s.sendFrame k f).laneShows g l v :=
  queueFrame_laneShows h hg k _

/-! ### Receiving (R259, R261, R283) -/

theorem holding_laneShows (h : s.laneShows g l v) (k : Nat) (f : Sys2Proof.Frame)
    (hg : unsent g := by exact fun _ _ _ _ _ _ _ _ => rfl) : (s.holding k f).laneShows g l v :=
  (tally_keeps ..).laneShows <| h.updLane k fun x => hg x x.queue x.fibre x.kept x.keptNext x.filling _ x.freed

/-- A frame that the lane takes acts while it stands in the receive buffer, and its blocks are freed afterwards. -/
theorem receive_of_takes {f : Sys2Proof.Frame} (h : s.takes l f = true) (act : State → State) :
    s.receive l f false act = (act (s.holding l f)).freeBlocks l f.cls (frameBlocks f) := by
  simp only [State.takes, Bool.and_eq_true, decide_eq_true_eq] at h
  obtain ⟨⟨hup, hlen⟩, hroom⟩ := h
  rw [State.receive, if_neg (by simp [hup]), if_neg (by simp [hlen]), if_neg (not_lt.mpr hroom)]
  rfl

/-- A TIME frame that the lane takes has four words (R259). -/
theorem length_of_takes {f : Sys2Proof.Frame} (h : s.takes l f = true) (hcls : f.cls = 0) : f.words.length = 4 := by
  simp only [State.takes, Bool.and_eq_true] at h
  simpa [lenOk, hcls] using h.1.2

end

/-! ### Operations over distinct indices -/

section
variable {α : Type} {f : α → State → State} {xs : List α} {s : State} {P Q : State → Prop}

/-- What one of several distinct indices brings about holds at the end, if the others keep its condition and its effect. -/
theorem State.forEach_nodup_effect {x : α} (hn : xs.Nodup) (hx : x ∈ xs) (h : P s) (hP : ∀ y t, y ≠ x → P t → P (f y t))
    (hPQ : ∀ t, P t → Q (f x t)) (hQ : ∀ y t, y ≠ x → Q t → Q (f y t)) : Q (State.forEach f xs s) := by
  obtain ⟨before, after, rfl⟩ := List.append_of_mem hx
  obtain ⟨-, hafter, hdisj⟩ := List.nodup_append'.mp hn
  have hbefore (y : α) (hy : y ∈ before) : y ≠ x := by
    rintro rfl
    exact hdisj hy (List.mem_cons_self ..)
  have hafter (y : α) (hy : y ∈ after) : y ≠ x := by
    rintro rfl
    exact (List.nodup_cons.mp hafter).1 hy
  rw [State.forEach, List.foldl_append, List.foldl_cons]
  refine List.foldlRecOn _ _ (hPQ _ (List.foldlRecOn _ _ h fun t ht y hy => ?_)) fun t ht y hy => ?_
  · exact hP y t (hbefore y hy) ht
  · exact hQ y t (hafter y hy) ht

end

end Sys2Proof.Machine
end

section
/-!
SUPPORT. The messages of Plumb (09_plumb_timing.md R231 to R238, R244): what a sent and a received TIME_EX message leave in
a lane's record, what an election and an announcement leave, the time check, and the statement on them.
-/

namespace Sys2Proof.Machine

/-! ### Plumb's record, its registers, and quantities in two registers -/

section
variable {s t : State} {m l : Nat}

/-- An operation that does not touch Plumb leaves its record. -/
theorem State.keeps.plumb (k : State.keeps m s t) (hm : partIn m .plumb = false := by decide +kernel) :
    t.plumb = s.plumb :=
  k.parts .plumb hm

/-- Plumb's record is no register field. -/
theorem State.reads.put_plumb {f : Field} {i v : Nat} (h : s.reads f i v) (x : Plumb) :
    ({ s with plumb := x } : State).reads f i v :=
  ⟨{ h.canon with }, h.eq⟩

/-- Two fields that hold the two parts of a quantity read as that quantity (R5). -/
theorem rd2_of_reads {lo hi : Field} {i v : Nat} (hlo : s.reads lo i (v % 2 ^ 32)) (hhi : s.reads hi i (v / 2 ^ 32)) :
    s.rd2 lo hi i = v := by
  rw [State.rd2, hlo.eq, hhi.eq, Nat.mul_comm]
  exact Nat.mod_add_div ..

theorem laneUp_iff : s.laneUp l = true ↔ s.rd .LANE_STATUS_STATE l = 3 := beq_iff_eq

theorem allLanes_nodup : allLanes.Nodup := List.nodup_range

theorem mem_allLanes : l ∈ allLanes ↔ l < 16 := List.mem_range

/-! ### TIME_EX_SEND (R231) -/

/-- The number of a lane's latest message, and the newest of the stamps it keeps of its own messages. -/
def Lane.lastSent (x : Lane) : Nat × Option Stamp := (x.txSeq, x.sent.head?)

/-- A message takes the next number, and the lane keeps the instant at which it leaves. -/
theorem sendTimeEx_lastSent {n : Nat} (h : s.laneShows Lane.txSeq l n) (tx : Nat) :
    (s.sendTimeEx l tx).laneShows Lane.lastSent l ((n + 1) % 65536, some ⟨(n + 1) % 65536, tx⟩) := by
  rw [← h.eq]
  unfold State.sendTimeEx
  extract_lets x seq last rx w0 ws
  refine sendFrame_laneShows ?_ _ _
  exact h.canon.laneShows_updLane (g := Lane.lastSent) fun y =>
    { y with txSeq := seq, txLast := tx, sent := (⟨seq, tx⟩ :: y.sent).take 8 }

/-- A message on lane `k` leaves the exchange of another lane. -/
theorem sendTimeEx_laneShows {α : Type} {g : Lane → α} {v : α} {k : Nat} (h : s.laneShows g l v) (hk : k ≠ l) (tx : Nat)
    (hg : unsent g := by exact fun _ _ _ _ _ _ _ _ => rfl) : (s.sendTimeEx k tx).laneShows g l v :=
  sendFrame_laneShows (h.updLane_of_ne hk _) _ _ hg

/-- Lane `l` is UP and has sent message `n`, and the present instant is that of `s`: what lane `l` needs to send. -/
def State.readyToSend (s : State) (l n : Nat) (t : State) : Prop :=
  t.reads .LANE_STATUS_STATE l 3 ∧ t.laneShows Lane.txSeq l n ∧ t.plumb = s.plumb

/-- What lane `l` shows of its own messages when one leaves `d` quanta from now. -/
def State.nextSent (s : State) (l : Nat) (d : Int) : Nat × Option Stamp :=
  (((s.lane l).txSeq + 1) % 65536, some ⟨((s.lane l).txSeq + 1) % 65536, s.instant d⟩)

/-- At an exchange instant every lane that is UP sends one message. -/
theorem execTimeExSend_lastSent (hs : s.canonical) (hl : l < 16) (hup : s.laneUp l = true) (phase : List Int) :
    ∃ t, execTimeExSend phase s = .next t ∧ t.laneShows Lane.lastSent l (s.nextSent l (phase.getD l 0)) := by
  refine ⟨_, rfl, ?_⟩
  have hready : s.readyToSend l (s.lane l).txSeq s := ⟨⟨hs, laneUp_iff.mp hup⟩, hs.laneShows Lane.txSeq l, rfl⟩
  refine State.forEach_nodup_effect (P := s.readyToSend l (s.lane l).txSeq)
    (Q := (·.laneShows Lane.lastSent l (s.nextSent l (phase.getD l 0)))) allLanes_nodup (mem_allLanes.mpr hl) hready
    (fun k t hk ht => ?_) (fun t ht => ?_) fun k t hk ht => ?_
  · obtain ⟨hstate, hseq, hplumb⟩ := ht
    split
    · exact ⟨(sendTimeEx_keeps ..).reads hstate, sendTimeEx_laneShows hseq hk _,
        (sendTimeEx_keeps ..).plumb.trans hplumb⟩
    · exact ⟨hstate, hseq, hplumb⟩
  · obtain ⟨hstate, hseq, hplumb⟩ := ht
    have hnow : t.instant (phase.getD l 0) = s.instant (phase.getD l 0) := by
      rw [State.instant, State.now, hplumb]
      rfl
    rw [if_pos (laneUp_iff.mpr hstate.eq), hnow]
    exact sendTimeEx_lastSent hseq _
  · split
    · exact sendTimeEx_laneShows ht hk _
    · exact ht

/-! ### TIME_EX (R231 to R233) -/

section
variable {f : Sys2Proof.Frame} {α : Type} {g : Lane → α} {v : α}

/-- TYPE and VER of a message whose low byte is `0x10 + type`. -/
theorem type_ver_of_low {w type : Nat} (h : bits 0 8 w = 0x10 + type) (ht : type < 16) :
    bits 0 4 w = type ∧ bits 4 4 w = 1 := by
  unfold bits at *
  omega

/-- The pairs (T1, T2) of lane `l` after message `f`: the stamp that the message carries belongs to the one before it. -/
def Lane.pairsWith (x : Lane) (f : Sys2Proof.Frame) : List (Int × Int) :=
  match stampOf x.recv ((bits 20 16 (msgW f 0) + 65535) % 65536) with
  | some t2 => ((ofShort (msgW f 1) (bits 0 30 (msgW f 3)) : Int), (t2 : Int)) :: x.pairs
  | none => x.pairs

/-- The state after message `f`, received at `rx`, is noted in the record of lane `l` and lost ones are counted. -/
def State.stamped (s : State) (l : Nat) (f : Sys2Proof.Frame) (rx : Nat) : State :=
  (if (s.lane l).lostBefore (bits 20 16 (msgW f 0)) = 0 then s
    else s.bump .PLB_LCOUNT_EXCH_BAD l ((s.lane l).lostBefore (bits 20 16 (msgW f 0)))).updLane l fun y => { y with
      recv := (⟨bits 20 16 (msgW f 0), rx⟩ :: y.recv).take 8, pairs := ((s.lane l).pairsWith f).take 8
      rxNext := some ((bits 20 16 (msgW f 0) + 1) % 65536) }

theorem stamped_keeps (s : State) (l : Nat) (f : Sys2Proof.Frame) (rx : Nat) :
    State.keeps (writes [.PLB_LCOUNT_EXCH_BAD] [.lanes]) s (s.stamped l f rx) := by
  refine State.keeps.step ?_ (updLane_keeps ..) (by decide +kernel)
  exact .ite (fun _ => .refl) fun _ => (bump_keeps ..).mono (by decide +kernel)

/-- The number and the instant of the message are the newest that the lane keeps. -/
theorem stamped_recv (hs : s.canonical) (l : Nat) (f : Sys2Proof.Frame) (rx : Nat) :
    (s.stamped l f rx).laneShows (fun x => x.recv.head?) l (some ⟨bits 20 16 (msgW f 0), rx⟩) := by
  refine State.canonical.laneShows_updLane ?_ _
  split
  · exact hs
  · exact (bump_keeps ..).canon hs

/-- A message is noted, and may complete an exchange. -/
theorem takeTimeEx_cases (s : State) (l : Nat) (f : Sys2Proof.Frame) (rx : Nat) :
    s.takeTimeEx l f rx = s.stamped l f rx ∨
    ∃ t1 t2 t3 t4, s.takeTimeEx l f rx = (s.stamped l f rx).completeExchange l t1 t2 t3 t4 := by
  unfold State.takeTimeEx
  extract_lets w seq prev x pairs s0 s1
  have hs1 : s1 = s.stamped l f rx := rfl
  rw [hs1]
  split
  · exact .inl rfl
  · split
    · exact .inl rfl
    · split
      · exact .inl rfl
      · exact .inr ⟨_, _, _, _, rfl⟩

/-- With a stamp for both directions the message completes an exchange. -/
theorem takeTimeEx_of_stamps {t2 t3 : Nat} (rx : Nat) (hflag : bit 52 (msgW f 0) = true)
    (h3 : stampOf (s.lane l).sent (bits 36 16 (msgW f 0)) = some t3)
    (h2 : stampOf (s.lane l).recv ((bits 20 16 (msgW f 0) + 65535) % 65536) = some t2) (hlt : t2 < t3) :
    s.takeTimeEx l f rx = (s.stamped l f rx).completeExchange l (ofShort (msgW f 1) (bits 0 30 (msgW f 3))) t2 t3
      (ofShort (msgW f 2) (bits 30 30 (msgW f 3))) := by
  have hpair : ((s.lane l).pairsWith f).find? (fun p => p.2 < (t3 : Int)) =
      some ((ofShort (msgW f 1) (bits 0 30 (msgW f 3)) : Int), (t2 : Int)) := by
    simp [Lane.pairsWith, h2, hlt]
  unfold State.takeTimeEx
  extract_lets w seq prev x pairs s0 s1
  have hpairs : pairs = (s.lane l).pairsWith f := rfl
  rw [if_neg (by simp [w, hflag]), h3]
  dsimp only
  rw [hpairs, hpair]
  rfl

/-- An exchange leaves what a lane's record holds beside the offsets. -/
theorem completeExchange_laneShows (h : s.laneShows g l v) (k : Nat) (t1 t2 t3 t4 : Int)
    (hg : ∀ x fresh thetas, g { x with fresh := fresh, thetas := thetas } = g x := by exact fun _ _ _ => rfl) :
    (s.completeExchange k t1 t2 t3 t4).laneShows g l v := by
  unfold State.completeExchange
  extract_lets r
  split
  · exact h
  · refine (refreshLane_keeps ..).laneShows <| (tally_keeps ..).laneShows <| State.laneShows.updLane ?_ k fun x => hg x _ _
    exact (roll_keeps ..).laneShows <| (wr2_keeps ..).laneShows <| (wr_keeps ..).laneShows h

/-- θ and the delay of an exchange depend on the lane's asymmetry alone. -/
theorem State.keeps.exchange (k : State.keeps m s t) (hs : s.canonical) (l : Nat) (t1 t2 t3 t4 : Int)
    (hfix : inSet m .PLB_ASYM_FIX_FIX = false := by decide +kernel)
    (hratio : inSet m .PLB_ASYM_RATIO_RATIO = false := by decide +kernel) :
    t.exchange l t1 t2 t3 t4 = s.exchange l t1 t2 t3 t4 := by
  unfold State.exchange State.rdS
  rw [k.fields hs _ _ hfix, k.fields hs _ _ hratio]

/-- What a complete exchange of recent stamps leaves: θ waits for the next update, and θ and d are shown (R233). -/
theorem completeExchange_spec (hs : s.canonical) {t1 t2 t3 t4 : Int} (h2 : s.now - t2 ≤ 4000 * 65536000)
    (h4 : s.now - (t4 + (s.exchange l t1 t2 t3 t4).2) ≤ 4000 * 65536000) :
    (s.completeExchange l t1 t2 t3 t4).laneShows Lane.fresh l (some (s.exchange l t1 t2 t3 t4).2) ∧
    (s.completeExchange l t1 t2 t3 t4).reads .PLB_LOFS_THETA l (satBits 32 (s.exchange l t1 t2 t3 t4).2) ∧
    (s.completeExchange l t1 t2 t3 t4).reads .PLB_LDLY_LO_D_LO l (wrapBits 48 (s.exchange l t1 t2 t3 t4).1 % 2 ^ 32) ∧
    (s.completeExchange l t1 t2 t3 t4).reads .PLB_LDLY_HI_D_HI l (wrapBits 48 (s.exchange l t1 t2 t3 t4).1 / 2 ^ 32) := by
  have hrecent : ¬(4000 * 65536000 < (s.now : Int) - t2 ∨
      4000 * 65536000 < (s.now : Int) - (t4 + (s.exchange l t1 t2 t3 t4).2)) := by omega
  unfold State.completeExchange
  extract_lets r
  rw [if_neg hrecent]
  have htheta := hs.reads_wr (f := .PLB_LOFS_THETA) (i := l) (v := satBits 32 r.2) (hv := wrapBits_lt 32 _)
  have hlo := htheta.canon.reads_wr_mod (f := .PLB_LDLY_LO_D_LO) (i := l) (v := wrapBits 48 r.1)
  have hhigh : wrapBits 48 r.1 / 2 ^ 32 < 2 ^ Field.PLB_LDLY_HI_D_HI.row.width := Nat.div_lt_of_lt_mul (wrapBits_lt 48 _)
  have hhi := hlo.canon.reads_wr (f := .PLB_LDLY_HI_D_HI) (i := l) (hv := hhigh)
  have hroll := (roll_keeps _ .PLB_LCOUNT_EXCH l).canon hhi.canon
  refine ⟨(refreshLane_keeps ..).laneShows <| (tally_keeps ..).laneShows <| hroll.laneShows_updLane _, ?_, ?_, ?_⟩
  · exact (refreshLane_keeps ..).reads <| (tally_keeps ..).reads <| (updLane_keeps ..).reads <| (roll_keeps ..).reads <|
      (wr2_keeps ..).reads htheta
  · exact (refreshLane_keeps ..).reads <| (tally_keeps ..).reads <| (updLane_keeps ..).reads <| (roll_keeps ..).reads <|
      (wr_keeps ..).reads hlo
  · exact (refreshLane_keeps ..).reads <| (tally_keeps ..).reads <| (updLane_keeps ..).reads <| (roll_keeps ..).reads hhi

/-- A TIME_EX message that the lane takes acts at the instant at which it leaves the elastic buffer. -/
theorem execTimeEx_of_takes {l : Sys2Proof.LaneIx} (hs : s.canonical) (h : s.takes l f = true) (hcls : f.cls = 0)
    (hlow : bits 0 8 (msgW f 0) = 0x11) (rx : Int) : execTimeEx l f rx s = .next
      (((s.holding l f).takeTimeEx l f (s.instant (rx + (s.lane l).phase))).freeBlocks l f.cls (frameBlocks f)) := by
  obtain ⟨htype, hver⟩ := type_ver_of_low (type := 1) hlow (by decide)
  have hphase : ((s.holding l f).lane l).phase = (s.lane l).phase :=
    (holding_laneShows (hs.laneShows Lane.phase l) l f).eq
  rw [execTimeEx, receive_of_takes h, if_pos ⟨hcls, htype, hver, length_of_takes h hcls⟩, hphase]
  rfl

/-- The lane keeps the number and the instant of a message that it takes. -/
theorem execTimeEx_recv {l : Sys2Proof.LaneIx} (hs : s.canonical) (h : s.takes l f = true) (hcls : f.cls = 0)
    (hlow : bits 0 8 (msgW f 0) = 0x11) (rx : Int) : ∃ t, execTimeEx l f rx s = .next t ∧
      (t.lane l).recv.head? = some ⟨bits 20 16 (msgW f 0), s.instant (rx + (s.lane l).phase)⟩ := by
  refine ⟨_, execTimeEx_of_takes hs h hcls hlow rx, (freeBlocks_laneShows (g := fun x => x.recv.head?) ?_ ..).eq⟩
  have hrecv := stamped_recv ((holding_keeps s l f).canon hs) l f (s.instant (rx + (s.lane l).phase))
  obtain heq | ⟨t1, t2, t3, t4, heq⟩ := takeTimeEx_cases (s.holding l f) l f (s.instant (rx + (s.lane l).phase))
  · rwa [heq]
  · rw [heq]
    exact completeExchange_laneShows hrecv ..

/-- A message with stamps for both directions gives the lane's offset and delay (R233). -/
theorem execTimeEx_exchange {l : Sys2Proof.LaneIx} {t1 t2 t3 t4 : Nat} (hs : s.canonical) (h : s.takes l f = true)
    (hcls : f.cls = 0) (hlow : bits 0 8 (msgW f 0) = 0x11) (rx : Int) (hflag : bit 52 (msgW f 0) = true)
    (h3 : stampOf (s.lane l).sent (bits 36 16 (msgW f 0)) = some t3)
    (h2 : stampOf (s.lane l).recv ((bits 20 16 (msgW f 0) + 65535) % 65536) = some t2) (hlt : t2 < t3)
    (h1 : t1 = ofShort (msgW f 1) (bits 0 30 (msgW f 3))) (h4 : t4 = ofShort (msgW f 2) (bits 30 30 (msgW f 3)))
    (hrecent : (s.now : Int) - t2 ≤ 4000 * 65536000)
    (hrecent' : (s.now : Int) - (t4 + (s.exchange l t1 t2 t3 t4).2) ≤ 4000 * 65536000) :
    ∃ t, execTimeEx l f rx s = .next t ∧ (t.lane l).fresh = some (s.exchange l t1 t2 t3 t4).2 ∧
      t.rd .PLB_LOFS_THETA l = satBits 32 (s.exchange l t1 t2 t3 t4).2 ∧
      t.laneDelay l = wrapBits 48 (s.exchange l t1 t2 t3 t4).1 := by
  have hh := holding_keeps s l f
  have hst := stamped_keeps (s.holding l f) l f (s.instant (rx + (s.lane l).phase))
  have hx (t1 t2 t3 t4 : Int) := (hst.exchange (hh.canon hs) l t1 t2 t3 t4).trans (hh.exchange hs l t1 t2 t3 t4)
  have hnow : ((s.holding l f).stamped l f (s.instant (rx + (s.lane l).phase))).now = s.now :=
    congrArg Plumb.time (hst.plumb.trans hh.plumb)
  have hsent := (holding_laneShows (hs.laneShows Lane.sent l) l f).eq
  have hrecv := (holding_laneShows (hs.laneShows Lane.recv l) l f).eq
  obtain ⟨hfresh, htheta, hlo, hhi⟩ := completeExchange_spec (l := l) (hst.canon (hh.canon hs)) (t1 := t1) (t2 := t2)
    (t3 := t3) (t4 := t4) (by rwa [hnow]) (by rwa [hnow, hx])
  have htake := takeTimeEx_of_stamps (s.instant (rx + (s.lane l).phase)) hflag (hsent ▸ h3) (hrecv ▸ h2) hlt
  refine ⟨_, execTimeEx_of_takes hs h hcls hlow rx, ?_⟩
  rw [htake, ← h1, ← h4, ← hx]
  exact ⟨(freeBlocks_laneShows hfresh ..).eq, ((freeBlocks_keeps ..).reads htheta).eq,
    rd2_of_reads ((freeBlocks_keeps ..).reads hlo) ((freeBlocks_keeps ..).reads hhi)⟩

end

/-! ### The election (R236 to R238) -/

/-- The root that the module itself offers. -/
def State.ownRoot (s : State) : Root := (s.ownClass, s.rd .PLB_RANK_PRIORITY, s.uid)

/-- The best of the live roots and the module's own. -/
def State.bestRoot (s : State) : Root := lowestRoot (s.liveOffers.map fun x => x.2.root) s.ownRoot

/-- The first stage of an election: what the module's class inherits. -/
def State.inherited (s : State) : State := s.inherit s.bestRoot

/-- The second stage of an election: the best root of the live offers and the module's own is taken. -/
def State.rooted (s : State) : State :=
  s.inherited.takeRoot s.inherited.bestRoot (if s.inherited.bestRoot.2.2 = s.uid then none
    else s.inherited.pickParent s.inherited.bestRoot s.liveOffers)

/-- What an election writes after it has taken a root: the change's record and fault, TIME_OK and the lanes' roles. -/
def writes_electShows : Nat :=
  writes [.PLB_COUNT_ROOT_CHANGES] [] ||| writes_sendFault ||| writes_record ||| writes_showLanes ||| writes_refreshTimeOk

/-- An election takes a root, and then only shows it. -/
theorem elect_shows_rooted (s : State) : State.keeps writes_electShows s.rooted s.elect := by
  unfold State.elect
  extract_lets offers roots mine s1 best old new s2 s3
  have h3 : State.keeps writes_electShows s2 s3 := by
    refine .ite (fun _ => ?_) fun _ => .refl
    refine State.keeps.step ?_ (sendFault_keeps ..) (by decide +kernel)
    refine State.keeps.step ?_ (record_keeps ..) (by decide +kernel)
    exact (bump_keeps ..).mono (by decide +kernel)
  exact (h3.step (refreshTimeOk_keeps ..) (by decide +kernel)).step (showLanes_keeps ..) (by decide +kernel)

/-- An election changes Plumb's record only by what the class inherits. -/
theorem elect_plumb (s : State) : s.elect.plumb = s.inherited.plumb :=
  (elect_shows_rooted s).plumb.trans (takeRoot_keeps ..).plumb

theorem elect_rootSeq (s : State) : s.elect.plumb.rootSeq = s.plumb.rootSeq := by
  rw [elect_plumb]
  rfl

/-- A module that held neither a reference nor a root of the better classes has no class to inherit. -/
theorem elect_heir (hheir : s.plumb.heir = false) (hwas : s.plumb.wasRef = false) (hkin : s.plumb.kin = false) :
    s.elect.plumb.heir = false := by
  rw [elect_plumb]
  simp [State.inherited, State.inherit, hheir, hwas, hkin]

/-- Without a live offer the module is root itself. -/
theorem rooted_of_no_offers (h : s.liveOffers = []) : s.rooted = s.inherited.takeRoot s.inherited.ownRoot none := by
  have hlive : s.inherited.liveOffers = [] := h
  have hbest : s.inherited.bestRoot = s.inherited.ownRoot := by
    rw [State.bestRoot, hlive]
    rfl
  rw [State.rooted, hbest]
  exact congrArg (s.inherited.takeRoot _) (if_pos rfl)

/-- A module that is root itself names itself, is grandmaster or not, has no parent and counts no steps (R235, R238). -/
theorem takeRoot_own (s : State) : ∃ u, State.keeps
    (writes [.PLB_ROOT_UID_LO_UID, .PLB_ROOT_UID_HI_UID, .PLB_ROOT_CLASS, .PLB_ROOT_PRIORITY] []) s u ∧
    s.takeRoot s.ownRoot none = (((u.wr .PLB_STATUS_ROLE 0 (if s.hasRef then 2 else 3)).clr .PLB_STATUS_PARENT).clr
      .PLB_ROOT_STEPS).clr .PLB_UNC_PATH_UNC := by
  refine ⟨_, ?_, if_neg (not_not_intro rfl)⟩
  refine State.keeps.step ?_ (wr_keeps ..) (by decide +kernel)
  exact State.keeps.step ((wr2_keeps ..).mono (by decide +kernel)) (wr_keeps ..) (by decide +kernel)

theorem takeRoot_own_spec (hs : s.canonical) :
    (s.takeRoot s.ownRoot none).reads .PLB_STATUS_ROLE 0 (if s.hasRef then 2 else 3) ∧
    (s.takeRoot s.ownRoot none).reads .PLB_ROOT_STEPS 0 0 ∧ (s.takeRoot s.ownRoot none).reads .PLB_UNC_PATH_UNC 0 0 := by
  obtain ⟨u, hu, heq⟩ := takeRoot_own s
  rw [heq]
  have hrole := (hu.canon hs).reads_wr (f := .PLB_STATUS_ROLE) (i := 0) (v := if s.hasRef then 2 else 3)
    (hv := by split <;> decide +kernel)
  have hsteps := ((clr_keeps _ .PLB_STATUS_PARENT 0).canon hrole.canon).reads_wr (f := .PLB_ROOT_STEPS) (i := 0) (v := 0)
  exact ⟨(clr_keeps ..).reads <| (clr_keeps ..).reads <| (clr_keeps ..).reads hrole, (clr_keeps ..).reads hsteps,
    hsteps.canon.reads_wr⟩

/-- An election without a live offer shows the module as root. -/
theorem elect_of_no_offers (hs : s.canonical) (h : s.liveOffers = []) :
    s.elect.reads .PLB_STATUS_ROLE 0 (if s.hasRef then 2 else 3) ∧ s.elect.reads .PLB_ROOT_STEPS 0 0 ∧
    s.elect.reads .PLB_UNC_PATH_UNC 0 0 := by
  have hk := elect_shows_rooted s
  rw [rooted_of_no_offers h] at hk
  obtain ⟨hrole, hsteps, hunc⟩ := takeRoot_own_spec (s := s.inherited) ((inherit_keeps ..).canon hs)
  exact ⟨hk.reads hrole, hk.reads hsteps, hk.reads hunc⟩

/-! ### ANNOUNCE_SEND (R236) -/

/-- A root announces its own ROOT_SEQ. -/
theorem nextRootSeq_of_root (h1 : s.role ≠ 1) (h0 : s.role ≠ 0) : s.nextRootSeq = (s.plumb.rootSeq + 1) % 65536 := by
  rw [State.nextRootSeq, if_neg h1, if_neg h0]

/-- The module's announcements change no more than sending a frame does. -/
theorem execAnnounceSend_sends (s : State) : ∃ t, execAnnounceSend s = .next t ∧ State.keeps writes_sendFrame
    { s.elect with plumb := { s.elect.plumb with rootSeq := s.elect.nextRootSeq } } t := by
  refine ⟨_, rfl, State.keeps.forEach .refl fun l t k => ?_⟩
  exact .ite (fun _ => k.trans (sendFrame_keeps ..)) fun _ => k

/-- Without a live offer the module announces itself as root. -/
theorem execAnnounceSend_of_no_offers (hs : s.canonical) (h : s.liveOffers = []) : ∃ t, execAnnounceSend s = .next t ∧
    t.role = (if s.hasRef then 2 else 3) ∧ t.rd .PLB_ROOT_STEPS = 0 ∧ t.rd .PLB_UNC_PATH_UNC = 0 ∧
    t.plumb.rootSeq = (s.plumb.rootSeq + 1) % 65536 := by
  obtain ⟨hrole, hsteps, hunc⟩ := elect_of_no_offers hs h
  have hroot : s.elect.role ≠ 1 ∧ s.elect.role ≠ 0 := by
    rw [State.role, hrole.eq]
    split <;> decide
  have hseq : s.elect.nextRootSeq = (s.plumb.rootSeq + 1) % 65536 := by
    rw [nextRootSeq_of_root hroot.1 hroot.2, elect_rootSeq]
  obtain ⟨t, ht, hk⟩ := execAnnounceSend_sends s
  have hnext : t.plumb.rootSeq = s.elect.nextRootSeq := by rw [hk.plumb]
  exact ⟨t, ht, (hk.reads (hrole.put_plumb _)).eq, (hk.reads (hsteps.put_plumb _)).eq, (hk.reads (hunc.put_plumb _)).eq,
    hnext.trans hseq⟩

/-! ### ANNOUNCE (R231, R236) -/

section
variable {f : Sys2Proof.Frame}

/-- Class, priority and identity of an offer's root, the steps to it and its ROOT_SEQ. -/
def Offer.named (o : Offer) : Nat × Nat × Nat × Nat × Nat := (o.cls, o.prio, o.uid, o.steps, o.rootSeq)

/-- An announcement whose STEPS is not 255 is its lane's offer. -/
theorem takeOffer_offer (hs : s.canonical) (hsteps : bits 20 8 (msgW f 0) ≠ 255) :
    (s.takeOffer l f).laneShows (fun x => x.offer.map Offer.named) l
      (some (bits 32 8 (msgW f 0), bits 40 8 (msgW f 0), msgW f 1, bits 20 8 (msgW f 0), bits 0 16 (msgW f 3))) := by
  unfold State.takeOffer
  extract_lets w seq steps s1 same advanced seen o
  rw [if_neg hsteps]
  have h1 : s1.canonical := (checkAsym_keeps ..).canon hs
  exact (showLanes_keeps ..).laneShows <|
    h1.laneShows_updLane (g := fun x => x.offer.map Offer.named) fun x => { x with offer := some o }

/-- An ANNOUNCE message that the lane takes makes an offer. -/
theorem execAnnounce_of_takes {l : Sys2Proof.LaneIx} (h : s.takes l f = true) (hcls : f.cls = 0)
    (hlow : bits 0 8 (msgW f 0) = 0x12) :
    execAnnounce l f s = .next (((s.holding l f).takeOffer l f).freeBlocks l f.cls (frameBlocks f)) := by
  obtain ⟨htype, hver⟩ := type_ver_of_low (type := 2) hlow (by decide)
  rw [execAnnounce, receive_of_takes h, if_pos ⟨hcls, htype, hver, length_of_takes h hcls⟩]

end

/-! ### TIME_CHECK (R244) -/

/-- The state in which a lane's offsets of the last second are used up. -/
def State.checked (s : State) (l : Nat) : State :=
  if (s.lane l).thetas = [] then s else s.updLane l fun y => { y with thetas := [] }

theorem checked_keeps (s : State) (l : Nat) : State.keeps (writes [] [.lanes]) s (s.checked l) :=
  .ite (fun _ => .refl) fun _ => updLane_keeps ..

theorem checked_thetas (hs : s.canonical) (l : Nat) : (s.checked l).laneShows Lane.thetas l [] := by
  unfold State.checked
  split
  case isTrue h => exact ⟨hs, h⟩
  case isFalse => exact hs.laneShows_updLane _

/-- The state after lane `l` has failed the check for the first time: it shows CHECK_FAIL and reports. -/
def State.checkFailed (s : State) (l : Nat) : State :=
  ((((s.checked l).set1 .PLB_LSTAT_CHECK_FAIL l).set1 .PLB_STATUS_CHECK_FAIL).updLane l fun y =>
    { y with checkSent := true }).sendFault 0xA8 0x41 l

/-- A lane with a valid time whose mean offset exceeds the limit, and that is not the parent's, fails the
check. -/
theorem execTimeCheck_of_exceeds {l : Sys2Proof.LaneIx} (hup : s.laneUp l = true)
    (hok : (s.lane l).offer.map Offer.timeOk = some true) (hrole : s.role ≠ 1)
    (hsum : max 1 (s.rd .PLB_CTRL_CHECK_LIM) * 65536 * (s.lane l).thetas.length < (s.lane l).thetas.sum.natAbs)
    (hsent : (s.lane l).checkSent = false) : execTimeCheck l s = .next (s.checkFailed l) := by
  have hparent : ¬(s.role = 1 ∧ s.rd .PLB_STATUS_PARENT = l.val) := fun h => hrole h.1
  unfold execTimeCheck
  extract_lets x s1 lim parent
  rw [if_neg (by simp [hup, x, hok, parent, hparent, lim, hsum]), if_neg (by simp [x, hsent])]
  rfl

theorem checkFailed_spec (hs : s.canonical) (l : Nat) :
    (s.checkFailed l).rd .PLB_LSTAT_CHECK_FAIL l = 1 ∧ (s.checkFailed l).rd .PLB_STATUS_CHECK_FAIL = 1 ∧
    (s.checkFailed l).faultWaits 0xA8 0x41 = true ∧ ((s.checkFailed l).lane l).thetas = [] := by
  have hthetas := checked_thetas hs l
  have hlane := hthetas.canon.reads_wr (f := .PLB_LSTAT_CHECK_FAIL) (i := l) (v := 1)
  have hmodule := hlane.canon.reads_wr (f := .PLB_STATUS_CHECK_FAIL) (i := 0) (v := 1)
  refine ⟨((sendFault_keeps ..).reads <| (updLane_keeps ..).reads <| (set1_keeps ..).reads hlane).eq,
    ((sendFault_keeps ..).reads <| (updLane_keeps ..).reads hmodule).eq, State.faultWaits_sendFault .., ?_⟩
  exact ((sendFault_keeps ..).laneShows <| State.laneShows.updLane (k := l) <| (set1_keeps ..).laneShows <|
    (set1_keeps ..).laneShows hthetas).eq

/-! ### HOLD_LIMIT_EXPIRE (R237) -/

/-- The module gives class 0x30 up. -/
theorem execHoldLimitExpire_heir (hheir : s.plumb.heir = true) (hwas : s.plumb.wasRef = false) :
    ∃ t, execHoldLimitExpire s = .next t ∧ t.plumb.heir = false :=
  ⟨_, congrArg Host.Outcome.next (if_pos hheir), elect_heir rfl hwas rfl⟩

end

/-- Settles O36: the messages by what they leave in a lane's record, announcements by the election, and the time check by
what a failed one leaves. -/
theorem timeExchange : Obligations.TimeExchange := by
  unfold Obligations.TimeExchange
  refine ⟨fun s phase l hs hup => ?_, fun s l f rx hs h hcls hlow => execTimeEx_recv hs h hcls hlow rx,
    fun s l f rx t1 t2 t3 t4 hs h hcls hlow hflag h3 h2 hlt h1 h4 hr hr' =>
      execTimeEx_exchange hs h hcls hlow rx hflag h3 h2 hlt h1 h4 hr hr',
    fun s hs h => execAnnounceSend_of_no_offers hs h, fun s l f hs h hcls hlow hsteps => ?_,
    fun s l hs hup hok hrole hsum hsent => ⟨_, execTimeCheck_of_exceeds hup hok hrole hsum hsent, checkFailed_spec hs l⟩,
    fun s hs hheir hwas => execHoldLimitExpire_heir hheir hwas⟩
  · obtain ⟨t, ht, hsent⟩ := execTimeExSend_lastSent hs l.isLt hup phase
    exact ⟨t, ht, congrArg Prod.fst hsent.eq, congrArg Prod.snd hsent.eq⟩
  · have hoffer := takeOffer_offer (l := l) ((holding_keeps s l f).canon hs) hsteps
    exact ⟨_, execAnnounce_of_takes h hcls hlow, (freeBlocks_laneShows hoffer ..).eq⟩

end Sys2Proof.Machine
end

section
/-!
SUPPORT. The update of Plumb's time (09_plumb_timing.md R229, R239, R240): what a child's update uses, what each stage of it
leaves in Plumb's record and its state, and the statement on the update.
-/

namespace Sys2Proof.Machine

section
variable {s : State}

/-! ### What an update uses (R239) -/

/-- Without a reference an update uses up offsets of lanes alone. -/
theorem useX_keeps_lanes (h : s.usesRef = false) (ref : Option Int) :
    State.keeps (writes [] [.lanes]) s (s.useX ref) := by
  unfold State.useX
  extract_lets p s1
  have h1 : s1 = s := if_neg (by simp [h])
  rw [h1]
  exact State.keeps.forEach .refl fun l t k =>
    .ite (fun _ => k) fun _ => k.step (updLane_keeps ..) (by decide +kernel)

/-- No lane has a fresh offset after an update has used them. -/
theorem useX_fresh (hs : s.canonical) (ref : Option Int) {l : Nat} (hl : l < 16) :
    (s.useX ref).laneShows Lane.fresh l none := by
  unfold State.useX
  extract_lets p s1
  have h1 : s1.canonical := by
    unfold s1
    split
    · exact { hs with }
    · exact hs
  refine State.forEach_effect (P := State.canonical) (Q := (·.laneShows Lane.fresh l none)) (mem_allLanes.mpr hl) h1
    (fun k t ht => ?_) (fun t ht => ?_) fun k t ht => ?_
  · split
    · exact ht
    · exact (updLane_keeps ..).canon ht
  · split
    case isTrue h => exact ⟨ht, h⟩
    case isFalse => exact ht.laneShows_updLane _
  · by_cases hk : k = l
    · subst hk
      rwa [if_pos ht.eq]
    · split
      · exact ht
      · exact ht.updLane_of_ne hk _

theorem usesRef_of_no_ref (h : s.hasRef = false) : s.usesRef = false := by
  rw [State.usesRef, h, Bool.false_and]

/-- The lane of a child's parent is one of the sixteen. -/
theorem parent_lt (hs : s.canonical) : s.rd .PLB_STATUS_PARENT < 16 := State.rd_lt hs .PLB_STATUS_PARENT 0

/-- Whether the parent's last announcement was from a state other than FREE. -/
def State.parentOpen (s : State) : Bool :=
  ((s.lane (s.rd .PLB_STATUS_PARENT)).offer.map Offer.tstate).getD 0 != 0

/-- The update of a child with the fresh offset x, the steps that wait already taken, once all offsets are used up. -/
def State.childUpdate (s : State) (x : Int) : State :=
  (s.useX none).updateWith (x + s.plumb.pendStep) s.parentOpen false

/-- A child with a fresh offset updates its time with it. -/
theorem execPlumbUpdate_of_fresh {x : Int} (hrole : s.role = 1) (hup : s.laneUp (s.rd .PLB_STATUS_PARENT) = true)
    (href : s.hasRef = false) (hx : (s.lane (s.rd .PLB_STATUS_PARENT)).fresh = some x) :
    execPlumbUpdate none s = .next (s.childUpdate x).showLoop := by
  have hfresh : s.freshX none = some (x + s.plumb.pendStep, s.parentOpen, false) := by
    rw [State.freshX, if_neg (by simp [usesRef_of_no_ref href]), if_pos hrole]
    dsimp only
    rw [hx]
    rfl
  unfold execPlumbUpdate
  dsimp only
  rw [if_neg (by simp [hup]), hfresh]
  rfl

/-- A child without a fresh offset counts the update. -/
theorem execPlumbUpdate_of_stale (hrole : s.role = 1) (hup : s.laneUp (s.rd .PLB_STATUS_PARENT) = true)
    (href : s.hasRef = false) (hx : (s.lane (s.rd .PLB_STATUS_PARENT)).fresh = none) :
    execPlumbUpdate none s = .next (s.useX none).updateWithout.showLoop := by
  have hfresh : s.freshX none = none := by
    rw [State.freshX, if_neg (by simp [usesRef_of_no_ref href]), if_pos hrole]
    dsimp only
    rw [hx]
    rfl
  unfold execPlumbUpdate
  dsimp only
  rw [if_neg (by simp [hup]), hfresh]
  exact congrArg Host.Outcome.next (if_neg (by simp [usesRef_of_no_ref href]))

/-! ### What an update shows -/

/-- Showing an update changes nothing of Plumb's record but whether the module follows a good root (R237). -/
theorem showLoop_plumb {α : Type} (s : State) (g : Plumb → α)
    (hg : ∀ p kin, g { p with kin := kin } = g p := by exact fun _ _ => rfl) : g s.showLoop.plumb = g s.plumb := by
  unfold State.showLoop
  extract_lets s1 s2 t s3 p kin
  have h1 : s1.plumb = s.plumb := (showHold_keeps ..).plumb.trans (State.wr_plumb ..)
  have h2 : s2.plumb = s.plumb := by
    unfold s2
    split
    · exact h1
    · exact (State.wr_plumb ..).trans h1
  have h3 : s3.plumb = s.plumb := by
    unfold s3
    split
    · have ht : t.plumb = s.plumb := (set1_keeps ..).plumb.trans h2
      split
      · exact ht
      · exact (sendFault_keeps ..).plumb.trans ht
    · exact (sendClear_keeps ..).plumb.trans h2
  rw [(refreshTimeOk_keeps ..).plumb]
  exact (hg ..).trans (congrArg g h3)

/-! ### An update with a fresh x (R239, R240) -/

/-- The state in which an update with x acts: the runs of x are counted, and TIME_AHEAD shows its sign. -/
def State.observed (s : State) (x : Int) : State :=
  ({ s with plumb := s.plumb.runs x }).wrB .PLB_STATUS_TIME_AHEAD 0 (decide (65536 < x))

theorem observed_keeps (s : State) (x : Int) :
    State.keeps (writes [.PLB_STATUS_TIME_AHEAD] [.plumb]) s (s.observed x) := by
  unfold State.observed
  refine State.keeps.wr ?_ (by decide +kernel)
  exact State.keeps.refl.put_plumb _ (by decide +kernel)

theorem observed_plumb (s : State) (x : Int) : (s.observed x).plumb = s.plumb.runs x := State.wr_plumb ..

theorem observed_reads_tstate {x : Int} {v : Nat} (h : s.reads .PLB_STATUS_TSTATE 0 v) :
    (s.observed x).reads .PLB_STATUS_TSTATE 0 v :=
  (observed_keeps s x).reads h

/-- In FREE a step of −x is planned, and ACQUIRE begins if the source of x is not FREE itself. -/
theorem updateWith_of_free (h : s.reads .PLB_STATUS_TSTATE 0 0) (x : Int) (pps : Bool) :
    (s.updateWith x true pps).reads .PLB_STATUS_TSTATE 0 1 ∧
    (s.updateWith x true pps).plumb.pendStep = s.plumb.pendStep - x ∧ (s.updateWith x true pps).plumb.stepping = true := by
  have hc := observed_reads_tstate (x := x) h
  have hfree : (s.observed x).tstate = 0 := hc.eq
  have heq : s.updateWith x true pps = (({ (s.observed x).planStep (-x) true with plumb :=
      { ((s.observed x).planStep (-x) true).plumb with near := 0, far := 0, acc := 0, cnt := 0 } } : State).wr
        .PLB_STATUS_TSTATE 0 1) := if_pos hfree
  have hcanon := ((planStep_keeps _ (-x) true).reads hc).put_plumb
    { ((s.observed x).planStep (-x) true).plumb with near := 0, far := 0, acc := 0, cnt := 0 }
  rw [heq]
  refine ⟨hcanon.canon.reads_wr, ?_, ?_⟩
  · rw [State.wr_plumb]
    change (s.observed x).plumb.pendStep + -x = _
    rw [observed_plumb]
    rfl
  · rw [State.wr_plumb]
    rfl

theorem clampI_natAbs_le {b : Nat} (x : Int) : (clampI (-b) b x).natAbs ≤ b := by
  unfold clampI
  omega

/-- Steering changes nothing of Plumb's record but the loop's own values. -/
theorem steer_plumb {α : Type} (s : State) (x : Int) (tp ti n : Nat) (g : Plumb → α)
    (hg : ∀ p fi ph fcorr acc cnt, g { p with fi := fi, ph := ph, fcorr := fcorr, acc := acc, cnt := cnt } = g p := by
      exact fun _ _ _ _ _ _ => rfl) : g (s.steer x tp ti n).plumb = g s.plumb := by
  unfold State.steer
  extract_lets p fi ph1 slew ph acc q s1
  split
  · exact hg p fi ph1 (fi + ph1) p.acc p.cnt
  · have h1 : g s1.plumb = g s.plumb := by
      unfold s1 q
      split
      · exact hg p ..
      · exact hg p ..
    split
    · exact h1
    · rwa [(tally_keeps ..).plumb]

/-- Steering outside ACQUIRE moves the phase by at most PHASE_SLEW and FW_PHASE_SLEW (R239, R254). -/
theorem steer_ph_le (h : s.tstate ≠ 1) (x : Int) (tp ti n : Nat) : (s.steer x tp ti n).plumb.ph.natAbs ≤
    min (s.rd .PLB_SLEW_PHASE_SLEW) (max 1 (s.rd .PLB_SLEW_FW_PHASE_SLEW)) := by
  unfold State.steer
  extract_lets p fi ph1 slew ph acc q s1
  have hslew : slew = (min (s.rd .PLB_SLEW_PHASE_SLEW) (max 1 (s.rd .PLB_SLEW_FW_PHASE_SLEW)) : Nat) := by
    push_cast
    rfl
  have hph : ph.natAbs ≤ min (s.rd .PLB_SLEW_PHASE_SLEW) (max 1 (s.rd .PLB_SLEW_FW_PHASE_SLEW)) := by
    unfold ph
    rw [hslew]
    exact clampI_natAbs_le _
  rw [if_neg h]
  split
  · exact hph
  · rwa [(tally_keeps ..).plumb]

/-- In LOCKED the rules of the states leave Plumb's record. -/
theorem timeStates_of_locked (h : s.tstate = 2) : s.timeStates.plumb = s.plumb := by
  have heq : s.timeStates = if 16 ≤ s.plumb.far then s.wr .PLB_STATUS_TSTATE 0 3 else s := by
    simp only [State.timeStates, h]
  rw [heq]
  split
  · exact State.wr_plumb ..
  · rfl

/-- Outside FREE an offset that is not behind by more than STEP_MIN steers by the law of the loop. -/
theorem updateWith_of_ahead {x : Int} (h : (s.observed x).tstate ≠ 0)
    (hx : -((s.observed x).stepMin * 65536 : Nat) ≤ x) (open' : Bool) :
    s.updateWith x open' false = ((s.observed x).steer x ((s.observed x).rd .PLB_LOOP_TP)
      ((s.observed x).rd .PLB_LOOP_TI) 1024).timeStates := by
  unfold State.updateWith
  extract_lets s1 s2
  change s1.tstate ≠ 0 at h
  change -(s1.stepMin * 65536 : Nat) ≤ x at hx
  rw [if_neg h, if_neg (not_lt.mpr hx), if_neg Bool.false_ne_true]
  rfl

/-- In LOCKED an offset that is not behind by more than STEP_MIN is steered away: the time stays continuous. -/
theorem updateWith_of_locked (h : s.reads .PLB_STATUS_TSTATE 0 2) {x : Int} (hx : -(s.stepMin * 65536 : Nat) ≤ x)
    (open' : Bool) : (s.updateWith x open' false).plumb.stepping = s.plumb.stepping ∧
    (s.updateWith x open' false).plumb.pendStep = s.plumb.pendStep ∧
    (s.updateWith x open' false).plumb.xs.head? = some x ∧
    (s.updateWith x open' false).plumb.ph.natAbs ≤
      min (s.rd .PLB_SLEW_PHASE_SLEW) (max 1 (s.rd .PLB_SLEW_FW_PHASE_SLEW)) := by
  have hc := observed_reads_tstate (x := x) h
  have hlocked : (s.observed x).tstate = 2 := hc.eq
  have hrd (f : Field) (hf : inSet (writes [.PLB_STATUS_TIME_AHEAD] [.plumb]) f = false) :
      (s.observed x).rd f = s.rd f := (observed_keeps s x).fields h.canon f 0 hf
  have hphase := hrd .PLB_SLEW_PHASE_SLEW (by decide +kernel)
  have hfw := hrd .PLB_SLEW_FW_PHASE_SLEW (by decide +kernel)
  have hmin : (s.observed x).stepMin = s.stepMin := by
    rw [State.stepMin, hrd .PLB_LOOP_STEP_MIN (by decide +kernel), State.stepMin]
  rw [updateWith_of_ahead (by rw [hlocked]; decide) (by rwa [hmin]),
    timeStates_of_locked ((steer_keeps ..).reads hc).eq, ← hphase, ← hfw]
  refine ⟨(steer_plumb _ _ _ _ _ Plumb.stepping).trans ?_, (steer_plumb _ _ _ _ _ Plumb.pendStep).trans ?_,
    (steer_plumb _ _ _ _ _ fun p => p.xs.head?).trans ?_, steer_ph_le (by rw [hlocked]; decide) ..⟩
  · rw [observed_plumb]
    rfl
  · rw [observed_plumb]
    rfl
  · rw [observed_plumb]
    rfl

/-! ### An update without a fresh x (R239, R240) -/

/-- The tenth update without a fresh offset ends LOCKED of a child: HOLDOVER begins. -/
theorem updateWithout_of_locked (h : s.reads .PLB_STATUS_TSTATE 0 2) (hrole : s.role = 1) (hstale : 9 ≤ s.plumb.stale) :
    s.updateWithout.reads .PLB_STATUS_TSTATE 0 4 ∧ s.updateWithout.plumb.ph = 0 ∧
    s.updateWithout.plumb.stale = s.plumb.stale + 1 := by
  unfold State.updateWithout
  extract_lets p s1
  have h1 : s1.reads .PLB_STATUS_TSTATE 0 2 := h.put_plumb _
  have htstate : s1.tstate = 2 := h1.eq
  have hrole1 : s1.role = 1 := hrole
  change 9 ≤ p.stale at hstale
  have hend : s1.tstate ≠ 0 ∧ (s1.role = 3 ∨ 10 ≤ p.stale + 1 ∧ s1.role ≠ 2) := by
    rw [htstate, hrole1]
    omega
  rw [if_pos hend, State.enterHoldover, if_neg (by rw [htstate]; decide)]
  refine ⟨(h1.put_plumb _).canon.reads_wr, ?_, ?_⟩
  · rw [State.wr_plumb]
  · rw [State.wr_plumb]

/-! ### The updates of a child -/

/-- A child in FREE whose parent is not steps to its parent's time. -/
theorem plumbUpdate_of_free {x : Int} (hs : s.canonical) (href : s.hasRef = false) (hfree : s.tstate = 0)
    (hopen : (s.lane (s.rd .PLB_STATUS_PARENT)).offer.map Offer.tstate = some 2) :
    let t := (s.childUpdate x).showLoop
    t.tstate = 1 ∧ t.plumb.pendStep = -x ∧ t.plumb.stepping = true ∧
    (t.lane (s.rd .PLB_STATUS_PARENT)).fresh = none := by
  have hk := useX_keeps_lanes (usesRef_of_no_ref href) none
  have hparent : s.parentOpen = true := by
    rw [State.parentOpen, hopen]
    rfl
  obtain ⟨hstate, hpend, hstepping⟩ := updateWith_of_free (hk.reads ⟨hs, hfree⟩) (x + s.plumb.pendStep) false
  have hsum : s.plumb.pendStep - (x + s.plumb.pendStep) = -x := by omega
  rw [hk.plumb, hsum] at hpend
  rw [State.childUpdate, hparent]
  exact ⟨((showLoop_keeps _).reads hstate).eq, (showLoop_plumb _ Plumb.pendStep).trans hpend,
    (showLoop_plumb _ Plumb.stepping).trans hstepping,
    ((showLoop_keeps _).laneShows <| (updateWith_keeps ..).laneShows <| useX_fresh hs none (parent_lt hs)).eq⟩

/-- A child in LOCKED steers within its slew, and plans no step. -/
theorem plumbUpdate_of_locked {x : Int} (hs : s.canonical) (href : s.hasRef = false) (hlocked : s.tstate = 2)
    (hx : -(s.stepMin * 65536 : Nat) ≤ x + s.plumb.pendStep) :
    let t := (s.childUpdate x).showLoop
    t.plumb.stepping = s.plumb.stepping ∧ t.plumb.pendStep = s.plumb.pendStep ∧
    t.plumb.ph.natAbs ≤ s.rd .PLB_SLEW_PHASE_SLEW ∧ t.plumb.ph.natAbs ≤ max 1 (s.rd .PLB_SLEW_FW_PHASE_SLEW) ∧
    t.plumb.xs.head? = some (x + s.plumb.pendStep) := by
  have hk := useX_keeps_lanes (usesRef_of_no_ref href) none
  have hrd (f : Field) : (s.useX none).rd f = s.rd f := hk.fields hs f 0 (inSet_writes List.not_mem_nil)
  have hmin : (s.useX none).stepMin = s.stepMin := by rw [State.stepMin, hrd, State.stepMin]
  obtain ⟨hstepping, hpend, hxs, hph⟩ :=
    updateWith_of_locked (hk.reads ⟨hs, hlocked⟩) (x := x + s.plumb.pendStep) (by rwa [hmin]) s.parentOpen
  rw [← State.childUpdate] at hstepping hpend hxs hph
  rw [hk.plumb] at hstepping hpend
  rw [hrd, hrd] at hph
  have hshown := (showLoop_plumb (s.childUpdate x) fun p => p.ph.natAbs).trans_le hph
  exact ⟨(showLoop_plumb _ Plumb.stepping).trans hstepping, (showLoop_plumb _ Plumb.pendStep).trans hpend,
    hshown.trans (min_le_left ..), hshown.trans (min_le_right ..), (showLoop_plumb _ fun p => p.xs.head?).trans hxs⟩

/-- A child in LOCKED goes to HOLDOVER at the tenth update without a fresh offset. -/
theorem plumbUpdate_of_stale (hs : s.canonical) (hrole : s.role = 1) (href : s.hasRef = false) (hlocked : s.tstate = 2)
    (hstale : 9 ≤ s.plumb.stale) :
    let t := (s.useX none).updateWithout.showLoop
    t.tstate = 4 ∧ t.plumb.ph = 0 ∧ t.plumb.stale = s.plumb.stale + 1 := by
  have hk := useX_keeps_lanes (usesRef_of_no_ref href) none
  obtain ⟨hstate, hph, hcount⟩ := updateWithout_of_locked (hk.reads ⟨hs, hlocked⟩)
    (hk.reads ⟨hs, hrole⟩).eq (by rwa [hk.plumb])
  rw [hk.plumb] at hcount
  exact ⟨((showLoop_keeps _).reads hstate).eq, (showLoop_plumb _ Plumb.ph).trans hph,
    (showLoop_plumb _ Plumb.stale).trans hcount⟩

end

/-- Settles O37: a child's update by what it uses and by what each state of the time discipline then leaves. -/
theorem plumbUpdates : Obligations.PlumbUpdates := by
  unfold Obligations.PlumbUpdates
  exact ⟨fun s x hs hrole hup href hx hopen hfree =>
      ⟨_, execPlumbUpdate_of_fresh hrole hup href hx, plumbUpdate_of_free hs href hfree hopen⟩,
    fun s x hs hrole hup href hx hlocked hmin =>
      ⟨_, execPlumbUpdate_of_fresh hrole hup href hx, plumbUpdate_of_locked hs href hlocked hmin⟩,
    fun s hs hrole hup href hx hlocked hstale =>
      ⟨_, execPlumbUpdate_of_stale hrole hup href hx, plumbUpdate_of_stale hs hrole href hlocked hstale⟩⟩

end Sys2Proof.Machine
end

section
/-!
SUPPORT. The frame of the fabric and of the protections: what a command of the cages, lanes and Col, of line power, the
monitor converters, the fault collector or the temperatures may write lies within the fields and parts that its statement
lists.
-/

namespace Sys2Proof.Machine

-- One proof after another, as in the files under Laws: each waits for the kernel's evaluations.
set_option Elab.async false

/-- Settles O13: what each command of the fabric and of the protections may write lies within its list. -/
theorem frameOfTheFabric : Obligations.FrameOfTheFabric := by
  unfold Obligations.FrameOfTheFabric
  intro c s hs
  obtain ⟨t, ht, hk⟩ := exec_answers c s
  refine ⟨t, ht, ?_⟩
  cases c with
  | cageInsert | cageIdentified | cageRemove | cageMonitor | laneBlockLock | helloSend | hello | creditBlock
    | laneFail | laneEnable | laneDisable | retrain | addrClaim | addrReclaim | lsaFlood | lsa | lsaExpire
    | routeComputeDone | frameForward | subReq | subNak | resv | resvNak | subAck | subTimeout
    | grainAckSend | grainAck | repair | repairReport | release | unsub | streamReestablish | unresTimeout
    | pwmPeriodEnd | pwmFallWrite | pwmModeWrite | pwmArm | pwmFwLimitWrite | g3Trip | fltActivate
    | fltLatchClear | pwmFineCal | clkStop | debugHalt | monRefEn | monRefReady | monCal | monCalDone
    | monConversionDone | plStale | monUrgent | monQueueRead | faultMessage | faultClear | fclAck
    | fclAckInj | fclAckClass | fclRelease | fclInject | fenceRecovery | aliveToggle | thermalSample
    | g4Temp | fwWarnWrite =>
    dsimp only [writesOf] at hk
    exact hk.frame hs (by decide +kernel)
  | _ => trivial

end Sys2Proof.Machine
end

section
/-!
SUPPORT. The life of a lane (10_col_fabric.md R255, R258, R263 to R265): what a lane shows on its way to UP, what it loses on
the way out of service, also while its streams are repaired, and the statement on the states of a lane.
-/

namespace Sys2Proof.Machine

-- One proof after another, as in the files under Laws: each waits for the kernel's evaluations.
set_option Elab.async false

section
variable {s t : State} {m l : Nat}

/-! ### Cages and Col's record -/

/-- An operation that writes no cage leaves the record of each as it was. -/
theorem State.keeps.cage (k : State.keeps m s t) (c : Nat) (hm : partIn m .cages = false := by decide +kernel) :
    t.cage c = s.cage c := by
  have hc : t.cages = s.cages := k.parts .cages hm
  rw [State.cage, hc, State.cage]

/-- Col's record is no lane. -/
theorem State.laneShows.put_col {α : Type} {g : Lane → α} {v : α} (h : s.laneShows g l v) (x : Col) :
    ({ s with col := x } : State).laneShows g l v :=
  ⟨{ h.canon with }, h.eq⟩

/-! ### Credits that are spent (R261) -/

/-- What is taken from a field at 0 leaves it at 0. -/
theorem State.reads.spend {f : Field} {i : Nat} (h : s.reads f i 0) (g : Field) (j k : Nat) :
    (s.wr g j (s.rd g j - k)).reads f i 0 := by
  refine ⟨(wr_keeps ..).canon h.canon, ?_⟩
  by_cases hl : g.locked = true
  · rw [State.wr_locked _ _ _ hl, h.eq]
  · rw [State.rd_wr (goodRegs.wf h.canon.regs) (Bool.eq_false_iff.mpr hl)]
    split
    case isTrue e =>
      obtain ⟨rfl, rfl⟩ := e
      rw [h.eq, Nat.zero_sub, Nat.zero_mod]
    case isFalse => exact h.eq

/-- Lane `l` has no credits for BAND frames. -/
def State.spent (s : State) (l : Nat) : Prop := s.reads .LANE_CREDIT_BAND l 0

theorem State.keeps.spent (k : State.keeps m s t) (h : s.spent l)
    (hf : inSet m .LANE_CREDIT_BAND = false := by decide +kernel) : t.spent l :=
  k.reads h hf

theorem State.spent.forEach {α : Type} {f : α → State → State} {xs : List α} (h : s.spent l)
    (hf : ∀ x t, t.spent l → (f x t).spent l) : (State.forEach f xs s).spent l :=
  State.forEach_invariant (P := (·.spent l)) h hf

theorem sendNow_spent (h : s.spent l) (k : Nat) (q : QFrame) (rest : List QFrame) : (s.sendNow k q rest).spent l := by
  unfold State.sendNow
  extract_lets f cf s1 s2
  have h1 : s1.spent l := by
    refine (tally_keeps ..).spent <| (tally_keeps ..).spent <| (keepFrame_keeps ..).spent ?_
    exact State.reads.spend ((updLane_keeps ..).spent h) ..
  have h2 : s2.spent l := by
    unfold s2
    split
    · exact (tally_keeps ..).spent h1
    · exact h1
  split
  · refine (freeBlocks_keeps ..).spent ?_
    split
    · exact (tally_keeps ..).spent h2
    · exact h2
  · exact h2

theorem pump_spent (h : s.spent l) (k n : Nat) : (s.pump k n).spent l := by
  induction n generalizing s with
  | zero => exact h
  | succ n ih =>
    unfold State.pump
    split
    · exact h
    · exact ih (sendNow_spent h ..)

/-- A frame that is queued brings no credits. -/
theorem queueFrame_spent (h : s.spent l) (k : Nat) (q : QFrame) : (s.queueFrame k q).spent l := by
  unfold State.queueFrame
  split
  · exact pump_spent ((updLane_keeps ..).spent h) ..
  · extract_lets s1
    have h1 : s1.spent l := (tally_keeps ..).spent <| (bump_keeps ..).spent h
    split
    · exact (freeBlocks_keeps ..).spent h1
    · exact h1

theorem routeQ_spent (h : s.spent l) (q : QFrame) : (s.routeQ q).spent l := by
  unfold State.routeQ
  split
  · exact queueFrame_spent h ..
  · extract_lets s1
    have h1 : s1.spent l := (bump_keeps ..).spent h
    split
    · exact (tally_keeps ..).spent <| (freeBlocks_keeps ..).spent h1
    · exact h1

theorem sendBack_spent (h : s.spent l) (k : Nat) (ws : List Sys2Proof.Word64) : (s.sendBack k ws).spent l := by
  unfold State.sendBack
  split
  · exact queueFrame_spent h ..
  · split
    · exact queueFrame_spent h ..
    · exact (bump_keeps ..).spent h

/-! ### Repair brings no credits (R276) -/

theorem reportRepair_spent (h : s.spent l) (e : Entry) (short noalt : Bool) : (s.reportRepair e short noalt).spent l := by
  unfold State.reportRepair
  split
  · exact (pubReport_keeps ..).spent h
  · exact routeQ_spent h _

theorem resendKept_spent (h : s.spent l) (ls : List Nat) (e : Entry) (idx : Option Nat) :
    (s.resendKept ls e idx).spent l := by
  unfold State.resendKept
  extract_lets mine old s1
  have h1 : s1.spent l := h.forEach fun k t ht => (wr_keeps ..).spent ((updLane_keeps ..).spent ht)
  exact h1.forEach fun f t ht => queueFrame_spent ((tally_keeps ..).spent <| (bump_keeps ..).spent ht) ..

theorem requeue_spent (h : s.spent l) (k : Nat) (e : Entry) (idx : Option Nat) : (s.requeue k e idx).spent l := by
  unfold State.requeue
  extract_lets takes mine
  exact ((updLane_keeps ..).spent h).forEach fun q t ht => queueFrame_spent ht ..

theorem moveInCage_spent (h : s.spent l) (k : Nat) (ms : List Member) : (s.moveInCage k ms).1.spent l := by
  induction ms generalizing s with
  | nil => exact h
  | cons x rest ih =>
    unfold State.moveInCage
    split
    · extract_lets e' s1
      have h1 : s1.spent l :=
        (putMember_keeps ..).spent <| (setEntry_keeps ..).spent <| (updLane_keeps ..).spent h
      exact ih (requeue_spent (resendKept_spent h1 ..) ..)
    · exact ih h

theorem repairStream_spent (h : s.spent l) (k : Nat) (e : Entry) : (s.repairStream k e).spent l := by
  unfold State.repairStream
  extract_lets -merge -underBinder +onlyGivenNames cands
  clear_value cands
  split
  · refine (bump_keeps ..).spent <| reportRepair_spent ?_ ..
    refine (setEntry_keeps ..).spent <| (updLane_keeps ..).spent ?_
    exact (dropKept_keeps ..).spent <| (takeMembers_keeps ..).spent h
  · extract_lets up out e' olds s1 short s2 s3
    have h1 : s1.spent l := by
      refine List.foldlRecOn _ _ (motive := fun t : State => t.spent l) ?_ fun t ht x _ => (putMember_keeps ..).spent ht
      exact (setEntry_keeps ..).spent ((takeMembers_keeps ..).spent h)
    exact (bump_keeps ..).spent <| sendBack_spent (requeue_spent (resendKept_spent h1 ..) ..) ..

theorem repairLane_spent (h : s.spent l) (k : Nat) : (s.repairLane k).spent l := by
  unfold State.repairLane
  extract_lets ms r marked s1 left
  have h1 : s1.spent l := (moveInCage_spent h ..).forEach fun e t ht => repairStream_spent ht ..
  refine (refreshLane_keeps ..).spent <| ((updLane_keeps ..).spent h1).forEach fun q t ht => ?_
  split
  · exact (freeBlocks_keeps ..).spent ht
  · exact ht

/-! ### A lane out of service (R264, R265, Table 121) -/

/-- The four credit fields of lane `l` are written, class by class (R261). -/
def State.setCredits (s : State) (l : Nat) (v : Nat → Nat) : State :=
  [0, 1, 2, 3].foldl (fun t c => t.wr (creditField c) l (v c)) s

/-- What `setCredits` may write. -/
def writes_setCredits : Nat :=
  writes [.LANE_CREDIT_TIME, .LANE_CREDIT_BAND, .LANE_CREDIT1_MGMT, .LANE_CREDIT1_BULK] []

theorem setCredits_eq (s : State) (l : Nat) (v : Nat → Nat) : s.setCredits l v =
    (((s.wr .LANE_CREDIT_TIME l (v 0)).wr .LANE_CREDIT_BAND l (v 1)).wr .LANE_CREDIT1_MGMT l (v 2)).wr
      .LANE_CREDIT1_BULK l (v 3) := rfl

theorem setCredits_keeps (s : State) (l : Nat) (v : Nat → Nat) : State.keeps writes_setCredits s (s.setCredits l v) := by
  rw [setCredits_eq]
  refine State.keeps.step ?_ (wr_keeps ..) (by decide +kernel)
  refine State.keeps.step ?_ (wr_keeps ..) (by decide +kernel)
  refine State.keeps.step ?_ (wr_keeps ..) (by decide +kernel)
  exact State.keeps.refl.step (wr_keeps ..) (by decide +kernel)

theorem setCredits_reads_time (hs : s.canonical) (l : Nat) (v : Nat → Nat) :
    (s.setCredits l v).reads .LANE_CREDIT_TIME l (v 0 % 2 ^ Field.LANE_CREDIT_TIME.row.width) := by
  rw [setCredits_eq]
  exact (wr_keeps ..).reads <| (wr_keeps ..).reads <| (wr_keeps ..).reads hs.reads_wr_mod

theorem setCredits_reads_band (hs : s.canonical) (l : Nat) (v : Nat → Nat) :
    (s.setCredits l v).reads .LANE_CREDIT_BAND l (v 1 % 2 ^ Field.LANE_CREDIT_BAND.row.width) := by
  rw [setCredits_eq]
  exact (wr_keeps ..).reads <| (wr_keeps ..).reads ((wr_keeps ..).canon hs).reads_wr_mod

theorem laneDown_reads_state (hs : s.canonical) (l : Nat) {st : Nat} (hst : st < 8) :
    (s.laneDown l st).reads .LANE_STATUS_STATE l st := by
  unfold State.laneDown
  extract_lets s1 s2 s3
  have h1 : s1.reads .LANE_STATUS_STATE l st :=
    (setCredits_keeps _ l fun _ => 0).reads <| (clr_keeps ..).reads (hs.reads_wr (hv := hst))
  have h3 : s3.reads .LANE_STATUS_STATE l st :=
    (wr_keeps ..).reads <| (clr_keeps ..).reads <| (clr_keeps ..).reads <| (updLane_keeps ..).reads h1
  split
  · exact (setCage_keeps ..).reads h3
  · exact h3

theorem laneDown_spent (hs : s.canonical) (l st : Nat) : (s.laneDown l st).spent l := by
  unfold State.laneDown
  extract_lets s1 s2 s3
  have h1 : s1.spent l := setCredits_reads_band ((clr_keeps ..).canon <| (wr_keeps ..).canon hs) l fun _ => 0
  have h3 : s3.spent l :=
    (wr_keeps ..).spent <| (clr_keeps ..).spent <| (clr_keeps ..).spent <| (updLane_keeps ..).spent h1
  split
  · exact (setCage_keeps ..).spent h3
  · exact h3

theorem laneOut_reads_state (hs : s.canonical) (l : Nat) {st : Nat} (hst : st < 8) :
    (s.laneOut l st).reads .LANE_STATUS_STATE l st := by
  unfold State.laneOut
  extract_lets up s1
  split
  · exact (repairLane_keeps ..).reads (laneDown_reads_state hs l hst)
  · exact laneDown_reads_state hs l hst

theorem laneOut_spent (hs : s.canonical) (l st : Nat) : (s.laneOut l st).spent l := by
  unfold State.laneOut
  extract_lets up s1
  split
  · exact repairLane_spent (laneDown_spent hs l st) l
  · exact laneDown_spent hs l st

/-! ### Failure (R264) -/

/-- An UP lane that fails has counted the failure and sent its fault when it leaves service. -/
theorem failLane_spec (hs : s.canonical) (hup : s.laneUp l = true) (c : Sys2Proof.LaneCause) :
    (s.failLane l c).laneState l = 4 ∧
    (s.failLane l c).rd .LANE_COUNT_FAILS l =
      min (s.rd .LANE_COUNT_FAILS l + 1) (2 ^ Field.LANE_COUNT_FAILS.row.width - 1) ∧
    (s.failLane l c).faultWaits (0x90 + l) 0x30 = true ∧
    (s.failLane l c).rd .LANE_CREDIT_BAND l = 0 := by
  unfold State.failLane
  rw [if_neg (by rw [hup]; decide)]
  extract_lets s1 s2
  have h1 : s1.reads .LANE_COUNT_FAILS l _ := (sendFault_keeps ..).reads hs.reads_bump
  have hk : State.keeps (writes [.LANE_STATUS_PROTO, .LANE_STATUS_CRC_BURST, .LANE_STATUS_LOS, .LANE_ERR_BLOCK_ERR] [])
      s1 s2 := by
    refine State.keeps.ite (fun _ => .wr .refl (by decide +kernel)) fun _ => ?_
    refine State.keeps.ite (fun _ => .wr .refl (by decide +kernel)) fun _ => ?_
    refine State.keeps.ite (fun _ => .wr .refl (by decide +kernel)) fun _ => ?_
    exact State.keeps.ite (fun _ => .wr .refl (by decide +kernel)) fun _ => .refl
  have h2 : s2.canonical := hk.canon h1.canon
  exact ⟨(laneOut_reads_state h2 l (by decide)).eq, ((laneOut_keeps ..).reads (hk.reads h1)).eq,
    (laneOut_keeps ..).faultWaits (hk.faultWaits (State.faultWaits_sendFault ..)), (laneOut_spent h2 l 4).eq⟩

/-! ### The way to UP (R255, R263) -/

/-- A training lane that has block lock and a peer in TRAINING passes to HELLO, and waits there for the peer's HELLO. -/
theorem laneAdvance_of_training (hstate : s.laneState l = 1) (hlock : s.is .LANE_STATUS_BLOCK_LOCK l = true)
    (hpeer : (s.lane l).peerLstate = 1) : s.laneAdvance l = s.wr .LANE_STATUS_STATE l 2 := by
  unfold State.laneAdvance
  extract_lets s1
  have h1 : s1 = s.wr .LANE_STATUS_STATE l 2 := if_pos ⟨hstate, hlock, hpeer.ge⟩
  rw [h1, if_neg]
  rintro ⟨-, -, h⟩
  rw [State.wr_lane, hpeer] at h
  exact absurd h (by decide)

/-- A lane in HELLO that has the HELLO of a peer which is itself in HELLO enters UP. -/
theorem laneAdvance_of_hello (hstate : s.laneState l = 2) (hseen : (s.lane l).helloSeen = true)
    (hpeer : 2 ≤ (s.lane l).peerLstate) (hwired : s.miswired l = false) : s.laneAdvance l = s.laneEnterUp l := by
  unfold State.laneAdvance
  extract_lets s1
  have h1 : s1 = s := if_neg fun h => by omega
  rw [h1, if_pos ⟨hstate, hseen, hpeer⟩, if_neg (by rw [hwired]; decide)]

/-- A lane that enters UP has the peer's sizes as credits, and its cage the peer that the lane names. -/
theorem laneEnterUp_spec (hs : s.canonical) (l : Nat) (hpeer : (s.cage (l / 4)).peer = none) :
    (s.laneEnterUp l).laneState l = 3 ∧
    (s.laneEnterUp l).rd .LANE_CREDIT_TIME l = (s.lane l).peerBuf.time % 2 ^ Field.LANE_CREDIT_TIME.row.width ∧
    (s.laneEnterUp l).rd .LANE_CREDIT_BAND l = (s.lane l).peerBuf.band % 2 ^ Field.LANE_CREDIT_BAND.row.width ∧
    ((s.laneEnterUp l).cage (l / 4)).peer =
      some (s.rd2 .LANE_PEER_UID_LO_UID_LO .LANE_PEER_UID_HI_UID_HI l, s.rd .LANE_PEER_CAGE l) := by
  unfold State.laneEnterUp
  extract_lets x uid s1 freed col s2 cage s3
  have h0 := hs.reads_wr (f := .LANE_STATUS_STATE) (i := l) (v := 3)
  have hk1 : State.keeps writes_setCredits (s.wr .LANE_STATUS_STATE l 3) s1 := setCredits_keeps _ l x.peerBuf.get
  have hk2 : State.keeps (writes [.PLB_LSTAT_LROLE] [.lanes, .col, .free]) s1 s2 := by
    refine State.keeps.wr ?_ (by decide +kernel)
    refine State.keeps.step ?_ (updLane_keeps ..) (by decide +kernel)
    exact (State.keeps.refl.step (nextFree_keeps s1) (by decide +kernel)).put_col _ (by decide +kernel)
  have hc2 : s2.canonical := hk2.canon (hk1.canon h0.canon)
  have hcage : (s2.cage (l / 4)).peer = none :=
    (congrArg Cage.peer ((hk2.cage _).trans (hk1.cage _))).trans (by rw [State.wr_cage, hpeer])
  have h3 : s3 = s2.setCage (l / 4) { s2.cage (l / 4) with peer := some (uid, s.rd .LANE_PEER_CAGE l) } :=
    if_pos (by rw [hpeer]; rfl)
  have hk3 : State.keeps (writes [] [.cages]) s2 s3 := h3 ▸ setCage_keeps ..
  have hk : State.keeps (writes [.PLB_LSTAT_LROLE] [.lanes, .col, .free, .cages] ||| writes_refreshLane) s1
      (s3.refreshLane l) := by
    refine State.keeps.step ?_ (refreshLane_keeps ..) (by decide +kernel)
    exact (State.keeps.refl.step hk2 (by decide +kernel)).step hk3 (by decide +kernel)
  refine ⟨(hk.reads (hk1.reads h0)).eq, (hk.reads (setCredits_reads_time h0.canon l _)).eq,
    (hk.reads (setCredits_reads_band h0.canon l _)).eq, ?_⟩
  rw [(refreshLane_keeps ..).cage, h3, State.cage_setCage hc2.cages, if_pos rfl]

theorem laneEnterUp_peerLstate {k v : Nat} (h : s.laneShows Lane.peerLstate k v) (l : Nat) :
    (s.laneEnterUp l).laneShows Lane.peerLstate k v := by
  unfold State.laneEnterUp
  extract_lets x uid s1 freed col s2 cage s3
  have h1 : s1.laneShows Lane.peerLstate k v :=
    (setCredits_keeps _ l x.peerBuf.get).laneShows <| (wr_keeps ..).laneShows h
  have h2 : s2.laneShows Lane.peerLstate k v := by
    refine (wr_keeps ..).laneShows <| State.laneShows.updLane ?_ l
    exact ((nextFree_keeps s1).laneShows h1).put_col _
  refine (refreshLane_keeps ..).laneShows ?_
  unfold s3
  split
  · exact (setCage_keeps ..).laneShows h2
  · exact h2

theorem laneAdvance_peerLstate {k v : Nat} (h : s.laneShows Lane.peerLstate k v) (l : Nat) :
    (s.laneAdvance l).laneShows Lane.peerLstate k v := by
  unfold State.laneAdvance
  extract_lets s1
  have h1 : s1.laneShows Lane.peerLstate k v := by
    unfold s1
    split
    · exact (wr_keeps ..).laneShows h
    · exact h
  split
  · split
    · exact (set1_keeps ..).laneShows (h1.updLane l)
    · exact laneEnterUp_peerLstate h1 l
  · exact h1

/-! ### HELLO (R255, R263) -/

theorem msgW_lt (f : Sys2Proof.Frame) (i : Nat) : msgW f i < 2 ^ 64 := (f.words.getD i 0).isLt

theorem State.keeps.uid (k : State.keeps m s t) (hs : s.canonical)
    (hlo : inSet m .COL_ID_LO_ID_LO = false := by decide +kernel)
    (hhi : inSet m .COL_ID_HI_ID_HI = false := by decide +kernel) : t.uid = s.uid := by
  rw [State.uid, State.rd2, k.fields hs _ _ hlo, k.fields hs _ _ hhi, State.uid, State.rd2]

theorem miswired_of_own (h : s.rd2 .LANE_PEER_UID_LO_UID_LO .LANE_PEER_UID_HI_UID_HI l = s.uid) : s.miswired l = true := by
  simp [State.miswired, h]

theorem miswired_of_other (h : s.rd2 .LANE_PEER_UID_LO_UID_LO .LANE_PEER_UID_HI_UID_HI l ≠ s.uid)
    (hpeer : (s.cage (l / 4)).peer = none) : s.miswired l = false := by
  simp [State.miswired, h, hpeer]

theorem showPeer_reads_node (hs : s.canonical) (l lo x : Nat) (valid : Bool) (cage lane : Nat) :
    (s.showPeer l (bits lo 12 x) valid cage lane).reads .LANE_PEER_NODE l (bits lo 12 x) :=
  (wr_keeps ..).reads <| (wr_keeps ..).reads <| (wrB_keeps ..).reads <| hs.reads_wr (hv := bits_lt ..)

theorem showPeer_reads_cage (hs : s.canonical) (l node : Nat) (valid : Bool) (lo x lane : Nat) :
    (s.showPeer l node valid (bits lo 2 x) lane).reads .LANE_PEER_CAGE l (bits lo 2 x) :=
  (wr_keeps ..).reads <| ((wrB_keeps ..).canon <| (wr_keeps ..).canon hs).reads_wr (hv := bits_lt ..)

/-- The state in which a HELLO's peer is shown and its sizes are not yet taken. -/
def State.identified (s : State) (l : Nat) (f : Sys2Proof.Frame) : State :=
  (((s.showPeer l (bits 40 12 (msgW f 0)) (bit 52 (msgW f 0)) (bits 53 2 (msgW f 0)) (bits 55 2 (msgW f 0))).wr2
    .LANE_PEER_UID_LO_UID_LO .LANE_PEER_UID_HI_UID_HI l (msgW f 1)).tally 1 0x02 l 1 2).updLane l
      fun x => { x with helloSeen := false }

/-- What `identified` may write. -/
def writes_identified : Nat :=
  writes [.LANE_PEER_UID_LO_UID_LO, .LANE_PEER_UID_HI_UID_HI] [.lanes] ||| writes_showPeer ||| writes_tally

theorem identified_keeps (s : State) (l : Nat) (f : Sys2Proof.Frame) :
    State.keeps writes_identified s (s.identified l f) := by
  refine State.keeps.step ?_ (updLane_keeps ..) (by decide +kernel)
  refine State.keeps.step ?_ (tally_keeps ..) (by decide +kernel)
  refine State.keeps.step ?_ (wr2_keeps ..) (by decide +kernel)
  exact State.keeps.refl.step (showPeer_keeps ..) (by decide +kernel)

theorem identified_uid (hs : s.canonical) (l : Nat) (f : Sys2Proof.Frame) :
    (s.identified l f).rd2 .LANE_PEER_UID_LO_UID_LO .LANE_PEER_UID_HI_UID_HI l = msgW f 1 := by
  have hsh := (showPeer_keeps s l (bits 40 12 (msgW f 0)) (bit 52 (msgW f 0)) (bits 53 2 (msgW f 0))
    (bits 55 2 (msgW f 0))).canon hs
  refine rd2_of_reads ?_ ?_
  · refine (updLane_keeps ..).reads <| (tally_keeps ..).reads <| (wr_keeps ..).reads ?_
    exact hsh.reads_wr_mod
  · refine (updLane_keeps ..).reads <| (tally_keeps ..).reads ?_
    refine ((wr_keeps ..).canon hsh).reads_wr (hv := ?_)
    exact Nat.div_lt_of_lt_mul (msgW_lt f 1)

theorem identified_cage (hs : s.canonical) (l : Nat) (f : Sys2Proof.Frame) :
    (s.identified l f).rd .LANE_PEER_CAGE l = bits 53 2 (msgW f 0) := by
  exact ((updLane_keeps ..).reads <| (tally_keeps ..).reads <| (wr2_keeps ..).reads <| showPeer_reads_cage hs ..).eq

theorem identified_peerLstate {v : Nat} (h : s.laneShows Lane.peerLstate l v) (f : Sys2Proof.Frame) :
    (s.identified l f).laneShows Lane.peerLstate l v :=
  State.laneShows.updLane (y := fun x => { x with helloSeen := false })
    ((tally_keeps ..).laneShows <| (wr2_keeps ..).laneShows <| (showPeer_keeps ..).laneShows h) l

/-- The sizes that a HELLO names (Table 123). -/
def helloSizes (f : Sys2Proof.Frame) : PerClass :=
  { time := bits 16 8 (msgW f 2), band := bits 0 16 (msgW f 2), mgmt := bits 24 12 (msgW f 2)
    bulk := bits 36 12 (msgW f 2) }

/-- The state in which a HELLO's peer is shown and its sizes are taken. -/
def State.greeted (s : State) (l : Nat) (f : Sys2Proof.Frame) : State :=
  (s.identified l f).updLane l fun x => { x with helloSeen := true, peerBuf := helloSizes f }

theorem greeted_keeps (s : State) (l : Nat) (f : Sys2Proof.Frame) : State.keeps writes_identified s (s.greeted l f) :=
  (identified_keeps s l f).step (updLane_keeps ..) (by decide +kernel)

/-- A HELLO of three words on a lane in HELLO shows its peer, and is refused or taken by what it names. -/
theorem execHello_of_hello {l : Sys2Proof.LaneIx} {f : Sys2Proof.Frame} (hstate : s.laneState l = 2) (hcls : f.cls = 2)
    (hlen : f.words.length = 3) (htype : msgType f = 1) (hver : msgVer f = 1) : execHello l f s = .next (
      if (s.identified l f).miswired l then (s.identified l f).set1 .LANE_STATUS_MISWIRED l
      else if (helloSizes f).time < 6 ∨ (helloSizes f).band < 38 ∨ (helloSizes f).mgmt < 66 ∨
          (helloSizes f).bulk < 66 then
        (s.identified l f).set1 .LANE_STATUS_PROTO l
      else (s.greeted l f).laneAdvance l) := by
  have h1 : ¬(s.laneState l ≠ 2 ∨ f.cls ≠ 2) := by omega
  have h2 : ¬(msgVer f ≠ 1 ∨ msgType f = 0 ∨ 13 < msgType f) := by omega
  have h3 : ¬(msgType f ≠ 1 ∨ f.words.length ≠ 3) := by omega
  rw [execHello, if_neg h1, if_neg h2, if_neg h3]
  rfl

/-- A lane that shows another module as its peer, of a cage without a peer, is not miswired. -/
theorem State.keeps.wired (k : State.keeps writes_identified s t) (hs : s.canonical) {uid : Nat}
    (huid : t.rd2 .LANE_PEER_UID_LO_UID_LO .LANE_PEER_UID_HI_UID_HI l = uid) (hother : uid ≠ s.uid)
    (hcage : (s.cage (l / 4)).peer = none) : t.miswired l = false :=
  miswired_of_other (by rwa [huid, k.uid hs]) (by rwa [k.cage])

theorem greeted_uid (hs : s.canonical) (l : Nat) (f : Sys2Proof.Frame) :
    (s.greeted l f).rd2 .LANE_PEER_UID_LO_UID_LO .LANE_PEER_UID_HI_UID_HI l = msgW f 1 :=
  identified_uid hs l f

/-- A HELLO of another module, on a lane of a cage without a peer, brings the lane UP. -/
theorem greeted_enters_up {f : Sys2Proof.Frame} (hs : s.canonical) (hstate : s.laneState l = 2) (hother : msgW f 1 ≠ s.uid)
    (hcage : (s.cage (l / 4)).peer = none) (hpeer : 2 ≤ (s.lane l).peerLstate) :
    (s.greeted l f).laneAdvance l = (s.greeted l f).laneEnterUp l := by
  have hseen := ((identified_keeps s l f).canon hs).laneShows_updLane (g := Lane.helloSeen) (l := l) fun x =>
    { x with helloSeen := true, peerBuf := helloSizes f }
  have hsame : (s.greeted l f).laneShows Lane.peerLstate l (s.lane l).peerLstate :=
    (identified_peerLstate (hs.laneShows ..) f).updLane l (y := fun x =>
      { x with helloSeen := true, peerBuf := helloSizes f })
  exact laneAdvance_of_hello ((greeted_keeps ..).reads ⟨hs, hstate⟩).eq hseen.eq (hpeer.trans hsame.eq.ge)
    ((greeted_keeps ..).wired hs (greeted_uid hs ..) hother hcage)

/-- What a lane shows that came UP on a HELLO. -/
theorem greeted_laneEnterUp_spec {f : Sys2Proof.Frame} (hs : s.canonical) (hcage : (s.cage (l / 4)).peer = none) :
    let t := (s.greeted l f).laneEnterUp l
    t.laneState l = 3 ∧
    t.rd .LANE_CREDIT_TIME l = bits 16 8 (msgW f 2) % 2 ^ Field.LANE_CREDIT_TIME.row.width ∧
    t.rd .LANE_CREDIT_BAND l = bits 0 16 (msgW f 2) % 2 ^ Field.LANE_CREDIT_BAND.row.width ∧
    (t.cage (l / 4)).peer = some (msgW f 1, bits 53 2 (msgW f 0)) := by
  have hk := greeted_keeps s l f
  have hbuf := ((identified_keeps s l f).canon hs).laneShows_updLane (g := Lane.peerBuf) (l := l) fun x =>
    { x with helloSeen := true, peerBuf := helloSizes f }
  have hpc : (s.greeted l f).rd .LANE_PEER_CAGE l = bits 53 2 (msgW f 0) := identified_cage hs l f
  obtain ⟨hstate, htime, hband, hpeer⟩ := laneEnterUp_spec (hk.canon hs) l (by rwa [hk.cage])
  rw [greeted_uid hs, hpc] at hpeer
  exact ⟨hstate, htime.trans (congrArg (fun b : PerClass => b.time % _) hbuf.eq),
    hband.trans (congrArg (fun b : PerClass => b.band % _) hbuf.eq), hpeer⟩

/-! ### The commands -/

theorem execLaneBlockLock_spec {l : Sys2Proof.LaneIx} (hs : s.canonical) (hstate : s.laneState l = 1)
    (hpeer : (s.lane l).peerLstate = 1) : ∃ t, execLaneBlockLock l s = .next t ∧
      t.rd .LANE_STATUS_BLOCK_LOCK l = 1 ∧ t.laneState l = 2 := by
  have hlock := hs.reads_wr (f := .LANE_STATUS_BLOCK_LOCK) (i := l) (v := 1)
  have hstate' : (s.set1 .LANE_STATUS_BLOCK_LOCK l).laneState l = 1 := ((set1_keeps ..).reads ⟨hs, hstate⟩).eq
  refine ⟨_, congrArg Host.Outcome.next (if_pos hstate), ?_⟩
  rw [laneAdvance_of_training hstate' hlock.is (by rwa [State.set1, State.wr_lane])]
  exact ⟨((wr_keeps ..).reads hlock).eq, (hlock.canon.reads_wr (hv := by decide +kernel)).eq⟩

theorem execLinkBlock_of_good {l : Sys2Proof.LaneIx} {x : BitVec 56} (hs : s.canonical) (hcrc : crc8Ok x = true)
    (hstate : ¬(s.laneState l = 0 ∨ s.laneState l = 4)) : ∃ t, execLinkBlock l x s = .next t ∧
      (t.lane l).peerLstate = bits 0 3 x.toNat ∧ t.rd .LANE_PEER_NODE l = bits 7 12 x.toNat ∧
      t.rd .LANE_PEER_CAGE l = bits 3 2 x.toNat ∧ t.rd .LANE_ERR_BLOCK_ERR l = s.rd .LANE_ERR_BLOCK_ERR l := by
  refine ⟨_, congrArg Host.Outcome.next ((if_neg (by rw [hcrc]; decide)).trans (if_neg hstate)), ?_⟩
  have hlane := hs.laneShows_updLane (g := Lane.peerLstate) (l := l) fun y => { y with peerLstate := bits 0 3 x.toNat }
  refine ⟨(laneAdvance_peerLstate ((showPeer_keeps ..).laneShows hlane) l).eq, ?_, ?_, ?_⟩
  · exact ((laneAdvance_keeps ..).reads (showPeer_reads_node hlane.canon ..)).eq
  · exact ((laneAdvance_keeps ..).reads (showPeer_reads_cage hlane.canon ..)).eq
  · exact ((laneAdvance_keeps ..).reads <| (showPeer_keeps ..).reads <| (updLane_keeps ..).reads (hs.reads ..)).eq

theorem execLinkBlock_of_bad {l : Sys2Proof.LaneIx} {x : BitVec 56} (hcrc : crc8Ok x = false) :
    execLinkBlock l x s = .next (s.bump .LANE_ERR_BLOCK_ERR l) :=
  congrArg Host.Outcome.next (if_pos (by rw [hcrc]; rfl))

theorem execHelloSend_spec {l : Sys2Proof.LaneIx} (hs : s.canonical) (hstate : s.laneState l = 2) :
    ∃ t, execHelloSend l s = .next t ∧ (t.lane l).fibre = (s.lane l).fibre ++ [s.helloFrame l] ∧ t.regs = s.regs := by
  refine ⟨_, congrArg Host.Outcome.next (if_pos hstate), ?_, rfl⟩
  exact ((tally_keeps ..).laneShows <| hs.laneShows_updLane (g := Lane.fibre) _).eq

/-- A lane that may run trains once it is enabled (R265, Table 121). -/
theorem writeLaneEn_trains (hs : s.canonical) (hstate : s.laneState l = 0) (hphase : (s.cage (l / 4)).phase = 2)
    (hfence : s.fenced (0x90 + l) = false) :
    (s.writeLaneEn l true).rd .LANE_CTRL_EN l = 1 ∧ (s.writeLaneEn l true).laneState l = 1 := by
  have hen := hs.reads_wr (f := .LANE_CTRL_EN) (i := l) (v := 1)
  have hmay : (s.set1 .LANE_CTRL_EN l).laneMay l = true := by
    have hon : (s.set1 .LANE_CTRL_EN l).is .LANE_CTRL_EN l = true := hen.is
    have hfree : (s.set1 .LANE_CTRL_EN l).fenced (0x90 + l) = false := hfence
    rw [State.laneMay, hon, hfree, (set1_keeps ..).cage, hphase]
    rfl
  have hw : s.writeLaneEn l true = (s.set1 .LANE_CTRL_EN l).wr .LANE_STATUS_STATE l 1 := by
    rw [State.writeLaneEn, if_pos rfl, State.laneTrain, if_pos ⟨hmay, ((set1_keeps ..).reads ⟨hs, hstate⟩).eq⟩]
  rw [hw]
  exact ⟨((wr_keeps ..).reads hen).eq, hen.canon.reads_wr.eq⟩

theorem writeLaneEn_off (hs : s.canonical) (l : Nat) :
    (s.writeLaneEn l false).rd .LANE_CTRL_EN l = 0 ∧ (s.writeLaneEn l false).laneState l = 0 := by
  have hen := hs.reads_wr (f := .LANE_CTRL_EN) (i := l) (v := 0)
  exact ⟨((laneOut_keeps ..).reads hen).eq, (laneOut_reads_state hen.canon l (by decide)).eq⟩

end

/-- Settles O40: each command by what it leaves of the lane's state, its credits and its peer. -/
theorem laneStates : Obligations.LaneStates := by
  unfold Obligations.LaneStates
  refine ⟨fun s l hs hstate hpeer => execLaneBlockLock_spec hs hstate hpeer,
    fun s l x hs hcrc hstate => execLinkBlock_of_good hs hcrc (by omega),
    fun s l x hs hcrc => ⟨_, execLinkBlock_of_bad hcrc, hs.reads_bump.eq, State.wr_lanes ..⟩,
    fun s l hs hstate => execHelloSend_spec hs hstate,
    fun s l f hs hstate hcls hlen htype hver hother hcage htime hband hmgmt hbulk hpeer =>
      ⟨_, execHello_of_hello hstate hcls hlen htype hver, ?_⟩,
    fun s l f hs hstate hcls hlen htype hver hown => ⟨_, execHello_of_hello hstate hcls hlen htype hver, ?_⟩,
    fun s l hs hstate hphase hfence => ⟨_, rfl, writeLaneEn_trains hs hstate hphase hfence⟩,
    fun s l hs => ⟨_, rfl, writeLaneEn_off hs l⟩,
    fun s l hs hstate => ⟨_, congrArg Host.Outcome.next (if_neg (by omega)), (laneOut_reads_state hs l (by decide)).eq,
      (laneOut_spent hs l 1).eq⟩,
    fun s l c hs hup => ⟨_, rfl, failLane_spec hs hup c⟩,
    fun s l c hs hup => ⟨_, rfl, if_pos (by rw [hup]; rfl)⟩⟩
  · have hroom : ¬((helloSizes f).time < 6 ∨ (helloSizes f).band < 38 ∨ (helloSizes f).mgmt < 66 ∨
        (helloSizes f).bulk < 66) := by
      simp only [helloSizes]
      omega
    rw [if_neg (by rw [(identified_keeps ..).wired hs (identified_uid hs ..) hother hcage]; decide), if_neg hroom,
      greeted_enters_up hs hstate hother hcage hpeer]
    exact greeted_laneEnterUp_spec hs hcage
  · have hk := identified_keeps s l f
    rw [if_pos (miswired_of_own ((identified_uid hs l f).trans (hown.trans (hk.uid hs).symm)))]
    exact ⟨(hk.canon hs).reads_wr.eq, ((set1_keeps ..).reads (hk.reads ⟨hs, hstate⟩)).eq⟩

end Sys2Proof.Machine
end

section
/-!
SUPPORT. The streams of the fabric (10_col_fabric.md R271 to R277): the entries, members and kept copies of a stream, what a
band path's record shows of its publication and its subscription, and the statements on setting a route up and on its upkeep.
-/

namespace Sys2Proof.Machine

-- One proof after another, as in the files under Laws: each waits for the kernel's evaluations.
set_option Elab.async false

/-! ### Entries, members and kept copies (R271, R274, R275) -/

section
variable {s t : State} {m j : Nat} {e : Entry}

/-- An operation that does not write Col's record leaves its entries. -/
theorem State.keeps.entry (k : State.keeps m s t) (node bp : Nat) (rid : Bool)
    (hm : partIn m .col = false := by decide +kernel) : t.entry node bp rid = s.entry node bp rid := by
  have hc : t.col = s.col := k.parts .col hm
  rw [State.entry, hc, State.entry]

/-- An operation that writes neither the band paths nor Col's record leaves the streams. -/
theorem State.keeps.streams (k : State.keeps m s t) (hb : partIn m .bps = false := by decide +kernel)
    (hc : partIn m .col = false := by decide +kernel) : t.bps = s.bps ∧ t.col.entries = s.col.entries := by
  have hcol : t.col = s.col := k.parts .col hc
  exact ⟨k.parts .bps hb, congrArg Col.entries hcol⟩

theorem State.keeps.nodeAddr (k : State.keeps m s t) (hs : s.canonical)
    (ha : inSet m .COL_NODE_ADDR = false := by decide +kernel)
    (hv : inSet m .COL_NODE_VALID = false := by decide +kernel) : t.nodeAddr = s.nodeAddr := by
  rw [State.nodeAddr, State.is, k.fields hs _ _ ha, k.fields hs _ _ hv, State.nodeAddr, State.is]

/-- An entry that is found has the identity it was sought by. -/
theorem entry_identity {node bp : Nat} {rid : Bool} (h : s.entry node bp rid = some e) :
    e.node = node ∧ e.bp = bp ∧ e.rid = rid := by
  have := List.find?_some h
  simp only [Entry.is, Bool.and_eq_true, beq_iff_eq] at this
  exact ⟨this.1.1, this.1.2, this.2⟩

theorem find?_filter_is (es : List Entry) (node bp : Nat) (rid : Bool) :
    (es.filter fun x => !x.is node bp rid).find? (·.is node bp rid) = none :=
  List.find?_eq_none.mpr fun x hx => by simpa using (List.mem_filter.mp hx).2

/-- An entry that is put in place is the one found. -/
theorem setEntry_entry (s : State) (e : Entry) : (s.setEntry e).entry e.node e.bp e.rid = some e := by
  rw [State.entry, State.setEntry, List.find?_append, find?_filter_is, Option.none_or, List.find?_singleton]
  exact if_pos (by simp only [Entry.is, beq_self_eq_true, Bool.and_self])

/-- An entry that is dropped is found no more. -/
theorem dropEntry_entry (s : State) (e : Entry) : (s.dropEntry e).entry e.node e.bp e.rid = none := by
  unfold State.dropEntry
  extract_lets s1 col
  clear_value s1
  exact find?_filter_is ..

/-- Once an entry's members are taken off every lane, none of them is left on lane `j`. -/
theorem takeMembers_members (hs : s.canonical) (e : Entry) (hj : j < 16) :
    (s.takeMembers e).laneShows (fun x => x.members.any (·.ofEntry e)) j false := by
  have hleft (ms : List Member) : ((ms.filter fun m => !m.ofEntry e).any (·.ofEntry e)) = false := by
    rw [List.any_eq_false]
    exact fun x hx => by simpa using (List.mem_filter.mp hx).2
  refine State.forEach_effect (P := State.canonical) (Q := (·.laneShows (fun x => x.members.any (·.ofEntry e)) j false))
    (mem_allLanes.mpr hj) hs (fun k t ht => ?_) (fun t ht => ?_) fun k t ht => ?_
  · split
    · exact (refreshLane_keeps ..).canon ((updLane_keeps ..).canon ht)
    · exact ht
  · split
    case isTrue =>
      refine (refreshLane_keeps ..).laneShows ?_
      exact hleft _ ▸ ht.laneShows_updLane (g := fun x => x.members.any (·.ofEntry e)) fun x =>
        { x with members := x.members.filter fun m => !m.ofEntry e }
    case isFalse h => exact ⟨ht, Bool.eq_false_iff.mpr h⟩
  · split
    · refine (refreshLane_keeps ..).laneShows ⟨(updLane_keeps ..).canon ht.canon, ?_⟩
      rw [ht.canon.lane_updLane]
      split
      · exact hleft _
      · exact ht.eq
    · exact ht

/-- The kept copies that are dropped leave the other parts of a lane's record. -/
theorem dropKept_laneShows {α : Type} {g : Lane → α} {v : α} (h : s.laneShows g j v) (e : Entry)
    (gone : Sys2Proof.Frame → Bool) (hg : ∀ x ks, g { x with kept := ks } = g x := by exact fun _ _ => rfl) :
    (s.dropKept e gone).laneShows g j v := by
  refine State.forEach_invariant (P := (·.laneShows g j v)) h fun k t ht => ?_
  split
  · exact (wr_keeps ..).laneShows (ht.updLane k fun x => hg x _)
  · exact ht

/-- Of the kept copies of lane `j` those that are named are dropped, and no others. -/
theorem dropKept_kept (hs : s.canonical) (e : Entry) (gone : Sys2Proof.Frame → Bool) (hj : j < 16) :
    (s.dropKept e gone).laneShows Lane.kept j
      ((s.lane j).kept.filter fun k => !(frameOf k.frame e && gone k.frame)) := by
  refine State.forEach_nodup_effect (P := (·.laneShows Lane.kept j (s.lane j).kept))
    (Q := (·.laneShows Lane.kept j ((s.lane j).kept.filter fun k => !(frameOf k.frame e && gone k.frame))))
    allLanes_nodup (mem_allLanes.mpr hj) (hs.laneShows ..) (fun k t hk ht => ?_) (fun t ht => ?_) fun k t hk ht => ?_
  · split
    · exact (wr_keeps ..).laneShows (ht.updLane_of_ne hk _)
    · exact ht
  · rw [← ht.eq]
    split
    case isTrue =>
      exact (wr_keeps ..).laneShows (ht.canon.laneShows_updLane (g := Lane.kept) fun x =>
        { x with kept := x.kept.filter fun k => !(frameOf k.frame e && gone k.frame) })
    case isFalse h =>
      refine ⟨ht.canon, (List.filter_eq_self.mpr fun k hk => ?_).symm⟩
      rw [Bool.not_eq_true, List.any_eq_false] at h
      rw [Bool.eq_false_iff.mpr (h k hk), Bool.not_false]
  · split
    · exact (wr_keeps ..).laneShows (ht.updLane_of_ne hk _)
    · exact ht

/-- An entry that is dropped leaves no member on lane `j`. -/
theorem dropEntry_members (hs : s.canonical) (e : Entry) (hj : j < 16) :
    (s.dropEntry e).laneShows (fun x => x.members.any (·.ofEntry e)) j false :=
  (dropKept_laneShows (takeMembers_members hs e hj) ..).put_col _

theorem freeBlocks_kept {v : List Kept} (h : s.laneShows Lane.kept j v) (l c k : Nat) :
    (s.freeBlocks l c k).laneShows Lane.kept j v := by
  unfold State.freeBlocks
  split
  · exact h.updLane l (y := fun x => { x with held := x.held.sub c k, freed := x.freed.add c k })
  · exact h

theorem holding_kept {v : List Kept} (h : s.laneShows Lane.kept j v) (l : Nat) (f : Sys2Proof.Frame) :
    (s.holding l f).laneShows Lane.kept j v :=
  (tally_keeps ..).laneShows (h.updLane l (y := fun x => { x with held := x.held.add f.cls (frameBlocks f) }))

end

/-! ### Registers and band paths that several writes name -/

section
variable {s t : State} {m n : Nat} {f : Field} {i v : Nat}

/-- A field that reads `v` still does when `v` is written to it again, or at another index. -/
theorem State.reads.rewrite (h : s.reads f i v) (j : Nat) (hl : f.locked = false := by decide +kernel)
    (hv : v < 2 ^ f.row.width := by decide +kernel) : (s.wr f j v).reads f i v := by
  refine ⟨(wr_keeps ..).canon h.canon, ?_⟩
  rw [State.rd_wr (goodRegs.wf h.canon.regs) hl]
  split
  · exact Nat.mod_eq_of_lt hv
  · exact h.eq

theorem State.keeps.running (k : State.keeps m s t) (n : Nat) (hm : partIn m .bps = false := by decide +kernel) :
    t.running n = s.running n := by
  rw [State.running, k.bp hm, State.running]

/-! ### A check that is rejected (R58, R273) -/

/-- The check of a band path, and whether its subscription waits. -/
def Bp.waits (x : Bp) : Option Check × Bool := (x.check, x.sub.waiting)

theorem bpReject_reads {code : Nat} (hs : s.canonical) (n : Nat) (hc : code < 16) :
    (s.bpReject n code).reads .BP_STATUS_REJECT n code := by
  unfold State.bpReject
  extract_lets s1
  have h1 : s1.reads .BP_STATUS_REJECT n code :=
    (updBp_keeps ..).reads <| (clr_keeps ..).reads (hs.reads_wr (hv := hc))
  split
  · exact (wr_keeps ..).reads h1
  · exact h1

/-- The rejection of another band path, or the same one again, leaves the code. -/
theorem State.reads.bpReject {code : Nat} (h : s.reads .BP_STATUS_REJECT n code) (hc : code < 16) (k : Nat) :
    (s.bpReject k code).reads .BP_STATUS_REJECT n code := by
  by_cases hk : k = n
  · exact hk ▸ bpReject_reads h.canon k hc
  · unfold State.bpReject
    extract_lets s1
    have h1 : s1.reads .BP_STATUS_REJECT n code :=
      (updBp_keeps ..).reads <| (clr_keeps ..).reads (h.rewrite k (hv := hc))
    split
    · exact (wr_keeps ..).reads h1
    · exact h1

theorem bpReject_bpShows {α : Type} {g : Bp → α} {w : α} (h : s.bpShows g n w)
    (hg : ∀ x, g x = w → g { x with check := none, sub := { x.sub with waiting := false } } = w) (k code : Nat) :
    (s.bpReject k code).bpShows g n w := by
  unfold State.bpReject
  extract_lets s1
  have h1 : s1.bpShows g n w := ((clr_keeps ..).bpShows <| (wr_keeps ..).bpShows h).updBp_of k hg
  split
  · exact (wr_keeps ..).bpShows h1
  · exact h1

theorem bpReject_waits (hs : s.canonical) (n code : Nat) : (s.bpReject n code).bpShows Bp.waits n (none, false) := by
  unfold State.bpReject
  extract_lets s1
  have h1 : s1.bpShows Bp.waits n (none, false) :=
    ((clr_keeps ..).canon <| (wr_keeps ..).canon hs).bpShows_updBp (g := Bp.waits) fun x =>
      { x with check := none, sub := { x.sub with waiting := false } }
  split
  · exact (wr_keeps ..).bpShows h1
  · exact h1

/-- Band path `n` is rejected with a code, which is also the last that its publisher sent. -/
structure State.rejected (s : State) (n code : Nat) : Prop where
  reject : s.reads .BP_STATUS_REJECT n code
  nak : s.reads .COL_BP_STATUS_LAST_NAK n code
  waits : s.bpShows Bp.waits n (none, false)

theorem bpReject_rejected {code : Nat} (hs : s.canonical) (n : Nat) (hc : code < 16) :
    ((s.bpReject n code).wr .COL_BP_STATUS_LAST_NAK n code).rejected n code where
  reject := (wr_keeps ..).reads (bpReject_reads hs n hc)
  nak := ((bpReject_keeps ..).canon hs).reads_wr (hv := hc)
  waits := (wr_keeps ..).bpShows (bpReject_waits hs n code)

theorem State.rejected.bpReject {code : Nat} (h : s.rejected n code) (hc : code < 16) (k : Nat) :
    ((s.bpReject k code).wr .COL_BP_STATUS_LAST_NAK k code).rejected n code where
  reject := (wr_keeps ..).reads (h.reject.bpReject hc k)
  nak := State.reads.rewrite ((bpReject_keeps ..).reads h.nak) k (hv := hc)
  waits := (wr_keeps ..).bpShows (bpReject_bpShows h.waits (fun _ _ => rfl) k code)

theorem State.keeps.rejected {code : Nat} (k : State.keeps m s t) (h : s.rejected n code)
    (hr : inSet m .BP_STATUS_REJECT = false := by decide +kernel)
    (hn : inSet m .COL_BP_STATUS_LAST_NAK = false := by decide +kernel)
    (hb : partIn m .bps = false := by decide +kernel) : t.rejected n code where
  reject := k.reads h.reject hr
  nak := k.reads h.nak hn
  waits := k.bpShows h.waits hb

/-- What an update of a band path's route in reservation leaves, so does the reservation. -/
def unreserving {α : Type} (g : Bp → α) : Prop := ∀ x r, g { x with pub := { x.pub with pend := r } } = g x

/-- A route is reserved by an entry, the route kept in reservation, its rate and a RESV to the first hop; where it is not,
nothing changes (Table 122, step 3). -/
theorem startRoute_cases (s : State) (n : Nat) : s.startRoute n = (s, false) ∨
    ∃ e r rate first ws, s.startRoute n = (((((s.installEntry e).updBp n fun x =>
      { x with pub := { x.pub with pend := some r } }).wr .COL_BP_RATE_RATE n rate).sendHop first ws), true) := by
  unfold State.startRoute
  extract_lets p k span rate
  split
  · exact .inl rfl
  · split
    · exact .inl rfl
    · extract_lets first
      split
      · exact .inl rfl
      · split
        · exact .inl rfl
        · exact .inr ⟨_, _, _, _, _, rfl⟩

end

/-! ### A route in reservation (R273, Table 122) -/

section
variable {s t : State} {m n : Nat}

theorem startRoute_pend (hs : s.canonical) (h : (s.startRoute n).2 = true) :
    (s.startRoute n).1.bpShows (fun x => x.pub.pend.isSome) n true := by
  obtain hno | ⟨e, r, rate, first, ws, hyes⟩ := startRoute_cases s n
  · rw [hno] at h
    exact absurd h Bool.false_ne_true
  · rw [hyes]
    refine (sendHop_keeps ..).bpShows <| (wr_keeps ..).bpShows ?_
    exact ((installEntry_keeps ..).canon hs).bpShows_updBp (g := fun x => x.pub.pend.isSome) _

theorem startRoute_bpShows {α : Type} {g : Bp → α} {v : α} (h : s.bpShows g n v)
    (hg : unreserving g := by exact fun _ _ => rfl) (k : Nat) : (s.startRoute k).1.bpShows g n v := by
  obtain hno | ⟨e, r, rate, first, ws, hyes⟩ := startRoute_cases s k
  · rw [hno]
    exact h
  · rw [hyes]
    refine (sendHop_keeps ..).bpShows <| (wr_keeps ..).bpShows ?_
    exact ((installEntry_keeps ..).bpShows h).updBp k fun x => hg x (some r)

/-! ### A request for a stream (R273) -/

variable {f : Sys2Proof.Frame}

/-- The publisher has taken the subscriber that a SUB_REQ names, and has no route for it yet. -/
def State.subscribed (s : State) (f : Sys2Proof.Frame) : State :=
  s.updBp (msgBp f) fun y => { y with pub := { y.pub with
    subscriber := some (bits 40 12 (msgW f 0), bits 52 7 (msgW f 0)), tries := 0, avoid := [], lost := false } }

theorem takeSubReq_of_free (hnode : msgNode f = s.nodeAddr) (hrun : s.running (msgBp f) = true)
    (hdst : (s.bp (msgBp f)).decl.dstKind = 2) (hfree : (s.bp (msgBp f)).pub.subscriber = none)
    (hroute : ((s.subscribed f).startRoute (msgBp f)).2 = true) : s.takeSubReq f =
      ((s.subscribed f).startRoute (msgBp f)).1.wr .COL_BP_STATUS_PEER (msgBp f) (bits 40 12 (msgW f 0)) := by
  have hmine : ¬(msgNode f ≠ s.nodeAddr ∨ s.running (msgBp f) = false ∨ (s.bp (msgBp f)).decl.dstKind ≠ 2) := by
    simp [hnode, hrun, hdst]
  have hopen : ¬(s.bp (msgBp f)).pub.subscriber.isSome = true := by simp [hfree]
  unfold State.takeSubReq
  exact (if_neg hmine).trans ((if_neg hopen).trans (if_pos hroute))

/-- The publisher `n` has a subscriber, a route in reservation to it, and shows it as the other end. -/
structure State.reserving (s : State) (n : Nat) (sub : Nat × Nat) : Prop where
  subscriber : s.bpShows (fun x => x.pub.subscriber) n (some sub)
  pend : s.bpShows (fun x => x.pub.pend.isSome) n true
  peer : s.reads .COL_BP_STATUS_PEER n sub.1

theorem takeSubReq_reserving (hs : s.canonical) (hnode : msgNode f = s.nodeAddr) (hrun : s.running (msgBp f) = true)
    (hdst : (s.bp (msgBp f)).decl.dstKind = 2) (hfree : (s.bp (msgBp f)).pub.subscriber = none)
    (hroute : ((s.subscribed f).startRoute (msgBp f)).2 = true) :
    (s.takeSubReq f).reserving (msgBp f) (bits 40 12 (msgW f 0), bits 52 7 (msgW f 0)) := by
  rw [takeSubReq_of_free hnode hrun hdst hfree hroute]
  have hsub : (s.subscribed f).bpShows (fun x => x.pub.subscriber) (msgBp f) _ :=
    hs.bpShows_updBp (g := fun x => x.pub.subscriber) fun y => { y with pub := { y.pub with
      subscriber := some (bits 40 12 (msgW f 0), bits 52 7 (msgW f 0)), tries := 0, avoid := [], lost := false } }
  have hstart := startRoute_bpShows hsub (fun _ _ => rfl) (msgBp f)
  exact ⟨(wr_keeps ..).bpShows hstart, (wr_keeps ..).bpShows (startRoute_pend hsub.canon hroute),
    hstart.canon.reads_wr (hv := bits_lt 40 12 _)⟩

theorem takeSubReq_of_taken (hnode : msgNode f = s.nodeAddr) (hrun : s.running (msgBp f) = true)
    (hdst : (s.bp (msgBp f)).decl.dstKind = 2) (htaken : (s.bp (msgBp f)).pub.subscriber.isSome = true) :
    s.takeSubReq f = s.sendRouted (bits 40 12 (msgW f 0)) [msgWord 4 s.nodeAddr (msgBp f) false 0 (place 0 4 8)] := by
  have hmine : ¬(msgNode f ≠ s.nodeAddr ∨ s.running (msgBp f) = false ∨ (s.bp (msgBp f)).decl.dstKind ≠ 2) := by
    simp [hnode, hrun, hdst]
  unfold State.takeSubReq
  exact (if_neg hmine).trans (if_pos htaken)

/-! ### A refusal (R273) -/

theorem State.keeps.waitingFor (k : State.keeps m s t) (node bp : Nat) (hm : partIn m .bps = false := by decide +kernel) :
    t.waitingFor node bp = s.waitingFor node bp := by
  unfold State.waitingFor
  simp only [k.bp hm]

/-- Every band path that is listed is rejected with the code. -/
theorem forEach_rejected {code : Nat} {xs : List Nat} (hs : s.canonical) (hn : n ∈ xs) (hc : code < 16) :
    (State.forEach (fun k u => (u.bpReject k code).wr .COL_BP_STATUS_LAST_NAK k code) xs s).rejected n code :=
  State.forEach_effect (P := State.canonical) (Q := (·.rejected n code)) hn hs
    (fun _ _ ht => (wr_keeps ..).canon ((bpReject_keeps ..).canon ht)) (fun _ ht => bpReject_rejected ht n hc)
    fun k _ ht => ht.bpReject hc k

/-! ### A reservation that reaches its subscriber (R273) -/

/-- What a band path shows of its subscription, once a reservation has connected it. -/
def Bp.connection (x : Bp) : Nat × Bool := (x.sub.freq, x.sub.rid)

/-- The reservation that a RESV brings to the subscriber's module on lane `l`. -/
def State.connected (s : State) (n l : Nat) (f : Sys2Proof.Frame) : State :=
  (s.setEntry { node := msgNode f, bp := msgBp f, rid := msgRid f, gen := msgGen f, rate := bits 0 24 (msgW f 1)
                k := bits 40 2 (msgW f 0) + 1, dest := s.nodeAddr, inLane := some l }).updBp n fun y =>
    { y with sub := { y.sub with waiting := false, on := true, freq := bits 0 32 (msgW f 2), rid := msgRid f } }

/-- A reservation for a running subscriber connects it: its entry is put in place, its status shown, and the publisher
told. -/
theorem takeRoute_of_running {l hops : Nat} (hwait : (s.bp n).sub.waiting = false) (hon : (s.bp n).sub.on = true)
    (hrun : s.running n = true) (hsrc : (s.bp n).decl.srcKind = 2) (hnode : (s.bp n).decl.srcNode = msgNode f)
    (hbp : (s.bp n).decl.srcBp = msgBp f) (hspan : bits 24 15 (msgW f 1) = (s.bp n).decl.span) :
    s.takeRoute n l hops f =
      (((((s.connected n l f).colStatus n 2 hops (bits 40 2 (msgW f 0) + 1) (msgNode f) true).clr .COL_BP_STATUS_UNRES n).wr
        .COL_BP_RATE_RATE n (bits 0 24 (msgW f 1))).measureAnew n).sendRouted (msgNode f)
        [msgWord 7 (msgNode f) (msgBp f) (msgRid f) (msgGen f) 0] := by
  unfold State.takeRoute
  simp only [hwait, hon, hrun, hsrc, hnode, hbp, hspan, Bool.false_eq_true, ↓reduceIte, BEq.rfl, Bool.and_self,
    Bool.or_true, Bool.not_true, ne_eq, not_true_eq_false]
  rfl

theorem colStatus_reads_role {role hops k peer : Nat} {routed : Bool} (hs : s.canonical) (hr : role < 4) :
    (s.colStatus n role hops k peer routed).reads .COL_BP_STATUS_ROLE n role :=
  (wrB_keeps ..).reads <| (wr_keeps ..).reads <| (wr_keeps ..).reads <| (wr_keeps ..).reads <| hs.reads_wr (hv := hr)

theorem colStatus_reads_routed {role hops k peer : Nat} {routed : Bool} (hs : s.canonical) :
    (s.colStatus n role hops k peer routed).reads .COL_BP_STATUS_ROUTED n (flag routed) :=
  ((wr_keeps ..).canon <| (wr_keeps ..).canon <| (wr_keeps ..).canon <| (wr_keeps ..).canon hs).reads_wrB

/-- A measurement that begins anew leaves what a band path shows beside its delay. -/
theorem measureAnew_bpShows {α : Type} {g : Bp → α} {v : α} (h : s.bpShows g n v) (k : Nat)
    (hg : ∀ x d, g { x with dly := d } = g x := by exact fun _ _ => rfl) : (s.measureAnew k).bpShows g n v := by
  unfold State.measureAnew
  split
  · exact h.updBp k fun x => hg x _
  · exact h

/-- Band path `n` shows itself connected over the stream that a RESV names: as a subscriber with a route, with the RESV's
frequency and RID, and the stream's entry arrives on lane `l`. -/
structure State.connects (s : State) (n l : Nat) (f : Sys2Proof.Frame) : Prop where
  role : s.reads .COL_BP_STATUS_ROLE n 2
  routed : s.reads .COL_BP_STATUS_ROUTED n 1
  connection : s.bpShows Bp.connection n (bits 0 32 (msgW f 2), msgRid f)
  entry : (s.entry (msgNode f) (msgBp f) (msgRid f)).map Entry.inLane = some (some l)

theorem takeRoute_connects {l hops : Nat} (hs : s.canonical) (hwait : (s.bp n).sub.waiting = false)
    (hon : (s.bp n).sub.on = true) (hrun : s.running n = true) (hsrc : (s.bp n).decl.srcKind = 2)
    (hnode : (s.bp n).decl.srcNode = msgNode f) (hbp : (s.bp n).decl.srcBp = msgBp f)
    (hspan : bits 24 15 (msgW f 1) = (s.bp n).decl.span) : (s.takeRoute n l hops f).connects n l f := by
  rw [takeRoute_of_running hwait hon hrun hsrc hnode hbp hspan]
  have hconn : (s.connected n l f).bpShows Bp.connection n (bits 0 32 (msgW f 2), msgRid f) :=
    ((setEntry_keeps ..).canon hs).bpShows_updBp (g := Bp.connection) fun y =>
      { y with sub := { y.sub with waiting := false, on := true, freq := bits 0 32 (msgW f 2), rid := msgRid f } }
  refine ⟨?_, ?_, ?_, ?_⟩
  · exact (sendRouted_keeps ..).reads <| (measureAnew_keeps ..).reads <| (wr_keeps ..).reads <| (clr_keeps ..).reads <|
      colStatus_reads_role hconn.canon (by decide)
  · exact (sendRouted_keeps ..).reads <| (measureAnew_keeps ..).reads <| (wr_keeps ..).reads <| (clr_keeps ..).reads <|
      colStatus_reads_routed hconn.canon
  · refine (sendRouted_keeps ..).bpShows <| measureAnew_bpShows ?_ n
    exact (wr_keeps ..).bpShows <| (clr_keeps ..).bpShows <| (colStatus_keeps ..).bpShows hconn
  · rw [(sendRouted_keeps ..).entry, (measureAnew_keeps ..).entry, (wr_keeps ..).entry, (clr_keeps ..).entry,
      (colStatus_keeps ..).entry, State.connected, (updBp_keeps ..).entry]
    exact congrArg (Option.map Entry.inLane) (setEntry_entry ..)

/-! ### A reservation refused, and the acknowledgement (R273, R277) -/

/-- A refused reservation frees the entry of a hop. -/
theorem takeResvNak_entry {e : Entry} (he : s.entry (msgNode f) (msgBp f) (msgRid f) = some e)
    (hnode : msgNode f ≠ s.nodeAddr) : (s.takeResvNak f).entry (msgNode f) (msgBp f) (msgRid f) = none := by
  obtain ⟨hn, hb, hr⟩ := entry_identity he
  have hgone : (s.dropEntry e).entry (msgNode f) (msgBp f) (msgRid f) = none := by
    rw [← hn, ← hb, ← hr]
    exact dropEntry_entry s e
  unfold State.takeResvNak
  extract_lets node k rid
  simp only [node, k, rid, he]
  rw [if_pos hnode]
  split
  · rw [(sendBack_keeps ..).entry, hgone]
  · exact hgone

/-- The publication as an acknowledgement leaves it: its route, the one in reservation, and whether it is lost. -/
def Bp.publication (x : Bp) : Option Route × Option Route × Bool := (x.pub.route, x.pub.pend, x.pub.lost)

/-- The stream of band path `n` goes over route `r`, and its status shows it as a publisher with a route. -/
structure State.carries (s : State) (n : Nat) (r : Route) : Prop where
  publication : s.bpShows Bp.publication n (some r, none, false)
  role : s.reads .COL_BP_STATUS_ROLE n 1
  routed : s.reads .COL_BP_STATUS_ROUTED n 1

theorem State.keeps.carries {r : Route} (k : State.keeps m s t) (h : s.carries n r)
    (hb : partIn m .bps = false := by decide +kernel) (h1 : inSet m .COL_BP_STATUS_ROLE = false := by decide +kernel)
    (h2 : inSet m .COL_BP_STATUS_ROUTED = false := by decide +kernel) : t.carries n r where
  publication := k.bpShows h.publication hb
  role := k.reads h.role h1
  routed := k.reads h.routed h2

/-- The acknowledgement puts the route in reservation to use. -/
theorem takeSubAck_carries {r : Route} (hs : s.canonical) (hnode : msgNode f = s.nodeAddr)
    (hpend : (s.bp (msgBp f)).pub.pend = some r) (hrid : r.rid = msgRid f) : (s.takeSubAck f).carries (msgBp f) r := by
  have hmine : ¬(r.rid ≠ msgRid f ∨ msgNode f ≠ s.nodeAddr) := by simp [hrid, hnode]
  unfold State.takeSubAck
  extract_lets -merge -underBinder +onlyGivenNames n
  split
  case h_1 hnone => exact absurd (hpend.symm.trans hnone) (Option.some_ne_none r)
  case h_2 r' hr =>
    obtain rfl : r = r' := Option.some.inj (hpend.symm.trans hr)
    rw [if_neg hmine]
    extract_lets old s1 s2 peer
    have h1 : s1.bpShows Bp.publication n (some r, none, false) :=
      hs.bpShows_updBp (g := Bp.publication) fun x => { x with
        gen := if old.lost then (x.gen + 1) % 256 else x.gen
        pub := { x.pub with
          route := some r, pend := none, nextRid := !r.rid, lost := false, tries := 0, avoid := [] } }
    have h2 : s2.bpShows Bp.publication n (some r, none, false) := by
      unfold s2
      split
      · split
        · exact h1
        · exact (releaseRoute_keeps ..).bpShows h1
      · exact h1
    refine (clr_keeps ..).carries ((clr_keeps ..).carries ⟨?_, ?_, ?_⟩)
    · exact (colStatus_keeps ..).bpShows h2
    · exact colStatus_reads_role h2.canon (by decide)
    · exact colStatus_reads_routed h2.canon

/-! ### The end of an exchange, and a new attempt (R273, R274) -/

/-- A check whose exchange times out is rejected with code 6. -/
theorem execSubTimeout_rejected {n : Sys2Proof.BpIx} {c : Check} (hs : s.canonical) (hc : (s.bp n).check = some c)
    (hwait : (s.bp n).sub.waiting = true) : ∃ t, execSubTimeout n s = .next t ∧ t.rejected n 6 := by
  refine ⟨((s.endSub n c.decl).bpReject n 6).wr .COL_BP_STATUS_LAST_NAK n 6, ?_,
    bpReject_rejected ((endSub_keeps ..).canon hs) n (by decide)⟩
  rw [execSubTimeout, hc]
  exact congrArg Host.Outcome.next (if_pos hwait)

/-- The publisher begins its attempts anew. -/
def State.retried (s : State) (n : Nat) : State :=
  s.updBp n fun x => { x with pub := { x.pub with tries := 0, avoid := [], tried := s.clk.tick } }

/-- A lost stream that finds a route reserves it, and keeps the tick of the attempt. -/
theorem execStreamReestablish_spec {n : Sys2Proof.BpIx} (hs : s.canonical) (hlost : (s.bp n).pub.lost = true)
    (hsub : (s.bp n).pub.subscriber.isSome = true) (hpend : (s.bp n).pub.pend = none)
    (hroute : ((s.retried n).startRoute n).2 = true) : ∃ t, execStreamReestablish n s = .next t ∧
      (t.bp n).pub.pend.isSome = true ∧ (t.bp n).pub.tried = s.clk.tick := by
  have htried : (s.retried n).bpShows (fun x => x.pub.tried) n s.clk.tick :=
    hs.bpShows_updBp (g := fun x => x.pub.tried) _
  have hgo : ¬(!(s.bp n).pub.lost || (s.bp n).pub.subscriber.isNone || (s.bp n).pub.pend.isSome) = true := by
    simp [hlost, hpend, Option.isSome_iff_ne_none.mp hsub]
  refine ⟨((s.retried n).startRoute n).1, ?_, (startRoute_pend htried.canon hroute).eq,
    (startRoute_bpShows htried (fun _ _ => rfl) n).eq⟩
  exact congrArg Host.Outcome.next ((if_neg hgo).trans (if_pos hroute))

end

/-! ### Messages heard (R278) -/

section
variable {s : State} {l : Nat} {f : Sys2Proof.Frame}

theorem holding_bp (s : State) (l n : Nat) (f : Sys2Proof.Frame) : (s.holding l f).bp n = s.bp n :=
  (holding_keeps ..).bp (by decide +kernel) n

theorem holding_running (s : State) (l n : Nat) (f : Sys2Proof.Frame) : (s.holding l f).running n = s.running n :=
  (holding_keeps ..).running n

theorem holding_entry (s : State) (l : Nat) (f : Sys2Proof.Frame) (node bp : Nat) (rid : Bool) :
    (s.holding l f).entry node bp rid = s.entry node bp rid :=
  (holding_keeps ..).entry node bp rid

theorem holding_nodeAddr (hs : s.canonical) (l : Nat) (f : Sys2Proof.Frame) : (s.holding l f).nodeAddr = s.nodeAddr :=
  (holding_keeps ..).nodeAddr hs

/-- What a heard message brings about in the state that holds its frame, and what no freeing of blocks undoes, is so of the
next state. -/
theorem onMsg_effect {m : Nat} {P : State → Prop} (act : State → State) (hear : s.hears l f m = true)
    (h : P (act (s.holding l f))) (hfree : ∀ u, P u → P (u.freeBlocks l f.cls (frameBlocks f)))
    (hlo : m ≠ 0 := by decide) (hhi : m ≤ 13 := by decide) :
    ∃ t, Host.Outcome.next (s.onMsg l f m act) = (.next t : Host.Outcome State Fault Refusal) ∧ P t :=
  ⟨_, congrArg Host.Outcome.next (onMsg_of_hears hear hlo hhi act), hfree _ h⟩

theorem execSubReq_reserving {l : Sys2Proof.LaneIx} (hs : s.canonical) (hear : s.hears l f 3 = true)
    (hnode : msgNode f = s.nodeAddr) (hrun : s.running (msgBp f) = true) (hdst : (s.bp (msgBp f)).decl.dstKind = 2)
    (hfree : (s.bp (msgBp f)).pub.subscriber = none)
    (hroute : (((s.holding l f).subscribed f).startRoute (msgBp f)).2 = true) :
    ∃ t, execSubReq l f s = .next t ∧ t.reserving (msgBp f) (bits 40 12 (msgW f 0), bits 52 7 (msgW f 0)) := by
  refine onMsg_effect (fun t => t.takeSubReq f) hear (takeSubReq_reserving ((holding_keeps ..).canon hs) ?_ ?_ ?_ ?_ hroute)
    fun u hu => ⟨(freeBlocks_keeps ..).bpShows hu.subscriber, (freeBlocks_keeps ..).bpShows hu.pend,
      (freeBlocks_keeps ..).reads hu.peer⟩
  · rwa [holding_nodeAddr hs]
  · rwa [holding_running]
  · rwa [holding_bp]
  · rwa [holding_bp]

/-- A publisher that has a subscriber answers a further request by a message, and changes no band path and no entry. -/
theorem execSubReq_of_taken {l : Sys2Proof.LaneIx} (hs : s.canonical) (hear : s.hears l f 3 = true)
    (hnode : msgNode f = s.nodeAddr) (hrun : s.running (msgBp f) = true) (hdst : (s.bp (msgBp f)).decl.dstKind = 2)
    (htaken : (s.bp (msgBp f)).pub.subscriber.isSome = true) :
    ∃ t, execSubReq l f s = .next t ∧ t.bps = s.bps ∧ t.col.entries = s.col.entries := by
  refine onMsg_effect (P := fun t => t.bps = s.bps ∧ t.col.entries = s.col.entries) (fun t => t.takeSubReq f) hear ?_
    fun u hu => ?_
  · have hsend : (s.holding l f).takeSubReq f = (s.holding l f).sendRouted (bits 40 12 (msgW f 0)) _ :=
      takeSubReq_of_taken (by rwa [holding_nodeAddr hs]) (by rwa [holding_running]) (by rwa [holding_bp])
        (by rwa [holding_bp])
    rw [hsend]
    obtain ⟨hbps, hcol⟩ := (holding_keeps s l f).streams
    exact (sendRouted_keeps ..).streams.imp (·.trans hbps) (·.trans hcol)
  · exact (freeBlocks_keeps ..).streams.imp (·.trans hu.1) (·.trans hu.2)

theorem execSubNak_rejected {l : Sys2Proof.LaneIx} {n : Nat} (hs : s.canonical) (hear : s.hears l f 4 = true)
    (hn : n ∈ s.waitingFor (msgNode f) (msgBp f)) :
    ∃ t, execSubNak l f s = .next t ∧ t.rejected n (bits 40 4 (msgW f 0)) := by
  refine onMsg_effect _ hear (forEach_rejected ((holding_keeps ..).canon hs) ?_ (bits_lt 40 4 _))
    fun u hu => (freeBlocks_keeps ..).rejected hu
  rwa [(holding_keeps ..).waitingFor]

theorem execResv_connects {l : Sys2Proof.LaneIx} {n : Nat} (hs : s.canonical) (hear : s.hears l f 5 = true)
    (hhops : bits 42 5 (msgW f 0) ≤ bits 47 5 (msgW f 0) + 1) (hdst : bits 44 7 (msgW f 2) = n)
    (hwait : (s.bp n).sub.waiting = false) (hon : (s.bp n).sub.on = true) (hrun : s.running n = true)
    (hsrc : (s.bp n).decl.srcKind = 2) (hnode : (s.bp n).decl.srcNode = msgNode f)
    (hbp : (s.bp n).decl.srcBp = msgBp f) (hspan : bits 24 15 (msgW f 1) = (s.bp n).decl.span) :
    ∃ t, execResv l f s = .next t ∧ t.connects n l f := by
  refine onMsg_effect (fun t => t.takeResv l f) hear ?_ fun u hu => ⟨(freeBlocks_keeps ..).reads hu.role,
    (freeBlocks_keeps ..).reads hu.routed, (freeBlocks_keeps ..).bpShows hu.connection,
    by rw [(freeBlocks_keeps ..).entry, hu.entry]⟩
  have hroute : (s.holding l f).takeResv l f = (s.holding l f).takeRoute n l (bits 42 5 (msgW f 0)) f := by
    rw [← hdst]
    exact if_pos hhops
  rw [hroute]
  refine takeRoute_connects ((holding_keeps ..).canon hs) ?_ ?_ (by rwa [holding_running]) ?_ ?_ ?_ ?_ <;>
    rwa [holding_bp]

theorem execResvNak_entry {l : Sys2Proof.LaneIx} {e : Entry} (hs : s.canonical) (hear : s.hears l f 6 = true)
    (he : s.entry (msgNode f) (msgBp f) (msgRid f) = some e) (hnode : msgNode f ≠ s.nodeAddr) :
    ∃ t, execResvNak l f s = .next t ∧ t.entry (msgNode f) (msgBp f) (msgRid f) = none := by
  refine onMsg_effect (P := fun t => t.entry (msgNode f) (msgBp f) (msgRid f) = none) (fun t => t.takeResvNak f) hear
    (takeResvNak_entry (e := e) ?_ ?_) fun u hu => ((freeBlocks_keeps ..).entry ..).trans hu
  · rwa [holding_entry]
  · rwa [holding_nodeAddr hs]

theorem execSubAck_carries {l : Sys2Proof.LaneIx} {r : Route} (hs : s.canonical) (hear : s.hears l f 7 = true)
    (hnode : msgNode f = s.nodeAddr) (hpend : (s.bp (msgBp f)).pub.pend = some r) (hrid : r.rid = msgRid f) :
    ∃ t, execSubAck l f s = .next t ∧ t.carries (msgBp f) r := by
  refine onMsg_effect (fun t => t.takeSubAck f) hear (takeSubAck_carries ((holding_keeps ..).canon hs) ?_ ?_ hrid)
    fun u hu => (freeBlocks_keeps ..).carries hu
  · rwa [holding_nodeAddr hs]
  · rwa [holding_bp]

end

/-- Settles O43: each message by what its step of Table 122 leaves, between the frame's arrival and the freeing of its
blocks. -/
theorem subscriptions : Obligations.Subscriptions := by
  unfold Obligations.Subscriptions
  refine ⟨fun s l f n hs hear hnode hbp hrun hdst hfree hroute => ?_,
    fun s l f n hs hear hnode hbp hrun hdst htaken => ?_, fun s l f n hs hear hn => ?_,
    fun s l f n hs hear hhops hbp hwait hon hrun hsrc hnode hsbp hspan => ?_,
    fun s l f e hs hear he hnode => execResvNak_entry hs hear he hnode,
    fun s l f n r hs hear hnode hbp hpend hrid => ?_, fun s n c hs hc hwait => ?_,
    fun s n hs hlost hsub hpend hroute => execStreamReestablish_spec hs hlost hsub hpend hroute⟩
  · rw [← hbp] at hrun hdst hfree hroute ⊢
    obtain ⟨t, ht, h⟩ := execSubReq_reserving hs hear hnode hrun hdst hfree hroute
    exact ⟨t, ht, h.subscriber.eq, h.pend.eq, h.peer.eq⟩
  · rw [← hbp] at hrun hdst htaken
    exact execSubReq_of_taken hs hear hnode hrun hdst htaken
  · obtain ⟨t, ht, h⟩ := execSubNak_rejected hs hear hn
    exact ⟨t, ht, h.nak.eq, h.reject.eq, congrArg Prod.fst h.waits.eq, congrArg Prod.snd h.waits.eq⟩
  · obtain ⟨t, ht, h⟩ := execResv_connects hs hear hhops hbp hwait hon hrun hsrc hnode hsbp hspan
    exact ⟨t, ht, h.role.eq, h.routed.eq, congrArg Prod.fst h.connection.eq, congrArg Prod.snd h.connection.eq, h.entry⟩
  · rw [← hbp] at hpend ⊢
    obtain ⟨t, ht, h⟩ := execSubAck_carries hs hear hnode hpend hrid
    exact ⟨t, ht, congrArg Prod.fst h.publication.eq, congrArg (·.2.1) h.publication.eq,
      congrArg (·.2.2) h.publication.eq, h.role.eq, h.routed.eq⟩
  · obtain ⟨t, ht, h⟩ := execSubTimeout_rejected hs hc hwait
    exact ⟨t, ht, congrArg Prod.fst h.waits.eq, congrArg Prod.snd h.waits.eq, h.reject.eq, h.nak.eq⟩

/-! ### Acknowledgements (R275) -/

section
variable {s : State} {n : Nat}

/-- An update of another band path leaves the record. -/
theorem State.bpShows.updBp_of_ne {α : Type} {g : Bp → α} {v : α} (h : s.bpShows g n v) {k : Nat} (hk : k ≠ n)
    (y : Bp → Bp) : (s.updBp k y).bpShows g n v where
  canon := (updBp_keeps ..).canon h.canon
  eq := by rw [h.canon.bp_updBp, if_neg hk.symm, h.eq]

/-- The acknowledgement that a subscriber sends where one is due, over the lane its stream arrives on. -/
def State.sendAck (s : State) (n : Nat) : State :=
  let x := s.bp n
  let d := x.decl
  if !s.running n || d.srcKind != 2 || x.sub.ack == x.sub.acked then s
  else match x.sub.ack, (match s.entry d.srcNode d.srcBp x.sub.rid with | some e => e.inLane | none => none) with
    | some a, some l =>
      (s.updBp n fun y => { y with sub := { y.sub with acked := some a } }).sendBack l
        [msgWord 8 d.srcNode d.srcBp x.sub.rid x.dly.gen 0, word64 a]
    | _, _ => s

theorem execGrainAckSend_eq (s : State) : execGrainAckSend s = .next (State.forEach (fun n t => t.sendAck n) allBps s) :=
  rfl

/-- Either nothing is due, or the acknowledgement goes out and is noted. -/
theorem sendAck_cases (s : State) (n : Nat) : s.sendAck n = s ∨ ∃ a l ws, s.sendAck n =
    (s.updBp n fun y => { y with sub := { y.sub with acked := some a } }).sendBack l ws := by
  unfold State.sendAck
  extract_lets x d
  split
  · exact .inl rfl
  · split
    · exact .inr ⟨_, _, _, rfl⟩
    · exact .inl rfl

theorem sendAck_entry (s : State) (n node bp : Nat) (rid : Bool) :
    (s.sendAck n).entry node bp rid = s.entry node bp rid := by
  obtain h | ⟨a, l, ws, h⟩ := sendAck_cases s n
  · rw [h]
  · rw [h, (sendBack_keeps ..).entry, (updBp_keeps ..).entry]

theorem sendAck_bpShows_of_ne {α : Type} {g : Bp → α} {v : α} (h : s.bpShows g n v) {k : Nat} (hk : k ≠ n) :
    (s.sendAck k).bpShows g n v := by
  obtain h' | ⟨a, l, ws, h'⟩ := sendAck_cases s k
  · rwa [h']
  · rw [h']
    exact (sendBack_keeps ..).bpShows (h.updBp_of_ne hk _)

/-- What makes an acknowledgement of band path `n` due: a running subscriber of a stream from another module holds a
sequence number that it has not acknowledged, and knows the lane that the stream arrives on. -/
structure State.ackDue (s : State) (n a l : Nat) (e : Entry) : Prop where
  canon : s.canonical
  running : s.running n = true
  source : (s.bp n).decl.srcKind = 2
  ack : (s.bp n).sub.ack = some a
  fresh : (s.bp n).sub.acked ≠ some a
  entry : s.entry (s.bp n).decl.srcNode (s.bp n).decl.srcBp (s.bp n).sub.rid = some e
  lane : e.inLane = some l

theorem State.ackDue.sendAck {a l : Nat} {e : Entry} (h : s.ackDue n a l e) :
    (s.sendAck n).bpShows (fun x => x.sub.acked) n (some a) := by
  have hdue : ¬(!s.running n || (s.bp n).decl.srcKind != 2 || (s.bp n).sub.ack == (s.bp n).sub.acked) = true := by
    simpa [h.running, h.source, h.ack] using h.fresh.symm
  unfold State.sendAck
  extract_lets x d
  rw [if_neg hdue]
  simp only [x, d, h.ack, h.entry, h.lane]
  exact (sendBack_keeps ..).bpShows (h.canon.bpShows_updBp (g := fun x => x.sub.acked) _)

/-- The acknowledgement of another band path leaves one due. -/
theorem State.ackDue.sendAck_of_ne {a l k : Nat} {e : Entry} (h : s.ackDue n a l e) (hk : k ≠ n) :
    (s.sendAck k).ackDue n a l e := by
  have hid := sendAck_bpShows_of_ne (h.canon.bpShows id n) hk
  have hbp : (s.sendAck k).bp n = s.bp n := hid.eq
  refine ⟨hid.canon, ?_, ?_, ?_, ?_, ?_, h.lane⟩
  · rw [State.running, hbp]
    exact h.running
  · rw [hbp, h.source]
  · rw [hbp, h.ack]
  · rw [hbp]
    exact h.fresh
  · rw [hbp, sendAck_entry, h.entry]

theorem State.ackDue.execGrainAckSend {a l : Nat} {e : Entry} (h : s.ackDue n a l e) (hn : n < 128) :
    ∃ t, Machine.execGrainAckSend s = .next t ∧ (t.bp n).sub.acked = some a := by
  refine ⟨_, execGrainAckSend_eq s, State.bpShows.eq (g := fun x => x.sub.acked) ?_⟩
  exact State.forEach_nodup_effect (P := (·.ackDue n a l e)) (Q := (·.bpShows (fun x => x.sub.acked) n (some a)))
    List.nodup_range (List.mem_range.mpr hn) h (fun k t hk ht => ht.sendAck_of_ne hk) (fun t ht => ht.sendAck)
    fun k t hk ht => sendAck_bpShows_of_ne ht hk

variable {f : Sys2Proof.Frame} {e : Entry}

/-- An acknowledgement covers the grains of its GEN up to the sequence number that it names. -/
def ackCovers (f k : Sys2Proof.Frame) : Bool :=
  gGen (wordsGrain k.words) == msgGen f && decide (0 ≤ seqDist (wordsGrain k.words).seq (bits 0 28 (msgW f 1)))

/-- Where a stream begins, an acknowledgement drops the copies that it covers and goes no further. -/
theorem takeAck_of_origin (he : s.entry (msgNode f) (msgBp f) (msgRid f) = some e) (hin : e.inLane = none) :
    s.takeAck f = s.dropKept e (ackCovers f) := by
  unfold State.takeAck
  simp only [he, hin]
  rfl

theorem execGrainAck_kept {l : Sys2Proof.LaneIx} (hs : s.canonical) (hear : s.hears l f 8 = true)
    (he : s.entry (msgNode f) (msgBp f) (msgRid f) = some e) (hin : e.inLane = none) :
    ∃ t, execGrainAck l f s = .next t ∧ ∀ j : Fin 16, t.laneShows Lane.kept j
      ((s.lane j).kept.filter fun k => !(frameOf k.frame e && ackCovers f k.frame)) := by
  refine onMsg_effect (P := fun t => ∀ j : Fin 16, t.laneShows Lane.kept j
    ((s.lane j).kept.filter fun k => !(frameOf k.frame e && ackCovers f k.frame))) (fun t => t.takeAck f) hear
    (fun j => ?_) fun u hu j => freeBlocks_kept (hu j) ..
  have hheld := holding_kept (hs.laneShows Lane.kept j) l f
  rw [takeAck_of_origin (by rwa [holding_entry]) hin, ← hheld.eq]
  exact dropKept_kept hheld.canon e _ j.isLt

end

/-! ### The end of a stream (R274) -/

section
variable {s : State} {n : Nat} {f : Sys2Proof.Frame} {e : Entry}

/-- The entry that a message names is gone, and lane `j` has no member of the stream `e`. -/
structure State.released (s : State) (f : Sys2Proof.Frame) (e : Entry) (j : Nat) : Prop where
  entry : s.entry (msgNode f) (msgBp f) (msgRid f) = none
  members : s.laneShows (fun x => x.members.any (·.ofEntry e)) j false

theorem State.keeps.released {t : State} {m j : Nat} (k : State.keeps m s t) (h : s.released f e j)
    (hc : partIn m .col = false := by decide +kernel) (hl : partIn m .lanes = false := by decide +kernel) :
    t.released f e j where
  entry := (k.entry _ _ _ hc).trans h.entry
  members := k.laneShows h.members hl

theorem dropEntry_released {j : Nat} (hs : s.canonical) (he : s.entry (msgNode f) (msgBp f) (msgRid f) = some e)
    (hj : j < 16) : (s.dropEntry e).released f e j := by
  obtain ⟨hn, hb, hr⟩ := entry_identity he
  refine ⟨?_, dropEntry_members hs e hj⟩
  rw [← hn, ← hb, ← hr]
  exact dropEntry_entry s e

theorem takeRelease_released {j : Nat} (hs : s.canonical) (he : s.entry (msgNode f) (msgBp f) (msgRid f) = some e)
    (hj : j < 16) : (s.takeRelease f).released f e j := by
  unfold State.takeRelease
  split
  case h_1 hnone => exact absurd (he.symm.trans hnone) (Option.some_ne_none e)
  case h_2 e' he' =>
    obtain rfl : e = e' := Option.some.inj (he.symm.trans he')
    extract_lets reason s1
    have h1 : (s1.dropEntry e).released f e j := by
      unfold s1
      split
      · exact dropEntry_released ((sendBack_keeps ..).canon hs) (by rw [(sendBack_keeps ..).entry, he]) hj
      · exact dropEntry_released hs he hj
    refine State.forEach_invariant (P := (·.released f e j)) h1 fun k t ht => ?_
    split
    · extract_lets t1
      have ht1 : t1.released f e j := (clr_keeps ..).released ht
      split
      · exact ht1
      · exact (clr_keeps ..).released ((updBp_keeps ..).released ht1)
    · exact ht

theorem execRelease_released {l : Sys2Proof.LaneIx} (hs : s.canonical) (hear : s.hears l f 9 = true)
    (he : s.entry (msgNode f) (msgBp f) (msgRid f) = some e) :
    ∃ t, execRelease l f s = .next t ∧ ∀ j : Fin 16, t.released f e j := by
  refine onMsg_effect (P := fun t => ∀ j : Fin 16, t.released f e j) (fun t => t.takeRelease f) hear (fun j =>
    takeRelease_released ((holding_keeps ..).canon hs) (by rwa [holding_entry]) j.isLt) fun u hu j => ⟨?_, ?_⟩
  · rw [(freeBlocks_keeps ..).entry, (hu j).entry]
  · exact freeBlocks_laneShows (hu j).members ..

/-- The publication of band path `n` has neither a subscriber nor a route, and its status shows none. -/
structure State.unsubscribed (s : State) (n : Nat) : Prop where
  publication : s.bpShows (fun x => (x.pub.subscriber, x.pub.route)) n (none, none)
  routed : s.reads .COL_BP_STATUS_ROUTED n 0
  peer : s.reads .COL_BP_STATUS_PEER n 0

theorem State.keeps.unsubscribed {t : State} {m : Nat} (k : State.keeps m s t) (h : s.unsubscribed n)
    (hb : partIn m .bps = false := by decide +kernel) (h1 : inSet m .COL_BP_STATUS_ROUTED = false := by decide +kernel)
    (h2 : inSet m .COL_BP_STATUS_PEER = false := by decide +kernel) : t.unsubscribed n where
  publication := k.bpShows h.publication hb
  routed := k.reads h.routed h1
  peer := k.reads h.peer h2

theorem releaseAll_route (hs : s.canonical) (n reason : Nat) :
    (s.releaseAll n reason).bpShows (fun x => x.pub.route) n none := by
  refine (clr_keeps ..).bpShows <| (clr_keeps ..).bpShows ?_
  exact ((releaseRoute_keeps ..).canon <| (releaseRoute_keeps ..).canon hs).bpShows_updBp (g := fun x => x.pub.route) _

theorem takeUnsub_unsubscribed {b : Nat} (hs : s.canonical) (hnode : msgNode f = s.nodeAddr)
    (hsub : (s.bp (msgBp f)).pub.subscriber = some (f.src, b)) : (s.takeUnsub f).unsubscribed (msgBp f) := by
  have hmine : ¬(f.src ≠ f.src ∨ msgNode f ≠ s.nodeAddr) := by simp [hnode]
  unfold State.takeUnsub
  extract_lets -merge -underBinder +onlyGivenNames n
  have hall := releaseAll_route hs n 1
  split
  case h_1 hnone => exact absurd (hsub.symm.trans hnone) (Option.some_ne_none _)
  case h_2 node b' hsome =>
    obtain ⟨rfl, -⟩ : f.src = node ∧ b = b' := Prod.mk.inj (Option.some.inj (hsub.symm.trans hsome))
    rw [if_neg hmine]
    have hnone : ((s.releaseAll n 1).updBp n fun x => { x with pub := { x.pub with
        subscriber := none, lost := false, report := false, tries := 0, avoid := [] } }).bpShows
        (fun x => (x.pub.subscriber, x.pub.route)) n (none, none) := by
      rw [← hall.eq]
      exact hall.canon.bpShows_updBp (g := fun x => (x.pub.subscriber, x.pub.route)) _
    refine (clr_keeps ..).unsubscribed ⟨?_, ?_, ?_⟩
    · exact (clr_keeps ..).bpShows <| (clr_keeps ..).bpShows hnone
    · exact (clr_keeps ..).reads hnone.canon.reads_wr
    · exact ((clr_keeps ..).canon hnone.canon).reads_wr

theorem execUnsub_unsubscribed {l : Sys2Proof.LaneIx} {b : Nat} (hs : s.canonical) (hear : s.hears l f 13 = true)
    (hnode : msgNode f = s.nodeAddr) (hsub : (s.bp (msgBp f)).pub.subscriber = some (f.src, b)) :
    ∃ t, execUnsub l f s = .next t ∧ t.unsubscribed (msgBp f) := by
  refine onMsg_effect (fun t => t.takeUnsub f) hear (takeUnsub_unsubscribed (b := b) ((holding_keeps ..).canon hs) ?_ ?_)
    fun u hu => (freeBlocks_keeps ..).unsubscribed hu
  · rwa [holding_nodeAddr hs]
  · rwa [holding_bp]

end

/-! ### Repair (R276, R277) -/

section
variable {s : State} {n : Nat} {f : Sys2Proof.Frame} {e : Entry}

/-- The lane that an entry's stream arrives on, and its rate. -/
def Entry.arrival (e : Entry) : Option Nat × Nat := (e.inLane, e.rate)

/-- A REPAIR that reaches the subscriber's module moves the entry to the lane it came on. -/
theorem takeRepair_arrival (he : s.entry (msgNode f) (msgBp f) (msgRid f) = some e) (hdest : e.dest = s.nodeAddr)
    (l : Nat) : ((s.takeRepair l f).entry (msgNode f) (msgBp f) (msgRid f)).map Entry.arrival =
      some (some l, bits 0 24 (msgW f 1)) := by
  obtain ⟨hn, hb, hr⟩ := entry_identity he
  unfold State.takeRepair
  split
  case h_1 hnone => exact absurd (he.symm.trans hnone) (Option.some_ne_none e)
  case h_2 e' he' =>
    obtain rfl : e = e' := Option.some.inj (he.symm.trans he')
    extract_lets short hops e1
    have hset : (s.setEntry e1).entry (msgNode f) (msgBp f) (msgRid f) = some e1 := by
      rw [← hn, ← hb, ← hr]
      exact setEntry_entry s e1
    rw [if_pos hdest, (sendRouted_keeps ..).entry]
    refine congrArg (Option.map Entry.arrival) (State.forEach_invariant
      (P := fun t => t.entry (msgNode f) (msgBp f) (msgRid f) = some e1) hset fun k t ht => ?_)
    rw [(measureAnew_keeps ..).entry, (wrB_keeps ..).entry, ht]

theorem execRepair_arrival {l : Sys2Proof.LaneIx} (hs : s.canonical) (hear : s.hears l f 10 = true)
    (he : s.entry (msgNode f) (msgBp f) (msgRid f) = some e) (hdest : e.dest = s.nodeAddr) :
    ∃ t, execRepair l f s = .next t ∧
      (t.entry (msgNode f) (msgBp f) (msgRid f)).map Entry.arrival = some (some l.val, bits 0 24 (msgW f 1)) := by
  refine onMsg_effect (P := fun t => (t.entry (msgNode f) (msgBp f) (msgRid f)).map Entry.arrival =
    some (some l.val, bits 0 24 (msgW f 1))) (fun t => t.takeRepair l f) hear
    (takeRepair_arrival (e := e) (by rwa [holding_entry]) (by rwa [holding_nodeAddr hs]) l) fun u hu => ?_
  rwa [(freeBlocks_keeps ..).entry]

/-- A report of a shortage waits at a publisher with a route, which shows it. -/
theorem pubReport_of_short (hs : s.canonical) {noalt : Bool} (hroute : (s.bp n).pub.route.isSome = true) :
    (s.pubReport n true noalt).bpShows (fun x => x.pub.report) n true ∧
    (s.pubReport n true noalt).reads .COL_BP_STATUS_UNRES n 1 := by
  have hrep := hs.bpShows_updBp (n := n) (g := fun x => x.pub.report) fun x =>
    { x with pub := { x.pub with report := true } }
  have hyes : s.pubReport n true noalt =
      (s.updBp n fun x => { x with pub := { x.pub with report := true } }).wrB .COL_BP_STATUS_UNRES n true :=
    if_pos (by simp [hroute])
  rw [hyes]
  exact ⟨(wrB_keeps ..).bpShows hrep, hrep.canon.reads_wrB⟩

theorem execRepairReport_of_short {l : Sys2Proof.LaneIx} (hs : s.canonical) (hear : s.hears l f 11 = true)
    (hnode : msgNode f = s.nodeAddr) (hshort : bit 40 (msgW f 0) = true)
    (hroute : (s.bp (msgBp f)).pub.route.isSome = true) : ∃ t, execRepairReport l f s = .next t ∧
      t.bpShows (fun x => x.pub.report) (msgBp f) true ∧ t.reads .COL_BP_STATUS_UNRES (msgBp f) 1 := by
  refine onMsg_effect (P := fun t => t.bpShows (fun x => x.pub.report) (msgBp f) true ∧
    t.reads .COL_BP_STATUS_UNRES (msgBp f) 1) _ hear ?_
    fun u hu => ⟨(freeBlocks_keeps ..).bpShows hu.1, (freeBlocks_keeps ..).reads hu.2⟩
  rw [if_pos (by rwa [holding_nodeAddr hs]), hshort]
  exact pubReport_of_short ((holding_keeps ..).canon hs) (by rwa [holding_bp])

end

/-- Settles O44: the acknowledgements first, then the end of a stream, then its repair. -/
theorem streamUpkeep : Obligations.StreamUpkeep := by
  unfold Obligations.StreamUpkeep
  refine ⟨fun s n a e k hs hrun hsrc hack hfresh he hin =>
      State.ackDue.execGrainAckSend ⟨hs, hrun, hsrc, hack, hfresh, he, hin⟩ n.isLt,
    fun s l f e hs hear he hin => ?_, fun s l f e hs hear he => ?_,
    fun s l f n b hs hear hnode hbp hsub => ?_, fun s l f e hs hear he hdest => execRepair_arrival hs hear he hdest,
    fun s l f n hs hear hnode hbp hshort hroute => ?_⟩
  · obtain ⟨t, ht, h⟩ := execGrainAck_kept hs hear he hin
    exact ⟨t, ht, fun j => (h j).eq⟩
  · obtain ⟨t, ht, h⟩ := execRelease_released hs hear he
    exact ⟨t, ht, (h 0).entry, fun j => (h j).members.eq⟩
  · rw [← hbp] at hsub ⊢
    obtain ⟨t, ht, h⟩ := execUnsub_unsubscribed hs hear hnode hsub
    exact ⟨t, ht, congrArg Prod.fst h.publication.eq, congrArg Prod.snd h.publication.eq, h.routed.eq, h.peer.eq⟩
  · rw [← hbp] at hroute ⊢
    obtain ⟨t, ht, hreport, hunres⟩ := execRepairReport_of_short hs hear hnode hshort hroute
    exact ⟨t, ht, hreport.eq, hunres.eq⟩

end Sys2Proof.Machine
end

section
/-!
SUPPORT. A run of the block never stops, no command touches the queue of those that wait, and only a reset of the field side
touches the KL fields; a write of field firmware counts in KL_WRITES when it supplies other bits for one of them (R433).
-/

namespace Sys2Proof.Machine

-- One proof after another, as in the files under Laws: each waits for the kernel's evaluations.
set_option Elab.async false

variable {s t : State}

/-! ### Runs and the queue -/

/-- No command may write the queue. -/
theorem partIn_writesOf_pending (c : Sys2Proof.Instr) : partIn (writesOf c) .pending = false := by
  cases c <;> (dsimp only [writesOf]; decide +kernel)

/-- A command answers a next state with the same queue. -/
theorem exec_pending (c : Sys2Proof.Instr) (s : State) : ∃ t, exec c s = .next t ∧ t.pending = s.pending := by
  obtain ⟨t, ht, hk⟩ := exec_answers c s
  exact ⟨t, ht, hk.parts .pending (partIn_writesOf_pending c)⟩

/-- With a command in front of the queue a step is that command. -/
theorem step_of_cons {c : Sys2Proof.Instr} {rest : List Sys2Proof.Instr} (h : s.pending = c :: rest) :
    step s = exec c { s with pending := rest } := by
  unfold step
  rw [h]

/-- A step answers a next state: an idle cycle, or that of the command in front. -/
theorem step_next (s : State) : ∃ t, step s = .next t := by
  cases h : s.pending with
  | nil => exact ⟨_, step_of_empty h⟩
  | cons c rest =>
    obtain ⟨t, ht, _⟩ := exec_pending c { s with pending := rest }
    exact ⟨t, (step_of_cons h).trans ht⟩

/-- After a step that answers, a run of a machine is the run of what is left. -/
theorem run_succ_of_step (M : Host.Core) {s t : M.State} (h : M.step s = .next t) (k : Nat) : M.run (k + 1) s = M.run k t := by
  rw [Host.Core.run, h]

/-- A run of any length answers a next state. -/
theorem core_run_next (s : State) : neverStops s := by
  intro k
  induction k generalizing s with
  | zero => exact ⟨s, rfl⟩
  | succ k ih =>
    obtain ⟨t, ht⟩ := step_next s
    obtain ⟨u, hu⟩ := ih t
    exact ⟨u, (run_succ_of_step Sys2Proof.core ht k).trans hu⟩

/-- Settles O6: every step answers a next state, and no command may write the queue. -/
theorem core_neverStops : Obligations.NeverStops := by
  unfold Obligations.NeverStops
  exact ⟨core_run_next, exec_pending⟩

/-! ### The KL fields (R420, R433) -/

/-- Only a command that resets the field side may write the KL fields. -/
theorem partIn_writesOf_hard {c : Sys2Proof.Instr} (h : resetsField c = false) : partIn (writesOf c) .hard = false := by
  cases c with
  | powerGood | powerFail | kctRestart | thermalHold | thermalRestart => cases h
  | _ => dsimp only [writesOf]; decide +kernel

/-- A KL field reads from the store that the loader alone writes. -/
theorem State.rd_of_hard {f : Field} (hf : f.locked = true) (h : t.hard = s.hard) (i : Nat) : t.rd f i = s.rd f i := by
  simp only [State.rd, hf, if_true, h]

/-! ### KL_WRITES through the writes of a register (R433) -/

section
variable {v : Nat}

/-- The state is canonical, and KL_WRITES shows `v`. -/
def State.klWrites (s : State) (v : Nat) : Prop := s.reads .KCT_COUNT_KL_WRITES 0 v

theorem State.keeps.klWrites {m : Nat} (k : State.keeps m s t) (h : s.klWrites v)
    (hm : inSet m .KCT_COUNT_KL_WRITES = false := by decide +kernel) : t.klWrites v :=
  k.reads h hm

/-- A write of any field but KL_WRITES leaves it. -/
theorem State.klWrites.wr (h : s.klWrites v) {f : Field} (hf : f ≠ .KCT_COUNT_KL_WRITES) (i w : Nat) : (s.wr f i w).klWrites v :=
  (wr_keeps ..).klWrites h (inSet_writes (by simpa using hf.symm))

/-- A write by the access codes leaves KL_WRITES, which is an RC field (Table 192). -/
theorem State.klWrites.storeField (h : s.klWrites v) (who : Sys2Proof.Requester) (w : Nat) (x : Field × Nat) :
    (s.storeField who w x).klWrites v := by
  have hne : x.1.row.access ≠ .rc → x.1 ≠ .KCT_COUNT_KL_WRITES := fun ha e => ha (by rw [e]; rfl)
  unfold State.storeField
  split
  case h_1 ha => exact h.wr (hne (by simp [ha])) ..
  case h_2 ha =>
    split
    · exact h
    · exact h.wr (hne (by simp [ha])) ..
  case h_3 ha => exact h.wr (hne (by simp [ha])) ..
  case h_4 => exact h

theorem State.klWrites.storeFields (h : s.klWrites v) (who : Sys2Proof.Requester) (w : Nat) (fs : List (Field × Nat)) :
    (s.storeFields who w fs).klWrites v :=
  List.foldlRecOn fs _ (motive := fun t : State => t.klWrites v) h fun _ ht x _ => ht.storeField who w x

/-- No special write of a shared register writes KL_WRITES. -/
theorem State.klWrites.writeShared (h : s.klWrites v) {who : Sys2Proof.Requester} {f : Field} {i w : Nat}
    {fs : List (Field × Nat)} (e : s.writeShared who f i w fs = some t) : t.klWrites v := by
  unfold State.writeShared at e
  split at e
  case h_1 => cases e; exact (writeUpdCtrl_keeps ..).klWrites h
  case h_2 => cases e; exact (updData_keeps ..).klWrites h
  case h_3 => cases e; exact (writeRestart_keeps ..).klWrites h
  case h_4 => cases e; exact (writeFclCtrl_keeps ..).klWrites h
  case h_5 => cases e; exact (showClass_keeps ..).klWrites (h.storeFields who w fs)
  case h_6 => cases e; exact (writeClearHi_keeps ..).klWrites h
  case h_7 => cases e; exact (writeRdSel_keeps ..).klWrites h
  case h_8 => cases e; exact (writeCntCtrl_keeps ..).klWrites h
  case h_9 => cases e; exact (writeCntSel_keeps ..).klWrites h
  case h_10 => cases e; exact (writeCntHi_keeps ..).klWrites h
  case h_11 =>
    cases e
    exact List.foldlRecOn _ _ (motive := fun t : State => t.klWrites v) h fun _ ht _ _ => (fltClear_keeps ..).klWrites ht
  case h_12 => cases e; exact (writeBpCtrl_keeps ..).klWrites h
  case h_13 => cases e; exact (readPlain_keeps ..).klWrites h
  case h_14 => cases e; exact (writeDmaCtrl_keeps ..).klWrites h
  case h_15 | h_16 | h_17 =>
    cases e
    split
    · exact h
    · exact (wr_keeps ..).klWrites h
  case h_18 => cases e; exact (writeDmaHead_keeps ..).klWrites h
  case h_19 =>
    cases e
    exact (writeMbCtrl_keeps (ws := writes [.MBX_CTRL_TX_FULL] [] ||| writes_mbxSend ||| writes_mbxPop) (by decide +kernel) .refl
      (fun _ k => k.step (mbxSend_keeps ..) (by decide +kernel)) fun _ k => k.step (mbxPop_keeps ..) (by decide +kernel)).klWrites h
  case h_20 => cases e

/-- No special write of a register of field firmware writes KL_WRITES. -/
theorem State.klWrites.writeFirmware (h : s.klWrites v) {q : Nat} {f : Field} {i w : Nat}
    {fs : List (Field × Nat)} (e : s.writeFirmware q f i w fs = some t) : t.klWrites v := by
  unfold State.writeFirmware at e
  extract_lets who staged at e
  have hstaged : staged.klWrites v := by
    unfold staged
    split
    · exact (set1_keeps ..).klWrites h
    · exact h.storeFields who w fs
  clear_value staged
  split at e
  case h_1 => cases e; exact (kick_keeps ..).klWrites h
  case h_2 => cases e; exact (writeAckClass_keeps ..).klWrites h
  case h_3 => cases e; exact (writeRelease_keeps ..).klWrites h
  case h_4 => cases e; exact (inject_keeps ..).klWrites h
  case h_5 => cases e; exact (writeFrsFwCtrl_keeps ..).klWrites h
  case h_6 | h_11 => cases e; exact h
  case h_7 => cases e; exact (writeFwWarn_keeps ..).klWrites h
  case h_8 => cases e; exact (writeMonCtrl_keeps ..).klWrites h
  case h_9 => cases e; exact (writeMonScan_keeps ..).klWrites h
  case h_10 => cases e; exact (writeUrgent_keeps ..).klWrites h
  case h_12 => cases e; exact (writePwmCtrl_keeps ..).klWrites h
  case h_13 => cases e; exact (commitPwm_keeps ..).klWrites h
  case h_14 | h_15 | h_16 => cases e; exact (writeLimit_keeps ..).klWrites h
  case h_17 => cases e; exact (fwIrq_keeps ..).klWrites h
  case h_18 =>
    cases e
    exact (writeMbCtrl_keeps (ws := writes [.SCR_MB_CTRL_TX_FULL] [] ||| writes_scrMbSend ||| writes_scrMbPop)
      (by decide +kernel) .refl (fun _ k => k.step (scrMbSend_keeps ..) (by decide +kernel)) fun _ k =>
      k.step (scrMbPop_keeps ..) (by decide +kernel)).klWrites h
  case h_19 | h_20 | h_21 => cases e; exact hstaged
  case h_22 => cases e; exact (writeChzCtrl_keeps ..).klWrites h
  case h_23 => cases e; exact (writeCoefData_keeps ..).klWrites h
  case h_24 => cases e; exact (writeFwCeil_keeps ..).klWrites h
  case h_25 => cases e; exact (writeFwSlew_keeps ..).klWrites h
  case h_26 => cases e; exact (writeTarget_keeps ..).klWrites h
  case h_27 => cases e; exact (watchWrite_keeps ..).klWrites h
  case h_28 => cases e; exact (writeTargetLo_keeps ..).klWrites h
  case h_29 => cases e; exact (writeTargetHi_keeps ..).klWrites h
  case h_30 => cases e; exact (writeDlySlew_keeps ..).klWrites h
  case h_31 => cases e; exact (writeBackoff_keeps ..).klWrites h
  case h_32 => cases e; exact (commitRange_keeps ..).klWrites h
  case h_33 => cases e; exact (writePhaseSlew_keeps ..).klWrites h
  case h_34 => cases e; exact (writeTod_keeps ..).klWrites h
  case h_35 => cases e; exact (writeLaneCtrl_keeps ..).klWrites h
  case h_36 => cases e; exact (writeFeCtrl_keeps ..).klWrites h
  case h_37 => cases e; exact (writePilotCtrl_keeps ..).klWrites h
  case h_38 => cases e

/-- What a write does to the fields of a register leaves KL_WRITES. -/
theorem State.klWrites.writeFields (h : s.klWrites v) (who : Sys2Proof.Requester) (w : Nat) (fs : List (Field × Nat)) :
    (s.writeFields who w fs).klWrites v := by
  unfold State.writeFields
  split
  · exact h
  · split
    case h_1 e => exact h.writeShared e
    case h_2 =>
      split
      · exact h.storeFields ..
      · cases e : s.writeFirmware (requesterIx who) _ _ w _ with
        | none => exact h.storeFields ..
        | some t => exact h.writeFirmware e

end

/-! ### A register write of a policy core (R421, R432) -/

section
variable {q : Sys2Proof.CoreIx} {off w : Nat}

/-- An aligned store of a core to the field half reaches its register. -/
theorem access_core_store (hoff : off < 0x80000) (ha : off % 4 = 0) (act : State → State) :
    s.access (.core q) off true act = act (s.remote q) := by
  unfold State.access
  exact if_neg (by omega)

/-- A write of a core to a register that is no host view counts an attempt on a KL field and then writes the fields. -/
theorem writeReg_core (hoff : off < 0x80000) (hv : (s.regAt (.core q) off).view = false) :
    s.writeReg (.core q) off w = (if s.breaksLock w (s.regAt (.core q) off).fields then s.bump .KCT_COUNT_KL_WRITES
      else s).writeFields (.core q) w (s.regAt (.core q) off).fields := by
  unfold State.writeReg
  rw [if_neg (by omega), if_neg (by simp [State.hostShut, isHost])]
  exact if_neg (Bool.eq_false_iff.mp hv)

/-- What such a write leaves in KL_WRITES. -/
theorem writeReg_core_klWrites (hs : s.canonical) (hoff : off < 0x80000) (hv : (s.regAt (.core q) off).view = false) :
    (s.writeReg (.core q) off w).klWrites (if s.breaksLock w (s.regAt (.core q) off).fields
      then min (s.rd .KCT_COUNT_KL_WRITES + 1) 0xFFFF else s.rd .KCT_COUNT_KL_WRITES) := by
  rw [writeReg_core hoff hv]
  refine State.klWrites.writeFields ?_ ..
  split
  · exact hs.reads_bump
  · exact hs.reads ..

end

/-- Settles O5: only a command that resets the field side writes the store of the KL fields; a write of firmware adds to
KL_WRITES when it supplies other bits for one of them, and nothing else that it does reaches that count. -/
theorem limitsKept : Obligations.LimitsKept := by
  unfold Obligations.LimitsKept
  refine ⟨fun c s t hc h => ?_, fun q off w s hs hoff ha hv => ⟨_, rfl, ?_⟩⟩
  · obtain ⟨u, hu, hk⟩ := exec_answers c s
    cases hu.symm.trans h
    have hhard : t.hard = s.hard := hk.parts .hard (partIn_writesOf_hard hc)
    exact ⟨hhard, fun f i hf => State.rd_of_hard hf hhard i⟩
  · rw [access_core_store hoff ha]
    obtain ⟨c, hc⟩ := s.remote_eq_put_cnt q
    rw [hc]
    exact (writeReg_core_klWrites (s := { s with cnt := c }) { hs with } hoff hv).eq

end Sys2Proof.Machine
end

section
/-!
SUPPORT. The frame of the records and of the host: what a command of Fresco, the counters, Scrim, the host interface, updates
or the policy cores may write lies within the fields and parts that its statement lists.
-/

namespace Sys2Proof.Machine

-- One proof after another, as in the files under Laws: each waits for the kernel's evaluations.
set_option Elab.async false

/-- Settles O14: what each command of the records and of the host may write lies within its list. -/
theorem frameOfTheRecords : Obligations.FrameOfTheRecords := by
  unfold Obligations.FrameOfTheRecords
  intro c s hs
  obtain ⟨t, ht, hk⟩ := exec_answers c s
  refine ⟨t, ht, ?_⟩
  cases c with
  | frescoRecordWrite | bbFlush | frescoMark | floodEnd | frsClear | frsEraseDone | clrLockEnd | frsRdSelWrite | frsCopyDone
    | firmware | gatherBoundary | gatherPublish | cntLoRead | cntSelWrite | holdTo | preciseSample | cntPsDataRead | scrimRsp
    | scrHsyncRead | msixUnmask | hostFieldAccess | fieldDown | hostAbsent | scrimLaneDrop | scrimSync | scrimCreditReturn
    | evtMessage | scrFwIrqWrite | pcieError | dmaErr | pcieRetrain | dmaEnable | dmaHeadWrite | captureGrain | dmaBufferClose
    | dmaFlushTimeout | dmaHoldoffExpire | dieBTempSample | mbxSend | mbxPop | scrMbSend | scrMbPop | version | bpStage
    | mbxBpEnable | delay | ceiling | kctUpdStart | kctUpdDataWrite | kctUpdCommit | kctUpdAbort | kctVerifyDone | pcrKick
    | coreWdg | coreAccessFault | bmeOff | fltInactive | linkBlock | frameErr | bulkFrame | msgDiscard | kctUpdEraseDone
    | updateWindowTimeout =>
    dsimp only [writesOf] at hk
    exact hk.frame hs (by decide +kernel)
  | _ => trivial

end Sys2Proof.Machine
end

section
/-!
SUPPORT. The duty ceilings and the firmware limits of the PWM channels (12_pwm_line_power.md R300 to R303): the on-time of the
gate pulse that a period gives, and what a limit that firmware writes is capped at.
-/

namespace Sys2Proof.Machine

-- One proof after another, as in the files under Laws: each waits for the kernel's evaluations.
set_option Elab.async false

/-! ### The ceilings of the duty (R302) -/

theorem dutyFrac_den_pos (v : Nat) : 0 < (dutyFrac v).2 := by
  unfold dutyFrac
  split
  · exact Nat.one_pos
  · exact Nat.succ_pos _

/-- A lower fraction takes no more of a period, rounded down. -/
theorem fracOf_le_of_fracLe {a b : Nat × Nat} (hb : 0 < b.2) (h : fracLe a b = true) (per : Nat) : fracOf per a ≤ fracOf per b := by
  have hab : a.1 * b.2 ≤ b.1 * a.2 := of_decide_eq_true h
  rcases Nat.eq_zero_or_pos a.2 with ha | ha
  · simp [fracOf, ha]
  · refine (Nat.le_div_iff_mul_le hb).mpr (Nat.le_of_mul_le_mul_right ?_ ha)
    calc fracOf per a * b.2 * a.2 = fracOf per a * a.2 * b.2 := by ring
      _ ≤ per * a.1 * b.2 := Nat.mul_le_mul_right _ (Nat.div_mul_le_self ..)
      _ = per * (a.1 * b.2) := by ring
      _ ≤ per * (b.1 * a.2) := Nat.mul_le_mul_left _ hab
      _ = per * b.1 * a.2 := by ring

theorem fracOf_fracMin_le {a b : Nat × Nat} (ha : 0 < a.2) (hb : 0 < b.2) (per : Nat) :
    fracOf per (fracMin a b) ≤ fracOf per a ∧ fracOf per (fracMin a b) ≤ fracOf per b := by
  unfold fracMin
  split
  case isTrue h => exact ⟨le_rfl, fracOf_le_of_fracLe hb h per⟩
  case isFalse h =>
    have hba : fracLe b a = true := by
      simp only [fracLe, decide_eq_true_eq] at h ⊢
      omega
    exact ⟨fracOf_le_of_fracLe ha hba per, le_rfl⟩

section
variable {s : State} {k : Nat}

/-! ### The gate pulse of a period (R300, R301) -/

theorem le_fineRise (s : State) (x : Nat) : x ≤ s.fineRise x := by
  unfold State.fineRise ceilDiv
  split <;> omega

theorem fineFall_le (s : State) (x : Nat) : s.fineFall x ≤ x := by
  unfold State.fineFall
  split <;> omega

/-- A gate pulse that is given is on for at most the limit: an edge moved by the fine calibration shortens it, a stretched
fall keeps the limit, and a rise moved for the pulse of GL before it comes later. -/
theorem pulses_onTime {per rise on limit dead : Nat} {cont : Bool} {lead : Option Nat} {p : PwmRun × Option Nat × Nat}
    (h : s.pulses k per rise on limit cont lead dead = p) (hon : on ≤ limit) (hgiven : p.1.given = true) :
    p.1.fall - p.1.rise ≤ limit := by
  have hr : rise ≤ s.fineRise rise := le_fineRise ..
  unfold State.pulses at h
  extract_lets least stretch none' r f short f2 fits fall n on' lead' at h
  have hf : f ≤ rise + on := by
    unfold f
    split
    · omega
    · exact fineFall_le ..
  have hwhole : f - r ≤ limit := by omega
  split at h
  case isTrue => subst h; cases hgiven
  case isFalse =>
    split at h
    case isTrue hc =>
      obtain ⟨-, hr0⟩ : cont = true ∧ r = 0 := by simpa using hc
      subst h
      show f - 0 ≤ limit
      omega
    case isFalse =>
      split at h
      case isTrue => subst h; cases hgiven
      case isFalse hskip =>
        have hfall : fall - r ≤ limit := by
          unfold fall
          split
          case isTrue hshort =>
            obtain ⟨-, hfits⟩ : stretch = true ∧ fits = true := by simpa [hshort] using hskip
            exact (of_decide_eq_true hfits).2.1
          case isFalse => exact hwhole
        clear_value fall lead'
        split at h
        case h_1 => subst h; exact hfall
        case h_2 l =>
          split at h
          case isTrue => subst h; exact hfall
          case isFalse hlead =>
            extract_lets r2 at h
            split at h
            case isTrue hst =>
              have hr2 : r ≤ r2 := by
                unfold r2
                simp only [Bool.and_eq_true, decide_eq_true_eq, isShort, Bool.not_eq_true', decide_eq_false_iff_not] at hlead hst
                omega
              subst h
              exact le_trans (Nat.sub_le_sub_left hr2 fall) hfall
            case isFalse => subst h; exact hfall

/-! ### The record of a channel after a new period -/

/-- A value that is no default is read back from any store. -/
theorem Store.get_set_self_of_ne {α : Type} [DecidableEq α] {d : Nat → α} {v : α} {k : Nat} (h : v ≠ d k) (m : Store α) :
    Store.get d (Store.set d m k v) k = v := by
  have hcons (rest : Store α) : Store.get d (Store.cons d k v rest) k = v := by
    simp [Store.cons, h, Store.get]
  induction m with
  | nil => exact hcons []
  | cons x rest ih =>
    obtain ⟨j, u⟩ := x
    unfold Store.set
    split
    · exact hcons _
    · split
      · exact hcons _
      · simp only [Store.get, *, if_false]

/-- The gate pulse of a new period is one that `pulses` gives, with an on-time within the ceilings. -/
theorem shapePeriod_run (s : State) (k : Nat) (cont : Bool) (lead : Option Nat) (dead : Nat) :
    ∃ rise on limit, on ≤ limit ∧ limit ≤ fracOf (s.pwm k).active.per (s.dutyCeil k) ∧
      ((s.shapePeriod k cont lead dead).pwm k).run =
        some (s.pulses k (s.pwm k).active.per rise on limit cont lead dead).1 := by
  unfold State.shapePeriod
  extract_lets x per cut ceil slew limit
  split
  rename_i full rise want hcmd
  extract_lets on duty
  split
  rename_i run stretched n hp
  refine ⟨rise, on, limit, Nat.min_le_right .., (Nat.min_le_right ..).trans (Nat.min_le_left ..), ?_⟩
  rw [show s.pulses k (s.pwm k).active.per rise on limit cont lead dead = (run, stretched, n) from hp]
  have hset (y : Pwm) (hy : y.run = some run) : ((s.setPwm k y).pwm k).run = some run := by
    have hne : y ≠ {} := fun e => by rw [e] at hy; cases hy
    rw [State.pwm, State.setPwm, Store.get_set_self_of_ne hne, hy]
  beta_reduce
  split
  · simpa [State.set1, State.wrB, State.bump] using hset _ rfl
  · simpa [State.wrB, State.bump] using hset _ rfl

end

/-- Settles O47: the on-time of the pulse lies within the lower ceiling's share of the period, and so within that of each. -/
theorem onTimeBelowMaxDuty : Obligations.OnTimeBelowMaxDuty := by
  unfold Obligations.OnTimeBelowMaxDuty
  intro s k cont lead dead x hx hgiven
  obtain ⟨rise, on, limit, hon, hlimit, hrun⟩ := shapePeriod_run s k cont lead dead
  obtain rfl : (s.pulses k (s.pwm k).active.per rise on limit cont lead dead).1 = x := Option.some.inj (hrun.symm.trans hx)
  have htime := (pulses_onTime rfl hon hgiven).trans hlimit
  have hceil := fracOf_fracMin_le (dutyFrac_den_pos (s.rd .PWM_DUTY_MAX_DUTY k))
    (dutyFrac_den_pos (s.rd .PWM_DUTY_FW_MAX_DUTY k)) (s.pwm k).active.per
  exact ⟨htime.trans hceil.1, htime.trans hceil.2⟩

/-! ### Limits of firmware (R303) -/

section
variable {s : State} {k : Nat} {fw hard : Field}

/-- A write of firmware's limit `fw` is capped at its hard value `hard` (R303). -/
def State.putLimit (s : State) (fw hard : Field) (k v : Nat) : State :=
  if s.rd hard k < v then (s.wr fw k (s.rd hard k)).set1 .PWM_STATUS_DUTY_CLAMP k else s.wr fw k v

theorem writeLimit_duty (s : State) (k v : Nat) :
    s.writeLimit k 0 v = s.putLimit .PWM_DUTY_FW_MAX_DUTY .PWM_DUTY_MAX_DUTY k v := rfl

theorem writeLimit_current (hk : k < 4) (s : State) (v : Nat) :
    s.writeLimit k 1 v = s.putLimit .PWM_ILIM_FW_I_LIM .PWM_ILIM_I_LIM k v := if_pos hk

theorem writeLimit_voltage (hk : k < 4) (s : State) (v : Nat) :
    s.writeLimit k 2 v = s.putLimit .PWM_VLIM_FW_V_LIM .PWM_VLIM_V_LIM k v := if_pos hk

/-- At or below the hard value the value written stands. -/
theorem putLimit_of_le (hs : s.canonical) (v : BitVec 16) (h : v.toNat ≤ s.rd hard k)
    (hl : fw.locked = false := by decide +kernel) (hw : fw.row.width = 16 := by decide +kernel)
    (hclamp : fw ≠ .PWM_STATUS_DUTY_CLAMP := by decide +kernel) (hhard : fw ≠ hard := by decide +kernel) :
    (s.putLimit fw hard k v.toNat).rd fw k = v.toNat ∧
    (s.putLimit fw hard k v.toNat).rd .PWM_STATUS_DUTY_CLAMP k = s.rd .PWM_STATUS_DUTY_CLAMP k ∧
    (s.putLimit fw hard k v.toNat).rd hard k = s.rd hard k := by
  unfold State.putLimit
  rw [if_neg (by omega)]
  have hwf := goodRegs.wf hs.regs
  exact ⟨(hs.reads_wr hl (by rw [hw]; exact v.isLt)).eq, State.rd_wr_ne hwf _ (.inl hclamp.symm), State.rd_wr_ne hwf _ (.inl hhard.symm)⟩

/-- Above it the hard value stands, and DUTY_CLAMP is set. -/
theorem putLimit_of_gt (hs : s.canonical) {v : Nat} (h : s.rd hard k < v)
    (hl : fw.locked = false := by decide +kernel) (hw : hard.row.width = fw.row.width := by decide +kernel)
    (hclamp : fw ≠ .PWM_STATUS_DUTY_CLAMP := by decide +kernel)
    (hhard : hard ∉ [fw, .PWM_STATUS_DUTY_CLAMP] := by decide +kernel) :
    (s.putLimit fw hard k v).rd fw k = s.rd hard k ∧
    (s.putLimit fw hard k v).rd .PWM_STATUS_DUTY_CLAMP k = 1 ∧
    (s.putLimit fw hard k v).rd hard k = s.rd hard k := by
  have hfit : s.rd hard k < 2 ^ fw.row.width := hw ▸ State.rd_lt hs hard k
  have hfw : (s.wr fw k (s.rd hard k)).reads fw k (s.rd hard k) := hs.reads_wr hl hfit
  unfold State.putLimit
  rw [if_pos h]
  exact ⟨((wr_keeps ..).reads hfw (inSet_writes (by simpa using hclamp))).eq, hfw.canon.reads_wr.eq,
    ((wr_keeps ..).reads ((wr_keeps ..).reads (hs.reads ..) (inSet_writes (by simp_all)))
      (inSet_writes (by simp_all))).eq⟩

end

/-- Settles O10: each limit of firmware is put under its hard value. -/
theorem firmwareLimits : Obligations.FirmwareLimits := by
  unfold Obligations.FirmwareLimits
  refine ⟨fun s k v hs h => ⟨_, rfl, putLimit_of_le hs v h⟩, fun s k v hs h => ⟨_, rfl, putLimit_of_gt hs h⟩,
    fun s k v hs hk h => ⟨_, congrArg Host.Outcome.next (writeLimit_current hk s v.toNat), putLimit_of_le hs v h⟩,
    fun s k v hs hk h => ⟨_, congrArg Host.Outcome.next (writeLimit_current hk s v.toNat), putLimit_of_gt hs h⟩,
    fun s k v hs hk h => ⟨_, congrArg Host.Outcome.next (writeLimit_voltage hk s v.toNat), putLimit_of_le hs v h⟩,
    fun s k v hs hk h => ⟨_, congrArg Host.Outcome.next (writeLimit_voltage hk s v.toNat), putLimit_of_gt hs h⟩⟩

end Sys2Proof.Machine
end

section
/-!
SUPPORT. The monitor converters (13_monitor_converters.md R319 to R325): what the record of a converter shows after an
operation, and what a conversion, a calibration and an urgent request leave.
-/

namespace Sys2Proof.Machine

-- One proof after another, as in the files under Laws: each waits for the kernel's evaluations.
set_option Elab.async false

/-- The state is canonical, and what `g` takes from the record of converter `x` is `v`. -/
structure State.convShows {α : Type} (s : State) (g : Conv → α) (x : Nat) (v : α) : Prop where
  canon : s.canonical
  eq : g (s.conv x) = v

section
variable {s t : State} {m x : Nat} {α : Type} {g : Conv → α} {v : α}

theorem State.canonical.convShows (hs : s.canonical) (g : Conv → α) (x : Nat) : s.convShows g x (g (s.conv x)) := ⟨hs, rfl⟩

/-- An operation that writes no converter leaves what the record of each shows. -/
theorem State.keeps.convShows (k : State.keeps m s t) (h : s.convShows g x v)
    (hm : partIn m .convs = false := by decide +kernel) : t.convShows g x v := by
  have hc : t.convs = s.convs := k.parts .convs hm
  exact ⟨k.canon h.canon, by rw [State.conv, hc]; exact h.eq⟩

/-- The record put in place is what the converter shows. -/
theorem State.canonical.convShows_setConv (hs : s.canonical) (x : Nat) (y : Conv) (g : Conv → α) :
    (s.setConv x y).convShows g x (g y) where
  canon := (setConv_keeps s x y).canon hs
  eq := by rw [State.conv_setConv hs.convs, if_pos rfl]

/-- A record put in place of one that shows the same. -/
theorem State.convShows.setConv (h : s.convShows g x v) {y : Conv} (hy : g y = g (s.conv x) := by rfl) :
    (s.setConv x y).convShows g x v where
  canon := (setConv_keeps s x y).canon h.canon
  eq := by rw [State.conv_setConv h.canon.convs, if_pos rfl, hy, h.eq]

/-! ### The next conversion and the scan (R321, R324) -/

/-- The start of the next conversion leaves the queue of results. -/
theorem nextJob_queue {q : List Sys2Proof.Word} (h : s.convShows Conv.queue x q) : (s.nextJob x).convShows Conv.queue x q := by
  refine (showUrgent_keeps ..).convShows (h.setConv ?_)
  split
  · rfl
  · split
    · rfl
    · split
      · rfl
      · split
        · rfl
        · extract_lets
          split <;> rfl

/-- No sweep begins while the converter does not scan. -/
theorem nextJob_mask {k : Nat} (h : s.convShows Conv.mask x k) (hscan : s.scans x = false) :
    (s.nextJob x).convShows Conv.mask x k := by
  refine (showUrgent_keeps ..).convShows (h.setConv ?_)
  split
  · rfl
  · rw [if_pos (by simp [hscan])]

/-- A calibration ends the sweep, and none begins while it runs. -/
theorem monStop_mask (hs : s.canonical) (hcal : s.rd .MON_STATUS_CALIBRATING x = 1) : ((s.monStop x).conv x).mask = 0 := by
  unfold State.monStop
  extract_lets c s1
  have h1 : s1.convShows Conv.mask x 0 := hs.convShows_setConv x _ Conv.mask
  split
  · exact (nextJob_mask h1 (by simp [s1, State.scans, State.is, hcal])).eq
  · exact h1.eq

/-! ### References and calibrations (R319, R320) -/

theorem monCal_of_ready (hr : s.rd .MON_STATUS_REF_READY x = 1) (hc : s.rd .MON_STATUS_CALIBRATING x = 0) :
    s.monCal x = (s.set1 .MON_STATUS_CALIBRATING x).monStop x :=
  if_neg (by simp [State.is, hr, hc])

theorem monCal_of_unready (hr : s.rd .MON_STATUS_REF_READY x = 0) : s.monCal x = s.set1 .MON_STATUS_CAL_REFUSED x :=
  if_pos (by simp [State.is, hr])

theorem monCal_starts (hs : s.canonical) (hr : s.rd .MON_STATUS_REF_READY x = 1) (hc : s.rd .MON_STATUS_CALIBRATING x = 0) :
    (s.monCal x).rd .MON_STATUS_CALIBRATING x = 1 ∧ ((s.monCal x).conv x).mask = 0 := by
  have hset : (s.set1 .MON_STATUS_CALIBRATING x).reads .MON_STATUS_CALIBRATING x 1 := hs.reads_wr
  rw [monCal_of_ready hr hc]
  exact ⟨((monStop_keeps ..).reads hset).eq, monStop_mask hset.canon hset.eq⟩

/-- After a good calibration: the failure of a calibration ends unless the other converter's failed too, and the scan may
start. -/
def State.calEnded (s : State) (x : Nat) : State :=
  (if (s.conv (otherConv x)).failed then s else s.sendClear 0xB0 0x52).monWake x

def writes_calEnded : Nat := writes_sendClear ||| writes_monWake

theorem calEnded_keeps (s : State) (x : Nat) : State.keeps writes_calEnded s (s.calEnded x) := by
  refine State.keeps.step (State.keeps.ite (fun _ => .refl) fun _ => ?_) (monWake_keeps ..) (by decide +kernel)
  exact (sendClear_keeps ..).mono (by decide +kernel)

/-- The factors of a good calibration are stored. -/
def State.takeFactors (s : State) (x : Nat) (f : Int × Int) : State :=
  let s0 := s.clr .MON_STATUS_CALIBRATING x
  (((s0.setConv x { s0.conv x with failed := false }).wr .MON_CAL_OFS_OFS x (wrapBits 16 f.1)).wr .MON_CAL_GAIN_GAIN x
    f.2.toNat).set1 .MON_STATUS_CAL_OK x

/-- A calibration that measured nothing, or factors out of bounds, leaves the old factors. -/
def State.keepFactors (s : State) (x : Nat) : State :=
  let s0 := s.clr .MON_STATUS_CALIBRATING x
  ((s0.setConv x { s0.conv x with failed := true }).set1 .MON_STATUS_CAL_FAIL x).clr .MON_STATUS_CAL_OK x

theorem monCalDone_of_good {f : Int × Int} (hf : factorsOk f (s.factory.mon.getD x (0, 4194304)) = true) :
    s.monCalDone x (some f) = (s.takeFactors x f).calEnded x := by
  unfold State.monCalDone
  extract_lets s0 old
  rw [Option.filter_some, if_pos hf]
  rfl

theorem monCalDone_of_none : s.monCalDone x none = ((s.keepFactors x).sendFault 0xB0 0x52 x).monWake x := rfl

theorem takeFactors_spec (hs : s.canonical) (x : Nat) (f : Int × Int) :
    (s.takeFactors x f).reads .MON_STATUS_CALIBRATING x 0 ∧ (s.takeFactors x f).reads .MON_STATUS_CAL_OK x 1 ∧
    (s.takeFactors x f).reads .MON_CAL_OFS_OFS x (wrapBits 16 f.1) ∧
    (s.takeFactors x f).reads .MON_CAL_GAIN_GAIN x (f.2.toNat % 2 ^ Field.MON_CAL_GAIN_GAIN.row.width) := by
  unfold State.takeFactors
  extract_lets s0
  have h0 : s0.reads .MON_STATUS_CALIBRATING x 0 := hs.reads_wr
  have hset := (setConv_keeps s0 x { s0.conv x with failed := false }).reads h0
  have hofs := hset.canon.reads_wr (f := .MON_CAL_OFS_OFS) (i := x) (hv := wrapBits_lt 16 f.1)
  have hgain := hofs.canon.reads_wr_mod (f := .MON_CAL_GAIN_GAIN) (i := x) (v := f.2.toNat)
  exact ⟨(wr_keeps ..).reads <| (wr_keeps ..).reads <| (wr_keeps ..).reads hset, hgain.canon.reads_wr,
    (wr_keeps ..).reads <| (wr_keeps ..).reads hofs, (wr_keeps ..).reads hgain⟩

theorem keepFactors_spec (hs : s.canonical) (x : Nat) :
    (s.keepFactors x).reads .MON_STATUS_CALIBRATING x 0 ∧ (s.keepFactors x).reads .MON_STATUS_CAL_OK x 0 ∧
    (s.keepFactors x).reads .MON_STATUS_CAL_FAIL x 1 ∧
    (s.keepFactors x).reads .MON_CAL_OFS_OFS x (s.rd .MON_CAL_OFS_OFS x) := by
  unfold State.keepFactors
  extract_lets s0
  have h0 : s0.reads .MON_STATUS_CALIBRATING x 0 := hs.reads_wr
  have hset := (setConv_keeps s0 x { s0.conv x with failed := true }).reads h0
  have hfail := hset.canon.reads_wr (f := .MON_STATUS_CAL_FAIL) (i := x) (v := 1)
  exact ⟨(wr_keeps ..).reads <| (wr_keeps ..).reads hset, hfail.canon.reads_wr, (wr_keeps ..).reads hfail,
    (wr_keeps ..).reads <| (wr_keeps ..).reads <| (setConv_keeps ..).reads <| (wr_keeps ..).reads (hs.reads ..)⟩

/-! ### Conversions (R321, R325) -/

/-- While the queue has room an entry goes to its end. -/
theorem monPush_spec (hs : s.canonical) (hroom : (s.conv x).queue.length < 128) (urgent : Bool) (e : Sys2Proof.Word) :
    (s.monPush x urgent e).convShows Conv.queue x ((s.conv x).queue ++ [e]) ∧
    (s.monPush x urgent e).reads .MON_QLEVEL_LEVEL x (((s.conv x).queue.length + 1) % 2 ^ Field.MON_QLEVEL_LEVEL.row.width) := by
  unfold State.monPush
  extract_lets c
  rw [if_pos hroom]
  have hset := hs.convShows_setConv x { c with queue := c.queue ++ [e] } Conv.queue
  exact ⟨(wr_keeps ..).convShows hset, hset.canon.reads_wr_mod⟩

/-- A cross-check leaves the queue of results. -/
theorem crossCheck_queue {q : List Sys2Proof.Word} (h : s.convShows Conv.queue x q) (code : Nat) :
    (s.crossCheck x code).convShows Conv.queue x q := by
  unfold State.crossCheck
  extract_lets _ s1
  have h1 : s1.convShows Conv.queue x q := h.setConv
  split
  · exact h1
  · split
    · exact h1
    · extract_lets d s2 passed lost
      have h2 : s2.convShows Conv.queue x q := (wr_keeps ..).convShows ((wr_keeps ..).convShows h1)
      split
      · have hpassed : passed.convShows Conv.queue x q := ⟨{ h2.canon with }, h2.eq⟩
        split
        · exact (sendClear_keeps ..).convShows ((set1_keeps ..).convShows hpassed)
        · exact hpassed
      · have hlost : lost.convShows Conv.queue x q := (plLost_keeps ..).convShows ((set1_keeps ..).convShows h2)
        split
        · exact hlost
        · exact (sendFault_keeps ..).convShows hlost

/-- What a conversion does with its code beyond the queue and the last values: the cross-check, the set-point, and the start
of the next one. -/
def State.passOn (s : State) (x ch code : Nat) : State :=
  let s1 := if ch = 31 then s.crossCheck x code else s
  (if ch = 0 ∧ x = 0 then s1.setaConversion code else s1).nextJob x

def writes_passOn : Nat := writes_crossCheck ||| (writes_setaConversion ||| writes_nextJob)

theorem passOn_keeps (s : State) (x ch code : Nat) : State.keeps writes_passOn s (s.passOn x ch code) := by
  unfold State.passOn
  extract_lets s1
  have hcheck : State.keeps writes_crossCheck s s1 := State.keeps.ite (fun _ => crossCheck_keeps ..) fun _ => .refl
  have hset : State.keeps writes_setaConversion s1 (if ch = 0 ∧ x = 0 then s1.setaConversion code else s1) :=
    State.keeps.ite (fun _ => setaConversion_keeps ..) fun _ => .refl
  refine State.keeps.step (State.keeps.step (hcheck.mono ?_) hset ?_) (nextJob_keeps ..) ?_ <;> decide +kernel

theorem passOn_queue {q : List Sys2Proof.Word} (h : s.convShows Conv.queue x q) (ch code : Nat) :
    (s.passOn x ch code).convShows Conv.queue x q := by
  unfold State.passOn
  extract_lets s1
  have hcheck : s1.convShows Conv.queue x q := by
    unfold s1
    split
    · exact crossCheck_queue h code
    · exact h
  refine nextJob_queue ?_
  split
  · exact (setaConversion_keeps ..).convShows hcheck
  · exact hcheck

/-- The code of a conversion becomes the latest of its channel. -/
def State.putLast (s : State) (x ch code : Nat) (flagged : Bool) : State :=
  (((s.wr .MON_LAST_CODE ch code).wr .MON_LAST_CONV ch x).set1 .MON_LAST_VALID ch).wrB .MON_LAST_FLAGGED ch flagged

def writes_putLast : Nat := writes [.MON_LAST_CODE, .MON_LAST_CONV, .MON_LAST_VALID, .MON_LAST_FLAGGED] []

theorem putLast_keeps (s : State) (x ch code : Nat) (flagged : Bool) :
    State.keeps writes_putLast s (s.putLast x ch code flagged) := by
  refine State.keeps.step (State.keeps.step (State.keeps.step ((wr_keeps ..).mono ?_) (wr_keeps ..) ?_) (set1_keeps ..) ?_)
    (wrB_keeps ..) ?_ <;> decide +kernel

theorem putLast_spec (hs : s.canonical) (x : Nat) {code : Nat} (hcode : code < 65536) (ch : Nat) (flagged : Bool) :
    (s.putLast x ch code flagged).reads .MON_LAST_CODE ch code ∧ (s.putLast x ch code flagged).reads .MON_LAST_VALID ch 1 := by
  have h1 := hs.reads_wr (f := .MON_LAST_CODE) (i := ch) (v := code) (hv := hcode)
  have h2 := (wr_keeps (s.wr .MON_LAST_CODE ch code) .MON_LAST_CONV ch x).reads h1
  exact ⟨(wrB_keeps ..).reads ((set1_keeps ..).reads h2), (wrB_keeps ..).reads h2.canon.reads_wr⟩

theorem converted_eq (s : State) (x ch code : Nat) (urgent redo : Bool) (tag : Nat) :
    s.converted x ch code urgent redo tag =
      let plBad := !s.is .MON_PLAUS_PL_OK
      let noCal := !s.is .MON_STATUS_REF_READY x || !s.is .MON_STATUS_CAL_OK x
      (((((s.monPush x urgent (monEntry code ch urgent redo plBad noCal tag)).roll .MON_CONV_CONVERSIONS x).tally 7
        (0x05 + x) 0).putLast x ch code (plBad || noCal)).passOn x ch code) := rfl

/-- What a conversion leaves: its entry at the end of the queue, and its code as the latest of the channel. -/
theorem converted_spec (hs : s.canonical) (hroom : (s.conv x).queue.length < 128) {code : Nat} (hcode : code < 65536) (ch : Nat)
    (redo : Bool) :
    let t := s.converted x ch code false redo 0
    (t.conv x).queue = (s.conv x).queue ++ [monEntry code ch false redo (!s.is .MON_PLAUS_PL_OK)
      (!s.is .MON_STATUS_REF_READY x || !s.is .MON_STATUS_CAL_OK x) 0] ∧
    t.rd .MON_QLEVEL_LEVEL x = ((s.conv x).queue.length + 1) % 2 ^ Field.MON_QLEVEL_LEVEL.row.width ∧
    t.rd .MON_LAST_CODE ch = code ∧ t.rd .MON_LAST_VALID ch = 1 ∧
    t.rd .MON_CONV_CONVERSIONS x = (s.rd .MON_CONV_CONVERSIONS x + 1) % 2 ^ Field.MON_CONV_CONVERSIONS.row.width := by
  rw [converted_eq]
  extract_lets plBad noCal
  obtain ⟨hqueue, hlevel⟩ := monPush_spec hs hroom false (monEntry code ch false redo plBad noCal 0)
  have hcount := (monPush_keeps s x false (monEntry code ch false redo plBad noCal 0)).reads (hs.reads .MON_CONV_CONVERSIONS x)
  have hroll := hcount.canon.reads_wr_mod (f := .MON_CONV_CONVERSIONS) (i := x) (v := s.rd .MON_CONV_CONVERSIONS x + 1)
  rw [← hcount.eq] at hroll
  have hrun := (tally_keeps _ 7 (0x05 + x) 0 1 0).reads hroll
  obtain ⟨hlast, hvalid⟩ := putLast_spec hrun.canon x hcode ch (plBad || noCal)
  refine ⟨(passOn_queue ((putLast_keeps ..).convShows ((tally_keeps ..).convShows ((roll_keeps ..).convShows hqueue))) ch code).eq,
    ?_, ?_, ?_, ?_⟩
  · exact ((passOn_keeps ..).reads ((putLast_keeps ..).reads ((tally_keeps ..).reads ((roll_keeps ..).reads hlevel)))).eq
  · exact ((passOn_keeps ..).reads hlast).eq
  · exact ((passOn_keeps ..).reads hvalid).eq
  · rw [← hcount.eq]
    exact ((passOn_keeps ..).reads ((putLast_keeps ..).reads hrun)).eq

/-- A failed plausibility check: the flag is 0 and the run of good checks begins anew. -/
theorem plLost_spec (hs : s.canonical) : s.plLost.reads .MON_PLAUS_PL_OK 0 0 ∧ s.plLost.plRun = 0 := by
  have hok : (s.clr .MON_PLAUS_PL_OK).reads .MON_PLAUS_PL_OK 0 0 := hs.reads_wr
  have hrun : ({ s.clr .MON_PLAUS_PL_OK with plRun := 0 } : State).reads .MON_PLAUS_PL_OK 0 0 := ⟨{ hok.canon with }, hok.eq⟩
  exact ⟨(setaFail_keeps ..).reads hrun, (setaFail_keeps _).parts .plRun (by decide +kernel)⟩

/-! ### Urgent requests (R323) -/

/-- An idle converter takes the request at once. -/
theorem urgent_of_idle (href : s.rd .MON_CTRL_REF_EN x = 1) (hcal : s.rd .MON_STATUS_CALIBRATING x = 0)
    (hjob : (s.conv x).job = .idle) (ch tag : Nat) :
    s.urgent x ch tag = (s.setConv x { s.conv x with job := .urgent ch tag }).showUrgent x := by
  unfold State.urgent
  rw [if_neg (by simp [State.is, href, hcal]), hjob]

/-- URG_BUSY shows a running urgent request. -/
theorem showUrgent_busy {ch tag : Nat} (h : s.convShows Conv.job x (.urgent ch tag)) :
    (s.showUrgent x).reads .MON_STATUS_URG_BUSY x 1 := by
  unfold State.showUrgent
  extract_lets c
  have hc : c.job = .urgent ch tag := h.eq
  rw [hc]
  exact (wr_keeps ..).reads h.canon.reads_wrB

/-- Without the reference an urgent request is refused. -/
theorem urgent_of_off (href : s.rd .MON_CTRL_REF_EN x = 0) (ch tag : Nat) :
    s.urgent x ch tag = s.set1 .MON_STATUS_URG_REFUSED x :=
  if_pos (by simp [State.is, href])

theorem urgent_idle_spec (hs : s.canonical) (href : s.rd .MON_CTRL_REF_EN x = 1) (hcal : s.rd .MON_STATUS_CALIBRATING x = 0)
    (hjob : (s.conv x).job = .idle) (ch tag : Nat) :
    (s.urgent x ch tag).convShows Conv.job x (.urgent ch tag) ∧ (s.urgent x ch tag).reads .MON_STATUS_URG_BUSY x 1 := by
  rw [urgent_of_idle href hcal hjob]
  have hset := hs.convShows_setConv x { s.conv x with job := .urgent ch tag } Conv.job
  exact ⟨(showUrgent_keeps ..).convShows hset, showUrgent_busy hset⟩

/-- What a write of MON_URGENT leaves before the request. -/
def State.putUrgent (s : State) (x w : Nat) : State := (s.wr .MON_URGENT_CH x (bits 0 5 w)).wr .MON_URGENT_TAG x (bits 5 4 w)

theorem putUrgent_keeps (s : State) (x w : Nat) :
    State.keeps (writes [.MON_URGENT_CH, .MON_URGENT_TAG] []) s (s.putUrgent x w) := by
  refine State.keeps.step ((wr_keeps ..).mono ?_) (wr_keeps ..) ?_ <;> decide +kernel

/-! ### The queue of results (R325) -/

/-- The oldest entry goes to the core that reads. -/
theorem monQueueRead_spec (hs : s.canonical) (q : Nat) {e : Sys2Proof.Word} {es : List Sys2Proof.Word}
    (hq : (s.conv x).queue = e :: es) :
    let t := (s.setReader q { s.reader q with data := s.monOldest x }).monPop x
    (t.reader q).data = e ∧ (t.conv x).queue = es ∧
    t.rd .MON_QLEVEL_LEVEL x = es.length % 2 ^ Field.MON_QLEVEL_LEVEL.row.width := by
  have hold : s.monOldest x = e := by simp [State.monOldest, hq]
  have htail : (s.conv x).queue.tail = es := by rw [hq, List.tail_cons]
  set u := s.setReader q { s.reader q with data := s.monOldest x } with hu
  have hcu : u.canonical := (setReader_keeps ..).canon hs
  have hconv : u.conv x = s.conv x := rfl
  have hset := hcu.convShows_setConv x { u.conv x with queue := es } Conv.queue
  have hpop : u.monPop x = (u.setConv x { u.conv x with queue := es }).wr .MON_QLEVEL_LEVEL x es.length := by
    rw [State.monPop, hconv, htail]
  have hread : (u.monPop x).readers = u.readers := (monPop_keeps u x).parts .readers (by decide +kernel)
  refine ⟨?_, ?_, ?_⟩
  · rw [State.reader, hread, ← State.reader, hu, State.reader_setReader hs.readers, if_pos rfl, hold]
  · rw [hpop]
    exact ((wr_keeps ..).convShows hset).eq
  · rw [hpop]
    exact hset.canon.reads_wr_mod.eq

end

/-- Settles O48: each command writes the fields named and what follows it leaves them. -/
theorem monitorConverters : Obligations.MonitorConverters := by
  unfold Obligations.MonitorConverters
  refine ⟨fun s x hs => ⟨_, rfl, ?_⟩, fun s x hs => ⟨_, rfl, ?_⟩, fun s x hs href => ⟨_, rfl, ?_⟩,
    fun s x hs hready hcal => ⟨_, rfl, monCal_starts hs hready hcal⟩, fun s x hs hready => ⟨_, rfl, ?_⟩,
    fun s x f hs hcal hf => ⟨_, congrArg Host.Outcome.next (if_pos (by simp [State.is, hcal])), ?_⟩,
    fun s x hs hcal => ⟨_, congrArg Host.Outcome.next (if_pos (by simp [State.is, hcal])), ?_⟩,
    fun s x code ch redo hs hjob hroom => ⟨_, rfl, ?_⟩, fun s x w hs href hcal hjob => ⟨_, rfl, ?_⟩,
    fun s x w hs href => ⟨_, rfl, ?_⟩, fun s q x e es hs hq => ?_, fun s hs => ⟨_, rfl, ?_⟩⟩
  · exact ⟨((monWake_keeps ..).reads hs.reads_wr).eq, ((monWake_keeps ..).reads ((set1_keeps ..).reads (hs.reads ..))).eq⟩
  · have hoff : (s.clr .MON_CTRL_REF_EN x).reads .MON_CTRL_REF_EN x 0 := hs.reads_wr
    exact ⟨((monStop_keeps ..).reads ((clr_keeps ..).reads hoff)).eq, ((monStop_keeps ..).reads hoff.canon.reads_wr).eq⟩
  · rw [if_pos (by simp [State.is, href])]
    exact ⟨hs.reads_wr.eq, rfl⟩
  · rw [monCal_of_unready hready]
    exact ⟨hs.reads_wr.eq, ((set1_keeps ..).reads (hs.reads ..)).eq⟩
  · rw [monCalDone_of_good hf]
    obtain ⟨hrun, hok, hofs, hgain⟩ := takeFactors_spec hs x f
    have hend := calEnded_keeps (s.takeFactors x f) x
    exact ⟨(hend.reads hrun).eq, (hend.reads hok).eq, (hend.reads hofs).eq, (hend.reads hgain).eq⟩
  · rw [monCalDone_of_none]
    obtain ⟨hrun, hok, hfail, hofs⟩ := keepFactors_spec hs x
    have hsend := sendFault_keeps (s.keepFactors x) 0xB0 0x52 x
    have hwake := monWake_keeps ((s.keepFactors x).sendFault 0xB0 0x52 x) x
    exact ⟨(hwake.reads (hsend.reads hrun)).eq, (hwake.reads (hsend.reads hok)).eq, (hwake.reads (hsend.reads hfail)).eq,
      (hwake.reads (hsend.reads hofs)).eq, hwake.faultWaits (State.faultWaits_sendFault ..)⟩
  · rw [hjob]
    exact converted_spec hs hroom code.isLt ch redo
  · have hput := putUrgent_keeps s x w.toNat
    obtain ⟨hj, hbusy⟩ := urgent_idle_spec (hput.canon hs) (hput.reads ⟨hs, href⟩).eq (hput.reads ⟨hs, hcal⟩).eq
      (hput.convShows ⟨hs, hjob⟩ : (s.putUrgent x w.toNat).convShows Conv.job x .idle).eq (bits 0 5 w.toNat) (bits 5 4 w.toNat)
    exact ⟨hj.eq, hbusy.eq⟩
  · have hput := putUrgent_keeps s x w.toNat
    have heq : s.writeUrgent x w.toNat = (s.putUrgent x w.toNat).set1 .MON_STATUS_URG_REFUSED x :=
      urgent_of_off (hput.reads ⟨hs, href⟩).eq ..
    rw [heq]
    exact ⟨(hput.canon hs).reads_wr.eq, rfl⟩
  · obtain ⟨c, hc, hvia⟩ := hs.via_core q fun t => (t.setReader q { t.reader q with data := t.monOldest x }).monPop x
    exact ⟨_, congrArg Host.Outcome.next hvia, monQueueRead_spec hc q hq⟩
  · obtain ⟨hok, hrun⟩ := plLost_spec ((set1_keeps s .MON_PLAUS_PL_STALE 0).canon hs)
    exact ⟨((plLost_keeps ..).reads hs.reads_wr).eq, hok.eq, hrun⟩

end Sys2Proof.Machine
end

section
/-!
SUPPORT. Trips and stops of the line-power channels (12_pwm_line_power.md R306 to R310, 18_scrim_host.md R422): what a review
of the gates does to a channel that is held, what it leaves of the others, and the bits of the FLT inputs.
-/

namespace Sys2Proof.Machine

-- One proof after another, as in the files under Laws: each waits for the kernel's evaluations.
set_option Elab.async false

/-! ### What an operation on one channel leaves of the others -/

/-- Of the registers `t` has other values than `s` at index `j` only, and another running period for channel `j` only. -/
structure State.chanOnly (j : Nat) (s t : State) : Prop where
  canon : s.canonical → t.canonical
  fields : s.canonical → ∀ f i, i ≠ j → t.rd f i = s.rd f i
  run : s.canonical → ∀ k, k ≠ j → (t.pwm k).run = (s.pwm k).run

section
variable {s t u : State} {j k m : Nat}

theorem State.chanOnly.refl : State.chanOnly j s s := ⟨id, fun _ _ _ _ => rfl, fun _ _ _ => rfl⟩

theorem State.chanOnly.trans (h : State.chanOnly j s t) (g : State.chanOnly j t u) : State.chanOnly j s u where
  canon hs := g.canon (h.canon hs)
  fields hs f i hi := (g.fields (h.canon hs) f i hi).trans (h.fields hs f i hi)
  run hs k hk := (g.run (h.canon hs) k hk).trans (h.run hs k hk)

theorem State.chanOnly.ite {c : Prop} [Decidable c] (h : c → State.chanOnly j s t) (g : ¬c → State.chanOnly j s u) :
    State.chanOnly j s (if c then t else u) := by
  split
  case isTrue hc => exact h hc
  case isFalse hc => exact g hc

theorem wr_chanOnly (s : State) (f : Field) (j v : Nat) : State.chanOnly j s (s.wr f j v) where
  canon := (wr_keeps s f j v).canon
  fields hs _ _ hi := State.rd_wr_ne (goodRegs.wf hs.regs) v (.inr hi)
  run _ k _ := by rw [State.wr_pwm]

theorem setPwm_chanOnly (s : State) (j : Nat) (y : Pwm) : State.chanOnly j s (s.setPwm j y) where
  canon := (setPwm_keeps s j y).canon
  fields _ _ _ _ := rfl
  run hs k hk := by rw [State.pwm_setPwm hs.pwms, if_neg hk]

theorem updPwm_chanOnly (s : State) (j : Nat) (y : Pwm → Pwm) : State.chanOnly j s (s.updPwm j y) := setPwm_chanOnly ..

/-- The blanking windows that are kept are no part of a running period. -/
theorem keepBlank_run (hs : s.canonical) (src till : Nat) :
    (s.keepBlank src till).canonical ∧ ∀ k, ((s.keepBlank src till).pwm k).run = (s.pwm k).run := by
  refine State.forEach_invariant (P := fun t => t.canonical ∧ ∀ k, (t.pwm k).run = (s.pwm k).run) ⟨hs, fun _ => rfl⟩
    fun x t ⟨ht, hrun⟩ => ?_
  split
  · refine ⟨(updPwm_keeps ..).canon ht, fun k => ?_⟩
    rw [State.updPwm, State.pwm_setPwm ht.pwms]
    split
    case isTrue e => rw [e]; exact hrun x
    case isFalse => exact hrun k
  · exact ⟨ht, hrun⟩

theorem keepBlank_chanOnly (s : State) (src till j : Nat) : State.chanOnly j s (s.keepBlank src till) where
  canon := (keepBlank_keeps ..).canon
  fields hs f i _ := (keepBlank_keeps ..).fields hs f i (inSet_writes (by simp))
  run hs k _ := (keepBlank_run hs src till).2 k

theorem gateStop_chanOnly (s : State) (j st : Nat) : State.chanOnly j s (s.gateStop j st) :=
  (keepBlank_chanOnly ..).trans <| (updPwm_chanOnly ..).trans <| (wr_chanOnly ..).trans (wr_chanOnly ..)

theorem shapePeriod_chanOnly (s : State) (j : Nat) (cont : Bool) (lead : Option Nat) (dead : Nat) :
    State.chanOnly j s (s.shapePeriod j cont lead dead) := by
  unfold State.shapePeriod
  extract_lets x per
  split
  extract_lets
  split
  refine State.chanOnly.trans ?_ (.ite (fun _ => wr_chanOnly ..) fun _ => .refl)
  exact (setPwm_chanOnly ..).trans <| (wr_chanOnly ..).trans <| (wr_chanOnly ..).trans (wr_chanOnly ..)

/-! ### The review of the gates (R310) -/

/-- A trip of G3 or an FLT input holds channel `k`. -/
def State.g3Held (s : State) (k : Nat) : Bool := (decide (k < 4) && (s.pwm k).g3) || s.fltHold k

/-- The holds that PWM_STATUS shows. -/
def State.markHolds (s : State) (k : Nat) : State :=
  ((s.wrB .PWM_STATUS_H_G3 k (s.g3Held k)).wrB .PWM_STATUS_H_FENCE k (s.fenceHold k)).wrB .PWM_STATUS_H_RELAY k
    (decide (k < 4) && (s.pwm k).relayHold)

def writes_markHolds : Nat := writes [.PWM_STATUS_H_G3, .PWM_STATUS_H_FENCE, .PWM_STATUS_H_RELAY] []

theorem markHolds_keeps (s : State) (k : Nat) : State.keeps writes_markHolds s (s.markHolds k) := by
  refine State.keeps.step (State.keeps.step ((wrB_keeps ..).mono ?_) (wrB_keeps ..) ?_) (wrB_keeps ..) ?_ <;> decide +kernel

theorem markHolds_chanOnly (s : State) (j : Nat) : State.chanOnly j s (s.markHolds j) := by
  unfold State.markHolds State.wrB
  exact (wr_chanOnly ..).trans <| (wr_chanOnly ..).trans (wr_chanOnly ..)

theorem markHolds_reads_hold (hs : s.canonical) (k : Nat) : (s.markHolds k).reads .PWM_STATUS_H_G3 k (flag (s.g3Held k)) :=
  (wrB_keeps ..).reads ((wrB_keeps ..).reads hs.reads_wrB)

theorem gateReview_eq (s : State) (k : Nat) : s.gateReview k =
    let s1 := s.markHolds k
    if !s1.is .PWM_CTRL_ARM k then s1.gateStop k 0
    else if s1.gateHeld k || !s1.is .KCT_STATUS_LOCKED then s1.gateStop k 1
    else if s1.rd .PWM_STATUS_STATE k < 2 then
      (s1.updPwm k fun x => { x.reload with start := s.cycles * 32, duty := (0, 1) }).shapePeriod k false none 0
    else s1 := rfl

theorem gateReview_chanOnly (s : State) (j : Nat) : State.chanOnly j s (s.gateReview j) := by
  rw [gateReview_eq]
  refine (markHolds_chanOnly s j).trans (.ite (fun _ => gateStop_chanOnly ..) fun _ => .ite (fun _ => gateStop_chanOnly ..)
    fun _ => .ite (fun _ => ?_) fun _ => .refl)
  exact (updPwm_chanOnly ..).trans (shapePeriod_chanOnly ..)

theorem gateReview_of_unarmed (hs : s.canonical) (h : s.rd .PWM_CTRL_ARM k = 0) :
    s.gateReview k = (s.markHolds k).gateStop k 0 := by
  have harm : (s.markHolds k).is .PWM_CTRL_ARM k = false := ((markHolds_keeps ..).reads ⟨hs, h⟩).is
  rw [gateReview_eq, if_pos (by simp [harm])]

/-- The FLT hold of a channel is a matter of the latches and the maps alone. -/
theorem State.keeps.fltHold (h : State.keeps m s t) (hs : s.canonical) (k : Nat)
    (hf : ∀ f ∈ [Field.PWM_FLT_LATCH, .PWM_FLT_MAP_MAP0, .PWM_FLT_MAP_MAP1, .PWM_FLT_MAP_MAP2, .PWM_FLT_MAP_MAP3],
      inSet m f = false := by decide +kernel) : t.fltHold k = s.fltHold k := by
  have hr (f) (hmem : f ∈ [Field.PWM_FLT_LATCH, .PWM_FLT_MAP_MAP0, .PWM_FLT_MAP_MAP1, .PWM_FLT_MAP_MAP2, .PWM_FLT_MAP_MAP3]) :
      t.rd f = s.rd f := h.fields hs f 0 (hf f hmem)
  unfold State.fltHold State.fltMaps
  simp only [hr .PWM_FLT_LATCH (by simp), hr .PWM_FLT_MAP_MAP0 (by simp), hr .PWM_FLT_MAP_MAP1 (by simp),
    hr .PWM_FLT_MAP_MAP2 (by simp), hr .PWM_FLT_MAP_MAP3 (by simp)]

theorem markHolds_g3Held (hs : s.canonical) (k : Nat) : (s.markHolds k).g3Held k = s.g3Held k := by
  have hp : (s.markHolds k).pwms = s.pwms := (markHolds_keeps ..).parts .pwms (by decide +kernel)
  simp only [State.g3Held, State.pwm, hp, (markHolds_keeps s k).fltHold hs]

theorem gateHeld_of_g3Held (h : s.g3Held k = true) : s.gateHeld k = true := by
  unfold State.g3Held at h
  unfold State.gateHeld
  simp only [Bool.or_eq_true, Bool.and_eq_true] at h ⊢
  tauto

/-- A held channel is stopped, whether it is armed or not. -/
theorem gateReview_of_held (hs : s.canonical) (h : s.g3Held k = true) :
    ∃ st < 2, s.gateReview k = (s.markHolds k).gateStop k st := by
  have hheld : (s.markHolds k).gateHeld k = true := gateHeld_of_g3Held ((markHolds_g3Held hs k).trans h)
  rw [gateReview_eq]
  extract_lets s1
  by_cases harm : s1.is .PWM_CTRL_ARM k = true
  · exact ⟨1, by decide, by rw [if_neg (by simp [harm]), if_pos (by simp [s1, hheld])]⟩
  · exact ⟨0, by decide, if_pos (by simp [harm])⟩

theorem gateStop_spec (hs : s.canonical) (k : Nat) {st : Nat} (hst : st < 2) :
    (s.gateStop k st).reads .PWM_STATUS_STATE k st ∧ ((s.gateStop k st).pwm k).run = none := by
  have hb := (keepBlank_run hs k (s.cycles * 32)).1
  have hu := (updPwm_keeps (s.keepBlank k (s.cycles * 32)) k fun x => { x with run := none, duty := (0, 1) }).canon hb
  refine ⟨((clr_keeps ..).canon hu).reads_wr (hv := Nat.lt_trans hst (by decide +kernel)), ?_⟩
  unfold State.gateStop State.clr
  rw [State.wr_pwm, State.wr_pwm, State.updPwm, State.pwm_setPwm hb.pwms, if_pos rfl]

/-! ### A channel that a trip holds -/

/-- Channel `k` does not run, and PWM_STATUS shows a trip's hold. -/
structure State.chanSafe (s : State) (k : Nat) : Prop where
  canon : s.canonical
  run : (s.pwm k).run = none
  hold : s.rd .PWM_STATUS_H_G3 k = 1

theorem State.keeps.chanSafe (h : State.keeps m s t) (hc : s.chanSafe k) (hm : partIn m .pwms = false := by decide +kernel)
    (hf : inSet m .PWM_STATUS_H_G3 = false := by decide +kernel) : t.chanSafe k where
  canon := h.canon hc.canon
  run := by rw [State.pwm, (h.parts .pwms hm : t.pwms = s.pwms)]; exact hc.run
  hold := (h.fields hc.canon _ _ hf).trans hc.hold

theorem State.chanOnly.chanSafe (h : State.chanOnly j s t) (hk : k ≠ j) (hc : s.chanSafe k) : t.chanSafe k :=
  ⟨h.canon hc.canon, (h.run hc.canon k hk).trans hc.run, (h.fields hc.canon _ k hk).trans hc.hold⟩

theorem gateReview_chanSafe (hs : s.canonical) (h : s.g3Held k = true) :
    (s.gateReview k).chanSafe k ∧ (s.gateReview k).rd .PWM_STATUS_STATE k < 2 := by
  obtain ⟨st, hst, heq⟩ := gateReview_of_held hs h
  have hmark := markHolds_reads_hold hs k
  obtain ⟨hstate, hrun⟩ := gateStop_spec hmark.canon k hst
  have hhold := (gateStop_keeps _ k st).reads hmark
  rw [h] at hhold
  rw [heq]
  exact ⟨⟨hstate.canon, hrun, hhold.eq⟩, hstate.eq.trans_lt hst⟩

/-! ### A trip (R306) -/

/-- A message that waits goes on waiting when another is sent. -/
theorem sendFault_faultWaits {src cause : Nat} (h : s.faultWaits src cause = true) (src' cause' detail : Nat) :
    (s.sendFault src' cause' detail).faultWaits src cause = true := by
  unfold State.sendFault
  extract_lets c raised
  split
  · exact (bump_keeps ..).faultWaits (m := writes [.FCL_COUNT_MERGED] []) h
  · exact (List.any_append ..).trans (by rw [show c.msgs.any _ = true from h, Bool.true_or])

/-- The mutes, the conversions and the message that follow the stop of the gates. -/
def State.tellTrip (s : State) (k cause : Nat) (ns : List Nat) : State :=
  let s2 := s.forEach (fun n t => t.mute n (muteG3 k)) ns
  ((s2.urgent 0 (1 + k) 15).urgent 1 (5 + k) 15).sendFault (0xA0 + k) cause

/-- The hold of a trip and its count. -/
def State.countTrip (s : State) (k : Nat) (held : Bool) : State :=
  let s0 := s.updPwm k fun x => { x with g3 := true }
  if held then s0 else s0.bump .PWM_COUNT1_G3_TRIPS k

theorem g3Trip_eq (s : State) (k cause : Nat) (held : Bool) :
    s.g3Trip k cause held = ((s.countTrip k held).gateReview k).tellTrip k cause ((s.countTrip k held).windowOut k) := rfl

def writes_tellTrip : Nat := writes_mute ||| writes_urgent ||| writes_sendFault

theorem tellTrip_keeps (s : State) (k cause : Nat) (ns : List Nat) : State.keeps writes_tellTrip s (s.tellTrip k cause ns) := by
  refine State.keeps.step (State.keeps.step (State.keeps.step ?_ (urgent_keeps ..) ?_) (urgent_keeps ..) ?_)
    (sendFault_keeps ..) ?_
  · exact State.keeps.forEach .refl fun n u hu => State.keeps.step hu (mute_keeps ..) (by decide +kernel)
  all_goals decide +kernel

/-- The mutes and the conversions of a trip send no message. -/
theorem tellTrip_faultWaits {src c : Nat} (k cause : Nat) (ns : List Nat) (h : s.faultWaits src c = true) :
    (s.tellTrip k cause ns).faultWaits src c = true := by
  have hmutes : State.keeps writes_mute s (s.forEach (fun n t => t.mute n (muteG3 k)) ns) :=
    State.keeps.forEach .refl fun n u hu => hu.trans (mute_keeps ..)
  exact sendFault_faultWaits ((urgent_keeps ..).faultWaits ((urgent_keeps ..).faultWaits (hmutes.faultWaits h))) ..

theorem mute_contains (hs : s.canonical) (n c : Nat) : (s.mute n c).bpShows (fun x => x.mutes.contains c) n true := by
  unfold State.mute
  split
  case isTrue h => exact ⟨hs, h⟩
  case isFalse =>
    refine ⟨(updBp_keeps ..).canon hs, ?_⟩
    rw [(hs.bpShows_updBp (g := Bp.mutes) _).eq]
    simp

/-- Every band path listed is muted. -/
theorem tellTrip_mutes (hs : s.canonical) (k cause : Nat) {ns : List Nat} {n : Nat} (hn : n ∈ ns) :
    muteG3 k ∈ ((s.tellTrip k cause ns).bp n).mutes := by
  have hmuted : (s.forEach (fun n t => t.mute n (muteG3 k)) ns).bpShows (fun x => x.mutes.contains (muteG3 k)) n true :=
    State.forEach_effect (P := State.canonical) (Q := fun t => t.bpShows (fun x => x.mutes.contains (muteG3 k)) n true) hn hs
      (fun _ _ ht => (mute_keeps ..).canon ht) (fun _ ht => mute_contains ht ..) fun _ _ ht => mute_bpShows ht (mutesLeave_contains _) ..
  have hend := (sendFault_keeps _ (0xA0 + k) cause 0).bpShows ((urgent_keeps _ 1 (5 + k) 15).bpShows
    ((urgent_keeps _ 0 (1 + k) 15).bpShows hmuted))
  exact List.contains_iff_mem.mp hend.eq

def writes_countTrip : Nat := writes [.PWM_COUNT1_G3_TRIPS] [.pwms]

theorem countTrip_keeps (s : State) (k : Nat) (held : Bool) : State.keeps writes_countTrip s (s.countTrip k held) := by
  have hset : State.keeps writes_countTrip s (s.updPwm k fun x => { x with g3 := true }) :=
    (updPwm_keeps ..).mono (by decide +kernel)
  exact State.keeps.ite (fun _ => hset) fun _ => State.keeps.step hset (bump_keeps ..) (by decide +kernel)

theorem countTrip_chanOnly (s : State) (k : Nat) (held : Bool) : State.chanOnly k s (s.countTrip k held) :=
  .ite (fun _ => updPwm_chanOnly ..) fun _ => (updPwm_chanOnly ..).trans (wr_chanOnly ..)

theorem countTrip_g3Held (hs : s.canonical) (hk : k < 4) (held : Bool) : (s.countTrip k held).g3Held k = true := by
  have hset : ((s.updPwm k fun x => { x with g3 := true }).pwm k).g3 = true := by
    rw [State.updPwm, State.pwm_setPwm hs.pwms, if_pos rfl]
  have hg3 : ((s.countTrip k held).pwm k).g3 = true := by
    unfold State.countTrip
    extract_lets s0
    split
    · exact hset
    · rw [State.bump, State.wr_pwm]
      exact hset
  simp [State.g3Held, hk, hg3]

/-- A band path emits at a port as its record says. -/
theorem State.keeps.windowOut (h : State.keeps m s t) (p : Nat) (hm : partIn m .bps = false := by decide +kernel) :
    t.windowOut p = s.windowOut p := by
  have hb : t.bps = s.bps := h.parts .bps hm
  simp only [State.windowOut, State.running, State.emits, State.bp, hb]

/-- A trip of channel `k`, one of 0 to 3: gates safe, the fault asserted, the band paths of the port muted. -/
theorem g3Trip_spec (hs : s.canonical) (hk : k < 4) (cause : Nat) (held : Bool) :
    (s.g3Trip k cause held).chanSafe k ∧ (s.g3Trip k cause held).rd .PWM_STATUS_STATE k < 2 ∧
    (s.g3Trip k cause held).faultWaits (0xA0 + k) cause = true ∧
    ∀ n ∈ s.windowOut k, muteG3 k ∈ ((s.g3Trip k cause held).bp n).mutes := by
  have hc := (countTrip_keeps s k held).canon hs
  have hwin := (countTrip_keeps s k held).windowOut k
  obtain ⟨hsafe, hst⟩ := gateReview_chanSafe hc (countTrip_g3Held hs hk held)
  have htell := tellTrip_keeps ((s.countTrip k held).gateReview k) k cause (s.windowOut k)
  rw [g3Trip_eq, hwin]
  exact ⟨htell.chanSafe hsafe, (htell.reads ⟨hsafe.canon, rfl⟩).eq.trans_lt hst, State.faultWaits_sendFault ..,
    fun n hn => tellTrip_mutes hsafe.canon k cause hn⟩

/-- While no trip holds the channel a trip counts. -/
theorem g3Trip_counts (hs : s.canonical) (k cause : Nat) : (s.g3Trip k cause false).rd .PWM_COUNT1_G3_TRIPS k =
    min (s.rd .PWM_COUNT1_G3_TRIPS k + 1) (2 ^ Field.PWM_COUNT1_G3_TRIPS.row.width - 1) := by
  have hset := (updPwm_keeps s k fun x => { x with g3 := true }).canon hs
  exact ((tellTrip_keeps ..).reads ((gateReview_keeps ..).reads (hset.reads_bump (f := .PWM_COUNT1_G3_TRIPS) (i := k)))).eq

theorem g3Trip_chanSafe (hjk : k ≠ j) (cause : Nat) (held : Bool) (h : s.chanSafe k) : (s.g3Trip j cause held).chanSafe k :=
  (tellTrip_keeps ..).chanSafe ((gateReview_chanOnly ..).chanSafe hjk ((countTrip_chanOnly ..).chanSafe hjk h))

theorem g3Trip_faultWaits {src c : Nat} (j cause : Nat) (held : Bool) (h : s.faultWaits src c = true) :
    (s.g3Trip j cause held).faultWaits src c = true :=
  tellTrip_faultWaits _ _ _ ((gateReview_keeps ..).faultWaits ((countTrip_keeps ..).faultWaits h))

/-! ### The FLT inputs (R308, R309) -/

/-- What an FLT input does to one channel that it maps to. -/
def State.fltTrip (s : State) (held : Nat → Bool) (k : Nat) : State :=
  if k < 4 then s.g3Trip k 0x0B (held k) else (s.gateReview k).sendFault (0xA0 + k) 0x0B

theorem fltTrip_keeps (s : State) (held : Nat → Bool) (k : Nat) : State.keeps writes_g3Trip s (s.fltTrip held k) :=
  State.keeps.ite (fun _ => g3Trip_keeps ..) fun _ =>
    State.keeps.step ((gateReview_keeps ..).mono (by decide +kernel)) (sendFault_keeps ..) (by decide +kernel)

/-- A channel that an FLT input holds is made safe, and its fault asserted. -/
theorem fltTrip_spec (hs : s.canonical) (held : Nat → Bool) (h : s.fltHold k = true) :
    (s.fltTrip held k).chanSafe k ∧ (s.fltTrip held k).faultWaits (0xA0 + k) 0x0B = true := by
  unfold State.fltTrip
  split
  case isTrue hk =>
    obtain ⟨hsafe, -, hfault, -⟩ := g3Trip_spec hs hk 0x0B (held k)
    exact ⟨hsafe, hfault⟩
  case isFalse =>
    exact ⟨(sendFault_keeps ..).chanSafe (gateReview_chanSafe hs (by rw [State.g3Held, h, Bool.or_true])).1,
      State.faultWaits_sendFault ..⟩

/-- What the input does to another channel leaves that. -/
theorem fltTrip_other {src c : Nat} (held : Nat → Bool) (hjk : k ≠ j) (h : s.chanSafe k ∧ s.faultWaits src c = true) :
    (s.fltTrip held j).chanSafe k ∧ (s.fltTrip held j).faultWaits src c = true := by
  unfold State.fltTrip
  split
  · exact ⟨g3Trip_chanSafe hjk _ _ h.1, g3Trip_faultWaits _ _ _ h.2⟩
  · exact ⟨(sendFault_keeps ..).chanSafe ((gateReview_chanOnly ..).chanSafe hjk h.1),
      sendFault_faultWaits ((gateReview_keeps ..).faultWaits h.2) ..⟩

/-- The bits of an input that becomes active. -/
def State.latchFlt (s : State) (i : Nat) : State :=
  ((s.wr .PWM_FLT_ACT 0 (s.rd .PWM_FLT_ACT + 2 ^ i)).wr .PWM_FLT_LATCH 0
    (if bit i (s.rd .PWM_FLT_LATCH) then s.rd .PWM_FLT_LATCH else s.rd .PWM_FLT_LATCH + 2 ^ i)).bump .PWM_FLT_FLT_EVENTS

theorem fltActivate_eq {i : Nat} (h : bit i (s.rd .PWM_FLT_ACT) = false) : s.fltActivate i =
    (s.latchFlt i).forEach (fun k t => t.fltTrip (fun k => (s.pwm k).g3 || s.fltHold k) k)
      ((List.range 8).filter (s.fltMaps i)) :=
  if_neg (by rw [h]; decide)

theorem bit_add_two_pow {i x : Nat} (h : bit i x = false) : bit i (x + 2 ^ i) = true := by
  rw [bit_eq_testBit] at h ⊢
  rw [Nat.add_comm, Nat.testBit_two_pow_add_eq, h, Bool.not_false]

theorem bit_sub_two_pow {i x : Nat} (h : bit i x = true) : bit i (x - 2 ^ i) = false := by
  rw [bit_eq_testBit] at h ⊢
  have hsplit : 2 ^ i + (x - 2 ^ i) = x := Nat.add_sub_cancel' (Nat.ge_two_pow_of_testBit h)
  have hx := Nat.testBit_two_pow_add_eq (x - 2 ^ i) i
  rw [hsplit, h] at hx
  simpa using hx.symm

theorem latchFlt_keeps (s : State) (i : Nat) :
    State.keeps (writes [.PWM_FLT_ACT, .PWM_FLT_LATCH, .PWM_FLT_FLT_EVENTS] []) s (s.latchFlt i) := by
  refine State.keeps.step (State.keeps.step ((wr_keeps ..).mono ?_) (wr_keeps ..) ?_) (bump_keeps ..) ?_ <;> decide +kernel

theorem latchFlt_spec (hs : s.canonical) (i : Fin 4) (h : bit i (s.rd .PWM_FLT_ACT) = false) :
    bit i ((s.latchFlt i).rd .PWM_FLT_ACT) = true ∧ bit i ((s.latchFlt i).rd .PWM_FLT_LATCH) = true ∧
    (s.latchFlt i).rd .PWM_FLT_FLT_EVENTS 0 =
      min (s.rd .PWM_FLT_FLT_EVENTS 0 + 1) (2 ^ Field.PWM_FLT_FLT_EVENTS.row.width - 1) := by
  unfold State.latchFlt
  set latch := if bit i (s.rd .PWM_FLT_LATCH) then s.rd .PWM_FLT_LATCH else s.rd .PWM_FLT_LATCH + 2 ^ i.val with hdef
  have hlatch : bit i latch = true := by
    rw [hdef]
    split
    case isTrue hb => exact hb
    case isFalse hb => exact bit_add_two_pow (Bool.eq_false_iff.mpr hb)
  have hact := hs.reads_wr_mod (f := .PWM_FLT_ACT) (i := 0) (v := s.rd .PWM_FLT_ACT + 2 ^ i.val)
  have hset := hact.canon.reads_wr_mod (f := .PWM_FLT_LATCH) (i := 0) (v := latch)
  have hcount := (wr_keeps _ .PWM_FLT_LATCH 0 latch).reads ((wr_keeps _ .PWM_FLT_ACT 0
    (s.rd .PWM_FLT_ACT + 2 ^ i.val)).reads (hs.reads .PWM_FLT_FLT_EVENTS 0))
  refine ⟨?_, ?_, ?_⟩
  · rw [((bump_keeps ..).reads ((wr_keeps ..).reads hact)).eq,
      bit_mod_two_pow (show i.val < Field.PWM_FLT_ACT.row.width from i.isLt)]
    exact bit_add_two_pow h
  · rw [((bump_keeps ..).reads hset).eq,
      bit_mod_two_pow (show i.val < Field.PWM_FLT_LATCH.row.width from i.isLt)]
    exact hlatch
  · rw [← hcount.eq]
    exact hcount.canon.reads_bump.eq

/-- An input that has become active makes every channel it maps to safe. -/
theorem fltActivate_spec (hs : s.canonical) (i : Fin 4) (h : bit i (s.rd .PWM_FLT_ACT) = false) (k : Fin 8)
    (hmap : s.fltMaps i k = true) : (s.fltActivate i).chanSafe k ∧ (s.fltActivate i).faultWaits (0xA0 + k) 0x0B = true := by
  have hl := latchFlt_keeps s i
  have hheld : (s.latchFlt i).fltHold k = true := by
    have hmap' : (s.latchFlt i).fltMaps i k = true := by
      unfold State.fltMaps at hmap ⊢
      simpa only [hl.fields hs .PWM_FLT_MAP_MAP0 0 (by decide +kernel), hl.fields hs .PWM_FLT_MAP_MAP1 0 (by decide +kernel),
        hl.fields hs .PWM_FLT_MAP_MAP2 0 (by decide +kernel), hl.fields hs .PWM_FLT_MAP_MAP3 0 (by decide +kernel)] using hmap
    exact List.any_eq_true.mpr ⟨i, List.mem_range.mpr i.isLt, by rw [(latchFlt_spec hs i h).2.1, hmap', Bool.true_and]⟩
  rw [fltActivate_eq h]
  refine State.forEach_nodup_effect (P := fun t => t.canonical ∧ t.fltHold k = true)
    (Q := fun t => t.chanSafe k ∧ t.faultWaits (0xA0 + k) 0x0B = true) (List.nodup_range.filter _)
    (List.mem_filter.mpr ⟨List.mem_range.mpr k.isLt, hmap⟩) ⟨hl.canon hs, hheld⟩ (fun j t _ ht => ?_)
    (fun t ht => fltTrip_spec ht.1 _ ht.2) fun j t hj ht => fltTrip_other _ hj.symm ht
  have hj := fltTrip_keeps t (fun k => (s.pwm k).g3 || s.fltHold k) j
  exact ⟨hj.canon ht.1, (hj.fltHold ht.1 k).trans ht.2⟩

/-- The trips that follow leave the bits of the inputs. -/
theorem fltActivate_reads {f : Field} {v : Nat} (i : Fin 4) (h : bit i (s.rd .PWM_FLT_ACT) = false)
    (hr : (s.latchFlt i).reads f 0 v) (hf : inSet writes_g3Trip f = false := by decide +kernel) :
    (s.fltActivate i).reads f 0 v := by
  rw [fltActivate_eq h]
  exact (State.keeps.forEach .refl fun k u hu => hu.trans (fltTrip_keeps ..)).reads hr hf

/-- The channels are reviewed after an accepted clear. -/
def State.reviewFlt (s : State) (ks : List Nat) : State :=
  s.forEach (fun k t => (if t.fltHold k then t else t.sendClear (0xA0 + k) 0x0B).pwmReview k) ks

def writes_reviewFlt : Nat := writes_sendClear ||| writes_pwmReview

theorem reviewFlt_keeps (s : State) (ks : List Nat) : State.keeps writes_reviewFlt s (s.reviewFlt ks) := by
  refine State.keeps.forEach .refl fun k u hu => State.keeps.step ?_ (pwmReview_keeps ..) (by decide +kernel)
  exact State.keeps.ite (fun _ => hu) fun _ => State.keeps.step hu (sendClear_keeps ..) (by decide +kernel)

theorem fltClear_of_inactive {i : Nat} (hact : bit i (s.rd .PWM_FLT_ACT) = false) (hlatch : bit i (s.rd .PWM_FLT_LATCH) = true) :
    s.fltClear i =
      (s.wr .PWM_FLT_LATCH 0 (s.rd .PWM_FLT_LATCH - 2 ^ i)).reviewFlt ((List.range 8).filter (s.fltMaps i)) :=
  if_neg (by rw [hact, hlatch]; decide)

theorem fltClear_spec (hs : s.canonical) (i : Fin 4) (hact : bit i (s.rd .PWM_FLT_ACT) = false)
    (hlatch : bit i (s.rd .PWM_FLT_LATCH) = true) :
    bit i ((s.fltClear i).rd .PWM_FLT_LATCH) = false ∧ (s.fltClear i).rd .PWM_FLT_ACT = s.rd .PWM_FLT_ACT := by
  rw [fltClear_of_inactive hact hlatch]
  refine ⟨?_, ((reviewFlt_keeps ..).reads ((wr_keeps ..).reads (hs.reads ..))).eq⟩
  rw [((reviewFlt_keeps ..).reads hs.reads_wr_mod).eq,
    bit_mod_two_pow (show i.val < Field.PWM_FLT_LATCH.row.width from i.isLt)]
  exact bit_sub_two_pow hlatch

/-! ### A disarmed channel (R310) -/

/-- Channel `k` is OFF: not armed, and without a running period. -/
structure State.chanOff (s : State) (k : Nat) : Prop where
  canon : s.canonical
  arm : s.rd .PWM_CTRL_ARM k = 0
  state : s.rd .PWM_STATUS_STATE k = 0
  run : (s.pwm k).run = none

theorem State.chanOnly.chanOff (h : State.chanOnly j s t) (hk : k ≠ j) (hc : s.chanOff k) : t.chanOff k :=
  ⟨h.canon hc.canon, (h.fields hc.canon _ k hk).trans hc.arm, (h.fields hc.canon _ k hk).trans hc.state,
    (h.run hc.canon k hk).trans hc.run⟩

theorem gateReview_chanOff (hs : s.canonical) (h : s.rd .PWM_CTRL_ARM k = 0) : (s.gateReview k).chanOff k := by
  have hmark := (markHolds_keeps s k).reads ⟨hs, h⟩
  obtain ⟨hstate, hrun⟩ := gateStop_spec hmark.canon k (st := 0) (by decide)
  rw [gateReview_of_unarmed hs h]
  exact ⟨hstate.canon, ((gateStop_keeps ..).reads hmark).eq, hstate.eq, hrun⟩

/-- A channel that is disarmed does not restart. -/
theorem writeArm_false (hs : s.canonical) (k : Nat) : s.writeArm k false = (s.wr .PWM_CTRL_ARM k 0).gateReview k := by
  have harm : (s.wr .PWM_CTRL_ARM k 0).reads .PWM_CTRL_ARM k 0 := hs.reads_wr
  have hoff : ((s.wr .PWM_CTRL_ARM k 0).gateReview k).rd .PWM_STATUS_STATE k = 0 :=
    (gateReview_chanOff harm.canon harm.eq).state
  exact if_neg (fun ⟨_, h⟩ => absurd (hoff ▸ h : 2 ≤ 0) (by decide))

theorem writeArm_false_spec (hs : s.canonical) (k : Nat) :
    (s.writeArm k false).chanOff k ∧ State.chanOnly k s (s.writeArm k false) := by
  have harm : (s.wr .PWM_CTRL_ARM k 0).reads .PWM_CTRL_ARM k 0 := hs.reads_wr
  rw [writeArm_false hs]
  exact ⟨gateReview_chanOff harm.canon harm.eq, (wr_chanOnly ..).trans (gateReview_chanOnly ..)⟩

theorem disarmAll_spec (hs : s.canonical) (k : Fin 8) : s.disarmAll.chanOff k := by
  refine State.forEach_nodup_effect (P := State.canonical) (Q := fun t => t.chanOff k) List.nodup_range
    (List.mem_range.mpr k.isLt) hs (fun j t _ ht => (writeArm_keeps ..).canon ht) (fun t ht => (writeArm_false_spec ht k).1)
    fun j t hj ht => ?_
  exact (writeArm_false_spec ht.canon j).2.chanOff hj.symm ht

theorem State.keeps.chanOff (h : State.keeps m s t) (hc : s.chanOff k) (hm : partIn m .pwms = false := by decide +kernel)
    (harm : inSet m .PWM_CTRL_ARM = false := by decide +kernel)
    (hst : inSet m .PWM_STATUS_STATE = false := by decide +kernel) : t.chanOff k where
  canon := h.canon hc.canon
  arm := (h.fields hc.canon _ _ harm).trans hc.arm
  state := (h.fields hc.canon _ _ hst).trans hc.state
  run := by rw [State.pwm, (h.parts .pwms hm : t.pwms = s.pwms)]; exact hc.run

end

section
variable {s : State}

/-- A comparator's trip is due. -/
theorem execG3Trip_of_due {k : Sys2Proof.ChanIx} {b : Bool} {c : BitVec 16} (hk : k.val < 4) (hg : (s.pwm k).g3 = false)
    (hf : s.fltHold k = false) (hlim : s.senseLimit k b ≤ c.toNat) (hblank : s.g3Blanked k = false) :
    execG3Trip k ⟨b, c⟩ s = .next (((s.updPwm k fun x =>
      if b then { x with ovLow := none } else { x with ocLow := none }).set1 (if b then .PWM_STATUS_G3_OV else .PWM_STATUS_G3_OC)
      k).g3Trip k (if b then 0x0A else 0x09) false) := by
  unfold execG3Trip
  rw [if_neg (by simp [hk, hblank, hlim])]
  simp only [hg, hf, Bool.or_self]

/-- A trip whose cause PWM_STATUS shows. -/
theorem g3Trip_of_cause {k c : Nat} {f : Field} {ns : List Nat} (hs : s.reads .PWM_COUNT1_G3_TRIPS k c)
    (hns : s.windowOut k = ns) (hk : k < 4) (cause : Nat)
    (hl : f.locked = false := by decide +kernel) (hv : 1 < 2 ^ f.row.width := by decide +kernel)
    (hf : inSet writes_g3Trip f = false := by decide +kernel) (hn : f ≠ .PWM_COUNT1_G3_TRIPS := by decide +kernel) :
    let t := (s.set1 f k).g3Trip k cause false
    (t.pwm k).run = none ∧ t.rd .PWM_STATUS_H_G3 k = 1 ∧ t.rd .PWM_STATUS_STATE k < 2 ∧ t.rd f k = 1 ∧
    t.rd .PWM_COUNT1_G3_TRIPS k = min (c + 1) (2 ^ Field.PWM_COUNT1_G3_TRIPS.row.width - 1) ∧
    t.faultWaits (0xA0 + k) cause = true ∧ ∀ n : Fin 128, n.val ∉ ns ∨ muteG3 k ∈ (t.bp n).mutes := by
  intro t
  have hset : (s.set1 f k).reads f k 1 := hs.canon.reads_wr hl hv
  have hcount := (set1_keeps s f k).reads hs (inSet_writes (by simpa using hn.symm))
  have hwin : (s.set1 f k).windowOut k = ns := ((set1_keeps s f k).windowOut k (partIn_writes (by simp))).trans hns
  obtain ⟨⟨-, hrun, hhold⟩, hst, hfault, hmute⟩ := g3Trip_spec hset.canon hk cause false
  refine ⟨hrun, hhold, hst, ((g3Trip_keeps ..).reads hset hf).eq, ?_, hfault, fun n => ?_⟩
  · rw [← hcount.eq]
    exact g3Trip_counts hset.canon k cause
  · exact or_iff_not_imp_left.mpr fun hn => hmute n (by rw [hwin]; exact not_not.mp hn)

/-- A core that runs halts: every channel is disarmed and the halt is shown. -/
theorem execDebugHalt_of_runs {q : Sys2Proof.CoreIx} (hdbg : s.rd .KCT_CFG_DEBUG_EN = 1)
    (hrun : bit q (s.rd .PCR_CTRL_RUN) = true) (hhalt : bit q (s.rd .PCR_CTRL_HALTED) = false) : execDebugHalt q s =
      .next ((s.disarmAll.set1 .PWM_GLOBAL_DBG_SAFE).wr .PCR_CTRL_HALTED 0 (s.rd .PCR_CTRL_HALTED + 2 ^ q.val)) :=
  congrArg Host.Outcome.next (if_pos (by simp [State.is, hdbg, hrun, hhalt]))

end

/-- Settles O46: a trip is a review of a channel that is held, and a stop is a review of every channel disarmed. -/
theorem linePowerTrips : Obligations.LinePowerTrips := by
  unfold Obligations.LinePowerTrips
  refine ⟨fun s k b c hs hk hg hf hlim hblank => ⟨_, execG3Trip_of_due hk hg hf hlim hblank, ?_⟩,
    fun s i hs h => ⟨_, rfl, ?_⟩, fun s i hs h => ⟨_, congrArg Host.Outcome.next (if_pos h), ?_⟩,
    fun s i hs hact hlatch => ⟨_, rfl, fltClear_spec hs i hact hlatch⟩,
    fun s i hs h => ⟨_, rfl, if_pos (by rw [h, Bool.true_or])⟩, fun s hs => ⟨_, rfl, ?_⟩, fun s q hs hdbg hrun hhalt => ?_⟩
  · have hmark := updPwm_keeps s k fun x => if b then { x with ovLow := none } else { x with ocLow := none }
    have hcount := hmark.reads (hs.reads .PWM_COUNT1_G3_TRIPS k)
    cases b
    · exact g3Trip_of_cause hcount (hmark.windowOut k) hk 0x09
    · exact g3Trip_of_cause hcount (hmark.windowOut k) hk 0x0A
  · obtain ⟨hact, hlatch, hcount⟩ := latchFlt_spec hs i h
    have hl := (latchFlt_keeps s i).canon hs
    refine ⟨?_, ?_, (fltActivate_reads i h ⟨hl, hcount⟩).eq, fun k => ?_⟩
    · rw [(fltActivate_reads i h ⟨hl, rfl⟩).eq]
      exact hact
    · rw [(fltActivate_reads i h ⟨hl, rfl⟩).eq]
      exact hlatch
    · rcases Bool.eq_false_or_eq_true (s.fltMaps i k) with hmap | hmap
      · obtain ⟨hsafe, hfault⟩ := fltActivate_spec hs i h k hmap
        exact .inr ⟨hsafe.run, hsafe.hold, hfault⟩
      · exact .inl hmap
  · refine ⟨?_, ((wr_keeps ..).reads (hs.reads ..)).eq, rfl⟩
    rw [hs.reads_wr_mod.eq, bit_mod_two_pow (show i.val < Field.PWM_FLT_ACT.row.width from i.isLt)]
    exact bit_sub_two_pow h
  · have hd : s.disarmAll.canonical := (disarmAll_keeps ..).canon hs
    refine ⟨hd.reads_wr.eq, fun k => ?_⟩
    obtain ⟨-, harm, hstate, hrun⟩ := (set1_keeps s.disarmAll .PWM_GLOBAL_CLK_STOP 0).chanOff (disarmAll_spec hs k)
    exact ⟨harm, hstate, hrun⟩
  · have hsafe : (s.disarmAll.set1 .PWM_GLOBAL_DBG_SAFE).reads .PWM_GLOBAL_DBG_SAFE 0 1 :=
      ((disarmAll_keeps ..).canon hs).reads_wr
    refine ⟨_, execDebugHalt_of_runs hdbg hrun hhalt, ?_, ((wr_keeps ..).reads hsafe).eq, fun k => ?_⟩
    · rw [hsafe.canon.reads_wr_mod.eq, bit_mod_two_pow (show q.val < Field.PCR_CTRL_HALTED.row.width from q.isLt)]
      exact bit_add_two_pow hhalt
    · obtain ⟨-, harm, -, hoff⟩ := (wr_keeps _ .PCR_CTRL_HALTED 0 (s.rd .PCR_CTRL_HALTED + 2 ^ q.val)).chanOff
        ((set1_keeps s.disarmAll .PWM_GLOBAL_DBG_SAFE 0).chanOff (disarmAll_spec hs k))
      exact ⟨harm, hoff⟩

end Sys2Proof.Machine
end

section
/-!
SUPPORT. Accesses to registers (20_register_map.md R432 to R437, 18_scrim_host.md R390, R421): what an access meets before any
register, the register that an offset names, and what a write and a read do by the access codes.
-/

namespace Sys2Proof.Machine

-- One proof after another, as in the files under Laws: each waits for the kernel's evaluations.
set_option Elab.async false

section
variable {s t : State} {who : Sys2Proof.Requester} {off w : Nat} {fs : List (Field × Nat)}

/-! ### Before any register (R390, R421, R435) -/

theorem access_host_up (ha : off % 4 = 0) (hup : s.rd .SCR_HSTATUS_FIELD_UP = 1) (store : Bool) (act : State → State) :
    s.access .host off store act = act s := by
  unfold State.access
  rw [if_neg (by omega)]
  exact if_neg (by simp [State.is, hup])

/-- While the field is down a host access of the field half only counts. -/
theorem access_host_absent (hoff : off < 0x80000) (ha : off % 4 = 0) (hup : s.rd .SCR_HSTATUS_FIELD_UP = 0) (store : Bool)
    (act : State → State) : s.access .host off store act = s.absentAccess (if store then none else some 1) := by
  unfold State.access
  rw [if_neg (by omega)]
  exact if_pos ⟨hoff, by simp [State.is, hup]⟩

theorem access_core_read {q : Sys2Proof.CoreIx} (hoff : off < 0x80000) (act : State → State) :
    s.access (.core q) off false act = act (s.remote q) := by
  unfold State.access
  exact if_neg (by simp; omega)

/-- A store of a core to the host half, or an unaligned one, is an access fault. -/
theorem access_core_fault {q : Sys2Proof.CoreIx} (h : 0x80000 ≤ off ∨ off % 4 ≠ 0) (act : State → State) :
    s.access (.core q) off true act = (s.remote q).accessFault q (0x40000000 + off) := by
  unfold State.access
  exact if_pos (by simpa using h)

theorem accessFault_spec (hs : s.canonical) (q : Nat) {addr : Nat} (ha : addr < 2 ^ 32) :
    (s.accessFault q addr).reads .PCR_FAULT_ADDR q addr ∧
    (s.accessFault q addr).reads .PCR_COUNT_FAULTS q (min (s.rd .PCR_COUNT_FAULTS q + 1) (2 ^ Field.PCR_COUNT_FAULTS.row.width - 1)) := by
  have haddr := hs.reads_wr (f := .PCR_FAULT_ADDR) (i := q) (hv := ha)
  have hcount := (wr_keeps s .PCR_FAULT_ADDR q addr).reads (hs.reads .PCR_COUNT_FAULTS q)
  exact ⟨(bump_keeps ..).reads haddr, hcount.eq ▸ hcount.canon.reads_bump⟩

/-! ### The register that an offset names (R428) -/

/-- Outside the blocks with select registers an offset names the fields of its register, the same for each requester. -/
theorem regAt_of_plain (s : State) (who : Sys2Proof.Requester) (hp : ∀ q, plainFields off q = fs)
    (hsel : selectField (off / 4096) = none := by decide +kernel)
    (hall : fs.all (fun x => !x.1.copied && !absent x) = true := by decide +kernel) (hne : fs ≠ [] := by decide +kernel) :
    s.regAt who off = ⟨fs, false⟩ := by
  have hmem (x) (hx : x ∈ fs) : x.1.copied = false ∧ absent x = false := by simpa using List.all_eq_true.mp hall x hx
  have hplain : fs.filter (fun x => !(isHost who && x.1.copied)) = fs :=
    List.filter_eq_self.mpr fun x hx => by simp [(hmem x hx).1]
  have habsent : fs.filter (fun x => !absent x) = fs := List.filter_eq_self.mpr fun x hx => by simp [(hmem x hx).2]
  unfold State.regAt
  simp only [hp, hsel, hplain, habsent, hne, ne_eq, not_false_eq_true, if_true]

/-! ### Writes by the access codes (R432, R433) -/

theorem storeField_rw {f : Field} (ha : f.row.access = .rw) (i : Nat) : s.storeField who w (f, i) = s.wr f i (f.slice w) := by
  simp only [State.storeField, ha]

theorem storeField_fw_host {f : Field} (ha : f.row.access = .fw) (i : Nat) : s.storeField .host w (f, i) = s := by
  simp only [State.storeField, ha, isHost, if_true]

theorem storeField_fw_core {f : Field} (ha : f.row.access = .fw) (q : Sys2Proof.CoreIx) (i : Nat) :
    s.storeField (.core q) w (f, i) = s.wr f i (f.slice w) := by
  simp only [State.storeField, ha, isHost, Bool.false_eq_true, if_false]

theorem storeField_w1c {f : Field} (ha : f.row.access = .w1c) (i : Nat) :
    s.storeField who w (f, i) = s.wr f i (s.rd f i - Nat.land (s.rd f i) (f.slice w)) := by
  simp only [State.storeField, ha]

/-- No write reaches a field of another code. -/
theorem storeField_other {f : Field} (ha : f.row.access ≠ .rw ∧ f.row.access ≠ .fw ∧ f.row.access ≠ .w1c) (i : Nat) :
    s.storeField who w (f, i) = s := by
  obtain ⟨hrw, hfw, hw1c⟩ := ha
  unfold State.storeField
  split
  case h_1 h => exact absurd h hrw
  case h_2 h => exact absurd h hfw
  case h_3 h => exact absurd h hw1c
  case h_4 => rfl

/-- What a write counts before it reaches the fields: an attempt on a locked KL field (R433). -/
def State.countLocked (s : State) (w : Nat) (fs : List (Field × Nat)) : State :=
  if s.breaksLock w fs then s.bump .KCT_COUNT_KL_WRITES else s

theorem countLocked_keeps (s : State) (w : Nat) (fs : List (Field × Nat)) :
    State.keeps (writes [.KCT_COUNT_KL_WRITES] []) s (s.countLocked w fs) :=
  State.keeps.ite (fun _ => bump_keeps ..) fun _ => .refl

/-- A write to a register whose fields say all that it does. -/
theorem writeReg_of_plain {f : Field} {i : Nat} {rest : List (Field × Nat)} (hp : ∀ q, plainFields off q = (f, i) :: rest)
    (hopen : s.hostShut who off = false)
    (hshared : ∀ u : State, u.writeShared who f i w ((f, i) :: rest) = none := by intro _; rfl)
    (hfw : ∀ u : State, ∀ q, u.writeFirmware q f i w ((f, i) :: rest) = none := by intro _ _; rfl)
    (hoff : off < 0x80000 := by decide +kernel) (hsel : selectField (off / 4096) = none := by decide +kernel)
    (hall : ((f, i) :: rest).all (fun x => !x.1.copied && !absent x) = true := by decide +kernel) :
    s.writeReg who off w = (s.countLocked w ((f, i) :: rest)).storeFields who w ((f, i) :: rest) := by
  unfold State.writeReg
  rw [if_neg (by omega), if_neg (Bool.eq_false_iff.mp hopen), regAt_of_plain s who hp hsel hall (hne := List.cons_ne_nil _ _)]
  simp only [Bool.false_eq_true, if_false, State.writeFields, hshared, hfw, Option.getD_none, ite_self]
  rfl

/-- A host write is taken in RUN. -/
theorem hostShut_of_run (h : s.rd .KCT_STATUS_STATE = 4) (who : Sys2Proof.Requester) (off : Nat) : s.hostShut who off = false := by
  simp [State.hostShut, h]

theorem hostShut_core (s : State) (q : Sys2Proof.CoreIx) (off : Nat) : s.hostShut (.core q) off = false := by
  simp [State.hostShut, isHost]

/-- While the image loads a host write of a register outside the KCT block is discarded (R434). -/
theorem writeReg_of_loading (h : s.rd .KCT_STATUS_STATE ≤ 3) (hoff : 0x1000 ≤ off ∧ off < 0x80000) : s.writeReg .host off w = s := by
  unfold State.writeReg
  rw [if_neg (by omega)]
  exact if_pos (by simp [State.hostShut, isHost, hoff, h])

theorem plainFields_frsClrId (q : Nat) : plainFields 0x3034 q = [(.FRS_CLR_ID_INDEX, 0)] := rfl

theorem plainFields_fwQuiet (q : Nat) : plainFields 0x2014 q = [(.FCL_FW_QUIET_FW_QUIET, 0)] := rfl

theorem plainFields_thmLim (q : Nat) : plainFields 0x5004 q = [(.THM_LIM_WARN, 0), (.THM_LIM_TRIP, 0)] := rfl

theorem plainFields_frsStatus (q : Nat) : plainFields 0x3000 q =
    [(.FRS_STATUS_MEDIUM_FAIL, 0), (.FRS_STATUS_FLOOD, 0), (.FRS_STATUS_BB_FAIL, 0), (.FRS_STATUS_CLEARING, 0),
      (.FRS_STATUS_CLR_REFUSED, 0), (.FRS_STATUS_CLR_LOCK, 0), (.FRS_STATUS_FLUSH_WAIT, 0)] := rfl

theorem plainFields_frsCount (q : Nat) : plainFields 0x3024 q = [(.FRS_COUNT_SUMMARIES, 0), (.FRS_COUNT_COALESCED, 0)] := rfl

theorem plainFields_frsNextLo (q : Nat) : plainFields 0x3004 q = [(.FRS_NEXT_LO_SEQ, 0)] := rfl

theorem plainFields_frsNextHi (q : Nat) : plainFields 0x3008 q = [(.FRS_NEXT_HI_SEQ, 0)] := rfl

/-! ### Reads (R432, R437) -/

/-- A read latches nothing where the register is no LO register. -/
theorem latchWide_of_none {f : Field} (h : (widePairsAt false).find? (fun p => p.1 == f) = none) (i : Nat) :
    s.latchWide who false f i = s := by
  simp only [State.latchWide, h]

/-- The HI register behind a LO register is latched for the requester. -/
theorem latchWide_of_some {f lo hi : Field} (h : (widePairsAt false).find? (fun p => p.1 == f) = some (lo, hi)) (i : Nat) :
    s.latchWide who false f i = s.setReader (requesterIx who) { s.reader (requesterIx who) with
      wide := some { off := fieldKey hi i, word := BitVec.ofNat 32 (s.rd hi i) } } := by
  simp only [State.latchWide, h]

/-- The registers whose read does more than the access codes say. -/
def readsSpecially (f : Field) : Bool :=
  [Field.CNT_LO_COUNT_LO, .CNT_HI_COUNT_HI, .CNT_PS_DATA_WORD, .CNT_PS_WIN_WORD, .PLB_TIME0_FRAC, .MON_QUEUE_ENTRY,
    .CHZ_COEF_DATA_COEF].contains f

/-- A read of a register whose fields say all that it does: the word is answered, a wide value latched, and the RC fields
clear. -/
theorem readReg_of_plain {f : Field} {i : Nat} {rest : List (Field × Nat)} (hp : ∀ q, plainFields off q = (f, i) :: rest)
    (hwho : isHost who = false) (hf : readsSpecially f = false := by decide +kernel)
    (hoff : off < 0x80000 := by decide +kernel) (hsel : selectField (off / 4096) = none := by decide +kernel)
    (hall : ((f, i) :: rest).all (fun x => !x.1.copied && !absent x) = true := by decide +kernel) :
    s.readReg who off =
      ((s.answer who (s.readWord who ((f, i) :: rest))).latchWide who false f i).clearRead ((f, i) :: rest) := by
  unfold State.readReg
  rw [regAt_of_plain s who hp hsel hall (hne := List.cons_ne_nil _ _)]
  extract_lets x
  rw [if_neg (by omega), if_neg (by omega), if_neg (by simp [hwho])]
  simp only [x, Bool.false_eq_true, if_false]
  split
  case h_8 => rfl
  all_goals cases hf

/-- What a field adds to the word that its register shows. -/
def State.shown (s : State) (x : Field × Nat) : Nat := place x.1.row.lo x.1.row.width (s.fieldWord x)

/-- Without a latch a read returns what the fields show. -/
theorem readWord_of_none {f : Field} (hw : (s.reader (requesterIx who)).wide = none)
    (hf : f ≠ .PLB_TIME1_NS_HI ∧ f ≠ .PLB_TIME2_SEC_HI) (i : Nat) (rest : List (Field × Nat)) :
    s.readWord who ((f, i) :: rest) = s.shown (f, i) + (rest.map s.shown).sum := by
  rw [← List.sum_cons, ← List.map_cons]
  unfold State.readWord
  extract_lets now r
  dsimp only
  split
  case h_1 => exact absurd rfl hf.1
  case h_2 => exact absurd rfl hf.2
  case h_3 hl _ _ => exact absurd (hl.symm.trans hw) (by simp)
  case h_4 => rfl

/-- A value that fits its field is placed whole. -/
theorem place_of_lt {v k : Nat} (h : v < 2 ^ k) (lo : Nat) : place lo k v = 2 ^ lo * v := by
  rw [place, Nat.mod_eq_of_lt h, Nat.mul_comm]

theorem shown_frsSummaries (hs : s.canonical) : s.shown (.FRS_COUNT_SUMMARIES, 0) = s.rd .FRS_COUNT_SUMMARIES := by
  have hlt : s.rd .FRS_COUNT_SUMMARIES < 2 ^ 16 := State.rd_lt hs ..
  exact (place_of_lt hlt 0).trans (Nat.one_mul _)

theorem shown_frsCoalesced (hs : s.canonical) : s.shown (.FRS_COUNT_COALESCED, 0) = 65536 * s.rd .FRS_COUNT_COALESCED := by
  have hlt : s.rd .FRS_COUNT_COALESCED < 2 ^ 16 := State.rd_lt hs ..
  exact place_of_lt hlt 16

theorem shown_frsNextLo (hs : s.canonical) : s.shown (.FRS_NEXT_LO_SEQ, 0) = s.rd .FRS_NEXT_LO_SEQ := by
  have hlt : s.rd .FRS_NEXT_LO_SEQ < 2 ^ 32 := State.rd_lt hs ..
  exact (place_of_lt hlt 0).trans (Nat.one_mul _)

theorem readWord_frsCount (hs : s.canonical) (hw : (s.reader (requesterIx who)).wide = none) :
    s.readWord who [(.FRS_COUNT_SUMMARIES, 0), (.FRS_COUNT_COALESCED, 0)] =
      s.rd .FRS_COUNT_SUMMARIES + 65536 * s.rd .FRS_COUNT_COALESCED := by
  rw [readWord_of_none hw (by decide), List.map_cons, List.map_nil, List.sum_cons, List.sum_nil, shown_frsSummaries hs,
    shown_frsCoalesced hs, Nat.add_zero]

theorem readWord_frsNextLo (hs : s.canonical) (hw : (s.reader (requesterIx who)).wide = none) :
    s.readWord who [(.FRS_NEXT_LO_SEQ, 0)] = s.rd .FRS_NEXT_LO_SEQ := by
  rw [readWord_of_none hw (by decide), List.map_nil, List.sum_nil, shown_frsNextLo hs, Nat.add_zero]

/-- A read of HI by the requester that read LO returns the latch. -/
theorem readWord_frsNextHi {v : Sys2Proof.Word}
    (hw : (s.reader (requesterIx who)).wide = some ⟨fieldKey .FRS_NEXT_HI_SEQ 0, v⟩) :
    s.readWord who [(.FRS_NEXT_HI_SEQ, 0)] = v.toNat := by
  unfold State.readWord
  simp only [hw, if_true]

theorem answer_reader (hs : s.canonical) (who : Sys2Proof.Requester) (v : Nat) :
    (s.answer who v).reader (requesterIx who) = { s.reader (requesterIx who) with data := BitVec.ofNat 32 v } := by
  unfold State.answer
  rw [State.reader_setReader hs.readers, if_pos rfl]

/-- The RC fields of a register that a requester reads are 0 after it. -/
theorem clearRead_frsCount (hs : s.canonical) :
    (s.clearRead [(.FRS_COUNT_SUMMARIES, 0), (.FRS_COUNT_COALESCED, 0)]).reads .FRS_COUNT_SUMMARIES 0 0 ∧
    (s.clearRead [(.FRS_COUNT_SUMMARIES, 0), (.FRS_COUNT_COALESCED, 0)]).reads .FRS_COUNT_COALESCED 0 0 := by
  have heq : s.clearRead [(.FRS_COUNT_SUMMARIES, 0), (.FRS_COUNT_COALESCED, 0)] =
      (s.clr .FRS_COUNT_SUMMARIES).clr .FRS_COUNT_COALESCED := by
    have hsum : Field.FRS_COUNT_SUMMARIES.row.access = .rc := rfl
    have hcoal : Field.FRS_COUNT_COALESCED.row.access = .rc := rfl
    simp only [State.clearRead, List.foldl_cons, List.foldl_nil, hsum, hcoal, if_true]
  have hfirst : (s.clr .FRS_COUNT_SUMMARIES).reads .FRS_COUNT_SUMMARIES 0 0 := hs.reads_wr
  rw [heq]
  exact ⟨(clr_keeps ..).reads hfirst, hfirst.canon.reads_wr⟩

/-! ### The registers that the statement names -/

/-- A store, and a read, by a requester at an offset. -/
def State.storeAt (s : State) (who : Sys2Proof.Requester) (off w : Nat) : State :=
  s.access who off true fun t => t.writeReg who off w

def State.loadAt (s : State) (who : Sys2Proof.Requester) (off : Nat) : State :=
  s.access who off false fun t => t.readReg who (off / 4 * 4)

/-- A store of a core to a register whose fields say all that it does. -/
theorem storeAt_core_of_plain {q : Sys2Proof.CoreIx} {f : Field} {i : Nat} {rest : List (Field × Nat)} (hs : s.canonical)
    (hp : ∀ k, plainFields off k = (f, i) :: rest)
    (hshared : ∀ u : State, u.writeShared (.core q) f i w ((f, i) :: rest) = none := by intro _; rfl)
    (hfw : ∀ u : State, ∀ k, u.writeFirmware k f i w ((f, i) :: rest) = none := by intro _ _; rfl)
    (hoff : off < 0x80000 ∧ off % 4 = 0 := by decide +kernel) (hsel : selectField (off / 4096) = none := by decide +kernel)
    (hall : ((f, i) :: rest).all (fun x => !x.1.copied && !absent x) = true := by decide +kernel) :
    ∃ c, ({ s with cnt := c } : State).canonical ∧ s.storeAt (.core q) off w =
      (({ s with cnt := c } : State).countLocked w ((f, i) :: rest)).storeFields (.core q) w ((f, i) :: rest) := by
  obtain ⟨c, hc⟩ := s.remote_eq_put_cnt q
  refine ⟨c, { hs with }, ?_⟩
  rw [State.storeAt, access_core_store hoff.1 hoff.2, hc]
  exact writeReg_of_plain hp (hostShut_core ..) hshared hfw hoff.1 hsel hall

/-- A read by a core of a register whose fields say all that it does. -/
theorem loadAt_core_of_plain {q : Sys2Proof.CoreIx} {f : Field} {i : Nat} {rest : List (Field × Nat)} (hs : s.canonical)
    (hp : ∀ k, plainFields off k = (f, i) :: rest) (hf : readsSpecially f = false := by decide +kernel)
    (hoff : off < 0x80000 ∧ off / 4 * 4 = off := by decide +kernel) (hsel : selectField (off / 4096) = none := by decide +kernel)
    (hall : ((f, i) :: rest).all (fun x => !x.1.copied && !absent x) = true := by decide +kernel) :
    ∃ c, ({ s with cnt := c } : State).canonical ∧ s.loadAt (.core q) off =
      ((({ s with cnt := c } : State).answer (.core q) (({ s with cnt := c } : State).readWord (.core q) ((f, i) :: rest))).latchWide
        (.core q) false f i).clearRead ((f, i) :: rest) := by
  obtain ⟨c, hc⟩ := s.remote_eq_put_cnt q
  refine ⟨c, { hs with }, ?_⟩
  rw [State.loadAt, access_core_read hoff.1, hc, hoff.2]
  exact readReg_of_plain hp rfl hf hoff.1 hsel hall

/-- The write of FRS_STATUS reaches its one W1C field. -/
theorem storeFields_frsStatus (s : State) (who : Sys2Proof.Requester) (w : Nat) :
    s.storeFields who w (plainFields 0x3000 0) = s.wr .FRS_STATUS_CLR_REFUSED 0
      (s.rd .FRS_STATUS_CLR_REFUSED - Nat.land (s.rd .FRS_STATUS_CLR_REFUSED) (bits 4 1 w)) := rfl

/-- A bit written 1 clears and a bit written 0 stays. -/
theorem sub_land_bit {x : Nat} (hx : x < 2) (b : Bool) : x - Nat.land x (flag b) = if b then 0 else x := by
  cases b <;> interval_cases x <;> rfl

theorem bits_one_eq_flag (k w : Nat) : bits k 1 w = flag (bit k w) := (flag_bit k w).symm

theorem storeFields_clrRefused (hs : s.canonical) (who : Sys2Proof.Requester) (w : Nat) :
    (s.storeFields who w (plainFields 0x3000 0)).rd .FRS_STATUS_CLR_REFUSED =
      if bit 4 w then 0 else s.rd .FRS_STATUS_CLR_REFUSED := by
  have hlt : s.rd .FRS_STATUS_CLR_REFUSED < 2 := State.rd_lt hs ..
  rw [storeFields_frsStatus, bits_one_eq_flag, sub_land_bit hlt]
  refine (hs.reads_wr (hv := ?_)).eq
  change _ < 2
  split <;> omega

/-- Other bits for a locked KL field are counted and reach no field (R433). -/
theorem storeFields_thmLim {fs : List (Field × Nat)} (hfs : fs = [(.THM_LIM_WARN, 0), (.THM_LIM_TRIP, 0)])
    (hlock : s.rd .KCT_STATUS_LOCKED = 1) (hbits : bits 16 16 w ≠ s.rd .THM_LIM_TRIP) (who : Sys2Proof.Requester) :
    (s.countLocked w fs).storeFields who w fs = s.bump .KCT_COUNT_KL_WRITES := by
  have hbreaks : s.breaksLock w fs = true := by
    subst hfs
    have htrip : (Field.THM_LIM_TRIP.slice w != s.rd .THM_LIM_TRIP) = true := bne_iff_ne.mpr hbits
    simp [State.breaksLock, State.is, hlock, htrip, show Field.locked .THM_LIM_TRIP = true from rfl]
  rw [State.countLocked, if_pos hbreaks, hfs]
  rfl

/-- A LO read latches HI for its requester and touches no register. -/
theorem latchWide_frsNextLo (hs : s.canonical) (who : Sys2Proof.Requester) (v : Nat) :
    let t := ((s.answer who v).latchWide who false .FRS_NEXT_LO_SEQ 0).clearRead [(.FRS_NEXT_LO_SEQ, 0)]
    (t.reader (requesterIx who)).data = BitVec.ofNat 32 v ∧
    (t.reader (requesterIx who)).wide = some ⟨fieldKey .FRS_NEXT_HI_SEQ 0, BitVec.ofNat 32 (s.rd .FRS_NEXT_HI_SEQ)⟩ ∧
    t.regs = s.regs := by
  intro t
  have hanswer := answer_reader hs who v
  have hcanon : (s.answer who v).canonical := (answer_keeps ..).canon hs
  have ht : t = (s.answer who v).setReader (requesterIx who) { (s.answer who v).reader (requesterIx who) with
      wide := some { off := fieldKey .FRS_NEXT_HI_SEQ 0, word := BitVec.ofNat 32 (s.rd .FRS_NEXT_HI_SEQ) } } := rfl
  have hreader := State.reader_setReader hcanon.readers (requesterIx who) { (s.answer who v).reader (requesterIx who) with
    wide := some { off := fieldKey .FRS_NEXT_HI_SEQ 0, word := BitVec.ofNat 32 (s.rd .FRS_NEXT_HI_SEQ) } } (requesterIx who)
  rw [if_pos rfl] at hreader
  rw [ht, hreader, hanswer]
  exact ⟨rfl, rfl, rfl⟩

end

/-- Settles O60: an access meets the rules of its requester, and the fields of the register it reaches act by their access
codes. -/
theorem registerAccess : Obligations.RegisterAccess := by
  unfold Obligations.RegisterAccess
  refine ⟨fun s w hs hup hrun => ⟨s.storeAt .host 0x3034 w.toNat, rfl, ?_⟩,
    fun s w hs hup hload => ⟨s.storeAt .host 0x3034 w.toNat, rfl, ?_⟩,
    fun s w hs hrun => ⟨s.storeAt .host 0x2014 w.toNat, rfl, ?_⟩,
    fun s q w hs => ⟨s.storeAt (.core q) 0x2014 w.toNat, rfl, ?_⟩,
    fun s q w hs hb => ⟨s.storeAt (.core q) 0x3000 w.toNat, rfl, ?_⟩,
    fun s q w hs hb => ⟨s.storeAt (.core q) 0x3000 w.toNat, rfl, ?_⟩,
    fun s q w hs hlock hbits => ⟨s.storeAt (.core q) 0x5004 w.toNat, rfl, ?_⟩,
    fun s off w hs hoff ha hdown => ⟨_, rfl, access_host_absent hoff ha hdown true _⟩,
    fun s off hs hoff ha hdown => ⟨_, congrArg Host.Outcome.next (access_host_absent hoff ha hdown false _), rfl, ?_, rfl⟩,
    fun s q off w hs hoff => ⟨_, congrArg Host.Outcome.next (access_core_fault hoff _), ?_⟩,
    fun s q hs hw => ⟨s.loadAt (.core q) 0x3024, rfl, ?_⟩, fun s q hs hw => ⟨s.loadAt (.core q) 0x3004, rfl, ?_⟩,
    fun s q w hs hw => ⟨s.loadAt (.core q) 0x3008, rfl, ?_⟩⟩
  · rw [State.storeAt, access_host_up (by decide) hup, writeReg_of_plain plainFields_frsClrId (hostShut_of_run hrun .host _)]
    exact (((countLocked_keeps ..).canon hs).reads_wr (hv := bits_lt ..)).eq
  · rw [State.storeAt, access_host_up (by decide) hup, writeReg_of_loading hload (by decide)]
  · rcases Nat.lt_or_ge (s.rd .SCR_HSTATUS_FIELD_UP) 1 with hdown | hup
    · rw [State.storeAt, access_host_absent (by decide) (by decide) (by omega)]
      exact ((absentAccess_keeps ..).reads (hs.reads ..)).eq
    · have hlt : s.rd .SCR_HSTATUS_FIELD_UP < 2 := State.rd_lt hs ..
      rw [State.storeAt, access_host_up (by decide) (by omega), writeReg_of_plain plainFields_fwQuiet (hostShut_of_run hrun .host _)]
      exact ((countLocked_keeps ..).reads (hs.reads ..)).eq
  · obtain ⟨c, hc, heq⟩ := storeAt_core_of_plain (q := q) (w := w.toNat) hs plainFields_fwQuiet
    rw [heq]
    exact (((countLocked_keeps ..).canon hc).reads_wr (hv := bits_lt ..)).eq
  · obtain ⟨c, hc, heq⟩ := storeAt_core_of_plain (q := q) (w := w.toNat) hs plainFields_frsStatus
    rw [heq]
    exact (storeFields_clrRefused ((countLocked_keeps ..).canon hc) ..).trans (if_pos hb)
  · obtain ⟨c, hc, heq⟩ := storeAt_core_of_plain (q := q) (w := w.toNat) hs plainFields_frsStatus
    have hkept := (countLocked_keeps { s with cnt := c } w.toNat (plainFields 0x3000 0)).reads (hc.reads .FRS_STATUS_CLR_REFUSED 0)
    rw [heq]
    exact (storeFields_clrRefused hkept.canon ..).trans ((if_neg (by simp [hb])).trans hkept.eq)
  · obtain ⟨c, hc, heq⟩ := storeAt_core_of_plain (q := q) (w := w.toNat) hs plainFields_thmLim
    rw [heq, storeFields_thmLim (s := { s with cnt := c }) rfl hlock hbits]
    exact ⟨((bump_keeps ..).reads (hc.reads .THM_LIM_TRIP 0)).eq, hc.reads_bump.eq⟩
  · exact hs.reads_bump.eq
  · obtain ⟨c, hc⟩ := s.remote_eq_put_cnt q
    rw [hc]
    have hlt : off.toNat < 2 ^ 20 := off.isLt
    obtain ⟨haddr, hcount⟩ := accessFault_spec (s := { s with cnt := c }) { hs with } q (addr := 0x40000000 + off.toNat)
      (by omega)
    exact ⟨haddr.eq, hcount.eq⟩
  · obtain ⟨c, hc, heq⟩ := loadAt_core_of_plain (q := q) hs plainFields_frsCount
    rw [heq, latchWide_of_none (f := .FRS_COUNT_SUMMARIES) rfl, readWord_frsCount (who := .core q) hc hw]
    have hread := (answer_keeps { s with cnt := c } (.core q) (s.rd .FRS_COUNT_SUMMARIES + 65536 * s.rd .FRS_COUNT_COALESCED))
    obtain ⟨hsum, hcoal⟩ := clearRead_frsCount (hread.canon hc)
    exact ⟨congrArg Reader.data (answer_reader hc (.core q) _), hsum.eq, hcoal.eq⟩
  · obtain ⟨c, hc, heq⟩ := loadAt_core_of_plain (q := q) hs plainFields_frsNextLo
    rw [heq, readWord_frsNextLo (who := .core q) hc hw]
    exact latchWide_frsNextLo hc (.core q) _
  · obtain ⟨c, hc, heq⟩ := loadAt_core_of_plain (q := q) hs plainFields_frsNextHi
    rw [heq, latchWide_of_none (f := .FRS_NEXT_HI_SEQ) rfl, readWord_frsNextHi hw]
    have hanswer := answer_reader hc (.core q) w.toNat
    have hdata : ((({ s with cnt := c } : State).answer (.core q) w.toNat).reader (requesterIx (.core q))).data = w :=
      (congrArg Reader.data hanswer).trans (by simp)
    have hwide := congrArg Reader.wide hanswer
    exact ⟨hdata, hwide⟩

end Sys2Proof.Machine
end

section
/-!
SUPPORT. The records of Fresco (16_fresco.md R360 to R367): what writing a record leaves of the ring and of the queue, the end
of the external ring, and what firmware queues.
-/

namespace Sys2Proof.Machine

-- One proof after another, as in the files under Laws: each waits for the kernel's evaluations.
set_option Elab.async false

section
variable {s : State} {e : FrEvent} {es : List FrEvent}

/-! ### Writing a record (R360, R361) -/

/-- What FRS_NEXT and the others show is no part of Fresco's state. -/
theorem showFresco_frs (s : State) : s.showFresco.frs = s.frs := (showFresco_keeps s).parts .frs (by decide +kernel)

/-- The record that an event becomes. -/
def State.recordOf (s : State) (e : FrEvent) : FrRecord :=
  { seq := s.frs.next, type := e.type, inj := e.inj, onDie := s.is .FRS_STATUS_MEDIUM_FAIL, time := e.time,
    epoch := s.rd .PLB_COUNT_EPOCH, source := e.source, body := e.body }

/-- A record takes the next number and nothing from the queue. -/
theorem writeRecord_frs (s : State) (e : FrEvent) :
    (s.writeRecord e).frs.queue = s.frs.queue ∧ (s.writeRecord e).frs.next = s.frs.next + 1 := by
  unfold State.writeRecord State.tally State.tallyMask
  extract_lets
  rw [showFresco_frs]
  exact ⟨rfl, rfl⟩

/-- While the external ring is in use the record goes to its slot there. -/
theorem writeRecord_ring (h : s.is .FRS_STATUS_MEDIUM_FAIL = false) (e : FrEvent) :
    (s.writeRecord e).frs.ring = Store.set (fun _ => none) s.frs.ring (s.frs.next % ringSlots) (some (s.recordOf e)) := by
  unfold State.writeRecord State.tally State.tallyMask State.recordOf
  extract_lets f die r size ring
  rw [showFresco_frs]
  change ring = _
  simp only [ring, size, r, die, f, h, Bool.false_eq_true, if_false]

/-- The record of the next number is the event. -/
theorem writeRecord_ringAt (hs : s.canonical) (h : s.rd .FRS_STATUS_MEDIUM_FAIL = 0) (e : FrEvent) :
    (s.writeRecord e).ringAt s.frs.next = some (s.recordOf e) := by
  have hend : (s.writeRecord e).is .FRS_STATUS_MEDIUM_FAIL = false := ((writeRecord_keeps s e).reads ⟨hs, h⟩).is
  have hin : s.is .FRS_STATUS_MEDIUM_FAIL = false := (State.reads.mk hs h).is
  rw [State.ringAt, hend, if_neg (by decide), writeRecord_ring hin]
  exact Store.get_set_self_of_ne (by simp) _

/-- The oldest event becomes a record. -/
def State.writeOldest (s : State) (e : FrEvent) (es : List FrEvent) : State :=
  { s with frs := { s.frs with queue := es } }.writeRecord e

theorem execFrescoRecordWrite_of_good (hq : s.frs.queue = e :: es) (hm : s.frs.next ≤ s.frs.mark) :
    execFrescoRecordWrite false s = .next (s.writeOldest e es) := by
  unfold execFrescoRecordWrite
  rw [hq]
  exact congrArg Host.Outcome.next ((if_neg (by omega)).trans (if_neg (by simp)))

/-- No record is written with a number above the mark (R364). -/
theorem execFrescoRecordWrite_of_mark (hm : s.frs.mark < s.frs.next) (ue : Bool) : execFrescoRecordWrite ue s = .next s := by
  unfold execFrescoRecordWrite
  split
  · rfl
  · rw [if_pos hm]

/-! ### The end of the external ring (R367) -/

/-- The tile of the next record. -/
def State.nextTile (s : State) : Nat := s.holderOf (recordTile s.frs.next)

theorem execFrescoRecordWrite_of_error (hq : s.frs.queue = e :: es) (hm : s.frs.next ≤ s.frs.mark)
    (h : s.rd .FRS_STATUS_MEDIUM_FAIL = 0) :
    execFrescoRecordWrite true s = .next ((s.memError s.nextTile).mediumFail s.nextTile 4) := by
  unfold execFrescoRecordWrite
  rw [hq]
  exact congrArg Host.Outcome.next ((if_neg (by omega)).trans (if_pos (by simp [State.is, h])))

/-- The external ring out of use: the records of the on-die ring begin with the next. -/
def State.leaveRing (s : State) : State :=
  { s with frs := { s.frs with oldest := s.frs.next, flushNext := s.frs.next } }.set1 .FRS_STATUS_MEDIUM_FAIL

theorem mediumFail_of_first (h : s.rd .FRS_STATUS_MEDIUM_FAIL = 0) (hm : s.frs.next ≤ s.frs.mark) (tile cause : Nat) :
    ∃ ev, s.mediumFail tile cause = (s.leaveRing.writeRecord ev).sendFault 0xB2 0x61 :=
  ⟨_, (if_neg (by simp [State.is, h])).trans (congrArg (State.sendFault · 0xB2 0x61) (if_neg (by omega)))⟩

/-- The first failure ends the use of the external ring: its record takes the next number, and the queue stays. -/
theorem mediumFail_spec (hs : s.canonical) (h : s.rd .FRS_STATUS_MEDIUM_FAIL = 0) (hm : s.frs.next ≤ s.frs.mark)
    (tile cause : Nat) :
    (s.mediumFail tile cause).rd .FRS_STATUS_MEDIUM_FAIL = 1 ∧ (s.mediumFail tile cause).frs.queue = s.frs.queue ∧
    (s.mediumFail tile cause).frs.next = s.frs.next + 1 ∧ (s.mediumFail tile cause).faultWaits 0xB2 0x61 = true := by
  obtain ⟨ev, heq⟩ := mediumFail_of_first h hm tile cause
  have hfail : s.leaveRing.reads .FRS_STATUS_MEDIUM_FAIL 0 1 := by
    unfold State.leaveRing
    exact State.canonical.reads_wr { hs with }
  have hsend := sendFault_keeps (s.leaveRing.writeRecord ev) 0xB2 0x61 0
  have hkept : ((s.leaveRing.writeRecord ev).sendFault 0xB2 0x61).frs = (s.leaveRing.writeRecord ev).frs :=
    hsend.parts .frs (by decide +kernel)
  obtain ⟨hqueue, hnext⟩ := writeRecord_frs s.leaveRing ev
  rw [heq]
  refine ⟨(hsend.reads ((writeRecord_keeps ..).reads hfail)).eq, ?_, ?_, State.faultWaits_sendFault ..⟩
  · rw [hkept, hqueue]
    rfl
  · rw [hkept, hnext]
    rfl

/-! ### Floods and the mark (R364, R366) -/

/-- The flood ends with its summaries behind the queue. -/
def State.endFlood (s : State) : State :=
  let es := summaries s.frs.pairs
  (({ s with frs := { s.frs with queue := s.frs.queue ++ es, pairs := [] } }.clr .FRS_STATUS_FLOOD).bump
    .FRS_COUNT_SUMMARIES 0 es.length).showFresco

theorem endFlood_spec (hs : s.canonical) : s.endFlood.rd .FRS_STATUS_FLOOD = 0 ∧
    s.endFlood.frs.queue = s.frs.queue ++ summaries s.frs.pairs ∧ s.endFlood.frs.pairs = [] := by
  have hclr : ({ s with frs := { s.frs with queue := s.frs.queue ++ summaries s.frs.pairs, pairs := [] } }.clr
      .FRS_STATUS_FLOOD).reads .FRS_STATUS_FLOOD 0 0 :=
    State.canonical.reads_wr (s := { s with frs := _ }) { hs with }
  have hfrs : s.endFlood.frs = { s.frs with queue := s.frs.queue ++ summaries s.frs.pairs, pairs := [] } := by
    unfold State.endFlood
    extract_lets es
    rw [showFresco_frs]
    rfl
  refine ⟨((showFresco_keeps ..).reads ((bump_keeps ..).reads hclr)).eq, ?_, ?_⟩
  · rw [hfrs]
  · rw [hfrs]

/-- In an open flash window the mark moves up. -/
theorem execFrescoMark_of_open (hm : s.frs.mark ≤ s.frs.next + 4096) (h : s.rd .THM_FLASH_WIN_OPEN = 1) :
    execFrescoMark s = .next { s with frs := { s.frs with mark := s.frs.mark + 65536 } } :=
  congrArg Host.Outcome.next ((if_neg (by omega)).trans (if_neg (by simp [State.flashOpen, State.is, h])))

theorem execFrescoMark_of_shut (hm : s.frs.mark ≤ s.frs.next + 4096) (h : s.rd .THM_FLASH_WIN_OPEN = 0) :
    execFrescoMark s = .next s.flashWaits :=
  congrArg Host.Outcome.next ((if_neg (by omega)).trans (if_pos (by simp [State.flashOpen, State.is, h])))

/-! ### Records of firmware (R361) -/

/-- The event of firmware's record. -/
def State.firmwareEvent (s : State) : FrEvent :=
  { type := 0x40, source := s.rd .FRS_FW_CTRL_SOURCE, time := s.now, kind := 0xC0,
    body := (List.range 8).flatMap fun i => leBytes 4 (s.rd .FRS_FW_BODY_DATA i) }

/-- While no flood runs and the queue has room an event goes to its end. -/
theorem recordEvent_of_room (hf : s.rd .FRS_STATUS_FLOOD = 0) (hroom : s.frs.queue.length < 64) (e : FrEvent) :
    (s.recordEvent e).frs.queue = s.frs.queue ++ [e] := by
  unfold State.recordEvent
  rw [if_neg (by simp [State.is, hf]; omega)]
  rfl

end

/-- Settles O52: each command changes the queue, the ring and the mark as named, and what it shows or counts leaves them. -/
theorem frescoRecords : Obligations.FrescoRecords := by
  unfold Obligations.FrescoRecords
  refine ⟨fun s e es hs hq hm hfail _ => ⟨_, execFrescoRecordWrite_of_good hq hm, ?_⟩,
    fun s b hs hm => ⟨_, execFrescoRecordWrite_of_mark hm b, rfl⟩,
    fun s e es hs hq hm hfail => ⟨_, execFrescoRecordWrite_of_error hq hm hfail, ?_⟩,
    fun s hs hflood hlen => ⟨_, congrArg Host.Outcome.next (if_pos ⟨by simp [State.is, hflood], hlen⟩), endFlood_spec hs⟩,
    fun s hs hm hopen => ⟨_, execFrescoMark_of_open hm hopen, rfl, rfl⟩,
    fun s hs hm hopen => ⟨_, execFrescoMark_of_shut hm hopen, rfl, hs.reads_wr.eq⟩,
    fun s q hs hflood hroom => ?_⟩
  · obtain ⟨hqueue, hnext⟩ := writeRecord_frs { s with frs := { s.frs with queue := es } } e
    refine ⟨hqueue, hnext, ?_⟩
    have hring := writeRecord_ringAt (s := { s with frs := { s.frs with queue := es } }) { hs with } hfail e
    exact congrArg (Option.map _) hring
  · have herr := memError_keeps s s.nextTile
    have hfrs : (s.memError s.nextTile).frs = s.frs := herr.parts .frs (by decide +kernel)
    have hspec := mediumFail_spec (herr.canon hs) (herr.reads ⟨hs, hfail⟩).eq (by rw [hfrs]; exact hm) s.nextTile 4
    rw [hfrs, hq] at hspec
    exact hspec
  · obtain ⟨c, hc, heq⟩ := hs.via_core q fun t => t.firmwareRecord
    have hqueue : (({ s with cnt := c } : State).firmwareRecord).frs.queue = s.frs.queue ++ [s.firmwareEvent] :=
      recordEvent_of_room (s := { s with cnt := c }) hflood hroom s.firmwareEvent
    refine ⟨_, congrArg Host.Outcome.next heq, ?_, ?_⟩
    · rw [hqueue, List.length_append, List.length_singleton]
    · rw [hqueue, List.getLast?_concat]
      rfl

end Sys2Proof.Machine
end

section
/-!
SUPPORT. The level of a fault message (14_faults_safety.md R331, R335): the first-source latch shows it in a field of two bits,
and a message of a cause without a base level acts on the level that it carries.
-/

namespace Sys2Proof.Machine

-- One proof after another, as in the files under Laws: each waits for the kernel's evaluations.
set_option Elab.async false

/-- A message of level 4, of a cause to which Table 144 gives no base level. -/
def levelFour : FaultMsg := { source := 0, cause := 0xFF, level := 4 }

/-- The reset state with that message waiting. -/
def levelFourWaits : State := { State.reset with net := { State.reset.net with msgs := [levelFour] } }

theorem levelFourWaits_canonical : levelFourWaits.canonical := { State.reset_canonical with }

/-- No escalation applies, so that the message acts on its own level. -/
theorem levelFourWaits_effective : (levelFourWaits.effective levelFour).1 = 4 := by decide +kernel

/-- Refutes O49: the message of level 4 acts on level 4, which FCL_FIRST_INFO.EFF_LEVEL, two bits wide, cannot show. -/
theorem not_collectorAccepts : ¬ Obligations.CollectorAccepts := by
  unfold Obligations.CollectorAccepts
  rintro ⟨-, hfirst, -⟩
  obtain ⟨t, ht, -, -, -, hshown, -⟩ := hfirst levelFourWaits levelFour [] 0 levelFourWaits_canonical rfl rfl rfl
    (by rw [levelFourWaits_effective]; decide) (by decide +kernel) (by rw [levelFourWaits_effective]; decide +kernel)
  obtain ⟨u, hu, hkeeps⟩ := exec_answers .faultMessage levelFourWaits
  cases hu.symm.trans ht
  have hlt : t.rd .FCL_FIRST_INFO_EFF_LEVEL < 4 := State.rd_lt (hkeeps.canon levelFourWaits_canonical) ..
  rw [levelFourWaits_effective] at hshown
  omega

end Sys2Proof.Machine
end

section
/-!
SUPPORT. The audit of the sample slots (17_counters.md R374): which counts the audit reads, that the slots of a grain enter it
with the same number on both sides, and that nothing else that a grain period does reaches those counts.
-/

namespace Sys2Proof.Machine

-- One proof after another, as in the files under Laws: each waits for the kernel's evaluations.
set_option Elab.async false

/-- The counts of the running gather interval are in canonical form, and the audit holds for every band path. -/
structure State.audited (s : State) : Prop where
  wf : Store.wf (fun _ => 0) s.cnt.events = true
  audit : ∀ m : Sys2Proof.BpIx, s.slotsAudit m

section
variable {s t : State} {m n : Nat}

/-! ### The counts that the audit reads (Table 162) -/

theorem State.audited.of_cnt (h : s.audited) (hc : t.cnt = s.cnt) : t.audited := by
  have he (e : Nat) (k : Sys2Proof.BpIx) : t.slotEvents e k = s.slotEvents e k := by rw [State.slotEvents, hc]; rfl
  exact ⟨by rw [hc]; exact h.wf, fun k => by rw [State.slotsAudit, he, he, he, he]; exact h.audit k⟩

/-- An operation that counts nothing leaves the audit. -/
theorem State.keeps.audited (k : State.keeps m s t) (h : s.audited) (hm : partIn m .cnt = false := by decide +kernel) :
    t.audited :=
  h.of_cnt (k.parts .cnt hm)

/-- The key under which a tally counts. -/
def tallyKey (group event unit mask : Nat) : Nat := eventKey group event (eventUnit group event unit) mask

theorem tallyMask_events (s : State) (group event unit k mask : Nat) : (s.tallyMask group event unit k mask).cnt.events =
    Store.set (fun _ => 0) s.cnt.events (tallyKey group event unit mask)
      (Store.get (fun _ => 0) s.cnt.events (tallyKey group event unit mask) + k) := rfl

/-- A tally adds to the count of its key and to no other. -/
theorem tallyMask_get (h : Store.wf (fun _ => 0) s.cnt.events = true) (group event unit k mask key : Nat) :
    Store.get (fun _ => 0) (s.tallyMask group event unit k mask).cnt.events key =
      Store.get (fun _ => 0) s.cnt.events key + if key = tallyKey group event unit mask then k else 0 := by
  rw [tallyMask_events, Store.get_set (lo := 0) h]
  split
  case isTrue e => rw [e]
  case isFalse => rfl

/-- The keys of the slots lie below those of every other event. -/
theorem slotKey_lt {e : Nat} (he : e < 5) (k : Sys2Proof.BpIx) : eventKey 0 e k 1 < 20480 := by
  have hk : k.val < 128 := k.isLt
  simp only [eventKey]
  omega

theorem tallyKey_ge {group event : Nat} (h : 1 ≤ group ∨ 5 ≤ event) (unit mask : Nat) : 20480 ≤ tallyKey group event unit mask := by
  simp only [tallyKey, eventKey]
  omega

/-- A tally of any other event leaves the audit. -/
theorem State.audited.tally (h : s.audited) {group event : Nat} (hk : 1 ≤ group ∨ 5 ≤ event := by decide) (unit k cls : Nat) :
    (s.tally group event unit k cls).audited := by
  have he (e : Nat) (he : e < 5) (j : Sys2Proof.BpIx) : (s.tally group event unit k cls).slotEvents e j = s.slotEvents e j := by
    have hlt := slotKey_lt he j
    have hge := tallyKey_ge hk unit (2 ^ cls)
    exact (tallyMask_get h.wf ..).trans (by rw [if_neg (by omega)]; rfl)
  refine ⟨Store.wf_set h.wf _ _, fun j => ?_⟩
  rw [State.slotsAudit, he 1 (by decide), he 2 (by decide), he 3 (by decide), he 4 (by decide)]
  exact h.audit j

/-! ### The slots of a grain -/

theorem slotKey_eq_iff {e e' : Nat} (hn : n < 128) (k : Sys2Proof.BpIx) :
    eventKey 0 e k 1 = tallyKey 0 e' n (2 ^ 0) ↔ e = e' ∧ k.val = n := by
  have hk : k.val < 128 := k.isLt
  have hunit : eventUnit 0 e' n = n := by simp [eventUnit]
  simp only [tallyKey, hunit, eventKey]
  omega

/-- A tally of slots adds to the one count of its kind and band path. -/
theorem slotEvents_tally (h : Store.wf (fun _ => 0) s.cnt.events = true) (hn : n < 128) (e e' count : Nat)
    (k : Sys2Proof.BpIx) :
    (s.tally 0 e' n count).slotEvents e k = s.slotEvents e k + if e = e' ∧ k.val = n then count else 0 := by
  refine (tallyMask_get h ..).trans ?_
  simp only [slotKey_eq_iff hn k]
  rfl

/-- The slots of a grain count once as SLOTS, and once as VALID, SUBST or MUTED. -/
theorem State.audited.tallySlots (h : s.audited) (hn : n < 128) (slots valid : Nat) (muted : Bool) :
    (s.tallySlots n slots valid muted).audited := by
  have hwf1 : Store.wf (fun _ => 0) (s.tally 0 0x01 n slots).cnt.events = true := Store.wf_set h.wf _ _
  unfold State.tallySlots
  extract_lets s1
  split
  · refine ⟨Store.wf_set hwf1 _ _, fun k => ?_⟩
    have hk := h.audit k
    unfold State.slotsAudit at hk ⊢
    simp only [s1, slotEvents_tally hwf1 hn, slotEvents_tally h.wf hn, Nat.reduceEqDiff, true_and, false_and,
      if_false]
    omega
  · have hwf2 : Store.wf (fun _ => 0) ((s.tally 0 0x01 n slots).tally 0 0x02 n (min valid slots)).cnt.events = true :=
      Store.wf_set hwf1 _ _
    refine ⟨Store.wf_set hwf2 _ _, fun k => ?_⟩
    have hk := h.audit k
    unfold State.slotsAudit at hk ⊢
    simp only [s1, slotEvents_tally hwf2 hn, slotEvents_tally hwf1 hn, slotEvents_tally h.wf hn,
      Nat.reduceEqDiff, true_and, false_and, if_false]
    split <;> omega

/-! ### Grains on the lanes, in the rings and in the tiles count elsewhere -/

theorem State.audited.tileWritten (h : s.audited) (x : Nat) (payload : List Sys2Proof.Byte) : (s.tileWritten x payload).audited := by
  unfold State.tileWritten
  extract_lets
  refine State.audited.tally (State.audited.tally ?_ ..) ..
  exact h.of_cnt rfl

theorem State.audited.keepFrame (h : s.audited) (l : Nat) (f : Sys2Proof.Frame) : (s.keepFrame l f).audited := by
  unfold State.keepFrame
  split
  · exact h
  · extract_lets full k s1 bytes s2
    have h1 : s1.audited := (updLane_keeps ..).audited h
    have h2 : s2.audited := by
      refine (wr_keeps ..).audited ?_
      split
      · exact h1.tileWritten ..
      · exact h1
    split
    · exact (bump_keeps ..).audited h2
    · exact h2

theorem State.audited.sendNow (h : s.audited) (l : Nat) (q : QFrame) (rest : List QFrame) : (s.sendNow l q rest).audited := by
  have hcredit : partIn (writes [creditField q.frame.cls] []) .cnt = false := partIn_writes (by simp)
  unfold State.sendNow
  extract_lets f cf s1 s2
  have h1 : s1.audited := by
    refine State.audited.tally (State.audited.tally (State.audited.keepFrame ?_ ..) ..) ..
    exact (wr_keeps ..).audited ((updLane_keeps ..).audited h) hcredit
  have h2 : s2.audited := by
    unfold s2
    split
    · exact h1.tally ..
    · exact h1
  split
  · refine (freeBlocks_keeps ..).audited ?_
    split
    · exact h2.tally ..
    · exact h2
  · exact h2

theorem State.audited.pump (h : s.audited) (l k : Nat) : (s.pump l k).audited := by
  induction k generalizing s with
  | zero => exact h
  | succ k ih =>
    unfold State.pump
    split
    · exact h
    · exact ih (h.sendNow ..)

theorem State.audited.sendFrame (h : s.audited) (l : Nat) (f : Sys2Proof.Frame) : (s.sendFrame l f).audited := by
  unfold State.sendFrame State.queueFrame
  split
  · exact ((updLane_keeps ..).audited h).pump ..
  · extract_lets s1
    have h1 : s1.audited := ((bump_keeps ..).audited h).tally ..
    exact h1

theorem State.audited.capture (h : s.audited) (n tap : Nat) (g : Sys2Proof.Grain) : (s.capture n tap g).audited := by
  refine State.forEach_invariant h fun r u hu => ?_
  split
  · extract_lets x k tile u1
    split
    · exact (setRing_keeps ..).audited ((bump_keeps ..).audited hu)
    · refine (setRing_keeps ..).audited ?_
      unfold u1
      split
      · exact hu.tileWritten ..
      · exact hu
  · exact hu

/-! ### The gain stage -/

theorem State.audited.overload (h : s.audited) (n sat : Nat) : (s.overload n sat).audited := by
  unfold State.overload State.g1Trip
  split
  · extract_lets s1
    have h1 : s1.audited := (wr_keeps ..).audited h (partIn_writes (by simp))
    split
    · exact h1
    · refine (sendFault_keeps ..).audited ((updBp_keeps ..).audited (State.audited.tally ?_ ..))
      exact (mute_keeps ..).audited ((bump_keeps ..).audited ((set1_keeps ..).audited h1))
  · exact h

theorem State.audited.ceilingReview (h : s.audited) (n : Nat) : (s.ceilingReview n).audited := by
  unfold State.ceilingReview
  split
  · exact h
  · extract_lets
    split
    · unfold State.g2Trip
      extract_lets m s1
      split
      · exact h
      · have h1 : s1.audited := by
          unfold s1
          split
          · exact h
          · exact (bump_keeps ..).audited h
        exact (sendFault_keeps ..).audited (((g2Mute_keeps ..).audited ((set1_keeps ..).audited h1)).tally ..)
    · exact h

theorem State.audited.gainGrain (h : s.audited) (n g : Nat) (xs : List IQ) (valid : BitVec 64) :
    (s.gainGrain n g xs valid).1.audited := by
  unfold State.gainGrain
  extract_lets r ys sat
  refine State.audited.tally (State.audited.ceilingReview (State.audited.overload ?_ ..) ..) ..
  exact (takePowers_keeps ..).audited ((takeSamples_keeps ..).audited h)

theorem State.audited.acceptGrain (h : s.audited) (n : Nat) (g : Sys2Proof.Grain) (gen pos k : Nat) :
    (s.acceptGrain n g gen pos k).1.audited := by
  unfold State.acceptGrain
  extract_lets r span moved s1 s2 s3
  have h1 : s1.audited := (updBp_keeps ..).audited h
  have h2 : s2.audited := by
    unfold s2
    split
    · exact (set1_keeps ..).audited h1
    · exact h1
  have h3 : s3.audited := by
    unfold s3
    split
    · exact (stepFrom_keeps ..).audited h2
    · exact h2
  exact h3.tally ..

/-! ### Publishing and emitting -/

theorem State.audited.publish (h : s.audited) (hn : n < 128) (g : Sys2Proof.Grain) : (s.publish n g).audited := by
  unfold State.publish
  extract_lets s1
  have h1 : s1.audited := ((updBp_keeps ..).audited h).tally ..
  have h2 := h1.tallySlots hn 64 (popCount g.valid) (gFlag g flMuted || gFlag g flFenced)
  unfold State.sendGrain
  extract_lets x
  split
  · split
    · exact h2
    · extract_lets
      split
      · exact (bump_keeps ..).audited h2
      · exact h2.sendFrame ..
  · exact h2

theorem State.audited.emitOne (h : s.audited) (hn : n < 128) (x : Held) : (s.emitOne n x).audited := by
  unfold State.emitOne
  extract_lets b at' none' gap gone valid muted zs upto _ s1 fill s2 s3
  have h1 : s1.audited := (updBp_keeps ..).audited h
  have h2 : s2.audited := by
    unfold s2
    split
    · exact (txGrain_keeps ..).audited ((bump_keeps ..).audited (h1.tallySlots hn ..))
    · exact h1
  have h3 : s3.audited := (txGrain_keeps ..).audited (h2.tallySlots hn ..)
  split
  · exact (bump_keeps ..).audited h3
  · exact h3

theorem State.audited.emitAll (h : s.audited) (hn : n < 128) (k : Nat) : (s.emitAll n k).audited := by
  induction k generalizing s with
  | zero => exact h
  | succ k ih =>
    unfold State.emitAll
    split
    · exact h
    · split
      · exact h
      · exact ih (h.emitOne hn _)

theorem State.audited.emitNothing (h : s.audited) (hn : n < 128) (g : Sys2Proof.Grain) : (s.emitNothing n g).audited :=
  (bump_keeps ..).audited (((updBp_keeps ..).audited h).tallySlots hn ..)

theorem State.audited.holdGrain (h : s.audited) (hn : n < 128) (pos : Nat) (grid : Int) (g : Sys2Proof.Grain) :
    (s.holdGrain n pos grid g).audited := by
  unfold State.holdGrain State.emitReady
  extract_lets s1
  have h1 : s1.audited := by
    unfold s1
    split
    · exact h.tileWritten ..
    · exact h
  exact ((updBp_keeps ..).audited h1).emitAll hn _

/-- Whatever becomes of a grain, its slots enter the audit. -/
theorem State.audited.deliver (h : s.audited) (hn : n < 128) (pos : Nat) (grid : Option Int) (g : Sys2Proof.Grain) :
    (s.deliver n pos grid g).audited := by
  unfold State.deliver
  extract_lets s1 s2
  have h1 : s1.audited := (updBp_keeps ..).audited (h.capture ..)
  have h2 : s2.audited := by
    unfold s2
    split
    · exact h1.publish hn g
    · split
      · split
        · exact h1.emitNothing hn g
        · exact h1.holdGrain hn ..
      · exact h1.emitNothing hn g
  split
  · exact (wr_keeps ..).audited h2
  · exact h2

/-! ### Grain periods -/

theorem State.audited.tallyConverter (h : s.audited) (n count : Nat) : (s.tallyConverter n count).audited := by
  unfold State.tallyConverter
  extract_lets p
  split
  · exact h.tally ..
  · exact h

theorem State.audited.windowGrain (h : s.audited) (hn : n < 128) (i : Sys2Proof.GrainInput) : (s.windowGrain n i).audited := by
  unfold State.windowGrain
  extract_lets x g run xs valid bad ts r srcSat settle s0 _ tap out s1 s2 pos late k a
  have h1 : s1.audited := (((updBp_keeps ..).audited ((h.gainGrain ..).capture ..)).tallyConverter ..)
  have h2 : s2.audited := by
    unfold s2
    split
    · exact h1
    · exact h1.tally ..
  split
  · exact h2.deliver hn ..
  · split
    · refine State.audited.deliver ((updBp_keeps ..).audited (State.audited.tally ?_ ..)) hn ..
      exact (set1_keeps ..).audited h2
    · exact (h2.acceptGrain ..).deliver hn ..

theorem State.audited.laneGrain (h : s.audited) (hn : n < 128) (x : Held) : (s.laneGrain n x).audited := by
  unfold State.laneGrain
  extract_lets b xs valid r out _ tap s1
  have h1 : s1.audited := (updBp_keeps ..).audited ((h.gainGrain ..).capture ..)
  exact h1.deliver hn ..

/-- A missing grain of band path `n` whose slot has come at the instant `ts`. -/
def State.fillMissing (s : State) (n : Nat) (ts : Int) : State :=
  let x := s.bp n
  let out := lossOf (s.outGrain n (tsOf ts) [] 0 64 false) flLoss
  let s1 := (((s.set1 .BP_STATUS_GAP n).tally 0 0x08 n).updBp n fun y => { y with
    sad := { y.sad with chip := y.sad.chip + 64 }, powers := (List.replicate 64 0 ++ y.powers).take 4160 })
  (s1.deliver n x.dly.count (if x.decl.dstKind = 1 ∧ s.fenced n = false then some (s.gridAt n x.dly.count) else none)
    out).advanceAck n

theorem State.audited.fillMissing (h : s.audited) (hn : n < 128) (ts : Int) : (s.fillMissing n ts).audited := by
  refine (advanceAck_keeps ..).audited (State.audited.deliver ((updBp_keeps ..).audited (State.audited.tally ?_ ..)) hn ..)
  exact (set1_keeps ..).audited h

theorem execGrainMissing_eq (n : Sys2Proof.BpIx) (s : State) : execGrainMissing n s = .next (match s.missingTs n with
    | none => s
    | some ts => if !s.running n || (s.bp n).decl.srcKind == 1 || (s.nextInput n).isSome then s else s.fillMissing n ts) := rfl

/-- A gather boundary begins an interval without counts. -/
theorem State.audited.of_nil (h : t.cnt.events = []) : t.audited := by
  have he (e : Nat) (k : Sys2Proof.BpIx) : t.slotEvents e k = 0 := by rw [State.slotEvents, h]; rfl
  exact ⟨by rw [h]; rfl, fun k => by rw [State.slotsAudit, he, he, he, he]⟩

end

/-- Settles O7: the slots of a grain enter the audit with the same number on both sides, whatever becomes of the grain, and no
other count is one of the audit's. -/
theorem slotsAudit : Obligations.SlotsAudit := by
  unfold Obligations.SlotsAudit
  intro s _ hwf haudit
  have h : s.audited := ⟨hwf, haudit⟩
  refine ⟨fun n g => ⟨_, rfl, State.audited.audit ?_⟩, fun n => ⟨_, execGrainMissing_eq n s, State.audited.audit ?_⟩,
    _, rfl, State.audited.audit ?_⟩
  · split
    · exact h
    · split
      · split
        · exact h.windowGrain n.isLt g
        · exact h
      · split
        · exact h.laneGrain n.isLt _
        · exact h
  · split
    · exact h
    · split
      · exact h
      · exact h.fillMissing n.isLt _
  · split
    · exact h
    · exact State.audited.of_nil rfl

end Sys2Proof.Machine
end

section
/-!
SUPPORT. Capture into host memory (18_scrim_host.md R393 to R405): what the record of a ring and Scrim's state show after an
operation, how a buffer closes, and what stops a ring.
-/

namespace Sys2Proof.Machine

-- One proof after another, as in the files under Laws: each waits for the kernel's evaluations.
set_option Elab.async false

/-- The state is canonical, and what `g` takes from the record of ring `r` is `v`. -/
structure State.ringShows {α : Type} (s : State) (g : Ring → α) (r : Nat) (v : α) : Prop where
  canon : s.canonical
  eq : g (s.ring r) = v

/-- What `g` takes from Scrim's state is `v`. -/
def State.scrShows {α : Type} (s : State) (g : Scrim → α) (v : α) : Prop := g s.scr = v

/-- `g` takes nothing from the interrupts. -/
def irqsAside {α : Type} (g : Scrim → α) : Prop := ∀ x p q, g { x with pba := p } = g x ∧ g { x with irqs := q } = g x

section
variable {s t : State} {m r : Nat} {α : Type} {g : Ring → α} {v : α}

theorem State.keeps.ringShows (k : State.keeps m s t) (h : s.ringShows g r v) (hm : partIn m .rings = false := by decide +kernel) :
    t.ringShows g r v := by
  have hr : t.rings = s.rings := k.parts .rings hm
  exact ⟨k.canon h.canon, by rw [State.ring, hr]; exact h.eq⟩

theorem State.keeps.scrShows {β : Type} {p : Scrim → β} {b : β} (k : State.keeps m s t) (h : s.scrShows p b)
    (hm : partIn m .scr = false := by decide +kernel) : t.scrShows p b := by
  have hs : t.scr = s.scr := k.parts .scr hm
  rw [State.scrShows, hs]
  exact h

/-- The record put in place is what the ring shows. -/
theorem State.canonical.ringShows_setRing (hs : s.canonical) (r : Nat) (y : Ring) (g : Ring → α) :
    (s.setRing r y).ringShows g r (g y) where
  canon := (setRing_keeps s r y).canon hs
  eq := by rw [State.ring_setRing hs.rings, if_pos rfl]

/-- A record put in place of one that shows the same. -/
theorem State.ringShows.setRing (h : s.ringShows g r v) {y : Ring} (hy : g y = g (s.ring r) := by rfl) :
    (s.setRing r y).ringShows g r v where
  canon := (setRing_keeps s r y).canon h.canon
  eq := by rw [State.ring_setRing h.canon.rings, if_pos rfl, hy, h.eq]

/-! ### Interrupts (R401, R397) -/

theorem interrupt_scrShows {β : Type} {p : Scrim → β} {b : β} (h : s.scrShows p b) (hp : irqsAside p) (k : Nat) :
    (s.interrupt k).scrShows p b := by
  unfold State.interrupt
  extract_lets ctl
  split
  · exact h
  · split
    · exact (hp s.scr _ []).1.trans h
    · exact (hp s.scr 0 _).2.trans h

/-- A buffer that has closed changes the count of the ring alone. -/
theorem countClosed_ringShows (h : s.ringShows g r v) (hg : ∀ x k, g { x with closed := k } = g x) :
    (s.countClosed r).ringShows g r v := by
  unfold State.countClosed State.ringInterrupt
  extract_lets n _ s1
  have h1 : s1.ringShows g r v := h.setRing (hg _ _)
  split
  · exact (interrupt_keeps ..).ringShows (h1.setRing (hg _ _))
  · exact h1

theorem countClosed_scrShows {β : Type} {p : Scrim → β} {b : β} (h : s.scrShows p b) (hp : irqsAside p) (r : Nat) :
    (s.countClosed r).scrShows p b := by
  unfold State.countClosed State.ringInterrupt
  extract_lets n _ s1
  have h1 : s1.scrShows p b := h
  split
  · exact interrupt_scrShows ((setRing_keeps ..).scrShows h1) hp _
  · exact h1

/-! ### Buffers (R401) -/

/-- A completed descriptor, TAIL behind it, and the interrupt. -/
def State.complete (s : State) (r : Nat) (y : Ring) : State := ((s.setRing r y).roll .DMA_TAIL_TAIL r).countClosed r

/-- The completion of an open buffer. -/
def State.doneOf (s : State) (r : Nat) (b : CapBuffer) (ends : Bool) : CapDone :=
  { count := s.rd .DMA_TAIL_TAIL r, data := s.bufferHeader r b ++ b.grains.flatMap grainBytes,
    status := bufferStatus b.grains.length (decide (0 < b.lostBefore)) ends b.poison false }

theorem closeBuffer_of_open {b : CapBuffer} (hb : (s.ring r).buffer = some b) (ends : Bool) :
    s.closeBuffer r ends = s.complete r { s.ring r with buffer := none, done := some (s.doneOf r b ends) } := by
  unfold State.closeBuffer
  extract_lets x
  split
  case h_1 hn => cases hn.symm.trans hb
  case h_2 c hc =>
    cases hc.symm.trans hb
    rfl

theorem closeBuffer_of_none (hb : (s.ring r).buffer = none) (ends : Bool) : s.closeBuffer r ends = s := by
  unfold State.closeBuffer
  extract_lets x
  split
  case h_1 => rfl
  case h_2 c hc => cases hc.symm.trans hb

theorem complete_ringShows (hs : s.canonical) (r : Nat) (y : Ring) (hg : ∀ x k, g { x with closed := k } = g x) :
    (s.complete r y).ringShows g r (g y) :=
  countClosed_ringShows ((roll_keeps ..).ringShows (hs.ringShows_setRing r y g)) hg

theorem complete_tail (hs : s.canonical) (r : Nat) (y : Ring) : (s.complete r y).reads .DMA_TAIL_TAIL r
    ((s.rd .DMA_TAIL_TAIL r + 1) % 2 ^ Field.DMA_TAIL_TAIL.row.width) :=
  (countClosed_keeps ..).reads ((setRing_keeps s r y).canon hs).reads_wr_mod

/-- An open buffer closes with its data in the completed descriptor, and TAIL behind it. -/
theorem closeBuffer_spec (hs : s.canonical) {b : CapBuffer} (hb : (s.ring r).buffer = some b) (ends : Bool) :
    ((s.closeBuffer r ends).ring r).buffer = none ∧ ((s.closeBuffer r ends).ring r).done = some (s.doneOf r b ends) ∧
    (s.closeBuffer r ends).rd .DMA_TAIL_TAIL r = (s.rd .DMA_TAIL_TAIL r + 1) % 2 ^ Field.DMA_TAIL_TAIL.row.width := by
  rw [closeBuffer_of_open hb]
  obtain ⟨hbuf, hdone⟩ := Prod.mk.inj (complete_ringShows hs r { s.ring r with buffer := none, done := some (s.doneOf r b ends) }
    (g := fun x => (x.buffer, x.done)) fun _ _ => rfl).eq
  exact ⟨hbuf, hdone, (complete_tail hs r _).eq⟩

/-- After a close no buffer is open. -/
theorem closeBuffer_buffer (hs : s.canonical) (r : Nat) (ends : Bool) : (s.closeBuffer r ends).ringShows Ring.buffer r none := by
  cases hb : (s.ring r).buffer with
  | none => rw [closeBuffer_of_none hb]; exact ⟨hs, hb⟩
  | some b => rw [closeBuffer_of_open hb]; exact complete_ringShows hs r _ fun _ _ => rfl

theorem closeBuffer_scrShows {β : Type} {p : Scrim → β} {b : β} (h : s.scrShows p b) (hp : irqsAside p) (r : Nat) (ends : Bool) :
    (s.closeBuffer r ends).scrShows p b := by
  cases hb : (s.ring r).buffer with
  | none => rw [closeBuffer_of_none hb]; exact h
  | some c =>
    rw [closeBuffer_of_open hb]
    exact countClosed_scrShows ((roll_keeps ..).scrShows ((setRing_keeps ..).scrShows h)) hp r

/-! ### What stops a ring (R401, R403) -/

/-- RUN and EN of a ring read 0. -/
def State.ringOff (s : State) (r : Nat) : State := ((s.closeBuffer r true).clr .DMA_STATUS_RUN r).clr .DMA_CTRL_EN r

/-- The staging tiles of a ring are free. -/
def State.freeStaging (s : State) (r : Nat) : State := s.setRing r { s.ring r with staged := [], lost := 0, lostPoison := false }

theorem ringOff_spec (hs : s.canonical) (r : Nat) : (s.ringOff r).reads .DMA_STATUS_RUN r 0 ∧ (s.ringOff r).reads .DMA_CTRL_EN r 0 ∧
    (s.ringOff r).ringShows Ring.buffer r none := by
  have hb := closeBuffer_buffer hs r true
  have hrun : ((s.closeBuffer r true).clr .DMA_STATUS_RUN r).reads .DMA_STATUS_RUN r 0 := hb.canon.reads_wr
  have hen : (s.ringOff r).reads .DMA_CTRL_EN r 0 := by
    unfold State.ringOff
    exact hrun.canon.reads_wr
  exact ⟨(clr_keeps ..).reads hrun, hen, (clr_keeps ..).ringShows ((clr_keeps ..).ringShows hb)⟩

theorem freeStaging_spec (hs : s.canonical) (r : Nat) : (s.freeStaging r).ringShows Ring.staged r [] :=
  hs.ringShows_setRing r _ Ring.staged

theorem stopRing_of_run (h : s.rd .DMA_STATUS_RUN r = 1) (cause : Field) :
    s.stopRing cause r = ((s.ringOff r).set1 cause r).freeStaging r :=
  if_neg (by simp [State.is, h])

theorem stopRing_of_rest (h : s.rd .DMA_STATUS_RUN r = 0) (cause : Field) : s.stopRing cause r = s :=
  if_pos (by simp [State.is, h])

/-- A ring that ran is off, with its cause shown, no open buffer and nothing staged. -/
theorem stopRing_spec (hs : s.canonical) (h : s.rd .DMA_STATUS_RUN r = 1) {cause : Field}
    (hl : cause.locked = false := by decide +kernel) (hw : 1 < 2 ^ cause.row.width := by decide +kernel)
    (hne : cause ∉ [.DMA_STATUS_RUN, .DMA_CTRL_EN] := by decide +kernel) :
    let t := s.stopRing cause r
    t.rd .DMA_STATUS_RUN r = 0 ∧ t.rd .DMA_CTRL_EN r = 0 ∧ t.rd cause r = 1 ∧ (t.ring r).buffer = none ∧ (t.ring r).staged = [] := by
  obtain ⟨hrun, hen, hb⟩ := ringOff_spec hs r
  obtain ⟨hnrun, hnen⟩ : cause ≠ .DMA_STATUS_RUN ∧ cause ≠ .DMA_CTRL_EN := by simpa using hne
  have hcause : ((s.ringOff r).set1 cause r).reads cause r 1 := hrun.canon.reads_wr hl hw
  have hset := set1_keeps (s.ringOff r) cause r
  have hfree := setRing_keeps ((s.ringOff r).set1 cause r) r
    { ((s.ringOff r).set1 cause r).ring r with staged := [], lost := 0, lostPoison := false }
  have hb1 : ((s.ringOff r).set1 cause r).ringShows Ring.buffer r none := hset.ringShows hb (partIn_writes (by simp))
  rw [stopRing_of_run h]
  exact ⟨(hfree.reads (hset.reads hrun (inSet_writes (by simpa using hnrun.symm))) (inSet_writes (by simp))).eq,
    (hfree.reads (hset.reads hen (inSet_writes (by simpa using hnen.symm))) (inSet_writes (by simp))).eq,
    (hfree.reads hcause (inSet_writes (by simp))).eq, (hb1.setRing (g := Ring.buffer)).eq, (freeStaging_spec hcause.canon r).eq⟩

theorem stopRing_scrShows {β : Type} {p : Scrim → β} {b : β} (h : s.scrShows p b) (hp : irqsAside p) (cause : Field) (r : Nat) :
    (s.stopRing cause r).scrShows p b := by
  unfold State.stopRing
  split
  · exact h
  · extract_lets s1
    have h1 : s1.scrShows p b := (set1_keeps ..).scrShows
      ((clr_keeps ..).scrShows ((clr_keeps ..).scrShows (closeBuffer_scrShows h hp r true))) (partIn_writes (by simp))
    exact (setRing_keeps ..).scrShows h1

/-- A ring that is off stays off while any ring stops. -/
theorem stopRing_reads_run {i : Nat} (h : s.reads .DMA_STATUS_RUN i 0) {cause : Field} (hc : .DMA_STATUS_RUN ≠ cause) (r : Nat) :
    (s.stopRing cause r).reads .DMA_STATUS_RUN i 0 := by
  unfold State.stopRing
  split
  · exact h
  · extract_lets s1
    have h1 : s1.reads .DMA_STATUS_RUN i 0 := by
      refine (set1_keeps ..).reads ((clr_keeps ..).reads ?_) (inSet_writes (by simpa using hc))
      exact ((closeBuffer_keeps ..).reads h).rewrite r
    exact (setRing_keeps ..).reads h1

/-- A ring that is stopped is off. -/
theorem stopRing_off (hs : s.canonical) {cause : Field} (hl : cause.locked = false) (hw : 1 < 2 ^ cause.row.width)
    (hne : cause ∉ [.DMA_STATUS_RUN, .DMA_CTRL_EN]) (r : Nat) : (s.stopRing cause r).reads .DMA_STATUS_RUN r 0 := by
  have hlt : s.rd .DMA_STATUS_RUN r < 2 := State.rd_lt hs ..
  rcases Nat.lt_or_ge (s.rd .DMA_STATUS_RUN r) 1 with h | h
  · have hrest : s.rd .DMA_STATUS_RUN r = 0 := by omega
    rw [stopRing_of_rest hrest]
    exact ⟨hs, hrest⟩
  · exact ⟨(stopRing_keeps ..).canon hs, (stopRing_spec hs (by omega) hl hw hne).1⟩

theorem stopRings_off (hs : s.canonical) {cause : Field} (r : Fin 8) (hl : cause.locked = false := by decide +kernel)
    (hw : 1 < 2 ^ cause.row.width := by decide +kernel) (hne : cause ∉ [.DMA_STATUS_RUN, .DMA_CTRL_EN] := by decide +kernel) :
    (s.stopRings cause).reads .DMA_STATUS_RUN r 0 := by
  have hc : .DMA_STATUS_RUN ≠ cause := by
    rintro rfl
    exact hne (List.mem_cons_self ..)
  exact State.forEach_effect (P := State.canonical) (Q := fun t => t.reads .DMA_STATUS_RUN r 0)
    (List.mem_range.mpr r.isLt) hs (fun _ _ ht => (stopRing_keeps ..).canon ht) (fun _ ht => stopRing_off ht hl hw hne r)
    fun _ _ ht => stopRing_reads_run ht hc _

theorem stopRings_scrShows {β : Type} {p : Scrim → β} {b : β} (h : s.scrShows p b) (hp : irqsAside p) (cause : Field) :
    (s.stopRings cause).scrShows p b :=
  State.forEach_invariant (P := fun t : State => t.scrShows p b) h fun _ _ ht => stopRing_scrShows ht hp ..

/-! ### A write of DMA_CTRL (R403) -/

/-- The fields of DMA_CTRL but EN. -/
def State.putDmaCtrl (s : State) (r w : Nat) : State :=
  (((s.wr .DMA_CTRL_BP r (bits 1 7 w)).wr .DMA_CTRL_TAP r (bits 8 1 w)).wr .DMA_CTRL_IRQ_N r (bits 9 7 w)).wr
    .DMA_CTRL_HOLDOFF r (bits 16 16 w)

def writes_putDmaCtrl : Nat := writes [.DMA_CTRL_BP, .DMA_CTRL_TAP, .DMA_CTRL_IRQ_N, .DMA_CTRL_HOLDOFF] []

theorem putDmaCtrl_keeps (s : State) (r w : Nat) : State.keeps writes_putDmaCtrl s (s.putDmaCtrl r w) := by
  refine State.keeps.step (State.keeps.step (State.keeps.step ((wr_keeps ..).mono ?_) (wr_keeps ..) ?_) (wr_keeps ..) ?_)
    (wr_keeps ..) ?_ <;> decide +kernel

theorem putDmaCtrl_bp (hs : s.canonical) (r w : Nat) : (s.putDmaCtrl r w).reads .DMA_CTRL_BP r (bits 1 7 w) :=
  (wr_keeps ..).reads ((wr_keeps ..).reads ((wr_keeps ..).reads (hs.reads_wr (hv := bits_lt ..))))

/-- The sum of the rings' rates is a matter of which run, of their band paths and of the limit. -/
theorem State.keeps.fitsLimit (k : State.keeps m s t) (hs : s.canonical) (extra : Option Nat)
    (hf : ∀ f ∈ [Field.DMA_STATUS_RUN, .DMA_CTRL_BP, .PCIE_CAP_CAP_LIMIT], inSet m f = false := by decide +kernel)
    (hb : partIn m .bps = false := by decide +kernel) : t.fitsLimit extra = s.fitsLimit extra := by
  have hbps : t.bps = s.bps := k.parts .bps hb
  have hrun (i : Nat) : t.rd .DMA_STATUS_RUN i = s.rd .DMA_STATUS_RUN i := k.fields hs _ i (hf _ (by simp))
  have hbp (i : Nat) : t.rd .DMA_CTRL_BP i = s.rd .DMA_CTRL_BP i := k.fields hs _ i (hf _ (by simp))
  have hlimit : t.rd .PCIE_CAP_CAP_LIMIT = s.rd .PCIE_CAP_CAP_LIMIT := k.fields hs _ 0 (hf _ (by simp))
  have hsum : t.captureSum extra = s.captureSum extra := by
    simp only [State.captureSum, State.is, State.bp, hbps, hrun, hbp]
  rw [State.fitsLimit, State.fitsLimit, hsum, hlimit]

theorem putDmaCtrl_fitsLimit (hs : s.canonical) (r w : Nat) (extra : Option Nat) :
    (s.putDmaCtrl r w).fitsLimit extra = (s.wr .DMA_CTRL_BP r (bits 1 7 w)).fitsLimit extra := by
  have hrest : State.keeps (writes [.DMA_CTRL_TAP, .DMA_CTRL_IRQ_N, .DMA_CTRL_HOLDOFF] []) (s.wr .DMA_CTRL_BP r (bits 1 7 w))
      (s.putDmaCtrl r w) := by
    refine State.keeps.step (State.keeps.step ((wr_keeps ..).mono ?_) (wr_keeps ..) ?_) (wr_keeps ..) ?_ <;> decide +kernel
  exact hrest.fitsLimit ((wr_keeps ..).canon hs) extra

theorem writeDmaCtrl_eq (s : State) (r w : Nat) : s.writeDmaCtrl r w =
    let s1 := s.putDmaCtrl r w
    if !bit 0 w then (s1.ringOff r).freeStaging r
    else if s1.is .DMA_STATUS_RUN r then s1
    else if s1.scr.tempHot || decide (s1.rd .PCIE_CAP_CAP_LIMIT = 0) || !s1.fitsLimit (some r) then
      s1.set1 .DMA_STATUS_ENA_REFUSED r
    else
      let s2 := (s1.set1 .DMA_CTRL_EN r).set1 .DMA_STATUS_RUN r
      if !s.is .SCR_HSTATUS_FIELD_UP then s2.stopRing .DMA_STATUS_FIELD_LOST r
      else if !s.scr.busMaster then s2.stopRing .DMA_STATUS_BME_OFF r
      else s2 := rfl

/-- EN at 0 stops the ring. -/
theorem writeDmaCtrl_stops (hs : s.canonical) (r : Nat) {w : Nat} (hw : bit 0 w = false) :
    (s.writeDmaCtrl r w).rd .DMA_STATUS_RUN r = 0 ∧ (s.writeDmaCtrl r w).rd .DMA_CTRL_EN r = 0 ∧
    ((s.writeDmaCtrl r w).ring r).staged = [] := by
  have heq : s.writeDmaCtrl r w = ((s.putDmaCtrl r w).ringOff r).freeStaging r := by
    rw [writeDmaCtrl_eq]
    exact if_pos (by rw [hw]; rfl)
  obtain ⟨hrun, hen, -⟩ := ringOff_spec ((putDmaCtrl_keeps s r w).canon hs) r
  rw [heq]
  exact ⟨((setRing_keeps ..).reads hrun).eq, ((setRing_keeps ..).reads hen).eq, (freeStaging_spec hrun.canon r).eq⟩

/-- EN at 1 is refused while die B is hot or the link leaves no room. -/
theorem writeDmaCtrl_refused (hs : s.canonical) {w : Nat} (hw : bit 0 w = true) (hrun : s.rd .DMA_STATUS_RUN r = 0)
    (h : s.scr.tempHot = true ∨ s.rd .PCIE_CAP_CAP_LIMIT = 0) :
    (s.writeDmaCtrl r w).rd .DMA_STATUS_ENA_REFUSED r = 1 ∧ (s.writeDmaCtrl r w).rd .DMA_STATUS_RUN r = 0 ∧
    (s.writeDmaCtrl r w).rd .DMA_CTRL_EN r = s.rd .DMA_CTRL_EN r := by
  have hput := putDmaCtrl_keeps s r w
  have hrun1 := hput.reads ⟨hs, hrun⟩
  have hen := hput.reads (hs.reads .DMA_CTRL_EN r)
  have hscr : (s.putDmaCtrl r w).scr = s.scr := hput.parts .scr (by decide +kernel)
  have hlimit := (hput.reads (hs.reads .PCIE_CAP_CAP_LIMIT 0)).eq
  have heq : s.writeDmaCtrl r w = (s.putDmaCtrl r w).set1 .DMA_STATUS_ENA_REFUSED r := by
    rw [writeDmaCtrl_eq]
    refine (if_neg (by rw [hw]; decide)).trans ((if_neg (by rw [hrun1.is]; decide)).trans (if_pos ?_))
    rw [hscr, hlimit]
    rcases h with h | h <;> simp [h]
  rw [heq]
  exact ⟨hrun1.canon.reads_wr.eq, ((set1_keeps ..).reads hrun1).eq, ((set1_keeps ..).reads hen).eq⟩

/-- EN at 1 starts a ring for which the link has room. -/
theorem writeDmaCtrl_starts (hs : s.canonical) {w : Nat} (hw : bit 0 w = true) (hrun : s.rd .DMA_STATUS_RUN r = 0)
    (hcool : s.scr.tempHot = false) (hlimit : s.rd .PCIE_CAP_CAP_LIMIT ≠ 0)
    (hfits : (s.wr .DMA_CTRL_BP r (bits 1 7 w)).fitsLimit (some r) = true) (hup : s.rd .SCR_HSTATUS_FIELD_UP = 1)
    (hbus : s.scr.busMaster = true) :
    (s.writeDmaCtrl r w).rd .DMA_STATUS_RUN r = 1 ∧ (s.writeDmaCtrl r w).rd .DMA_CTRL_EN r = 1 ∧
    (s.writeDmaCtrl r w).rd .DMA_CTRL_BP r = bits 1 7 w := by
  have hput := putDmaCtrl_keeps s r w
  have hrun1 := hput.reads ⟨hs, hrun⟩
  have hscr : (s.putDmaCtrl r w).scr = s.scr := hput.parts .scr (by decide +kernel)
  have hlimit1 := (hput.reads (hs.reads .PCIE_CAP_CAP_LIMIT 0)).eq
  have heq : s.writeDmaCtrl r w = ((s.putDmaCtrl r w).set1 .DMA_CTRL_EN r).set1 .DMA_STATUS_RUN r := by
    rw [writeDmaCtrl_eq]
    refine (if_neg (by rw [hw]; decide)).trans ((if_neg (by rw [hrun1.is]; decide)).trans ((if_neg ?_).trans
      ((if_neg (by simp [State.is, hup])).trans (if_neg (by simp [hbus])))))
    rw [hscr, hlimit1, putDmaCtrl_fitsLimit hs, hfits, hcool]
    simpa using hlimit
  have hen : ((s.putDmaCtrl r w).set1 .DMA_CTRL_EN r).reads .DMA_CTRL_EN r 1 := hrun1.canon.reads_wr
  rw [heq]
  exact ⟨hen.canon.reads_wr.eq, ((set1_keeps ..).reads hen).eq,
    ((set1_keeps ..).reads ((set1_keeps ..).reads (putDmaCtrl_bp hs r w))).eq⟩

/-! ### A write of DMA_HEAD (R400) -/

/-- The descriptors that a new HEAD leaves posted. -/
def State.newPosted (s : State) (r w : Nat) : Nat := (w % 2 ^ 17 + 2 ^ 17 - s.rd .DMA_TAIL_TAIL r) % 2 ^ 17

theorem writeDmaHead_taken (hs : s.canonical) {w : Nat} (hsize : s.newPosted r w ≤ s.ringSize r)
    (hpost : s.posted r ≤ s.newPosted r w) : (s.writeDmaHead r w).rd .DMA_HEAD_HEAD r = w % 2 ^ 17 ∧
    (s.writeDmaHead r w).rd .DMA_STATUS_HEAD_REFUSED r = s.rd .DMA_STATUS_HEAD_REFUSED r := by
  have heq : s.writeDmaHead r w = s.wr .DMA_HEAD_HEAD r w := if_neg (by
    rintro (h | h)
    · exact absurd h (Nat.not_lt.mpr hsize)
    · exact absurd h (Nat.not_lt.mpr hpost))
  rw [heq]
  exact ⟨hs.reads_wr_mod.eq, ((wr_keeps ..).reads (hs.reads ..)).eq⟩

theorem writeDmaHead_refused (hs : s.canonical) {w : Nat} (h : s.ringSize r < s.newPosted r w) :
    (s.writeDmaHead r w).rd .DMA_STATUS_HEAD_REFUSED r = 1 ∧
    (s.writeDmaHead r w).rd .DMA_HEAD_HEAD r = s.rd .DMA_HEAD_HEAD r := by
  have heq : s.writeDmaHead r w = s.set1 .DMA_STATUS_HEAD_REFUSED r := if_pos (.inl h)
  rw [heq]
  exact ⟨hs.reads_wr.eq, ((set1_keeps ..).reads (hs.reads ..)).eq⟩

/-! ### Moving grains (R398, R400) -/

/-- A buffer for the grain `g`, as descriptor `d` begins it. -/
def beginBuffer (d : Sys2Proof.Descriptor) (g : Staged) : CapBuffer :=
  { desc := d, grains := [g.grain], lostBefore := g.lostBefore, poison := g.poisonBefore, time := g.time }

/-- The completion of a descriptor that breaks the rules. -/
def State.badDone (s : State) (r : Nat) : CapDone :=
  { count := s.rd .DMA_TAIL_TAIL r, status := bufferStatus 0 false false false true, data := [] }

/-- A ring that runs and has no open buffer reads a descriptor for its oldest staged grain. -/
theorem captureGrain_of_new {d : Sys2Proof.Descriptor} {x : Staged} {xs : List Staged} (hst : (s.ring r).staged = x :: xs)
    (hb : (s.ring r).buffer = none) (hrun : s.rd .DMA_STATUS_RUN r = 1) (hup : s.rd .SCR_HSTATUS_FIELD_UP = 1)
    (hcred : s.scr.capCredit ≠ 0) (hpost : s.posted r ≠ 0) :
    s.captureGrain r d = if badDescriptor d then
        (((s.setRing r { s.ring r with done := some (s.badDone r) }).set1 .DMA_STATUS_BAD_DESC r).roll .DMA_TAIL_TAIL r).countClosed r
      else s.takeStaged r (beginBuffer d x) xs := by
  have hclose : mustClose (s.ring r) = false := by rw [mustClose, hb]
  unfold State.captureGrain
  extract_lets y
  split
  case h_1 hn => cases hn.symm.trans hst
  case h_2 z zs hz =>
    cases hz.symm.trans hst
    rw [if_neg (by simp [State.is, hrun, hup, hcred, y, hclose])]
    split
    case h_1 c hc => cases hc.symm.trans hb
    case h_2 => rw [if_neg hpost]; rfl

/-- A CAP message spends a credit, which the host end owes. -/
def State.useCap (s : State) : State :=
  { s with scr := { s.scr with capCredit := s.scr.capCredit - 1, owed := s.scr.owed.set 5 (s.scr.owed.getD 5 0 + 1) } }

theorem takeStaged_eq (s : State) (r : Nat) (b : CapBuffer) (rest : List Staged) : s.takeStaged r b rest =
    ((s.setRing r { s.ring r with buffer := some b, staged := rest }).useCap.wr .SCR_FCREDIT_CAP8 0
      ((s.scr.capCredit - 1) / 8)).tally 7 0x01 0 := rfl

theorem takeStaged_spec (hs : s.canonical) (r : Nat) (b : CapBuffer) (rest : List Staged) :
    (s.takeStaged r b rest).ringShows (fun x => (x.staged, x.buffer)) r (rest, some b) ∧
    (s.takeStaged r b rest).scrShows Scrim.capCredit (s.scr.capCredit - 1) := by
  have hset := hs.ringShows_setRing r { s.ring r with buffer := some b, staged := rest } fun x => (x.staged, x.buffer)
  have huse : (s.setRing r { s.ring r with buffer := some b, staged := rest }).useCap.ringShows (fun x => (x.staged, x.buffer)) r
      (rest, some b) := ⟨{ hset.canon with }, hset.eq⟩
  have hcredit : (s.setRing r { s.ring r with buffer := some b, staged := rest }).useCap.scrShows Scrim.capCredit
      (s.scr.capCredit - 1) := rfl
  rw [takeStaged_eq]
  exact ⟨(tally_keeps ..).ringShows ((wr_keeps ..).ringShows huse), (tally_keeps ..).scrShows ((wr_keeps ..).scrShows hcredit)⟩

/-- A descriptor that breaks the rules is completed at once; the grain waits for the next. -/
theorem badDescriptor_spec (hs : s.canonical) {xs : List Staged} (hst : (s.ring r).staged = xs) (d : CapDone) :
    let t := (((s.setRing r { s.ring r with done := some d }).set1 .DMA_STATUS_BAD_DESC r).roll .DMA_TAIL_TAIL r).countClosed r
    t.rd .DMA_STATUS_BAD_DESC r = 1 ∧
    t.rd .DMA_TAIL_TAIL r = (s.rd .DMA_TAIL_TAIL r + 1) % 2 ^ Field.DMA_TAIL_TAIL.row.width ∧ (t.ring r).staged = xs := by
  have hset := setRing_keeps s r { s.ring r with done := some d }
  have hring : (s.setRing r { s.ring r with done := some d }).ringShows Ring.staged r xs :=
    State.ringShows.setRing (g := Ring.staged) ⟨hs, hst⟩
  have hbad : ((s.setRing r { s.ring r with done := some d }).set1 .DMA_STATUS_BAD_DESC r).reads .DMA_STATUS_BAD_DESC r 1 :=
    hring.canon.reads_wr
  have htail := (set1_keeps (s.setRing r { s.ring r with done := some d }) .DMA_STATUS_BAD_DESC r).reads
    (hset.reads (hs.reads .DMA_TAIL_TAIL r))
  have hroll := htail.canon.reads_wr_mod (f := .DMA_TAIL_TAIL) (i := r) (v := s.rd .DMA_TAIL_TAIL r + 1)
  rw [← htail.eq] at hroll ⊢
  exact ⟨((countClosed_keeps ..).reads ((roll_keeps ..).reads hbad)).eq, ((countClosed_keeps ..).reads hroll).eq,
    (countClosed_ringShows ((roll_keeps ..).ringShows ((set1_keeps ..).ringShows hring)) fun _ _ => rfl).eq⟩

/-! ### The link (R393, R403) -/

/-- CAP_LIMIT and NARROW as the link gives them. -/
def State.showLimit (s : State) : State :=
  (s.wr .PCIE_CAP_CAP_LIMIT 0 (capLimit (s.rd .PCIE_STATUS_GEN) (s.rd .PCIE_STATUS_WIDTH) s.scr.toHost)).wrB .PCIE_STATUS_NARROW 0
    (decide (0 < s.rd .PCIE_STATUS_WIDTH ∧ s.rd .PCIE_STATUS_WIDTH < 4))

/-- The rings that stop until the sum fits write nothing of the link. -/
theorem refreshLimit_reads {f : Field} {i : Nat} {v : Nat} (h : s.showLimit.reads f i v)
    (hf : inSet (writes [.DMA_STATUS_LIMIT_STOP] [] ||| writes_stopRing) f = false := by decide +kernel) :
    s.refreshLimit.reads f i v := by
  refine List.foldlRecOn (motive := fun t : State => t.reads f i v) _ _ h fun t ht r _ => ?_
  split
  · exact ht
  · exact (stopRing_keeps ..).reads ht hf

/-- The link has trained to a generation and a width. -/
def State.train (s : State) (gen width : Nat) : State := (s.wr .PCIE_STATUS_GEN 0 gen).wr .PCIE_STATUS_WIDTH 0 width

theorem train_spec (hs : s.canonical) {gen width : Nat} (hgen : gen < 8) (hwidth : width < 32) :
    (s.train gen width).reads .PCIE_STATUS_GEN 0 gen ∧ (s.train gen width).reads .PCIE_STATUS_WIDTH 0 width := by
  have h1 := hs.reads_wr (f := .PCIE_STATUS_GEN) (i := 0) (v := gen) (hv := hgen)
  exact ⟨(wr_keeps ..).reads h1, h1.canon.reads_wr (hv := hwidth)⟩

theorem retrain_spec (hs : s.canonical) {gen width : Nat} (hgen : gen < 8) (hwidth : width ∈ [4, 8, 16]) :
    let t := (s.train gen width).refreshLimit
    t.rd .PCIE_STATUS_GEN = gen ∧ t.rd .PCIE_STATUS_WIDTH = width ∧ t.rd .PCIE_STATUS_NARROW = 0 ∧
    t.rd .PCIE_CAP_CAP_LIMIT = capLimit gen width s.scr.toHost % 2 ^ Field.PCIE_CAP_CAP_LIMIT.row.width := by
  have hwide : 4 ≤ width ∧ width < 32 := by
    simp only [List.mem_cons, List.not_mem_nil, or_false] at hwidth
    omega
  obtain ⟨hg, hw⟩ := train_spec hs hgen hwide.2
  have hscr : (s.train gen width).scr = s.scr := by simp [State.train]
  have hcap : (s.train gen width).showLimit.reads .PCIE_CAP_CAP_LIMIT 0
      (capLimit gen width s.scr.toHost % 2 ^ Field.PCIE_CAP_CAP_LIMIT.row.width) := by
    unfold State.showLimit
    rw [hg.eq, hw.eq, hscr]
    exact (wrB_keeps ..).reads hg.canon.reads_wr_mod
  have hnarrow : (s.train gen width).showLimit.reads .PCIE_STATUS_NARROW 0 0 := by
    unfold State.showLimit
    rw [hw.eq, decide_eq_false (by omega)]
    exact ((wr_keeps ..).canon hg.canon).reads_wrB
  exact ⟨(refreshLimit_reads ((wrB_keeps ..).reads ((wr_keeps ..).reads hg))).eq,
    (refreshLimit_reads ((wrB_keeps ..).reads ((wr_keeps ..).reads hw))).eq, (refreshLimit_reads hnarrow).eq,
    (refreshLimit_reads hcap).eq⟩

/-! ### Die B (R405, R395) -/

theorem hostCause_scrShows {β : Type} {p : Scrim → β} {b : β} (h : s.scrShows p b) (hp : irqsAside p) (k : Nat) :
    (s.hostCause k).scrShows p b := by
  unfold State.hostCause
  extract_lets c
  refine interrupt_scrShows ?_ hp 0
  split
  · exact h
  · exact (wr_keeps ..).scrShows h

/-- The cause is shown. -/
theorem hostCause_bit (hs : s.canonical) {k : Nat} (hk : k < 5) : bit k ((s.hostCause k).rd .SCR_HIRQ_CAUSE) = true := by
  unfold State.hostCause
  extract_lets c
  split
  case isTrue h => rw [((interrupt_keeps ..).reads (hs.reads ..)).eq]; exact h
  case isFalse h =>
    rw [((interrupt_keeps ..).reads hs.reads_wr_mod).eq, bit_mod_two_pow (show k < Field.SCR_HIRQ_CAUSE.row.width from hk)]
    exact bit_add_two_pow (Bool.eq_false_iff.mpr h)

/-- What a sample of die B's temperature leaves in the registers and in Scrim's state. -/
def State.takeTempB (s : State) (t : BitVec 16) (x : Scrim) : State :=
  { (s.wr .PCIE_TEMP_TEMP 0 t.toNat).wr .PCIE_TEMP_MAX_T 0
      (wrapBits 16 (if s.scr.tempSeen then max (s.rdS .PCIE_TEMP_MAX_T) t.toInt else t.toInt)) with scr := x }

theorem takeTempB_spec (hs : s.canonical) (t : BitVec 16) (x : Scrim) : (s.takeTempB t x).reads .PCIE_TEMP_TEMP 0 t.toNat := by
  have htemp := hs.reads_wr (f := .PCIE_TEMP_TEMP) (i := 0) (v := t.toNat) (hv := t.isLt)
  have hmax := (wr_keeps (s.wr .PCIE_TEMP_TEMP 0 t.toNat) .PCIE_TEMP_MAX_T 0
    (wrapBits 16 (if s.scr.tempSeen then max (s.rdS .PCIE_TEMP_MAX_T) t.toInt else t.toInt))).reads htemp
  exact ⟨{ hmax.canon with }, hmax.eq⟩

/-- Bus Master Enable has become 0. -/
def State.stopBme (s : State) : State :=
  let s1 := s.stopRings .DMA_STATUS_BME_OFF
  { s1 with scr := { s1.scr with busMaster := false } }

theorem stopBme_off (hs : s.canonical) (r : Fin 8) : s.stopBme.rd .DMA_STATUS_RUN r = 0 := by
  unfold State.stopBme
  rw [State.rd_put_scr]
  exact (stopRings_off hs r).eq

/-- The trip: every ring stops, and its cause is shown. -/
def State.tripB (s : State) : State := (s.stopRings .DMA_STATUS_TEMP_STOP).hostCause 4

/-- The time at or below 95 °C, the warning and the trip after a sample `v`. -/
def Scrim.coolAt (x : Scrim) (v : Int) : Nat := if v ≤ 6080 then x.coolMs + 1 else 0

def Scrim.warnRunAt (x : Scrim) (v : Int) : Nat × Bool :=
  runOf x.warnRun (if x.tempWarn then decide (v < 6400 - 128) else decide (6400 ≤ v))

def Scrim.warnAt (x : Scrim) (v : Int) : Bool := if (x.warnRunAt v).2 then !x.tempWarn else x.tempWarn

def Scrim.hotAt (x : Scrim) (v : Int) : Bool := decide (7040 ≤ v) || (x.tempHot && decide (x.coolAt v < 10000))

def Scrim.sampled (x : Scrim) (v : Int) : Scrim :=
  { x with tempSeen := true, tempWarn := x.warnAt v, warnRun := (x.warnRunAt v).1,
           coolMs := if x.hotAt v then x.coolAt v else 0, tempHot := x.hotAt v }

/-- The state after a sample, and the warning's cause when it begins. -/
def State.warnB (s : State) (t : BitVec 16) : State :=
  let s1 := s.takeTempB t (s.scr.sampled t.toInt)
  if s.scr.warnAt t.toInt && !s.scr.tempWarn then s1.hostCause 3 else s1

theorem execDieBTempSample_eq (t : BitVec 16) (s : State) : execDieBTempSample t s =
    .next (if s.scr.hotAt t.toInt && !s.scr.tempHot then (s.warnB t).tripB else s.warnB t) := rfl

theorem tempHot_irqsAside : irqsAside Scrim.tempHot := fun _ _ _ => ⟨rfl, rfl⟩

theorem warnB_tempHot (s : State) (t : BitVec 16) : (s.warnB t).scrShows Scrim.tempHot (s.scr.hotAt t.toInt) := by
  have htake : (s.takeTempB t (s.scr.sampled t.toInt)).scrShows Scrim.tempHot (s.scr.hotAt t.toInt) := rfl
  unfold State.warnB
  extract_lets s1
  split
  · exact hostCause_scrShows htake tempHot_irqsAside 3
  · exact htake

theorem warnB_temp (hs : s.canonical) (t : BitVec 16) : (s.warnB t).reads .PCIE_TEMP_TEMP 0 t.toNat := by
  have htake := takeTempB_spec hs t (s.scr.sampled t.toInt)
  unfold State.warnB
  extract_lets s1
  split
  · exact (hostCause_keeps ..).reads htake
  · exact htake

theorem tripB_spec (hs : s.canonical) : (∀ r : Fin 8, s.tripB.reads .DMA_STATUS_RUN r 0) ∧
    bit 4 (s.tripB.rd .SCR_HIRQ_CAUSE) = true :=
  ⟨fun r => (hostCause_keeps ..).reads (stopRings_off hs r), hostCause_bit ((stopRings_keeps ..).canon hs) (by decide)⟩

/-- A sample at 110 °C or above trips die B. -/
theorem dieB_trips (hs : s.canonical) {t : BitVec 16} (hv : 7040 ≤ t.toInt) (hcool : s.scr.tempHot = false) :
    execDieBTempSample t s = .next (s.warnB t).tripB ∧ (s.warnB t).tripB.scr.tempHot = true ∧
    (s.warnB t).tripB.rd .PCIE_TEMP_TEMP = t.toNat ∧
    ∀ r : Fin 8, (s.warnB t).tripB.rd .DMA_STATUS_RUN r = 0 ∧ bit 4 ((s.warnB t).tripB.rd .SCR_HIRQ_CAUSE) = true := by
  have hhot : s.scr.hotAt t.toInt = true := by rw [Scrim.hotAt, decide_eq_true hv, Bool.true_or]
  have htemp := warnB_temp hs t
  obtain ⟨hrun, hbit⟩ := tripB_spec htemp.canon
  have hstay : (s.warnB t).tripB.scrShows Scrim.tempHot true :=
    hostCause_scrShows (stopRings_scrShows (hhot ▸ warnB_tempHot s t) tempHot_irqsAside _) tempHot_irqsAside 4
  refine ⟨?_, hstay, ((hostCause_keeps ..).reads ((stopRings_keeps ..).reads htemp)).eq, fun r => ⟨(hrun r).eq, hbit⟩⟩
  rw [execDieBTempSample_eq, if_pos (by rw [hhot, hcool]; rfl)]

/-- Ten seconds at or below 95 °C end the trip. -/
theorem dieB_cools {t : BitVec 16} (hv : t.toInt ≤ 6080) (hms : 9999 ≤ s.scr.coolMs) :
    execDieBTempSample t s = .next (s.warnB t) ∧ (s.warnB t).scr.tempHot = false := by
  have hcold : s.scr.hotAt t.toInt = false := by
    have hcool : s.scr.coolAt t.toInt = s.scr.coolMs + 1 := if_pos hv
    rw [Scrim.hotAt, hcool, decide_eq_false (by omega), decide_eq_false (by omega), Bool.and_false, Bool.or_false]
  refine ⟨?_, hcold ▸ warnB_tempHot s t⟩
  rw [execDieBTempSample_eq, if_neg (by simp [hcold])]

/-- An error of kind 6 stops its ring. -/
theorem dmaErr_spec (hs : s.canonical) (h : s.rd .DMA_STATUS_RUN r = 1) :
    let t := (s.report 6).stopRing .DMA_STATUS_DMA_ERR r
    t.rd .DMA_STATUS_RUN r = 0 ∧ t.rd .DMA_CTRL_EN r = 0 ∧ t.rd .DMA_STATUS_DMA_ERR r = 1 ∧ (t.ring r).buffer = none ∧
    (t.ring r).staged = [] ∧ t.scr.aer.getLsbD 6 = true := by
  obtain ⟨hrun, hen, hcause, hbuf, hstaged⟩ := stopRing_spec (s := s.report 6) ((report_keeps ..).canon hs) h
    (cause := .DMA_STATUS_DMA_ERR)
  have haer : (s.report 6).scrShows (fun x => x.aer.getLsbD 6) true := by
    change (s.scr.aer ||| BitVec.ofNat 8 (2 ^ 6)).getLsbD 6 = true
    rw [BitVec.getLsbD_or]
    simp
  exact ⟨hrun, hen, hcause, hbuf, hstaged, stopRing_scrShows haer (fun _ _ _ => ⟨rfl, rfl⟩) ..⟩

end

/-- Settles O56: each command writes the ring's record, its registers and Scrim's state as named. -/
theorem captureRings : Obligations.CaptureRings := by
  unfold Obligations.CaptureRings
  refine ⟨fun s r w hs hw hrun hcool hlimit hfits hup hbus => ⟨_, rfl, writeDmaCtrl_starts hs hw hrun hcool hlimit hfits hup hbus⟩,
    fun s r w hs hw hrun h => ⟨_, rfl, writeDmaCtrl_refused hs hw hrun h⟩,
    fun s r w hs hw => ⟨_, rfl, writeDmaCtrl_stops hs r hw⟩,
    fun s r w hs hsize hpost => ⟨_, rfl, writeDmaHead_taken hs hsize hpost⟩,
    fun s r w hs h => ⟨_, rfl, writeDmaHead_refused hs h⟩,
    fun s r d x xs hs hst hb hrun hup hcred _ hpost hd => ⟨_, rfl, ?_⟩,
    fun s r d x xs hs hst hb hrun hup hcred hpost hd => ⟨_, rfl, ?_⟩,
    fun s r b hs hb hfull => ⟨_, congrArg Host.Outcome.next (if_pos ?_), ?_⟩,
    fun s r b hs hb hus => ⟨_, congrArg Host.Outcome.next (if_neg hus), ?_⟩,
    fun s r hs hc => ⟨_, congrArg Host.Outcome.next (if_neg hc), ?_⟩,
    fun s r hs h => ⟨_, rfl, dmaErr_spec hs h⟩, fun s r hs h => ⟨_, rfl, dmaErr_spec hs h⟩,
    fun s k r hs hk => ⟨_, congrArg Host.Outcome.next (if_neg hk), rfl, rfl, rfl⟩,
    fun s gen width hs hlow hhigh hwidth r _ =>
      ⟨_, congrArg Host.Outcome.next (if_pos ⟨hlow, hhigh, ?_⟩), retrain_spec hs gen.isLt hwidth⟩,
    fun s hs => ⟨s.stopBme, rfl, rfl, stopBme_off hs⟩,
    fun s x hs hv hcool => ⟨_, dieB_trips hs hv hcool⟩, fun s x hs hv _ hms => ⟨_, dieB_cools hv hms⟩⟩
  · rw [captureGrain_of_new hst hb hrun hup hcred hpost, if_neg (by rw [hd]; decide)]
    obtain ⟨hring, hcredit⟩ := takeStaged_spec hs r (beginBuffer d x) xs
    obtain ⟨hstaged, hbuf⟩ := Prod.mk.inj hring.eq
    exact ⟨hstaged, by rw [hbuf]; rfl, hcredit⟩
  · rw [captureGrain_of_new hst hb hrun hup hcred hpost, if_pos hd]
    exact badDescriptor_spec hs hst _
  · rw [mustClose, hb]
    exact Bool.or_eq_true_iff.mpr (.inl (decide_eq_true hfull))
  · obtain ⟨hbuf, hdone, htail⟩ := closeBuffer_spec hs hb false
    exact ⟨hbuf, by rw [hdone]; rfl, htail⟩
  · obtain ⟨hbuf, hdone, -⟩ := closeBuffer_spec hs hb false
    exact ⟨hbuf, by rw [hdone]; rfl⟩
  · exact ((interrupt_keeps ..).ringShows (hs.ringShows_setRing r { s.ring r with closed := 0 } Ring.closed)).eq
  · simp only [List.mem_cons, List.not_mem_nil, or_false] at hwidth ⊢
    omega

end Sys2Proof.Machine
end

section
/-!
SUPPORT. Scrim (18_scrim_host.md R386 to R391, R397; 11_conservation.md R288): accesses of the field half as messages with
their credits, the loss of the link, and its re-establishment.
-/

namespace Sys2Proof.Machine

-- One proof after another, as in the files under Laws: each waits for the kernel's evaluations.
set_option Elab.async false

section
variable {s : State} {f : Field} {i v : Nat} {β : Type} {p : Scrim → β} {b : β}

/-- Scrim's state is no register field. -/
theorem State.reads.put_scr (h : s.reads f i v) (x : Scrim) : ({ s with scr := x } : State).reads f i v :=
  ⟨{ h.canon with }, h.eq⟩

/-! ### The host end makes REQ messages (R387, R389) -/

theorem accessWords_bounds (wide : Bool) : 1 ≤ accessWords wide ∧ accessWords wide ≤ 2 := by cases wide <;> decide

/-- The access that HOST_FIELD_ACCESS makes. -/
def accessAt (off : BitVec 20) (wide : Bool) (write : Option Word64) : HostAccess :=
  { off := off.toNat, wide := wide, writes := write.map fun (w : Word64) => [w.setWidth 32, (w >>> 32).setWidth 32] }

theorem execHostFieldAccess_of_aligned {off : BitVec 20} {wide : Bool} (hoff : off.toNat < 0x80000)
    (hal : off.toNat % (4 * accessWords wide) = 0) (write : Option Word64) (masked : Bool) (s : State) :
    execHostFieldAccess off wide write masked s = .next (s.hostAccess (accessAt off wide write) masked) :=
  congrArg _ ((if_neg (Nat.not_le.mpr hoff)).trans (if_neg (not_not.mpr hal)))

theorem execHostFieldAccess_of_unaligned {off : BitVec 20} {wide : Bool} (hoff : off.toNat < 0x80000)
    (hal : off.toNat % (4 * accessWords wide) ≠ 0) (write : Option Word64) (masked : Bool) (s : State) :
    execHostFieldAccess off wide write masked s = .next (s.report 5) :=
  congrArg _ ((if_neg (Nat.not_le.mpr hoff)).trans (if_pos hal))

/-- An access with all its bytes waits behind those that are stalled. -/
theorem hostAccess_of_up (hup : s.rd .SCR_HSTATUS_FIELD_UP = 1) (a : HostAccess) :
    s.hostAccess a false = State.takeStalled (s.scr.stalled ++ [a]) s :=
  (if_neg (by simp [State.is, hup])).trans (if_neg (by simp))

/-- A write that does not enable all its bytes is counted, and nothing else. -/
theorem hostAccess_of_masked (hup : s.rd .SCR_HSTATUS_FIELD_UP = 1) {a : HostAccess} (ha : a.writes.isSome = true) :
    s.hostAccess a true = s.bump .SCR_HCOUNT_PARTIAL_WR :=
  ((if_neg (by simp [State.is, hup])).trans (if_pos (by simp [ha]))).trans (if_pos (by simp [ha]))

theorem hostAccess_of_down (hdown : s.rd .SCR_HSTATUS_FIELD_UP = 0) (a : HostAccess) :
    s.hostAccess a false = s.absentAccess (if a.writes.isNone then some (accessWords a.wide) else none) :=
  if_pos (by simp [State.is, hdown])

theorem sendReqs_scr (s : State) (a : HostAccess) : (s.sendReqs a).scr = { s.scr with
    reqs := s.scr.reqs ++ reqsOf a
    reads := if a.writes.isNone then s.scr.reads ++ [accessWords a.wide] else s.scr.reads } := by
  simp [State.sendReqs, State.scrimReceived, State.tally, State.tallyMask]

theorem sendReqs_credit (hs : s.canonical) (a : HostAccess) :
    (s.sendReqs a).reads .SCR_HCREDIT_REQ 0 (s.rd .SCR_HCREDIT_REQ - accessWords a.wide) := by
  have hlt := State.rd_lt hs .SCR_HCREDIT_REQ 0
  exact ((scrimReceived_keeps ..).reads (hs.reads_wr (hv := by omega))).put_scr _

/-- With nothing stalled and credits for it, an access leaves as REQ messages. -/
theorem hostAccess_sent (hs : s.canonical) (hup : s.rd .SCR_HSTATUS_FIELD_UP = 1) (hst : s.scr.stalled = [])
    (hc : 2 ≤ s.rd .SCR_HCREDIT_REQ) (a : HostAccess) :
    let t := s.hostAccess a false
    t.scr.reqs = s.scr.reqs ++ reqsOf a ∧
    t.scr.reads = (if a.writes.isNone then s.scr.reads ++ [accessWords a.wide] else s.scr.reads) ∧
    t.rd .SCR_HCREDIT_REQ = s.rd .SCR_HCREDIT_REQ - accessWords a.wide := by
  have heq : s.hostAccess a false = { s.sendReqs a with scr := { (s.sendReqs a).scr with stalled := [] } } := by
    rw [hostAccess_of_up hup, hst]
    exact if_pos ((accessWords_bounds _).2.trans hc)
  rw [heq]
  exact ⟨congrArg Scrim.reqs (sendReqs_scr s a), congrArg Scrim.reads (sendReqs_scr s a),
    ((sendReqs_credit hs a).put_scr _).eq⟩

/-- The first message of a write carries its low word. -/
theorem reqsOf_accessAt_head (off : BitVec 20) (wide : Bool) (w : Word64) :
    (reqsOf (accessAt off wide (some w))).head? = some ⟨off.toNat, some (w.setWidth 32)⟩ := by
  cases wide <;> rfl

theorem reqsOf_length (a : HostAccess) : (reqsOf a).length = accessWords a.wide := by simp [reqsOf]

/-- Without a credit the oldest access that waits keeps all waiting. -/
theorem takeStalled_of_no_credit (hc : s.rd .SCR_HCREDIT_REQ = 0) (as : List HostAccess) :
    State.takeStalled as s = { s with scr := { s.scr with stalled := as } } := by
  cases as with
  | nil => rfl
  | cons a rest =>
    have ha := (accessWords_bounds a.wide).1
    exact if_neg (by omega)

/-! ### The field end serves them (R388) -/

/-- A REQ message taken, whose credit the field end owes. -/
def State.takeReq (s : State) (rest : List HostReq) : State := State.owe { s with scr := { s.scr with reqs := rest } } 0

/-- The RSP message of a read, with its credit. -/
def State.sendRsp (s : State) : State :=
  let s1 := (s.wr .SCR_FCREDIT_RSP 0 (s.rd .SCR_FCREDIT_RSP - 1)).scrimSent
  { s1 with scr := { s1.scr with rsps := s1.scr.rsps ++ [(s1.reader 5).data] } }

theorem serveReq_of_read {o : Nat} {rest : List HostReq} (hreq : s.scr.reqs = ⟨o, none⟩ :: rest) (hc : s.rd .SCR_FCREDIT_RSP ≠ 0) :
    s.serveReq = ((s.takeReq rest).readReg .host o).sendRsp := by
  unfold State.serveReq
  rw [hreq]
  exact if_neg hc

theorem sendRsp_scr (s : State) : ∃ w, s.sendRsp.scr = { s.scr with rsps := s.scr.rsps ++ [w] } := by
  refine ⟨((s.wr .SCR_FCREDIT_RSP 0 (s.rd .SCR_FCREDIT_RSP - 1)).scrimSent.reader 5).data, ?_⟩
  simp [State.sendRsp, State.scrimSent, State.tally, State.tallyMask]

theorem sendRsp_credit (h : s.reads .SCR_FCREDIT_RSP 0 v) : s.sendRsp.reads .SCR_FCREDIT_RSP 0 (v - 1) := by
  have hlt := State.rd_lt h.canon .SCR_FCREDIT_RSP 0
  rw [← h.eq]
  exact ((scrimSent_keeps ..).reads (h.canon.reads_wr (hv := by omega))).put_scr _

/-- The field end answers a read, whatever it reads. -/
theorem serveReq_spec (hs : s.canonical) {o : Nat} {rest : List HostReq} (hreq : s.scr.reqs = ⟨o, none⟩ :: rest)
    (hc : s.rd .SCR_FCREDIT_RSP ≠ 0) : s.serveReq.scr.reqs = rest ∧ s.serveReq.scr.rsps.length = s.scr.rsps.length + 1 ∧
    s.serveReq.rd .SCR_FCREDIT_RSP = s.rd .SCR_FCREDIT_RSP - 1 := by
  have hread := readReg_keeps (s.takeReq rest) .host o
  obtain ⟨w, hw⟩ := sendRsp_scr ((s.takeReq rest).readReg .host o)
  have hshow : ((s.takeReq rest).readReg .host o).scrShows (fun x => (x.reqs, x.rsps)) (rest, s.scr.rsps) :=
    hread.scrShows (s := s.takeReq rest) rfl
  obtain ⟨hreqs, hrsps⟩ := Prod.mk.inj hshow
  rw [serveReq_of_read hreq hc, hw, hreqs, hrsps]
  exact ⟨rfl, List.length_append, (sendRsp_credit (hread.reads ((hs.reads ..).put_scr _))).eq⟩

/-! ### The result reaches the host end (R389) -/

/-- The last word of the oldest read completes it. -/
theorem scrimRsp_completes {w : Word} {rest : List Word} {k : Nat} {ks : List Nat} (hup : s.rd .SCR_HSTATUS_FIELD_UP = 1)
    (hrsps : s.scr.rsps = w :: rest) (hreads : s.scr.reads = k :: ks) (hk : k ≤ s.scr.partRead.length + 1) :
    ∃ t, execScrimRsp s = .next t ∧ t.scr.hostRead = s.scr.partRead ++ [w] ∧ t.scr.reads = ks ∧ t.scr.rsps = rest ∧
      t.scr.partRead = [] := by
  have hwords : ¬ (s.scr.partRead ++ [w]).length < k := by
    rw [List.length_append]
    exact Nat.not_lt.mpr hk
  unfold execScrimRsp
  rw [hrsps, hreads]
  exact ⟨_, congrArg _ ((if_neg (by simp [State.is, hup])).trans (if_neg hwords)), rfl, rfl, rfl, rfl⟩

/-! ### EVT messages and MSI-X (R397) -/

/-- The oldest EVT message leaves, and the field end's credit for it. -/
def State.takeEvt (s : State) (es : List Nat) : State := State.scrimSent { s with scr := { s.scr with evts := es } }

def State.spendEvt (s : State) : State := s.wr .SCR_FCREDIT_EVT 0 (s.rd .SCR_FCREDIT_EVT - 1)

theorem execEvtMessage_of_credit {es : List Nat} (hevts : s.scr.evts = v :: es) (hup : s.rd .SCR_HSTATUS_FIELD_UP = 1)
    (hhost : s.rd .SCR_FSTATUS_HOST_UP = 1) (hc : 0 < s.rd .SCR_FCREDIT_EVT) :
    execEvtMessage s = .next (((s.takeEvt es).spendEvt.owe 2).interrupt v) := by
  unfold execEvtMessage
  rw [hevts]
  exact congrArg Host.Outcome.next (if_pos (by simp [State.is, hup, hhost, hc]))

theorem sendEvt_spec (hs : s.canonical) (es : List Nat) (v : Nat) :
    let t := ((s.takeEvt es).spendEvt.owe 2).interrupt v
    t.scr.evts = es ∧ t.rd .SCR_FCREDIT_EVT = s.rd .SCR_FCREDIT_EVT - 1 := by
  have hlt := State.rd_lt hs .SCR_FCREDIT_EVT 0
  have hcredit : (s.takeEvt es).reads .SCR_FCREDIT_EVT 0 (s.rd .SCR_FCREDIT_EVT) :=
    (scrimSent_keeps ..).reads ((hs.reads ..).put_scr _)
  have hspent : (s.takeEvt es).spendEvt.reads .SCR_FCREDIT_EVT 0 (s.rd .SCR_FCREDIT_EVT - 1) := by
    unfold State.spendEvt
    rw [hcredit.eq]
    exact hcredit.canon.reads_wr (hv := by omega)
  have hshow : (s.takeEvt es).spendEvt.scrShows Scrim.evts es := (wr_keeps ..).scrShows (s := s.takeEvt es) rfl
  have howed : ((s.takeEvt es).spendEvt.owe 2).scrShows Scrim.evts es := hshow
  exact ⟨interrupt_scrShows howed (fun _ _ _ => ⟨rfl, rfl⟩) v, ((interrupt_keeps ..).reads (hspent.put_scr _)).eq⟩

/-- A vector that is not masked is delivered, or lost without bus mastering; it is never pending. -/
theorem interrupt_of_unmasked (h : (Store.get msixReset s.scr.msix (4 * v + 3)).getLsbD 0 = false) :
    (s.interrupt v).scrShows (fun x => (x.pba, x.msix)) (s.scr.pba, s.scr.msix) := by
  unfold State.interrupt
  extract_lets ctl
  split
  · rfl
  · rw [if_neg (show ¬ ctl.getLsbD 0 = true from Bool.eq_false_iff.mp h)]
    rfl

/-- A pending vector whose mask bit is cleared is pending no longer. -/
theorem msixWrite_unmasks (hwf : Store.wf msixReset s.scr.msix = true) (hv : bit v s.scr.pba = true) {w : Nat}
    (hw : (BitVec.ofNat 32 w).getLsbD 0 = false) :
    bit v (s.msixWrite (4 * v + 3) w).scr.pba = false ∧
    (Store.get msixReset (s.msixWrite (4 * v + 3) w).scr.msix (4 * v + 3)).getLsbD 0 = false := by
  have hmask : (Store.get msixReset (Store.set msixReset s.scr.msix (4 * v + 3) (BitVec.ofNat 32 w)) (4 * v + 3)).getLsbD 0 = false := by
    rw [Store.get_set_self hwf]
    exact hw
  have hix : (4 * v + 3) / 4 = v := by omega
  let s1 : State := { s with scr := { s.scr with
    msix := Store.set msixReset s.scr.msix (4 * v + 3) (BitVec.ofNat 32 w), pba := s.scr.pba - 2 ^ v } }
  have heq : s.msixWrite (4 * v + 3) w = s1.interrupt v := by
    unfold State.msixWrite
    rw [hix]
    exact if_pos (by rw [hmask, hv]; rfl)
  obtain ⟨hpba, hmsix⟩ := Prod.mk.inj (interrupt_of_unmasked (s := s1) hmask)
  rw [heq, hpba, hmsix]
  exact ⟨bit_sub_two_pow hv, hmask⟩

/-! ### The link is lost (R390) -/

/-- Accesses that find the field side absent change no more of Scrim's state than what the host reads. -/
theorem absentAccess_scrShows (h : s.scrShows p b) (hp : ∀ x ws, p { x with hostRead := ws } = p x) (words : Option Nat) :
    (s.absentAccess words).scrShows p b := by
  have h1 : (s.bump .SCR_HCOUNT_ABSENT).scrShows p b := (bump_keeps ..).scrShows h
  unfold State.absentAccess
  extract_lets s1
  split
  · exact (hp _ _).trans h1
  · exact h1

/-- FIELD_UP is 0, and each access under way has completed as one of an absent field side. -/
def State.failAccesses (s : State) : State :=
  let s1 := (s.clr .SCR_HSTATUS_FIELD_UP).bump .SCR_HCOUNT_UNSURE_WR 0 (s.scr.reqs.filter fun m => m.write.isSome).length
  let s2 := s.scr.reads.foldl (fun t k => t.absentAccess (some k)) s1
  s.scr.stalled.foldl (fun t a => t.absentAccess (if a.writes.isNone then some (accessWords a.wide) else none)) s2

/-- The host end waits for nothing. -/
def State.dropAccesses (s : State) : State := { s with scr := { s.scr with reads := [], partRead := [], stalled := [] } }

theorem fieldLost_of_up (hup : s.rd .SCR_HSTATUS_FIELD_UP = 1) :
    s.fieldLost = (s.failAccesses.dropAccesses.stopRings .DMA_STATUS_FIELD_LOST).hostCause 0 :=
  if_neg (by simp [State.is, hup])

theorem fieldLost_of_down (hdown : s.rd .SCR_HSTATUS_FIELD_UP = 0) : s.fieldLost = s :=
  if_pos (by simp [State.is, hdown])

theorem failAccesses_down (hs : s.canonical) : s.failAccesses.reads .SCR_HSTATUS_FIELD_UP 0 0 := by
  refine List.foldlRecOn (motive := fun t : State => t.reads .SCR_HSTATUS_FIELD_UP 0 0) _ _ ?_
    fun t ht _ _ => (absentAccess_keeps ..).reads ht
  refine List.foldlRecOn (motive := fun t : State => t.reads .SCR_HSTATUS_FIELD_UP 0 0) _ _ ?_
    fun t ht _ _ => (absentAccess_keeps ..).reads ht
  exact (bump_keeps ..).reads hs.reads_wr

theorem failAccesses_reqs (s : State) : s.failAccesses.scrShows Scrim.reqs s.scr.reqs := by
  refine List.foldlRecOn (motive := fun t : State => t.scrShows Scrim.reqs s.scr.reqs) _ _ ?_
    fun t ht _ _ => absentAccess_scrShows ht (fun _ _ => rfl) _
  refine List.foldlRecOn (motive := fun t : State => t.scrShows Scrim.reqs s.scr.reqs) _ _ ?_
    fun t ht _ _ => absentAccess_scrShows ht (fun _ _ => rfl) _
  exact (bump_keeps ..).scrShows ((clr_keeps ..).scrShows rfl)

/-- The link was up: nothing waits at the host end, and the REQ messages under way stay. -/
theorem fieldLost_scr (hup : s.rd .SCR_HSTATUS_FIELD_UP = 1) :
    s.fieldLost.scrShows (fun x => (x.reads, x.stalled, x.reqs)) ([], [], s.scr.reqs) := by
  have hdrop : s.failAccesses.dropAccesses.scrShows (fun x => (x.reads, x.stalled, x.reqs)) ([], [], s.scr.reqs) :=
    congrArg (fun r => (([] : List Nat), ([] : List HostAccess), r)) (failAccesses_reqs s)
  rw [fieldLost_of_up hup]
  exact hostCause_scrShows (stopRings_scrShows hdrop (fun _ _ _ => ⟨rfl, rfl⟩) _) (fun _ _ _ => ⟨rfl, rfl⟩) 0

/-- The cause FIELD_DOWN is shown to the host. -/
theorem fieldLost_cause (hs : s.canonical) (hup : s.rd .SCR_HSTATUS_FIELD_UP = 1) :
    bit 0 (s.fieldLost.rd .SCR_HIRQ_CAUSE) = true := by
  rw [fieldLost_of_up hup]
  exact hostCause_bit ((stopRings_keeps ..).canon ((failAccesses_down hs).put_scr _).canon) (by decide)

theorem fieldLost_down (hs : s.canonical) : s.fieldLost.reads .SCR_HSTATUS_FIELD_UP 0 0 := by
  have hlt : s.rd .SCR_HSTATUS_FIELD_UP < 2 := State.rd_lt hs ..
  rcases Nat.lt_or_ge (s.rd .SCR_HSTATUS_FIELD_UP) 1 with h | h
  · have hdown : s.rd .SCR_HSTATUS_FIELD_UP = 0 := by omega
    rw [fieldLost_of_down hdown]
    exact ⟨hs, hdown⟩
  · rw [fieldLost_of_up (by omega)]
    exact (hostCause_keeps ..).reads ((stopRings_keeps ..).reads ((failAccesses_down hs).put_scr _))

/-! ### Lanes (R386) -/

theorem refreshLimit_scrShows (h : s.scrShows p b) (hp : irqsAside p) : s.refreshLimit.scrShows p b := by
  refine List.foldlRecOn (motive := fun t : State => t.scrShows p b) _ _ ((wrB_keeps ..).scrShows ((wr_keeps ..).scrShows h))
    fun t ht r _ => ?_
  split
  · exact ht
  · exact stopRing_scrShows ht hp ..

/-- Scrim's state with one good lane less in a direction. -/
def Scrim.laneLess (x : Scrim) (toHost : Bool) : Scrim :=
  if toHost then { x with toHost := x.toHost - 1 } else { x with toField := x.toField - 1 }

/-- Both ends show the lanes left, with the cause LANE_DROP. -/
def State.showDrop (s : State) (toHost : Bool) : State :=
  (({ s with scr := s.scr.laneLess toHost } : State).showScrim.hostCause 2).refreshLimit

theorem laneDrop_eq (s : State) (d : Bool) : s.laneDrop d =
    if 4 ≤ (s.showDrop d).scr.toHost ∧ 4 ≤ (s.showDrop d).scr.toField then s.showDrop d
    else (s.showDrop d).fieldLost.sendFault 0xB5 0x63 := by
  unfold State.laneDrop
  extract_lets c x s1
  have hx : x = s.scr.laneLess d := rfl
  have hs1 : s1 = s.showDrop d := congrArg (fun y => (({ s with scr := y } : State).showScrim.hostCause 2).refreshLimit) hx
  rw [hs1]

theorem showScrim_reads (hs : s.canonical) (hl : s.scr.toHost < 16) : s.showScrim.reads .SCR_HSTATUS_LANES_RX 0 s.scr.toHost :=
  (wr_keeps ..).reads (hs.reads_wr (hv := hl))

theorem showScrim_keeps_link (s : State) :
    State.keeps (writes [.SCR_HSTATUS_LANES_RX, .SCR_FSTATUS_LANES_RX] []) s s.showScrim := by
  refine State.keeps.step ((wr_keeps ..).mono ?_) (wr_keeps ..) ?_ <;> decide +kernel

theorem showDrop_scr (s : State) (d : Bool) : (s.showDrop d).scrShows (fun x => (x.toHost, x.toField))
    (s.scr.toHost - (if d then 1 else 0), s.scr.toField - (if d then 0 else 1)) := by
  have hless : ({ s with scr := s.scr.laneLess d } : State).scrShows (fun x => (x.toHost, x.toField))
      (s.scr.toHost - (if d then 1 else 0), s.scr.toField - (if d then 0 else 1)) := by
    cases d <;> rfl
  exact refreshLimit_scrShows (hostCause_scrShows ((showScrim_keeps_link _).scrShows hless) (fun _ _ _ => ⟨rfl, rfl⟩) 2)
    fun _ _ _ => ⟨rfl, rfl⟩

theorem showDrop_lanes (hs : s.canonical) (d : Bool) (hl : s.scr.toHost ≤ 8) :
    (s.showDrop d).rd .SCR_HSTATUS_LANES_RX = s.scr.toHost - (if d then 1 else 0) := by
  have hless : (s.scr.laneLess d).toHost = s.scr.toHost - (if d then 1 else 0) := by cases d <;> rfl
  have hshow := showScrim_reads (s := { s with scr := s.scr.laneLess d }) { hs with } (by
    show (s.scr.laneLess d).toHost < 16
    omega)
  exact ((refreshLimit_keeps ..).reads ((hostCause_keeps ..).reads hshow)).eq.trans hless

theorem showDrop_cause (hs : s.canonical) (d : Bool) : bit 2 ((s.showDrop d).rd .SCR_HIRQ_CAUSE) = true := by
  have hcanon : ({ s with scr := s.scr.laneLess d } : State).showScrim.canonical := (showScrim_keeps_link _).canon { hs with }
  have hcause := (hostCause_keeps _ 2).canon hcanon
  have hread := (refreshLimit_keeps ..).reads (hcause.reads .SCR_HIRQ_CAUSE 0)
  unfold State.showDrop
  rw [hread.eq]
  exact hostCause_bit hcanon (by decide)

theorem showDrop_up (hs : s.canonical) (d : Bool) :
    (s.showDrop d).reads .SCR_HSTATUS_FIELD_UP 0 (s.rd .SCR_HSTATUS_FIELD_UP) :=
  (refreshLimit_keeps ..).reads ((hostCause_keeps ..).reads ((showScrim_keeps_link _).reads ((hs.reads ..).put_scr _)))

/-- With four good lanes left in each direction the link stays. -/
theorem laneDrop_stays (d : Bool) (hh : 5 ≤ s.scr.toHost) (hf : 5 ≤ s.scr.toField) : s.laneDrop d = s.showDrop d := by
  obtain ⟨hhost, hfield⟩ := Prod.mk.inj (showDrop_scr s d)
  rw [laneDrop_eq]
  refine if_pos ?_
  rw [hhost, hfield]
  cases d <;> simp <;> omega

/-- The fifth lane lost ends the link, with its fault. -/
theorem laneDrop_ends (hs : s.canonical) (hh : s.scr.toHost = 4) :
    (s.laneDrop true).rd .SCR_HSTATUS_FIELD_UP = 0 ∧ (s.laneDrop true).faultWaits 0xB5 0x63 = true := by
  obtain ⟨hhost, -⟩ := Prod.mk.inj (showDrop_scr s true)
  have heq : s.laneDrop true = (s.showDrop true).fieldLost.sendFault 0xB5 0x63 := by
    rw [laneDrop_eq]
    exact if_neg (by simp [hhost, hh])
  rw [heq]
  exact ⟨((sendFault_keeps ..).reads (fieldLost_down (showDrop_up hs true).canon)).eq, State.faultWaits_sendFault ..⟩

/-! ### Re-establishment (R288, R390) -/

/-- Scrim's state with every message discarded and every CAP credit back. -/
def Scrim.discarded (x : Scrim) : Scrim := { x with
  reqs := [], stalled := [], rsps := [], partRead := [], reads := [], evts := [], mbxToField := [], mbxToHost := [],
  mbxField := [], mbxHost := [], staging := none, owed := [0, 0, 0, 0, 0, 0], capCredit := 256 }

/-- The credit counters of both ends, full. -/
def fullCredits : List (Field × Nat) :=
  [(.SCR_HCREDIT_REQ, 32), (.SCR_HCREDIT_MBX_TX, 16), (.SCR_FCREDIT_RSP, 32), (.SCR_FCREDIT_EVT, 16),
    (.SCR_FCREDIT_MBX_TX, 16), (.SCR_FCREDIT_CAP8, 32), (.SCR_MB_CTRL_RX_LEVEL, 0), (.MBX_CTRL_RX_LEVEL, 0)]

def State.fill (s : State) (xs : List (Field × Nat)) : State := xs.foldl (fun t x => t.wr x.1 0 x.2) s

theorem discardMessages_eq (s : State) : s.discardMessages =
    (({ s with scr := s.scr.discarded } : State).fill fullCredits).setReader 5 {} := rfl

theorem fill_reads_of_notMem {xs : List (Field × Nat)} (h : s.reads f i v) (hf : ∀ x ∈ xs, f ≠ x.1) : (s.fill xs).reads f i v :=
  List.foldlRecOn (motive := fun t : State => t.reads f i v) _ _ h
    fun _ ht x hx => (wr_keeps ..).reads ht (inSet_writes (by simpa using hf x hx))

/-- A counter reads as the list gives it, when no later entry names it. -/
theorem fill_reads (hs : s.canonical) {pre post : List (Field × Nat)} (hl : f.locked = false := by decide +kernel)
    (hv : v < 2 ^ f.row.width := by decide +kernel) (hpost : ∀ x ∈ post, f ≠ x.1 := by decide +kernel) :
    (s.fill (pre ++ (f, v) :: post)).reads f 0 v := by
  have hpre : (s.fill pre).canonical :=
    List.foldlRecOn (motive := State.canonical) _ _ hs fun _ ht _ _ => (wr_keeps ..).canon ht
  have heq : s.fill (pre ++ (f, v) :: post) = ((s.fill pre).wr f 0 v).fill post := List.foldl_append
  rw [heq]
  exact fill_reads_of_notMem (hpre.reads_wr hl hv) hpost

theorem discardMessages_credits (hs : s.canonical) : s.discardMessages.reads .SCR_HCREDIT_REQ 0 32 ∧
    s.discardMessages.reads .SCR_FCREDIT_RSP 0 32 := by
  have hcanon : ({ s with scr := s.scr.discarded } : State).canonical := { hs with }
  exact ⟨(setReader_keeps ..).reads (fill_reads (pre := []) hcanon),
    (setReader_keeps ..).reads (fill_reads (pre := [(.SCR_HCREDIT_REQ, 32), (.SCR_HCREDIT_MBX_TX, 16)]) hcanon)⟩

theorem discardMessages_scr (s : State) : s.discardMessages.scrShows id s.scr.discarded :=
  (setReader_keeps ..).scrShows (List.foldlRecOn (motive := fun t : State => t.scrShows id s.scr.discarded) _ _ rfl
    fun _ ht _ _ => (wr_keeps ..).scrShows ht (partIn_writes (by simp)))

/-- Both ends have lost the link and discarded its messages, and know the good lanes. -/
def State.relink (s : State) (toHost toField : Nat) : State :=
  let s1 := s.fieldLost.discardMessages
  { s1 with scr := { s1.scr with toHost := toHost, toField := toField } }

/-- The link is up in a new epoch. -/
def State.linkUp (s : State) : State := ((s.set1 .SCR_HSTATUS_FIELD_UP).set1 .SCR_FSTATUS_HOST_UP).roll .SCR_HSTATUS_LINK_EPOCH

theorem scrimSync_eq (s : State) (x y : Nat) :
    s.scrimSync x y = ((s.relink x y).showScrim.refreshLimit.linkUp.hostCause 1).sendClear 0xB5 0x63 := rfl

theorem linkUp_keeps (s : State) :
    State.keeps (writes [.SCR_HSTATUS_FIELD_UP, .SCR_FSTATUS_HOST_UP, .SCR_HSTATUS_LINK_EPOCH] []) s s.linkUp := by
  refine State.keeps.step (State.keeps.step ((set1_keeps ..).mono ?_) (set1_keeps ..) ?_) (roll_keeps ..) ?_ <;> decide +kernel

theorem linkUp_spec (hs : s.canonical) : s.linkUp.reads .SCR_HSTATUS_FIELD_UP 0 1 ∧ s.linkUp.reads .SCR_FSTATUS_HOST_UP 0 1 := by
  have hfield : (s.set1 .SCR_HSTATUS_FIELD_UP).reads .SCR_HSTATUS_FIELD_UP 0 1 := hs.reads_wr
  have hhost : ((s.set1 .SCR_HSTATUS_FIELD_UP).set1 .SCR_FSTATUS_HOST_UP).reads .SCR_FSTATUS_HOST_UP 0 1 := hfield.canon.reads_wr
  exact ⟨(roll_keeps ..).reads ((set1_keeps ..).reads hfield), (roll_keeps ..).reads hhost⟩

/-- Both ends are up, with full credits. -/
theorem scrimSync_regs (hs : s.canonical) (x y : Nat) :
    let t := s.scrimSync x y
    t.rd .SCR_HSTATUS_FIELD_UP = 1 ∧ t.rd .SCR_FSTATUS_HOST_UP = 1 ∧ t.rd .SCR_HCREDIT_REQ = 32 ∧ t.rd .SCR_FCREDIT_RSP = 32 := by
  obtain ⟨hreq, hrsp⟩ := discardMessages_credits ((fieldLost_keeps s).canon hs)
  have hlink {f : Field} {v : Nat} (h : s.fieldLost.discardMessages.reads f 0 v)
      (hf : inSet (writes [.SCR_HSTATUS_LANES_RX, .SCR_FSTATUS_LANES_RX] []) f = false)
      (hr : inSet writes_refreshLimit f = false) : (s.relink x y).showScrim.refreshLimit.reads f 0 v :=
    (refreshLimit_keeps ..).reads ((showScrim_keeps_link _).reads (h.put_scr _) hf) hr
  have hreq1 := hlink hreq (by decide +kernel) (by decide +kernel)
  have hrsp1 := hlink hrsp (by decide +kernel) (by decide +kernel)
  obtain ⟨hfield, hhost⟩ := linkUp_spec hreq1.canon
  rw [scrimSync_eq]
  exact ⟨((sendClear_keeps ..).reads ((hostCause_keeps ..).reads hfield)).eq,
    ((sendClear_keeps ..).reads ((hostCause_keeps ..).reads hhost)).eq,
    ((sendClear_keeps ..).reads ((hostCause_keeps ..).reads ((linkUp_keeps _).reads hreq1))).eq,
    ((sendClear_keeps ..).reads ((hostCause_keeps ..).reads ((linkUp_keeps _).reads hrsp1))).eq⟩

/-- Nothing is under way, and the lanes are those that were found good. -/
theorem scrimSync_scr (s : State) (x y : Nat) :
    (s.scrimSync x y).scrShows (fun c => (c.reqs, c.rsps, c.reads, c.toHost)) ([], [], [], x) := by
  have hrelink : (s.relink x y).scrShows (fun c => (c.reqs, c.rsps, c.reads, c.toHost)) ([], [], [], x) :=
    congrArg (fun c : Scrim => (c.reqs, c.rsps, c.reads, x)) (discardMessages_scr s.fieldLost)
  have hshown := refreshLimit_scrShows ((showScrim_keeps_link _).scrShows hrelink) fun _ _ _ => ⟨rfl, rfl⟩
  rw [scrimSync_eq]
  exact (sendClear_keeps ..).scrShows (hostCause_scrShows ((linkUp_keeps _).scrShows hshown) (fun _ _ _ => ⟨rfl, rfl⟩) 1)

/-! ### Credits come back (R288) -/

/-- REQ and mailbox credits counted back, with a LINK message where any is owed. -/
def State.regainCredits (s : State) : State :=
  ((if s.owes [0, 3] then s.scrimSent else s).giveBack .SCR_HCREDIT_REQ (s.scr.owed.getD 0 0)).giveBack .SCR_HCREDIT_MBX_TX
    (s.scr.owed.getD 3 0)

/-- The field end owes none of them. -/
def State.settleCredits (s : State) : State := { s with scr := { s.scr with owed := (s.scr.owed.set 0 0).set 3 0 } }

/-- While the mailbox's queue is not full no interrupt follows. -/
theorem creditsToHost_of_room (h : s.rd .SCR_HCREDIT_MBX_TX ≠ 0) :
    s.creditsToHost = State.takeStalled s.regainCredits.settleCredits.scr.stalled s.regainCredits.settleCredits := by
  have hnone : ¬ ((s.rd .SCR_HCREDIT_MBX_TX == 0) && decide (0 < s.scr.owed.getD 3 0)) = true := by simp [h]
  exact congrArg (fun t : State => State.takeStalled t.scr.stalled t) (if_neg hnone)

theorem regainCredits_scr (s : State) : s.regainCredits.scrShows id s.scr := by
  refine (wr_keeps ..).scrShows ((wr_keeps ..).scrShows ?_)
  split
  · exact (scrimSent_keeps s).scrShows rfl
  · rfl

theorem regainCredits_req (hs : s.canonical) (h : s.rd .SCR_HCREDIT_REQ + s.scr.owed.getD 0 0 ≤ 32) :
    s.regainCredits.reads .SCR_HCREDIT_REQ 0 (s.rd .SCR_HCREDIT_REQ + s.scr.owed.getD 0 0) := by
  have hsent : State.keeps writes_scrimSent s (if s.owes [0, 3] then s.scrimSent else s) :=
    State.keeps.ite (fun _ => scrimSent_keeps s) fun _ => State.keeps.refl
  have hreq := hsent.reads (hs.reads .SCR_HCREDIT_REQ 0)
  unfold State.regainCredits
  refine (wr_keeps ..).reads ?_
  unfold State.giveBack
  rw [hreq.eq]
  exact hreq.canon.reads_wr (hv := show _ < 64 by omega)

/-- The REQ credits that the field end owes return. -/
theorem creditsToHost_spec (hs : s.canonical) (hst : s.scr.stalled = []) (hcred : s.rd .SCR_HCREDIT_REQ + s.scr.owed.getD 0 0 ≤ 32)
    (hmbx : s.rd .SCR_HCREDIT_MBX_TX = 16) (hlen : s.scr.owed.length = 6) :
    s.creditsToHost.reads .SCR_HCREDIT_REQ 0 (s.rd .SCR_HCREDIT_REQ + s.scr.owed.getD 0 0) ∧
    s.creditsToHost.scr.owed.getD 0 0 = 0 := by
  have hscr : s.regainCredits.scr = s.scr := regainCredits_scr s
  have hst1 : s.regainCredits.settleCredits.scr.stalled = [] := (congrArg Scrim.stalled hscr).trans hst
  have howed : s.regainCredits.settleCredits.scr.owed = (s.scr.owed.set 0 0).set 3 0 :=
    congrArg (fun x : Scrim => (x.owed.set 0 0).set 3 0) hscr
  rw [creditsToHost_of_room (by omega), hst1]
  refine ⟨((regainCredits_req hs hcred).put_scr _).put_scr _, ?_⟩
  show s.regainCredits.settleCredits.scr.owed.getD 0 0 = 0
  rw [howed]
  simp [hlen]

theorem scrimCreditReturn_spec (hs : s.canonical) (hup : s.rd .SCR_HSTATUS_FIELD_UP = 1)
    (hhost : s.rd .SCR_FSTATUS_HOST_UP = 0) : execScrimCreditReturn s = .next s.creditsToHost := by
  have hgo : s.is .SCR_HSTATUS_FIELD_UP = true := by simp [State.is, hup]
  have hstay := (creditsToHost_keeps s).reads ⟨hs, hhost⟩
  unfold execScrimCreditReturn
  rw [if_pos hgo]
  exact congrArg _ (if_neg (by rw [hstay.is]; decide))

/-! ### SCR_FW_IRQ (R391) -/

/-- While the host is absent a core's write of SCR_FW_IRQ is a remote access and no more. -/
theorem scrFwIrqWrite_absent (hs : s.canonical) (h : s.rd .SCR_FSTATUS_HOST_UP = 0) (q : CoreIx) (w : Word) :
    execScrFwIrqWrite q w s = .next (s.remote q) := by
  have habsent := (remote_keeps s q).reads ⟨hs, h⟩
  exact congrArg _ (if_neg (by rw [habsent.is]; decide))

end

/-- Settles O55: each clause is the lemma about its command; the loss of the link and its return go through what every step
leaves of Scrim's state and of the registers that show it. -/
theorem hostAccesses : Obligations.HostAccesses := by
  unfold Obligations.HostAccesses
  refine ⟨fun s off wide hs hoff hal hup hst hc => ?_, fun s off wide w hs hoff hal hup hst hc => ?_,
    fun s off wide write hs hoff hal hup hc => ?_, fun s off wide hs hoff hal hdown => ?_,
    fun s off wide write part hs hal hoff => ?_, fun s off wide w hs hoff hal hup => ?_,
    fun s o rest hs hp hhost hreq hc _ => ?_, fun s hs hhost => ?_, fun s w rest k ks hs hup hrsps hreads hk => ?_,
    fun s hs hreqs hreads hst => ?_, fun s hs hup => ?_, fun s hs hdown => ?_, fun s hs => ?_,
    fun s d hs hh hf hh8 hf8 => ?_, fun s hs hh => ?_, fun s x y hs hp hx hy => ?_,
    fun s hs hup hst hcred hmbx _ hlen hhost => ?_, fun s v es hs hevts hup hhost hc => ?_, fun s v hs hwf hv => ?_,
    fun s q w hs hhost => ?_⟩
  · obtain ⟨hreqs, hreads, hcred⟩ := hostAccess_sent hs hup hst hc (accessAt off wide none)
    exact ⟨_, execHostFieldAccess_of_aligned hoff hal none false s, hreqs, hreads, hcred⟩
  · obtain ⟨hreqs, hreads, -⟩ := hostAccess_sent hs hup hst hc (accessAt off wide (some w))
    refine ⟨_, execHostFieldAccess_of_aligned hoff hal (some w) false s, ?_, ?_, hreads⟩
    · rw [hreqs, List.length_append, reqsOf_length]
      rfl
    · rw [hreqs, List.drop_left]
      exact reqsOf_accessAt_head off wide w
  · refine ⟨_, execHostFieldAccess_of_aligned hoff hal write false s, ?_⟩
    rw [hostAccess_of_up hup, takeStalled_of_no_credit hc]
    exact ⟨List.length_append, rfl, rfl⟩
  · refine ⟨_, execHostFieldAccess_of_aligned hoff hal none false s, ?_⟩
    rw [hostAccess_of_down hdown]
    exact ⟨rfl, (hs.reads_bump.put_scr _).eq, absentAccess_scrShows (p := Scrim.reqs) rfl (fun _ _ => rfl) _⟩
  · exact ⟨_, execHostFieldAccess_of_unaligned hoff hal write part s, rfl, rfl, rfl⟩
  · refine ⟨_, execHostFieldAccess_of_aligned hoff hal (some w) true s, ?_⟩
    rw [hostAccess_of_masked hup rfl]
    exact ⟨hs.reads_bump.eq, (bump_keeps ..).scrShows (p := id) rfl⟩
  · exact ⟨_, congrArg Host.Outcome.next (if_pos (by simp [State.is, hp, hhost])), serveReq_spec hs hreq hc⟩
  · exact ⟨_, congrArg Host.Outcome.next (if_neg (by simp [State.is, hhost])), rfl⟩
  · exact scrimRsp_completes hup hrsps hreads hk
  · exact ⟨_, congrArg Host.Outcome.next (if_pos ⟨hreqs, hreads, hst⟩), rfl, rfl⟩
  · obtain ⟨hreads, hrest⟩ := Prod.mk.inj (fieldLost_scr hup)
    obtain ⟨hst, hreqs⟩ := Prod.mk.inj hrest
    exact ⟨_, rfl, (fieldLost_down hs).eq, hreads, hst, hreqs, fieldLost_cause hs hup⟩
  · exact ⟨_, rfl, fieldLost_of_down hdown⟩
  · exact ⟨_, rfl, (hs.reads_wr (f := .SCR_FSTATUS_HOST_UP) (v := 0)).eq, (clr_keeps ..).scrShows (p := id) rfl,
      (clr_keeps s .SCR_FSTATUS_HOST_UP 0).parts .bps (by decide +kernel)⟩
  · obtain ⟨hhost, hfield⟩ := Prod.mk.inj (showDrop_scr s d)
    exact ⟨_, congrArg Host.Outcome.next (laneDrop_stays d hh hf), hhost, hfield, (showDrop_lanes hs d hh8).trans hhost.symm,
      showDrop_cause hs d, (showDrop_up hs d).eq⟩
  · exact ⟨_, rfl, laneDrop_ends hs hh⟩
  · obtain ⟨hfield, hhost, hreq, hrsp⟩ := scrimSync_regs hs x.val y.val
    obtain ⟨hreqs, hrest⟩ := Prod.mk.inj (scrimSync_scr s x.val y.val)
    obtain ⟨hrsps, hrest⟩ := Prod.mk.inj hrest
    obtain ⟨hreads, hlanes⟩ := Prod.mk.inj hrest
    exact ⟨_, congrArg Host.Outcome.next (if_pos (by simp [hp, hx, hy])), hfield, hhost, hreq, hrsp, hreqs, hrsps, hreads, hlanes⟩
  · obtain ⟨hreq, howed⟩ := creditsToHost_spec hs hst hcred hmbx hlen
    exact ⟨_, scrimCreditReturn_spec hs hup hhost, hreq.eq, howed⟩
  · exact ⟨_, execEvtMessage_of_credit hevts hup hhost hc, sendEvt_spec hs es v⟩
  · exact ⟨_, rfl, msixWrite_unmasks hwf hv (by simp)⟩
  · refine ⟨_, scrFwIrqWrite_absent hs hhost q w, ?_⟩
    obtain ⟨c, hc⟩ := State.remote_eq_put_cnt s q
    rw [hc]
    exact ⟨rfl, rfl⟩

end Sys2Proof.Machine
end
